-- ==== Sys2Proof/Word.lean ====
section
/-! DEFINITION. The words of the block: bytes, 32-bit registers (R12) and the plain wide words. -/

namespace Sys2Proof

/-- A byte. -/
abbrev Byte := BitVec 8

/-- A register or a mailbox word (R12). -/
abbrev Word := BitVec 32

/-- A 64-bit count, such as the reckoning counter (R383). -/
abbrev Word64 := BitVec 64

end Sys2Proof
end

