-- ==== Sys2Proof/Syntax.lean ====
section
/-! DEFINITION. The commands of the block: one constructor of Instr per row of spec/opcode_table.json, with its operands. -/

namespace Sys2Proof

/-- A hub die: 0 is A, 1 is B (R15). -/
abbrev Hub := Fin 2
/-- An array die d (R15). -/
abbrev Die := Fin 32
/-- A board b of a die (R15). -/
abbrev Brd := Fin 192
/-- A frame f of a board (R15). -/
abbrev Frm := Fin 34
/-- A plane p of a frame (R15). -/
abbrev Pln := Fin 8
/-- A metrology or thermal unit: array dies 0-31, hub A 32, hub B 33 (R368, R403). -/
abbrev Unit34 := Fin 34

/-- Who issued a command: a Sprinmos session of a hub (R328), or the SMBus sideband (R364). -/
inductive Src where
  | session (h : Hub) (n : Fin 16)
  | sideband
deriving DecidableEq, Repr

/-- A command message as Porell reads it from a mailbox: the fields of the command word but for the opcode, which
the row fixes, and the words that follow it (R356). -/
structure Req where
  src : Src
  tag : Nat := 0
  nargs : Nat := 0
  resv : Nat := 0
  args : List Word := []
deriving DecidableEq, Repr

/-- The parties of R355 by their owner numbers. -/
inductive Party where
  | control | engine | management | security | sideband | peer | debug
deriving DecidableEq, Repr

/-- The owner number of R355. -/
def Party.num : Party → Nat
  | .control => 1 | .engine => 2 | .management => 3 | .security => 4 | .sideband => 5 | .peer => 6 | .debug => 7

/-- A Sprinmos message as it reaches a port: its form, its source endpoint and its bytes (R324, R325). -/
structure Rx where
  port : Hub
  udp : Bool := false
  mac : Nat := 0
  ip : Nat := 0
  uport : Nat := 0
  bytes : List Byte := []
deriving DecidableEq, Repr

/-- What a received Ethernet frame carries once its tag and MACsec protection are removed (R318-R324). -/
inductive EthKind where
  | mka
  | ptp (synced : Bool) (offset : Int)
  | arp (target : Nat)
  | icmp (dst : Nat)
  | fragment
  | udp (ip uport dport : Nat) (bytes : List Byte)
  | l2 (ethertype : Nat) (bytes : List Byte)
  | other
deriving DecidableEq, Repr

/-- A received Ethernet frame: its length in bytes, check sequence, VLAN tag, MACsec packet number and integrity, and
content. -/
structure EthFrame where
  port : Hub
  mac : Nat := 0
  len : Nat := 64
  fcsOk : Bool := true
  vid : Option Nat := none
  sec : Option (Nat × Bool) := none
  kind : EthKind
deriving DecidableEq, Repr

/-- The step context of R210. -/
structure StepCtx where
  job : Nat := 0
  step : Nat := 0
  bank : Bool := false
  seed : Nat := 0
  launch : Nat := 0
  valid : List Nat := []
  epoch : Nat := 0
  ctx : Nat := 0
  exact : Bool := false
  capture : Nat := 0
deriving DecidableEq, Repr

/-- The register a write names, and whether a board's sequencer makes it (R13, R124). -/
structure RegAt where
  addr : Nat
  seq : Bool := false
deriving DecidableEq, Repr

/-- A fabric packet: the header fields of R269 and the payload bytes (log entry 105). Of a multicast packet, whose header
names its set, `member` is the board a copy goes to (R274). `ecc` are the flit errors that the lanes of its way corrected
(R279); 0 in a packet as it is sent. -/
structure Pkt where
  type : Nat := 0
  vc : Nat := 0
  mc : Bool := false
  nflit : Nat := 0
  poison : Bool := false
  dstNode : Nat := 0
  dstBoard : Nat := 0
  srcNode : Nat := 0
  srcBoard : Nat := 0
  lsrc : Nat := 0
  epoch : Nat := 0
  q : Nat := 0
  job : Nat := 0
  step : Nat := 0
  ordinal : Nat := 0
  skind : Bool := false
  addr : Nat := 0
  hcrc : Nat := 0
  payload : List Byte := []
  member : Option Nat := none
  ecc : Nat := 0
deriving DecidableEq, Repr

/-- One end of a SerDes link: link n of a hub (beam 0-7, hub link 8), or port m of the L0 die of stack s (beam A,
beam B, ring out, ring in), as the blocks of R291 lie. -/
inductive LinkEnd where
  | hub (h : Hub) (n : Fin 9)
  | port (s : Fin 8) (m : Fin 4)
deriving DecidableEq, Repr

/-- A link frame as received (R280, R486): sequence, acknowledgement or NAK, credit returns by channel, flits with
their channels, and the through-hub sequence of a packet on a beam link. -/
structure LinkFrame where
  seq : Nat := 0
  ack : Nat := 0
  nak : Bool := false
  crcOk : Bool := true
  idle : Bool := false
  flits : List (Nat × List Byte) := []
  credits : List Nat := []
  through : Option Nat := none
deriving DecidableEq, Repr

/-- What an ECC-protected read finds. -/
inductive EccErr where
  | clean | corrected | uncorrectable
deriving DecidableEq, Repr

/-- The observations on a DRAM channel that count towards R306. -/
inductive ChanEv where
  | retrainFailed | uncorrectable
deriving DecidableEq, Repr

/-- What a measurement visit measures; a read-back with the three codes of its row driver (R121, R122, R427). -/
inductive Visit where
  | trims
  | gain (p : Pln)
  | readback (row : Fin 512) (hi mid lo : Int)
deriving DecidableEq, Repr

/-- The three steps of provisioning, with what the station delivers (R500). -/
inductive ProvStep where
  | identity
  | certificate (cert : List Byte)
  | station (ikey : List Byte) (cakA cakB : Option (List Byte))
deriving DecidableEq, Repr

/-- A dynamic dimension of the manifest (R260, R263). -/
structure Dim where
  q : Nat
  buckets : List Nat
  masked : Bool := false
deriving DecidableEq, Repr

/-- A pool buffer of the manifest (R253, R265, R298): its hub, size, whether the score writes it, and whether the
load granted it pool space. -/
structure Buf where
  hub : Hub
  size : Nat
  written : Bool := false
  cached : Bool := true
deriving DecidableEq, Repr

/-- A key/value page pool (R310). -/
structure KvPool where
  s4g64 : Bool
  d : Nat
  pages : Nat
  hub : Hub
deriving DecidableEq, Repr

/-- A stage header (R251) with the stage's logical boards. -/
structure StageHdr where
  stage : Nat
  boards : List Nat
  entry : Nat := 0
  flags : Nat := 0
  mode : Nat := 5
  slate : Nat := 0
  tslots : Nat := 0
  streams : Nat := 0
  carryIn : Nat := 0
  carryOut : Nat := 0
  gsize : Nat := 0
deriving DecidableEq, Repr

/-- A drive tensor the manifest declares on a board: where its codes lie in the slate, and its format code (R159, R238). -/
structure DriveTensor where
  lb : Nat
  at_ : Nat
  len : Nat
  fmt : Nat
deriving DecidableEq, Repr

/-- The manifest (R249, R253, R549). `inShape` and `outShape` give the dimensions of the input and the output from the
outermost on, as (size, dynamic dimension + 1, 0 for a fixed one); none at all for a tensor of fixed size. `inGroup` is the
group size code of an input in a drive format (R179). -/
structure Manifest where
  dims : List Dim := []
  pc : Nat := 0
  po : Nat := 0
  succ : List (List Nat) := []
  bufs : List Buf := []
  msets : List (List Nat) := []
  lboards : List (Nat × Nat) := []
  reserve : Nat := 1
  contexts : Nat := 1
  kv : List KvPool := []
  inFmt : Nat := 9
  inCode : Nat := 0
  inExp : Nat := 0
  inBuf : Nat := 0
  outFmt : Nat := 9
  outCode : Nat := 0
  outExp : Nat := 0
  outBuf : Nat := 0
  inShape : List (Nat × Nat) := []
  outShape : List (Nat × Nat) := []
  inGroup : Nat := 0
  maskBuf : Nat := 0
  drives : List DriveTensor := []
  persist : List (Nat × Nat × Nat) := []
deriving DecidableEq, Repr

/-- A frame-plane of the bead image: logical board, frame, plane, format code and packed plane image (R83, R249). -/
structure PlaneImg where
  lb : Nat
  frame : Nat
  plane : Nat
  fmt : Nat
  bytes : List Byte
deriving DecidableEq, Repr

/-- What a score gives one logical board: its instructions, register values by board offset, slate images and the
initial exponents of its streams by stream and group, and its VMM pool operands as
(instruction, buffer, offset in 64-byte units) (R249, R200, R298). -/
structure BoardImg where
  lb : Nat
  prog : List Nat
  regs : List (Nat × Word) := []
  slate : List (Nat × List Byte) := []
  init : List (Nat × Nat × Int) := []
  reloc : List (Nat × Nat × Nat) := []
deriving DecidableEq, Repr

/-- The decoded contents of a score file (R248, R249). -/
structure ScoreFile where
  man : Manifest := {}
  stages : List StageHdr := []
  boards : List BoardImg := []
  planes : List PlaneImg := []
deriving DecidableEq, Repr

/-- The commands of the block, in the order of spec/opcode_table.json. -/
inductive Instr where
  /-- R368: Command returning the revision, firmware release, serial and count of disabled frames. -/
  | devInfo (r : Req)
  /-- R368: Command returning the power state, hub liveness, SERVICE_EN and the reckoning count. -/
  | devState (r : Req)
  /-- R434: Command that begins the move to Ready, Drowsy or Dormant. -/
  | devPower (r : Req)
  /-- R368: Command that writes its audit entry, closes every session and restarts the module as from cold start. -/
  | devReset (r : Req)
  /-- R368: Command that applies a port's configuration, IPv4 address and Ethernet settings 1 ms after its RESPONSE is acknowledged. -/
  | devPort (r : Req)
  /-- R370: Command that selects the EVENT codes sent to the session. -/
  | devEvents (r : Req)
  /-- R254: Command that checks a score, claims its boards and programs its frames, or reloads a KEPT score. -/
  | scoreLoad (r : Req) (f : ScoreFile) (sig : Bool)
  /-- R373: Command that abandons a load in CHECKING or PROGRAMMING. -/
  | scoreAbort (r : Req)
  /-- R373: Command that retires a LOADED or KEPT score, returning its frames to SPARE and freeing its boards. -/
  | scoreRetire (r : Req)
  /-- R373: Command returning a score slot's state, id, boards, epoch and residency. -/
  | scoreInfo (r : Req)
  /-- R368: Command returning the bitmap of slots that are not EMPTY. -/
  | scoreList (r : Req)
  /-- R369: Command that creates a segmented object for a score file or firmware image. -/
  | beadOpen (r : Req)
  /-- R369: Command that frees an object's segments. -/
  | beadClose (r : Req)
  /-- R86: Command returning the header fields of one frame-plane. -/
  | beadPlane (r : Req)
  /-- R110: Command returning a die's counts of worn planes and retired frames. -/
  | beadWear (r : Req)
  /-- R547: Command returning the latest epoch, the kind of calibration set and its digest. -/
  | calStatus (r : Req)
  /-- R143: Command that sets one recount or spot-check setting. -/
  | calRecount (r : Req)
  /-- R145: Command that remeasures and overwrites the calibration set with an installer set. -/
  | calRecal (r : Req)
  /-- R147: Maker command that rewrites every item of the calibration set. -/
  | calFactory (r : Req)
  /-- R130: Command that measures a die's rod trims or plane gains and publishes them. -/
  | calMeasure (r : Req)
  /-- R333: Command that configures a ring's depth, weight, score and continuity class. -/
  | ringCfg (r : Req)
  /-- R334: Command that attaches a ring to the session and returns its initial credits. -/
  | ringAttach (r : Req)
  /-- R344: Command that detaches a ring, leaving its completions held on the ring. -/
  | ringDetach (r : Req)
  /-- R377: Command that stops admission on a ring and replies when no job of the ring is in flight. -/
  | ringPause (r : Req)
  /-- R377: Command that resumes admission on a ring. -/
  | ringResume (r : Req)
  /-- R200: Command that resets a ring's history contexts once no job of the ring is in flight. -/
  | ringHreset (r : Req)
  /-- R368: Command returning a ring's depth, held slots, jobs in flight and flags. -/
  | ringStat (r : Req)
  /-- R377: Command that unconfigures a ring between its jobs. -/
  | ringDelete (r : Req)
  /-- R339: Command that creates a tensor handle or an object. -/
  | jobHandle (r : Req)
  /-- R369: Command that frees a handle. -/
  | jobFree (r : Req)
  /-- R376: Command that cancels the jobs of a ring that carry a given tag. -/
  | jobCancel (r : Req)
  /-- R370: Command that sends bytes of a handle as DATA. -/
  | jobFetch (r : Req)
  /-- R311: Command that frees the pages of a key/value page map. -/
  | jobPagesFree (r : Req)
  /-- R390: Command that writes a ring's checkpoint into an object between its jobs. -/
  | jobCkpt (r : Req)
  /-- R391: Command that restores a paused ring from a checkpoint and re-accepts its queued descriptors. -/
  | jobRestore (r : Req)
  /-- R386: Command returning the time source, its lock and the offset estimate. -/
  | syncStat (r : Req)
  /-- R386: Command that sets the preferred time source and the drive of SYNC_OUT. -/
  | syncCfg (r : Req)
  /-- R368: Command returning the reckoning count. -/
  | syncNow (r : Req)
  /-- R419: Command returning the latest result of a metrology channel. -/
  | metRead (r : Req)
  /-- R414: Command that writes a user entry of a converter's sequencer table. -/
  | metSeq (r : Req)
  /-- R414: Command that writes a user window comparator. -/
  | metWin (r : Req)
  /-- R424: Command that self-calibrates a metrology unit. -/
  | metSelfcal (r : Req)
  /-- R419: Command that drains queue entries of a metrology unit to an object. -/
  | metDump (r : Req)
  /-- R446: Command returning the hottest reading, its unit, the throttle step and the count of bad sensors. -/
  | thmRead (r : Req)
  /-- R445: Command that sets the thermal thresholds and automatic restart. -/
  | thmPolicy (r : Req)
  /-- R444: Command that retires a temperature sensor. -/
  | thmRetire (r : Req)
  /-- R453: Command returning module power, VIN, VSB and token-wait time. -/
  | pwrRead (r : Req)
  /-- R434: Command that sets the idle times and the power cap. -/
  | pwrPolicy (r : Req)
  /-- R455: Command that sends ledger pages as DATA. -/
  | ldgRead (r : Req)
  /-- R455: Command that writes one ledger page. -/
  | ldgWrite (r : Req)
  /-- R463: Command that reads or increments a monotonic counter. -/
  | ldgCounter (r : Req)
  /-- R468: Command that opens a password-protected region to the session. -/
  | ldgUnlock (r : Req)
  /-- R468: Command that sets or removes a region password and clears its lock. -/
  | ldgPasswd (r : Req)
  /-- R469: Command that sends audit-log entries as DATA. -/
  | ldgAudit (r : Req)
  /-- R501: Command returning a challenge nonce for role authentication. -/
  | secChallenge (r : Req)
  /-- R502: Command that verifies a signed challenge and raises the session's role. -/
  | secAuth (r : Req) (sig : Bool)
  /-- R504: Command that returns the session to the operator role. -/
  | secDrop (r : Req)
  /-- R514: Command that installs a wrapped connectivity association key for a port. -/
  | secCak (r : Req) (opened : Option (List Byte))
  /-- R505: Command that replaces the installer key under a signature by the current key. -/
  | secIkey (r : Req) (sig : Bool)
  /-- R509: Command that writes a signed attestation report into an object. -/
  | secAttest (r : Req)
  /-- R491: Command that verifies a new Porell image and performs a live update. -/
  | secFw (r : Req) (sig : Bool)
  /-- R515: Maker command that locks or unlocks the debug port. -/
  | secDebug (r : Req)
  /-- R368: Command that sends event-log entries as DATA. -/
  | logRead (r : Req)
  /-- R368: Command that sends counter telemetry as DATA. -/
  | logTelem (r : Req)
  /-- R393: Command that sizes and enables the journal and selects capture recording. -/
  | logJournal (r : Req)
  /-- R396: Command that sends journal records as DATA. -/
  | logExport (r : Req)
  /-- R397: Command that replays a ring's journal records into a ring. -/
  | logReplay (r : Req)
  /-- R476: Command that sends the disabled-unit map in force. -/
  | svcMapRead (r : Req)
  /-- R476: Maker command that replaces the disabled-unit map from the next cold start. -/
  | svcMapEdit (r : Req)
  /-- R477: Command that starts the repair or migration of a frame or board. -/
  | svcRepair (r : Req)
  /-- R490: Command that hands hub A's rings and sessions to hub B, or returns them. -/
  | svcSwap (r : Req)
  /-- R368: Maker command that sets a thermal or power limit. -/
  | svcLimits (r : Req)
  /-- R360: A COMMAND message is checked, mirrored, acknowledged and placed in MB0. -/
  | sprinmosCommand (m : Rx)
  /-- R360: The protocol engine turns an MB0 acknowledgement or reply into a RESPONSE carrying the host's tag. -/
  | commandResponse (h : Hub)
  /-- R335: A RING_PUSH message is checked whole, and its descriptors are written to their rings and mirrored before the ACK. -/
  | ringPush (m : Rx)
  /-- R339: A DATA message from the host is checked and its bytes are written into a handle's part. -/
  | dataMessage (m : Rx)
  /-- R331: An ACK from the host releases acknowledged messages and returns credits for completed jobs. -/
  | hostAck (m : Rx)
  /-- R346: A NAK from the host is processed as a GAP request for retransmission, or counted and ignored. -/
  | hostNak (m : Rx)
  /-- R332: The oldest unacknowledged message is retransmitted with RETX at a doubling interval, and the session closes after eight sends. -/
  | retransmitTimeout (h : Hub) (n : Fin 16)
  /-- R332: A session with no valid message for 60 s closes. -/
  | sessionIdleTimeout (h : Hub) (n : Fin 16)
  /-- R347: A throttled session's 10 s throttle ends. -/
  | throttleExpiry (h : Hub) (n : Fin 16)
  /-- R321: A received Ethernet frame is filtered by VLAN and MACsec and passed to MKA, 802.1AS, ARP, ICMP or Sprinmos. -/
  | ethernetFrameRx (f : EthFrame)
  /-- R319: A port's link comes up or drops, and a drop is reported as EVENT LINK through the other port. -/
  | portLinkChange (h : Hub) (up : Bool) (speed : Fin 3)
  /-- R321: MKA installs a new secure association key hourly or when the packet number passes 2^62. -/
  | mkaRekey (h : Hub)
  /-- R322: After 1 s unsynchronised, the module switches its time source to the other port. -/
  | timePortFallback
  /-- R364: A sideband Block Write becomes one MB1 command message, with the doorbell rung at the stop condition. -/
  | smbusBlockWrite (adr : Fin 128) (pec : Bool) (bs : List Byte)
  /-- R364: A sideband Block Read returns the oldest unread reply message. -/
  | smbusBlockRead (adr : Fin 128) (pec : Bool)
  /-- R364: A sideband Read Byte returns the sideband status. -/
  | smbusReadByte (adr : Fin 128) (pec : Bool)
  /-- R364: Hub B's management domain takes the sideband address within 1 ms of hub A's failing. -/
  | sidebandFailover
  /-- R352: A word is appended to a mailbox send queue, or discarded with ovf or a lock error. -/
  | mbxTxdWrite (h : Hub) (n : Fin 8) (e : Fin 2) (p : Party) (w : Word)
  /-- R352: The doorbell sends the queued words as one message to the other end. -/
  | mbxDbRing (h : Hub) (n : Fin 8) (e : Fin 2) (p : Party)
  /-- R352: The doorbell flush discards the queued unsent words and clears ovf. -/
  | mbxDbFlush (h : Hub) (n : Fin 8) (e : Fin 2) (p : Party)
  /-- R353: A read removes and returns the oldest unread word of the received message. -/
  | mbxRxdRead (h : Hub) (n : Fin 8) (e : Fin 2)
  /-- R353: The receiver acknowledges a message, discarding unread words and posting the code to the sender. -/
  | mbxAckWrite (h : Hub) (n : Fin 8) (e : Fin 2) (w : Word)
  /-- R353: A read returns and clears the code of the last acknowledgement. -/
  | mbxAckinRead (h : Hub) (n : Fin 8) (e : Fin 2)
  /-- R355: A read of a shared end's lock obtains the lock or returns its owner. -/
  | mbxLockRead (h : Hub) (n : Fin 8) (e : Fin 2) (p : Party)
  /-- R355: The holder frees a shared end's lock. -/
  | mbxLockRelease (h : Hub) (n : Fin 8) (e : Fin 2) (p : Party)
  /-- R13: A write of 1 clears a mailbox interrupt status bit. -/
  | mbxIrqClear (h : Hub) (n : Fin 8) (e : Fin 2) (w : Word)
  /-- R354: A message to a powered-down end is delivered once its domain wakes. -/
  | mbxWakeDelivery (h : Hub) (n : Fin 8) (e : Fin 2)
  /-- R354: An MB4 message not acknowledged within 1 ms posts 0x0506. -/
  | mb4Timeout (h : Hub) (e : Fin 2)
  /-- R71: A write of go snapshots the frame's shadow registers and marks a commit pending. -/
  | frmCommit (d : Die) (b : Brd) (f : Frm)
  /-- R71: At the stroke boundary the frame applies the pending snapshot as one set, or refuses it with CONFIG. -/
  | commitApply (d : Die) (b : Brd) (f : Frm)
  /-- R67: Porell moves a repaired frame to IDLE. -/
  | frmCtlIdle (d : Die) (b : Brd) (f : Frm)
  /-- R67: Porell moves a frame to REPAIR, at once or at the end of the work in hand. -/
  | frmCtlRepair (d : Die) (b : Brd) (f : Frm)
  /-- R67: Porell moves a repaired frame to SPARE. -/
  | frmCtlSpare (d : Die) (b : Brd) (f : Frm)
  /-- R67: Porell retires a frame and it enters the disabled-unit map. -/
  | frmCtlRetire (d : Die) (b : Brd) (f : Frm)
  /-- R69: Porell clears a frame's raised fault. -/
  | frmCtlClearFault (d : Die) (b : Brd) (f : Frm)
  /-- R135: A write to ROD_TRIM or PLANE_GAIN changes the addressed bank, or is ignored and counted while the bank is held. -/
  | calRegisterWrite (d : Die) (b : Brd) (f : Frm) (k : Fin 280) (w : Word)
  /-- R105: A write of start begins programming a plane, or is refused or ignored. -/
  | frmPrgStart (d : Die) (b : Brd) (f : Frm)
  /-- R107: A write of abort stops programming at the end of the current iteration. -/
  | frmPrgAbort (d : Die) (b : Brd) (f : Frm)
  /-- R88: A write marks a target buffer full for the next row. -/
  | frmPrgFeed (d : Die) (b : Brd) (f : Frm) (w : Word)
  /-- R89: The programming engine programs and verifies one row once its targets and tokens are ready. -/
  | prgRow (d : Die) (b : Brd) (f : Frm)
  /-- R88: The engine writes the plane header and reads back the side store. -/
  | prgPlaneClose (d : Die) (b : Brd) (f : Frm) (ok : Bool)
  /-- R106: Programming paused at T2 resumes when every sensor of the die reads below T1. -/
  | prgThermalResume (d : Die)
  /-- R102: The power manager admits a waiting frame to programming. -/
  | prgGrant (d : Die) (b : Brd) (f : Frm)
  /-- R244: A write of run lets the sequencer start steps. -/
  | seqCtlRun (d : Die) (b : Brd)
  /-- R287: A write of halt stops further steps while running steps finish. -/
  | seqCtlHalt (d : Die) (b : Brd)
  /-- R242: A write of clear clears a raised board fault. -/
  | seqCtlClear (d : Die) (b : Brd)
  /-- R245: A read of a tally slot's low word latches its other fields into the high word. -/
  | tlySlotLoRead (d : Die) (b : Brd) (n : Fin 2048)
  /-- R226: A write to an activation table takes effect once no instruction using it is unfinished. -/
  | drnActWrite (d : Die) (b : Brd) (t : Fin 8) (k : Fin 256) (w : Word)
  /-- R73: A read of a read-to-clear counter register returns and clears it. -/
  | counterReadClear (a : Nat)
  /-- R13: A write to a register with no step of its own, by its access class. -/
  | registerWrite (a : RegAt) (w : Word)
  /-- R210: A step start with its context arrives at a board and is queued. -/
  | stepStart (d : Die) (b : Brd) (c : StepCtx)
  /-- R210: The sequencer begins the oldest queued step once the previous step's program has issued its END. -/
  | seqBeginStep (d : Die) (b : Brd)
  /-- R212: The sequencer issues the next instruction once the scoreboard allows. -/
  | instructionIssue (d : Die) (b : Brd)
  /-- R63: Tile instruction that forms drive levels and strokes a frame-plane into the tally. -/
  | stroke (d : Die) (b : Brd) (f : Frm) (ecc : Bool)
  /-- R438: A waiting draw receives its energy tokens and its work starts. -/
  | tokenGrant (d : Die)
  /-- R45: A stroke's codes and flags become available, are trimmed and checked, and go to the tally or to a re-stroke. -/
  | strokeEnd (d : Die) (b : Brd) (f : Frm) (conv : Bool)
  /-- R58: A part whose compared group fails is stroked again. -/
  | confidenceRestroke (d : Die) (b : Brd) (f : Frm)
  /-- R38: Rows with no further work ramp towards zero drive under the slew limiter. -/
  | rowRamp (d : Die) (b : Brd) (f : Frm)
  /-- R233: The vector unit computes a stroke part digitally from the resident bead image. -/
  | exactLanePart (d : Die) (b : Brd)
  /-- R238: Tile instruction that selects a frame's plane ahead of time. -/
  | psel (d : Die) (b : Brd) (f : Frm)
  /-- R218: Tile instruction that zeroes tally slots and empties their tags. -/
  | tclr (d : Die) (b : Brd)
  /-- R218: Tile instruction that copies tally slots to the slate as T40 or INT32. -/
  | trd (d : Die) (b : Brd)
  /-- R222: Tile instruction that passes tally slots through the eight drain stages. -/
  | drain (d : Die) (b : Brd) (ecc : Bool)
  /-- R229: Tile instruction that forms a matrix product tile in the vector unit. -/
  | vmm (d : Die) (b : Brd) (ecc : Bool)
  /-- R230: Tile instruction that applies a vector function to rows. -/
  | vop (d : Die) (b : Brd) (ecc : Bool)
  /-- R219: Tile instruction that sends tally slots as carries. -/
  | csend (d : Die) (b : Brd)
  /-- R219: Tile instruction that finishes once the tally has accepted its carries. -/
  | crecv (d : Die) (b : Brd)
  /-- R553: Tile instruction that moves bytes between the slate and a manifest buffer. -/
  | move (d : Die) (b : Brd) (ecc : Bool)
  /-- R239: Tile instruction that holds issue until a reckoning count. -/
  | waitrk (d : Die) (b : Brd)
  /-- R385: Issue is released once the die's counter reaches the WAITRK target. -/
  | waitrkRelease (d : Die) (b : Brd)
  /-- R239: Tile instruction that forwards the step start to the successor stages. -/
  | step (d : Die) (b : Brd)
  /-- R396: Tile instruction that records or substitutes codes, slots or bytes in the journal. -/
  | capt (d : Die) (b : Brd)
  /-- R239: Tile instruction that jumps back a number of times. -/
  | loop (d : Die) (b : Brd)
  /-- R239: Tile instruction that ends the step's program on the board. -/
  | endProg (d : Die) (b : Brd)
  /-- R242: Porell cancels a failed job on every board, which discards its instructions at the next boundary. -/
  | jobFailureCancel (j : Nat)
  /-- R241: No instruction of a step finishes within the watchdog limit. -/
  | watchdogExpiry (d : Die) (b : Brd)
  /-- R243: After a double-bit error the sequencer fetches the instruction again from DRAM. -/
  | scoreRefetch (d : Die) (b : Brd)
  /-- R284: An arriving CARRY is tested for epoch and duplication and added when its CRECV covers it. -/
  | carryPacket (p : Pkt)
  /-- R284: A carry held for a full key store is processed once an entry frees. -/
  | carryRetry (d : Die) (b : Brd)
  /-- R283: An arriving stroke carry is tested and its values and counts are added to the tally. -/
  | scarryPacket (p : Pkt)
  /-- R283: A forwarded stroke is performed on the host board, which returns an SCARRY. -/
  | sfwdPacket (p : Pkt)
  /-- R286: An arriving ACT packet is tested and written to the slate. -/
  | actPacket (p : Pkt)
  /-- R296: A memory read is served from a pool or DRAM. -/
  | memRdPacket (p : Pkt) (a : Nat) (n : Nat)
  /-- R296: A memory write is tested and applied to a pool or DRAM and acknowledged. -/
  | memWrPacket (p : Pkt) (a : Nat)
  /-- R305: A memory response delivers data to its requester, poisoned where uncorrectable. -/
  | memRspPacket (p : Pkt)
  /-- R199: An amax exchange between the boards of a whole-tensor stream. -/
  | amaxPacket (p : Pkt)
  /-- R286: A switch record is written at a receiver and acknowledged. -/
  | switchPacket (p : Pkt)
  /-- R317: A register access by Porell over the control channel. -/
  | regPacket (p : Pkt) (wr : Bool) (a : Nat)
  /-- R287: An acknowledgement packet arrives at its waiting sender. -/
  | ackPacket (p : Pkt)
  /-- R270: A packet of reserved type or unroutable destination is discarded and counted. -/
  | reservedPacket (p : Pkt)
  /-- R290: A poisoned packet is not used and its job fails. -/
  | poisonPacket (p : Pkt) (lane : Fin 4)
  /-- R280: A SerDes link frame is checked, acknowledged or NAKed, and its flits and credits taken. -/
  | linkFrameRx (l : LinkEnd) (fr : LinkFrame)
  /-- R280: A link with no data sends an idle frame at least every 1 µs. -/
  | linkIdleFrame (l : LinkEnd)
  /-- R280: A link retrains after four failed replays or on request. -/
  | linkRetrain (l : LinkEnd)
  /-- R277: A retrain ends and the credit counts are checked before traffic resumes. -/
  | linkRetrainDone (l : LinkEnd) (ok : Bool) (agree : Bool)
  /-- R280: No valid frame for 16 µs declares the link down. -/
  | linkSilenceTimeout (l : LinkEnd)
  /-- R281: A link declared down re-injects its unacknowledged frames on a new route. -/
  | linkDown (l : LinkEnd)
  /-- R275: Porell rewrites the route tables and releases held packets once the retry buffers have drained. -/
  | routeFenceComplete (l : LinkEnd)
  /-- R280: A write of retrain makes a SerDes link retrain. -/
  | beamCtlRetrain (l : LinkEnd)
  /-- R281: A write of down declares a SerDes link down. -/
  | beamCtlDown (l : LinkEnd)
  /-- R271: A die's routers switch together to the other routing order when its lanes are idle. -/
  | laneRoutingSwitch (d : Die)
  /-- R287: Porell moves a logical board to a new board while steps continue. -/
  | overlappedBoardSwitch (slot : Fin 64) (lb : Nat) (d : Die) (b : Brd)
  /-- R288: Porell moves a logical board after draining it, or replaces a failed board with a new epoch. -/
  | fencedBoardSwitch (slot : Fin 64) (lb : Nat) (d : Die) (b : Brd) (failed : Bool)
  /-- R286: Porell removes switch records once the old routes are fenced and the wait has passed. -/
  | switchRecordRemoval (slot : Fin 64) (lb : Nat)
  /-- R287: Histories and persistent slates are copied to the new board after the old board's last step has ended. -/
  | historyCopy (slot : Fin 64) (lb : Nat)
  /-- R293: The scrub reads every slate word once each 10 s. -/
  | slateScrub (d : Die) (b : Brd) (wi : Fin 16384) (e : EccErr)
  /-- R306: The patrol scrub reads every usable DRAM block once each 24 h. -/
  | dramPatrolScrub (h : Hub) (blk : Nat) (e : EccErr)
  /-- R302: Each DRAM package's temperature is polled every 10 ms and sets the refresh rate. -/
  | dramMr4Poll (k : Fin 8) (rate : Fin 32) (beyond : Bool)
  /-- R302: The hub issues refresh and refresh management. -/
  | dramRefresh (h : Hub) (c : Fin 16)
  /-- R306: A channel is failed after two failed retrains or too many uncorrectable blocks. -/
  | dramChannelFail (h : Hub) (c : Fin 16) (ev : ChanEv)
  /-- R313: A returning mirror copy completes and the ring regains mirrored status. -/
  | mirrorResyncDone (g : Fin 4096)
  /-- R337: The ring engine checks a descriptor, stages its inputs and admits it. -/
  | ringAdmission (h : Hub)
  /-- R385: The ring engine issues a job's first step start, at its launch count if LAUNCH_AT is set. -/
  | jobLaunch (j : Nat)
  /-- R260: The ring engine issues the next step start of a job to its first stage. -/
  | stepStartIssue (j : Nat)
  /-- R132: A job with no calibration boundary for 2 s gets one at its next step boundary. -/
  | calForcedTimeout (j : Nat)
  /-- R343: A STREAM job sends a completion at an output point. -/
  | intermediateCompletion (j : Nat)
  /-- R344: The ring engine forms and sends a job's one final completion after its result DATA. -/
  | finalCompletion (j : Nat)
  /-- R398: A journaled descriptor is injected at its relative count during a replay. -/
  | replayInject (g : Fin 4096)
  /-- R136: A recount visit reads a plane row by row and classifies its beads in an idle gap. -/
  | recountVisit (d : Die) (b : Brd) (f : Frm) (p : Pln)
  /-- R139: A marked or damaged placed frame is refreshed by migration to a spare. -/
  | refreshMigration (d : Die) (b : Brd) (f : Frm)
  /-- R128: Porell measures a frame's rod trims or a plane's gain on a trigger of R126. -/
  | measurementVisit (d : Die) (b : Brd) (f : Frm) (k : Visit)
  /-- R130: Porell publishes new corrections for a score as a new epoch. -/
  | calPublication (slot : Fin 64)
  /-- R418: A metrology conversion ends and its corrected result is queued, latched and compared with the windows. -/
  | metConversionEnd (u : Unit34) (n : Fin 4) (raw : Fin 16777216) (ovr : Option Bool)
  /-- R412: A sequencer entry's delay ends and the converter selects its channel. -/
  | metEntryDelayEnd (u : Unit34) (n : Fin 4)
  /-- R415: The trigger fires at its target count and armed converters begin. -/
  | metTrigger (u : Unit34)
  /-- R416: A SYNC_IN edge or a fire write sets the trigger target 10 µs ahead. -/
  | metExternalEvent (fire : Bool)
  /-- R421: A write issues an urgent conversion that preempts the converter. -/
  | metUrgentRequest (u : Unit34) (n : Fin 4) (w : Word)
  /-- R424: A write of selfcal starts self-calibration of all four converters. -/
  | metCmdSelfcal (u : Unit34)
  /-- R424: Self-calibration ends, sets the factors or fails a converter, and sequences resume. -/
  | metSelfcalDone (u : Unit34) (meas : List (Int×Int))
  /-- R419: A write of flush empties the result queue. -/
  | metCmdFlush (u : Unit34)
  /-- R419: A read removes the oldest queue word and latches its high half. -/
  | metQRead (u : Unit34)
  /-- R412: A write starts or stops converters' sequencer tables. -/
  | metCtlWrite (u : Unit34) (w : Word)
  /-- R423: A powered-down converter wakes 20 µs before its next selection. -/
  | metConverterWake (u : Unit34) (n : Fin 4)
  /-- R427: A probe selection takes effect at the next conversion of channel 32. -/
  | metProbeWrite (u : Unit34) (w : Word)
  /-- R426: A write sets the calibration current source, ignored while it is held. -/
  | metIsrcWrite (u : Unit34) (w : Word)
  /-- R420: A write of 1 clears a window's departure bit. -/
  | metWinStatClear (u : Unit34) (w : Word)
  /-- R442: Porell takes a sensor result, judges it broken or valid and updates the throttle step and interval. -/
  | thermalSample (u : Unit34) (k : Fin 24)
  /-- R446: A unit's step falls after 100 ms at least 2 °C below its threshold. -/
  | throttleStepFall (u : Unit34)
  /-- R442: The sampling interval lengthens after 1 s of samples that call for it. -/
  | sampleIntervalRise (u : Unit34)
  /-- R448: A trip comparator asserted for 2 µs cuts the array rails and latches the trip. -/
  | thermalTrip (u : Unit34) (k : Fin 24)
  /-- R449: The module restarts from Stopping after 10 s below 85 °C. -/
  | autoRestart
  /-- R437: Every 1,000 rk the power manager refills each die's token pool. -/
  | tokenTick
  /-- R439: Once per second Porell checks each die's token totals balance. -/
  | tokenBalanceCheck
  /-- R440: VIN current above the cap for 10 µs halves the token budget until it falls. -/
  | vinOvercurrent (above : Bool)
  /-- R432: VIN between 10.5 V and 10.8 V starts a brown-out. -/
  | brownOut (mv : Nat)
  /-- R432: A brown-out beyond 1 ms halves the token budget and sends EVENT POWER_STATE. -/
  | brownOut1ms
  /-- R432: A brown-out of 100 ms acts as PWR_FAIL_N and brings the module to Dormant. -/
  | brownOut100ms
  /-- R431: VIN or VSB below limit, or VIN above 14 V, cuts the VIN rails and the module enters Off. -/
  | supplyLoss (vin : Nat) (vsb : Nat)
  /-- R543: VSB above 3.6 V for 10 µs stops ledger writes until it is back in range. -/
  | vsbHigh (mv : Nat)
  /-- R450: PWR_FAIL_N asserts: cancel, stop programming, save and power the array dies down. -/
  | pwrFailNAssert
  /-- R450: PWR_FAIL_N deasserts with VIN in range and the module waits in Dormant. -/
  | pwrFailNDeassert
  /-- R519: RESET_N held low resets every VIN domain, and a cold start follows its rise. -/
  | resetNLow (ns : Nat)
  /-- R436: A rising edge on WAKE is a wake event. -/
  | wakeEdge
  /-- R516: SERVICE_EN changes after its filter, and deassertion drops maker roles and locks debug. -/
  | serviceEnChange (level : Bool)
  /-- R540: A REFCLK_IN in use stops and hub A switches to its own reference. -/
  | refclkLoss
  /-- R434: An idle module enters Drowsy after its idle time. -/
  | idleToDrowsy
  /-- R434: An idle module enters Dormant after its idle time. -/
  | idleToDormant
  /-- R435: Entry to Drowsy completes once no board has an unfinished instruction. -/
  | drowsyEntry
  /-- R435: Entry to Dormant completes after running steps end, programming finishes and state is saved. -/
  | dormantEntry
  /-- R436: A wake event in Dormant runs the 60 ms wake to Ready. -/
  | wakeFromDormant
  /-- R436: A wake event in Drowsy runs the 50 µs wake to Ready. -/
  | wakeFromDrowsy
  /-- R436: A recount visit more than 1 h overdue wakes the module. -/
  | overdueRecountWake
  /-- R458: The queued page write at the head passes its checks and is written to both copies and committed. -/
  | ledgerPageWrite
  /-- R463: A counter cell is set, folding the base when all cells are set. -/
  | ledgerCounterIncrement (k : Fin 64)
  /-- R460: The first read of a page after a start decides its committed contents and repairs the copies. -/
  | ledgerPageResolve (pg : Fin 1024)
  /-- R464: The first read of a counter after a start decides its disagreeing cells. -/
  | ledgerCounterResolve (k : Fin 64)
  /-- R466: A margin pass reads every slot and cell at shifted references and rewrites weak ones. -/
  | ledgerMarginPass (slots : List Nat) (cells : List Nat)
  /-- R461: A ledger copy leaves service and the survivor writes alone. -/
  | ledgerCopyLost (h : Hub)
  /-- R461: A returning ledger copy is rewritten from the survivor before it serves. -/
  | ledgerCopyReturn (h : Hub)
  /-- R470: The ledger becomes ready 5 ms after VSB rises. -/
  | ledgerReady
  /-- R484: Each hub sends a heartbeat on three paths every 100 µs. -/
  | heartbeatSend (h : Hub)
  /-- R484: A path without a heartbeat for 300 µs counts as missed, and three misses declare the peer failed. -/
  | heartbeatMiss (h : Hub) (path : Fin 3)
  /-- R486: Port boards re-send unacknowledged through-hub packets after a takeover. -/
  | heldPacketResend (h : Hub)
  /-- R489: About 1 s after a takeover the survivor restarts the failed hub once. -/
  | hubRestart (h : Hub) (sig : Bool)
  /-- R477: Porell covers a faulty frame, programs a replacement and switches its placement. -/
  | frameRepair (d : Die) (b : Brd) (f : Frm)
  /-- R481: Porell fails a board, cancels its score's jobs and moves the logical board to a reserve board. -/
  | boardRepair (d : Die) (b : Brd)
  /-- R482: An array die is lost and its scores' jobs fail. -/
  | dieLoss (d : Die)
  /-- R520: At t = 0 the cold-start sequence ramps the hub rails and begins bring-up. -/
  | coldStart (vin : Nat) (vsb : Nat) (refclk : Bool)
  /-- R507: The boot ROM checks the current firmware slot, falls back if it must, and boots Porell. -/
  | secureBoot (h : Hub) (sig0 : Bool) (sig1 : Bool)
  /-- R307: A hub finishes writing its DRAM with zeros and valid codes. -/
  | dramZeroDone (h : Hub)
  /-- R522: Hub A fixes crossing latencies and loads every die's copy of the counter. -/
  | resetHandshake (d : Die) (skew : Nat)
  /-- R383: The counter is set once from a locked source before Ready. -/
  | reckoningSet (t : Nat)
  /-- R386: A SYNC_IN edge corrects the counter's rate, or is ignored as a slip. -/
  | syncInEdge
  /-- R386: SYNC_IN edges stop for 10 ms and the module falls back to 802.1AS. -/
  | syncInLoss
  /-- R383: A read of the counter's low word latches its high word. -/
  | rkCntLoRead (h : Hub)
  /-- R523: Each array die zeroes its boards, reads plane headers, trains links and self-calibrates metrology. -/
  | arrayWake (d : Die)
  /-- R524: Porell measures the calibration source and the rod trims of every frame of a die. -/
  | trimPass (d : Die)
  /-- R525: The plane-gain pass of a die starts once its temperature settles or after 3,500 ms. -/
  | planeGainPass (d : Die)
  /-- R527: Porell applies the map, writes tables, resets histories and publishes epochs for KEPT scores. -/
  | mapAndScores
  /-- R528: The module enters Ready once its conditions hold. -/
  | ready
  /-- R515: A maker authentication at the security test access port unlocks debug. -/
  | securityTapAuth (sig : Bool)
  /-- R364: A read of the SMBus Alert Response Address is answered with the sideband's own address. -/
  | smbusAlertResponse
  /-- R386: With sync_out set, the module raises SYNC_OUT each time its counter's bits [19:0] pass 0 and holds it high for 1,024 rk. -/
  | syncOutEdge
  /-- R432: VIN back at or above 10.8 V for 1 ms ends a brown-out, restores B and cancels the 100 ms timer. -/
  | brownOutEnd
  /-- R443: A sensor whose latest result is older than 4 times its interval is judged broken and reads as T3. -/
  | staleSensor (u : Unit34) (k : Fin 24)
  /-- R368: DEV_PORT's new port, Ethernet and IPv4 settings take effect 1 ms after its RESPONSE is acknowledged. -/
  | portConfigApply (h : Hub)
  /-- R500: At the security test access port, the security processor generates and seals the identity and key-encapsulation keys, and the station writes the certificate, installer key and CAKs. -/
  | provisioning (step : ProvStep)
deriving DecidableEq, Repr

end Sys2Proof
end

