-- ==== Sys2Proof/Config.lean ====
section
/-! DEFINITION. The free values: what the spec leaves to the analogue arrays, to secret keys and random sources, or to
the implementation. None has a body, so nothing can be proved of a value (log entries 4 and 13). -/

namespace Sys2Proof.Config

/-- The departure of a rod's true input from its nominal transfer, in codes, by index (R41, R115). -/
opaque rodError : Nat → Int

/-- The converter noise of a rod code, by index (R41). -/
opaque rodNoise : Nat → Int

/-- A verify or recount reading of a bead, in codes, by index (R75, R89, R136). -/
opaque beadRead : Nat → Int

/-- The reading of a bead after a programming pulse (set or reset, amplitude in 10 mV, width in rk), by index (R89). -/
opaque pulsedRead : Nat → Bool → Nat → Nat → Int

/-- The raw code of a rod converter on the calibration current source, by index (R121). -/
opaque sourceCode : Nat → Int

/-- The raw code of channel 33 with the calibration current source on it, by index (R426). -/
opaque sourceRead : Nat → Int

/-- The tokens a single-row read of a recount visit draws (R26, R136). -/
opaque recountCharge : Nat

/-- The random input codes of a spot check, by frame address, visit count, stroke and row (R142). -/
opaque spotInput : Nat → Nat → Nat → Nat → Nat

/-- A bit the hardware may set either way, by index. -/
opaque freeBit : Nat → Bool

/-- A number the spec leaves open: a first sequence number (R328), an estimate in ms (R360), an energy, by index. -/
opaque freeNat : Nat → Nat

/-- A 128-bit challenge nonce from the security processor's random source, by index (R501). -/
opaque nonce : Nat → Nat

/-- A public key the security processor generates, by index (R500). -/
opaque publicKey : Nat → List Byte

/-- A secret key sealed beside it, by index (R500). -/
opaque privateKey : Nat → List Byte

/-- The ML-DSA-87 signature by the device identity key over a message (R509). -/
opaque identitySign : List Byte → List Byte

/-- AES-256-GCM sealing of a region 6 page under the module sealing key and a nonce (R499). -/
opaque sealPage : List Byte → List Byte → List Byte

/-- Opening of such a page: none where the tag fails (R499). -/
opaque openPage : List Byte → List Byte → Option (List Byte)

/-- A connectivity association's next key, by index (R321). -/
opaque sak : Nat → Nat

/-- The calibration set a depot's reference data gives, by its bytes (R147). -/
opaque factorySet : List Byte → List Byte

/-- A value of the calibration set that CAL_RECAL measures, by index (R145). -/
opaque recalBytes : Nat → List Byte

end Sys2Proof.Config
end

