-- ==== Sys2Proof/Machine/Bits.lean ====
section
/-! DEFINITION. Bit fields of registers, little-endian bytes (R9), bitmaps, and the sparse map in one canonical
form that holds memory, registers and units by key. -/

namespace Sys2Proof.Machine

/-- Bits [lo + len - 1 : lo] of a number. -/
def nfld (n lo len : Nat) : Nat := (n / 2 ^ lo) % 2 ^ len

/-- Bits [lo + len - 1 : lo] of a word. -/
def fld (w : Word) (lo len : Nat) : Nat := nfld w.toNat lo len

/-- One bit of a word. -/
def bit (w : Word) (n : Nat) : Bool := w.getLsbD n

/-- `n` read as a two's complement number of `bits` bits (R9). -/
def signed (bits n : Nat) : Int :=
  if n % 2 ^ bits < 2 ^ (bits - 1) then (n % 2 ^ bits : Nat) else (n % 2 ^ bits : Nat) - (2 ^ bits : Nat)

/-- The two's complement pattern of `i` in `bits` bits. -/
def pattern (bits : Nat) (i : Int) : Nat := (i % (2 ^ bits : Nat)).toNat

/-- A signed field of a word. -/
def sfld (w : Word) (lo len : Nat) : Int := signed len (fld w lo len)

/-- Bits [lo + len - 1 : lo] of `n` replaced by `v`. -/
def nput (n lo len v : Nat) : Nat :=
  n - nfld n lo len * 2 ^ lo + (v % 2 ^ len) * 2 ^ lo

/-- The field [lo + len - 1 : lo] of a word replaced by `v`. -/
def put (w : Word) (lo len v : Nat) : Word := BitVec.ofNat 32 (nput w.toNat lo len v)

/-- One bit of a word set to `b`. -/
def putBit (w : Word) (n : Nat) (b : Bool) : Word :=
  if b then w ||| BitVec.ofNat 32 (2 ^ n) else w &&& ~~~ BitVec.ofNat 32 (2 ^ n)

/-- A Bool as a bit. -/
def b2n (b : Bool) : Nat := if b then 1 else 0

/-- The little-endian bytes of `v`, `n` of them (R9). -/
def leBytes : Nat → Nat → List Byte
  | 0, _ => []
  | n + 1, v => BitVec.ofNat 8 v :: leBytes n (v / 256)

/-- The number that little-endian bytes spell (R9). -/
def leNat : List Byte → Nat
  | [] => 0
  | b :: bs => b.toNat + 256 * leNat bs

/-- `n` items of a list from item `k` on. -/
def slice {α : Type} (l : List α) (k n : Nat) : List α := (l.drop k).take n

/-- The little-endian number in bytes k … k + n - 1 of a list. -/
def leAt (l : List Byte) (k n : Nat) : Nat := leNat (slice l k n)

/-- A list cut or filled with `d` to length `n`. -/
def padTo {α : Type} (d : α) (n : Nat) (l : List α) : List α := (l ++ List.replicate n d).take n

/-- The list with item `i` replaced. -/
def setAt {α : Type} (l : List α) (i : Nat) (v : α) : List α := l.set i v

/-- The bytes of `l` with those from `k` on replaced by `bs`. -/
def patch (l : List Byte) (k : Nat) (bs : List Byte) : List Byte :=
  l.take k ++ bs ++ l.drop (k + bs.length)

/-- Bytes as 32-bit words, least significant byte first. -/
def bytesToWords : List Byte → List Word
  | a :: b :: c :: d :: r => BitVec.ofNat 32 (leNat [a, b, c, d]) :: bytesToWords r
  | [] => []
  | l => [BitVec.ofNat 32 (leNat l)]

/-- Words as little-endian bytes. -/
def wordsToBytes (ws : List Word) : List Byte := ws.flatMap fun w => leBytes 4 w.toNat

/-- A count that holds at its largest value (R73, R341). -/
def hold (cap n : Nat) : Nat := min cap n

/-- Sum of a list of integers. -/
def isum (l : List Int) : Int := l.foldl (· + ·) 0

/-- Sum of a list of numbers. -/
def nsum (l : List Nat) : Nat := l.foldl (· + ·) 0

/-- Ceiling of a quotient. -/
def cdiv (a b : Nat) : Nat := (a + b - 1) / b

/-- A sparse map: what it does not list reads as the key's default. -/
abbrev SMap (β : Type) := List (Nat × β)

/-- What the map holds at key `k`, `d` where it lists none. -/
def mget {β : Type} (d : β) : SMap β → Nat → β
  | [], _ => d
  | (a, v) :: m, k => if a = k then v else mget d m k

/-- The map without key `k`. -/
def mdel {β : Type} : SMap β → Nat → SMap β
  | [], _ => []
  | (a, v) :: m, k => if a = k then mdel m k else (a, v) :: mdel m k

/-- The map with `v` at key `k`, kept in rising order of keys. -/
def mins {β : Type} : SMap β → Nat → β → SMap β
  | [], k, v => [(k, v)]
  | (a, w) :: m, k, v =>
    if k < a then (k, v) :: (a, w) :: m else if a = k then (k, v) :: m else (a, w) :: mins m k v

/-- The canonical write: writing the default `d` of the key removes the entry. -/
def mput {β : Type} [DecidableEq β] (d : β) (m : SMap β) (k : Nat) (v : β) : SMap β :=
  if v = d then mdel m k else mins m k v

/-- Keys strictly rising, each above `lo`. -/
def mrising {β : Type} : Nat → SMap β → Bool
  | _, [] => true
  | lo, (a, _) :: m => decide (lo ≤ a) && mrising (a + 1) m

/-- The canonical form: keys strictly rising and no entry equal to the default of its key. -/
def mwf {β : Type} [DecidableEq β] (d : Nat → β) (m : SMap β) : Bool :=
  mrising 0 m && m.all fun e => decide (e.2 ≠ d e.1)

end Sys2Proof.Machine
end

