-- ==== Sys2Proof/Machine/Crypto.lean ====
section
/-! DEFINITION. The digests and generators the spec names by public algorithm: CRC-32C (R269, R325, R456), SHA3-512
(FIPS 202; R248, R390, R498) and Philox-4x32-10 (R388). -/

namespace Sys2Proof.Machine

/-- One bit of the reflected CRC-32C division. -/
def crcBit (c : BitVec 32) : BitVec 32 :=
  if c.getLsbD 0 then (c >>> 1) ^^^ 0x82F63B78#32 else c >>> 1

/-- One byte of CRC-32C. -/
def crcByte (c : BitVec 32) (b : Byte) : BitVec 32 :=
  crcBit (crcBit (crcBit (crcBit (crcBit (crcBit (crcBit (crcBit (c ^^^ b.zeroExtend 32))))))))

/-- CRC-32C of a byte sequence. -/
def crc32c (bs : List Byte) : Nat := (bs.foldl crcByte 0xFFFFFFFF#32 ^^^ 0xFFFFFFFF#32).toNat

/-- The rotation offsets of Keccak, lane x + 5 y. -/
def keccakRot : List Nat :=
  [0, 1, 62, 28, 27, 36, 44, 6, 55, 20, 3, 10, 43, 25, 39, 41, 45, 15, 21, 8, 18, 2, 61, 56, 14]

/-- The round constants of Keccak-f[1600]. -/
def keccakRc : List (BitVec 64) :=
  [0x0000000000000001, 0x0000000000008082, 0x800000000000808A, 0x8000000080008000,
   0x000000000000808B, 0x0000000080000001, 0x8000000080008081, 0x8000000000008009,
   0x000000000000008A, 0x0000000000000088, 0x0000000080008009, 0x000000008000000A] ++
  [0x000000008000808B, 0x800000000000008B, 0x8000000000008089, 0x8000000000008003,
   0x8000000000008002, 0x8000000000000080, 0x000000000000800A, 0x800000008000000A,
   0x8000000080008081, 0x8000000000008080, 0x0000000080000001, 0x8000000080008008]

/-- Lane x, y of a Keccak state. -/
def lane (a : List (BitVec 64)) (x y : Nat) : BitVec 64 := a.getD (x % 5 + 5 * (y % 5)) 0

/-- One round of Keccak-f[1600] (FIPS 202). -/
def keccakRound (a : List (BitVec 64)) (rc : BitVec 64) : List (BitVec 64) :=
  let c := (List.range 5).map fun x => lane a x 0 ^^^ lane a x 1 ^^^ lane a x 2 ^^^ lane a x 3 ^^^ lane a x 4
  let d := (List.range 5).map fun x => c.getD ((x + 4) % 5) 0 ^^^ (c.getD ((x + 1) % 5) 0).rotateLeft 1
  let t := (List.range 25).map fun i => (a.getD i 0 ^^^ d.getD (i % 5) 0).rotateLeft (keccakRot.getD i 0)
  -- ρ and π: lane (x, y) of the result comes from lane (x + 3y, x)
  let b := (List.range 25).map fun i => lane t (i % 5 + 3 * (i / 5)) (i % 5)
  let e := (List.range 25).map fun i =>
    lane b (i % 5) (i / 5) ^^^ (~~~ lane b (i % 5 + 1) (i / 5) &&& lane b (i % 5 + 2) (i / 5))
  match e with
  | h :: r => (h ^^^ rc) :: r
  | [] => []

/-- Keccak-f[1600]. -/
def keccakF (a : List (BitVec 64)) : List (BitVec 64) := keccakRc.foldl keccakRound a

/-- Absorb a padded message of 72-byte blocks. -/
def absorb : Nat → List Byte → List (BitVec 64) → List (BitVec 64)
  | 0, _, a => a
  | n + 1, m, a =>
    let a := (List.range 25).map fun i =>
      if i < 9 then a.getD i 0 ^^^ BitVec.ofNat 64 (leAt m (8 * i) 8) else a.getD i 0
    absorb n (m.drop 72) (keccakF a)

/-- SHA3-512 (FIPS 202): 64 bytes. -/
def sha3 (m : List Byte) : List Byte :=
  let n := m.length / 72 + 1
  let k := 72 * n - m.length
  let pad : List Byte := if k = 1 then [0x86] else 0x06 :: List.replicate (k - 2) 0 ++ [0x80]
  ((absorb n (m ++ pad) (List.replicate 25 0)).take 8).flatMap fun w => leBytes 8 w.toNat

/-- One round of Philox-4x32 with its key (R388). -/
def philoxRound (c : Nat × Nat × Nat × Nat) (k0 k1 : Nat) : Nat × Nat × Nat × Nat :=
  let (c0, c1, c2, c3) := c
  let p0 := 0xD2511F53 * c0
  let p1 := 0xCD9E8D57 * c2
  let m := 2 ^ 32
  (Nat.xor (Nat.xor (p1 / m) c1) k0, p1 % m, Nat.xor (Nat.xor (p0 / m) c3) k1, p0 % m)

/-- Ten rounds with the Weyl key schedule (R388). -/
def philoxGo : Nat → Nat × Nat × Nat × Nat → Nat → Nat → Nat × Nat × Nat × Nat
  | 0, c, _, _ => c
  | n + 1, c, k0, k1 =>
    philoxGo n (philoxRound c k0 k1) ((k0 + 0x9E3779B9) % 2 ^ 32) ((k1 + 0xBB67AE85) % 2 ^ 32)

/-- philox(c, K) of R388. -/
def philox (c : Nat × Nat × Nat × Nat) (k : Nat) : Nat × Nat × Nat × Nat :=
  philoxGo 10 c (k % 2 ^ 32) (k / 2 ^ 32 % 2 ^ 32)

/-- The job key K of R388. -/
def jobKey (seed jseq : Nat) : Nat := Nat.xor (seed % 2 ^ 64) (jseq * 0x9E3779B97F4A7C15 % 2 ^ 64)

end Sys2Proof.Machine
end

