-- ==== Sys2Proof/Machine/Num.lean ====
section
/-! DEFINITION. The nineteen number formats (R152), rounding (R153, R154), saturation (R155, R156), conversion with
its events (R157, R168), floating-point arithmetic rounded once (R166) and the group-scaled formats (R170-R174). -/

namespace Sys2Proof.Machine

/-- rne(a / b), b > 0: the integer nearest, ties to even (R153). -/
def rneDiv (a : Int) (b : Nat) : Int :=
  let q := a / (b : Int)
  let r := a % (b : Int)
  if 2 * r > b ∨ (2 * r = b ∧ q % 2 = 1) then q + 1 else q

/-- rne(a / 2^s) (R153). -/
def rneShift (a : Int) (s : Nat) : Int := rneDiv a (2 ^ s)

/-- clamp(x, lo, hi) of R156; sat(n, lo, hi) of R155 but for its event. -/
def clampI (lo hi x : Int) : Int := if x < lo then lo else if hi < x then hi else x

/-- The number of bits of n: 0 for 0. -/
def bitLen (n : Nat) : Nat := if n = 0 then 0 else Nat.log2 n + 1

/-- The 19 formats of R152. -/
inductive Fmt where
  | a8u | a8s | a4u | a4s | wt | w5 | w9 | c16 | t40 | int8 | int16 | int32
  | e4m3 | e5m2 | bf16 | fp16 | fp32 | s8g32 | s4g64
deriving DecidableEq, Repr

/-- The format a 5-bit code names; codes 0x13 to 0x1F are reserved (R152). -/
def Fmt.ofCode : Nat → Option Fmt
  | 0 => some .a8u | 1 => some .a8s | 2 => some .a4u | 3 => some .a4s | 4 => some .wt
  | 5 => some .w5 | 6 => some .w9 | 7 => some .c16 | 8 => some .t40 | 9 => some .int8
  | 10 => some .int16 | 11 => some .int32 | 12 => some .e4m3 | 13 => some .e5m2
  | 14 => some .bf16 | 15 => some .fp16 | 16 => some .fp32 | 17 => some .s8g32
  | 18 => some .s4g64 | _ => none

/-- Bits per element of the code array (R152). -/
def Fmt.bits : Fmt → Nat
  | .a8u | .a8s | .int8 | .e4m3 | .e5m2 | .s8g32 => 8
  | .a4u | .a4s | .s4g64 => 4
  | .wt => 2 | .w5 => 5 | .w9 => 9
  | .c16 | .int16 | .bf16 | .fp16 => 16
  | .int32 | .fp32 => 32
  | .t40 => 64

/-- The row-drive formats (R158). -/
def Fmt.isDrive : Fmt → Bool
  | .a8u | .a8s | .a4u | .a4s => true
  | _ => false

/-- The floating-point formats (R164). -/
def Fmt.isFloat : Fmt → Bool
  | .e4m3 | .e5m2 | .bf16 | .fp16 | .fp32 => true
  | _ => false

/-- The group-scaled formats (R170). -/
def Fmt.isGroup : Fmt → Bool
  | .s8g32 | .s4g64 => true
  | _ => false

/-- Formats whose tensors carry an exponent array (R179, R339). -/
def Fmt.hasExp (f : Fmt) : Bool := f.isDrive || f.isGroup

/-- The range of an integer or drive-code format (R152). -/
def Fmt.range : Fmt → Int × Int
  | .a8u => (0, 255) | .a8s => (-128, 127) | .a4u => (0, 15) | .a4s => (-8, 7)
  | .wt => (-1, 1) | .w5 => (-15, 15) | .w9 => (-255, 255) | .c16 => (-32767, 32767)
  | .t40 => (-(2 ^ 39 : Nat), (2 ^ 39 : Nat) - 1) | .int8 => (-128, 127) | .int16 => (-32768, 32767)
  | .int32 => (-(2 ^ 31 : Nat), (2 ^ 31 : Nat) - 1) | .s8g32 => (-127, 127) | .s4g64 => (-7, 7)
  | _ => (0, 0)

/-- A real value with its specials: a NaN or an infinity of a sign, or (-1)^s · m · 2^e exactly. -/
inductive FV where
  | nan (s : Bool)
  | inf (s : Bool)
  | fin (s : Bool) (m : Nat) (e : Int)
deriving DecidableEq, Repr

/-- The layout of a floating-point format: significand bits, exponent of the least subnormal bit, the encoding
of its largest finite value, and whether it has infinities (R164, R166). -/
structure FpSpec where
  man : Nat
  tiny : Int
  maxEnc : Nat
  hasInf : Bool
  bits : Nat
deriving DecidableEq, Repr

/-- R164, R166. -/
def Fmt.fp : Fmt → FpSpec
  | .e4m3 => ⟨3, -9, 0x7E, false, 8⟩
  | .e5m2 => ⟨2, -16, 0x7B, true, 8⟩
  | .bf16 => ⟨7, -133, 0x7F7F, true, 16⟩
  | .fp16 => ⟨10, -24, 0x7BFF, true, 16⟩
  | _ => ⟨23, -149, 0x7F7FFFFF, true, 32⟩

/-- The value a floating-point pattern encodes (R164-R166). -/
def fpDecode (f : Fmt) (n : Nat) : FV :=
  let p := f.fp
  let s := nfld n (p.bits - 1) 1 == 1
  let x := n % 2 ^ (p.bits - 1)
  let e := x / 2 ^ p.man
  let m := x % 2 ^ p.man
  if p.maxEnc < x then
    (if p.hasInf && x == p.maxEnc + 1 then .inf s else .nan s)
  else if e = 0 then .fin s m p.tiny
  else .fin s (m + 2 ^ p.man) (p.tiny + e - 1)

/-- m · 2^e rounded to `p` with no upper limit: the significand and exponent kept (R154). -/
def roundMag (p : FpSpec) (m : Nat) (e : Int) : Nat × Int :=
  let q := max ((bitLen m : Int) + e - (p.man + 1)) p.tiny
  if q ≤ e then (m * 2 ^ (e - q).toNat, q) else ((rneShift m (q - e).toNat).toNat, q)

/-- The pattern, without sign, of a rounded magnitude; beyond the largest finite it exceeds `maxEnc`. -/
def encMag (p : FpSpec) (m : Nat) (q : Int) : Nat :=
  let (m, q) := if 2 ^ (p.man + 1) ≤ m then (m / 2, q + 1) else (m, q)
  if m < 2 ^ p.man then m else ((q - p.tiny).toNat + 1) * 2 ^ p.man + (m - 2 ^ p.man)

/-- rne of a magnitude in format f as a value, with overflow to infinity (R222: an FP32 result that overflows is
an infinity). -/
def roundFV (f : Fmt) (s : Bool) (m : Nat) (e : Int) : FV :=
  let p := f.fp
  let (m', q) := roundMag p m e
  if p.maxEnc < encMag p m' q then .inf s else .fin s m' q

/-- rne(x, FP32) (R154). -/
def rneFP32 : FV → FV
  | .fin s m e => roundFV .fp32 s m e
  | v => v

/-- rne(x, BF16) (R154). -/
def rneBF16 : FV → FV
  | .fin s m e => roundFV .bf16 s m e
  | v => v

/-- Signed integer as a value; zero is positive. -/
def FV.ofInt (i : Int) : FV := .fin (decide (i < 0)) i.natAbs 0

/-- The signed significand and exponent of a finite value. -/
def FV.num : FV → Int × Int
  | .fin s m e => (if s then -(m : Int) else m, e)
  | _ => (0, 0)

/-- Exact product by 2^k. -/
def FV.scale (k : Int) : FV → FV
  | .fin s m e => .fin s m (e + k)
  | v => v

def FV.neg : FV → FV
  | .fin s m e => .fin (!s) m e
  | .inf s => .inf (!s)
  | v => v

def FV.isNan : FV → Bool
  | .nan _ => true
  | _ => false

def FV.isFin : FV → Bool
  | .fin .. => true
  | _ => false

def FV.isZero : FV → Bool
  | .fin _ m _ => m == 0
  | _ => false

def FV.sign : FV → Bool
  | .nan s | .inf s | .fin s .. => s

/-- The magnitude of a value. -/
def FV.abs : FV → FV
  | .fin _ m e => .fin false m e
  | .inf _ => .inf false
  | .nan s => .nan s

/-- Exact product with the special values of R166 (a before b). -/
def FV.mul (a b : FV) : FV :=
  match a, b with
  | .nan s, _ => .nan s
  | _, .nan s => .nan s
  | .inf s, .inf t => .inf (xor s t)
  | .inf s, .fin t m _ => if m = 0 then .nan false else .inf (xor s t)
  | .fin s m _, .inf t => if m = 0 then .nan false else .inf (xor s t)
  | .fin s m e, .fin t n g => .fin (xor s t) (m * n) (e + g)

/-- Exact sum with the special values of R166 (a before b); an exact zero sum of unlike signs is +0. -/
def FV.add (a b : FV) : FV :=
  match a, b with
  | .nan s, _ => .nan s
  | _, .nan s => .nan s
  | .inf s, .inf t => if s == t then .inf s else .nan false
  | .inf s, .fin .. => .inf s
  | .fin .., .inf t => .inf t
  | .fin s m e, .fin t n g =>
    let k := min e g
    let x : Int := (FV.num (.fin s m e)).1 * 2 ^ (e - k).toNat + (FV.num (.fin t n g)).1 * 2 ^ (g - k).toNat
    if x = 0 then .fin (s && t) 0 k else .fin (decide (x < 0)) x.natAbs k

def FV.sub (a b : FV) : FV := FV.add a b.neg

/-- a < b on finite values and infinities. -/
def FV.lt (a b : FV) : Bool :=
  match a, b with
  | .nan _, _ => false
  | _, .nan _ => false
  | .inf s, .inf t => s && !t
  | .inf s, .fin .. => s
  | .fin .., .inf t => !t
  | x, y =>
    let (m, e) := x.num
    let (n, g) := y.num
    let k := min e g
    decide (m * 2 ^ (e - k).toNat < n * 2 ^ (g - k).toNat)

/-- rne(1 / a, FP32). -/
def FV.recip (a : FV) : FV :=
  match a with
  | .nan s => .nan s
  | .inf s => .fin s 0 0
  | .fin s m e =>
    if m = 0 then .inf s
    else
      let k := bitLen m + 64
      let q := 2 ^ k / m
      let st := if 2 ^ k % m = 0 then 0 else 1
      roundFV .fp32 s (2 * q + st) (-(k : Int) - e - 1)

/-- rne(a / n, FP32) for an integer n > 0. -/
def FV.divN (a : FV) (n : Nat) : FV :=
  match a with
  | .fin s m e =>
    if n = 0 then .nan false
    else
      let k := bitLen n + 64
      let q := m * 2 ^ k / n
      let st := if m * 2 ^ k % n = 0 then 0 else 1
      roundFV .fp32 s (2 * q + st) (e - k - 1)
  | v => v

/-- The integer square root, by Newton steps on fuel. -/
def isqrtGo : Nat → Nat → Nat → Nat
  | 0, _, x => x
  | f + 1, n, x =>
    let y := (x + n / x) / 2
    if y < x then isqrtGo f n y else x

def isqrt (n : Nat) : Nat := if n = 0 then 0 else isqrtGo (bitLen n + 2) n (2 ^ ((bitLen n + 1) / 2))

/-- rne(1 / √a, FP32); a < 0 gives the canonical NaN (R230). -/
def FV.rsqrt (a : FV) : FV :=
  match a with
  | .nan s => .nan s
  | .inf s => if s then .nan false else .fin false 0 0
  | .fin s m e =>
    if m = 0 then .inf s
    else if s then .nan false
    else
      -- 1/√(m·2^e) with e even after adjustment: √(2^(2k)/m) · 2^(-k - e/2)
      let (m, e) := if e % 2 = 0 then (m, e) else (2 * m, e - 1)
      let k := bitLen m + 64
      let n := 2 ^ (2 * k) / m
      let r := isqrt n
      let st := if r * r * m = 2 ^ (2 * k) then 0 else 1
      roundFV .fp32 false (2 * r + st) (-(k : Int) - e / 2 - 1)

/-- What a conversion records (R157). -/
structure Ev where
  sat : Nat := 0
  unf : Nat := 0
deriving DecidableEq, Repr

def Ev.add (a b : Ev) : Ev := ⟨a.sat + b.sat, a.unf + b.unf⟩

/-- rne(x) of a finite value as an integer (R153). -/
def FV.rneInt : FV → Int
  | .fin s m e =>
    let i : Int := if s then -(m : Int) else m
    if 0 ≤ e then i * 2 ^ e.toNat else rneShift i (-e).toNat
  | _ => 0

/-- sat(n, F) with its event (R155). -/
def satFmt (f : Fmt) (i : Int) : Int × Ev :=
  let c := clampI f.range.1 f.range.2 i
  (c, if c = i then {} else ⟨1, 0⟩)

/-- The canonical NaN of a floating format (R166). -/
def canonNan (f : Fmt) (s : Bool) : Nat :=
  let p := f.fp
  b2n s * 2 ^ (p.bits - 1) + (if p.hasInf then p.maxEnc + 1 + 2 ^ (p.man - 1) else 0x7F)

/-- The conversion of R168 of a value to format f, `inf` the infinity-propagation selector: the pattern of one
element and the events of R157. Group-scaled targets are encoded by group (R173), not here. -/
def convert (f : Fmt) (inf : Bool) (v : FV) : Nat × Ev :=
  if f.isFloat then
    let p := f.fp
    let sg := fun s : Bool => b2n s * 2 ^ (p.bits - 1)
    match v with
    | .nan s => (canonNan f s, {})
    | .inf s =>
      if f = .e4m3 then (sg s + p.maxEnc, ⟨1, 0⟩)
      else if inf then (sg s + p.maxEnc + 1, {}) else (sg s + p.maxEnc, ⟨1, 0⟩)
    | .fin s m e =>
      let (m', q) := roundMag p m e
      let x := encMag p m' q
      if p.maxEnc < x then
        (if p.hasInf && inf then (sg s + p.maxEnc + 1, ⟨1, 0⟩) else (sg s + p.maxEnc, ⟨1, 0⟩))
      else (sg s + x, if x = 0 ∧ m ≠ 0 then ⟨0, 1⟩ else {})
  else
    match v with
    | .nan _ => (0, ⟨1, 0⟩)
    | .inf s => (pattern f.bits (if s then f.range.1 else f.range.2), ⟨1, 0⟩)
    | .fin _ m _ =>
      let i := v.rneInt
      let (c, ev) := satFmt f i
      (pattern f.bits c, ev.add (if i = 0 ∧ m ≠ 0 then ⟨0, 1⟩ else {}))

/-- The value an element's pattern stands for, group exponent `e` for drive and group-scaled formats
(R165, R172, R179). -/
def decodeElem (f : Fmt) (e : Int) (n : Nat) : FV :=
  if f.isFloat then fpDecode f n
  else
    match f with
    | .a8u => (FV.ofInt (n % 256 : Nat)).scale e
    | .a4u => (FV.ofInt (n % 16 : Nat)).scale e
    | .t40 => FV.ofInt (signed 40 n)
    | _ => (FV.ofInt (signed f.bits n)).scale (if f.hasExp then e else 0)

/-- A 6-bit group exponent byte (R171). -/
def expByte (e : Int) : Nat := pattern 6 e

/-- The exponent in an exponent byte (R171). -/
def expOf (n : Nat) : Int := signed 6 n

/-- The largest code of a dynamic stream's format (R193), doubled values kept exact as integers. -/
def cmaxOf : Fmt → Nat
  | .a8u => 255 | .a8s => 127 | .a4u => 15 | .a4s => 7 | .int8 => 127 | .int16 => 32767
  | .e4m3 => 448 | .e5m2 => 57344 | .s8g32 => 127 | .s4g64 => 7 | _ => 0

/-- Exponents -32 … 31 from `e` upward, the first with rne(A / 2^e) ≤ cmax (R173, R196). -/
def fitGo (a : FV) (cmax : Nat) : Nat → Int → Int
  | 0, _ => 31
  | k + 1, e => if (a.scale (-e)).rneInt ≤ cmax then e else fitGo a cmax k (e + 1)

/-- The fit exponent of a magnitude (R196), and the group exponent of R173. -/
def fitExp (cmax : Nat) (a : FV) : Int := fitGo a cmax 64 (-32)

/-- The larger of two magnitudes, finite values only (R199). -/
def amaxStep (a v : FV) : FV :=
  if v.isFin then (if FV.lt a v.abs then v.abs else a) else a

/-- The amax of a list over its finite values. -/
def amaxOf (vs : List FV) : FV := vs.foldl amaxStep (.fin false 0 0)

/-- One group encoded by R173: the exponent, the codes and the events. -/
def encodeGroup (f : Fmt) (vs : List FV) : Int × List Nat × Ev :=
  let a := amaxOf vs
  let e := fitExp (cmaxOf f) a
  let one := fun v : FV =>
    match v with
    | .nan _ => ((0 : Int), (⟨1, 0⟩ : Ev))
    | .inf s => (if s then f.range.1 else f.range.2, ⟨1, 0⟩)
    | .fin _ m _ =>
      let i := (v.scale (-e)).rneInt
      let (c, ev) := satFmt f i
      (c, ev.add (if i = 0 ∧ m ≠ 0 then ⟨0, 1⟩ else {}))
  let rs := vs.map one
  (e, rs.map fun r => pattern f.bits r.1, (rs.map (·.2)).foldl Ev.add {})

/-- The floor of a finite value. -/
def FV.floorInt : FV → Int
  | .fin s m e =>
    let i : Int := if s then -(m : Int) else m
    if 0 ≤ e then i * 2 ^ e.toNat else i / 2 ^ (-e).toNat
  | _ => 0

end Sys2Proof.Machine
end

