-- ==== Sys2Proof/Machine/State.lean ====
section
/-! DEFINITION. The state of the block: every register, buffer, queue, mode and land the spec gives it, the queue of
waiting commands, and the state after reset. -/

namespace Sys2Proof.Machine

/-- The ways a run could stop: none is used, since every command has an effect. -/
inductive Fault where
  /-- An access to an address the module does not have; raised by nothing, since R314 answers such an access. Safe. -/
  | noAddress
deriving DecidableEq, Repr

/-- Commands without a meaning. -/
inductive Refusal where
  /-- A command of the table that has no meaning yet; raised by exec alone. Safe. -/
  | notModelled (mnemonic : String)
deriving DecidableEq, Repr

/-- Frame states (R66). -/
inductive FState where
  | idle | stroking | programming | recount | repair | spare | retired
deriving DecidableEq, Repr

/-- The encodings of R66. -/
def FState.num : FState → Nat
  | .idle => 0 | .stroking => 1 | .programming => 2 | .recount => 3 | .repair => 4 | .spare => 5 | .retired => 6

/-- A plane header (R86): stuck holds (row, column, level). -/
structure Header where
  fmt : Nat := 3
  cycles : Nat := 0
  refreshes : Nat := 0
  stuck : List (Nat × Nat × Nat) := []
  chkOff : Nat := 0
deriving DecidableEq, Repr

/-- A side-store entry: row peak and the eight check residuals (R33). -/
structure Side where
  peak : Nat := 0
  resid : List Int := []
deriving DecidableEq, Repr

/-- What programming a row leaves (R89-R93): the target levels, the stuck list, the iterations of its last pass and of both,
the next index of free values, the beads marked or given a new level, the data digits. -/
structure RowOut where
  levels : List Nat
  stuck : List (Nat × Nat × Nat)
  iters : Nat
  total : Nat
  fresh : Nat
  marked : Nat
  digits : List Int
deriving DecidableEq, Repr

/-- The programming engine of a frame (R88-R107): plane, format, next row, the stuck list and the groups left uncompared so
far, whether a weight was missed or a rod is stuck on both sides, the outcome of a row that waits for its tokens, buffers
marked full, whether it holds a grant, is paused, and programs for a load, and when it began. -/
structure Prg where
  plane : Nat
  fmt : Nat
  row : Nat := 0
  stuck : List (Nat × Nat × Nat) := []
  chkOff : Nat := 0
  poor : Bool := false
  out : Option RowOut := none
  waits : Bool := false
  paid : Bool := false
  full0 : Bool := false
  full1 : Bool := false
  granted : Bool := false
  paused : Bool := false
  load : Bool := true
  at_ : Nat := 0
deriving DecidableEq, Repr

/-- What a job counts (R65, R157). -/
structure Counts where
  ovr : Nat := 0
  sat : Nat := 0
  unf : Nat := 0
  retry : Nat := 0
  lowconf : Nat := 0
  split : Nat := 0
  skip : Nat := 0
  strokes : Nat := 0
deriving DecidableEq, Repr

/-- Where a stroke instruction's outputs go: the tally of its own board, or an SCARRY to the issuing board (R283). -/
inductive Dest where
  | own
  | forward (node board slot : Nat) (q : Nat)
deriving DecidableEq, Repr

/-- The stroke in hand of a frame: the instruction's window, drive levels, part list and running sums (R53-R63). -/
structure Stroke where
  ctx : StepCtx
  plane : Nat
  shape : Nat
  row0 : Nat
  rod0 : Nat
  nrod : Nat
  w9 : Bool
  tslot : Nat
  q : Nat
  es : Int
  eref : Int
  v : List Int
  parts : List (Nat × Nat)
  part : Nat := 0
  started : Bool := false
  n : Nat := 0
  sums : List Int := []
  flags : List Bool := []
  pending : Bool := false
  low : Bool := false
  counts : Counts := {}
  dest : Dest := .own
  lane : Bool := false
  tag : Nat := 0
  capt : Option Nat := none
  outs : List Int := []
  idle : Bool := false
deriving DecidableEq, Repr

/-- A recount visit (R136-R142): its plane, the next row, what its rows showed so far (reference beads and other beads
beyond 524, the largest departure, whether every identity and peak test held, the beads of 525-590 as 528 · row + column),
then the spot strokes performed and the sum of their squared differences; whether its next read or stroke holds tokens. -/
structure Recount where
  plane : Nat
  row : Nat := 0
  refs : Nat := 0
  beyond : Nat := 0
  worst : Nat := 0
  ok : Bool := true
  marks : List Nat := []
  spots : Nat := 0
  sq : Nat := 0
  paid : Bool := false
deriving DecidableEq, Repr

/-- A measurement visit (R121, R122, R128): the plane whose gain it measures, none for trims; the point in hand (zero, +I,
-I) and the conversions or strokes done at it; the sums of the points completed and of the one in hand; E. -/
structure Measure where
  gain : Option Nat := none
  point : Nat := 0
  count : Nat := 0
  done : List (List Int) := []
  sums : List Int := []
  e : Int := 0
deriving DecidableEq, Repr

/-- A frame (R66-R73, R126, R138-R142): besides its registers, the running trims and gains, the gains last measured, the
planes whose gain is due, the time and temperature of the last trim measurement and whether one is asked for, when each row
driver was read back, the temperature each running gain holds for and that of the gain last published, the beads marked as 528 · (512 · plane +
row) + column, the planes recorded as degraded, and the frame that holds the same images. `visits` keeps the time of each
plane's last recount visit, `visitN` how many visits the frame has had. -/
structure Frame where
  st : FState := .idle
  plane : Nat := 0
  planeValid : Bool := false
  fault : Bool := false
  faultCode : Nat := 0
  covered : Bool := false
  snap : Option (List Word) := none
  headers : List Header := List.replicate 8 {}
  levels : SMap Int := []
  winCount : Nat := 0
  winStrokes : Nat := 0
  yielded : Bool := false
  repairNext : Bool := false
  prg : Option Prg := none
  stroke : Option Stroke := none
  queue : List Stroke := []
  marks : List Nat := []
  oldMark : Nat := 0
  damaged : List Nat := []
  visits : List Nat := List.replicate 8 0
  visitN : Nat := 0
  recount : Option Recount := none
  measure : Option Measure := none
  gainDue : List Nat := []
  trimTj : Int := 0
  trimAt : Nat := 0
  trimDue : Bool := false
  readAt : SMap Nat := []
  spotFails : Nat := 0
  gainAt : List Nat := List.replicate 8 0
  gainTj : List Int := List.replicate 8 0
  pubTj : List Int := List.replicate 8 0
  placed : Option Nat := none
  migrate : Bool := false
  degraded : List Nat := []
  diagnose : Bool := false
  lastBank : Bool := false
  trims : List Word := []
  gains : List Word := List.replicate 8 0
  pgm : List Word := List.replicate 8 0
  twin : Option Nat := none
deriving DecidableEq, Repr

/-- The unit an instruction goes to (R211). -/
inductive BUnit where
  | frame (f : Nat) | tally | drain | vector | lane | seq
deriving DecidableEq, Repr

/-- A scoreboard entry: the instruction, its address, its step and its ranges (R212). -/
structure SbEntry where
  id : Nat
  pc : Nat
  word : Nat
  ctx : StepCtx
  unit : BUnit
  iter : Nat := 0
  done : Nat := 0
  waitTok : Bool := false
  paid : Bool := false
  seq0 : Nat := 0
  capt : Option Nat := none
deriving DecidableEq, Repr

/-- A carry as the tally keeps it: its key, first slot, tags and values, and its ordinal among the carries of its source and
step (R282-R284). -/
structure Carry where
  job : Nat
  step : Nat
  lsrc : Nat
  skind : Bool
  slot : Nat
  tags : List Nat
  vals : List Nat
  ord : Nat := 0
deriving DecidableEq, Repr

/-- A step of a stream on a board while its amax is captured (R197-R199): the exponents chosen, the amax and events of
each group, whether the capture ran, whether it waits for the exchange of its stage, and the maxima received. -/
structure StreamStep where
  n : Nat
  ctx : Nat
  job : Nat
  step : Nat
  eo : List Int := []
  amax : List FV := []
  sat : List Nat := []
  unf : List Nat := []
  seen : Bool := false
  wait : Bool := false
  got : List (Nat × FV) := []
deriving DecidableEq, Repr

/-- A board (R209-R245, R282-R288). `lastDone` holds, for each step in progress as (job, step), when it began or last finished
an instruction (R241); `bases` the step base of each step begun (R285); `actPend` the activation-table words that wait for the instructions using them (R226). -/
structure Board where
  up : Bool := false
  halted : Bool := true
  steps : List StepCtx := []
  cur : Option StepCtx := none
  pc : Nat := 0
  statPc : Nat := 0
  loops : List (Nat × Nat) := []
  waitRk : Option Nat := none
  sb : List SbEntry := []
  nextId : Nat := 0
  ninstr : Nat := 1024
  tally : SMap Int := []
  tags : SMap (Option Int) := []
  keys : List (Nat × Nat × Nat × Bool × Nat) := []
  arrived : List Carry := []
  heldC : List Pkt := []
  q : Nat := 0
  fault : Bool := false
  faultCode : Nat := 0
  lastDone : List (Nat × Nat × Nat) := []
  score : Option Nat := none
  stage : Nat := 0
  lb : Nat := 0
  carriesSent : Nat := 0
  sentStep : Nat × Nat := (0, 0)
  base : Nat := 0
  failed : Bool := false
  endPend : List StepCtx := []
  captStroke : SMap Nat := []
  move : Bool := false
  strm : List StreamStep := []
  bases : SMap Nat := []
  actPend : List (Nat × Word) := []
deriving DecidableEq, Repr

/-- Work that waits for energy tokens (R438): a stroke part of a frame, the vector instruction of a board, a part of its
exact lane, a row or the close of a plane of a programming frame, a row read or spot stroke of a recount visit. -/
inductive Work where
  | stroke (f : Nat) | vector (b : Nat) | exact (b : Nat) | program (f : Nat) | recount (f : Nat)
deriving DecidableEq, Repr

/-- A waiting draw: its priority in the order of R26, what it needs, what it was granted, and whether it may take a part in
this tick (R438). -/
structure Draw where
  prio : Nat
  need : Nat
  got : Nat := 0
  at_ : Nat := 0
  ready : Bool := true
  work : Work
deriving DecidableEq, Repr

/-- An array die: power, loss, token pool and totals (R437-R439), its consumption at the last tick and in the tick before,
lane losses (R290). -/
structure DieRec where
  on : Bool := false
  lost : Bool := false
  sync : Bool := false
  awake : Bool := false
  trimmed : Bool := false
  trimEnd : Nat := 0
  gained : Bool := false
  reserve : Nat := 0
  issued : Nat := 0
  consumed : Nat := 0
  returned : Nat := 0
  usedAt : Nat := 0
  usedTick : Nat := 0
  draws : List Draw := []
  lanesLost : Nat := 0
  poison : List Nat := []
  boardFails : List Nat := []
  skews : Nat := 0
  tables : Bool := false
  yfirst : Bool := false
  yWant : Bool := false
  told : Bool := false
deriving DecidableEq, Repr

/-- What a metrology converter is doing (R412, R421-R423). -/
inductive ConvPh where
  | stopped | off | delay (until_ : Nat) | armed | converting (start : Nat) | failed
deriving DecidableEq, Repr

/-- A metrology converter (R411-R425). -/
structure Conv where
  ph : ConvPh := .off
  entry : Nat := 0
  /-- The contents of the entry as its pass began (R413). -/
  pass : Word := 0
  done : Nat := 0
  urg : Option (Nat × Nat × Nat × Nat) := none
  missed : Bool := false
  late : Bool := false
  powered : Bool := false
  stopping : Bool := false
deriving DecidableEq, Repr

/-- A metrology unit (R403-R429). -/
structure Met where
  on : Bool := false
  conv : List Conv := List.replicate 4 {}
  queue : List Nat := []
  seq : Nat := 0
  selfcal : Option Nat := none
  calValid : Bool := false
  spent : Bool := false
deriving DecidableEq, Repr

/-- A temperature sensor as thermal control sees it (R443): its reading in 1/16 °C, sample time, implausible run. -/
structure Sensor where
  tj16 : Int := 960
  at_ : Nat := 0
  broken : Bool := false
  implausible : Nat := 0
  openShort : Bool := false
  hist : List (Nat × Int) := []
deriving DecidableEq, Repr

/-- The step and interval of a thermal unit (R442, R446): since when its hottest reading has stayed 2 °C below each
threshold, and since when every sample has called for interval code 0, or for 0 or 1; since when it has stayed within
57-63 °C (R145). -/
structure ThUnit where
  step : Nat := 0
  interval : Nat := 0
  below : List (Option Nat) := [none, none, none]
  slower : List (Option Nat) := [none, none]
  band : Option Nat := none
deriving DecidableEq, Repr

/-- One end of a mailbox (R351-R355): send queue, received message, acknowledgement, lock owner, message waiting for a
wake. -/
structure MbxEnd where
  send : List Word := []
  recv : Option (List Word) := none
  busy : Bool := false
  ovf : Bool := false
  waking : Bool := false
  owner : Nat := 0
  code : Nat := 0
  valid : Bool := false
  sentAt : Nat := 0
deriving DecidableEq, Repr

/-- A sequenced message the module sent or holds (R332): type, payload, msg_id, offset, and the final completions it
carries (ring and job). -/
structure OMsg where
  type : Nat
  payload : List Byte
  seq : Nat := 0
  msgId : Nat := 0
  offset : Nat := 0
  at_ : Nat := 0
  tries : Nat := 0
  finals : List (Nat × Nat) := []
  applies : Option Nat := none
deriving DecidableEq, Repr

/-- A session (R328-R332, R345-R347, R501-R504). -/
structure Sess where
  opened : Bool := false
  udp : Bool := false
  mac : Nat := 0
  ip : Nat := 0
  uport : Nat := 0
  port : Hub := 0
  rx : Nat := 0
  tx : Nat := 0
  window : Nat := 0
  unacked : List OMsg := []
  waiting : List OMsg := []
  role : Nat := 1
  chal : Option (Nat × Nat × Nat) := none
  fails : List Nat := []
  chalBlock : Nat := 0
  viol : Nat := 0
  violAt : List Nat := []
  throttle : Option Nat := none
  lastProc : Nat := 0
  events : Nat := 0
  regions : List (Nat × Nat) := []
  last : Nat := 0
deriving DecidableEq, Repr

/-- The endpoint of a host: the form it uses and its addresses (R324, R328). -/
structure Endpoint where
  udp : Bool := false
  mac : Nat := 0
  ip : Nat := 0
  uport : Nat := 0
deriving DecidableEq, Repr

/-- The endpoint a session is bound to, or last moved to (R328, R329). -/
def Sess.endp (x : Sess) : Endpoint := ⟨x.udp, x.mac, x.ip, x.uport⟩

/-- What leaves the module (R320, R324, R364): a Sprinmos message of port h to an endpoint, with the VLAN tag of its frame as
(vid, pcp); ARP and ICMP answers with theirs; bytes on the sideband; fabric frames handed to a link. -/
inductive Out where
  | frame (h : Nat) (dst : Endpoint) (tag : Option (Nat × Nat)) (bytes : List Byte)
  | smbus (bytes : List Byte)
  | arp (h : Nat) (tag : Option (Nat × Nat))
  | icmp (h : Nat) (tag : Option (Nat × Nat))
  | idle (link : Nat)
  | linkNak (link seq : Nat)
  | linkAck (link seq : Nat)
  | heartbeat (h path : Nat)
deriving DecidableEq, Repr

/-- A reply of Porell that its protocol engine has not yet turned into a RESPONSE (R357, R360): hub, the engine's tag,
the code, whether it is the PENDING acknowledgement, and the words. -/
structure Reply where
  src : Src
  tag : Nat
  code : Nat
  words : List Word := []
  port : Option Nat := none
deriving DecidableEq, Repr

/-- A tag of the engine's own paired with the session, msg_id and host tag of a COMMAND (R360). -/
structure Pair where
  hub : Nat
  tag : Nat
  sess : Nat
  msgId : Nat
  hostTag : Nat
deriving DecidableEq, Repr

/-- A command acknowledged PENDING whose reply is to come (R357, R362): the request, its opcode, and a slot, ring, unit
or state it waits on. -/
structure Pend where
  req : Req
  op : Nat
  key : Nat := 0
deriving DecidableEq, Repr

/-- An Ethernet port (R318-R323). -/
structure Port where
  secured : Bool := false
  pn : Nat := 0
  sak : Nat := 0
  sakAt : Nat := 0
  synced : Bool := false
  syncLost : Nat := 0
  conf : Option (Nat × Nat × Nat × Nat) := none
  nakAt : Nat := 0
  nakN : Nat := 0
deriving DecidableEq, Repr

/-- A tensor handle or object (R339, R369): format code, 0xFF for an object, 0xFE for a BEAD_OPEN segment. -/
structure Handle where
  fmt : Nat
  codeLen : Nat
  expLen : Nat := 0
  group : Nat := 0
  first : Nat := 0
  segs : Nat := 1
  code : SMap Byte := []
  exp : SMap Byte := []
  got : List (Nat × Nat) := []
  gotExp : List (Nat × Nat) := []
  busy : Nat := 0
deriving DecidableEq, Repr

/-- Job states (R375). -/
inductive JState where
  | accepted | admitted | running | completed
deriving DecidableEq, Repr

/-- A job: its descriptor (R336) and its life (R375). -/
structure Job where
  ring : Nat
  flags : Nat := 0
  inLen : Nat := 0
  tag : Nat := 0
  seed : Nat := 0
  launch : Nat := 0
  inH : Nat := 0
  outH : Nat := 0
  sizes : List Nat := []
  pageMap : Nat := 0
  resv : Bool := false
  raw : List Byte := []
  jseq : Nat := 0
  st : JState := .accepted
  rkAcc : Nat := 0
  rkStart : Nat := 0
  started : Bool := false
  launchRk : Nat := 0
  status : Nat := 0
  cseq : Nat := 0
  counts : Counts := {}
  sent : Counts := {}
  buckets : List Nat := []
  nsteps : Nat := 0
  next : Nat := 0
  ended : List (Nat × Nat) := []
  bank : Bool := false
  epoch : Nat := 0
  firstEpoch : Nat := 0
  lastCal : Nat := 0
  force : Bool := false
  calChanged : Bool := false
  calForced : Bool := false
  placeChanged : Bool := false
  takeover : Bool := false
  outDue : List Nat := []
  replayed : Bool := false
  failedAt : Bool := false
deriving DecidableEq, Repr

/-- A completion formed and held on its ring (R344), with the result DATA that goes out before it as (part header, offset,
bytes) (R340), and whether it was ever sent. -/
structure Compl where
  ring : Nat
  job : Nat
  cseq : Nat
  final : Bool
  bytes : List Byte
  data : List (List Byte × Nat × List Byte) := []
  sentOn : Option (Nat × Nat) := none
  once : Bool := false
deriving DecidableEq, Repr

/-- A ring beyond its register (R333-R344, R377, R388, R397); `lone` is the hub that alone holds the mirrored regions of a
ring that runs unmirrored (R313). -/
structure Ring where
  jobs : List Nat := []
  jseq : Nat := 0
  paused : Bool := false
  replay : Option (List Nat) := none
  replayBase : Nat := 0
  replayA0 : Nat := 0
  replaySrc : Nat := 0
  replayed : Nat := 0
  replayReq : Option Req := none
  compl : List Compl := []
  ctx : Nat := 0
  lone : Option Nat := none
  stateAt : Nat := 0
deriving DecidableEq, Repr

/-- The ring runs unmirrored (R313). -/
def Ring.unmirrored (x : Ring) : Bool := x.lone.isSome

/-- A key/value page map: its ring, pages by (16 · slot + pool, page), and the positions its steps have taken (R310,
R311). -/
structure PageMap where
  ring : Nat
  pages : List (Nat × Nat) := []
  pos : Nat := 0
deriving DecidableEq, Repr

/-- A score slot (R373, R374, R252): state code, file, placement by logical board, home and
pool place of each buffer and home of each page pool (R265, R310), planes still to program, whether a board
could not be replaced, whether a load took up a KEPT score, and the hubs whose resident images are lost (R306, R489). -/
structure Score where
  st : Nat := 0
  id : Nat := 0
  digest : List Byte := []
  flags : Nat := 0
  file : ScoreFile := {}
  place : List (Nat × Nat) := []
  redir : List (Nat × Nat × Nat × Nat) := []
  bufAt : List (Nat × Nat) := []
  kvAt : List Nat := []
  todo : List (Nat × Nat × Nat) := []
  bank : Bool := false
  epoch : Nat := 0
  bankEpoch : List Nat := [0, 0]
  pubAt : Nat := 0
  resident : Bool := false
  req : Option Req := none
  ctxs : List Nat := []
  degraded : Bool := false
  imgLost : List Nat := []
  kept : Bool := false
deriving DecidableEq, Repr

/-- A SerDes link end (R276-R281, R486); `turn` is the channel of 0-2 that is served next (R267). -/
structure Link where
  txSeq : Nat := 0
  rxSeq : Nat := 0
  retry : List (Nat × List (Nat × List Byte)) := []
  credits : List Nat := []
  sentN : Nat := 0
  relN : Nat := 0
  fails : Nat := 0
  trains : List Nat := []
  lastRx : Nat := 0
  lastTx : Nat := 0
  downAt : Option Nat := none
  thTx : Nat := 0
  thRx : Nat := 0
  copies : List (Nat × Pkt) := []
  heldP : List Pkt := []
  turn : Nat := 0
  reinject : List (Nat × List (Nat × List Byte)) := []
deriving DecidableEq, Repr

/-- A board switch in progress (R287, R288); `skip` counts the step starts below S still to come, which the new board
does not run. -/
structure Switch where
  slot : Nat
  lb : Nat
  old : Nat
  new : Nat
  s : Nat
  en : Nat
  drop : Bool := false
  sent : Bool := true
  overlapped : Bool := true
  acks : Nat := 0
  copied : Bool := false
  skip : Nat := 0
  at_ : Nat := 0
deriving DecidableEq, Repr

/-- A ledger slot with its header (R454, R456). -/
structure LSlot where
  data : List Byte := List.replicate 256 0xFF
  page : Nat := 0xFFFF
  single : Bool := true
  seq : Nat := 0xFFFFFFFF
  crc : Nat := 0xFFFFFFFF
deriving DecidableEq, Repr

/-- A Porell image of the firmware store by the fields of its header (R506): the SHA3-512 of its key, whether the body
digest matches, and D. -/
structure FwImg where
  magicOk : Bool := true
  major : Nat := 2
  minor : Nat := 3
  level : Nat := 0
  pred : List (Nat × Nat) := []
  keyDigest : List Byte := List.replicate 64 0
  bodyOk : Bool := true
  d : List Byte := List.replicate 64 0
deriving DecidableEq, Repr

/-- The journal (R393-R395): size in MB, enables, records of each hub as (number, bytes), next numbers, frames whose
CAL record was written. -/
structure Journal where
  size : Nat := 0
  on : Bool := false
  captures : Bool := false
  recs : List (Nat × List Byte) := []
  next : List Nat := [0, 0]
  cals : List (Nat × Nat) := []
deriving DecidableEq, Repr

/-- An event-log entry: code, reckoning count, detail (R345, R420). -/
structure LogE where
  code : Nat
  rk : Nat
  detail : List Nat := []
deriving DecidableEq, Repr

/-- A DRAM channel (R305, R306): when it failed to retrain, and the uncorrectable blocks of the last hour, each with the time it
was last found. -/
structure Chan where
  failed : Bool := false
  trains : List Nat := []
  bad : List (Nat × Option Nat) := []
deriving DecidableEq, Repr

/-- A frame or board repair or migration (R139, R477, R481): what it replaces, the replacement, the planes still to
program (for a board, 8 · frame key + plane), and whether the placement has switched. -/
structure Repair where
  frame : Nat
  target : Nat
  isBoard : Bool := false
  todo : List Nat := []
  done : Bool := false
deriving DecidableEq, Repr

/-- Power states, lands and supplies (R430-R436, R440, R450, R537-R541). Voltages in mV. `saved` holds what entry to
Dormant saves: registers, values in force, history bytes (R149, R200). `waitAcc` and `waitLast` count token-wait rk over
all dies in the running and the last second (R453); `gainT0` is the start of the plane-gain passes (R521). -/
structure Power where
  entering : Option Nat := none
  target : Nat := 2
  idleSince : Option Nat := none
  idleMs : Nat := 10
  idleS : Nat := 0xFFFFFFFF
  saved : Option (List (Nat × Word) × List (Nat × Word) × List (Nat × Byte)) := none
  wakePend : Bool := false
  wakeAt : Nat := 0
  brownAt : Option Nat := none
  halved : Bool := false
  overHalve : Bool := false
  brownDorm : Bool := false
  okAt : Nat := 0
  failN : Bool := false
  vin : Nat := 12000
  vsb : Nat := 3300
  vsbHigh : Bool := false
  serviceEn : Bool := false
  smbAddr : Nat := 0
  alertLow : Bool := true
  bootT0 : Nat := 0
  booted : List Bool := [false, false]
  halted : Bool := false
  waitAcc : Nat := 0
  waitLast : Nat := 0
  gainT0 : Option Nat := none
deriving DecidableEq, Repr

/-- Thermal control (R441-R449); limits are T1, T2, T3 and the power cap the maker set. -/
structure Thermal where
  sensors : SMap Sensor := []
  units : SMap ThUnit := []
  maker : List Nat := [114, 114, 114, 240]
  stops : List Nat := []
  stopSaved : Bool := false
  coolSince : Option Nat := none
deriving DecidableEq, Repr

/-- The time base (R383-R386, R540). -/
structure Clock where
  on : Bool := false
  rk : Nat := 0
  frac : Int := 0
  copy : SMap Int := []
  set : Bool := false
  refIn : Bool := false
  syncOut : Bool := false
  syncInAt : Nat := 0
deriving DecidableEq, Repr

/-- The host link and the mailboxes (R318-R365). -/
structure HostLink where
  sessions : SMap Sess := []
  pairs : List Pair := []
  mb0 : List (Nat × List Word) := []
  replies : List Reply := []
  pend : List Pend := []
  mbx : SMap MbxEnd := []
  ports : SMap Port := []
  sbReplies : List (List Byte) := []
  sbAwait : Bool := false
  sbRefused : Bool := false
  sbHub : Hub := 0
  sbEvent : Bool := false
deriving DecidableEq, Repr

/-- Rings, jobs, handles, pages and scores (R246-R263, R310, R333-R344, R373-R377). -/
structure Jobs where
  rings : SMap Ring := []
  jobs : SMap (Option Job) := []
  nextJob : Nat := 1
  handles : SMap (Option Handle) := []
  maps : SMap (Option PageMap) := []
  kvUsed : SMap (List Nat) := []
  scores : SMap Score := []
  turn : List Nat := [0, 0]
  deficit : SMap Nat := []
deriving DecidableEq, Repr

/-- The fabric beyond the boards (R267-R291): packets under way and those that wait at lane ports, packets that await an acknowledgement, the switch records of
the hubs as (hub, lsrc, epoch, S, drop) and the MEM_WR each hub discarded; boards whose logical board moved,
as 8192 · slot + board key to new board key + 1; step starts a STEP did not issue on the way to Dormant, as
(slot, stage, packet, context). -/
structure Fabric where
  links : SMap Link := []
  net : List Pkt := []
  waiting : List Pkt := []
  routes : SMap Nat := []
  fences : List Nat := []
  switches : List Switch := []
  acks : List Pkt := []
  recs : List (Nat × Nat × Nat × Nat × Bool) := []
  disc : List Nat := [0, 0]
  later : List (Nat × Nat × Pkt × StepCtx) := []
  turn : Nat := 0
  moved : SMap Nat := []
deriving DecidableEq, Repr

/-- Pools and DRAM beyond their bytes (R295-R313): poisoned blocks, channels, the MR4 rate of each package and whether it
is beyond its range, hubs whose DRAM holds zeros and valid codes, and corrected errors by board (slates) or 8192 + 16 · hub +
channel (DRAM). -/
structure MemSys where
  poison : List Nat := []
  chans : SMap Chan := []
  mr4 : SMap (Nat × Bool) := []
  ready : List Bool := [false, false]
  corrected : SMap Nat := []
deriving DecidableEq, Repr

/-- The ledger and the secrets it seals (R454-R471, R498-R505). -/
structure Ledger where
  slots : SMap LSlot := []
  cells : SMap (Nat × Nat) := []
  inServ : List Bool := [true, true]
  queue : List (Nat × List Byte) := []
  pages : List Nat := []
  ctrs : List Nat := []
  wear : SMap Nat := []
  ready : Bool := false
  marginAt : Option Nat := none
  hot : Nat := 0
  refusal : Nat := 0
  passw : SMap (List Byte) := []
  passFail : SMap Nat := []
  caks : SMap (List Byte) := []
deriving DecidableEq, Repr

/-- Continuity, firmware, security and journal (R393-R398, R472-R497, R506-R516): the last heartbeat on each path and the
paths missed, as 4 · hub + path, and the hub that is out for an update (R491). -/
structure Service where
  fw : SMap FwImg := []
  cur : List Nat := [0, 0]
  fused : List (List Byte) := [List.replicate 64 0, List.replicate 64 0]
  revoked : Nat := 0
  journal : Journal := {}
  alive : List Bool := [true, true]
  fenced : List Bool := [false, false]
  beat : SMap Nat := []
  missed : List Nat := []
  owner : Option Nat := none
  tookAt : Option Nat := none
  restarted : Bool := false
  swapped : Bool := false
  repairs : List Repair := []
  calEpoch : Nat := 0
  recount : List Nat := [24, 6, 256, 7, 4, 100]
  disabled : List Nat := []
  update : Option Nat := none
deriving DecidableEq, Repr

/-- The state of the block. -/
structure State where
  pending : List Instr := []
  now : Nat := 0
  fresh : Nat := 0
  rdata : Word := 0
  sent : List Out := []
  evlog : List LogE := []
  regs : SMap Word := []
  live : SMap Word := []
  mem : SMap Byte := []
  beads : SMap Nat := []
  side : SMap Side := []
  frames : SMap Frame := []
  boards : SMap Board := []
  dies : SMap DieRec := []
  mets : SMap Met := []
  ck : Clock := {}
  pw : Power := {}
  th : Thermal := {}
  hl : HostLink := {}
  wk : Jobs := {}
  fb : Fabric := {}
  ms : MemSys := {}
  lg : Ledger := {}
  sv : Service := {}
deriving DecidableEq, Repr

/-- The state after reset: every register at the value the spec gives it, or the one a log entry names. -/
def State.reset : State := {}

end Sys2Proof.Machine
end

