-- ==== Sys2Proof/Machine/Regs.lean ====
section
/-! DEFINITION. The module address map (R314-R316), and for every register its access class (R13), its writable bits
(R14) and its reset value. -/

namespace Sys2Proof.Machine

/-- The access classes of R13. -/
inductive Access where
  | ro | rw | rws | w1c | wo | rc
deriving DecidableEq, Repr

/-- A register: its class, the bits a write may change, and its reset value. -/
structure RegInfo where
  cls : Access
  mask : Nat := 0xFFFFFFFF
  reset : Nat := 0
deriving DecidableEq, Repr

/-- Where an address lies (R314, R315). -/
inductive Region where
  | frame (d b f off : Nat)
  | board (d b off : Nat)
  | die (d off : Nat)
  | hub (h off : Nat)
  | dram (h off : Nat)
  | pool (h off : Nat)
  | none
deriving DecidableEq, Repr

/-- The region of an address (R314, R315). -/
def regionOf (a : Nat) : Region :=
  if a < 0x0F80000000 then .dram 0 a
  else if 0x1000000000 ≤ a ∧ a < 0x1F80000000 then .dram 1 (a - 0x1000000000)
  else if 0x2000000000 ≤ a ∧ a < 0x2001800000 then .pool 0 (a - 0x2000000000)
  else if 0x2100000000 ≤ a ∧ a < 0x2101800000 then .pool 1 (a - 0x2100000000)
  else if 0x3000000000 ≤ a ∧ a < 0x3200000000 then
    let x := a - 0x3000000000
    let d := x / 0x10000000
    let y := x % 0x10000000
    if 0x0F000000 ≤ y then (if y < 0x0F002000 then .die d (y - 0x0F000000) else .none)
    else
      let b := y / 0x100000
      let o := y % 0x100000
      if 192 ≤ b then .none
      else if 0x80000 ≤ o then
        (if (o - 0x80000) / 0x1000 < 34 then .frame d b ((o - 0x80000) / 0x1000) (o % 0x1000) else .none)
      else .board d b o
  else if 0x4000000000 ≤ a ∧ a < 0x4001000000 then .hub 0 (a - 0x4000000000)
  else if 0x4100000000 ≤ a ∧ a < 0x4101000000 then .hub 1 (a - 0x4100000000)
  else .none

def boardBase (d b : Nat) : Nat := 0x3000000000 + d * 0x10000000 + b * 0x100000
def frameBase (d b f : Nat) : Nat := boardBase d b + 0x80000 + f * 0x1000
def dieBase (d : Nat) : Nat := 0x3000000000 + d * 0x10000000 + 0x0F000000
def hubBase (h : Nat) : Nat := 0x4000000000 + h * 0x100000000

/-- A register at one of the offsets lo, lo + step, … up to hi. -/
def inRange (o lo hi step : Nat) : Bool := decide (lo ≤ o ∧ o ≤ hi ∧ (o - lo) % step = 0)

def ro : Option RegInfo := some ⟨.ro, 0, 0⟩
def rc : Option RegInfo := some ⟨.rc, 0, 0⟩

/-- The registers of a frame's window (R72, R112, R150). -/
def frameReg (o : Nat) : Option RegInfo :=
  if o = 0x02C then some ⟨.ro, 0, 0x010622D1⟩
  else if o = 0x008 then some ⟨.wo, 1, 0⟩
  else if o = 0x00C then some ⟨.wo, 7, 0⟩
  else if o = 0x010 then some ⟨.rws, 0x3FF, 0x355⟩
  else if o = 0x014 then some ⟨.rws, 0xFF, 0⟩
  else if o = 0x018 then some ⟨.rws, 0xFFF, 0x20⟩
  else if o = 0x01C then some ⟨.rws, 7, 3⟩
  else if o = 0x020 then some ⟨.rws, 0xFFF, 0x40⟩
  else if o = 0x024 then some ⟨.rws, 0xFFF, 0x410⟩
  else if o = 0x028 then some ⟨.rws, 0xFF, 0xF0⟩
  else if inRange o 0 4 4 || inRange o 0x30 0x50 4 || o == 0x108 || o == 0x114 || o == 0xC64 then ro
  else if inRange o 0x80 0x98 4 || inRange o 0x9C 0xAC 4 then rc
  else if o = 0x100 ∨ o = 0x118 then some ⟨.wo, 3, 0⟩
  else if o = 0x104 then some ⟨.rw, 0x1F, 8⟩
  else if o = 0x10C then some ⟨.rw, 0xFFFFFF, 0x000C0508⟩
  else if o = 0x110 then some ⟨.rw, 0xFFFFFFFF, 0x15856478⟩
  else if inRange o 0x400 0x50C 4 || inRange o 0x600 0x70C 4 then some ⟨.wo, 0xFFFFFFFF, 0⟩
  else if inRange o 0x800 0xC3C 4 then some ⟨.rws, 0xFFFFFFFF, 0⟩
  else if inRange o 0xC40 0xC5C 4 then some ⟨.rws, 0x3FFFF, 0⟩
  else if o = 0xC60 then some ⟨.rw, 1, 0⟩
  else if inRange o 0xC68 0xC7C 4 then some ⟨.rw, 0xFFFFFFFF, 0⟩
  else none

/-- The registers of a SerDes link block (R291). -/
def linkReg (o : Nat) : Option RegInfo :=
  if o = 0 then some ⟨.wo, 3, 0⟩ else if o = 4 then ro else if inRange o 0x10 0x1C 4 then rc else none

/-- The board registers (R208, R245, R291). -/
def boardReg (o : Nat) : Option RegInfo :=
  if o = 0x40000 then some ⟨.wo, 7, 0⟩
  else if o = 0x40004 ∨ o = 0x40200 ∨ o = 0x46000 then ro
  else if o = 0x40008 then some ⟨.rws, 0x1FFFFFFF, 0⟩
  else if o = 0x4000C then some ⟨.rws, 0x7FFFFF, 0⟩
  else if o = 0x40010 then some ⟨.rws, 0x3FF, 0⟩
  else if o = 0x40014 then some ⟨.rw, 0xFFFF, 0x2710⟩
  else if inRange o 0x40080 0x40088 4 || inRange o 0x40204 0x40208 4 || inRange o 0x40300 0x40304 4 then rc
  else if inRange o 0x40100 0x401F0 16 then some ⟨.rws, 0xFFFFFFF, 0⟩
  else if inRange o 0x40104 0x401F4 16 then some ⟨.rws, 0x3FFFFFF, 0⟩
  else if inRange o 0x40108 0x401F8 16 then some ⟨.rws, 0xFFFF, 0⟩
  else if inRange o 0x41000 0x41070 16 then some ⟨.rws, 0x3FFFFE, 0xE001⟩
  else if inRange o 0x41004 0x41074 16 then some ⟨.rws, 0xFFFFFFFF, 0x7F80FF80⟩
  else if inRange o 0x41008 0x41078 16 || inRange o 0x4100C 0x4107C 16 then some ⟨.rws, 0x3FFF, 0⟩
  else if inRange o 0x41100 0x4111C 4 then some ⟨.rw, 0x3FFFFF, 0x0003C100⟩
  else if inRange o 0x42000 0x43FFC 4 then some ⟨.rw, 0xFFFFFFFF, 0⟩
  else if inRange o 0x44000 0x44FFC 4 then some ⟨.rws, 0x3F3F3F3F, 0⟩
  else if inRange o 0x45000 0x4503C 4 then some ⟨.rws, 0xFFFFFFF, 0⟩
  else if inRange o 0x45040 0x4507C 4 then some ⟨.rws, 0x7FFFFFFF, 0⟩
  else if inRange o 0x45080 0x450FC 4 || inRange o 0x45100 0x45104 4 || inRange o 0x46080 0x46090 4 then rc
  else if inRange o 0x46008 0x4600C 4 then some ⟨.rws, 0xFFFFFFFF, 0⟩
  else if inRange o 0x46010 0x46040 16 then some ⟨.rws, 0x3FFFFFF, 0⟩
  else if inRange o 0x46014 0x46044 16 then some ⟨.rws, 0xFFFFFFFF, 0⟩
  else if inRange o 0x46018 0x46048 16 then some ⟨.rws, 0xFFFF, 0⟩
  else if inRange o 0x46100 0x464F0 16 then some ⟨.rw, 0xFFFF7FFF, 0⟩
  else if inRange o 0x46104 0x464F4 16 then some ⟨.rw, 0xFFFFFFFF, 0⟩
  else if inRange o 0x46108 0x464F8 16 then some ⟨.rw, 0xFFFF, 0⟩
  else if 0x46800 ≤ o ∧ o < 0x46900 then linkReg ((o - 0x46800) % 64)
  else if inRange o 0x48000 0x4BFFC 4 then ro
  else none

/-- The registers of a metrology unit (R429). -/
def metReg (o : Nat) : Option RegInfo :=
  if o = 0 then some ⟨.rw, 0xF, 0⟩
  else if o = 4 then some ⟨.wo, 7, 0⟩
  else if o = 8 ∨ o = 0x74 ∨ o = 0x9C then ro
  else if inRange o 0x10 0x1C 4 || inRange o 0x800 0x9FC 4 || inRange o 0xA4 0xBC 8 then ro
  else if inRange o 0x20 0x5C 4 then some ⟨.rw, 0xFFFFFF, 0⟩
  else if inRange o 0x60 0x68 4 then some ⟨.rw, 0xFFFFFFFF, 0⟩
  else if o = 0x6C then some ⟨.rw, 3, 0⟩
  else if o = 0x70 ∨ inRange o 0x80 0x94 4 then rc
  else if o = 0x78 then some ⟨.rw, 0xFFFFFF, 0⟩
  else if o = 0x7C then some ⟨.rw, 0x7FFFFFF, 0⟩
  else if o = 0x98 then some ⟨.w1c, 0xFFFF, 0⟩
  else if inRange o 0xA0 0xB8 8 then some ⟨.wo, 0x1FFF, 0⟩
  else if inRange o 0xC0 0x11C 4 then some ⟨.rw, 0xFFFF, 0⟩
  else if inRange o 0x200 0x3FC 4 then some ⟨.rw, 0x7FFFFFFF, 0⟩
  else if inRange o 0x400 0x478 8 then some ⟨.rw, 0x7FFFFFFF, 0⟩
  else if inRange o 0x404 0x47C 8 then some ⟨.rw, 0xFFFFFFFF, 0⟩
  else none

/-- The die registers (R314, R453). -/
def dieReg (o : Nat) : Option RegInfo :=
  if o < 0x1000 then metReg o
  else if o = 0x1000 then ro
  else if o = 0x1004 then rc
  else if inRange o 0x1008 0x101C 4 then ro
  else none

/-- The registers of a mailbox end (R355, R358). -/
def mbxReg (o : Nat) : Option RegInfo :=
  if o = 0 then some ⟨.wo, 0xFFFFFFFF, 0⟩
  else if o = 4 then some ⟨.wo, 3, 0⟩
  else if o = 8 ∨ o = 0x10 ∨ o = 0x24 ∨ o = 0x28 then rc
  else if o = 0xC then some ⟨.wo, 0xFFFF, 0⟩
  else if o = 0x14 then ro
  else if o = 0x18 then some ⟨.rw, 0xF, 0⟩
  else if o = 0x1C then some ⟨.rw, 3, 0⟩
  else if o = 0x20 then some ⟨.w1c, 3, 0⟩
  else none

/-- The hub registers (R316). -/
def hubReg (o : Nat) : Option RegInfo :=
  let x := o % 0x10000
  match o / 0x10000 with
  | 1 => if x < 0x800 then mbxReg (x % 0x80) else none
  | 2 => if x < 576 then linkReg (x % 64) else none
  | 3 => if x = 0 then ro else if inRange x 0x1000 0x2FFC 4 then some ⟨.rw, 0xFFFFFFF, 0⟩ else none
  | 4 =>
    if x = 0 then some ⟨.rw, 0x7FFFFF, 0x00500074⟩
    else if x = 4 then some ⟨.rw, 0xFFFFFFFF, 0x1E2888B5⟩
    else if x = 8 then some ⟨.rw, 0xFFFFFFFF, 0⟩
    else if x = 0xC ∨ inRange x 0x100 0x13C 4 then ro
    else if inRange x 0x40 0x64 4 then rc
    else none
  | 5 =>
    if x = 8 then some ⟨.rw, 7, 0⟩
    else if x = 0x18 then some ⟨.rw, 0xFFFF, 0⟩
    else if inRange x 0 0x14 4 then ro
    else if x = 0x40 then rc
    else none
  | 6 => metReg x
  | 7 =>
    if x = 0 then some ⟨.rw, 0xFFFFFF, 0x0069645F⟩
    else if x = 4 then some ⟨.ro, 0, 0x10⟩
    else if inRange x 0x100 0x184 4 then ro
    else if inRange x 0x200 0x284 4 then some ⟨.rw, 0xFFFFFF, 0⟩
    else none
  | 8 =>
    if x = 0 then some ⟨.ro, 0, 1⟩
    else if x = 4 then some ⟨.rw, 0xFFFF, 0x4F0⟩
    else if inRange x 8 0x10 4 then ro
    else none
  | 9 =>
    if x = 8 then some ⟨.ro, 0, 0xFFFF⟩
    else if inRange x 0 4 4 then ro
    else if inRange x 0x40 0x50 4 then rc
    else none
  | 10 =>
    if inRange x 0 4 4 || inRange x 0x100 0x17C 4 then ro
    else if inRange x 0x40 0x50 4 then rc
    else none
  | 11 =>
    if inRange x 0 0xC 4 then ro
    else if inRange x 0x40 0x50 4 then rc
    else none
  | _ => none

/-- The register at an address, none where none is assigned. Addresses at 2^48 and above hold bank 1 of a frame's
trims and gains (log entry 3). -/
def regAt (a : Nat) : Option RegInfo :=
  match regionOf (a % 2 ^ 48) with
  | .frame _ _ _ o => frameReg o
  | .board _ _ o => boardReg o
  | .die _ o => dieReg o
  | .hub _ o => hubReg o
  | _ => none

/-- The reset value of the register at an address. -/
def regReset (a : Nat) : Word :=
  match regAt a with
  | some i => BitVec.ofNat 32 i.reset
  | none => 0

/-- What the register at an address holds. -/
def State.reg (s : State) (a : Nat) : Word := mget (regReset a) s.regs a

/-- The same as a number. -/
def State.regN (s : State) (a : Nat) : Nat := (s.reg a).toNat

/-- The register at an address made to hold `w`. -/
def State.setReg (s : State) (a : Nat) (w : Word) : State := { s with regs := mput (regReset a) s.regs a w }

def State.setRegN (s : State) (a n : Nat) : State := s.setReg a (BitVec.ofNat 32 n)

/-- The value in force of a shadowed register (R13). -/
def State.liveReg (s : State) (a : Nat) : Word := mget (regReset a) s.live a

def State.liveN (s : State) (a : Nat) : Nat := (s.liveReg a).toNat

def State.setLive (s : State) (a : Nat) (w : Word) : State := { s with live := mput (regReset a) s.live a w }

/-- A counter register raised by n, holding at 0xFFFF_FFFF (R73). -/
def State.bump (s : State) (a n : Nat) : State := s.setRegN a (hold 0xFFFFFFFF (s.regN a + n))

/-- Keys of the units. -/
def boardKey (d b : Nat) : Nat := 192 * d + b
def frameKey (d b f : Nat) : Nat := 34 * boardKey d b + f
def keyDie (k : Nat) : Nat := k / 192
def keyBrd (k : Nat) : Nat := k % 192
def fkBoard (k : Nat) : Nat := k / 34
def fkFrame (k : Nat) : Nat := k % 34
/-- The register window of a frame key, and of a board key. -/
def fkBase (k : Nat) : Nat := frameBase (keyDie (fkBoard k)) (keyBrd (fkBoard k)) (fkFrame k)
def bkBase (k : Nat) : Nat := boardBase (keyDie k) (keyBrd k)
/-- The register window of a metrology unit (R314, R316). -/
def metBase (u : Nat) : Nat := if u < 32 then dieBase u else hubBase (u - 32) + 0x60000

def State.frame (s : State) (k : Nat) : Frame := mget {} s.frames k
def State.setFrame (s : State) (k : Nat) (x : Frame) : State := { s with frames := mput {} s.frames k x }
def State.board (s : State) (k : Nat) : Board := mget {} s.boards k
def State.setBoard (s : State) (k : Nat) (x : Board) : State := { s with boards := mput {} s.boards k x }
def State.die (s : State) (k : Nat) : DieRec := mget {} s.dies k
def State.setDie (s : State) (k : Nat) (x : DieRec) : State := { s with dies := mput {} s.dies k x }
def State.met (s : State) (k : Nat) : Met := mget {} s.mets k
def State.setMet (s : State) (k : Nat) (x : Met) : State := { s with mets := mput {} s.mets k x }
def State.sess (s : State) (k : Nat) : Sess := mget {} s.hl.sessions k
def State.setSess (s : State) (k : Nat) (x : Sess) : State := { s with hl.sessions := mput {} s.hl.sessions k x }
def State.mbxEnd (s : State) (k : Nat) : MbxEnd := mget {} s.hl.mbx k
def State.setMbx (s : State) (k : Nat) (x : MbxEnd) : State := { s with hl.mbx := mput {} s.hl.mbx k x }
def State.port (s : State) (k : Nat) : Port := mget {} s.hl.ports k
def State.setPort (s : State) (k : Nat) (x : Port) : State := { s with hl.ports := mput {} s.hl.ports k x }
def State.ring (s : State) (k : Nat) : Ring := mget {} s.wk.rings k
def State.setRing (s : State) (k : Nat) (x : Ring) : State := { s with wk.rings := mput {} s.wk.rings k x }
def State.job (s : State) (k : Nat) : Option Job := mget none s.wk.jobs k
def State.setJob (s : State) (k : Nat) (x : Option Job) : State := { s with wk.jobs := mput none s.wk.jobs k x }
def State.handle (s : State) (k : Nat) : Option Handle := mget none s.wk.handles k
def State.setHandle (s : State) (k : Nat) (x : Option Handle) : State :=
  { s with wk.handles := mput none s.wk.handles k x }
def State.score (s : State) (k : Nat) : Score := mget {} s.wk.scores k
def State.setScore (s : State) (k : Nat) (x : Score) : State := { s with wk.scores := mput {} s.wk.scores k x }
def State.link (s : State) (k : Nat) : Link := mget {} s.fb.links k
def State.setLink (s : State) (k : Nat) (x : Link) : State := { s with fb.links := mput {} s.fb.links k x }
def State.sensor (s : State) (k : Nat) : Sensor := mget {} s.th.sensors k
def State.setSensor (s : State) (k : Nat) (x : Sensor) : State := { s with th.sensors := mput {} s.th.sensors k x }
def State.thunit (s : State) (k : Nat) : ThUnit := mget {} s.th.units k
def State.setThunit (s : State) (k : Nat) (x : ThUnit) : State := { s with th.units := mput {} s.th.units k x }
def State.chan (s : State) (k : Nat) : Chan := mget {} s.ms.chans k
def State.setChan (s : State) (k : Nat) (x : Chan) : State := { s with ms.chans := mput {} s.ms.chans k x }

/-- The power state, in the encoding of DEV_STATE (R433). -/
def State.pstate (s : State) : Nat := nfld (s.regN (hubBase 0 + 0x80000)) 0 3

/-- The power state set, in both hubs' registers (hub B's mirror hub A's). -/
def State.setPstate (s : State) (n : Nat) : State :=
  let s := s.setReg (hubBase 0 + 0x80000) (put (s.reg (hubBase 0 + 0x80000)) 0 3 n)
  let s := s.setReg (hubBase 1 + 0x80000) (put (s.reg (hubBase 1 + 0x80000)) 0 3 n)
  { s with pw.alertLow := n == 0 || n == 1 || n == 5 }

/-- The rod digits of the reference rods (R120). -/
def refDigit (q : Nat) : Int := [15, 11, 7, 3, -3, -7, -11, -15].getD q 0

/-- The level a bead column holds where nothing programmed it: the factory patterns of the reference columns (R79,
R120), level 0 elsewhere (log entry 9). -/
def beadDefault (k : Nat) : Nat :=
  let c := k % 544
  if 528 ≤ c then
    let d := refDigit ((c - 528) / 2)
    (if c % 2 = 0 then d else -d).toNat
  else 0

/-- The key of a bead: frame key, plane, row, column. -/
def beadKey (fk p row col : Nat) : Nat := ((fk * 8 + p) * 512 + row) * 544 + col

def State.bead (s : State) (k : Nat) : Nat := mget (beadDefault k) s.beads k
def State.setBead (s : State) (k v : Nat) : State := { s with beads := mput (beadDefault k) s.beads k v }
def State.sideAt (s : State) (fk p row : Nat) : Side := mget {} s.side ((fk * 8 + p) * 512 + row)
def State.setSide (s : State) (fk p row : Nat) (x : Side) : State :=
  { s with side := mput {} s.side ((fk * 8 + p) * 512 + row) x }

/-- The canonical form of memory: addresses strictly rising, and no byte listed that an unlisted address reads as. -/
def Memory.wf (m : SMap Byte) : Bool := mwf (fun _ => (0 : Byte)) m

/-- A byte of memory: 0 where nothing was written (R244, R295, R307). -/
def State.byte (s : State) (a : Nat) : Byte := mget 0 s.mem a

/-- A byte written. -/
def State.setByte (s : State) (a : Nat) (v : Byte) : State := { s with mem := mput 0 s.mem a v }

/-- Bytes written from an address upwards. -/
def writeBytes (m : SMap Byte) (a : Nat) : List Byte → SMap Byte
  | [] => m
  | b :: bs => writeBytes (mput 0 m a b) (a + 1) bs

def State.store (s : State) (a : Nat) (bs : List Byte) : State := { s with mem := writeBytes s.mem a bs }

/-- n bytes from an address upwards. -/
def State.load (s : State) (a n : Nat) : List Byte := (List.range n).map fun i => s.byte (a + i)

/-- Every byte of a range made 0. -/
def State.zeroRange (s : State) (a n : Nat) : State :=
  { s with mem := s.mem.filter fun e => decide (e.1 < a ∨ a + n ≤ e.1) }

/-- Every byte of a range made 0 but those a test keeps. -/
def State.zeroBut (s : State) (a n : Nat) (keep : Nat → Bool) : State :=
  { s with mem := s.mem.filter fun e => decide (e.1 < a ∨ a + n ≤ e.1) || keep e.1 }

/-- A message leaves the module. -/
def State.emit (s : State) (o : Out) : State := { s with sent := s.sent ++ [o] }

/-- An entry of the event log (R368, R345). -/
def State.log (s : State) (code : Nat) (detail : List Nat) : State :=
  { s with evlog := s.evlog ++ [{ code := code, rk := s.ck.rk, detail := detail }] }

/-- The next index of a free value taken. -/
def State.take (s : State) (n : Nat) : State := { s with fresh := s.fresh + n }

end Sys2Proof.Machine
end

