-- ==== Sys2Proof/Machine/ActTables.lean ====
section
/-! DEFINITION. The contents of activation tables 0-4 (R226): 256 words each, slope in bits [15:0] and intercept in
bits [31:16], both BF16, computed from R226's formulas with each function evaluated as an exact real function. Word i
of a table is bits [32 i + 31 : 32 i] of its number. -/

namespace Sys2Proof.Machine

/-- GELU in the erf form (R226). -/
def actTable0 : Nat :=
  0xA7E63F80A83D3F80A89A3F80A8FC3F80A94C3F80A9A53F80AA053F80AA553F80AAAA3F80AB073F80AB573F80ABA93F80AC053F80AC513F80ACA33F80ACFD3F80AD443F80AD973F80ADE83F80AE323F80AE873F80AECE3F80AF1B3F80AF6A3F80AFB03F80B0033F80B0443F80B0913F80B0D63F80B11E3F80B1673F80B1A93F80B1F53F80B2323F80B2803F80B2B83F80B3043F80B33C3F80B3853F80B3BD3F80B4053F80B43B3F80B4833F80B4B63F80B4FC3F80B52E3F80B5703F80B5A53F80B5E13F80B6193F80B64F3F80B68C3F80B6BC3F80B6FC3F80B7283F80B75F3F80B7933F80B7C23F80B7FF3F80B8273F80B8593F80B88D3F80B8B63F80B8EB3F80B9163F80B9403F80B9743F80B99B3F80B9C33F80B9F53F80BA1A3F80BA3F3F80BA6E3F80BA933F80BCE13F81BCE03F81BCDF3F81BCDF3F81BCDF3F81BCE03F81BD503F82BD503F82BD503F82BD953F83BD953F83BD953F83BDBF3F84BDE83F85BDE83F85BE073F86BE073F86BE1A3F87BE2C3F88BE3E3F89BE4E3F8ABE4E3F8ABE5F3F8BBE6E3F8CBE7D3F8DBE863F8EBE8D3F8FBE8D3F8FBE933F90BE933F90BE933F90BE933F90BE943F90BE943F90BE8F3F8FBE8A3F8EBE863F8DBE813F8CBE733F8ABE5C3F87BE4E3F85BE3A3F82BE223F7CBE0F3F75BDF13F6CBDC93F63BDA13F59BD7B3F4FBD333F43BCF93F38BC993F2CBC213F20BB633F13B9B43F06B9D43EF3BB633EDABC1C3EC1BC993EA8BCF93E90BD363E72BD783E46BDA13E1CBDC83DE9BDF23D9FBE0E3D38BE233C73BE38BC49BE4CBD15BE5FBD6BBE70BD9ABE7FBDB9BE86BDD2BE8CBDE6BE90BDF5BE94BE00BE96BE03BE96BE04BE96BE03BE94BE01BE92BDFCBE8EBDF3BE8ABDE9BE85BDDDBE7DBDD0BE71BDC3BE64BDB5BE57BDA8BE48BD9ABE3ABD8DBE2CBD7FBE1DBD66BE10BD4FBE03BD38BDEDBD24BDD5BD11BDBFBCFFBDAABCDFBD96BCC2BD84BCA8BD68BC91BD4BBC79BD30BC54BD18BC35BD03BC19BCE0BC01BCBFBBD8BCA2BBB4BC89BB96BC66BB78BC40BB4CBC20BB28BC05BB09BBDBBADFBBB4BAB4BB93BA91BB6FBA69BB43BA3BBB1DBA15BAFBB9EBBACAB9BABAA1B992BA7FB965BA49B932BA1EB90AB9F8B8D6B9C2B8A5B996B87CB968B841B932B812B909B7DEB8D0B7A7B89EB77BB870B73CB835B70CB807B6CFB7CAB699B796B661B75FB625B725B5F1B6F2B5AFB6B1B57DB681B536B63BB503B607B4BBB5C2B485B58BB43DB546B405B50DB3BCB4C8B384B48DB338B446B2FFB40AB2B1B3C1B274B385B227B338B1E5B2FEB19CB2ADB153B26DB10FB220B0C0B1DAB081B192B02CB145AFE5B104AF98B0AFAF48B067AF03B019AEACAFC9AE60AF83AE11AF2BADBCAEDFAD72AE90AD1BAE3AACC7ADEEAC7DAD98AC20AD41ABCAACF5AB7EAC9BAB1FAC43AAC7ABF4AA77AB98AA19AB3DA9BCAAEAA967

/-- SiLU (R226). -/
def actTable1 : Nat :=
  0xBB353F80BB3F3F80BB4A3F80BB553F80BB613F80BB6D3F80BB7A3F80BB843F80BB8C3F80BB933F80BD7E3F81BD7E3F81BD7D3F81BD7C3F81BD7B3F81BD7A3F81BD7A3F81BD793F81BD793F81BD783F81BD783F81BD783F81BD783F81BD783F81BD783F81BD783F81BD793F81BD793F81BD7A3F81BD7A3F81BD7B3F81BDDF3F82BDDE3F82BDDE3F82BDDE3F82BDDD3F82BDDD3F82BDDD3F82BDDD3F82BDDE3F82BDDE3F82BE1A3F83BE1A3F83BE1A3F83BE1A3F83BE1A3F83BE1A3F83BE1A3F83BE1A3F83BE423F84BE423F84BE423F84BE423F84BE423F84BE673F85BE673F85BE673F85BE673F85BE673F85BE853F86BE853F86BE853F86BE853F86BE953F87BE953F87BE953F87BE953F87BEA43F88BEA43F88BEA43F88BEB33F89BEB33F89BEB33F89BEB33F89BEC03F8ABEC03F8ABEC03F8ABECD3F8BBECD3F8BBECD3F8BBECD3F8BBED93F8CBED93F8CBED93F8CBED93F8CBED93F8CBEE33F8DBEE33F8DBEE33F8DBEE33F8DBEE33F8DBEE33F8DBEE33F8DBEDA3F8CBEDA3F8CBEDA3F8CBED23F8BBED23F8BBECB3F8ABECB3F8ABEC43F89BEBD3F88BEB63F87BEB03F86BEAA3F85BE9F3F83BE993F82BE8F3F80BE873F7DBE7B3F79BE653F74BE543F70BE403F6BBE2D3F66BE183F60BE083F5BBDEB3F55BDC53F4EBDA73F48BD873F41BD563F3ABD253F33BCE93F2BBCA33F24BC453F1CBBC83F14BB103F0CB9803F04B9803EF8BB103EE8BBC83ED8BC453EC8BC9F3EB9BCE93EAABD223E9BBD563E8CBD873E7CBDA53E61BDC63E47BDEA3E2DBE073E15BE193DFDBE2C3DD1BE403DA8BE533D81BE663D3ABE793CEDBE863C5FBE8FBA12BE98BC5EBEA0BCD0BEA8BD14BEAFBD3CBEB6BD60BEBDBD80BEC3BD8EBEC8BD9BBECDBDA6BED2BDAFBED6BDB7BED9BDBDBEDBBDC2BEDDBDC6BEDFBDC9BEE0BDCBBEE1BDCCBEE1BDCCBEE1BDCCBEE0BDCBBEDFBDC9BEDDBDC7BEDBBDC4BED9BDC1BED7BDBEBED4BDBABED1BDB6BECEBDB2BECBBDAEBEC8BDAABEC4BDA5BEC0BDA0BEBDBD9CBEB9BD97BEB4BD92BEB1BD8EBEACBD89BEA8BD84BEA4BD7FBE9FBD76BE9BBD6DBE97BD65BE93BD5CBE8FBD54BE8ABD4BBE86BD43BE82BD3CBE7CBD34BE75BD2DBE6DBD26BE65BD1FBE5EBD18BE57BD12BE4FBD0BBE48BD05BE41BCFFBE3BBCF4BE34BCE9BE2EBCDFBE27BCD5BE21BCCBBE1BBCC2BE15BCB9BE10BCB0BE0ABCA8BE05BCA0BE00BC99BDF7BC92BDEDBC8BBDE3BC84BDDABC7CBDD2BC70BDCABC65BDC2BC5ABDBABC4FBDB2BC45BDABBC3BBDA4BC32BD9DBC2ABD96BC21BD90BC19BD8BBC12BD85BC0BBD7EBC04BD73BBFABD69BBEEBD5FBBE2BD55BBD6BD4CBBCCBD43BBC1BD3BBBB8BD32BBAEBD2BBBA6BD23BB9DBD1CBB95BD15BB8DBD0EBB86BD08BB7FBD02BB72BCF9BB65BCEDBB59BCE3BB4EBCD9BB44BCCFBB39BCC6BB30BCBDBB27BCB4BB1E

/-- Sigmoid (R226). -/
def actTable2 : Nat :=
  0x3F7F39B53F7F39C13F7F39CD3F7F39DB3F7F39E93F7F39F83F7F3A043F7F3A0C3F7F3A153F7F3A1F3F7F3A293F7F3A343F7E3A403F7E3A4C3F7E3A593F7E3A673F7E3A763F7E3A833F7E3A8B3F7E3A943F7E3A9E3F7D3AA83F7D3AB33F7D3ABE3F7D3ACB3F7D3AD83F7D3AE63F7D3AF43F7C3B023F7C3B0A3F7C3B133F7C3B1D3F7B3B273F7B3B313F7B3B3D3F7B3B493F7A3B563F7A3B643F7A3B723F793B813F793B893F793B923F783B9B3F783BA53F773BB03F773BBB3F773BC73F763BD33F753BE13F753BEF3F743BFE3F743C073F733C103F723C193F723C223F713C2D3F703C383F6F3C433F6F3C4F3F6E3C5C3F6D3C6A3F6C3C793F6B3C843F6A3C8C3F693C953F683C9E3F663CA83F653CB33F643CBD3F633CC93F613CD53F603CE23F5E3CF03F5D3CFF3F5B3D073F593D0F3F583D183F563D203F543D2A3F523D343F503D3E3F4E3D493F4C3D553F4A3D613F483D6E3F463D7B3F433D853F413D8C3F3F3D933F3C3D9B3F3A3DA43F373DAC3F353DB53F323DBE3F303DC83F2D3DD23F2A3DDC3F283DE73F253DF23F233DFD3F203E043F1E3E0A3F1B3E103F193E163F173E1C3F153E223F133E283F113E2E3F0F3E343F0D3E3A3F0B3E403F0A3E463F083E4C3F073E523F063E573F043E5D3F043E623F033E663F023E6B3F013E6F3F013E723F013E763F003E793F003E7B3F003E7D3F003E7E3F003E7F3F003E803F003E803F003E7F3F003E7E3F003E7D3F003E7B3EFF3E793EFF3E763EFE3E723EFD3E6F3EFC3E6B3EFA3E663EF93E623EF73E5D3EF53E573EF23E523EF03E4C3EED3E463EE93E403EE63E3A3EE33E343EDF3E2E3EDB3E283ED73E223ED23E1C3ECE3E163EC93E103EC43E0A3EBF3E043EBA3DFD3EB53DF23EB03DE73EAB3DDC3EA63DD23EA13DC83E9C3DBE3E973DB53E923DAC3E8D3DA43E883D9B3E833D933E7D3D8C3E743D853E6A3D7B3E613D6E3E583D613E503D553E473D493E3F3D3E3E383D343E303D2A3E283D203E223D183E1A3D0F3E143D073E0D3CFF3E073CF03E013CE23DF63CD53DEB3CC93DE03CBD3DD73CB33DCC3CA83DC33C9E3DBA3C953DB13C8C3DA93C843DA13C793D993C6A3D923C5C3D8B3C4F3D843C433D7C3C383D703C2D3D633C223D593C193D4E3C103D433C073D3A3BFE3D313BEF3D283BE13D1F3BD33D183BC73D103BBB3D093BB03D023BA53CF63B9B3CEA3B923CDE3B893CD33B813CC83B723CBE3B643CB43B563CAA3B493CA23B3D3C993B313C913B273C8A3B1D3C823B133C773B0A3C6B3B023C5E3AF43C533AE63C483AD83C3E3ACB3C333ABE3C2A3AB33C213AA83C183A9E3C103A943C083A8B3C013A833BF53A763BE83A673BDC3A593BD03A4C3BC53A403BBA3A343BB03A293BA73A1F3B9E3A153B953A0C3B8E3A043B8639F83B7E39E93B7039DB3B6339CD3B5739C13B4B39B5

/-- Hyperbolic tangent (R226). -/
def actTable3 : Nat :=
  0x3F7E3AB53F7E3AC13F7E3ACD3F7E3ADB3F7E3AE93F7E3AF83F7E3B043F7E3B0C3F7E3B153F7D3B1F3F7D3B293F7D3B343F7D3B403F7D3B4C3F7D3B593F7C3B673F7C3B763F7C3B833F7C3B8B3F7B3B943F7B3B9E3F7B3BA83F7B3BB33F7A3BBE3F7A3BCB3F7A3BD83F793BE63F793BF43F793C023F783C0A3F783C133F773C1D3F773C273F763C313F763C3D3F753C493F753C563F743C643F743C723F733C813F723C893F713C923F713C9B3F703CA53F6F3CB03F6E3CBB3F6D3CC73F6C3CD33F6B3CE13F6A3CEF3F693CFE3F683D073F663D103F653D193F643D223F623D2D3F613D383F5F3D433F5D3D4F3F5C3D5C3F5A3D6A3F583D793F563D843F543D8C3F523D953F4F3D9E3F4D3DA83F4A3DB33F483DBD3F453DC93F423DD53F403DE23F3C3DF03F393DFF3F363E073F333E0F3F2F3E183F2C3E203F283E2A3F243E343F203E3E3F1C3E493F183E553F143E613F0F3E6E3F0B3E7B3F063E853F023E8C3EFB3E933EF13E9B3EE63EA43EDD3EAC3ED33EB53EC93EBE3EBE3EC83EB43ED23EAA3EDC3E9F3EE73E953EF23E8B3EFD3E813F043E6F3F0A3E5B3F103E483F163E373F1C3E253F223E153F283E053F2E3DEC3F343DCF3F3A3DB43F403D9B3F463D833F4C3D583F523D353F573D0E3F5D3CE03F623CB53F663C823F6B3C3D3F6F3C0D3F723BAA3F763B463F793AEF3F7B3A5E3F7D39ED3F7E391C3F7FB5AB3F8035AB3F80B91C3F7FB9ED3F7EBA5E3F7DBAEF3F7BBB463F79BBAA3F76BC0D3F72BC3D3F6FBC823F6BBCB53F66BCE03F62BD0E3F5DBD353F57BD583F52BD833F4CBD9B3F46BDB43F40BDCF3F3ABDEC3F34BE053F2EBE153F28BE253F22BE373F1CBE483F16BE5B3F10BE6F3F0ABE813F04BE8B3EFDBE953EF2BE9F3EE7BEAA3EDCBEB43ED2BEBE3EC8BEC93EBEBED33EB5BEDD3EACBEE63EA4BEF13E9BBEFB3E93BF023E8CBF063E85BF0B3E7BBF0F3E6EBF143E61BF183E55BF1C3E49BF203E3EBF243E34BF283E2ABF2C3E20BF2F3E18BF333E0FBF363E07BF393DFFBF3C3DF0BF403DE2BF423DD5BF453DC9BF483DBDBF4A3DB3BF4D3DA8BF4F3D9EBF523D95BF543D8CBF563D84BF583D79BF5A3D6ABF5C3D5CBF5D3D4FBF5F3D43BF613D38BF623D2DBF643D22BF653D19BF663D10BF683D07BF693CFEBF6A3CEFBF6B3CE1BF6C3CD3BF6D3CC7BF6E3CBBBF6F3CB0BF703CA5BF713C9BBF713C92BF723C89BF733C81BF743C72BF743C64BF753C56BF753C49BF763C3DBF763C31BF773C27BF773C1DBF783C13BF783C0ABF793C02BF793BF4BF793BE6BF7A3BD8BF7A3BCBBF7A3BBEBF7B3BB3BF7B3BA8BF7B3B9EBF7B3B94BF7C3B8BBF7C3B83BF7C3B76BF7C3B67BF7D3B59BF7D3B4CBF7D3B40BF7D3B34BF7D3B29BF7D3B1FBF7E3B15BF7E3B0CBF7E3B04BF7E3AF8BF7E3AE9BF7E3ADBBF7E3ACDBF7E3AC1BF7E3AB5

/-- Exponential (R226). -/
def actTable4 : Nat :=
  0x3F803F783F7F3F693F7D3F5B3F7B3F4E3F783F413F743F363F703F2B3F6B3F203F673F173F613F0D3F5C3F053F573EFA3F513EEA3F4B3EDC3F453ECF3F3F3EC23F3A3EB73F343EAC3F2E3EA13F283E973F223E8E3F1D3E863F173E7B3F123E6C3F0C3E5D3F073E503F023E433EFA3E383EEF3E2C3EE63E223EDD3E183ED43E0F3ECB3E063EC33DFC3EBB3DED3EB33DDF3EAB3DD13EA53DC53E9D3DB93E963DAD3E903DA33E893D993E843D903E7B3D873E703D7E3E653D6E3E5B3D603E503D523E473D463E3E3D3A3E353D2E3E2D3D243E253D1A3E1D3D113E163D083E0E3CFF3E083CF03E013CE13DF73CD43DEB3CC73DDF3CBB3DD43CAF3DCA3CA53DC03C9B3DB63C913DAE3C893DA53C803D9D3C713D963C633D8E3C553D873C483D803C3C3D733C303D683C263D5D3C1C3D513C123D463C093D3C3C013D333BF33D2A3BE43D213BD63D193BC93D113BBD3D0A3BB13D033BA73CF93B9D3CEB3B933CDF3B8A3CD43B823CC93B743CBF3B653CB53B573CAB3B4A3CA33B3E3C9A3B323C923B283C8A3B1D3C833B143C793B0B3C6C3B033C5F3AF53C533AE63C483AD83C3E3ACB3C343ABF3C2A3AB33C223AA93C183A9E3C113A953C093A8C3C013A833BF63A773BE93A683BDD3A5A3BD03A4C3BC53A403BBA3A343BB13A2A3BA73A1F3B9F3A163B963A0D3B8E3A043B8639F83B7E39E93B7039DB3B6439CE3B5739C13B4B39B53B4039AA3B3639A03B2C39963B23398D3B1A39853B1139793B0A396A3B02395C3AF7394F3AE939423ADD39373AD0392B3AC539213ABA39173AB0390E3AA739063A9D38FB3A9538EC3A8C38DD3A8538D03A7B38C33A6E38B83A6038AC3A5438A23A4838983A3D388F3A3338863A29387C3A20386D3A17385F3A0E38513A06384439FF383939F0382D39E3382339D7381939CB381039BF380739B537FE39AB37EE39A137E0399837D2399037C6398837BA398037AE397337A43965379A39593791394D37883941377F39363770392C376139233754391A37473911373B3908372F3901372538F4371B38E5371138DA370938CD370038C136F138B636E238AD36D538A336C8389A36BC389136B0388936A63881369C387436923866368938593681384D36723842366438373656382C36493823363D38193631381136273809361D3801361337F3360A37E6360237D935F437CC35E537C135D737B635CA37AC35BE37A235B2379935A83790359D378835943780358B377335833764357537573566374B35583740354B3735353F372A3533372135293718351E370F35153707350C36FE350336F134F736E334E836D634DA36C934CC36BE34C036B334B436A934A9369F349F36973496368D348C36863484367C3478366E34693661345B3654344E36473441363C34353631342A36273420361D34163614340D360D3405360433F9

/-- Word i of firmware table t (R226). -/
def actWord (t i : Nat) : Nat :=
  nfld ([actTable0, actTable1, actTable2, actTable3, actTable4].getD t 0) (32 * i) 32

/-- What firmware writes at a board offset of the activation tables 0-4 and their configurations (R226). -/
def fwAct (o : Nat) : Nat :=
  if inRange o 0x42000 0x433FC 4 then actWord ((o - 0x42000) / 1024) ((o - 0x42000) % 1024 / 4)
  else if o = 0x4110C then 0x2C080
  else if o = 0x41110 then 0x3C180
  else if inRange o 0x41100 0x41108 4 then 0x3C100
  else 0

/-- An activation register of a board. Once Porell wrote its tables on a die, the register file holds the difference
from them, so that what firmware wrote is listed nowhere. -/
def State.actDelta (s : State) (bk o : Nat) : Word :=
  if (s.die (keyDie bk)).tables ∧ fwAct o ≠ 0 then BitVec.ofNat 32 (fwAct o) ^^^ regReset (bkBase bk + o) else 0

def State.actReg (s : State) (bk o : Nat) : Word := s.reg (bkBase bk + o) ^^^ s.actDelta bk o

def State.setAct (s : State) (bk o : Nat) (w : Word) : State := s.setReg (bkBase bk + o) (w ^^^ s.actDelta bk o)

end Sys2Proof.Machine
end

