-- ==== Sys2Proof/Machine/Ops.lean ====
section
/-! DEFINITION. Shared operations: messages and events to the host (R326, R331, R332, R370), the ledger (R456-R464,
R469), and the checks and replies of commands (R357, R360, R361, R363, R366, R367). -/

namespace Sys2Proof.Machine

/-- Bytes of registers of a hub's port. -/
def spm (h x : Nat) : Nat := hubBase h + 0x40000 + x

/-- The key of session n of hub h. -/
def sessKey (h n : Nat) : Nat := 16 * h + n

/-- The VLAN tag of the frames a port sends: none for vid 0 (R320). -/
def State.vlanTag (s : State) (h : Nat) : Option (Nat × Nat) :=
  let c := s.reg (spm h 0)
  if fld c 8 12 = 0 then none else some (fld c 8 12, fld c 20 3)

/-- The bytes of a message: the header of R325 and the payload; `sb` is the session byte. The window the module gives is its
receive buffer of 64 messages (R348), which a step leaves empty (log entry 121). -/
def msgBytes (sb type : Nat) (retx : Bool) (seq ack msgId offset : Nat) (payload : List Byte) : List Byte :=
  let h := leBytes 2 0x534D ++ leBytes 1 1 ++ leBytes 1 (type + 64 * b2n retx) ++ leBytes 1 sb ++ leBytes 1 0 ++
    leBytes 2 payload.length ++ leBytes 4 seq ++ leBytes 4 ack ++ leBytes 4 64 ++ leBytes 4 msgId ++ leBytes 4 offset
  h ++ leBytes 4 (crc32c (h ++ payload)) ++ payload

/-- A message leaves by a port, which counts it (R320, R350). -/
def State.sendFrame (s : State) (h : Nat) (dst : Endpoint) (bytes : List Byte) : State :=
  (s.bump (spm h 0x44) 1).emit (.frame h dst (s.vlanTag h) bytes)

/-- A message of a session leaves by the port of its latest message, in that message's form and to its source (R324, R330). -/
def State.sendOn (s : State) (k type : Nat) (retx : Bool) (seq msgId offset : Nat) (payload : List Byte) : State :=
  let x := s.sess k
  s.sendFrame x.port x.endp (msgBytes k type retx seq x.rx msgId offset payload)

/-- The port by which a session's messages leave is secured (R321). -/
def State.portUp (s : State) (k : Nat) : Bool := (s.port (s.sess k).port).secured

/-- A session may send one more sequenced message of a type: fewer than 64 are unacknowledged and, but for a NAK, fewer than the
host's window (R332). -/
def Sess.room (x : Sess) (type : Nat) : Bool :=
  decide (x.unacked.length < 64) && (type == 8 || decide (x.unacked.length < x.window))

/-- A sequenced message put on a session (R331, R332): sent at once where the session has room for it, its port is secured
(R321) and, but for a NAK, none waits before it, else waiting; dropped on a closed session. -/
def State.sendMsg (s : State) (k type : Nat) (payload : List Byte) (msgId : Nat := 0) (offset : Nat := 0)
    (finals : List (Nat × Nat) := []) (applies : Option Nat := none) : State :=
  let x := s.sess k
  if !x.opened then s
  else
    let m : OMsg := { type := type, payload := payload, msgId := msgId, offset := offset, finals := finals,
                      applies := applies, at_ := s.now, seq := x.tx, tries := 1 }
    if s.portUp k && x.room type && (type == 8 || x.waiting.isEmpty) then
      let s := s.setSess k { x with tx := (x.tx + 1) % 2 ^ 32, unacked := x.unacked ++ [m] }
      s.sendOn k type false x.tx msgId offset payload
    else s.setSess k { x with waiting := x.waiting ++ [m] }

/-- The waiting messages of a session that it now has room for, in their order (R332). -/
def State.drain : Nat → State → Nat → State
  | 0, s, _ => s
  | f + 1, s, k =>
    let x := s.sess k
    match x.waiting.find? fun m => x.room m.type with
    | some w =>
      if !s.portUp k then s
      else
        let m := { w with seq := x.tx, at_ := s.now, tries := 1 }
        let s := s.setSess k { x with tx := (x.tx + 1) % 2 ^ 32, unacked := x.unacked ++ [m], waiting := x.waiting.erase w }
        State.drain f (s.sendOn k m.type false m.seq m.msgId m.offset m.payload) k
    | none => s

/-- An EVENT of a code to every open session that selects it; codes 1-3 to all (R370). Codes 4 and 5 also raise
SMB_ALERT_N (R364). -/
def State.event (s : State) (code : Nat) (detail : List Byte := []) : State :=
  let s := if code = 4 ∨ code = 5 then { s with hl.sbEvent := true } else s
  let p := leBytes 2 code ++ leBytes 6 s.ck.rk ++ detail
  ((List.range 32).foldl (fun s k =>
    if code ≤ 3 || (s.sess k).events.testBit (code - 1) then s.sendMsg k 6 p else s) s).log code (detail.map (·.toNat))

/-! The ledger. -/

def slotKey (copy page i : Nat) : Nat := (copy * 1024 + page) * 2 + i

def State.lslot (s : State) (copy page i : Nat) : LSlot := mget {} s.lg.slots (slotKey copy page i)

/-- The CRC of a slot (R456). -/
def LSlot.sum (x : LSlot) : Nat :=
  crc32c (x.data ++ leBytes 2 x.page ++ [BitVec.ofNat 8 (b2n x.single), 0] ++ leBytes 4 x.seq ++ leBytes 4 0)

/-- A slot is valid when its CRC matches (R456). -/
def LSlot.valid (x : LSlot) : Bool := x.page != 0xFFFF && x.crc == x.sum

/-- A slot with its header completed. -/
def mkSlot (page seq : Nat) (single : Bool) (data : List Byte) : LSlot :=
  let x : LSlot := { data := data, page := page, single := single, seq := seq, crc := 0 }
  { x with crc := x.sum }

/-- Sequence a is newer than b, modulo 2^32 (R456). -/
def newer (a b : Nat) : Bool := decide (0 < (a + 2 ^ 32 - b) % 2 ^ 32 ∧ (a + 2 ^ 32 - b) % 2 ^ 32 < 2 ^ 31)

/-- The copies in service. -/
def State.copies (s : State) : List Nat := (List.range 2).filter fun c => s.lg.inServ.getD c false

/-- The slots of a page that meet R460, as (copy, slot). -/
def State.committable (s : State) (page : Nat) : List (Nat × Nat) :=
  s.copies.flatMap fun c => (List.range 2).filterMap fun i =>
    let x := s.lslot c page i
    if x.valid && (c == 1 || x.single || (List.range 2).any fun j =>
        let y := s.lslot (1 - c) page j
        y.valid && y.seq == x.seq) then some (c, i) else none

/-- The committed slot of a page (R460). -/
def State.committed (s : State) (page : Nat) : Option (Nat × Nat) :=
  (s.committable page).foldl (fun b e =>
    match b with
    | none => some e
    | some o => if newer (s.lslot e.1 page e.2).seq (s.lslot o.1 page o.2).seq then some e else b) none

/-- The contents of a page: 256 zero bytes where no slot is committed (R460). -/
def State.page (s : State) (page : Nat) : List Byte :=
  match s.committed page with
  | some (c, i) => (s.lslot c page i).data
  | none => List.replicate 256 0

/-- The pages of a region: first and one past the last (R455). -/
def regionPages (r : Nat) : Nat × Nat :=
  [(0, 24), (24, 440), (440, 568), (568, 570), (570, 762), (762, 858), (858, 906), (906, 1024)].getD r (0, 0)

/-- n pages from page p. -/
def State.pages (s : State) (p n : Nat) : List Byte := (List.range n).flatMap fun i => s.page (p + i)

/-- The latest code of a channel of a unit (R419). -/
def State.lastCode (s : State) (u ch : Nat) : Int := sfld (s.reg (metBase u + 0x800 + 8 * ch)) 0 24

/-- The pre-write checks of R457 as LDG_STAT.refusal encodes them: 0 all hold. -/
def State.prewrite (s : State) : Nat :=
  let v := s.lastCode 32 12
  if v < 6300000 then 1
  else if s.pw.failN then 2
  else if !(bit (s.reg (hubBase 0 + 0x80010)) 16) then 3
  else if s.pw.vsbHigh || decide (7200000 < v) then 4
  else 0

/-- The slot written in one copy, with its wear (R458, R467). -/
def State.writeSlot (s : State) (copy page i : Nat) (x : LSlot) : State :=
  let k := slotKey copy page i
  let w := mget 0 s.lg.wear k + 1
  let a := hubBase copy + 0x90004
  let s := { s with lg.slots := mput {} s.lg.slots k x, lg.wear := mput 0 s.lg.wear k w }
  if fld (s.reg a) 0 17 < w then s.setRegN a (hold 131071 w + page * 2 ^ 17) else s

/-- A page write with its checks passed (R458): the alternate slot of every copy in service, the next sequence. -/
def State.commitPage (s : State) (page : Nat) (bs : List Byte) : State :=
  let (i, seq) := match s.committed page with
    | some (c, i) => (1 - i, ((s.lslot c page i).seq + 1) % 2 ^ 32)
    | none => (0, 0)
  let x := mkSlot page seq (s.copies.length == 1) (padTo 0 256 bs)
  s.copies.foldl (fun s c => (s.writeSlot c page i x).bump (hubBase c + 0x90040) 1) s

/-- A write that meets R457, or its refusal recorded (R457). -/
def State.ledgerWrite (s : State) (page : Nat) (bs : List Byte) : State × Bool :=
  let p := s.prewrite
  if p = 0 ∧ s.copies ≠ [] then (s.commitPage page bs, true)
  else
    let f := fun (s : State) c =>
      let a := hubBase c + 0x90000
      (s.setReg a (put (s.reg a) 12 3 p)).bump (hubBase c + 0x90044) 1
    ((List.range 2).foldl f { s with lg.refusal := p }, false)

/-- Bytes of a region replaced from a byte offset on, page by page. -/
def State.ledgerPatch (s : State) (page off : Nat) (bs : List Byte) : State × Bool :=
  s.ledgerWrite (page + off / 256) (patch (s.page (page + off / 256)) (off % 256) bs)

/-- A run of bytes written over whole pages. -/
def State.ledgerPages (s : State) (page : Nat) : Nat → List Byte → State × Bool
  | 0, _ => (s, true)
  | n + 1, bs =>
    match s.ledgerWrite page (bs.take 256) with
    | (s, true) => State.ledgerPages s (page + 1) n (bs.drop 256)
    | r => r

def cellKey (copy k i : Nat) : Nat := (copy * 64 + k) * 64 + i

/-- A counter cell: tag and check (R462). -/
def State.cell (s : State) (copy k i : Nat) : Nat × Nat := mget (255, 255) s.lg.cells (cellKey copy k i)

def State.setCell (s : State) (copy k i : Nat) (v : Nat × Nat) : State :=
  { s with lg.cells := mput (255, 255) s.lg.cells (cellKey copy k i) v }

/-- A counter's base and generation (R462). -/
def State.ctrBase (s : State) (k : Nat) : Nat := leAt (s.page (568 + k / 32)) (8 * (k % 32)) 6
def State.ctrGen (s : State) (k : Nat) : Nat := leAt (s.page (568 + k / 32)) (8 * (k % 32) + 6) 1

/-- A cell is set: its check is the complement of its tag and its tag is the generation (R462). -/
def cellSet (g : Nat) (c : Nat × Nat) : Bool := c.1 == g && c.2 == 255 - g

/-- The copy that decides: hub B's while in service, else the survivor's (R464). -/
def State.judge (s : State) : Nat := if s.lg.inServ.getD 1 false then 1 else 0

/-- The set cells of a counter. -/
def State.cellsSet (s : State) (k : Nat) : Nat :=
  ((List.range 64).filter fun i => cellSet (s.ctrGen k) (s.cell s.judge k i)).length

/-- A counter's value (R462). -/
def State.counter (s : State) (k : Nat) : Nat := s.ctrBase k + s.cellsSet k

/-- An increment (R463): the fold where every cell is set, then the lowest cell not set. -/
def State.ctrInc (s : State) (k : Nat) : State × Bool :=
  if s.prewrite ≠ 0 ∨ s.copies = [] then s.ledgerWrite (568 + k / 32) (s.page (568 + k / 32))
  else
    let g := s.ctrGen k
    let free := (List.range 64).filter fun i => !cellSet g (s.cell s.judge k i)
    match free with
    | i :: _ => (s.copies.foldl (fun s c => s.setCell c k i (g, 255 - g)) s, true)
    | [] =>
      let g' := (g + 1) % 256
      match s.ledgerPatch 568 (8 * k) (leBytes 6 (s.ctrBase k + 64) ++ leBytes 1 g') with
      | (s, true) => (s.copies.foldl (fun s c => s.setCell c k 0 (g', 255 - g')) s, true)
      | r => r

/-- An audit entry appended (R469), counted in counter 6. -/
def State.audit (s : State) (role src code : Nat) (args : List Word) : State × Bool :=
  let e := s.counter 6
  let rk := if s.ck.on then s.ck.rk else 0
  let bs := leBytes 4 e ++ leBytes 8 rk ++ leBytes 1 role ++ leBytes 1 src ++ leBytes 2 code ++
    padTo 0 16 (wordsToBytes (args.take 4))
  match s.ledgerPatch 570 (32 * (e % 1536)) bs with
  | (s, true) => s.ctrInc 6
  | r => r

/-- The queued page writes carried out in order (R457). -/
def State.flushLedger (s : State) : Nat → State
  | 0 => s
  | n + 1 =>
    match s.lg.queue with
    | (p, bs) :: r => State.flushLedger (({ s with lg.queue := r }).ledgerWrite p bs).1 n
    | [] => s

/-- Every queued page write carried out. -/
def State.flushAll (s : State) : State := s.flushLedger s.lg.queue.length

/-- Who records a module's own entry: a trip is recorded by the management domain (R448, R469). -/
def moduleSource (code : Nat) : Nat := if code = 0xE002 then 64 else 0

/-- A module's own audit entry, after the writes queued before it: role 15 (R469); refused writes leave no entry. -/
def State.auditModule (s : State) (code : Nat) (args : List Word := []) : State :=
  (s.flushAll.audit 15 (moduleSource code) code args).1

/-! Mailboxes (R351-R355). -/

/-- The key of end e of mailbox n of hub h, and its register block. -/
def mbKey (h n e : Nat) : Nat := (h * 8 + n) * 2 + e
def mbBase (h n e : Nat) : Nat := hubBase h + 0x10000 + 0x100 * n + 0x80 * e

/-- A code posted to an end's MBX_ACKIN, with its interrupt status (R353). -/
def State.mbPost (s : State) (h n e code : Nat) : State :=
  let s := s.setMbx (mbKey h n e) { s.mbxEnd (mbKey h n e) with code := code, valid := true }
  s.setReg (mbBase h n e + 0x20) (s.reg (mbBase h n e + 0x20) ||| 2)

/-- A message delivered from end e to the other end (R352). -/
def State.mbDeliver (s : State) (h n e : Nat) (ws : List Word) : State :=
  let x := s.mbxEnd (mbKey h n e)
  let s := s.setMbx (mbKey h n e) { x with send := [], busy := true, waking := false, sentAt := s.now }
  let s := s.setMbx (mbKey h n (1 - e)) { s.mbxEnd (mbKey h n (1 - e)) with recv := some ws }
  let s := s.setReg (mbBase h n (1 - e) + 0x20) (s.reg (mbBase h n (1 - e) + 0x20) ||| 1)
  s.bump (mbBase h n e + 0x24) 1

/-- The receiver at end e acknowledges (R353). -/
def State.mbAck (s : State) (h n e code : Nat) : State :=
  match (s.mbxEnd (mbKey h n e)).recv with
  | none => s
  | some _ =>
    let s := s.setMbx (mbKey h n e) { s.mbxEnd (mbKey h n e) with recv := none }
    let s := s.setMbx (mbKey h n (1 - e)) { s.mbxEnd (mbKey h n (1 - e)) with busy := false }
    s.mbPost h n (1 - e) code

/-- The opcodes of R368. -/
def knownOps : List Nat :=
  [0x0100, 0x0101, 0x0102, 0x0103, 0x0104, 0x0105, 0x0200, 0x0201, 0x0202, 0x0203, 0x0204, 0x0300, 0x0301, 0x0302, 0x0303,
   0x0400, 0x0401, 0x0402, 0x0403, 0x0404, 0x0500, 0x0501, 0x0502, 0x0503, 0x0504, 0x0505, 0x0506, 0x0507, 0x0600, 0x0601] ++
  [0x0602, 0x0603, 0x0604, 0x0605, 0x0606, 0x0700, 0x0701, 0x0702, 0x0800, 0x0801, 0x0802, 0x0803, 0x0804, 0x0900, 0x0901,
   0x0902, 0x0903, 0x0904, 0x0A00, 0x0A01, 0x0A02, 0x0A03, 0x0A04, 0x0A05, 0x0B00, 0x0B01, 0x0B02, 0x0B03, 0x0B04, 0x0B05] ++
  [0x0B06, 0x0B07, 0x0C00, 0x0C01, 0x0C02, 0x0C03, 0x0C04, 0x0D00, 0x0D01, 0x0D02, 0x0D03, 0x0D04]

/-- A message whose command word names no command of R368 (R366, check 1). -/
def unknownOp (ws : List Word) : Bool := !knownOps.contains (fld (ws.headD 0) 0 16)

/-- The fields of a command message of a source (R356). -/
def reqOf (x : Src) (ws : List Word) : Req :=
  let w := ws.headD 0
  { src := x, tag := fld w 24 8, nargs := fld w 16 4, resv := fld w 20 4, args := ws.drop 1 }

/-- What the protocol engine makes a RESPONSE of: a code with words for the command a tag names (R360). -/
def State.toEngine (s : State) (r : Req) (code : Nat) (words : List Word) (port : Option Nat := none) : State :=
  { s with hl.replies := s.hl.replies ++ [{ src := r.src, tag := r.tag, code := code, words := words, port := port }] }

/-- The message in MB0 taken up: one of an unknown opcode is refused with 0x0101, and the next that waits follows (R357, R366). -/
def State.serveMb0 : Nat → State → Nat → State
  | 0, s, _ => s
  | f + 1, s, h =>
    match (s.mbxEnd (mbKey h 0 1)).recv with
    | some ws =>
      if !unknownOp ws then s
      else
        let s := (s.mbAck h 0 1 0x0101).toEngine (reqOf (.session (if h = 0 then 0 else 1) 0) ws) 0x0101 []
        match s.hl.mb0.find? fun m => m.1 == h with
        | some m => State.serveMb0 f (({ s with hl.mb0 := s.hl.mb0.erase m }).mbDeliver h 0 0 m.2) h
        | none => s
    | none => s

/-- A command message of the protocol engine placed in MB0, or waiting there for the one before it (R352, R360). -/
def State.mb0Put (s : State) (h : Nat) (ws : List Word) : State :=
  if (s.mbxEnd (mbKey h 0 0)).busy then { s with hl.mb0 := s.hl.mb0 ++ [(h, ws)] }
  else State.serveMb0 1 (s.mbDeliver h 0 0 ws) h

/-- Porell's acknowledgement of the message in MB0 or MB1 of a hub; the engine's next message follows (R357). -/
def State.porellAck (s : State) (h n code : Nat) : State :=
  let s := s.mbAck h n 1 code
  if n = 0 ∧ !(s.mbxEnd (mbKey h 0 0)).busy then
    match s.hl.mb0.find? fun m => m.1 == h with
    | some m => State.serveMb0 (s.hl.mb0.length + 1) (({ s with hl.mb0 := s.hl.mb0.erase m }).mbDeliver h 0 0 m.2) h
    | none => s
  else s

/-- A reply message of Porell in MB0 or MB1, in the reverse direction: it is delivered, and its receiver acknowledges it with
0x0000 (R357, R358). -/
def State.replyMsg (s : State) (h n : Nat) (ws : List Word) : State := (s.mbDeliver h n 1 ws).mbAck h n 0 0

/-! Commands. -/

/-- A command's row of R368: opcode, least role, sideband mark, the flags W, C and P, argument words, whether it acts only in
Ready (R363), and whether a reserved bit of its arguments is set (R366). -/
structure Cmd where
  op : Nat
  role : Nat
  sb : Bool
  w : Bool
  c : Bool
  p : Bool
  n : Nat
  ready : Bool := false
  bad : Bool := false
deriving DecidableEq, Repr

/-- What a command's own part answers: a refusal, a failure after its acknowledgement, completion with reply words, or a
reply to come later. -/
inductive Res where
  | refuse (code : Nat) (detail : Nat := 0)
  | fail (code detail : Nat) (s : State)
  | ok (words : List Word) (s : State)
  | pend (key : Nat) (s : State)

/-- The role of a source (R365, R366). -/
def State.role (s : State) : Src → Nat
  | .session h n => (s.sess (sessKey h n)).role
  | .sideband => 0

/-- The source byte of an audit entry (R469). -/
def srcByte : Src → Nat
  | .session h n => n.val + 16 * h.val
  | .sideband => 32

/-- The pending commands of a source. -/
def State.pendOf (s : State) (x : Src) : Nat := (s.hl.pend.filter fun p => decide (p.req.src = x)).length

/-- The key that marks a command deferred until the module is Ready or the W command before it completes. -/
def deferred : Nat := 0xFFFFFFFF

/-- Opcodes with the W mark (R368). -/
def wOps : List Nat :=
  [0x0102, 0x0103, 0x0201, 0x0202, 0x0402, 0x0403, 0x0500, 0x0507, 0x0701, 0x0B03, 0x0B04, 0x0B06, 0x0B07, 0x0C02,
   0x0C04, 0x0D01, 0x0D02, 0x0D03, 0x0D04]

/-- The pending commands that came before a command: all of them, or those before its own deferred entry. -/
def State.ahead (s : State) (r : Req) (op : Nat) : List Pend :=
  s.hl.pend.takeWhile fun p => !decide (p.req = r ∧ p.op = op ∧ p.key = deferred)

/-- A command waits for those before it: a W command for every W command not yet complete, but for SCORE_LOAD, whose loads
overlap, and any command for the deferred ones of its own session, which come first (R361). -/
def State.waits (s : State) (c : Cmd) (r : Req) : Bool :=
  (c.w && (s.ahead r c.op).any fun p => wOps.contains p.op) ||
  (s.ahead r c.op).any fun p => p.key == deferred && decide (p.req.src = r.src)

/-- A session has 8 commands pending (R360). -/
def State.pendFull (s : State) (x : Src) : Bool := decide (x ≠ .sideband) && decide (8 ≤ s.pendOf x)

/-- Commands are answered: from the end of secure boot, and in Off by the management domain (R363, R365). -/
def State.answers (s : State) : Bool := s.pstate == 0 || s.pw.booted.contains true

/-- The commands that the management domain answers in Off (R365). -/
def offOps : List Nat := [0x0100, 0x0101, 0x0A02, 0x0A05, 0x0D00]

/-- Checks 2 to 5 of R366: 0 where all pass. -/
def State.cmdCheck (s : State) (c : Cmd) (r : Req) : Nat :=
  if r.args.length ≠ r.nargs ∨ r.nargs ≠ c.n then 0x0102
  else if r.resv ≠ 0 ∨ c.bad then 0x0103
  else
    let rights : Nat := match r.src with
      | .sideband => if c.sb then 0 else 0x0202
      | .session _ _ => if s.role r.src < c.role then 0x0201 else 0
    if rights ≠ 0 then rights
    else if c.role = 3 ∧ !s.pw.serviceEn then 0x0203
    else if s.pstate = 0 ∧ !(r.src = .sideband ∧ offOps.contains c.op) then 0x0402
    else if c.ready ∧ (s.pstate = 1 ∨ s.pstate = 5) then 0x0401
    else 0

/-- A reply message of Porell to its source: through MB0 to the protocol engine, or through MB1 to the sideband (R357, R364). -/
def State.reply (s : State) (r : Req) (code : Nat) (words : List Word) : State :=
  let w := BitVec.ofNat 32 (code + (words.length % 16) * 2 ^ 16 + (r.tag % 256) * 2 ^ 24)
  match r.src with
  | .session h _ => (s.replyMsg h 0 (w :: words)).toEngine r code words
  | .sideband =>
    let s := s.replyMsg s.hl.sbHub 1 (w :: words)
    { s with hl.sbAwait := false, hl.sbReplies := s.hl.sbReplies ++ [wordsToBytes (w :: words)],
             hl.sbRefused := s.hl.sbRefused || code != 0 }

/-- The acknowledgement of a command message: OK with the reply message that follows at once; any other code without one, of
which the protocol engine makes a RESPONSE (R357, R360, R364). -/
def State.answer (s : State) (r : Req) (code : Nat) (words : List Word) : State :=
  match r.src with
  | .session h _ =>
    let s := s.porellAck h 0 code
    if code = 0 then s.reply r code words else s.toEngine r code words
  | .sideband =>
    let s := s.porellAck s.hl.sbHub 1 code
    if code = 0 then s.reply r code words
    else { s with hl.sbAwait := false, hl.sbRefused := s.hl.sbRefused || code != 1 }

/-- A command acknowledged PENDING, with Porell's estimate (R357, R360). -/
def State.ackPending (s : State) (r : Req) : State :=
  (s.answer r 1 [BitVec.ofNat 32 (Config.freeNat s.fresh)]).take 1

/-- The final reply of a command that was pending: other codes than OK carry one word (R372). -/
def State.finish (s : State) (r : Req) (code : Nat) (words : List Word) : State :=
  s.reply r code (if code = 0 then words else words.take 1 ++ (if words = [] then [0] else []))

/-- The pending entry of a command removed. -/
def State.unpend (s : State) (r : Req) (op : Nat) : State :=
  { s with hl.pend := s.hl.pend.filter fun p => !decide (p.req = r ∧ p.op = op) }

def State.addPend (s : State) (p : Pend) : State := { s with hl.pend := s.hl.pend ++ [p] }

/-- An entry to Drowsy or Dormant abandoned: the module stays as it is, and DEV_POWER answers the state reached (R435). -/
def State.abandon (s : State) : State :=
  if s.pw.entering.isNone then s
  else
    let a := hubBase 0 + 0x80000
    let b := hubBase 1 + 0x80000
    let s := (({ s with pw.entering := none }).setReg a (putBit (s.reg a) 4 false)).setReg b (putBit (s.reg b) 4 false)
    (s.hl.pend.filter fun p => p.op == 0x0102 && p.key != deferred).foldl (fun s p =>
      (s.unpend p.req p.op).finish p.req 0 [BitVec.ofNat 32 s.pstate]) s

/-- A wake event (R436). -/
def State.wake (s : State) : State :=
  let s := s.abandon
  if (s.pstate = 3 ∨ s.pstate = 4) ∧ !s.pw.wakePend then
    { s with pw.wakePend := true, pw.wakeAt := s.now, pw.target := 2 }
  else s

/-- A command carried out: the checks of R366 in order, its own checks and effect in `body`, the resource check of R360 after
them, the audit entry of a C command before its effect (R367), and the acknowledgement and reply of R357. -/
def State.command (s : State) (c : Cmd) (r : Req) (body : State → Res) : State :=
  let code := s.cmdCheck c r
  let was := s.hl.pend.any fun p => decide (p.req = r ∧ p.op = c.op ∧ p.key = deferred)
  if !s.answers then s
  else if code ≠ 0 then s.answer r code []
  else if (c.ready ∧ (s.pstate = 3 ∨ s.pstate = 4)) ∨ s.waits c r then
    if was then (if c.ready then s.wake else s)
    else if s.pendFull r.src then s.answer r 0x0301 []
    else
      let s := if c.ready then s.wake else s
      (s.ackPending r).addPend { req := r, op := c.op, key := deferred }
  else
    let s := s.unpend r c.op
    let late := fun (s : State) (x : Res) =>
      match x with
      | .refuse code d => s.finish r code [BitVec.ofNat 32 d]
      | .fail code d s => s.finish r code [BitVec.ofNat 32 d]
      | .ok ws s => s.finish r 0 ws
      | .pend key s => s.addPend { req := r, op := c.op, key := key }
    let pended := fun (s : State) => if was then s else s.ackPending r
    match body s with
    | .refuse code d => if was || d != 0 then (pended s).finish r code [BitVec.ofNat 32 d] else s.answer r code []
    | x =>
      let later := c.c || (match x with | .pend _ _ | .fail _ _ _ => true | _ => false)
      if later && !was && s.pendFull r.src then s.answer r 0x0301 []
      else if c.c then
        let s := (pended s).flushAll
        match s.audit (s.role r.src) (srcByte r.src) c.op r.args with
        | (s, false) => s.finish r 0x040B []
        | (s, true) => late s (body s)
      else
        match x with
        | .pend _ _ | .fail _ _ _ => late (pended s) (body (pended s))
        | .ok ws s => if was then s.finish r 0 ws else s.answer r 0 ws
        | .refuse code _ => s.answer r code []

/-- A command is carried out at this presentation: it passes the checks of R366 and waits for nothing (R361, R363). -/
def State.due (s : State) (c : Cmd) (r : Req) : Bool :=
  s.answers && s.cmdCheck c r == 0 && !(c.ready && (s.pstate == 3 || s.pstate == 4)) && !s.waits c r

/-- A command refused outside `command`: by its acknowledgement, or by its reply where it was deferred (R357, R361). -/
def State.turnDown (s : State) (c : Cmd) (r : Req) (code : Nat) : State :=
  if s.hl.pend.any fun p => decide (p.req = r ∧ p.op = c.op ∧ p.key = deferred) then
    (s.unpend r c.op).finish r code []
  else s.answer r code []

/-- Argument word wn of a command, n from 1. -/
def argw (r : Req) (n : Nat) : Nat := (r.args.getD (n - 1) 0).toNat

/-- The argument word of a command that names an object, 0 for none (R368). -/
def objArg (op : Nat) : Nat :=
  match op with
  | 0x0200 | 0x0403 | 0x0B04 | 0x0B05 | 0x0B06 | 0x0C01 | 0x0C03 | 0x0D00 | 0x0D01 => 1
  | 0x0605 | 0x0606 | 0x0804 | 0x0B01 | 0x0B03 => 2
  | 0x0A01 | 0x0A05 | 0x0C00 => 3
  | 0x0A00 => 4
  | _ => 0

/-- An object that a command still in progress names (R369). -/
def State.objBusy (s : State) (k : Nat) : Bool :=
  s.hl.pend.any fun p => objArg p.op != 0 && argw p.req (objArg p.op) == k

/-- A 64-bit argument from words n and n + 1. -/
def argw64 (r : Req) (n : Nat) : Nat := argw r n + argw r (n + 1) * 2 ^ 32

def word (n : Nat) : Word := BitVec.ofNat 32 n
def iword (i : Int) : Word := BitVec.ofInt 32 i
/-- The low and high words of a 64-bit value. -/
def words64 (n : Nat) : List Word := [word n, word (n / 2 ^ 32)]

/-! Handles. -/

/-- Bytes 0 to n - 1 are covered by the received ranges. -/
def coveredGo : Nat → List (Nat × Nat) → Nat → Nat
  | 0, _, p => p
  | f + 1, rs, p => coveredGo f rs (rs.foldl (fun p r => if r.1 ≤ p ∧ p < r.2 then r.2 else p) p)

def covered (rs : List (Nat × Nat)) (n : Nat) : Bool := decide (n ≤ coveredGo rs.length rs 0)

/-- All bytes of a handle's code part have arrived. -/
def Handle.full (h : Handle) : Bool := covered h.got h.codeLen && covered h.gotExp h.expLen

/-- The first n bytes of a handle's code part. -/
def Handle.bytes (h : Handle) (k n : Nat) : List Byte := (List.range n).map fun i => mget 0 h.code (k + i)

/-- Bytes put into a handle's code part. -/
def Handle.write (h : Handle) (off : Nat) (bs : List Byte) : Handle :=
  { h with code := writeBytes h.code off bs, got := h.got ++ [(off, off + bs.length)] }

/-- The object at a handle, complete: 0x0105 unknown or of the wrong kind, 0x010B incomplete, else its bytes. -/
def State.object (s : State) (k : Nat) (fmt : Nat := 0xFF) : Except Nat (List Byte) :=
  match s.handle k with
  | none => .error 0x0105
  | some h =>
    if h.fmt ≠ fmt then .error 0x0105
    else if !h.full then .error 0x010B
    else .ok (h.bytes 0 h.codeLen)

/-- The segments of a BEAD_OPEN object from its first handle, as one byte sequence (R369). -/
def State.segments (s : State) (k : Nat) : Except Nat (List Byte) :=
  match s.handle k with
  | none => .error 0x0105
  | some h =>
    if h.fmt ≠ 0xFE ∨ h.first ≠ k then .error 0x0105
    else
      let hs := (List.range h.segs).filterMap fun i => s.handle (k + i)
      if hs.length = h.segs ∧ hs.all Handle.full then .ok (hs.flatMap fun x => x.bytes 0 x.codeLen)
      else .error 0x010B

/-- The 16-byte DATA part header (R339). -/
def partHeader (handle fmt part group total : Nat) : List Byte :=
  leBytes 4 handle ++ leBytes 1 fmt ++ leBytes 1 part ++ leBytes 1 group ++ [0] ++ leBytes 4 total ++ leBytes 4 0

/-- DATA messages of at most `cap` bytes carrying a byte sequence (R327, R339). -/
def State.sendData : Nat → State → Nat → List Byte → Nat → Nat → List Byte → State
  | 0, s, _, _, _, _, _ => s
  | f + 1, s, k, hd, cap, off, bs =>
    if bs = [] then s
    else State.sendData f (s.sendMsg k 5 (hd ++ bs.take cap) 0 off) k hd cap (off + cap) (bs.drop cap)

/-- The payload bytes a session's port allows beside the part header (R327). -/
def State.dataCap (s : State) (k : Nat) : Nat :=
  (if bit (s.reg (spm (s.sess k).port 0)) 4 then 8192 else 1408) - 16

/-- Bulk data returned to the named object: DATA on a session; kept in the object for the sideband (R370). -/
def State.bulk (s : State) (src : Src) (handle : Nat) (bs : List Byte) : State :=
  match s.handle handle with
  | none => s
  | some h =>
    let s := s.setHandle handle (some (h.write 0 (bs.take h.codeLen)))
    match src with
    | .session hb n =>
      State.sendData (bs.length + 1) s (sessKey hb n) (partHeader handle 0xFF 0 0 bs.length)
        (s.dataCap (sessKey hb n)) 0 bs
    | .sideband => s

/-- A region's read password is set and the source has not opened the region (R468). -/
def State.gated (s : State) (src : Src) (region rw : Nat) : Bool :=
  (mget [] s.lg.passw (2 * region + rw)) != [] &&
  match src with
  | .session h n => !(s.sess (sessKey h n)).regions.contains (region, rw)
  | .sideband => true

end Sys2Proof.Machine
end

