-- ==== Sys2Proof/Machine/FrameConf.lean ====
section
/-! DEFINITION. What a frame has committed (R71, R72), its faults (R69) and its stroke boundary (R63, R67). -/

namespace Sys2Proof.Machine

/-- The waiting draws of work that has ended. -/
def State.dropDraws (s : State) (fk : Nat) (w : Work) : State :=
  let d := keyDie (fkBoard fk)
  let x := s.die d
  s.setDie d { x with draws := x.draws.filter fun v => v.work != w }

/-- The registers FRM_COMMIT snapshots, by offset. -/
def snapRegs : List Nat := [0x10, 0x14, 0x18, 0x1C, 0x20, 0x24, 0x28]

/-- A committed register of a frame. -/
def State.frmLive (s : State) (fk o : Nat) : Word := s.liveReg (fkBase fk + o)

def State.fMode (s : State) (fk : Nat) : Word := s.frmLive fk 0x10
def State.fInteg (s : State) (fk : Nat) : Nat := fld (s.fMode fk) 0 2
def State.fRange (s : State) (fk : Nat) : Nat := fld (s.fMode fk) 2 2
def State.fFs (s : State) (fk : Nat) : Nat := fld (s.fMode fk) 4 2
def State.fHr (s : State) (fk : Nat) : Nat := fld (s.fMode fk) 6 2
def State.fZskip (s : State) (fk : Nat) : Bool := bit (s.fMode fk) 8
def State.fChk (s : State) (fk : Nat) : Bool := bit (s.fMode fk) 9

/-- g of R41 as a fraction: 32,767 · 2^fs over 8,192,000 · 2^range, at the defaults 32,767 / 8,192,000. -/
def gNum (fs : Nat) : Nat := 32767 * 2 ^ fs
def gDen (range : Nat) : Nat := 8192000 * 2 ^ range

/-- g_q = rne(g × 2^32) (R42). -/
def gq (fs range : Nat) : Int := rneDiv ((gNum fs : Int) * 2 ^ 32) (gDen range)

/-- lnom of R52. -/
def lnom (fs range : Nat) : Nat := 8192000 * 2 ^ range / 2 ^ fs

/-- A snapshot with a reserved encoding (R72). -/
def snapBad (ws : List Word) : Bool :=
  let m := ws.getD 0 0
  fld m 4 2 == 3 || fld m 6 2 == 3 || fld (ws.getD 2 0) 0 8 == 0 || decide (fld (ws.getD 6 0) 0 8 < 128)

/-- A fault raised (R69): the first is kept, a further one is logged with its own code. -/
def State.frameFault (s : State) (fk code : Nat) : State :=
  let x := s.frame fk
  let bk := fkBoard fk
  let s := s.log (0x300 + code) [keyDie bk, keyBrd bk, fkFrame fk]
  if x.fault then s else s.setFrame fk { x with fault := true, faultCode := code }

/-- The pending snapshot applied as one set, or refused with CONFIG (R71, R72); a changed FRM_CONF restarts the window
(R61). R72 does not say when a commit made during a stroke is refused. DESIGN CHOICE: at the stroke boundary, so that a bad
one has by then replaced an earlier good one, and both are lost (log entry 119). -/
def State.applyCommit (s : State) (fk : Nat) : State :=
  match (s.frame fk).snap with
  | none => s
  | some ws =>
    let s := s.setFrame fk { s.frame fk with snap := none }
    if snapBad ws then s.frameFault fk 1
    else
      let conf := s.frmLive fk 0x24
      let s := (snapRegs.zip ws).foldl (fun s p => s.setLive (fkBase fk + p.1) p.2) s
      let s := s.setReg (fkBase fk + 0x2C) (iword (gq (s.fFs fk) (s.fRange fk)))
      if s.frmLive fk 0x24 = conf then s
      else s.setFrame fk { s.frame fk with winCount := 0, winStrokes := 0 }

/-- The calibration current source of a die is held by no measurement (R426). -/
def State.freeSource (s : State) (d : Nat) : State :=
  let a := metBase d + 8
  s.setReg a (putBit (s.reg a) 20 false)

/-- A measurement of rod trims, which holds the source of its die (R426). -/
def Measure.trims (m : Measure) : Bool := m.gain.isNone

/-- A recount or measurement visit that ends at once (R67); a trim measurement lets its source go. -/
def State.dropVisit (s : State) (fk : Nat) : State :=
  let s := s.dropDraws fk (.recount fk)
  let s := if (s.frame fk).measure.any Measure.trims then s.freeSource (keyDie (fkBoard fk)) else s
  s.setFrame fk { s.frame fk with recount := none, measure := none, yielded := false }

/-- A stroke boundary (R63, R67, R71): the frame leaves STROKING and a pending commit applies. -/
def State.boundary (s : State) (fk : Nat) : State :=
  let x := s.frame fk
  let s := if x.st = .stroking then
      s.setFrame fk { x with st := if x.repairNext then .repair else if x.yielded then .recount else .idle,
                             repairNext := false, yielded := false }
    else s
  let s := if x.st = .stroking ∧ x.repairNext then s.dropVisit fk else s
  s.applyCommit fk

end Sys2Proof.Machine
end

