-- ==== Sys2Proof/Machine/Tensors.lean ====
section
/-! DEFINITION. Host tensors: their shapes, padding to the sizes of a score, and the groups of their exponent arrays (R179,
R216, R262, R339; log entry 32). A tensor is a list of (full size, actual size), outermost dimension first. -/

namespace Sys2Proof.Machine

/-- Product of a list of sizes. -/
def volume (ns : List Nat) : Nat := ns.foldl (· * ·) 1

/-- Coordinates of element e of a tensor. -/
def coords : List Nat → Nat → List Nat
  | [], _ => []
  | _ :: r, e => e / max 1 (volume r) :: coords r (e % max 1 (volume r))

/-- The element at given coordinates. -/
def flat : List Nat → List Nat → Nat
  | _ :: r, x :: xs => x * volume r + flat r xs
  | _, _ => 0

/-- The dimensions of a declared shape under a job's sizes: a tensor with none is one row of n elements. -/
def tensorDims (shape : List (Nat × Nat)) (n : Nat) (sizes : List Nat) : List (Nat × Nat) :=
  if shape = [] then [(n, n)]
  else shape.map fun d => (d.1, if d.2 = 0 then d.1 else min d.1 (sizes.getD (d.2 - 1) 0))

/-- The tensor of the exponents of a tensor: groups of g along the innermost dimension, or one group for g = 0. -/
def groupDims (g : Nat) (ds : List (Nat × Nat)) : List (Nat × Nat) :=
  if g = 0 then [(1, 1)]
  else ds.dropLast ++ (ds.getLast?.map fun d => (cdiv d.1 g, cdiv d.2 g)).toList

/-- The full tensor of the items of its actual part, with the padding item elsewhere (R262). -/
def spread (ds : List (Nat × Nat)) (pad : Nat) (src : Nat → Nat) : List Nat :=
  (List.range (volume (ds.map (·.1)))).map fun p =>
    let xs := coords (ds.map (·.1)) p
    if (xs.zip ds).all fun x => decide (x.1 < x.2.2) then src (flat (ds.map (·.2)) xs) else pad

/-- The actual part of a full tensor (R262). -/
def gather (ds : List (Nat × Nat)) (src : Nat → Nat) : List Nat :=
  (List.range (volume (ds.map (·.2)))).map fun c => src (flat (ds.map (·.1)) (coords (ds.map (·.2)) c))

/-- The groups of a tensor's codes in rows of n, as whether each holds only zeros. -/
def zeroGroups (g n : Nat) (codes : List Nat) : List Bool :=
  if g = 0 then [codes.all (· == 0)]
  else
    let per := cdiv n g
    (List.range (codes.length / max 1 n * per)).map fun k =>
      (slice codes (k / per * n + k % per * g) (min g (n - k % per * g))).all (· == 0)

/-- Group size of a drive tensor by its group code: 0 one group per tensor (R251, R339). -/
def driveGroup (g : Nat) : Nat := [0, 32, 64, 128].getD g 0

/-- n input bytes of a score divided over the code part and the exponent part: by the job's sizes, or in proportion for an
input of fixed size (log entry 32). -/
def inParts (m : Manifest) (sizes : List Nat) (n : Nat) : Nat × Nat :=
  let bits := match Fmt.ofCode m.inFmt with | some f => f.bits | none => 8
  let c := if m.inShape = [] then m.inCode * n / max 1 (m.inCode + m.inExp)
    else min n (cdiv (volume ((tensorDims m.inShape 0 sizes).map (·.2)) * bits) 8)
  (c, n - c)

end Sys2Proof.Machine
end

