-- ==== Sys2Proof/Machine/RingOps.lean ====
section
/-! DEFINITION. Shared operations of the ring engine: ring registers (R333), completions and their release (R334, R341,
R344), the journal (R393-R395), histories (R195, R200) and checkpoints (R390, R391). -/

namespace Sys2Proof.Machine

/-- The hub a ring belongs to (R333). -/
def ringHub (r : Nat) : Nat := r / 2048

/-- RNG_RINGn_CFG of a ring. -/
def ringReg (r : Nat) : Nat := hubBase (r / 2048) + 0x31000 + 4 * (r % 2048)

def State.ringW (s : State) (r : Nat) : Word := s.reg (ringReg r)
def State.ringDepth (s : State) (r : Nat) : Nat := fld (s.ringW r) 0 11
def State.ringWeight (s : State) (r : Nat) : Nat := fld (s.ringW r) 11 4 + 1
def State.ringCont (s : State) (r : Nat) : Bool := bit (s.ringW r) 21
def State.ringScore (s : State) (r : Nat) : Nat := fld (s.ringW r) 22 6

/-- The session key a ring is attached to. -/
def State.ringSess (s : State) (r : Nat) : Option Nat :=
  if bit (s.ringW r) 20 then some (16 * fld (s.ringW r) 19 1 + fld (s.ringW r) 15 4) else none

/-- A ring attached to a session, or detached. -/
def State.attach (s : State) (r : Nat) (k : Option Nat) : State :=
  match k with
  | some k => s.setReg (ringReg r) (put (s.ringW r) 15 6 (k % 16 + 16 * (k / 16) + 32))
  | none => s.setReg (ringReg r) (put (s.ringW r) 15 6 0)

/-- The configured rings with something in their record or register. -/
def State.ringList (s : State) : List Nat := (List.range 4096).filter fun r => s.ringDepth r ≠ 0

/-- Slots still held (R334). -/
def State.held (s : State) (r : Nat) : Nat := (s.ring r).jobs.length

/-- A job's state; a job that is gone counts as completed. -/
def State.jstate (s : State) (j : Nat) : JState := match s.job j with | some x => x.st | none => .completed

/-- Jobs of a ring that are running (R377). -/
def State.runningOf (s : State) (r : Nat) : List Nat := (s.ring r).jobs.filter fun j => s.jstate j == .running

/-- A job's record changed. -/
def State.modJob (s : State) (j : Nat) (f : Job → Job) : State :=
  match s.job j with
  | some x => s.setJob j (some (f x))
  | none => s

/-! The journal. -/

/-- The bytes of one hub's journal half. -/
def Journal.used (j : Journal) (hub : Nat) : Nat :=
  nsum ((j.recs.filter fun r => r.1 / 2 ^ 31 == hub).map fun r => r.2.length)

/-- The oldest record of a hub dropped. -/
def dropRec (hub : Nat) : List (Nat × List Byte) → List (Nat × List Byte)
  | [] => []
  | r :: rs => if r.1 / 2 ^ 31 = hub then rs else r :: dropRec hub rs

/-- Oldest records dropped until a half fits (R393). -/
def Journal.fit : Nat → Journal → Nat → Journal
  | 0, j, _ => j
  | f + 1, j, hub =>
    if j.size * 2 ^ 19 < j.used hub then Journal.fit f { j with recs := dropRec hub j.recs } hub else j

/-- The hub that journals a ring: its owner (R393, R485). -/
def State.ownerHub (s : State) (h : Nat) : Nat := match s.sv.owner with | some o => o | none => h

/-- A journal record written, when the journal is enabled (R394, R395). -/
def State.jrec (s : State) (type ring : Nat) (jseq step point lb : Nat) (payload : List Byte) : State :=
  let j := s.sv.journal
  if j.on then
    let hub := s.ownerHub (ringHub ring)
    let n := j.next.getD hub 0
    let num := n % 2 ^ 31 + hub * 2 ^ 31
    let hd := leBytes 1 type ++ [0] ++ leBytes 2 ring ++ leBytes 4 payload.length ++ leBytes 4 num ++ leBytes 4 jseq ++
      leBytes 4 step ++ leBytes 2 point ++ leBytes 2 lb ++ leBytes 8 s.ck.rk
    let j := { j with recs := j.recs ++ [(num, hd ++ payload)], next := j.next.set hub (n + 1) }
    { s with sv.journal := j.fit j.recs.length hub }
  else s

/-! Completions. -/

/-- The identity of a completion in the messages that carry it. -/
def complId (c : Compl) : Nat × Nat := (c.ring, c.job * 2 ^ 32 + c.cseq)

/-- The completions of a ring that may be sent: those whose earlier jobs all have their final completion (R338). -/
def State.sendable (s : State) (r : Nat) (c : Compl) : Bool :=
  c.sentOn == none && ((s.ring r).jobs.takeWhile (· != c.job)).all fun j => s.jstate j == .completed

/-- The handles of a job no longer busy (R339, R369). -/
def State.unbusy (s : State) (hs : List Nat) : State :=
  hs.foldl (fun s k =>
    match s.handle k with
    | some h => s.setHandle k (some { h with busy := h.busy - 1 })
    | none => s) s

/-- The handles that a job named are free again: its final completion goes out (R339). -/
def State.freeHandlesOf (s : State) (jn : Nat) : State :=
  match s.job jn with
  | some j => s.unbusy [j.inH, j.outH]
  | none => s

/-- The held completions of an attached ring sent in ring order (R338, R344), each after the result DATA of its steps (R340,
R343). -/
def State.sendCompl (s : State) (r : Nat) : State :=
  match s.ringSess r with
  | none => s
  | some k =>
    let order := (s.ring r).jobs.flatMap fun j => (s.ring r).compl.filter fun c => c.job == j
    order.foldl (fun s c =>
      if s.sendable r c then
        let x := s.ring r
        let mark := fun d : Compl => if complId d = complId c then { d with sentOn := some (k, 0), once := true } else d
        let s := s.setRing r { x with compl := x.compl.map mark }
        let s := if c.final && !c.once then s.freeHandlesOf c.job else s
        let s := c.data.foldl (fun s d => State.sendData (d.2.2.length + 1) s k d.1 (s.dataCap k) d.2.1 d.2.2) s
        s.sendMsg k 4 c.bytes 0 0 [complId c]
      else s) s

/-- The 64 bytes of a completion (R341). -/
def complBytes (ring status flags tag epoch cseq acc start end_ : Nat) (c : Counts) : List Byte :=
  leBytes 2 ring ++ leBytes 2 status ++ leBytes 4 flags ++ leBytes 8 tag ++ leBytes 4 epoch ++ leBytes 4 cseq ++
  leBytes 8 acc ++ leBytes 4 (hold 0xFFFFFFFF start) ++ leBytes 4 (hold 0xFFFFFFFF end_) ++
  leBytes 4 (hold 0xFFFFFFFF c.ovr) ++ leBytes 4 (hold 0xFFFFFFFF c.sat) ++ leBytes 4 (hold 0xFFFFFFFF c.unf) ++
  leBytes 2 (hold 0xFFFF c.retry) ++ leBytes 2 (hold 0xFFFF c.lowconf) ++ leBytes 4 (hold 0xFFFFFFFF c.split) ++
  leBytes 4 (hold 0xFFFFFFFF c.skip)

/-- The counts of a job since its previous completion (R343). -/
def Counts.minus (a b : Counts) : Counts :=
  ⟨a.ovr - b.ovr, a.sat - b.sat, a.unf - b.unf, a.retry - b.retry, a.lowconf - b.lowconf, a.split - b.split,
   a.skip - b.skip, a.strokes - b.strokes⟩

def Counts.add (a b : Counts) : Counts :=
  ⟨a.ovr + b.ovr, a.sat + b.sat, a.unf + b.unf, a.retry + b.retry, a.lowconf + b.lowconf, a.split + b.split,
   a.skip + b.skip, a.strokes + b.strokes⟩

/-- The flags word of a completion (R341). -/
def complFlags (s : State) (j : Job) (final : Bool) : Nat :=
  b2n (j.counts.strokes != 0) + 2 * b2n (j.counts.lowconf != 0) + 4 * b2n j.calChanged +
  8 * b2n j.calForced + 16 * b2n (j.placeChanged || (s.ring j.ring).unmirrored) + 32 * b2n final + 64 * b2n j.takeover

/-- A completion formed on its ring: held until acknowledged, journaled, and sent when its turn comes, after the result DATA
`data` (R340, R343, R344). -/
def State.formCompl (s : State) (jn : Nat) (j : Job) (status epoch : Nat) (final : Bool)
    (data : List (List Byte × Nat × List Byte) := []) : State :=
  let c := if final then j.counts else j.counts.minus j.sent
  let bs := complBytes j.ring status (complFlags s j final) j.tag epoch j.cseq j.rkAcc
    (if j.started then j.rkStart - j.rkAcc else 0) (s.ck.rk - j.rkAcc) c
  let s := s.setRing j.ring { s.ring j.ring with
    compl := (s.ring j.ring).compl ++ [{ ring := j.ring, job := jn, cseq := j.cseq, final := final, bytes := bs, data := data }] }
  let s := s.setJob jn (some { j with cseq := j.cseq + 1, sent := j.counts,
                                      st := if final then .completed else j.st, status := status })
  (s.jrec 8 j.ring j.jseq 0 0 0xFFFF bs).sendCompl j.ring

def State.makeBusy (s : State) (hs : List Nat) : State :=
  hs.foldl (fun s k =>
    match s.handle k with
    | some h => s.setHandle k (some { h with busy := h.busy + 1 })
    | none => s) s

/-- The pages of a map returned to their pools and the map dropped (R311). -/
def State.freeMap (s : State) (m : Nat) : State :=
  match mget none s.wk.maps m with
  | none => s
  | some x =>
    let s := x.pages.foldl (fun s p =>
      { s with wk.kvUsed := mput [] s.wk.kvUsed p.1 ((mget [] s.wk.kvUsed p.1).filter (· != p.2)) }) s
    { s with wk.maps := mput none s.wk.maps m none }

/-- A CREDIT of n for a ring (R326, R334). -/
def State.sendCredit (s : State) (k r n : Nat) : State :=
  if s.portUp k then s.sendOn k 9 false 0 0 0 (leBytes 2 r ++ leBytes 2 n) else s

/-- A ring slot returned: the job is RELEASED and one credit goes to the attached session (R334, R375). -/
def State.releaseJob (s : State) (r jn : Nat) : State :=
  let x := s.ring r
  let s := s.setRing r { x with jobs := x.jobs.filter (· != jn) }
  let a := hubBase (ringHub r) + 0x30000
  let s := s.setReg a (put (s.reg a) 0 17 (fld (s.reg a) 0 17 - 1))
  let s := match s.job jn with
    | some j => if j.replayed then (s.setHandle j.inH none).setHandle j.outH none else s
    | none => s
  let s := s.setJob jn none
  match s.ringSess r with
  | some k => s.sendCredit k r 1
  | none => s

/-- A completion acknowledged by the host (R334, R344). -/
def State.complAcked (s : State) (p : Nat × Nat) : State :=
  let x := s.ring p.1
  match x.compl.find? fun c => decide (complId c = p) with
  | none => s
  | some c =>
    let s := s.setRing p.1 { x with compl := x.compl.filter fun d => !decide (complId d = p) }
    if c.final then s.releaseJob p.1 c.job else s

/-- What an acknowledged message releases: the completions it carried, and a port configuration whose RESPONSE it was
(R334, R368). -/
def State.msgAcked (s : State) (m : OMsg) : State :=
  let s := m.finals.foldl State.complAcked s
  match m.applies with
  | some h =>
    let p := s.port h
    match p.conf with
    | some (a, b, c, _) => s.setPort h { p with conf := some (a, b, c, s.now + 1000000) }
    | none => s
  | none => s

/-- Sequence a lies below b (R331). -/
def below (a b : Nat) : Bool := decide (0 < (b + 2 ^ 32 - a) % 2 ^ 32 ∧ (b + 2 ^ 32 - a) % 2 ^ 32 ≤ 2 ^ 31)

/-- The module's copies numbered below an acknowledgement released, and its window taken (R331, R332). -/
def State.ackIn (s : State) (k ack window : Nat) : State :=
  let x := s.sess k
  let done := x.unacked.filter fun m => below m.seq ack
  let s := s.setSess k { x with unacked := x.unacked.filter (fun m => !below m.seq ack), window := window }
  let s := done.foldl State.msgAcked s
  s.drain 64 k

/-- A session closed (R332): messages dropped, their completions held for the next session, its rings detached, its
numbering and role forgotten; a raised role returns with an audit entry (R504). -/
def State.closeSess (s : State) (k : Nat) : State :=
  let x := s.sess k
  if !x.opened then s
  else
    let unsent := fun c : Compl => if c.sentOn = some (k, 0) then { c with sentOn := none } else c
    let free := fun e : Nat × Ring => (e.1, { e.2 with compl := e.2.compl.map unsent })
    let s := { s with wk.rings := s.wk.rings.map free }
    let rs := s.ringList.filter fun r => s.ringSess r = some k
    let s := rs.foldl (fun s r => s.attach r none) s
    let s := s.setSess k {}
    let s := { s with hl.pairs := s.hl.pairs.filter fun p => !decide (p.hub = k / 16 ∧ p.sess = k % 16) }
    if 1 < x.role then s.auditModule 0x0B02 else s

/-! Histories. -/

def strCfg (bk n : Nat) : Nat := bkBase bk + 0x45000 + 4 * n
def strHist (bk n : Nat) : Nat := bkBase bk + 0x45040 + 4 * n

/-- The group size of a granularity, 0 for the whole tensor (R192). -/
def granSize (g : Nat) : Nat := [1, 32, 64, 128, 0].getD g 0

/-- Groups of a stream on a board (R195). -/
def State.ngroups (s : State) (bk n : Nat) : Nat :=
  let c := s.liveReg (strCfg bk n)
  let g := granSize (fld c 23 3)
  if g = 0 then 1 else cdiv (fld c 11 12) g

/-- The address of a history record (R195). -/
def State.histAt (s : State) (bk n ctx grp : Nat) : Nat :=
  bkBase bk + fld (s.liveReg (strHist bk n)) 11 14 * 8 + (ctx * s.ngroups bk n + grp) * 32

/-- The initial exponent of a stream's group in a score (R200). -/
def State.initExp (s : State) (slot lb n grp : Nat) : Int :=
  match (s.score slot).file.boards.find? fun b => b.lb == lb with
  | some b => ((b.init.find? fun e => e.1 == n && e.2.1 == grp).map fun e => e.2.2).getD 0
  | none => 0

/-- A record as a context's creation or reset leaves it (R200). -/
def freshRecord (e : Int) : List Byte :=
  List.replicate 16 0x80 ++ leBytes 1 (expByte e) ++ List.replicate 15 0

/-- The stream slots of a board's stage in use (R251). -/
def State.streamsOf (s : State) (slot bk : Nat) : List Nat :=
  let st := (s.board bk).stage
  let m := match (s.score slot).file.stages.find? fun h => h.stage == st with | some h => h.streams | none => 0
  (List.range 16).filter fun n => m.testBit n && fld (s.liveReg (strCfg bk n)) 11 12 != 0

/-- The histories of one context reset on a board, all streams or the TOKEN streams alone (R200). -/
def State.resetHist (s : State) (slot bk ctx : Nat) (tokenOnly : Bool) : State :=
  (s.streamsOf slot bk).foldl (fun s n =>
    let c := s.liveReg (strCfg bk n)
    if tokenOnly && !bit c 26 then s
    else (List.range (s.ngroups bk n)).foldl (fun s g =>
      s.store (s.histAt bk n ctx g) (freshRecord (s.initExp slot (s.board bk).lb n g))) s) s

/-- The physical boards of a score in logical order. -/
def State.scoreBoards (s : State) (slot : Nat) : List (Nat × Nat) := (s.score slot).place

/-- A context's histories reset on every board of its score (R200). -/
def State.resetCtx (s : State) (slot ctx : Nat) (tokenOnly : Bool) : State :=
  (s.scoreBoards slot).foldl (fun s p => s.resetHist slot p.2 ctx tokenOnly) s

/-! Checkpoints. The byte layout inside the sections of R390 is the model's (log entry 16). -/

/-- The history bytes of a context over the boards of a score (R390). -/
def State.ckHist (s : State) (slot ctx : Nat) : List Byte :=
  (s.scoreBoards slot).flatMap fun p => (s.streamsOf slot p.2).flatMap fun n =>
    s.load (s.histAt p.2 n ctx 0) (32 * s.ngroups p.2 n)

/-- The context shares of the persistent slate regions: logical board, slate address of context 0, bytes a context. -/
def State.persistAreas (s : State) (slot ctx : Nat) : List (Nat × Nat) :=
  (s.score slot).file.man.persist.filterMap fun e =>
    match (s.scoreBoards slot).find? fun p => p.1 == e.1 with
    | some p => some (bkBase p.2 + e.2.1 + ctx * e.2.2, e.2.2)
    | none => none

/-- The page maps a ring holds. -/
def State.ringMaps (s : State) (r : Nat) : List (Nat × PageMap) :=
  s.wk.maps.filterMap fun e => match e.2 with
    | some m => if m.ring = r then some (e.1, m) else none
    | none => none

/-- The codes and the exponent block of a page: the exponent area of a pool follows its codes (R310; log entry 17). -/
def State.pageAreas (s : State) (slot : Nat) (p : Nat × Nat) : List (Nat × Nat) :=
  let x := s.score slot
  match x.file.man.kv[p.1 % 16]?, x.kvAt[p.1 % 16]? with
  | some k, some a =>
    (a + p.2 * 16384, 16384) :: (if k.s4g64 then [(a + k.pages * 16384 + p.2 * 512, 512)] else [])
  | _, _ => []

/-- Where a usable DRAM address lies in its hub: hub channel, offset within the channel, and offset of the code of its block
(R303). -/
def dramPlace (a : Nat) : Nat × Nat × Nat :=
  let n := a % 0x1000000000 / 256
  let group := n / 31
  let pos := n % 31
  (group % 16, group / 16 * 8192 + pos * 256 + a % 256, group / 16 * 8192 + 7936 + pos * 8)

/-- The channel of a DRAM address, as 16·hub + channel (R303). -/
def chanOf (a : Nat) : Nat := a / 0x1000000000 * 16 + (dramPlace a).1

/-- A channel of a hub has failed. -/
def State.chanFailed (s : State) (h : Nat) : Bool := (List.range 16).any fun c => (s.chan (16 * h + c)).failed

/-- A ring of continuity class holds the address in its mirrored regions, and the copy of the other hub stands (R312,
R313). -/
def State.mirrored (s : State) (a : Nat) : Bool :=
  let other := 1 - a / 0x1000000000
  s.ringList.any fun r =>
    s.ringCont r &&
    (match (s.ring r).lone with | none => true | some h => h == other && !s.chanFailed h) &&
    (let x := s.score (s.ringScore r)
     ((x.file.man.bufs.zip x.bufAt).any fun p => p.1.written && decide (p.2.1 ≤ a ∧ a < p.2.1 + p.1.size)) ||
     (s.ringMaps r).any fun m => m.2.pages.any fun q =>
       (s.pageAreas (s.ringScore r) q).any fun w => decide (w.1 ≤ a ∧ a < w.1 + w.2))

/-- The 256-byte blocks n bytes from an address touch. -/
def blocksOf (a n : Nat) : List Nat := if n = 0 then [] else (List.range ((a + n - 1) / 256 - a / 256 + 1)).map (a / 256 + ·)

/-- A block's home cannot be reached: its channel or its hub has failed (R306, R487). -/
def State.blockOut (s : State) (k : Nat) : Bool :=
  decide (256 * k < 0x2000000000) &&
  ((s.chan (chanOf (256 * k))).failed || !s.sv.alive.getD (256 * k / 0x1000000000) false)

/-- A block answers no access of its own: it is marked poisoned, or cannot be reached (R305, R306). -/
def State.blockBad (s : State) (k : Nat) : Bool := s.ms.poison.contains k || s.blockOut k

/-- A read of n bytes finds an uncorrectable block that no mirror covers (R305, R306). -/
def State.memBad (s : State) (a n : Nat) : Bool := (blocksOf a n).any fun k => s.blockBad k && !s.mirrored (256 * k)

/-- The exponent bytes of a handle. -/
def Handle.expBytes (h : Handle) (n : Nat) : List Byte := (List.range n).map fun i => mget 0 h.exp i

/-- n input bytes of a handle, of the code part and then of the exponent part. -/
def State.handleBytes (s : State) (m : Manifest) (k : Nat) (sizes : List Nat) (n : Nat) : List Byte :=
  match s.handle k with
  | some h =>
    let p := inParts m sizes n
    h.bytes 0 p.1 ++ h.expBytes p.2
  | none => []

/-- The checkpoint of a ring (R390). -/
def State.checkpoint (s : State) (r : Nat) : List Byte :=
  let x := s.ring r
  let slot := s.ringScore r
  let sc := s.score slot
  let qs := x.jobs.filterMap fun j => match s.job j with
    | some v => if v.st = .accepted ∨ v.st = .admitted then some v else none
    | none => none
  let maps := s.ringMaps r
  let ring := leBytes 2 (s.ringDepth r) ++ leBytes 1 (s.ringWeight r) ++ leBytes 1 (b2n (s.ringCont r)) ++
    leBytes 8 x.jseq ++ leBytes 4 qs.length
  let jobs := qs.flatMap fun v => padTo 0 64 v.raw ++ leBytes 8 v.rkAcc ++ leBytes 4 v.inLen ++
    padTo 0 v.inLen (s.handleBytes sc.file.man v.inH v.sizes v.inLen)
  let pers := (s.persistAreas slot x.ctx).flatMap fun a => s.load a.1 a.2
  let pms := leBytes 4 maps.length ++ maps.flatMap fun m =>
    leBytes 4 m.1 ++ leBytes 4 m.2.pages.length ++ leBytes 8 m.2.pos ++ m.2.pages.flatMap fun p =>
      leBytes 4 (p.1 % 16) ++ leBytes 4 p.2 ++ (s.pageAreas slot p).flatMap fun a => s.load a.1 a.2
  let body := ring ++ jobs ++ s.ckHist slot x.ctx ++ pers ++ pms
  let hd := leBytes 4 0x4B434C59 ++ leBytes 2 1 ++ leBytes 2 r ++ leBytes 8 sc.id ++ leBytes 8 (128 + body.length) ++
    leBytes 8 s.ck.rk ++ padTo 0 32 sc.digest
  let bs := hd ++ body
  bs ++ sha3 bs

/-- The magic is 0x4B43_4C59, the digest over all preceding bytes matches (R390, R391). -/
def ckValid (bs : List Byte) : Bool :=
  decide (128 ≤ bs.length) && bs.drop (bs.length - 64) == sha3 (bs.take (bs.length - 64)) &&
  leAt bs 0 4 == 0x4B434C59 && leAt bs 4 2 == 1

/-- The queued jobs of a checkpoint from byte `o`: descriptor and input bytes, and where they end. -/
def ckJobs (bs : List Byte) : Nat → Nat → List (List Byte × List Byte) × Nat
  | 0, o => ([], o)
  | n + 1, o =>
    let len := leAt bs (o + 72) 4
    let (r, e) := ckJobs bs n (o + 76 + len)
    ((slice bs o 64, slice bs (o + 76) len) :: r, e)

/-- Areas filled from a byte sequence from `o` on, and where they end. -/
def State.ckFill (s : State) (bs : List Byte) : List (Nat × Nat) → Nat → State × Nat
  | [], o => (s, o)
  | a :: as, o => (s.store a.1 (slice bs o a.2)).ckFill bs as (o + a.2)

/-- Pages of a map read back. -/
def State.ckPages (s : State) (bs : List Byte) (slot : Nat) : Nat → Nat → List (Nat × Nat) → State × Nat × List (Nat × Nat)
  | 0, o, ps => (s, o, ps)
  | n + 1, o, ps =>
    let p := (slot * 16 + leAt bs o 4, leAt bs (o + 4) 4)
    let (s, o) := s.ckFill bs (s.pageAreas slot p) (o + 8)
    s.ckPages bs slot n o (ps ++ [p])

/-- Page maps read back. -/
def State.ckMaps (s : State) (bs : List Byte) (slot r : Nat) : Nat → Nat → State
  | 0, _ => s
  | n + 1, o =>
    let id := leAt bs o 4
    let pos := leAt bs (o + 8) 8
    let (s, o, ps) := s.ckPages bs slot (leAt bs (o + 4) 4) (o + 16) []
    let s := { s with wk.maps := mput none s.wk.maps id (some { ring := r, pages := ps, pos := pos }) }
    let s := ps.foldl (fun s p =>
      { s with wk.kvUsed := mput [] s.wk.kvUsed p.1 ((mget [] s.wk.kvUsed p.1).filter (· != p.2) ++ [p.2]) }) s
    s.ckMaps bs slot r n o

/-- The state of a checkpoint written into a ring and its context (R391): jseq, histories, persistent slate and page
maps; the queued jobs are answered for the caller to accept again. -/
def State.ckRestore (s : State) (r : Nat) (bs : List Byte) : State × List (List Byte × List Byte) :=
  let slot := s.ringScore r
  let x := s.ring r
  let s := s.setRing r { x with jseq := leAt bs 68 8 }
  let (jobs, o) := ckJobs bs (leAt bs 76 4) 80
  let areas := (s.scoreBoards slot).flatMap fun p => (s.streamsOf slot p.2).map fun n =>
    (s.histAt p.2 n x.ctx 0, 32 * s.ngroups p.2 n)
  let (s, o) := s.ckFill bs areas o
  let (s, o) := s.ckFill bs (s.persistAreas slot x.ctx) o
  (s.ckMaps bs slot r (leAt bs o 4) (o + 4), jobs)

/-- Formats a DATA message may carry (R176). -/
def dataFormat (f : Nat) : Bool := decide (f < 19) && !(decide (4 ≤ f ∧ f ≤ 8))

/-! Descriptors. -/

/-- A job from the 64 bytes of a descriptor (R336). -/
def jobOf (b : List Byte) : Job :=
  { ring := leAt b 0 2, flags := leAt b 2 2, inLen := leAt b 4 4, tag := leAt b 8 8, seed := leAt b 16 8,
    launch := leAt b 24 8, inH := leAt b 32 4, outH := leAt b 36 4,
    sizes := [leAt b 40 4, leAt b 44 4, leAt b 48 4, leAt b 52 4], pageMap := leAt b 56 4,
    resv := decide (leAt b 60 4 ≠ 0 ∨ leAt b 2 2 / 64 ≠ 0 ∨ leAt b 2 2 / 16 % 4 = 3 ∨
      (leAt b 2 2 / 2 % 2 = 0 ∧ leAt b 24 8 ≠ 0)),
    raw := b }

/-- A STATE record falls due at the first job of a ring since the journal was enabled and every 4,096 jobs after; it is
written before the DESC record of a job accepted while no job of the ring runs (R390, R395; log entry 33). -/
def State.stateRecord (s : State) (r : Nat) : State :=
  let x := s.ring r
  if !s.sv.journal.on ∨ s.runningOf r ≠ [] ∨ (x.stateAt ≠ 0 ∧ x.jseq + 1 < x.stateAt) then s
  else (s.jrec 3 r x.jseq 0 0 0xFFFF (s.checkpoint r)).setRing r { x with stateAt := x.jseq + 1 + 4096 }

/-- A descriptor written to its ring (R335): the job is ACCEPTED with its reckoning count and jseq, its handles are
busy (R339), and the journal takes a DESC record (R395). -/
def State.acceptDesc (s : State) (k : Nat) (b : List Byte) : State :=
  let j := jobOf b
  let s := s.stateRecord j.ring
  let x := s.ring j.ring
  let n := s.wk.nextJob
  let j := { j with jseq := x.jseq, rkAcc := s.ck.rk }
  let s := { s with wk.nextJob := if n + 1 = 2 ^ 32 then 1 else n + 1 }
  let s := s.setJob n (some j)
  let s := s.setRing j.ring { x with jobs := x.jobs ++ [n], jseq := (x.jseq + 1) % 2 ^ 64 }
  let a := hubBase (ringHub j.ring) + 0x30000
  let s := s.setReg a (put (s.reg a) 0 17 (fld (s.reg a) 0 17 + 1))
  let s := s.makeBusy [j.inH, j.outH]
  s.jrec 1 j.ring j.jseq 0 0 0xFFFF (padTo 0 64 b ++ leBytes 8 j.jseq ++ leBytes 4 (k % 16) ++ leBytes 4 (k / 16))

/-! The end of a job. -/

/-- A board without the instructions and steps of a job (R242). -/
def Board.dropJob (b : Board) (j : Nat) : Board :=
  { b with
    steps := b.steps.filter fun c => c.job != j
    cur := match b.cur with | some c => if c.job = j then none else b.cur | none => none
    waitRk := match b.cur with | some c => if c.job = j then none else b.waitRk | none => b.waitRk
    sb := b.sb.filter fun e => e.ctx.job != j
    endPend := b.endPend.filter fun c => c.job != j
    arrived := b.arrived.filter fun c => c.job != j
    heldC := b.heldC.filter fun p => p.job != j
    keys := b.keys.filter fun k => k.1 != j
    strm := b.strm.filter fun x => x.job != j
    captStroke := b.captStroke.filter fun e => e.1 / 2 ^ 49 != j }

/-- A frame without the strokes of a job. -/
def Frame.dropJob (f : Frame) (j : Nat) : Frame :=
  let q := f.queue.filter fun x => x.ctx.job != j
  match f.stroke with
  | some x => { f with queue := q, stroke := if x.ctx.job = j then none else f.stroke }
  | none => { f with queue := q }

/-- A frame without the strokes of a job: one whose stroke in hand was the job's is at its boundary (R71, R242). -/
def State.dropStrokes (s : State) (fk j : Nat) : State :=
  let y := s.frame fk
  let mine := match y.stroke with | some x => x.ctx.job == j | none => false
  let s := s.setFrame fk (y.dropJob j)
  if mine then s.boundary fk else s

/-- A job cancelled on every board: its queued and unfinished instructions are discarded (R242). -/
def State.dropJob (s : State) (j : Nat) : State :=
  let gone := fun (w : Draw) => match w.work with
    | .stroke f => (match (s.frame f).stroke with | some x => x.ctx.job == j | none => true)
    | .vector b => !(s.board b).sb.any fun e => e.waitTok && e.ctx.job != j
    | .exact b => !(List.range 34).any fun f => match (s.frame (34 * b + f)).stroke with
        | some x => x.lane && x.ctx.job != j | none => false
    | .program _ | .recount _ => false
  let s := { s with dies := s.dies.map fun (e : Nat × DieRec) => (e.1, { e.2 with draws := e.2.draws.filter fun w => !gone w }) }
  let s := s.boards.foldl (fun s e => s.setBoard e.1 (e.2.dropJob j)) s
  let s := { s with fb.acks := s.fb.acks.filter (fun p => p.job != j),
                    fb.later := s.fb.later.filter fun e => e.2.2.2.job != j }
  s.frames.foldl (fun s e => s.dropStrokes e.1 j) s

/-- A ring unconfigured (R368): its register and record cleared, its context and page maps free. -/
def State.deleteRing (s : State) (r : Nat) : State :=
  let slot := s.ringScore r
  let ctx := (s.ring r).ctx
  let s := s.setScore slot { s.score slot with ctxs := (s.score slot).ctxs.filter (· != ctx) }
  let s := (s.ringMaps r).foldl (fun s m => s.freeMap m.1) s
  let s := (s.ring r).compl.foldl (fun s c => if c.final && !c.once then s.freeHandlesOf c.job else s) s
  (s.setRing r {}).setReg (ringReg r) 0

/-- A checkpoint would read an uncorrectable block (R305). -/
def State.ckptBad (s : State) (r : Nat) : Bool :=
  (s.ringMaps r).any fun m => m.2.pages.any fun p => (s.pageAreas (s.ringScore r) p).any fun a => s.memBad a.1 a.2

/-- A checkpoint written into its object, or 0x0104 with the size needed (R390). -/
def State.doCkpt (s : State) (q : Req) : State :=
  let bs := s.checkpoint (argw q 1)
  match s.handle (argw q 2) with
  | none => s.finish q 0x0105 []
  | some h =>
    if s.ckptBad (argw q 1) then s.finish q 0x0503 []
    else if h.codeLen < bs.length then s.finish q 0x0104 [word bs.length]
    else
      let s := s.setHandle (argw q 2) (some (({ h with code := [], got := [] } : Handle).write 0 (padTo 0 h.codeLen bs)))
      s.finish q 0 []

/-- A replay that injects no further job ends with its last job, and its command answers the number of jobs replayed
(R397, R400). -/
def State.settleReplay (s : State) (r : Nat) : State :=
  let x := s.ring r
  if x.replay ≠ some [] ∨ x.jobs.any fun j => s.jstate j != .completed then s
  else
    let s := s.setRing r { x with replay := none, replayReq := none }
    match x.replayReq with
    | some q => (s.unpend q 0x0C04).finish q 0 [word x.replayed]
    | none => s

/-- What waited for a ring without a running job (R377). -/
def State.settleRing (s : State) (r : Nat) : State :=
  let s := s.settleReplay r
  if s.runningOf r ≠ [] then s
  else
    (s.hl.pend.filter fun p => [0x0503, 0x0505, 0x0605].contains p.op && p.key == r).foldl (fun s p =>
      let s := s.unpend p.req p.op
      if p.op = 0x0503 then s.finish p.req 0 []
      else if p.op = 0x0505 then (s.resetCtx (s.ringScore r) (s.ring r).ctx false).finish p.req 0 []
      else s.doCkpt p.req) s

/-- The final completion of a job with a status (R344), after the result DATA `data`; no strokes report epoch 0 (R341). Its pages
are free again unless it keeps them (R311), and its handles once the completion goes out (R339). -/
def State.complete (s : State) (jn status : Nat) (data : List (List Byte × Nat × List Byte) := []) : State :=
  match s.job jn with
  | none => s
  | some j =>
    if j.st = .completed then s
    else
      let epoch := if j.counts.strokes = 0 then 0 else j.epoch
      let s := s.formCompl jn j status epoch true data
      let s := if j.replayed ∧ status ≠ 0x0405 ∧ status ≠ 0x0104 then
          s.setRing j.ring { s.ring j.ring with replayed := (s.ring j.ring).replayed + 1 } else s
      let own := (mget none s.wk.maps j.pageMap).any fun m => m.ring == j.ring
      let s := if own ∧ j.pageMap ≠ 0 ∧ j.flags / 8 % 2 = 0 then s.freeMap j.pageMap else s
      s.settleRing j.ring

/-- A job failed or cancelled on every board of its score, and completed with a status (R242, R376). -/
def State.failJob (s : State) (jn status : Nat) : State := (s.dropJob jn).complete jn status


end Sys2Proof.Machine
end

