-- ==== Sys2Proof/Machine/SysOps.lean ====
section
/-! DEFINITION. Shared operations of Porell: the disabled-unit map (R475, R476), the installer's parameters (R455),
DRAM accounting (R308, R309), the loss of the VIN domains (R450, R451, R519), and requests that wait for a power
state (R435, R436). -/

namespace Sys2Proof.Machine

/-! The disabled-unit map, by bit number over the 32 KB of region 2. -/

def mapDie (d : Nat) : Nat := 8 * 64 + d
def mapLink (n : Nat) : Nat := 8 * 68 + n
def mapStackLane (n : Nat) : Nat := 8 * 72 + n
def mapBoard (bk : Nat) : Nat := 8 * 80 + bk
def mapLane (bk n : Nat) : Nat := 8 * 848 + 4 * bk + n
def mapSensor (u n : Nat) : Nat := 8 * 3920 + (if u < 32 then 24 * u + n else 768 + 8 * (u - 32) + n)
def mapFrame (fk : Nat) : Nat := 8 * 4096 + fk

/-- A bit of the map in force. -/
def State.disabled (s : State) (i : Nat) : Bool := s.sv.disabled.contains i

/-- A page as the writes queued for it will leave it. -/
def State.pendPage (s : State) (page : Nat) : List Byte :=
  match s.lg.queue.reverse.find? fun q => q.1 == page with
  | some q => q.2
  | none => s.page page

/-- A page write the module makes itself, queued: never gated (R457, R468). -/
def State.moduleWrite (s : State) (page off : Nat) (bs : List Byte) : State :=
  let p := page + off / 256
  { s with lg.queue := s.lg.queue ++ [(p, patch (s.pendPage p) (off % 256) bs)] }

/-- A bit of the map set by the module, in force at once (R476). -/
def State.mapSet (s : State) (i : Nat) : State :=
  if s.disabled i then s
  else
    let s := { s with sv.disabled := s.sv.disabled ++ [i] }
    let b := leAt (s.pendPage (440 + i / 2048)) (i / 8 % 256) 1
    s.moduleWrite (440 + i / 2048) (i / 8 % 256) (leBytes 1 (Nat.lor b (2 ^ (i % 8))))

/-- The bytes of the map in force (R475). -/
def State.mapBytes (s : State) : List Byte :=
  leBytes 4 0x4D444C59 ++ leBytes 4 1 ++ slice (s.page 440) 8 8 ++ List.replicate 48 0 ++
  (List.range 32704).map fun n =>
    BitVec.ofNat 8 (nsum ((s.sv.disabled.filter fun i => i / 8 == n + 64).map fun i => 2 ^ (i % 8)))

/-- The bits of a map's bytes. -/
def mapBits (bs : List Byte) : List Nat :=
  (List.range bs.length).flatMap fun n =>
    let b := leAt bs n 1
    if n < 64 ∨ b = 0 then [] else ((List.range 8).filter fun k => b.testBit k).map fun k => 8 * n + k

/-- A unit number that names no unit: beyond the 34, or a die the map disables (R16, R368). -/
def State.noUnit (s : State) (u : Nat) : Bool := decide (34 ≤ u) || (decide (u < 32) && s.disabled (mapDie u))

/-- Disabled frames in the map (R368). -/
def State.disabledFrames (s : State) : Nat := (s.sv.disabled.filter fun i => decide (32768 ≤ i)).length

/-- The serial (R548). -/
def State.serial (s : State) : Nat := leAt (s.page 0) 0 8

/-! The installer's parameters, page 11 of region 5 (log entry 20). -/

/-- The policies as the page holds them. -/
def State.policyBytes (s : State) : List Byte :=
  ((List.range 2).flatMap fun h => (List.range 3).flatMap fun n => leBytes 4 (s.regN (spm h (4 * n)))) ++
  leBytes 4 (s.regN (hubBase 0 + 0x50008)) ++ leBytes 4 (s.regN (hubBase 0 + 0x70000)) ++
  leBytes 4 (fld (s.reg (hubBase 0 + 0x70004)) 4 1) ++ leBytes 4 s.pw.idleMs ++ leBytes 4 s.pw.idleS ++
  leBytes 4 (s.regN (hubBase 0 + 0x80004)) ++ s.sv.recount.flatMap (leBytes 4) ++
  s.th.maker.flatMap (leBytes 4) ++ leBytes 4 1

/-- The policies written to the ledger by the command that set them (R455). -/
def State.savePolicy (s : State) : State := (s.moduleWrite 773 0 s.policyBytes).flushAll

/-- A register of hub A with hub B's mirror. -/
def State.setBoth (s : State) (x : Nat) (w : Word) : State :=
  (s.setReg (hubBase 0 + x) w).setReg (hubBase 1 + x) w

/-- The policies read back at a cold start. -/
def State.loadPolicy (s : State) : State :=
  let p := s.page 773
  let w := fun k => word (leAt p (4 * k) 4)
  if leAt p 88 4 ≠ 1 then s
  else
    let s := (List.range 6).foldl (fun s n => s.setReg (spm (n / 3) (4 * (n % 3))) (w n)) s
    let s := (s.setBoth 0x50008 (w 6)).setBoth 0x70000 (w 7)
    let s := s.setBoth 0x70004 (putBit (s.reg (hubBase 0 + 0x70004)) 4 (bit (w 8) 0))
    let s := s.setBoth 0x80004 (w 11)
    { s with pw.idleMs := (w 9).toNat, pw.idleS := (w 10).toNat,
             sv.recount := (List.range 6).map (fun k => (w (12 + k)).toNat),
             th.maker := (List.range 4).map (fun k => (w (18 + k)).toNat) }

/-! DRAM. -/

/-- The bytes of a packed plane image by format: row peaks and digits (R83). -/
def planeBytes (fmt : Nat) : Nat := [33024, 82176, 73984].getD fmt 0

/-- The hub that holds the resident image of a stack's frames (R309). -/
def stackHub (d : Nat) : Nat := (d / 4) % 2

/-- The physical board key of a logical board of a score. -/
def Score.boardOf (x : Score) (lb : Nat) : Option Nat := (x.place.find? fun p => p.1 == lb).map (·.2)

/-- Bytes a key/value page pool occupies (R310). -/
def kvBytes (k : KvPool) : Nat := k.pages * (16384 + if k.s4g64 then 512 else 0)

/-- Bytes of a hub that a ring of continuity class takes for its mirrors: copies of the buffers its score writes and of its page
pools that lie in the other hub (R312, R493). -/
def mirrorBytes (x : Score) (hub : Nat) : Nat :=
  nsum (x.file.man.bufs.map fun b => if b.written ∧ b.hub.val ≠ hub then b.size else 0) +
  nsum (x.file.man.kv.map fun k => if k.hub.val ≠ hub then kvBytes k else 0)

/-- Allocable bytes of a hub held by scores, mirrors and the journal (R308, R313). -/
def State.dramUsed (s : State) (hub : Nat) : Nat :=
  nsum ((s.ringList.filter s.ringCont).map fun r => mirrorBytes (s.score (s.ringScore r)) hub) +
  s.sv.journal.size * 2 ^ 19 + nsum (s.wk.scores.map fun e =>
    let x := e.2
    if x.st = 0 ∨ x.st = 3 then 0
    else
      let img := if x.resident then
        nsum (x.file.planes.map fun p => match x.boardOf p.lb with
          | some bk => if stackHub (keyDie bk) = hub then cdiv (planeBytes p.fmt) 64 * 64 else 0
          | none => 0) else 0
      img + nsum (x.file.man.bufs.map fun b => if b.hub.val = hub then b.size else 0) +
      nsum (x.file.man.kv.map fun k => if k.hub.val = hub then kvBytes k else 0))

/-- The 61 GB of a hub's allocable region. -/
def dramCap : Nat := 61 * 2 ^ 30

/-! Secrets. -/

/-- A secret page written sealed (R499). -/
def State.sealWrite (s : State) (page : Nat) (plain : List Byte) : State × Bool :=
  let seq := match s.committed page with | some (c, i) => (s.lslot c page i).seq + 1 | none => 0
  s.ledgerWrite page (Config.sealPage (leBytes 2 page ++ leBytes 4 seq ++ List.replicate 6 0) plain)

/-! Bulk data to an object (R369, R370). -/

/-- The object a command returns data to: its code when it cannot hold n bytes. -/
def State.sink (s : State) (k n : Nat) : Nat :=
  match s.handle k with
  | none => 0x0105
  | some h => if h.fmt ≠ 0xFF then 0x0105 else if h.codeLen < n then 0x0104 else 0

/-- A frame address argument: [5:0] f, [13:6] b, [18:14] d (R368). -/
def frameOf (n : Nat) : Option Nat :=
  if n % 64 < 34 ∧ n / 64 % 256 < 192 ∧ n / 16384 < 32 then
    some (frameKey (n / 16384) (n / 64 % 256) (n % 64)) else none

/-- A frame address a command names: none outside the module, and none for a unit the map disables, which is never presented
to software (R16, R371). -/
def State.frameAddr? (s : State) (w : Nat) : Option Nat :=
  match frameOf w with
  | none => none
  | some fk =>
    let gone := s.disabled (mapDie (keyDie (fkBoard fk))) || s.disabled (mapBoard (fkBoard fk)) || s.disabled (mapFrame fk)
    if gone then none else some fk


/-! Sensors (R441-R444). -/

def State.t1 (s : State) : Nat := fld (s.reg (hubBase 0 + 0x70000)) 0 8
def State.t2 (s : State) : Nat := fld (s.reg (hubBase 0 + 0x70000)) 8 8
def State.t3 (s : State) : Nat := fld (s.reg (hubBase 0 + 0x70000)) 16 8

/-- Sensors of a unit (R441). -/
def sensorsOf (u : Nat) : Nat := if u < 32 then 24 else 8

/-- A sensor is retired (R444). -/
def State.sensorRetired (s : State) (u k : Nat) : Bool := bit (s.reg (hubBase 0 + 0x70200 + 4 * u)) k

/-- A plausible sensor: neither broken nor retired (R125, R443, R444). -/
def State.plausible (s : State) (u k : Nat) : Bool := !(s.sensor (24 * u + k)).broken && !s.sensorRetired u k

/-- The sensors of a unit that share an edge with sensor k in its grid (R441). -/
def neighbours (u k : Nat) : List Nat :=
  let c := if u < 32 then 6 else 4
  (List.range (sensorsOf u)).filter fun j =>
    (j / c == k / c && (j + 1 == k || k + 1 == j)) || (j % c == k % c && (j + c == k || k + c == j))

/-- The largest of a list of readings. -/
def maxInt : List Int → Option Int
  | [] => none
  | a :: r => some (r.foldl max a)

/-- A sensor's reading as thermal control counts it, in 1/16 °C: T3 where broken; the hottest plausible neighbour plus 5 °C
where retired (R443, R444). -/
def State.reading (s : State) (u k : Nat) : Int :=
  if s.sensorRetired u k then
    match maxInt (((neighbours u k).filter (s.plausible u)).map fun j => (s.sensor (24 * u + j)).tj16) with
    | some t => t + 80
    | none => 16 * s.t3
  else if (s.sensor (24 * u + k)).broken then 16 * s.t3
  else (s.sensor (24 * u + k)).tj16

/-- The readings of a unit: its sensors, and for a hub the DRAM packages beyond their range as T3 (R302, R441). -/
def State.readings (s : State) (u : Nat) : List Int :=
  (List.range (sensorsOf u)).map (s.reading u) ++
  if u < 32 then []
  else (List.range 4).filterMap fun p =>
    if (mget (0, false) s.ms.mr4 (4 * (u - 32) + p)).2 then some (16 * (s.t3 : Int)) else none

/-- The hottest reading of a unit. -/
def State.hottest (s : State) (u : Nat) : Int := (maxInt (s.readings u)).getD 0

/-- Units whose sensors are sampled. -/
def State.liveUnits (s : State) : List Nat := (List.range 34).filter fun u => (s.met u).on

/-- Some reading is at or above a temperature, in 1/16 °C. -/
def State.anyAt (s : State) (t16 : Int) : Bool := s.liveUnits.any fun u => (s.readings u).any fun t => decide (t16 ≤ t)

/-! Power. -/

/-- The mailbox locks of owners whose domain resets or powers down are freed (R355). -/
def State.freeLocks (s : State) (owners : List Nat) : State :=
  s.hl.mbx.foldl (fun s e => if owners.contains e.2.owner then s.setMbx e.1 { e.2 with owner := 0 } else s) s

/-- The mailbox locks of one hub's mailboxes whose owners' domains reset or power down are freed (R355). -/
def State.freeHubLocks (s : State) (h : Nat) (owners : List Nat) : State :=
  s.hl.mbx.foldl (fun s e =>
    if e.1 / 16 = h ∧ owners.contains e.2.owner then s.setMbx e.1 { e.2 with owner := 0 } else s) s

/-- The rows of the power-state register that a state change writes (R433). -/
def State.enter (s : State) (n : Nat) : State :=
  ((if n = 3 ∨ n = 4 then s.freeLocks [4, 7] else s).setPstate n).event 5 (leBytes 1 n)

/-- DEV_POWER requests whose target is reached (R436). -/
def State.powerReached (s : State) (n : Nat) : State :=
  (s.hl.pend.filter fun p => p.op == 0x0102 && p.key == n).foldl (fun s p =>
    (s.unpend p.req p.op).finish p.req 0 [word n]) s

/-- A ledger register survives what resets the VIN domains (R519). -/
def ledgerRegAddr (a : Nat) : Bool := decide (a / 65536 % 65536 = 9 ∧ 0x4000000000 ≤ a)

/-- PWR_STATE.fail_n as the land is (R450). -/
def State.showFail (s : State) : State :=
  if s.pw.failN then s.setBoth 0x80000 (putBit (s.reg (hubBase 0 + 0x80000)) 3 true) else s

/-- SEC_STAT's bits that the ledger and the lands give: provisioned, ikey, cak, service_en. -/
def State.keepSec (old s : State) : State :=
  (List.range 2).foldl (fun s h => s.setReg (hubBase h + 0xA0000) (old.reg (hubBase h + 0xA0000) &&& 0x1F)) s

/-- A frame that a repair, a migration or a board's move had taken up and that no placement names: the target of one not
finished, or the frame one has moved away from (R107, R108). -/
def State.unsettled (s : State) (fk slot : Nat) : Bool :=
  s.sv.repairs.any fun r =>
    if r.isBoard then r.target == fkBoard fk && !(s.score slot).place.any fun p => p.2 == r.target
    else if r.done then r.frame == fk else r.target == fk

/-- Every domain on VIN reset or without supply: what the beads, the side stores, the ledger, the firmware stores and
the carrier hold remains (R450, R451, R519); loaded scores will be KEPT (R374). -/
def State.vinReset (s : State) : State :=
  State.keepSec s <| State.showFail
  { pending := s.pending, now := s.now, fresh := s.fresh, rdata := s.rdata, sent := s.sent,
    regs := s.regs.filter fun e => ledgerRegAddr e.1,
    beads := s.beads, side := s.side,
    frames := s.frames.map fun e => (e.1, { ({} : Frame) with
      headers := e.2.headers, st := if e.2.st = .retired then .retired else .idle,
      placed := match e.2.placed with
        | some n => if ((s.score n).st = 3 ∨ (s.score n).st = 4) ∧ !s.unsettled e.1 n then some n else none
        | none => none }),
    lg := { s.lg with marginAt := none },
    pw := { vin := s.pw.vin, vsb := s.pw.vsb, vsbHigh := s.pw.vsbHigh, failN := s.pw.failN, serviceEn := s.pw.serviceEn,
            smbAddr := s.pw.smbAddr },
    th := { maker := s.th.maker, stops := s.th.stops },
    wk := { scores := s.wk.scores.map fun e =>
              (e.1, if e.2.st = 4 ∨ e.2.st = 3 then
                { ({} : Score) with st := 3, id := e.2.id, digest := e.2.digest, flags := e.2.flags, place := e.2.place,
                                    redir := e.2.redir, file := { e.2.file with boards := [], planes := [] } }
              else {}) },
    sv := { fw := s.sv.fw, cur := s.sv.cur, fused := s.sv.fused, revoked := s.sv.revoked, disabled := s.sv.disabled,
            recount := s.sv.recount },
    hl := { sbReplies := s.hl.sbReplies, sbEvent := s.hl.sbEvent, sbHub := s.hl.sbHub } }

/-- Off: VIN rails cut, DEV_STATE 0, SVC_BOOT.phase Off (R431, R433). -/
def State.off (s : State) : State :=
  s.vinReset.setPstate 0

/-- SVC_BOOT.phase written in both hubs (R521). -/
def State.bootPhase (s : State) (n : Nat) : State :=
  let w := put (s.reg (hubBase 0 + 0xB0008)) 0 4 n
  s.setBoth 0xB0008 w

def State.phase (s : State) : Nat := fld (s.reg (hubBase 0 + 0xB0008)) 0 4

/-- n bytes of the calibration set from byte o (R547). -/
def State.calBytes (s : State) (o n : Nat) : List Byte :=
  (List.range n).map fun i => (s.page (24 + (o + i) / 256)).getD ((o + i) % 256) 0

def State.calN (s : State) (o n : Nat) : Nat := leNat (s.calBytes o n)

end Sys2Proof.Machine
end

