-- ==== Sys2Proof/Machine/Frames.lean ====
section
/-! DEFINITION. Frames: token draws (R437-R439), states (R66-R68), trims (R118), the temperature a frame goes by (R125), and
the frame commands. -/

namespace Sys2Proof.Machine

/-! Energy tokens. -/

def poolReg (d : Nat) : Nat := dieBase d + 0x1000

/-- Tokens in a die's pool (PWR_POOL). -/
def State.pool (s : State) (d : Nat) : Nat := s.regN (poolReg d)

/-- n tokens taken from a die's pool and counted consumed (R439). -/
def State.consume (s : State) (d n : Nat) : State :=
  let x := s.die d
  (s.setRegN (poolReg d) (s.pool d - n)).setDie d { x with consumed := (x.consumed + n) % 2 ^ 64 }

/-- n tokens taken for metrology or control, from the reserved share first (R26). -/
def State.consumeFirst (s : State) (d n : Nat) : State :=
  let s := s.consume d n
  s.setDie d { s.die d with reserve := (s.die d).reserve - n }

/-- Priorities of draws in the order of R26; a recount more than 1 h overdue goes ahead of job work, and repair and migration
ahead of loading (R103). -/
def prioMet : Nat := 0
def prioOverdue : Nat := 1
def prioJob : Nat := 2
def prioRepair : Nat := 3
def prioLoad : Nat := 4
def prioRecount : Nat := 5

/-- A draw that is served before a new one of priority p: draws of one priority are served in the order they came (R26,
R103; log entry 95). -/
def State.drawAhead (s : State) (d p : Nat) : Bool := (s.die d).draws.any fun w => decide (w.prio ≤ p)

/-- Tokens open to a draw of priority p: the reserved share is for metrology and control, priority 0 (R26, R437). -/
def State.openTo (s : State) (d p : Nat) : Nat := if p = 0 then s.pool d else s.pool d - (s.die d).reserve

/-- A draw of priority p served at once: no earlier draw waits and the pool holds enough (R26, R438). -/
def State.canDraw (s : State) (d p n : Nat) : Bool := !s.drawAhead d p && decide (n ≤ s.openTo d p)

/-- Half of a pool's depth, the largest part of a draw granted at once (R437, R438). -/
def halfDepth : Nat := 2400000

/-- A draw served at once, or waiting (R26, R438). -/
def State.draw (s : State) (d prio need : Nat) (w : Work) : State × Bool :=
  if s.canDraw d prio need && decide (need ≤ halfDepth) then (s.consume d need, true)
  else
    let x := s.die d
    (s.setDie d { x with draws := x.draws ++ [{ prio := prio, need := need, at_ := s.now, work := w }] }, false)

/-- A stroke of the frame is in hand, on its beads or in the exact lane (R64, R71). -/
def State.strokeInHand (s : State) (fk : Nat) : Bool :=
  (s.frame fk).st == .stroking || (s.frame fk).stroke.isSome

/-- FRM_COMMIT.go (R71). -/
def execFrmCommit (d : Die) (b : Brd) (f : Frm) (s : State) : Host.Outcome State Fault Refusal :=
  let fk := frameKey d b f
  let ws := snapRegs.map fun o => s.reg (fkBase fk + o)
  let s := s.setFrame fk { s.frame fk with snap := some ws }
  .next (if s.strokeInHand fk then s else s.applyCommit fk)

/-- The snapshot applied at the stroke boundary (R71). -/
def execCommitApply (d : Die) (b : Brd) (f : Frm) (s : State) : Host.Outcome State Fault Refusal :=
  let fk := frameKey d b f
  .next (if s.strokeInHand fk then s else s.applyCommit fk)

/-! FRM_CTL (R67). -/

/-- Programming stopped with a result code; the header keeps fmt 3 (R107). -/
def State.stopPrg (s : State) (fk result : Nat) : State :=
  let a := fkBase fk + 0x108
  let s := (s.setReg a (putBit (put (s.reg a) 21 3 result) 0 false)).dropDraws fk (.program fk)
  s.setFrame fk { s.frame fk with prg := none }

/-- FRM_CTL.op = IDLE: a repaired frame. -/
def execFrmCtlIdle (d : Die) (b : Brd) (f : Frm) (s : State) : Host.Outcome State Fault Refusal :=
  let fk := frameKey d b f
  let x := s.frame fk
  .next (if x.st = .repair then s.setFrame fk { x with st := .idle } else s)

/-- FRM_CTL.op = SPARE: a repaired frame. -/
def execFrmCtlSpare (d : Die) (b : Brd) (f : Frm) (s : State) : Host.Outcome State Fault Refusal :=
  let fk := frameKey d b f
  let x := s.frame fk
  .next (if x.st = .repair then s.setFrame fk { x with st := .spare } else s)

/-- The transition to REPAIR from each state. -/
def State.toRepair (s : State) (fk : Nat) : State :=
  let x := s.frame fk
  match x.st with
  | .idle | .recount | .spare =>
    let s := s.dropVisit fk
    s.setFrame fk { s.frame fk with st := .repair }
  | .stroking => s.setFrame fk { x with repairNext := true }
  | .programming =>
    let s := s.stopPrg fk 4
    s.setFrame fk { s.frame fk with st := .repair }
  | .repair | .retired => s

/-- FRM_CTL.op = REPAIR. -/
def execFrmCtlRepair (d : Die) (b : Brd) (f : Frm) (s : State) : Host.Outcome State Fault Refusal :=
  .next (s.toRepair (frameKey d b f))

/-- A frame retired, in the disabled-unit map (R67). The stroke in hand is lost to it and goes to the exact lane, as one
whose codes a fault discards (R70; log entry 96). -/
def State.retire (s : State) (fk : Nat) : State :=
  let x := s.frame fk
  if x.st = .retired then s
  else
    let s := (if x.prg.isSome then s.stopPrg fk 4 else s).dropVisit fk
    let y := s.frame fk
    let lost := fun (x : Stroke) =>
      { x with lane := true, started := false, pending := false, n := 0, sums := [], flags := [] }
    (s.setFrame fk { y with st := .retired, stroke := y.stroke.map lost }).mapSet (mapFrame fk)

/-- A frame moved between IDLE and SPARE by Porell, which R67 allows only through REPAIR: FRM_CTL.op = REPAIR, then SPARE
or IDLE. -/
def State.throughRepair (s : State) (fk : Nat) (st : FState) : State :=
  let s := s.toRepair fk
  if (s.frame fk).st = .repair then s.setFrame fk { s.frame fk with st := st } else s

/-- FRM_CTL.op = RETIRE. -/
def execFrmCtlRetire (d : Die) (b : Brd) (f : Frm) (s : State) : Host.Outcome State Fault Refusal :=
  .next (s.retire (frameKey d b f))

/-- FRM_CTL.op = CLEAR_FAULT (R69). -/
def execFrmCtlClearFault (d : Die) (b : Brd) (f : Frm) (s : State) : Host.Outcome State Fault Refusal :=
  let fk := frameKey d b f
  .next (s.setFrame fk { s.frame fk with fault := false, faultCode := 0 })

/-! Trims, gains and temperature. -/

/-- A bank of ROD_TRIM and PLANE_GAIN lies beside the other (R129; log entry 3). -/
def bankOff (n : Nat) : Nat := n * 2 ^ 48

def trimReg (fk bank r : Nat) : Nat := fkBase fk + 0x800 + 4 * r + bankOff bank
def gainReg (fk bank p : Nat) : Nat := fkBase fk + 0xC40 + 4 * p + bankOff bank

/-- A step bound to a bank is in flight on the board (FRM_CAL_STAT.held). -/
def State.bankHeld (s : State) (bk n : Nat) : Bool :=
  let x := s.board bk
  let on := fun c : StepCtx => b2n c.bank == n
  x.steps.any on || (match x.cur with | some c => on c | none => false) || x.endPend.any on ||
  x.sb.any fun e => on e.ctx

/-- A write to ROD_TRIM or PLANE_GAIN of the bank FRM_CAL_SEL addresses (R135). -/
def execCalRegisterWrite (d : Die) (b : Brd) (f : Frm) (k : Fin 280) (w : Word) (s : State) :
    Host.Outcome State Fault Refusal :=
  let fk := frameKey d b f
  let n := fld (s.reg (fkBase fk + 0xC60)) 0 1
  if s.bankHeld (boardKey d b) n then .next (s.bump (fkBase fk + 0xA4) 1)
  else if k.val < 272 then .next (s.setReg (trimReg fk n k) w)
  else .next (s.setReg (gainReg fk n (k - 272)) (w &&& 0x3FFFF))

/-- R118: a raw code corrected by a rod's trim and a plane's gain. -/
def trimOf (t : Word) (pg c : Int) : Int :=
  rneShift ((c * 16 - sfld t 0 16) * ((2 ^ 18 + sfld t 16 16) * (2 ^ 20 + pg))) 42

/-- A raw code corrected by the bank's trims and the plane's gain (R118). -/
def State.trim (s : State) (fk bank p r : Nat) (c : Int) : Int :=
  trimOf (s.reg (trimReg fk bank r)) (sfld (s.reg (gainReg fk bank p)) 0 18) c

/-- alpha of a die, ppm/K. -/
def State.alpha (s : State) (d : Nat) : Int := signed 32 (s.calN (64 + 44 * d) 4)

/-- Twice the squared distance of a board from a sensor of its die, boards in the 16 × 12 mesh and sensors at the
centres of a 6 × 4 grid over it (R125, R441; log entry 25). -/
def sensorDist (b k : Nat) : Nat :=
  let dx := (6 * (2 * (b % 16) + 1) : Int) - 16 * (2 * (k % 6) + 1)
  let dy := (4 * (2 * (b / 16) + 1) : Int) - 12 * (2 * (k / 6) + 1)
  -- in units that make both axes pitches of the mesh alike
  ((dx * 2) * (dx * 2) + (dy * 3) * (dy * 3)).natAbs

/-- The sensor of a die calibration uses for a board: the nearest plausible one, the lowest where equally near (R125). DESIGN
CHOICE: where none is plausible, sensor 0, since the spec names none (log entry 119). -/
def State.nearSensor (s : State) (bk : Nat) : Nat :=
  let d := keyDie bk
  let ks := (List.range 24).filter fun k => s.plausible d k
  ks.foldl (fun best k => if sensorDist (keyBrd bk) k < sensorDist (keyBrd bk) best then k else best) (ks.headD 0)

/-- tj16 of a frame (R125). -/
def State.tj16 (s : State) (fk : Nat) : Int :=
  let bk := fkBoard fk
  (s.sensor (24 * keyDie bk + s.nearSensor bk)).tj16

end Sys2Proof.Machine
end

