-- ==== Sys2Proof/Machine/Programming.lean ====
section
/-! DEFINITION. Bead programming (R74-R113): the loader unit's choice of digits (R84, R96-R98), program and verify
(R88-R95), and the programming commands. -/

namespace Sys2Proof.Machine

/-- t60(k): the verify target code of level k at 60 °C (R76). -/
def t60 (k : Nat) : Int := rneDiv ((1 + 2 * k : Nat) * 65534) 100

/-- The target at the frame's temperature (R91). -/
def targetAt (alpha tj16 : Int) (k : Nat) : Int := t60 k + rneDiv (t60 k * alpha * (tj16 - 960)) 16000000

/-- The level whose scaled target lies nearest a reading, the lower where two are equally near (R92). -/
def nearLevel (alpha tj16 g : Int) : Nat :=
  (List.range 16).foldl (fun best k =>
    if (g - targetAt alpha tj16 k).natAbs < (g - targetAt alpha tj16 best).natAbs then k else best) 0

/-! Images (R83). -/

/-- Bits [lo + len - 1 : lo] of a byte stream. -/
def streamBits (bs : List Byte) (lo len : Nat) : Nat :=
  nfld (leNat (slice bs (lo / 8) ((lo % 8 + len + 7) / 8))) (lo % 8) len

/-- Weight n of a packed image of a format code; none where the element is invalid (R83). -/
def imgWeight (fmt : Nat) (bs : List Byte) (n : Nat) : Option Int :=
  match fmt with
  | 0 => match streamBits bs (2 * n) 2 with | 0 => some 0 | 1 => some 1 | 3 => some (-1) | _ => none
  | 1 => let x := streamBits bs (5 * n) 5; if x = 16 then none else some (signed 5 x)
  | _ => let x := streamBits bs (9 * n) 9; if x = 256 then none else some (signed 9 x)

/-- Weights a row holds: 256, or 128 in W9. -/
def rowWeights (fmt : Nat) : Nat := if fmt = 2 then 128 else 256

/-- The row-peak entry of a row (R84). -/
def imgPeak (fmt : Nat) (bs : List Byte) (row : Nat) : Nat :=
  let b := leAt bs (planeBytes fmt - 256 + row / 2) 1
  if row % 2 = 0 then b % 16 else b / 16

/-- The weights of a row; an invalid element, which R85 keeps out, reads as 0. -/
def imgRow (fmt : Nat) (bs : List Byte) (row : Nat) : List Int :=
  (List.range (rowWeights fmt)).map fun m => (imgWeight fmt bs (rowWeights fmt * row + m)).getD 0

/-- The canonical split of a W9 weight (R82). -/
def canonSplit (w : Int) : Int × Int := (Int.tdiv w 16, w - 16 * Int.tdiv w 16)

/-- The second split, where it exists (R82). -/
def secondSplit (w : Int) : Option (Int × Int) :=
  let (u, l) := canonSplit w
  let sg : Int := if 0 < l then 1 else -1
  if l ≠ 0 ∧ (u + sg).natAbs ≤ 15 then some (u + sg, l - 16 * sg) else none

/-- The data digits of a row under the canonical digits (R80, R81). -/
def imgDigits (fmt : Nat) (ws : List Int) : List Int :=
  match fmt with
  | 0 => ws.map (15 * ·)
  | 1 => ws
  | _ => ws.flatMap fun w => [(canonSplit w).2, (canonSplit w).1]

/-- The image check of R85: every element valid and every row peak at least what R84 requires. -/
def imgOk (fmt : Nat) (bs : List Byte) : Bool :=
  decide (fmt < 3) && bs.length == planeBytes fmt &&
  (List.range 512).all fun row =>
    (List.range (rowWeights fmt)).all (fun m => (imgWeight fmt bs (rowWeights fmt * row + m)).isSome) &&
    (imgDigits fmt (imgRow fmt bs row)).all fun d => decide (d.natAbs ≤ imgPeak fmt bs row)

/-- The bead image of a frame's score is resident, and the hub that holds it serves and has not lost it (R249, R306, R309,
R489). -/
def State.residentOf (s : State) (fk : Nat) : Bool :=
  match (s.frame fk).placed with
  | some slot =>
    let h := stackHub (keyDie (fkBoard fk))
    (s.score slot).resident && s.sv.alive.getD h false && !(s.score slot).imgLost.contains h
  | none => false

/-- Where a score places frame f of a logical board on board bk: its frame key, redirections followed. -/
def Score.frameAt (x : Score) (bk f : Nat) : Nat :=
  match x.redir.find? fun r => r.1 == 34 * bk + f with
  | some r => r.2.1
  | none => 34 * bk + f

/-- The repair or migration that programs a frame: of the frame it replaces, or of its whole board (R477, R481). -/
def State.repairOf (s : State) (fk : Nat) : Option Repair :=
  let x := (s.frame fk).placed.elim {} s.score
  s.sv.repairs.find? fun r => !r.done &&
    if r.isBoard then (List.range 34).any fun f => x.frameAt r.target f == fk else r.target == fk

/-- The image a score gives a physical frame and plane, the target of a repair among them; none where a loaded score's
image is not resident. -/
def State.imageOf (s : State) (fk p : Nat) : Option PlaneImg :=
  match (s.frame fk).placed with
  | none => none
  | some slot =>
    let x := s.score slot
    if x.st = 4 ∧ !s.residentOf fk then none
    else
      let here := fun (bk f : Nat) =>
        match s.repairOf fk with
        | some r => if r.isBoard then r.frame == bk && x.frameAt r.target f == fk else x.frameAt bk f == r.frame
        -- a frame whose placement has switched serves what was issued before (R288)
        | none => s.sv.repairs.any fun r => r.done && !r.isBoard && r.frame == fk && x.frameAt bk f == r.target
      x.file.planes.find? fun i => i.plane == p &&
        (match x.boardOf i.lb with
         | some bk => x.frameAt bk i.frame == fk || here bk i.frame
         | none => false)

/-- The frame whose confirmed levels a migration without a resident image takes over (R139, R478). -/
def State.levelSource (s : State) (fk : Nat) : Option Nat :=
  match s.repairOf fk with
  | some r => if r.isBoard then none else some r.frame
  | none => none

/-! Digits under stuck beads (R96-R98). -/

/-- The realisable digits of a rod given the stuck levels of its beads (R97). -/
def digitRange (sp sn : Option Nat) : Int × Int :=
  match sp, sn with
  | none, none => (-15, 15)
  | some a, none => ((a : Int) - 15, a)
  | none, some a => (-(a : Int), 15 - a)
  | some a, some b => ((a : Int) - b, (a : Int) - b)

/-- The levels that realise the nearest realisable digit (R78, R97). -/
def pairFor (d : Int) (sp sn : Option Nat) : Nat × Nat :=
  let r := digitRange sp sn
  let d := clampI r.1 r.2 d
  match sp, sn with
  | none, none => (d.toNat, (-d).toNat)
  | some a, none => (a, ((a : Int) - d).toNat)
  | none, some a => ((d + a).toNat, a)
  | some a, some b => (a, b)

/-- The digits of a deck within the row's peak; a fixed digit stands whatever its magnitude (R98). -/
def deckDigits (sp sn : Option Nat) (peak : Nat) : List Int :=
  if sp.isSome ∧ sn.isSome then [(digitRange sp sn).1]
  else
    let r := digitRange sp sn
    ((List.range 31).map fun (i : Nat) => (i : Int) - 15).filter fun d => decide (r.1 ≤ d ∧ d ≤ r.2 ∧ d.natAbs ≤ peak)

/-- Pair a is preferred to pair b for weight w (R98). -/
def betterPair (w : Int) (a b : Int × Int) : Bool :=
  let err := fun p : Int × Int => (w - 16 * p.1 - p.2).natAbs
  let key := fun p : Int × Int => [err p, p.1.natAbs, p.2.natAbs, (15 - p.1).toNat, (255 - p.2).toNat]
  decide (key a < key b)

/-- The digits (u, l) of a W9 weight (R98). -/
def w9Digits (w : Int) (us ls : List Int) (peak : Nat) : Int × Int :=
  let fits := fun p : Int × Int =>
    us.contains p.1 && ls.contains p.2 && decide (p.1.natAbs ≤ peak ∧ p.2.natAbs ≤ peak)
  let second := match secondSplit w with | some p => fits p | none => false
  if fits (canonSplit w) then canonSplit w
  else if second then (secondSplit w).getD (0, 0)
  else
    (us.flatMap fun u => ls.map fun l => (u, l)).foldl (fun b p => if betterPair w p b then p else b)
      (us.headD 0, ls.headD 0)

/-- The stuck level of a column in a row's stuck list. -/
def stuckAt (st : List (Nat × Nat × Nat)) (row col : Nat) : Option Nat :=
  (st.find? fun e => e.1 == row && e.2.1 == col).map fun e => e.2.2

/-- The data digits the loader unit derives for a row (R97, R98). -/
def loaderDigits (fmt : Nat) (ws : List Int) (peak : Nat) (st : List (Nat × Nat × Nat)) (row : Nat) : List Int :=
  let stk := fun r => (stuckAt st row (2 * r), stuckAt st row (2 * r + 1))
  let near := fun r (d : Int) => clampI (digitRange (stk r).1 (stk r).2).1 (digitRange (stk r).1 (stk r).2).2 d
  if fmt = 2 then
    (List.range 128).flatMap fun m =>
      let lo := stk (2 * m)
      let up := stk (2 * m + 1)
      let (u, l) := w9Digits (ws.getD m 0) (deckDigits up.1 up.2 peak) (deckDigits lo.1 lo.2 peak) peak
      [l, u]
  else (List.range 256).map fun r => near r ((imgDigits fmt ws).getD r 0)

/-- The check digits of the eight groups (R87). -/
def checkDigits (ds : List Int) : List Int :=
  (List.range 8).map fun j => rneDiv (isum (slice ds (32 * j) 32)) 32

/-- The target levels of columns 0-527 of a row. -/
def rowLevels (ds : List Int) (st : List (Nat × Nat × Nat)) (row : Nat) : List Nat :=
  let all := ds ++ checkDigits ds
  (List.range 264).flatMap fun r =>
    let p := pairFor (all.getD r 0) (stuckAt st row (2 * r)) (stuckAt st row (2 * r + 1))
    [p.1, p.2]

/-! Program and verify (R89). -/

/-- The verify window of a column in codes (R90). -/
def colWindow (win : Word) (fmt col : Nat) : Int :=
  let f := if 512 ≤ col then fld win 0 8
    else match fmt with
      | 0 => fld win 16 8
      | 1 => fld win 0 8
      | _ => if col / 2 % 2 = 1 then fld win 8 8 else fld win 0 8
  rneDiv (f * 32767 : Nat) 1000

/-- A pulse: set or reset, its amplitude in 10 mV and its width in rk (R89). -/
structure Pulse where
  up : Bool
  amp : Nat
  width : Nat
deriving DecidableEq, Repr

/-- The next pulse of a column under FRM_PRG_PULSE, from the direction of its last one and the pulses it has had in that
direction (R89). -/
def nextPulse (cfg : Word) (last : Option (Bool × Nat)) (up : Bool) : Pulse × Option (Bool × Nat) :=
  let n := match last with | some (d, n) => if d = up then n else 0 | none => 0
  let base := if up then fld cfg 0 8 else fld cfg 8 8
  (⟨up, base + min n (fld cfg 20 5) * fld cfg 16 4, 10 * fld cfg 25 7⟩, some (up, n + 1))

/-- The readings of a row's columns, by index of free values. -/
def rowRead (base : Nat) : List Int := (List.range 528).map fun c => Config.beadRead (base + c)

/-- The readings after an iteration: a pulsed column answers to its pulse. -/
def verifyRead (base : Nat) (ps : List (Option Pulse)) : List Int :=
  (List.range 528).map fun c => match ps.getD c none with
    | some p => Config.pulsedRead (base + c) p.up p.amp p.width
    | none => Config.beadRead (base + c)

/-- The columns outside their windows. -/
def outCols (stuck : List Nat) (t win g : List Int) : List Nat :=
  (List.range 528).filter fun c => !stuck.contains c && decide (win.getD c 0 < (g.getD c 0 - t.getD c 0).natAbs)

/-- Up to 64 iterations: the last readings, the iterations taken and the free values read (R89). `last` holds the pulses of
each column so far. -/
def passGo (cfg : Word) (stuck : List Nat) (t win : List Int) :
    Nat → Nat → List (Option (Bool × Nat)) → List Int → Nat → List Int × Nat × Nat
  | 0, base, _, g, it => (g, it, base)
  | n + 1, base, last, g, it =>
    let out := outCols stuck t win g
    if out = [] then (g, it, base)
    else
      let ps := (List.range 528).map fun c =>
        if out.contains c then some (nextPulse cfg (last.getD c none) (decide (g.getD c 0 < t.getD c 0))) else none
      let last' := ps.zipIdx.map fun p => match p.1 with | some q => q.2 | none => last.getD p.2 none
      passGo cfg stuck t win n (base + 528) last' (verifyRead base (ps.map fun p => p.map (·.1))) (it + 1)

/-- One pass over a row: the columns left out become stuck at the level they read nearest (R92). -/
def rowPass (alpha tj16 : Int) (win cfg : Word) (fmt row : Nat) (st : List (Nat × Nat × Nat)) (lv : List Nat)
    (g : List Int) (base : Nat) : List (Nat × Nat × Nat) × Nat × Nat × List Int :=
  let stuck := (st.filter fun e => e.1 == row).map fun e => e.2.1
  let t := lv.map (targetAt alpha tj16)
  let ws := (List.range 528).map (colWindow win fmt)
  let (g, it, base) := passGo cfg stuck t ws 64 base [] g 0
  let new := (outCols stuck t ws g).map fun c => (row, c, nearLevel alpha tj16 (g.getD c 0))
  (st ++ new, it, base, g)

/-- A row programmed and verified (R89-R93). `first` gives the target levels of columns 0-527 and the data digits under the
list the row begins with, `derive` those under a later list. The pre-read gives a listed bead the level it now reads at;
such a bead and one newly marked call for the second pass, unless the list is beyond 8 entries (R101). -/
def programRow (alpha tj16 : Int) (win cfg : Word) (fmt row : Nat) (first : List Nat × List Int)
    (derive : List (Nat × Nat × Nat) → List Int) (st0 : List (Nat × Nat × Nat)) (fresh : Nat) : RowOut :=
  let g0 := rowRead fresh
  let st := st0.map fun e => if e.1 = row then (e.1, e.2.1, nearLevel alpha tj16 (g0.getD e.2.1 0)) else e
  let moved := ((st0.zip st).filter fun e => e.1 != e.2).length
  let (st1, it1, base, g) := rowPass alpha tj16 win cfg fmt row st first.1 g0 (fresh + 528)
  let new := moved + (st1.length - st.length)
  if new = 0 ∨ 8 < st1.length then
    { levels := first.1, stuck := st1, iters := it1, total := it1, fresh := base, marked := new, digits := first.2 }
  else
    let lv2 := rowLevels (derive st1) st1 row
    let (st2, it2, base, _) := rowPass alpha tj16 win cfg fmt row st1 lv2 g base
    { levels := lv2, stuck := st2, iters := it2, total := it1 + it2, fresh := base,
      marked := new + (st2.length - st1.length), digits := derive st1 }

/-- Every sensor of a die below a temperature, in °C; broken and retired ones read as R443 and R444 state. -/
def State.dieBelow (s : State) (d t : Nat) : Bool :=
  (List.range 24).all fun k => decide (s.reading d k < 16 * t)


def prgStat (fk : Nat) : Nat := fkBase fk + 0x108

/-- A plane's header. -/
def State.header (s : State) (fk p : Nat) : Header := (s.frame fk).headers.getD p {}

def State.setHeader (s : State) (fk p : Nat) (h : Header) : State :=
  let x := s.frame fk
  s.setFrame fk { x with headers := x.headers.set p h }

/-- FRM_PRG_WEAR shows the header counts of the plane FRM_PRG_CFG names. -/
def State.wearReg (s : State) (fk : Nat) : Nat :=
  let h := s.header fk (fld (s.reg (fkBase fk + 0x104)) 0 3)
  h.cycles + h.refreshes * 2 ^ 14

/-- A frame that a loaded score uses (R28, R105). -/
def State.inService (s : State) (fk : Nat) : Bool :=
  match (s.frame fk).placed with
  | some slot => (s.score slot).st == 4 && (s.repairOf fk).isNone
  | none => false

/-- Porell starts planes: in Ready, with no lower state about to be entered (R108, R109). -/
def State.mayProgram (s : State) : Bool := s.pstate == 2 && s.pw.entering.isNone

/-- Programming of a plane begins (R88, R105, R108-R110): the result code, 0 where it starts. DESIGN CHOICES (log entry 119):
a start outside Ready, or while an entry to Drowsy or Dormant is pending, shows result 2; and the side-store entries held of
the plane stay valid while it is rewritten (R33), as in a refresh. -/
def State.startPlane (s : State) (fk plane fmt : Nat) (load refresh : Bool) : State × Nat :=
  let x := s.frame fk
  let win := s.reg (fkBase fk + 0x10C)
  let h := s.header fk plane
  if !s.mayProgram ∨ (x.st ≠ .idle ∧ x.st ≠ .spare) ∨ s.inService fk ∨ fmt = 3 ∨ fld win 0 8 = 0 ∨ fld win 8 8 = 0 ∨
      fld win 16 8 = 0 then
    (s, 2)
  else if 10000 ≤ h.cycles ∧ !refresh then (s, 3)
  else
    let s := s.setHeader fk plane { h with fmt := 3, cycles := if refresh then h.cycles else h.cycles + 1,
                                           refreshes := if refresh then hold 131071 (h.refreshes + 1) else h.refreshes }
    -- a frame that held the same images no longer does
    let s := if refresh then s else s.frames.foldl (fun s e =>
      if e.2.twin = some fk then s.setFrame e.1 { s.frame e.1 with twin := none } else s) s
    let s := s.dropVisit fk
    let s := s.setFrame fk { s.frame fk with
      st := .programming,
      twin := if refresh then x.twin else none,
      prg := some { plane := plane, fmt := fmt, stuck := h.stuck, chkOff := h.chkOff, load := load, at_ := s.now } }
    (s.setRegN (prgStat fk) (1 + h.stuck.length * 2 ^ 17), 0)

/-- A start with its result in FRM_PRG_STAT (R105). -/
def State.startResult (s : State) (fk plane fmt : Nat) (load refresh : Bool) : State :=
  match s.startPlane fk plane fmt load refresh with
  | (s, 0) => s
  | (s, r) => s.setReg (prgStat fk) (put (s.reg (prgStat fk)) 21 3 r)

/-- The loader unit's start: plane and format written to FRM_PRG_CFG, then FRM_PRG_CTL.start (R105). -/
def State.loaderStart (s : State) (fk plane fmt : Nat) (load refresh : Bool) : State :=
  let a := fkBase fk + 0x104
  (s.setReg a (put (put (s.reg a) 0 3 plane) 3 2 fmt)).startResult fk plane fmt load refresh

/-- FRM_PRG_CTL.start (R105). -/
def execFrmPrgStart (d : Die) (b : Brd) (f : Frm) (s : State) : Host.Outcome State Fault Refusal :=
  let fk := frameKey d b f
  let cfg := s.reg (fkBase fk + 0x104)
  if (s.frame fk).prg.isSome then .next s
  else .next (s.startResult fk (fld cfg 0 3) (fld cfg 3 2) true false)

/-- Frames of a die whose engine holds a plane, as (key, engine). -/
def State.engines (s : State) : List (Nat × Prg) :=
  s.frames.filterMap fun e => e.2.prg.map fun p => (e.1, p)

/-- The module's metered draw in 10 mW: the tokens every die consumed in the last tick (R437, R439). -/
def State.meteredPower (s : State) : Nat := nsum (s.dies.map fun e => e.2.usedTick) / 1000

/-- The power manager has room for one more programming frame: the module's draw, in which each programming frame counts
0.34 W at least, within the cap (R102; log entry 26). -/
def State.prgRoom (s : State) : Bool :=
  let cap := s.reg (hubBase 0 + 0x80004)
  let unmet := fld (s.reg (hubBase 0 + 0x8000C)) 0 16
  let n := (s.engines.filter fun e => e.2.granted).length
  decide (unmet + max s.meteredPower (34 * n) + 34 ≤ 100 * (fld cap 0 8 - fld cap 8 8))

/-- Score load over: every board and frame released and the slot EMPTY (R254, R373). -/
def State.releaseScore (s : State) (slot : Nat) : State :=
  let x := s.score slot
  let s := s.frames.foldl (fun s e =>
    if e.2.placed = some slot then
      let s := if e.2.prg.isSome then s.stopPrg e.1 4 else s
      let y := s.frame e.1
      let s := s.setFrame e.1 { y with placed := none, covered := false, migrate := false,
                                       st := if y.st = .programming then .spare else y.st }
      if y.st = .idle ∨ y.st = .recount then s.throughRepair e.1 .spare else s
    else s) s
  let mine := fun (r : Repair) => if r.isBoard then (s.board r.frame).score == some slot
    else x.place.any fun p => p.2 == fkBoard r.frame || p.2 == fkBoard r.target
  let s := { s with sv.repairs := s.sv.repairs.filter (fun r => !mine r), fb.switches := s.fb.switches.filter (fun w => w.slot != slot),
                     fb.moved := s.fb.moved.filter fun e => e.1 / 8192 != slot }
  let s := s.boards.foldl (fun s e =>
    if e.2.score = some slot then s.setBoard e.1 { ({} : Board) with up := e.2.up, failed := e.2.failed } else s) s
  s.setScore slot {}

/-- The physical die of a score's logical die (R252). -/
def Score.dieAt (x : Score) (d : Nat) : Option Nat :=
  ((x.file.man.lboards.zipIdx.find? fun p => p.1.1 == d).bind fun p => x.boardOf p.2).map keyDie

/-- The fixed part of a placement record: score_id, digest and the physical die of each logical die (R374; log entry 31). -/
def recordBytes (x : Score) : List Byte :=
  leBytes 8 x.id ++ padTo 0 64 x.digest ++ (List.range 32).flatMap fun d => leBytes 1 ((x.dieAt d).getD 255)

/-- The boards of a score placed away from their logical positions: the board and the one of its position (R374). -/
def Score.movedBoards (x : Score) : List (Nat × Nat) :=
  x.place.filterMap fun p => match x.file.man.lboards[p.1]? with
    | some (d, b) =>
      let home := boardKey ((x.dieAt d).getD (keyDie p.2)) b
      if home = p.2 then none else some (p.2, home)
    | none => none

/-- The mode byte of the stage each board of a score runs (R251, R374). -/
def Score.boardModes (x : Score) : List (Nat × Nat) :=
  x.place.map fun p => (p.2, ((x.file.stages.find? fun h => h.boards.contains p.1).map (·.mode)).getD 0)

/-- Bytes the module writes into consecutive ledger pages, those pages alone that they change. -/
def State.moduleSpan (s : State) (a : Nat) (bs : List Byte) : State :=
  (List.range (cdiv (a % 256 + bs.length) 256)).foldl (fun s i =>
    let lo := 256 * i - a % 256
    let x := (bs.take (256 * (i + 1) - a % 256)).drop lo
    if slice (s.pendPage ((a + lo) / 256)) ((a + lo) % 256) x.length = x then s else s.moduleWrite 0 (a + lo) x) s

/-- The placement records: the fixed part of the slot's, and the mode byte of every board and the moved boards of all
(R374; log entry 31). -/
def State.saveRecord (s : State) (slot : Nat) : State :=
  let x := s.score slot
  let kept := ((List.range 64).map s.score).filter fun x => x.st == 3 || x.st == 4
  let modes := kept.flatMap Score.boardModes
  let s := s.moduleSpan (256 * 774 + 104 * slot) (if x.st = 4 then padTo 0 104 (recordBytes x) else List.replicate 104 0)
  let s := s.moduleSpan (256 * 800) ((List.range 6144).map fun k =>
    BitVec.ofNat 8 (((modes.find? fun e => e.1 == k).map (·.2)).getD 0))
  s.moduleSpan (256 * 824) (padTo 0xFF 512 ((kept.flatMap Score.movedBoards).flatMap fun e => leBytes 2 e.1 ++ leBytes 2 e.2))

/-- A load that fails to program: the slot is EMPTY and the command answers the code (R254, R373). -/
def State.loadFailed (s : State) (slot code detail : Nat) : State :=
  let x := s.score slot
  let s := ((s.releaseScore slot).saveRecord slot).event 8 (leBytes 1 slot ++ leBytes 1 0)
  match x.req with
  | some r => (s.unpend r 0x0200).finish r code [word detail]
  | none => s

/-- The score a frame is being programmed for. -/
def State.loadingSlot (s : State) (fk : Nat) : Option Nat :=
  match (s.frame fk).placed with
  | some slot => if (s.score slot).st = 2 then some slot else none
  | none => none

/-- FRM_PRG_FEED: target buffers marked full (R88). -/
def execFrmPrgFeed (d : Die) (b : Brd) (f : Frm) (w : Word) (s : State) : Host.Outcome State Fault Refusal :=
  let fk := frameKey d b f
  match (s.frame fk).prg with
  | none => .next s
  | some p => .next (s.setFrame fk { s.frame fk with
      prg := some { p with full0 := p.full0 || bit w 0, full1 := p.full1 || bit w 1 } })

/-- The target levels of columns 0-527 in the buffer of a row. -/
def State.bufLevels (s : State) (fk row : Nat) : List Nat :=
  let a := fkBase fk + (if row % 2 = 0 then 0x400 else 0x600)
  (List.range 528).map fun c => fld (s.reg (a + 4 * (c / 8))) (4 * (c % 8)) 4

/-- Digits that target levels spell: kpos - kneg of each data rod. -/
def levelDigits (lv : List Nat) : List Int :=
  (List.range 256).map fun r => (lv.getD (2 * r) 0 : Int) - lv.getD (2 * r + 1) 0

/-- The row peak, residuals and misses of a row from what its beads then hold (R32, R84, R87, R99, R100). -/
def rowSide (fmt : Nat) (ws : List Int) (peak : Nat) (ro : RowOut) (row : Nat) : Side × Nat × Nat :=
  let lv := fun c => (stuckAt ro.stuck row c).getD (ro.levels.getD c 0)
  let dig := fun r => (lv (2 * r) : Int) - lv (2 * r + 1)
  let es := (List.range 8).map fun j => isum ((List.range 32).map fun k => dig (32 * j + k)) - 32 * dig (256 + j)
  let cs := checkDigits ro.digits
  let off := (List.range 8).filter fun j => decide (dig (256 + j) ≠ cs.getD j 0 ∨ 16 < (es.getD j 0).natAbs)
  let held := fun m => match fmt with
    | 0 => dig m
    | 1 => dig m
    | _ => 16 * dig (2 * m + 1) + dig (2 * m)
  let want := fun m => if fmt = 0 then 15 * ws.getD m 0 else ws.getD m 0
  let miss := ((List.range (rowWeights fmt)).filter fun m => decide (held m ≠ want m)).length
  ({ peak := peak, resid := es.map (clampI (-16) 16) }, nsum (off.map fun j => 2 ^ j), miss)

/-- A board no score holds: not failed, not disabled, without a placed frame (R250, R252). -/
def State.freeBoard (s : State) (bk : Nat) : Bool :=
  (s.board bk).score.isNone && !s.disabled (mapBoard bk) && !(s.board bk).failed &&
  !(s.wk.scores.any fun e => e.2.st != 0 && e.2.place.any fun p => p.2 == bk) &&
  !(List.range 34).any fun f => (s.frame (34 * bk + f)).placed.isSome

/-- The planes a score gives a physical frame. -/
def Score.planesOn (x : Score) (fk : Nat) : List Nat :=
  (List.range 8).filter fun p => x.file.planes.any fun i => i.plane == p &&
    (match x.boardOf i.lb with | some bk => x.frameAt bk i.frame == fk | none => false)

/-- Frames of R474 that may replace a frame of a score, in order: SPARE or unplaced, not disabled, the planes it needs
unworn (R110). -/
def State.replacements (s : State) (fk : Nat) (slot : Nat) : List Nat :=
  let bk := fkBoard fk
  let need := (s.score slot).planesOn fk
  let used := fun k => (s.frame k).placed.isSome
  let ok := fun k =>
    let x := s.frame k
    (x.st == .spare || x.st == .idle || x.st == .recount) && !used k && k != fk && !s.disabled (mapFrame k) && x.prg.isNone && !x.fault &&
    need.all fun p => let h := x.headers.getD p {}; decide (h.cycles < 10000 ∧ h.refreshes < 100000)
  let own := [34 * bk + 32, 34 * bk + 33] ++ (List.range 32).map fun f => 34 * bk + f
  let hops := fun b => ((b % 16 : Nat) - (keyBrd bk % 16 : Nat) : Int).natAbs + ((b / 16 : Nat) - (keyBrd bk / 16 : Nat) : Int).natAbs
  let held := fun k => (s.board k).score.isSome || s.disabled (mapBoard k) || (s.board k).failed ||
    s.wk.scores.any fun e => e.2.st != 0 && e.2.place.any fun p => p.2 == k
  let free := (List.range 192).filter fun b => boardKey (keyDie bk) b != bk && !held (boardKey (keyDie bk) b)
  let near := (List.range 32).flatMap fun h => free.filter fun b => hops b == h
  let res := near.flatMap fun b => (List.range 34).map fun f => 34 * boardKey (keyDie bk) b + f
  (own ++ if slot < 64 then res else []).filter ok

/-- The redirections of a score's board, at most four (R288). -/
def Score.redirsOf (x : Score) (bk : Nat) : List (Nat × Nat × Nat × Nat) := x.redir.filter fun r => fkBoard r.1 == bk

/-- A register value of a score written to a board, and in force (R207, R251). -/
def State.scoreWrite (s : State) (bk o : Nat) (w : Word) : State :=
  if 0x41100 ≤ o ∧ o < 0x44000 then s.setAct bk o w
  else (s.setReg (bkBase bk + o) w).setLive (bkBase bk + o) w

/-- The redirections of a score's board written to LAN_FSW (R288). -/
def State.writeFsw (s : State) (slot bk : Nat) : State :=
  ((s.score slot).redirsOf bk).zipIdx.foldl (fun s p =>
    let dst := p.1.2.1
    let o := 0x46010 + 16 * p.2
    let a := fkFrame p.1.1 + fkFrame dst * 2 ^ 6 + keyBrd (fkBoard dst) * 2 ^ 12 + keyDie (fkBoard dst) * 2 ^ 20 + 2 ^ 25
    let s := s.scoreWrite bk o (word a)
    let s := s.scoreWrite bk (o + 4) (word p.1.2.2.1)
    s.scoreWrite bk (o + 8) (word (p.1.2.2.1 / 2 ^ 32))) s

/-- A placement moved from a frame to a replacement at load (R101, R252): the score's record of redirections. -/
def State.moveFrame (s : State) (slot fk dst : Nat) (seq : Nat) : State :=
  let x := s.score slot
  let home := match x.redir.find? fun r => r.2.1 == fk with | some r => r.1 | none => fk
  let x := { x with redir := (x.redir.filter fun r => r.1 != home) ++ [(home, dst, seq, 0)] }
  let s := s.setScore slot x
  let old := s.frame fk
  let s := s.setFrame fk { old with placed := none, covered := false }
  s.setFrame dst { s.frame dst with placed := some slot }

/-- A frame whose engine is idle and which no recount visit holds; a visit ends first (R67). -/
def State.engineFree (s : State) (fk : Nat) : Bool := (s.frame fk).prg.isNone && (s.frame fk).st != .recount

/-- The next plane still to program of a frame begun (R254); held while no plane may start (R109). -/
def State.nextPlane (s : State) (slot fk : Nat) : State :=
  match (s.score slot).todo.find? fun t => t.1 == fk with
  | some (_, p, fmt) => if s.mayProgram ∧ s.engineFree fk then s.loaderStart fk p fmt true false else s
  | none => s

/-- The format a plane of a repair's source is programmed in. -/
def State.repairFmt (s : State) (src p : Nat) : Nat :=
  match s.imageOf src p with
  | some i => i.fmt
  | none => (s.header src p).fmt

/-- The next plane of a frame repair begun on its target; where the target holds the same images already it counts as a
refresh (R139). -/
def State.repairPlane (s : State) (r : Repair) : State :=
  match r.todo with
  | p :: _ =>
    if r.isBoard then
      let slot := (s.board r.target).score.getD 64
      let fk := (s.score slot).frameAt r.target (p / 8 % 34)
      if s.mayProgram ∧ s.engineFree fk then
        s.loaderStart fk (p % 8) (s.repairFmt fk (p % 8)) false false
      else s
    else if s.mayProgram ∧ s.engineFree r.target then
      s.loaderStart r.target p (s.repairFmt r.frame p) false ((s.frame r.target).twin == some r.frame)
    else s
  | [] => s

/-- A repair of a frame begun: its target chosen in the order of R474 among those not in `skip`, and the first plane
programmed. False where no frame is left (R479). -/
def State.startRepair (s : State) (fk : Nat) (skip : List Nat) : State × Bool :=
  match (s.frame fk).placed with
  | none => (s, false)
  | some slot =>
    let x := s.score slot
    let ps := x.planesOn fk
    match (s.replacements fk slot).filter fun k => !skip.contains k with
    | [] => (s.event 6 (leBytes 4 fk), false)
    | k :: _ =>
      let r : Repair := { frame := fk, target := k, todo := ps }
      let s := s.setFrame k { s.frame k with placed := some slot }
      let s := { s with sv.repairs := s.sv.repairs ++ [r] }
      (s.repairPlane r, true)

/-- Planes of a board's repair begun, one on each frame of the target that has planes still to program (R481). -/
def State.boardPlanes (s : State) (r : Repair) : State :=
  (List.range 34).foldl (fun s f =>
    match r.todo.find? fun p => p / 8 % 34 == f with
    | some p => s.repairPlane { r with todo := [p] }
    | none => s) s

/-- Frames of a die that hold a programming grant. -/
def State.grantsOn (s : State) (d : Nat) : Nat :=
  (s.engines.filter fun e => keyDie (fkBoard e.1) == d && e.2.granted).length

/-- A waiting frame is admitted (R102, R103): at most 64 of a die, one always, repair and migration before loading,
each class in order of arrival. -/
def execPrgGrant (d : Die) (b : Brd) (f : Frm) (s : State) : Host.Outcome State Fault Refusal :=
  let fk := frameKey d b f
  match (s.frame fk).prg with
  | none =>
    -- a plane held under R109 starts
    let s := match s.loadingSlot fk with | some slot => s.nextPlane slot fk | none => s
    .next (match s.repairOf fk with
      | some r => if r.isBoard then s.boardPlanes r else s.repairPlane r
      | none => s)
  | some p =>
    let mine := s.engines.filter fun e => keyDie (fkBoard e.1) == d.val
    let on := s.grantsOn d
    -- the headroom of the module goes to the first frame in the order of R103 whose die may take one more
    let rivals := if on = 0 then mine else s.engines.filter fun e => decide (s.grantsOn (keyDie (fkBoard e.1)) < 64)
    let before := rivals.any fun e => !e.2.granted && (p.load && !e.2.load || (p.load == e.2.load && decide (e.2.at_ < p.at_)))
    if s.pstate ≠ 2 ∨ p.granted ∨ 64 ≤ on ∨ before ∨ (on ≠ 0 ∧ !s.prgRoom) then .next s
    else .next (s.setFrame fk { s.frame fk with prg := some { p with granted := true } })

/-- A repair's record replaced. -/
def State.putRepair (s : State) (r r' : Repair) : State :=
  { s with sv.repairs := s.sv.repairs.map fun (x : Repair) => if x = r then r' else x }

/-- The target of a repair gave way: the next candidate takes its place, or the repair ends and the frame stays as it is
(R101, R479, R480). -/
def State.repairFailed (s : State) (fk : Nat) : State :=
  match s.repairOf fk with
  | none => s
  | some r =>
    if r.isBoard then
      let slot := (s.board r.target).score.getD 64
      let x := s.score slot
      match (List.range 34).find? (fun f => x.frameAt r.target f == fk), s.replacements fk slot with
      | some f, k :: _ =>
        let s := s.moveFrame slot fk k 0
        let s := s.setFrame k { s.frame k with covered := (s.board r.frame).failed }
        let s := (s.writeFsw slot r.target)
        s.repairPlane { r with todo := r.todo.filter fun p => p / 8 % 34 == f }
      | some f, [] => (s.putRepair r { r with todo := r.todo.filter fun p => p / 8 % 34 != f }).event 6 (leBytes 4 fk)
      | none, _ => s
    else
      let s := { s with sv.repairs := s.sv.repairs.filter (· != r) }
      let s := s.setFrame fk { s.frame fk with placed := none, covered := false }
      (s.startRepair r.frame [fk]).1

/-- A plane reaches a ninth stuck bead (R101): result 5, the frame retired, and its placement restarted on a
replacement, or the load failed. -/
def State.stuckLimit (s : State) (fk : Nat) : State :=
  let slot := s.loadingSlot fk
  let s := (s.stopPrg fk 5).retire fk
  match slot with
  | none => s.repairFailed fk
  | some n =>
    match s.replacements fk n with
    | [] => s.loadFailed n 0x030F 0
    | k :: _ =>
      let x := s.score n
      let again := (x.file.planes.filterMap fun i => match x.boardOf i.lb with
        | some bk => if 34 * bk + i.frame = ((x.redir.find? fun r => r.2.1 == fk).map (·.1)).getD fk then some (k, i.plane, i.fmt) else none
        | none => none)
      let s := s.moveFrame n fk k 0
      let s := s.setScore n { s.score n with todo := ((s.score n).todo.filter fun t => t.1 != fk) ++ again }
      s.nextPlane n k

/-- FRM_PRG_CTL.abort: result 4; the frame passes to SPARE; a load it belonged to fails (R107, R254). -/
def execFrmPrgAbort (d : Die) (b : Brd) (f : Frm) (s : State) : Host.Outcome State Fault Refusal :=
  let fk := frameKey d b f
  if (s.frame fk).prg.isNone then .next s
  else
    let slot := s.loadingSlot fk
    let s := s.stopPrg fk 4
    let s := s.setFrame fk { s.frame fk with st := .spare }
    .next (match slot with
      | some n => s.loadFailed n 0x0505 0
      | none => s.repairFailed fk)

/-- What a row of a plane is programmed from: its weights, the row-peak entry, the levels and digits it begins with (R84,
R88, R97, R98; log entries 97 and 98). -/
structure RowSrc where
  ws : List Int
  peak : Nat
  levels : List Nat
  digits : List Int
deriving DecidableEq, Repr

/-- The source of the row in hand: the image of its score, else the confirmed levels of the frame it replaces, else its
target buffer; none while that buffer is not full. -/
def State.rowSrc (s : State) (fk : Nat) (p : Prg) : Option RowSrc :=
  let weights := fun (ds : List Int) =>
    if p.fmt = 2 then (List.range 128).map fun m => 16 * ds.getD (2 * m + 1) 0 + ds.getD (2 * m) 0
    else if p.fmt = 0 then ds.map (· / 15) else ds
  let derived := fun (ws : List Int) (peak : Nat) =>
    let ds := loaderDigits p.fmt ws peak p.stuck p.row
    some (⟨ws, peak, rowLevels ds p.stuck p.row, ds⟩ : RowSrc)
  match s.imageOf fk p.plane with
  | some i => derived (imgRow i.fmt i.bytes p.row) (imgPeak i.fmt i.bytes p.row)
  | none =>
    match s.levelSource fk with
    | some k =>
      derived (weights ((List.range 256).map fun r =>
        (s.bead (beadKey k p.plane p.row (2 * r)) : Int) - s.bead (beadKey k p.plane p.row (2 * r + 1))))
        (s.sideAt k p.plane p.row).peak
    | none =>
      if !(if p.row % 2 = 0 then p.full0 else p.full1) then none
      else
        let lv := s.bufLevels fk p.row
        let ds := levelDigits lv
        some ⟨weights ds, (ds.map Int.natAbs).foldl max 0, lv, ds⟩

/-- The outcome of the row in hand, its readings taken from the free values (R89-R93). -/
def State.rowOut (s : State) (fk : Nat) (p : Prg) (x : RowSrc) : RowOut :=
  programRow (s.alpha (keyDie (fkBoard fk))) (s.tj16 fk) (s.reg (fkBase fk + 0x10C)) (s.reg (fkBase fk + 0x110)) p.fmt p.row
    (x.levels, x.digits) (fun st => loaderDigits p.fmt x.ws x.peak st p.row) p.stuck s.fresh

/-- A rod of a row stuck on both sides (R97). -/
def bothStuck (st : List (Nat × Nat × Nat)) (row : Nat) : Bool :=
  (List.range 264).any fun r => (stuckAt st row (2 * r)).isSome && (stuckAt st row (2 * r + 1)).isSome

/-- The row in hand ends: beads, side store, counters and FRM_PRG_STAT, or the stuck limit (R87-R101, R113). -/
def State.endRow (s : State) (fk : Nat) (p : Prg) (x : RowSrc) (ro : RowOut) : State :=
  let s := s.bump (fkBase fk + 0xA0) ro.marked
  let s := s.setRegN (prgStat fk) (1 + p.row * 2 + ro.iters * 2 ^ 10 + min 9 ro.stuck.length * 2 ^ 17)
  if 8 < ro.stuck.length then s.stuckLimit fk
  else
    let lv := fun c => (stuckAt ro.stuck p.row c).getD (ro.levels.getD c 0)
    let s := (List.range 528).foldl (fun s c => s.setBead (beadKey fk p.plane p.row c) (lv c)) s
    let (side, off, miss) := rowSide p.fmt x.ws x.peak ro p.row
    let s := (s.setSide fk p.plane p.row side).bump (fkBase fk + 0x9C) miss
    let poor := miss != 0 || bothStuck ro.stuck p.row
    let y := s.frame fk
    s.setFrame fk { y with
      prg := some { p with row := p.row + 1, stuck := ro.stuck, chkOff := Nat.lor p.chkOff off, poor := p.poor || poor,
                           out := none, waits := false, paid := false,
                           full0 := p.full0 && p.row % 2 == 1, full1 := p.full1 && p.row % 2 == 0 }
      degraded := if poor ∧ !y.degraded.contains p.plane then y.degraded ++ [p.plane] else y.degraded }

/-- The priority of a programming frame's draws (R26, R103). -/
def Prg.prio (p : Prg) : Nat := if p.load then prioLoad else prioRepair

/-- PRG_ROW: the next row programmed and verified, once its targets and tokens are ready (R88-R95, R106). -/
def execPrgRow (d : Die) (b : Brd) (f : Frm) (s : State) : Host.Outcome State Fault Refusal :=
  let fk := frameKey d b f
  match (s.frame fk).prg with
  | none => .next s
  | some p =>
    if s.pstate ≠ 2 ∨ !p.granted ∨ 512 ≤ p.row ∨ p.paused ∨ (p.waits ∧ !p.paid) then .next s
    else if !p.waits ∧ !s.dieBelow d s.t2 then
      .next (s.setFrame fk { s.frame fk with prg := some { p with paused := true } })
    else
      match s.rowSrc fk p with
      | none => .next s
      | some x =>
        let ro := p.out.getD (s.rowOut fk p x)
        let s := if p.out.isSome then s else { s with fresh := ro.fresh }
        if p.paid then .next (s.endRow fk p x ro)
        else
          match s.draw d p.prio (136 + 27 * ro.total) (.program fk) with
          | (s, true) => .next (s.endRow fk p x ro)
          | (s, false) => .next (s.setFrame fk { s.frame fk with prg := some { p with out := some ro, waits := true } })

/-- Programming paused at T2 resumes when every sensor of the die reads below T1 (R106). -/
def execPrgThermalResume (d : Die) (s : State) : Host.Outcome State Fault Refusal :=
  if !s.dieBelow d s.t1 then .next s
  else
    .next (s.engines.foldl (fun s e =>
      if keyDie (fkBoard e.1) = d.val then s.setFrame e.1 { s.frame e.1 with prg := some { e.2 with paused := false } }
      else s) s)

end Sys2Proof.Machine
end

