-- ==== Sys2Proof/Machine/Operands.lean ====
section
/-! DEFINITION. Operands of tile instructions: fields and legality (R236-R240), the ranges an instruction touches
(R212, R241, R551), elements in slates (R158-R174), and job and board faults (R241, R242). -/

namespace Sys2Proof.Machine

/-- Bits [lo + len - 1 : lo] of word k of a tile instruction. -/
def tf (w k lo len : Nat) : Nat := nfld w (32 * k + lo) len

def topc (w : Nat) : Nat := tf w 0 0 6
def tsync (w : Nat) : Bool := tf w 0 6 1 == 1
def tnb (w : Nat) : Nat := tf w 0 8 8

/-- A board register in force. -/
def State.breg (s : State) (bk o : Nat) : Word := s.liveReg (bkBase bk + o)

/-- q is at or after S (R220). -/
def atOrAfter (q s : Nat) : Bool := decide ((q % 2 ^ 48 + 2 ^ 48 - s % 2 ^ 48) % 2 ^ 48 < 2 ^ 47)

/-- The frame a STROKE of a board goes to at a sequence: its own, or a redirection in force (R288). -/
def State.redirected (s : State) (bk f q : Nat) : Nat :=
  let hit := (List.range 4).find? fun n =>
    let a := s.breg bk (0x46010 + 16 * n)
    let sp := (s.breg bk (0x46014 + 16 * n)).toNat + fld (s.breg bk (0x46018 + 16 * n)) 0 16 * 2 ^ 32
    bit a 25 && fld a 0 6 == f && atOrAfter q sp
  match hit with
  | some n =>
    let a := s.breg bk (0x46010 + 16 * n)
    34 * boardKey (fld a 20 5) (fld a 12 8) + fld a 6 6
  | none => 34 * bk + f

/-- A frame's plane holds, or is given by its score, a W9 image. -/
def State.planeW9 (s : State) (fk p : Nat) : Bool :=
  match s.imageOf fk p with
  | some i => i.fmt == 2
  | none => (s.header fk p).fmt == 2

/-- The same for the frame that frame f of a board now goes to. -/
def State.strokeW9 (s : State) (bk f p : Nat) : Bool := s.planeW9 (s.redirected bk f (s.board bk).q) p

/-! Stride sets. -/

def State.inStride (s : State) (bk i : Nat) : Nat := fld (s.breg bk (0x40100 + 16 * i)) 0 14
def State.expStride (s : State) (bk i : Nat) : Nat := fld (s.breg bk (0x40100 + 16 * i)) 14 14
def State.tlyStride (s : State) (bk i : Nat) : Nat := fld (s.breg bk (0x40104 + 16 * i)) 0 12
def State.outStride (s : State) (bk i : Nat) : Nat := fld (s.breg bk (0x40104 + 16 * i)) 12 14
def State.ngroup (s : State) (bk i : Nat) : Nat := fld (s.breg bk (0x40108 + 16 * i)) 0 10
def State.pdim (s : State) (bk i : Nat) : Nat := fld (s.breg bk (0x40108 + 16 * i)) 10 3
def State.pmode (s : State) (bk i : Nat) : Bool := bit (s.breg bk (0x40108 + 16 * i)) 13
def State.a4 (s : State) (bk i : Nat) : Bool := bit (s.breg bk (0x40108 + 16 * i)) 14
def State.sgn (s : State) (bk i : Nat) : Bool := bit (s.breg bk (0x40108 + 16 * i)) 15

/-- The stage header of the stage a board runs (R251). -/
def State.stageOf (s : State) (bk : Nat) : StageHdr :=
  let x := s.board bk
  match x.score with
  | some slot => ((s.score slot).file.stages.find? fun h => h.stage == x.stage).getD { stage := x.stage, boards := [] }
  | none => { stage := x.stage, boards := [] }

/-- BATCH_MODE of the stage: strided (R258). -/
def State.strided (s : State) (bk : Nat) : Bool := (s.stageOf bk).flags % 2 == 1

/-! Shapes (R238, R255). -/

def shapeRows (n : Nat) : Nat := [512, 256, 128, 512, 256, 128].getD n 0
def shapeRods (n : Nat) : Nat := [256, 256, 256, 128, 128, 64].getD n 1
def turnSize (n : Nat) : Nat := [0, 64, 128, 256, 512].getD n 0

/-- The fields of a STROKE (R237). -/
structure StrokeOp where
  frame : Nat
  plane : Nat
  shape : Nat
  turn : Nat
  row0 : Nat
  nrow : Nat
  rod0 : Nat
  sidx : Nat
  nrod : Nat
  tslot : Nat
  ebase : Nat
  xaddr : Nat
  eaddr : Nat
deriving DecidableEq, Repr

def strokeOp (w : Nat) : StrokeOp :=
  ⟨tf w 0 16 6, tf w 0 22 3, tf w 0 25 3, tf w 0 28 3, tf w 1 0 9, tf w 1 9 10, tf w 1 19 8, tf w 1 27 4,
   tf w 2 0 9, tf w 2 9 11, tf w 2 20 12, tf w 3 0 14, tf w 3 14 14⟩

/-- Bytes of its exponent array a STROKE reads: those of the whole vector, and those of its own rows (R182, R238). -/
def State.strokeExps (s : State) (bk : Nat) (o : StrokeOp) : Nat :=
  let g := [0, 32, 64, 128].getD (s.stageOf bk).gsize 0
  max (s.ngroup bk o.sidx) (o.ebase + (if g = 0 then 1 else cdiv o.nrow g))

/-! Formats. -/

/-- Formats the vector unit consumes (R175). -/
def vecIn (f : Fmt) : Bool := !(f == .wt || f == .w5 || f == .w9 || f == .c16)

/-- Integer and row-drive formats (R229), with T40 read as INT32 (R175). -/
def intLike (f : Fmt) : Bool :=
  f.isDrive || f == .int8 || f == .int16 || f == .int32 || f == .t40

/-- Formats a stream may write (R175). -/
def outFmt (f : Fmt) : Bool := !(f == .wt || f == .w5 || f == .w9 || f == .c16 || f == .t40)

/-- Elements per group of a group-scaled format (R170). -/
def grpOf : Fmt → Nat
  | .s8g32 => 32
  | _ => 64

/-- Bytes of n codes. -/
def codeBytes (f : Fmt) (n : Nat) : Nat := cdiv (n * f.bits) 8

/-- Bytes of a block of rows of n elements: the code array and, from the next 8-byte boundary, its exponents (R551). -/
def blockBytes (f : Fmt) (rows n : Nat) : Nat :=
  if f.isGroup then cdiv (codeBytes f (rows * n)) 8 * 8 + rows * cdiv n (grpOf f) else codeBytes f (rows * n)

/-- The format of a stream; FP32 where the code is reserved. -/
def State.strFmt (s : State) (bk n : Nat) : Option Fmt := Fmt.ofCode (fld (s.breg bk (0x45040 + 4 * n)) 6 5)

def vmmTile (t : Nat) : Nat × Nat := [(64, 64), (128, 32), (32, 128), (16, 256)].getD t (64, 64)

/-- The functions of R230. -/
def vopFuncs : List Nat :=
  [1, 2, 3, 4, 5, 6, 7, 8, 9, 0xA, 0xB, 0x10, 0x11, 0x12, 0x13, 0x14, 0x15, 0x16, 0x17, 0x18]

/-- Functions with two operands, and functions with one result a row. -/
def vopBinary (f : Nat) : Bool := decide (1 ≤ f ∧ f ≤ 5)
def vopScalar (f : Nat) : Bool := f == 0x10 || f == 0x11 || f == 0x12 || f == 0x17

/-- Bytes of the two moments of n adapter weights at an OPTU's b: each S8G32 codes, then exponents (R205; log entry 35). -/
def optuB (n : Nat) : Nat := 2 * (cdiv n 8 * 8 + cdiv (cdiv n 32) 8 * 8)

/-- Result elements a VOP row writes. -/
def vopOut (f n : Nat) : Nat := if vopScalar f then 1 else n

/-! Legality (R240). -/

/-- A reserved field of the instruction is not 0 (R236, R237). -/
def reservedSet (w : Nat) : Bool :=
  let z := fun k lo len => tf w k lo len != 0
  let nbz := z 0 8 8
  z 0 7 1 ||
  match topc w with
  | 0x01 => z 0 31 1 || z 1 31 1 || z 3 28 4
  | 0x02 => nbz || z 0 25 7 || z 1 0 32 || z 2 0 32 || z 3 0 32
  | 0x03 => nbz || z 0 27 5 || z 1 12 20 || z 2 0 32 || z 3 0 32
  | 0x04 => nbz || z 0 28 4 || z 1 26 6 || z 2 0 32 || z 3 0 32
  | 0x05 => z 1 27 5 || z 2 28 4 || z 3 14 18
  | 0x06 => z 0 31 1 || z 1 22 10 || z 2 28 4 || (tf w 0 30 1 == 0 && z 3 14 6)
  | 0x07 => z 0 30 2 || z 2 28 4 || z 3 28 4
  | 0x08 => nbz || z 0 27 5 || z 1 25 7 || z 2 11 21 || z 3 0 32
  | 0x09 => nbz || z 0 27 5 || z 1 24 8 || z 2 0 32 || z 3 0 32
  | 0x0A => nbz || z 0 17 15 || z 1 28 4 || z 2 16 16
  | 0x0B => nbz || z 0 17 15 || z 1 0 32
  | 0x0C => nbz || z 0 16 16 || z 1 0 32 || z 2 0 32 || z 3 0 32
  | 0x0D => nbz || z 0 24 8 || z 1 16 16 || z 2 14 18 || z 3 14 18 || (tf w 0 16 2 == 1 && z 2 11 3)
  | 0x0E => nbz || z 0 26 6 || z 1 16 16 || z 2 0 32 || z 3 0 32
  | 0x0F => nbz || z 0 16 16 || z 1 0 32 || z 2 0 32 || z 3 0 32
  | _ => true

/-- A STROKE's window breaks R238; `w9` where the plane holds W9. -/
def strokeBad (o : StrokeOp) (w9 : Bool) : Bool :=
  34 ≤ o.frame || 6 ≤ o.shape || 5 ≤ o.turn || o.row0 % shapeRows o.shape != 0 || o.rod0 % shapeRods o.shape != 0 ||
  decide (shapeRows o.shape < o.nrow ∨ shapeRods o.shape < o.nrod ∨ shapeRows o.shape < turnSize o.turn) ||
  (w9 && (o.rod0 % 2 == 1 || o.nrod % 2 == 1))

/-- ILLEGAL of R240 for the instruction at address pc. -/
def State.illegal (s : State) (bk pc w : Nat) : Bool :=
  let slots := fun n => decide (2048 < n)
  let noFmt := fun (c : Nat) (p : Fmt → Bool) => match Fmt.ofCode c with | some f => !p f | none => true
  let batch := [1, 5, 6, 7].contains (topc w)
  reservedSet w || (batch && decide (1 < tnb w) && !s.strided bk) ||
  match topc w with
  | 0x01 =>
    let o := strokeOp w
    strokeBad o (s.strokeW9 bk o.frame o.plane)
  | 0x02 => decide (34 ≤ tf w 0 16 6)
  | 0x03 => slots (tf w 1 0 12)
  | 0x04 => slots (tf w 1 0 12)
  | 0x05 =>
    let c := s.breg bk (0x41000 + 16 * tf w 0 16 3)
    slots (tf w 1 11 12) || !(fld c 12 5 == 14 || fld c 12 5 == 16) || decide (19 ≤ fld c 17 5) ||
    (bit c 6 && noFmt (fld (s.breg bk (0x45040 + 4 * tf w 0 19 4)) 6 5) outFmt)
  | 0x06 =>
    decide (4096 < tf w 1 0 13) || noFmt (tf w 0 18 5) vecIn || noFmt (tf w 0 23 5) vecIn ||
    (tf w 0 28 1 == 0 && (noFmt (tf w 0 18 5) intLike || noFmt (tf w 0 23 5) intLike)) ||
    noFmt (fld (s.breg bk (0x45040 + 4 * tf w 1 13 4)) 6 5) outFmt
  | 0x07 =>
    let f := tf w 0 21 8
    !vopFuncs.contains f || noFmt (tf w 0 16 5) vecIn || (f == 7 && decide (8 ≤ tf w 1 24 8)) ||
    (f != 0xB && noFmt (fld (s.breg bk (0x45040 + 4 * tf w 1 16 4)) 6 5) outFmt)
  | 0x08 => slots (tf w 1 0 12) || decide (192 ≤ tf w 1 17 8)
  | 0x09 => slots (tf w 1 0 12)
  | 0x0D => tf w 0 16 2 == 3 || decide (34 ≤ tf w 0 18 6)
  | 0x0E => decide (pc ≤ tf w 0 16 10)
  | _ => false

/-! Ranges (R212). -/

/-- The read and write ranges of an instruction in the slate (bytes) and the tally (slots), half open. -/
structure Ranges where
  sr : Option (Nat × Nat) := none
  sw : Option (Nat × Nat) := none
  tr : Option (Nat × Nat) := none
  tw : Option (Nat × Nat) := none
deriving DecidableEq, Repr

/-- From the lowest to the highest unit touched over nb iterations. -/
def span (base stride nb len : Nat) : Option (Nat × Nat) :=
  if nb = 0 ∨ len = 0 then none else some (base, base + (nb - 1) * stride + len)

def join (a b : Option (Nat × Nat)) : Option (Nat × Nat) :=
  match a, b with
  | none, x => x
  | x, none => x
  | some p, some q => some (min p.1 q.1, max p.2 q.2)

def overlap (a b : Option (Nat × Nat)) : Bool :=
  match a, b with
  | some p, some q => decide (p.1 < q.2 ∧ q.1 < p.2)
  | _, _ => false

/-- Groups of g that n elements from one position on touch. -/
def groupsIn (g pos n : Nat) : Nat := if n = 0 then 0 else (pos + n - 1) / g - pos / g + 1

/-- Exponent bytes a DRAIN writes for n slots from one on: one per group of its stream, none per channel (R223). -/
def State.expDrain (s : State) (bk n slot len : Nat) : Nat :=
  let c := s.breg bk (0x45000 + 4 * n)
  let g := fld c 23 3
  let top := cdiv (fld c 11 12) (granSize g) - 1
  let pos := slot - fld c 0 11
  if g = 0 ∨ len = 0 then 0
  else if 4 ≤ g then 1
  else min ((pos + len - 1) / granSize g) top - min (pos / granSize g) top + 1

/-- Exponent bytes a row of `len` codes of a vector result carries (R551). -/
def State.perRow (s : State) (bk n len : Nat) : Nat :=
  let g := fld (s.breg bk (0x45000 + 4 * n)) 23 3
  let f := (s.strFmt bk n).getD .fp32
  if f.isGroup then cdiv len (grpOf f)
  else if g = 0 then 0 else if 4 ≤ g then 1 else cdiv len (granSize g)

/-- From the lowest to the highest unit touched over nb iterations of unlike lengths. -/
def spanOf (base stride nb : Nat) (len : Nat → Nat) : Option (Nat × Nat) :=
  (List.range nb).foldl (fun a i => join a (span (base + i * stride) 0 1 (len i))) none

/-- Slots of a stream (SCL_STR). -/
def State.strSlots (s : State) (bk st : Nat) : Nat := fld (s.breg bk (0x45000 + 4 * st)) 11 12

/-- Columns of C within the tensor's extent: the slots of its stream, where it has any (R256, R259; log entry 108). -/
def State.vmmCols (s : State) (bk st n : Nat) : Nat := if s.strSlots bk st = 0 then n else min n (s.strSlots bk st)

/-- Codes stored of a row of C: its columns, in whole groups as far as the tile has room (R174). -/
def vmmStored (f : Fmt) (cols n : Nat) : Nat := if f.isGroup then min n (cdiv cols (grpOf f) * grpOf f) else cols

/-- The ranges of an instruction (R212, R237, R551). -/
def State.ranges (s : State) (bk w : Nat) (capture : Nat) : Ranges :=
  let nb := tnb w
  match topc w with
  | 0x01 =>
    let o := strokeOp w
    let bytes := if s.a4 bk o.sidx then cdiv o.nrow 2 else o.nrow
    let out := if s.strokeW9 bk o.frame o.plane then o.nrod / 2 else o.nrod
    if o.nrow = 0 ∨ o.nrod = 0 then {}
    else
      { sr := join (span (8 * o.xaddr) (8 * s.inStride bk o.sidx) nb bytes)
                   (span (8 * o.eaddr) (s.expStride bk o.sidx) nb (s.strokeExps bk o)),
        tw := span o.tslot (s.tlyStride bk o.sidx) nb out }
  | 0x03 => { tw := span (tf w 0 16 11) 0 1 (tf w 1 0 12) }
  | 0x04 =>
    { tr := span (tf w 0 16 11) 0 1 (tf w 1 0 12),
      sw := span (8 * tf w 1 12 14) 0 1 ((if tf w 0 27 1 = 0 then 8 else 4) * tf w 1 0 12) }
  | 0x05 =>
    let p := tf w 0 16 3
    let n := tf w 1 11 12
    let i := tf w 1 23 4
    let c := s.breg bk (0x41000 + 16 * p)
    let f := if bit c 6 then (s.strFmt bk (tf w 0 19 4)).getD .fp32 else .fp32
    let t := tf w 1 0 11
    let ts := s.tlyStride bk i
    let on := fun k (x : Option (Nat × Nat)) => if bit c k then x else none
    let bw := if fld c 12 5 = 16 then 4 else 2
    { tr := span t ts nb n,
      sr := join (on 1 (span (8 * fld (s.breg bk (0x41008 + 16 * p)) 0 14 + 2 * t) (2 * ts) nb (2 * n)))
        (join (on 2 (span (8 * fld (s.breg bk (0x4100C + 16 * p)) 0 14 + bw * t) (bw * ts) nb (bw * n)))
              (on 4 (span (8 * tf w 3 0 14) (8 * s.inStride bk i) nb (blockBytes ((Fmt.ofCode (fld c 17 5)).getD .fp32) 1 n)))),
      sw := if tf w 0 23 1 = 1 then none
        else join (span (8 * tf w 2 0 14) (8 * s.outStride bk i) nb (codeBytes f n))
          (on 6 (spanOf (8 * tf w 2 14 14) (8 * s.outStride bk i) nb fun k => s.expDrain bk (tf w 0 19 4) (t + ts * k) n)) }
  | 0x06 =>
    let (m, n) := vmmTile (tf w 0 16 2)
    let k := tf w 1 0 13
    let i := tf w 1 17 4
    let fa := (Fmt.ofCode (tf w 0 18 5)).getD .fp32
    let fb := (Fmt.ofCode (tf w 0 23 5)).getD .fp32
    let f := (s.strFmt bk (tf w 1 13 4)).getD .fp32
    if k = 0 then {}
    else
      { sr := join (span (8 * tf w 2 0 14) (8 * s.inStride bk i) nb (blockBytes fa m k))
          (if tf w 0 30 1 = 0 then span (8 * tf w 3 0 14) 0 nb
            (if tf w 1 21 1 = 1 then blockBytes fb n k else blockBytes fb k n) else none),
        sw := join (span (8 * tf w 2 14 14) (8 * s.outStride bk i) nb
            (codeBytes f ((m - 1) * n) + codeBytes f (vmmStored f (s.vmmCols bk (tf w 1 13 4) n) n)))
          (span (32 * tf w 3 20 12) (8 * s.outStride bk i) nb
            ((m - 1) * s.perRow bk (tf w 1 13 4) n + s.perRow bk (tf w 1 13 4) (s.vmmCols bk (tf w 1 13 4) n))) }
  | 0x07 =>
    let fn := tf w 0 21 8
    let n := tf w 1 0 16
    let i := tf w 1 20 4
    let fin := (Fmt.ofCode (tf w 0 16 5)).getD .fp32
    let f := if fn = 0xB then (if tf w 1 24 1 = 1 then .s4g64 else .s8g32) else (s.strFmt bk (tf w 1 16 4)).getD .fp32
    let m := vopOut fn n
    -- partial groups are stored whole where no exponents follow them (R174; log entry 107)
    let codes := if f.isGroup then cdiv m (grpOf f) * grpOf f else m
    let exps := if fn = 0xB then cdiv m (grpOf f) else s.perRow bk (tf w 1 16 4) m
    let x := 8 * tf w 3 14 14
    let xin := if fn = 0x14 then 4 + 4 * n else if fn = 0x15 then 4 + 8 * n else if fn = 0x16 then 4 * (n / 2) else if fn = 0x18 then 2 * n else 0
    if n = 0 then {}
    else
      { sr := join (span (8 * tf w 2 0 14) (8 * s.inStride bk i) nb (blockBytes fin 1 n))
          (join (if vopBinary fn then span (8 * tf w 2 14 14) (8 * s.inStride bk i) nb (blockBytes fin 1 n)
                 else if fn = 0x18 then span (8 * tf w 2 14 14) (8 * s.inStride bk i) nb (optuB n) else none)
                (span x 0 nb xin)),
        sw := join (span (8 * tf w 3 0 14) (8 * s.outStride bk i) nb
            (if fn = 0xA ∨ fn = 0xB then codeBytes f codes
             else if exps = 0 then codeBytes f m else cdiv (codeBytes f m) 8 * 8 + exps))
          (join (if fn = 0xA ∨ fn = 0xB then span x (8 * s.outStride bk i) nb exps
                 else if fn = 0x18 then span x 0 nb (2 * n) else none)
            (if fn = 0x18 then span (8 * tf w 2 14 14) (8 * s.inStride bk i) nb (optuB n) else none)) }
  | 0x08 => { tr := span (tf w 0 16 11) 0 1 (tf w 1 0 12) }
  | 0x09 => { tw := span (tf w 0 16 11) 0 1 (tf w 1 0 12) }
  | 0x0A =>
    let x := span (8 * tf w 1 0 14) 0 1 (8 * tf w 1 14 14)
    if tf w 0 16 1 = 0 then { sw := x } else { sr := x }
  | 0x0D =>
    match tf w 0 16 2 with
    | 1 =>
      let x := span (tf w 2 0 11) 0 1 (tf w 3 0 14)
      if capture = 2 then { tw := x } else { tr := x }
    | 2 =>
      let x := span (8 * tf w 2 0 14) 0 1 (tf w 3 0 14)
      if capture = 2 then { sw := x } else { sr := x }
    | _ => {}
  | _ => {}

/-- A range outside the stage's slate or tally allocation (R241). -/
def State.outside (s : State) (bk : Nat) (r : Ranges) : Bool :=
  let l := s.breg bk 0x40008
  let t := s.breg bk 0x4000C
  let bad := fun (lo hi : Nat) (x : Option (Nat × Nat)) =>
    match x with | some p => decide (p.1 < lo ∨ hi < p.2) | none => false
  let sb := 8 * fld l 0 14
  let se := sb + 8 * fld l 14 15
  let tb := fld t 0 11
  let te := tb + fld t 11 12
  bad sb se r.sr || bad sb se r.sw || bad tb te r.tr || bad tb te r.tw

/-- Tally additions of STROKE and CRECV do not conflict with one another (R212). -/
def adds (w : Nat) : Bool := topc w == 1 || topc w == 9

/-- An earlier unfinished instruction keeps this one from issue (R212). -/
def conflicts (w : Nat) (r : Ranges) (w' : Nat) (e : Ranges) : Bool :=
  overlap r.sw e.sr || overlap r.sw e.sw || overlap r.sr e.sw ||
  overlap r.tr e.tw || (overlap r.tw e.tr) || (overlap r.tw e.tw && !(adds w && adds w'))

/-! Slate elements. -/

/-- The pattern of element k of an array of a format at a slate byte (R158, R162). -/
def State.elem (s : State) (bk base : Nat) (f : Fmt) (k : Nat) : Nat :=
  if f.bits = 4 then nfld (leNat (s.load (bkBase bk + base + k / 2) 1)) (4 * (k % 2)) 4
  else leNat (s.load (bkBase bk + base + k * (f.bits / 8)) (f.bits / 8))

/-- A T40 read from memory whose bits [63:40] are not copies of bit 39 (R162). -/
def badT40 (n : Nat) : Bool := decide (signed 64 n ≠ signed 40 n)

/-- The values of a block of rows of n elements (R165, R172, R175, R551), by a byte reader: element k is read at its
code, group-scaled ones with the exponent of their group; T40 as INT32 after sat(). -/
def blockVals (rd : Nat → Nat → Nat) (f : Fmt) (rows n : Nat) : List FV × Ev :=
  let eb := cdiv (codeBytes f (rows * n)) 8 * 8
  let pat := fun k => if f.bits = 4 then nfld (rd (k / 2) 1) (4 * (k % 2)) 4 else rd (k * (f.bits / 8)) (f.bits / 8)
  let one := fun k =>
    if f.isGroup then
      (decodeElem f (expOf (rd (eb + k / n * cdiv n (grpOf f) + k % n / grpOf f) 1)) (pat k), ({} : Ev))
    else if f == .t40 then
      let (c, ev) := satFmt .int32 (signed 64 (pat k))
      (FV.ofInt c, ev)
    else (decodeElem f 0 (pat k), {})
  let l := (List.range (rows * n)).map one
  (l.map (·.1), (l.map (·.2)).foldl Ev.add {})

/-- A byte reader of a board's slate from a base. -/
def State.slateRd (s : State) (bk base : Nat) : Nat → Nat → Nat := fun o n => leNat (s.load (bkBase bk + base + o) n)

/-- Codes packed as bytes (R158, R162): 4-bit codes two per byte; T40 sign extended to 8 bytes by its pattern. -/
def packCodes (f : Fmt) : List Nat → List Byte
  | [] => []
  | [a] => if f.bits = 4 then leBytes 1 (a % 16) else leBytes (f.bits / 8) a
  | a :: b :: r =>
    if f.bits = 4 then leBytes 1 (a % 16 + b % 16 * 16) ++ packCodes f r
    else leBytes (f.bits / 8) a ++ packCodes f (b :: r)

/-! Activation tables. -/

/-- An unfinished DRAIN or VOP of a board uses an activation table (R226). -/
def State.actBusy (s : State) (bk t : Nat) : Bool :=
  (s.board bk).sb.any fun e =>
    let c := s.breg bk (0x41000 + 16 * tf e.word 0 16 3)
    let f := tf e.word 0 21 8
    (topc e.word == 5 && bit c 3 && fld c 8 3 == t) ||
      (topc e.word == 7 && (f == 7 && tf e.word 1 24 8 == t || f == 0x13 && t == 4))

/-- The table an activation-table register belongs to. -/
def actTable (o : Nat) : Nat := if o < 0x42000 then (o - 0x41100) / 4 else (o - 0x42000) / 1024

/-- A write to an activation table: it waits, in order, while an unfinished instruction uses the table (R226). -/
def State.writeAct (s : State) (bk o : Nat) (w : Word) : State :=
  let x := s.board bk
  if s.actBusy bk (actTable o) then s.setBoard bk { x with actPend := x.actPend ++ [(o, w)] } else s.setAct bk o w

/-- The waiting writes of tables that no unfinished instruction uses any more (R226). -/
def State.settleAct (s : State) (bk : Nat) : State :=
  let x := s.board bk
  if x.actPend = [] then s
  else
    let (wait, go) := x.actPend.partition fun e => s.actBusy bk (actTable e.1)
    go.foldl (fun s e => s.setAct bk e.1 e.2) (s.setBoard bk { x with actPend := wait })

/-! Job and board faults. -/

/-- The status a board fault gives its job (R241, R371). -/
def faultStatus (code : Nat) : Nat :=
  [0, 0x0501, 0x030B, 0x030C, 0x0408, 0x0502, 0x0507, 0x0409].getD code 0x0507

/-- A job marked failed with its first code, for Porell to cancel (R242). -/
def State.jobFault (s : State) (j status : Nat) : State :=
  s.modJob j fun x => if x.failedAt then x else { x with failedAt := true, status := status }

/-- A board fault (R241): code, address and signal; the job of the step fails. -/
def State.boardFault (s : State) (bk code pc job : Nat) : State :=
  let s := s.setBoard bk { s.board bk with fault := true, faultCode := code, statPc := pc }
  (s.log (0x320 + code) [keyDie bk, keyBrd bk]).jobFault job (faultStatus code)

/-- An instruction's read of the slate met an uncorrectable word: SLATE_ECC (R241, R293). -/
def State.eccFault (s : State) (bk : Nat) (e : SbEntry) (ecc : Bool) : Option State :=
  if ecc && (s.ranges bk e.word e.ctx.capture).sr.isSome then some (s.boardFault bk 5 e.pc e.ctx.job) else none

/-- Counts added to a job (R65, R157). -/
def State.addCounts (s : State) (j : Nat) (c : Counts) : State := s.modJob j fun x => { x with counts := x.counts.add c }

/-- The board's first unfinished instruction of a unit (R211). -/
def State.headOf (s : State) (bk : Nat) (u : BUnit) : Option SbEntry := (s.board bk).sb.find? fun e => decide (e.unit = u)

/-- A scoreboard entry replaced. -/
def State.setEntry (s : State) (bk : Nat) (e : SbEntry) : State :=
  let x := s.board bk
  s.setBoard bk { x with sb := x.sb.map fun y => if y.id = e.id then e else y }

/-- A step of a job as one number. -/
def stepKey (c : StepCtx) : Nat := c.job * 2 ^ 32 + c.step

/-- The step base of a step a board has begun (R285). -/
def State.stepBase (s : State) (bk : Nat) (c : StepCtx) : Nat := mget 0 (s.board bk).bases (stepKey c)

end Sys2Proof.Machine
end

