-- ==== Sys2Proof/Machine/Routes.lean ====
section
/-! DEFINITION. The packet header and its check (R268, R269), the SerDes link ends and their registers (R272, R291), the
routes between dies and hubs (R273), and what sending over a link takes: credits, retry buffer and held copies (R276,
R280, R486). -/

namespace Sys2Proof.Machine

/-- Header bits [223:0] as a number (R269). -/
def pktHeader (p : Pkt) : Nat :=
  p.type + p.vc * 2 ^ 4 + b2n p.mc * 2 ^ 6 + p.nflit * 2 ^ 8 + b2n p.poison * 2 ^ 15 + p.dstNode * 2 ^ 16 +
  p.dstBoard * 2 ^ 22 + p.srcNode * 2 ^ 32 + p.srcBoard * 2 ^ 38 + p.lsrc * 2 ^ 48 + p.epoch * 2 ^ 64 + p.q * 2 ^ 80 +
  p.job * 2 ^ 128 + p.step * 2 ^ 160 + p.ordinal * 2 ^ 192 + b2n p.skind * 2 ^ 204 + p.addr * 2 ^ 205

/-- The payload flits of a packet: what its payload leaves of the last one is 0 (R268; log entry 105). -/
def payFlits (p : Pkt) : List Byte := padTo 0 (32 * cdiv p.payload.length 32) p.payload

/-- hcrc: CRC-32C over bits [223:0] and the payload flits. -/
def pktCrc (p : Pkt) : Nat := crc32c (leBytes 28 (pktHeader p) ++ payFlits p)

/-- The board of a packet's source. -/
def pktSrc (p : Pkt) : Nat := boardKey p.srcNode p.srcBoard

/-- The board a packet goes to: of a multicast packet, the member a copy is for. -/
def pktDst (p : Pkt) : Nat := boardKey p.dstNode (p.member.getD p.dstBoard)

/-! Link ends. -/

/-- The key of a link end: hub h link n at 9h + n, port m of stack s at 18 + 4s + m. -/
def endKey : LinkEnd → Nat
  | .hub h n => 9 * h + n
  | .port s m => 18 + 4 * s + m

/-- The register block of a link end (R291). -/
def linkBase (k : Nat) : Nat :=
  if k < 18 then hubBase (k / 9) + 0x20000 + 64 * (k % 9)
  else bkBase (boardKey (4 * ((k - 18) / 4)) ([96, 111, 8, 184].getD ((k - 18) % 4) 0)) + 0x46800 + 64 * ((k - 18) % 4)

/-- Credits of a link for each virtual channel (R276). -/
def linkDepth (k : Nat) : Nat := if k < 18 ∧ k % 9 = 8 then 192 else 96

/-- The number of a link in the disabled-unit map (R475). -/
def linkNo (k : Nat) : Nat :=
  if k < 18 then (if k % 9 = 8 then 24 else 8 * (k / 9) + k % 9)
  else
    let s := (k - 18) / 4
    match (k - 18) % 4 with
    | 0 => s
    | 1 => 8 + s
    | 2 => 16 + s
    | _ => 16 + (s + 7) % 8

/-- BEAM_STAT.state of a link end: 0 down, 1 training, 2 up, 3 low-power idle. -/
def State.linkState (s : State) (k : Nat) : Nat := fld (s.reg (linkBase k + 4)) 0 2

def State.setLinkState (s : State) (k n : Nat) : State :=
  s.setReg (linkBase k + 4) (put (s.reg (linkBase k + 4)) 0 2 n)

/-- BEAM_STAT.retry_used follows the retry buffer. -/
def State.putLink (s : State) (k : Nat) (x : Link) : State :=
  let s := s.setLink k x
  s.setReg (linkBase k + 4) (put (s.reg (linkBase k + 4)) 3 9 x.retry.length)

/-! Routes (R273). -/

def hubEnd (h t : Nat) : Nat := 9 * h + t
def portEnd (s m : Nat) : Nat := 18 + 4 * (s % 8) + m

/-- n ring hops from a stack, clockwise or not. -/
def ringHops (s n : Nat) (cw : Bool) : List Nat :=
  (List.range n).map fun i => if cw then portEnd (s + i) 2 else portEnd (s + 8 - i) 3

/-- The sending link ends of the routes from node a to node b, the default route first. -/
def routesOf (a b : Nat) : List (List Nat) :=
  let s := a / 4
  let t := b / 4
  let via := fun h => [portEnd s h, hubEnd h t]
  if a < 32 ∧ b < 32 then
    if s = t then [[]]
    else
      let k := (t + 8 - s) % 8
      let cw := ringHops s k true
      let ccw := ringHops s (8 - k) false
      let hubs := [via (t % 2), via (1 - t % 2)]
      if k ≤ 2 then [cw] ++ hubs ++ [ccw] else if 6 ≤ k then [ccw] ++ hubs ++ [cw] else hubs ++ [cw, ccw]
  else if a < 32 then [[portEnd s (b - 32)], [portEnd s (33 - b), hubEnd (33 - b) 8]]
  else if b < 32 then [[hubEnd (a - 32) t], [hubEnd (a - 32) 8, hubEnd (33 - a) t]]
  else if a = b then [[]]
  else [[hubEnd (a - 32) 8], [hubEnd (a - 32) 0, portEnd 0 (b - 32)]]

/-- The route in the tables: the first that takes no link routed around. -/
def State.route (s : State) (a b : Nat) : List Nat :=
  let rs := routesOf a b
  (rs.find? fun r => r.all fun k => mget 0 s.fb.routes (linkNo k) == 0).getD (rs.headD [])

/-! Lanes (R271, R272). On-die lane `lane` of board b of die d has the number 768 · d + 4 · b + lane; port k of the stack
lane above level j of stack s, upwards or downwards, 24,576 + 16 · (3 · s + j) + 2 · k + direction. -/

/-- The lanes a packet takes from board a to board b of a die, as 4·board + lane: one dimension first, then the other. -/
def lanePath (yfirst : Bool) (a b : Nat) : List Nat :=
  let run := fun (along : Nat → Nat) (n m up down : Nat) =>
    if n < m then (List.range (m - n)).map fun i => 4 * along (n + i) + up
    else (List.range (n - m)).map fun i => 4 * along (n - i) + down
  let (ax, ay, bx, by_) := (a % 16, a / 16, b % 16, b / 16)
  if yfirst then run (fun y => 16 * y + ax) ay by_ 2 3 ++ run (fun x => 16 * by_ + x) ax bx 0 1
  else run (fun x => 16 * ay + x) ax bx 0 1 ++ run (fun y => 16 * y + bx) ay by_ 2 3

/-- The stack lanes between two levels of a stack by port k. -/
def stackPath (st l m k : Nat) : List Nat :=
  if l < m then (List.range (m - l)).map fun i => 24576 + 16 * (3 * st + l + i) + 2 * k
  else (List.range (l - m)).map fun i => 24576 + 16 * (3 * st + l - 1 - i) + 2 * k + 1

/-- The lanes from board b of die d to board b' of die d' of the same stack: between levels by the port of the column of b'
(R272). -/
def State.lanesTo (s : State) (d b d' b' : Nat) : List Nat :=
  let on := fun d a b => (lanePath (s.die d).yfirst a b).map (768 * d + ·)
  if d = d' then on d b b'
  else
    let k := b' % 8
    on d b (100 + k) ++ stackPath (d / 4) (d % 4) (d' % 4) k ++ on d' (100 + k) b'

/-- The port board of a link end of an L0 die. -/
def portBoard (k : Nat) : Nat := [96, 111, 8, 184].getD ((k - 18) % 4) 0

/-- The board at which a packet sent by a link end arrives, as die and board; none at a hub. -/
def arrivesAt (k : Nat) : Option (Nat × Nat) :=
  if k < 18 then (if k % 9 = 8 then none else some (4 * (k % 9), if k < 9 then 96 else 111))
  else match (k - 18) % 4 with
    | 2 => some (4 * (((k - 18) / 4 + 1) % 8), 184)
    | 3 => some (4 * (((k - 18) / 4 + 7) % 8), 8)
    | _ => none

/-- The lanes of a packet that stands at a board, or at a hub, and has the links of a route before it. -/
def State.laneRun (s : State) (p : Pkt) : List Nat → Option (Nat × Nat) → List Nat
  | [], none => []
  | [], some (d, b) => if p.dstNode < 32 then s.lanesTo d b p.dstNode (keyBrd (pktDst p)) else []
  | k :: r, at_ =>
    (match at_ with
     | some (d, b) => if 18 ≤ k then s.lanesTo d b (4 * ((k - 18) / 4)) (portBoard k) else []
     | none => []) ++ s.laneRun p r (arrivesAt k)

/-- The lanes a packet takes: to the port it leaves by, over stack lanes and between ports, and from the port it arrives at
(R272). -/
def State.lanesOf (s : State) (p : Pkt) : List Nat :=
  s.laneRun p (s.route p.srcNode p.dstNode) (if p.srcNode < 32 then some (p.srcNode, p.srcBoard) else none)

/-- Credits of a lane for each virtual channel (R276). -/
def laneDepth (l : Nat) : Nat := if l < 24576 then 8 else 16

/-- A lane in the disabled-unit map (R475). -/
def State.laneOut (s : State) (l : Nat) : Bool :=
  s.disabled (if l < 24576 then mapLane 0 0 + l else mapStackLane ((l - 24576) / 16))

/-- Two packets are copies of one multicast packet, of which each link carries one (R274). -/
def sameCast (p q : Pkt) : Bool :=
  p.mc && p.member.isSome && q.member.isSome &&
  decide ({ p with dstNode := 0, member := none, hcrc := 0 } = { q with dstNode := 0, member := none, hcrc := 0 })

/-- The packets that have left their sources and hold lane buffers. -/
def State.aboard (s : State) : List Pkt := s.fb.net ++ s.fb.links.flatMap fun e => e.2.heldP

/-- The packets the fabric holds in all. -/
def State.inFabric (s : State) : List Pkt := s.aboard ++ s.fb.waiting

/-- Flit buffers of a lane in use on a virtual channel: a packet aboard fills as many as it has flits, at most all of them,
and the copies of one multicast packet count once (R274, R277). -/
def State.laneUse (s : State) (l v : Nat) : Nat :=
  let ps := s.aboard.filter fun q => q.vc == v && (s.lanesOf q).contains l
  let one := ps.foldl (fun (acc : List Pkt) q => if acc.any (sameCast q) then acc else acc ++ [q]) []
  nsum (one.map fun q => min (1 + q.nflit) (laneDepth l))

/-- Every lane of a packet is in service and holds the credits it takes; a copy shares the lanes of its packet (R274,
R276). -/
def State.lanesTake (s : State) (p : Pkt) : Bool :=
  let mates := s.aboard.filter (sameCast p)
  (s.lanesOf p).all fun l =>
    !s.laneOut l && ((mates.any fun q => (s.lanesOf q).contains l) ||
      decide (s.laneUse l p.vc + min (1 + p.nflit) (laneDepth l) ≤ laneDepth l))

/-! Sending. -/

/-- The flits of a packet: its header, then its payload. -/
def flitsOf (p : Pkt) : List (List Byte) :=
  (leBytes 28 (pktHeader p) ++ leBytes 4 p.hcrc) ::
    (List.range (cdiv p.payload.length 32)).map fun i => slice (payFlits p) (32 * i) 32

/-- Flits held in the copies of a link end. -/
def Link.copied (x : Link) : Nat := nsum (x.copies.map fun c => 1 + c.2.nflit)

/-- A beam link end at a port board, which keeps copies (R486). -/
def keepsCopies (k : Nat) : Bool := decide (18 ≤ k ∧ (k - 18) % 4 < 2)

/-- A link end takes a packet now: it is up and not fenced, no frame of a failed link waits there (R281), no packet of its channel waits there, and it has credits, retry
frames and copy space (R267, R275, R276, R280, R486). -/
def State.linkTakes (s : State) (k : Nat) (p : Pkt) : Bool :=
  let x := s.link k
  let n := 1 + cdiv p.payload.length 32
  decide (2 ≤ s.linkState k) && x.reinject == [] && !s.fb.fences.contains k && !(x.heldP.any fun q => q.vc == p.vc) && decide (n ≤ x.credits.getD (p.vc % 4) 0) &&
  decide (x.retry.length + cdiv n 4 ≤ 256) && (!keepsCopies k || decide (x.copied + n ≤ 512))

/-- Frames of four flits put into a retry buffer (R280). -/
def Link.frames : Nat → Link → List (Nat × List Byte) → Link
  | 0, x, _ => x
  | f + 1, x, fl =>
    if fl = [] then x
    else Link.frames f { x with txSeq := (x.txSeq + 1) % 4096, retry := x.retry ++ [(x.txSeq, fl.take 4)] } (fl.drop 4)

/-- A packet sent over one link (R276, R280, R291, R486). -/
def State.linkPush (s : State) (k : Nat) (p : Pkt) : State :=
  let x := s.link k
  let fl := (flitsOf p).map fun b => (p.vc, b)
  let v := p.vc % 4
  let y := Link.frames fl.length x fl
  let y := { y with credits := y.credits.set v (y.credits.getD v 0 - fl.length), sentN := (y.sentN + fl.length) % 2 ^ 32,
                    lastTx := s.now, turn := if v < 3 then (v + 1) % 3 else y.turn }
  let y := if keepsCopies k then { y with copies := y.copies ++ [(y.thTx, p)], thTx := (y.thTx + 1) % 2 ^ 32 } else y
  let s := s.putLink k y
  let s := if s.linkState k = 3 then s.setLinkState k 2 else s
  s.bump (linkBase k + 0x1C) fl.length

/-- A copy of the same multicast packet has crossed a link: it is beyond its links, or held at a later one (R274). -/
def State.mateOver (s : State) (p : Pkt) (k : Nat) : Bool :=
  let way := fun (q : Pkt) => s.route q.srcNode q.dstNode
  (s.fb.net.any fun q => sameCast p q && (way q).contains k) ||
  s.fb.links.any fun e => e.2.heldP.any fun q => sameCast p q && ((way q).takeWhile (· != e.1)).contains k

/-- A packet crosses the links before it one by one, or is held at the first that cannot take it yet; a link that a copy of the
same multicast packet has crossed carries no second one (R274-R276). -/
def State.cross (p : Pkt) : List Nat → State → State
  | [], s => { s with fb.net := s.fb.net ++ [p] }
  | k :: r, s =>
    if s.mateOver p k then State.cross p r s
    else if s.linkTakes k p then State.cross p r (s.linkPush k p)
    else s.setLink k { s.link k with heldP := (s.link k).heldP ++ [p] }

/-- A packet that holds its lanes goes over the links of its route. -/
def State.overLinks (s : State) (p : Pkt) : State := State.cross p (s.route p.srcNode p.dstNode) s

/-- A packet goes on from a link on its route. -/
def State.onFrom (s : State) (k : Nat) (p : Pkt) : State :=
  let r := s.route p.srcNode p.dstNode
  State.cross p (if r.contains k then r.dropWhile (· != k) else r) s

/-- A link on the way of a packet is behind a fence: the packet waits at its source (R275). -/
def State.fencedWay (s : State) (p : Pkt) : Bool := (s.route p.srcNode p.dstNode).any fun k => s.fb.fences.contains k

/-- A packet handed to its board's lane port: it waits there while a fence holds its way, a lane of it takes it not, or an earlier packet of its
channel waits (R22, R275, R276). -/
def State.launch (s : State) (p : Pkt) : State :=
  let behind := s.fb.waiting.any fun q => pktSrc q == pktSrc p && q.vc == p.vc
  if behind || s.fencedWay p || !s.lanesTake p then { s with fb.waiting := s.fb.waiting ++ [p] } else s.overLinks p

/-- Packets of three channels in turn, in the order kept for each. -/
def inTurn : Nat → List Pkt → List Pkt → List Pkt → List Pkt
  | 0, _, _, _ => []
  | n + 1, a, b, c => a.take 1 ++ b.take 1 ++ c.take 1 ++ inTurn n (a.drop 1) (b.drop 1) (c.drop 1)

/-- The order of service of waiting packets: control first, the other channels round-robin from one of them (R267; log entry
106). -/
def serviceOrder (turn : Nat) (ps : List Pkt) : List Pkt :=
  let on := fun (v : Nat) => ps.filter fun p => p.vc == v
  (ps.filter fun p => decide (3 ≤ p.vc)) ++
    inTurn ps.length (on (turn % 3)) (on ((turn + 1) % 3)) (on ((turn + 2) % 3))

/-- Flits of a frame on a virtual channel. -/
def flitsOn (f : List (Nat × List Byte)) (v : Nat) : Nat := (f.filter fun e => e.1 % 4 == v).length

/-- A link end has a place in its retry buffer and the credits for a frame of a failed link (R276, R280). -/
def Link.hasRoom (x : Link) (f : List (Nat × List Byte)) : Bool :=
  decide (x.retry.length < 256) && (List.range 4).all fun v => decide (flitsOn f v ≤ x.credits.getD v 0)

/-- A frame of a failed link put into a retry buffer, with its credits (R276, R281). -/
def Link.takeFrame (x : Link) (f : List (Nat × List Byte)) : Link :=
  { x with txSeq := (x.txSeq + 1) % 4096, retry := x.retry ++ [(x.txSeq, f)], reinject := x.reinject.drop 1,
           credits := x.credits.mapIdx fun v n => n - flitsOn f v, sentN := (x.sentN + f.length) % 2 ^ 32 }

/-- The frames of a failed link go out on the link that takes over, in order, as far as it has room (R281, R291). -/
def State.reinject : Nat → Nat → State → State
  | 0, _, s => s
  | n + 1, k, s =>
    match (s.link k).reinject with
    | [] => s
    | f :: _ =>
      if decide (2 ≤ s.linkState k) && (s.link k).hasRoom f.2 then
        State.reinject n k ((s.putLink k ((s.link k).takeFrame f.2)).bump (linkBase k + 0x1C) f.2.length)
      else s

/-- A link end goes on: frames of a failed link first, then the packets held at it (R267, R276, R281). -/
def State.release (s : State) (k : Nat) : State :=
  let s := State.reinject (s.link k).reinject.length k s
  let x := s.link k
  (serviceOrder x.turn x.heldP).foldl (fun s p => s.onFrom k p) (s.setLink k { x with heldP := [] })

/-- The packets waiting at lane ports tried again, the channel that comes first going round (R267, R276). -/
def State.flow (s : State) : State :=
  (serviceOrder s.fb.turn s.fb.waiting).foldl (fun s p => s.launch p)
    { s with fb.waiting := [], fb.turn := (s.fb.turn + 1) % 3 }

end Sys2Proof.Machine
end

