-- ==== Sys2Proof/Machine/Packets.lean ====
section
/-! DEFINITION. Packets as the fabric carries them: sending (R270, R274, R290),
switch records (R286), stroke sequences (R220), and
accesses to pools and DRAM (R295-R314). -/

namespace Sys2Proof.Machine

/-- No unit answers at a packet's destination (R290): a reserved node, or a disabled or lost die or board. -/
def State.unroutable (s : State) (p : Pkt) : Bool :=
  decide (34 ≤ p.dstNode) ||
  (decide (p.dstNode < 32) && (s.disabled (mapDie p.dstNode) || (s.die p.dstNode).lost || ((!p.mc || p.member.isSome) &&
    (decide (192 ≤ keyBrd (pktDst p)) || s.disabled (mapBoard (pktDst p)) || (s.board (pktDst p)).failed))))

/-- A packet handed to the fabric: its flits counted, once for all copies of a multicast packet, and its way taken; an
unroutable one discarded, counted and its job failed (R274, R290). -/
def State.sendPkt (s : State) (p : Pkt) : State :=
  let p := { p with nflit := cdiv p.payload.length 32, ecc := 0 }
  let p := { p with hcrc := pktCrc p }
  let w := bkBase (pktSrc p)
  let s := if p.srcNode < 32 ∧ (s.inFabric.any (sameCast p)) = false then s.bump (w + 0x46080) (1 + p.nflit) else s
  if s.unroutable p then
    (if p.srcNode < 32 then s.bump (w + 0x46088) 1 else s).jobFault p.job 0x040A
  else s.launch p

/-- A packet as it was sent: lanes correct or mark it on its way (R279). -/
def asSent (p : Pkt) : Pkt := { p with poison := false, ecc := 0 }

/-- A packet that reaches its destination leaves the fabric, the copies held of it are released, the errors corrected on its
lanes count at the board it reaches, and the lanes it held go to packets that wait (R276, R279, R291, R486; log entry 118). -/
def State.arrive (s : State) (p : Pkt) : State :=
  -- a packet for a hub leaves its lanes at the port board of its way
  let at_ := if p.dstNode < 32 then some (pktDst p)
    else if p.srcNode < 32 then (s.route p.srcNode p.dstNode).head?.map fun k => boardKey (4 * ((k - 18) / 4)) (portBoard k)
    else none
  let s := match at_ with
    | some bk => if p.ecc ≠ 0 then s.bump (bkBase bk + 0x46084) p.ecc else s
    | none => s
  let free := fun e : Nat × Link => (e.1, { e.2 with copies := e.2.copies.filter fun c => decide (asSent c.2 ≠ asSent p) })
  ({ s with fb.net := s.fb.net.eraseP (fun e => decide (asSent e = asSent p)), fb.links := s.fb.links.map free } : State).flow

/-- A packet whose header check fails, or that is marked, is not used (R268, R290). -/
def badPkt (p : Pkt) : Bool := p.poison || p.hcrc != pktCrc { p with hcrc := 0 }

/-- The test of R286 under one record. -/
def recordOk (en s : Nat) (drop : Bool) (p : Pkt) : Bool :=
  if p.epoch = en then atOrAfter p.q s
  else if (p.epoch + 1) % 2 ^ 16 = en then !drop && !atOrAfter p.q s
  else false

/-- The switch records a board holds in force, as (index, lsrc, epoch, S, drop) (LAN_SWR). -/
def State.boardRecs (s : State) (bk : Nat) : List (Nat × Nat × Nat × Nat × Bool) :=
  (List.range 64).filterMap fun n =>
    let a := s.reg (bkBase bk + 0x46100 + 16 * n)
    let lo := s.regN (bkBase bk + 0x46104 + 16 * n)
    let hi := fld (s.reg (bkBase bk + 0x46108 + 16 * n)) 0 16
    if bit a 13 then some (n, fld a 0 13, fld a 16 16, lo + hi * 2 ^ 32, bit a 14) else none

/-- epoch_ok of R286 at a board. -/
def State.epochAt (s : State) (bk : Nat) (p : Pkt) : Bool :=
  match (s.boardRecs bk).find? fun r => r.2.1 == p.lsrc with
  | some (_, _, en, sp, drop) => recordOk en sp drop p
  | none => true

/-- epoch_ok of R286 at the packet's destination. -/
def State.epochOk (s : State) (p : Pkt) : Bool :=
  if p.dstNode < 32 then s.epochAt (pktDst p) p
  else
    match s.fb.recs.find? fun r => r.1 == p.dstNode - 32 && r.2.1 == p.lsrc with
    | some (_, _, en, sp, drop) => recordOk en sp drop p
    | none => true

/-- A record written at a board, over one for the same source or in a free place (R286); none where all 64 are
taken. -/
def State.putRec (s : State) (bk lsrc en sp : Nat) (drop : Bool) : Option State :=
  let rs := s.boardRecs bk
  let used := rs.map (·.1)
  let at_ := match rs.find? fun r => r.2.1 == lsrc with
    | some r => some r.1
    | none => (List.range 64).find? fun n => !used.contains n
  match at_ with
  | none => none
  | some n =>
    let a := bkBase bk + 0x46100 + 16 * n
    let s := s.setRegN a (lsrc + 2 ^ 13 + b2n drop * 2 ^ 14 + en % 2 ^ 16 * 2 ^ 16)
    let s := s.setRegN (a + 4) (sp % 2 ^ 32)
    some (s.setRegN (a + 8) (sp / 2 ^ 32 % 2 ^ 16))

/-- The record of a source removed at a board (R286). -/
def State.dropRecAt (s : State) (bk lsrc : Nat) : State :=
  match (s.boardRecs bk).find? fun r => r.2.1 == lsrc with
  | some r =>
    let a := bkBase bk + 0x46100 + 16 * r.1
    ((s.setReg a 0).setReg (a + 4) 0).setReg (a + 8) 0
  | none => s

/-- The epoch a board stamps on its packets (LAN_SERVE). -/
def State.serveEpoch (s : State) (bk : Nat) : Nat := fld (s.breg bk 0x4600C) 16 16

/-- The first step base a board serves (LAN_SERVE). -/
def State.serveBase (s : State) (bk : Nat) : Nat := (s.breg bk 0x46008).toNat + fld (s.breg bk 0x4600C) 0 16 * 2 ^ 32

/-- A packet of a board's step, with its stamps (R269, R285). -/
def State.pktOf (s : State) (bk : Nat) (c : StepCtx) (q type vc : Nat) : Pkt :=
  { type := type, vc := vc, srcNode := keyDie bk, srcBoard := keyBrd bk, lsrc := (s.board bk).lb,
    epoch := s.serveEpoch bk, q := q, job := c.job, step := c.step }

/-- Step starts and inputs go to both boards of an overlapped switch, once every record is acknowledged (R287). -/
def Switch.dual (w : Switch) : Bool := w.overlapped && !w.copied && w.sent && w.acks == 0

/-- The boards of a multicast set of a board's score (R223, R274). -/
def State.members (s : State) (bk mset : Nat) : List Nat :=
  match (s.board bk).score with
  | some slot =>
    let x := s.score slot
    ((x.file.man.msets.getD mset []).filterMap x.boardOf) ++
    -- a board being switched receives what its logical board receives (R287)
    (s.fb.switches.filter fun w => w.slot == slot && w.dual &&
      (x.file.man.msets.getD mset []).contains w.lb).map fun w => w.new
  | none => []

/-- A write to other slates as multicast ACT packets of at most 64 flits, one copy to each member (R223, R274). -/
def State.sendAct (s : State) (bk : Nat) (c : StepCtx) (q mset byte : Nat) (bs : List Byte) : State :=
  let n := cdiv bs.length 2048
  (List.range n).foldl (fun s i =>
    (s.members bk mset).foldl (fun s m =>
      let p := { (s.pktOf bk c q 3 1) with
        mc := true, dstNode := keyDie m, dstBoard := mset, member := some (keyBrd m), addr := byte / 8 + 256 * i, payload := slice bs (2048 * i) 2048 }
      let s := s.sendPkt p
      { s with fb.acks := s.fb.acks ++ [p] }) s) s

/-- The acknowledgement of a packet (R270). -/
def State.ackPacket (s : State) (p : Pkt) : State :=
  let bk := pktDst p
  let c : StepCtx := { job := p.job, step := p.step }
  -- a board's stamps: its logical board, epoch and the step base where it runs the step (R285)
  let own := if p.dstNode < 32 then s.pktOf bk c (s.stepBase bk c) 11 3 else { type := 11, vc := 3, srcNode := p.dstNode }
  s.sendPkt { own with srcBoard := p.member.getD p.dstBoard, dstNode := p.srcNode,
                       dstBoard := p.srcBoard, job := p.job, step := p.step, addr := p.addr, ordinal := p.type }

/-! Pools and DRAM (R295-R314). -/

/-- The address of a pool operand: all its bytes lie in one buffer of the board's score (R264, R298). -/
def State.poolAddr (s : State) (bk hub off n : Nat) : Option Nat :=
  match (s.board bk).score with
  | none => none
  | some slot =>
    let x := s.score slot
    let hit := (x.file.man.bufs.zip x.bufAt).find? fun p =>
      p.1.hub.val == hub && decide (p.2.2 ≤ off ∧ off + n ≤ p.2.2 + p.1.size ∧ off + n ≤ 0x1800000)
    hit.map fun p => p.2.1 + (off - p.2.2)

/-- The home of a pool address in its hub's DRAM, where a buffer's range covers it: one with pool space, else the first without
(R295, R298). -/
def State.memHome (s : State) (a : Nat) : Nat :=
  match regionOf a with
  | .pool h off =>
    let hit := fun (cached : Bool) => s.wk.scores.findSome? fun e =>
      if e.2.st = 0 then none
      else (e.2.file.man.bufs.zip e.2.bufAt).findSome? fun p =>
        if p.1.cached = cached ∧ p.1.hub.val = h ∧ p.2.2 ≤ off ∧ off < p.2.2 + p.1.size then some (p.2.1 + (off - p.2.2)) else none
    ((hit true).orElse fun _ => hit false).getD a
  | _ => a

/-- A byte lies in a pool or in DRAM. -/
def isMem (a : Nat) : Bool := match regionOf a with | .dram _ _ => true | .pool _ _ => true | _ => false

/-- Bytes written to DRAM, block by block: a failed channel serves no access but for a mirror, and a block fully written
is no longer poisoned (R304-R306, R312). -/
def State.memWrite (s : State) (a : Nat) (bs : List Byte) : State :=
  (blocksOf a bs.length).foldl (fun s k =>
    let lo := max a (256 * k)
    let hi := min (a + bs.length) (256 * k + 256)
    if s.blockOut k && !s.mirrored (256 * k) then s
    else
      let s := s.store lo (slice bs (lo - a) (hi - lo))
      if hi - lo = 256 then { s with ms.poison := s.ms.poison.filter (· != k) } else s) s

end Sys2Proof.Machine
end

