-- ==== Sys2Proof/Machine/Memory.lean ====
section
/-! DEFINITION. The memories' own work: the slate scrub (R293), the DRAM patrol scrub and channel failure (R305, R306),
temperature polls and refresh (R302), and mirrors (R312, R313). -/

namespace Sys2Proof.Machine

/-- A corrected error counted (R293, R305). -/
def State.countCorrected (s : State) (k : Nat) : State :=
  { s with ms.corrected := mput 0 s.ms.corrected k (mget 0 s.ms.corrected k + 1) }

/-- SLATE_SCRUB: word wi of a slate read by the scrub (R293). -/
def execSlateScrub (d : Die) (b : Brd) (wi : Fin 16384) (e : EccErr) (s : State) : Host.Outcome State Fault Refusal :=
  if !(s.die d).on then .next s
  else
    match e with
    | .clean => .next s
    | .corrected => .next (s.countCorrected (boardKey d b))
    | .uncorrectable => .next ((s.zeroRange (boardBase d b + 8 * wi.val) 8).log 0x109 [d, b, wi])

/-- The resident images behind a hub are lost (R306, R489). -/
def State.loseImages (s : State) (h : Nat) : State :=
  { s with wk.scores := s.wk.scores.map fun (e : Nat × Score) =>
      (e.1, if e.2.resident && !e.2.imgLost.contains h then { e.2 with imgLost := e.2.imgLost ++ [h] } else e.2) }

/-- A channel failed: it serves no access, Porell reports it, and rings with a copy behind it run unmirrored (R306, R313). -/
def State.failChan (s : State) (h c : Nat) : State :=
  let k := 16 * h + c
  if (s.chan k).failed then s
  else
    let s := ((s.setChan k { s.chan k with failed := true }).log 0x10B [h, c]).loseImages h
    s.ringList.foldl (fun s r =>
      if s.ringCont r && (s.ring r).lone.isNone then s.setRing r { s.ring r with lone := some (1 - h) } else s) s

/-- An observation that counts towards the failure of a channel: two failed retrains within 1 s, more than 16
uncorrectable blocks within 1 h, a block found again counting once (R306). -/
def State.chanEvent (s : State) (h c : Nat) (ev : ChanEv) (blk : Option Nat := none) : State :=
  let k := 16 * h + c
  let x := s.chan k
  match ev with
  | .retrainFailed =>
    let l := x.trains.filter (fun t => decide (s.now < t + 1000000000)) ++ [s.now]
    let s := s.setChan k { x with trains := l }
    if 2 ≤ l.length then s.failChan h c else s
  | .uncorrectable =>
    let l := x.bad.filter (fun t => decide (s.now < t.1 + 3600000000000) && (blk.isNone || t.2 != blk)) ++ [(s.now, blk)]
    let s := s.setChan k { x with bad := l }
    if 16 < l.length then s.failChan h c else s

/-- A block found uncorrectable: read from its mirror and rewritten where one stands, else marked poisoned (R305); one already
marked is no further block (R306). -/
def State.uncorrectable (s : State) (k : Nat) : State :=
  if s.ms.poison.contains k then s
  else
    let s := if s.mirrored (256 * k) then s else { s with ms.poison := s.ms.poison ++ [k] }.log 0x10A [k]
    s.chanEvent (chanOf (256 * k) / 16) (chanOf (256 * k) % 16) .uncorrectable (some k)

/-- DRAM_PATROL_SCRUB: usable block blk of a hub read by the scrub (R305, R306). -/
def execDramPatrolScrub (h : Hub) (blk : Nat) (e : EccErr) (s : State) : Host.Outcome State Fault Refusal :=
  let k := h.val * 0x10000000 + blk
  let c := chanOf (256 * k)
  if 0xF800000 ≤ blk ∨ (s.chan c).failed then .next s
  else
    match e with
    | .clean => .next s
    | .corrected => .next (s.countCorrected (8192 + c))
    | .uncorrectable => .next (s.uncorrectable k)

/-- DRAM_MR4_POLL: a package's rate field taken, and whether its temperature lies beyond its range (R302). -/
def execDramMr4Poll (k : Fin 8) (rate : Fin 32) (beyond : Bool) (s : State) : Host.Outcome State Fault Refusal :=
  .next { s with ms.mr4 := mput (0, false) s.ms.mr4 k (rate, beyond) }

/-- DRAM_REFRESH: refresh and refresh management change timing only (R302). -/
def execDramRefresh (_h : Hub) (_c : Fin 16) (s : State) : Host.Outcome State Fault Refusal := .next s

/-- DRAM_CHANNEL_FAIL: a failed retrain or an uncorrectable block counted (R306). -/
def execDramChannelFail (h : Hub) (c : Fin 16) (ev : ChanEv) (s : State) : Host.Outcome State Fault Refusal :=
  .next (s.chanEvent h c ev)

/-- The jobs of a ring that are running have run steps unmirrored: their completions will show it (R313, R341). -/
def State.ranUnmirrored (s : State) (g : Nat) : State :=
  (s.runningOf g).foldl (fun s j => s.modJob j fun x => { x with placeChanged := true }) s

/-- MIRROR_RESYNC_DONE: once the returning hub and its channels serve and every block is copied back, the ring runs
mirrored again (R313). -/
def execMirrorResyncDone (g : Fin 4096) (s : State) : Host.Outcome State Fault Refusal :=
  match (s.ring g).lone with
  | none => .next s
  | some h =>
    if s.sv.alive.getD (1 - h) false ∧ !s.chanFailed (1 - h) ∧ !s.chanFailed h then
      .next ((s.ranUnmirrored g).setRing g { s.ring g with lone := none })
    else .next s

end Sys2Proof.Machine
end

