-- ==== Sys2Proof/Machine/Metrology.lean ====
section
/-! DEFINITION. The metrology units (R403-R429) and the METRO command family (R368, R414). -/

namespace Sys2Proof.Machine

/-- Channels of a unit that are not reserved (R404, R405). -/
def chanOk (u ch : Nat) : Bool :=
  if u < 32 then decide (ch < 36) else decide (ch < 17 ∨ ch = 34 ∨ ch = 35)

/-- A temperature-sensor channel (R404, R405). -/
def isSensor (u ch : Nat) : Bool := if u < 32 then decide (ch < 24) else decide (ch < 8)

/-- The conversion time of a filter code, in rk (R407). -/
def convTime (f : Nat) : Nat :=
  [10000000, 4000000, 2000000, 1000000, 400000, 200000, 100000, 40000, 20000].getD f 0

def filterOk (f : Nat) : Bool := decide (f < 9)

/-- MET_SEQn_k. -/
def seqReg (u n k : Nat) : Nat := metBase u + 0x200 + 0x80 * n + 4 * k

/-- The fields of a sequencer entry (R411, R429). -/
structure SeqEntry where
  ch : Nat
  rep : Nat
  delay : Nat
  filter : Nat
  trig : Bool
  wset : Nat
deriving DecidableEq, Repr

def seqEntry (w : Word) : SeqEntry := ⟨fld w 0 6, fld w 6 8, fld w 14 9, fld w 23 4, bit w 27, fld w 28 3⟩

def State.entry (s : State) (u n k : Nat) : SeqEntry := seqEntry (s.reg (seqReg u n k))

def State.conv (s : State) (u n : Nat) : Conv := (s.met u).conv.getD n {}

def State.setConv (s : State) (u n : Nat) (c : Conv) : State :=
  s.setMet u { s.met u with conv := (s.met u).conv.set n c }

/-- The next entry from position k on with a non-zero repeat count (R412). -/
def State.nextEntry (s : State) (u n k : Nat) : Option Nat :=
  ((List.range 32).map fun i => (k + i) % 32).find? fun j => (s.entry u n j).rep != 0

/-- A converter set to wait out the delay of the next entry from k on, or powered down where the table is empty
(R412, R423). -/
def State.toEntry (s : State) (u n k : Nat) : State :=
  let c := s.conv u n
  match s.nextEntry u n k with
  | none => s.setConv u n { c with ph := .off, entry := k % 32, done := 0, powered := false }
  | some j =>
    let d := (s.entry u n j).delay * 25000
    s.setConv u n { c with ph := .delay (s.now + d), entry := j, pass := s.reg (seqReg u n j), done := 0,
                           powered := decide (d < 50000) }

/-- The trigger's target, and its firing source (R415, R416). -/
def State.trigTarget (s : State) (u : Nat) : Nat := s.regN (metBase u + 0x60) + s.regN (metBase u + 0x64) * 2 ^ 32
def State.trigSrc (s : State) (u : Nat) : Nat := fld (s.reg (metBase u + 0x6C)) 0 2

def State.setTarget (s : State) (u t : Nat) : State :=
  ((s.setRegN (metBase u + 0x60) t).setRegN (metBase u + 0x64) (t / 2 ^ 32)).setMet u { s.met u with spent := false }

/-- MET_WIN registers. -/
def winLo (u w : Nat) : Nat := metBase u + 0x400 + 8 * w
def winHi (u w : Nat) : Nat := metBase u + 0x404 + 8 * w

/-- What a result does to one window: departed, and the new outside state (R420). -/
def State.windowOf (s : State) (u w ch : Nat) (data : Int) (ovr : Option Bool) : Option (Bool × Bool) :=
  let lo := s.reg (winLo u w)
  let hi := s.reg (winHi u w)
  let l := sfld lo 0 24
  let h := sfld hi 0 24
  let y : Int := (256 * fld hi 24 8 : Nat)
  if !bit lo 30 ∨ fld lo 24 6 ≠ ch ∨ h < l then none
  else
    let was := bit (s.reg (metBase u + 0x9C)) w
    let out := ovr.isSome || decide (data < l ∨ h < data)
    let back := ovr.isNone && decide (l + y ≤ data ∧ data ≤ h - y)
    some (out && !was, if was then !back else out)

/-- A result compared with the windows of its set (R420): whether it left a band. -/
def State.windows (s : State) (u ch wset : Nat) (data : Int) (ovr : Option Bool) : State × Bool :=
  if wset < 1 ∨ 4 < wset then (s, false)
  else
    ((List.range 4).map fun i => 4 * (wset - 1) + i).foldl (fun (p : State × Bool) w =>
      let (s, win) := p
      match s.windowOf u w ch data ovr with
      | none => (s, win)
      | some (dep, out) =>
        let a := metBase u + 0x9C
        let s := s.setReg a (putBit (s.reg a) w out)
        if dep then
          let b := metBase u + 0x98
          let s := (s.setReg b (putBit (s.reg b) w true)).bump (metBase u + 0x94) 1
          ((if 8 ≤ w then s.log 0x200 [u, w] else s), true)
        else (s, win)) (s, false)

/-- The corrected code of a raw result (R409). -/
def State.correct (s : State) (u n ch : Nat) (raw : Int) : Int :=
  let r := fun k => sfld (s.reg (metBase u + 0x20 + 16 * n + 4 * k)) 0 24
  let a := raw - r 0
  let b := rneShift (a * (16777216 + r 1)) 24
  let c := rneShift (b * (16777216 + r 3)) 24 + r 2
  let c := if isSensor u ch then c + 16 * sfld (s.reg (metBase u + 0xC0 + 4 * ch)) 0 16 else c
  -- the die's calibration-current scale (R547)
  let c := if u < 32 ∧ ch = 33 then rneShift (c * (16777216 + signed 32 (s.calN (4672 + 4 * u) 4))) 24 else c
  clampI (-8388607) 8388607 c

/-- The hold-up energy in mJ from hub channel 14's code, in 5 µV steps, rounded to nearest even (R10, R452). -/
def holdup (c : Int) : Nat := (rneDiv (75 * c * c) 1000000000000 - 192).toNat

/-- The exact energy reaches 120 mJ, 1.5 page writes (R452). -/
def holdupEnough (c : Int) : Bool := decide (312 * 1000000000000 ≤ 75 * c * c)

/-- A result stored: queue word, latest-result registers, windows and counters (R418-R420, R452). -/
def State.result (s : State) (u n ch wset : Nat) (urg late : Bool) (data : Int) (ovr : Option Bool) (start : Nat) :
    State :=
  let b := metBase u
  let m := s.met u
  let seq := m.seq % 256
  let (s, win) := s.windows u ch wset data ovr
  let m := { s.met u with seq := (m.seq + 1) % 256 }
  let w := pattern 24 data + ch * 2 ^ 24 + n * 2 ^ 30 + b2n ovr.isSome * 2 ^ 32 + b2n urg * 2 ^ 33 + b2n late * 2 ^ 34 +
    b2n win * 2 ^ 35 + seq * 2 ^ 36 + (start / 256 % 2 ^ 20) * 2 ^ 44
  let s := if m.queue.length < 512 then s.setMet u { m with queue := m.queue ++ [w] } else (s.setMet u m).bump (b + 0x84) 1
  let s := s.setRegN (b + 0x800 + 8 * ch) (pattern 24 data + b2n ovr.isSome * 2 ^ 24)
  let s := s.setRegN (b + 0x804 + 8 * ch) (seq + (start / 256 % 2 ^ 20) * 2 ^ 8)
  let s := s.bump (b + 0x80) 1
  let s := if ovr.isSome then s.bump (b + 0x88) 1 else s
  let s := if urg then s.setRegN (b + 0xA4 + 8 * n) (pattern 24 data + b2n ovr.isSome * 2 ^ 24 + 2 ^ 25) else s
  if u = 32 ∧ ch = 14 then
    let e := holdup data
    s.setBoth 0x80010 (word (hold 0xFFFF e + if holdupEnough data then 65536 else 0))
  else s

/-- A conversion begins after the 4 µs settling; a probe selection takes effect with one of channel 32 (R412, R427). -/
def State.beginConv (s : State) (u n ch settle : Nat) (late : Bool) : State :=
  let s := s.setConv u n { s.conv u n with ph := .converting (s.ck.rk + settle), powered := true, late := late }
  if ch = 32 then s.setLive (metBase u + 0x78) (s.reg (metBase u + 0x78)) else s

/-- The unit runs no sequence: off, or self-calibrating (R424, R428). -/
def State.metIdle (s : State) (u : Nat) : Bool := !(s.met u).on || (s.met u).selfcal.isSome

/-- The converter stays powered after a conversion: its next selection, or the count it is armed for, lies less than 50 µs
away, or it cannot know it (R423). -/
def State.staysOn (s : State) (u n : Nat) : Bool :=
  match (s.conv u n).ph with
  | .delay t => decide (t < s.now + 50000)
  | .armed => s.trigSrc u != 1 || decide (s.trigTarget u < s.ck.rk + 50000)
  | .converting _ => true
  | .stopped | .off | .failed => false

def State.restConv (s : State) (u n : Nat) : State := s.setConv u n { s.conv u n with powered := s.staysOn u n }

/-- A conversion ends: an urgent one first, else the entry's, under the contents its pass began with; in Off, converter 0 of
hub A samples its supplies in turn (R407, R412, R413, R418, R421, R428). -/
def execMetConversionEnd (u : Unit34) (n : Fin 4) (raw : Fin 16777216) (ovr : Option Bool) (s : State) :
    Host.Outcome State Fault Refusal :=
  let c := s.conv u n
  let r := signed 24 raw
  if s.pstate = 0 then
    if u.val = 32 ∧ n.val = 0 then
      let ch := [12, 14, 16].getD (c.done % 3) 12
      let s := s.setConv u n { c with done := (c.done + 1) % 3 }
      .next (s.result u n ch 0 false false (s.correct u n ch r) ovr (s.ck.rk - convTime 0))
    else .next s
  else if s.metIdle u then .next s
  else
    match c.urg with
    | some (ch, f, ws, start) =>
      if s.ck.rk < start + convTime f then .next s
      else
        let s := s.result u n ch ws true false (s.correct u n ch r) ovr start
        let s := s.setConv u n { c with urg := none }
        match c.ph with
        | .converting _ => .next (s.beginConv u n (seqEntry c.pass).ch 4000 c.late)
        | .armed =>
          if c.missed then
            let s := s.setConv u n { s.conv u n with missed := false }
            .next (s.beginConv u n (seqEntry c.pass).ch 4000 true)
          else .next (s.restConv u n)
        | _ => .next (s.restConv u n)
    | none =>
      match c.ph with
      | .converting start =>
        let e := seqEntry c.pass
        if s.ck.rk < start + convTime e.filter then .next s
        else
          let s := s.result u n e.ch e.wset false c.late (s.correct u n e.ch r) ovr start
          let c := { c with done := c.done + 1, late := false }
          if c.stopping then
            .next (s.setConv u n { c with ph := .stopped, stopping := false, powered := false,
                                              entry := (c.entry + 1) % 32, done := 0 })
          else if c.done < e.rep then .next ((s.setConv u n c).beginConv u n e.ch 0 false)
          else .next ((s.setConv u n c).toEntry u n (c.entry + 1))
      | _ => .next s

/-- An entry's delay ends: the channel is selected, and the converter arms or converts (R412, R415, R417). -/
def execMetEntryDelayEnd (u : Unit34) (n : Fin 4) (s : State) : Host.Outcome State Fault Refusal :=
  let c := s.conv u n
  match c.ph with
  | .delay t =>
    if s.metIdle u ∨ s.now < t ∨ c.urg.isSome then .next s
    else
      let e := seqEntry c.pass
      let src := s.trigSrc u
      if !e.trig then .next (s.beginConv u n e.ch 4000 false)
      -- it arms after the settling, and may find the target passed by then
      else if src = 0 ∨ (s.met u).spent ∨ s.trigTarget u ≤ s.ck.rk + 4000 then .next (s.beginConv u n e.ch 4000 true)
      else .next ((s.setConv u n { c with ph := .armed }).restConv u n)
  | _ => .next s

/-- The trigger fires at its target: armed converters begin; its target advances or is spent (R415, R417). -/
def execMetTrigger (u : Unit34) (s : State) : Host.Outcome State Fault Refusal :=
  let t := s.trigTarget u
  if !(s.met u).on ∨ s.trigSrc u = 0 ∨ (s.met u).spent ∨ s.ck.rk < t then .next s
  else
    let s := (List.range 4).foldl (fun s n =>
      let c := s.conv u n
      if c.ph = .armed then
        (if c.urg.isSome then s.setConv u n { c with missed := true }
         else s.beginConv u n (seqEntry c.pass).ch 0 false)
      else s) s
    let per := s.regN (metBase u + 0x68)
    .next (if per = 0 then s.setMet u { s.met u with spent := true } else s.setTarget u (t + per))

/-- A SYNC_IN edge or a fire write: every unit of that source takes the count plus 10,000 as its target (R416). -/
def execMetExternalEvent (fire : Bool) (s : State) : Host.Outcome State Fault Refusal :=
  let src := if fire then 3 else 2
  .next ((List.range 34).foldl (fun s u => if s.trigSrc u = src then s.setTarget u (s.ck.rk + 10000) else s) s)

/-- An urgent request (R421, R422); reserved channels and filters are ignored (R406). -/
def execMetUrgentRequest (u : Unit34) (n : Fin 4) (w : Word) (s : State) : Host.Outcome State Fault Refusal :=
  let ch := fld w 0 6
  let f := fld w 6 4
  let c := s.conv u n
  let b := metBase u
  if !(s.met u).on ∨ !chanOk u ch ∨ !filterOk f then .next s
  else if c.urg.isSome ∨ (s.met u).selfcal.isSome then .next (s.bump (b + 0x90) 1)
  else
    let start := s.ck.rk + 4000 + if c.powered then 0 else 20000
    let s := s.setConv u n { c with urg := some (ch, f, fld w 10 3, start), powered := true }
    let s := s.setReg (b + 0xA4 + 8 * n) (putBit (s.reg (b + 0xA4 + 8 * n)) 25 false)
    let s := if ch = 32 then s.setLive (b + 0x78) (s.reg (b + 0x78)) else s
    .next (s.bump (b + 0x8C) 1)

/-- Self-calibration begun in a unit: results in progress are discarded (R424). -/
def State.startSelfcal (s : State) (u : Nat) : State :=
  let m := s.met u
  if !m.on ∨ m.selfcal.isSome then s
  else s.setMet u { m with selfcal := some s.now, conv := m.conv.map fun c => { c with urg := none, missed := false } }

/-- MET_CMD.selfcal (R424). -/
def execMetCmdSelfcal (u : Unit34) (s : State) : Host.Outcome State Fault Refusal := .next (s.startSelfcal u)

/-- The bandgap value of a converter in the calibration set (R547). -/
def State.bandgap (s : State) (u n : Nat) : Int := signed 32 (leAt (s.pages 24 416) (3040 + 48 * u + 12 * n + 8) 4)

/-- The factors of a converter from its mean ground and bandgap codes: none where it fails (R424, R425). -/
def calFactors (ground bandgap value : Int) : Option (Int × Int) :=
  let d := bandgap - ground
  if 65536 < ground.natAbs ∨ d ≤ 0 then none
  else
    let g := rneDiv (value * 16777216) d.toNat - 16777216
    if 262144 < g.natAbs then none else some (ground, g)

/-- The sensors of a unit count as sampled now: their intervals begin (R443). -/
def State.freshSensors (s : State) (u : Nat) : State :=
  (List.range (sensorsOf u)).foldl (fun s k => s.setSensor (24 * u + k) { s.sensor (24 * u + k) with at_ := s.now }) s

/-- The entries 0-15 of a failed converter go to a working one of the unit, whose pass grows longer by them (R425; log entry
24). -/
def State.moveEntries (s : State) (u n : Nat) : State :=
  let mine := (List.range 16).filter fun k => (s.entry u n k).rep != 0
  let room := fun m => (List.range 16).filter fun k => (s.entry u m k).rep == 0
  match (List.range 4).find? fun m => m != n && (s.conv u m).ph != .failed && decide (mine.length ≤ (room m).length) with
  | none => s
  | some m =>
    let s := (mine.zip (room m)).foldl (fun s p =>
      (s.setReg (seqReg u m p.2) (put (s.reg (seqReg u n p.1)) 14 9 0)).setReg (seqReg u n p.1) 0) s
    if (s.conv u m).ph = .off ∧ bit (s.reg (metBase u)) m then s.toEntry u m (s.conv u m).entry else s

/-- A sequence resumes where it stopped, its delay applied afresh and the repeats already completed kept (R424; log entry
112). -/
def State.resumeEntry (s : State) (u n : Nat) : State :=
  let c := s.conv u n
  let s := s.toEntry u n c.entry
  match c.ph with
  | .converting _ => if (s.conv u n).entry = c.entry then s.setConv u n { s.conv u n with done := c.done } else s
  | _ => s

/-- Self-calibration ends after 42 ms: factors set or the converter failed, and sequences resume with delays afresh
(R424, R425). -/
def execMetSelfcalDone (u : Unit34) (meas : List (Int × Int)) (s : State) : Host.Outcome State Fault Refusal :=
  match (s.met u).selfcal with
  | none => .next s
  | some t =>
    if s.now < t + 42000000 then .next s
    else
      let b := metBase u
      let s := (s.setMet u { s.met u with selfcal := none, calValid := true }).freshSensors u
      let s := (List.range 4).foldl (fun s n =>
        let (g, v) := meas.getD n (0, 0)
        match calFactors g v (s.bandgap u n) with
        | none => s.setConv u n { s.conv u n with ph := .failed }
        | some (o, f) =>
          let s := (s.setRegN (b + 0x20 + 16 * n) (pattern 24 o)).setRegN (b + 0x24 + 16 * n) (pattern 24 f)
          if bit (s.reg b) n then s.resumeEntry u n else s.setConv u n { s.conv u n with ph := .stopped }) s
      let s := (List.range 4).foldl (fun s n => if (s.conv u n).ph = .failed then s.moveEntries u n else s) s
      .next ((s.hl.pend.filter fun p => p.op == 0x0803 && p.key == u.val).foldl (fun s p =>
        (s.unpend p.req p.op).finish p.req 0 []) s)

/-- MET_CMD.flush (R419). -/
def execMetCmdFlush (u : Unit34) (s : State) : Host.Outcome State Fault Refusal :=
  .next (s.setMet u { s.met u with queue := [] })

/-- MET_Q_LO: the oldest word removed, its high half latched in MET_Q_HI; 0 when empty (R419). -/
def execMetQRead (u : Unit34) (s : State) : Host.Outcome State Fault Refusal :=
  match (s.met u).queue with
  | [] => .next { s with rdata := 0 }
  | w :: q =>
    let s := s.setMet u { s.met u with queue := q }
    .next { s.setRegN (metBase u + 0x74) (w / 2 ^ 32) with rdata := word w }

/-- MET_CTL: converters start their tables or stop after the running conversion (R412). -/
def execMetCtlWrite (u : Unit34) (w : Word) (s : State) : Host.Outcome State Fault Refusal :=
  let old := s.reg (metBase u)
  let s := s.setReg (metBase u) (w &&& 0xF)
  if !(s.met u).on then .next s
  else
    .next ((List.range 4).foldl (fun s n =>
      let c := s.conv u n
      if bit w n && !bit old n then
        (match c.ph with
         | .stopped | .off => (s.setConv u n { c with stopping := false }).toEntry u n c.entry
         | .failed => s
         | _ => s.setConv u n { c with stopping := false })
      else if !bit w n && bit old n then
        (match c.ph with
         | .converting _ => s.setConv u n { c with stopping := true }
         | .failed => s
         | _ => s.setConv u n { c with ph := .stopped, powered := c.urg.isSome })
      else s) s)

/-- A powered-down converter wakes 20 µs before its next selection, or before the count it is armed for (R423). -/
def execMetConverterWake (u : Unit34) (n : Fin 4) (s : State) : Host.Outcome State Fault Refusal :=
  let c := s.conv u n
  match c.ph with
  | .delay t => .next (if (s.met u).on ∧ t ≤ s.now + 20000 then s.setConv u n { c with powered := true } else s)
  | .armed => .next (if (s.met u).on ∧ s.trigTarget u ≤ s.ck.rk + 20000 then s.setConv u n { c with powered := true } else s)
  | _ => .next s

/-- MET_PROBE: in effect at the next conversion of channel 32; en reads 0 in a hub's unit (R427). -/
def execMetProbeWrite (u : Unit34) (w : Word) (s : State) : Host.Outcome State Fault Refusal :=
  let w := w &&& 0xFFFFFF
  .next (s.setReg (metBase u + 0x78) (if u.val < 32 then w else putBit w 23 false))

/-- MET_ISRC: ignored while the source is held, and where the unit has none (R426). -/
def execMetIsrcWrite (u : Unit34) (w : Word) (s : State) : Host.Outcome State Fault Refusal :=
  if 32 ≤ u.val ∨ bit (s.reg (metBase u + 8)) 20 ∨ 800 < fld w 0 10 ∨ fld w 11 2 = 3 then .next s
  else .next (s.setReg (metBase u + 0x7C) (w &&& 0x7FFFFFF))

/-- MET_WIN_STAT: a write of 1 clears a departure bit (R420). -/
def execMetWinStatClear (u : Unit34) (w : Word) (s : State) : Host.Outcome State Fault Refusal :=
  .next (s.setReg (metBase u + 0x98) (s.reg (metBase u + 0x98) &&& ~~~ w))

/-- Porell's entries 0-15 and their run bits: sensors on converters 0-2 of an array die at an interval (R414, R442); a
hub's supplies on converter 0 and sensors on converter 1 (log entry 24). -/
def State.porellTable (s : State) (u interval : Nat) : State :=
  let f := if interval = 0 then 6 else 8
  let gap := [366, 32, 2].getD interval 366
  let ent := fun ch d => word (ch + 64 + d * 2 ^ 14 + f * 2 ^ 23)
  if u < 32 then
    (List.range 24).foldl (fun s i => s.setReg (seqReg u (i / 8) (i % 8)) (ent i (if i % 8 = 0 then gap else 0))) s
  else
    let s := (List.range 5).foldl (fun s i => s.setReg (seqReg u 0 i) (ent (12 + i) (if i = 0 then gap else 0))) s
    (List.range 8).foldl (fun s i => s.setReg (seqReg u 1 i) (ent i (if i = 0 then gap else 0))) s

/-- A unit powered up: factors from the calibration set, entries 0-15, and its first self-calibration begun
(R428). -/
def State.metStart (s : State) (u : Nat) : State :=
  let set := s.pages 24 416
  let s := s.setMet u { on := true }
  let s := (List.range 4).foldl (fun s n =>
    let o := 3040 + 48 * u + 12 * n
    (s.setRegN (metBase u + 0x28 + 16 * n) (leAt set o 4 % 2 ^ 24)).setRegN (metBase u + 0x2C + 16 * n)
      (leAt set (o + 4) 4 % 2 ^ 24)) s
  let s := (List.range (if u < 32 then 24 else 8)).foldl (fun s k =>
    let i := if u < 32 then 24 * u + k else 768 + 8 * (u - 32) + k
    s.setRegN (metBase u + 0xC0 + 4 * k) (leAt set (1472 + 2 * i) 2)) s
  ((s.porellTable u 0).setReg (metBase u) 0xF).startSelfcal u

/-! METRO. -/

/-- MET_READ (R419). -/
def execMetRead (r : Req) (s : State) : Host.Outcome State Fault Refusal :=
  .next (s.command ⟨0x0800, 1, true, false, false, false, 2, false, false⟩ r fun s =>
    let u := argw r 1
    if s.noUnit u then .refuse 0x010A
    else if 64 ≤ argw r 2 then .refuse 0x0104
    else
      let a := s.reg (metBase u + 0x800 + 8 * argw r 2)
      .ok [iword (sfld a 0 24), word (fld a 24 1), word (fld (s.reg (metBase u + 0x804 + 8 * argw r 2)) 0 8)] s)

/-- The time of an entry's pass in rk (R407, R412, R414). -/
def entryTime (w : Word) : Nat :=
  if fld w 6 8 = 0 then 0 else fld w 14 9 * 25000 + 4000 + fld w 6 8 * convTime (fld w 23 4)

/-- An entry written: a converter at rest for want of entries continues (R412, R413). -/
def State.writeEntry (s : State) (u n k : Nat) (w : Word) : State :=
  let s := s.setReg (seqReg u n k) (w &&& 0x7FFFFFFF)
  let c := s.conv u n
  if c.ph = .off ∧ bit (s.reg (metBase u)) n ∧ !s.metIdle u then s.toEntry u n c.entry else s

/-- MET_SEQ: an installer's entry (R406, R414). -/
def execMetSeq (r : Req) (s : State) : Host.Outcome State Fault Refusal :=
  .next (s.command ⟨0x0801, 2, false, false, true, true, 4, false, bit (word (argw r 4)) 31⟩ r fun s =>
    let u := argw r 1
    let w := word (argw r 4)
    if s.noUnit u then .refuse 0x010A
    else if 4 ≤ argw r 2 ∨ argw r 3 < 16 ∨ 32 ≤ argw r 3 ∨ !chanOk u (fld w 0 6) ∨ !filterOk (fld w 23 4) ∨
        4 < fld w 28 3 ∨ (argw r 2 < 3 ∧ 50000 < entryTime w) then .refuse 0x0104
    else .ok [] (s.writeEntry u (argw r 2) (argw r 3) w))

/-- MET_WIN: an installer's window (R406, R414, R420). -/
def execMetWin (r : Req) (s : State) : Host.Outcome State Fault Refusal :=
  .next (s.command ⟨0x0802, 2, false, false, true, true, 5, false, false⟩ r fun s =>
    let u := argw r 1
    let w := argw r 2
    if s.noUnit u then .refuse 0x010A
    else if w < 8 ∨ 16 ≤ w ∨ !chanOk u (argw r 3) then .refuse 0x0104
    else .ok [] ((s.setRegN (winLo u w) (argw r 4 % 2 ^ 24 + argw r 3 * 2 ^ 24 + 2 ^ 30)).setRegN (winHi u w) (argw r 5)))

/-- A sensor of the unit's die reads above 85 °C (R424). -/
def State.hotUnit (s : State) (u : Nat) : Bool :=
  (s.readings u).any fun t => decide (85 * 16 < t)

/-- MET_SELFCAL: replies when the 42 ms are over (R424). -/
def execMetSelfcal (r : Req) (s : State) : Host.Outcome State Fault Refusal :=
  .next (s.command ⟨0x0803, 2, false, false, false, true, 1, false, false⟩ r fun s =>
    let u := argw r 1
    if s.noUnit u then .refuse 0x010A
    else if s.hotUnit u ∨ !(s.met u).on then .refuse 0x0407
    else .pend u (s.startSelfcal u))

/-- MET_DUMP: queue entries removed and sent as DATA (R419). -/
def execMetDump (r : Req) (s : State) : Host.Outcome State Fault Refusal :=
  .next (s.command ⟨0x0804, 1, false, false, false, false, 3, false, false⟩ r fun s =>
    let u := argw r 1
    let n := argw r 3
    if s.noUnit u then .refuse 0x010A
    else if n < 1 ∨ 512 < n then .refuse 0x0104
    else
      let q := (s.met u).queue.take n
      let c := s.sink (argw r 2) (8 * q.length)
      if c ≠ 0 then .refuse c
      else
        let s := s.setMet u { s.met u with queue := (s.met u).queue.drop n }
        .ok [] (s.bulk r.src (argw r 2) (q.flatMap (leBytes 8))))

end Sys2Proof.Machine
end

