-- ==== Sys2Proof/Machine/Flags.lean ====
section
/-! DEFINITION. Tags, events and exponents: tally additions under their Eref tags (R214, R215, R221), the exponents streams
choose and the histories they keep (R192-R202), conversions written through a stream (R187, R223, R551), and what the
end of an instruction and of a step does (R197, R212, R284). -/

namespace Sys2Proof.Machine

/-! The tally. -/

/-- A contribution added to one slot: the board and the fault it raises, 0 none (R214, R215, R221). -/
def addSlot (x : Board) (t : Nat) (e v : Int) : Board × Nat :=
  match mget none x.tags t with
  | some e' =>
    if e ≠ e' then (x, 4)
    else
      let n := mget 0 x.tally t + v
      if n < -(2 ^ 39) ∨ 2 ^ 39 - 1 < n then (x, 3) else ({ x with tally := mput 0 x.tally t n }, 0)
  | none =>
    let x := { x with tags := mput none x.tags t (some e) }
    let n := mget 0 x.tally t + v
    if n < -(2 ^ 39) ∨ 2 ^ 39 - 1 < n then (x, 3) else ({ x with tally := mput 0 x.tally t n }, 0)

/-- Contributions added from a slot on; the faults raised as (slot, code). A contribution without an Eref adds nothing. -/
def addSlots (x : Board) : Nat → List (Option Int × Int) → Board × List (Nat × Nat)
  | _, [] => (x, [])
  | t, (none, _) :: r => addSlots x (t + 1) r
  | t, (some e, v) :: r =>
    let (x, f) := addSlot x t e v
    let (x, fs) := addSlots x (t + 1) r
    (x, if f = 0 then fs else (t, f) :: fs)

/-- A part or carry added to the tally of a board (R214, R219): TLY_CNT_ADD, and the faults. -/
def State.tallyAdd (s : State) (bk slot : Nat) (vs : List (Option Int × Int)) (pc job : Nat) : State :=
  let (x, fs) := addSlots (s.board bk) slot vs
  let s := (s.setBoard bk x).bump (bkBase bk + 0x40204) 1
  fs.foldl (fun s f => (s.setRegN (bkBase bk + 0x40200) f.1).boardFault bk f.2 pc job) s

/-! Streams. -/

/-- A floating-point format holds every value of another, its infinities with them (R167). -/
def holdsAll (src dst : Fmt) : Bool :=
  match src, dst with
  | .fp32, .fp32 | .bf16, .bf16 | .bf16, .fp32 | .fp16, .fp16 | .fp16, .fp32 | .e5m2, .e5m2 | .e5m2, .fp16
  | .e5m2, .bf16 | .e5m2, .fp32 => true
  | _, _ => false

/-- Stream n of a board: granularity, kind, dynamic. -/
def State.strW (s : State) (bk n : Nat) : Word := s.liveReg (strCfg bk n)
def State.strGran (s : State) (bk n : Nat) : Nat := fld (s.strW bk n) 23 3
def State.strWhole (s : State) (bk n : Nat) : Bool := decide (4 ≤ s.strGran bk n)
def State.strDyn (s : State) (bk n : Nat) : Bool := bit (s.strW bk n) 27
def State.strSlot0 (s : State) (bk n : Nat) : Nat := fld (s.strW bk n) 0 11
def State.strN (s : State) (bk n : Nat) : Nat := fld (s.strW bk n) 11 12
def State.strF (s : State) (bk n : Nat) : Fmt := (s.strFmt bk n).getD .fp32

/-- SCL_EXP of a slot. -/
def sclReg (bk j : Nat) : Nat := bkBase bk + 0x44000 + 4 * (j / 2)
/-- The weight exponent ew of a slot (R186). -/
def State.sclW (s : State) (bk j : Nat) : Int := sfld (s.liveReg (sclReg bk j)) (16 * (j % 2)) 6
/-- The output exponent eo of a slot (R187). -/
def State.sclOut (s : State) (bk j : Nat) : Int := sfld (s.liveReg (sclReg bk j)) (16 * (j % 2) + 8) 6

/-- The board writes an output exponent (R197, R207). -/
def State.setSclOut (s : State) (bk j : Nat) (e : Int) : State :=
  let a := sclReg bk j
  let f := fun w => put w (16 * (j % 2) + 8) 6 (expByte e)
  (s.setLive a (f (s.liveReg a))).setReg a (f (s.reg a))

/-- The group of a position of a stream (R192). -/
def State.strGroup (s : State) (bk n pos : Nat) : Nat :=
  let g := granSize (s.strGran bk n)
  if s.strWhole bk n ∨ g = 0 then 0 else min (pos / g) (s.ngroups bk n - 1)

/-- The exponent a group's record gives the step (R197). -/
def chooseExp (f : Fmt) (h margin : Nat) (r : List Byte) : Int :=
  match (r.take h).filterMap fun b => if b.toNat / 128 = 1 then none else some (expOf b.toNat) with
  | [] => expOf (r.getD 16 0).toNat
  | e :: es =>
    let eo := min 31 (es.foldl max e + margin)
    if f.isDrive then max (-31) eo else eo

def isStep (n ctx job step : Nat) (x : StreamStep) : Bool :=
  x.n == n && x.ctx == ctx && x.job == job && x.step == step

/-- The stream counts each step boundary, and not each job, as a step (R194). -/
def State.strToken (s : State) (bk n : Nat) : Bool := bit (s.strW bk n) 26

/-- The step of a stream that a step of a job belongs to: the job itself has one number (R194). -/
def State.strKey (s : State) (bk n : Nat) (c : StepCtx) : Nat := if s.strToken bk n then c.step else 0

/-- A step of a stream under way on a board. -/
def State.strStep (s : State) (bk n : Nat) (c : StepCtx) : Option StreamStep :=
  (s.board bk).strm.find? (isStep n c.ctx c.job (s.strKey bk n c))

/-- The step as it stands, replaced or added. -/
def State.putStrm (s : State) (bk : Nat) (x : StreamStep) : State :=
  let b := s.board bk
  let l := b.strm
  let same := isStep x.n x.ctx x.job x.step
  s.setBoard bk { b with strm := if l.any same then l.map (fun y => if same y then x else y) else l ++ [x] }

/-- An earlier step of the context has begun and its record is not yet updated, so the quantise stage waits (R198). -/
def State.strBusy (s : State) (bk n : Nat) (c : StepCtx) : Bool :=
  s.strDyn bk n && (s.board bk).strm.any fun x =>
    x.n == n && x.ctx == c.ctx && !isStep n c.ctx c.job (s.strKey bk n c) x && (x.amax != [] || x.wait)

/-- A step of a dynamic stream has its first instruction: maxima and events of its groups from nothing (R197). -/
def State.openStream (s : State) (bk n : Nat) (c : StepCtx) : State :=
  let x := (s.strStep bk n c).getD { n := n, ctx := c.ctx, job := c.job, step := s.strKey bk n c }
  if !s.strDyn bk n ∨ x.amax ≠ [] then s
  else
    let gs := List.range (s.ngroups bk n)
    let z := gs.map fun _ => 0
    s.putStrm bk { x with amax := gs.map fun _ => .fin false 0 0, sat := z, unf := z }

/-- A step of a dynamic stream begins its quantise stage: the exponents of its groups, in byte 16 and SCL_EXP.out
(R197). -/
def State.beginStream (s : State) (bk n : Nat) (c : StepCtx) : State :=
  let s := s.openStream bk n c
  match s.strStep bk n c with
  | none => s
  | some x =>
    if !s.strDyn bk n ∨ x.eo ≠ [] then s
    else
      let hist := s.liveReg (strHist bk n)
      let gs := List.range (s.ngroups bk n)
      let eo := gs.map fun g => chooseExp (s.strF bk n) (fld hist 0 4 + 1) (fld hist 4 2) (s.load (s.histAt bk n c.ctx g) 32)
      let s := gs.foldl (fun s g => s.store (s.histAt bk n c.ctx g + 16) (leBytes 1 (expByte (eo.getD g 0)))) s
      let s := (List.range (s.strN bk n)).foldl (fun s p =>
        s.setSclOut bk (s.strSlot0 bk n + p) (eo.getD (s.strGroup bk n p) 0)) s
      s.putStrm bk { x with eo := eo }

/-- A job has failed or been completed, so its steps have no further effect (R242). -/
def State.dead (s : State) (c : StepCtx) : Bool :=
  match s.job c.job with
  | some j => j.failedAt || j.st == .completed
  -- its completion has been acknowledged and its number given back
  | none => decide (c.job ≠ 0 ∧ c.job < s.wk.nextJob)

/-- The record of each group updated by a step (R195-R197, R202). -/
def State.updateRecord (s : State) (bk : Nat) (x : StreamStep) (amax : List FV) : State :=
  (List.range (s.ngroups bk x.n)).foldl (fun s g =>
    let a := s.histAt bk x.n x.ctx g
    let r := s.load a 32
    let m := amax.getD g (.fin false 0 0)
    let fit := if m.isZero then 0x80 else expByte (fitExp (cmaxOf (s.strF bk x.n)) m)
    let cnt := fun o n => leBytes 4 (hold 0xFFFFFFFF (leAt r o 4 + n))
    s.store a (leBytes 1 fit ++ r.take 15 ++ slice r 16 4 ++ cnt 20 (x.sat.getD g 0) ++ cnt 24 (x.unf.getD g 0) ++
      cnt 28 1)) s

/-- The boards of the stage a board runs (R199). -/
def State.stageBoards (s : State) (bk : Nat) : List Nat :=
  match (s.board bk).score with
  | some slot => (s.stageOf bk).boards.filterMap (s.score slot).boardOf
  | none => [bk]

/-- The board on which the logical board of a score's board now lies, where a switch has moved it (R287). -/
def State.nowBoard (s : State) (slot k : Nat) : Nat :=
  match mget 0 s.fb.moved (8192 * slot + k) with | 0 => k | m => m - 1

/-- A whole-tensor step whose maxima have all arrived updates its record, and one of a failed job is forgotten (R197,
R199). -/
def State.settleStrm (s : State) (bk : Nat) (x : StreamStep) : State :=
  let others := (s.stageBoards bk).filter (· != bk)
  let b := s.board bk
  let failed : Bool := match s.job x.job with | some j => j.failedAt | none => false
  if failed ∨ (s.dead { job := x.job } ∧ !x.wait) then
    s.setBoard bk { b with strm := b.strm.filter fun y => !isStep x.n x.ctx x.job x.step y }
  else if !x.wait ∨ !(others.all fun o => x.got.any fun g => s.nowBoard (b.score.getD 64) g.1 == o) then s
  else
    let s := if x.eo = [] ∧ !x.seen then s.beginStream bk x.n { job := x.job, step := x.step, ctx := x.ctx } else s
    let b := s.board bk
    let s := s.setBoard bk { b with strm := b.strm.filter fun y => !isStep x.n x.ctx x.job x.step y }
    let own := x.amax.getD 0 (.fin false 0 0)
    -- a board that captured nothing sends a NaN in place of a maximum
    let vs := (if x.seen then [own] else []) ++ (x.got.map (·.2)).filter fun v => !v.isNan
    if vs = [] then s else s.updateRecord bk x [amaxOf vs]

/-- The AMAX payload: stream, context, a capture mark, and the magnitude as significand and exponent (log entry 27). -/
def amaxBytes (x : StreamStep) : List Byte :=
  let (m, e) := (x.amax.getD 0 (.fin false 0 0)).num
  padTo 0 32 (leBytes 1 x.n ++ leBytes 1 x.ctx ++ leBytes 1 (b2n x.seen) ++ leBytes 5 0 ++ leBytes 8 m.toNat ++
    leBytes 2 (pattern 16 e))

/-- A stream's step ends with a step of a job on a board: every one of a TOKEN stream, and for a JOB stream the one after
which the board has nothing of the job left and the job's last step behind it (R194). -/
def State.strDue (s : State) (bk n : Nat) (c : StepCtx) : Bool :=
  let x := s.board bk
  let mine := fun d : StepCtx => d.job == c.job
  s.strToken bk n || match s.job c.job with
  | none => true
  | some j => (j.nsteps ≤ 1 || j.ended.contains (j.nsteps - 1, bk)) && !(x.steps.any mine || x.endPend.any mine ||
      (match x.cur with | some d => mine d | none => false) || x.sb.any fun e => mine e.ctx)

/-- The end of a stream's step on a board: the record update, or the exchange of the stage, in which a board that wrote nothing
through the stream takes part (R197, R199); nothing but its removal where the job has failed. -/
def State.endStrm (s : State) (bk : Nat) (c : StepCtx) (n : Nat) : State :=
  let many := s.strWhole bk n && decide (1 < (s.stageBoards bk).length)
  let x := (s.strStep bk n c).getD { n := n, ctx := c.ctx, job := c.job, step := s.strKey bk n c }
  if !s.strDyn bk n ∨ s.strN bk n = 0 ∨ !s.strDue bk n c ∨ ((s.strStep bk n c).isNone ∧ !many) then s
  else if s.dead c ∨ !s.strWhole bk n then
    let b := s.board bk
    let s := s.setBoard bk { b with strm := b.strm.filter fun y => !isStep n c.ctx c.job x.step y }
    if x.seen ∧ !s.dead c then s.updateRecord bk x x.amax else s
  else
    let s := ((s.stageBoards bk).filter (· != bk)).foldl (fun s o =>
      s.sendPkt { (s.pktOf bk c (s.stepBase bk c) 8 3) with
        dstNode := keyDie o, dstBoard := keyBrd o, payload := amaxBytes x }) s
    let x := { x with wait := true }
    (s.putStrm bk x).settleStrm bk x

/-! Conversions through a stream. -/

/-- An element on its way through a stream: its run (the elements that share an exponent byte), its slot, its group,
whether it counts (R199), and its value. -/
structure QElem where
  run : Nat
  slot : Nat
  grp : Nat
  keep : Bool
  v : FV
deriving DecidableEq, Repr

/-- Consecutive elements of one run together. -/
def runsOf : List QElem → List (List QElem)
  | [] => []
  | a :: l =>
    match runsOf l with
    | (b :: r) :: rest => if a.run = b.run then (a :: b :: r) :: rest else [a] :: (b :: r) :: rest
    | rest => [a] :: rest

/-- What a conversion answers: codes, exponent bytes of its runs, and the events of each group. -/
structure QOut where
  codes : List Nat
  exps : List Nat
  evs : List (Nat × Ev)
deriving DecidableEq, Repr

/-- The conversion of R167, R168, R173 and R187 of elements of a stream; `eo` gives an element's exponent, and `wide` says that
the stream's format holds every value of the source, so that infinities stay infinities (R167). -/
def quantElems (f : Fmt) (inf wide : Bool) (eo : QElem → Int) (es : List QElem) : QOut :=
  if f.isGroup then
    let rs := (runsOf es).map fun r => (r, encodeGroup f (r.map (·.v)))
    let evOf := fun (e : QElem) (x : Int) =>
      -- the events of one element under its group's exponent (R173)
      match e.v with
      | .fin _ m _ =>
        let i := (e.v.scale (-x)).rneInt
        ((satFmt f i).2).add (if i = 0 ∧ m ≠ 0 then ⟨0, 1⟩ else {})
      | _ => ⟨1, 0⟩
    { codes := rs.flatMap fun r => r.2.2.1,
      exps := rs.map fun r => expByte r.2.1,
      evs := rs.flatMap fun r => r.1.filterMap fun e => if e.keep then some (e.grp, evOf e r.2.1) else none }
  else
    let one := fun e : QElem => convert f (inf || (wide && !e.v.isFin && !e.v.isNan)) (e.v.scale (-(eo e)))
    let zero := fun e : QElem => (decodeElem f 0 (one e).1).isZero
    { codes := es.map fun e => (one e).1,
      exps := (runsOf es).map fun r =>
        if r.all zero then 0x20 else match r with | e :: _ => expByte (eo e) | [] => 0x20,
      evs := es.filterMap fun e => if e.keep then some (e.grp, (one e).2) else none }

/-- Events added up. -/
def evSum (l : List (Nat × Ev)) : Ev := (l.map (·.2)).foldl Ev.add {}

/-- Events counted in a job (R157). -/
def State.countEv (s : State) (job : Nat) (ev : Ev) : State := s.addCounts job { sat := ev.sat, unf := ev.unf }

/-- Stages 8 and 7 on elements of a stream (R187, R197, R199, R201): the amax captured where `cap` says, codes and
exponents formed, events counted in the job, the step's record and SCL_CNT. -/
def State.quantise (s : State) (bk n : Nat) (c : StepCtx) (inf wide cap conv : Bool) (es : List QElem) : State × QOut :=
  let s := if conv then s.beginStream bk n c else s.openStream bk n c
  let dyn := s.strDyn bk n
  let st := s.strStep bk n c
  let eo := fun e : QElem => if dyn then ((st.map fun x => x.eo.getD e.grp 0).getD 0) else s.sclOut bk e.slot
  let q : QOut := if conv then quantElems (s.strF bk n) inf wide eo es else ⟨[], [], []⟩
  let ev := evSum q.evs
  let s := (s.countEv c.job ev).bump (bkBase bk + 0x45080 + 4 * n) ev.sat
  let s := s.bump (bkBase bk + 0x450C0 + 4 * n) ev.unf
  match dyn, st with
  | true, some x =>
    let at_ := fun (l : List Nat) (p : Ev → Nat) => l.mapIdx fun g k =>
      k + nsum ((q.evs.filter fun e => e.1 == g).map fun e => p e.2)
    let top := x.amax.mapIdx fun g a => ((es.filter fun e => e.keep && e.grp == g).map (·.v)).foldl amaxStep a
    (s.putStrm bk { x with sat := at_ x.sat (·.sat), unf := at_ x.unf (·.unf),
                           amax := if cap then top else x.amax, seen := x.seen || cap }, q)
  | _, _ => (s, q)

/-- An element is not padding: its index along the instruction's dynamic dimension lies below the step's valid count
(R199, R210). -/
def State.keeps (s : State) (bk sidx iter elem : Nat) (c : StepCtx) : Bool :=
  let d := s.pdim bk sidx
  if d = 0 ∨ 4 < d then true
  else decide ((if s.pmode bk sidx then elem else iter) < c.valid.getD (d - 1) 0)

/-! Ends. -/

/-- Every entry of a step on a board has finished and its END has issued: its carry keys are freed (R284), its streams
update (R197), and the job learns that the board has ended the step. -/
def State.endStep (s : State) (bk : Nat) (c : StepCtx) : State :=
  let x := s.board bk
  let s := s.setBoard bk { x with
    endPend := x.endPend.filter fun d => !(d.job == c.job && d.step == c.step),
    keys := x.keys.filter fun k => !(k.1 == c.job && k.2.1 == c.step),
    arrived := x.arrived.filter fun k => !(k.job == c.job && k.step == c.step),
    captStroke := x.captStroke.filter fun e => decide (e.1 / 2 ^ 17 ≠ c.job * 2 ^ 32 + c.step) }
  let s := s.modJob c.job fun j => { j with ended := j.ended ++ [(c.step, bk)] }
  let s := (List.range 16).foldl (fun s n => s.endStrm bk c n) s
  s.setBoard bk { s.board bk with bases := mput 0 (s.board bk).bases (stepKey c) 0 }

/-- The carry keys of steps whose END has issued and whose CRECVs have finished are freed (R284). -/
def Board.freeKeys (x : Board) : Board :=
  let free := fun (c : StepCtx) => !x.sb.any fun e => topc e.word == 9 && e.ctx.job == c.job && e.ctx.step == c.step
  { x with keys := x.keys.filter fun k => !x.endPend.any fun c => free c && k.1 == c.job && k.2.1 == c.step }

/-- Steps whose END has issued and that have nothing unfinished end (R284). -/
def State.endSteps (s : State) (bk : Nat) : State :=
  (s.board bk).endPend.foldl (fun s c =>
    if (s.board bk).sb.any fun e => e.ctx.job == c.job && e.ctx.step == c.step then s else s.endStep bk c) s

/-- A step of a board has begun, or finished an instruction, at a time (R241); steps that have ended are forgotten. -/
def Board.stepAt (x : Board) (c : StepCtx) (t : Nat) : Board :=
  let live := fun (e : Nat × Nat × Nat) =>
    (match x.cur with | some d => d.job == e.1 && d.step == e.2.1 | none => false) ||
    x.sb.any fun y => y.ctx.job == e.1 && y.ctx.step == e.2.1
  { x with lastDone := (x.lastDone.filter fun e => live e && !(e.1 == c.job && e.2.1 == c.step)) ++ [(c.job, c.step, t)] }

/-- A scoreboard entry freed, and with it the activation table it used (R212, R226). -/
def State.finishEntry (s : State) (bk : Nat) (e : SbEntry) : State :=
  let x := s.board bk
  ((s.setBoard bk (({ x with sb := x.sb.filter fun y => y.id != e.id }).freeKeys.stepAt e.ctx s.now)).settleAct bk).endSteps bk

end Sys2Proof.Machine
end

