-- ==== Sys2Proof/Machine/Strokes.lean ====
section
/-! DEFINITION. Strokes: drive levels (R34-R37, R182-R185, R189, R190), zero skip (R49-R51), headroom (R52-R55), token
charges (R47, R48), rod codes (R41, R43), checks and confidence (R56-R62), the exact lane (R232-R235), forwarding
(R283), captures of rod codes (R395, R396, R399), and the row ramp (R38). -/

namespace Sys2Proof.Machine

/-! Drive levels. -/

/-- H_n · x in natural order for a list of 2^k values (R190). -/
def hadamard : Nat → List Int → List Int
  | 0, l => l
  | k + 1, l =>
    let h := 2 ^ k
    let a := l.take h
    let b := l.drop h
    hadamard k (List.zipWith (· + ·) a b) ++ hadamard k (List.zipWith (· - ·) a b)

/-- What the drive path forms for a stroke: the levels of the rows of its shape from row0 up, Ês and Eref where they
exist, the blocks rotated, and the codes saturated. -/
structure Drive where
  v : List Int
  es : Option Int
  eref : Option Int
  blocks : Nat := 0
  sats : Nat := 0
deriving DecidableEq, Repr

/-- The input of a stroke as the drive path reads it. -/
structure DriveIn where
  row0 : Nat
  rows : Nat
  nrow : Nat
  turn : Nat
  ebase : Nat
  gsize : Nat
  a4 : Bool
  sgn : Bool
  span : Word
  ngroup : Nat
  exps : List Nat
  codes : List Nat
deriving DecidableEq, Repr

/-- The group of the reduction a row of the window lies in (R238). -/
def DriveIn.group (x : DriveIn) (i : Nat) : Nat := x.ebase + (if x.gsize = 0 then 0 else i / x.gsize)

/-- The exponent of the group of the i-th row of the window; none for a zero group (R216). -/
def DriveIn.exp (x : DriveIn) (i : Nat) : Option Int :=
  let b := x.exps.getD (x.group i) 0x20
  if expOf b = -32 then none else some (expOf b)

/-- The row lies in a bipolar span (R34). -/
def DriveIn.bip (x : DriveIn) (i : Nat) : Bool := bit x.span ((x.row0 + i) / 64)

/-- The input code of the i-th row, 0 outside the window (R37, R159). -/
def DriveIn.code (x : DriveIn) (i : Nat) : Int :=
  if x.nrow ≤ i then 0
  else
    let n := x.codes.getD i 0
    let s := if x.turn ≠ 0 then x.sgn else x.bip i
    let w := if x.a4 then 4 else 8
    if s then signed w n else (n % 2 ^ w : Nat)

/-- The level of a code of a group d octaves below Ês (R35, R36, R183). -/
def level (a4 bip : Bool) (d : Nat) (c : Int) : Int :=
  let c := if 3 < d then rneShift c (d - 3) else c
  let c := if a4 then c * 16 else c
  c * 2 ^ ((if bip then 4 else 3) - min d 3)

/-- The largest of a list of exponents. -/
def maxExp (l : List Int) : Option Int :=
  match l with
  | [] => none
  | e :: r => some (r.foldl max e)

/-- Eref: the largest effective exponent of the non-zero groups of the whole input vector (R182). -/
def DriveIn.eref (x : DriveIn) : Option Int :=
  (maxExp ((x.exps.take x.ngroup).filterMap fun b => if expOf b = -32 then none else some (expOf b))).map fun e =>
    if x.turn ≠ 0 ∨ x.bip 0 then e - 1 else e

/-- One turned block from its first row on: its levels, exponent, and codes saturated (R190). DESIGN CHOICE: a group longer than the
block that is not a zero group gives the block its exponent though the codes in the block are all zero, since R182 goes by the
exponent bytes alone (log entry 119). -/
def DriveIn.block (x : DriveIn) (i0 : Nat) : Option (Int × List Int × Nat) :=
  let n := turnSize x.turn
  let is := (List.range n).map (i0 + ·)
  match maxExp (is.filterMap fun i => if i < x.nrow then x.exp i else none) with
  | none => none
  | some eb =>
    let xs := is.map fun i => match (if i < x.nrow then x.exp i else none) with
      | some e => rneShift (x.code i) (eb - e).toNat
      | none => 0
    let sums := hadamard (Nat.log2 n) xs
    let ys := sums.map fun y => rneShift y (Nat.log2 n / 2)
    some (eb, ys.map (clampI (-128) 127), (ys.filter fun y => decide (y < -128 ∨ 127 < y)).length)

/-- Step 1 of R63. -/
def driveOf (x : DriveIn) : Drive :=
  let eref := x.eref
  match eref with
  | none => ⟨List.replicate x.rows 0, none, none, 0, 0⟩
  | some er =>
    if x.turn ≠ 0 then
      let n := turnSize x.turn
      let bs := (List.range (x.rows / n)).map fun k => x.block (k * n)
      let eff := bs.filterMap fun b => b.map fun b => b.1 - 1
      match maxExp eff with
      | none => ⟨List.replicate x.rows 0, none, some er, 0, 0⟩
      | some m =>
        let es := max m (er - 15)
        let v := bs.flatMap fun b => match b with
          | none => List.replicate n 0
          | some (eb, ys, _) => ys.map (level false true (es - (eb - 1)).toNat)
        ⟨padTo 0 x.rows v, some es, some er, eff.length, nsum (bs.map fun b => match b with | some b => b.2.2 | none => 0)⟩
    else
      let eff := fun i => (x.exp i).map fun e => if x.bip i then e - 1 else e
      match maxExp ((List.range x.nrow).filterMap eff) with
      | none => ⟨List.replicate x.rows 0, none, some er, 0, 0⟩
      | some m =>
        let es := max m (er - 15)
        let v := (List.range x.rows).map fun i =>
          if x.nrow ≤ i then 0
          else match eff i with
            | none => 0
            | some e => level x.a4 (x.bip i) (es - e).toNat (x.code i)
        ⟨v, some es, some er, 0, 0⟩

/-- The drive of iteration i of a STROKE, with the spans of frame `fk` (R63, R238). -/
def State.strokeDrive (s : State) (bk fk w i : Nat) : Drive :=
  let o := strokeOp w
  let xa := 8 * o.xaddr + 8 * s.inStride bk o.sidx * i
  let ea := 8 * o.eaddr + s.expStride bk o.sidx * i
  let a4 := s.a4 bk o.sidx
  driveOf { row0 := o.row0, rows := shapeRows o.shape, nrow := o.nrow, turn := o.turn, ebase := o.ebase,
            gsize := [0, 32, 64, 128].getD (s.stageOf bk).gsize 0, a4 := a4, sgn := s.sgn bk o.sidx, span := s.frmLive fk 0x14,
            ngroup := s.ngroup bk o.sidx, exps := (s.load (bkBase bk + ea) (s.strokeExps bk o)).map (·.toNat),
            codes := (List.range o.nrow).map fun k =>
              if a4 then s.elem bk xa .a4u k else s.elem bk xa .a8u k }

/-! Headroom and charges. -/

/-- bound(rows) of R52 over (|v|, peak) pairs. -/
def hrBound (l : List (Int × Nat)) : Nat := nsum (l.map fun p => p.1.natAbs * p.2)

/-- The parts of R53 as (first row within the shape, rows), and whether the bound exceeds the limit. -/
def hrParts (hr limit rows : Nat) (l : List (Int × Nat)) : List (Nat × Nat) × Bool :=
  let above := decide (limit < hrBound l)
  if hr ≠ 1 ∨ !above then ([(0, rows)], above && hr == 2)
  else
    let h := rows / 2
    if hrBound (l.take h) ≤ limit ∧ hrBound (l.drop h) ≤ limit then ([(0, h), (h, h)], true)
    else
      let q := rows / 4
      ([(0, q), (q, q), (2 * q, q), (3 * q, q)], true)

/-- Tokens of a stroke or part of r rows and c rods in an integration mode (R47, R48). -/
def strokeCharge (integ r c : Nat) : Nat :=
  let t := if 256 ≤ c then (if 256 < r then [110, 170, 410, 1370] else if 128 < r then [72, 111, 267, 891] else [52, 80, 193, 644])
    else if 128 ≤ c then (if 256 < r then [62, 96, 230, 768] else [41, 63, 152, 507])
    else [20, 31, 74, 247]
  t.getD integ 0

/-! Outputs. -/

/-- The row peak of a row: of the side store, or of the image in the exact lane (R84, R233). -/
def State.peakOf (s : State) (fk plane row : Nat) (lane : Bool) : Nat :=
  if lane then
    match s.imageOf fk plane with
    | some i => imgPeak i.fmt i.bytes row
    | none => (s.sideAt fk plane row).peak
  else (s.sideAt fk plane row).peak

/-- Outputs of a part from aligned codes by data rod: the decks of W9 combined (R214). -/
def deckOuts (w9 : Bool) (rod0 nrod : Nat) (ca : Nat → Int) : List Int :=
  if w9 then (List.range (nrod / 2)).map fun o => 16 * ca (rod0 + 2 * o + 1) + ca (rod0 + 2 * o)
  else (List.range nrod).map fun o => ca (rod0 + o)

/-- The data rods and then the check groups a stroke converts (R30, R56). -/
def convGroups (chk : Bool) (rod0 rods : Nat) : List Nat :=
  if chk then (List.range 8).filter fun j => decide (32 * j < rod0 + rods ∧ rod0 < 32 * j + 32) else []

/-- The driven rows of the part in hand as (frame row, level). -/
def Stroke.driven (x : Stroke) : List (Nat × Int) :=
  let p := x.parts.getD x.part (0, 0)
  (((x.v.zipIdx).drop p.1).take p.2).filterMap fun e => if e.1 = 0 then none else some (x.row0 + e.2, e.1)

/-- The digit a rod holds on a row (R78). -/
def State.digit (s : State) (fk plane row r : Nat) : Int :=
  (s.bead (beadKey fk plane row (2 * r)) : Int) - s.bead (beadKey fk plane row (2 * r + 1))

/-- The raw code and flag of a rod whose product sum is p (R41, R43). -/
def rodCode (fs range : Nat) (p err noise : Int) : Int × Bool :=
  let c := rneDiv ((gNum fs : Int) * p) (gDen range) + err + noise
  (clampI (-32767) 32767 c, decide (c < -32767 ∨ 32767 < c))

/-- The raw codes and flags of rods 0 to 263 in a stroke of the part in hand. -/
def State.rodCodes (s : State) (fk : Nat) (x : Stroke) : List (Int × Bool) :=
  let rows := x.driven
  (List.range 264).map fun r =>
    let p := isum (rows.map fun e => e.2 * s.digit fk x.plane e.1 r)
    rodCode (s.fFs fk) (s.fRange fk) p (Config.rodError (s.fresh + r)) (Config.rodNoise (s.fresh + r))

/-- The check comparison of R56 and R57: some compared group fails. A group in the plane's chk_off is never compared
(R100). -/
def State.checkFails (s : State) (fk : Nat) (x : Stroke) : Bool :=
  let rows := x.driven
  let g := fld (s.reg (fkBase fk + 0x2C)) 0 32
  let tol := fld (s.frmLive fk 0x20) 0 12
  let off := (s.header fk x.plane).chkOff
  ((convGroups (s.fChk fk) x.rod0 (shapeRods x.shape)).filter fun j => !off.testBit j).any fun j =>
    let flag := (List.range 32).any (fun k => x.flags.getD (32 * j + k) false) || x.flags.getD (256 + j) false
    let sn := isum (slice x.sums (32 * j) 32)
    let kn := x.sums.getD (256 + j) 0
    let e := isum (rows.map fun r => r.2 * (s.sideAt fk x.plane r.1).resid.getD j 0)
    let ge := rneShift (e * g) 32
    !flag && decide (x.n * 32 * tol < (sn - 32 * kn - x.n * ge).natAbs)

/-- Counts of a performed stroke or part in the frame's window (R61, R73). DESIGN CHOICE: calibration strokes and spot strokes count in
neither (log entry 119). -/
def State.countPerformed (s : State) (fk : Nat) (fl : List Bool) : State :=
  let s := s.bump (fkBase fk + 0x80) 1
  let s := (List.range 9).foldl (fun s n =>
    s.setRegN (fkBase fk + 0x30 + 4 * n) (nsum ((List.range 32).map fun m => b2n (fl.getD (32 * n + m) false) * 2 ^ m))) s
  let y := s.frame fk
  let full := decide (2 ^ (16 + fld (s.frmLive fk 0x24) 8 4) ≤ y.winStrokes)
  let bank := match y.stroke with | some x => x.ctx.bank | none => y.lastBank
  -- a window that is full gives way to the next one with this stroke
  s.setFrame fk { y with lastBank := bank,
                         winStrokes := if full then 1 else y.winStrokes + 1,
                         winCount := if full then 0 else y.winCount }

/-! The course of a stroke. -/

def State.setStroke (s : State) (fk : Nat) (x : Option Stroke) : State := s.setFrame fk { s.frame fk with stroke := x }

/-- The board a frame key lies on, and the slot of the issuing board an output of the stroke goes to. -/
def State.entryOf (s : State) (bk id : Nat) : Option SbEntry := (s.board bk).sb.find? fun e => e.id == id

/-- An iteration of a STROKE finished (R211). -/
def State.iterDone (s : State) (bk id : Nat) : State :=
  match s.entryOf bk id with
  | none => s
  | some e =>
    let e := { e with done := e.done + 1 }
    if e.done = tnb e.word then s.finishEntry bk e else s.setEntry bk e

/-- The job counts of R65 as the count flit of an SCARRY holds them, with a mark that the frame stroked. -/
def countFlit (c : Counts) : List Byte :=
  padTo 0 32 (leBytes 2 c.skip ++ leBytes 2 c.split ++ leBytes 2 c.retry ++ leBytes 2 c.lowconf ++ leBytes 2 c.ovr ++
    leBytes 2 c.strokes)

/-- Step 5 of R63 done: counts to the job, or the SCARRY to the issuing board; then the stroke boundary (R63, R65,
R283). -/
def State.endStroke (s : State) (fk : Nat) : State :=
  match (s.frame fk).stroke with
  | none => s
  | some x =>
    let bk := fkBoard fk
    let c := { x.counts with lowconf := b2n x.low }
    let s := if x.low then
        let s := s.bump (fkBase fk + 0x90) 1
        let y := s.frame fk
        let thr := fld (s.frmLive fk 0x24) 0 8
        let s := s.setFrame fk { y with winCount := y.winCount + 1 }
        if thr ≠ 0 ∧ thr < y.winCount + 1 then
          let s := s.frameFault fk 6
          s.setFrame fk { s.frame fk with diagnose := true }
        else s
      else s
    let s := (s.setStroke fk none).boundary fk
    match x.dest with
    | .own => (s.addCounts x.ctx.job c).iterDone bk x.tag
    | .forward node board slot q =>
      s.sendPkt { (s.pktOf bk x.ctx q 1 0) with
        dstNode := node, dstBoard := board, skind := true, addr := slot,
        payload := countFlit c ++ x.outs.flatMap fun v => leBytes 8 (pattern 64 v) }

/-- The outputs of the part in hand delivered: added to the tally, or kept for the SCARRY (R185, R214, R283). -/
def State.deliver (s : State) (fk : Nat) (x : Stroke) (c : Nat → Int) : State :=
  let o := (x.eref - x.es).toNat
  let outs := deckOuts x.w9 x.rod0 x.nrod fun r => rneShift (c r) o
  match x.dest with
  | .own =>
    let pc := match s.entryOf (fkBoard fk) x.tag with | some e => e.pc | none => 0
    s.tallyAdd (fkBoard fk) x.tslot (outs.map fun v => (some x.eref, v)) pc x.ctx.job
  | .forward .. =>
    s.setStroke fk (some { x with outs := if x.outs = [] then outs else List.zipWith (· + ·) x.outs outs })

/-- A part performed as often as it needs: outputs averaged and delivered, the flag of every rod it converted counted once,
check rods among them (R43, R57, R59, R60, R65; log entry 99). -/
def State.partOut (s : State) (fk : Nat) (x : Stroke) : State :=
  let ovr := (x.flags.filter id).length
  let x := { x with counts := { x.counts with ovr := x.counts.ovr + ovr } }
  let s := (s.setStroke fk (some x)).bump (fkBase fk + 0x94) ovr
  let s := s.deliver fk x fun r => rneDiv (x.sums.getD r 0) x.n
  match (s.frame fk).stroke with
  | some y => s.setStroke fk (some { y with part := y.part + 1, started := false, n := 0, sums := [], flags := [] })
  | none => s

/-- Work in hand of a frame goes to the exact lane, or its job fails (R70, R232). -/
def State.toLane (s : State) (fk : Nat) : State :=
  match (s.frame fk).stroke with
  | none => s
  | some x =>
    if s.residentOf fk ∧ (s.imageOf fk x.plane).isSome then
      s.setStroke fk (some { x with lane := true, started := false, pending := false, n := 0, sums := [], flags := [] })
    else (((s.setStroke fk none).boundary fk).jobFault x.ctx.job 0x0504)

/-! Captures of rod codes (R395, R396, R399). -/

/-- The key under which a board notes a CAPT of a step: a frame below 64, a capture point from 64 on. -/
def captKey (c : StepCtx) (k : Nat) : Nat := (c.job * 2 ^ 32 + c.step) * 2 ^ 17 + k

/-- One more record of a capture point taken (R399). -/
def State.captUsed (s : State) (bk : Nat) (c : StepCtx) (point : Nat) : State :=
  let x := s.board bk
  let k := captKey c (64 + point)
  s.setBoard bk { x with captStroke := mput 0 x.captStroke k (mget 0 x.captStroke k + 1) }

/-- The journal takes captures of a job in mode 1 (R396). -/
def State.captures (s : State) (c : StepCtx) : Bool := c.capture == 1 && s.sv.journal.on && s.sv.journal.captures

/-- The calibration epoch a job runs under. -/
def State.jobEpoch (s : State) (j : Nat) : Nat := match s.job j with | some x => x.epoch | none => 0

/-- The ring and jseq of a job for the header of a record. -/
def State.jobRing (s : State) (j : Nat) : Nat × Nat := match s.job j with | some x => (x.ring, x.jseq) | none => (0, 0)

def frameAddr (fk : Nat) : Nat := fkFrame fk + 64 * keyBrd (fkBoard fk) + 16384 * keyDie (fkBoard fk)

/-- A CAL record where the frame and epoch have none yet (R395). -/
def State.calRecord (s : State) (fk : Nat) (c : StepCtx) : State :=
  let ep := s.jobEpoch c.job
  if s.sv.journal.cals.contains (fk, ep) then s
  else
    let n := b2n c.bank
    let w := fun a => leBytes 4 (s.regN a)
    let pay := leBytes 4 (frameAddr fk) ++ leBytes 4 ep ++ (List.range 272).flatMap (fun r => w (trimReg fk n r)) ++
      (List.range 8).flatMap (fun p => w (gainReg fk n p)) ++ leBytes 4 (s.fMode fk).toNat
    let (ring, jseq) := s.jobRing c.job
    let s := s.jrec 4 ring jseq c.step 0 (s.board (fkBoard fk)).lb pay
    { s with sv.journal.cals := s.sv.journal.cals ++ [(fk, ep)] }

/-- The rods a stroke converts, data rods first (R396). -/
def Stroke.converted (x : Stroke) (chk : Bool) : List Nat :=
  let rods := shapeRods x.shape
  let gs := convGroups chk x.rod0 rods
  ((List.range 256).filter fun r => decide (x.rod0 ≤ r ∧ r < x.rod0 + rods) || gs.contains (r / 32)) ++ gs.map (256 + ·)

/-- A ROD record of a performed stroke (R395, R396; its layout is log entry 21). -/
def State.rodRecord (s : State) (fk : Nat) (x : Stroke) (point : Nat) (cs : List (Int × Bool)) : State :=
  let s := s.calRecord fk x.ctx
  let rods := x.converted (s.fChk fk)
  let fl := nsum (rods.map fun r => b2n (cs.getD r (0, false)).2 * 2 ^ r)
  let pay := leBytes 4 (frameAddr fk) ++ leBytes 1 x.plane ++ leBytes 1 x.part ++ leBytes 2 x.n ++ leBytes 2 x.rod0 ++
    leBytes 2 rods.length ++ leBytes 4 (s.jobEpoch x.ctx.job) ++ leBytes 34 fl ++
    rods.flatMap fun r => leBytes 2 (pattern 16 (cs.getD r (0, false)).1)
  let (ring, jseq) := s.jobRing x.ctx.job
  s.jrec 5 ring jseq x.ctx.step point (s.board (fkBoard fk)).lb pay

/-- The records of a recorded job's capture point, in order: those of its type, step, point and logical board. -/
def State.captured (s : State) (type : Nat) (c : StepCtx) (point lb : Nat) : List (Nat × List Byte) :=
  let (ring, jseq) := s.jobRing c.job
  let src := (s.ring ring).replaySrc
  s.sv.journal.recs.filter fun r =>
    leAt r.2 0 1 == type && leAt r.2 2 2 == src && leAt r.2 12 4 == jseq % 2 ^ 32 && leAt r.2 16 4 == c.step &&
    leAt r.2 20 2 == point && leAt r.2 22 2 == lb

/-- The trims of a recorded stroke: the newest CAL record of its frame and epoch before it (R399). -/
def State.calOf (s : State) (n : Nat) (frame epoch : Nat) : Option (List Byte) :=
  ((s.sv.journal.recs.takeWhile fun r => r.1 != n).reverse.find? fun r =>
    leAt r.2 0 1 == 4 && leAt r.2 32 4 == frame && leAt r.2 36 4 == epoch).map fun r => r.2.drop 40

/-- R118 with the trims of a CAL record. -/
def trimWith (cal : List Byte) (p r : Nat) (c : Int) : Int :=
  let t := BitVec.ofNat 32 (leAt cal (4 * r) 4)
  let g := BitVec.ofNat 32 (leAt cal (1088 + 4 * p) 4)
  rneShift ((c * 16 - sfld t 0 16) * ((2 ^ 18 + sfld t 16 16) * (2 ^ 20 + sfld g 0 18))) 42

/-- The trimmed codes and flags of one performed stroke added to the running sums of its part (R56). -/
def Stroke.addCodes (x : Stroke) (ts : List (Int × Bool)) : Stroke :=
  { x with
    n := x.n + 1
    counts := { x.counts with strokes := 1 }
    sums := if x.sums = [] then ts.map (·.1) else List.zipWith (· + ·) x.sums (ts.map (·.1))
    flags := if x.flags = [] then ts.map (·.2) else List.zipWith (· || ·) x.flags (ts.map (·.2)) }

/-- After a performed stroke: a re-stroke is called for, or the part's outputs go out (R58-R60). Answers whether the
part is over. -/
def State.judge_ (s : State) (fk : Nat) (x : Stroke) : State × Bool :=
  if s.checkFails fk x then
    if x.n ≤ fld (s.frmLive fk 0x1C) 0 3 then
      (s.setStroke fk (some { x with pending := true, started := false, counts := { x.counts with retry := x.counts.retry + 1 } }), false)
    else (s.partOut fk { x with low := true }, true)
  else (s.partOut fk x, true)

/-- One stroke of a part from its recorded codes (R399, R400): the state, or the status the job fails with. -/
def State.substitute (s : State) (fk : Nat) (x : Stroke) (point : Nat) : Except Nat (State × Stroke) :=
  let bk := fkBoard fk
  let k := mget 0 (s.board bk).captStroke (captKey x.ctx (64 + point))
  match (s.captured 5 x.ctx point (s.board bk).lb)[k]? with
  | none => .error 0x0405
  | some (n, r) =>
    let b := r.drop 32
    let rods := x.converted (s.fChk fk)
    let code := fun i => leAt b (50 + 2 * i) 2
    if leAt b 0 4 ≠ frameAddr fk ∨ leAt b 4 1 ≠ x.plane ∨ leAt b 8 2 ≠ x.rod0 ∨ leAt b 10 2 ≠ rods.length ∨
        (List.range rods.length).any (fun i => code i == 0x8000) then .error 0x0104
    else
      match s.calOf n (leAt b 0 4) (leAt b 12 4) with
      | none => .error 0x0405
      | some cal =>
        let fl := leAt b 16 34
        let ts := (List.range 264).map fun r =>
          match rods.idxOf? r with
          | some i => (trimWith cal x.plane r (signed 16 (code i)), fl.testBit r)
          | none => ((0 : Int), false)
        let s := s.captUsed bk x.ctx point
        .ok (s, x.addCodes ts)

/-- A plane selected and its 512 side-store entries read (R32, R33): how many show a corrected error and whether one shows an
uncorrectable one are free values (log entry 4). The answer says whether one is uncorrectable. -/
def State.selectPlane (s : State) (fk p : Nat) : State × Bool :=
  let bad := Config.freeBit (s.fresh + 512)
  let s := s.bump (fkBase fk + 0x98) ((List.range 512).filter fun i => Config.freeBit (s.fresh + i)).length
  let s := s.take 513
  (s.setFrame fk { s.frame fk with plane := p, planeValid := !bad }, bad)

/-- Tokens held: the plane is selected where it is not, its side store read, and the rows driven (R32, R33, R38). -/
def State.startPart (s : State) (fk : Nat) : State :=
  match (s.frame fk).stroke with
  | none => s
  | some x =>
    let y := s.frame fk
    let (s, bad) := if y.planeValid ∧ y.plane = x.plane then (s, false) else s.selectPlane fk x.plane
    if bad then
      let s := s.frameFault fk 3
      (s.setFrame fk { s.frame fk with diagnose := true }).toLane fk
    else (s.setFrame fk { s.frame fk with levels := x.driven }).setStroke fk (some { x with started := true })

/-- The part in hand taken up (R63 step 4): zero parts of a split skipped, tokens drawn, recorded codes substituted; when
no part is left the stroke ends. -/
def State.nextPart : Nat → State → Nat → State
  | 0, s, _ => s
  | f + 1, s, fk =>
    match (s.frame fk).stroke with
    | none => s
    | some x =>
      if x.parts.length ≤ x.part then s.endStroke fk
      else
        let d := keyDie (fkBoard fk)
        let p := x.parts.getD x.part (0, 0)
        if x.driven = [] ∧ s.fZskip fk ∧ 1 < x.parts.length then
          let x := { x with counts := { x.counts with skip := x.counts.skip + 1 } }
          let s := (s.setStroke fk (some x)).bump (fkBase fk + 0x84) 1
          let s := s.deliver fk x fun _ => 0
          let s := match (s.frame fk).stroke with
            | some y => s.setStroke fk (some { y with part := y.part + 1 })
            | none => s
          State.nextPart f s fk
        else if x.lane then s
        else
          match x.ctx.capture, x.capt with
          | 2, some point =>
            (match s.substitute fk x point with
             | .error c => ((s.setStroke fk none).boundary fk).jobFault x.ctx.job c
             | .ok (s, x) =>
               let (s, _) := s.judge_ fk x
               -- a re-stroke of the recording follows in the records
               let s := match (s.frame fk).stroke with
                 | some y => s.setStroke fk (some { y with pending := false })
                 | none => s
               State.nextPart f s fk)
          | _, _ =>
            let (s, ok) := s.draw d prioJob (strokeCharge (s.fInteg fk) p.2 (shapeRods x.shape)) (.stroke fk)
            if ok then s.startPart fk else s

/-- Room for every part and re-stroke of a stroke taken from records. -/
def partFuel : Nat := 64

/-- A stroke of a frame that can perform none: the fault UNAVAILABLE (R69). -/
def State.unavailable (s : State) (fk : Nat) : State :=
  let s := s.frameFault fk 2
  s.setFrame fk { s.frame fk with diagnose := true }

/-- The frame performs no strokes in its state (R66). -/
def State.offDuty (s : State) (fk : Nat) : Bool :=
  let st := (s.frame fk).st
  st == .programming || st == .repair || st == .spare || st == .retired

/-- A visit that holds the frame yields to a stroke: a recount keeps its row, a measurement the points it completed (R27,
R128). -/
def State.yieldVisit (s : State) (fk : Nat) : State :=
  let y := s.frame fk
  s.setFrame fk { y with yielded := true, measure := y.measure.map fun m => { m with count := 0, sums := [] } }

/-- A stroke begun on a frame (R63 steps 1-3): the fault of a frame that cannot perform it, zero skip of the whole, the
headroom decision, then its first part. A stroke whose groups are all zero groups is skipped whatever FRM_MODE.zskip holds
(R182; log entry 100). DESIGN CHOICE: an all-zero stroke on a frame that performs none raises UNAVAILABLE (R69) and
is then skipped with exact zeros (R49), so that its job goes on (log entry 119). -/
def State.beginStroke (s : State) (fk : Nat) (x : Stroke) (hasEs : Bool) : State :=
  let off := !x.lane && s.offDuty fk
  let s := if off then s.unavailable fk else s
  let zero := x.v.all (· == 0)
  if zero ∧ (!hasEs ∨ s.fZskip fk) then
    -- the whole stroke is skipped: exact zeros under Eref (R49, R215)
    let x := { x with counts := { x.counts with skip := 1 }, es := x.eref, parts := [] }
    let s := (s.setStroke fk (some x)).bump (fkBase fk + 0x84) 1
    let s := s.deliver fk x fun _ => 0
    s.endStroke fk
  else
    let s := if (s.frame fk).st = .recount ∧ !x.lane then s.yieldVisit fk else s
    let s := if x.lane ∨ off then s else s.setFrame fk { s.frame fk with st := .stroking }
    let rows := shapeRows x.shape
    let pk := x.v.zipIdx.map fun e => (e.1, if e.1 = 0 then 0 else s.peakOf fk x.plane (x.row0 + e.2) (x.lane || off))
    let limit := lnom (s.fFs fk) (s.fRange fk) * fld (s.frmLive fk 0x28) 0 8 / 256
    let (parts, split) := hrParts (s.fHr fk) limit rows pk
    let x := { x with parts := parts, counts := { x.counts with split := b2n split } }
    let s := if split then s.bump (fkBase fk + 0x88) 1 else s
    let s := s.setStroke fk (some x)
    (if x.lane ∨ off then s.toLane fk else s).nextPart partFuel fk

/-- Rows of the drive levels an SFWD carries: those of the window, in whole flit groups of 64 rows, and in whole blocks of a turned
stroke (R190, R270, R283). -/
def fwdRows (o : StrokeOp) : Nat :=
  let u := max 64 (if o.turn = 0 then 0 else turnSize o.turn)
  min (shapeRows o.shape) (cdiv o.nrow u * u)

/-- The context flit of an SFWD, with the stroke's sequence q, and its drive flits (R283; byte places of log entry 27). -/
def fwdPayload (fk : Nat) (o : StrokeOp) (c : StepCtx) (dr : Drive) (rows q : Nat) : List Byte :=
  padTo 0 32 (leBytes 1 (fkFrame fk) ++ leBytes 1 o.plane ++ leBytes 1 o.shape ++ leBytes 1 o.turn ++ leBytes 2 o.row0 ++
    leBytes 2 rows ++ leBytes 1 o.rod0 ++ leBytes 2 o.nrod ++ leBytes 1 (pattern 8 (dr.es.getD 0)) ++
    leBytes 1 (pattern 8 (dr.eref.getD 0)) ++ leBytes 1 (b2n c.bank + 2 * b2n c.exact + 4 * b2n dr.es.isSome) ++ leBytes 6 q) ++
  ((List.range rows).flatMap fun i => leBytes 2 (pattern 16 (dr.v.getD i 0)))

/-- Whether a frame's work goes to the exact lane: the step's exact flag, or a frame covered (R232). -/
def State.laneOf (s : State) (fk : Nat) (c : StepCtx) : Bool := c.exact || (s.frame fk).covered

/-- A frame out of reset: its die has power and the module has been Ready (R68). -/
def State.awakeFrame (s : State) (fk : Nat) : Bool :=
  let x := s.die (keyDie (fkBoard fk))
  (s.pstate == 2 || s.pstate == 3) && x.on && !x.lost

/-- Turn counters and events of a drive (R190, R245). -/
def State.countTurn (s : State) (bk : Nat) (c : StepCtx) (dr : Drive) : State :=
  let s := (s.bump (bkBase bk + 0x45100) dr.sats).bump (bkBase bk + 0x45104) dr.blocks
  s.addCounts c.job { sat := dr.sats }

/-- STROKE: the frame engine's next iteration of its oldest STROKE, or a stroke forwarded to it (R63, R237, R283). -/
def execStroke (d : Die) (b : Brd) (f : Frm) (ecc : Bool) (s : State) : Host.Outcome State Fault Refusal :=
  let bk := boardKey d b
  let fk := frameKey d b f
  let y := s.frame fk
  match y.queue with
  | x :: r =>
    -- frames accept no instruction before Ready, nor on a die without power (R68)
    if y.stroke.isSome ∨ !s.awakeFrame fk then .next s
    else .next ((s.setFrame fk { y with queue := r }).beginStroke fk { x with lane := s.laneOf fk x.ctx } (!x.idle))
  | [] =>
    match s.headOf bk (.frame f) with
    | none => .next s
    | some e =>
      let o := strokeOp e.word
      let nb := tnb e.word
      if topc e.word ≠ 1 ∨ s.dead e.ctx then .next s
      else if nb = 0 ∨ o.nrow = 0 ∨ o.nrod = 0 then .next (s.finishEntry bk e)
      else if nb ≤ e.iter then .next s
      else if ecc then .next ((s.eccFault bk e ecc).getD s)
      else
        let q := (e.seq0 + e.iter) % 2 ^ 48
        let dst := s.redirected bk f q
        let loc := fkBoard dst == bk
        let dr := s.strokeDrive bk (if loc then dst else fk) e.word e.iter
        let slot := o.tslot + s.tlyStride bk o.sidx * e.iter
        if !loc then
          let s := (s.setEntry bk { e with iter := e.iter + 1 }).countTurn bk e.ctx dr
          match dr.eref with
          -- nothing is sent where no Eref exists; the frame it names counts the skip (R49, R182)
          | none => .next (((s.bump (fkBase dst + 0x84) 1).addCounts e.ctx.job { skip := 1 }).iterDone bk e.id)
          | some _ =>
            .next (s.sendPkt { (s.pktOf bk e.ctx (s.stepBase bk e.ctx) 2 0) with
              dstNode := keyDie (fkBoard dst), dstBoard := keyBrd (fkBoard dst), addr := slot,
              payload := fwdPayload dst o e.ctx dr (fwdRows o) q })
        else if (s.frame dst).stroke.isSome then .next s
        else
          let s := (s.setEntry bk { e with iter := e.iter + 1 }).countTurn bk e.ctx dr
          let w9 := s.planeW9 dst o.plane
          match dr.eref with
          | none =>
            -- no group of the whole vector holds a code: no Eref, nothing added (R182, R215)
            let s := if !s.laneOf dst e.ctx && s.offDuty dst then s.unavailable dst else s
            let s := (s.bump (fkBase dst + 0x84) 1).addCounts e.ctx.job { skip := 1 }
            .next (s.iterDone bk e.id)
          | some er =>
            let x : Stroke :=
              { ctx := e.ctx, plane := o.plane, shape := o.shape, row0 := o.row0, rod0 := o.rod0, nrod := o.nrod,
                w9 := w9, tslot := slot, q := q, es := dr.es.getD er, eref := er, v := dr.v, parts := [],
                lane := s.laneOf dst e.ctx, tag := e.id, capt := e.capt }
            .next (s.beginStroke dst x dr.es.isSome)

/-- The codes a part's conversions give, a rod not converted giving 0 without a clip (R56, R66). -/
def State.strokeCodes (s : State) (fk : Nat) (x : Stroke) : List (Int × Bool) :=
  let rods := x.converted (s.fChk fk)
  (s.rodCodes fk x).zipIdx.map fun e => if rods.contains e.2 then e.1 else ((0 : Int), false)

/-- The codes trimmed by the bank the stroke's job uses (R57, R121). -/
def State.trimCodes (s : State) (fk : Nat) (x : Stroke) (cs : List (Int × Bool)) : List (Int × Bool) :=
  cs.zipIdx.map fun e => (s.trim fk (b2n x.ctx.bank) x.plane e.2 e.1.1, e.1.2)

/-- The ROD record of a stroke that a CAPT names (R396). -/
def State.recordCodes (s : State) (fk : Nat) (x : Stroke) (cs : List (Int × Bool)) : State :=
  match x.capt with
  | some point => if s.captures x.ctx then s.rodRecord fk x point cs else s
  | none => s

/-- STROKE_END: the codes of the stroke in hand, or its converter fault (R45, R56-R61, R69). -/
def execStrokeEnd (d : Die) (b : Brd) (f : Frm) (conv : Bool) (s : State) : Host.Outcome State Fault Refusal :=
  let fk := frameKey d b f
  match (s.frame fk).stroke with
  | none => .next s
  | some x =>
    if !x.started ∨ x.lane then .next s
    else if conv then
      -- the codes are discarded: a stroke that delivers none is not counted (R69, R70; log entry 101)
      let s := s.frameFault fk 4
      let s := (s.setFrame fk { s.frame fk with diagnose := true }).toLane fk
      .next (s.nextPart partFuel fk)
    else
      let cs := s.strokeCodes fk x
      let s := ((s.take 264).countPerformed fk (cs.map (·.2))).recordCodes fk x cs
      let (s, above) := s.judge_ fk (x.addCodes (s.trimCodes fk x cs))
      .next (if above then s.nextPart partFuel fk else s)

/-- CONFIDENCE_RESTROKE: the part stroked again, its charge drawn again (R47, R58). -/
def execConfidenceRestroke (d : Die) (b : Brd) (f : Frm) (s : State) : Host.Outcome State Fault Refusal :=
  let fk := frameKey d b f
  match (s.frame fk).stroke with
  | none => .next s
  | some x =>
    if !x.pending then .next s
    else
      let s := (s.setStroke fk (some { x with pending := false })).bump (fkBase fk + 0x8C) 1
      let p := x.parts.getD x.part (0, 0)
      let (s, ok) := s.draw d prioJob (strokeCharge (s.fInteg fk) p.2 (shapeRods x.shape)) (.stroke fk)
      .next (if ok then s.startPart fk else s)

/-- A STROKE issued on the frame's board has an iteration to come that goes to this frame, redirections followed (R38,
R288). -/
def State.strokeQueued (s : State) (fk : Nat) : Bool :=
  let bk := fkBoard fk
  (s.board bk).sb.any fun e => topc e.word == 1 &&
    (List.range (tnb e.word - e.iter)).any fun i =>
      s.redirected bk (strokeOp e.word).frame ((e.seq0 + e.iter + i) % 2 ^ 48) == fk

/-- ROW_RAMP: one step of the slew limiter towards v = 0 on a frame with no further work (R38). -/
def execRowRamp (d : Die) (b : Brd) (f : Frm) (s : State) : Host.Outcome State Fault Refusal :=
  let fk := frameKey d b f
  let y := s.frame fk
  if y.stroke.isSome ∨ y.queue ≠ [] ∨ s.strokeQueued fk then .next s
  else
    let step := fld (s.frmLive fk 0x18) 0 8
    let span := s.frmLive fk 0x14
    let move := fun (e : Nat × Int) =>
      let n : Int := step * (if bit span (e.1 / 64) then 16 else 8)
      (e.1, if e.2 < 0 then min 0 (e.2 + n) else max 0 (e.2 - n))
    .next (s.setFrame fk { y with levels := (y.levels.map move).filter fun e => decide (e.2 ≠ 0) })

/-- The board's lane stroke whose part is next: that of the oldest instruction (R211, R233). -/
def State.laneHead (s : State) (bk : Nat) : Option (Nat × Stroke) :=
  let mine := (List.range 34).filterMap fun f =>
    match (s.frame (34 * bk + f)).stroke with
    | some x => if x.lane then some (34 * bk + f, x) else none
    | none => none
  mine.foldl (fun o e => match o with
    | none => some e
    | some p => if e.2.tag < p.2.tag then some e else some p) none

/-- The cells of the part in hand (R233). -/
def Stroke.partUnits (x : Stroke) : Nat := (x.parts.getD x.part (0, 0)).2 * shapeRods x.shape

/-- The exact sum of a rod of the part in hand over an image, by the frame's gain (R234). -/
def State.laneSum (s : State) (fk : Nat) (x : Stroke) (img : PlaneImg) (r : Nat) : Int :=
  let dig := x.driven.map fun e => (e.2, imgDigits img.fmt (imgRow img.fmt img.bytes e.1))
  rneShift (fld (s.reg (fkBase fk + 0x2C)) 0 32 * isum (dig.map fun e => e.1 * e.2.getD r 0)) 32

/-- The part in hand evaluated from its image: counted, each rod's sum clamped to a code and delivered, the next part taken up
(R233, R234). -/
def State.lanePart (s : State) (bk fk : Nat) (x : Stroke) (img : PlaneImg) : State :=
  let s := (s.bump (bkBase bk + 0x40304) 1).bump (bkBase bk + 0x40300) (cdiv x.partUnits 64)
  let c := s.laneSum fk x img
  let ovr := ((List.range x.nrod).filter fun k => decide (32767 < (c (x.rod0 + k)).natAbs)).length
  let x := { x with started := false, counts := { x.counts with ovr := x.counts.ovr + ovr } }
  let s := (s.setStroke fk (some x)).bump (fkBase fk + 0x94) ovr
  let s := s.deliver fk x fun r => clampI (-32767) 32767 (c r)
  let s := match (s.frame fk).stroke with
    | some y => s.setStroke fk (some { y with part := y.part + 1 })
    | none => s
  s.nextPart partFuel fk

/-- EXACT_LANE_PART: the vector unit evaluates the part in hand of a board's lane stroke (R233, R234). -/
def execExactLanePart (d : Die) (b : Brd) (s : State) : Host.Outcome State Fault Refusal :=
  let bk := boardKey d b
  match s.laneHead bk with
  | none => .next s
  | some (fk, x) =>
    match s.imageOf fk x.plane with
    | none => .next (((s.setStroke fk none).boundary fk).jobFault x.ctx.job 0x0504)
    | some img =>
      -- `started` marks tokens granted after a wait
      if x.started then .next (s.lanePart bk fk x img)
      else if (s.die d).draws.any fun w => decide (w.work = .exact bk) then .next s
      else
        match s.draw d prioJob (cdiv x.partUnits 40) (.exact bk) with
        | (s, true) => .next (s.lanePart bk fk x img)
        | (s, false) => .next s

/-- PSEL: a plane selected ahead (R238). -/
def execPsel (d : Die) (b : Brd) (f : Frm) (s : State) : Host.Outcome State Fault Refusal :=
  let bk := boardKey d b
  let fk := frameKey d b f
  match s.headOf bk (.frame f) with
  | none => .next s
  | some e =>
    let y := s.frame fk
    let p := tf e.word 0 22 3
    if topc e.word ≠ 2 ∨ y.stroke.isSome then .next s
    else if y.st = .programming ∨ y.st = .repair ∨ y.st = .spare ∨ y.st = .retired then .next (s.finishEntry bk e)
    else if y.planeValid ∧ y.plane = p then .next (s.finishEntry bk e)
    else
      let (s, bad) := s.selectPlane fk p
      let s := if bad then (let s := s.frameFault fk 3; s.setFrame fk { s.frame fk with diagnose := true }) else s
      .next (s.finishEntry bk e)

end Sys2Proof.Machine
end

