-- ==== Sys2Proof/Machine/Sequencer.lean ====
section
/-! DEFINITION. The sequencer of a board: steps (R210), issue (R211, R212, R240, R241), its own instructions (R239, R396,
R399), and the failure of a job (R242), the watchdog and the refetch (R241, R243). -/

namespace Sys2Proof.Machine

/-- Instruction word `pc` of a board's score memory. -/
def State.instr (s : State) (bk pc : Nat) : Nat := leNat (s.load (bkBase bk + 0x20000 + 16 * pc) 16)

/-- The unit of an instruction (R211). -/
def unitOf (w : Nat) : BUnit :=
  match topc w with
  | 0x01 | 0x02 => .frame (tf w 0 16 6)
  | 0x03 | 0x04 | 0x09 => .tally
  | 0x05 => .drain
  | 0x06 | 0x07 => .vector
  | 0x08 | 0x0A => .lane
  | _ => .seq

/-- No new step or instruction is taken up: the module is not Ready, or enters Drowsy (R244, R435). -/
def State.frozen (s : State) : Bool := s.pstate != 2 || s.pw.entering == some 3

/-! Steps. -/

/-- A step start's context as a STEP packet's flit carries it beside the header (R210; byte places of log entry 27). -/
def ctxFlit (c : StepCtx) : List Byte :=
  leBytes 8 c.seed ++ leBytes 8 c.launch ++ leBytes 8 (nsum ((List.range 4).map fun i => c.valid.getD i 0 * 2 ^ (13 * i))) ++
  leBytes 2 c.epoch ++ leBytes 1 c.ctx ++ leBytes 1 (b2n c.bank + 2 * b2n c.exact + 4 * c.capture) ++ leBytes 4 0

/-- A board holds a step of a job already (R486). -/
def Board.holds (x : Board) (job step : Nat) : Bool :=
  let same := fun c : StepCtx => c.job == job && c.step == step
  x.steps.any same || (match x.cur with | some c => same c | none => false) || x.endPend.any same ||
  x.sb.any fun e => same e.ctx

/-- The context a STEP packet carries (R210). -/
def ctxOfPkt (p : Pkt) : StepCtx :=
  let b := p.payload
  let v := leAt b 16 8
  let m := leAt b 27 1
  { job := p.job, step := p.step, seed := leAt b 0 8, launch := leAt b 8 8,
    valid := (List.range 4).map fun i => nfld v (13 * i) 13, epoch := leAt b 24 2, ctx := leAt b 26 1,
    bank := m % 2 == 1, exact := m / 2 % 2 == 1, capture := m / 4 % 4 }

/-- STEP_START: the context of the STEP packet under way, or the one given, queued on the board (R210); a step start it
already holds is discarded (R486), and so is one of a job that has failed (R242). -/
def execStepStart (d : Die) (b : Brd) (c : StepCtx) (s : State) : Host.Outcome State Fault Refusal :=
  let bk := boardKey d b
  let (s, c) := match s.fb.net.find? fun p => p.type == 7 && pktDst p == bk && p.job == c.job && p.step == c.step with
    | some p => (s.arrive p, ctxOfPkt p)
    | none => (s, c)
  let x := s.board bk
  .next (if x.holds c.job c.step ∨ s.dead c then s else s.setBoard bk { x with steps := x.steps ++ [c] })

/-- A board that takes over a logical board waits for the history copy before its first step (R287). -/
def State.copyWait (s : State) (bk : Nat) : Bool := s.fb.switches.any fun w => w.new == bk && !w.copied

/-- The old board of an overlapped switch begins no step whose base is S or more (R287; log entry 29). -/
def State.pastSwitch (s : State) (bk : Nat) : Bool :=
  s.fb.switches.any fun w => w.old == bk && w.dual && atOrAfter (s.board bk).q w.s

/-- SEQ_BEGIN_STEP: the program of the oldest queued step begins at the stage's entry (R210). -/
def execSeqBeginStep (d : Die) (b : Brd) (s : State) : Host.Outcome State Fault Refusal :=
  let bk := boardKey d b
  let x := s.board bk
  match x.steps with
  | [] => .next s
  | c :: r =>
    if x.halted ∨ x.failed ∨ x.cur.isSome ∨ s.frozen ∨ s.copyWait bk ∨ s.pastSwitch bk then .next s
    else if s.dead c then .next (s.setBoard bk { x with steps := r })
    else .next (s.setBoard bk { x with
      steps := r, cur := some c, pc := fld (s.breg bk 0x40010) 0 10, loops := [], base := x.q,
      bases := mput 0 x.bases (stepKey c) x.q,
      lastDone := x.lastDone ++ [(c.job, c.step, s.now)] })

/-! Issue. -/

/-- An earlier unfinished instruction holds this one back (R212). -/
def State.blocked (s : State) (bk w : Nat) (c : StepCtx) : Bool :=
  let x := s.board bk
  let r := s.ranges bk w c.capture
  decide (16 ≤ x.sb.length) ||
  (tsync w && x.sb.any fun e => e.ctx.job == c.job && e.ctx.step == c.step) ||
  x.sb.any fun e => conflicts w r e.word (s.ranges bk e.word e.ctx.capture)

/-- Strokes an instruction issues (R220). -/
def strokesOf (w : Nat) : Nat :=
  let o := strokeOp w
  if topc w = 1 ∧ o.nrow ≠ 0 ∧ o.nrod ≠ 0 then tnb w else 0

/-- INSTRUCTION_ISSUE (R211, R212, R220, R240, R241). -/
def execInstructionIssue (d : Die) (b : Brd) (s : State) : Host.Outcome State Fault Refusal :=
  let bk := boardKey d b
  let x := s.board bk
  match x.cur with
  | none => .next s
  | some c =>
    let w := s.instr bk x.pc
    if x.failed ∨ s.frozen ∨ s.dead c ∨ (x.sb.any fun e => decide (e.unit = .seq)) then .next s
    else if x.ninstr ≤ x.pc ∨ 1024 ≤ x.pc ∨ s.illegal bk x.pc w then .next (s.boardFault bk 1 x.pc c.job)
    else if s.outside bk (s.ranges bk w c.capture) then .next (s.boardFault bk 2 x.pc c.job)
    else if s.blocked bk w c then .next (s.bump (bkBase bk + 0x40084) 1)
    else
      let k := captKey c (tf w 0 16 6)
      let pt := mget 0 x.captStroke k
      let cap := topc w == 1 && pt != 0
      let e : SbEntry := { id := x.nextId, pc := x.pc, word := w, ctx := c, unit := unitOf w,
                           seq0 := if topc w = 1 then x.q else x.base, capt := if cap then some (pt - 1) else none }
      .next ((s.setBoard bk { x with
        sb := x.sb ++ [e], nextId := x.nextId + 1, pc := x.pc + 1, statPc := x.pc, q := (x.q + strokesOf w) % 2 ^ 48,
        captStroke := if cap then mput 0 x.captStroke k 0 else x.captStroke }).bump (bkBase bk + 0x40080) 1)

/-! SEQ_CTL. -/

/-- The RWS registers of a board put in force (R13, R207). R13 does not say which moment is the safe boundary of a board whose
steps still run. DESIGN CHOICE: all of them at once, at SEQ_CTL.run or a placement switch, though instructions of a step may be
unfinished (log entry 119). -/
def State.commitBoard (s : State) (bk : Nat) : State :=
  let lo := bkBase bk + 0x40000
  let mine := fun (e : Nat × Word) => decide (lo ≤ e.1 ∧ e.1 < lo + 0x7000) &&
    (match regAt e.1 with | some r => r.cls == .rws | none => false)
  ((s.regs.filter mine ++ s.live.filter mine).map (·.1)).foldl (fun s a => s.setLive a (s.reg a)) s

/-- SEQ_CTL.run: Porell starts the stage, and the board's shadowed registers take effect (R13, R207). -/
def execSeqCtlRun (d : Die) (b : Brd) (s : State) : Host.Outcome State Fault Refusal :=
  let bk := boardKey d b
  let s := if (s.board bk).halted then s.commitBoard bk else s
  .next (s.setBoard bk { s.board bk with halted := false, up := true })

/-- SEQ_CTL.halt. -/
def execSeqCtlHalt (d : Die) (b : Brd) (s : State) : Host.Outcome State Fault Refusal :=
  let bk := boardKey d b
  .next (s.setBoard bk { s.board bk with halted := true, up := true })

/-- SEQ_CTL.clear. -/
def execSeqCtlClear (d : Die) (b : Brd) (s : State) : Host.Outcome State Fault Refusal :=
  let bk := boardKey d b
  .next (s.setBoard bk { s.board bk with fault := false, faultCode := 0 })

/-! The sequencer's own instructions. -/

/-- The sequencer's entry, where it holds one of an opcode and its job goes on. -/
def State.seqHead (s : State) (bk op : Nat) : Option SbEntry :=
  match s.headOf bk .seq with
  | some e => if topc e.word = op ∧ !s.dead e.ctx then some e else none
  | none => none

/-- The die's copy of the reckoning counter (R384). -/
def State.rkAt (s : State) (d : Nat) : Nat := (s.ck.rk + mget 0 s.ck.copy d).toNat

/-- The count a WAITRK waits for (R239). -/
def waitTarget (e : SbEntry) : Nat :=
  let v := tf e.word 2 0 32 + tf e.word 3 0 32 * 2 ^ 32
  if tf e.word 0 16 1 = 0 then (e.ctx.launch + v) % 2 ^ 64 else v

/-- WAITRK: a target already passed releases at once. -/
def execWaitrk (d : Die) (b : Brd) (s : State) : Host.Outcome State Fault Refusal :=
  let bk := boardKey d b
  match s.seqHead bk 0x0B with
  | none => .next s
  | some e =>
    if waitTarget e ≤ s.rkAt d then .next (s.finishEntry bk e)
    else .next (s.setBoard bk { s.board bk with waitRk := some (waitTarget e) })

/-- WAITRK_RELEASE: the counter has reached the target (R385). -/
def execWaitrkRelease (d : Die) (b : Brd) (s : State) : Host.Outcome State Fault Refusal :=
  let bk := boardKey d b
  match s.seqHead bk 0x0B, (s.board bk).waitRk with
  | some e, some t =>
    if t ≤ s.rkAt d then .next ((s.setBoard bk { s.board bk with waitRk := none }).finishEntry bk e) else .next s
  | _, _ => .next s

/-- The boards that receive the step starts of a stage: its logical boards where they lie, and the new board of an
overlapped switch beside the old one (R287). -/
def State.stageTargets (s : State) (slot stage : Nat) : List Nat :=
  let x := s.score slot
  match x.file.stages.find? fun h => h.stage == stage with
  | none => []
  | some h => h.boards.flatMap fun lb =>
      (match x.boardOf lb with | some k => [k] | none => []) ++
      (s.fb.switches.filter fun w => w.slot == slot && w.lb == lb && w.dual && decide (w.skip = 0)).map fun w => w.new

/-- Step starts to a logical board of the stage are held for a switch (R287, R288). -/
def State.stageHeld (s : State) (slot stage : Nat) : Bool :=
  match (s.score slot).file.stages.find? fun h => h.stage == stage with
  | none => false
  | some h => s.fb.switches.any fun w => w.slot == slot && h.boards.contains w.lb &&
      -- an overlapped switch holds the first start of S until every record is acknowledged (R287)
      (if w.overlapped then decide (0 < w.acks ∧ w.skip = 0) else !w.copied)

/-- A step start sent to every board of a stage (R210, R270). -/
def State.sendStep (s : State) (slot stage : Nat) (p : Pkt) (c : StepCtx) : State :=
  let dst := s.stageTargets slot stage
  let mine := match (s.score slot).file.stages.find? fun h => h.stage == stage with | some h => h.boards | none => []
  let pass := fun w : Switch => if w.slot = slot ∧ mine.contains w.lb then { w with skip := w.skip - 1 } else w
  dst.foldl (fun s k =>
    s.sendPkt { p with type := 7, vc := 3, dstNode := keyDie k, dstBoard := keyBrd k, job := c.job, step := c.step,
                       -- the ring engine's own start carries the epoch the board serves; one forwarded is unchanged (R210, R239)
                       payload := ctxFlit { c with epoch := if 32 ≤ p.srcNode then s.serveEpoch k else c.epoch } }) { s with fb.switches := s.fb.switches.map pass }

/-- STEP: the running step's start forwarded to the stages named as successors, once the step's writes are acknowledged
(R239). -/
def execStep (d : Die) (b : Brd) (s : State) : Host.Outcome State Fault Refusal :=
  let bk := boardKey d b
  match s.seqHead bk 0x0C with
  | none => .next s
  | some e =>
    let x := s.board bk
    let mine := fun (c : StepCtx) => c.job == e.ctx.job && c.step == e.ctx.step
    -- writes of the step that leave the board: sent and not acknowledged, or still to come from an earlier instruction
    let waits := s.fb.acks.any (fun p => pktSrc p == bk && p.job == e.ctx.job && p.step == e.ctx.step) ||
      x.sb.any fun y => mine y.ctx && decide (y.id < e.id) && ((topc y.word == 5 && tf y.word 0 23 1 == 1) || topc y.word == 0x0A)
    match x.score with
    | none => .next (s.finishEntry bk e)
    | some slot =>
      let next := (s.score slot).file.man.succ.getD x.stage []
      if waits then .next s
      else if s.pw.entering = some 4 then
        -- on the way to Dormant the starts wait for the next wake, and the step runs on to its END (R435)
        let held := next.map fun t => (slot, t, s.pktOf bk e.ctx e.seq0 7 3, e.ctx)
        .next ({ s with fb.later := s.fb.later ++ held }.finishEntry bk e)
      else if next.any (s.stageHeld slot) then .next s
      else .next ((next.foldl (fun s t => s.sendStep slot t (s.pktOf bk e.ctx e.seq0 7 3) e.ctx) s).finishEntry bk e)

/-- The step starts that STEP held on the way to Dormant go out (R435). -/
def State.releaseSteps (s : State) : State :=
  if s.pstate ≠ 2 ∨ s.pw.entering = some 4 then s
  else
    { s with fb.later := [] } |> s.fb.later.foldl fun s e =>
      if s.stageHeld e.1 e.2.1 then { s with fb.later := s.fb.later ++ [e] } else s.sendStep e.1 e.2.1 e.2.2.1 e.2.2.2

/-- Recorded tally slots put back: tag byte and T40 of each (R282, R395). -/
def tallyBytes (x : Board) (t n : Nat) : List Byte :=
  (List.range n).flatMap fun i =>
    leBytes 8 (pattern 64 (mget 0 x.tally (t + i))) ++
    leBytes 1 (match mget none x.tags (t + i) with | some e => pattern 7 e + 128 | none => 0)

/-- Slots from recorded bytes. -/
def Board.fromTally (x : Board) (t : Nat) (bs : List Byte) : Board :=
  (List.range (bs.length / 9)).foldl (fun x i =>
    let tag := leAt bs (9 * i + 8) 1
    { x with tally := mput 0 x.tally (t + i) (signed 40 (leAt bs (9 * i) 8))
             tags := mput none x.tags (t + i) (if tag / 128 = 1 then some (signed 7 tag) else none) }) x

/-- CAPT: codes, slots or bytes recorded in mode 1, substituted in mode 2 (R239, R396, R399, R400). -/
def execCapt (d : Die) (b : Brd) (s : State) : Host.Outcome State Fault Refusal :=
  let bk := boardKey d b
  match s.seqHead bk 0x0D with
  | none => .next s
  | some e =>
    let x := s.board bk
    let c := e.ctx
    let kind := tf e.word 0 16 2
    let f := tf e.word 0 18 6
    let point := tf e.word 1 0 16
    let n := tf e.word 3 0 14
    let t := tf e.word 2 0 11
    let a := 8 * tf e.word 2 0 14
    let (ring, jseq) := s.jobRing c.job
    if kind ≠ 0 ∧ n = 0 then .next (s.finishEntry bk e)
    else if kind = 0 then
      .next ((if s.captures c ∨ c.capture = 2 then
        s.setBoard bk { x with captStroke := mput 0 x.captStroke (captKey c f) (point + 1) } else s).finishEntry bk e)
    else if s.captures c then
      let pay := if kind = 1 then leBytes 2 t ++ leBytes 2 n ++ tallyBytes x t n
        else leBytes 4 a ++ leBytes 4 n ++ s.load (bkBase bk + a) n
      .next ((s.jrec (5 + kind) ring jseq c.step point x.lb pay).finishEntry bk e)
    else if c.capture = 2 then
      match (s.captured (5 + kind) c point x.lb)[mget 0 x.captStroke (captKey c (64 + point))]? with
      | none => .next (s.jobFault c.job 0x0405)
      | some (_, r) =>
        let s := s.captUsed bk c point
        let p := r.drop 32
        if kind = 1 then
          (if leAt p 0 2 ≠ t ∨ leAt p 2 2 ≠ n then .next (s.jobFault c.job 0x0104)
           else .next ((s.setBoard bk ((s.board bk).fromTally t (p.drop 4))).finishEntry bk e))
        else if leAt p 0 4 ≠ a ∨ leAt p 4 4 ≠ n then .next (s.jobFault c.job 0x0104)
        else .next ((s.store (bkBase bk + a) (slice p 8 n)).finishEntry bk e)
    else .next (s.finishEntry bk e)

/-- LOOP: a jump back `count` further times (R239). -/
def execLoop (d : Die) (b : Brd) (s : State) : Host.Outcome State Fault Refusal :=
  let bk := boardKey d b
  match s.seqHead bk 0x0E with
  | none => .next s
  | some e =>
    let x := s.board bk
    let target := tf e.word 0 16 10
    let count := tf e.word 1 0 16
    let x := match x.loops with
      | (pc, n) :: r =>
        if pc = e.pc then
          (if n = 0 then { x with loops := r } else { x with loops := (pc, n - 1) :: r, pc := target })
        else if count = 0 then x else { x with loops := (e.pc, count - 1) :: x.loops, pc := target }
      | [] => if count = 0 then x else { x with loops := [(e.pc, count - 1)], pc := target }
    .next ((s.setBoard bk x).finishEntry bk e)

/-- END: the step's program ends on the board (R210, R239). -/
def execEndProg (d : Die) (b : Brd) (s : State) : Host.Outcome State Fault Refusal :=
  let bk := boardKey d b
  match s.seqHead bk 0x0F with
  | none => .next s
  | some e =>
    let x := s.board bk
    .next ((s.setBoard bk { x with cur := none, endPend := x.endPend ++ [e.ctx] }).finishEntry bk e)

/-! Failures. -/

/-- JOB_FAILURE_CANCEL: a failed job discarded on every board and completed with its status; a replay stops at it (R242,
R400). -/
def execJobFailureCancel (j : Nat) (s : State) : Host.Outcome State Fault Refusal :=
  match s.job j with
  | none => .next s
  | some x =>
    if !x.failedAt ∨ x.st = .completed then .next s
    else
      -- the records that follow are not injected
      let s := if x.replayed then
        s.setRing x.ring { s.ring x.ring with replay := (s.ring x.ring).replay.map fun _ => [] } else s
      .next (s.failJob j x.status)

/-- The oldest unfinished instruction waits for tokens (R241). -/
def State.tokenWait (s : State) (bk : Nat) (e : SbEntry) : Bool :=
  (s.die (keyDie bk)).draws.any fun w =>
    match w.work with
    | .stroke f => (match (s.frame f).stroke with | some x => fkBoard f == bk && x.tag == e.id | none => false)
    | .vector k => k == bk && e.waitTok
    | .exact k => k == bk
    | .program _ | .recount _ => false

/-- A step of a board beyond its watchdog limit: the address it stands at. While its oldest unfinished instruction is a
WAITRK or waits for tokens the time does not count (R241). -/
def State.stepLate (s : State) (bk : Nat) (l : Nat × Nat × Nat) : Option (Nat × Nat) :=
  let x := s.board bk
  let limit := fld (s.reg (bkBase bk + 0x40014)) 0 16
  if limit = 0 ∨ s.now < l.2.2 + limit * 10000 then none
  else
    match x.sb.find? fun e => e.ctx.job == l.1 && e.ctx.step == l.2.1 with
    | some e => if topc e.word = 0x0B ∨ s.tokenWait bk e then none else some (e.pc, l.1)
    | none =>
      match x.cur with
      | some c => if c.job = l.1 ∧ c.step = l.2.1 then some (x.pc, l.1) else none
      | none => none

/-- WATCHDOG_EXPIRY: a step of the board that has finished no instruction for the limit (R241). -/
def execWatchdogExpiry (d : Die) (b : Brd) (s : State) : Host.Outcome State Fault Refusal :=
  let bk := boardKey d b
  match (s.board bk).lastDone.findSome? (s.stepLate bk) with
  | some (pc, job) => .next (s.boardFault bk 7 pc job)
  | none => .next s

/-- Instruction bytes of a program from a score, as a board's score memory holds them. -/
def instrBytes (prog : List Nat) : List Byte := prog.flatMap fun w => leBytes 16 w

/-- SCORE_REFETCH: the next instruction fetched again from the score's copy in DRAM (R243). -/
def execScoreRefetch (d : Die) (b : Brd) (s : State) : Host.Outcome State Fault Refusal :=
  let bk := boardKey d b
  let x := s.board bk
  let s := s.bump (bkBase bk + 0x40088) 1
  match x.score with
  | none => .next s
  | some slot =>
    match (s.score slot).file.boards.find? fun i => i.lb == x.lb with
    | none => .next s
    | some i =>
      match i.prog[x.pc]? with
      | some w => .next (s.store (bkBase bk + 0x20000 + 16 * x.pc) (leBytes 16 w))
      | none => .next s

end Sys2Proof.Machine
end

