-- ==== Sys2Proof/Machine/Tally.lean ====
section
/-! DEFINITION. The tally's and the drain chain's instructions (R218, R219, R222-R226), carries (R278, R282, R284), and
multiplications and additions rounded once. -/

namespace Sys2Proof.Machine

/-- The oldest entry of a unit, where it is of an opcode and its job goes on. -/
def State.unitHead (s : State) (bk : Nat) (u : BUnit) (op : Nat) : Option SbEntry :=
  match s.headOf bk u with
  | some e => if topc e.word = op ∧ !s.dead e.ctx then some e else none
  | none => none

/-! Single operations in FP32. -/

/-- The first NaN among the operands, else the result (R166). -/
def nanFirst (ops : List FV) (r : FV) : FV := (ops.find? FV.isNan).getD r

def fadd (a b : FV) : FV := rneFP32 (FV.add a b)
def fsub (a b : FV) : FV := nanFirst [a, b] (rneFP32 (FV.sub a b))
def fmul (a b : FV) : FV := rneFP32 (FV.mul a b)
/-- a × b + c rounded once. -/
def fma (a b c : FV) : FV := nanFirst [a, b, c] (rneFP32 (FV.add (FV.mul a b) c))

/-- clamp of R156; a NaN passes. -/
def clampF (lo hi x : FV) : FV := if FV.lt x lo then lo else if FV.lt hi x then hi else x

/-- act_t(y) of R225. -/
def State.actEval (s : State) (bk t : Nat) (y : FV) : FV :=
  let cfg := s.actReg bk (0x41100 + 4 * t)
  let xlo := fpDecode .bf16 (fld cfg 0 16)
  let ed := sfld cfg 16 6
  let seg := fun (i : Nat) =>
    let w := s.actReg bk (0x42000 + 1024 * t + 4 * i)
    (fpDecode .bf16 (fld w 0 16), fpDecode .bf16 (fld w 16 16))
  match y with
  | .nan sg => .nan sg
  | .inf sg =>
    let (a, b) := seg (if sg then 0 else 255)
    if a.isZero then b else .inf (xor a.sign sg)
  | .fin .. =>
    let i := clampI 0 255 (((FV.sub y xlo).scale (7 - ed)).floorInt)
    let (a, b) := seg i.toNat
    fma a y b

/-! TCLR and TRD. -/

/-- TCLR: slots to 0, tags empty (R218). -/
def execTclr (d : Die) (b : Brd) (s : State) : Host.Outcome State Fault Refusal :=
  let bk := boardKey d b
  match s.unitHead bk .tally 0x03 with
  | none => .next s
  | some e =>
    let t := tf e.word 0 16 11
    let n := tf e.word 1 0 12
    let out := fun (k : Nat) => decide (k < t ∨ t + n ≤ k)
    let x := s.board bk
    .next ((s.setBoard bk { x with tally := x.tally.filter fun p => out p.1,
                                   tags := x.tags.filter fun p => out p.1 }).finishEntry bk e)

/-- TRD: slots copied to the slate as T40 or INT32 (R218). -/
def execTrd (d : Die) (b : Brd) (s : State) : Host.Outcome State Fault Refusal :=
  let bk := boardKey d b
  match s.unitHead bk .tally 0x04 with
  | none => .next s
  | some e =>
    let t := tf e.word 0 16 11
    let n := tf e.word 1 0 12
    let a := bkBase bk + 8 * tf e.word 1 12 14
    let x := s.board bk
    let v := fun i => if (mget none x.tags (t + i)).isSome then mget 0 x.tally (t + i) else 0
    if tf e.word 0 27 1 = 0 then
      .next ((s.store a ((List.range n).flatMap fun i => leBytes 8 (pattern 64 (v i)))).finishEntry bk e)
    else
      let q := (List.range n).map fun i => satFmt .int32 (v i)
      let s := s.countEv e.ctx.job ((q.map (·.2)).foldl Ev.add {})
      .next ((s.store a (q.flatMap fun p => leBytes 4 (pattern 32 p.1))).finishEntry bk e)

/-! DRAIN. -/

/-- The value of residual element k (R222). -/
def State.resVal (s : State) (bk base : Nat) (f : Fmt) (n k : Nat) : FV :=
  if f.isGroup then ((blockVals (s.slateRd bk base) f 1 n).1).getD k (.fin false 0 0)
  else if f.bits % 8 = 0 ∨ f.bits = 4 then decodeElem f 0 (s.elem bk base f k)
  else
    -- a packed weight format, read as its stream of bits (R83)
    decodeElem f 0 (streamBits (s.load (bkBase bk + base) (cdiv (n * f.bits) 8)) (k * f.bits) f.bits)

/-- Stages 1 to 6 on slot j, element k of an iteration (R222). -/
def State.drainStages (s : State) (bk prog j : Nat) (res : FV) : FV :=
  let c := s.breg bk (0x41000 + 16 * prog)
  let x := s.board bk
  let (t, e) := match mget none x.tags j with
    | some e => (mget 0 x.tally j, e)
    | none => ((0 : Int), (0 : Int))
  let y := rneFP32 ((FV.ofInt t).scale (e + s.sclW bk j - 3))
  let at_ := fun (f : Fmt) (o w : Nat) =>
    let base := 8 * fld (s.breg bk (o + 16 * prog)) 0 14
    fpDecode f (leNat (s.load (bkBase bk + base + w * j) w))
  let y := if bit c 1 then fmul y (at_ .bf16 0x41008 2) else y
  let y := if bit c 2 then fadd y (if fld c 12 5 = 16 then at_ .fp32 0x4100C 4 else at_ .bf16 0x4100C 2) else y
  let y := if bit c 3 then s.actEval bk (fld c 8 3) y else y
  let y := if bit c 4 then fadd y (rneFP32 res) else y
  if bit c 5 then
    let l := s.breg bk (0x41004 + 16 * prog)
    clampF (fpDecode .bf16 (fld l 0 16)) (fpDecode .bf16 (fld l 16 16)) y
  else y

/-- A result written to the board's own slate, or to a multicast set (R223). -/
def State.writeOut (s : State) (bk : Nat) (e : SbEntry) (mset : Option Nat) (byte : Nat) (bs : List Byte) : State :=
  match mset with
  | none => s.store (bkBase bk + byte) bs
  | some m => s.sendAct bk e.ctx e.seq0 m byte bs

/-- The elements of a DRAIN iteration for its stream: runs follow the stream's groups (R223). -/
def State.drainElems (s : State) (bk n sidx iter tslot : Nat) (c : StepCtx) (vs : List FV) : List QElem :=
  let f := s.strF bk n
  vs.mapIdx fun k v =>
    let pos := tslot + k - s.strSlot0 bk n
    let g := s.strGroup bk n pos
    { run := if f.isGroup then pos / grpOf f else g, slot := tslot + k, grp := g, keep := s.keeps bk sidx iter k c, v := v }

/-- One batch iteration of a DRAIN. -/
def State.drainIter (s : State) (bk : Nat) (e : SbEntry) (i : Nat) : State :=
  let w := e.word
  let prog := tf w 0 16 3
  let n := tf w 0 19 4
  let sidx := tf w 1 23 4
  let nslot := tf w 1 11 12
  let t := tf w 1 0 11 + s.tlyStride bk sidx * i
  let c := s.breg bk (0x41000 + 16 * prog)
  let ra := 8 * tf w 3 0 14 + 8 * s.inStride bk sidx * i
  let rf := (Fmt.ofCode (fld c 17 5)).getD .fp32
  let ys := (List.range nslot).map fun k => s.drainStages bk prog (t + k) (s.resVal bk ra rf nslot k)
  let mset := if tf w 0 23 1 = 1 then some (tf w 0 24 8) else none
  let off := 8 * s.outStride bk sidx * i
  let es := s.drainElems bk n sidx i t e.ctx ys
  let conv := bit c 6
  if conv then
    let (s, q) := s.quantise bk n e.ctx (bit c 11) (holdsAll .fp32 (s.strF bk n)) (bit c 7) true es
    let s := s.writeOut bk e mset (8 * tf w 2 0 14 + off) (packCodes (s.strF bk n) q.codes)
    if s.strGran bk n = 0 ∧ !(s.strF bk n).isGroup then s
    else s.writeOut bk e mset (8 * tf w 2 14 14 + off) (q.exps.flatMap (leBytes 1))
  else
    let s := if bit c 7 then (s.quantise bk n e.ctx false false true false es).1 else s
    s.writeOut bk e mset (8 * tf w 2 0 14 + off) (ys.flatMap fun y => leBytes 4 (convert .fp32 true y).1)

/-- A residual in T40 that is no T40 (R162). -/
def State.drainBad (s : State) (bk w : Nat) : Bool :=
  let c := s.breg bk (0x41000 + 16 * tf w 0 16 3)
  let sidx := tf w 1 23 4
  bit c 4 && fld c 17 5 == 8 && (List.range (tnb w)).any fun i => (List.range (tf w 1 11 12)).any fun k =>
    badT40 (s.elem bk (8 * tf w 3 0 14 + 8 * s.inStride bk sidx * i) .t40 k)

/-- DRAIN (R222-R224): it waits while an earlier step of its context has its record update to come (R198). -/
def execDrain (d : Die) (b : Brd) (ecc : Bool) (s : State) : Host.Outcome State Fault Refusal :=
  let bk := boardKey d b
  match s.unitHead bk .drain 0x05 with
  | none => .next s
  | some e =>
    let c := s.breg bk (0x41000 + 16 * tf e.word 0 16 3)
    if tnb e.word = 0 ∨ tf e.word 1 11 12 = 0 then .next (s.finishEntry bk e)
    else if (bit c 6 || bit c 7) && s.strBusy bk (tf e.word 0 19 4) e.ctx then .next s
    else if (s.eccFault bk e ecc).isSome then .next ((s.eccFault bk e ecc).getD s)
    else if s.drainBad bk e.word then .next (s.boardFault bk 3 e.pc e.ctx.job)
    else .next (((List.range (tnb e.word)).foldl (fun s i => s.drainIter bk e i) s).finishEntry bk e)

/-! Carries. -/

/-- Where a board's packets for another board go while its logical board moves (R287): the board itself or the one it
moved to, and both while an overlapped switch routes to both. -/
def State.carryTargets (s : State) (slot k : Nat) : List Nat :=
  let now := s.nowBoard slot k
  now :: (s.fb.switches.filter fun w => w.old == now && w.dual).map fun w => w.new

/-- A tag byte of a carry (R282). -/
def tagByte (t : Option Int) : Nat := match t with | some e => pattern 7 e + 128 | none => 0

/-- The payload of a carry of n slots from slot t (R282). -/
def carryBytes (x : Board) (t n : Nat) : List Byte :=
  padTo 0 32 ((List.range n).flatMap fun i => leBytes 1 (tagByte (mget none x.tags (t + i)))) ++
  (List.range n).flatMap fun i => leBytes 8 (pattern 64 (mget 0 x.tally (t + i)))

/-- CSEND (R219, R278, R282), its carries stamped with the step's placement epoch. -/
def execCsend (d : Die) (b : Brd) (s : State) : Host.Outcome State Fault Refusal :=
  let bk := boardKey d b
  match s.unitHead bk .lane 0x08 with
  | none => .next s
  | some e =>
    let x := s.board bk
    let t := tf e.word 0 16 11
    let n := tf e.word 1 0 12
    let k := cdiv n 32
    let step := (e.ctx.job, e.ctx.step)
    let sent := if x.sentStep = step then x.carriesSent else 0
    if (s.stageOf bk).carryOut < sent + k then .next (s.jobFault e.ctx.job 0x030A)
    else
      let s := s.setBoard bk { x with carriesSent := sent + k, sentStep := step }
      let dst := boardKey (tf e.word 1 12 5) (tf e.word 1 17 8)
      let send := fun (s : State) (i : Nat) =>
        let m := min 32 (n - 32 * i)
        (s.carryTargets (x.score.getD 64) dst).foldl (fun s q =>
          s.sendPkt { (s.pktOf bk e.ctx e.seq0 0 0) with
            epoch := e.ctx.epoch, dstNode := keyDie q, dstBoard := keyBrd q, ordinal := sent + i, addr := tf e.word 2 0 11 + 32 * i,
            payload := carryBytes x (t + 32 * i) m }) s
      .next (((List.range k).foldl send s).finishEntry bk e)

/-- An accepted carry added to the tally (R214, R221). -/
def State.addCarry (s : State) (bk : Nat) (c : Carry) (pc : Nat) : State :=
  let vs := (c.tags.zip c.vals).map fun p =>
    (if p.1 / 128 % 2 = 1 then some (signed 7 p.1) else none, signed 40 p.2)
  -- a value that is no T40 raises the fault of an overflow and is not added
  match (c.vals.zipIdx.find? fun p => badT40 p.1) with
  | some (_, i) => (s.setRegN (bkBase bk + 0x40200) (c.slot + i)).boardFault bk 3 pc c.job
  | none => s.tallyAdd bk c.slot vs pc c.job

/-- CRECV: carries of the step that lie in its range are added; it finishes when ncarry have been (R219, R284). One of no
slots does nothing (R11). -/
def execCrecv (d : Die) (b : Brd) (s : State) : Host.Outcome State Fault Refusal :=
  let bk := boardKey d b
  match s.unitHead bk .tally 0x09 with
  | none => .next s
  | some e =>
    let t := tf e.word 0 16 11
    let n := tf e.word 1 0 12
    let ncarry := tf e.word 1 12 12
    let x := s.board bk
    let mine := fun c : Carry => c.job == e.ctx.job && c.step == e.ctx.step &&
      decide (t ≤ c.slot ∧ c.slot + c.vals.length ≤ t + n)
    let cs := if n = 0 then [] else (x.arrived.filter mine).take (ncarry - e.done)
    let taken := fun c : Carry => cs.any fun k => k.job == c.job && k.step == c.step && k.lsrc == c.lsrc && k.ord == c.ord
    let s := s.setBoard bk { x with arrived := x.arrived.filter fun c => !taken c }
    let s := cs.foldl (fun s c => s.addCarry bk c e.pc) s
    let e := { e with done := e.done + cs.length }
    .next (if n = 0 ∨ ncarry ≤ e.done then s.finishEntry bk e else s.setEntry bk e)

end Sys2Proof.Machine
end

