-- ==== Sys2Proof/Machine/Vector.lean ====
section
/-! DEFINITION. The vector unit: VMM (R229), VOP (R230), their fixed reduction order (R228), rates, tokens and layouts
(R227, R231, R551, R552). -/

namespace Sys2Proof.Machine

/-! Rates. -/

/-- The width a format counts as (R227): group-scaled ones the width of their accumulation. -/
def fmtWidth (f : Fmt) : Nat := if f.isGroup then 32 else if f.bits ≤ 8 then 8 else if f.bits ≤ 16 then 16 else 32

/-- Operations per pulse at a width. -/
def vecRate (w : Nat) : Nat := if w = 8 then 64 else if w = 16 then 32 else 16

/-- Tokens of a number of units at a width (R231). -/
def vecTokens (units w : Nat) : Nat := cdiv (units * (if w = 8 then 25 else if w = 16 then 50 else 100)) 1000

/-- Token units per element of a function (R230). -/
def vopUnits (f : Nat) : Nat :=
  match f with
  | 0x07 | 0x08 | 0x09 | 0x14 | 0x16 => 4
  | 0x0B | 0x17 => 2
  | 0x13 | 0x15 => 6
  | 0x18 => 8
  | _ => 1

/-- Passes of a function: elementwise, table, and per-row roots (R552). -/
def vopPasses (f : Nat) : Nat × Nat × Nat :=
  match f with
  | 0x07 | 0x08 | 0x09 => (0, 1, 0)
  | 0x0B | 0x16 | 0x17 => (2, 0, 0)
  | 0x13 => (3, 1, 1)
  | 0x14 => (3, 0, 1)
  | 0x15 => (5, 0, 1)
  | 0x18 => (8, 0, 0)
  | _ => (1, 0, 0)

/-! Reductions (R228). -/

/-- The sum of a list of rounded terms in the order of R228; a NaN operand gives the first one's NaN (R166). -/
def fsum (ps : List FV) : FV :=
  let acc := (List.range 16).map fun q =>
    (ps.zipIdx.filter fun p => p.2 % 16 == q).foldl (fun a p => fadd a p.1) (.fin false 0 0)
  let pair := fun (l : List FV) => (List.range (l.length / 2)).map fun i => fadd (l.getD (2 * i) (.fin false 0 0)) (l.getD (2 * i + 1) (.fin false 0 0))
  nanFirst ps ((pair (pair (pair (pair acc)))).getD 0 (.fin false 0 0))

/-- The larger of two values; a NaN wins (R230). -/
def fmax (a b : FV) : FV := nanFirst [a, b] (if FV.lt a b then b else a)
def fmin (a b : FV) : FV := nanFirst [a, b] (if FV.lt b a then b else a)

/-- The larger of two values of which either may be missing. -/
def omax : Option FV → Option FV → Option FV
  | none, b => b
  | a, none => a
  | some a, some b => some (fmax a b)

/-- The largest element of a row, in the order of R228. -/
def rowMax (l : List FV) : FV :=
  let acc := (List.range 16).map fun q => (l.zipIdx.filter fun p => p.2 % 16 == q).foldl (fun a p => omax a (some p.1)) none
  let pair := fun (l : List (Option FV)) => (List.range (l.length / 2)).map fun i =>
    omax (l.getD (2 * i) none) (l.getD (2 * i + 1) none)
  nanFirst l (((pair (pair (pair (pair acc)))).getD 0 none).getD (.fin false 0 0))

/-- A product inside a reduction: exact, or rounded where an operand is FP32 (R228). -/
def prod (exact : Bool) (a b : FV) : FV := if exact then FV.mul a b else fmul a b

/-- An integer sum saturated to INT32, one event at most (R228). -/
def intSum (vs : List FV) : FV × Ev :=
  let (c, ev) := satFmt .int32 (isum (vs.map FV.rneInt))
  (FV.ofInt c, ev)

/-! VOP rows. -/

/-- What a row's function reads beside its operands. -/
structure RowIn where
  f : Nat
  n : Nat
  int : Bool
  exact : Bool
  a : List FV
  b : List FV
  act : Nat → FV → FV
  imm : Nat
  eps : FV
  gamma : List FV
  beta : List FV
  cs : List (FV × FV)
  u : FV

/-- Integer arithmetic saturated element by element (R163, R230). -/
def intOp (op : Int → Int → Int) (a b : List FV) : List FV × Ev :=
  let r := (a.zip b).map fun p => satFmt .int32 (op p.1.rneInt p.2.rneInt)
  (r.map fun p => FV.ofInt p.1, (r.map (·.2)).foldl Ev.add {})

/-- The index SAMPLE answers (R230). -/
def sampleIndex (t : FV) (a : List FV) : Nat :=
  let go := a.zipIdx.foldl (fun (acc : FV × Option Nat) p =>
    let c := fadd acc.1 p.1
    (c, match acc.2 with
      | some i => some i
      | none => if FV.lt t c then some p.2 else none)) (.fin false 0 0, none)
  match go.2 with
  | some i => i
  | none => ((a.zipIdx.filter fun p => FV.lt (.fin false 0 0) p.1).map (·.2)).foldl max 0

/-- The result elements of a row and the events of its integer arithmetic (R230). -/
def vopRow (x : RowIn) : List FV × Ev :=
  let z : FV := .fin false 0 0
  match x.f with
  | 0x01 => if x.int then intOp (· + ·) x.a x.b else (List.zipWith fadd x.a x.b, {})
  | 0x02 => if x.int then intOp (· - ·) x.a x.b else (List.zipWith fsub x.a x.b, {})
  | 0x03 => if x.int then intOp (· * ·) x.a x.b else (List.zipWith fmul x.a x.b, {})
  | 0x04 => (List.zipWith fmax x.a x.b, {})
  | 0x05 => (List.zipWith fmin x.a x.b, {})
  | 0x06 => (x.a.map FV.abs, {})
  | 0x07 => (x.a.map (x.act x.imm), {})
  | 0x08 => (x.a.map FV.recip, {})
  | 0x09 => (x.a.map FV.rsqrt, {})
  | 0x10 => if x.int then (let r := intSum x.a; ([r.1], r.2)) else ([fsum x.a], {})
  | 0x11 => ([rowMax x.a], {})
  | 0x12 =>
    let i := match x.a.findIdx? FV.isNan with
      | some i => i
      | none => (x.a.zipIdx.foldl (fun (best : Nat × FV) p => if FV.lt best.2 p.1 then (p.2, p.1) else best)
          (0, x.a.headD z)).1
    ([FV.ofInt i], {})
  | 0x13 =>
    let m := rowMax x.a
    let e := x.a.map fun v => x.act 4 (fsub v m)
    let r := FV.recip (fsum e)
    (e.map fun v => fmul v r, {})
  | 0x14 =>
    let r := FV.rsqrt (fadd (FV.divN (fsum (x.a.map fun v => prod x.exact v v)) x.n) x.eps)
    ((x.a.zip x.gamma).map fun p => fmul (fmul p.1 r) p.2, {})
  | 0x15 =>
    let mu := FV.divN (fsum x.a) x.n
    let dv := x.a.map fun v => fsub v mu
    let r := FV.rsqrt (fadd (FV.divN (fsum (dv.map fun v => fmul v v)) x.n) x.eps)
    ((dv.zip (x.gamma.zip x.beta)).map fun p => fadd (fmul (fmul p.1 r) p.2.1) p.2.2, {})
  | 0x16 =>
    ((List.range x.n).map fun i =>
      let p := i / 2
      if x.n % 2 = 1 ∧ i = x.n - 1 then x.a.getD i z
      else
        let (c, sn) := x.cs.getD p (z, z)
        let a0 := x.a.getD (2 * p) z
        let a1 := x.a.getD (2 * p + 1) z
        if i % 2 = 0 then nanFirst [a0, c, a1, sn] (rneFP32 (FV.add (FV.mul a0 c) (FV.mul a1 sn).neg))
        else nanFirst [a0, sn, a1, c] (rneFP32 (FV.add (FV.mul a0 sn) (FV.mul a1 c))), {})
  | 0x17 => ([FV.ofInt (sampleIndex (fmul x.u (fsum x.a)) x.a)], {})
  | _ => (x.a, {})

/-! Results through a stream. -/

/-- The elements of a vector result of rows of `len`, at positions from the stream's first slot on (log entry 28). -/
def State.vecElems (s : State) (bk n sidx nbrow len : Nat) (c : StepCtx) (rows : List (List FV)) : List QElem :=
  let f := s.strF bk n
  let g := granSize (s.strGran bk n)
  let whole := s.strWhole bk n
  let per := if g = 0 then 1 else cdiv len g
  let top := s.ngroups bk n - 1
  rows.zipIdx.flatMap fun r => r.1.mapIdx fun k v =>
    let pos := r.2 * len + k
    let grp := if whole then 0 else min (if g = 1 then pos else r.2 * per + k / (max g 1)) top
    { run := if f.isGroup then r.2 * 65536 + k / grpOf f else if whole then 0 else r.2 * 65536 + k / (max g 1),
      slot := s.strSlot0 bk n + min pos (s.strN bk n - 1), grp := grp,
      keep := s.keeps bk sidx (r.2 / nbrow) k c, v := v }

/-- The exponent bytes of each row from the runs of a conversion: a whole tensor's one byte repeats (R551). -/
def rowExps (whole group : Bool) (per : Nat) (rows : Nat) (exps : List Nat) : List (List Nat) :=
  if whole && !group then List.replicate rows (exps.take 1)
  else (List.range rows).map fun r => slice exps (r * per) per

/-! Tokens. -/

/-- Tokens of the oldest vector instruction: held, taken, or waited for (R231, R438). -/
def State.vecPay (s : State) (bk : Nat) (e : SbEntry) (need : Nat) : State × Bool :=
  if e.paid then (s, true)
  else if e.waitTok then (s, false)
  else
    match s.draw (keyDie bk) prioJob need (.vector bk) with
    | (s, true) => (s.setEntry bk { e with paid := true }, true)
    | (s, false) => (s.setEntry bk { e with waitTok := true }, false)

/-! VMM. -/

/-- A byte reader of bytes read from a pool buffer. -/
def listRd (bs : List Byte) : Nat → Nat → Nat := fun o n => leAt bs o n

/-- The values of the operand B of a VMM, and its events; none where the pool refuses the access. -/
def State.vmmB (s : State) (bk w : Nat) (f : Fmt) (k n : Nat) : Option (List FV × Ev) :=
  let bt := tf w 1 21 1 = 1
  let (rows, len) := if bt then (n, k) else (k, n)
  if tf w 0 30 1 = 0 then some (blockVals (s.slateRd bk (8 * tf w 3 0 14)) f rows len)
  else
    let off := 64 * tf w 3 0 19
    (s.poolAddr bk (tf w 3 19 1) off (blockBytes f rows len)).map fun a =>
      blockVals (listRd (s.load a (blockBytes f rows len))) f rows len

/-- A pool operand B holds an uncorrectable block (R305). -/
def State.vmmPoison (s : State) (bk w : Nat) (f : Fmt) (k n : Nat) : Bool :=
  tf w 0 30 1 == 1 &&
  let (rows, len) := if tf w 1 21 1 = 1 then (n, k) else (k, n)
  match s.poolAddr bk (tf w 3 19 1) (64 * tf w 3 0 19) (blockBytes f rows len) with
  | some a => s.memBad a (blockBytes f rows len)
  | none => false

/-- A pool operand B in T40 holds a value that is no T40 (R162). -/
def State.vmmBad (s : State) (bk w : Nat) (f : Fmt) (n : Nat) : Bool :=
  tf w 0 30 1 == 1 && f == .t40 &&
  match s.poolAddr bk (tf w 3 19 1) (64 * tf w 3 0 19) (codeBytes f n) with
  | some a => (List.range n).any fun k => badT40 (leNat (s.load (a + 8 * k) 8))
  | none => false

/-- A block of T40 operands holds a value that is no T40 (R162). -/
def State.t40Bad (s : State) (bk base : Nat) (f : Fmt) (n : Nat) : Bool :=
  f == .t40 && (List.range n).any fun k => badT40 (s.elem bk base .t40 k)

/-- The first `cols` columns of the rows of C of one batch iteration, whose tile has n (R228, R229, R256). -/
def vmmRows (m n k cols : Nat) (int exact bt : Bool) (a b : List FV) : List (List FV × Ev) :=
  let z : FV := .fin false 0 0
  (List.range m).map fun i =>
    let row := slice a (i * k) k
    let cs := (List.range cols).map fun j =>
      let col := (List.range k).map fun q => if bt then b.getD (j * k + q) z else b.getD (q * n + j) z
      if int then intSum (List.zipWith FV.mul row col)
      else (fsum (List.zipWith (prod exact) row col), {})
    (cs.map (·.1), (cs.map (·.2)).foldl Ev.add {})

/-- A VMM computed and stored: the blocks of A times B, converted to the stream, the rows' codes and exponents written where the
tensor's extent reaches (R222, R223, R231, R256, R259). -/
def State.vmmRun (s : State) (bk : Nat) (e : SbEntry) (bv : List FV) (bev : Ev) : State :=
  let w := e.word
  let (m, n) := vmmTile (tf w 0 16 2)
  let k := tf w 1 0 13
  let nb := tnb w
  let st := tf w 1 13 4
  let sidx := tf w 1 17 4
  let fa := (Fmt.ofCode (tf w 0 18 5)).getD .fp32
  let fb := (Fmt.ofCode (tf w 0 23 5)).getD .fp32
  let wd := max (fmtWidth fa) (fmtWidth fb)
  let bt := tf w 1 21 1 == 1
  let aa := fun i => 8 * tf w 2 0 14 + 8 * s.inStride bk sidx * i
  let cols := s.vmmCols bk st n
  let as := (List.range nb).map fun i => blockVals (s.slateRd bk (aa i)) fa m k
  let rows := as.flatMap fun a => vmmRows m n k cols (tf w 0 28 1 == 0) (fa != .fp32 && fb != .fp32) bt a.1 bv
  let ev := ((as.map (·.2)) ++ rows.map (·.2)).foldl Ev.add bev
  let s := s.countEv e.ctx.job ev
  let s := s.bump (bkBase bk + 0x40300) (nb * (cdiv (m * n * k) (vecRate wd) + 12))
  let (s, q) := s.quantise bk st e.ctx (tf w 0 29 1 == 1) (holdsAll .fp32 (s.strF bk st)) true true
    (s.vecElems bk st sidx m n e.ctx (rows.map (·.1)))
  -- the exponent bytes of a row stand at the pitch of the tile's row; what lies beyond the extent is not written
  let pitch := s.perRow bk st n
  let per := s.perRow bk st cols
  let fo := s.strF bk st
  let ex := rowExps (s.strWhole bk st) fo.isGroup per (m * nb) q.exps
  let off := fun r => 8 * s.outStride bk sidx * (r / m)
  -- what is missing of a row's last group is stored as code 0 (R174)
  let whole := fun (cs : List Nat) => if fo.isGroup then padTo 0 (vmmStored fo cols n) cs else cs
  (List.range (m * nb)).foldl (fun s r =>
    let s := s.store (bkBase bk + 8 * tf w 2 14 14 + off r + codeBytes fo (r % m * n))
      (packCodes fo (whole (slice q.codes (r * cols) cols)))
    s.store (bkBase bk + 32 * tf w 3 20 12 + off r + r % m * pitch)
      (((ex.getD r []).take per).flatMap (leBytes 1))) s

/-- A T40 operand of a VMM holds a value that is no T40 (R162). -/
def State.vmmNoT40 (s : State) (bk w : Nat) : Bool :=
  let (m, n) := vmmTile (tf w 0 16 2)
  let k := tf w 1 0 13
  let fb := (Fmt.ofCode (tf w 0 23 5)).getD .fp32
  ((List.range (tnb w)).any fun i =>
    s.t40Bad bk (8 * tf w 2 0 14 + 8 * s.inStride bk (tf w 1 17 4) * i) ((Fmt.ofCode (tf w 0 18 5)).getD .fp32) (m * k)) ||
  (tf w 0 30 1 == 0 && s.t40Bad bk (8 * tf w 3 0 14) fb (k * n)) || s.vmmBad bk w fb (k * n)

/-- VMM (R229, R231). -/
def execVmm (d : Die) (b : Brd) (ecc : Bool) (s : State) : Host.Outcome State Fault Refusal :=
  let bk := boardKey d b
  match s.unitHead bk .vector 0x06 with
  | none => .next s
  | some e =>
    let w := e.word
    let (m, n) := vmmTile (tf w 0 16 2)
    let k := tf w 1 0 13
    let nb := tnb w
    let st := tf w 1 13 4
    let fb := (Fmt.ofCode (tf w 0 23 5)).getD .fp32
    let wd := max (fmtWidth ((Fmt.ofCode (tf w 0 18 5)).getD .fp32)) (fmtWidth fb)
    if k = 0 ∨ nb = 0 then .next (s.finishEntry bk e)
    else if s.strBusy bk st e.ctx then .next s
    else if (s.eccFault bk e ecc).isSome then .next ((s.eccFault bk e ecc).getD s)
    else
      match s.vecPay bk e (vecTokens (m * n * k) wd) with
      | (s, false) => .next s
      | (s, true) =>
        if s.vmmNoT40 bk w then .next (s.boardFault bk 3 e.pc e.ctx.job)
        else if s.vmmPoison bk w fb k n then .next (s.jobFault e.ctx.job 0x0503)
        else
          match s.vmmB bk w fb k n with
          | none => .next (s.jobFault e.ctx.job 0x0306)
          | some (bv, bev) => .next ((s.vmmRun bk e bv bev).finishEntry bk e)

/-! VOP. -/

/-- The uniform number of SAMPLE (R388). -/
def State.sampleU (s : State) (bk : Nat) (e : SbEntry) (iter : Nat) : FV :=
  let c2 := (s.board bk).lb % 65536 + e.pc % 65536 * 65536
  let r := philox ((tnb e.word * iter) % 2 ^ 32, e.ctx.step % 2 ^ 32, c2, 0) e.ctx.seed
  .fin false (r.1 / 256) (-24)

/-- The inputs of a VOP row (R230, R551). -/
def State.vopIn (s : State) (bk : Nat) (e : SbEntry) (i : Nat) : RowIn × Ev :=
  let w := e.word
  let n := tf w 1 0 16
  let f := tf w 0 21 8
  let sidx := tf w 1 20 4
  let fin := (Fmt.ofCode (tf w 0 16 5)).getD .fp32
  let off := 8 * s.inStride bk sidx * i
  let a := blockVals (s.slateRd bk (8 * tf w 2 0 14 + off)) fin 1 n
  let bv := if vopBinary f then blockVals (s.slateRd bk (8 * tf w 2 14 14 + off)) fin 1 n else ([], {})
  let rd := s.slateRd bk (8 * tf w 3 14 14)
  let f32 := fun o => fpDecode .fp32 (rd o 4)
  let norm := f == 0x14 || f == 0x15
  ({ f := f, n := n, int := intLike fin, exact := fin != .fp32, a := a.1, b := bv.1, act := s.actEval bk, imm := tf w 1 24 8,
     eps := if norm then f32 0 else .fin false 0 0,
     gamma := if norm then (List.range n).map fun k => f32 (4 + 4 * k) else [],
     beta := if f = 0x15 then (List.range n).map fun k => f32 (4 + 4 * n + 4 * k) else [],
     cs := if f = 0x16 then (List.range (n / 2)).map fun k => (fpDecode .bf16 (rd (4 * k) 2), fpDecode .bf16 (rd (4 * k + 2) 2)) else [],
     u := s.sampleU bk e i }, a.2.add bv.2)

/-- The elements of a row in the row's own order of groups for GENC (R173, R174): codes padded to whole groups, exponents
and events. -/
def gencRow (f : Fmt) (vs : List FV) : List Nat × List Nat × Ev :=
  let g := grpOf f
  let gs := (List.range (cdiv vs.length g)).map fun k => encodeGroup f (slice vs (k * g) g)
  (gs.flatMap fun r => padTo 0 g r.2.1, gs.map fun r => expByte r.1, (gs.map fun r => r.2.2).foldl Ev.add {})

/-- GENC: codes at d, exponents at x, not through the stream. -/
def State.genc (s : State) (bk : Nat) (e : SbEntry) (rows : List (List FV)) : State :=
  let w := e.word
  let f := if tf w 1 24 1 = 1 then Fmt.s4g64 else Fmt.s8g32
  let sidx := tf w 1 20 4
  rows.zipIdx.foldl (fun s r =>
    let (cs, es, ev) := gencRow f r.1
    let off := 8 * s.outStride bk sidx * r.2
    let s := s.countEv e.ctx.job ev
    (s.store (bkBase bk + 8 * tf w 3 0 14 + off) (packCodes f cs)).store (bkBase bk + 8 * tf w 3 14 14 + off)
      (es.flatMap (leBytes 1))) s

/-- The free FP32 values of an OPTU row: the spec gives the optimiser's formula no definition (R205, R206; log entry 35). -/
def State.optuVals (s : State) (k n : Nat) : List FV :=
  (List.range n).map fun i => fpDecode .fp32 (Config.freeNat (s.fresh + k * n + i) % 2 ^ 32)

/-- Moments as OPTU stores them: S8G32 under exponents of their own values (R173, R205), and the events. -/
def momentBytes (vs : List FV) : List Byte × Ev :=
  let (cs, es, ev) := gencRow .s8g32 vs
  (padTo 0 (optuB vs.length / 2) (padTo 0 (8 * cdiv vs.length 8) (packCodes .s8g32 (cs.take vs.length)) ++
    es.flatMap (leBytes 1)), ev)

/-- An OPTU row: the new weights, computed in FP32, are its results and go to the masters at x as BF16; both new moments go to
b (R205, R206; the layout is log entry 35). -/
def State.optuRow (s : State) (bk : Nat) (e : SbEntry) (i n : Nat) : State × List FV :=
  let w := s.optuVals 0 n
  -- the masters take the infinities the instruction's field says (R168)
  let conv := convert .bf16 (tf e.word 0 29 1 == 1)
  let m1 := momentBytes (s.optuVals 1 n)
  let m2 := momentBytes (s.optuVals 2 n)
  let b := bkBase bk + 8 * tf e.word 2 14 14 + 8 * s.inStride bk (tf e.word 1 20 4) * i
  let s := (s.take (3 * n)).countEv e.ctx.job ((m1.2.add m2.2).add ((w.map fun v => (conv v).2).foldl Ev.add {}))
  let s := s.store b (m1.1 ++ m2.1)
  (s.store (bkBase bk + 8 * tf e.word 3 14 14) (w.flatMap fun v => leBytes 2 (conv v).1), w)

/-- A T40 operand of a VOP holds a value that is no T40 (R162). -/
def State.vopNoT40 (s : State) (bk w : Nat) : Bool :=
  let off := fun i => 8 * s.inStride bk (tf w 1 20 4) * i
  let fin := (Fmt.ofCode (tf w 0 16 5)).getD .fp32
  (List.range (tnb w)).any fun i =>
    s.t40Bad bk (8 * tf w 2 0 14 + off i) fin (tf w 1 0 16) ||
    (vopBinary (tf w 0 21 8) && s.t40Bad bk (8 * tf w 2 14 14 + off i) fin (tf w 1 0 16))

/-- A VOP computed and stored: its function of every row, or the codes and exponents of GENC (R223, R224, R230, R231, R551). -/
def State.vopRun (s : State) (bk : Nat) (e : SbEntry) : State :=
  let w := e.word
  let n := tf w 1 0 16
  let nb := tnb w
  let f := tf w 0 21 8
  let st := tf w 1 16 4
  let sidx := tf w 1 20 4
  let fin := (Fmt.ofCode (tf w 0 16 5)).getD .fp32
  let ins := (List.range nb).map fun i => s.vopIn bk e i
  let fo := if f = 0x0B then Fmt.s8g32 else s.strF bk st
  let rt := vecRate (max (fmtWidth fin) (fmtWidth fo))
  let (pe, pt, pr) := vopPasses f
  let s := s.bump (bkBase bk + 0x40300) (12 + pe * cdiv (n * nb) rt + pt * cdiv (n * nb) 16 + pr * cdiv nb 16)
  let s := s.countEv e.ctx.job ((ins.map (·.2)).foldl Ev.add {})
  if f = 0x0B then s.genc bk e (ins.map fun r => r.1.a)
  else
    let len := vopOut f n
    let (s, rows) :=
      if f = 0x18 then
        (List.range nb).foldl (fun (p : State × List (List FV)) i =>
          let r := p.1.optuRow bk e i n
          (r.1, p.2 ++ [r.2])) (s, [])
      else
        let rs := ins.map fun r => vopRow r.1
        (s.countEv e.ctx.job ((rs.map (·.2)).foldl Ev.add {}), rs.map (·.1))
    let wide := if f = 0x0A then holdsAll fin fo else holdsAll .fp32 fo
    let (s, q) := s.quantise bk st e.ctx (tf w 0 29 1 == 1) wide true true (s.vecElems bk st sidx 1 len e.ctx rows)
    let per := s.perRow bk st len
    let ex := rowExps (s.strWhole bk st) (s.strF bk st).isGroup per nb q.exps
    -- the missing elements of a partial group are stored as code 0 as far as the block leaves them room (R174; log
    -- entry 107)
    let whole := fun (cs : List Nat) =>
      if !fo.isGroup then cs
      else if f = 0x0A then padTo 0 (cdiv len (grpOf fo) * grpOf fo) cs else padTo 0 (cdiv (codeBytes fo len) 8 * 64 / fo.bits) cs
    (List.range nb).foldl (fun s i =>
      let off := 8 * s.outStride bk sidx * i
      let da := 8 * tf w 3 0 14 + off
      let s := s.store (bkBase bk + da) (packCodes fo (whole (slice q.codes (i * len) len)))
      let xa := if f = 0x0A then 8 * tf w 3 14 14 + off else da + cdiv (codeBytes fo len) 8 * 8
      s.store (bkBase bk + xa) (((ex.getD i []).take per).flatMap (leBytes 1))) s

/-- VOP (R230, R231, R551, R552). -/
def execVop (d : Die) (b : Brd) (ecc : Bool) (s : State) : Host.Outcome State Fault Refusal :=
  let bk := boardKey d b
  match s.unitHead bk .vector 0x07 with
  | none => .next s
  | some e =>
    let w := e.word
    let n := tf w 1 0 16
    let nb := tnb w
    let f := tf w 0 21 8
    let fin := (Fmt.ofCode (tf w 0 16 5)).getD .fp32
    if n = 0 ∨ nb = 0 then .next (s.finishEntry bk e)
    else if f ≠ 0x0B ∧ s.strBusy bk (tf w 1 16 4) e.ctx then .next s
    else if (s.eccFault bk e ecc).isSome then .next ((s.eccFault bk e ecc).getD s)
    else
      match s.vecPay bk e (vecTokens (vopUnits f * n * nb) (fmtWidth fin)) with
      | (s, false) => .next s
      | (s, true) =>
        if s.vopNoT40 bk w then .next (s.boardFault bk 3 e.pc e.ctx.job)
        else .next ((s.vopRun bk e).finishEntry bk e)

end Sys2Proof.Machine
end

