-- ==== Sys2Proof/Machine/Fabric.lean ====
section
/-! DEFINITION. Packets at their destinations (R270, R283-R286, R290, R296, R305, R314), memory moves (R237, R553), and
the routing order of a die (R271, R290). -/

namespace Sys2Proof.Machine

/-- The boards a packet reaches: its destination, or every member of its multicast set (R274). -/
def State.reached (s : State) (p : Pkt) : List Nat :=
  if p.mc && p.member.isNone then (s.members (pktSrc p) p.dstBoard).filter fun k => keyDie k == p.dstNode else [pktDst p]

/-- A poisoned packet: counted at its destination, its job fails (R268, R290). -/
def State.poisoned (s : State) (p : Pkt) : State :=
  let s := if p.dstNode < 32 then (s.reached p).foldl (fun s k => s.bump (bkBase k + 0x46090) 1) s else s
  s.jobFault p.job 0x0503

/-- An unroutable packet: discarded, counted where it was sent, its job fails (R290). -/
def State.strayed (s : State) (p : Pkt) : State :=
  let s := if p.srcNode < 32 then s.bump (bkBase (pktSrc p) + 0x46088) 1 else s
  s.jobFault p.job 0x040A

/-- An earlier packet of the same source, destination and channel is still under way (R275). -/
def State.outOfTurn (s : State) (p : Pkt) : Bool :=
  let flow := fun (q : Pkt) => q.vc == p.vc && q.dstNode == p.dstNode && pktSrc q == pktSrc p && pktDst q == pktDst p
  (s.fb.net.any fun q => decide (asSent q = asSent p)) &&
  match s.fb.net.find? flow with | some q => decide (asSent q ≠ asSent p) | none => false

/-- What every arriving packet passes: whether it may be used (R268, R275, R290). -/
def State.accept (s : State) (p : Pkt) : State × Bool :=
  if s.outOfTurn p then (s, false) else
  let s := s.arrive p
  if s.unroutable p then (s.strayed p, false)
  else if badPkt p then (s.poisoned p, false)
  else (s, true)

/-! Carries (R283, R284). -/

/-- The values of a carry or stroke carry behind its first flit. -/
def carryVals (p : Pkt) : List Nat :=
  (List.range ((p.payload.length - 32) / 8)).map fun i => leAt p.payload (32 + 8 * i) 8

/-- The key of a carry (R284). -/
def carryKey (p : Pkt) : Nat × Nat × Nat × Bool × Nat :=
  (p.job, p.step, p.lsrc, p.skind, if p.skind then p.q else p.ordinal)

/-- The STROKE that issued a sequence in a step. -/
def State.strokeEntry (s : State) (bk job step q : Nat) : Option SbEntry :=
  (s.board bk).sb.find? fun e =>
    topc e.word == 1 && e.ctx.job == job && e.ctx.step == step && decide ((q + 2 ^ 48 - e.seq0) % 2 ^ 48 < tnb e.word)

/-- The five counts of an SCARRY, and the mark that its frame stroked (R283; log entry 27). -/
def flitCounts (bs : List Byte) : Counts :=
  { skip := leAt bs 0 2, split := leAt bs 2 2, retry := leAt bs 4 2, lowconf := leAt bs 6 2, ovr := leAt bs 8 2,
    strokes := leAt bs 10 2 }

/-- An accepted SCARRY: its outputs under the stroke's Eref, its counts to the job, and the iteration done (R283). -/
def State.addScarry (s : State) (bk : Nat) (p : Pkt) : State :=
  match s.strokeEntry bk p.job p.step p.q with
  | none => s
  | some e =>
    if s.dead e.ctx then s
    else
      let i := (p.q + 2 ^ 48 - e.seq0) % 2 ^ 48
      let er := (s.strokeDrive bk (34 * bk + tf e.word 0 16 6) e.word i).eref
      let vs := carryVals p
      let c : Carry := { job := p.job, step := p.step, lsrc := p.lsrc, skind := true, slot := p.addr,
                         tags := vs.map fun _ => tagByte er, vals := vs }
      ((s.addCarry bk c e.pc).addCounts p.job (flitCounts p.payload)).iterDone bk e.id

/-- A carry processed by the tally of its destination (R284). -/
def State.takeCarry (s : State) (bk : Nat) (p : Pkt) : State :=
  let x := s.board bk
  if !s.epochAt bk p || x.keys.contains (carryKey p) then s.bump (bkBase bk + 0x40208) 1
  else if 8192 ≤ x.keys.length then s.setBoard bk { x with heldC := x.heldC ++ [p] }
  else
    let s := s.setBoard bk { x with keys := x.keys ++ [carryKey p] }
    if p.skind then s.addScarry bk p
    else
      let vs := carryVals p
      let c : Carry := { job := p.job, step := p.step, lsrc := p.lsrc, skind := false, slot := p.addr,
                         tags := (p.payload.take vs.length).map (·.toNat), vals := vs, ord := p.ordinal }
      let y := s.board bk
      s.setBoard bk { y with arrived := y.arrived ++ [c] }

/-- CARRY_PACKET (R284). -/
def execCarryPacket (p : Pkt) (s : State) : Host.Outcome State Fault Refusal :=
  match s.accept p with
  | (s, false) => .next s
  | (s, true) => .next (s.takeCarry (pktDst p) { p with skind := false })

/-- CARRY_RETRY: the oldest held carry, once an entry is free (R284). -/
def execCarryRetry (d : Die) (b : Brd) (s : State) : Host.Outcome State Fault Refusal :=
  let bk := boardKey d b
  let x := s.board bk
  match x.heldC with
  | [] => .next s
  | p :: r =>
    if 8192 ≤ x.keys.length then .next s else .next ((s.setBoard bk { x with heldC := r }).takeCarry bk p)

/-- SCARRY_PACKET (R283, R284). -/
def execScarryPacket (p : Pkt) (s : State) : Host.Outcome State Fault Refusal :=
  match s.accept p with
  | (s, false) => .next s
  | (s, true) => .next (s.takeCarry (pktDst p) { p with skind := true })

/-- The stroke a SFWD asks of a frame (R283; byte places of log entry 27). -/
def State.forwarded (s : State) (fk : Nat) (p : Pkt) : Stroke :=
  let b := p.payload
  let m := leAt b 13 1
  let plane := leAt b 1 1 % 8
  { ctx := { job := p.job, step := p.step, bank := m % 2 == 1, exact := m / 2 % 2 == 1 },
    plane := plane, shape := leAt b 2 1 % 8, row0 := leAt b 4 2, rod0 := leAt b 8 1, nrod := leAt b 9 2,
    w9 := s.planeW9 fk plane, tslot := p.addr, q := leAt b 14 6, es := signed 8 (leAt b 11 1),
    eref := signed 8 (leAt b 12 1),
    v := padTo 0 (shapeRows (leAt b 2 1 % 8)) ((List.range (leAt b 6 2)).map fun i => signed 16 (leAt b (32 + 2 * i) 2)),
    parts := [], dest := .forward p.srcNode p.srcBoard p.addr (leAt b 14 6), idle := m / 4 % 2 == 0 }

/-- SFWD_PACKET: a forwarded stroke waits for its frame (R283). -/
def execSfwdPacket (p : Pkt) (s : State) : Host.Outcome State Fault Refusal :=
  match s.accept p with
  | (s, false) => .next s
  | (s, true) =>
    let fk := 34 * pktDst p + leAt p.payload 0 1 % 64
    -- a frame held in reset accepts no stroke (R68)
    if 34 ≤ leAt p.payload 0 1 % 64 ∨ !s.awakeFrame fk then .next s
    else .next (s.setFrame fk { s.frame fk with queue := (s.frame fk).queue ++ [s.forwarded fk p] })

/-! Slate writes. -/

/-- Bytes of an ACT packet written to a slate; none lands beyond it. -/
def State.actStore (s : State) (bk : Nat) (p : Pkt) : State :=
  s.store (bkBase bk + 8 * p.addr) (p.payload.take (0x20000 - 8 * p.addr))

/-- ACT_PACKET (R270, R286): tested, written or discarded, and acknowledged. -/
def execActPacket (p : Pkt) (s : State) : Host.Outcome State Fault Refusal :=
  match s.accept p with
  | (s, false) => .next s
  | (s, true) =>
    let s := (s.reached p).foldl (fun s k =>
      if s.epochAt k p then s.actStore k p else s.bump (bkBase k + 0x4608C) 1) s
    .next (s.ackPacket p)

/-! Memory. -/

/-- Bytes of DRAM that lie in one buffer or page pool of the score a board runs (R317). -/
def State.ownBytes (s : State) (bk a n : Nat) : Bool :=
  match (s.board bk).score with
  | none => false
  | some slot =>
    let x := s.score slot
    ((x.file.man.bufs.zip x.bufAt).any fun p => decide (p.2.1 ≤ a ∧ a + n ≤ p.2.1 + p.1.size)) ||
    (x.file.man.kv.zip x.kvAt).any fun p => decide (p.2 ≤ a ∧ a + n ≤ p.2 + kvBytes p.1)

/-- The address a memory packet reaches: the home of a pool byte; none where a board asks for bytes that no buffer of its score
holds (R298, R317). -/
def State.memTarget (s : State) (p : Pkt) (a n : Nat) : Option Nat :=
  match regionOf a with
  | .pool h off => if p.srcNode < 32 then s.poolAddr (pktSrc p) h off n else some (s.memHome a)
  | _ => if p.srcNode < 32 && !s.ownBytes (pktSrc p) a n then none else some a

/-- MEM_RD_PACKET: served from a pool or DRAM; poisoned where uncorrectable or unassigned (R296, R305, R314). A read of no
bytes is no operation (R11). -/
def execMemRdPacket (p : Pkt) (a n : Nat) (s : State) : Host.Outcome State Fault Refusal :=
  match s.accept p with
  | (s, false) => .next s
  | (s, true) =>
    if n = 0 then .next s else
    let rsp : Pkt := { p with type := 6, vc := 2, mc := false, member := none, srcNode := p.dstNode, srcBoard := p.dstBoard,
                              dstNode := p.srcNode, dstBoard := p.srcBoard, lsrc := 0, epoch := 0 }
    if !isMem a ∨ !isMem (a + n - 1) then
      let s := if p.srcNode < 32 then s.bump (bkBase (pktSrc p) + 0x46088) 1 else s
      .next (s.sendPkt { rsp with poison := true, payload := List.replicate 32 0 })
    else
      match s.memTarget p a n with
      | none => .next (s.jobFault p.job 0x0306)
      | some m =>
        .next ((List.range (cdiv n 2048)).foldl (fun s i =>
          let k := min 2048 (n - 2048 * i)
          s.sendPkt { rsp with addr := p.addr + 256 * i, poison := s.memBad (m + 2048 * i) k,
                               payload := s.load (m + 2048 * i) k }) s)

/-- MEM_WR_PACKET: tested, applied and acknowledged (R286, R296, R314). -/
def execMemWrPacket (p : Pkt) (a : Nat) (s : State) : Host.Outcome State Fault Refusal :=
  match s.accept p with
  | (s, false) => .next s
  | (s, true) =>
    if !isMem a ∨ !isMem (a + p.payload.length - 1) then .next (if p.srcNode < 32 then s.bump (bkBase (pktSrc p) + 0x46088) 1 else s)
    else
      let h := p.dstNode - 32
      if !s.epochOk p then
        .next ({ s with fb.disc := s.fb.disc.set h (s.fb.disc.getD h 0 + 1) }.ackPacket p)
      else
        match s.memTarget p a p.payload.length with
        | none => .next (s.jobFault p.job 0x0306)
        | some m => .next ((s.memWrite m p.payload).ackPacket p)

/-- MEM_RSP_PACKET: data delivered to the slate address its request named, or to Porell (R305). -/
def execMemRspPacket (p : Pkt) (s : State) : Host.Outcome State Fault Refusal :=
  match s.accept p with
  | (s, false) => .next s
  | (s, true) =>
    if p.dstNode < 32 then .next (s.actStore (pktDst p) p)
    else .next { s with rdata := word (leAt p.payload 0 4) }

/-- MOVE: bytes between the slate and a manifest buffer (R237, R264, R286, R553). -/
def execMove (d : Die) (b : Brd) (ecc : Bool) (s : State) : Host.Outcome State Fault Refusal :=
  let bk := boardKey d b
  match s.unitHead bk .lane 0x0A with
  | none => .next s
  | some e =>
    let w := e.word
    let n := 8 * tf w 1 14 14
    let off := tf w 3 0 32
    let slate := bkBase bk + 8 * tf w 1 0 14
    -- its memory packets count at the lane port: a read's requests, or a write's headers and data (R291)
    let count := fun (s : State) => s.bump (bkBase bk + 0x46080) (cdiv n 2048 + if tf w 0 16 1 = 0 then 0 else cdiv n 32)
    let k := tf w 2 0 16
    let x := match (s.board bk).score with | some slot => s.score slot | none => {}
    match x.file.man.bufs[k]?, x.bufAt[k]? with
    | some f, some at_ =>
      if n = 0 then .next (s.finishEntry bk e)
      else if (s.eccFault bk e ecc).isSome then .next ((s.eccFault bk e ecc).getD s)
      else if f.size < off + n ∨ (f.cached = true ∧ 0x1800000 < at_.2 + off + n) then .next (s.jobFault e.ctx.job 0x0306)
      else if tf w 0 16 1 = 0 then
        if s.memBad (at_.1 + off) n then .next (s.poisoned { dstNode := d, dstBoard := b, job := e.ctx.job })
        else .next ((count (s.store slate (s.load (at_.1 + off) n))).finishEntry bk e)
      else
        let p := { (s.pktOf bk e.ctx e.seq0 5 2) with dstNode := 32 + f.hub }
        if s.epochOk p then .next ((count (s.memWrite (at_.1 + off) (s.load slate n))).finishEntry bk e)
        else .next ({ count s with fb.disc := s.fb.disc.set f.hub (s.fb.disc.getD f.hub 0 + 1) }.finishEntry bk e)
    | _, _ => .next (s.jobFault e.ctx.job 0x0306)

/-! Control packets. -/

/-- AMAX_PACKET: a board's maximum of a whole-tensor stream (R199; byte places of log entry 27). -/
def execAmaxPacket (p : Pkt) (s : State) : Host.Outcome State Fault Refusal :=
  match s.accept p with
  | (s, false) => .next s
  | (s, true) =>
    let bk := pktDst p
    let n := leAt p.payload 0 1
    let ctx := leAt p.payload 1 1
    let v : FV := if leAt p.payload 2 1 % 2 = 0 then .nan false
      else .fin false (leAt p.payload 8 8) (signed 16 (leAt p.payload 16 2))
    let key := s.strKey bk n { step := p.step }
    let x := ((s.board bk).strm.find? (isStep n ctx p.job key)).getD { n := n, ctx := ctx, job := p.job, step := key }
    let x := { x with got := x.got.filter (fun g => g.1 != pktSrc p) ++ [(pktSrc p, v)] }
    .next ((s.putStrm bk x).settleStrm bk x)

/-- SWITCH_PACKET: a switch record written and acknowledged (R286). -/
def execSwitchPacket (p : Pkt) (s : State) : Host.Outcome State Fault Refusal :=
  match s.accept p with
  | (s, false) => .next s
  | (s, true) =>
    let lsrc := leAt p.payload 0 2 % 8192
    let en := leAt p.payload 2 2
    let drop := leAt p.payload 4 1 % 2 == 1
    let sp := leAt p.payload 8 6
    if p.dstNode < 32 then
      match s.putRec (pktDst p) lsrc en sp drop with
      | none => .next s
      | some s => .next (s.ackPacket p)
    else
      let h := p.dstNode - 32
      let rest := s.fb.recs.filter fun r => !(r.1 == h && r.2.1 == lsrc)
      .next ({ s with fb.recs := rest ++ [(h, lsrc, en, sp, drop)] }.ackPacket p)

/-- The number that marks a switch in its packets: its logical board and its score's slot. -/
def switchTag (w : Switch) : Nat := w.lb + 8192 * w.slot

/-- A switch replaced in the list of those in progress. -/
def State.putSwitch (s : State) (w w' : Switch) : State :=
  { s with fb.switches := s.fb.switches.map fun (v : Switch) => if v = w then w' else v }

/-- The new board serves from S under the switch's epoch, and starts (R220, R287, R288). -/
def State.serve (s : State) (w : Switch) : State :=
  let a := bkBase w.new + 0x46008
  let lo := word w.s
  let hi := word (w.s / 2 ^ 32 % 2 ^ 16 + w.en * 2 ^ 16)
  let s := (((s.setReg a lo).setLive a lo).setReg (a + 4) hi).setLive (a + 4) hi
  s.setBoard w.new { s.board w.new with q := w.s, base := w.s, halted := false, up := true }

/-- Every ACK of a switch has arrived: the new board serves; a failed board's held step starts go on (R287, R288). -/
def State.switchAcked (s : State) (w : Switch) : State :=
  let s := s.serve w
  s.putSwitch w { w with copied := w.copied || w.drop, at_ := s.now }

/-- An acknowledgement of a switch record taken off its count. -/
def State.ackSwitch (s : State) (tag : Nat) : State :=
  match s.fb.switches.find? fun w => switchTag w == tag && decide (0 < w.acks) with
  | none => s
  | some w =>
    let w' := { w with acks := w.acks - 1 }
    let s := s.putSwitch w w'
    if w'.acks = 0 then s.switchAcked w' else s

/-- ACK_PACKET: the packet it answers no longer waits; a switch record's ACK counts towards its switch (R270, R287). -/
def execAckPacket (p : Pkt) (s : State) : Host.Outcome State Fault Refusal :=
  match s.accept p with
  | (s, false) => .next s
  | (s, true) =>
    let mine := fun x : Pkt => pktSrc x == pktDst p && pktDst x == pktSrc p && x.job == p.job && x.step == p.step &&
      x.addr == p.addr && x.type == p.ordinal
    let s := { s with fb.acks := s.fb.acks.eraseP mine }
    .next (if p.ordinal = 9 then s.ackSwitch p.addr else s)

/-- RESERVED_PACKET: a reserved type discarded and counted at its destination; an unroutable packet and one not to be used
under R290. -/
def execReservedPacket (p : Pkt) (s : State) : Host.Outcome State Fault Refusal :=
  match s.accept p with
  | (s, false) => .next s
  | (s, true) => if 12 ≤ p.type ∧ p.dstNode < 32 then .next (s.bump (bkBase (pktDst p) + 0x46088) 1) else .next s

/-! Lanes (R271, R290). -/

/-- The port boards of a die (R272). -/
def portBoards : List Nat := [8, 96, 100, 101, 102, 103, 104, 105, 106, 107, 111, 184]

/-- A board that reaches no port of its die and back over lanes in use (R290; log entry 30). -/
def State.cutOff (s : State) (d b : Nat) : Bool :=
  let bad := fun l => s.disabled (mapLane (boardKey d 0) 0 + l)
  !portBoards.any fun p =>
    (lanePath (s.die d).yWant b p).all (fun l => !bad l) && (lanePath (s.die d).yWant p b).all fun l => !bad l

/-- A lane disabled, and its die turned to the other routing order; after a second loss the boards cut off have failed
(R290). -/
def State.loseLane (s : State) (bk lane : Nat) : State :=
  let d := keyDie bk
  let s := s.mapSet (mapLane bk lane)
  let x := s.die d
  let s := (s.setDie d { x with lanesLost := x.lanesLost + 1, yWant := if x.lanesLost = 0 then !x.yWant else x.yWant }).log
    0x105 [d, keyBrd bk, lane]
  if x.lanesLost = 0 then s
  else
    ((List.range 192).filter (s.cutOff d)).foldl (fun s b =>
      s.setBoard (boardKey d b) { s.board (boardKey d b) with failed := true }) s

/-- POISON_PACKET: not used, its job fails; three on one lane within 1 s disable it (R290). -/
def execPoisonPacket (p : Pkt) (lane : Fin 4) (s : State) : Host.Outcome State Fault Refusal :=
  let s := (s.arrive p).poisoned p
  let b := p.member.getD p.dstBoard
  if 32 ≤ p.dstNode ∨ 192 ≤ b then .next s
  else
    let d := p.dstNode
    let x := s.die d
    let key := 4 * b + lane
    let seen := x.poison.filter (fun e => decide (s.now < e / 1024 + 1000000000)) ++ [s.now * 1024 + key]
    let s := s.setDie d { x with poison := seen }
    let n := (seen.filter fun e => e % 1024 == key).length
    .next (if 3 ≤ n ∧ !s.disabled (mapLane (pktDst p) lane) then s.loseLane (pktDst p) lane else s)

/-- LANE_ROUTING_SWITCH: every router of a die changes order while its lanes are idle, traffic in transit included
(R271). -/
def execLaneRoutingSwitch (d : Die) (s : State) : Host.Outcome State Fault Refusal :=
  let x := s.die d
  if s.aboard.any fun p => (s.lanesOf p).any fun l => l / 768 == d.val then .next s
  else .next ((s.setDie d { x with yfirst := x.yWant }).flow)

end Sys2Proof.Machine
end

