-- ==== Sys2Proof/Machine/Links.lean ====
section
/-! DEFINITION. SerDes links: frames, acknowledgements, replays and credits (R276, R277, R280), retrains and links declared
down (R280, R281), route fences (R275), and the held copies of a takeover (R486). -/

namespace Sys2Proof.Machine

/-- A link declared down: reported, in the disabled-unit map, its frames to be sent another way (R280, R281, R476). -/
def State.declareDown (s : State) (k : Nat) : State :=
  if s.linkState k = 0 then s
  else
    let s := s.setLinkState k 0
    let s := s.setLink k { s.link k with downAt := some s.now, fails := 0 }
    (s.mapSet (mapLink (linkNo k))).log 0x106 [k]

/-- A retrain of 40 µs; the second within 1 s declares the link down (R280). -/
def State.startTrain (s : State) (k : Nat) : State :=
  let x := s.link k
  if s.linkState k < 2 then s
  else
    let s := s.bump (linkBase k + 0x18) 1
    let recent := x.trains.filter fun t => decide (s.now < t + 1000000000)
    let s := s.setLink k { x with trains := recent ++ [s.now], fails := 0 }
    if recent ≠ [] then s.declareDown k else s.setLinkState k 1

/-- Frame sequence a lies before b, modulo 4,096 (R280). -/
def frameBefore (a b : Nat) : Bool := decide (0 < (b + 4096 - a % 4096) % 4096 ∧ (b + 4096 - a % 4096) % 4096 ≤ 2048)

/-- The frames an acknowledgement covers leave the retry buffer (R280). -/
def State.linkAcked (s : State) (k ack : Nat) : State :=
  let x := s.link k
  let rest := x.retry.filter fun f => !frameBefore f.1 ack
  s.putLink k { x with retry := rest, fails := if rest.length < x.retry.length then 0 else x.fails }

/-- A NAK: every frame from the one named on is replayed; after four failed replays of one frame the
next NAK of it retrains the link (R280). -/
def State.linkNaked (s : State) (k ack : Nat) : State :=
  let x := s.link k
  match x.retry.filter fun f => !frameBefore f.1 ack with
  | [] => s
  | fs =>
    let s := (s.bump (linkBase k + 0x14) fs.length).setLink k { x with fails := x.fails + 1, lastTx := s.now }
    if 5 ≤ x.fails + 1 then s.startTrain k else s

/-- LINK_CREDIT: a credit count that cannot be; the link is declared down (R277, R290). -/
def State.creditFault (s : State) (k : Nat) : State :=
  (s.setReg (linkBase k + 4) (putBit (s.reg (linkBase k + 4)) 2 true)).declareDown k

/-- Credits returned; more than the depth of a channel raises LINK_CREDIT (R276, R277). -/
def State.linkCredits (s : State) (k : Nat) (cs : List Nat) : State :=
  let x := s.link k
  let new := x.credits.mapIdx fun v n => n + cs.getD v 0
  if new.any fun n => decide (linkDepth k < n) then s.creditFault k else s.setLink k { x with credits := new }

/-- LINK_FRAME_RX (R280, R486). -/
def execLinkFrameRx (l : LinkEnd) (fr : LinkFrame) (s : State) : Host.Outcome State Fault Refusal :=
  let k := endKey l
  let x := s.link k
  if s.linkState k < 2 then .next s
  else if !fr.crcOk then
    .next ((s.bump (linkBase k + 0x10) 1).emit (.linkNak k x.rxSeq))
  else
    let s := s.setLink k { x with lastRx := s.now }
    let s := s.linkAcked k fr.ack
    let s := if fr.nak then s.linkNaked k fr.ack else s
    let s :=
      if fr.idle then s.linkCredits k fr.credits
      else if fr.seq = x.rxSeq then
        -- a frame that is replayed returns its credits once
        let s := s.linkCredits k fr.credits
        let y := s.link k
        -- a packet whose through-hub sequence has been passed is discarded (R486)
        let old := match fr.through with | some t => decide (t < y.thRx) | none => false
        let th := match fr.through with | some t => max y.thRx (t + 1) | none => y.thRx
        let s := s.setLink k { y with rxSeq := (y.rxSeq + 1) % 4096, thRx := th,
                                      relN := if old then y.relN else (y.relN + fr.flits.length) % 2 ^ 32 }
        s.emit (.linkAck k ((x.rxSeq + 1) % 4096))
      else if frameBefore fr.seq x.rxSeq then s.emit (.linkAck k x.rxSeq)
      else s.emit (.linkNak k x.rxSeq)
    .next (s.release k)

/-- LINK_IDLE_FRAME: a link without data for 1 µs sends an idle frame (R280). -/
def execLinkIdleFrame (l : LinkEnd) (s : State) : Host.Outcome State Fault Refusal :=
  let k := endKey l
  let x := s.link k
  if s.linkState k < 2 ∨ s.now < x.lastTx + 1000 then .next s
  else .next ((s.setLink k { x with lastTx := s.now }).emit (.idle k))

/-- LINK_RETRAIN (R280). -/
def execLinkRetrain (l : LinkEnd) (s : State) : Host.Outcome State Fault Refusal := .next (s.startTrain (endKey l))

/-- A link that trained: full credits, traffic again (R277, R289). -/
def State.linkUp (s : State) (k : Nat) : State :=
  let x := s.link k
  let s := s.setLink k { x with credits := List.replicate 4 (linkDepth k), lastRx := s.now, lastTx := s.now, downAt := none }
  s.setLinkState k 2

/-- LINK_RETRAIN_DONE: the counts of both ends agree and the link carries traffic, or it is declared down (R277,
R280). -/
def execLinkRetrainDone (l : LinkEnd) (ok agree : Bool) (s : State) : Host.Outcome State Fault Refusal :=
  let k := endKey l
  if s.linkState k ≠ 1 then .next s
  else if !ok then .next (s.declareDown k)
  else if !agree then .next (s.creditFault k)
  else
    let s := s.linkUp k
    .next (s.release k)

/-- LINK_SILENCE_TIMEOUT: no valid frame for 16 µs (R280). -/
def execLinkSilenceTimeout (l : LinkEnd) (s : State) : Host.Outcome State Fault Refusal :=
  let k := endKey l
  if s.linkState k < 2 ∨ s.now < (s.link k).lastRx + 16000 then .next s else .next (s.declareDown k)

/-- LINK_DOWN: the frames not acknowledged wait for the new route, ahead of held packets, behind a fence (R275, R281). -/
def execLinkDown (l : LinkEnd) (s : State) : Host.Outcome State Fault Refusal :=
  let k := endKey l
  let x := s.link k
  if x.downAt.isNone then .next s
  else
    let s := s.putLink k { x with downAt := none, reinject := x.reinject ++ x.retry, retry := [] }
    .next { s with fb.fences := if s.fb.fences.contains k then s.fb.fences else s.fb.fences ++ [k] }

/-- Packets held at a link sent on the routes of the new tables. -/
def State.rerouteHeld (s : State) (k : Nat) : State :=
  let x := s.link k
  x.heldP.foldl (fun s p => s.launch p) (s.setLink k { x with heldP := [] })

/-- The node a link end sends from, and the one its link leads to (R272). -/
def linkFrom (k : Nat) : Nat := if k < 18 then 32 + k / 9 else 4 * ((k - 18) / 4)
def linkTo (k : Nat) : Nat :=
  if k < 18 then (if k % 9 = 8 then 33 - k / 9 else 4 * (k % 9))
  else
    match (k - 18) % 4 with
    | 2 => 4 * (((k - 18) / 4 + 1) % 8)
    | 3 => 4 * (((k - 18) / 4 + 7) % 8)
    | m => 32 + m

/-- A fence of a link ended, the routes of the tables led round the link (R273, R275). -/
def State.unfence (s : State) (k : Nat) : State :=
  { s with fb.fences := s.fb.fences.filter (· != k), fb.routes := mput 0 s.fb.routes (linkNo k) 1 }

/-- The frames a link left unacknowledged re-injected on the first link of the new route to where it led; with none they stay,
to go out once the link trains again (R281). -/
def State.passFrames (s : State) (k : Nat) : State :=
  match (s.route (linkFrom k) (linkTo k)).head? with
  | some j =>
    if j = k then s
    else
      let x := s.link k
      let s := s.setLink k { x with reinject := [] }
      let s := s.setLink j { s.link j with reinject := (s.link j).reinject ++ x.reinject }
      State.reinject x.reinject.length j s
  | none => s

/-- ROUTE_FENCE_COMPLETE: the route tables go round the link, its frames are re-injected there, and held packets follow
(R275, R281). -/
def execRouteFenceComplete (l : LinkEnd) (s : State) : Host.Outcome State Fault Refusal :=
  let k := endKey l
  if !s.fb.fences.contains k ∨ (s.link k).retry ≠ [] then .next s
  else .next (((s.unfence k).passFrames k).rerouteHeld k).flow

/-- BEAM_CTL.retrain. -/
def execBeamCtlRetrain (l : LinkEnd) (s : State) : Host.Outcome State Fault Refusal := .next (s.startTrain (endKey l))

/-- BEAM_CTL.down. -/
def execBeamCtlDown (l : LinkEnd) (s : State) : Host.Outcome State Fault Refusal := .next (s.declareDown (endKey l))

/-- HELD_PACKET_RESEND: after a takeover the port boards send their unacknowledged copies for the failed hub again, in
order, those addressed to it to the survivor; one that was not lost is discarded by its sequence (R486). -/
def execHeldPacketResend (h : Hub) (s : State) : Host.Outcome State Fault Refusal :=
  if !s.sv.fenced.getD h false then .next s
  else
    .next ((List.range 8).foldl (fun s n =>
      let k := portEnd n h
      let x := s.link k
      let s := (s.setLink k { x with copies := [] }).bump (hubBase (1 - h) + 0xB0048) x.copies.length
      x.copies.foldl (fun s c =>
        let p := if c.2.dstNode = 32 + h.val then { c.2 with dstNode := 33 - h } else c.2
        let lost := s.fb.net.erase c.2
        ({ s with fb.net := lost } : State).launch { p with hcrc := pktCrc { p with hcrc := 0 } }) s) s)

end Sys2Proof.Machine
end

