-- ==== Sys2Proof/Machine/Calib.lean ====
section
/-! DEFINITION. Calibration: rod trims and plane gains (R121-R123, R127), publication (R130), the CAL commands (R143, R145,
R147, R547), and the recount (R136-R142). -/

namespace Sys2Proof.Machine

/-! Trims and gains. -/

/-- rne(a / b) for any non-zero b. -/
def rneQuot (a b : Int) : Int := if b < 0 then rneDiv (-a) b.natAbs else rneDiv a b.natAbs

/-- The trim of a rod from its sums, none where off or rg leaves its field (R121, R123). DESIGN CHOICE: sp = sn, for which R121
names no quotient, counts as an rg out of its field (log entry 119). -/
def trimWord (s0 sp sn e : Int) : Option Word :=
  if sp = sn then none
  else
    let rg := rneQuot (2 ^ 18 * 32 * e) (sp - sn) - 2 ^ 18
    if s0 < -32768 ∨ 32767 < s0 ∨ rg < -32768 ∨ 32767 < rg then none
    else some (word (pattern 16 s0 + pattern 16 rg * 2 ^ 16))

/-- The gain of a plane from its reference targets and sums, none where it leaves its field (R122, R123). DESIGN CHOICE: M = 0,
for which R122 names no quotient, counts as a gain out of its field (log entry 119). -/
def gainOf (tgt m : List Int) : Option Int :=
  let t := 16 * isum (tgt.map fun x => (x.natAbs : Int))
  let s := isum (m.map fun x => (x.natAbs : Int))
  if s = 0 then none
  else
    let pg := rneQuot (t * 2 ^ 20) s - 2 ^ 20
    if pg < -131072 ∨ 131071 < pg then none else some pg

/-- The predicted gain (R127). -/
def predictGain (pgm alpha tm tj : Int) : Option Int :=
  let den := 16000000 + alpha * (tj - 960)
  if den = 0 then none
  else
    let pg := rneQuot ((2 ^ 20 + pgm) * (16000000 + alpha * (tm - 960))) den - 2 ^ 20
    if pg < -131072 ∨ 131071 < pg then none else some pg

/-- The targets of the reference rods at the frame's settings (R122). -/
def State.refTargets (s : State) (fk : Nat) : List Int :=
  let d := keyDie (fkBoard fk)
  let g := gq (s.fFs fk) (s.fRange fk)
  (List.range 8).map fun q => rneDiv (signed 32 (s.calN (64 + 44 * d + 4 + 4 * q) 4) * g) 17179345

/-- The baseline off and rg of a board in an integration mode (R123, R547). -/
def State.baseline (s : State) (bk m : Nat) : Int × Int :=
  (signed 16 (s.calN (4800 + 16 * bk + 4 * m) 2), signed 16 (s.calN (4800 + 16 * bk + 4 * m + 2) 2))

/-- A frame covered by the exact lane where its image is resident, in REPAIR, for diagnosis (R123, R477). -/
def State.failFrame (s : State) (fk : Nat) : State :=
  let s := s.toRepair fk
  let y := s.frame fk
  s.setFrame fk { y with diagnose := true, covered := y.placed.isSome && s.residentOf fk }

/-- Measured rod trims taken as the frame's running values (R121, R123). -/
def State.applyTrims (s : State) (fk : Nat) (sums : List (Int × Int × Int)) (e : Int) : State :=
  let ws := (List.range 272).map fun r => let x := sums.getD r (0, 0, 0); trimWord x.1 x.2.1 x.2.2 e
  let (bo, bg) := s.baseline (fkBoard fk) (s.fInteg fk)
  let far := ws.any fun w => match w with
    | some w => decide (1024 < (sfld w 0 16 - bo).natAbs ∨ 2621 < (sfld w 16 16 - bg).natAbs)
    | none => false
  let y := s.frame fk
  let old := padTo 0 272 y.trims
  let s := s.setFrame fk { y with
    trims := (ws.zip old).map fun p => p.1.getD p.2, trimTj := s.tj16 fk, trimAt := s.now, trimDue := false,
    diagnose := y.diagnose || far }
  if ws.any Option.isNone then s.failFrame fk else s

def tmReg (fk p : Nat) : Nat := fkBase fk + 0xC70 + 4 * (p / 2)

/-- A measured plane gain taken as the frame's running value, with the temperature it was taken at (R122, R123). -/
def State.applyGain (s : State) (fk p : Nat) (m : List Int) : State :=
  let y := s.frame fk
  match gainOf (s.refTargets fk) m with
  | none => s.setFrame fk { y with migrate := true, gainAt := y.gainAt.set p s.now, gainDue := y.gainDue.filter (· != p) }
  | some pg =>
    let w := word (pattern 18 pg)
    let s := s.setFrame fk { y with gains := y.gains.set p w, pgm := y.pgm.set p w, gainAt := y.gainAt.set p s.now,
                                    gainTj := y.gainTj.set p (s.tj16 fk),
                                    gainDue := y.gainDue.filter (· != p) }
    s.setReg (tmReg fk p) (put (s.reg (tmReg fk p)) (16 * (p % 2)) 16 (pattern 16 (s.tj16 fk)))

/-! Measurements. The analogue codes are free values (log entry 4). -/

/-- The rod range of a frame in µA. -/
def State.rangeUA (s : State) (fk : Nat) : Nat := 40 * 2 ^ s.fRange fk

/-- The calibration current source of a frame's die set (R426): its sign, and what it drives: 0 nothing, 1 channel 33,
2 the frame. Its magnitude is three quarters of the rod range, in steps of 0.5 µA. `held` while a measurement holds it. -/
def State.setSource (s : State) (fk : Nat) (neg : Bool) (target : Nat) (held : Bool) : State :=
  let bk := fkBoard fk
  let u := keyDie bk
  let a := metBase u + 8
  let w := if target = 0 then 0
    else 3 * s.rangeUA fk / 2 + b2n neg * 2 ^ 10 + target * 2 ^ 11 + fkFrame fk * 2 ^ 13 + keyBrd bk * 2 ^ 19
  (s.setReg (metBase u + 0x7C) (word w)).setReg a (putBit (s.reg a) 20 held)

/-- The expected code of the source's current from channel 33 (R426). -/
def sourceE (data : Int) (rangeUA : Nat) : Int := rneDiv (data * 32767) (rangeUA * 20000)

/-- The source set to the current of a frame's range, of one sign, and measured on channel 33 at filter 3, by an urgent request
of converter 3 (R414, R426): E. -/
def State.readSource (s : State) (fk : Nat) (neg : Bool) : State × Int :=
  let u := keyDie (fkBoard fk)
  let s := s.setSource fk neg 1 true
  let data := s.correct u 3 33 (clampI (-8388607) 8388607 (Config.sourceRead s.fresh))
  ((s.take 1).result u 3 33 0 true false data none s.ck.rk, sourceE data (s.rangeUA fk))

/-- The source set to +I and measured, then switched to the frame (R121, R426): E. -/
def State.measureSource (s : State) (fk : Nat) : State × Int :=
  let (s, e) := s.readSource fk false
  (s.setSource fk false 2 true, e)

/-- The raw codes of all 272 converters in one conversion on the source, by index of free values. -/
def sourceCodes (n : Nat) : List Int :=
  (List.range 272).map fun r => clampI (-32767) 32767 (Config.sourceCode (n + r))

/-- Codes added to running sums. -/
def addSums (sums cs : List Int) : List Int := if sums = [] then cs else List.zipWith (· + ·) sums cs

/-- The sums of 16 conversions, by index of free values. -/
def pointSums (n : Nat) : List Int :=
  (List.range 16).foldl (fun l i => addSums l (sourceCodes (n + 272 * i))) []

/-- The sums of the three points as one triple a rod. -/
def sumTriples (s0 sp sn : List Int) : List (Int × Int × Int) := s0.zip (sp.zip sn)

/-- The trims of a frame the source is switched to, with its measured E (R121): 16 conversions at zero current, at +I and at
-I. -/
def State.trimsOn (s : State) (fk : Nat) (e : Int) : State :=
  let n := s.fresh
  ((s.take 13056).setSource fk false 0 false).applyTrims fk
    (sumTriples (pointSums n) (pointSums (n + 4352)) (pointSums (n + 8704))) e

/-- The module measures a frame's trims (R121). -/
def State.measureTrims (s : State) (fk : Nat) : State :=
  let (s, e) := s.measureSource fk
  s.trimsOn fk e

/-- One calibration stroke of a plane (R120, R122): every row at v = 256, the reference rods alone converted, in fine
integration, with no bound and no check; their codes trimmed by the frame's running rod trims, the plane gain at 0. -/
def State.calStroke (s : State) (fk p n : Nat) : List Int :=
  let y := s.frame fk
  (List.range 8).map fun q =>
    let v := 256 * isum ((List.range 512).map fun row => s.digit fk p row (264 + q))
    let c := (rodCode (s.fFs fk) (s.fRange fk) v (Config.rodError (n + q)) (Config.rodNoise (n + q))).1
    trimOf (y.trims.getD (264 + q) 0) 0 c

/-- A plane selected for calibration or the recount, where it is not, and its side store read; an uncorrectable entry raises
SIDE_STORE (R32, R33, R69, R122, R136). -/
def State.choosePlane (s : State) (fk p : Nat) : State :=
  if (s.frame fk).planeValid ∧ (s.frame fk).plane = p then s
  else
    match s.selectPlane fk p with
    | (s, false) => s
    | (s, true) =>
      let s := s.frameFault fk 3
      s.setFrame fk { s.frame fk with diagnose := true }

/-- The rows driven to the levels of a stroke of the module's own (R38). -/
def State.driveRows (s : State) (fk : Nat) (v : List Int) : State :=
  s.setFrame fk { s.frame fk with levels := v.zipIdx.filterMap fun e => if e.1 = 0 then none else some (e.2, e.1) }

/-- The plane selected and every row driven at v = 256 for calibration strokes (R38, R120, R122). -/
def State.calDrive (s : State) (fk p : Nat) : State := (s.choosePlane fk p).driveRows fk (List.replicate 512 256)

/-- The module measures a plane's gain by 16 calibration strokes (R122). -/
def State.measureGain (s : State) (fk p : Nat) : State :=
  let s := s.calDrive fk p
  let n := s.fresh
  (s.take 128).applyGain fk p ((List.range 16).foldl (fun l i => addSums l (s.calStroke fk p (n + 8 * i))) [])

/-- Gains of planes of a frame predicted at its temperature (R127). -/
def State.predictGains (s : State) (fk : Nat) (ps : List Nat) : State :=
  let y := s.frame fk
  let tj := s.tj16 fk
  let alpha := s.alpha (keyDie (fkBoard fk))
  let f := fun (y : Frame) p =>
    let tm := sfld (s.reg (tmReg fk p)) (16 * (p % 2)) 16
    match predictGain (sfld (y.pgm.getD p 0) 0 18) alpha tm tj with
    | some pg => { y with gains := y.gains.set p (word (pattern 18 pg)), gainTj := y.gainTj.set p tj }
    -- the plane keeps its gain and is measured at once
    | none => { y with gainTj := y.gainTj.set p tj, gainDue := y.gainDue.filter (· != p) ++ [p] }
  s.setFrame fk (ps.foldl f y)

/-- The planes whose last published gain holds for a temperature 8 or more away (R126). -/
def State.moved (s : State) (fk : Nat) : List Nat :=
  (List.range 8).filter fun p => decide (8 ≤ (s.tj16 fk - (s.frame fk).pubTj.getD p 0).natAbs)

/-- Gains predicted at the frame's temperature where it moved 8 or more (R126, R127). -/
def State.predict (s : State) (fk : Nat) : State := s.predictGains fk (s.moved fk)

/-- A frame's running values written to a bank with its epoch, and the temperatures they hold for (R126, R130). -/
def State.writeBank (s : State) (fk n epoch : Nat) : State :=
  let y := s.frame fk
  let s := (List.range 272).foldl (fun s r => s.setReg (trimReg fk n r) (y.trims.getD r 0)) s
  let s := (List.range 8).foldl (fun s p => s.setReg (gainReg fk n p) (y.gains.getD p 0)) s
  let s := s.setFrame fk { s.frame fk with pubTj := (s.frame fk).gainTj }
  s.setRegN (fkBase fk + 0xC68 + 4 * n) epoch

/-- The frames a score holds. -/
def State.framesOf (s : State) (slot : Nat) : List Nat :=
  s.frames.filterMap fun e => if e.2.placed = some slot then some e.1 else none

/-- The next epoch number (R130). -/
def State.nextEpoch (s : State) : Nat := if s.sv.calEpoch = 0xFFFFFFFF then 1 else s.sv.calEpoch + 1

/-- A publication for a score: the free bank of every frame, the epoch, then the current bank in one write (R130). -/
def State.publish (s : State) (slot : Nat) : State :=
  let x := s.score slot
  let n := 1 - b2n x.bank
  let e := s.nextEpoch
  let s := (s.framesOf slot).foldl (fun s fk => (s.predict fk).writeBank fk n e) s
  -- at a wrap the journal records every frame's corrections afresh
  let s := if s.sv.calEpoch = 0xFFFFFFFF then { s with sv.journal.cals := [] } else s
  ({ s with sv.calEpoch := e }).setScore slot { x with
    bank := !x.bank, epoch := e, bankEpoch := x.bankEpoch.set n e, pubAt := s.now }

/-- The step contexts of a score's step starts that are on their way to a board or held back (R210, R435). -/
def State.startsUnderWay (s : State) (slot : Nat) : List StepCtx :=
  ((s.inFabric.filter fun p => p.type == 7 && s.ringScore (s.jobRing p.job).1 == slot).map ctxOfPkt) ++
  (s.fb.later.filter fun e => e.1 == slot).map fun e => e.2.2.2

/-- Running jobs of a score with steps to come that keep a bank until a calibration boundary (R131). -/
def State.bankJobs (s : State) (slot n : Nat) : List (Nat × Job) :=
  s.wk.jobs.filterMap fun e => match e.2 with
    | some j => if j.st = .running ∧ s.ringScore j.ring = slot ∧ b2n j.bank = n ∧ 0 < j.next ∧ j.next < j.nsteps then some (e.1, j)
        else none
    | none => none

/-- A publication may begin: 10 ms since the last, and every step bound to the free bank has finished, those of a job that
keeps it among them (R130, R131). -/
def State.canPublish (s : State) (slot : Nat) : Bool :=
  let x := s.score slot
  let n := 1 - b2n x.bank
  x.st == 4 && decide (x.epoch = 0 ∨ x.pubAt + 10000000 ≤ s.now) && !(x.place.any fun p => s.bankHeld p.2 n) &&
  (s.bankJobs slot n).isEmpty && !(s.startsUnderWay slot).any fun c => b2n c.bank == n

/-- CAL_PUBLICATION (R130). -/
def execCalPublication (slot : Fin 64) (s : State) : Host.Outcome State Fault Refusal :=
  .next (if s.canPublish slot then s.publish slot else s)

/-! Measurement visits. -/

/-- A frame's rod trims are due (R126, or a CAL_MEASURE). -/
def State.trimsDue (s : State) (fk : Nat) : Bool :=
  let y := s.frame fk
  y.trimDue || decide (80 < (s.tj16 fk - y.trimTj).natAbs ∨ y.trimAt + 3600000000000 ≤ s.now)

/-- A plane's gain is due (R126, R127, or a CAL_MEASURE). -/
def State.gainIsDue (s : State) (fk p : Nat) : Bool :=
  let y := s.frame fk
  let tm := sfld (s.reg (tmReg fk p)) (16 * (p % 2)) 16
  y.gainDue.contains p || decide (32 < (s.tj16 fk - tm).natAbs ∨ y.gainAt.getD p 0 + 600000000000 ≤ s.now)

/-- A row driver's daily read-back is due (R427). -/
def State.readDue (s : State) (fk row : Nat) : Bool :=
  decide (mget 0 (s.frame fk).readAt row + 86400000000000 ≤ s.now)

/-- What the trigger of a measurement visit says of a frame (R126, R427). -/
def State.measureDue (s : State) (fk : Nat) : Visit → Bool
  | .trims => s.trimsDue fk
  | .gain p => s.gainIsDue fk p
  | .readback row _ _ _ => s.readDue fk row

/-- The tokens of one trim conversion or one calibration stroke (R128). -/
def State.visitTokens (s : State) (fk : Nat) (gain : Bool) : Nat := if gain then 410 else strokeCharge (s.fInteg fk) 512 256

/-- A frame that a visit may take up: in Ready, IDLE, or where no placement or service holds it SPARE or REPAIR, with no
stroke and no other visit on it (R67, R128). -/
def State.visitable (s : State) (fk : Nat) : Bool :=
  let y := s.frame fk
  s.pstate == 2 && (y.st == .idle || y.st == .spare || y.st == .repair) && y.stroke.isNone && y.queue == [] &&
  y.recount.isNone && y.measure.isNone && !s.disabled (mapFrame fk) && !s.disabled (mapBoard (fkBoard fk))

/-- A visit holds the frame: an IDLE one is in RECOUNT (R67, R128; log entry 102). -/
def State.holdFrame (s : State) (fk : Nat) : State :=
  let y := s.frame fk
  s.setFrame fk { y with st := if y.st = .idle then .recount else y.st }

/-- A visit ends: the frame leaves RECOUNT (R67). -/
def State.freeFrame (s : State) (fk : Nat) : State :=
  let y := s.frame fk
  s.setFrame fk { y with st := if y.st = .recount then .idle else y.st, recount := none, measure := none }

/-- The die of a CAL_MEASURE has no frame left to measure. -/
def State.dieMeasured (s : State) (d k : Nat) : Bool :=
  s.frames.all fun e => keyDie (fkBoard e.1) != d || (if k = 0 then !e.2.trimDue else e.2.gainDue == []) ||
    e.2.st == .programming || e.2.st == .repair || e.2.st == .retired

/-- The frames of a die that are neither retired nor disabled. -/
def State.dieFrames (s : State) (d : Nat) : List Nat :=
  ((List.range (192 * 34)).map fun n => 34 * boardKey d 0 + n).filter fun fk =>
    (s.frame fk).st != .retired && !s.disabled (mapFrame fk) && !s.disabled (mapBoard (fkBoard fk))

/-- What a die's measurements give is published for every score that lies on it (R130). -/
def State.publishDie (s : State) (d : Nat) : State :=
  (List.range 64).foldl (fun s slot =>
    if (s.score slot).place.any (fun p => keyDie p.2 == d) && s.canPublish slot then s.publish slot else s) s

/-- The CAL_MEASURE commands whose die is measured end with a publication and their reply. -/
def State.settleMeasure (s : State) (d : Nat) : State :=
  (s.hl.pend.filter fun p => p.op == 0x0404 && p.key / 2 == d && s.dieMeasured d (p.key % 2)).foldl (fun s p =>
    (((s.publishDie d).unpend p.req p.op).finish p.req 0 [])) s

/-- One trim conversion of a visit: the 16th of a point ends it, and the third point the visit (R121, R128). -/
def State.trimStep (s : State) (fk : Nat) (m : Measure) : State :=
  let sums := addSums m.sums (sourceCodes s.fresh)
  let s := s.take 272
  if m.count < 15 then s.setFrame fk { s.frame fk with measure := some { m with count := m.count + 1, sums := sums } }
  else if m.point < 2 then
    (s.setSource fk (m.point == 1) 2 true).setFrame fk { s.frame fk with
      measure := some { m with point := m.point + 1, count := 0, done := m.done ++ [sums], sums := [] } }
  else
    let l := m.done ++ [sums]
    ((s.setSource fk false 0 false).freeFrame fk).applyTrims fk (sumTriples (l.getD 0 []) (l.getD 1 []) (l.getD 2 [])) m.e

/-- One calibration stroke of a visit: the 16th ends it (R122, R128). -/
def State.gainStep (s : State) (fk p : Nat) (m : Measure) : State :=
  let s := s.calDrive fk p
  let sums := addSums m.sums (s.calStroke fk p s.fresh)
  let s := s.take 8
  if m.count < 15 then s.setFrame fk { s.frame fk with measure := some { m with count := m.count + 1, sums := sums } }
  else (s.freeFrame fk).applyGain fk p sums

/-- A row driver read back at v = 2,040, 0 and -2,048: a code more than 0.5 % of full scale away raises DRIVER (R69, R404,
R427). -/
def State.readDriver (s : State) (fk row : Nat) (hi mid lo : Int) : State :=
  let off := fun (v code : Int) => decide (5 * 8388607 * 2048 < 1000 * (code * 2048 - v * 8388607).natAbs)
  let y := s.frame fk
  let s := s.setFrame fk { y with readAt := mput 0 y.readAt row s.now }
  if off 2040 hi ∨ off 0 mid ∨ off (-2048) lo then
    let s := s.frameFault fk 5
    (s.setFrame fk { s.frame fk with diagnose := true }).log 0x107 [fk, row]
  else s

/-- The visit in hand is the one named. -/
def Measure.isVisit (m : Measure) : Visit → Bool
  | .trims => m.gain.isNone
  | .gain p => m.gain == some p.val
  | .readback _ _ _ _ => false

/-! The CAL commands. -/

/-- The digest of the calibration set (R547). -/
def State.calDigest (s : State) : List Byte := sha3 (s.calBytes 0 103104)

/-- CAL_STATUS. -/
def execCalStatus (r : Req) (s : State) : Host.Outcome State Fault Refusal :=
  .next (s.command ⟨0x0400, 1, true, false, false, false, 0, false, false⟩ r fun s =>
    if s.gated r.src 1 0 then .refuse 0x0204 else
    .ok ([word s.sv.calEpoch, word (s.calN 16 1)] ++ bytesToWords (s.calDigest.take 16)) s)

/-- The range of a recount setting (R143). -/
def recountRange (k : Nat) : Nat × Nat := [(6, 24), (1, 6), (16, 4096), (1, 30), (0, 16), (50, 200)].getD k (1, 0)

/-- CAL_RECOUNT (R143). -/
def execCalRecount (r : Req) (s : State) : Host.Outcome State Fault Refusal :=
  .next (s.command ⟨0x0401, 2, false, false, true, true, 2, true, false⟩ r fun s =>
    let (k, v) := (argw r 1, argw r 2)
    if s.gated r.src 5 1 then .refuse 0x0204
    else if v < (recountRange k).1 ∨ (recountRange k).2 < v then .refuse 0x0104
    else .ok [] { s with sv.recount := s.sv.recount.set k v }.savePolicy)

/-- A calibration set written with its header and counter (R465, R547). -/
def State.writeCalSet (s : State) (kind : Nat) (body : List Byte) : State × Bool :=
  match s.ctrInc 2 with
  | (s, true) =>
    let hd := leBytes 4 0x53434C59 ++ leBytes 4 1 ++ leBytes 8 s.serial ++ leBytes 1 kind ++ List.replicate 7 0 ++
      leBytes 8 (s.counter 2) ++ List.replicate 32 0
    s.ledgerPages 24 416 (padTo 0 (416 * 256) (hd ++ padTo 0 103040 (body.drop 64)))
  | r => r

/-- The conditions of R145: every ring paused with no job in flight, and every die at 57-63 °C for 10 minutes. -/
def State.recalReady (s : State) : Bool :=
  s.ringList.all (fun r => (s.ring r).paused && (s.runningOf r).isEmpty) &&
  (List.range 32).all fun u => match (s.thunit u).band with
    | some t => decide (t + 600000000000 ≤ s.now)
    | none => false

/-- The calibration set a recalibration leaves: what the measurements give, with the set's head words and the lifetime
counts of each die kept (R145, R547). -/
def State.recalSet (s : State) : List Byte :=
  let old := s.calBytes 0 103104
  let new := padTo 0 103104 (Config.recalBytes s.fresh)
  (List.range 32).foldl (fun bs d =>
    patch (patch bs (64 + 44 * d) (slice old (64 + 44 * d) 4)) (100 + 44 * d) (slice old (100 + 44 * d) 8)) new

/-- CAL_RECAL (R145): alpha and the programming settings are kept. -/
def execCalRecal (r : Req) (s : State) : Host.Outcome State Fault Refusal :=
  .next (s.command ⟨0x0402, 2, false, true, true, true, 1, true, false⟩ r fun s =>
    if s.gated r.src 1 1 then .refuse 0x0204
    else if argw r 1 ≠ 0x5243414C then .refuse 0x0104
    else if !s.recalReady then .refuse 0x0407
    else
      match (s.take 1).writeCalSet 1 s.recalSet with
      | (s, true) => .ok [] s
      | (_, false) => .refuse 0x040B)

/-- The integer of w bytes at byte o, taken into a range. -/
def within (bs : List Byte) (w : Nat) (lo hi : Int) (o : Nat) : List Byte :=
  leBytes w (pattern (8 * w) (lo + (leAt bs o w : Int) % (hi - lo + 1)))

/-- The measured part of a factory set, from byte 64 on: each value within its bound of R547, the sign of a reference digit and
its nominal value by R120, and the reserved byte of FRM_PRG_WIN 0. -/
def factoryBody (bs : List Byte) : List Byte :=
  let at_ := fun n w => (List.range n).map (w * ·)
  ((List.range 32).flatMap fun d =>
    let o := 64 + 44 * d
    within bs 4 1300 1700 o ++
    (([7864, 5767, 3670, 1573, -1573, -3670, -5767, -7864] : List Int).zipIdx.flatMap fun r =>
      let m : Int := (r.1.natAbs * 3 / 100 : Nat)
      within bs 4 (r.1 - m) (r.1 + m) (o + 4 + 4 * r.2)) ++
    slice bs (o + 36) 3 ++ [0] ++ slice bs (o + 40) 4) ++
  (at_ 784 2).flatMap (fun k => within bs 2 (-8192) 8192 (1472 + k)) ++
  (at_ 136 12).flatMap (fun k => within bs 4 (-65536) 65536 (3040 + k) ++ within bs 4 (-262144) 262144 (3044 + k) ++
    within bs 4 5940000 6060000 (3048 + k)) ++
  (at_ 32 4).flatMap (fun k => within bs 4 (-262144) 262144 (4672 + k)) ++
  (at_ 24576 4).flatMap fun k => within bs 2 (-4096) 4096 (4800 + k) ++ within bs 2 (-13107) 13107 (4802 + k)

/-- CAL_FACTORY (R147). -/
def execCalFactory (r : Req) (s : State) : Host.Outcome State Fault Refusal :=
  .next (s.command ⟨0x0403, 3, false, true, true, true, 1, true, false⟩ r fun s =>
    if s.gated r.src 1 1 then .refuse 0x0204 else
    match s.object (argw r 1) with
    | .error c => .refuse c
    | .ok bs =>
      match s.writeCalSet 0 (List.replicate 64 0 ++ factoryBody (padTo 0 103104 (Config.factorySet bs))) with
      | (s, true) => .ok [] s
      | (_, false) => .refuse 0x040B)

/-- A frame's trims, or the gains of its planes, asked for by CAL_MEASURE. -/
def State.askMeasure (s : State) (fk k : Nat) : State :=
  let y := s.frame fk
  s.setFrame fk (if k = 0 then { y with trimDue := true } else { y with gainDue := List.range 8 })

/-- CAL_MEASURE: the trims or gains of a die measured in measurement visits, then published (R121, R122, R128, R130). -/
def execCalMeasure (r : Req) (s : State) : Host.Outcome State Fault Refusal :=
  .next (s.command ⟨0x0404, 2, false, false, false, true, 2, true, false⟩ r fun s =>
    let (d, k) := (argw r 1, argw r 2)
    if 32 ≤ d ∨ 1 < k then .refuse 0x0104
    else if s.disabled (mapDie d) ∨ (s.die d).lost then .refuse 0x010A
    else
      let busy := fun fk => let y := s.frame fk; y.st == .programming || y.st == .repair
      .pend (2 * d + k) (((s.dieFrames d).filter fun fk => !busy fk).foldl (fun s fk => s.askMeasure fk k) s))

/-! The recount. -/

/-- g60 of a reading (R137). -/
def g60 (alpha tj16 g : Int) : Int := rneQuot (g * 16000000) (16000000 + alpha * (tj16 - 960))

/-- The level a reading names (R137). -/
def readLevel (x : Int) : Nat := (clampI 0 15 (rneDiv ((x - 655) * 10) 13107)).toNat

/-- What a row of a visit shows: the beads beyond 524 codes, the largest departure, the reference beads beyond 524, the
columns of the other beads of 525-590, and whether the identity and peak tests hold. -/
structure RowFind where
  beyond : Nat := 0
  worst : Nat := 0
  refs : Nat := 0
  marks : List Nat := []
  ok : Bool := true
deriving DecidableEq, Repr

/-- A row of a visit classified (R136, R137): readings by index of free values, the re-reads behind them. DESIGN CHOICE: the
identity and peak sums take a stuck or a reference bead at the level it is tested against, not at the k it reads (log
entry 119). -/
def rowFind (alpha tj16 : Int) (h : Header) (side : Side) (row base : Nat) (refLevel : Nat → Nat) : RowFind :=
  let one := fun c =>
    let fix := (stuckAt h.stuck row c).orElse fun _ => if 528 ≤ c then some (refLevel c) else none
    let see := fun n =>
      let x := g60 alpha tj16 (Config.beadRead n)
      let k := fix.getD (readLevel x)
      (k, (x - t60 k).natAbs)
    let a := see (base + c)
    if 524 < a.2 then see (base + 544 + c) else a
  let cs := (List.range 544).map one
  let dig := fun r => ((cs.getD (2 * r) (0, 0)).1 : Int) - (cs.getD (2 * r + 1) (0, 0)).1
  let ident := (List.range 8).all fun j => h.chkOff.testBit j ||
    isum ((List.range 32).map fun k => dig (32 * j + k)) - 32 * dig (256 + j) == side.resid.getD j 0
  let peak := (List.range 256).all fun r => decide ((dig r).natAbs ≤ side.peak)
  { beyond := (cs.filter fun c => decide (524 < c.2)).length,
    worst := ((cs.take 528).map (·.2)).foldl max 0,
    marks := (List.range 528).filter fun c => let x := (cs.getD c (0, 0)).2; decide (524 < x ∧ x ≤ 590),
    refs := ((cs.drop 528).filter fun c => decide (524 < c.2)).length,
    ok := ident && peak }

/-- A frame is the source or the target of a migration in progress (R141). -/
def State.moving (s : State) (fk : Nat) : Bool :=
  (s.repairOf fk).isSome || s.sv.repairs.any fun r => !r.isBoard && r.frame == fk

/-- The recount period of a die in ns: the hot one while any of its sensors reads above 85 °C (R141, R143). -/
def State.recountPeriod (s : State) (d : Nat) : Nat :=
  let hot := (List.range 24).any fun k => decide (16 * 85 < s.reading d k)
  (if hot then s.sv.recount.getD 1 6 else s.sv.recount.getD 0 24) * 3600000000000

/-- When a plane's next recount visit is due (R141), counted from the start where it had none since. -/
def State.visitDueAt (s : State) (fk p : Nat) : Nat :=
  max ((s.frame fk).visits.getD p 0) s.pw.bootT0 + s.recountPeriod (keyDie (fkBoard fk))

/-- The priority of a visit's draws: ahead of job work once it is more than 1 h overdue (R26). -/
def State.recountPrio (s : State) (fk p : Nat) : Nat :=
  if s.visitDueAt fk p + 3600000000000 < s.now then prioOverdue else prioRecount

/-- The tokens of a single-row read: the spec gives no charge (log entry 94). -/
def rowReadTokens : Nat := Config.recountCharge % 65536

/-- Tokens for the next read or spot stroke of a visit: granted, or waited for (R26, R438). -/
def State.visitDraw (s : State) (fk : Nat) (v : Recount) (need : Nat) : State × Bool :=
  let d := keyDie (fkBoard fk)
  if v.paid then (s.setFrame fk { s.frame fk with recount := some { v with paid := false } }, true)
  else if (s.die d).draws.any (fun w => decide (w.work = .recount fk)) then (s, false)
  else s.draw d (s.recountPrio fk v.plane) need (.recount fk)

/-- A row of a visit read and classified; every bead beyond 524 counts in FRM_CNT_RFSH (R136-R138). -/
def State.recountRow (s : State) (fk : Nat) (v : Recount) : State :=
  let s := s.choosePlane fk v.plane
  let x := rowFind (s.alpha (keyDie (fkBoard fk))) (s.tj16 fk) (s.header fk v.plane) (s.sideAt fk v.plane v.row) v.row s.fresh
    fun c => s.bead (beadKey fk v.plane v.row c)
  let s := (s.take 1088).bump (fkBase fk + 0xA8) x.beyond
  s.setFrame fk { s.frame fk with recount := some { v with
    row := v.row + 1, paid := false, refs := v.refs + x.refs, beyond := v.beyond + (x.beyond - x.refs),
    worst := max v.worst x.worst, ok := v.ok && x.ok, marks := v.marks ++ x.marks.map (528 * v.row + ·) } }

/-! Spot checks. -/

/-- The spot strokes of a visit of a plane: none where it is not placed or its image is not resident (R142, R143). -/
def State.spotCount (s : State) (fk p : Nat) : Nat :=
  if s.inService fk ∧ s.residentOf fk ∧ (s.imageOf fk p).isSome then s.sv.recount.getD 4 4 else 0

/-- The largest input code of a spot check: no headroom split occurs (R142). -/
def State.spotMax (s : State) (fk : Nat) : Nat :=
  let limit := lnom (s.fFs fk) (s.fRange fk) * fld (s.frmLive fk 0x28) 0 8 / 256
  (List.range 64).foldl (fun m c => if 512 * 15 * 16 * c ≤ limit then max m c else m) 0

/-- The tokens of a spot stroke: its F-shape charge and its vector work (R47, R142). -/
def State.spotTokens (s : State) (fk : Nat) : Nat := strokeCharge (s.fInteg fk) 512 256 + cdiv (512 * 256) 40

/-- The drive levels of a spot stroke: random A8 codes up to cmax under the committed spans (R36, R142). -/
def State.spotDrive (s : State) (fk i : Nat) : List Int :=
  let m := s.spotMax fk + 1
  let span := s.frmLive fk 0x14
  (List.range 512).map fun row =>
    level false (bit span (row / 64)) 0 (Config.spotInput (frameAddr fk) (s.frame fk).visitN i row % m : Nat)

/-- The sum over the data rods of the squared difference of a spot stroke, trimmed with the current bank, from the exact
lane's value (R142, R233). -/
def State.spotDiff (s : State) (fk p : Nat) (img : PlaneImg) (v : List Int) (n : Nat) : Nat :=
  let bank := match (s.frame fk).placed with | some slot => b2n (s.score slot).bank | none => 0
  let g := gq (s.fFs fk) (s.fRange fk)
  let rows := (List.range 512).map fun row => imgDigits img.fmt (imgRow img.fmt img.bytes row)
  nsum ((List.range 256).map fun r =>
    let p1 := isum ((List.range 512).map fun row => v.getD row 0 * s.digit fk p row r)
    let c := (rodCode (s.fFs fk) (s.fRange fk) p1 (Config.rodError (n + r)) (Config.rodNoise (n + r))).1
    let x := rneShift (g * isum ((rows.zip v).map fun e => e.2 * e.1.getD r 0)) 32
    (s.trim fk bank p r c - x).natAbs ^ 2)

/-- One spot stroke of a visit (R142). -/
def State.spotStroke (s : State) (fk : Nat) (v : Recount) : State :=
  let s := (s.choosePlane fk v.plane).driveRows fk (s.spotDrive fk v.spots)
  let d2 := match s.imageOf fk v.plane with
    | some img => s.spotDiff fk v.plane img (s.spotDrive fk v.spots) s.fresh
    | none => 0
  let s := s.take 256
  s.setFrame fk { s.frame fk with recount := some { v with spots := v.spots + 1, sq := v.sq + d2, paid := false } }

/-- The rms difference over the spot strokes exceeds the tolerance, in 0.01 % of 32,767 codes (R142, R143). -/
def spotFails (sq spots tol : Nat) : Bool := decide (tol ^ 2 * 32767 ^ 2 * (256 * spots) < sq * 10000 ^ 2)

/-- What the spot strokes of a visit lead to (R142). -/
def State.endSpots (s : State) (fk : Nat) (v : Recount) : State :=
  if v.spots = 0 then s
  else
    let y := s.frame fk
    if spotFails v.sq v.spots (s.sv.recount.getD 5 100) then
      let s := s.bump (fkBase fk + 0xAC) 1
      s.setFrame fk { y with spotFails := y.spotFails + 1, diagnose := y.diagnose || decide (1 ≤ y.spotFails) }
    else s.setFrame fk { y with spotFails := 0 }

/-- Tokens of the measurement of a plane's gain (R128). -/
def gainTokens : Nat := 16 * 410

/-- Beads refreshed in place at the end of a visit, after which the plane's gain is measured before it serves again (R110,
R126, R138, R140). -/
def State.refreshPlane (s : State) (fk p : Nat) : State :=
  let h := s.header fk p
  let s := s.setHeader fk p { h with refreshes := hold 131071 (h.refreshes + 1) }
  (s.consumeFirst (keyDie (fkBoard fk)) gainTokens).measureGain fk p

/-- A visit ends with beads of its plane refreshed in place (R138, R140). -/
def State.inPlace (s : State) (fk : Nat) (v : Recount) : Bool :=
  decide (v.refs ≠ 0) || (!s.inService fk && v.ok && decide (v.beyond ≠ 0))

/-- The actions of a visit that has read every row (R138), and the plane refreshed 100,000 times (R110). -/
def State.endVisit (s : State) (fk : Nat) (v : Recount) : State :=
  let p := v.plane
  let placed := s.inService fk
  let inPlace := s.inPlace fk v
  let s := s.endSpots fk v
  let y := s.frame fk
  let s := (s.setFrame fk { y with visits := y.visits.set p s.now, visitN := y.visitN + 1 }).freeFrame fk
  let s := if inPlace then s.refreshPlane fk p else s
  let y := s.frame fk
  let s :=
    if !placed then (if v.ok then s else s.setHeader fk p { (s.header fk p) with fmt := 3 })
    else if !v.ok then
      (s.setFrame fk { y with damaged := if y.damaged.contains p then y.damaged else y.damaged ++ [p],
                              migrate := y.migrate || s.residentOf fk }).log 0x108 [fk, p]
    else if 590 < v.worst then s.setFrame fk { y with migrate := true }
    else if 524 < v.worst then
      let ms := (y.marks ++ v.marks.map (528 * 512 * p + ·)).eraseDups
      s.setFrame fk { y with marks := ms, oldMark := if y.marks = [] then s.now else y.oldMark,
                             migrate := y.migrate || decide (s.sv.recount.getD 2 256 ≤ ms.length) }
    else s
  if (s.header fk p).refreshes < 100000 then s
  else if placed then s.setFrame fk { s.frame fk with migrate := true }
  else s.retire fk

/-- RECOUNT_VISIT (R27, R136-R142): it begins once its period has passed, in an idle gap; each further one is a single-row
read, then a spot stroke, then its end; one that has yielded waits for the frame. -/
def execRecountVisit (d : Die) (b : Brd) (f : Frm) (p : Pln) (s : State) : Host.Outcome State Fault Refusal :=
  let fk := frameKey d b f
  let y := s.frame fk
  match y.recount with
  | none =>
    if !s.visitable fk ∨ y.st = .repair ∨ s.moving fk ∨ s.now < s.visitDueAt fk p then .next s
    else .next ((s.setFrame fk { y with recount := some { plane := p } }).holdFrame fk)
  | some v =>
    if v.plane ≠ p.val ∨ s.pstate ≠ 2 ∨ y.st = .stroking ∨ y.stroke.isSome then .next s
    else if 512 ≤ v.row ∧ s.spotCount fk v.plane ≤ v.spots then
      -- a refresh waits for the tokens of the measurement that follows it (R22, R126, R128)
      .next (if s.inPlace fk v ∧ !s.canDraw d prioMet gainTokens then s else s.endVisit fk v)
    else
      match s.visitDraw fk v (if v.row < 512 then rowReadTokens else s.spotTokens fk) with
      | (s, false) => .next s
      | (s, true) => .next (if v.row < 512 then s.recountRow fk v else s.spotStroke fk v)

end Sys2Proof.Machine
end

