-- ==== Sys2Proof/Machine/ScoreCheck.lean ====
section
/-! DEFINITION. The checks of a score at load (R254): header and layout (R248, R249), manifest limits (R253), instructions
(R237-R240), spans and groups (R159, R184, R189, R216), streams (R192, R193, R550, R551), images (R85). -/

namespace Sys2Proof.Machine

/-! The file. -/

/-- Section n of a score file: offset and length (R248). -/
def section_ (bs : List Byte) (n : Nat) : Nat × Nat := (leAt bs (32 + 16 * n) 8, leAt bs (40 + 16 * n) 8)

/-- The digest of the header's bytes 0-159 and sections 0-4 (R248). -/
def scoreDigest (bs : List Byte) : List Byte :=
  sha3 (bs.take 160 ++ (List.range 5).flatMap fun n => slice bs (section_ bs n).1 (section_ bs n).2)

/-- The stage header at bytes of section 1, with its reserved bits and bytes 0 (R251, R254): its logical boards stand in the
manifest from `blist` on, two bytes each (log entry 109). -/
def headerOk (bs : List Byte) (h : StageHdr) (at_ : Nat) : Bool :=
  let b := fun o n => leAt bs (at_ + o) n
  let list := (section_ bs 0).1 + b 4 4
  b 0 2 == h.stage && b 2 2 == h.boards.length && decide (b 4 4 + 2 * h.boards.length ≤ (section_ bs 0).2) &&
  (List.range h.boards.length).all (fun i => leAt bs (list + 2 * i) 2 == h.boards.getD i 0) &&
  b 8 2 == h.entry && b 10 1 == h.flags && decide (h.flags < 16) && b 11 1 == h.mode && decide (h.mode < 64) &&
  b 12 4 == h.slate && b 16 2 == h.tslots && b 18 2 == h.streams && b 20 4 == h.carryIn && b 24 4 == h.carryOut &&
  b 28 2 == h.gsize && b 30 2 == 0 && (slice bs (at_ + 32) 32).all (· == 0)

/-- Section 2: each logical board's instruction count, four bytes, then its instructions (R249; log entry 109). -/
def progBytes (f : ScoreFile) : List Byte := f.boards.flatMap fun i => leBytes 4 i.prog.length ++ i.prog.flatMap (leBytes 16)

/-- A frame-plane of section 4: logical die, board, frame, plane, format code and three zero bytes, then its packed image
(R249; log entry 109). -/
def planeRecord (f : ScoreFile) (p : PlaneImg) : List Byte :=
  let at_ := f.man.lboards.getD p.lb (0, 0)
  [at_.1, at_.2, p.frame, p.plane, p.fmt, 0, 0, 0].flatMap (leBytes 1) ++ p.bytes

/-- The sections hold what the file is taken to hold; an encrypted image is read from its opened records (R249). -/
def contentsOk (bs : List Byte) (f : ScoreFile) : Bool :=
  let sec := fun n => slice bs (section_ bs n).1 (section_ bs n).2
  f.stages.zipIdx.all (fun h => headerOk bs h.1 ((section_ bs 1).1 + 64 * h.2)) &&
  f.boards.map (·.lb) == List.range f.boards.length && sec 2 == progBytes f &&
  (leAt bs 6 2 % 2 == 1 || sec 4 == f.planes.flatMap (planeRecord f))

/-- Header and section layout (R248, R249); an encrypted image may lack the records that failed to open. -/
def layoutOk (bs : List Byte) (f : ScoreFile) : Bool :=
  let used := (List.range 8).filter fun n => (section_ bs n).2 != 0
  let span := fun n => ((section_ bs n).1, (section_ bs n).1 + (section_ bs n).2)
  let flags := leAt bs 6 2
  decide (256 ≤ bs.length) && decide (1 ≤ leAt bs 16 4 ∧ leAt bs 16 4 ≤ 4096 ∧ 1 ≤ leAt bs 20 4 ∧ leAt bs 20 4 ≤ 6144) &&
  leAt bs 0 4 == 0x53424C59 && leAt bs 4 2 == 3 && decide (flags < 4) &&
  leAt bs 16 4 == f.stages.length && leAt bs 20 4 == f.man.lboards.length &&
  (leAt bs 24 4 == f.planes.length || (flags % 2 == 1 && decide (f.planes.length ≤ leAt bs 24 4))) &&
  leAt bs 28 4 == 0 && leAt bs 224 32 == 0 && used.all (fun n => decide (n < 6)) && [0, 1, 2, 5].all used.contains &&
  used.all (fun n => (span n).1 % 64 == 0 && decide (256 ≤ (span n).1 ∧ (span n).2 ≤ bs.length)) &&
  used.all (fun n => used.all fun m => n == m || decide ((span n).2 ≤ (span m).1 ∨ (span m).2 ≤ (span n).1)) &&
  (section_ bs 1).2 == 64 * f.stages.length && (span 5).2 == bs.length &&
  used.all (fun n => n == 5 || decide ((span n).2 ≤ (span 5).1)) && contentsOk bs f

/-! The manifest. -/

/-- The steps of the largest buckets (R260). -/
def maxSteps (m : Manifest) : Nat :=
  m.dims.foldl (fun n d => n * (d.buckets.getLastD d.q / max 1 d.q)) 1

/-- Strictly ascending numbers. -/
def ascending : List Nat → Bool
  | a :: b :: r => decide (a < b) && ascending (b :: r)
  | _ => true

/-- A dynamic dimension within R260. -/
def dimOk (d : Dim) : Bool :=
  decide (1 ≤ d.q ∧ d.q ≤ 4096 ∧ 1 ≤ d.buckets.length ∧ d.buckets.length ≤ 8) && ascending d.buckets &&
  d.buckets.all fun b => decide (0 < b ∧ b ≤ 65536) && b % d.q == 0

/-- A key/value pool within R310. -/
def kvOk (k : KvPool) : Bool := [32, 64, 128, 256, 512].contains k.d

/-- No number twice. -/
def distinct (l : List Nat) : Bool := l.eraseDups.length == l.length

/-- The manifest within the limits of R251, R253, R260 and R549. -/
def manifestOk (f : ScoreFile) : Bool :=
  let m := f.man
  let nb := m.lboards.length
  let size := fun h => nsum (m.bufs.map fun b => if b.hub.val = h ∧ b.cached = true then b.size else 0)
  let buf := fun (k n : Nat) => n == 0 || decide (k < m.bufs.length)
  decide (1 ≤ f.stages.length ∧ f.stages.length ≤ 4096 ∧ 1 ≤ nb ∧ nb ≤ 6144 ∧ f.boards.length = nb) &&
  decide (m.dims.length ≤ 4 ∧ m.pc ≤ 2 ^ 20 ∧ m.po ≤ 2 ^ 20 ∧ maxSteps m ≤ 2 ^ 20) && m.dims.all dimOk &&
  decide (m.bufs.length ≤ 256 ∧ size 0 ≤ 0x1800000 ∧ size 1 ≤ 0x1800000) &&
  decide (m.msets.length ≤ 256) &&
  m.msets.all (fun s => decide (1 ≤ s.length ∧ s.length ≤ 1024) && s.all fun b => decide (b < nb)) &&
  decide (m.kv.length ≤ 16) && m.kv.all kvOk && decide (m.reserve ≤ 8 ∧ 1 ≤ m.contexts ∧ m.contexts ≤ 64) &&
  m.lboards.all (fun p => decide (p.1 < 32 ∧ p.2 < 192)) && distinct (m.lboards.map fun p => 192 * p.1 + p.2) &&
  m.succ.all (fun l => l.all fun t => decide (t < f.stages.length)) &&
  f.stages.all (fun h =>
    decide (h.stage < f.stages.length ∧ 1 ≤ h.boards.length ∧ h.boards.length ≤ 1024) &&
    decide (h.flags < 16 ∧ h.mode < 64 ∧ h.slate ≤ 131072 ∧ h.tslots ≤ 2048 ∧ h.gsize ≤ 3 ∧ h.carryIn ≤ 4095)) &&
  distinct (f.stages.map (·.stage)) &&
  -- every logical board runs one stage and has one program
  distinct (f.stages.flatMap (·.boards)) && nsum (f.stages.map (·.boards.length)) == nb &&
  f.stages.all (fun h => h.boards.all fun b => decide (b < nb)) &&
  distinct (f.boards.map (·.lb)) && f.boards.all (fun b => decide (b.lb < nb)) &&
  m.persist.all (fun p => decide (p.1 < nb ∧ p.2.1 + m.contexts * p.2.2 ≤ 131072)) &&
  buf m.inBuf (m.inCode + m.inExp) && buf m.outBuf (m.outCode + m.outExp) &&
  (!m.dims.any (·.masked) || decide (m.maskBuf < m.bufs.length)) &&
  -- a last stage has no successor (R239, R251)
  f.stages.all (fun h => h.flags / 4 % 2 == 0 || m.succ.getD h.stage [] == []) &&
  (m.inShape ++ m.outShape).all (fun d => decide (d.2 ≤ m.dims.length)) && decide (m.inGroup ≤ 3) &&
  m.drives.all (fun d => decide (d.lb < nb ∧ d.at_ + d.len ≤ 131072) &&
    match Fmt.ofCode d.fmt with | some g => g.isDrive | none => false) &&
  (m.inCode == 0 || dataFormat m.inFmt) && (m.outCode == 0 || dataFormat m.outFmt)

/-! A scratch machine that holds every logical board under its own number, for the checks of programs. -/

/-- Board offsets whose registers a score gives values (R249, R251). -/
def scoreReg (o : Nat) : Bool :=
  o == 0x40014 || decide (0x40100 ≤ o ∧ o < 0x46000) ||
  (decide (0x80000 ≤ o ∧ o < 0x80000 + 34 * 0x1000) && snapRegs.contains (o % 0x1000))

/-- Frames a board's program strokes. -/
def strokedFrames (prog : List Nat) : List Nat := (prog.filterMap fun w => if topc w = 1 then some (tf w 0 16 6) else none).eraseDups

/-- The registers of a board written from its stage header and the score's values (R207, R251); the mode byte sets the frames a
stage that strokes frames names (R124), and a frame's values take effect as one commit, refused where one is reserved (R71,
R72). -/
def State.loadRegs (s : State) (bk : Nat) (h : StageHdr) (i : BoardImg) : State :=
  let write := fun (s : State) (r : Nat × Word) =>
    if r.1 < 0x80000 then s.scoreWrite bk r.1 r.2 else s.setReg (bkBase bk + r.1) r.2
  let s := (i.regs.filter fun r => scoreReg r.1).foldl write s
  let s := s.scoreWrite bk 0x40008 (word (cdiv h.slate 8 * 2 ^ 14))
  let s := s.scoreWrite bk 0x4000C (word (h.tslots * 2 ^ 11))
  let s := s.scoreWrite bk 0x40010 (word h.entry)
  let own := if h.flags / 8 % 2 = 1 then (strokedFrames i.prog).filter fun f => decide (f < 34) else []
  let s := own.foldl (fun s f => s.setReg (fkBase (34 * bk + f) + 0x10) (put (s.reg (fkBase (34 * bk + f) + 0x10)) 0 6 h.mode)) s
  let set := i.regs.filterMap fun r => if scoreReg r.1 ∧ 0x80000 ≤ r.1 then some ((r.1 - 0x80000) / 0x1000) else none
  (own ++ set).eraseDups.foldl (fun s f =>
    let fk := 34 * bk + f
    (s.setFrame fk { s.frame fk with snap := some (snapRegs.map fun o => s.reg (fkBase fk + o)) }).applyCommit fk) s

/-- The stage header of a logical board. -/
def fileStage (f : ScoreFile) (lb : Nat) : StageHdr :=
  (f.stages.find? fun h => h.boards.contains lb).getD { stage := 0, boards := [] }

def scratch (f : ScoreFile) : State :=
  let s := ({} : State).setScore 0 { st := 1, file := f, place := f.boards.map fun i => (i.lb, i.lb) }
  let s := f.boards.foldl (fun s i =>
    let h := fileStage f i.lb
    (s.setBoard i.lb { score := some 0, stage := h.stage, lb := i.lb }).loadRegs i.lb h i) s
  f.planes.foldl (fun s p => s.setHeader (34 * p.lb + p.frame) p.plane { fmt := p.fmt }) s

/-! Instructions. -/

/-- LOOPs nest at most 4 deep (R239). -/
def loopsOk (prog : List Nat) : Bool :=
  let ls := prog.zipIdx.filterMap fun p => if topc p.1 = 0x0E then some (tf p.1 0 16 10, p.2) else none
  ls.all fun l => decide ((ls.filter fun m => decide (m.1 ≤ l.2 ∧ l.2 ≤ m.2)).length ≤ 4)

/-- What an instruction names in the manifest is there. -/
def refsOk (f : ScoreFile) (i : BoardImg) (pc w : Nat) : Bool :=
  match topc w with
  | 0x05 => tf w 0 23 1 == 0 || decide (tf w 0 24 8 < f.man.msets.length)
  | 0x06 =>
    tf w 0 30 1 == 0 ||
    (match i.reloc.find? fun r => r.1 == pc with
     | some r => (match f.man.bufs[r.2.1]? with
       | some b => decide (64 * r.2.2 < b.size)
       | none => false)
     | none => false)
  | 0x08 => f.man.lboards.contains (tf w 1 12 5, tf w 1 17 8)
  | 0x0A => decide (tf w 2 0 16 < f.man.bufs.length)
  | _ => true

/-- Formats of a DRAIN's residual, and those its stream may have: group-scaled ones come from the vector unit alone (R175). -/
def resFmt (f : Fmt) : Bool :=
  f == .int8 || f == .int16 || f == .int32 || f == .e4m3 || f == .e5m2 || f == .bf16 || f == .fp16 || f == .fp32

/-- A DRAIN places its formats where R175 has them. -/
def State.drainFmts (s : State) (bk w : Nat) : Bool :=
  let c := s.breg bk (0x41000 + 16 * tf w 0 16 3)
  topc w != 5 ||
  ((!bit c 4 || match Fmt.ofCode (fld c 17 5) with | some f => resFmt f | none => false) &&
   (!bit c 6 || match s.strFmt bk (tf w 0 19 4) with | some f => !f.isGroup | none => false))

/-- Every instruction of a board is one the module runs (R175, R237-R240). -/
def programOk (s : State) (f : ScoreFile) (i : BoardImg) : Bool :=
  decide (1 ≤ i.prog.length ∧ i.prog.length ≤ 1024 ∧ (fileStage f i.lb).entry < i.prog.length) && loopsOk i.prog &&
  (i.prog.zipIdx.all fun p => !s.illegal i.lb p.2 p.1 && refsOk f i p.2 p.1 && s.drainFmts i.lb p.1) &&
  (i.regs.all fun r => scoreReg r.1 && match regAt (bkBase i.lb + r.1) with
    | some g => r.2 &&& ~~~ BitVec.ofNat 32 g.mask == 0
    | none => false) &&
  (i.slate.all fun p => decide (p.1 + p.2.length ≤ 131072)) &&
  i.init.all fun e => decide (e.1 < 16 ∧ -32 ≤ e.2.2 ∧ e.2.2 ≤ 31)

/-! Group boundaries and spans. -/

/-- A STROKE that does work. -/
def strokes (w : Nat) : Bool := decide (topc w = 1 ∧ tnb w ≠ 0 ∧ (strokeOp w).nrow ≠ 0 ∧ (strokeOp w).nrod ≠ 0)

/-- The signedness of a STROKE's span: bipolar when turned, else that of its first span group (R159, R216). -/
def State.driveSigned (s : State) (bk w : Nat) : Bool :=
  let o := strokeOp w
  decide (o.turn ≠ 0) || bit (s.frmLive (34 * bk + o.frame) 0x14) (o.row0 / 64)

/-- The slate range of a STROKE's input codes (R192, R238). -/
def State.strokeIn (s : State) (bk w : Nat) : Option (Nat × Nat) :=
  let o := strokeOp w
  if !strokes w then none
  else span (8 * o.xaddr) (8 * s.inStride bk o.sidx) (tnb w) (if s.a4 bk o.sidx then cdiv o.nrow 2 else o.nrow)

/-- The span groups of a STROKE's window are of one signedness, bipolar when turned, and no A4 input is turned; the drive
tensors it reads have the width and the signedness that its stride set and its span give them (R159, R189, R216, R238). -/
def State.spansOk (s : State) (f : ScoreFile) (bk w : Nat) : Bool :=
  let o := strokeOp w
  let last := if o.turn = 0 then o.row0 + o.nrow - 1 else o.row0 + shapeRows o.shape - 1
  let want := s.driveSigned bk w
  let signed_ := if o.turn = 0 then want else s.sgn bk o.sidx
  let fits := fun (d : DriveTensor) =>
    match Fmt.ofCode d.fmt with
    | some g => (decide (g.bits = 4) == s.a4 bk o.sidx) && (decide (g.range.1 < 0) == signed_)
    | none => false
  !strokes w || ((decide (o.turn = 0) || !s.a4 bk o.sidx) &&
    ((List.range (last / 64 + 1 - o.row0 / 64)).all fun g =>
      bit (s.frmLive (34 * bk + o.frame) 0x14) (o.row0 / 64 + g) == want) &&
    f.man.drives.all fun d => d.lb != bk || !overlap (s.strokeIn bk w) (some (d.at_, d.at_ + d.len)) || fits d)

/-- Slots [lo, hi) that hold a sum of strokes of one signedness and turn. -/
abbrev Span := Nat × Nat × Bool × Nat

/-- What remains of spans once slots [lo, hi) are cleared. -/
def clearSpans (lo hi : Nat) (l : List Span) : List Span :=
  l.flatMap fun x =>
    (if x.1 < min x.2.1 lo then [(x.1, min x.2.1 lo, x.2.2)] else []) ++
    (if max x.1 hi < x.2.1 then [(max x.1 hi, x.2.1, x.2.2)] else [])

/-- The spans of one STROKE's iterations (R237). -/
def State.strokeSpans (s : State) (bk w : Nat) : List Span :=
  let o := strokeOp w
  let n := if s.strokeW9 bk o.frame o.plane then o.nrod / 2 else o.nrod
  if !strokes w then []
  else (List.range (tnb w)).map fun i =>
    let lo := o.tslot + s.tlyStride bk o.sidx * i
    (lo, lo + n, s.driveSigned bk w, o.turn)

/-- Spans of two sums share slots and differ in their drives. -/
def unlike (a b : Span) : Bool := decide (a.1 < b.2.1 ∧ b.1 < a.2.1 ∧ a.2.2 ≠ b.2.2)

/-- One instruction on the spans a tally holds, with the spans that carries bring: what it adds and what it clears (R216,
R218, R219). -/
def State.spanStep (s : State) (bk : Nat) (inc : List Span) (w : Nat) (l : List Span) : List Span :=
  let lo := tf w 0 16 11
  let hi := lo + tf w 1 0 12
  match topc w with
  | 0x01 => (l ++ s.strokeSpans bk w).eraseDups
  | 0x03 => clearSpans lo hi l
  | 0x09 => (l ++ inc.filter fun x => decide (lo ≤ x.1 ∧ x.2.1 ≤ hi)).eraseDups
  | _ => l

/-- The spans behind each instruction of a program, once more from those known so far: an instruction follows the one before it
and every LOOP that jumps to it (R239). -/
def State.spanPass (s : State) (bk : Nat) (inc : List Span) (prog : List Nat) (old : List (List Span)) : List (List Span) :=
  (prog.zipIdx.foldl (fun (acc : List Span × List (List Span)) p =>
    let back := (prog.zipIdx.filter fun q => topc q.1 == 0x0E && tf q.1 0 16 10 == p.2 && tf q.1 1 0 16 != 0).flatMap fun q =>
      old.getD q.2 []
    let out := s.spanStep bk inc p.1 (acc.1 ++ back).eraseDups
    (out, acc.2 ++ [out])) ([], [])).2

/-- Passes until one adds nothing more. -/
def State.spanPasses (s : State) (bk : Nat) (inc : List Span) (prog : List Nat) : Nat → List (List Span) → List (List Span)
  | 0, old => old
  | n + 1, old =>
    let new := s.spanPass bk inc prog old
    if new = old then old else s.spanPasses bk inc prog n new

/-- The spans behind each instruction: each pass carries them round one more LOOP of a chain. -/
def State.spansAt (s : State) (bk : Nat) (inc : List Span) (prog : List Nat) : List (List Span) :=
  s.spanPasses bk inc prog (prog.length + 2) []

/-- The logical board at a logical die and position. -/
def logicalAt (m : Manifest) (d b : Nat) : Nat := (m.lboards.idxOf? (d, b)).getD 0

/-- The spans a board's CSENDs send, with the logical board they go to. -/
def State.spansSent (s : State) (f : ScoreFile) (inc : List Span) (i : BoardImg) : List (Nat × Span) :=
  (i.prog.zip (s.spansAt i.lb inc i.prog)).flatMap fun p =>
    let w := p.1
    let lo := tf w 0 16 11
    let hi := lo + tf w 1 0 12
    let d := tf w 2 0 11
    if topc w ≠ 8 then []
    else
      -- one carry holds 32 slots, and a CRECV takes it whole (R219, R282)
      (List.range (cdiv (hi - lo) 32)).flatMap fun n =>
        let a := lo + 32 * n
        let b := min hi (a + 32)
        (p.2.filter fun x => decide (x.1 < b ∧ a < x.2.1)).map fun x =>
          (logicalAt f.man (tf w 1 12 5) (tf w 1 17 8), d + (max x.1 a - lo), d + (min x.2.1 b - lo), x.2.2)

/-- The spans that travel in carries, followed from board to board (R216). -/
def State.carried (s : State) (f : ScoreFile) : Nat → List (Nat × Span) → List (Nat × Span)
  | 0, sent => sent
  | n + 1, sent =>
    let go := (f.boards.flatMap fun i => s.spansSent f ((sent.filter fun x => x.1 == i.lb).map (·.2)) i).eraseDups
    if go = sent then sent else s.carried f n go

/-- Group boundaries and spans over a whole score: unturned and turned rows in their spans, and one signedness and turn
in every reduction, those that carries join among them (R159, R184, R189, R216). -/
def reductionsOk (s : State) (f : ScoreFile) : Bool :=
  let sent := s.carried f (f.boards.length + 1) []
  (f.boards.all fun i => i.prog.all fun w => s.spansOk f i.lb w) &&
  f.boards.all fun i =>
    let inc := (sent.filter fun x => x.1 == i.lb).map (·.2)
    (s.spansAt i.lb inc i.prog).all fun l => l.all fun a => l.all fun b => !unlike a b

/-! Streams. -/

/-- Formats a dynamic stream may have (R193). -/
def dynFmt (f : Fmt) : Bool := f.isDrive || f == .int8 || f == .int16 || f == .e4m3 || f == .e5m2

/-- The stream an instruction writes through, and the slate ranges it writes (R192, R237). -/
def State.streamWrites (s : State) (bk w : Nat) : Option (Nat × List (Nat × Nat)) :=
  let nb := tnb w
  let take := fun (n : Nat) (l : List (Option (Nat × Nat))) => some (n, l.filterMap id)
  match topc w with
  | 0x05 =>
    let n := tf w 0 19 4
    let st := 8 * s.outStride bk (tf w 1 23 4)
    let f := (s.strFmt bk n).getD .fp32
    if !bit (s.breg bk (0x41000 + 16 * tf w 0 16 3)) 6 then none
    else take n [span (8 * tf w 2 0 14) st nb (codeBytes f (tf w 1 11 12)),
                 spanOf (8 * tf w 2 14 14) st nb fun k =>
                   s.expDrain bk n (tf w 1 0 11 + s.tlyStride bk (tf w 1 23 4) * k) (tf w 1 11 12)]
  | 0x06 =>
    let n := tf w 1 13 4
    let (m, c) := vmmTile (tf w 0 16 2)
    let st := 8 * s.outStride bk (tf w 1 17 4)
    let f := (s.strFmt bk n).getD .fp32
    if tf w 1 0 13 = 0 then none
    else take n [span (8 * tf w 2 14 14) st nb (codeBytes f (m * c)), span (32 * tf w 3 20 12) st nb (m * s.perRow bk n c)]
  | 0x07 =>
    let fn := tf w 0 21 8
    let n := tf w 1 16 4
    let m := vopOut fn (tf w 1 0 16)
    let st := 8 * s.outStride bk (tf w 1 20 4)
    let f := (s.strFmt bk n).getD .fp32
    let e := s.perRow bk n m
    if fn = 0xB ∨ tf w 1 0 16 = 0 then none
    else take n [span (8 * tf w 3 0 14) st nb (if fn = 0xA then codeBytes f m else cdiv (codeBytes f m) 8 * 8 + e),
                 if fn = 0xA then span (8 * tf w 3 14 14) st nb e else none]
  | _ => none

/-- The input-code ranges of a program's STROKEs (R192). -/
def State.strokeInputs (s : State) (bk : Nat) (prog : List Nat) : List (Nat × Nat) := prog.filterMap (s.strokeIn bk)

/-- An instruction's blocks do not overlap the next (R551). -/
def State.blocksOk (s : State) (bk w : Nat) : Bool :=
  let nb := tnb w
  let fit := fun (stride len : Nat) => decide (nb ≤ 1 ∨ len ≤ stride)
  let grouped := fun n => decide (1 ≤ s.strGran bk n)
  match topc w with
  | 0x06 =>
    let (m, c) := vmmTile (tf w 0 16 2)
    let i := tf w 1 17 4
    let fa := (Fmt.ofCode (tf w 0 18 5)).getD .fp32
    let n := tf w 1 13 4
    (!fa.isGroup || fit (8 * s.inStride bk i) (blockBytes fa m (tf w 1 0 13))) &&
    (!grouped n || fit (8 * s.outStride bk i) (codeBytes ((s.strFmt bk n).getD .fp32) (m * c)))
  | 0x07 =>
    let fn := tf w 0 21 8
    let i := tf w 1 20 4
    let fin := (Fmt.ofCode (tf w 0 16 5)).getD .fp32
    let n := tf w 1 16 4
    let m := vopOut fn (tf w 1 0 16)
    let f := (s.strFmt bk n).getD .fp32
    (!fin.isGroup || fit (8 * s.inStride bk i) (blockBytes fin 1 (tf w 1 0 16))) &&
    -- the codes of a CVT or GENC, and the exponents at x, are arrays of their own
    (fn != 0xA || !grouped n || (fit (8 * s.outStride bk i) (codeBytes f m) && fit (8 * s.outStride bk i) (s.perRow bk n m))) &&
    (fn == 0xA || fn == 0xB || !grouped n || fit (8 * s.outStride bk i) (cdiv (codeBytes f m) 8 * 8 + s.perRow bk n m))
  | _ => true

/-- The streams of a score (R192, R193, R550, R551). -/
def streamsOk (s : State) (f : ScoreFile) : Bool :=
  let inputs := f.boards.map fun i => (i.lb, s.strokeInputs i.lb i.prog)
  f.boards.all fun i =>
    let lb := i.lb
    ((List.range 16).all fun n =>
      let fmt := (s.strFmt lb n).getD .fp32
      let slots := (List.range (s.strN lb n)).map fun p => s.strSlot0 lb n + p
      decide (s.strN lb n = 0) ||
      (decide (s.strGran lb n ≤ 4 ∧ s.strSlot0 lb n + s.strN lb n ≤ 2048) && (s.strFmt lb n).isSome &&
       (!s.strDyn lb n || dynFmt fmt) &&
       (!fmt.isDrive ||
        (if s.strDyn lb n then i.init.all fun e => e.1 != n || e.2.2 != -32
         else slots.all fun j => s.sclOut lb j != -32)))) &&
    i.prog.all fun w =>
      s.blocksOk lb w &&
      match s.streamWrites lb w with
      | none => true
      | some (n, rs) =>
        let dst := if topc w = 0x05 ∧ tf w 0 23 1 = 1 then f.man.msets.getD (tf w 0 24 8) [] else [lb]
        let drives := inputs.any fun e => dst.contains e.1 && e.2.any fun x => rs.any fun r => overlap (some x) (some r)
        !drives || decide (1 ≤ s.strGran lb n ∧ s.strGran lb n ≤ 4)

/-- The frame-planes of an image lie on mapped frames of the score's boards, each once (R15, R249). -/
def planesOk (f : ScoreFile) : Bool :=
  f.planes.all (fun p => decide (p.lb < f.man.lboards.length ∧ p.frame < 32 ∧ p.plane < 8 ∧ p.fmt < 3)) &&
  distinct (f.planes.map fun p => (34 * p.lb + p.frame) * 8 + p.plane)

/-- The argument checks of R254 after the header: format use, instructions, groups, streams and manifest limits. -/
def scoreOk (f : ScoreFile) : Bool :=
  manifestOk f && planesOk f &&
  (let s := scratch f
   f.boards.all (programOk s f) && reductionsOk s f && streamsOk s f)

end Sys2Proof.Machine
end

