-- ==== Sys2Proof/Machine/Scores.lean ====
section
/-! DEFINITION. Scores: placement on boards and frames (R252, R266, R110), pool and DRAM space (R265, R298, R308), the load
and what it writes (R207, R252, R254, R373, R374), and the SCORE commands. -/

namespace Sys2Proof.Machine

/-! Capacity. -/

/-- The reserve a die keeps: the largest of the scores that touch it (R266). -/
def State.reserveOf (s : State) (d : Nat) (own : Nat) : Nat :=
  (s.wk.scores.filter fun e => decide (2 ≤ e.2.st) && e.2.place.any fun p => keyDie p.2 == d).foldl
    (fun n e => max n e.2.file.man.reserve) own

/-- Physical dies for a logical die in the order of R252. -/
def dieOrder (d : Nat) : List Nat :=
  let stack := (List.range 4).map (4 * (d / 4) + ·)
  [d] ++ stack.filter (· != d) ++ (List.range 32).filter fun e => !stack.contains e

/-- Each logical die of a manifest given a physical die, in ascending order (R252): none where no die has room. -/
def State.mapDies (s : State) (m : Manifest) : List Nat → List (Nat × Nat) → Option (List (Nat × Nat))
  | [], acc => some acc
  | d :: r, acc =>
    let need := (m.lboards.filter fun p => p.1 == d).length
    let fits := fun e =>
      !s.disabled (mapDie e) && !(s.die e).lost && !(acc.any fun p => p.2 == e) &&
      decide (need + s.reserveOf e m.reserve ≤ ((List.range 192).filter fun b => s.freeBoard (boardKey e b)).length)
    match (dieOrder d).find? fits with
    | some e => s.mapDies m r (acc ++ [(d, e)])
    | none => none

def meshHops (a b : Nat) : Nat :=
  ((a % 16 : Nat) - (b % 16 : Nat) : Int).natAbs + ((a / 16 : Nat) - (b / 16 : Nat) : Int).natAbs

/-- The logical boards in order placed on their dies: at their position, or on the nearest free board (R252). -/
def State.mapBoards (s : State) (dies : List (Nat × Nat)) : List ((Nat × Nat) × Nat) → List (Nat × Nat) → List (Nat × Nat)
  | [], acc => acc
  | ((d, p), lb) :: r, acc =>
    let e := ((dies.find? fun x => x.1 == d).map (·.2)).getD d
    let free := ((List.range 192).map (boardKey e)).filter fun k => s.freeBoard k && !acc.any fun x => x.2 == k
    let best := free.foldl (fun (b : Option Nat) k =>
      match b with
      | some c => if meshHops (keyBrd k) p < meshHops (keyBrd c) p then some k else b
      | none => some k) none
    match best with
    | some k => s.mapBoards dies r (acc ++ [(lb, k)])
    | none => s.mapBoards dies r acc

/-- A frame that no placement may take: retired or disabled, or in repair; worn planes are told apart (R110, R252). -/
def State.badFrame (s : State) (fk : Nat) : Bool :=
  let y := s.frame fk
  s.disabled (mapFrame fk) || (y.st != .idle && y.st != .spare && y.st != .recount) || y.prg.isSome

def State.wornFrame (s : State) (fk : Nat) (planes : List Nat) : Bool :=
  planes.any fun p => decide (10000 ≤ (s.header fk p).cycles ∨ 100000 ≤ (s.header fk p).refreshes)

/-- The home frames a score places and their planes. -/
def homes (x : Score) : List (Nat × List Nat) :=
  let ks := (x.file.planes.filterMap fun i => (x.boardOf i.lb).map fun bk => 34 * bk + i.frame).eraseDups
  ks.map fun k => (k, (x.file.planes.filter fun i => (x.boardOf i.lb).map (fun bk => 34 * bk + i.frame) == some k).map (·.plane))

/-- Every home frame placed: on itself, or on a replacement in the order of R474 (R252): the code where none is left. -/
def State.placeFrames (s : State) (slot : Nat) : List (Nat × List Nat) → Except Nat State
  | [] => .ok s
  | (home, ps) :: r =>
    let x := s.score slot
    let fk := x.frameAt (home / 34) (home % 34)
    let worn := x.st == 1 && s.wornFrame fk ps
    if !s.badFrame fk && !worn then s.placeFrames slot r
    else
      let code := if s.badFrame fk then 0x030F else 0x0304
      match s.replacements fk slot with
      | [] => .error code
      | k :: _ =>
        let s := s.moveFrame slot fk k 0
        if 4 < ((s.score slot).redirsOf (home / 34)).length then .error 0x030F else s.placeFrames slot r

/-- The lowest aligned start of n bytes from lo that meets none of the taken ranges. -/
def firstFit (taken : List (Nat × Nat)) (lo n : Nat) : Nat :=
  let up := fun a => cdiv a 64 * 64
  let ok := fun a => taken.all fun t => decide (a + n ≤ t.1 ∨ t.2 ≤ a)
  let starts := (lo :: taken.map fun t => max lo (up t.2)).filter ok
  starts.foldl min (starts.headD lo)

/-- What scores hold of a hub's pool, or of its DRAM, as ranges: buffers, and key/value page pools. -/
def State.bufRanges (s : State) (hub : Nat) (pool : Bool) : List (Nat × Nat) :=
  s.wk.scores.flatMap fun e =>
    ((e.2.file.man.bufs.zip e.2.bufAt).filterMap fun p =>
      let a := if pool then p.2.2 else p.2.1
      if p.1.hub.val = hub ∧ (pool = true → p.1.cached = true) then some (a, a + p.1.size) else none) ++
    ((e.2.file.man.kv.zip e.2.kvAt).filterMap fun p =>
      if !pool && p.1.hub.val == hub then some (p.2, p.2 + kvBytes p.1) else none)

/-- The first address of a hub's allocable region, and the one behind its last (R308). -/
def allocLo (hub : Nat) : Nat := hub * 0x1000000000 + 0x40000000
def allocHi (hub : Nat) : Nat := hub * 0x1000000000 + 0xF80000000

/-- Home and pool range of each buffer, as (number, hub, size, home, pool offset); none where the pool of a hub is too full. A
buffer without pool space has a range that only its own score's buffers must leave (R265, R298; log entry 17). -/
def State.placeBufs (s : State) : List (Nat × Buf) → List (Nat × Nat × Nat × Nat × Nat) →
    Option (List (Nat × Nat × Nat × Nat × Nat))
  | [], acc => some acc
  | (i, b) :: r, acc =>
    let h := b.hub.val
    let own := acc.filter fun a => a.2.1 == h
    let home := firstFit (s.bufRanges h false ++ own.map fun a => (a.2.2.2.1, a.2.2.2.1 + a.2.2.1)) (allocLo h) b.size
    let off := firstFit ((if b.cached then s.bufRanges h true else []) ++
      own.map fun a => (a.2.2.2.2, a.2.2.2.2 + a.2.2.1)) 0 b.size
    if b.cached = true ∧ 0x1800000 < off + b.size then none else s.placeBufs r (acc ++ [(i, h, b.size, home, off)])

/-- Homes and pool ranges in the manifest's order: those with pool space choose first. -/
def State.bufPlaces (s : State) (m : Manifest) : Option (List (Nat × Nat)) :=
  let bs := m.bufs.zipIdx.map fun p => (p.2, p.1)
  (s.placeBufs ((bs.filter fun b => b.2.cached) ++ bs.filter fun b => !b.2.cached) []).map fun l =>
    (List.range m.bufs.length).map fun i =>
      match l.find? fun a => a.1 == i with
      | some a => a.2.2.2
      | none => (0, 0)

/-- The home of each key/value page pool of a score, one after the other (R310; log entry 17). -/
def State.placeKv (s : State) (slot : Nat) (ks : List KvPool) : State :=
  ks.foldl (fun s k =>
    let x := s.score slot
    s.setScore slot { x with kvAt := x.kvAt ++ [firstFit (s.bufRanges k.hub.val false) (allocLo k.hub.val) (kvBytes k)] }) s

/-- A home of the score runs past its hub's allocable region, however the sums stand. -/
def State.homesOut (s : State) : Bool :=
  (List.range 2).any fun h => (s.bufRanges h false).any fun r => decide (allocHi h < r.2)

/-! Relocation (R252, R298). -/

/-- Bits [lo + len - 1 : lo] of word k of an instruction replaced. -/
def tput (w k lo len v : Nat) : Nat := nput w (32 * k + lo) len v

/-- An instruction with its boards and pool offsets made physical. -/
def relocate (x : Score) (i : BoardImg) (pc w : Nat) : Nat :=
  match topc w with
  | 0x08 =>
    match x.boardOf (logicalAt x.file.man (tf w 1 12 5) (tf w 1 17 8)) with
    | some k => tput (tput w 1 12 5 (keyDie k)) 1 17 8 (keyBrd k)
    | none => w
  | 0x06 =>
    if tf w 0 30 1 = 0 then w
    else
      match i.reloc.find? fun r => r.1 == pc with
      | some r =>
        let at_ := (x.bufAt.getD r.2.1 (0, 0)).2
        let hub := match x.file.man.bufs[r.2.1]? with | some b => b.hub.val | none => 0
        -- an offset beyond what the field holds keeps its place past 24 MB, where the access is refused (R298)
        tput (tput w 3 0 19 (min 0x7FFFF (at_ / 64 + r.2.2))) 3 19 1 hub
      | none => w
  | _ => w

def relocated (x : Score) : ScoreFile :=
  { x.file with boards := x.file.boards.map fun i => { i with prog := i.prog.zipIdx.map fun p => relocate x i p.2 p.1 } }

/-! Boards. -/

/-- Configuration registers of a board and its frames' configuration set back to their reset values, before a stage's
values are written (R207). -/
def State.clearBoard (s : State) (bk : Nat) : State :=
  let b := bkBase bk
  let cfg := fun (e : Nat × Word) =>
    let o := e.1 - b
    decide (b ≤ e.1 ∧ e.1 < b + 0x100000) &&
    ((match regAt e.1 with | some i => i.cls == .rw || i.cls == .rws | none => false) &&
      (decide (o < 0x80000) || snapRegs.contains (o % 0x1000)) ||
      -- FRM_GAIN follows FRM_MODE (R42)
      decide (0x80000 ≤ o ∧ o % 0x1000 = 0x2C))
  { s with regs := s.regs.filter (fun e => !cfg e), live := s.live.filter fun e => !cfg e }

/-- A board made ready to run a logical board: score memory, registers, tables, redirections, slate images; its stage
started (R207, R251, R252). -/
def State.loadBoard (s : State) (slot lb bk : Nat) : State :=
  let x := s.score slot
  let h := fileStage x.file lb
  match x.file.boards.find? fun i => i.lb == lb with
  | none => s
  | some i =>
    let s := (s.clearBoard bk).loadRegs bk h i
    let s := s.store (bkBase bk + 0x20000) (instrBytes i.prog)
    let s := i.slate.foldl (fun s p => s.store (bkBase bk + p.1) p.2) s
    let s := s.writeFsw slot bk
    s.setBoard bk { up := true, halted := false, ninstr := i.prog.length, score := some slot, stage := h.stage, lb := lb }

/-- Frames on other boards that a board's redirections reach take its frames' configuration. -/
def State.copyConfig (s : State) (a b : Nat) : State :=
  if a = b then s
  else (snapRegs ++ [0x2C]).foldl (fun s o =>
    let w := s.frmLive a o
    ((s.setReg (fkBase b + o) (s.reg (fkBase a + o))).setLive (fkBase b + o) w)) s

/-! Loading. -/

/-- A slot's state, with its EVENT (R370, R373). -/
def State.setScoreSt (s : State) (slot st : Nat) : State :=
  (s.setScore slot { s.score slot with st := st }).event 8 (leBytes 1 slot ++ leBytes 1 st)

/-- A frame placed by a score takes the integration mode, range and scale of its stage from the placement record, before its
trims are first measured; they take force as a commit (R71, R72, R124, R374, R524). -/
def State.modeFromRecord (s : State) (fk : Nat) : State :=
  match (s.frame fk).placed with
  | none => s
  | some slot =>
    let x := s.score slot
    match x.place.find? fun p => p.2 == fkBoard fk with
    | none => s
    | some p =>
      let a := fkBase fk + 0x10
      let s := s.setReg a (put (s.reg a) 0 6 (fileStage x.file p.1).mode)
      (s.setFrame fk { s.frame fk with snap := some (snapRegs.map fun o => s.reg (fkBase fk + o)) }).applyCommit fk

/-- Every frame of a load has its trims and the gains of its programmed planes measured, or is lost to service (R126). -/
def State.loadMeasured (s : State) (slot : Nat) : Bool :=
  (s.framesOf slot).all fun fk =>
    let y := s.frame fk
    (!y.trimDue && y.gainDue == []) || y.st == .retired

/-- Every plane of a load is programmed and measured: the boards start, an epoch is published and the slot is LOADED (R130,
R373). -/
def State.finishLoad (s : State) (slot : Nat) : State :=
  let x := s.score slot
  let s := x.place.foldl (fun s p => s.loadBoard slot p.1 p.2) s
  let s := x.redir.foldl (fun s r => s.copyConfig r.1 r.2.1) s
  let s := s.setScoreSt slot 4
  (s.publish slot).saveRecord slot

/-- The words SCORE_LOAD answers. -/
def State.loadWords (s : State) (slot : Nat) : List Word :=
  let x := s.score slot
  [word slot] ++ words64 x.id ++ [word x.place.length]

/-- A load goes on: the next planes begin; or, once its frames are measured in visits, the slot is LOADED and its command
answered (R126, R128, R254, R373). -/
def State.loadOn (s : State) (slot : Nat) : State :=
  let x := s.score slot
  if x.st ≠ 2 then s
  else if x.todo ≠ [] then (x.todo.map (·.1)).eraseDups.foldl (fun s fk => s.nextPlane slot fk) s
  else if !s.loadMeasured slot then s
  else
    let s := s.finishLoad slot
    match x.req with
    | some r => ((s.setScore slot { s.score slot with req := none }).unpend r 0x0200).finish r 0 (s.loadWords slot)
    | none => s

/-- The slot a load takes: the KEPT slot of its score, else the first EMPTY one (R254, R374). -/
def State.loadSlot (s : State) (id : Nat) (digest : List Byte) : Option Nat :=
  match (List.range 64).find? fun n => (s.score n).st == 3 && (s.score n).id == id && (s.score n).digest == digest with
  | some n => some n
  | none => (List.range 64).find? fun n => (s.score n).st == 0

/-- A LOADED score that lost a resident image: its file loaded again brings the image back and pulses no bead (R306,
R489). -/
def State.imageSlot (s : State) (id : Nat) (digest : List Byte) : Option Nat :=
  (List.range 64).find? fun n =>
    let x := s.score n
    x.st == 4 && x.imgLost != [] && x.id == id && x.digest == digest

/-- The id of a load is taken: by a slot neither EMPTY nor KEPT, or by a KEPT score with another digest (R254). -/
def State.idTaken (s : State) (id : Nat) (digest : List Byte) : Bool :=
  s.wk.scores.any fun e => e.2.st != 0 && e.2.id == id && (e.2.st != 3 || e.2.digest != digest)

/-- The checks of R254 that need no resources, in order: the code and detail of the first to fail. -/
def State.fileCheck (s : State) (bs : List Byte) (f : ScoreFile) (sig : Bool) : Option (Nat × Nat) :=
  let id := leAt bs 8 8
  let digest := slice bs 160 64
  if scoreDigest bs ≠ digest then some (0x0602, 0)
  else if !sig then some (0x0601, 0)
  else if !layoutOk bs f then some (0x0108, Config.freeNat s.fresh % 2 ^ 32)
  else if s.idTaken id digest then some (0x0403, 0)
  else if !scoreOk f then some (0x0108, Config.freeNat s.fresh % 2 ^ 32)
  else if f.planes.length < leAt bs 24 4 then some (0x0605, 0)
  else
    match f.planes.zipIdx.find? fun p => !imgOk p.1.fmt p.1.bytes with
    | some p => some (0x0107, p.2)
    | none => none

/-- The checks of boards, frames, pool and DRAM, which claim what they find: the state with the score placed (R252-R254),
or the code. -/
def State.claim (s : State) (slot : Nat) (kept : Bool) : Except Nat State :=
  let x := s.score slot
  let m := x.file.man
  let dies := (List.range 32).filter fun d => m.lboards.any fun p => p.1 == d
  let place := if kept then some x.place
    else (s.mapDies m dies []).map fun ds => s.mapBoards ds m.lboards.zipIdx []
  match place with
  | none => .error 0x0303
  | some place =>
    let x := { x with place := place }
    let s := s.setScore slot x
    -- a die whose reserve is not free takes no load, a reload among them (R266)
    let short := fun d => decide (((List.range 192).filter fun b => s.freeBoard (boardKey d b)).length < s.reserveOf d m.reserve)
    if place.length < m.lboards.length ∨ place.any (fun p => s.disabled (mapBoard p.2) || (s.board p.2).failed) ∨
        (place.map fun p => keyDie p.2).eraseDups.any short then
      .error 0x0303
    else
      let s := place.foldl (fun s p => s.setBoard p.2 { s.board p.2 with score := some slot, lb := p.1 }) s
      let s := (homes x).foldl (fun s h =>
        let fk := x.frameAt (h.1 / 34) (h.1 % 34)
        s.setFrame fk { s.frame fk with placed := some slot }) s
      match s.placeFrames slot (homes x) with
      | .error c => .error c
      | .ok s =>
        match s.bufPlaces m with
        | none => .error 0x0306
        | some at_ =>
          let x := { s.score slot with bufAt := at_, st := 2 }
          let s := (s.setScore slot { x with file := relocated x }).placeKv slot m.kv
          if dramCap < s.dramUsed 0 ∨ dramCap < s.dramUsed 1 ∨ s.homesOut then .error 0x0305 else .ok s

/-- The planes a load still has to program: all of them, or those whose header does not agree (R374). -/
def State.loadTodo (s : State) (slot : Nat) (kept : Bool) : List (Nat × Nat × Nat) :=
  let x := s.score slot
  x.file.planes.filterMap fun i =>
    match x.boardOf i.lb with
    | some bk =>
      let fk := x.frameAt bk i.frame
      if kept && (s.header fk i.plane).fmt == i.fmt then none else some (fk, i.plane, i.fmt)
    | none => none

/-- The placed frames of a load as it begins: IDLE, so that their planes can be programmed; a visit of one ends (R67, R105).
Those of a score placed anew have the mode of their stage, and their trims are to be measured (R121, R124). -/
def State.openFrames (s : State) (slot : Nat) (kept : Bool) : State :=
  (s.framesOf slot).foldl (fun s fk =>
    let s := if (s.frame fk).st = .spare then s.throughRepair fk .idle
      else
        let s := s.dropVisit fk
        s.setFrame fk { s.frame fk with st := .idle }
    if kept then s
    else
      let s := s.modeFromRecord fk
      s.setFrame fk { s.frame fk with trimDue := true }) s

/-- SCORE_LOAD (R254, R373, R374). -/
def execScoreLoad (r : Req) (f : ScoreFile) (sig : Bool) (s : State) : Host.Outcome State Fault Refusal :=
  .next (s.command ⟨0x0200, 2, false, true, true, true, 1, true, false⟩ r fun s =>
    match s.segments (argw r 1) with
    | .error c => .refuse c
    | .ok bs =>
      let id := leAt bs 8 8
      let digest := slice bs 160 64
      match s.imageSlot id digest with
      | some slot =>
        if scoreDigest bs ≠ digest then .refuse 0x0602
        else if !sig then .refuse 0x0601
        else .ok (s.loadWords slot) (s.setScore slot { s.score slot with imgLost := [] })
      | none =>
      match s.loadSlot id digest with
      | none => .refuse 0x0302
      | some slot =>
        let kept := (s.score slot).st == 3
        let empty := fun (t : State) =>
          let t := (t.releaseScore slot).event 8 (leBytes 1 slot ++ leBytes 1 0)
          if kept then t.saveRecord slot else t
        match s.fileCheck bs f sig with
        | some (c, d) =>
          let s := (empty s).take 1
          .fail c d (if c = 0x0605 then s.bump (hubBase (srcByte r.src / 16 % 2) + 0xA004C) 1 else s)
        | none =>
          let old := s.score slot
          let x : Score := { st := 1, id := id, digest := digest, flags := leAt bs 6 2, file := f,
                             resident := (leAt bs 6 2).testBit 1, req := some r, kept := kept,
                             place := if kept then old.place else [], redir := if kept then old.redir else [] }
          match (s.setScore slot x).claim slot kept with
          | .error c => .fail c 0 (empty s)
          | .ok t =>
            let todo := t.loadTodo slot kept
            let t := (t.openFrames slot kept).setScore slot { t.score slot with todo := todo }
            let t := t.event 8 (leBytes 1 slot ++ leBytes 1 2)
            if todo = [] then
              let t := t.finishLoad slot
              .ok (t.loadWords slot) (t.setScore slot { t.score slot with req := none })
            else .pend slot (t.loadOn slot))

/-- A frame measured for a load that has nothing left to program: the load goes on (R126, R254). -/
def State.settleLoad (s : State) (fk : Nat) : State :=
  match s.loadingSlot fk with
  | some slot => if (s.score slot).todo = [] then s.loadOn slot else s
  | none => s

/-- MEASUREMENT_VISIT (R126-R128): it begins on its trigger; each further one is a conversion or a stroke, its tokens drawn
before it from the share of metrology; one that has yielded waits for the frame. -/
def execMeasurementVisit (d : Die) (b : Brd) (f : Frm) (k : Visit) (s : State) : Host.Outcome State Fault Refusal :=
  let fk := frameKey d b f
  let y := s.frame fk
  match y.measure with
  | none =>
    if !s.visitable fk ∨ !s.measureDue fk k then .next s
    else
      match k with
      | .readback row hi mid lo => .next (s.readDriver fk row hi mid lo)
      | .gain p => .next ((s.setFrame fk { y with measure := some { gain := some p.val } }).holdFrame fk)
      | .trims =>
        -- one measurement holds the source at a time (R426)
        if bit (s.reg (metBase d + 8)) 20 then .next s
        else
          let (s, e) := s.measureSource fk
          -- the visit holds the source to its end, at zero current first (R121, R426)
          .next (((s.setSource fk false 0 true).setFrame fk { y with measure := some { e := e } }).holdFrame fk)
  | some m =>
    let need := s.visitTokens fk m.gain.isSome
    if !m.isVisit k ∨ s.pstate ≠ 2 ∨ y.st = .stroking ∨ y.stroke.isSome ∨ !s.canDraw d prioMet need then .next s
    else
      let s := s.consumeFirst d need
      match m.gain with
      | none => .next (((s.trimStep fk m).settleLoad fk).settleMeasure d)
      | some p => .next (((s.gainStep fk p m).settleLoad fk).settleMeasure d)

/-- SCORE_ABORT (R373). -/
def execScoreAbort (r : Req) (s : State) : Host.Outcome State Fault Refusal :=
  .next (s.command ⟨0x0201, 2, false, true, true, true, 1, true, false⟩ r fun s =>
    let slot := argw r 1
    let st := (s.score slot).st
    if 64 ≤ slot then .refuse 0x0104
    else if st = 0 then .refuse 0x0405
    else if st ≠ 1 ∧ st ≠ 2 then .refuse 0x0403
    else
      let q := (s.score slot).req
      let s := (s.releaseScore slot).event 8 (leBytes 1 slot ++ leBytes 1 0)
      -- the load it ends answers that its programming was stopped (R107)
      .ok [] (match q with
        | some q => (s.unpend q 0x0200).finish q 0x0505 []
        | none => s))

/-- SCORE_RETIRE (R373). -/
def execScoreRetire (r : Req) (s : State) : Host.Outcome State Fault Refusal :=
  .next (s.command ⟨0x0202, 2, false, true, true, true, 1, true, false⟩ r fun s =>
    let slot := argw r 1
    let st := (s.score slot).st
    if 64 ≤ slot then .refuse 0x0104
    else if st = 0 then .refuse 0x0405
    else if st ≠ 3 ∧ st ≠ 4 then .refuse 0x0403
    else if s.ringList.any fun g => s.ringScore g == slot then .refuse 0x0404
    else
      let s := (s.setScoreSt slot 5).releaseScore slot
      .ok [] ((s.saveRecord slot).event 8 (leBytes 1 slot ++ leBytes 1 0)))

/-- A placed frame of a score is degraded, or has failed without cover (R99, R478). -/
def State.scoreDegraded (s : State) (slot : Nat) : Bool :=
  (s.framesOf slot).any fun fk => let y := s.frame fk
    (y.degraded.any fun p => ((s.score slot).planesOn fk).contains p) || y.damaged != [] || (y.st == .repair && !y.covered)

/-- SCORE_INFO. -/
def execScoreInfo (r : Req) (s : State) : Host.Outcome State Fault Refusal :=
  .next (s.command ⟨0x0203, 1, false, false, false, false, 1, true, false⟩ r fun s =>
    let slot := argw r 1
    let x := s.score slot
    if 64 ≤ slot then .refuse 0x0104
    else .ok ([word x.st] ++ words64 x.id ++ [word x.place.length, word x.epoch,
                word (b2n (x.resident && x.imgLost == []) + 2 * b2n (s.scoreDegraded slot))]) s)

/-- SCORE_LIST. -/
def execScoreList (r : Req) (s : State) : Host.Outcome State Fault Refusal :=
  .next (s.command ⟨0x0204, 1, true, false, false, false, 0, false, false⟩ r fun s =>
    .ok (words64 (nsum ((List.range 64).map fun n => if (s.score n).st = 0 then 0 else 2 ^ n))) s)

end Sys2Proof.Machine
end

