-- ==== Sys2Proof/Machine/Moves.lean ====
section
/-! DEFINITION. Frames that move: the end of a plane's programming (R88, R105), frame switches (R134, R288), migration (R139),
frame repair (R477-R480), and the preparation of a board that takes over another (R287, R479, R481). -/

namespace Sys2Proof.Machine

/-- The hub whose Porell counts what the module does as a whole. -/
def State.mainHub (s : State) : Nat := s.ownerHub 0

def svcReg (h x : Nat) : Nat := hubBase h + 0xB0000 + x

/-- Jobs in flight of a score carry PLACEMENT_CHANGED (R288). -/
def State.flagPlacement (s : State) (slot : Nat) : State :=
  s.wk.jobs.foldl (fun s e =>
    match e.2 with
    | some j => if s.ringScore j.ring = slot ∧ j.st = .running then s.setJob e.1 (some { j with placeChanged := true }) else s
    | none => s) s

/-- Tokens of the measurement of a frame's trims and of the gains of its planes (R128). -/
def State.measureTokens (s : State) (fk : Nat) : Nat :=
  48 * s.visitTokens fk false + gainTokens * ((List.range 8).filter fun p => decide ((s.header fk p).fmt ≠ 3)).length

/-- The tokens of a frame's measurement are at hand; else it waits (R22, R128). -/
def State.canMeasure (s : State) (fk : Nat) : Bool := s.canDraw (keyDie (fkBoard fk)) prioMet (s.measureTokens fk)

/-- A frame's trims and gains measured, their tokens from the share of metrology, and written into both of its banks (R128,
R134). -/
def State.measureBoth (s : State) (fk : Nat) : State :=
  let s := (s.consumeFirst (keyDie (fkBoard fk)) (s.measureTokens fk)).measureTrims fk
  let s := (List.range 8).foldl (fun s p => if (s.header fk p).fmt = 3 then s else s.measureGain fk p) s
  let x := (s.frame fk).placed.elim {} s.score
  (s.writeBank fk 0 (x.bankEpoch.getD 0 0)).writeBank fk 1 (x.bankEpoch.getD 1 0)

/-- The LAN_FSW entries of a board in force, as (entry, frame). -/
def State.fswOf (s : State) (bk : Nat) : List (Nat × Nat) :=
  (List.range 4).filterMap fun n =>
    let a := s.breg bk (0x46010 + 16 * n)
    if bit a 25 then some (n, fld a 0 6) else none

/-- The home of a placed frame: the frame its score names. -/
def State.homeOf (s : State) (fk : Nat) : Nat :=
  match (s.frame fk).placed with
  | some slot => match (s.score slot).redir.find? fun r => r.2.1 == fk with | some r => r.1 | none => fk
  | none => fk

/-- A home frame has a redirection already, or its board has one of four free (R288). -/
def State.fswRoom (s : State) (home : Nat) : Bool :=
  let l := s.fswOf (home / 34)
  decide (l.length < 4) || l.any fun e => e.2 == home % 34

/-- A placement switch of a board is in progress (R480). -/
def State.switching (s : State) (bk : Nat) : Bool :=
  s.fb.switches.any (fun w => w.old == bk || w.new == bk) || s.sv.repairs.any fun r => r.isBoard && r.frame == bk

/-- The placement of a frame switched to its programmed replacement from stroke sequence S, the next its board issues
(R134, R288, R477). -/
def State.switchFrame (s : State) (r : Repair) : State :=
  match (s.frame r.frame).placed with
  | none => s
  | some slot =>
    let home := s.homeOf r.frame
    let bk := home / 34
    -- a frame redirected before waits until its strokes issued so far have finished: each goes where its sequence says (R288)
    let under := (s.fswOf bk).any (fun e => e.2 == home % 34) &&
      (s.board bk).sb.any fun e => topc e.word == 1 && tf e.word 0 16 6 == home % 34
    if !s.fswRoom home ∨ s.switching bk ∨ under then s
    else
      let t := s.copyConfig r.frame r.target
      if !t.canMeasure r.target then s else
      let s := t
      let s := s.measureBoth r.target
      let sq := (s.board bk).q
      let x := s.score slot
      let l := s.fswOf bk
      let n := match l.find? fun e => e.2 == home % 34 with
        | some e => e.1
        | none => ((List.range 4).find? fun n => !l.any fun e => e.1 == n).getD 0
      let o := 0x46010 + 16 * n
      let t := r.target
      let s := s.scoreWrite bk o (word (home % 34 + fkFrame t * 2 ^ 6 + keyBrd (fkBoard t) * 2 ^ 12 + keyDie (fkBoard t) * 2 ^ 20 + 2 ^ 25))
      let s := s.scoreWrite bk (o + 4) (word sq)
      let s := s.scoreWrite bk (o + 8) (word (sq / 2 ^ 32))
      let s := s.setScore slot { x with redir := (x.redir.filter fun e => e.1 != home) ++ [(home, t, sq, 0)] }
      -- a target whose trims left their fields stays covered in REPAIR (R123)
      let bad := (s.frame t).st == .repair
      let s := s.setFrame t { s.frame t with covered := (s.frame t).covered && bad, st := if bad then .repair else .idle }
      let s := if (s.frame r.frame).diagnose then s.bump (svcReg s.mainHub 0x4C) 1 else s
      -- a placement switch puts the board's shadowed registers in force (R207)
      let s := s.commitBoard bk
      ((s.putRepair r { r with done := true }).flagPlacement slot).event 6 (leBytes 4 r.frame ++ leBytes 4 t)

/-- A switched-from frame serves nothing more: no stroke of a sequence below S is unfinished (R288). -/
def State.vacated (s : State) (r : Repair) : Bool :=
  let y := s.frame r.frame
  let sw := s.wk.scores.findSome? fun e => e.2.redir.find? fun d => d.2.1 == r.target
  y.stroke.isNone && y.queue == [] &&
  (match sw with
   | some d => !(s.board (d.1 / 34)).sb.any fun e =>
       topc e.word == 1 && tf e.word 0 16 6 == d.1 % 34 && !atOrAfter e.seq0 d.2.2.1
   | none => true) &&
  !s.inFabric.any fun p => p.type == 2 && pktDst p == fkBoard r.frame && leAt p.payload 0 1 == fkFrame r.frame

/-- Calibration strokes, trims and driver read-back of a frame in REPAIR: it passes to SPARE or is retired (R477). -/
def State.diagnoseFrame (s : State) (fk : Nat) : State :=
  let s := s.take 1
  let s := s.setFrame fk { s.frame fk with diagnose := false, fault := false, faultCode := 0, covered := false, placed := none,
                                           damaged := [], marks := [], spotFails := 0, migrate := false }
  -- a frame that is not in REPAIR, having been retired, stays as it is (R67)
  if (s.frame fk).st ≠ .repair then s
  else if Config.freeBit (s.fresh - 1) then s.retire fk else s.setFrame fk { s.frame fk with st := .spare }

/-- A migration's vacated frame: its planes refreshed in place, it enters SPARE holding the same images; retired where a
plane has been refreshed 100,000 times (R110, R139). -/
def State.leaveFrame (s : State) (r : Repair) : State :=
  let y := s.frame r.frame
  let hs := y.headers.mapIdx fun (p : Nat) (h : Header) =>
    if h.fmt ≠ 3 ∧ p < 8 then { h with refreshes := hold 131071 (h.refreshes + 1) } else h
  let s := (s.setFrame r.frame { y with headers := hs, marks := [], oldMark := 0, damaged := [], migrate := false,
                                        placed := none, covered := false, twin := some r.target }).throughRepair r.frame .spare
  if hs.any fun h => decide (100000 ≤ h.refreshes) then s.retire r.frame else s

/-- A repair or migration of one frame carried on: the switch once every plane is programmed, then what becomes of the
old frame (R139, R477). -/
def State.repairOn (s : State) (r : Repair) : State :=
  if !r.done then (if r.todo = [] then s.switchFrame r else s)
  else if !s.vacated r then s
  else
    let s := { s with sv.repairs := s.sv.repairs.filter (· != r) }
    let out := (s.frame r.frame).st == .repair || (s.frame r.frame).st == .retired || (s.frame r.frame).diagnose
    if out then (s.toRepair r.frame).diagnoseFrame r.frame else s.leaveFrame r

/-! Boards. -/

/-- Every frame a logical board needs is sound on a board. -/
def State.soundBoard (s : State) (x : Score) (bk new : Nat) : Bool :=
  (homes x).all fun h => h.1 / 34 != bk ||
    (let fk := 34 * new + h.1 % 34
     !s.badFrame fk && !s.wornFrame fk h.2)

/-- The repair-reserve board of the same die that takes over: the nearest, then the lowest (R252, R481). -/
def State.reserveBoard (s : State) (bk : Nat) : Option Nat :=
  match (s.board bk).score with
  | none => none
  | some slot =>
    let ok := ((List.range 192).map (boardKey (keyDie bk))).filter fun k => s.freeBoard k && s.soundBoard (s.score slot) bk k
    ok.foldl (fun (b : Option Nat) k =>
      match b with
      | some c => if meshHops (keyBrd k) (keyBrd bk) < meshHops (keyBrd c) (keyBrd bk) then some k else b
      | none => some k) none

/-- A board prepared to take over another: program, tables and registers loaded, not started; its planes begun (R287,
R481). -/
def State.prepareBoard (s : State) (bk new : Nat) : State :=
  match (s.board bk).score with
  | none => s
  | some slot =>
    let x := s.score slot
    let lb := (s.board bk).lb
    let mine := x.file.planes.filter fun i => i.lb == lb
    let s := (s.loadBoard slot lb new)
    let s := s.setBoard new { s.board new with halted := true }
    let s := (mine.map (·.frame)).eraseDups.foldl (fun s f =>
      let fk := 34 * new + f
      (s.setFrame fk { s.frame fk with placed := some slot }).throughRepair fk .idle) s
    let todo := mine.map fun i => 8 * (34 * new + i.frame) + i.plane
    let r : Repair := { frame := bk, target := new, isBoard := true, todo := todo }
    ({ s with sv.repairs := s.sv.repairs ++ [r] }).boardPlanes r

/-- A board move begun where the die has a reserve board and the image is resident; else EVENT REPAIR reports the
shortage (R479, R481). -/
def State.moveBoard (s : State) (bk : Nat) : State :=
  if s.switching bk then s
  else
    let res := (List.range 34).all fun f => (s.frame (34 * bk + f)).placed.isNone || s.residentOf (34 * bk + f)
    match s.reserveBoard bk with
    | some new => if res then s.prepareBoard bk new else s
    | none => s.event 6 (leBytes 4 (34 * bk))

/-! Rows. -/

/-- One plane of a repair programmed (R477, R481). -/
def State.planeDone (s : State) (r : Repair) (fk p : Nat) : State :=
  if r.isBoard then
    let slot := (s.board r.target).score.getD 64
    let x := s.score slot
    match (List.range 34).find? fun f => x.frameAt r.target f == fk with
    | none => s
    | some f =>
      let r' := { r with todo := r.todo.filter fun q => !(q / 8 % 34 == f && q % 8 == p) }
      let s := s.putRepair r r'
      if r'.todo.any fun q => q / 8 % 34 == f then s.repairPlane { r' with todo := r'.todo.filter fun q => q / 8 % 34 == f }
      else
        -- the frame's cover ends (R481)
        let s := s.measureBoth fk
        let s := s.setFrame fk { s.frame fk with covered := (s.frame fk).covered && (s.frame fk).st == .repair }
        if r'.todo = [] ∧ x.place.any fun e => e.2 == r.target then
          let s := { s with sv.repairs := s.sv.repairs.filter (· != r') }
          (s.bump (svcReg s.mainHub 0x50) 1).event 6 (leBytes 4 (34 * r.frame) ++ leBytes 4 (34 * r.target))
        else s
  else
    let r' := { r with todo := r.todo.filter (· != p) }
    let s := s.putRepair r r'
    if r'.todo = [] then s.repairOn r' else s.repairPlane r'

/-- A plane is the last of its frame in a board's repair. -/
def State.lastPlane (s : State) (r : Repair) (fk p : Nat) : Bool :=
  let x := s.score ((s.board r.target).score.getD 64)
  !r.todo.any fun q => x.frameAt r.target (q / 8 % 34) == fk && q % 8 != p

/-- PRG_PLANE_CLOSE: the header written last, with its format, stuck list and uncompared groups, and the side store read
back (R88, R94, R95, R105). A plane programmed as its image is degraded no longer (R97, R99). -/
def execPrgPlaneClose (d : Die) (b : Brd) (f : Frm) (ok : Bool) (s : State) : Host.Outcome State Fault Refusal :=
  let fk := frameKey d b f
  match (s.frame fk).prg with
  | none => .next s
  | some p =>
    if s.pstate ≠ 2 ∨ p.row < 512 ∨ p.paused ∨ !p.granted ∨ (p.waits ∧ !p.paid) then .next s
    else
      let (s, paid) := if p.paid then (s, true) else s.draw d p.prio 34000 (.program fk)
      if !paid then .next (s.setFrame fk { s.frame fk with prg := some { p with waits := true } }) else
      let slot := s.loadingSlot fk
      let rep := s.repairOf fk
      if !ok then
        let s := s.stopPrg fk 6
        let s := s.setFrame fk { s.frame fk with st := .spare }
        .next (match slot with
          | some n => s.loadFailed n 0x0505 0
          | none => s.repairFailed fk)
      else
        let paid := s.setFrame fk { s.frame fk with prg := some { p with waits := true, paid := true } }
        let s := s.setHeader fk p.plane { (s.header fk p.plane) with fmt := p.fmt, stuck := p.stuck, chkOff := p.chkOff }
        -- the frame of a board's repair is measured with its last plane, once its tokens are at hand (R128, R481)
        if (match rep with | some r => r.isBoard && s.lastPlane r fk p.plane && !s.canMeasure fk | none => false) then .next paid else
        let s := s.stopPrg fk 1
        let y := s.frame fk
        let s := s.setFrame fk { y with st := if y.placed.isSome then .idle else .spare,
                                        -- its gain is measured before the plane serves (R126)
                                        gainDue := y.gainDue.filter (· != p.plane) ++ [p.plane],
                                        degraded := if p.poor then y.degraded else y.degraded.filter (· != p.plane) }
        .next (match slot with
          | some n =>
            let x := s.score n
            (s.setScore n { x with todo := x.todo.filter fun t => !(t.1 == fk && t.2.1 == p.plane) }).loadOn n
          | none => match rep with
            | some r => s.planeDone r fk p.plane
            | none => s)

/-- The repair or migration a placed frame is the source of. -/
def State.sourceOf (s : State) (fk : Nat) : Option Repair :=
  s.sv.repairs.find? fun r => !r.isBoard && r.frame == fk

/-- REFRESH_MIGRATION: a frame marked enough, marked long ago, damaged or marked for migration, moved to a spare (R138,
R139, R143). -/
def execRefreshMigration (d : Die) (b : Brd) (f : Frm) (s : State) : Host.Outcome State Fault Refusal :=
  let fk := frameKey d b f
  let y := s.frame fk
  match s.sourceOf fk with
  | some r => .next (s.repairOn r)
  | none =>
    let old := decide (y.marks ≠ [] ∧ y.oldMark + s.sv.recount.getD 3 7 * 86400000000000 ≤ s.now)
    -- a DAMAGED plane whose image is not resident cannot be restored
    let lost := y.damaged != [] && !s.residentOf fk
    let due := y.migrate || decide (y.marks ≠ [] ∧ s.sv.recount.getD 2 256 ≤ y.marks.length) || old || (y.damaged != [] && s.residentOf fk)
    if !due ∨ lost ∨ !s.inService fk ∨ (y.st ≠ .idle ∧ y.st ≠ .stroking) ∨ s.switching (s.homeOf fk / 34) then .next s
    else if !s.fswRoom (s.homeOf fk) then .next (s.moveBoard (s.homeOf fk / 34))
    else .next (s.startRepair fk []).1

/-- FRAME_REPAIR: a faulty frame to REPAIR and covered, its replacement programmed and switched in, then diagnosed (R70,
R472, R477-R480). -/
def execFrameRepair (d : Die) (b : Brd) (f : Frm) (s : State) : Host.Outcome State Fault Refusal :=
  let fk := frameKey d b f
  let y := s.frame fk
  if !y.diagnose ∨ y.st = .retired then .next s
  else
    let s := s.toRepair fk
    let s := s.setFrame fk { s.frame fk with covered := y.placed.isSome && s.residentOf fk }
    match y.placed with
    | none => .next (if (s.frame fk).st = .repair then s.diagnoseFrame fk else s)
    | some _ =>
      match s.sourceOf fk with
      | some r => .next (s.repairOn r)
      | none =>
        -- without a resident image only a frame whose converters still read can be replaced (R478)
        let reads := s.residentOf fk || !(y.fault && [3, 4, 5].contains y.faultCode)
        let bk := s.homeOf fk / 34
        if !reads ∨ s.switching bk ∨ (s.repairOf fk).isSome then .next s
        else if !s.fswRoom (s.homeOf fk) then .next (s.moveBoard bk)
        else .next (s.startRepair fk []).1

end Sys2Proof.Machine
end

