-- ==== Sys2Proof/Machine/Placement.lean ====
section
/-! DEFINITION. Board switches, overlapped and fenced (R285-R288), board repair (R481) and the loss of an array die (R482). -/

namespace Sys2Proof.Machine

/-- The switch of a logical board in progress. -/
def State.switchOf (s : State) (slot lb : Nat) : Option Switch := s.fb.switches.find? fun w => w.slot == slot && w.lb == lb

/-- The repair that prepares a board's move. -/
def State.moveOf (s : State) (old : Nat) : Option Repair := s.sv.repairs.find? fun r => r.isBoard && r.frame == old

/-- Strokes a program issues in one step, its loops run out (R220, R239). -/
def progStrokes (prog : List Nat) : Nat :=
  let ls := prog.zipIdx.filterMap fun p =>
    if topc p.1 = 0x0E then some (tf p.1 0 16 10, p.2, tf p.1 1 0 16 + 1) else none
  nsum (prog.zipIdx.map fun p =>
    strokesOf p.1 * (ls.filter fun l => decide (l.1 ≤ p.2 ∧ p.2 ≤ l.2.1)).foldl (fun n l => n * l.2.2) 1)

/-- The program of a logical board. -/
def Score.progOf (x : Score) (lb : Nat) : List Nat :=
  match x.file.boards.find? fun i => i.lb == lb with
  | some i => i.prog
  | none => []

/-- Where packets of a logical board that pass the test of R286 go: boards of its CSENDs and multicast sets, as board
keys, and the hubs it writes to (R286). -/
def State.receivers (s : State) (slot lb : Nat) : List Nat × List Nat :=
  let x := s.score slot
  let prog := x.progOf lb
  let bs := prog.flatMap fun w =>
    if topc w = 8 then s.carryTargets slot (boardKey (tf w 1 12 5) (tf w 1 17 8))
    else if topc w = 5 ∧ tf w 0 23 1 = 1 then (x.file.man.msets.getD (tf w 0 24 8) []).filterMap x.boardOf
    else []
  let hs := (List.range 2).filter fun h => prog.any fun w =>
    topc w == 0x0A && tf w 0 16 1 == 1 && (match x.file.man.bufs[tf w 2 0 16]? with | some b => b.hub.val == h | none => false)
  (bs.eraseDups, hs)

/-- Every board among the receivers has a place for a record of a source (R286, R287). -/
def State.recordRoom (s : State) (bs : List Nat) (lsrc : Nat) : Bool :=
  bs.all fun k => let r := s.boardRecs k; decide (r.length < 64) || r.any fun e => e.2.1 == lsrc

/-- The SWITCH packets of a switch sent from Porell to every receiver (R286-R288; byte places of log entry 27). -/
def State.sendSwitch (s : State) (w : Switch) : State :=
  let (bs, hs) := s.receivers w.slot w.lb
  let h := s.mainHub
  let pay := padTo 0 32 (leBytes 2 w.lb ++ leBytes 2 w.en ++ leBytes 4 (b2n w.drop) ++ leBytes 6 w.s)
  let p : Pkt := { type := 9, vc := 3, srcNode := 32 + h, lsrc := w.lb, addr := switchTag w, payload := pay }
  let ps := (bs.map fun k => { p with dstNode := keyDie k, dstBoard := keyBrd k }) ++ hs.map fun g => { p with dstNode := 32 + g }
  let w' := { w with acks := ps.length, sent := true }
  let s := s.putSwitch w w'
  let s := ps.foldl (fun s p => { s.sendPkt p with fb.acks := (s.sendPkt p).fb.acks ++ [p] }) s
  if ps = [] then s.switchAcked w' else s

/-! Overlapped switches. -/

/-- The base of the step after the one a board runs. -/
def State.nextBase (s : State) (bk per : Nat) : Nat :=
  let x := s.board bk
  (if x.cur.isSome then x.base + per else x.q) % 2 ^ 48

/-- STEP packets under way to a board. -/
def State.stepsToward (s : State) (bk : Nat) : List Pkt := s.inFabric.filter fun p => p.type == 7 && pktDst p == bk

/-- Step starts below the switch point that a board has not received yet: issued, not ended or held there, and not on
their way (R287). -/
def State.stepsToCome (s : State) (slot bk : Nat) : Nat :=
  nsum (s.wk.jobs.map fun e =>
    match e.2 with
    | some j =>
      if j.st = .running ∧ s.ringScore j.ring = slot then
        ((List.range j.next).filter fun n =>
          !j.ended.contains (n, bk) && !(s.board bk).holds e.1 n &&
          !(s.stepsToward bk).any fun p => p.job == e.1 && p.step == n).length
      else 0
    | none => 0)

/-- OVERLAPPED_BOARD_SWITCH: the new board prepared; then S chosen beyond every step already started on its way, the
records sent, and step starts and inputs routed to both boards (R287). -/
def execOverlappedBoardSwitch (slot : Fin 64) (lb : Nat) (d : Die) (b : Brd) (s : State) :
    Host.Outcome State Fault Refusal :=
  let x := s.score slot
  let new := boardKey d b
  match x.boardOf lb with
  | none => .next s
  | some old =>
    if x.st ≠ 4 ∨ (s.switchOf slot lb).isSome ∨ (s.board old).failed then .next s
    else
      match s.moveOf old with
      | none =>
        if s.freeBoard new ∧ keyDie new = keyDie old ∧ s.soundBoard x old new ∧ !s.switching old then
          .next (s.prepareBoard old new)
        else .next s
      | some r =>
        let per := progStrokes (x.progOf lb)
        let (bs, _) := s.receivers slot lb
        if r.target ≠ new ∨ r.todo ≠ [] ∨ per = 0 ∨ !s.recordRoom bs lb then .next s
        else
          let skip := s.stepsToCome slot old
          let ahead := (s.board old).steps.length + (s.stepsToward old).length + skip
          let w : Switch := { slot := slot, lb := lb, old := old, new := new, at_ := s.now,
                              s := (s.nextBase old per + per * ahead) % 2 ^ 48, skip := skip,
                              en := (s.serveEpoch old + 1) % 2 ^ 16 }
          .next (({ s with fb.switches := s.fb.switches ++ [w] }).sendSwitch w)

/-- The history records of every context and the persistent slate regions copied from one board to another (R287). -/
def State.copyState (s : State) (slot lb old new : Nat) : State :=
  let m := (s.score slot).file.man
  let s := s.setBoard new { s.board new with strm := (s.board new).strm ++ (s.board old).strm }
  let s := (List.range 16).foldl (fun s n =>
    if s.strN old n = 0 then s
    else
      let len := 32 * s.ngroups old n * m.contexts
      s.store (s.histAt new n 0 0) (s.load (s.histAt old n 0 0) len)) s
  m.persist.foldl (fun s p =>
    if p.1 = lb then s.store (bkBase new + p.2.1) (s.load (bkBase old + p.2.1) (m.contexts * p.2.2)) else s) s

/-- A logical board lies on its new board: the old one is free, its frames in SPARE, and the score's jobs in flight carry
the mark (R287, R288, R481). -/
def State.replaceBoard (s : State) (slot lb old new : Nat) : State :=
  let x := s.score slot
  let gone := (homes x).filterMap fun h => if h.1 / 34 = old then some (x.frameAt old (h.1 % 34)) else none
  let s := s.setScore slot { x with place := x.place.map fun p => if p.1 = lb then (lb, new) else p,
                                    redir := x.redir.filter fun r => fkBoard r.1 != old }
  let s := gone.foldl (fun s fk =>
    let y := s.frame fk
    let s := s.setFrame fk { y with placed := none, covered := false, migrate := false, marks := [], damaged := [] }
    if y.st = .repair then s else s.throughRepair fk .spare) s
  let k := fun m => if m = old + 1 then new + 1 else m
  let mv := s.fb.moved.map fun (e : Nat × Nat) => if e.1 / 8192 = slot then (e.1, k e.2) else e
  let s := { s with fb.moved := mput 0 mv (8192 * slot + old) (new + 1) }
  let s := s.setBoard old { ({} : Board) with up := (s.board old).up, failed := (s.board old).failed }
  (s.commitBoard new).flagPlacement slot

/-- A board has ended every step it began, the record updates of those steps have ended (R198), and no step start is on its way
to it. -/
def State.quiet (s : State) (bk : Nat) : Bool :=
  let x := s.board bk
  x.cur.isNone && x.sb == [] && x.endPend == [] && !x.strm.any (·.wait) && s.stepsToward bk == []

/-- The old board has ended every step it was given. -/
def State.drained (s : State) (bk : Nat) : Bool := s.quiet bk && (s.board bk).steps == []

/-- The end of a board's move: its repair record closed where every plane is programmed. -/
def State.endMove (s : State) (old : Nat) : State :=
  match s.moveOf old with
  | some r =>
    if r.todo = [] then
      (({ s with sv.repairs := s.sv.repairs.filter (· != r) }).bump (svcReg s.mainHub 0x50) 1).event 6
        (leBytes 4 (34 * r.frame) ++ leBytes 4 (34 * r.target))
    else s
  | none => s

/-- HISTORY_COPY: once the old board has ended its last step below S; the starts it holds beyond S are the new board's (R287
steps 6 to 8). -/
def execHistoryCopy (slot : Fin 64) (lb : Nat) (s : State) : Host.Outcome State Fault Refusal :=
  match s.switchOf slot lb with
  | none => .next s
  | some w =>
    if !w.overlapped ∨ w.copied ∨ 0 < w.acks ∨ !w.sent ∨ 0 < w.skip ∨ !s.quiet w.old ∨ !atOrAfter (s.board w.old).q w.s then .next s
    else
      let s := s.copyState slot lb w.old w.new
      let s := s.putSwitch w { w with copied := true }
      .next ((s.replaceBoard slot lb w.old w.new).endMove w.old)

/-! Fenced switches. -/

/-- FENCED_BOARD_SWITCH: a board that drains, with the epoch kept; or a failed board replaced under a raised epoch
(R288). -/
def execFencedBoardSwitch (slot : Fin 64) (lb : Nat) (d : Die) (b : Brd) (failed : Bool) (s : State) :
    Host.Outcome State Fault Refusal :=
  let x := s.score slot
  let new := boardKey d b
  match s.switchOf slot lb with
  | some w =>
    if w.overlapped ∨ w.new ≠ new ∨ w.copied then .next s
    else if w.drop then
      -- records wait until a place for them is free
      (if !w.sent ∧ s.recordRoom (s.receivers slot lb).1 lb then .next (s.sendSwitch w) else .next s)
    else if !s.drained w.old then .next s
    else
      let w' := { w with s := (s.board w.old).q, en := s.serveEpoch w.old }
      let s := (s.copyState slot lb w.old w.new).replaceBoard slot lb w.old w.new
      let s := (s.serve w').endMove w.old
      .next { s with fb.switches := s.fb.switches.filter (· != w) }
  | none =>
    match x.boardOf lb with
    | none => .next s
    | some old =>
      if x.st ≠ 4 then .next s
      else if failed then
        -- a failed board is replaced by BOARD_REPAIR, which begins its switch
        .next s
      else
        match s.moveOf old with
        | none =>
          if s.freeBoard new ∧ keyDie new = keyDie old ∧ s.soundBoard x old new ∧ !s.switching old then
            .next (s.prepareBoard old new)
          else .next s
        | some r =>
          if r.target ≠ new ∨ r.todo ≠ [] then .next s
          else
            let w : Switch := { slot := slot, lb := lb, old := old, new := new, overlapped := false, at_ := s.now,
                                s := (s.board old).q, en := s.serveEpoch old }
            .next { s with fb.switches := s.fb.switches ++ [w] }

/-- SWITCH_RECORD_REMOVAL: the records of a switch that has ended, once no packet of the old placement is left; 1 ms later
for a failed board (R286, R288). -/
def execSwitchRecordRemoval (slot : Fin 64) (lb : Nat) (s : State) : Host.Outcome State Fault Refusal :=
  match s.switchOf slot lb with
  | none => .next s
  | some w =>
    let old := fun (p : Pkt) => pktSrc p == w.old && p.lsrc == lb
    -- packets of the old placement under way, or carries of it that wait for a key, and routes behind a fence
    let left := s.inFabric.any old || s.boards.any (fun e => e.2.heldC.any old) || !s.fb.fences.isEmpty
    if !w.copied ∨ left ∨ (w.drop ∧ s.now < w.at_ + 1000000) then .next s
    else
      let (bs, _) := s.receivers slot lb
      let s := bs.foldl (fun s k => s.dropRecAt k lb) s
      .next { s with fb.recs := s.fb.recs.filter (fun r => r.2.1 != lb), fb.switches := s.fb.switches.filter (· != w) }

/-! Failures. -/

/-- Boards of a score that hold a step of a job. -/
def State.inFlight (s : State) (slot j : Nat) : Bool :=
  (s.score slot).place.any fun p =>
    let x := s.board p.2
    x.steps.any (fun c => c.job == j) || (match x.cur with | some c => c.job == j | none => false) ||
    x.sb.any (fun e => e.ctx.job == j) || x.endPend.any (fun c => c.job == j) || (s.stepsToward p.2).any fun q => q.job == j

/-- The jobs of a score with a step in flight fail with a status (R481). -/
def State.failScore (s : State) (slot status : Nat) (all : Bool) : State :=
  s.wk.jobs.foldl (fun s e =>
    match e.2 with
    | some j =>
      if s.ringScore j.ring = slot ∧ j.st ≠ .completed ∧ (all ∨ (j.st = .running ∧ s.inFlight slot e.1)) then s.failJob e.1 status
      else s
    | none => s) s

/-- A failed board: in the map, its repairs given up, and a move of its frames' work begun (R481). -/
def State.failBoard (s : State) (bk : Nat) : State :=
  let s := (s.setBoard bk { s.board bk with failed := true }).mapSet (mapBoard bk)
  let x := s.die (keyDie bk)
  let s := s.setDie (keyDie bk) { x with boardFails := (x.boardFails.filter fun t => decide (s.now < t + 1000000000)) ++ [s.now] }
  { s with sv.repairs := s.sv.repairs.filter fun r => !(r.isBoard && r.frame == bk) && (r.isBoard || fkBoard r.frame != bk) }

/-- Every frame of a new board that has planes to program is covered (R481). -/
def State.coverBoard (s : State) (r : Repair) : State :=
  let x := s.score ((s.board r.target).score.getD 64)
  (r.todo.map fun p => x.frameAt r.target (p / 8 % 34)).eraseDups.foldl (fun s fk =>
    s.setFrame fk { s.frame fk with covered := true }) s

/-- A failed board's work on its reserve board (R481 steps 2 and 3): the histories reset, the records of the raised epoch
sent, the frames covered. -/
def State.takeOverBoard (s : State) (slot lb bk new : Nat) : State :=
  let en := (s.serveEpoch bk + 1) % 2 ^ 16
  let s := s.prepareBoard bk new
  let s := match s.moveOf bk with | some r => s.coverBoard r | none => s
  let s := (List.range (s.score slot).file.man.contexts).foldl (fun s c => s.resetHist slot new c false) s
  let s := s.replaceBoard slot lb bk new
  let w : Switch := { slot := slot, lb := lb, old := bk, new := new, s := 0, en := en, drop := true, overlapped := false,
                      sent := false, at_ := s.now }
  let s := { s with fb.switches := s.fb.switches ++ [w] }
  let s := if s.recordRoom (s.receivers slot lb).1 lb then s.sendSwitch w else s
  s.endMove bk

/-- The dies lost with a die: an L0 die takes its stack with it (R482). -/
def lostWith (d : Nat) : List Nat := if d % 4 = 0 then (List.range 4).map (d + ·) else [d]

/-- Link ends of a stack, and the hub ends that lead to it. -/
def stackEnds (k : Nat) : List Nat :=
  (List.range 4).map (portEnd k) ++ [hubEnd 0 k, hubEnd 1 k, portEnd (k + 7) 2, portEnd (k + 1) 3]

/-- A die lost, with its map bit set; during bring-up its EVENT waits for Ready (R482, R529). -/
def State.loseDie (s : State) (d : Nat) : State :=
  if (s.die d).lost then s
  else
    let ds := (lostWith d).filter fun e => !(s.die e).lost
    let boot := s.pstate == 1
    let s := ds.foldl (fun s e =>
      ((s.setDie e { s.die e with lost := true, on := false, draws := [], told := !boot }).mapSet (mapDie e)).setMet e {}) s
    let s := if d % 4 = 0 then (stackEnds (d / 4)).foldl State.declareDown s else s
    let s := (List.range 64).foldl (fun s slot =>
      if (s.score slot).place.any fun p => ds.contains (keyDie p.2) then s.failScore slot 0x0507 true else s) s
    if boot then
      let w := s.reg (hubBase 0 + 0xB0008)
      s.setBoth 0xB0008 (put w 6 5 (hold 31 (fld w 6 5 + ds.length)))
    else s.event 7 (ds.flatMap (leBytes 1))

/-- BOARD_REPAIR: a healthy board asked to move is moved (R368); else a board cut off, or one whose self-check raises UNIT,
fails and is replaced (R241, R481). -/
def execBoardRepair (d : Die) (b : Brd) (s : State) : Host.Outcome State Fault Refusal :=
  let bk := boardKey d b
  let x := s.board bk
  if !(s.die d).on then .next s
  else if x.move ∧ !x.failed then
    (if x.score.isSome then .next ((s.setBoard bk { x with move := false }).moveBoard bk) else .next s)
  else
    let s := if x.failed then s else s.boardFault bk 6 x.pc 0
    match x.score with
    | none => .next (if s.disabled (mapBoard bk) ∧ x.failed then s else s.failBoard bk)
    | some slot =>
      -- a switch that moved work off the board is given up with it
      let s := (s.failBoard bk).failScore slot 0x0507 false
      -- a die more than 8 of whose boards fail within 1 s is lost (R482)
      if 8 < (s.die d).boardFails.length then .next (s.loseDie d) else
      let s := { s with fb.switches := s.fb.switches.filter fun w => !(w.slot == slot && w.lb == x.lb && !w.copied) }
      match s.reserveBoard bk with
      | some new =>
        let res := (s.score slot).resident && (homes (s.score slot)).all fun h => h.1 / 34 != bk || s.residentOf ((s.score slot).frameAt bk (h.1 % 34))
        if res then .next (s.takeOverBoard slot x.lb bk new)
        else .next ((s.setScore slot { s.score slot with degraded := true }).event 6 (leBytes 4 (34 * bk)))
      | none => .next ((s.setScore slot { s.score slot with degraded := true }).event 6 (leBytes 4 (34 * bk)))

/-- DIE_LOSS (R482). -/
def execDieLoss (d : Die) (s : State) : Host.Outcome State Fault Refusal := .next (s.loseDie d)

end Sys2Proof.Machine
end

