-- ==== Sys2Proof/Machine/Sprinmos.lean ====
section
/-! DEFINITION. Sprinmos messages and sessions (R324-R332, R335, R339, R345-R348, R359, R360). -/

namespace Sys2Proof.Machine

/-- The header of a message (R325). -/
structure Hdr where
  type : Nat
  opn : Bool
  resume : Bool
  num : Nat
  hub : Nat
  seq : Nat
  ack : Nat
  window : Nat
  msgId : Nat
  offset : Nat
  length : Nat
  payload : List Byte
deriving DecidableEq, Repr

/-- The fields of a message's bytes. -/
def hdrOf (b : List Byte) : Hdr :=
  { type := leAt b 3 1 % 16, opn := leAt b 3 1 / 16 % 2 == 1, resume := leAt b 3 1 / 32 % 2 == 1,
    num := leAt b 4 1 % 16, hub := leAt b 4 1 / 16 % 2, seq := leAt b 8 4, ack := leAt b 12 4,
    window := leAt b 16 4 % 65536, msgId := leAt b 20 4, offset := leAt b 24 4, length := leAt b 6 2,
    payload := b.drop 32 }

/-- Magic, version and reserved header bits are right (R325). -/
def hdrOk (b : List Byte) : Bool :=
  decide (32 ≤ b.length ∧ leAt b 0 2 = 0x534D ∧ leAt b 2 1 = 1 ∧ leAt b 3 1 / 128 = 0 ∧ leAt b 4 1 / 32 = 0 ∧
    leAt b 5 1 = 0 ∧ leAt b 18 2 = 0)

/-- The CRC-32C over bytes 0-27 and the payload matches (R325). -/
def crcOk (b : List Byte) : Bool := leAt b 28 4 == crc32c (b.take 28 ++ b.drop 32)

/-- The NAK payload (R346). -/
def nakBytes (reason code seq ring : Nat) : List Byte :=
  leBytes 1 reason ++ [0] ++ leBytes 2 code ++ leBytes 4 seq ++ leBytes 2 ring ++ List.replicate 6 0

/-- A NAK to no session, to the source of the message it answers, at most 1,000 a second and port (R346); such a NAK has no
sequence and carries 0 (log entry 121). -/
def State.nakAnon (s : State) (h : Nat) (e : Endpoint) (reason seq ring : Nat) : State :=
  let p := s.port h
  let p := if p.nakAt + 1000000000 ≤ s.now then { p with nakAt := s.now, nakN := 0 } else p
  if 1000 ≤ p.nakN then (s.setPort h p).bump (spm h 0x54) 1
  else (s.setPort h { p with nakN := p.nakN + 1 }).sendFrame h e
    (msgBytes 0xFF 8 false 0 0 0 0 (nakBytes reason (0x0700 + reason) seq ring))

/-- A violation of a reason 1-8 by a message from an endpoint: discarded, answered, counted and logged, and the session's throttle
and limit applied (R345-R347). -/
def State.violate (s : State) (h : Nat) (e : Endpoint) (k : Option Nat) (reason seq ring : Nat) : State :=
  let s := (s.bump (spm h 0x50) 1).log (0x700 + reason) [match k with | some k => k | none => 255, reason]
  match k with
  | none => s.nakAnon h e reason seq ring
  | some k =>
    let s := s.sendMsg k 8 (nakBytes reason (0x0700 + reason) seq ring)
    let x := s.sess k
    let at_ := (x.violAt.filter fun t => decide (s.now < t + 10000000000)) ++ [s.now]
    let x := { x with viol := hold 0xFFFF (x.viol + 1), violAt := at_ }
    if 256 < at_.length then
      let p := leBytes 2 2 ++ leBytes 6 s.ck.rk
      ((s.setSess k x).closeSess k).sendFrame x.port x.endp (msgBytes k 6 false x.tx x.rx 0 0 p)
    else if x.throttle.any (fun t => decide (s.now < t)) ∨ 16 < (at_.filter fun t => decide (s.now < t + 1000000000)).length then
      s.setSess k { x with throttle := some (s.now + 10000000000) }
    else s.setSess k x

/-- A refusal that is no violation (R345). -/
def State.refuseMsg (s : State) (k reason code seq ring : Nat) : State :=
  s.sendMsg k 8 (nakBytes reason code seq ring)

/-- The payload rule of a type (R326, R327, R346, R359). -/
def payloadOk (h : Hdr) : Bool :=
  let n := h.payload.length
  match h.type with
  | 1 => n == 0 || (n % 4 == 0 && decide (n ≤ 32) && n == 4 * (leAt h.payload 2 1 % 16 + 1))
  | 3 => n % 64 == 0 && decide (64 ≤ n ∧ n ≤ 1024)
  | 5 => decide (16 ≤ n)
  | 7 => n == 0
  | 8 => n == 16
  | _ => true

/-- The types a host may send (R326). -/
def hostTypes : List Nat := [1, 3, 5, 7, 8]

/-- The ACK of the module: of sequence 0, with the next number it expects (R326, R331). -/
def State.sendAck (s : State) (k : Nat) : State := s.sendOn k 7 false 0 0 0 []

/-- A message classified as the next of its session: x advances by one (R331). -/
def State.nextRx (s : State) (k : Nat) : State := s.setSess k { s.sess k with rx := ((s.sess k).rx + 1) % 2 ^ 32 }

/-- A message processed: the ACK follows (R331). -/
def State.processed (s : State) (k : Nat) : State := if (s.sess k).opened then s.sendAck k else s

/-- The least engine tag of a hub that pairs nothing (R360). -/
def State.freeTag (s : State) (h : Nat) : Nat :=
  ((List.range 256).find? fun t => !s.hl.pairs.any fun p => p.hub == h && p.tag == t).getD 255

/-- A COMMAND: answered at once when empty, else paired, acknowledged and placed in MB0 (R359, R360). -/
def State.rxCommand (s : State) (k : Nat) (h : Hdr) : State :=
  if h.payload = [] then (s.processed k).sendMsg k 2 [] h.msgId
  else
    let t := s.freeTag (k / 16)
    let ws := bytesToWords h.payload
    let w := ws.headD 0
    let p : Pair := { hub := k / 16, tag := t, sess := k % 16, msgId := h.msgId, hostTag := fld w 24 8 }
    let s := { s with hl.pairs := s.hl.pairs ++ [p] }
    (s.processed k).mb0Put (k / 16) (put w 24 8 t :: ws.drop 1)

/-- Descriptors of a ring in a push. -/
def pushCount (ds : List (List Byte)) (r : Nat) : Nat := (ds.filter fun d => leAt d 0 2 == r).length

/-- A byte sequence in pieces of n bytes. -/
def chunks (n : Nat) : Nat → List Byte → List (List Byte)
  | 0, _ => []
  | f + 1, bs => if bs = [] then [] else bs.take n :: chunks n f (bs.drop n)

/-- The first ring of a push that fails a check. -/
def firstRing (ds : List (List Byte)) (f : Nat → Bool) : Option Nat := (ds.map fun d => leAt d 0 2).find? f

/-- A RING_PUSH checked whole, and its descriptors written to their rings (R335, R345). -/
def State.rxPush (s : State) (k port : Nat) (h : Hdr) : State :=
  let ds := chunks 64 16 h.payload
  match firstRing ds (fun r => decide (4096 ≤ r) || s.ringSess r != some k) with
  | some r => s.violate port (s.sess k).endp (some k) 8 h.seq r
  | none =>
    match firstRing ds (fun r => decide (s.ringDepth r < s.held r + pushCount ds r)) with
    | some r => s.violate port (s.sess k).endp (some k) 7 h.seq r
    | none =>
      if s.pstate < 2 ∨ 4 < s.pstate ∨ s.pw.failN then (s.refuseMsg k 9 0x0401 h.seq (leAt h.payload 0 2)).processed k
      else
        match firstRing ds (fun r => (s.ring r).replay.isSome) with
        | some r => (s.refuseMsg k 0xC 0x0403 h.seq r).processed k
        | none => ((ds.foldl (fun s d => s.acceptDesc k d) s).wake).processed k

/-- A DATA message written into its handle's part, or refused; a drive tensor's group size is part of its format (R179,
R339). -/
def State.rxData (s : State) (k port : Nat) (h : Hdr) : State :=
  let p := h.payload
  let body := p.drop 16
  let id := leAt p 0 4
  let fmt := leAt p 4 1
  let part := leAt p 5 1
  if 1 < part ∨ leAt p 7 1 ≠ 0 ∨ leAt p 12 4 ≠ 0 then s.violate port (s.sess k).endp (some k) 3 h.seq 0xFFFF
  else
    match s.handle id with
    | none => (s.refuseMsg k 0xB 0x0106 h.seq 0xFFFF).processed k
    | some x =>
      let drive := match Fmt.ofCode x.fmt with | some f => f.isDrive | none => false
      let okFmt := if 0xFE ≤ x.fmt then fmt == 0xFF
        else fmt == x.fmt && dataFormat fmt && (!drive || leAt p 6 1 == x.group)
      let size := if part = 0 then x.codeLen else x.expLen
      if !okFmt then (s.refuseMsg k 0xB 0x0106 h.seq 0xFFFF).processed k
      else if size < h.offset + body.length ∨ leAt p 8 4 ≠ size then s.violate port (s.sess k).endp (some k) 3 h.seq 0xFFFF
      else if x.busy ≠ 0 then (s.refuseMsg k 0xA 0x0406 h.seq 0xFFFF).processed k
      else
        let x := if part = 0 then x.write h.offset body
          else { x with exp := writeBytes x.exp h.offset body,
                        gotExp := x.gotExp ++ [(h.offset, h.offset + body.length)] }
        (s.setHandle id (some x)).processed k

/-- The unacknowledged messages from a number on sent again (R332). -/
def State.resend (s : State) (k x : Nat) : State :=
  let again := fun m : OMsg => x == m.seq || below x m.seq
  let ms := (s.sess k).unacked.filter again
  let bump := fun m : OMsg => if again m then { m with tries := m.tries + 1, at_ := s.now } else m
  let s := s.setSess k { s.sess k with unacked := (s.sess k).unacked.map bump }
  ms.foldl (fun s m =>
    (s.bump (spm (s.sess k).port 0x48) 1).sendOn k m.type true m.seq m.msgId m.offset m.payload) s

/-- A host NAK: a GAP asks for retransmission, any other is counted and ignored (R332, R346). -/
def State.rxNak (s : State) (k port : Nat) (h : Hdr) : State :=
  if leAt h.payload 0 1 = 0 then (s.resend k (leAt h.payload 4 4)).processed k
  else (s.bump (spm port 0x58) 1).processed k

/-- A session opened by a message (R328). -/
def State.openSess (s : State) (k : Nat) (m : Rx) (h : Hdr) : State :=
  let s := s.setSess k
    { opened := true, udp := m.udp, mac := m.mac, ip := m.ip, uport := m.uport, port := m.port, rx := h.seq,
      tx := Config.freeNat s.fresh % 2 ^ 32, window := h.window, last := s.now }
  s.take 1

/-- The message comes from the session's bound endpoint (R328). -/
def sameEnd (x : Sess) (m : Rx) : Bool :=
  x.udp == m.udp && x.mac == m.mac && (!m.udp || (x.ip == m.ip && x.uport == m.uport))

/-- The port is alive, booted, secured and accepts the message's form, in UDP form only with an IPv4 address (R321, R323, R324,
R349). -/
def State.portTakes (s : State) (m : Rx) : Bool :=
  s.sv.alive.getD m.port false && s.pw.booted.getD m.port false && (s.port m.port).secured && s.pstate != 0 &&
  bit (s.reg (spm m.port 0)) (if m.udp then 5 else 6) && (!m.udp || s.reg (spm m.port 8) != 0)

/-- The endpoint a message came from. -/
def rxEnd (m : Rx) : Endpoint := ⟨m.udp, m.mac, m.ip, m.uport⟩

/-- A sequenced message classified against x (R331): 0 next, 1 gap, 2 duplicate, 3 out of window. -/
def seqClass (x seq : Nat) : Nat :=
  let d := (seq + 2 ^ 32 - x) % 2 ^ 32
  if d = 0 then 0 else if d < 64 then 1 else if 2 ^ 32 - 1024 ≤ d then 2 else 3

/-- A message of an open session from its endpoint: acknowledgement, classification and effect (R331). -/
def State.rxOpen (s : State) (k port : Nat) (h : Hdr) : State :=
  let s := s.ackIn k h.ack h.window
  if h.type = 7 then s
  else
    match seqClass (s.sess k).rx h.seq with
    | 0 =>
      let s := s.nextRx k
      match h.type with
      | 1 => s.rxCommand k h
      | 3 => s.rxPush k port h
      | 5 => s.rxData k port h
      | _ => s.rxNak k port h
    | 1 => s.refuseMsg k 0 0x0700 (s.sess k).rx 0xFFFF
    | 2 => (s.bump (spm port 0x4C) 1).sendAck k
    | _ => s.violate port (s.sess k).endp (some k) 6 h.seq 0xFFFF

/-- A Sprinmos message received (R325-R331, R345, R347): the checks in the order of R345, then its effect. -/
def State.rxMessage (s : State) (m : Rx) : State :=
  if !s.portTakes m then s
  else
    let s := s.bump (spm m.port 0x40) 1
    let h := hdrOf m.bytes
    let e := rxEnd m
    if !hdrOk m.bytes then s.violate m.port e none 1 h.seq 0xFFFF
    else if !crcOk m.bytes then s.violate m.port e none 2 h.seq 0xFFFF
    else
      let k := sessKey h.hub h.num
      let x := s.sess k
      let sequenced := h.type != 7
      let opn := h.opn && sequenced
      let bound := x.opened && (sameEnd x m || (h.resume && sequenced && !opn))
      let att := if bound then some k else none
      let quiet := bound && (match x.throttle with | some t => decide (s.now < t) | none => false)
      if quiet && decide (s.now < x.lastProc + 1000000) then s
      else
        let s := if quiet then s.setSess k { x with lastProc := s.now } else s
        let s := if bound then s.setSess k { s.sess k with port := m.port } else s
        let lim := if bit (s.reg (spm m.port 0)) 4 then 8192 else 1408
        if h.length ≠ h.payload.length ∨ lim < h.length then s.violate m.port e att 3 h.seq 0xFFFF
        else if !hostTypes.contains h.type then s.violate m.port e att 4 h.seq 0xFFFF
        else if !payloadOk h then s.violate m.port e att 3 h.seq 0xFFFF
        else if (!x.opened && !opn) || (x.opened && !sameEnd x m && (opn || !h.resume || !sequenced)) then
          s.violate m.port e none 5 h.seq 0xFFFF
        else
          let s := if opn then (s.closeSess k).openSess k m h else s
          let s := s.setSess k { s.sess k with udp := m.udp, mac := m.mac, ip := m.ip, uport := m.uport,
                                               port := m.port, last := s.now }
          s.rxOpen k m.port h

/-- The row's own type, or a message no row's type fits (R345). -/
def ofType (m : Rx) (t : Nat) : Bool := (hdrOf m.bytes).type == t || !hostTypes.contains (hdrOf m.bytes).type

/-- A COMMAND message (R359, R360); a message of another row's type is that row's. -/
def execSprinmosCommand (m : Rx) (s : State) : Host.Outcome State Fault Refusal :=
  .next (if ofType m 1 then s.rxMessage m else s)

/-- A RING_PUSH message (R335). -/
def execRingPush (m : Rx) (s : State) : Host.Outcome State Fault Refusal :=
  .next (if ofType m 3 then s.rxMessage m else s)

/-- A DATA message (R339). -/
def execDataMessage (m : Rx) (s : State) : Host.Outcome State Fault Refusal :=
  .next (if ofType m 5 then s.rxMessage m else s)

/-- An ACK of the host (R331). -/
def execHostAck (m : Rx) (s : State) : Host.Outcome State Fault Refusal :=
  .next (if ofType m 7 then s.rxMessage m else s)

/-- A NAK of the host (R346). -/
def execHostNak (m : Rx) (s : State) : Host.Outcome State Fault Refusal :=
  .next (if ofType m 8 then s.rxMessage m else s)

/-- The oldest acknowledgement or reply of a hub's Porell sent as a RESPONSE with the host's tag (R357, R360, R372). -/
def State.respond (s : State) (h : Nat) : State :=
  match s.hl.replies.find? fun r => match r.src with | .session g _ => g.val == h | .sideband => false with
  | none => s
  | some r =>
    let s := { s with hl.replies := s.hl.replies.erase r }
    match s.hl.pairs.find? fun p => p.hub == h && p.tag == r.tag with
    | none => s
    | some p =>
      let w := word (r.code + (r.words.length % 8) * 2 ^ 16 + p.hostTag * 2 ^ 24)
      let s := if r.code = 1 then s else { s with hl.pairs := s.hl.pairs.erase p }
      s.sendMsg (sessKey h p.sess) 2 (wordsToBytes (w :: r.words.take 7)) p.msgId 0 [] r.port

/-- Every waiting reply of both hubs sent. -/
def State.respondAll (s : State) : State :=
  s.hl.replies.foldl (fun s r => match r.src with | .session h _ => s.respond h | .sideband => s) s

/-- A RESPONSE (R360). -/
def execCommandResponse (h : Hub) (s : State) : Host.Outcome State Fault Refusal := .next (s.respond h)

/-- 200 µs after a transmission, doubling up to 25.6 ms (R332). -/
def rtoAfter (tries : Nat) : Nat := min (200000 * 2 ^ (tries - 1)) 25600000

/-- The oldest unacknowledged message sent again, or the session closed after eight sends (R332); an unsecured port sends none
(R321). -/
def execRetransmitTimeout (h : Hub) (n : Fin 16) (s : State) : Host.Outcome State Fault Refusal :=
  let k := sessKey h n
  let x := s.sess k
  match x.unacked with
  | [] => .next s
  | m :: r =>
    if s.now < m.at_ + rtoAfter m.tries ∨ !s.portUp k then .next s
    else if 8 ≤ m.tries then .next (s.closeSess k)
    else
      let s := s.setSess k { x with unacked := { m with tries := m.tries + 1, at_ := s.now } :: r }
      .next ((s.bump (spm x.port 0x48) 1).sendOn k m.type true m.seq m.msgId m.offset m.payload)

/-- A session without a valid message for 60 s closes (R332). -/
def execSessionIdleTimeout (h : Hub) (n : Fin 16) (s : State) : Host.Outcome State Fault Refusal :=
  let x := s.sess (sessKey h n)
  .next (if x.opened ∧ x.last + 60000000000 ≤ s.now then s.closeSess (sessKey h n) else s)

/-- The 10 s of a throttle end (R347). -/
def execThrottleExpiry (h : Hub) (n : Fin 16) (s : State) : Host.Outcome State Fault Refusal :=
  let x := s.sess (sessKey h n)
  match x.throttle with
  | some t => .next (if t ≤ s.now then s.setSess (sessKey h n) { x with throttle := none } else s)
  | none => .next s

end Sys2Proof.Machine
end

