-- ==== Sys2Proof/Machine/DeviceCmds.lean ====
section
/-! DEFINITION. The DEVICE, LOG and SVC command families (R368, R393, R397, R476, R490). -/

namespace Sys2Proof.Machine

/-- The running firmware release of a hub: its image's major and minor (R506). -/
def State.fwImg (s : State) (h slot : Nat) : FwImg := mget {} s.sv.fw (2 * h + slot)

def State.running (s : State) (h : Nat) : FwImg := s.fwImg h (s.sv.cur.getD h 0)

def State.fwRelease (s : State) : Nat := (s.running 0).major * 65536 + (s.running 0).minor

/-- DEV_INFO. -/
def execDevInfo (r : Req) (s : State) : Host.Outcome State Fault Refusal :=
  .next (s.command ⟨0x0100, 1, true, false, false, false, 0, false, false⟩ r fun s =>
    .ok ([word 0xB0, word s.fwRelease] ++ words64 s.serial ++ [word s.disabledFrames]) s)

/-- DEV_STATE. -/
def execDevState (r : Req) (s : State) : Host.Outcome State Fault Refusal :=
  .next (s.command ⟨0x0101, 1, true, false, false, false, 0, false, false⟩ r fun s =>
    .ok ([word s.pstate, word (b2n (s.sv.alive.getD 0 false) + 2 * b2n (s.sv.alive.getD 1 false) +
      4 * b2n s.sv.owner.isSome + 8 * b2n s.pw.serviceEn)] ++ words64 s.ck.rk) s)

/-- The entry to Drowsy or Dormant begins (R435). -/
def State.beginEntry (s : State) (n : Nat) : State :=
  let w := putBit (s.reg (hubBase 0 + 0x80000)) 4 true
  ({ s with pw.entering := some n, pw.target := n }).setBoth 0x80000 w

/-- DEV_POWER (R434-R436, R449). -/
def execDevPower (r : Req) (s : State) : Host.Outcome State Fault Refusal :=
  .next (s.command ⟨0x0102, 2, true, true, true, true, 1, false, false⟩ r fun s =>
    let n := argw r 1
    if n < 2 ∨ 4 < n then .refuse 0x0104
    else if s.pstate = 1 ∨ s.pw.failN then .refuse 0x0401
    else if s.pstate = 5 ∧ n ≠ 2 then .refuse 0x0407
    else if s.pstate = 5 ∧ s.anyAt (85 * 16) then .refuse 0x0407
    else if s.pstate = 5 then .pend 2 { s with pw.wakePend := true, pw.wakeAt := s.now, pw.target := 2 }
    else if s.pstate = n then
      (if n = 2 then .ok [word 2] s.wake else .ok [word n] s)
    else if n = 2 ∨ (n = 3 ∧ s.pstate = 4) then .pend n { s.wake with pw.target := n }
    else .pend n (s.beginEntry n))

/-- DEV_RESET: every session closes and the module restarts as from cold start (R368). -/
def execDevReset (r : Req) (s : State) : Host.Outcome State Fault Refusal :=
  let c : Cmd := ⟨0x0103, 2, true, true, true, true, 1, false, false⟩
  let s1 := s.command c r fun s => if argw r 1 ≠ 0x52535421 then .refuse 0x0104 else .pend 0 s
  if s.answers ∧ s.cmdCheck c r = 0 ∧ (s1.hl.pend.any fun p => p.op == 0x0103 && p.key == 0 && decide (p.req = r)) then
    .next (((s1.finish r 0 []).respondAll).vinReset.setPstate 1)
  else .next s1

/-- DEV_PORT: settings applied 1 ms after the RESPONSE is acknowledged (R322, R368). -/
def execDevPort (r : Req) (s : State) : Host.Outcome State Fault Refusal :=
  let mark := fun x : Reply =>
    if x.src = r.src ∧ x.tag = r.tag ∧ x.code = 0 then { x with port := some (argw r 1) } else x
  let s1 := s.command ⟨0x0104, 2, false, false, true, true, 4, false, decide (argw r 2 / 2 ^ 23 ≠ 0)⟩ r fun s =>
    let h := argw r 1
    if s.gated r.src 5 1 then .refuse 0x0204
    else if 2 ≤ h then .refuse 0x010A
    else if argw r 2 % 4 = 3 then .refuse 0x0104
    else .ok [] (s.setPort h { s.port h with conf := some (argw r 2, argw r 3, argw r 4, 0) })
  let n := s.hl.replies.length
  .next { s1 with hl.replies := s1.hl.replies.take n ++ (s1.hl.replies.drop n).map mark }

/-- DEV_EVENTS: the session's EVENT selection (R370). -/
def execDevEvents (r : Req) (s : State) : Host.Outcome State Fault Refusal :=
  .next (s.command ⟨0x0105, 1, false, false, false, false, 1, false, false⟩ r fun s =>
    match r.src with
    | .session h n => .ok [] (s.setSess (sessKey h n) { s.sess (sessKey h n) with events := argw r 1 })
    | .sideband => .refuse 0x0202)

/-! LOG. -/

/-- An event-log entry as DATA (log entry 21). -/
def logBytes (n : Nat) (e : LogE) : List Byte :=
  leBytes 4 n ++ leBytes 4 e.code ++ leBytes 8 e.rk ++ padTo 0 16 (e.detail.map (BitVec.ofNat 8))

/-- LOG_READ. -/
def execLogRead (r : Req) (s : State) : Host.Outcome State Fault Refusal :=
  .next (s.command ⟨0x0C00, 1, true, false, false, false, 3, false, false⟩ r fun s =>
    let f := argw r 1
    let n := argw r 2
    let c := s.sink (argw r 3) (32 * n)
    if c ≠ 0 then .refuse c
    else if s.evlog.length < f + n then .refuse 0x0405
    else .ok [] (s.bulk r.src (argw r 3) ((List.range n).flatMap fun i => logBytes (f + i) (s.evlog.getD (f + i) ⟨0, 0, []⟩))))

/-- The event totals of the streams in a ring's context: board, stream, saturations and underflows summed over the groups of the
stream and, for a whole tensor, over the boards of its stage (R195, R201; log entry 21). -/
def State.streamTotals (s : State) (r : Nat) : List Byte :=
  let slot := s.ringScore r
  (s.scoreBoards slot).flatMap fun p => (s.streamsOf slot p.2).flatMap fun n =>
    let total := fun o => nsum ((if s.strWhole p.2 n then s.stageBoards p.2 else [p.2]).map fun bk =>
      nsum ((List.range (s.ngroups bk n)).map fun g => leAt (s.load (s.histAt bk n (s.ring r).ctx g) 32) o 4))
    leBytes 2 p.1 ++ leBytes 2 n ++ leBytes 8 (total 20) ++ leBytes 8 (total 24)

/-- The counters a selector names: module, dies and boards that the map does not disable (R16), rings (log entry 21). -/
def State.telem (s : State) : Nat → List Byte
  | 0 => (List.range 2).flatMap fun h =>
      (([0x30000, 0x50040] ++ (List.range 10).map (fun n => 0x40040 + 4 * n) ++ (List.range 5).map (fun n => 0x90040 + 4 * n) ++
       (List.range 5).map (fun n => 0xA0040 + 4 * n) ++ (List.range 5).map (fun n => 0xB0040 + 4 * n)).flatMap fun x =>
        leBytes 4 (s.regN (hubBase h + x))) ++ (List.range 16).flatMap fun c =>
          leBytes 4 (mget 0 s.ms.corrected (8192 + 16 * h + c))
  | 1 => ((List.range 32).filter fun d => !s.disabled (mapDie d)).flatMap fun d =>
      ([0x1004, 0x70] ++ (List.range 6).map (fun n => 0x80 + 4 * n)).flatMap fun x => leBytes 4 (s.regN (dieBase d + x))
  | 2 => (s.boards.filter fun e => !s.disabled (mapDie (keyDie e.1)) && !s.disabled (mapBoard e.1)).flatMap fun e =>
      leBytes 4 e.1 ++ ([0x40080, 0x40084, 0x40088, 0x40204, 0x40208] ++ (List.range 32).map (fun n => 0x45080 + 4 * n) ++
        [0x45100, 0x45104]).flatMap (fun x => leBytes 4 (s.regN (bkBase e.1 + x))) ++ leBytes 4 (mget 0 s.ms.corrected e.1)
  | _ => s.ringList.flatMap fun r =>
      leBytes 4 r ++ leBytes 4 (s.held r) ++ leBytes 8 (s.ring r).jseq ++ s.streamTotals r

/-- LOG_TELEM. -/
def execLogTelem (r : Req) (s : State) : Host.Outcome State Fault Refusal :=
  .next (s.command ⟨0x0C01, 1, true, false, false, false, 2, false, false⟩ r fun s =>
    if 3 < argw r 2 then .refuse 0x0104
    else
      let bs := s.telem (argw r 2)
      let c := s.sink (argw r 1) bs.length
      if c ≠ 0 then .refuse c else .ok [] (s.bulk r.src (argw r 1) bs))

/-- LOG_JOURNAL (R393). -/
def execLogJournal (r : Req) (s : State) : Host.Outcome State Fault Refusal :=
  .next (s.command ⟨0x0C02, 2, false, true, true, true, 2, false, decide (4 ≤ argw r 2)⟩ r fun s =>
    let n := argw r 1
    if n < 1 ∨ 4096 < n then .refuse 0x0104
    else if (List.range 2).any fun h => decide (dramCap < s.dramUsed h - s.sv.journal.size * 2 ^ 19 + n * 2 ^ 19) then
      .refuse 0x0305
    else
      let on := argw r 2 % 2 == 1
      let j := { s.sv.journal with size := n, on := on, captures := argw r 2 / 2 == 1 }
      let j := if on && !s.sv.journal.on then { j with cals := [] } else j
      let s := { s with sv.journal := (j.fit j.recs.length 0).fit j.recs.length 1 }
      .ok [] (if on then { s with wk.rings := s.wk.rings.map fun e => (e.1, { e.2 with stateAt := 0 }) } else s))

/-- LOG_EXPORT: journal records as DATA from a record number on (R396). -/
def execLogExport (r : Req) (s : State) : Host.Outcome State Fault Refusal :=
  .next (s.command ⟨0x0C03, 1, false, false, false, true, 2, false, false⟩ r fun s =>
    let rs := (s.sv.journal.recs.filter fun x => x.1 / 2 ^ 31 == argw r 2 / 2 ^ 31).dropWhile fun x => x.1 != argw r 2
    if rs = [] then .refuse 0x0405
    else
      match s.handle (argw r 1) with
      | none => .refuse 0x0105
      | some h =>
        if h.fmt ≠ 0xFF then .refuse 0x0105
        else .ok [] (s.bulk r.src (argw r 1) ((rs.flatMap (·.2)).take h.codeLen)))

/-- The first record of a replay is a STATE record of the score the ring serves (R397). -/
def State.replayCode (s : State) (ring first n : Nat) : Nat :=
  let held := (List.range n).all fun i => s.sv.journal.recs.any fun x => x.1 == first + i
  match s.sv.journal.recs.find? fun x => x.1 == first with
  | none => 0x0405
  | some x =>
    if leAt x.2 0 1 ≠ 3 then 0x0104
    else if !held then 0x0405
    else
      let ck := x.2.drop 32
      let sc := s.score (s.ringScore ring)
      if sc.st ≠ 4 ∨ sc.id ≠ leAt ck 8 8 ∨ sc.digest.take 32 ≠ slice ck 32 32 then 0x0407
      else if !(s.ring ring).paused ∨ s.held ring ≠ 0 ∨ (s.ring ring).replay.isSome then 0x0404
      else 0

/-- LOG_REPLAY: the ring restored from the STATE record and put under replay (R397, R398); the first injection falls
1 ms after the acceptance. -/
def execLogReplay (r : Req) (s : State) : Host.Outcome State Fault Refusal :=
  .next (s.command ⟨0x0C04, 2, false, true, true, true, 3, false, false⟩ r fun s =>
    let ring := argw r 1
    if 4096 ≤ ring then .refuse 0x010A
    else if s.ringDepth ring = 0 then .refuse 0x0405
    else if argw r 3 = 0 then .ok [] s
    else
      let c := s.replayCode ring (argw r 2) (argw r 3)
      if c ≠ 0 then .refuse c
      else
        let recs := (s.sv.journal.recs.filter fun x => decide (argw r 2 ≤ x.1 ∧ x.1 < argw r 2 + argw r 3))
        let ck := match recs with | x :: _ => x.2.drop 32 | [] => []
        let src := match recs with | x :: _ => leAt x.2 2 2 | [] => 0
        let descs := recs.filter fun x => leAt x.2 0 1 == 1 && leAt x.2 2 2 == src
        let a0 := match descs with | x :: _ => leAt x.2 24 8 | [] => 0
        let s := (s.ckRestore ring ck).1
        .pend ring (s.setRing ring { s.ring ring with
          replay := some (descs.map (·.1)), replayBase := s.ck.rk + 1000000, replayA0 := a0, replaySrc := src, replayed := 0,
          replayReq := some r }))

/-! SVC. -/

/-- SVC_MAP_READ (R476). -/
def execSvcMapRead (r : Req) (s : State) : Host.Outcome State Fault Refusal :=
  .next (s.command ⟨0x0D00, 1, true, false, false, false, 1, false, false⟩ r fun s =>
    let c := s.sink (argw r 1) 32768
    if s.gated r.src 2 0 then .refuse 0x0204
    else if c ≠ 0 then .refuse c
    else .ok [] (s.bulk r.src (argw r 1) s.mapBytes))

/-- SVC_MAP_EDIT: the new map replaces region 2 and is in force at the next cold start; counter 3 counts it
(R465, R475, R476). -/
def execSvcMapEdit (r : Req) (s : State) : Host.Outcome State Fault Refusal :=
  .next (s.command ⟨0x0D01, 3, false, true, true, true, 1, false, false⟩ r fun s =>
    if s.gated r.src 2 1 then .refuse 0x0204
    else
      match s.object (argw r 1) with
      | .error c => .refuse c
      | .ok bs =>
        if bs.length ≠ 32768 then .refuse 0x0104
        else if leAt bs 0 4 ≠ 0x4D444C59 ∨ leAt bs 4 4 ≠ 1 then .refuse 0x0104
        else
          match s.ctrInc 3 with
          | (_, false) => .refuse 0x040B
          | (s, true) =>
            let bs := patch bs 8 (leBytes 8 (s.counter 3))
            match s.ledgerPages 440 128 bs with
            | (_, false) => .refuse 0x040B
            | (s, true) => .ok [] s)

/-- SVC_REPAIR: a repair or migration of a frame or board started (R477, R481). -/
def execSvcRepair (r : Req) (s : State) : Host.Outcome State Fault Refusal :=
  .next (s.command ⟨0x0D02, 2, false, true, true, true, 2, false, false⟩ r fun s =>
    if 1 < argw r 2 then .refuse 0x0104
    else
      match s.frameAddr? (argw r 1) with
      | none => .refuse 0x010A
      | some fk =>
        if argw r 2 = 0 then
          (if (s.frame fk).placed = none then .refuse 0x0405
           else .ok [] (s.setFrame fk { s.frame fk with migrate := true }))
        else
          let bk := fkBoard fk
          if (s.board bk).score = none then .refuse 0x0405
          else .ok [] (s.setBoard bk { s.board bk with move := true }))

/-- SVC_SWAP: the planned handover of hub A's rings and sessions (R490). -/
def execSvcSwap (r : Req) (s : State) : Host.Outcome State Fault Refusal :=
  .next (s.command ⟨0x0D03, 2, false, true, true, true, 1, false, false⟩ r fun s =>
    if 1 < argw r 1 then .refuse 0x0104
    else if !(s.sv.alive.getD 0 false && s.sv.alive.getD 1 false) then .refuse 0x0407
    else if (argw r 1 = 0) = s.sv.swapped then .refuse 0x0403
    else
      let live := s.wk.jobs.map fun e => (e.1, e.2.map fun j =>
        if j.st ≠ .completed ∧ ringHub j.ring = 0 then { j with takeover := true } else j)
      .ok [] { s with sv.swapped := argw r 1 == 0, sv.owner := if argw r 1 = 0 then some 1 else none, wk.jobs := live })

/-- SVC_LIMITS: a maker limit set; settings above it come down to it (R440, R445). -/
def execSvcLimits (r : Req) (s : State) : Host.Outcome State Fault Refusal :=
  .next (s.command ⟨0x0D04, 3, false, true, true, true, 2, false, false⟩ r fun s =>
    let k := argw r 1
    let v := argw r 2
    let m := s.th.maker.set k v
    if 3 < k then .refuse 0x0104
    else if k = 3 ∧ (v < 80 ∨ 240 < v) then .refuse 0x0104
    else if k < 3 ∧ 115 ≤ v then .refuse 0x0104
    else
      let s := { s with th.maker := m }
      let l := s.reg (hubBase 0 + 0x70000)
      let t := min (fld l (8 * k) 8) v
      let s := if k = 3 then
        s.setBoth 0x80004 (put (s.reg (hubBase 0 + 0x80004)) 0 8 (min (s.regN (hubBase 0 + 0x80004) % 256) v))
      else s.setBoth 0x70000 (put l (8 * k) 8 t)
      .ok [] s.savePolicy)

end Sys2Proof.Machine
end

