-- ==== Sys2Proof/Machine/SecurityCmds.lean ====
section
/-! DEFINITION. The SECURITY command family and provisioning (R498-R516). The verdict of a signature check and the
opening of a wrapped key are operands of the commands (log entry 14). -/

namespace Sys2Proof.Machine

/-- Security registers of a hub. -/
def secReg (h x : Nat) : Nat := hubBase h + 0xA0000 + x

/-- A bit of SEC_STAT in both hubs. -/
def State.secBit (s : State) (n : Nat) (b : Bool) : State :=
  (s.setReg (secReg 0 0) (putBit (s.reg (secReg 0 0)) n b)).setReg (secReg 1 0) (putBit (s.reg (secReg 1 0)) n b)

/-- SEC_CHALLENGE: a nonce for a role, valid 30 s; refused for 60 s after three failures (R501, R503). -/
def execSecChallenge (r : Req) (s : State) : Host.Outcome State Fault Refusal :=
  match r.src with
  | .sideband => .next (s.command ⟨0x0B00, 1, false, false, false, false, 1, false, false⟩ r fun _ => .refuse 0x0202)
  | .session h n =>
    let k := sessKey h n
    let blocked := decide (s.now < (s.sess k).chalBlock)
    let c : Cmd := ⟨0x0B00, 1, false, false, false, false, 1, false, false⟩
    let s1 := s.command c r fun s =>
      let role := argw r 1
      if role < 1 ∨ 2 < role then .refuse 0x0104
      else if blocked then .refuse 0x0604
      else
        let v := Config.nonce s.fresh % 2 ^ 128
        let x := s.sess k
        .ok ((List.range 4).map fun i => word (v / 2 ^ (32 * i)))
          ((s.take 1).setSess k { x with chal := some (role, v, s.now) })
    .next (if blocked ∧ s.due c r then
      s1.bump (secReg h 0x48) 1 else s1)

/-- An installer key is present in region 5 (R502). -/
def State.hasIkey (s : State) : Bool := (s.pages 762 11).any (· != 0)

/-- A failed SEC_AUTH of a session: three within 60 s block its challenges (R503). -/
def State.authFail (s : State) (h n : Nat) : State :=
  let k := sessKey h n
  let x := s.sess k
  let fs := (x.fails.filter fun t => decide (s.now < t + 60000000000)) ++ [s.now]
  let x := { x with chal := none, fails := fs,
                    chalBlock := if 3 ≤ fs.length then s.now + 60000000000 else x.chalBlock }
  (s.setSess k x).bump (secReg h 0x44) 1

/-- The code of a SEC_AUTH's own checks, in the order of R502. -/
def State.authCode (s : State) (k role : Nat) (sig : Bool) : Nat :=
  match (s.sess k).chal with
  | some (c, _, t) =>
    if c ≠ role ∨ t + 30000000000 ≤ s.now then 0x0604
    else if role = 2 ∧ !s.pw.serviceEn then 0x0203
    else if role = 1 ∧ !s.hasIkey then 0x0606
    else if !sig then 0x0601
    else 0
  | none => 0x0604

/-- SEC_AUTH: the session's role raised; the challenge is consumed either way (R502, R503). -/
def execSecAuth (r : Req) (sig : Bool) (s : State) : Host.Outcome State Fault Refusal :=
  let c : Cmd := ⟨0x0B01, 1, false, false, true, true, 2, false, false⟩
  match r.src with
  | .sideband => .next (s.command c r fun _ => .refuse 0x0202)
  | .session h n =>
    let k := sessKey h n
    let role := argw r 1
    let arg := if role < 1 ∨ 2 < role then 0x0104
      else match s.object (argw r 2) with
        | .error e => e
        | .ok bs => if bs.length ≠ 4627 then 0x0104 else 0
    if !s.due c r then .next (s.command c r fun _ => .refuse 0)
    -- every SEC_AUTH consumes the challenge
    else if arg ≠ 0 then .next ((s.setSess k { s.sess k with chal := none }).command c r fun _ => .refuse arg)
    else
      let code := s.authCode k role sig
      if code ≠ 0 then .next ((s.authFail h n).turnDown c r code)
      else
        .next (s.command c r fun s =>
          .ok [] ((s.setSess k { s.sess k with role := role + 1, chal := none }).bump (secReg h 0x40) 1))

/-- SEC_DROP (R504). -/
def execSecDrop (r : Req) (s : State) : Host.Outcome State Fault Refusal :=
  .next (s.command ⟨0x0B02, 1, false, false, true, true, 0, false, false⟩ r fun s =>
    match r.src with
    | .sideband => .refuse 0x0202
    | .session h n => .ok [] (s.setSess (sessKey h n) { s.sess (sessKey h n) with role := 1 }))

/-- What an opened SEC_CAK object must hold: purpose, binding, the name's length byte 1-32, name and key (R514). -/
def cakPlain (h : Nat) (o : List Byte) (p : List Byte) : Bool :=
  let n := leAt p 0 1
  slice o 1568 8 == [0x42, 0x4C, 0x59, 0x2D, 0x43, 0x41, 0x4B, 0x20] &&
  slice o 1576 8 == leBytes 8 h && decide (1 ≤ n ∧ n ≤ 32) && p.length == n + 33

/-- SEC_CAK: a port's connectivity association key sealed, in force at its next MKA exchange (R511, R514). -/
def execSecCak (r : Req) (opened : Option (List Byte)) (s : State) : Host.Outcome State Fault Refusal :=
  let s1 := s.command ⟨0x0B03, 2, false, true, true, true, 2, false, false⟩ r fun s =>
    let h := argw r 1
    if 2 ≤ h then .refuse 0x010A
    else
      match s.object (argw r 2) with
      | .error e => .refuse e
      | .ok o =>
        match opened with
        | none => .refuse 0x0605
        | some p =>
          if !cakPlain h o p then .refuse 0x0606
          else
            match s.sealWrite (880 + h) p with
            | (_, false) => .refuse 0x040B
            | (s, true) => .ok [] (({ s with lg.caks := mput [] s.lg.caks h p }).secBit (2 + h) true)
  let no := fun (s : State) => (s.hl.replies.filter fun x => x.code == 0x0605 && x.tag == r.tag).length
  .next (if opened = none ∧ no s < no s1 then
    s1.bump (secReg (srcByte r.src / 16 % 2) 0x4C) 1 else s1)

/-- The installer roles of other sessions dropped, and every installer challenge discarded (R504, R505). -/
def State.dropInstallers (s : State) (keep : Nat) : State :=
  (List.range 32).foldl (fun s k =>
    let x := s.sess k
    let x := match x.chal with | some (1, _, _) => { x with chal := none } | _ => x
    if x.role = 2 ∧ k ≠ keep then (s.setSess k { x with role := 1 }).auditModule 0x0B02
    else s.setSess k x) s

/-- SEC_IKEY: the installer key replaced in one transaction (R505). -/
def execSecIkey (r : Req) (sig : Bool) (s : State) : Host.Outcome State Fault Refusal :=
  .next (s.command ⟨0x0B04, 2, false, true, true, true, 1, false, false⟩ r fun s =>
    match s.object (argw r 1) with
    | .error e => .refuse e
    | .ok o =>
      if o.length ≠ 2592 + 4627 then .refuse 0x0606
      else if s.gated r.src 5 1 then .refuse 0x0204
      else if !sig then .refuse 0x0601
      else
        match s.ledgerPages 762 11 (padTo 0 2816 (o.take 2592)) with
        | (_, false) => .refuse 0x040B
        | (s, true) =>
          let s := (s.ctrInc 1).1.secBit 1 true
          let k := match r.src with | .session h n => sessKey h n | .sideband => 32
          .ok [] (s.dropInstallers k))

/-- The calibration set's stored bytes that its digest covers (R547). -/
def State.calSet (s : State) : List Byte := (s.pages 24 416).take 103104

/-- The attestation report without its signature (R509). -/
def State.report (s : State) (nonce : List Byte) : List Byte :=
  let flags := fld (s.reg (secReg 0 0)) 6 1 + 2 * b2n s.pw.serviceEn + 4 * b2n s.sv.owner.isSome + 8 * (leAt (s.page 24) 16 1 % 2)
  leBytes 4 0x54414C59 ++ leBytes 2 1 ++ leBytes 2 flags ++ leBytes 8 s.serial ++
  leBytes 1 0xB0 ++ leBytes 1 (s.running 0).major ++ leBytes 2 (s.running 0).minor ++
  leBytes 8 s.ck.rk ++ nonce ++ List.replicate 20 0 ++
  ((List.range 2).flatMap fun h => if s.sv.alive.getD h false then padTo 0 64 (s.running h).d else List.replicate 64 0) ++
  sha3 s.calSet ++ sha3 s.mapBytes ++ sha3 ((s.pages 762 11).take 2592) ++
  ((List.range 8).flatMap fun k => leBytes 8 (s.counter k)) ++
  (List.range 64).flatMap fun k =>
    let x := s.score k
    if x.st = 0 then List.replicate 80 0
    else leBytes 1 x.st ++ List.replicate 7 0 ++ leBytes 8 x.id ++ padTo 0 64 x.digest

/-- SEC_ATTEST: the signed report in its object (R509). -/
def execSecAttest (r : Req) (s : State) : Host.Outcome State Fault Refusal :=
  .next (s.command ⟨0x0B05, 1, false, false, false, true, 5, false, false⟩ r fun s =>
    match s.handle (argw r 1) with
    | none => .refuse 0x0105
    | some h =>
      if h.fmt ≠ 0xFF then .refuse 0x0105
      else if h.codeLen < 10195 then .refuse 0x0104 10195
      else
        let b := s.report (wordsToBytes ((r.args.drop 1).take 4))
        .ok [] (s.bulk r.src (argw r 1) (b ++ padTo 0 4627 (Config.identitySign (sha3 b)))))

/-- The header of a firmware image (R506). -/
def fwOf (b : List Byte) : FwImg :=
  { magicOk := leAt b 0 4 == 0x46574C59, major := leAt b 4 2, minor := leAt b 6 2,
    level := leAt b 8 4,
    pred := ((List.range 4).map fun i => (leAt b (16 + 4 * i) 2, leAt b (18 + 4 * i) 2)).filter (· != (0, 0)),
    keyDigest := sha3 (slice b 96 2592), bodyOk := slice b 32 64 == sha3 ((b.drop 7424).take (leAt b 12 4)),
    d := sha3 (b.take 2688) }

/-- The maker-key slot that verifies an image's key: a fused digest not revoked (R507). -/
def State.makerSlot (s : State) (x : FwImg) : Option Nat :=
  (List.range 2).find? fun i => s.sv.fused.getD i [] == x.keyDigest && !s.sv.revoked.testBit i

/-- The checks of R507 on an image with its signature's verdict: the failure code, 0 where all pass (R508). -/
def State.fwCode (s : State) (x : FwImg) (sig : Bool) : Nat :=
  if !x.magicOk then 0x0602
  else if (s.makerSlot x).isNone then 0x0606
  else if !x.bodyOk then 0x0602
  else if !sig then 0x0601
  else if x.level < s.counter 0 then 0x0603
  else 0

/-- Counter 0 raised to a level, at most n steps (R491, R508). -/
def State.raiseLevel : Nat → State → Nat → State
  | 0, s, _ => s
  | n + 1, s, level => if s.counter 0 < level then State.raiseLevel n (s.ctrInc 0).1 level else s

/-- A hub's slot with an image becomes current and runs (R508). -/
def State.bootSlot (s : State) (h slot : Nat) : State :=
  let s := { s with sv.cur := s.sv.cur.set h slot }
  let x := s.running h
  let s := s.setReg (secReg h 0) (putBit (s.reg (secReg h 0)) 7 (slot == 1))
  let s := s.setReg (secReg h 0) (putBit (s.reg (secReg h 0)) 9 (s.makerSlot x == some 1))
  s.setRegN (secReg h 4) x.level

/-- The open sessions of a hub reached through a port (R485, R490). -/
def State.sessPorts (s : State) (h : Nat) (p : Hub) : State :=
  (List.range 16).foldl (fun s n =>
    let k := sessKey h n
    if (s.sess k).opened then s.setSess k { s.sess k with port := p } else s) s

/-- The jobs of a hub's rings, those completed apart, carry TAKEOVER in the completions to come (R490). -/
def State.markTakeover (s : State) (h : Nat) : State :=
  { s with wk.jobs := s.wk.jobs.map fun e => (e.1, e.2.map fun j =>
      if j.st ≠ .completed ∧ ringHub j.ring = h then { j with takeover := true } else j) }

/-- Every heartbeat path as if a heartbeat had just come (R484, R490). -/
def State.beatsNow (s : State) : State :=
  { s with sv.missed := [],
           sv.beat := (List.range 6).foldl (fun (m : SMap Nat) i => mput 0 m (4 * (i / 3) + i % 3) s.now) s.sv.beat }

/-- A hub hands its rings and sessions to its peer and is out of the module for an update (R490, R491). -/
def State.hubOut (s : State) (h : Nat) : State :=
  let o : Hub := if h = 0 then 1 else 0
  let s := { s with sv.update := some h, sv.owner := some o.val, sv.alive := s.sv.alive.set h false,
                    pw.booted := s.pw.booted.set h false }
  (((s.sessPorts h o).markTakeover h).freeHubLocks h [1, 2, 4, 7]).beatsNow

/-- The hub that was out rejoins and takes its rings and sessions back; a swap in force stays so (R490, R491). Replies go on by
the port of each session's latest message (R330). -/
def State.hubBack (s : State) (h : Nat) : State :=
  let s := { s with sv.update := none, sv.owner := if s.sv.swapped then some 1 else none,
                    sv.alive := s.sv.alive.set h true, pw.booted := s.pw.booted.set h true }
  (s.markTakeover h).beatsNow

/-- The update's command answered (R491). -/
def State.endUpdate (s : State) (code : Nat) : State :=
  (s.hl.pend.filter fun p => p.op == 0x0B06).foldl (fun s p => (s.unpend p.req p.op).finish p.req code []) s

/-- The hub that is out boots: the new image, after which it rejoins and the other hub follows; or, where the image fails secure
boot or the self-test, its previous one, and the update stops (R491). -/
def State.updateBoot (s : State) (h : Nat) (sig : Nat → Bool) : State :=
  let slot := 1 - s.sv.cur.getD h 0
  let x := s.fwImg h slot
  let fails := Config.freeBit s.fresh
  let s := s.take 1
  if s.fwCode x (sig slot) ≠ 0 then (s.hubBack h).endUpdate 0x0601
  else if fails then (s.hubBack h).endUpdate 0x0507
  else
    let s := (s.bootSlot h slot).hubBack h
    if h = 0 then s.hubOut 1 else (State.raiseLevel (x.level + 1) s x.level).endUpdate 0

/-- The serving hub has failed while its peer was out: the peer abandons the update and boots its previous image (R492). -/
def State.abandonUpdate (s : State) (failed : Nat) : State :=
  if s.sv.update = some (1 - failed) then (s.hubBack (1 - failed)).endUpdate 0x0507 else s

/-- SEC_FW: the image verified and written to the slot that is not current in each hub; the live update begins with hub A, and
SECURE_BOOT carries it on (R491, R508). The spec leaves to a new release's own manual what commands mean under it: the model
keeps the command set and the codes of release 2.3 (R2; DESIGN CHOICE, log entry 110). -/
def execSecFw (r : Req) (sig : Bool) (s : State) : Host.Outcome State Fault Refusal :=
  .next (s.command ⟨0x0B06, 2, false, true, true, true, 1, false, false⟩ r fun s =>
    match s.segments (argw r 1) with
    | .error e => .refuse e
    | .ok b =>
      let x := fwOf b
      let c := s.fwCode x sig
      if c ≠ 0 then .refuse c
      else if !x.pred.contains ((s.running 0).major, (s.running 0).minor) then .refuse 0x0407
      else if !(s.sv.alive.getD 0 false && s.sv.alive.getD 1 false) then .refuse 0x0407
      else
        let s := (List.range 2).foldl (fun s h =>
          { s with sv.fw := mput {} s.sv.fw (2 * h + (1 - s.sv.cur.getD h 0)) x }) s
        .pend 0 (s.hubOut 0))

/-- The debug port unlocked or locked, with its audit entry where no command made it (R515). -/
def State.setDebug (s : State) (on : Bool) : State :=
  let s := s.secBit 5 on
  if on then s.secBit 6 true else s

/-- SEC_DEBUG (R515). -/
def execSecDebug (r : Req) (s : State) : Host.Outcome State Fault Refusal :=
  .next (s.command ⟨0x0B07, 3, false, true, true, true, 1, false, false⟩ r fun s =>
    if 1 < argw r 1 then .refuse 0x0104 else .ok [] (s.setDebug (argw r 1 == 1)))

/-- A maker authentication at the security test access port unlocks debug (R500, R502, R515). -/
def execSecurityTapAuth (sig : Bool) (s : State) : Host.Outcome State Fault Refusal :=
  if sig ∧ s.pw.serviceEn then .next (((s.setDebug true).auditModule 0x0B07 [1]).bump (secReg 0 0x40) 1)
  else .next (s.bump (secReg 0 0x44) 1)

/-- SERVICE_EN after its 10 ms filter: deassertion returns maker sessions to operator and locks debug
(R504, R515, R516). -/
def execServiceEnChange (level : Bool) (s : State) : Host.Outcome State Fault Refusal :=
  let s := ({ s with pw.serviceEn := level }).secBit 4 level
  if level then .next s
  else
    let s := (List.range 32).foldl (fun s k =>
      if (s.sess k).role = 3 then (s.setSess k { s.sess k with role := 1 }).auditModule 0x0B02 else s) s
    .next (if bit (s.reg (secReg 0 0)) 5 then (s.setDebug false).auditModule 0x0B07 [0] else s)

/-- A step of provisioning at the security test access port, SERVICE_EN asserted and debug unlocked by the maker
(R500). -/
def execProvisioning (step : ProvStep) (s : State) : Host.Outcome State Fault Refusal :=
  if !s.pw.serviceEn ∨ !bit (s.reg (secReg 0 0)) 5 then .next { s with rdata := 0x0203 }
  else
    match step with
    | .identity =>
      if bit (s.reg (secReg 0 0)) 0 then .next { s with rdata := 0x0606 }
      else
        let pub := padTo 0 2592 (Config.publicKey s.fresh) ++ padTo 0 1568 (Config.publicKey (s.fresh + 1))
        let s1 := (s.ledgerPages 0 17 (padTo 0 4352 (leBytes 8 s.serial ++ pub))).1
        let s1 := (s1.sealWrite 882 (Config.privateKey s.fresh)).1
        let s1 := (s1.sealWrite 883 (Config.privateKey (s.fresh + 1))).1
        .next { (s1.take 2).secBit 0 true with rdata := 0 }
    | .certificate c =>
      -- the second step follows the first, once (log entry 117)
      if !bit (s.reg (secReg 0 0)) 0 ∨ (s.pages 17 7).any (· != 0) then .next { s with rdata := 0x0606 } else
      .next { (s.ledgerPages 17 7 (padTo 0 1792 c)).1 with rdata := 0 }
    | .station k a b =>
      if !bit (s.reg (secReg 0 0)) 0 then .next { s with rdata := 0x0606 } else
      let s := (s.ledgerPages 762 11 (padTo 0 2816 k)).1
      let s := s.secBit 1 true
      let put := fun (s : State) (h : Nat) (c : Option (List Byte)) =>
        match c with
        | some p => (({ (s.sealWrite (880 + h) p).1 with lg.caks := mput [] s.lg.caks h p }).secBit (2 + h) true)
        | none => s
      .next { put (put s 0 a) 1 b with rdata := 0 }

end Sys2Proof.Machine
end

