-- ==== Sys2Proof/Machine/Continuity.lean ====
section
/-! DEFINITION. Hub faults: heartbeats (R484), takeover (R485-R488), the restart of a failed hub (R489), and the boot ROM's
choice of a firmware slot (R507). -/

namespace Sys2Proof.Machine

/-! Heartbeats. -/

/-- The link ends a heartbeat path takes: the hub link, and stacks S0 and S1 (R484). -/
def beatEnds : Nat → List Nat
  | 0 => [hubEnd 0 8, hubEnd 1 8]
  | p => [hubEnd 0 (p - 1), portEnd (p - 1) 0, portEnd (p - 1) 1, hubEnd 1 (p - 1)]

/-- A heartbeat path carries packets. -/
def State.beatPath (s : State) (p : Nat) : Bool := (beatEnds p).all fun k => decide (2 ≤ s.linkState k)

/-- A hub runs Porell. -/
def State.runs (s : State) (h : Nat) : Bool := s.sv.alive.getD h false && s.pw.booted.getD h false && s.pstate != 0

/-- HEARTBEAT_SEND: a heartbeat to the peer over each path that carries packets. -/
def execHeartbeatSend (h : Hub) (s : State) : Host.Outcome State Fault Refusal :=
  if !s.runs h then .next s
  else
    .next (((List.range 3).filter s.beatPath).foldl (fun s p =>
      let k := 4 * (1 - h.val) + p
      let s := { s with sv.beat := mput 0 s.sv.beat k s.now, sv.missed := s.sv.missed.filter (· != k) }
      s.emit (.heartbeat h p)) s)

/-! Takeover. -/

/-- The link ends of a hub, and the ends that face it. -/
def hubEnds (h : Nat) : List Nat :=
  (List.range 9).map (hubEnd h) ++ (List.range 8).map (fun n => portEnd n h) ++ [hubEnd (1 - h) 8]

/-- A link put down with its hub, not disabled in the map (R485). -/
def State.dropLink (s : State) (k : Nat) : State :=
  if s.linkState k = 0 then s else (s.setLinkState k 0).setLink k { s.link k with downAt := some s.now, fails := 0 }

/-- The jobs of a failed hub's rings: those of continuity class go on, the others complete with 0x0503; their completions
carry TAKEOVER (R487). -/
def State.takeJobs (s : State) (f : Nat) : State :=
  let mine := (s.ringList.filter fun r => ringHub r == f).flatMap fun r => (s.ring r).jobs
  let live := mine.filter fun j => s.jstate j != .completed
  let s := live.foldl (fun s j => s.modJob j fun x => { x with takeover := true }) s
  live.foldl (fun s j => match s.job j with
    | some x => if s.ringCont x.ring then s else s.failJob j 0x0503
    | none => s) s

/-- The unacknowledged messages of a hub's sessions sent again through the survivor (R485). -/
def State.takeSessions (s : State) (f : Nat) (o : Hub) : State :=
  (List.range 16).foldl (fun s n =>
    let k := sessKey f n
    let x := s.sess k
    if !x.opened then s
    else
      let s := s.setSess k { x with port := o }
      match x.unacked with
      | m :: _ => s.resend k m.seq
      | [] => s) s

/-- A hub out of the module, its peer serving everything (R485-R487): `cut` where its VIN rails are cut first. A peer that is out
for an update abandons it first (R492). -/
def State.takeover (s : State) (f : Nat) (cut : Bool) : State :=
  let s := s.abandonUpdate f
  if !s.sv.alive.getD f false ∨ !s.sv.alive.getD (1 - f) false then s
  else
    let o := 1 - f
    let s := { s with sv.alive := s.sv.alive.set f false, sv.fenced := s.sv.fenced.set f cut, sv.owner := some o,
                      sv.tookAt := some s.now, sv.restarted := false, sv.swapped := false,
                      pw.booted := s.pw.booted.set f false }
    let s := (((hubEnds f).foldl State.dropLink s).freeLocks [6]).freeHubLocks f [1, 2, 4, 7]
    let s := s.setPort f { s.port f with secured := false, synced := false }
    let s := s.loseImages f
    let s := s.ringList.foldl (fun s r =>
      if s.ringCont r then s.setRing r { s.ring r with lone := some o } else s) s
    let s := (s.takeJobs f).bump (svcReg o 0x44) 1
    let last := (s.sv.journal.next.getD f 0 + 2 ^ 31 - 1) % 2 ^ 31 + f * 2 ^ 31
    let s := s.jrec 9 (2048 * f) 0 0 0 0xFFFF (leBytes 4 f ++ leBytes 4 last)
    let s := s.auditModule 0xE004 [word f]
    (s.event 3 (leBytes 1 f)).takeSessions f (if o = 0 then 0 else 1)

/-- HEARTBEAT_MISS: a path without a heartbeat for 300 µs counts as missed; a third missed path declares the peer failed
(R484); a hub out for an update watches its peer too (R492). -/
def execHeartbeatMiss (h : Hub) (path : Fin 3) (s : State) : Host.Outcome State Fault Refusal :=
  let k := 4 * h.val + path.val
  let out := s.pstate != 0 && s.sv.update == some h.val
  if !(s.runs h || out) ∨ s.now < mget 0 s.sv.beat k + 300000 ∨ s.sv.missed.contains k then .next s
  else
    let s := ({ s with sv.missed := s.sv.missed ++ [k] }).bump (svcReg h 0x40) 1
    .next (if (List.range 3).all fun p => s.sv.missed.contains (4 * h.val + p) then s.takeover (1 - h) true else s)

/-! The boot ROM. -/

/-- The slot a hub boots, given the signature verdicts of its slots: the current one, else the other (R507). -/
def State.bootChoice (s : State) (h : Nat) (sig : Nat → Bool) : Option Nat :=
  let c := s.sv.cur.getD h 0
  if s.fwCode (mget {} s.sv.fw (2 * h + c)) (sig c) = 0 then some c
  else if s.fwCode (mget {} s.sv.fw (2 * h + (1 - c))) (sig (1 - c)) = 0 then some (1 - c)
  else none

/-- A slot booted; a fallback is reported (R507, R521). -/
def State.bootFrom (s : State) (h slot : Nat) : State :=
  let back := slot != s.sv.cur.getD h 0
  let s := (s.bootSlot h slot)
  let s := { s with pw.booted := s.pw.booted.set h true }
  -- the port trains (R349)
  let s := (s.setPort h { s.port h with secured := false, synced := false }).setReg (spm h 0xC) 1
  let s := s.setReg (secReg h 0) (putBit (s.reg (secReg h 0)) 8 back)
  if back then
    let w := s.reg (hubBase 0 + 0xB0008)
    (s.setBoth 0xB0008 (putBit w 4 true)).log 0x10D [h, slot]
  else s

/-- A hub's DRAM written with zeros and valid codes (R307); what the other hub holds a copy of is kept, since the copy serves until
it is written back (R313). -/
def State.zeroDram (s : State) (h : Nat) : State :=
  let s := s.zeroBut (h * 0x1000000000) 0x0F80000000 s.mirrored
  { s with ms.poison := s.ms.poison.filter (fun k => k / 0x10000000 != h), ms.ready := s.ms.ready.set h true }

/-- HUB_RESTART: the failed hub restarted once by its survivor; one that passes rejoins and takes its rings and sessions
back, one that fails stays fenced (R489, R490). -/
def execHubRestart (h : Hub) (sig : Bool) (s : State) : Host.Outcome State Fault Refusal :=
  let due := match s.sv.tookAt with | some t => decide (t + 1000000000 ≤ s.now) | none => false
  if !s.sv.fenced.getD h false ∨ s.sv.restarted ∨ !due then .next s
  else
    let s := { s with sv.restarted := true }
    match s.bootChoice h (fun _ => sig) with
    | none => .next (s.log 0x10E [h])
    | some slot =>
      let s := (s.bootFrom h slot).zeroDram h
      let s := { s with ms.chans := s.ms.chans.filter (fun e => e.1 / 16 != h.val), sv.alive := s.sv.alive.set h true,
                        sv.fenced := s.sv.fenced.set h false, sv.owner := none,
                        sv.missed := s.sv.missed.filter fun k => k / 4 != h.val,
                        sv.beat := (List.range 3).foldl (fun m p => mput 0 m (4 * h.val + p) s.now) s.sv.beat }
      let s := (hubEnds h).foldl (fun s k =>
        if s.disabled (mapLink (linkNo k)) then s
        else { s.linkUp k with fb.routes := mput 0 s.fb.routes (linkNo k) 0 }) s
      .next ((s.markTakeover h).metStart (32 + h))

end Sys2Proof.Machine
end

