-- ==== Sys2Proof/Machine/LedgerCmds.lean ====
section
/-! DEFINITION. The LEDGER command family (R455, R463, R465, R468, R469). -/

namespace Sys2Proof.Machine

/-- A region's read rights, as a return code: 0x0201 for the secrets, 0x0204 behind a password (R455, R468). -/
def State.readCode (s : State) (src : Src) (region : Nat) : Nat :=
  if region = 6 then 0x0201 else if s.gated src region 0 then 0x0204 else 0

/-- LDG_READ. -/
def execLdgRead (r : Req) (s : State) : Host.Outcome State Fault Refusal :=
  .next (s.command ⟨0x0A00, 1, true, false, false, false, 4, false, false⟩ r fun s =>
    let g := argw r 1
    let (lo, hi) := regionPages g
    let n := argw r 3
    if 8 ≤ g ∨ hi < lo + argw r 2 + n then .refuse 0x0104
    else
      let c := s.readCode r.src g
      if c ≠ 0 then .refuse c
      else if n = 0 then .ok [] s
      else
        let c := s.sink (argw r 4) (256 * n)
        if c ≠ 0 then .refuse c
        else .ok [] (s.bulk r.src (argw r 4) (s.pages (lo + argw r 2) n)))

/-- LDG_WRITE: pages 64-95 of region 5 by the installer, region 7 by the operator (R455). -/
def execLdgWrite (r : Req) (s : State) : Host.Outcome State Fault Refusal :=
  let g := argw r 1
  .next (s.command ⟨0x0A01, if g = 7 then 1 else 2, false, false, true, true, 3, false, false⟩ r fun s =>
    let (lo, hi) := regionPages g
    if 8 ≤ g ∨ hi ≤ lo + argw r 2 then .refuse 0x0104
    else if g ≠ 5 ∧ g ≠ 7 then .refuse 0x0201
    else if g = 5 ∧ argw r 2 < 64 then .refuse 0x0201
    else if s.gated r.src g 1 then .refuse 0x0204
    else
      match s.object (argw r 3) with
      | .error c => .refuse c
      | .ok bs =>
        if bs.length ≠ 256 then .refuse 0x0104
        else
          match s.ledgerWrite (lo + argw r 2) bs with
          | (s, true) => .ok [] s
          | (_, false) => .refuse 0x040B)

/-- LDG_COUNTER: a read, or an increment of counters 32-63 by the installer (R463, R465); in Off the ledger makes no
writes (R470). -/
def execLdgCounter (r : Req) (s : State) : Host.Outcome State Fault Refusal :=
  let inc := argw r 2 == 1
  .next (s.command ⟨0x0A02, if inc && r.src != .sideband then 2 else 1, true, false, inc, inc, 2, false, false⟩ r fun s =>
    let k := argw r 1
    if 64 ≤ k ∨ 1 < argw r 2 ∨ (inc ∧ k < 32) then .refuse 0x0104
    else if !inc then .ok (words64 (s.counter k)) s
    else if s.pstate = 0 then .refuse 0x0402
    else if 2 ^ 48 - 1 ≤ s.counter k then .refuse 0x0104
    else
      match s.ctrInc k with
      | (s, true) => .ok (words64 (s.counter k)) s
      | (_, false) => .refuse 0x040B)

/-- The regions that may carry passwords (R468). -/
def passwRegion (g : Nat) : Bool := [1, 2, 4, 5, 7].contains g

/-- The page of region 6 that holds a region's password digests and failure count (log entry 23). -/
def State.savePassw (s : State) (g : Nat) : State × Bool :=
  let plain := mget [] s.lg.passw (2 * g) ++ mget [] s.lg.passw (2 * g + 1) ++ leBytes 1 (mget 0 s.lg.passFail g)
  s.sealWrite (858 + g) plain

/-- LDG_UNLOCK: a region opened to the session, or a failure counted; ten failures lock it (R468). -/
def execLdgUnlock (r : Req) (s : State) : Host.Outcome State Fault Refusal :=
  let g := argw r 1
  let rw := argw r 2
  let key := mget 0 s.lg.passFail g
  let pw := wordsToBytes ((r.args.drop 2).take 4)
  let right := mget [] s.lg.passw (2 * g + rw) == [] || mget [] s.lg.passw (2 * g + rw) == sha3 pw
  let c : Cmd := ⟨0x0A03, 1, false, false, false, false, 6, false, false⟩
  if s.due c r ∧ passwRegion g ∧ rw ≤ 1 ∧ key < 10 ∧ !right then
    -- a wrong password: the count, LDG_CNT_PASSWD and, at ten, the lock
    let s := { s with lg.passFail := mput 0 s.lg.passFail g (key + 1) }
    let s := (s.savePassw g).1
    let s := s.bump (hubBase (srcByte r.src / 16 % 2) + 0x90050) 1
    let s := if key + 1 = 10 then (s.ctrInc 7).1.auditModule 0xE005 [word g] else s
    .next (s.turnDown c r 0x0204)
  else
    .next (s.command c r fun s =>
      if !passwRegion g ∨ 1 < rw then .refuse 0x0104
      else if 10 ≤ key then .refuse 0x0205
      else
        match r.src with
        | .sideband => .refuse 0x0202
        | .session h n =>
          let k := sessKey h n
          let s := if key = 0 then s else (({ s with lg.passFail := mput 0 s.lg.passFail g 0 }).savePassw g).1
          .ok [] (s.setSess k { s.sess k with regions := (s.sess k).regions ++ [(g, rw)] }))

/-- LDG_PASSWD: a password set or removed; the region's lock and count cleared (R468). -/
def execLdgPasswd (r : Req) (s : State) : Host.Outcome State Fault Refusal :=
  .next (s.command ⟨0x0A04, 2, false, false, true, true, 6, false, false⟩ r fun s =>
    let g := argw r 1
    let rw := argw r 2
    if !passwRegion g ∨ 1 < rw then .refuse 0x0104
    else
      let pw := wordsToBytes ((r.args.drop 2).take 4)
      let d := if pw.all (· == 0) then [] else sha3 pw
      let s := { s with lg.passw := mput [] s.lg.passw (2 * g + rw) d, lg.passFail := mput 0 s.lg.passFail g 0 }
      match s.savePassw g with
      | (s, true) => .ok [] s
      | (_, false) => .refuse 0x040B)

/-- LDG_AUDIT (R469). -/
def execLdgAudit (r : Req) (s : State) : Host.Outcome State Fault Refusal :=
  .next (s.command ⟨0x0A05, 1, true, false, false, false, 3, false, false⟩ r fun s =>
    let e := argw r 1
    let n := argw r 2
    let total := s.counter 6
    if s.gated r.src 4 0 then .refuse 0x0204
    else if total < e + n ∨ e + 1536 < total then .refuse 0x0405
    else
      let c := s.sink (argw r 3) (32 * n)
      if c ≠ 0 then .refuse c
      else
        let one := fun i => slice (s.page (570 + (e + i) % 1536 / 8)) (32 * ((e + i) % 8)) 32
        .ok [] (s.bulk r.src (argw r 3) ((List.range n).flatMap one)))

end Sys2Proof.Machine
end

