-- ==== Sys2Proof/Machine/Ports.lean ====
section
/-! DEFINITION. The Ethernet ports (R318-R323), the time source they give (R322, R383), and the SMBus sideband
(R364, R365). -/

namespace Sys2Proof.Machine

/-- Hub A's reckoning registers. -/
def rkReg (x : Nat) : Nat := hubBase 0 + 0x50000 + x

/-- A reckoning register written in hub A and its mirror in hub B (R386). -/
def State.setRk (s : State) (x : Nat) (w : Word) : State :=
  (s.setReg (rkReg x) w).setReg (hubBase 1 + 0x50000 + x) w

/-- The source in use (RK_STAT.src). -/
def State.rkSrc (s : State) : Nat := fld (s.reg (rkReg 0xC)) 0 2

/-- The source in use changed, with the port in use for time in hub A's SPM_PORT_CFG (R322). -/
def State.setRkSrc (s : State) (n : Nat) : State :=
  let s := s.setRk 0xC (putBit (put (s.reg (rkReg 0xC)) 0 2 n) 2 false)
  if n = 1 ∨ n = 2 then s.setReg (spm 0 0) (putBit (s.reg (spm 0 0)) 7 (n == 2)) else s

/-- An offset taken from the source in use (R383): within 1 ms it locks and sets the rate, whose value the spec leaves
open within ±100,000; beyond 1 ms the counter runs free at its last rate. -/
def State.discipline (s : State) (offset : Int) : State :=
  let s := s.setRk 0x10 (iword (clampI (-2147483647) 2147483647 offset))
  if offset.natAbs ≤ 1000000 then
    let r : Int := (Config.freeNat s.fresh % 200001 : Nat) - 100000
    ((s.take 1).setRk 0x14 (iword r)).setRk 0xC (putBit (s.reg (rkReg 0xC)) 2 true)
  else s.setRk 0xC (putBit (s.reg (rkReg 0xC)) 2 false)

/-- The VLAN rule of R320. -/
def State.vlanOk (s : State) (h : Nat) (vid : Option Nat) : Bool :=
  let v := fld (s.reg (spm h 0)) 8 12
  match vid with
  | none => v == 0
  | some x => x == v

/-- MKA, 802.1AS and ARP pass unprotected (R321). -/
def ethExempt (f : EthFrame) : Bool :=
  match f.kind with
  | .mka | .ptp _ _ | .arp _ => true
  | _ => false

/-- The longest frame a port takes: 9,216 bytes with jumbo frames, else 1,518, or 1,522 tagged (R318). -/
def State.frameLimit (s : State) (h : Nat) (tagged : Bool) : Nat :=
  if bit (s.reg (spm h 0)) 4 then 9216 else if tagged then 1522 else 1518

/-- What waited for a port to be secured goes out (R321, R332). -/
def State.drainPort (s : State) (h : Nat) : State :=
  ((List.range 32).filter fun k => (s.sess k).opened && (s.sess k).port.val == h).foldl (fun s k => s.drain 64 k) s

/-- The content of a frame that passed its filters. -/
def State.ethKind (s : State) (f : EthFrame) : State :=
  let h := f.port.val
  let ip := s.regN (spm h 8)
  match f.kind with
  | .mka =>
    if mget [] s.lg.caks h = [] ∨ (s.port h).secured then s
    else
      let s := s.setPort h { s.port h with secured := true, pn := 0, sak := Config.sak s.fresh, sakAt := s.now }
      ((s.take 1).setReg (spm h 0xC) (putBit (s.reg (spm h 0xC)) 4 true)).drainPort h
  | .ptp synced offset =>
    let p := s.port h
    let s := s.setPort h { p with synced := synced, syncLost := if p.synced && !synced then s.now else p.syncLost }
    let s := s.setReg (spm h 0xC) (putBit (s.reg (spm h 0xC)) 5 synced)
    if synced ∧ s.rkSrc = h + 1 then s.discipline offset else s
  | .arp t => if ip ≠ 0 ∧ t = ip then s.emit (.arp h (s.vlanTag h)) else s
  | .icmp d => if ip ≠ 0 ∧ d = ip then s.emit (.icmp h (s.vlanTag h)) else s
  | .fragment => s.bump (spm h 0x50) 1
  | .udp src uport dport bs =>
    if ip ≠ 0 ∧ dport = fld (s.reg (spm h 4)) 16 16 then
      s.rxMessage { port := f.port, udp := true, mac := f.mac, ip := src, uport := uport, bytes := bs }
    else s
  | .l2 et bs =>
    if et = fld (s.reg (spm h 4)) 0 16 then s.rxMessage { port := f.port, mac := f.mac, bytes := bs } else s
  | .other => s

/-- A received frame filtered by length, check sequence, VLAN and MACsec, and passed on (R318, R320, R321, R323, R324); one too
long is dropped, for which the manual names no counter (log entry 121). -/
def execEthernetFrameRx (f : EthFrame) (s : State) : Host.Outcome State Fault Refusal :=
  let h := f.port.val
  if !(s.sv.alive.getD h false && s.pw.booted.getD h false) ∨ s.pstate = 0 then .next s
  else if s.frameLimit h f.vid.isSome < f.len then .next s
  else if !f.fcsOk then .next (s.bump (spm h 0x64) 1)
  else if !s.vlanOk h f.vid then .next (s.bump (spm h 0x60) 1)
  else
    match f.sec with
    | none => .next (if ethExempt f then s.ethKind f else s.bump (spm h 0x5C) 1)
    | some (pn, ok) =>
      if !ok || !(s.port h).secured then .next (s.bump (spm h 0x64) 1)
      else .next ((s.setPort h { s.port h with pn := max (s.port h).pn pn }).ethKind f)

/-- EVENT LINK of a dropped port, sent through the other port: a session at the dropped port takes the other one for this
message (R319). -/
def State.linkEvent (s : State) (h : Hub) : State :=
  let mine := (List.range 32).filter fun k => (s.sess k).port == h
  let turn := fun (p : Hub) (s : State) => mine.foldl (fun s k => s.setSess k { s.sess k with port := p }) s
  turn h ((turn (1 - h) s).event 1 (leBytes 1 h.val))

/-- A port's link comes up at the negotiated or forced speed, or drops with an EVENT LINK (R319). -/
def execPortLinkChange (h : Hub) (up : Bool) (speed : Fin 3) (s : State) : Host.Outcome State Fault Refusal :=
  if !(s.sv.alive.getD h false && s.pw.booted.getD h false) ∨ s.pstate = 0 then .next s
  else
    let c := s.reg (spm h 0)
    let a := spm h 0xC
    if up then
      let v := if bit c 2 then max speed.val (fld c 0 2) else fld c 0 2
      let m := if bit c 2 then Config.freeBit s.fresh else bit c 3
      .next ((if bit c 2 then s.take 1 else s).setReg a (putBit (put (s.reg a) 0 4 (2 + 4 * v)) 6 m))
    else
      let s := s.setPort h { s.port h with secured := false, synced := false,
                                           syncLost := if (s.port h).synced then s.now else (s.port h).syncLost }
      .next ((s.setReg a 0).linkEvent h)

/-- MKA installs a new key hourly, or when the packet number passes 2^62 (R321, R514). -/
def execMkaRekey (h : Hub) (s : State) : Host.Outcome State Fault Refusal :=
  let p := s.port h
  if p.secured ∧ (p.sakAt + 3600000000000 ≤ s.now ∨ 2 ^ 62 < p.pn) then
    .next ((s.setPort h { p with pn := 0, sak := Config.sak s.fresh, sakAt := s.now }).take 1)
  else .next s

/-- The module switches to the other port after 1 s unsynchronised (R322). -/
def execTimePortFallback (s : State) : Host.Outcome State Fault Refusal :=
  let n := s.rkSrc
  if n = 1 ∨ n = 2 then
    let p := s.port (n - 1)
    .next (if !p.synced ∧ p.syncLost + 1000000000 ≤ s.now then s.setRkSrc (3 - n) else s)
  else .next s

/-- DEV_PORT's settings in force 1 ms after its RESPONSE was acknowledged; tport is Porell's own (R322, R368). -/
def execPortConfigApply (h : Hub) (s : State) : Host.Outcome State Fault Refusal :=
  let p := s.port h
  match p.conf with
  | some (c, e, i, due) =>
    if due = 0 ∨ s.now < due then .next s
    else
      let w := putBit (word c &&& 0x7FFFFF) 7 (bit (s.reg (spm h 0)) 7)
      let s := (((s.setPort h { p with conf := none }).setReg (spm h 0) w).setRegN (spm h 4) e).setRegN (spm h 8) i
      .next s.savePolicy
  | none => .next s

/-! The sideband. -/

/-- The transaction is addressed to the sideband with a good PEC (R364). -/
def State.smbMine (s : State) (adr : Nat) (pec : Bool) : Bool := pec && adr == 0x58 + s.pw.smbAddr % 8

/-- SMB_ALERT_N is asserted (R364). -/
def State.smbAlert (s : State) : Bool := s.hl.sbReplies != [] || s.hl.sbEvent

/-- A Block Write: one MB1 command message (R364), refused with 0x0101 where its opcode is none of R368 (R366); in Off only what the
management domain serves (R365). -/
def execSmbusBlockWrite (adr : Fin 128) (pec : Bool) (bs : List Byte) (s : State) :
    Host.Outcome State Fault Refusal :=
  if !s.smbMine adr pec then .next s
  else if s.hl.sbAwait then .next { s with hl.sbRefused := true }
  else
    let ws := bytesToWords bs
    let h := s.hl.sbHub.val
    if s.pstate = 0 then
      if offOps.contains (fld (ws.headD 0) 0 16) then .next { s with hl.sbAwait := true, hl.sbRefused := false }
      else .next { s.mbPost h 1 0 0x0402 with hl.sbRefused := true }
    else
      let s := { s with hl.sbAwait := true, hl.sbRefused := false }.mbDeliver h 1 0 ws
      .next (if s.answers ∧ unknownOp ws then { s.mbAck h 1 1 0x0101 with hl.sbAwait := false, hl.sbRefused := true } else s)

/-- A Block Read: the oldest unread reply message, empty when none (R364). -/
def execSmbusBlockRead (adr : Fin 128) (pec : Bool) (s : State) : Host.Outcome State Fault Refusal :=
  if !s.smbMine adr pec then .next s
  else .next ({ s with hl.sbReplies := s.hl.sbReplies.drop 1 }.emit (.smbus (s.hl.sbReplies.headD [])))

/-- A Read Byte: the sideband status (R364). -/
def execSmbusReadByte (adr : Fin 128) (pec : Bool) (s : State) : Host.Outcome State Fault Refusal :=
  if !s.smbMine adr pec then .next s
  else
    let v := b2n (s.hl.sbReplies != []) + 2 * b2n s.hl.sbAwait + 4 * b2n s.hl.sbRefused + 8 * b2n (s.pstate == 0)
    .next ({ s with rdata := word v }.emit (.smbus (leBytes 1 v)))

/-- Hub B's management domain takes the sideband's address (R364). -/
def execSidebandFailover (s : State) : Host.Outcome State Fault Refusal :=
  .next { s with hl.sbHub := 1 }

/-- The Alert Response Address answered with the sideband's own address while SMB_ALERT_N is asserted; a pending EVENT
is taken as seen (R364, log entry 19). -/
def execSmbusAlertResponse (s : State) : Host.Outcome State Fault Refusal :=
  .next (if s.smbAlert then
    { s with hl.sbEvent := false }.emit (.smbus (leBytes 1 (2 * (0x58 + s.pw.smbAddr % 8)))) else s)

end Sys2Proof.Machine
end

