-- ==== Sys2Proof/Machine/Tokens.lean ====
section
/-! DEFINITION. Energy tokens: the tick of the power manager (R437), grants (R438), the totals of a die (R439). -/

namespace Sys2Proof.Machine

/-- A die whose pool the power manager refills. -/
def State.diePowered (s : State) (d : Nat) : Bool := (s.die d).on && !(s.die d).lost

/-- Depth of a pool (R437). -/
def poolDepth : Nat := 4800000

/-- The module's throttle step: the highest of its hubs (R446). -/
def State.moduleStep (s : State) : Nat := max (s.thunit 32).step (s.thunit 33).step

/-- lim of a die: 24 W times the factor of its step (R437, R446). -/
def State.dieLimit (s : State) (d : Nat) : Nat :=
  [2400000, 1800000, 1200000, 240000].getD (max (s.thunit d).step s.moduleStep) 240000

/-- Demand of a die: its waiting draws, and what its pool lacks of half its depth (R437). -/
def State.dieDemand (s : State) (d : Nat) : Nat :=
  nsum ((s.die d).draws.map fun w => w.need - w.got) + (poolDepth / 2 - s.pool d)

/-- What a die is granted of a budget when all want `total` (R437). -/
def grantOf (b total want : Nat) : Nat := if total ≤ b then want else want * b / total

/-- B of R437, halved under R432 and under R440. -/
def budgetOf (cap guard_ unmet : Nat) (brown above : Bool) : Nat :=
  let b := max 1000000 ((cap - guard_) * 100000 - unmet * 1000)
  let b := if brown then b / 2 else b
  if above then b / 2 else b

/-- A waiting draw as it stands now: a recount more than 1 h overdue goes ahead of job work (R26). -/
def State.raised (s : State) (w : Draw) : Draw :=
  match w.work with
  | .recount fk => { w with prio := match (s.frame fk).recount with | some v => s.recountPrio fk v.plane | none => w.prio }
  | _ => w

/-- A die's pool refilled: the reserve left returns, the reserve and the grant enter, what exceeds the depth returns, and its
totals follow (R437, R439). -/
def State.refill (s : State) (d grant : Nat) : State :=
  let x := s.die d
  let back := min x.reserve (s.pool d)
  let p := s.pool d - back + 20000 + grant
  let above := p - poolDepth
  (s.setRegN (poolReg d) (p - above)).setDie d { x with
    reserve := 20000,
    usedTick := (x.consumed + 2 ^ 64 - x.usedAt) % 2 ^ 64,
    usedAt := x.consumed,
    issued := (x.issued + 20000 + grant) % 2 ^ 64,
    returned := (x.returned + back + above) % 2 ^ 64,
    draws := x.draws.map fun (w : Draw) => { s.raised w with ready := true } }

/-- TOKEN_TICK (R437): the unmetered power is measured, a free value (log entry 4). -/
def execTokenTick (s : State) : Host.Outcome State Fault Refusal :=
  if s.pstate ≠ 1 ∧ s.pstate ≠ 2 ∧ s.pstate ≠ 3 then .next s
  else
    let s := s.setBoth 0x8000C (word (Config.freeNat s.fresh % 65536))
    let s := s.take 1
    let c := s.reg (hubBase 0 + 0x80004)
    let b := budgetOf (fld c 0 8) (fld c 8 8) (fld (s.reg (hubBase 0 + 0x8000C)) 0 16) s.pw.halved s.pw.overHalve
    let s := s.setBoth 0x80008 (word b)
    let ds := (List.range 32).filter s.diePowered
    let want := fun d => min (s.dieLimit d) (s.dieDemand d)
    let total := nsum (ds.map want)
    .next (ds.foldl (fun t d => t.refill d (grantOf b total (want d))) s)

/-- The first waiting draw of a die in the order of R26; of equal ones the one that came first (R103; log entry 95). -/
def firstDraw (l : List Draw) : Option Draw :=
  l.foldl (fun o w => match o with
    | none => some w
    | some v => if w.prio < v.prio then some w else some v) none

/-- The watchdog of a step does not run while the oldest unfinished instruction of the step waits for tokens (R241). -/
def State.shiftWatch (s : State) (bk since id : Nat) : State :=
  let x := s.board bk
  match x.sb.find? fun e => e.id == id with
  | none => s
  | some e =>
    let oldest := (x.sb.find? fun y => y.ctx.job == e.ctx.job && y.ctx.step == e.ctx.step).any fun y => y.id == id
    if !oldest then s
    else s.setBoard bk { x with lastDone := x.lastDone.map fun l =>
      if l.1 = e.ctx.job ∧ l.2.1 = e.ctx.step then (l.1, l.2.1, l.2.2 + (s.now - max since l.2.2)) else l }

/-- Work whose tokens are all granted starts. -/
def State.startWork (s : State) (w : Draw) : State :=
  match w.work with
  | .stroke fk =>
    (match (s.frame fk).stroke with
     | some x => if x.started ∨ x.lane ∨ x.pending then s else (s.startPart fk).shiftWatch (fkBoard fk) w.at_ x.tag
     | none => s)
  | .vector bk =>
    (match (s.board bk).sb.find? fun e => e.waitTok with
     | some e => (s.setEntry bk { e with waitTok := false, paid := true }).shiftWatch bk w.at_ e.id
     | none => s)
  | .exact bk =>
    let mine := ((List.range 34).map fun f => 34 * bk + f).filter fun fk =>
      match (s.frame fk).stroke with | some x => x.lane && !x.started | none => false
    -- the oldest instruction first (R211)
    match mine.foldl (fun o fk => match o with
        | none => some fk
        | some g =>
          let tag := fun k => match (s.frame k).stroke with | some x => x.tag | none => 0
          if tag fk < tag g then some fk else some g) none with
    | some fk =>
      (match (s.frame fk).stroke with
       | some x => (s.setStroke fk (some { x with started := true })).shiftWatch bk w.at_ x.tag
       | none => s)
    | none => s
  | .program fk =>
    (match (s.frame fk).prg with
     | some p => s.setFrame fk { s.frame fk with prg := some { p with paid := true } }
     | none => s)
  | .recount fk =>
    (match (s.frame fk).recount with
     | some v => s.setFrame fk { s.frame fk with recount := some { v with paid := true } }
     | none => s)

/-- TOKEN_GRANT (R438): the first draw in the order of R26 is granted, at most depth / 2 of it in a tick. -/
def execTokenGrant (d : Die) (s : State) : Host.Outcome State Fault Refusal :=
  match firstDraw (s.die d).draws with
  | none => .next s
  | some w =>
    let part := min (w.need - w.got) halfDepth
    if !w.ready ∨ s.openTo d w.prio < part then .next s
    else
      let s := if w.prio = 0 then s.consumeFirst d part else s.consume d part
      let x := s.die d
      if w.need ≤ w.got + part then .next ((s.setDie d { x with draws := x.draws.erase w }).startWork w)
      else
        .next (s.setDie d { x with draws := x.draws.map fun (v : Draw) =>
          if v = w then { w with got := w.got + part, ready := false } else v })

/-- TOKEN_BALANCE_CHECK (R439): a mismatch is logged and reported, and not corrected. -/
def execTokenBalanceCheck (s : State) : Host.Outcome State Fault Refusal :=
  .next ((List.range 32).foldl (fun s d =>
    let x := s.die d
    if !s.diePowered d ∨ x.issued = (x.consumed + x.returned + s.pool d) % 2 ^ 64 then s
    else s.event 6 (leBytes 4 d)) s)

/-- A die powers down: its pool's content counts as returned (R439). -/
def State.dropPool (s : State) (d : Nat) : State :=
  let x := s.die d
  (s.setRegN (poolReg d) 0).setDie d { x with
    returned := (x.returned + s.pool d) % 2 ^ 64, reserve := 0, draws := [] }

end Sys2Proof.Machine
end

