-- ==== Sys2Proof/Machine/PowerStates.lean ====
section
/-! DEFINITION. Power states (R433-R436, R450), the save and the restoration of the array dies (R149, R200, R428), supplies
(R430-R432, R440, R451, R543) and the lands RESET_N, PWR_FAIL_N and WAKE (R519, R538, R541). -/

namespace Sys2Proof.Machine

/-! The array dies. -/

/-- An address of the array dies: slates, score memory and registers (R314); bank 1 lies at 2^48 and above. -/
def arrayAddr (a : Nat) : Bool := decide (0x3000000000 ≤ a % 2 ^ 48 ∧ a % 2 ^ 48 < 0x3200000000)

/-- A register of an array die's metrology unit. -/
def arrayMet (a : Nat) : Bool := match regionOf (a % 2 ^ 48) with | .die _ o => decide (o < 0x1000) | _ => false

/-- A register whose content does not return with a save: token pools, MET_STAT, and FRM_PRG_STAT (R107, R426). -/
def notSaved (a : Nat) : Bool :=
  match regionOf (a % 2 ^ 48) with
  | .die _ o => o == 0x1000 || o == 8
  | .frame _ _ _ o => o == 0x108
  | _ => false

/-- The bytes of every history region of the loaded scores (R200). -/
def State.histories (s : State) : List (Nat × Byte) :=
  (s.wk.scores.filter fun e => e.2.st == 4).flatMap fun e =>
    e.2.place.flatMap fun p => (s.streamsOf e.1 p.2).flatMap fun n =>
      e.2.ctxs.flatMap fun c => (List.range (32 * s.ngroups p.2 n)).map fun i =>
        (s.histAt p.2 n c 0 + i, s.byte (s.histAt p.2 n c 0 + i))

/-- State saved under R149 and R200: registers and values in force of the array dies, and the histories; `met` where the
metrology domains keep their power. -/
def State.saveArrays (s : State) (met : Bool) : State :=
  let keep := fun (e : Nat × Word) => arrayAddr e.1 && !notSaved e.1 && !(met && arrayMet e.1)
  { s with pw.saved := some (s.regs.filter keep, s.live.filter keep, s.histories) }

/-- What Porell still knows of a board whose die is off. -/
def Board.asleep (x : Board) : Board :=
  { score := x.score, stage := x.stage, lb := x.lb, failed := x.failed, move := x.move, q := x.q, base := x.base,
    carriesSent := x.carriesSent, sentStep := x.sentStep }

/-- A frame whose die is off: its beads' headers, and what Porell knows of it. -/
def Frame.asleep (x : Frame) : Frame :=
  { x with
    st := (match x.st with | .stroking | .recount => .idle | .programming => .spare | t => t),
    planeValid := false, snap := none, levels := [], winCount := 0, winStrokes := 0, yielded := false,
    prg := none, stroke := none, queue := [], recount := none, measure := none }

/-- The array dies lose power, and the beam and ring links go down (R433); `met` where each die's sensor and metrology
domain stays powered (Stopping). Beads and side stores retain. -/
def State.arraysOff (s : State) (met : Bool) : State :=
  let s := (List.range 32).foldl (fun s d => (s.dropPool d).freeSource d) s
  let gone := fun (e : Nat × Word) => arrayAddr e.1 && !(met && arrayMet e.1)
  let s := (List.range 16).foldl (fun s i =>
    let k := hubEnd (i / 8) (i % 8)
    (s.setLinkState k 0).setLink k {}) s
  let s := (List.range 32).foldl (fun s i => s.setLink (portEnd (i / 4) (i % 4)) {}) s
  { s with
    regs := s.regs.filter fun e => !gone e,
    live := s.live.filter fun e => !gone e,
    mem := s.mem.filter fun e => !arrayAddr e.1,
    boards := s.boards.map fun (e : Nat × Board) => (e.1, e.2.asleep),
    frames := s.frames.map fun (e : Nat × Frame) => (e.1, e.2.asleep),
    dies := s.dies.map fun (e : Nat × DieRec) =>
      (e.1, { e.2 with on := false, sync := false, awake := false, trimmed := false, gained := false, reserve := 0 }),
    mets := if met then s.mets else s.mets.map fun (e : Nat × Met) =>
      (e.1, if e.1 < 32 then { e.2 with on := false, queue := [], selfcal := none,
                                        conv := e.2.conv.map fun c => { ({} : Conv) with ph := if c.ph = .failed then .failed else .off } }
            else e.2),
    fb.net := [], fb.waiting := [], fb.acks := [] }

/-- A link trained where the map does not disable it and its hub is in service. -/
def State.raiseLink (s : State) (k : Nat) (hub : Nat) : State :=
  if s.disabled (mapLink (linkNo k)) ∨ !s.sv.alive.getD hub false then s else s.linkUp k

/-- The beam and ring links train (R289). -/
def State.linksUp (s : State) : State :=
  let s := (List.range 16).foldl (fun s i => (s.raiseLink (hubEnd (i / 8) (i % 8)) (i / 8)).raiseLink
    (portEnd (i % 8) (i / 8)) (i / 8)) s
  (List.range 16).foldl (fun s i =>
    let k := portEnd (i / 2) (2 + i % 2)
    if s.disabled (mapLink (linkNo k)) then s else s.linkUp k) s

/-- A board of a loaded score made ready again, with what Porell kept of it (R244). -/
def State.reloadBoard (s : State) (slot lb bk : Nat) : State :=
  let x := s.board bk
  let s := s.loadBoard slot lb bk
  s.setBoard bk { s.board bk with failed := x.failed, move := x.move, q := x.q, base := x.base,
                                  carriesSent := x.carriesSent, sentStep := x.sentStep }

/-- The slots whose scores are loaded. -/
def State.loadedSlots (s : State) : List Nat := (List.range 64).filter fun n => (s.score n).st == 4

/-- Every board of every loaded score made ready again. -/
def State.reloadScores (s : State) : State :=
  s.loadedSlots.foldl (fun s n => (s.score n).place.foldl (fun s p => s.reloadBoard n p.1 p.2) s) s

/-- A die in service powered up with its handshake repeated: its copy of the counter lies within 2 rk of hub A's (R384,
R530). -/
def State.dieUp (s : State) (d : Nat) : State :=
  let x := s.die d
  if x.lost ∨ s.disabled (mapDie d) then s
  else
    let skew := (Config.freeNat s.fresh % 5 : Nat) - (2 : Int)
    let s := (s.take 1).setDie d { x with on := true, sync := true, awake := true, trimmed := true, gained := true }
    { s with ck.copy := mput 0 s.ck.copy d skew }

/-- A unit of an array die sampling again: 4 ground conversions on each converter, and a self-calibration where a mean lies more
than 64 codes from its saved offset (R428). -/
def State.metWake (s : State) (u : Nat) : State :=
  if !(s.die u).on ∨ (s.met u).on then s
  else
    let s := (s.setMet u { s.met u with on := true }).freshSensors u
    let s := (List.range 4).foldl (fun s n =>
      if (s.conv u n).ph = .failed then s
      else if bit (s.reg (metBase u)) n then s.toEntry u n (s.conv u n).entry
      else s.setConv u n { s.conv u n with ph := .stopped }) s
    let moved := (List.range 4).any fun n =>
      let g := isum ((List.range 4).map fun i => signed 24 (Config.freeNat (s.fresh + 4 * n + i)))
      decide (64 < (rneDiv g 4 - sfld (s.reg (metBase u + 0x20 + 16 * n)) 0 24).natAbs)
    let s := s.take 16
    if moved then s.startSelfcal u else s

/-- Frames that scores or placements use. -/
def State.placedFrames (s : State) : List Nat := (s.frames.filter fun e => e.2.placed.isSome).map (·.1)

/-- The offset check of a frame: 16 zero-current conversions a rod; a frame with a rod whose offset lies more than 256 from
its saved one has its trims measured in full (R149). -/
def State.offsetCheck (s : State) (fk : Nat) : State :=
  let off := pointSums s.fresh
  let old := padTo 0 272 (s.frame fk).trims
  let s := s.take 4352
  if (off.zip old).any fun p => decide (256 < (p.1 - sfld p.2 0 16).natAbs) then s.measureTrims fk else s

/-- A publication at the wake (R149): a job whose next step keeps the bank it rewrites runs on under the new epoch, and its
completion says so (R133). -/
def State.publishWake (s : State) (slot : Nat) : State :=
  let js := s.bankJobs slot (1 - b2n (s.score slot).bank)
  let s := s.publish slot
  js.foldl (fun s e => s.setJob e.1 (some { e.2 with epoch := (s.score slot).epoch, calChanged := true })) s

/-- The wake from Dormant up to Ready (R149, R200, R244, R289, R428, R436). -/
def State.wakeArrays (s : State) : State :=
  let s := (List.range 32).foldl State.dieUp s
  let s := s.reloadScores
  let s := match s.pw.saved with
    | some (rs, ls, hs) =>
      let other := fun (e : Nat × Word) => !arrayAddr e.1 || arrayMet e.1
      let s := { s with regs := s.regs.filter other, live := s.live.filter other }
      let s := rs.foldl (fun (s : State) (e : Nat × Word) => s.setReg e.1 e.2) s
      let s := ls.foldl (fun (s : State) (e : Nat × Word) => s.setLive e.1 e.2) s
      hs.foldl (fun (s : State) (e : Nat × Byte) => s.setByte e.1 e.2) s
    | none => s
  let s := ({ s with pw.saved := none }).linksUp
  let s := (List.range 32).foldl State.metWake s
  let fks := ((List.range 32).filter fun d => (s.die d).awake).flatMap s.dieFrames
  let s := fks.foldl (fun s fk => (s.offsetCheck fk).predictGains fk (List.range 8)) s
  s.loadedSlots.foldl State.publishWake s

/-! Stops. -/

/-- A board whose preparation for a move is given up: it and its frames are free again, unless the logical board lies on it
already (R107, R481). -/
def State.unprepare (s : State) (r : Repair) : State :=
  let slot := (s.board r.target).score.getD 64
  if (s.score slot).place.any fun e => e.2 == r.target then s
  else
    let s := (List.range 34).foldl (fun s f =>
      let fk := 34 * r.target + f
      if (s.frame fk).placed.isNone then s
      else (s.setFrame fk { s.frame fk with placed := none, covered := false }).throughRepair fk .spare) s
    s.setBoard r.target { ({} : Board) with up := (s.board r.target).up, failed := (s.board r.target).failed }

/-- A programming engine stopped by a loss of power, a stop or a trip: result 7, the frame SPARE, its load failed, its repair
to start again (R107). -/
def State.stopEngine (s : State) (fk : Nat) : State :=
  let slot := s.loadingSlot fk
  let s := s.stopPrg fk 7
  let s := s.setFrame fk { s.frame fk with st := .spare }
  match slot with
  | some n => s.loadFailed n 0x0505 0
  | none =>
    match s.repairOf fk with
    | none => s
    | some r =>
      let s := { s with sv.repairs := s.sv.repairs.filter (· != r) }
      if r.isBoard then (s.unprepare r).setBoard r.frame { s.board r.frame with move := true }
      else
        let s := s.setFrame fk { s.frame fk with placed := none, covered := false }
        s.setFrame r.frame { s.frame r.frame with migrate := true }

def State.stopEngines (s : State) : State := (s.engines.map (·.1)).foldl State.stopEngine s

/-- Every RUNNING job cancelled with NOT_READY (R447, R450). -/
def State.cancelRunning (s : State) : State :=
  let js := s.wk.jobs.filterMap fun e => match e.2 with
    | some j => if j.st = .running then some e.1 else none
    | none => none
  js.foldl (fun s j => s.failJob j 0x0401) s

/-- The bring-up halted by PWR_FAIL_N (R529). -/
def State.haltBoot (s : State) : State :=
  if s.phase = 11 then s
  else
    let s := s.arraysOff false
    ({ s with pw.halted := true }).bootPhase 10

/-- What PWR_FAIL_N, or a brown-out of 100 ms, brings about (R432, R450, R529). -/
def State.powerFail (s : State) : State :=
  if s.pstate = 2 ∨ s.pstate = 3 then
    let s := s.abandon.cancelRunning.stopEngines
    let s := (s.saveArrays false).arraysOff false
    ({ s with pw.wakePend := false }).enter 4
  else if s.pstate = 1 then s.haltBoot
  else s

/-- PWR_STATE.fail_n in both hubs. -/
def State.setFailN (s : State) (b : Bool) : State :=
  let w := putBit (s.reg (hubBase 0 + 0x80000)) 3 b
  ({ s with pw.failN := b }).setBoth 0x80000 w

/-- PWR_FAIL_N_ASSERT (R450, R529). -/
def execPwrFailNAssert (s : State) : Host.Outcome State Fault Refusal :=
  if s.pw.failN then .next s else .next (s.setFailN true).powerFail

/-- The bring-up begins at its first event (R518). -/
def State.bootAgain (s : State) : State :=
  let s := if s.pw.booted.any id then s.bootPhase 4 else s.bootPhase 0
  { s with pw.halted := false }

/-- PWR_FAIL_N_DEASSERT: the module waits in Dormant; a halted bring-up goes on from the array rail ramp, or from the start
where no hub had booted (R450, R529). -/
def execPwrFailNDeassert (s : State) : Host.Outcome State Fault Refusal :=
  if !s.pw.failN then .next s
  else
    let s := s.setFailN false
    .next (if s.pw.halted ∧ 10800 ≤ s.pw.vin ∧ s.pw.vin ≤ 13200 then s.bootAgain else s)

/-! Supplies. -/

/-- VIN_OVERCURRENT: B halved while the current lies above the cap (R440). -/
def execVinOvercurrent (above : Bool) (s : State) : Host.Outcome State Fault Refusal :=
  .next { s with pw.overHalve := above }

/-- BROWN_OUT: VIN of at least 10.5 V and below 10.8 V (R432). -/
def execBrownOut (mv : Nat) (s : State) : Host.Outcome State Fault Refusal :=
  if mv < 10500 ∨ 10800 ≤ mv ∨ s.pstate = 0 then .next s
  else .next { s with pw.vin := mv, pw.brownAt := some (s.pw.brownAt.getD s.now) }

/-- BROWN_OUT_1MS (R432). -/
def execBrownOut1ms (s : State) : Host.Outcome State Fault Refusal :=
  match s.pw.brownAt with
  | some t =>
    if s.now < t + 1000000 ∨ s.pw.halved then .next s
    else .next (({ s with pw.halved := true }).event 5 (leBytes 1 s.pstate))
  | none => .next s

/-- BROWN_OUT_100MS: as an assertion of PWR_FAIL_N, and no wake before VIN has been in range for 1 s (R432). -/
def execBrownOut100ms (s : State) : Host.Outcome State Fault Refusal :=
  match s.pw.brownAt with
  | some t =>
    if s.now < t + 100000000 ∨ s.pw.brownDorm then .next s
    else .next ({ s with pw.brownDorm := true }).powerFail
  | none => .next s

/-- BROWN_OUT_END: VIN has been at or above 10.8 V for 1 ms (R432). -/
def execBrownOutEnd (s : State) : Host.Outcome State Fault Refusal :=
  if s.pw.brownAt.isNone then .next s
  else
    let s := { s with pw.brownAt := none, pw.halved := false, pw.okAt := s.now, pw.vin := max s.pw.vin 10800 }
    .next (if s.pw.halted ∧ !s.pw.failN then ({ s with pw.brownDorm := false }).bootAgain else s)

/-- SUPPLY_LOSS: VIN below 10.5 V or above 14 V, or VSB below 3 V, for 10 µs: the VIN rails are cut, with no save (R431, R451,
R543). -/
def execSupplyLoss (vin vsb : Nat) (s : State) : Host.Outcome State Fault Refusal :=
  if 10500 ≤ vin ∧ vin ≤ 14000 ∧ 3000 ≤ vsb then .next s
  else
    let s := { s with pw.vin := vin, pw.vsb := vsb }
    .next { s.off with lg.ready := s.lg.ready && decide (3000 ≤ vsb) }

/-- VSB_HIGH: VSB above 3.6 V stops ledger writes until it is back in range (R543). -/
def execVsbHigh (mv : Nat) (s : State) : Host.Outcome State Fault Refusal :=
  let s := { s with pw.vsb := mv }
  .next (if 3600 < mv then { s with pw.vsbHigh := true }
         else if 3135 ≤ mv ∧ mv ≤ 3465 then { s with pw.vsbHigh := false }
         else s)

/-! Lands. -/

/-- RESET_N_LOW, by its length: at least 10 µs resets every domain on VIN, below 1 µs does nothing, between them the module
may do either, and in Off nothing is on VIN (R519). -/
def execResetNLow (ns : Nat) (s : State) : Host.Outcome State Fault Refusal :=
  let reset := if 10000 ≤ ns then true else if ns < 1000 then false else Config.freeBit s.fresh
  let s := if 1000 ≤ ns ∧ ns < 10000 then s.take 1 else s
  if s.pstate = 0 ∨ !reset then .next s else .next (s.vinReset.setPstate 1)

/-- WAKE_EDGE: a wake event; no effect in Off or during bring-up (R436, R529, R541). -/
def execWakeEdge (s : State) : Host.Outcome State Fault Refusal := .next s.wake

/-- REFCLK_LOSS: hub A goes over to its own reference for the rest of the power cycle (R540). -/
def execRefclkLoss (s : State) : Host.Outcome State Fault Refusal :=
  if !s.ck.refIn then .next s else .next (({ s with ck.refIn := false }).log 0x10C [])

/-! Moves between the states. -/

/-- No job waits or runs, no command of the SCORE, BEAD, RING, JOB or CAL family is pending, no plane is programming or
migrating (R434). -/
def State.idle (s : State) : Bool :=
  s.wk.jobs.all (fun e => match e.2 with | some j => j.st == .completed | none => true) &&
  !(s.hl.pend.any fun p => decide (2 ≤ p.op / 256 ∧ p.op / 256 ≤ 6)) && s.engines.isEmpty && s.sv.repairs.isEmpty

/-- Idle for longer than a time in ns; 0xFFFF_FFFF means never (R434). -/
def State.idleFor (s : State) (setting unit : Nat) : Bool :=
  s.idle && setting != 0xFFFFFFFF &&
  match s.pw.idleSince with | some t => decide (t + setting * unit ≤ s.now) | none => false

/-- IDLE_TO_DROWSY. -/
def execIdleToDrowsy (s : State) : Host.Outcome State Fault Refusal :=
  if s.pstate = 2 ∧ s.pw.entering.isNone ∧ s.idleFor s.pw.idleMs 1000000 then .next (s.beginEntry 3) else .next s

/-- IDLE_TO_DORMANT. -/
def execIdleToDormant (s : State) : Host.Outcome State Fault Refusal :=
  if (s.pstate = 2 ∨ s.pstate = 3) ∧ s.pw.entering.isNone ∧ s.idleFor s.pw.idleS 1000000000 then .next (s.beginEntry 4)
  else .next s

/-- The entry in progress ends. -/
def State.endEntry (s : State) : State :=
  let w := putBit (s.reg (hubBase 0 + 0x80000)) 4 false
  ({ s with pw.entering := none, pw.wakePend := false }).setBoth 0x80000 w

/-- Links between their full state and low-power idle (R289). -/
def State.linksFrom (s : State) (a b : Nat) : State :=
  (List.range 50).foldl (fun s k => if s.linkState k = a then s.setLinkState k b else s) s

/-- DROWSY_ENTRY: no board has an unfinished instruction and no plane is in progress (R109, R435). -/
def execDrowsyEntry (s : State) : Host.Outcome State Fault Refusal :=
  let busy := (s.boards.any fun e => e.2.sb != []) || (s.frames.any fun e => e.2.stroke.isSome || e.2.queue != []) ||
    !s.engines.isEmpty
  if s.pw.entering ≠ some 3 ∨ s.pstate ≠ 2 ∨ busy then .next s
  else .next (((s.endEntry.linksFrom 2 3).enter 3).powerReached 3)

/-- DORMANT_ENTRY: every step started has reached its END, and no plane is in progress; state is saved and the array dies go
off (R109, R149, R200, R435). -/
def execDormantEntry (s : State) : Host.Outcome State Fault Refusal :=
  let busy := (s.boards.any fun e => e.2.steps != [] || e.2.cur.isSome || e.2.sb != [] || e.2.endPend != []) ||
    (s.inFabric.any fun p => p.type == 7) || !s.engines.isEmpty
  if s.pw.entering ≠ some 4 ∨ (s.pstate ≠ 2 ∧ s.pstate ≠ 3) ∨ busy then .next s
  else .next ((((s.endEntry.saveArrays false).arraysOff false).enter 4).powerReached 4)

/-- Ready reached again; a DEV_POWER to Drowsy goes on to Drowsy (R436). -/
def State.backToReady (s : State) : State :=
  let s := ({ s with pw.wakePend := false, pw.idleSince := none }).enter 2
  if s.pw.target = 3 then s.beginEntry 3 else s.powerReached 2

/-- WAKE_FROM_DORMANT: 60 ms after the wake event; from Stopping where state was saved (R436, R449). -/
def execWakeFromDormant (s : State) : Host.Outcome State Fault Refusal :=
  let from_ := s.pstate == 4 || (s.pstate == 5 && s.th.stopSaved)
  let clear := !s.pw.brownDorm || (s.pw.brownAt.isNone && decide (s.pw.okAt + 1000000000 ≤ s.now))
  if !from_ ∨ !s.pw.wakePend ∨ s.now < s.pw.wakeAt + 60000000 ∨ s.pw.failN ∨ !clear then .next s
  else .next (({ s.wakeArrays with pw.brownDorm := false, th.stopSaved := false }).backToReady)

/-- WAKE_FROM_DROWSY: 50 µs after the wake event (R150, R436). -/
def execWakeFromDrowsy (s : State) : Host.Outcome State Fault Refusal :=
  if s.pstate ≠ 3 ∨ !s.pw.wakePend ∨ s.now < s.pw.wakeAt + 50000 then .next s
  else .next ((s.linksFrom 3 2).backToReady)

/-- OVERDUE_RECOUNT_WAKE: a plane more than 1 h past its recount period wakes the module (R26, R141, R436). -/
def execOverdueRecountWake (s : State) : Host.Outcome State Fault Refusal :=
  let late := s.frames.any fun e =>
    (e.2.st == .idle || e.2.st == .stroking || e.2.st == .recount) &&
    (List.range 8).any fun p =>
      (e.2.headers.getD p {}).fmt != 3 && decide (s.visitDueAt e.1 p + 3600000000000 < s.now)
  .next (if late then s.wake else s)

end Sys2Proof.Machine
end

