-- ==== Sys2Proof/Machine/Thermal.lean ====
section
/-! DEFINITION. Temperature sensors (R441-R444), throttle steps (R445, R446), orderly stop, trip and restart (R447-R449), and
the THERMAL and POWER command families (R368). -/

namespace Sys2Proof.Machine

/-! Registers. -/

/-- The unit with the hottest reading among those sampled, and that reading. -/
def State.hotSpot (s : State) : Nat × Int :=
  match s.liveUnits.map fun u => (u, s.hottest u) with
  | [] => (0, 0)
  | a :: r => r.foldl (fun b e => if b.2 < e.2 then e else b) a

/-- Sensors of a unit that are broken and not retired, and those retired. -/
def State.brokenOf (s : State) (u : Nat) : Nat :=
  ((List.range (sensorsOf u)).filter fun k => (s.sensor (24 * u + k)).broken && !s.sensorRetired u k).length
def State.retiredOf (s : State) (u : Nat) : Nat :=
  ((List.range (sensorsOf u)).filter fun k => s.sensorRetired u k).length

/-- THM_UNIT of a unit and the module fields of THM_STAT follow the sensors. -/
def State.showThermal (s : State) (u : Nat) : State :=
  let x := s.thunit u
  let s := s.setBoth (0x70100 + 4 * u) (word (x.step + x.interval * 4 + s.brokenOf u * 16 + s.retiredOf u * 512 +
    pattern 16 (s.hottest u) * 65536))
  let h := s.hotSpot
  let w := s.reg (hubBase 0 + 0x70004)
  s.setBoth 0x70004 (put (put (put w 0 2 s.moduleStep) 5 6 h.1) 16 16 (pattern 16 h.2))

/-! Judging. -/

/-- The samples kept: those of the last 110 ms, and 8 at the least (R447, R525). -/
def keepHist (now : Nat) (l : List (Nat × Int)) : List (Nat × Int) :=
  if 8 < l.length then (l.take (l.length - 8)).filter (fun e => decide (now ≤ e.1 + 110000000)) ++ l.drop (l.length - 8) else l

/-- A sensor's new state after a sample with over-range bit and code (R443). -/
def State.judgeSample (s : State) (u k : Nat) (ovr : Bool) (code : Int) : Sensor :=
  let x := s.sensor (24 * u + k)
  let t := 1024 + rneDiv code 4096
  let nb := ((neighbours u k).filter (s.plausible u)).map fun j => (s.sensor (24 * u + j)).tj16
  let n : Nat := nb.length
  let far := n != 0 && decide (320 * n < (t * n - isum nb).natAbs)
  let imp := if far then x.implausible + 1 else 0
  let openShort := ovr || decide (180 * 16 < t) || decide (t < -50 * 16)
  { tj16 := t, at_ := s.now, broken := openShort || decide (3 ≤ imp), implausible := imp, openShort := openShort,
    hist := keepHist s.now (x.hist ++ [(s.now, t)]) }

/-- Since when a condition has held. -/
def since (now : Nat) (old : Option Nat) (ok : Bool) : Option Nat := if ok then some (old.getD now) else none

/-- The thresholds in 1/16 °C. -/
def State.thresholds (s : State) : List Int := [16 * s.t1, 16 * s.t2, 16 * s.t3]

/-- The sampling interval a reading calls for (R442). -/
def State.callsFor (s : State) (h : Int) : Nat := if h < 16 * s.t1 - 160 then 0 else if h < 16 * s.t1 then 1 else 2

/-- A unit's step and interval after a sample: each rises, or falls to a shorter interval, at once (R442, R446). -/
def State.judgeUnit (s : State) (u : Nat) : State :=
  let x := s.thunit u
  let h := s.hottest u
  let n := (s.thresholds.filter fun t => decide (t ≤ h)).length
  let c := s.callsFor h
  let y : ThUnit := { x with
    step := max x.step n,
    interval := max x.interval c,
    below := (List.range 3).map fun i => since s.now (x.below.getD i none) (decide (h ≤ s.thresholds.getD i 0 - 32)),
    slower := [since s.now (x.slower.getD 0 none) (c == 0), since s.now (x.slower.getD 1 none) (decide (c ≤ 1))],
    band := since s.now x.band ((s.readings u).all fun t => decide (57 * 16 ≤ t ∧ t ≤ 63 * 16)) }
  let s := s.setThunit u y
  let s := if x.interval < c then s.porellTable u c else s
  let s := { s with th.coolSince := since s.now s.th.coolSince (!s.anyAt (85 * 16)) }
  let s := s.showThermal u
  if x.step < n then s.event 4 (leBytes 1 u ++ leBytes 1 n) else s

/-! Stops. -/

/-- The rise of a sensor over its last samples leaves more than 20 ms to 120 °C (R447). -/
def slowRise (x : Sensor) : Bool :=
  match x.hist.drop (x.hist.length - 8) with
  | [] => true
  | (t0, v0) :: _ =>
    let r := x.tj16 - v0
    let dt : Int := (x.at_ : Int) - t0
    decide (r ≤ 0 ∨ 20000000 * r < (1920 - x.tj16) * dt)

/-- What an orderly stop and a trip share: jobs cancelled, engines stopped, a save where one is made, array dies off, Stopping
(R433, R447, R448). -/
def State.stopNow (s : State) (save : Bool) (bitNo code : Nat) : State :=
  let asleep := s.pstate == 4
  let s := s.abandon.cancelRunning.stopEngines
  let s := if asleep then s else if save then s.saveArrays true else { s with pw.saved := none }
  let s := if asleep then s else s.arraysOff true
  let s := { s with th.stops := s.th.stops ++ [s.now], th.stopSaved := save || (asleep && s.pw.saved.isSome),
                    pw.wakePend := false, pw.target := 2 }
  let s := s.setBoth 0x70004 (putBit (s.reg (hubBase 0 + 0x70004)) bitNo true)
  ((s.auditModule code).ctrInc 5).1.enter 5

/-- The sensor that reads hottest among those neither broken nor retired, at 115 °C or more (R447). -/
def State.overheated (s : State) : Option Nat :=
  let ks := s.liveUnits.flatMap fun u => ((List.range (sensorsOf u)).filter (s.plausible u)).map fun k => 24 * u + k
  (ks.filter fun k => decide (1840 ≤ (s.sensor k).tj16)).foldl (fun o k => match o with
    | none => some k
    | some j => if (s.sensor j).tj16 < (s.sensor k).tj16 then some k else some j) none

/-- An orderly stop, where a sensor calls for one (R447, R529). -/
def State.orderlyStop (s : State) : State :=
  if s.pstate = 0 ∨ s.pstate = 5 then s
  else
    match s.overheated with
    | none => s
    | some k => s.stopNow (s.pstate != 1 && slowRise (s.sensor k)) 2 0xE003

/-- THERMAL_SAMPLE: a sensor's latest result taken (R442, R443, R446, R447). -/
def execThermalSample (u : Unit34) (k : Fin 24) (s : State) : Host.Outcome State Fault Refusal :=
  if !(s.met u).on ∨ sensorsOf u ≤ k.val ∨ s.pstate = 0 then .next s
  else
    let a := s.reg (metBase u + 0x800 + 8 * k.val)
    let s := s.setSensor (24 * u.val + k.val) (s.judgeSample u k (bit a 24) (sfld a 0 24))
    .next (s.judgeUnit u).orderlyStop

/-- STALE_SENSOR: no result for 4 intervals (R443). -/
def execStaleSensor (u : Unit34) (k : Fin 24) (s : State) : Host.Outcome State Fault Refusal :=
  let i := 24 * u.val + k.val
  let x := s.sensor i
  let per := [10000000, 1000000, 250000].getD (s.thunit u).interval 10000000
  if s.metIdle u ∨ sensorsOf u ≤ k.val ∨ s.pstate = 0 ∨ s.now ≤ x.at_ + 4 * per ∨ x.broken then .next s
  else .next ((s.setSensor i { x with broken := true }).judgeUnit u)

/-- THROTTLE_STEP_FALL (R446). -/
def execThrottleStepFall (u : Unit34) (s : State) : Host.Outcome State Fault Refusal :=
  let x := s.thunit u
  match x.step, x.below.getD (x.step - 1) none with
  | n + 1, some t =>
    if s.now < t + 100000000 then .next s
    else
      let s := (s.setThunit u { x with step := n }).showThermal u
      .next (s.event 4 (leBytes 1 u.val ++ leBytes 1 n))
  | _, _ => .next s

/-- SAMPLE_INTERVAL_RISE (R442). -/
def execSampleIntervalRise (u : Unit34) (s : State) : Host.Outcome State Fault Refusal :=
  let x := s.thunit u
  let held := fun (i : Nat) => match x.slower.getD i none with | some t => decide (t + 1000000000 ≤ s.now) | none => false
  let n := if held 0 then 0 else if held 1 then 1 else 2
  if x.interval ≤ n then .next s
  else .next (((s.setThunit u { x with interval := n }).porellTable u n).showThermal u)

/-- THERMAL_TRIP: a comparator of a retired, open or shorted sensor is disabled; a hub sensor's cuts its hub's rails too
(R448). -/
def execThermalTrip (u : Unit34) (k : Fin 24) (s : State) : Host.Outcome State Fault Refusal :=
  if s.pstate = 0 ∨ sensorsOf u ≤ k.val ∨ s.sensorRetired u k ∨ (s.sensor (24 * u.val + k.val)).openShort then .next s
  else
    let s := if s.pstate = 5 then
        (s.setBoth 0x70004 (putBit (s.reg (hubBase 0 + 0x70004)) 3 true)).auditModule 0xE002 [word u] |>.ctrInc 5 |>.1
      else s.stopNow false 3 0xE002
    .next (if 32 ≤ u.val then s.takeover (u - 32) true else s)

/-- AUTO_RESTART: from Stopping, 10 s below 85 °C with fewer than 3 stops in the last hour, or by DEV_POWER; the wake from
Dormant where state was saved, else the cold-start sequence from the array rail ramp (R449). -/
def execAutoRestart (s : State) : Host.Outcome State Fault Refusal :=
  let cool := match s.th.coolSince with | some t => decide (t + 10000000000 ≤ s.now) | none => false
  let few := decide ((s.th.stops.filter fun t => decide (s.now < t + 3600000000000)).length < 3)
  let auto := cool && few && bit (s.reg (hubBase 0 + 0x70004)) 4
  if s.pstate ≠ 5 ∨ (!auto ∧ !s.pw.wakePend) ∨ s.pw.failN then .next s
  else
    let s := s.setBoth 0x70004 (putBit (s.reg (hubBase 0 + 0x70004)) 2 false)
    if s.th.stopSaved then
      .next (if s.pw.wakePend then s else { s with pw.wakePend := true, pw.wakeAt := s.now, pw.target := 2 })
    else .next ((({ s with pw.wakePend := false }).setPstate 1).bootPhase 4)

/-! Commands. -/

/-- THM_READ. -/
def execThmRead (r : Req) (s : State) : Host.Outcome State Fault Refusal :=
  .next (s.command ⟨0x0900, 1, true, false, false, false, 0, false, false⟩ r fun s =>
    let h := s.hotSpot
    let steps := s.liveUnits.map fun u => (s.thunit u).step
    .ok [iword h.2, word h.1, word (steps.foldl max 0),
         word (nsum (s.liveUnits.map fun u => s.brokenOf u + s.retiredOf u))] s)

/-- THM_POLICY (R445). -/
def execThmPolicy (r : Req) (s : State) : Host.Outcome State Fault Refusal :=
  .next (s.command ⟨0x0901, 2, true, false, true, true, 4, false, decide (2 ≤ argw r 1)⟩ r fun s =>
    let t := fun k => argw r (k + 2)
    if s.gated r.src 5 1 then .refuse 0x0204
    else if (List.range 3).any (fun k => decide (s.th.maker.getD k 114 < t k)) ∨ !(decide (t 0 < t 1 ∧ t 1 < t 2 ∧ t 2 < 115))
    then .refuse 0x0104
    else
      let s := s.setBoth 0x70000 (word (t 0 + t 1 * 256 + t 2 * 65536))
      let s := s.setBoth 0x70004 (putBit (s.reg (hubBase 0 + 0x70004)) 4 (argw r 1 == 1))
      -- how long a reading has stayed below a threshold counts afresh
      let s := { s with th.units := s.th.units.map fun (e : Nat × ThUnit) =>
        (e.1, { e.2 with below := [none, none, none], slower := [none, none] }) }
      .ok [] (s.liveUnits.foldl State.judgeUnit s).savePolicy)

/-- THM_RETIRE: recorded in the disabled-unit map and the retired mask (R444, R475). -/
def execThmRetire (r : Req) (s : State) : Host.Outcome State Fault Refusal :=
  .next (s.command ⟨0x0902, 2, false, false, true, true, 2, false, false⟩ r fun s =>
    let u := argw r 1
    let k := argw r 2
    if s.noUnit u then .refuse 0x010A
    else if sensorsOf u ≤ k then .refuse 0x0104
    else
      let s := s.setBoth (0x70200 + 4 * u) (putBit (s.reg (hubBase 0 + 0x70200 + 4 * u)) k true)
      let s := (s.mapSet (mapSensor u k)).flushAll
      .ok [] (if (s.met u).on then s.judgeUnit u else s))

/-- Module power in 10 mW: VIN times its current and VSB times its, by hub A's channels 12, 13, 15 and 16, rounded to
nearest even (R10, R405). -/
def State.modulePower (s : State) : Nat :=
  (rneDiv (s.lastCode 32 13 * s.lastCode 32 15 * 200 + s.lastCode 32 12 * s.lastCode 32 16) 200000000000).toNat

/-- PWR_READ. -/
def execPwrRead (r : Req) (s : State) : Host.Outcome State Fault Refusal :=
  .next (s.command ⟨0x0903, 1, true, false, false, false, 0, false, false⟩ r fun s =>
    .ok [word s.modulePower, iword (rneDiv (s.lastCode 32 13) 500), iword (rneDiv (s.lastCode 32 12) 2000),
      word s.pw.waitLast] s)

/-- PWR_POLICY (R434, R440). -/
def execPwrPolicy (r : Req) (s : State) : Host.Outcome State Fault Refusal :=
  .next (s.command ⟨0x0904, 2, true, false, true, true, 3, false, false⟩ r fun s =>
    let cap := argw r 3
    if s.gated r.src 5 1 then .refuse 0x0204
    else if cap < 80 ∨ s.th.maker.getD 3 240 < cap then .refuse 0x0104
    else
      let s := s.setBoth 0x80004 (put (s.reg (hubBase 0 + 0x80004)) 0 8 cap)
      .ok [] ({ s with pw.idleMs := argw r 1, pw.idleS := argw r 2 }).savePolicy)

end Sys2Proof.Machine
end

