-- ==== Sys2Proof/Machine/Time.lean ====
section
/-! DEFINITION. Time (log entry 2): what one nanosecond brings; the time source commands (R368, R386), and the steps of the
reckoning counter (R383, R386). -/

namespace Sys2Proof.Machine

/-- The reckoning counter after one nanosecond: it advances at its corrected rate and never decreases (R383). -/
def State.advance (s : State) : State :=
  let s := { s with now := s.now + 1 }
  if s.ck.on then
    let f := s.ck.frac + sfld (s.reg (rkReg 0x14)) 0 32
    if 1000000000 ≤ f then { s with ck.rk := (s.ck.rk + 2) % 2 ^ 64, ck.frac := f - 1000000000 }
    else if f ≤ -1000000000 then { s with ck.frac := f + 1000000000 }
    else { s with ck.rk := (s.ck.rk + 1) % 2 ^ 64, ck.frac := f }
  else s

/-- Dies with a draw that waits for tokens count the rk, and their sum over the last second is kept (R453). -/
def State.countWaits (s : State) : State :=
  let ds := (List.range 32).filter fun d => (s.die d).draws != []
  let s := ds.foldl (fun s d => s.bump (dieBase d + 0x1004) 1) s
  let acc := s.pw.waitAcc + ds.length
  if s.now % 1000000000 = 0 then { s with pw.waitLast := acc, pw.waitAcc := 0 } else { s with pw.waitAcc := acc }

/-- Since when the module has been idle (R434), and how long a hub sensor has read above 85 °C (R466). -/
def State.watch (s : State) : State :=
  let quiet := (s.pstate == 2 || s.pstate == 3) && s.idle
  let hot := [32, 33].any fun u => (s.met u).on && (s.readings u).any fun t => decide (85 * 16 < t)
  { s with pw.idleSince := if quiet then some (s.pw.idleSince.getD s.now) else none,
           lg.hot := if hot then s.lg.hot + 1 else s.lg.hot }

/-- SYNC_OUT is held high for 1,024 rk (R386). -/
def State.lowerSyncOut (s : State) : State :=
  if s.ck.syncOut ∧ 1024 ≤ s.ck.rk % 2 ^ 20 then { s with ck.syncOut := false } else s

/-- One nanosecond passes; the other effects of time come with the commands that name them (log entry 2). -/
def State.tick (s : State) : State := s.advance.countWaits.watch.lowerSyncOut.releaseSteps

/-! The SYNC commands. -/

/-- SYNC_STAT. -/
def execSyncStat (r : Req) (s : State) : Host.Outcome State Fault Refusal :=
  .next (s.command ⟨0x0700, 1, true, false, false, false, 0, false, false⟩ r fun s =>
    .ok [word s.rkSrc, word (fld (s.reg (rkReg 0xC)) 2 1), s.reg (rkReg 0x10)] s)

/-- SYNC_CFG (R386). -/
def execSyncCfg (r : Req) (s : State) : Host.Outcome State Fault Refusal :=
  .next (s.command ⟨0x0701, 2, false, true, true, true, 2, false, decide (2 ≤ argw r 2)⟩ r fun s =>
    let src := argw r 1
    if s.gated r.src 5 1 then .refuse 0x0204
    else if 4 ≤ src then .refuse 0x0104
    else
      let s := s.setRk 8 (word (src + 4 * argw r 2))
      .ok [] (if src = s.rkSrc then s else s.setRkSrc src).savePolicy)

/-- SYNC_NOW. -/
def execSyncNow (r : Req) (s : State) : Host.Outcome State Fault Refusal :=
  .next (s.command ⟨0x0702, 1, false, false, false, false, 0, false, false⟩ r fun s => .ok (words64 s.ck.rk) s)

/-! The counter. -/

/-- RECKONING_SET: once, before Ready, from the preferred source where it is locked (R383, R386). -/
def execReckoningSet (t : Nat) (s : State) : Host.Outcome State Fault Refusal :=
  let src := fld (s.reg (rkReg 8)) 0 2
  let locked := src == 3 || (src != 0 && (s.port (src - 1)).synced)
  if s.pstate ≠ 1 ∨ !s.ck.on ∨ s.ck.set ∨ !locked then .next s
  else
    let s := { s with ck.rk := t % 2 ^ 64, ck.set := true, ck.frac := 0 }
    .next (s.setRk 0xC (word (src + 4 + 8)))

/-- The error of a SYNC_IN edge in 1/16 rk: the counter less RK_SYNC_DLY against the nearest multiple of 2^20 (R386). -/
def State.syncError (s : State) : Int :=
  let c : Int := 16 * s.ck.rk - sfld (s.reg (rkReg 0x18)) 0 16
  signed 24 (pattern 24 c)

/-- SYNC_IN_EDGE: the rate corrected, or a slip beyond 2^18 rk counted (R386). -/
def execSyncInEdge (s : State) : Host.Outcome State Fault Refusal :=
  if s.pstate = 0 then .next s
  else
    let s := { s with ck.syncInAt := s.now }
    if s.rkSrc ≠ 3 ∨ !s.ck.on then .next s
    else
      let e := s.syncError
      if 2 ^ 22 < e.natAbs then .next (s.bump (rkReg 0x40) 1) else .next (s.discipline (-(rneDiv e 16)))

/-- SYNC_IN_LOSS: 10 ms without an edge; 802.1AS takes over, by a port that is locked (R386). -/
def execSyncInLoss (s : State) : Host.Outcome State Fault Refusal :=
  if s.rkSrc ≠ 3 ∨ s.now < s.ck.syncInAt + 10000000 then .next s
  else .next (s.setRkSrc (if !(s.port 0).synced ∧ (s.port 1).synced then 2 else 1))

/-- RK_CNT_LO_READ: the high half is latched into RK_CNT_HI (R383). -/
def execRkCntLoRead (h : Hub) (s : State) : Host.Outcome State Fault Refusal :=
  .next { s.setReg (hubBase h + 0x50004) (word (s.ck.rk / 2 ^ 32)) with rdata := word s.ck.rk }

/-- SYNC_OUT_EDGE: SYNC_OUT rises as the counter passes a multiple of 2^20 (R386). -/
def execSyncOutEdge (s : State) : Host.Outcome State Fault Refusal :=
  if !s.ck.on ∨ !bit (s.reg (rkReg 8)) 2 ∨ 1024 ≤ s.ck.rk % 2 ^ 20 then .next s else .next { s with ck.syncOut := true }

end Sys2Proof.Machine
end

