-- ==== Sys2Proof/Machine/BringUp.lean ====
section
/-! DEFINITION. Bring-up: the cold-start sequence from t = 0 to Ready (R518-R529), and the part of it that a restart repeats
(R449). -/

namespace Sys2Proof.Machine

/-- A bit of SVC_BOOT set in both hubs. -/
def State.bootBit (s : State) (n : Nat) : State := s.setBoth 0xB0008 (putBit (s.reg (hubBase 0 + 0xB0008)) n true)

/-- COLD_START: t = 0, with VIN, VSB and the ledger ready; the hub rails ramp (R518, R520, R529). -/
def execColdStart (vin vsb : Nat) (refclk : Bool) (s : State) : Host.Outcome State Fault Refusal :=
  let from_ := s.pstate == 0 || (s.pstate == 1 && s.phase == 0)
  if !from_ ∨ vin < 10800 ∨ 13200 < vin ∨ vsb < 3135 ∨ 3465 < vsb ∨ !s.lg.ready then .next s
  else
    let s := { s with pw.vin := vin, pw.vsb := vsb, pw.bootT0 := s.now, ck.refIn := refclk }.setPstate 1
    if s.pw.failN then .next (({ s with pw.halted := true }).bootPhase 10)
    else .next (((s.bootPhase 1).metStart 32).metStart 33)

/-- What a hub that boots reads from the ledger: the map in force from now on, and the policies (R455, R470, R475). -/
def State.bootReads (s : State) : State :=
  let s := { s with sv.disabled := mapBits ((List.range 128).flatMap fun i => s.pendPage (440 + i)) }.loadPolicy
  s.setRkSrc (fld (s.reg (rkReg 8)) 0 2)

/-- Both hubs have booted or stay in their boot ROM (R507, R529). -/
def State.hubsDecided (s : State) : State :=
  let ok := fun h => s.pw.booted.getD h false
  let dead := fun h => !s.sv.alive.getD h false
  if dead 0 ∧ dead 1 then s.bootPhase 11
  else if ok 0 ∧ ok 1 then
    let s := ((s.raiseLink (hubEnd 0 8) 0).raiseLink (hubEnd 1 8) 1).bootPhase 3
    let beats := (List.range 6).foldl (fun (m : SMap Nat) i => mput 0 m (4 * (i / 3) + i % 3) s.now) s.sv.beat
    { s with sv.beat := beats }
  else if (ok 0 ∧ dead 1) ∨ (ok 1 ∧ dead 0) then
    let s := (s.bootBit 5).bootPhase 3
    { s with sv.owner := if ok 0 then some 0 else some 1 }
  else s.bootPhase 2

/-- The hub sensors read -20 °C or more (R545). -/
def State.hubsWarm (s : State) : Bool :=
  (List.range 2).all fun h => (List.range (sensorsOf (32 + h))).all fun k => decide (-320 ≤ s.reading (32 + h) k)

/-- SECURE_BOOT, with the signature verdicts of the hub's slots (R507): a cold start waits in phase 1 while a hub sensor reads
below -20 °C (R545). A hub that is out for an update boots the new image (R491). -/
def execSecureBoot (h : Hub) (sig0 sig1 : Bool) (s : State) : Host.Outcome State Fault Refusal :=
  if s.sv.update = some h.val ∧ s.pstate ≠ 0 then .next (s.updateBoot h fun n => if n = 0 then sig0 else sig1)
  else if s.phase = 1 ∧ !s.hubsWarm then .next s
  else if s.pstate ≠ 1 ∨ (s.phase ≠ 1 ∧ s.phase ≠ 2) ∨ s.pw.booted.getD h false ∨ !s.sv.alive.getD h false then .next s
  else
    let t := match s.bootChoice h (fun n => if n = 0 then sig0 else sig1) with
      | some slot => (s.bootReads).bootFrom h slot
      | none => { s with sv.alive := s.sv.alive.set h false }
    .next t.hubsDecided

/-- A hub in service whose DRAM holds no zeros yet. -/
def State.dramWaits (s : State) : Bool :=
  (List.range 2).any fun h => s.pw.booted.getD h false && !s.ms.ready.getD h false

/-- DRAM_ZERO_DONE: with it the hubs are booted, and the array rails ramp (R307, R520). -/
def execDramZeroDone (h : Hub) (s : State) : Host.Outcome State Fault Refusal :=
  if s.pstate ≠ 1 ∨ s.phase < 3 ∨ s.phase = 11 ∨ !s.pw.booted.getD h false ∨ s.ms.ready.getD h false then .next s
  else
    let s := s.zeroDram h
    .next (if s.dramWaits ∨ s.phase ≠ 3 then s else s.bootPhase 4)

/-- A die takes part in bring-up: neither disabled nor lost. -/
def State.dieIn (s : State) (d : Nat) : Bool := !s.disabled (mapDie d) && !(s.die d).lost

/-- Every die that takes part meets a condition. -/
def State.diesAll (s : State) (p : DieRec → Bool) : Bool := (List.range 32).all fun d => !s.dieIn d || p (s.die d)

/-- The counter starts at 0, once in a cold start, and the ledger counts it (R383, R522). -/
def State.startCounter (s : State) : State :=
  if s.ck.on then s
  else
    let s := { s with ck.on := true, ck.rk := 0, ck.frac := 0 }
    (s.ctrInc 4).1.auditModule 0xE001 (words64 0)

/-- RESET_HANDSHAKE of a die, with the distance of its copy from hub A's counter; a third failure loses the die (R384,
R522). -/
def execResetHandshake (d : Die) (skew : Nat) (s : State) : Host.Outcome State Fault Refusal :=
  if s.pstate ≠ 1 ∨ (s.phase ≠ 4 ∧ s.phase ≠ 5) ∨ !s.dieIn d ∨ (s.die d).sync then .next s
  else
    let s := s.startCounter.bootPhase 5
    let x := s.die d
    if 2 < skew then
      let s := s.setDie d { x with skews := x.skews + 1 }
      .next (if 2 ≤ x.skews then s.loseDie d else s)
    else
      let v : Int := if Config.freeBit s.fresh then skew else -(skew : Int)
      let s := (s.take 1).setDie d { x with on := true, sync := true }
      .next { s with ck.copy := mput 0 s.ck.copy d v }

/-- FRM_PRG_WIN and FRM_PRG_PULSE of a die's frames loaded from the calibration set, where the region holds one (R144,
R547; log entry 103). -/
def State.loadPrgSettings (s : State) (d : Nat) : State :=
  if s.calN 0 4 ≠ 0x53434C59 then s
  else
    let w := word (s.calN (100 + 44 * d) 4)
    let p := word (s.calN (104 + 44 * d) 4)
    (s.dieFrames d).foldl (fun s fk => (s.setReg (fkBase fk + 0x10C) (w &&& 0xFFFFFF)).setReg (fkBase fk + 0x110) p) s

/-- ARRAY_WAKE of a die: boards zeroed, links trained, metrology started (R244, R289, R428, R523). -/
def execArrayWake (d : Die) (s : State) : Host.Outcome State Fault Refusal :=
  if s.pstate ≠ 1 ∨ (s.phase ≠ 5 ∧ s.phase ≠ 6) ∨ !s.dieIn d ∨ !(s.die d).sync ∨ (s.die d).awake ∨
      !s.diesAll DieRec.sync then .next s
  else
    let s := s.zeroRange (boardBase d 0) 0x10000000
    let s := if d % 4 = 0 then
        (stackEnds (d / 4)).foldl (fun s k => s.raiseLink k (if k < 18 then k / 9 else 0)) s
      else s
    let s := (s.setDie d { s.die d with awake := true }).loadPrgSettings d
    .next ((s.metStart d).bootPhase 6)

/-- The source of a die measured once for each magnitude and sign its frames will use: E of each range (R524). -/
def State.readSources (s : State) (fks : List Nat) : State × List (Nat × Int) :=
  (List.range 4).foldl (fun (p : State × List (Nat × Int)) i =>
    match fks.find? fun fk => p.1.fRange fk == i with
    | none => p
    | some fk =>
      let (s, e) := p.1.readSource fk false
      ((s.readSource fk true).1, p.2 ++ [(i, e)])) (s, [])

/-- TRIM_PASS of a die, its frames one at a time (R121, R524). -/
def execTrimPass (d : Die) (s : State) : Host.Outcome State Fault Refusal :=
  if s.pstate ≠ 1 ∨ !s.dieIn d ∨ !(s.die d).awake ∨ (s.die d).trimmed ∨ (s.met d).selfcal.isSome ∨ !(s.met d).calValid
  then .next s
  else
    let fks := s.dieFrames d
    let (s, es) := (fks.foldl State.modeFromRecord s).readSources fks
    let s := fks.foldl (fun s fk =>
      (s.setSource fk false 2 true).trimsOn fk (((es.find? fun p => p.1 == s.fRange fk).map (·.2)).getD 0)) s
    .next (s.setDie d { s.die d with trimmed := true, trimEnd := s.now })

/-- The hottest sensor of a die has moved less than 0.5 °C over the last 100 ms (R525). -/
def State.settled (s : State) (d : Nat) : Bool :=
  let k := (List.range 24).foldl (fun j k => if s.reading d j < s.reading d k then k else j) 0
  let x := s.sensor (24 * d + k)
  let l := x.hist.filter fun e => decide (s.now ≤ e.1 + 110000000)
  (l.any fun e => decide (e.1 + 100000000 ≤ s.now)) && l.all fun e => decide ((e.2 - x.tj16).natAbs < 8)

/-- A frame holds a plane image (R525). -/
def State.holdsImage (s : State) (fk : Nat) : Bool := (s.frame fk).headers.any fun h => h.fmt != 3

/-- PLANE_GAIN_PASS of a die: once it has settled, or 3,500 ms after its trims (R122, R525). -/
def execPlaneGainPass (d : Die) (s : State) : Host.Outcome State Fault Refusal :=
  let cap := decide ((s.die d).trimEnd + 3500000000 ≤ s.now)
  if s.pstate ≠ 1 ∨ !s.dieIn d ∨ !(s.die d).trimmed ∨ (s.die d).gained ∨ (!s.settled d ∧ !cap) then .next s
  else
    let s := if s.settled d then s else s.bootBit 11
    let s := (s.dieFrames d).foldl (fun s fk =>
      if s.holdsImage fk then (List.range 8).foldl (fun s p => s.measureGain fk p) s else s) s
    .next ({ s.setDie d { s.die d with gained := true } with pw.gainT0 := some (s.pw.gainT0.getD s.now) }.bootPhase 7)

/-- A frame's state at Ready: from the map, the placements, and its plane headers (R68, R108). -/
def State.frameAtReady (s : State) (fk : Nat) : State :=
  let y := s.frame fk
  let out := s.disabled (mapFrame fk) || s.disabled (mapBoard (fkBoard fk)) || s.disabled (mapDie (keyDie (fkBoard fk)))
  let spare := y.placed.isNone && (decide (32 ≤ fkFrame fk) || y.headers.any fun h => h.fmt == 3)
  if y.st = .repair ∧ !out then s
  else s.setFrame fk { y with st := if out then .retired else if spare then .spare else .idle }

/-- THM_RET of every unit from the map (R444, R527). -/
def State.retiredMasks (s : State) : State :=
  (List.range 34).foldl (fun s u => s.setBoth (0x70200 + 4 * u)
    (word (nsum (((List.range (sensorsOf u)).filter fun k => s.disabled (mapSensor u k)).map fun k => 2 ^ k)))) s

/-- The frames of the dies present at their state of Ready, the links disabled in the map routed around, and the tables of the
dies written (R68, R108, R289, R527). -/
def State.applyMap (s : State) : State :=
  let ds := (List.range 32).filter s.dieIn
  let s := (ds.flatMap fun d => (List.range (192 * 34)).map fun n => 34 * boardKey d 0 + n).foldl State.frameAtReady s
  let s := (List.range 25).foldl (fun s n =>
    if s.disabled (mapLink n) then { s with fb.routes := mput 0 s.fb.routes n 1 } else s) s
  ds.foldl (fun s d => s.setDie d { s.die d with tables := true }) s

/-- The scores reloaded, their history contexts reset and their measurements put in force (R133, R374, R527). -/
def State.restoreScores (s : State) : State :=
  let s := s.reloadScores
  let s := s.loadedSlots.foldl (fun s n => (s.score n).ctxs.foldl (fun s c => s.resetCtx n c false) s) s
  let s := s.retiredMasks
  ((List.range 64).filter fun n => (s.score n).st == 3 || (s.score n).st == 4).foldl State.publish s

/-- MAP_AND_SCORES: the steps of R527, after the last plane-gain pass; a restart reloads the scores that stayed LOADED
(R449). -/
def execMapAndScores (s : State) : Host.Outcome State Fault Refusal :=
  if s.pstate ≠ 1 ∨ s.phase < 4 ∨ 7 < s.phase ∨ !s.diesAll DieRec.gained then .next s
  else
    let s := s.applyMap.restoreScores
    let ms := match s.pw.gainT0 with | some t => (s.now - t) / 1000000 | none => 0
    .next (({ s with pw.gainT0 := some (hold 0xFFFF ms) }).bootPhase 8)

/-- A die lost in bring-up is reported at Ready (R529). -/
def State.tellLost (s : State) (d : Nat) : State :=
  let x := s.die d
  if x.lost && !x.told then (s.setDie d { x with told := true }).event 7 (leBytes 1 d) else s

/-- READY, once the conditions of R528 hold: EVENTs, SVC_BOOT_TIME and DEV_POWER replies. -/
def execReady (s : State) : Host.Outcome State Fault Refusal :=
  let runs := (List.range 2).any s.runs
  if s.pstate ≠ 1 ∨ s.phase ≠ 8 ∨ s.lg.marginAt.isNone ∨ s.dramWaits ∨ !runs then .next s
  else
    let ms := hold 0xFFFF ((s.now - s.pw.bootT0) / 1000000)
    let s := if s.regN (hubBase 0 + 0xB000C) = 0 then s.setBoth 0xB000C (word (ms + s.pw.gainT0.getD 0 * 2 ^ 16)) else s
    let s := { s with pw.gainT0 := none, pw.idleSince := none }
    let s := (s.bootPhase 9).enter 2
    .next (((List.range 32).foldl State.tellLost s).powerReached 2)

end Sys2Proof.Machine
end

