-- ==== Sys2Proof/Machine/RingCmds.lean ====
section
/-! DEFINITION. The BEAD (R86, R110, R369), RING (R333, R334, R377, R493) and JOB (R339, R369, R376, R390, R391)
command families. -/

namespace Sys2Proof.Machine

/-! BEAD. -/

/-- The handles of a hub: 1 to 4,096, and 4,097 to 8,192 (R369, log entry 22). -/
def srcHub : Src → Nat
  | .session h _ => h
  | .sideband => 0

/-- n consecutive free handles of a hub. -/
def State.freeHandles (s : State) (hub n : Nat) : Option Nat :=
  ((List.range (4097 - n)).map fun i => hub * 4096 + 1 + i).find? fun k =>
    (List.range n).all fun i => (s.handle (k + i)).isNone

/-- BEAD_OPEN. -/
def execBeadOpen (r : Req) (s : State) : Host.Outcome State Fault Refusal :=
  .next (s.command ⟨0x0300, 2, false, false, false, false, 2, true, false⟩ r fun s =>
    let size := argw64 r 1
    let n := cdiv size (2 ^ 30)
    if size = 0 then .ok [word 0, word 0] s
    else if 4096 < n then .refuse 0x0309
    else
      match s.freeHandles (srcHub r.src) n with
      | none => .refuse 0x0309
      | some k =>
        let s := (List.range n).foldl (fun s i =>
          s.setHandle (k + i) (some { fmt := 0xFE, codeLen := min (2 ^ 30) (size - i * 2 ^ 30), first := k, segs := n })) s
        .ok [word k, word n] s)

/-- BEAD_CLOSE. -/
def execBeadClose (r : Req) (s : State) : Host.Outcome State Fault Refusal :=
  .next (s.command ⟨0x0301, 2, false, false, false, false, 1, true, false⟩ r fun s =>
    let k := argw r 1
    match s.handle k with
    | none => .refuse 0x0105
    | some h =>
      if h.fmt ≠ 0xFE ∨ h.first ≠ k then .refuse 0x0105
      else if h.busy ≠ 0 ∨ s.objBusy (argw r 1) then .refuse 0x0406
      else .ok [] ((List.range h.segs).foldl (fun s i => s.setHandle (k + i) none) s))

/-- BEAD_PLANE: the plane header (R86). -/
def execBeadPlane (r : Req) (s : State) : Host.Outcome State Fault Refusal :=
  .next (s.command ⟨0x0302, 1, false, false, false, false, 2, true, false⟩ r fun s =>
    match s.frameAddr? (argw r 1) with
    | none => .refuse 0x010A
    | some fk =>
      if 8 ≤ argw r 2 then .refuse 0x0104
      else
        let h := (s.frame fk).headers.getD (argw r 2) {}
        .ok [word h.fmt, word h.cycles, word h.refreshes, word h.stuck.length, word h.chkOff] s)

/-- The frames of a die that hold a record. -/
def State.dieFrameRecs (s : State) (d : Nat) : List Frame :=
  (s.frames.filter fun e => keyDie (fkBoard e.1) == d).map (·.2)

/-- BEAD_WEAR (R110). -/
def execBeadWear (r : Req) (s : State) : Host.Outcome State Fault Refusal :=
  .next (s.command ⟨0x0303, 1, false, false, false, false, 1, true, false⟩ r fun s =>
    if 32 ≤ argw r 1 ∨ s.disabled (mapDie (argw r 1)) then .refuse 0x010A
    else
      let fs := s.dieFrameRecs (argw r 1)
      let hs := fs.flatMap (·.headers)
      .ok [word (hs.filter fun h => decide (9000 ≤ h.cycles)).length,
           word (hs.filter fun h => decide (90000 ≤ h.refreshes)).length,
           word (fs.filter fun f => f.st == .retired).length] s)

/-! RING. -/

/-- A ring number outside the module, or not configured: its code, else 0. -/
def State.ringCode (s : State) (r : Nat) : Nat :=
  if 4096 ≤ r then 0x010A else if s.ringDepth r = 0 then 0x0405 else 0

/-- The first free history context of a score (R194). -/
def Score.freeCtx (x : Score) : Option Nat := (List.range x.file.man.contexts).find? fun c => !x.ctxs.contains c

/-- Free boards of a die: not allocated, failed or disabled. -/
def State.freeBoards (s : State) (d : Nat) : List Nat :=
  ((List.range 192).map fun b => boardKey d b).filter fun k =>
    (s.board k).score.isNone && !(s.board k).failed && !s.disabled (mapBoard k)

/-- What refuses continuity class (R493): 0 where nothing does. -/
def State.contCode (s : State) (slot ring : Nat) : Nat :=
  let x := s.score slot
  if !x.resident then 0x030E
  else if x.file.man.reserve = 0 ∨ x.place.any fun p => (s.freeBoards (keyDie p.2)).isEmpty then 0x0303
  else if (List.range 2).any fun h => decide (dramCap < s.dramUsed h + mirrorBytes x h) then 0x0305
  else 0

/-- RING_CFG (R194, R333, R493). -/
def execRingCfg (r : Req) (s : State) : Host.Outcome State Fault Refusal :=
  .next (s.command ⟨0x0500, 2, false, true, true, true, 5, true, decide (1 < argw r 5)⟩ r fun s =>
    let ring := argw r 1
    let depth := argw r 2
    let weight := argw r 3
    let slot := argw r 4
    let cont := argw r 5 == 1
    if 4096 ≤ ring then .refuse 0x010A
    else if depth < 1 ∨ 1024 < depth ∨ weight < 1 ∨ 16 < weight ∨ 64 ≤ slot then .refuse 0x0104
    else if (s.score slot).st = 0 then .refuse 0x0405
    else if (s.score slot).st ≠ 4 then .refuse 0x0403
    else if (s.ringSess ring).isSome ∨ s.held ring ≠ 0 then .refuse 0x0404
    else
      let t := if s.ringDepth ring = 0 then s else s.deleteRing ring
      if 65536 < nsum (t.ringList.map t.ringDepth) + depth then .refuse 0x0307
      else
        match (t.score slot).freeCtx with
        | none => .refuse 0x0308
        | some c =>
          let k := if cont then t.contCode slot ring else 0
          if k ≠ 0 then .refuse k
          else
            let t := t.setScore slot { t.score slot with ctxs := (t.score slot).ctxs ++ [c] }
            let t := t.setRing ring { ctx := c }
            let t := t.setRegN (ringReg ring) (depth + (weight - 1) * 2 ^ 11 + b2n cont * 2 ^ 21 + slot * 2 ^ 22)
            .ok [] (t.resetCtx slot c false))

/-- RING_ATTACH: the initial credits, and the held completions sent to the session (R334, R344). -/
def execRingAttach (r : Req) (s : State) : Host.Outcome State Fault Refusal :=
  .next (s.command ⟨0x0501, 1, false, false, false, false, 1, true, false⟩ r fun s =>
    let ring := argw r 1
    let c := s.ringCode ring
    if c ≠ 0 then .refuse c
    else if (s.ringSess ring).isSome then .refuse 0x0404
    else
      match r.src with
      | .sideband => .refuse 0x0202
      | .session h n =>
        .ok [word (s.ringDepth ring - s.held ring)] ((s.attach ring (some (sessKey h n))).sendCompl ring))

/-- RING_DETACH (R344). -/
def execRingDetach (r : Req) (s : State) : Host.Outcome State Fault Refusal :=
  .next (s.command ⟨0x0502, 1, false, false, false, false, 1, true, false⟩ r fun s =>
    let ring := argw r 1
    let c := s.ringCode ring
    let mine := match r.src with | .session h n => s.ringSess ring == some (sessKey h n) | .sideband => false
    if c ≠ 0 then .refuse c else if !mine then .refuse 0x0405 else .ok [] (s.attach ring none))

/-- RING_PAUSE: replies once no job of the ring is running (R377). -/
def execRingPause (r : Req) (s : State) : Host.Outcome State Fault Refusal :=
  .next (s.command ⟨0x0503, 1, false, false, false, true, 1, true, false⟩ r fun s =>
    let ring := argw r 1
    let c := s.ringCode ring
    if c ≠ 0 then .refuse c
    else
      let t := s.setRing ring { s.ring ring with paused := true }
      if s.runningOf ring = [] then .ok [] t else .pend ring t)

/-- RING_RESUME (R377, R397). -/
def execRingResume (r : Req) (s : State) : Host.Outcome State Fault Refusal :=
  .next (s.command ⟨0x0504, 1, false, false, false, false, 1, true, false⟩ r fun s =>
    let ring := argw r 1
    let c := s.ringCode ring
    if c ≠ 0 then .refuse c
    else if (s.ring ring).replay.isSome then .refuse 0x0403
    else .ok [] (s.setRing ring { s.ring ring with paused := false }))

/-- RING_HRESET: the ring's history contexts reset once no job of the ring is running (R200, R377). -/
def execRingHreset (r : Req) (s : State) : Host.Outcome State Fault Refusal :=
  .next (s.command ⟨0x0505, 1, false, false, false, true, 1, true, false⟩ r fun s =>
    let ring := argw r 1
    let c := s.ringCode ring
    if c ≠ 0 then .refuse c
    else if s.runningOf ring ≠ [] then .pend ring s
    else .ok [] (s.resetCtx (s.ringScore ring) (s.ring ring).ctx false))

/-- RING_STAT (R368). -/
def execRingStat (r : Req) (s : State) : Host.Outcome State Fault Refusal :=
  .next (s.command ⟨0x0506, 1, false, false, false, false, 1, true, false⟩ r fun s =>
    let ring := argw r 1
    let c := s.ringCode ring
    if c ≠ 0 then .refuse c
    else
      .ok [word (s.ringDepth ring), word (s.held ring), word (s.runningOf ring).length,
           word (b2n (s.ringSess ring).isSome + 2 * b2n (s.ring ring).paused + 4 * b2n (s.ringCont ring) +
             8 * b2n (s.ring ring).unmirrored)] s)

/-- RING_DELETE (R368, R371). -/
def execRingDelete (r : Req) (s : State) : Host.Outcome State Fault Refusal :=
  .next (s.command ⟨0x0507, 2, false, true, true, true, 1, true, false⟩ r fun s =>
    let ring := argw r 1
    let c := s.ringCode ring
    if c ≠ 0 then .refuse c
    else if (s.ringSess ring).isSome ∨ s.held ring ≠ 0 then .refuse 0x0404
    else .ok [] (s.deleteRing ring))

/-! JOB. -/

/-- JOB_HANDLE (R176, R339, R369). -/
def execJobHandle (r : Req) (s : State) : Host.Outcome State Fault Refusal :=
  .next (s.command ⟨0x0600, 1, false, false, false, false, 4, true, false⟩ r fun s =>
    let f := argw r 1
    let exps := match Fmt.ofCode f with | some x => x.hasExp | none => false
    if f ≠ 0xFF ∧ !dataFormat f then .refuse 0x0106
    else if 3 < argw r 4 ∨ (!exps ∧ argw r 3 ≠ 0) then .refuse 0x0104
    else
      match s.freeHandles (srcHub r.src) 1 with
      | none => .refuse 0x0309
      | some k =>
        .ok [word k] (s.setHandle k (some { fmt := f, codeLen := argw r 2, expLen := argw r 3, group := argw r 4 })))

/-- JOB_FREE (R369). -/
def execJobFree (r : Req) (s : State) : Host.Outcome State Fault Refusal :=
  .next (s.command ⟨0x0601, 1, false, false, false, false, 1, true, false⟩ r fun s =>
    match s.handle (argw r 1) with
    | none => .refuse 0x0105
    | some h =>
      if h.fmt = 0xFE then .refuse 0x0105
      else if h.busy ≠ 0 ∨ s.objBusy (argw r 1) then .refuse 0x0406
      else .ok [] (s.setHandle (argw r 1) none))

/-- JOB_CANCEL (R376). -/
def execJobCancel (r : Req) (s : State) : Host.Outcome State Fault Refusal :=
  .next (s.command ⟨0x0602, 1, false, false, false, false, 3, true, false⟩ r fun s =>
    let ring := argw r 1
    let c := s.ringCode ring
    if c ≠ 0 then .refuse c
    else
      let js := (s.ring ring).jobs.filter fun j => match s.job j with | some x => x.tag == argw64 r 2 | none => false
      if js = [] then .refuse 0x0405
      else
        let go := js.filter fun j => s.jstate j != .completed
        .ok [word go.length] (go.foldl (fun s j => s.failJob j 3) s))

/-- JOB_FETCH: DATA of a handle's bytes, then the reply (R370). -/
def execJobFetch (r : Req) (s : State) : Host.Outcome State Fault Refusal :=
  .next (s.command ⟨0x0603, 1, false, false, false, false, 4, true, false⟩ r fun s =>
    let k := argw r 1
    let part := argw r 2
    match s.handle k with
    | none => .refuse 0x0105
    | some h =>
      let size := if part = 0 then h.codeLen else h.expLen
      if h.fmt = 0xFE then .refuse 0x0105
      else if 1 < part ∨ size < argw r 3 + argw r 4 then .refuse 0x0104
      else
        match r.src with
        | .sideband => .refuse 0x0202
        | .session hb n =>
          let m := if part = 0 then h.code else h.exp
          let bs := (List.range (argw r 4)).map fun i => mget 0 m (argw r 3 + i)
          .ok [] (State.sendData (bs.length + 1) s (sessKey hb n) (partHeader k h.fmt part h.group size)
            (s.dataCap (sessKey hb n)) (argw r 3) bs))

/-- A page map that a job not yet completed names. -/
def State.mapBusy (s : State) (m : Nat) : Bool :=
  s.wk.jobs.any fun e => match e.2 with | some j => j.pageMap == m && j.st != .completed | none => false

/-- JOB_PAGES_FREE (R311). -/
def execJobPagesFree (r : Req) (s : State) : Host.Outcome State Fault Refusal :=
  .next (s.command ⟨0x0604, 1, false, false, false, false, 1, true, false⟩ r fun s =>
    let m := argw r 1
    if (mget none s.wk.maps m).isNone then .refuse 0x0405
    else if s.mapBusy m then .refuse 0x0406
    else .ok [] (s.freeMap m))

/-- JOB_CKPT: between jobs of the ring, its checkpoint into an object (R377, R390). -/
def execJobCkpt (r : Req) (s : State) : Host.Outcome State Fault Refusal :=
  .next (s.command ⟨0x0605, 1, false, false, false, true, 2, true, false⟩ r fun s =>
    let ring := argw r 1
    let c := s.ringCode ring
    if c ≠ 0 then .refuse c
    else
      match s.handle (argw r 2) with
      | none => .refuse 0x0105
      | some h =>
        if h.fmt ≠ 0xFF then .refuse 0x0105
        else if s.runningOf ring ≠ [] then .pend ring s
        else if s.ckptBad ring then .refuse 0x0503
        else
          let bs := s.checkpoint ring
          if h.codeLen < bs.length then .refuse 0x0104 bs.length
          else .ok [] (s.setHandle (argw r 2)
            (some (({ h with code := [], got := [] } : Handle).write 0 (padTo 0 h.codeLen bs)))))

/-- A queued job of a checkpoint accepted again: its input bytes come back under its input handle where that handle is
free (R391, log entry 16). -/
def State.reaccept (s : State) (r k : Nat) (q : List Byte × List Byte) : State :=
  let d := leBytes 2 r ++ q.1.drop 2
  let inH := leAt d 32 4
  let outH := leAt d 36 4
  let m := (s.score (s.ringScore r)).file.man
  let p := inParts m (jobOf d).sizes q.2.length
  let s := match s.handle inH with
    | some _ => s
    | none =>
      let h : Handle := { fmt := m.inFmt, codeLen := m.inCode, expLen := m.inExp, group := m.inGroup }
      let h := h.write 0 (q.2.take p.1)
      s.setHandle inH (some { h with exp := writeBytes [] 0 (q.2.drop p.1), gotExp := [(0, p.2)] })
  let s := match s.handle outH with
    | some _ => s
    | none => s.setHandle outH (some { fmt := m.outFmt, codeLen := m.outCode, expLen := m.outExp })
  s.acceptDesc k d

/-- JOB_RESTORE (R391): the queued jobs take the sequence numbers they held. -/
def execJobRestore (r : Req) (s : State) : Host.Outcome State Fault Refusal :=
  .next (s.command ⟨0x0606, 1, false, false, false, true, 2, true, false⟩ r fun s =>
    let ring := argw r 1
    let c := s.ringCode ring
    if c ≠ 0 then .refuse c
    else
      match s.object (argw r 2) with
      | .error c => .refuse c
      | .ok bs =>
        let bs := bs.take (leAt bs 16 8)
        let sc := s.score (s.ringScore ring)
        if s.held ring ≠ 0 then .refuse 0x0404
        else if !ckValid bs then .refuse 0x0602
        else if !(s.ring ring).paused ∨ sc.st ≠ 4 ∨ sc.id ≠ leAt bs 8 8 ∨ sc.digest.take 32 ≠ slice bs 32 32 then
          .refuse 0x0407
        else
          let (t, qs) := s.ckRestore ring bs
          let t := t.setRing ring { t.ring ring with jseq := ((t.ring ring).jseq + 2 ^ 64 - qs.length) % 2 ^ 64 }
          let k := match r.src with | .session h n => sessKey h n | .sideband => 0
          .ok [] (qs.foldl (fun t q => t.reaccept ring k q) t))

end Sys2Proof.Machine
end

