-- ==== Sys2Proof/Machine/Engine.lean ====
section
/-! DEFINITION. The ring engines: admission (R261-R263, R337, R338), step starts (R210, R260, R385, R549), calibration
boundaries (R131-R133), completions (R340, R343, R344) and replayed jobs (R397, R398). -/

namespace Sys2Proof.Machine

/-! Admission. -/

/-- The format of a format code, INT8 for what is none. -/
def fmtAt (f : Nat) : Fmt := (Fmt.ofCode f).getD .int8

/-- Group size of a tensor's exponent array: the format's own, or that of a drive tensor (R170, R171, R179). -/
def tensorGroup (f : Fmt) (g : Nat) : Nat := if f.isGroup then grpOf f else driveGroup g

/-- Code e of a packed array (R158). -/
def codeOf (f : Fmt) (bs : List Byte) (e : Nat) : Nat :=
  if f.bits = 4 then nfld (leAt bs (e / 2) 1) (4 * (e % 2)) 4 else leAt bs (e * (f.bits / 8)) (f.bits / 8)

/-- The dimensions of a score's input under a job's sizes. -/
def inDims (m : Manifest) (sizes : List Nat) : List (Nat × Nat) :=
  tensorDims m.inShape (m.inCode * 8 / (fmtAt m.inFmt).bits) sizes

/-- The dimensions of a score's output under a job's sizes. -/
def outDims (m : Manifest) (sizes : List Nat) : List (Nat × Nat) :=
  tensorDims m.outShape (m.outCode * 8 / (fmtAt m.outFmt).bits) sizes

/-- Some group of a drive tensor as sent holds a non-zero code under the exponent byte -32 (R550). -/
def badDrive (m : Manifest) (sizes : List Nat) (codes exps : List Byte) : Bool :=
  let f := fmtAt m.inFmt
  let act := (inDims m sizes).map (·.2)
  let cs := (List.range (volume act)).map (codeOf f codes)
  f.isDrive && ((zeroGroups (driveGroup m.inGroup) (act.getLastD 1) cs).zip exps).any fun p =>
    !p.1 && expOf p.2.toNat == -32

/-- The handle of a job matches what its score declares, the group size of a drive input too: 0 where it does (R179,
R337). -/
def State.handleCode (s : State) (k fmt code exp : Nat) (group : Option Nat) : Nat :=
  match s.handle k with
  | none => 0x0105
  | some h =>
    if h.fmt = 0xFF ∨ h.fmt = 0xFE then 0x0105
    else if h.fmt ≠ fmt ∨ ((fmtAt fmt).isDrive ∧ group.isSome ∧ group ≠ some h.group) then 0x0106
    else if h.codeLen ≠ code ∨ h.expLen ≠ exp then 0x0104
    else 0

/-- The dynamic dimensions of a score with the actual sizes of a job. -/
def dimSizes (m : Manifest) (j : Job) : List (Dim × Nat) := m.dims.zip j.sizes

/-- The checks of R337 in order, those for lost or failed hardware (R481, R482) before that of its resource class: the status, 0
where all pass. -/
def State.admitCode (s : State) (j : Job) : Nat :=
  let slot := s.ringScore j.ring
  let x := s.score slot
  let m := x.file.man
  let ds := dimSizes m j
  let a := s.handleCode j.inH m.inFmt m.inCode m.inExp (some m.inGroup)
  let b := s.handleCode j.outH m.outFmt m.outCode m.outExp none
  let h := (s.handle j.inH).getD { fmt := 0, codeLen := 0 }
  let p := inParts m j.sizes j.inLen
  if j.resv ∧ !j.replayed then 0x0103
  else if a ≠ 0 then a
  else if b ≠ 0 then b
  else if j.inLen = 0 ∨ ds.any fun d => d.2 == 0 then 0x0002
  else if ds.any fun d => decide (d.1.buckets.getLastD 0 < d.2) then 0x0109
  else if h.codeLen + h.expLen < j.inLen ∨ !covered h.got p.1 ∨ !covered h.gotExp p.2 then 0x010B
  else if badDrive m j.sizes (h.bytes 0 p.1) (h.expBytes p.2) then 0x0106
  else if (match mget none s.wk.maps j.pageMap with | some v => v.ring != j.ring | none => j.pageMap != 0) then 0x010C
  else if x.place.any fun p => (s.die (keyDie p.2)).lost then 0x0507
  else if x.degraded then 0x030F
  else if j.flags % 2 = 1 ∧ (!x.resident ∨ x.imgLost ≠ []) then 0x030E
  else 0

/-- The smallest bucket of a dimension at least as large as the actual size (R261). -/
def bucketOf (d : Dim) (n : Nat) : Nat := (d.buckets.find? fun b => decide (n ≤ b)).getD 0

/-- Granules of each dimension of a job (R549). -/
def granules (m : Manifest) (j : Job) : List Nat := (m.dims.zip j.buckets).map fun d => d.2 / max 1 d.1.q

/-- The lowest page map number free. -/
def State.freeMapNo (s : State) : Nat :=
  ((List.range (s.wk.maps.length + 1)).map (· + 1)).find? (fun k => (mget none s.wk.maps k).isNone) |>.getD 1

/-- A failed board of a score has been replaced and its new board is not yet whole: its record stands, or a plane of it is still
programmed (R481; log entry 113). -/
def State.boardReplaced (s : State) (slot : Nat) : Bool :=
  s.fb.switches.any (fun w => w.slot == slot && w.drop) ||
  s.sv.repairs.any fun r => r.isBoard && (s.board r.frame).failed && (s.board r.target).score == some slot

/-! Staging. -/

/-- The home of a manifest buffer. -/
def Score.homeAt (x : Score) (k : Nat) : Option Nat := (x.bufAt[k]?).map (·.1)

/-- The code and exponent bytes of a job's input as staged: the elements the host sent stand at their places in the score's
input, every other element is code 0 and every other group carries -32, as do the zero groups of drive tensors (R216, R262;
log entry 32). -/
def State.stagedInput (s : State) (m : Manifest) (j : Job) : List Byte × List Byte :=
  match s.handle j.inH with
  | none => ([], [])
  | some h =>
    let p := inParts m j.sizes j.inLen
    let f := fmtAt m.inFmt
    let g := tensorGroup f m.inGroup
    let ds := inDims m j.sizes
    let bs := h.bytes 0 p.1
    let es := h.expBytes p.2
    let codes := spread ds 0 (codeOf f bs)
    let exps := spread (groupDims g ds) 0x20 fun k => leAt (es ++ [0x20]) (min k es.length) 1
    let exps := if f.isDrive then
        ((zeroGroups g ((ds.map (·.1)).getLastD 1) codes).zip exps).map fun e => if e.1 then 0x20 else e.2
      else exps
    (padTo 0 m.inCode (packCodes f codes), padTo 0x20 m.inExp (exps.map (BitVec.ofNat 8)))

/-- BF16 1.0 and -16,384. -/
def bfOne : List Byte := [0x80, 0x3F]
def bfLow : List Byte := [0x80, 0xC6]

/-- The keep and bias tensors of a masked dimension: n positions of a bucket (R263). -/
def maskBytes (size bucket : Nat) : List Byte :=
  ((List.range bucket).flatMap fun i => if i < size then bfOne else [0, 0]) ++
  (List.range bucket).flatMap fun i => if i < size then [0, 0] else bfLow

/-- The input and the masks of a job written to the homes of their buffers (R262, R263; log entry 32). -/
def State.stage (s : State) (j : Job) : State :=
  let x := s.score (s.ringScore j.ring)
  let m := x.file.man
  let (c, e) := s.stagedInput m j
  let s := match x.homeAt m.inBuf with
    | some a => if m.inCode = 0 then s else (s.memWrite a c).memWrite (a + m.inCode) e
    | none => s
  let masks := ((dimSizes m j).zip j.buckets).flatMap fun d => if d.1.1.masked then maskBytes d.1.2 d.2 else []
  match x.homeAt m.maskBuf with
  | some a => if masks = [] then s else s.memWrite a masks
  | none => s

/-- Another job of a job's score is admitted or runs: its input stands in the score's input buffer (log entry 32). -/
def State.inputHeld (s : State) (jn : Nat) (j : Job) : Bool :=
  s.wk.jobs.any fun e => e.1 != jn && match e.2 with
    | some y => s.ringScore y.ring == s.ringScore j.ring && (y.st == .admitted || y.st == .running)
    | none => false

/-- A job admitted: its buckets and step count, its page map, its input staged, where no other job's stands in the score's
input buffer, and journaled (R261, R310, R375, R395). -/
def State.admitJob (s : State) (jn : Nat) (j : Job) : State :=
  let m := (s.score (s.ringScore j.ring)).file.man
  let bs := (dimSizes m j).map fun d => bucketOf d.1 d.2
  let j := { j with st := .admitted, buckets := bs,
                    placeChanged := j.placeChanged || s.boardReplaced (s.ringScore j.ring) }
  let j := { j with nsteps := (granules m j).foldl (· * ·) 1 }
  let (s, j) :=
    if m.kv = [] ∨ j.pageMap ≠ 0 then (s, j)
    else
      let n := s.freeMapNo
      ({ s with wk.maps := mput none s.wk.maps n (some { ring := j.ring }) }, { j with pageMap := n })
  let s := s.setJob jn (some j)
  let s := if s.inputHeld jn j then s else s.stage j
  match s.handle j.inH with
  | none => s
  | some h =>
    let code := partHeader j.inH h.fmt 0 h.group h.codeLen ++ h.bytes 0 h.codeLen
    let exp := if h.expLen = 0 then [] else partHeader j.inH h.fmt 1 h.group h.expLen ++ h.expBytes h.expLen
    s.jrec 2 j.ring j.jseq 0 0 0xFFFF (code ++ exp)

/-- The descriptor a ring admits next: its oldest ACCEPTED one, while the ring is neither paused, but for a replay, nor
without its score (R377, R397). -/
def State.admissible (s : State) (r : Nat) : Option Nat :=
  let x := s.ring r
  if (x.paused ∧ x.replay.isNone) ∨ (s.score (s.ringScore r)).st ≠ 4 then none
  else x.jobs.find? fun j => s.jstate j == .accepted

/-- The ring whose turn it is among those of a hub with something to take in: weighted round robin (R338). -/
def State.turnRing (s : State) (h : Nat) : Option (Nat × Nat) :=
  let rs := s.ringList.filter fun r => ringHub r == h && (s.admissible r).isSome
  let cur := s.wk.turn.getD h 0
  let used := mget 0 s.wk.deficit h
  if rs.contains cur ∧ used < s.ringWeight cur then some (cur, used + 1)
  else
    match rs.find? fun r => decide (cur < r) with
    | some r => some (r, 1)
    | none => match rs with
      | r :: _ => some (r, 1)
      | [] => none

/-- RING_ADMISSION: the next descriptor of a hub's rings admitted, or completed with the status of its first failed check
(R337, R338). -/
def execRingAdmission (h : Hub) (s : State) : Host.Outcome State Fault Refusal :=
  if s.pstate ≠ 2 ∨ s.pw.failN then .next s
  else
    match s.turnRing h with
    | none => .next s
    | some (r, used) =>
      let s := { s with wk.turn := s.wk.turn.set h r, wk.deficit := mput 0 s.wk.deficit h used }
      match s.admissible r with
      | none => .next s
      | some jn =>
        match s.job jn with
        | none => .next s
        | some j =>
          let c := s.admitCode j
          .next (if c = 0 then s.admitJob jn j else s.complete jn c)

/-! Step starts. -/

/-- The stages that take the ring engine's step starts (R251, R260). -/
def firstStages (x : Score) : List Nat := (x.file.stages.filter fun h => h.flags / 2 % 2 == 1).map (·.stage)

/-- The granule index of each dimension in a step: dimension 0 varies fastest (R549). -/
def granuleAt : List Nat → Nat → List Nat
  | [], _ => []
  | n :: r, k => (k % max 1 n) :: granuleAt r (k / max 1 n)

/-- The valid counts of a step (R210). -/
def validCounts (m : Manifest) (j : Job) (k : Nat) : List Nat :=
  let v := ((dimSizes m j).zip (granuleAt (granules m j) k)).map fun d => min d.1.1.q (d.1.2 - d.2 * d.1.1.q)
  padTo 0 4 v

/-- The key of the generator (R388). -/
def jobSeed (j : Job) : Nat := Nat.xor (j.seed % 2 ^ 64) (j.jseq * 0x9E3779B97F4A7C15 % 2 ^ 64)

/-- The capture mode a job runs in: mode 2 only where a replay injected it (R396, R397). -/
def captureMode (j : Job) : Nat :=
  if j.replayed then 2 else if j.flags / 16 % 4 = 1 then 1 else 0

/-- The context of a step of a job (R210). -/
def State.stepCtx (s : State) (jn : Nat) (j : Job) (k : Nat) : StepCtx :=
  { job := jn, step := k, bank := j.bank, seed := jobSeed j, launch := j.launchRk,
    valid := validCounts (s.score (s.ringScore j.ring)).file.man j k, epoch := 0, ctx := (s.ring j.ring).ctx,
    exact := j.flags % 2 == 1, capture := captureMode j }

/-- Positions a page of a pool holds (R310). -/
def pagePositions (k : KvPool) : Nat := if k.s4g64 then 32768 / max 1 k.d else 8192 / max 1 k.d

/-- Pages of one pool taken until a map holds n of them: none where the pool is empty (R311). -/
def State.takePages (s : State) (m key count n : Nat) : Nat → Option State
  | 0 => some s
  | f + 1 =>
    match mget none s.wk.maps m with
    | none => some s
    | some x =>
      if n ≤ (x.pages.filter fun p => p.1 == key).length then some s
      else
        let used := mget [] s.wk.kvUsed key
        match (List.range count).find? fun i => !used.contains i with
        | none => none
        | some i =>
          let s := { s with
            wk.kvUsed := mput [] s.wk.kvUsed key (used ++ [i]),
            wk.maps := mput none s.wk.maps m (some { x with pages := x.pages ++ [(key, i)] }) }
          s.takePages m key count n f

/-- The pages a step needs in every pool of its score: a position for each element of its granule of dimension 0, or one where
the score has no dynamic dimension (R311; log entry 34). -/
def State.pagesFor (s : State) (j : Job) (k : Nat) : Option State :=
  let slot := s.ringScore j.ring
  let m := (s.score slot).file.man
  match mget none s.wk.maps j.pageMap with
  | none => some s
  | some x =>
    let pos := x.pos + (if m.dims = [] then 1 else (validCounts m j k).headD 0)
    let s := { s with wk.maps := mput none s.wk.maps j.pageMap (some { x with pos := pos }) }
    m.kv.zipIdx.foldl (fun o e => o.bind fun (s : State) =>
      let need := cdiv pos (max 1 (pagePositions e.1))
      s.takePages j.pageMap (16 * slot + e.2) e.1.pages need need) (some s)

/-- A calibration boundary before a step: the job takes its score's current bank (R130-R133). -/
def State.boundaryAt (s : State) (j : Job) (k : Nat) : Job :=
  let x := s.score (s.ringScore j.ring)
  let pc := x.file.man.pc
  if k = 0 then { j with bank := x.bank, epoch := x.epoch, firstEpoch := x.epoch, lastCal := s.now }
  else if (pc ≠ 0 ∧ k % pc = 0) ∨ j.force then
    { j with bank := x.bank, epoch := x.epoch, calChanged := j.calChanged || x.epoch != j.firstEpoch, lastCal := s.now,
             force := false }
  else j

/-- The step start of a job's next step issued to the first stage (R210, R260); a step without its pages fails the job
(R264). -/
def State.issueStep (s : State) (jn : Nat) (j : Job) : State :=
  let k := j.next
  let x := s.score (s.ringScore j.ring)
  let j := s.boundaryAt j k
  let j := { j with next := k + 1,
                    outDue := if j.flags / 4 % 2 = 1 ∧ x.file.man.po ≠ 0 ∧ (k + 1) % x.file.man.po = 0 ∧ k + 1 < j.nsteps then
                      j.outDue ++ [k * 2 ^ 32 + j.epoch] else j.outDue }
  let s := s.setJob jn (some j)
  match s.pagesFor j k with
  | none => s.failJob jn 0x030D
  | some s =>
    let c := s.stepCtx jn j k
    let h := s.ownerHub (ringHub j.ring)
    (firstStages x).foldl (fun s t =>
      s.sendStep (s.ringScore j.ring) t { srcNode := 32 + h, job := jn, step := k, q := 0 } c) s

/-- The ring engine may issue step starts: Ready, not on the way to Drowsy or Dormant, no first stage held (R288, R434,
R435). -/
def State.mayIssue (s : State) (j : Job) : Bool :=
  let slot := s.ringScore j.ring
  s.pstate == 2 && s.pw.entering.isNone && (s.score slot).st == 4 &&
  !(firstStages (s.score slot)).any (s.stageHeld slot)

/-- Every earlier job of the ring has had all its step starts issued (R385). -/
def State.ringTurn (s : State) (jn : Nat) (j : Job) : Bool :=
  ((s.ring j.ring).jobs.takeWhile (· != jn)).all fun k =>
    match s.job k with
    | some x => x.st == .completed || (x.st == .running && decide (x.nsteps ≤ x.next))
    | none => true

/-- Stages reached from the first ones along the successors. -/
def reachGo (succ : List (List Nat)) : Nat → List Nat → List Nat
  | 0, ts => ts
  | f + 1, ts => reachGo succ f (ts ++ ((ts.flatMap fun t => succ.getD t []).eraseDups.filter fun t => !ts.contains t))

/-- Boards that run every step of a score. -/
def stepBoards (x : Score) : Nat :=
  let ts := reachGo x.file.man.succ x.file.stages.length (firstStages x)
  nsum ((x.file.stages.filter fun h => ts.contains h.stage).map fun h => h.boards.length)

/-- Every board of a job's score has ended a step. -/
def State.stepEnded (s : State) (j : Job) (k : Nat) : Bool :=
  decide (stepBoards (s.score (s.ringScore j.ring)) ≤ (j.ended.filter fun e => e.1 == k).length)

/-- The histories of a ring's TOKEN streams may be reset: every earlier job of the ring has ended its steps, and no record of
the context waits for its update (R194, R198, R200). -/
def State.historiesIdle (s : State) (jn : Nat) (j : Job) : Bool :=
  let slot := s.ringScore j.ring
  let boards := (s.scoreBoards slot).map (·.2)
  let ctx := (s.ring j.ring).ctx
  !(boards.any fun bk => (s.streamsOf slot bk).any fun n => s.strDyn bk n && s.strToken bk n) ||
  (((s.ring j.ring).jobs.takeWhile (· != jn)).all fun k =>
    match s.job k with
    | some x => x.st == .completed || (List.range x.nsteps).all (s.stepEnded x)
    | none => true) &&
  boards.all fun bk => (s.board bk).strm.all fun y => y.ctx != ctx || !(s.strToken bk y.n)

/-- JOB_LAUNCH: the first step start of an admitted job, at its launch count where it has one, once the histories it resets are
at rest (R198, R200, R262, R263, R375, R385). -/
def execJobLaunch (j : Nat) (s : State) : Host.Outcome State Fault Refusal :=
  match s.job j with
  | none => .next s
  | some x =>
    if x.st ≠ .admitted ∨ !s.mayIssue x ∨ !s.ringTurn j x ∨ !s.historiesIdle j x ∨ (x.flags / 2 % 2 = 1 ∧ s.ck.rk < x.launch) then .next s
    else
      let s := s.stage x
      let s := s.resetCtx (s.ringScore x.ring) (s.ring x.ring).ctx true
      .next (s.issueStep j { x with st := .running, started := true, rkStart := s.ck.rk, launchRk := s.ck.rk })

/-- STEP_START_ISSUE: the next step start of a running job (R260, R549). -/
def execStepStartIssue (j : Nat) (s : State) : Host.Outcome State Fault Refusal :=
  match s.job j with
  | none => .next s
  | some x =>
    if x.st ≠ .running ∨ x.nsteps ≤ x.next ∨ x.failedAt ∨ !s.mayIssue x then .next s else .next (s.issueStep j x)

/-- CAL_FORCED_TIMEOUT: a newer epoch exists and the job has passed no calibration boundary for 2 s (R132). -/
def execCalForcedTimeout (j : Nat) (s : State) : Host.Outcome State Fault Refusal :=
  match s.job j with
  | none => .next s
  | some x =>
    if x.st ≠ .running ∨ x.nsteps ≤ x.next ∨ x.force ∨ (s.score (s.ringScore x.ring)).epoch = x.epoch ∨
        s.now < x.lastCal + 2000000000 then .next s
    else .next (s.setJob j (some { x with force := true, calForced := true }))

/-! Results. -/

/-- A step writes the item at given coordinates of an output: its granule of every dynamic dimension the output has holds it;
an item is one element, or a group of g of them along the innermost dimension (R262, R549). -/
def stepHas (m : Manifest) (j : Job) (k g : Nat) (xs : List Nat) : Bool :=
  ((m.outShape.zip xs).zipIdx).all fun d =>
    let q := max 1 (((m.dims[d.1.1.2 - 1]?).map (·.q)).getD 1)
    let i := (granuleAt (granules m j) k).getD (d.1.1.2 - 1) 0
    let u := if d.2 + 1 = m.outShape.length then g else 1
    d.1.1.2 == 0 || (decide (d.1.2 * u < (i + 1) * q) && decide (i * q < (d.1.2 + 1) * u))

/-- The intervals of the bytes at which a test holds, among the first n. -/
def byteRuns (f : Nat → Bool) : Nat → List (Nat × Nat)
  | 0 => []
  | n + 1 =>
    let r := byteRuns f n
    if !f n then r
    else match r with
      | (a, b) :: r => if b = n then (a, n + 1) :: r else (n, n + 1) :: (a, b) :: r
      | [] => [(n, n + 1)]

/-- The bytes of one part of a job's result within the actual sizes, and which of them the steps from `k0` up to `k` write
(R262, R340; log entry 32). -/
def State.resultPart (s : State) (m : Manifest) (j : Job) (a g part k0 k : Nat) : List Byte × List (Nat × Nat) :=
  let f := fmtAt m.outFmt
  let ds := outDims m j.sizes
  let ds := if part = 0 then ds else groupDims g ds
  let items := gather ds fun e =>
    if part = 1 then leNat (s.load (a + m.outCode + e) 1)
    else if f.bits = 4 then nfld (leNat (s.load (a + e / 2) 1)) (4 * (e % 2)) 4
    else leNat (s.load (a + e * (f.bits / 8)) (f.bits / 8))
  let bs := if part = 1 then items.map (BitVec.ofNat 8) else packCodes f items
  let per := if part = 1 then 8 else f.bits
  let own := fun c => (List.range (k - k0)).any fun i =>
    stepHas m j (k0 + i) (if part = 1 then g else 1) (if part = 1 ∧ g = 0 then [] else coords (ds.map (·.2)) c)
  (bs, (byteRuns (fun b => own (b * 8 / per) || own ((b * 8 + 7) / per)) bs.length).reverse)

/-- Bytes of one part of a job's result put in its output handle (R339). -/
def State.putPart (s : State) (j : Job) (part : Nat) (bytes : List Byte) (r : Nat × Nat) : State :=
  match s.handle j.outH with
  | none => s
  | some h =>
    let bs := slice bytes r.1 (r.2 - r.1)
    s.setHandle j.outH (some (if part = 0 then { h with code := writeBytes h.code r.1 bs, got := h.got ++ [r] }
                              else { h with exp := writeBytes h.exp r.1 bs, gotExp := h.gotExp ++ [r] }))

/-- The DATA that carries a run of bytes of one part of a result: part header, offset, bytes (R339, R340). -/
def partData (j : Job) (h : Handle) (part : Nat) (bytes : List Byte) (r : Nat × Nat) : List Byte × Nat × List Byte :=
  (partHeader j.outH h.fmt part h.group (if part = 0 then h.codeLen else h.expLen), r.1, slice bytes r.1 (r.2 - r.1))

/-- The result of a job's steps from `k0` up to `k` in its output handle, with the DATA that carries it: none where a block of it
is uncorrectable (R305, R340). -/
def State.sendResult (s : State) (j : Job) (k0 k : Nat) : Option (State × List (List Byte × Nat × List Byte)) :=
  let x := s.score (s.ringScore j.ring)
  let m := x.file.man
  match x.homeAt m.outBuf, s.handle j.outH with
  | some a, some h =>
    if m.outCode = 0 then some (s, [])
    else if s.memBad a (m.outCode + m.outExp) then none
    else
      let g := tensorGroup (fmtAt m.outFmt) h.group
      let c := s.resultPart m j a g 0 k0 k
      let e := s.resultPart m j a g 1 k0 k
      let er := if m.outExp = 0 then [] else e.2
      let s := c.2.foldl (fun s r => s.putPart j 0 c.1 r) s
      some (er.foldl (fun s r => s.putPart j 1 e.1 r) s, c.2.map (partData j h 0 c.1) ++ er.map (partData j h 1 e.1))
  | _, _ => some (s, [])

/-- Steps whose output an intermediate completion has carried. -/
def sentSteps (m : Manifest) (j : Job) : Nat := if j.flags / 4 % 2 = 1 ∧ m.po ≠ 0 then j.cseq * m.po else 0

/-- INTERMEDIATE_COMPLETION: at an output point of a STREAM job, after that step's output (R343, R549). -/
def execIntermediateCompletion (j : Nat) (s : State) : Host.Outcome State Fault Refusal :=
  match s.job j with
  | none => .next s
  | some x =>
    match x.outDue with
    | [] => .next s
    | e :: rest =>
      let k := e / 2 ^ 32
      if x.st ≠ .running ∨ x.failedAt ∨ !s.stepEnded x k then .next s
      else
        match s.sendResult x (sentSteps (s.score (s.ringScore x.ring)).file.man x) (k + 1) with
        | none => .next (s.failJob j 0x0503)
        | some (s, ds) => .next (s.formCompl j { x with outDue := rest } 0
            (if x.counts.strokes = 0 then 0 else e % 2 ^ 32) false ds)

/-- FINAL_COMPLETION: every step of the job has ended on every board, and its result has gone out (R340, R343). -/
def execFinalCompletion (j : Nat) (s : State) : Host.Outcome State Fault Refusal :=
  match s.job j with
  | none => .next s
  | some x =>
    if x.st ≠ .running ∨ x.failedAt ∨ x.next < x.nsteps ∨ x.outDue ≠ [] ∨
        !(List.range x.nsteps).all (s.stepEnded x) then .next s
    else
      match s.sendResult x (sentSteps (s.score (s.ringScore x.ring)).file.man x) x.nsteps with
      | none => .next (s.failJob j 0x0503)
      | some (s, ds) => .next (s.complete j 0 ds)

/-! Replay. -/

/-- The parts of an INPUT record: code bytes, and exponent bytes where a second part follows. -/
def inputParts (bs : List Byte) : List Byte × List Byte :=
  let n := leAt bs 8 4
  let r := bs.drop (16 + n)
  (slice bs 16 n, slice r 16 (leAt r 8 4))

/-- The handles a replayed record runs with: its input from the journal, where it was kept, and its output (R397). -/
def State.replayHandles (s : State) (g n : Nat) (v : List Byte) (k : Nat) : State :=
  let man := (s.score (s.ringScore g)).file.man
  let rec_ := s.sv.journal.recs.find? fun w =>
    decide (n ≤ w.1) && leAt w.2 0 1 == 2 && leAt w.2 2 2 == (s.ring g).replaySrc && leAt w.2 12 4 == leAt v 96 8 % 2 ^ 32
  let (c, e) := match rec_ with | some w => inputParts (w.2.drop 32) | none => ([], [])
  let f : Handle := { fmt := man.inFmt, codeLen := man.inCode, expLen := man.inExp,
                      group := (match rec_ with | some w => leAt w.2 38 1 | none => 0) }
  let s := s.setHandle k (some { f.write 0 c with exp := writeBytes [] 0 e, gotExp := [(0, e.length)] })
  s.setHandle (k + 1) (some { fmt := man.outFmt, codeLen := man.outCode, expLen := man.outExp })

/-- The descriptor of a replayed record: the replay's ring, handles and launch time in place of the record's (R397, R398). -/
def State.replayDesc (s : State) (g : Nat) (v : List Byte) (k : Nat) : List Byte :=
  let x := s.ring g
  let d := slice v 32 64
  let l := if leAt d 2 2 / 2 % 2 = 1 then (x.replayBase + leAt d 24 8 - x.replayA0) % 2 ^ 64 else 0
  patch (patch (patch (patch d 0 (leBytes 2 g)) 24 (leBytes 8 l)) 32 (leBytes 4 k)) 36 (leBytes 4 (k + 1))

/-- REPLAY_INJECT: the next recorded descriptor of a ring under replay accepted again at its relative time, under new
handles (R397, R398). -/
def execReplayInject (g : Fin 4096) (s : State) : Host.Outcome State Fault Refusal :=
  let x := s.ring g
  match x.replay with
  | none => .next s
  | some [] => .next (s.settleReplay g)
  | some (n :: rest) =>
    match s.sv.journal.recs.find? fun v => v.1 == n with
    | none => .next (s.setRing g { x with replay := some rest })
    | some v =>
      if s.pstate ≠ 2 ∨ s.ck.rk < x.replayBase + (leAt v.2 24 8 - x.replayA0) ∨ s.ringDepth g ≤ s.held g then .next s
      else
        match s.freeHandles (ringHub g) 2 with
        | none => .next s
        | some k =>
          let d := s.replayDesc g v.2 k
          let s := s.replayHandles g n v.2 k
          let s := s.setRing g { s.ring g with replay := some rest, jseq := leAt v.2 96 8 }
          .next ((s.acceptDesc 0 d).modJob s.wk.nextJob fun j => { j with replayed := true })

end Sys2Proof.Machine
end

