-- ==== Sys2Proof/Machine/LedgerRows.lean ====
section
/-! DEFINITION. What the ledger does of itself: queued writes (R457-R459), increments (R463), the first reads after a start
(R460, R464), margin passes (R466), copies that leave and return (R461), and its start (R470). -/

namespace Sys2Proof.Machine

def ldgReg (h x : Nat) : Nat := hubBase h + 0x90000 + x

/-- LEDGER_PAGE_WRITE: the write at the head of the queue, or its refusal; in Off the ledger makes no writes (R457, R458,
R470). -/
def execLedgerPageWrite (s : State) : Host.Outcome State Fault Refusal :=
  if !s.lg.ready ∨ s.pstate = 0 then .next s else .next (s.flushLedger 1)

/-- Counters 8-31 are reserved: nothing counts in them (R465). -/
def reservedCtr (k : Nat) : Bool := decide (8 ≤ k ∧ k < 32)

/-- LEDGER_COUNTER_INCREMENT: a cell set, after a fold where every cell is set; none above 2^48 - 1, and none of a reserved
counter (R463, R465). -/
def execLedgerCounterIncrement (k : Fin 64) (s : State) : Host.Outcome State Fault Refusal :=
  if !s.lg.ready ∨ s.pstate = 0 ∨ reservedCtr k ∨ 2 ^ 48 - 1 ≤ s.counter k then .next s else .next (s.ctrInc k).1

/-- A slot with its header cleared. -/
def LSlot.cleared (x : LSlot) : LSlot := { data := x.data }

/-- A slot put without wear or counters. -/
def State.putSlot (s : State) (copy page i : Nat) (x : LSlot) : State :=
  { s with lg.slots := mput {} s.lg.slots (slotKey copy page i) x }

/-- One copy made to agree with the committed slot of a page: newer slots invalidated, the committed one written (R460). -/
def State.settleSlot (s : State) (copy page i : Nat) (x : LSlot) : State :=
  let y := s.lslot copy page (1 - i)
  let s := if y.valid && newer y.seq x.seq then s.putSlot copy page (1 - i) y.cleared else s
  if s.lslot copy page i = x then s else s.putSlot copy page i x

/-- LEDGER_PAGE_RESOLVE: the first read of a page after a start, or after a copy's return (R460). -/
def execLedgerPageResolve (pg : Fin 1024) (s : State) : Host.Outcome State Fault Refusal :=
  if !s.lg.ready ∨ s.lg.pages.contains pg.val then .next s
  else
    let s0 := { s with lg.pages := pg.val :: s.lg.pages }
    match s.committed pg with
    | none =>
      let clear := fun (s : State) (c : Nat) => (List.range 2).foldl (fun s i =>
        if (s.lslot c pg i).valid then s.putSlot c pg i (s.lslot c pg i).cleared else s) s
      .next ((s.copies.foldl clear s0).log 0x10F [pg])
    | some (c, i) =>
      let x := s.lslot c pg i
      .next (s.copies.foldl (fun s c =>
        let t := s.settleSlot c pg i x
        if t.lg.slots = s.lg.slots then s else t.bump (ldgReg c 0x48) 1) s0)

/-- A cell whose copies disagree, or whose check does not match its tag (R464). -/
def State.cellTorn (s : State) (k i : Nat) : Bool :=
  s.copies.any fun c => s.cell c k i != s.cell s.judge k i || (s.cell c k i).2 != 255 - (s.cell c k i).1

/-- LEDGER_COUNTER_RESOLVE: the first read of a counter after a start, or after a copy's return (R464). -/
def execLedgerCounterResolve (k : Fin 64) (s : State) : Host.Outcome State Fault Refusal :=
  if !s.lg.ready ∨ s.lg.ctrs.contains k.val then .next s
  else
    let g := s.ctrGen k
    let low := (g + 255) % 256
    let s0 := { s with lg.ctrs := k.val :: s.lg.ctrs }
    .next ((List.range 64).foldl (fun t i =>
      if s.cellTorn k i then
        let v := if cellSet g (s.cell s.judge k i) then (g, 255 - g) else (low, 255 - low)
        s.copies.foldl (fun t c => (t.setCell c k i v).bump (ldgReg c 0x48) 1) t
      else t) s0)

/-- A margin pass is due (R466). -/
def State.marginDue (s : State) : Bool :=
  match s.lg.marginAt with
  | none => true
  | some t => decide (t + 720 * 3600000000000 ≤ s.now ∨ 24 * 3600000000000 ≤ s.lg.hot)

/-- The slots found weak that are a copy's slot of the committed sequence (R463). -/
def State.weakOf (s : State) (slots : List Nat) : List Nat :=
  slots.filter fun k =>
    let p := k / 2 % 1024
    match s.committed p with
    | some (c, i) => decide (k < 4096) && k % 2 == i && (s.lslot (k / 2048) p i).valid &&
        (s.lslot (k / 2048) p i).seq == (s.lslot c p i).seq
    | none => false

/-- Weak slots and cells rewritten, each page by a write of its own content, and shown at their copies (R457, R463). -/
def State.marginRun (s : State) (weak bad : List Nat) : State :=
  let same := fun (s : State) p => (s.ledgerWrite p (s.page p)).1
  let done := s.prewrite == 0
  let s := (weak.map (· / 2 % 1024)).eraseDups.foldl same s
  -- a cell keeps its tag and check; its rewrite is refused as a page write is (R457)
  let s := if done then s else bad.foldl (fun s k => same s (568 + k / 64 % 64 / 32)) s
  (List.range 2).foldl (fun s h =>
    let n := if done then (weak.filter fun k => k / 2048 == h).length else 0
    let m := if done then (bad.filter fun k => k / 4096 == h).length else 0
    (s.bump (ldgReg h 0x4C) (n + m)).setRegN (ldgReg h 8) (hold 255 n * 65536 + hold 255 m * 16777216)) s

/-- LEDGER_MARGIN_PASS: slots and cells that fail a shifted read, by slot key and cell key, are rewritten (R466). -/
def execLedgerMarginPass (slots cells : List Nat) (s : State) : Host.Outcome State Fault Refusal :=
  let weak := s.weakOf slots
  let bad := cells.filter fun k => k / 4096 < 2
  if !s.lg.ready ∨ !s.marginDue ∨ (s.pstate = 0 ∧ weak ++ bad ≠ []) then .next s
  else .next { s.marginRun weak bad with lg.marginAt := some s.now, lg.hot := 0 }

/-- LEDGER_COPY_LOST: the survivor writes alone (R461). -/
def execLedgerCopyLost (h : Hub) (s : State) : Host.Outcome State Fault Refusal :=
  if !s.lg.inServ.getD h false ∨ !s.lg.inServ.getD (1 - h) false then .next s
  else
    let s := { s with lg.inServ := s.lg.inServ.set h false }
    .next ((s.log 0x110 [h]).auditModule 0xE006 [word h])

/-- A copy written from the other: each page's committed slot, and every cell (R461). -/
def State.copyBack (s : State) (h : Nat) : State :=
  let t := (List.range 1024).foldl (fun t p =>
    match s.committed p with
    | some (c, i) => (t.putSlot h p i (s.lslot c p i)).putSlot h p (1 - i) {}
    | none => (t.putSlot h p 0 {}).putSlot h p 1 {}) s
  (List.range 64).foldl (fun t k => (List.range 64).foldl (fun t i => t.setCell h k i (s.cell (1 - h) k i)) t) t

/-- LEDGER_COPY_RETURN: the survivor's committed slots and its cells are copied, and the copy serves again (R461). -/
def execLedgerCopyReturn (h : Hub) (s : State) : Host.Outcome State Fault Refusal :=
  if s.lg.inServ.getD h false ∨ !s.lg.inServ.getD (1 - h) false then .next s
  else
    let t := s.copyBack h
    .next (({ t with lg.inServ := t.lg.inServ.set h true, lg.pages := [], lg.ctrs := [] }).auditModule 0xE007 [word h])

/-- LEDGER_READY: 5 ms after VSB rises within its range (R430, R470). -/
def execLedgerReady (s : State) : Host.Outcome State Fault Refusal :=
  if s.lg.ready ∨ s.pw.vsb < 3135 ∨ 3465 < s.pw.vsb then .next s
  else .next { s with lg.ready := true, lg.pages := [], lg.ctrs := [] }

end Sys2Proof.Machine
end

