-- ==== Sys2Proof/Machine/Mailbox.lean ====
section
/-! DEFINITION. The mailbox hardware (R351-R355, R358). -/

namespace Sys2Proof.Machine

/-- Where the domain of an end stands: powered, powered down with its supply present, or without supply (R354). -/
inductive Dom where
  | up | down | unpowered
deriving DecidableEq, Repr

/-- An end's domain (R351). The security and debug domains power down in Drowsy and Dormant (log entry 18); a wake event powers
them up first (R354). -/
def State.domain (s : State) (h n e : Nat) : Dom :=
  let supply := decide (s.pstate ≠ 0) && s.sv.alive.getD (if n = 4 ∧ e = 1 then 1 - h else h) false
  if n = 1 ∧ e = 0 then .up
  else if n = 3 ∧ e = 1 then .up
  else if !supply then .unpowered
  else if (n = 2 ∧ e = 1) ∨ (5 ≤ n ∧ e = 1) then (if (s.pstate = 3 ∨ s.pstate = 4) ∧ !s.pw.wakePend then .down else .up)
  else .up

/-- The shared ends (R351). -/
def mbShared (n e : Nat) : Bool := decide ((n = 2 ∧ e = 0) ∨ (5 ≤ n ∧ e = 1))

/-- The parties of an end: a party reaches only the blocks of its own ends (R351). -/
def mbOwn (n e : Nat) (p : Party) : Bool :=
  match p with
  | .control => decide ((n ≤ 1 ∧ e = 1) ∨ (2 ≤ n ∧ e = 0))
  | .engine => decide (n = 0 ∧ e = 0)
  | .sideband => decide (n = 1 ∧ e = 0)
  | .security => decide (n = 2 ∧ e = 1)
  | .management => decide ((n = 2 ∧ e = 0) ∨ ((n = 3 ∨ 5 ≤ n) ∧ e = 1))
  | .peer => decide (n = 4 ∧ e = 1)
  | .debug => decide (5 ≤ n ∧ e = 1)

/-- The party may use the end: it holds the lock where the end is shared (R355). -/
def State.mbMay (s : State) (h n e : Nat) (p : Party) : Bool :=
  !mbShared n e || (s.mbxEnd (mbKey h n e)).owner == p.num

/-- MBX_TXD: a word appended, or discarded (R352, R355). A party that has no block of the end does not reach it: here as in the other
registers its access has no effect (R351; log entry 122). -/
def execMbxTxdWrite (h : Hub) (n : Fin 8) (e : Fin 2) (p : Party) (w : Word) (s : State) :
    Host.Outcome State Fault Refusal :=
  let x := s.mbxEnd (mbKey h n e)
  let drop := fun s : State => s.bump (mbBase h n e + 0x28) 1
  if !mbOwn n e p then .next s
  else if !s.mbMay h n e p then .next ((drop s).mbPost h n e 0x07F1)
  else if x.busy then .next (drop s)
  else if 8 ≤ x.send.length then .next (drop (s.setMbx (mbKey h n e) { x with ovf := true }))
  else .next (s.setMbx (mbKey h n e) { x with send := x.send ++ [w] })

/-- MBX_DB.ring (R352, R354). -/
def execMbxDbRing (h : Hub) (n : Fin 8) (e : Fin 2) (p : Party) (s : State) : Host.Outcome State Fault Refusal :=
  let k := mbKey h n e
  let x := s.mbxEnd k
  if !mbOwn n e p then .next s
  else if !s.mbMay h n e p then .next ((s.bump (mbBase h n e + 0x28) 1).mbPost h n e 0x07F1)
  else if x.busy then .next (s.bump (mbBase h n e + 0x28) 1)
  else if x.ovf then
    .next (((s.setMbx k { x with send := [], ovf := false }).bump (mbBase h n e + 0x28) x.send.length).mbPost h n e 0x07F0)
  else if x.send = [] then .next s
  else
    match s.domain h n (1 - e) with
    | .up => .next (s.mbDeliver h n e x.send)
    | .down => .next ((s.setMbx k { x with busy := true, waking := true, sentAt := s.now }).wake)
    | .unpowered => .next ((s.setMbx k { x with send := [] }).mbPost h n e 0x0402)

/-- MBX_DB.flush (R352). -/
def execMbxDbFlush (h : Hub) (n : Fin 8) (e : Fin 2) (p : Party) (s : State) : Host.Outcome State Fault Refusal :=
  let x := s.mbxEnd (mbKey h n e)
  if !mbOwn n e p then .next s
  else if !s.mbMay h n e p then .next ((s.bump (mbBase h n e + 0x28) 1).mbPost h n e 0x07F1)
  else if x.busy then .next (s.bump (mbBase h n e + 0x28) 1)
  else .next (s.setMbx (mbKey h n e) { x with send := [], ovf := false })

/-- MBX_RXD: the oldest unread word removed; 0 when none (R353). -/
def execMbxRxdRead (h : Hub) (n : Fin 8) (e : Fin 2) (s : State) : Host.Outcome State Fault Refusal :=
  let x := s.mbxEnd (mbKey h n e)
  match x.recv with
  | some (w :: ws) => .next { s.setMbx (mbKey h n e) { x with recv := some ws } with rdata := w }
  | _ => .next { s with rdata := 0 }

/-- MBX_ACK (R353). -/
def execMbxAckWrite (h : Hub) (n : Fin 8) (e : Fin 2) (w : Word) (s : State) : Host.Outcome State Fault Refusal :=
  .next (s.mbAck h n e (fld w 0 16))

/-- MBX_ACKIN: the code and its valid bit, cleared by the read (R353, R13). -/
def execMbxAckinRead (h : Hub) (n : Fin 8) (e : Fin 2) (s : State) : Host.Outcome State Fault Refusal :=
  let x := s.mbxEnd (mbKey h n e)
  .next { s.setMbx (mbKey h n e) { x with code := 0, valid := false } with
          rdata := word (x.code + b2n x.valid * 65536) }

/-- MBX_LOCK read: 0 to the holder or the new holder, else the owner's number (R355). -/
def execMbxLockRead (h : Hub) (n : Fin 8) (e : Fin 2) (p : Party) (s : State) : Host.Outcome State Fault Refusal :=
  let x := s.mbxEnd (mbKey h n e)
  if !mbOwn n e p then .next { s with rdata := 0 }
  else if x.owner = 0 ∨ x.owner = p.num then
    .next { s.setMbx (mbKey h n e) { x with owner := p.num } with rdata := 0 }
  else .next { s with rdata := word x.owner }

/-- MBX_LOCK.release: frees the lock of its holder (R355). -/
def execMbxLockRelease (h : Hub) (n : Fin 8) (e : Fin 2) (p : Party) (s : State) : Host.Outcome State Fault Refusal :=
  let x := s.mbxEnd (mbKey h n e)
  .next (if mbOwn n e p ∧ x.owner = p.num then s.setMbx (mbKey h n e) { x with owner := 0 } else s)

/-- MBX_IRQ_STAT: a write of 1 clears a bit (R13). -/
def execMbxIrqClear (h : Hub) (n : Fin 8) (e : Fin 2) (w : Word) (s : State) : Host.Outcome State Fault Refusal :=
  let a := mbBase h n e + 0x20
  .next (s.setReg a (s.reg a &&& ~~~ (w &&& 3)))

/-- A message held for a powered-down end is delivered once the domain is up (R354). -/
def execMbxWakeDelivery (h : Hub) (n : Fin 8) (e : Fin 2) (s : State) : Host.Outcome State Fault Refusal :=
  let x := s.mbxEnd (mbKey h n e)
  .next (if x.waking ∧ s.domain h n (1 - e) = .up then s.mbDeliver h n e x.send else s)

/-- An MB4 message unacknowledged for 1 ms posts 0x0506 (R354). -/
def execMb4Timeout (h : Hub) (e : Fin 2) (s : State) : Host.Outcome State Fault Refusal :=
  let x := s.mbxEnd (mbKey h 4 e)
  if x.busy ∧ x.sentAt + 1000000 ≤ s.now then
    let s := s.setMbx (mbKey h 4 e) { x with busy := false, waking := false, send := [] }
    let s := s.setMbx (mbKey h 4 (1 - e)) { s.mbxEnd (mbKey h 4 (1 - e)) with recv := none }
    .next (s.mbPost h 4 e 0x0506)
  else .next s

end Sys2Proof.Machine
end

