-- ==== Sys2Proof/Machine/Registers.lean ====
section
/-! DEFINITION. Register accesses: what a read shows where a register mirrors other state, what a write does (R13, R14, R314,
R317), and the rows that read and write registers. -/

namespace Sys2Proof.Machine

/-! Reads. -/

/-- FRM_STATE (R66, R69, R72). -/
def State.frmState (s : State) (fk : Nat) : Nat :=
  let x := s.frame fk
  x.st.num + x.plane * 8 + b2n x.planeValid * 64 + b2n x.snap.isSome * 128 + b2n x.fault * 256 + x.faultCode * 512

/-- SEQ_STAT. -/
def State.seqStat (s : State) (bk : Nat) : Nat :=
  let x := s.board bk
  let st := if !x.up then 0 else if x.cur.isSome || x.sb != [] then 3 else if x.halted then 1 else 2
  st + x.statPc % 1024 * 4 + b2n x.fault * 4096 + x.faultCode * 8192 + x.sb.length * 65536

/-- LAN_STAT. -/
def State.lanStat (s : State) (bk : Nat) : Nat :=
  b2n (s.die (keyDie bk)).yfirst + nsum ((List.range 4).map fun n => b2n (s.disabled (mapLane bk n)) * 2 ^ (n + 1)) +
    cdiv (s.board bk).keys.length 32 * 32

/-- FRM_CAL_STAT. -/
def State.calStat (s : State) (fk : Nat) : Nat :=
  b2n (s.bankHeld (fkBoard fk) 0) + b2n (s.bankHeld (fkBoard fk) 1) * 2 + b2n (s.frame fk).lastBank * 4

/-- MET_STAT, its isrc_busy apart. -/
def State.metStat (s : State) (u : Nat) : Nat :=
  let m := s.met u
  nsum ((List.range 4).map fun n => b2n (m.selfcal.isSome || (s.conv u n).powered) * 2 ^ n + b2n (decide ((s.conv u n).ph = .failed)) * 2 ^ (4 + n)) +
    b2n m.selfcal.isSome * 256 + b2n m.calValid * 512 + m.queue.length * 1024

/-- MET_CONVn_STAT. -/
def State.convStat (s : State) (u n : Nat) : Nat :=
  let c := s.conv u n
  c.entry + c.done * 32 + b2n (decide (c.ph = .armed)) * 2 ^ 13 + b2n c.urg.isSome * 2 ^ 14 +
    b2n (match c.ph with | .delay _ => true | _ => false) * 2 ^ 15

/-- A die's token totals: issued, consumed, returned (R439). -/
def State.tokenTotal (s : State) (d k : Nat) : Nat :=
  let x := s.die d
  [x.issued, x.consumed, x.returned].getD k 0

/-- MBX_STAT (R352-R354). -/
def State.mbxStat (s : State) (h n e : Nat) : Nat :=
  let x := s.mbxEnd (mbKey h n e)
  let up := match s.domain h n (1 - e) with | .up => true | _ => false
  x.send.length + (match x.recv with | some ws => ws.length | none => 0) * 16 + b2n x.recv.isSome * 256 + b2n x.busy * 512 +
    b2n up * 1024 + b2n x.waking * 2048 + b2n x.ovf * 4096

/-- RNG_STAT (R349). -/
def State.rngStat (s : State) (h : Nat) : Nat :=
  let n := nsum ((s.ringList.filter fun r => ringHub r == h).map fun r => (s.ring r).jobs.length)
  hold 65536 n + b2n ((s.pstate == 2 || s.pstate == 3 || s.pstate == 4) && !s.pw.failN && s.runs h) * 131072

/-- LDG_STAT of a copy: writes complete at once, so busy and margin read 0. -/
def State.ldgStat (s : State) (h : Nat) : Nat :=
  let ok := fun c => b2n (s.lg.ready && s.lg.inServ.getD c false)
  ok h * 2 + ok (1 - h) * 4 + hold 255 s.lg.queue.length * 16 + s.lg.refusal * 4096

/-- Powered hours since the last margin pass (R466). -/
def State.marginHours (s : State) : Nat :=
  match s.lg.marginAt with
  | some t => hold 0xFFFF ((s.now - t) / 3600000000000)
  | none => 0xFFFF

/-- SVC_HB_STAT of a hub (R484, R485, R491): a peer that is out for a live update is not declared failed. -/
def State.hbStat (s : State) (h : Nat) : Nat :=
  let ok := fun p => decide (s.now < mget 0 s.sv.beat (4 * h + p) + 300000) && !s.sv.missed.contains (4 * h + p)
  nsum ((List.range 3).map fun p => b2n (ok p) * 2 ^ p) +
    b2n (!s.sv.alive.getD (1 - h) false && s.sv.update != some (1 - h)) * 8 +
    b2n (s.sv.fenced.getD (1 - h) false) * 16 + b2n (s.sv.owner == some h) * 32 + b2n s.sv.update.isSome * 64

/-- SVC_REP_STAT (R477-R481). -/
def State.repStat (s : State) : Nat :=
  let n := fun b => (s.sv.repairs.filter fun r => r.isBoard == b).length
  hold 255 (n false) + hold 63 (n true) * 256 + hold 255 (s.frames.filter fun e => e.2.covered).length * 16384 +
    b2n (s.wk.scores.any fun e => e.2.degraded) * 2 ^ 22

/-- SPM_SESSn_STAT (R331, R347). -/
def State.sessStat (s : State) (k : Nat) : Nat :=
  let x := s.sess k
  let quiet := match x.throttle with | some t => decide (s.now < t) | none => false
  b2n x.opened + b2n (x.opened && quiet) + x.port.val * 4 + hold 64 x.unacked.length * 8 + x.viol * 65536

/-- What a read of an address shows, before what the read itself changes (R13, R14, R314). -/
def State.peek (s : State) (a : Nat) : Word :=
  match regionOf a with
  | .frame d b f o =>
    let fk := frameKey d b f
    if o = 0x000 then word (f + b * 2 ^ 8 + d * 2 ^ 16)
    else if o = 0x004 then word (s.frmState fk)
    else if o = 0x114 then word (s.wearReg fk)
    else if o = 0xC64 then word (s.calStat fk)
    else if inRange o 0x800 0xC3C 4 then s.reg (trimReg fk (fld (s.reg (fkBase fk + 0xC60)) 0 1) ((o - 0x800) / 4))
    else if inRange o 0xC40 0xC5C 4 then s.reg (gainReg fk (fld (s.reg (fkBase fk + 0xC60)) 0 1) ((o - 0xC40) / 4))
    else s.reg a
  | .board d b o =>
    let bk := boardKey d b
    if o < 0x24000 then word (leNat (s.load a 4))
    else if o = 0x40004 then word (s.seqStat bk)
    else if o = 0x46000 then word (s.lanStat bk)
    else if inRange o 0x41100 0x4111C 4 || inRange o 0x42000 0x43FFC 4 then s.actReg bk o
    else if 0x48000 ≤ o ∧ o < 0x4C000 ∧ o % 8 = 0 then word (pattern 40 (mget 0 (s.board bk).tally ((o - 0x48000) / 8)))
    else s.reg a
  | .die d o =>
    if o = 8 then word (s.metStat d)
    else if inRange o 0x10 0x1C 4 then word (s.convStat d ((o - 0x10) / 4))
    else if inRange o 0x1008 0x1018 8 then word (s.tokenTotal d ((o - 0x1008) / 8))
    else s.reg a
  | .hub h o =>
    let x := o % 0x10000
    match o / 0x10000 with
    | 1 =>
      let y := s.mbxEnd (mbKey h (x / 0x100) (x / 0x80 % 2))
      if 0x800 ≤ x then 0
      else if x % 0x80 = 0x14 then word (s.mbxStat h (x / 0x100) (x / 0x80 % 2))
      else if x % 0x80 = 0x18 then word (if y.owner = Party.control.num then 0 else y.owner)
      else s.reg a
    | 3 => if x = 0 then word (s.rngStat h) else s.reg a
    | 4 => if inRange x 0x100 0x13C 4 then word (s.sessStat (sessKey h ((x - 0x100) / 4))) else s.reg a
    | 5 => if x = 0 then word s.ck.rk else s.reg a
    | 6 =>
      if x = 8 then word (s.metStat (32 + h))
      else if inRange x 0x10 0x1C 4 then word (s.convStat (32 + h) ((x - 0x10) / 4))
      else s.reg a
    | 9 => if x = 0 then word (s.ldgStat h) else if x = 8 then word (s.marginHours + fld (s.reg a) 16 16 * 65536) else s.reg a
    | 10 =>
      if x = 0 then s.reg a ||| word (s.sv.revoked * 1024)
      else if inRange x 0x100 0x17C 4 then word (leAt (s.sv.fused.getD ((x - 0x100) / 0x40) []) (x % 0x40) 4)
      else s.reg a
    | 11 => if x = 0 then word (s.hbStat h) else if x = 4 then word s.repStat else s.reg a
    | _ => s.reg a
  | _ => 0

/-- The state a meaning answers. -/
def taken (o : Host.Outcome State Fault Refusal) (s : State) : State := match o with | .next t => t | _ => s

/-- TLY_SLOT_LO_READ: the low word returned, the slot's other fields latched into the high one (R245). -/
def execTlySlotLoRead (d : Die) (b : Brd) (n : Fin 2048) (s : State) : Host.Outcome State Fault Refusal :=
  let bk := boardKey d b
  let t := pattern 40 (mget 0 (s.board bk).tally n)
  let tag := match mget none (s.board bk).tags n with | some e => pattern 7 e * 256 + 32768 | none => 0
  .next { s.setReg (bkBase bk + 0x48004 + 8 * n) (word (t / 2 ^ 32 + tag)) with rdata := word t }

/-- A read-to-clear register read and cleared; what a read takes from a queue or a mailbox it takes (R13, R73, R353,
R419). -/
def State.readClear (s : State) (a : Nat) : State :=
  let plain := { s.setReg a 0 with rdata := s.reg a }
  let met := fun u => if a - metBase u = 0x70 then taken (execMetQRead (Fin.ofNat 34 u) s) s else plain
  match regionOf a with
  | .die d o => if o < 0x1000 then met d else plain
  | .hub h o =>
    let x := o % 0x10000
    let (hb, n, e) := (Fin.ofNat 2 h, Fin.ofNat 8 (x / 0x100), Fin.ofNat 2 (x / 0x80))
    if o / 0x10000 = 6 then met (32 + h)
    else if o / 0x10000 = 1 ∧ x % 0x80 = 8 then taken (execMbxRxdRead hb n e s) s
    else if o / 0x10000 = 1 ∧ x % 0x80 = 0x10 then taken (execMbxAckinRead hb n e s) s
    else plain
  | _ => plain

/-- COUNTER_READ_CLEAR (R13, R73). -/
def execCounterReadClear (a : Nat) (s : State) : Host.Outcome State Fault Refusal :=
  match regAt a with
  | some i => .next (if i.cls = .rc then s.readClear a else s)
  | none => .next s

/-- A read of an address: latches, clears and locks as the register says (R13, R245, R355, R383, R439). -/
def State.readAt (s : State) (a : Nat) : State :=
  let shown := { s with rdata := s.peek a }
  match regAt a with
  | none => shown
  | some i =>
    if i.cls = .wo then { s with rdata := 0 }
    else if i.cls = .rc then s.readClear a
    else
      match regionOf a with
      | .board d b o =>
        if 0x48000 ≤ o ∧ o % 8 = 0 then taken (execTlySlotLoRead (Fin.ofNat 32 d) (Fin.ofNat 192 b) (Fin.ofNat 2048 ((o - 0x48000) / 8)) s) s
        else shown
      | .die d o =>
        if inRange o 0x1008 0x1018 8 then shown.setReg (a + 4) (word (s.tokenTotal d ((o - 0x1008) / 8) / 2 ^ 32)) else shown
      | .hub h o =>
        let x := o % 0x10000
        if o = 0x50000 then shown.setReg (a + 4) (word (s.ck.rk / 2 ^ 32))
        else if o / 0x10000 = 1 ∧ x % 0x80 = 0x18 then
          taken (execMbxLockRead (Fin.ofNat 2 h) (Fin.ofNat 8 (x / 0x100)) (Fin.ofNat 2 (x / 0x80)) .control s) s
        else shown
      | _ => shown

/-! Writes. -/

/-- DRN_ACT_WRITE: in effect once no unfinished instruction uses the table (R226); until then the write waits. -/
def execDrnActWrite (d : Die) (b : Brd) (t : Fin 8) (i : Fin 256) (w : Word) (s : State) :
    Host.Outcome State Fault Refusal :=
  let bk := boardKey d b
  .next (s.writeAct bk (0x42000 + 1024 * t + 4 * i) w)

/-- The writable bits of a register changed (R13, R14). -/
def State.plainWrite (s : State) (a : Nat) (w : Word) : State :=
  match regAt a with
  | none => s
  | some i =>
    let m := word i.mask
    match i.cls with
    | .ro | .rc => s
    | .w1c => s.setReg a (s.reg a &&& ~~~ (w &&& m))
    | _ => s.setReg a ((s.reg a &&& ~~~ m) ||| (w &&& m))

/-- SCL_EXP: the out fields of a started stage's dynamic streams keep what the board writes (R207). DESIGN CHOICE: a stage counts as
started for as long as its board holds a score, halted or not (log entry 119). -/
def State.writeScl (s : State) (bk k : Nat) (w : Word) : State :=
  let a := bkBase bk + 0x44000 + 4 * k
  let dyn := fun slot => (s.board bk).score.isSome && (List.range 16).any fun n =>
    s.strDyn bk n && decide (s.strSlot0 bk n ≤ slot ∧ slot < s.strSlot0 bk n + s.strN bk n)
  let old := s.reg a
  let w := w &&& 0x3F3F3F3F
  let w := if dyn (2 * k) then put w 8 6 (fld old 8 6) else w
  let w := if dyn (2 * k + 1) then put w 24 6 (fld old 24 6) else w
  s.setReg a w

/-- A write to a metrology unit (R406, R412, R415-R422, R424, R426, R427). -/
def State.writeMet (s : State) (u o : Nat) (w : Word) : State :=
  let a := metBase u + o
  let v := Fin.ofNat 34 u
  if o = 0 then taken (execMetCtlWrite v w s) s
  else if o = 4 then
    let s := if bit w 0 then taken (execMetCmdSelfcal v s) s else s
    let s := if bit w 1 then taken (execMetCmdFlush v s) s else s
    if bit w 2 ∧ u = 32 then taken (execMetExternalEvent true s) s else s
  else if o = 0x78 then taken (execMetProbeWrite v w s) s
  else if o = 0x7C then taken (execMetIsrcWrite v w s) s
  else if o = 0x98 then taken (execMetWinStatClear v w s) s
  else if inRange o 0xA0 0xB8 8 then taken (execMetUrgentRequest v (Fin.ofNat 4 ((o - 0xA0) / 8)) w s) s
  else if inRange o 0x20 0x5C 4 ∧ (o - 0x20) % 16 < 8 ∧ (s.met u).selfcal.isSome then s
  else if o = 0x60 ∨ o = 0x64 then
    let s := s.plainWrite a w
    s.setMet u { s.met u with spent := false }
  else if inRange o 0x200 0x3FC 4 then
    if chanOk u (fld w 0 6) ∧ filterOk (fld w 23 4) then s.writeEntry u ((o - 0x200) / 0x80) ((o - 0x200) % 0x80 / 4) w else s
  else if inRange o 0x400 0x478 8 then (if chanOk u (fld w 24 6) then s.plainWrite a w else s)
  else s.plainWrite a w

/-- A write to a frame's window. -/
def State.writeFrm (s : State) (d b f o : Nat) (w : Word) (seq : Bool := false) : State :=
  let (d, b, f) := (Fin.ofNat 32 d, Fin.ofNat 192 b, Fin.ofNat 34 f)
  let fk := frameKey d b f
  let a := fkBase fk + o
  if o = 0x008 then (if bit w 0 then taken (execFrmCommit d b f s) s else s)
  else if o = 0x00C then
    match fld w 0 3 with
    | 1 => taken (execFrmCtlIdle d b f s) s
    | 2 => taken (execFrmCtlRepair d b f s) s
    | 3 => taken (execFrmCtlSpare d b f s) s
    | 4 => taken (execFrmCtlRetire d b f s) s
    | 5 => taken (execFrmCtlClearFault d b f s) s
    | _ => s
  else if o = 0x100 then
    let s := if bit w 0 then taken (execFrmPrgStart d b f s) s else s
    if bit w 1 then taken (execFrmPrgAbort d b f s) s else s
  else if o = 0x104 ∧ (s.frame fk).prg.isSome then s
  else if o = 0x118 then taken (execFrmPrgFeed d b f w s) s
  -- a sequencer does not change FRM_MODE.integ and FRM_MODE.range (R124)
  else if o = 0x10 ∧ seq then s.plainWrite a (put w 0 4 (fld (s.reg a) 0 4))
  else if inRange o 0x800 0xC5C 4 then taken (execCalRegisterWrite d b f (Fin.ofNat 280 ((o - 0x800) / 4)) w s) s
  else s.plainWrite a w

/-- A write to a board's window: its slate and score memory by words, its registers (R207, R226, R315). -/
def State.writeBrd (s : State) (d b o : Nat) (w : Word) : State :=
  let d : Die := Fin.ofNat 32 d
  let b : Brd := Fin.ofNat 192 b
  let bk := boardKey d b
  let a := bkBase bk + o
  if o < 0x24000 then s.store a (leBytes 4 w.toNat)
  else if o = 0x40000 then
    let s := if bit w 0 then taken (execSeqCtlRun d b s) s else s
    let s := if bit w 1 then taken (execSeqCtlHalt d b s) s else s
    if bit w 2 then taken (execSeqCtlClear d b s) s else s
  else if inRange o 0x42000 0x43FFC 4 then
    taken (execDrnActWrite d b (Fin.ofNat 8 ((o - 0x42000) / 1024)) (Fin.ofNat 256 ((o - 0x42000) % 1024 / 4)) w s) s
  else if inRange o 0x41100 0x4111C 4 then
    s.writeAct bk o (w &&& 0x3FFFFF)
  else if inRange o 0x44000 0x44FFC 4 then s.writeScl bk ((o - 0x44000) / 4) w
  else if 0x46800 ≤ o ∧ o < 0x46900 ∧ o % 64 = 0 then
    match (List.range 50).find? fun k => linkBase k == a with
    | some k => let s := if bit w 0 then s.startTrain k else s
                if bit w 1 then s.declareDown k else s
    | none => s
  else s.plainWrite a w

/-- A write to a hub's registers. -/
def State.writeHub (s : State) (h o : Nat) (w : Word) : State :=
  let a := hubBase h + o
  let x := o % 0x10000
  match o / 0x10000 with
  | 1 =>
    let (hb, n, e) := (Fin.ofNat 2 h, Fin.ofNat 8 (x / 0x100), Fin.ofNat 2 (x / 0x80))
    if 0x800 ≤ x then s
    else
      match x % 0x80 with
      | 0 => taken (execMbxTxdWrite hb n e .control w s) s
      | 4 =>
        let s := if bit w 0 then taken (execMbxDbRing hb n e .control s) s else s
        if bit w 1 then taken (execMbxDbFlush hb n e .control s) s else s
      | 0xC => taken (execMbxAckWrite hb n e w s) s
      | 0x18 => if bit w 3 then taken (execMbxLockRelease hb n e .control s) s else s
      | 0x20 => taken (execMbxIrqClear hb n e w s) s
      | _ => s.plainWrite a w
  | 2 =>
    if x % 64 = 0 ∧ x < 576 then
      let k := hubEnd h (x / 64)
      let s := if bit w 0 then s.startTrain k else s
      if bit w 1 then s.declareDown k else s
    else s
  | 6 => s.writeMet (32 + h) x w
  | _ => s.plainWrite a w

/-- A write of an address; memory outside the register ranges is not reached by it (R314, R317). -/
def State.writeAt (s : State) (a : Nat) (w : Word) (seq : Bool := false) : State :=
  match regionOf a with
  | .frame d b f o => s.writeFrm d b f o w seq
  | .board d b o => if o < 0x24000 ∨ (regAt a).isSome then s.writeBrd d b o w else s
  | .die d o => if o < 0x1000 ∧ (regAt a).isSome then s.writeMet d o w else s
  | .hub h o => if (regAt a).isSome then s.writeHub h o w else s
  | _ => s

/-- An address lies in a register block or in a memory that a REG packet reaches (R314-R317). -/
def assigned (a : Nat) : Bool :=
  match regionOf a with
  | .frame _ _ _ o => decide (o < 0xC80)
  | .board _ _ o =>
    decide (o < 0x24000 ∨ (0x40000 ≤ o ∧ o < 0x40400) ∨ (0x41000 ≤ o ∧ o < 0x45108) ∨ (0x46000 ≤ o ∧ o < 0x46500) ∨
      (0x46800 ≤ o ∧ o < 0x46900) ∨ (0x48000 ≤ o ∧ o < 0x4C000))
  | .die _ _ => true
  | .hub _ o => decide (o / 0x10000 ≤ 11 ∨ o / 0x10000 = 16)
  | _ => false

/-- An address is assigned and its domain is powered: an array die's boards while the die is on, its metrology while the unit is, a hub's
registers outside Off (R433). -/
def State.reachable (s : State) (a : Nat) : Bool :=
  assigned a && match regionOf a with
  | .frame d _ _ _ | .board d _ _ => (s.die d).on
  | .die d o => (s.die d).on || (decide (o < 0x1000) && (s.met d).on)
  | .hub _ _ => s.pstate != 0
  | _ => false

/-- REGISTER_WRITE: by access class (R13, R14). -/
def execRegisterWrite (a : RegAt) (w : Word) (s : State) : Host.Outcome State Fault Refusal :=
  .next (if s.reachable a.addr then s.writeAt (a.addr / 4 * 4) w a.seq else s)

/-- REG_PACKET: a read or a write by Porell over the control channel, of the address its flit names, and of the flit's data
word (log entry 27); an unassigned address is counted, reads as poison, which the model shows as 0, and its writes are discarded (R270, R314,
R317). -/
def execRegPacket (p : Pkt) (wr : Bool) (a : Nat) (s : State) : Host.Outcome State Fault Refusal :=
  match s.accept p with
  | (s, false) => .next s
  | (s, true) =>
    if !s.reachable a then
      let s := if p.dstNode < 32 ∧ p.member.getD p.dstBoard < 192 then s.bump (bkBase (pktDst p) + 0x46088) 1 else s
      .next (if wr then s else { s with rdata := 0 })
    else if wr then .next (s.writeAt (a / 4 * 4) (word (leAt p.payload 0 4)))
    else .next (s.readAt (a / 4 * 4))

end Sys2Proof.Machine
end

