-- ==== Sys2Proof/Machine/Dispatch.lean ====
section
/-! DEFINITION. One arm per command: a direct call of its meaning, or a refusal by name. -/

namespace Sys2Proof.Machine

def exec (i : Instr) (s : State) : Host.Outcome State Fault Refusal :=
  match i with
  | .devInfo r => Sys2Proof.Machine.execDevInfo r s
  | .devState r => Sys2Proof.Machine.execDevState r s
  | .devPower r => Sys2Proof.Machine.execDevPower r s
  | .devReset r => Sys2Proof.Machine.execDevReset r s
  | .devPort r => Sys2Proof.Machine.execDevPort r s
  | .devEvents r => Sys2Proof.Machine.execDevEvents r s
  | .scoreLoad r f sig => Sys2Proof.Machine.execScoreLoad r f sig s
  | .scoreAbort r => Sys2Proof.Machine.execScoreAbort r s
  | .scoreRetire r => Sys2Proof.Machine.execScoreRetire r s
  | .scoreInfo r => Sys2Proof.Machine.execScoreInfo r s
  | .scoreList r => Sys2Proof.Machine.execScoreList r s
  | .beadOpen r => Sys2Proof.Machine.execBeadOpen r s
  | .beadClose r => Sys2Proof.Machine.execBeadClose r s
  | .beadPlane r => Sys2Proof.Machine.execBeadPlane r s
  | .beadWear r => Sys2Proof.Machine.execBeadWear r s
  | .calStatus r => Sys2Proof.Machine.execCalStatus r s
  | .calRecount r => Sys2Proof.Machine.execCalRecount r s
  | .calRecal r => Sys2Proof.Machine.execCalRecal r s
  | .calFactory r => Sys2Proof.Machine.execCalFactory r s
  | .calMeasure r => Sys2Proof.Machine.execCalMeasure r s
  | .ringCfg r => Sys2Proof.Machine.execRingCfg r s
  | .ringAttach r => Sys2Proof.Machine.execRingAttach r s
  | .ringDetach r => Sys2Proof.Machine.execRingDetach r s
  | .ringPause r => Sys2Proof.Machine.execRingPause r s
  | .ringResume r => Sys2Proof.Machine.execRingResume r s
  | .ringHreset r => Sys2Proof.Machine.execRingHreset r s
  | .ringStat r => Sys2Proof.Machine.execRingStat r s
  | .ringDelete r => Sys2Proof.Machine.execRingDelete r s
  | .jobHandle r => Sys2Proof.Machine.execJobHandle r s
  | .jobFree r => Sys2Proof.Machine.execJobFree r s
  | .jobCancel r => Sys2Proof.Machine.execJobCancel r s
  | .jobFetch r => Sys2Proof.Machine.execJobFetch r s
  | .jobPagesFree r => Sys2Proof.Machine.execJobPagesFree r s
  | .jobCkpt r => Sys2Proof.Machine.execJobCkpt r s
  | .jobRestore r => Sys2Proof.Machine.execJobRestore r s
  | .syncStat r => Sys2Proof.Machine.execSyncStat r s
  | .syncCfg r => Sys2Proof.Machine.execSyncCfg r s
  | .syncNow r => Sys2Proof.Machine.execSyncNow r s
  | .metRead r => Sys2Proof.Machine.execMetRead r s
  | .metSeq r => Sys2Proof.Machine.execMetSeq r s
  | .metWin r => Sys2Proof.Machine.execMetWin r s
  | .metSelfcal r => Sys2Proof.Machine.execMetSelfcal r s
  | .metDump r => Sys2Proof.Machine.execMetDump r s
  | .thmRead r => Sys2Proof.Machine.execThmRead r s
  | .thmPolicy r => Sys2Proof.Machine.execThmPolicy r s
  | .thmRetire r => Sys2Proof.Machine.execThmRetire r s
  | .pwrRead r => Sys2Proof.Machine.execPwrRead r s
  | .pwrPolicy r => Sys2Proof.Machine.execPwrPolicy r s
  | .ldgRead r => Sys2Proof.Machine.execLdgRead r s
  | .ldgWrite r => Sys2Proof.Machine.execLdgWrite r s
  | .ldgCounter r => Sys2Proof.Machine.execLdgCounter r s
  | .ldgUnlock r => Sys2Proof.Machine.execLdgUnlock r s
  | .ldgPasswd r => Sys2Proof.Machine.execLdgPasswd r s
  | .ldgAudit r => Sys2Proof.Machine.execLdgAudit r s
  | .secChallenge r => Sys2Proof.Machine.execSecChallenge r s
  | .secAuth r sig => Sys2Proof.Machine.execSecAuth r sig s
  | .secDrop r => Sys2Proof.Machine.execSecDrop r s
  | .secCak r opened => Sys2Proof.Machine.execSecCak r opened s
  | .secIkey r sig => Sys2Proof.Machine.execSecIkey r sig s
  | .secAttest r => Sys2Proof.Machine.execSecAttest r s
  | .secFw r sig => Sys2Proof.Machine.execSecFw r sig s
  | .secDebug r => Sys2Proof.Machine.execSecDebug r s
  | .logRead r => Sys2Proof.Machine.execLogRead r s
  | .logTelem r => Sys2Proof.Machine.execLogTelem r s
  | .logJournal r => Sys2Proof.Machine.execLogJournal r s
  | .logExport r => Sys2Proof.Machine.execLogExport r s
  | .logReplay r => Sys2Proof.Machine.execLogReplay r s
  | .svcMapRead r => Sys2Proof.Machine.execSvcMapRead r s
  | .svcMapEdit r => Sys2Proof.Machine.execSvcMapEdit r s
  | .svcRepair r => Sys2Proof.Machine.execSvcRepair r s
  | .svcSwap r => Sys2Proof.Machine.execSvcSwap r s
  | .svcLimits r => Sys2Proof.Machine.execSvcLimits r s
  | .sprinmosCommand m => Sys2Proof.Machine.execSprinmosCommand m s
  | .commandResponse h => Sys2Proof.Machine.execCommandResponse h s
  | .ringPush m => Sys2Proof.Machine.execRingPush m s
  | .dataMessage m => Sys2Proof.Machine.execDataMessage m s
  | .hostAck m => Sys2Proof.Machine.execHostAck m s
  | .hostNak m => Sys2Proof.Machine.execHostNak m s
  | .retransmitTimeout h n => Sys2Proof.Machine.execRetransmitTimeout h n s
  | .sessionIdleTimeout h n => Sys2Proof.Machine.execSessionIdleTimeout h n s
  | .throttleExpiry h n => Sys2Proof.Machine.execThrottleExpiry h n s
  | .ethernetFrameRx f => Sys2Proof.Machine.execEthernetFrameRx f s
  | .portLinkChange h up speed => Sys2Proof.Machine.execPortLinkChange h up speed s
  | .mkaRekey h => Sys2Proof.Machine.execMkaRekey h s
  | .timePortFallback => Sys2Proof.Machine.execTimePortFallback s
  | .smbusBlockWrite adr pec bs => Sys2Proof.Machine.execSmbusBlockWrite adr pec bs s
  | .smbusBlockRead adr pec => Sys2Proof.Machine.execSmbusBlockRead adr pec s
  | .smbusReadByte adr pec => Sys2Proof.Machine.execSmbusReadByte adr pec s
  | .sidebandFailover => Sys2Proof.Machine.execSidebandFailover s
  | .mbxTxdWrite h n e p w => Sys2Proof.Machine.execMbxTxdWrite h n e p w s
  | .mbxDbRing h n e p => Sys2Proof.Machine.execMbxDbRing h n e p s
  | .mbxDbFlush h n e p => Sys2Proof.Machine.execMbxDbFlush h n e p s
  | .mbxRxdRead h n e => Sys2Proof.Machine.execMbxRxdRead h n e s
  | .mbxAckWrite h n e w => Sys2Proof.Machine.execMbxAckWrite h n e w s
  | .mbxAckinRead h n e => Sys2Proof.Machine.execMbxAckinRead h n e s
  | .mbxLockRead h n e p => Sys2Proof.Machine.execMbxLockRead h n e p s
  | .mbxLockRelease h n e p => Sys2Proof.Machine.execMbxLockRelease h n e p s
  | .mbxIrqClear h n e w => Sys2Proof.Machine.execMbxIrqClear h n e w s
  | .mbxWakeDelivery h n e => Sys2Proof.Machine.execMbxWakeDelivery h n e s
  | .mb4Timeout h e => Sys2Proof.Machine.execMb4Timeout h e s
  | .frmCommit d b f => Sys2Proof.Machine.execFrmCommit d b f s
  | .commitApply d b f => Sys2Proof.Machine.execCommitApply d b f s
  | .frmCtlIdle d b f => Sys2Proof.Machine.execFrmCtlIdle d b f s
  | .frmCtlRepair d b f => Sys2Proof.Machine.execFrmCtlRepair d b f s
  | .frmCtlSpare d b f => Sys2Proof.Machine.execFrmCtlSpare d b f s
  | .frmCtlRetire d b f => Sys2Proof.Machine.execFrmCtlRetire d b f s
  | .frmCtlClearFault d b f => Sys2Proof.Machine.execFrmCtlClearFault d b f s
  | .calRegisterWrite d b f k w => Sys2Proof.Machine.execCalRegisterWrite d b f k w s
  | .frmPrgStart d b f => Sys2Proof.Machine.execFrmPrgStart d b f s
  | .frmPrgAbort d b f => Sys2Proof.Machine.execFrmPrgAbort d b f s
  | .frmPrgFeed d b f w => Sys2Proof.Machine.execFrmPrgFeed d b f w s
  | .prgRow d b f => Sys2Proof.Machine.execPrgRow d b f s
  | .prgPlaneClose d b f ok => Sys2Proof.Machine.execPrgPlaneClose d b f ok s
  | .prgThermalResume d => Sys2Proof.Machine.execPrgThermalResume d s
  | .prgGrant d b f => Sys2Proof.Machine.execPrgGrant d b f s
  | .seqCtlRun d b => Sys2Proof.Machine.execSeqCtlRun d b s
  | .seqCtlHalt d b => Sys2Proof.Machine.execSeqCtlHalt d b s
  | .seqCtlClear d b => Sys2Proof.Machine.execSeqCtlClear d b s
  | .tlySlotLoRead d b n => Sys2Proof.Machine.execTlySlotLoRead d b n s
  | .drnActWrite d b t k w => Sys2Proof.Machine.execDrnActWrite d b t k w s
  | .counterReadClear a => Sys2Proof.Machine.execCounterReadClear a s
  | .registerWrite a w => Sys2Proof.Machine.execRegisterWrite a w s
  | .stepStart d b c => Sys2Proof.Machine.execStepStart d b c s
  | .seqBeginStep d b => Sys2Proof.Machine.execSeqBeginStep d b s
  | .instructionIssue d b => Sys2Proof.Machine.execInstructionIssue d b s
  | .stroke d b f ecc => Sys2Proof.Machine.execStroke d b f ecc s
  | .tokenGrant d => Sys2Proof.Machine.execTokenGrant d s
  | .strokeEnd d b f conv => Sys2Proof.Machine.execStrokeEnd d b f conv s
  | .confidenceRestroke d b f => Sys2Proof.Machine.execConfidenceRestroke d b f s
  | .rowRamp d b f => Sys2Proof.Machine.execRowRamp d b f s
  | .exactLanePart d b => Sys2Proof.Machine.execExactLanePart d b s
  | .psel d b f => Sys2Proof.Machine.execPsel d b f s
  | .tclr d b => Sys2Proof.Machine.execTclr d b s
  | .trd d b => Sys2Proof.Machine.execTrd d b s
  | .drain d b ecc => Sys2Proof.Machine.execDrain d b ecc s
  | .vmm d b ecc => Sys2Proof.Machine.execVmm d b ecc s
  | .vop d b ecc => Sys2Proof.Machine.execVop d b ecc s
  | .csend d b => Sys2Proof.Machine.execCsend d b s
  | .crecv d b => Sys2Proof.Machine.execCrecv d b s
  | .move d b ecc => Sys2Proof.Machine.execMove d b ecc s
  | .waitrk d b => Sys2Proof.Machine.execWaitrk d b s
  | .waitrkRelease d b => Sys2Proof.Machine.execWaitrkRelease d b s
  | .step d b => Sys2Proof.Machine.execStep d b s
  | .capt d b => Sys2Proof.Machine.execCapt d b s
  | .loop d b => Sys2Proof.Machine.execLoop d b s
  | .endProg d b => Sys2Proof.Machine.execEndProg d b s
  | .jobFailureCancel j => Sys2Proof.Machine.execJobFailureCancel j s
  | .watchdogExpiry d b => Sys2Proof.Machine.execWatchdogExpiry d b s
  | .scoreRefetch d b => Sys2Proof.Machine.execScoreRefetch d b s
  | .carryPacket p => Sys2Proof.Machine.execCarryPacket p s
  | .carryRetry d b => Sys2Proof.Machine.execCarryRetry d b s
  | .scarryPacket p => Sys2Proof.Machine.execScarryPacket p s
  | .sfwdPacket p => Sys2Proof.Machine.execSfwdPacket p s
  | .actPacket p => Sys2Proof.Machine.execActPacket p s
  | .memRdPacket p a n => Sys2Proof.Machine.execMemRdPacket p a n s
  | .memWrPacket p a => Sys2Proof.Machine.execMemWrPacket p a s
  | .memRspPacket p => Sys2Proof.Machine.execMemRspPacket p s
  | .amaxPacket p => Sys2Proof.Machine.execAmaxPacket p s
  | .switchPacket p => Sys2Proof.Machine.execSwitchPacket p s
  | .regPacket p wr a => Sys2Proof.Machine.execRegPacket p wr a s
  | .ackPacket p => Sys2Proof.Machine.execAckPacket p s
  | .reservedPacket p => Sys2Proof.Machine.execReservedPacket p s
  | .poisonPacket p lane => Sys2Proof.Machine.execPoisonPacket p lane s
  | .linkFrameRx l fr => Sys2Proof.Machine.execLinkFrameRx l fr s
  | .linkIdleFrame l => Sys2Proof.Machine.execLinkIdleFrame l s
  | .linkRetrain l => Sys2Proof.Machine.execLinkRetrain l s
  | .linkRetrainDone l ok agree => Sys2Proof.Machine.execLinkRetrainDone l ok agree s
  | .linkSilenceTimeout l => Sys2Proof.Machine.execLinkSilenceTimeout l s
  | .linkDown l => Sys2Proof.Machine.execLinkDown l s
  | .routeFenceComplete l => Sys2Proof.Machine.execRouteFenceComplete l s
  | .beamCtlRetrain l => Sys2Proof.Machine.execBeamCtlRetrain l s
  | .beamCtlDown l => Sys2Proof.Machine.execBeamCtlDown l s
  | .laneRoutingSwitch d => Sys2Proof.Machine.execLaneRoutingSwitch d s
  | .overlappedBoardSwitch slot lb d b => Sys2Proof.Machine.execOverlappedBoardSwitch slot lb d b s
  | .fencedBoardSwitch slot lb d b failed => Sys2Proof.Machine.execFencedBoardSwitch slot lb d b failed s
  | .switchRecordRemoval slot lb => Sys2Proof.Machine.execSwitchRecordRemoval slot lb s
  | .historyCopy slot lb => Sys2Proof.Machine.execHistoryCopy slot lb s
  | .slateScrub d b wi e => Sys2Proof.Machine.execSlateScrub d b wi e s
  | .dramPatrolScrub h blk e => Sys2Proof.Machine.execDramPatrolScrub h blk e s
  | .dramMr4Poll k rate beyond => Sys2Proof.Machine.execDramMr4Poll k rate beyond s
  | .dramRefresh h c => Sys2Proof.Machine.execDramRefresh h c s
  | .dramChannelFail h c ev => Sys2Proof.Machine.execDramChannelFail h c ev s
  | .mirrorResyncDone g => Sys2Proof.Machine.execMirrorResyncDone g s
  | .ringAdmission h => Sys2Proof.Machine.execRingAdmission h s
  | .jobLaunch j => Sys2Proof.Machine.execJobLaunch j s
  | .stepStartIssue j => Sys2Proof.Machine.execStepStartIssue j s
  | .calForcedTimeout j => Sys2Proof.Machine.execCalForcedTimeout j s
  | .intermediateCompletion j => Sys2Proof.Machine.execIntermediateCompletion j s
  | .finalCompletion j => Sys2Proof.Machine.execFinalCompletion j s
  | .replayInject g => Sys2Proof.Machine.execReplayInject g s
  | .recountVisit d b f p => Sys2Proof.Machine.execRecountVisit d b f p s
  | .refreshMigration d b f => Sys2Proof.Machine.execRefreshMigration d b f s
  | .measurementVisit d b f k => Sys2Proof.Machine.execMeasurementVisit d b f k s
  | .calPublication slot => Sys2Proof.Machine.execCalPublication slot s
  | .metConversionEnd u n raw ovr => Sys2Proof.Machine.execMetConversionEnd u n raw ovr s
  | .metEntryDelayEnd u n => Sys2Proof.Machine.execMetEntryDelayEnd u n s
  | .metTrigger u => Sys2Proof.Machine.execMetTrigger u s
  | .metExternalEvent fire => Sys2Proof.Machine.execMetExternalEvent fire s
  | .metUrgentRequest u n w => Sys2Proof.Machine.execMetUrgentRequest u n w s
  | .metCmdSelfcal u => Sys2Proof.Machine.execMetCmdSelfcal u s
  | .metSelfcalDone u meas => Sys2Proof.Machine.execMetSelfcalDone u meas s
  | .metCmdFlush u => Sys2Proof.Machine.execMetCmdFlush u s
  | .metQRead u => Sys2Proof.Machine.execMetQRead u s
  | .metCtlWrite u w => Sys2Proof.Machine.execMetCtlWrite u w s
  | .metConverterWake u n => Sys2Proof.Machine.execMetConverterWake u n s
  | .metProbeWrite u w => Sys2Proof.Machine.execMetProbeWrite u w s
  | .metIsrcWrite u w => Sys2Proof.Machine.execMetIsrcWrite u w s
  | .metWinStatClear u w => Sys2Proof.Machine.execMetWinStatClear u w s
  | .thermalSample u k => Sys2Proof.Machine.execThermalSample u k s
  | .throttleStepFall u => Sys2Proof.Machine.execThrottleStepFall u s
  | .sampleIntervalRise u => Sys2Proof.Machine.execSampleIntervalRise u s
  | .thermalTrip u k => Sys2Proof.Machine.execThermalTrip u k s
  | .autoRestart => Sys2Proof.Machine.execAutoRestart s
  | .tokenTick => Sys2Proof.Machine.execTokenTick s
  | .tokenBalanceCheck => Sys2Proof.Machine.execTokenBalanceCheck s
  | .vinOvercurrent above => Sys2Proof.Machine.execVinOvercurrent above s
  | .brownOut mv => Sys2Proof.Machine.execBrownOut mv s
  | .brownOut1ms => Sys2Proof.Machine.execBrownOut1ms s
  | .brownOut100ms => Sys2Proof.Machine.execBrownOut100ms s
  | .supplyLoss vin vsb => Sys2Proof.Machine.execSupplyLoss vin vsb s
  | .vsbHigh mv => Sys2Proof.Machine.execVsbHigh mv s
  | .pwrFailNAssert => Sys2Proof.Machine.execPwrFailNAssert s
  | .pwrFailNDeassert => Sys2Proof.Machine.execPwrFailNDeassert s
  | .resetNLow ns => Sys2Proof.Machine.execResetNLow ns s
  | .wakeEdge => Sys2Proof.Machine.execWakeEdge s
  | .serviceEnChange level => Sys2Proof.Machine.execServiceEnChange level s
  | .refclkLoss => Sys2Proof.Machine.execRefclkLoss s
  | .idleToDrowsy => Sys2Proof.Machine.execIdleToDrowsy s
  | .idleToDormant => Sys2Proof.Machine.execIdleToDormant s
  | .drowsyEntry => Sys2Proof.Machine.execDrowsyEntry s
  | .dormantEntry => Sys2Proof.Machine.execDormantEntry s
  | .wakeFromDormant => Sys2Proof.Machine.execWakeFromDormant s
  | .wakeFromDrowsy => Sys2Proof.Machine.execWakeFromDrowsy s
  | .overdueRecountWake => Sys2Proof.Machine.execOverdueRecountWake s
  | .ledgerPageWrite => Sys2Proof.Machine.execLedgerPageWrite s
  | .ledgerCounterIncrement k => Sys2Proof.Machine.execLedgerCounterIncrement k s
  | .ledgerPageResolve pg => Sys2Proof.Machine.execLedgerPageResolve pg s
  | .ledgerCounterResolve k => Sys2Proof.Machine.execLedgerCounterResolve k s
  | .ledgerMarginPass slots cells => Sys2Proof.Machine.execLedgerMarginPass slots cells s
  | .ledgerCopyLost h => Sys2Proof.Machine.execLedgerCopyLost h s
  | .ledgerCopyReturn h => Sys2Proof.Machine.execLedgerCopyReturn h s
  | .ledgerReady => Sys2Proof.Machine.execLedgerReady s
  | .heartbeatSend h => Sys2Proof.Machine.execHeartbeatSend h s
  | .heartbeatMiss h path => Sys2Proof.Machine.execHeartbeatMiss h path s
  | .heldPacketResend h => Sys2Proof.Machine.execHeldPacketResend h s
  | .hubRestart h sig => Sys2Proof.Machine.execHubRestart h sig s
  | .frameRepair d b f => Sys2Proof.Machine.execFrameRepair d b f s
  | .boardRepair d b => Sys2Proof.Machine.execBoardRepair d b s
  | .dieLoss d => Sys2Proof.Machine.execDieLoss d s
  | .coldStart vin vsb refclk => Sys2Proof.Machine.execColdStart vin vsb refclk s
  | .secureBoot h sig0 sig1 => Sys2Proof.Machine.execSecureBoot h sig0 sig1 s
  | .dramZeroDone h => Sys2Proof.Machine.execDramZeroDone h s
  | .resetHandshake d skew => Sys2Proof.Machine.execResetHandshake d skew s
  | .reckoningSet t => Sys2Proof.Machine.execReckoningSet t s
  | .syncInEdge => Sys2Proof.Machine.execSyncInEdge s
  | .syncInLoss => Sys2Proof.Machine.execSyncInLoss s
  | .rkCntLoRead h => Sys2Proof.Machine.execRkCntLoRead h s
  | .arrayWake d => Sys2Proof.Machine.execArrayWake d s
  | .trimPass d => Sys2Proof.Machine.execTrimPass d s
  | .planeGainPass d => Sys2Proof.Machine.execPlaneGainPass d s
  | .mapAndScores => Sys2Proof.Machine.execMapAndScores s
  | .ready => Sys2Proof.Machine.execReady s
  | .securityTapAuth sig => Sys2Proof.Machine.execSecurityTapAuth sig s
  | .smbusAlertResponse => Sys2Proof.Machine.execSmbusAlertResponse s
  | .syncOutEdge => Sys2Proof.Machine.execSyncOutEdge s
  | .brownOutEnd => Sys2Proof.Machine.execBrownOutEnd s
  | .staleSensor u k => Sys2Proof.Machine.execStaleSensor u k s
  | .portConfigApply h => Sys2Proof.Machine.execPortConfigApply h s
  | .provisioning step => Sys2Proof.Machine.execProvisioning step s

end Sys2Proof.Machine
end

