-- ==== Sys2Proof/WellFormed.lean ====
section
/-! DEFINITION. Well-formed commands: operands within the widths the spec gives them. -/

namespace Sys2Proof

/-- A request fits a command message: an 8-bit tag, 4-bit counts and at most 7 argument words (R356). -/
def Req.wf (r : Req) : Bool :=
  decide (r.tag < 256) && decide (r.nargs ≤ 7) && decide (r.resv < 16) && decide (r.args.length ≤ 7)

/-- The header fields of a packet fit their widths, and the payload is 0 to 127 flits of 32 bytes (R268, R269). -/
def Pkt.wf (p : Pkt) : Bool :=
  decide (p.type < 16) && decide (p.vc < 4) && decide (p.nflit < 128) && decide (p.dstNode < 64) &&
  decide (p.dstBoard < 256) && decide (p.srcNode < 64) && decide (p.srcBoard < 256) && decide (p.lsrc < 8192) &&
  decide (p.epoch < 2 ^ 16) && decide (p.q < 2 ^ 48) && decide (p.job < 2 ^ 32) && decide (p.step < 2 ^ 32) &&
  decide (p.ordinal < 4096) && decide (p.addr < 2 ^ 19) && decide (p.hcrc < 2 ^ 32) &&
  (p.payload.length + 31) / 32 == p.nflit

/-- A step context fits the widths of R210. -/
def StepCtx.wf (c : StepCtx) : Bool :=
  decide (c.job < 2 ^ 32) && decide (c.step < 2 ^ 32) && decide (c.seed < 2 ^ 64) && decide (c.launch < 2 ^ 64) &&
  decide (c.valid.length ≤ 4) && c.valid.all (fun v => decide (v < 2 ^ 13)) && decide (c.epoch < 2 ^ 16) &&
  decide (c.ctx < 64) && decide (c.capture < 3)

/-- A register access is to a word-aligned 48-bit address (R12, R314). -/
def addrWf (a : Nat) : Bool := decide (a < 2 ^ 48) && a % 4 == 0

/-- The logical board of a switch is one of R15. -/
def lbWf (lb : Nat) : Bool := decide (lb < 6144)

/-- The commands whose operands lie within the spec's widths; commands not named here carry only operands whose
types already do. -/
def WellFormed (i : Instr) : Bool :=
  match i with
  | .devInfo r | .devState r | .devPower r | .devReset r | .devPort r | .devEvents r | .scoreAbort r | .scoreRetire r
  | .scoreInfo r | .scoreList r | .beadOpen r | .beadClose r | .beadPlane r | .beadWear r | .calStatus r
  | .calRecount r | .calRecal r | .calFactory r | .calMeasure r | .ringCfg r | .ringAttach r | .ringDetach r
  | .ringPause r | .ringResume r | .ringHreset r | .ringStat r | .ringDelete r | .jobHandle r | .jobFree r
  | .jobCancel r | .jobFetch r | .jobPagesFree r | .jobCkpt r | .jobRestore r | .syncStat r | .syncCfg r
  | .syncNow r | .metRead r | .metSeq r | .metWin r | .metSelfcal r | .metDump r | .thmRead r | .thmPolicy r
  | .thmRetire r | .pwrRead r | .pwrPolicy r | .ldgRead r | .ldgWrite r | .ldgCounter r | .ldgUnlock r
  | .ldgPasswd r | .ldgAudit r | .secChallenge r | .secDrop r | .secAttest r | .secDebug r | .logRead r
  | .logTelem r | .logJournal r | .logExport r | .logReplay r | .svcMapRead r | .svcMapEdit r | .svcRepair r
  | .svcSwap r | .svcLimits r => r.wf
  | .scoreLoad r _ _ | .secAuth r _ | .secCak r _ | .secIkey r _ | .secFw r _ => r.wf
  | .counterReadClear a => addrWf a
  | .registerWrite a _ => addrWf a.addr
  | .stepStart _ _ c => c.wf
  | .carryPacket p | .scarryPacket p | .sfwdPacket p | .actPacket p | .memRspPacket p | .amaxPacket p
  | .switchPacket p | .ackPacket p | .reservedPacket p | .poisonPacket p _ => p.wf
  | .memRdPacket p a n => p.wf && decide (a + n ≤ 2 ^ 48)
  | .memWrPacket p a | .regPacket p _ a => p.wf && decide (a < 2 ^ 48)
  | .overlappedBoardSwitch _ lb _ _ | .fencedBoardSwitch _ lb _ _ _ | .switchRecordRemoval _ lb
  | .historyCopy _ lb => lbWf lb
  | .smbusBlockWrite _ _ bs => decide (4 ≤ bs.length ∧ bs.length ≤ 32)
  | .dramPatrolScrub _ blk _ => decide (blk < 260046848)
  | .jobFailureCancel j | .jobLaunch j | .stepStartIssue j | .calForcedTimeout j | .intermediateCompletion j
  | .finalCompletion j => decide (j < 2 ^ 32)
  | .reckoningSet t => decide (t < 2 ^ 64)
  | _ => true

end Sys2Proof
end

