-- ==== Sys2Proof/Safety.lean ====
section
/-! DEFINITION. The terms the statements use: sound states, the command messages of the opcode table with their rows of
R368, and what it means that one is admitted. -/

namespace Sys2Proof.Machine

/-- The memory, register and bead maps list strictly rising keys and no entry equal to its default (log entry 3). -/
def State.wf (s : State) : Bool :=
  Memory.wf s.mem && mwf regReset s.regs && mwf regReset s.live && mwf beadDefault s.beads

/-- The parts of the state beside the queue. -/
inductive Part where
  | now | fresh | rdata | sent | evlog | regs | live | mem | beads | side | frames | boards
  | dies | mets | ck | pw | th | hl | wk | fb | ms | lg | sv
deriving DecidableEq, Repr

/-- A part of the state is the same in both. -/
def State.same (p : Part) (s t : State) : Prop :=
  match p with
  | .now => t.now = s.now
  | .fresh => t.fresh = s.fresh
  | .rdata => t.rdata = s.rdata
  | .sent => t.sent = s.sent
  | .evlog => t.evlog = s.evlog
  | .regs => t.regs = s.regs
  | .live => t.live = s.live
  | .mem => t.mem = s.mem
  | .beads => t.beads = s.beads
  | .side => t.side = s.side
  | .frames => t.frames = s.frames
  | .boards => t.boards = s.boards
  | .dies => t.dies = s.dies
  | .mets => t.mets = s.mets
  | .ck => t.ck = s.ck
  | .pw => t.pw = s.pw
  | .th => t.th = s.th
  | .hl => t.hl = s.hl
  | .wk => t.wk = s.wk
  | .fb => t.fb = s.fb
  | .ms => t.ms = s.ms
  | .lg => t.lg = s.lg
  | .sv => t.sv = s.sv

/-- The parts of the state a command may change beside the queue; every other part is as before it. -/
def Instr.changes (i : Instr) : List Part :=
  match i with
  | .devInfo _ | .devState _ | .devEvents _ | .scoreList _ | .calStatus _ | .syncStat _ | .syncNow _
  | .metRead _ | .thmRead _ | .pwrRead _ | .secChallenge _ => [.fresh, .regs, .hl]
  | .devPower _ | .calRecal _ | .calFactory _ | .pwrPolicy _ | .ldgUnlock _ | .ldgPasswd _ =>
    [.fresh, .regs, .pw, .hl, .lg]
  | .devReset _ | .supplyLoss _ _ | .resetNLow _ =>
    [.now, .fresh, .rdata, .sent, .evlog, .regs, .live, .mem, .beads, .side, .frames, .boards, .dies, .mets,
     .ck, .pw, .th, .hl, .wk, .fb, .ms, .lg, .sv]
  | .devPort _ | .syncCfg _ | .metWin _ | .ldgWrite _ | .ldgCounter _ | .secAuth _ _ | .secDrop _ | .secCak _ _
  | .secIkey _ _ | .secDebug _ | .svcMapEdit _ => [.fresh, .regs, .hl, .lg]
  | .scoreLoad _ _ _ =>
    [.fresh, .sent, .evlog, .regs, .live, .mem, .frames, .boards, .dies, .pw, .hl, .wk, .fb, .lg, .sv]
  | .scoreAbort _ | .scoreRetire _ =>
    [.fresh, .sent, .evlog, .regs, .frames, .boards, .dies, .pw, .hl, .wk, .fb, .lg, .sv]
  | .scoreInfo _ | .beadPlane _ | .beadWear _ | .ringDetach _ | .ringStat _ => [.fresh, .regs, .pw, .hl]
  | .beadOpen _ | .beadClose _ | .ringPause _ | .ringResume _ | .jobHandle _ | .jobFree _ | .jobPagesFree _
  | .jobCkpt _ => [.fresh, .regs, .pw, .hl, .wk]
  | .calRecount _ => [.fresh, .regs, .pw, .hl, .lg, .sv]
  | .calMeasure _ => [.fresh, .regs, .frames, .pw, .hl]
  | .ringCfg _ => [.fresh, .regs, .mem, .pw, .hl, .wk, .lg]
  | .ringAttach _ => [.fresh, .sent, .regs, .pw, .hl, .wk]
  | .ringHreset _ => [.fresh, .regs, .mem, .pw, .hl]
  | .ringDelete _ => [.fresh, .regs, .pw, .hl, .wk, .lg]
  | .jobCancel _ => [.fresh, .sent, .evlog, .regs, .live, .mem, .frames, .boards, .dies, .pw, .hl, .wk, .fb, .sv]
  | .jobFetch _ => [.fresh, .sent, .regs, .pw, .hl]
  | .jobRestore _ => [.fresh, .regs, .mem, .pw, .hl, .wk, .sv]
  | .metSeq _ => [.fresh, .regs, .mets, .hl, .lg]
  | .metSelfcal _ => [.fresh, .regs, .mets, .hl]
  | .metDump _ => [.fresh, .sent, .regs, .mets, .hl, .wk]
  | .thmPolicy _ => [.fresh, .sent, .evlog, .regs, .th, .hl, .lg]
  | .thmRetire _ => [.fresh, .sent, .evlog, .regs, .th, .hl, .lg, .sv]
  | .ldgRead _ | .ldgAudit _ | .secAttest _ | .logRead _ | .logTelem _ | .logExport _ | .svcMapRead _ =>
    [.fresh, .sent, .regs, .hl, .wk]
  | .secFw _ _ => [.fresh, .regs, .pw, .hl, .wk, .lg, .sv]
  | .logJournal _ | .svcSwap _ => [.fresh, .regs, .hl, .wk, .lg, .sv]
  | .logReplay _ => [.fresh, .regs, .mem, .hl, .wk, .lg]
  | .svcRepair _ => [.fresh, .regs, .frames, .boards, .hl, .lg]
  | .svcLimits _ => [.fresh, .regs, .th, .hl, .lg]
  | .sprinmosCommand _ | .ringPush _ | .dataMessage _ | .hostAck _ | .hostNak _ | .ethernetFrameRx _ =>
    [.fresh, .sent, .evlog, .regs, .pw, .hl, .wk, .lg, .sv]
  | .commandResponse _ => [.fresh, .sent, .regs, .hl]
  | .retransmitTimeout _ _ => [.sent, .regs, .hl, .wk, .lg]
  | .sessionIdleTimeout _ _ => [.regs, .hl, .wk, .lg]
  | .throttleExpiry _ _ | .sidebandFailover | .mbxLockRelease _ _ _ _ => [.hl]
  | .portLinkChange _ _ _ => [.fresh, .sent, .evlog, .regs, .hl]
  | .mkaRekey _ => [.fresh, .hl]
  | .timePortFallback | .mbxIrqClear _ _ _ _ | .calRegisterWrite _ _ _ _ _ | .metProbeWrite _ _
  | .metIsrcWrite _ _ | .metWinStatClear _ _ | .syncInLoss => [.regs]
  | .smbusBlockWrite _ _ _ | .mbxTxdWrite _ _ _ _ _ | .mbxDbFlush _ _ _ _ | .mbxAckWrite _ _ _ _
  | .mbxWakeDelivery _ _ _ | .mb4Timeout _ _ => [.regs, .hl]
  | .smbusBlockRead _ _ | .smbusAlertResponse => [.sent, .hl]
  | .smbusReadByte _ _ => [.rdata, .sent]
  | .mbxDbRing _ _ _ _ | .wakeEdge | .overdueRecountWake => [.regs, .pw, .hl]
  | .mbxRxdRead _ _ _ | .mbxAckinRead _ _ _ | .mbxLockRead _ _ _ _ => [.rdata, .hl]
  | .frmCommit _ _ _ | .commitApply _ _ _ => [.evlog, .regs, .live, .frames]
  | .frmCtlIdle _ _ _ | .frmCtlSpare _ _ _ | .frmCtlClearFault _ _ _ | .frmPrgFeed _ _ _ _ | .prgThermalResume _
  | .rowRamp _ _ _ => [.frames]
  | .frmCtlRepair _ _ _ | .frmPrgStart _ _ _ | .prgGrant _ _ _ => [.regs, .frames, .dies]
  | .frmCtlRetire _ _ _ => [.regs, .frames, .dies, .lg, .sv]
  | .frmPrgAbort _ _ _ => [.sent, .evlog, .regs, .live, .frames, .boards, .dies, .hl, .wk, .fb, .lg, .sv]
  | .prgRow _ _ _ =>
    [.fresh, .sent, .evlog, .regs, .live, .beads, .side, .frames, .boards, .dies, .hl, .wk, .fb, .lg, .sv]
  | .prgPlaneClose _ _ _ _ =>
    [.fresh, .sent, .evlog, .regs, .live, .mem, .frames, .boards, .dies, .mets, .hl, .wk, .fb, .lg, .sv]
  | .seqCtlRun _ _ => [.live, .boards]
  | .seqCtlHalt _ _ | .seqCtlClear _ _ | .seqBeginStep _ _ => [.boards]
  | .tlySlotLoRead _ _ _ | .rkCntLoRead _ => [.rdata, .regs]
  | .drnActWrite _ _ _ _ _ => [.regs, .boards]
  | .counterReadClear _ => [.rdata, .regs, .mets, .hl]
  | .registerWrite _ _ | .brownOut100ms | .pwrFailNAssert =>
    [.sent, .evlog, .regs, .live, .mem, .frames, .boards, .dies, .mets, .pw, .hl, .wk, .fb, .lg, .sv]
  | .stepStart _ _ _ => [.regs, .boards, .fb]
  | .instructionIssue _ _ => [.evlog, .regs, .boards, .wk]
  | .stroke _ _ _ _ | .exactLanePart _ _ => [.fresh, .evlog, .regs, .live, .mem, .frames, .boards, .dies, .wk, .fb]
  | .tokenGrant _ => [.fresh, .evlog, .regs, .live, .frames, .boards, .dies, .wk]
  | .strokeEnd _ _ _ _ => [.fresh, .evlog, .regs, .live, .mem, .frames, .boards, .dies, .wk, .fb, .sv]
  | .confidenceRestroke _ _ _ => [.fresh, .evlog, .regs, .live, .frames, .dies, .wk]
  | .psel _ _ _ => [.fresh, .evlog, .regs, .live, .mem, .frames, .boards, .wk, .fb]
  | .tclr _ _ | .trd _ _ | .csend _ _ | .waitrk _ _ | .waitrkRelease _ _ | .loop _ _ | .endProg _ _
  | .amaxPacket _ => [.regs, .live, .mem, .boards, .wk, .fb]
  | .drain _ _ _ | .crecv _ _ | .carryPacket _ | .carryRetry _ _ | .scarryPacket _ =>
    [.evlog, .regs, .live, .mem, .boards, .wk, .fb]
  | .vmm _ _ _ => [.evlog, .regs, .live, .mem, .boards, .dies, .wk, .fb]
  | .vop _ _ _ => [.fresh, .evlog, .regs, .live, .mem, .boards, .dies, .wk, .fb]
  | .move _ _ _ => [.evlog, .regs, .live, .mem, .boards, .wk, .fb, .ms]
  | .step _ _ => [.regs, .live, .mem, .boards, .wk, .fb, .ms]
  | .capt _ _ => [.regs, .live, .mem, .boards, .wk, .fb, .sv]
  | .jobFailureCancel _ | .fencedBoardSwitch _ _ _ _ _ | .historyCopy _ _ | .intermediateCompletion _
  | .finalCompletion _ => [.sent, .evlog, .regs, .live, .mem, .frames, .boards, .dies, .hl, .wk, .fb, .sv]
  | .watchdogExpiry _ _ => [.evlog, .boards, .wk]
  | .scoreRefetch _ _ => [.regs, .mem]
  | .sfwdPacket _ => [.regs, .frames, .wk, .fb]
  | .actPacket _ => [.regs, .mem, .wk, .fb]
  | .memRdPacket _ _ _ | .switchPacket _ | .reservedPacket _ => [.regs, .wk, .fb]
  | .memWrPacket _ _ => [.regs, .mem, .wk, .fb, .ms]
  | .memRspPacket _ => [.rdata, .regs, .mem, .wk, .fb]
  | .regPacket _ _ _ =>
    [.rdata, .sent, .evlog, .regs, .live, .mem, .frames, .boards, .dies, .mets, .pw, .hl, .wk, .fb, .lg,
     .sv]
  | .ackPacket _ => [.regs, .live, .boards, .wk, .fb]
  | .poisonPacket _ _ => [.evlog, .regs, .boards, .dies, .wk, .fb, .lg, .sv]
  | .linkFrameRx _ _ => [.sent, .evlog, .regs, .fb, .lg, .sv]
  | .linkIdleFrame _ => [.sent, .fb]
  | .linkRetrain _ | .linkRetrainDone _ _ _ | .linkSilenceTimeout _ | .beamCtlRetrain _ | .beamCtlDown _ =>
    [.evlog, .regs, .fb, .lg, .sv]
  | .linkDown _ | .routeFenceComplete _ | .switchRecordRemoval _ _ | .heldPacketResend _ => [.regs, .fb]
  | .laneRoutingSwitch _ => [.regs, .dies, .fb]
  | .overlappedBoardSwitch _ _ _ _ => [.sent, .evlog, .regs, .live, .mem, .frames, .boards, .dies, .wk, .fb, .sv]
  | .slateScrub _ _ _ _ => [.evlog, .mem, .ms]
  | .dramPatrolScrub _ _ _ | .dramChannelFail _ _ _ => [.evlog, .wk, .ms]
  | .dramMr4Poll _ _ _ => [.ms]
  | .dramRefresh _ _ => []
  | .mirrorResyncDone _ | .calForcedTimeout _ => [.wk]
  | .ringAdmission _ => [.sent, .regs, .mem, .hl, .wk, .ms, .sv]
  | .jobLaunch _ | .stepStartIssue _ =>
    [.sent, .evlog, .regs, .live, .mem, .frames, .boards, .dies, .hl, .wk, .fb, .ms, .sv]
  | .replayInject _ => [.regs, .hl, .wk, .sv]
  | .recountVisit _ _ _ _ => [.fresh, .evlog, .regs, .frames, .dies, .lg, .sv]
  | .refreshMigration _ _ _ | .measurementVisit _ _ _ _ | .frameRepair _ _ _ =>
    [.fresh, .sent, .evlog, .regs, .live, .mem, .frames, .boards, .dies, .mets, .hl, .wk, .lg, .sv]
  | .calPublication _ => [.regs, .frames, .wk, .sv]
  | .metConversionEnd _ _ _ _ => [.evlog, .regs, .live, .mets]
  | .metEntryDelayEnd _ _ => [.live, .mets]
  | .metTrigger _ | .metUrgentRequest _ _ _ => [.regs, .live, .mets]
  | .metExternalEvent _ | .metCtlWrite _ _ => [.regs, .mets]
  | .metCmdSelfcal _ | .metCmdFlush _ | .metConverterWake _ _ => [.mets]
  | .metSelfcalDone _ _ => [.regs, .mets, .th, .hl]
  | .metQRead _ => [.rdata, .regs, .mets]
  | .thermalSample _ _ | .thermalTrip _ _ =>
    [.sent, .evlog, .regs, .live, .mem, .frames, .boards, .dies, .mets, .pw, .th, .hl, .wk, .fb, .lg, .sv]
  | .throttleStepFall _ | .staleSensor _ _ => [.sent, .evlog, .regs, .th, .hl]
  | .sampleIntervalRise _ => [.regs, .th]
  | .autoRestart | .pwrFailNDeassert | .idleToDrowsy | .idleToDormant | .brownOutEnd => [.regs, .pw]
  | .tokenTick => [.fresh, .regs, .dies]
  | .tokenBalanceCheck => [.sent, .evlog, .regs, .hl]
  | .vinOvercurrent _ | .brownOut _ | .vsbHigh _ => [.pw]
  | .brownOut1ms | .drowsyEntry | .wakeFromDrowsy => [.sent, .evlog, .regs, .pw, .hl]
  | .serviceEnChange _ => [.regs, .pw, .hl, .lg]
  | .refclkLoss => [.evlog, .ck]
  | .dormantEntry => [.sent, .evlog, .regs, .live, .mem, .frames, .boards, .dies, .mets, .pw, .hl, .fb]
  | .wakeFromDormant =>
    [.fresh, .sent, .evlog, .regs, .live, .mem, .frames, .boards, .dies, .mets, .ck, .pw, .th, .hl, .wk,
     .fb, .sv]
  | .ledgerPageWrite | .ledgerCounterIncrement _ | .ledgerCounterResolve _ | .ledgerMarginPass _ _
  | .ledgerCopyReturn _ | .securityTapAuth _ => [.regs, .lg]
  | .ledgerPageResolve _ | .ledgerCopyLost _ => [.evlog, .regs, .lg]
  | .ledgerReady => [.lg]
  | .heartbeatSend _ => [.sent, .sv]
  | .heartbeatMiss _ _ => [.sent, .evlog, .regs, .live, .mem, .frames, .boards, .dies, .pw, .hl, .wk, .fb, .lg, .sv]
  | .hubRestart _ _ => [.evlog, .regs, .mem, .mets, .pw, .hl, .wk, .fb, .ms, .sv]
  | .boardRepair _ _ | .dieLoss _ =>
    [.sent, .evlog, .regs, .live, .mem, .frames, .boards, .dies, .mets, .hl, .wk, .fb, .lg, .sv]
  | .coldStart _ _ _ => [.regs, .mets, .ck, .pw]
  | .secureBoot _ _ _ => [.fresh, .evlog, .regs, .pw, .th, .hl, .wk, .fb, .lg, .sv]
  | .dramZeroDone _ => [.regs, .mem, .ms]
  | .resetHandshake _ _ =>
    [.fresh, .sent, .evlog, .regs, .live, .mem, .frames, .boards, .dies, .mets, .ck, .hl, .wk, .fb, .lg,
     .sv]
  | .reckoningSet _ => [.regs, .ck]
  | .syncInEdge => [.fresh, .regs, .ck]
  | .arrayWake _ => [.regs, .mem, .dies, .mets, .fb]
  | .trimPass _ => [.fresh, .evlog, .regs, .live, .frames, .dies, .mets]
  | .planeGainPass _ => [.fresh, .evlog, .regs, .frames, .dies, .pw]
  | .mapAndScores => [.evlog, .regs, .live, .mem, .frames, .boards, .dies, .pw, .wk, .fb, .ms, .sv]
  | .ready => [.sent, .evlog, .regs, .dies, .pw, .hl, .ms]
  | .syncOutEdge => [.ck]
  | .portConfigApply _ => [.regs, .hl, .lg]
  | .provisioning _ => [.fresh, .rdata, .regs, .lg]

/-- A command message with its row of R368: opcode, least role, sideband, W, C, P, argument words, and whether it acts
only in Ready; none for the rows that are no command message. -/
def commandOf : Instr → Option (Req × Cmd)
  | .devInfo r => some (r, ⟨0x0100, 1, true, false, false, false, 0, false, false⟩)
  | .devState r => some (r, ⟨0x0101, 1, true, false, false, false, 0, false, false⟩)
  | .devPower r => some (r, ⟨0x0102, 2, true, true, true, true, 1, false, false⟩)
  | .devReset r => some (r, ⟨0x0103, 2, true, true, true, true, 1, false, false⟩)
  | .devPort r => some (r, ⟨0x0104, 2, false, false, true, true, 4, false, decide (argw r 2 / 2 ^ 23 ≠ 0)⟩)
  | .devEvents r => some (r, ⟨0x0105, 1, false, false, false, false, 1, false, false⟩)
  | .scoreLoad r _ _ => some (r, ⟨0x0200, 2, false, true, true, true, 1, true, false⟩)
  | .scoreAbort r => some (r, ⟨0x0201, 2, false, true, true, true, 1, true, false⟩)
  | .scoreRetire r => some (r, ⟨0x0202, 2, false, true, true, true, 1, true, false⟩)
  | .scoreInfo r => some (r, ⟨0x0203, 1, false, false, false, false, 1, true, false⟩)
  | .scoreList r => some (r, ⟨0x0204, 1, true, false, false, false, 0, false, false⟩)
  | .beadOpen r => some (r, ⟨0x0300, 2, false, false, false, false, 2, true, false⟩)
  | .beadClose r => some (r, ⟨0x0301, 2, false, false, false, false, 1, true, false⟩)
  | .beadPlane r => some (r, ⟨0x0302, 1, false, false, false, false, 2, true, false⟩)
  | .beadWear r => some (r, ⟨0x0303, 1, false, false, false, false, 1, true, false⟩)
  | .calStatus r => some (r, ⟨0x0400, 1, true, false, false, false, 0, false, false⟩)
  | .calRecount r => some (r, ⟨0x0401, 2, false, false, true, true, 2, true, false⟩)
  | .calRecal r => some (r, ⟨0x0402, 2, false, true, true, true, 1, true, false⟩)
  | .calFactory r => some (r, ⟨0x0403, 3, false, true, true, true, 1, true, false⟩)
  | .calMeasure r => some (r, ⟨0x0404, 2, false, false, false, true, 2, true, false⟩)
  | .ringCfg r => some (r, ⟨0x0500, 2, false, true, true, true, 5, true, decide (1 < argw r 5)⟩)
  | .ringAttach r => some (r, ⟨0x0501, 1, false, false, false, false, 1, true, false⟩)
  | .ringDetach r => some (r, ⟨0x0502, 1, false, false, false, false, 1, true, false⟩)
  | .ringPause r => some (r, ⟨0x0503, 1, false, false, false, true, 1, true, false⟩)
  | .ringResume r => some (r, ⟨0x0504, 1, false, false, false, false, 1, true, false⟩)
  | .ringHreset r => some (r, ⟨0x0505, 1, false, false, false, true, 1, true, false⟩)
  | .ringStat r => some (r, ⟨0x0506, 1, false, false, false, false, 1, true, false⟩)
  | .ringDelete r => some (r, ⟨0x0507, 2, false, true, true, true, 1, true, false⟩)
  | .jobHandle r => some (r, ⟨0x0600, 1, false, false, false, false, 4, true, false⟩)
  | .jobFree r => some (r, ⟨0x0601, 1, false, false, false, false, 1, true, false⟩)
  | .jobCancel r => some (r, ⟨0x0602, 1, false, false, false, false, 3, true, false⟩)
  | .jobFetch r => some (r, ⟨0x0603, 1, false, false, false, false, 4, true, false⟩)
  | .jobPagesFree r => some (r, ⟨0x0604, 1, false, false, false, false, 1, true, false⟩)
  | .jobCkpt r => some (r, ⟨0x0605, 1, false, false, false, true, 2, true, false⟩)
  | .jobRestore r => some (r, ⟨0x0606, 1, false, false, false, true, 2, true, false⟩)
  | .syncStat r => some (r, ⟨0x0700, 1, true, false, false, false, 0, false, false⟩)
  | .syncCfg r => some (r, ⟨0x0701, 2, false, true, true, true, 2, false, decide (2 ≤ argw r 2)⟩)
  | .syncNow r => some (r, ⟨0x0702, 1, false, false, false, false, 0, false, false⟩)
  | .metRead r => some (r, ⟨0x0800, 1, true, false, false, false, 2, false, false⟩)
  | .metSeq r => some (r, ⟨0x0801, 2, false, false, true, true, 4, false, bit (word (argw r 4)) 31⟩)
  | .metWin r => some (r, ⟨0x0802, 2, false, false, true, true, 5, false, false⟩)
  | .metSelfcal r => some (r, ⟨0x0803, 2, false, false, false, true, 1, false, false⟩)
  | .metDump r => some (r, ⟨0x0804, 1, false, false, false, false, 3, false, false⟩)
  | .thmRead r => some (r, ⟨0x0900, 1, true, false, false, false, 0, false, false⟩)
  | .thmPolicy r => some (r, ⟨0x0901, 2, true, false, true, true, 4, false, decide (2 ≤ argw r 1)⟩)
  | .thmRetire r => some (r, ⟨0x0902, 2, false, false, true, true, 2, false, false⟩)
  | .pwrRead r => some (r, ⟨0x0903, 1, true, false, false, false, 0, false, false⟩)
  | .pwrPolicy r => some (r, ⟨0x0904, 2, true, false, true, true, 3, false, false⟩)
  | .ldgRead r => some (r, ⟨0x0A00, 1, true, false, false, false, 4, false, false⟩)
  | .ldgWrite r => some (r, ⟨0x0A01, if argw r 1 = 7 then 1 else 2, false, false, true, true, 3, false, false⟩)
  | .ldgCounter r => some (r, ⟨0x0A02, if argw r 2 == 1 && r.src != .sideband then 2 else 1, true, false, argw r 2 == 1, argw r 2 == 1, 2, false, false⟩)
  | .ldgUnlock r => some (r, ⟨0x0A03, 1, false, false, false, false, 6, false, false⟩)
  | .ldgPasswd r => some (r, ⟨0x0A04, 2, false, false, true, true, 6, false, false⟩)
  | .ldgAudit r => some (r, ⟨0x0A05, 1, true, false, false, false, 3, false, false⟩)
  | .secChallenge r => some (r, ⟨0x0B00, 1, false, false, false, false, 1, false, false⟩)
  | .secAuth r _ => some (r, ⟨0x0B01, 1, false, false, true, true, 2, false, false⟩)
  | .secDrop r => some (r, ⟨0x0B02, 1, false, false, true, true, 0, false, false⟩)
  | .secCak r _ => some (r, ⟨0x0B03, 2, false, true, true, true, 2, false, false⟩)
  | .secIkey r _ => some (r, ⟨0x0B04, 2, false, true, true, true, 1, false, false⟩)
  | .secAttest r => some (r, ⟨0x0B05, 1, false, false, false, true, 5, false, false⟩)
  | .secFw r _ => some (r, ⟨0x0B06, 2, false, true, true, true, 1, false, false⟩)
  | .secDebug r => some (r, ⟨0x0B07, 3, false, true, true, true, 1, false, false⟩)
  | .logRead r => some (r, ⟨0x0C00, 1, true, false, false, false, 3, false, false⟩)
  | .logTelem r => some (r, ⟨0x0C01, 1, true, false, false, false, 2, false, false⟩)
  | .logJournal r => some (r, ⟨0x0C02, 2, false, true, true, true, 2, false, decide (4 ≤ argw r 2)⟩)
  | .logExport r => some (r, ⟨0x0C03, 1, false, false, false, true, 2, false, false⟩)
  | .logReplay r => some (r, ⟨0x0C04, 2, false, true, true, true, 3, false, false⟩)
  | .svcMapRead r => some (r, ⟨0x0D00, 1, true, false, false, false, 1, false, false⟩)
  | .svcMapEdit r => some (r, ⟨0x0D01, 3, false, true, true, true, 1, false, false⟩)
  | .svcRepair r => some (r, ⟨0x0D02, 2, false, true, true, true, 2, false, false⟩)
  | .svcSwap r => some (r, ⟨0x0D03, 2, false, true, true, true, 1, false, false⟩)
  | .svcLimits r => some (r, ⟨0x0D04, 3, false, true, true, true, 2, false, false⟩)
  | _ => none

/-- The command message is carried out at once. Its argument words are the row's and its reserved bits are 0; its source may
send it: a session of the row's role or above, or the sideband where the row has its mark; a maker's command finds SERVICE_EN
asserted; secure boot has ended; the module is Ready where the row acts only in Ready, and in Off it is one of the sideband's
reads; a session has fewer than 8 commands pending where it may pend; it waits for no command before it; and no earlier
presentation of it is pending (R356, R360, R361, R363, R365, R366). -/
def Instr.admitted (i : Instr) (s : State) : Prop :=
  match commandOf i with
  | some (r, c) =>
    r.args.length = c.n ∧ r.nargs = c.n ∧ r.resv = 0 ∧ c.bad = false ∧
    (r.src = .sideband → c.sb = true) ∧ (r.src ≠ .sideband → c.role ≤ s.role r.src) ∧
    (c.role = 3 → s.pw.serviceEn = true) ∧
    (c.ready = true → s.pstate = 2) ∧ (s.pstate = 0 → r.src = .sideband ∧ offOps.contains c.op = true) ∧
    s.answers = true ∧ ((c.p || c.c) = true → s.pendFull r.src = false) ∧ s.waits c r = false ∧
    ∀ p ∈ s.hl.pend, ¬(p.req = r ∧ p.op = c.op)
  | none => True

/-- The ledger takes the audit entry of a C command: its pre-write checks hold and a copy is in service (R367, R457). -/
def State.takesEntry (s : State) : Prop := s.prewrite = 0 ∧ s.copies ≠ []

/-- The state in which a C command has its effect: PENDING is acknowledged, the queued page writes are carried out, and the
audit entry follows (R357, R367). -/
def Instr.entered (i : Instr) (s : State) : State :=
  match commandOf i with
  | some (r, c) =>
    let t := (s.ackPending r).flushAll
    (t.audit (t.role r.src) (srcByte r.src) c.op r.args).1
  | none => s

/-- The state after n steps that all answer a next state. -/
def State.runN : Nat → State → Option State
  | 0, s => some s
  | n + 1, s =>
    match step s with
    | .next t => State.runN n t
    | _ => none

end Sys2Proof.Machine
end

