-- ==== Sys2Proof/Certificates/Slice0/Obligations.lean ====
section
/-! DEFINITION. The statements about the block, for the provers. Each says of named commands, or of every command,
what the rules of spec/ that it cites say of them. A clause about a command gives a next state under conditions on the
state and the operands alone. -/

open Sys2Proof
open Sys2Proof.Machine

/-- A mailbox takes words, a doorbell, a flush and refuses what it must. A word written by a party of the end that may
use it and has no message outstanding is appended while fewer than eight wait; the ninth sets the overflow mark and
is counted as discarded; a word of a party that does not hold the lock of a shared end, or written while a message
is outstanding, is discarded and counted, the first also answered by code 0x07F1. A doorbell delivers the words to
an end whose domain is up, holds them for a wake where it is powered down, and answers 0x0402 where it has no
supply; an overflowed message is discarded whole with 0x07F0. A flush empties the send queue. A party that has no
block of the end changes nothing (log entry 122, a choice of the model). Each clause gives the whole next state, so
nothing else changes. The values and conventions that the manual leaves open are the model's choices of log entries
18, 70 and 122. Rules: R352, R354, R355. -/
def Obligations.Mailbox_words : Prop :=
  (∀ (s : State) (h : Hub) (n : Fin 8) (e : Fin 2) (p : Party) (w : Word),
      mbOwn n e p = true → s.mbMay h n e p = true → (s.mbxEnd (mbKey h n e)).busy = false →
        (s.mbxEnd (mbKey h n e)).send.length < 8 →
        exec (.mbxTxdWrite h n e p w) s = .next (s.setMbx (mbKey h n e)
            { s.mbxEnd (mbKey h n e) with send := (s.mbxEnd (mbKey h n e)).send ++ [w] })) ∧
  (∀ (s : State) (h : Hub) (n : Fin 8) (e : Fin 2) (p : Party) (w : Word),
      mbOwn n e p = true → s.mbMay h n e p = true → (s.mbxEnd (mbKey h n e)).busy = false →
        8 ≤ (s.mbxEnd (mbKey h n e)).send.length →
        exec (.mbxTxdWrite h n e p w) s = .next ((s.setMbx (mbKey h n e)
            { s.mbxEnd (mbKey h n e) with ovf := true }).bump (mbBase h n e + 0x28) 1)) ∧
  (∀ (s : State) (h : Hub) (n : Fin 8) (e : Fin 2) (p : Party) (w : Word),
      mbOwn n e p = true → s.mbMay h n e p = false →
        exec (.mbxTxdWrite h n e p w) s = .next ((s.bump (mbBase h n e + 0x28) 1).mbPost h n e 0x07F1)) ∧
  (∀ (s : State) (h : Hub) (n : Fin 8) (e : Fin 2) (p : Party) (w : Word),
      mbOwn n e p = false → exec (.mbxTxdWrite h n e p w) s = .next (s)) ∧
  (∀ (s : State) (h : Hub) (n : Fin 8) (e : Fin 2) (p : Party),
      mbOwn n e p = false → exec (.mbxDbRing h n e p) s = .next (s)) ∧
  (∀ (s : State) (h : Hub) (n : Fin 8) (e : Fin 2) (p : Party),
      mbOwn n e p = false → exec (.mbxDbFlush h n e p) s = .next (s)) ∧
  (∀ (s : State) (h : Hub) (n : Fin 8) (e : Fin 2) (p : Party) (w : Word),
      mbOwn n e p = true → s.mbMay h n e p = true → (s.mbxEnd (mbKey h n e)).busy = true →
        exec (.mbxTxdWrite h n e p w) s = .next (s.bump (mbBase h n e + 0x28) 1)) ∧
  (∀ (s : State) (h : Hub) (n : Fin 8) (e : Fin 2) (p : Party),
      mbOwn n e p = true → s.mbMay h n e p = true → (s.mbxEnd (mbKey h n e)).busy = false →
        (s.mbxEnd (mbKey h n e)).ovf = false → (s.mbxEnd (mbKey h n e)).send ≠ [] → s.domain h n (1 - e.val) = .up →
        exec (.mbxDbRing h n e p) s = .next (s.mbDeliver h n e (s.mbxEnd (mbKey h n e)).send)) ∧
  (∀ (s : State) (h : Hub) (n : Fin 8) (e : Fin 2) (p : Party),
      mbOwn n e p = true → s.mbMay h n e p = true → (s.mbxEnd (mbKey h n e)).busy = false →
        (s.mbxEnd (mbKey h n e)).ovf = false → (s.mbxEnd (mbKey h n e)).send ≠ [] → s.domain h n (1 - e.val) = .down →
        exec (.mbxDbRing h n e p) s = .next ((s.setMbx (mbKey h n e)
            { s.mbxEnd (mbKey h n e) with busy := true, waking := true, sentAt := s.now }).wake)) ∧
  (∀ (s : State) (h : Hub) (n : Fin 8) (e : Fin 2) (p : Party),
      mbOwn n e p = true → s.mbMay h n e p = true → (s.mbxEnd (mbKey h n e)).busy = false →
        (s.mbxEnd (mbKey h n e)).ovf = false → (s.mbxEnd (mbKey h n e)).send ≠ [] →
        s.domain h n (1 - e.val) = .unpowered →
        exec (.mbxDbRing h n e p) s = .next ((s.setMbx (mbKey h n e)
            { s.mbxEnd (mbKey h n e) with send := [] }).mbPost h n e 0x0402)) ∧
  (∀ (s : State) (h : Hub) (n : Fin 8) (e : Fin 2) (p : Party),
      mbOwn n e p = true → s.mbMay h n e p = true → (s.mbxEnd (mbKey h n e)).busy = false →
        (s.mbxEnd (mbKey h n e)).ovf = true →
        exec (.mbxDbRing h n e p) s = .next (((s.setMbx (mbKey h n e)
            { s.mbxEnd (mbKey h n e) with send := [], ovf := false }).bump (mbBase h n e + 0x28) (s.mbxEnd (mbKey h n
            e)).send.length).mbPost h n e 0x07F0)) ∧
  (∀ (s : State) (h : Hub) (n : Fin 8) (e : Fin 2) (p : Party),
      mbOwn n e p = true → s.mbMay h n e p = true → (s.mbxEnd (mbKey h n e)).busy = false →
        exec (.mbxDbFlush h n e p) s = .next (s.setMbx (mbKey h n e)
            { s.mbxEnd (mbKey h n e) with send := [], ovf := false }))

/-- Reading, acknowledging and locking a mailbox. A read of MBX_RXD gives the oldest unread word and removes it, and
gives 0 where none is left; MBX_ACK frees the received message and the sender and posts its code; MBX_ACKIN gives
the code and its valid bit and clears them; MBX_LOCK gives 0 and the lock to a party where it is free or its own,
else the owner; a release by the holder frees it, and a party without a block of the end reads 0 and takes nothing
(log entry 122); writes of 1 to MBX_IRQ_STAT clear its two bits; a message held for a powered-down end is delivered
once its domain is up; an MB4 message unacknowledged for 1 ms posts 0x0506 and frees both ends. The values and
conventions that the manual leaves open are the model's choices of log entries 5 and 71. Rules: R353, R354, R355,
R13. -/
def Obligations.Mailbox_receive : Prop :=
  (∀ (s : State) (h : Hub) (n : Fin 8) (e : Fin 2) (w : Word) (ws : List Word),
      (s.mbxEnd (mbKey h n e)).recv = some (w :: ws) →
        exec (.mbxRxdRead h n e) s = .next
            ({ s.setMbx (mbKey h n e) { s.mbxEnd (mbKey h n e) with recv := some ws } with rdata := w })) ∧
  (∀ (s : State) (h : Hub) (n : Fin 8) (e : Fin 2),
      ((s.mbxEnd (mbKey h n e)).recv = none ∨ (s.mbxEnd (mbKey h n e)).recv = some []) →
        exec (.mbxRxdRead h n e) s = .next ({ s with rdata := 0 })) ∧
  (∀ (s : State) (h : Hub) (n : Fin 8) (e : Fin 2) (w : Word),
      (s.mbxEnd (mbKey h n e)).recv.isSome = true → ∃ t, exec (.mbxAckWrite h n e w) s = .next t ∧
        (t.mbxEnd (mbKey h n e)).recv = none ∧ (t.mbxEnd (mbKey h n (1 - e.val))).busy = false ∧
        (t.mbxEnd (mbKey h n (1 - e.val))).code = fld w 0 16 ∧ (t.mbxEnd (mbKey h n (1 - e.val))).valid = true ∧
        t.mem = s.mem ∧ t.frames = s.frames ∧ t.boards = s.boards) ∧
  (∀ (s : State) (h : Hub) (n : Fin 8) (e : Fin 2),
      exec (.mbxAckinRead h n e) s = .next
          ({ s.setMbx (mbKey h n e) { s.mbxEnd (mbKey h n e) with code := 0, valid := false } with rdata := word ((s.mbxEnd (mbKey h n e)).code + b2n (s.mbxEnd (mbKey h n e)).valid * 65536) }))
          ∧
  (∀ (s : State) (h : Hub) (n : Fin 8) (e : Fin 2) (p : Party),
      mbOwn n e p = true → ((s.mbxEnd (mbKey h n e)).owner = 0 ∨ (s.mbxEnd (mbKey h n e)).owner = p.num) →
        exec (.mbxLockRead h n e p) s = .next
            ({ s.setMbx (mbKey h n e) { s.mbxEnd (mbKey h n e) with owner := p.num } with rdata := 0 })) ∧
  (∀ (s : State) (h : Hub) (n : Fin 8) (e : Fin 2) (p : Party),
      mbOwn n e p = false → exec (.mbxLockRead h n e p) s = .next ({ s with rdata := 0 })) ∧
  (∀ (s : State) (h : Hub) (n : Fin 8) (e : Fin 2) (p : Party),
      mbOwn n e p = true → (s.mbxEnd (mbKey h n e)).owner ≠ 0 → (s.mbxEnd (mbKey h n e)).owner ≠ p.num →
        exec (.mbxLockRead h n e p) s = .next ({ s with rdata := word (s.mbxEnd (mbKey h n e)).owner })) ∧
  (∀ (s : State) (h : Hub) (n : Fin 8) (e : Fin 2) (p : Party),
      mbOwn n e p = true → (s.mbxEnd (mbKey h n e)).owner = p.num →
        exec (.mbxLockRelease h n e p) s = .next (s.setMbx (mbKey h n e) { s.mbxEnd (mbKey h n e) with owner := 0 }))
            ∧
  (∀ (s : State) (h : Hub) (n : Fin 8) (e : Fin 2) (p : Party),
      (mbOwn n e p = false ∨ (s.mbxEnd (mbKey h n e)).owner ≠ p.num) → exec (.mbxLockRelease h n e p) s = .next (s)) ∧
  (∀ (s : State) (h : Hub) (n : Fin 8) (e : Fin 2) (w : Word),
      exec (.mbxIrqClear h n e w) s = .next (s.setReg (mbBase h n e + 0x20) (s.reg (mbBase h n e + 0x20) &&& ~~~ (w
          &&& 3)))) ∧
  (∀ (s : State) (h : Hub) (n : Fin 8) (e : Fin 2),
      (s.mbxEnd (mbKey h n e)).waking = true → s.domain h n (1 - e.val) = .up →
        exec (.mbxWakeDelivery h n e) s = .next (s.mbDeliver h n e (s.mbxEnd (mbKey h n e)).send)) ∧
  (∀ (s : State) (h : Hub) (e : Fin 2),
      (s.mbxEnd (mbKey h 4 e)).busy = true → (s.mbxEnd (mbKey h 4 e)).sentAt + 1000000 ≤ s.now → ∃ t,
        exec (.mb4Timeout h e) s = .next t ∧ (t.mbxEnd (mbKey h 4 e)).busy = false ∧
        (t.mbxEnd (mbKey h 4 e)).send = [] ∧ (t.mbxEnd (mbKey h 4 e)).code = 0x0506 ∧
        (t.mbxEnd (mbKey h 4 e)).valid = true ∧ (t.mbxEnd (mbKey h 4 (1 - e.val))).recv = none)

/-- Commit, stroke boundary, fault clearing and calibration writes of a frame. FRM_COMMIT.go on a frame that strokes, in
the arrays or in the exact lane, takes the snapshot of the shadow copies and applies nothing; on any other frame it
takes the snapshot and applies it at once; a pending snapshot is applied where no stroke is in hand, and not before.
CLEAR_FAULT clears the fault and its code alone. A write to the trims or gains of a bank that no running step holds
writes that one register; of a held bank it is discarded and counted. The values and conventions that the manual
leaves open are the model's choices of log entries 93 and 119. Rules: R71, R69, R135. -/
def Obligations.Frame_commit_and_faults : Prop :=
  (∀ (s : State) (d : Die) (b : Brd) (f : Sys2Proof.Frm),
      s.strokeInHand (frameKey d b f) = true →
        exec (.frmCommit d b f) s = .next (s.setFrame (frameKey d b f)
            { (s.frame (frameKey d b f)) with snap := some (snapRegs.map fun o => s.reg (fkBase (frameKey d b f) + o)) }))
            ∧
  (∀ (s : State) (d : Die) (b : Brd) (f : Sys2Proof.Frm),
      s.strokeInHand (frameKey d b f) = false →
        exec (.frmCommit d b f) s = .next ((s.setFrame (frameKey d b f)
            { (s.frame (frameKey d b f)) with snap := some (snapRegs.map fun o => s.reg (fkBase (frameKey d b f) + o)) }).applyCommit
            (frameKey d b f))) ∧
  (∀ (s : State) (d : Die) (b : Brd) (f : Sys2Proof.Frm),
      s.strokeInHand (frameKey d b f) = false → exec (.commitApply d b f) s = .next (s.applyCommit (frameKey d b f)))
          ∧
  (∀ (s : State) (d : Die) (b : Brd) (f : Sys2Proof.Frm),
      s.strokeInHand (frameKey d b f) = true → exec (.commitApply d b f) s = .next (s)) ∧
  (∀ (s : State) (d : Die) (b : Brd) (f : Sys2Proof.Frm) (ws : List Word),
      s.strokeInHand (frameKey d b f) = false → (s.frame (frameKey d b f)).snap = some ws → snapBad ws = false → ∃ t,
        exec (.commitApply d b f) s = .next t ∧ (t.frame (frameKey d b f)).snap = none ∧
        t.regs = (s.setReg (fkBase (frameKey d b f) + 0x2C) (t.reg (fkBase (frameKey d b f) + 0x2C))).regs ∧
        t.mem = s.mem ∧ t.boards = s.boards ∧ (∀ p ∈ snapRegs.zip ws, t.liveReg (fkBase (frameKey d b f) + p.1) =
            p.2)) ∧
  (∀ (s : State) (d : Die) (b : Brd) (f : Sys2Proof.Frm),
      exec (.frmCtlClearFault d b f) s = .next (s.setFrame (frameKey d b f)
          { (s.frame (frameKey d b f)) with fault := false, faultCode := 0 })) ∧
  (∀ (s : State) (d : Die) (b : Brd) (f : Sys2Proof.Frm) (k : Fin 280) (w : Word),
      s.bankHeld (boardKey d b) (fld (s.reg (fkBase (frameKey d b f) + 0xC60)) 0 1) = true →
        exec (.calRegisterWrite d b f k w) s = .next (s.bump (fkBase (frameKey d b f) + 0xA4) 1)) ∧
  (∀ (s : State) (d : Die) (b : Brd) (f : Sys2Proof.Frm) (k : Fin 280) (w : Word),
      s.bankHeld (boardKey d b) (fld (s.reg (fkBase (frameKey d b f) + 0xC60)) 0 1) = false → k.val < 272 →
        exec (.calRegisterWrite d b f k w) s = .next (s.setReg (trimReg (frameKey d b f) (fld (s.reg (fkBase (frameKey
            d b f) + 0xC60)) 0 1) k) w)) ∧
  (∀ (s : State) (d : Die) (b : Brd) (f : Sys2Proof.Frm) (k : Fin 280) (w : Word),
      s.bankHeld (boardKey d b) (fld (s.reg (fkBase (frameKey d b f) + 0xC60)) 0 1) = false → 272 ≤ k.val →
        exec (.calRegisterWrite d b f k w) s = .next (s.setReg (gainReg (frameKey d b f) (fld (s.reg (fkBase (frameKey
            d b f) + 0xC60)) 0 1) (k.val - 272)) (w &&& 0x3FFFF)))

/-- FRM_CTL moves a frame only as R67 says. IDLE and SPARE take a frame in REPAIR to IDLE and to SPARE and leave every
other frame unchanged. RETIRE leaves the frame RETIRED, its stroke in hand in the exact lane and its queue as it is
(log entry 96), or, in a state with no such transition, unchanged, and REPAIR leaves it in REPAIR, marked for REPAIR
at its stroke boundary, or unchanged. The values and conventions that the manual leaves open are the model's choices
of log entries 96 and 102. Rules: R67. -/
def Obligations.Frame_state_changes : Prop :=
  (∀ (s : State) (d : Die) (b : Brd) (f : Sys2Proof.Frm),
      (s.frame (frameKey d b f)).st = .repair →
        exec (.frmCtlIdle d b f) s = .next (s.setFrame (frameKey d b f)
            { (s.frame (frameKey d b f)) with st := .idle })) ∧
  (∀ (s : State) (d : Die) (b : Brd) (f : Sys2Proof.Frm),
      (s.frame (frameKey d b f)).st ≠ .repair → exec (.frmCtlIdle d b f) s = .next (s)) ∧
  (∀ (s : State) (d : Die) (b : Brd) (f : Sys2Proof.Frm),
      (s.frame (frameKey d b f)).st = .repair →
        exec (.frmCtlSpare d b f) s = .next (s.setFrame (frameKey d b f)
            { (s.frame (frameKey d b f)) with st := .spare })) ∧
  (∀ (s : State) (d : Die) (b : Brd) (f : Sys2Proof.Frm),
      (s.frame (frameKey d b f)).st ≠ .repair → exec (.frmCtlSpare d b f) s = .next (s)) ∧
  (∀ (s : State) (d : Die) (b : Brd) (f : Sys2Proof.Frm),
      ((s.frame (frameKey d b f)).st = .idle ∨ (s.frame (frameKey d b f)).st = .recount ∨
        (s.frame (frameKey d b f)).st = .spare) →
        exec (.frmCtlRepair d b f) s = .next ((s.dropVisit (frameKey d b f)).setFrame (frameKey d b f)
            { (s.dropVisit (frameKey d b f)).frame (frameKey d b f) with st := .repair })) ∧
  (∀ (s : State) (d : Die) (b : Brd) (f : Sys2Proof.Frm),
      (s.frame (frameKey d b f)).st = .stroking →
        exec (.frmCtlRepair d b f) s = .next (s.setFrame (frameKey d b f)
            { (s.frame (frameKey d b f)) with repairNext := true })) ∧
  (∀ (s : State) (d : Die) (b : Brd) (f : Sys2Proof.Frm),
      (s.frame (frameKey d b f)).st = .programming → ∃ t, exec (.frmCtlRepair d b f) s = .next t ∧
        (t.frame (frameKey d b f)).st = .repair ∧ (t.frame (frameKey d b f)).prg = none ∧
        fld (t.reg (fkBase (frameKey d b f) + 0x108)) 21 3 = 4 ∧ t.beads = s.beads ∧ t.mem = s.mem) ∧
  (∀ (s : State) (d : Die) (b : Brd) (f : Sys2Proof.Frm),
      ((s.frame (frameKey d b f)).st = .repair ∨ (s.frame (frameKey d b f)).st = .retired) →
        exec (.frmCtlRepair d b f) s = .next (s)) ∧
  (∀ (s : State) (d : Die) (b : Brd) (f : Sys2Proof.Frm),
      (s.frame (frameKey d b f)).st = .retired → exec (.frmCtlRetire d b f) s = .next (s)) ∧
  (∀ (s : State) (d : Die) (b : Brd) (f : Sys2Proof.Frm),
      (s.frame (frameKey d b f)).st ≠ .retired → (s.frame (frameKey d b f)).prg = none →
        exec (.frmCtlRetire d b f) s = .next
        ((let u := s.dropVisit (frameKey d b f)
        (u.setFrame (frameKey d b f) { u.frame (frameKey d b f) with st := .retired, stroke := (u.frame (frameKey d b f)).stroke.map fun (x : Stroke) => { x with lane := true, started := false, pending := false, n := 0, sums := [], flags := [] } }).mapSet
            (mapFrame (frameKey d b f)))))

/-- Programming started, fed, granted and aborted. FRM_PRG_CTL.start leaves a frame that already programs unchanged, is
refused with result 2 outside Ready, and otherwise, with the format, the windows and the frame as R105 asks and the
plane below its limit, starts the plane; FRM_PRG_FEED marks the target buffers its two bits name full, and marks
none empty; a waiting frame is admitted when its die has fewer than 64 admitted, no frame waits before it, and the
pool has room or it is the only one; an abort of a frame that belongs to no load ends programming with result 4 and
leaves the frame SPARE with its beads as they are; programming paused at T2 resumes in every frame of a die whose
sensors read below T1. The values and conventions that the manual leaves open are the model's choices of log entries
26, 43, 115 and 119. Rules: R88, R102, R103, R105, R106, R107. -/
def Obligations.Programming_start_feed_abort : Prop :=
  (∀ (s : State) (d : Die) (b : Brd) (f : Sys2Proof.Frm) (w : Word) (p : Prg),
      (s.frame (frameKey d b f)).prg = some p →
        exec (.frmPrgFeed d b f w) s = .next (s.setFrame (frameKey d b f)
            { (s.frame (frameKey d b f)) with prg := some { p with full0 := p.full0 || bit w 0, full1 := p.full1 || bit w 1 } }))
            ∧
  (∀ (s : State) (d : Die) (b : Brd) (f : Sys2Proof.Frm),
      (s.frame (frameKey d b f)).prg.isSome = true → exec (.frmPrgStart d b f) s = .next (s)) ∧
  (∀ (s : State) (d : Die) (b : Brd) (f : Sys2Proof.Frm),
      (s.frame (frameKey d b f)).prg = none → s.pstate = 2 → s.pw.entering = none →
        ((s.frame (frameKey d b f)).st = .idle ∨ (s.frame (frameKey d b f)).st = .spare) →
        s.inService (frameKey d b f) = false → fld (s.reg (fkBase (frameKey d b f) + 0x104)) 3 2 ≠ 3 →
        fld (s.reg (fkBase (frameKey d b f) + 0x10C)) 0 8 ≠ 0 →
        fld (s.reg (fkBase (frameKey d b f) + 0x10C)) 8 8 ≠ 0 →
        fld (s.reg (fkBase (frameKey d b f) + 0x10C)) 16 8 ≠ 0 →
        (s.header (frameKey d b f) (fld (s.reg (fkBase (frameKey d b f) + 0x104)) 0 3)).cycles < 10000 → ∃ t,
        exec (.frmPrgStart d b f) s = .next t ∧ (t.frame (frameKey d b f)).st = .programming ∧
        (t.frame (frameKey d b f)).prg = some
            { plane := fld (s.reg (fkBase (frameKey d b f) + 0x104)) 0 3, fmt := fld (s.reg (fkBase (frameKey d b f) + 0x104)) 3 2, load := true, at_ := s.now, stuck := (s.header (frameKey d b f) (fld (s.reg (fkBase (frameKey d b f) + 0x104)) 0 3)).stuck, chkOff := (s.header (frameKey d b f) (fld (s.reg (fkBase (frameKey d b f) + 0x104)) 0 3)).chkOff }
            ∧
        t.beads = s.beads ∧ t.mem = s.mem ∧ t.boards = s.boards) ∧
  (∀ (s : State) (d : Die) (b : Brd) (f : Sys2Proof.Frm),
      (s.frame (frameKey d b f)).prg = none → s.pstate ≠ 2 →
        exec (.frmPrgStart d b f) s = .next (s.setReg (prgStat (frameKey d b f)) (put (s.reg (prgStat (frameKey d b
            f))) 21 3 2))) ∧
  (∀ (s : State) (d : Die) (b : Brd) (f : Sys2Proof.Frm) (p : Prg),
      s.pstate = 2 → (s.frame (frameKey d b f)).prg = some p → p.granted = false → s.grantsOn d = 0 →
        ((s.engines.filter fun e => keyDie (fkBoard e.1) == d.val).any fun e => !e.2.granted && (p.load && !e.2.load
            || (p.load == e.2.load && decide (e.2.at_ < p.at_)))) = false →
        exec (.prgGrant d b f) s = .next (s.setFrame (frameKey d b f)
            { (s.frame (frameKey d b f)) with prg := some { p with granted := true } })) ∧
  (∀ (s : State) (d : Die) (b : Brd) (f : Sys2Proof.Frm) (p : Prg),
      s.pstate = 2 → (s.frame (frameKey d b f)).prg = some p → p.granted = false → s.grantsOn d ≠ 0 →
        s.grantsOn d < 64 → s.prgRoom = true →
        ((s.engines.filter fun e => decide (s.grantsOn (keyDie (fkBoard e.1)) < 64)).any fun e => !e.2.granted &&
            (p.load && !e.2.load || (p.load == e.2.load && decide (e.2.at_ < p.at_)))) = false →
        exec (.prgGrant d b f) s = .next (s.setFrame (frameKey d b f)
            { (s.frame (frameKey d b f)) with prg := some { p with granted := true } })) ∧
  (∀ (s : State) (d : Die) (b : Brd) (f : Sys2Proof.Frm) (p : Prg),
      (s.frame (frameKey d b f)).prg = some p → 64 ≤ s.grantsOn d → exec (.prgGrant d b f) s = .next (s)) ∧
  (∀ (s : State) (d : Die) (b : Brd) (f : Sys2Proof.Frm),
      (s.frame (frameKey d b f)).prg.isSome = true → s.loadingSlot (frameKey d b f) = none →
        s.repairOf (frameKey d b f) = none →
        exec (.frmPrgAbort d b f) s = .next ((s.stopPrg (frameKey d b f) 4).setFrame (frameKey d b f)
            { (s.stopPrg (frameKey d b f) 4).frame (frameKey d b f) with st := .spare })) ∧
  (∀ (s : State) (d : Die),
      s.dieBelow d s.t1 = true → exec (.prgThermalResume d) s = .next (s.engines.foldl (fun s e =>
        if keyDie (fkBoard e.1) = d.val then s.setFrame e.1
            { s.frame e.1 with prg := some { e.2 with paused := false } } else s) s)) ∧
  (∀ (s : State) (d : Die),
      s.dieBelow d s.t1 = false → exec (.prgThermalResume d) s = .next (s))

/-- One row of a plane programmed and verified. A granted, unpaused frame on a die below T2 whose row has its targets,
with no draw before it and the tokens of the longest row in the pool, reads, pulses and verifies the row, pays its
tokens and ends it; a row from a full target buffer ends so: the engine stands at the next row with this row's
buffer empty, only beads of that row of that plane have changed, and memory is unchanged; or a ninth stuck bead ends
the plane. The values and conventions that the manual leaves open are the model's choices of log entries 4, 13, 42,
97, 98, 115 and 116. Rules: R88, R89, R92, R101, R106. -/
def Obligations.Programming_row : Prop :=
  (∀ (s : State) (d : Die) (b : Brd) (f : Sys2Proof.Frm) (p : Prg) (x : RowSrc),
      s.pstate = 2 → (s.frame (frameKey d b f)).prg = some p → p.granted = true → p.paused = false → p.row < 512 →
        p.waits = false → p.out = none → s.dieBelow d s.t2 = true → s.rowSrc (frameKey d b f) p = some x →
        s.drawAhead d p.prio = false → p.paid = false → 3592 ≤ s.openTo d p.prio →
        exec (.prgRow d b f) s = .next (((({ s with fresh := (s.rowOut (frameKey d b f) p x).fresh } : State).consume
            d (136 + 27 * (s.rowOut (frameKey d b f) p x).total)).endRow (frameKey d b f) p x (s.rowOut (frameKey d b
            f) p x)))) ∧
  (∀ (s : State) (d : Die) (b : Brd) (f : Sys2Proof.Frm) (p : Prg),
      s.pstate = 2 → (s.frame (frameKey d b f)).prg = some p → p.granted = true → p.paused = false → p.row < 512 →
        p.waits = false → p.out = none → s.dieBelow d s.t2 = true → s.imageOf (frameKey d b f) p.plane = none →
        s.levelSource (frameKey d b f) = none → (if p.row % 2 = 0 then p.full0 else p.full1) = true →
        s.drawAhead d p.prio = false → p.paid = false → 3592 ≤ s.openTo d p.prio → ∃ t,
        exec (.prgRow d b f) s = .next t ∧ ((∃ u, t = State.stuckLimit u (frameKey d b f)) ∨
        ((∃ q, (t.frame (frameKey d b f)).prg = some q ∧ q.plane = p.plane ∧ q.row = p.row + 1 ∧
          q.full0 = (p.full0 && p.row % 2 == 1) ∧ q.full1 = (p.full1 && p.row % 2 == 0)) ∧
          t.mem = s.mem ∧ ∀ k, (∀ col < 528, k ≠ beadKey (frameKey d b f) p.plane p.row col) → t.bead k = s.bead k)))
              ∧
  (∀ (s : State) (d : Die) (b : Brd) (f : Sys2Proof.Frm) (p : Prg),
      s.pstate = 2 → (s.frame (frameKey d b f)).prg = some p → p.granted = true → p.paused = false → p.row < 512 →
        p.waits = false → s.dieBelow d s.t2 = false →
        exec (.prgRow d b f) s = .next (s.setFrame (frameKey d b f)
            { (s.frame (frameKey d b f)) with prg := some { p with paused := true } }))

/-- SEQ_CTL, step starts and the begin of a step. SEQ_CTL.run and halt release and hold the sequencer of one board, and
run at a held one puts its shadowed registers in force first; clear ends its fault; each changes nothing else. A
step start, of the STEP packet under way where there is one, is queued behind those the board holds, and a second
start of a step it holds and one of a failed job are discarded. A board that runs, has no step in hand and waits for
nothing takes its oldest step, from the entry address and with empty loops. The values and conventions that the
manual leaves open are the model's choices of log entry 119. Rules: R210, R486. -/
def Obligations.Sequencer_control : Prop :=
  (∀ (s : State) (d : Die) (b : Brd),
      (s.board (boardKey d b)).halted = false →
        exec (.seqCtlRun d b) s = .next (s.setBoard (boardKey d b)
            { (s.board (boardKey d b)) with halted := false, up := true })) ∧
  (∀ (s : State) (d : Die) (b : Brd),
      (s.board (boardKey d b)).halted = true →
        exec (.seqCtlRun d b) s = .next ((s.commitBoard (boardKey d b)).setBoard (boardKey d b)
            { (s.commitBoard (boardKey d b)).board (boardKey d b) with halted := false, up := true })) ∧
  (∀ (s : State) (d : Die) (b : Brd),
      exec (.seqCtlHalt d b) s = .next (s.setBoard (boardKey d b)
          { (s.board (boardKey d b)) with halted := true, up := true })) ∧
  (∀ (s : State) (d : Die) (b : Brd),
      exec (.seqCtlClear d b) s = .next (s.setBoard (boardKey d b)
          { (s.board (boardKey d b)) with fault := false, faultCode := 0 })) ∧
  (∀ (s : State) (d : Die) (b : Brd) (c : StepCtx),
      (s.fb.net.find? fun (p : Pkt) => p.type == 7 && pktDst p == (boardKey d b) && p.job == c.job && p.step ==
          c.step) = none →
        (s.board (boardKey d b)).holds c.job c.step = false → s.dead c = false →
        exec (.stepStart d b c) s = .next (s.setBoard (boardKey d b)
            { (s.board (boardKey d b)) with steps := (s.board (boardKey d b)).steps ++ [c] })) ∧
  (∀ (s : State) (d : Die) (b : Brd) (c : StepCtx),
      (s.fb.net.find? fun (p : Pkt) => p.type == 7 && pktDst p == (boardKey d b) && p.job == c.job && p.step ==
          c.step) = none →
        ((s.board (boardKey d b)).holds c.job c.step = true ∨ s.dead c = true) → exec (.stepStart d b c) s = .next
            (s)) ∧
  (∀ (s : State) (d : Die) (b : Brd) (c : StepCtx) (p : Pkt),
      (s.fb.net.find? fun (p : Pkt) => p.type == 7 && pktDst p == (boardKey d b) && p.job == c.job && p.step ==
          c.step) = some p →
        ((s.arrive p).board (boardKey d b)).holds (ctxOfPkt p).job (ctxOfPkt p).step = false →
        (s.arrive p).dead (ctxOfPkt p) = false →
        exec (.stepStart d b c) s = .next ((s.arrive p).setBoard (boardKey d b)
            { (s.arrive p).board (boardKey d b) with steps := ((s.arrive p).board (boardKey d b)).steps ++ [ctxOfPkt p] }))
            ∧
  (∀ (s : State) (d : Die) (b : Brd) (c : StepCtx) (r : List StepCtx),
      (s.board (boardKey d b)).steps = c :: r → (s.board (boardKey d b)).halted = false →
        (s.board (boardKey d b)).failed = false → (s.board (boardKey d b)).cur = none → s.frozen = false →
        s.copyWait (boardKey d b) = false → s.pastSwitch (boardKey d b) = false → s.dead c = false →
        exec (.seqBeginStep d b) s = .next (s.setBoard (boardKey d b)
            { (s.board (boardKey d b)) with steps := r, cur := some c, pc := fld (s.breg (boardKey d b) 0x40010) 0 10, loops := [], base := (s.board (boardKey d b)).q, bases := mput 0 (s.board (boardKey d b)).bases (stepKey c) (s.board (boardKey d b)).q, lastDone := (s.board (boardKey d b)).lastDone ++ [(c.job, c.step, s.now)] }))
            ∧
  (∀ (s : State) (d : Die) (b : Brd),
      ((s.board (boardKey d b)).steps = [] ∨ (s.board (boardKey d b)).halted = true ∨
        (s.board (boardKey d b)).failed = true ∨ (s.board (boardKey d b)).cur.isSome = true ∨ s.frozen = true) →
        exec (.seqBeginStep d b) s = .next (s))

/-- Issue of an instruction, and the faults in place of it. The instruction at the pc of a running step, where it is
legal, within its bounds and held back by no earlier one, joins the scoreboard as the newest entry and the pc and
the stroke counter advance; an illegal one raises fault 1 and one out of bounds fault 2, and neither is issued; one
held back is counted as a stall and not issued. The values and conventions that the manual leaves open are the
model's choices of log entry 45. Rules: R211, R212, R220, R240, R241. -/
def Obligations.Instruction_issue : Prop :=
  (∀ (s : State) (d : Die) (b : Brd) (c : StepCtx),
      (s.board (boardKey d b)).cur = some c → (s.board (boardKey d b)).failed = false → s.frozen = false →
        s.dead c = false → ((s.board (boardKey d b)).sb.any fun e => decide (e.unit = .seq)) = false →
        (s.board (boardKey d b)).pc < (s.board (boardKey d b)).ninstr → (s.board (boardKey d b)).pc < 1024 →
        s.illegal (boardKey d b) (s.board (boardKey d b)).pc (s.instr (boardKey d b) (s.board (boardKey d b)).pc) =
            false →
        s.outside (boardKey d b) (s.ranges (boardKey d b) (s.instr (boardKey d b) (s.board (boardKey d b)).pc)
            c.capture) = false →
        s.blocked (boardKey d b) (s.instr (boardKey d b) (s.board (boardKey d b)).pc) c = false → ∃ t,
        exec (.instructionIssue d b) s = .next t ∧
        (∃ e : SbEntry, (t.board (boardKey d b)).sb = (s.board (boardKey d b)).sb ++ [e] ∧
        e.word = (s.instr (boardKey d b) (s.board (boardKey d b)).pc) ∧ e.pc = (s.board (boardKey d b)).pc ∧
        e.ctx = c ∧ e.unit = unitOf (s.instr (boardKey d b) (s.board (boardKey d b)).pc)) ∧
        (t.board (boardKey d b)).pc = (s.board (boardKey d b)).pc + 1 ∧
          (t.board (boardKey d b)).q = ((s.board (boardKey d b)).q + strokesOf (s.instr (boardKey d b) (s.board
              (boardKey d b)).pc)) % 2 ^ 48 ∧
        t.mem = s.mem ∧ t.frames = s.frames ∧ (∀ k, k ≠ (boardKey d b) → t.board k = s.board k) ∧
        ∀ a, a ≠ (bkBase (boardKey d b)) + 0x40080 → t.reg a = s.reg a) ∧
  (∀ (s : State) (d : Die) (b : Brd) (c : StepCtx),
      (s.board (boardKey d b)).cur = some c → (s.board (boardKey d b)).failed = false → s.frozen = false →
        s.dead c = false → ((s.board (boardKey d b)).sb.any fun e => decide (e.unit = .seq)) = false →
        ((s.board (boardKey d b)).ninstr ≤ (s.board (boardKey d b)).pc ∨ 1024 ≤ (s.board (boardKey d b)).pc ∨
        s.illegal (boardKey d b) (s.board (boardKey d b)).pc (s.instr (boardKey d b) (s.board (boardKey d b)).pc) =
            true) →
        exec (.instructionIssue d b) s = .next (s.boardFault (boardKey d b) 1 (s.board (boardKey d b)).pc c.job)) ∧
  (∀ (s : State) (d : Die) (b : Brd) (c : StepCtx),
      (s.board (boardKey d b)).cur = some c → (s.board (boardKey d b)).failed = false → s.frozen = false →
        s.dead c = false → ((s.board (boardKey d b)).sb.any fun e => decide (e.unit = .seq)) = false →
        (s.board (boardKey d b)).pc < (s.board (boardKey d b)).ninstr → (s.board (boardKey d b)).pc < 1024 →
        s.illegal (boardKey d b) (s.board (boardKey d b)).pc (s.instr (boardKey d b) (s.board (boardKey d b)).pc) =
            false →
        s.outside (boardKey d b) (s.ranges (boardKey d b) (s.instr (boardKey d b) (s.board (boardKey d b)).pc)
            c.capture) = true →
        exec (.instructionIssue d b) s = .next (s.boardFault (boardKey d b) 2 (s.board (boardKey d b)).pc c.job)) ∧
  (∀ (s : State) (d : Die) (b : Brd) (c : StepCtx),
      (s.board (boardKey d b)).cur = some c → (s.board (boardKey d b)).failed = false → s.frozen = false →
        s.dead c = false → ((s.board (boardKey d b)).sb.any fun e => decide (e.unit = .seq)) = false →
        (s.board (boardKey d b)).pc < (s.board (boardKey d b)).ninstr → (s.board (boardKey d b)).pc < 1024 →
        s.illegal (boardKey d b) (s.board (boardKey d b)).pc (s.instr (boardKey d b) (s.board (boardKey d b)).pc) =
            false →
        s.outside (boardKey d b) (s.ranges (boardKey d b) (s.instr (boardKey d b) (s.board (boardKey d b)).pc)
            c.capture) = false →
        s.blocked (boardKey d b) (s.instr (boardKey d b) (s.board (boardKey d b)).pc) c = true →
        exec (.instructionIssue d b) s = .next (s.bump ((bkBase (boardKey d b)) + 0x40084) 1))

/-- The sequencer's own instructions. WAITRK with its target passed completes at once and otherwise waits for it, and
completes when the die's counter has reached it; LOOP jumps back to its target its count of further times and then
falls through, one inside another loop by its own counter; END ends the step's program and leaves its context
pending. STEP of a board that runs no score completes; one whose packets of the step are not all acknowledged, or
that an earlier sending instruction of the step is still before, waits; otherwise it sends the start to every board
of each following stage, and while the module is on the way to Dormant it leaves them for later. CAPT of point kind
0 marks the stroke to record; CAPT of slots and of bytes, in capture mode 1 with captures on, adds its record to the
journal; in replay it restores the next recorded values of its point, and fails the job with 0x0405 where no record
is left and with 0x0104 where the record is of another range; otherwise it completes. The values and conventions
that the manual leaves open are the model's choices of log entries 45 and 120. Rules: R239, R435, R395, R399. -/
def Obligations.Sequencer_instructions : Prop :=
  (∀ (s : State) (d : Die) (b : Brd) (e : SbEntry),
      s.seqHead (boardKey d b) 0x0B = some e → waitTarget e ≤ s.rkAt d →
        exec (.waitrk d b) s = .next (s.finishEntry (boardKey d b) e)) ∧
  (∀ (s : State) (d : Die) (b : Brd) (e : SbEntry),
      s.seqHead (boardKey d b) 0x0B = some e → s.rkAt d < waitTarget e →
        exec (.waitrk d b) s = .next (s.setBoard (boardKey d b)
            { (s.board (boardKey d b)) with waitRk := some (waitTarget e) })) ∧
  (∀ (s : State) (d : Die) (b : Brd) (e : SbEntry) (n : Nat),
      s.seqHead (boardKey d b) 0x0B = some e → (s.board (boardKey d b)).waitRk = some n → n ≤ s.rkAt d →
        exec (.waitrkRelease d b) s = .next ((s.setBoard (boardKey d b)
            { (s.board (boardKey d b)) with waitRk := none }).finishEntry (boardKey d b) e)) ∧
  (∀ (s : State) (d : Die) (b : Brd) (e : SbEntry) (n : Nat),
      s.seqHead (boardKey d b) 0x0B = some e → (s.board (boardKey d b)).waitRk = some n → s.rkAt d < n →
        exec (.waitrkRelease d b) s = .next (s)) ∧
  (∀ (s : State) (d : Die) (b : Brd) (e : SbEntry),
      s.seqHead (boardKey d b) 0x0E = some e → (s.board (boardKey d b)).loops = [] → tf e.word 1 0 16 ≠ 0 →
        exec (.loop d b) s = .next ((s.setBoard (boardKey d b)
            { (s.board (boardKey d b)) with loops := [(e.pc, tf e.word 1 0 16 - 1)], pc := tf e.word 0 16 10 }).finishEntry
            (boardKey d b) e)) ∧
  (∀ (s : State) (d : Die) (b : Brd) (e : SbEntry) (n : Nat) (r : List (Nat × Nat)),
      s.seqHead (boardKey d b) 0x0E = some e → (s.board (boardKey d b)).loops = (e.pc, n + 1) :: r →
        exec (.loop d b) s = .next ((s.setBoard (boardKey d b)
            { (s.board (boardKey d b)) with loops := (e.pc, n) :: r, pc := tf e.word 0 16 10 }).finishEntry (boardKey
            d b) e)) ∧
  (∀ (s : State) (d : Die) (b : Brd) (e : SbEntry) (r : List (Nat × Nat)),
      s.seqHead (boardKey d b) 0x0E = some e → (s.board (boardKey d b)).loops = (e.pc, 0) :: r →
        exec (.loop d b) s = .next ((s.setBoard (boardKey d b)
            { (s.board (boardKey d b)) with loops := r }).finishEntry (boardKey d b) e)) ∧
  (∀ (s : State) (d : Die) (b : Brd) (e : SbEntry),
      s.seqHead (boardKey d b) 0x0E = some e → (s.board (boardKey d b)).loops = [] → tf e.word 1 0 16 = 0 →
        exec (.loop d b) s = .next ((s.setBoard (boardKey d b) (s.board (boardKey d b))).finishEntry (boardKey d b)
            e)) ∧
  (∀ (s : State) (d : Die) (b : Brd) (e : SbEntry) (k n : Nat) (r : List (Nat × Nat)),
      s.seqHead (boardKey d b) 0x0E = some e → (s.board (boardKey d b)).loops = (k, n) :: r → k ≠ e.pc →
        tf e.word 1 0 16 ≠ 0 →
        exec (.loop d b) s = .next ((s.setBoard (boardKey d b)
            { (s.board (boardKey d b)) with loops := (e.pc, tf e.word 1 0 16 - 1) :: (s.board (boardKey d b)).loops, pc := tf e.word 0 16 10 }).finishEntry
            (boardKey d b) e)) ∧
  (∀ (s : State) (d : Die) (b : Brd) (e : SbEntry) (k n : Nat) (r : List (Nat × Nat)),
      s.seqHead (boardKey d b) 0x0E = some e → (s.board (boardKey d b)).loops = (k, n) :: r → k ≠ e.pc →
        tf e.word 1 0 16 = 0 →
        exec (.loop d b) s = .next ((s.setBoard (boardKey d b) (s.board (boardKey d b))).finishEntry (boardKey d b)
            e)) ∧
  (∀ (s : State) (d : Die) (b : Brd) (e : SbEntry),
      s.seqHead (boardKey d b) 0x0F = some e →
        exec (.endProg d b) s = .next ((s.setBoard (boardKey d b)
            { (s.board (boardKey d b)) with cur := none, endPend := (s.board (boardKey d b)).endPend ++ [e.ctx] }).finishEntry
            (boardKey d b) e)) ∧
  (∀ (s : State) (d : Die) (b : Brd) (e : SbEntry),
      s.seqHead (boardKey d b) 0x0C = some e → (s.board (boardKey d b)).score = none →
        exec (.step d b) s = .next (s.finishEntry (boardKey d b) e)) ∧
  (∀ (s : State) (d : Die) (b : Brd) (e : SbEntry) (n : Nat),
      s.seqHead (boardKey d b) 0x0C = some e → (s.board (boardKey d b)).score = some n →
        ((s.fb.acks.any fun p => pktSrc p == (boardKey d b) && p.job == e.ctx.job && p.step == e.ctx.step) = true ∨
        ((s.board (boardKey d b)).sb.any fun y => (y.ctx.job == e.ctx.job && y.ctx.step == e.ctx.step) && decide (y.id
            < e.id) && ((topc y.word == 5 && tf y.word 0 23 1 == 1) || topc y.word == 0x0A)) = true) →
        exec (.step d b) s = .next (s)) ∧
  (∀ (s : State) (d : Die) (b : Brd) (e : SbEntry) (n : Nat),
      s.seqHead (boardKey d b) 0x0C = some e → (s.board (boardKey d b)).score = some n →
        (s.fb.acks.any fun p => pktSrc p == (boardKey d b) && p.job == e.ctx.job && p.step == e.ctx.step) = false →
        ((s.board (boardKey d b)).sb.any fun y => (y.ctx.job == e.ctx.job && y.ctx.step == e.ctx.step) && decide (y.id
            < e.id) && ((topc y.word == 5 && tf y.word 0 23 1 == 1) || topc y.word == 0x0A)) = false →
        s.pw.entering ≠ some 4 →
        (((s.score n).file.man.succ.getD (s.board (boardKey d b)).stage []).any (s.stageHeld n)) = false →
        exec (.step d b) s = .next ((((s.score n).file.man.succ.getD (s.board (boardKey d b)).stage []).foldl (fun s t
            => s.sendStep n t (s.pktOf (boardKey d b) e.ctx e.seq0 7 3) e.ctx) s).finishEntry (boardKey d b) e)) ∧
  (∀ (s : State) (d : Die) (b : Brd) (e : SbEntry) (n : Nat),
      s.seqHead (boardKey d b) 0x0C = some e → (s.board (boardKey d b)).score = some n →
        (s.fb.acks.any fun p => pktSrc p == (boardKey d b) && p.job == e.ctx.job && p.step == e.ctx.step) = false →
        ((s.board (boardKey d b)).sb.any fun y => (y.ctx.job == e.ctx.job && y.ctx.step == e.ctx.step) && decide (y.id
            < e.id) && ((topc y.word == 5 && tf y.word 0 23 1 == 1) || topc y.word == 0x0A)) = false →
        s.pw.entering = some 4 →
        exec (.step d b) s = .next (({ s with fb.later := s.fb.later ++ ((s.score n).file.man.succ.getD (s.board (boardKey d b)).stage []).map fun g => (n, g, s.pktOf (boardKey d b) e.ctx e.seq0 7 3, e.ctx) }
            : State).finishEntry (boardKey d b) e)) ∧
  (∀ (s : State) (d : Die) (b : Brd) (e : SbEntry) (n : Nat),
      s.seqHead (boardKey d b) 0x0C = some e → (s.board (boardKey d b)).score = some n → s.pw.entering ≠ some 4 →
        (((s.score n).file.man.succ.getD (s.board (boardKey d b)).stage []).any (s.stageHeld n)) = true →
        exec (.step d b) s = .next (s)) ∧
  (∀ (s : State) (d : Die) (b : Brd) (e : SbEntry),
      s.seqHead (boardKey d b) 0x0D = some e → tf e.word 0 16 2 = 0 → (s.captures e.ctx = true ∨ e.ctx.capture = 2) →
        exec (.capt d b) s = .next ((s.setBoard (boardKey d b)
            { (s.board (boardKey d b)) with captStroke := mput 0 (s.board (boardKey d b)).captStroke (captKey e.ctx (tf e.word 0 18 6)) (tf e.word 1 0 16 + 1) }).finishEntry
            (boardKey d b) e)) ∧
  (∀ (s : State) (d : Die) (b : Brd) (e : SbEntry),
      s.seqHead (boardKey d b) 0x0D = some e → s.captures e.ctx = false → e.ctx.capture ≠ 2 →
        exec (.capt d b) s = .next (s.finishEntry (boardKey d b) e)) ∧
  (∀ (s : State) (d : Die) (b : Brd) (e : SbEntry),
      s.seqHead (boardKey d b) 0x0D = some e → tf e.word 0 16 2 ≠ 0 → tf e.word 3 0 14 = 0 →
        exec (.capt d b) s = .next (s.finishEntry (boardKey d b) e)) ∧
  (∀ (s : State) (d : Die) (b : Brd) (e : SbEntry),
      s.seqHead (boardKey d b) 0x0D = some e → tf e.word 3 0 14 ≠ 0 → tf e.word 0 16 2 = 1 → s.captures e.ctx = true →
        exec (.capt d b) s = .next ((s.jrec 6 (s.jobRing e.ctx.job).1 (s.jobRing e.ctx.job).2 e.ctx.step (tf e.word 1
            0 16) (s.board (boardKey d b)).lb (leBytes 2 (tf e.word 2 0 11) ++ leBytes 2 (tf e.word 3 0 14) ++
            tallyBytes (s.board (boardKey d b)) (tf e.word 2 0 11) (tf e.word 3 0 14))).finishEntry (boardKey d b) e))
            ∧
  (∀ (s : State) (d : Die) (b : Brd) (e : SbEntry),
      s.seqHead (boardKey d b) 0x0D = some e → tf e.word 3 0 14 ≠ 0 → 2 ≤ tf e.word 0 16 2 → s.captures e.ctx = true →
        exec (.capt d b) s = .next ((s.jrec (5 + tf e.word 0 16 2) (s.jobRing e.ctx.job).1 (s.jobRing e.ctx.job).2
            e.ctx.step (tf e.word 1 0 16) (s.board (boardKey d b)).lb (leBytes 4 (8 * tf e.word 2 0 14) ++ leBytes 4
            (tf e.word 3 0 14) ++ s.load ((bkBase (boardKey d b)) + 8 * tf e.word 2 0 14) (tf e.word 3 0
            14))).finishEntry (boardKey d b) e)) ∧
  (∀ (s : State) (d : Die) (b : Brd) (e : SbEntry),
      s.seqHead (boardKey d b) 0x0D = some e → tf e.word 3 0 14 ≠ 0 → s.captures e.ctx = false → e.ctx.capture = 2 →
        tf e.word 0 16 2 ≠ 0 →
        (s.captured (5 + tf e.word 0 16 2) e.ctx (tf e.word 1 0 16) (s.board (boardKey d b)).lb)[mget 0 (s.board
            (boardKey d b)).captStroke (captKey e.ctx (64 + tf e.word 1 0 16))]? = none →
        exec (.capt d b) s = .next (s.jobFault e.ctx.job 0x0405)) ∧
  (∀ (s : State) (d : Die) (b : Brd) (e : SbEntry) (z : Nat) (v : List Byte),
      s.seqHead (boardKey d b) 0x0D = some e → tf e.word 3 0 14 ≠ 0 → s.captures e.ctx = false → e.ctx.capture = 2 →
        tf e.word 0 16 2 = 1 →
        (s.captured (5 + tf e.word 0 16 2) e.ctx (tf e.word 1 0 16) (s.board (boardKey d b)).lb)[mget 0 (s.board
            (boardKey d b)).captStroke (captKey e.ctx (64 + tf e.word 1 0 16))]? = some (z, v) →
        (leAt (v.drop 32) 0 2 ≠ tf e.word 2 0 11 ∨ leAt (v.drop 32) 2 2 ≠ tf e.word 3 0 14) →
        exec (.capt d b) s = .next ((s.captUsed (boardKey d b) e.ctx (tf e.word 1 0 16)).jobFault e.ctx.job 0x0104)) ∧
  (∀ (s : State) (d : Die) (b : Brd) (e : SbEntry) (z : Nat) (v : List Byte),
      s.seqHead (boardKey d b) 0x0D = some e → tf e.word 3 0 14 ≠ 0 → s.captures e.ctx = false → e.ctx.capture = 2 →
        tf e.word 0 16 2 = 1 →
        (s.captured (5 + tf e.word 0 16 2) e.ctx (tf e.word 1 0 16) (s.board (boardKey d b)).lb)[mget 0 (s.board
            (boardKey d b)).captStroke (captKey e.ctx (64 + tf e.word 1 0 16))]? = some (z, v) →
        (leAt (v.drop 32) 0 2 = tf e.word 2 0 11 ∧ leAt (v.drop 32) 2 2 = tf e.word 3 0 14) →
        exec (.capt d b) s = .next (((s.captUsed (boardKey d b) e.ctx (tf e.word 1 0 16)).setBoard (boardKey d b)
            (((s.captUsed (boardKey d b) e.ctx (tf e.word 1 0 16)).board (boardKey d b)).fromTally (tf e.word 2 0 11)
            (v.drop 36))).finishEntry (boardKey d b) e)) ∧
  (∀ (s : State) (d : Die) (b : Brd) (e : SbEntry) (z : Nat) (v : List Byte),
      s.seqHead (boardKey d b) 0x0D = some e → tf e.word 3 0 14 ≠ 0 → s.captures e.ctx = false → e.ctx.capture = 2 →
        2 ≤ tf e.word 0 16 2 →
        (s.captured (5 + tf e.word 0 16 2) e.ctx (tf e.word 1 0 16) (s.board (boardKey d b)).lb)[mget 0 (s.board
            (boardKey d b)).captStroke (captKey e.ctx (64 + tf e.word 1 0 16))]? = some (z, v) →
        (leAt (v.drop 32) 0 4 ≠ 8 * tf e.word 2 0 14 ∨ leAt (v.drop 32) 4 4 ≠ tf e.word 3 0 14) →
        exec (.capt d b) s = .next ((s.captUsed (boardKey d b) e.ctx (tf e.word 1 0 16)).jobFault e.ctx.job 0x0104)) ∧
  (∀ (s : State) (d : Die) (b : Brd) (e : SbEntry) (z : Nat) (v : List Byte),
      s.seqHead (boardKey d b) 0x0D = some e → tf e.word 3 0 14 ≠ 0 → s.captures e.ctx = false → e.ctx.capture = 2 →
        2 ≤ tf e.word 0 16 2 →
        (s.captured (5 + tf e.word 0 16 2) e.ctx (tf e.word 1 0 16) (s.board (boardKey d b)).lb)[mget 0 (s.board
            (boardKey d b)).captStroke (captKey e.ctx (64 + tf e.word 1 0 16))]? = some (z, v) →
        (leAt (v.drop 32) 0 4 = 8 * tf e.word 2 0 14 ∧ leAt (v.drop 32) 4 4 = tf e.word 3 0 14) →
        exec (.capt d b) s = .next (((s.captUsed (boardKey d b) e.ctx (tf e.word 1 0 16)).store ((bkBase (boardKey d
            b)) + 8 * tf e.word 2 0 14) (slice (v.drop 32) 8 (tf e.word 3 0 14))).finishEntry (boardKey d b) e))

/-- Watchdog, refetch and job failure. A step of a board that has finished no instruction for the watchdog limit raises
fault 7 at its oldest unfinished instruction; a step whose oldest is a WAITRK or waits for tokens does not, and with
limit 0 the watchdog does nothing. A score refetch counts, and stores the instruction at the pc from the score's
copy. A job marked failed is cancelled with its status; a job not marked is left alone. The values and conventions
that the manual leaves open are the model's choices of log entry 53. Rules: R241, R242, R243. -/
def Obligations.Board_faults_and_failures : Prop :=
  (∀ (s : State) (d : Die) (b : Brd) (e : SbEntry) (j n at_ : Nat),
      (s.board (boardKey d b)).lastDone = [(j, n, at_)] → fld (s.reg ((bkBase (boardKey d b)) + 0x40014)) 0 16 ≠ 0 →
        at_ + fld (s.reg ((bkBase (boardKey d b)) + 0x40014)) 0 16 * 10000 ≤ s.now →
        ((s.board (boardKey d b)).sb.find? fun e => e.ctx.job == j && e.ctx.step == n) = some e → topc e.word ≠ 0x0B →
        s.tokenWait (boardKey d b) e = false →
        exec (.watchdogExpiry d b) s = .next (s.boardFault (boardKey d b) 7 e.pc j)) ∧
  (∀ (s : State) (d : Die) (b : Brd) (e : SbEntry) (j n at_ : Nat),
      (s.board (boardKey d b)).lastDone = [(j, n, at_)] →
        ((s.board (boardKey d b)).sb.find? fun e => e.ctx.job == j && e.ctx.step == n) = some e →
        (topc e.word = 0x0B ∨ s.tokenWait (boardKey d b) e = true) → exec (.watchdogExpiry d b) s = .next (s)) ∧
  (∀ (s : State) (d : Die) (b : Brd) (pc j : Nat),
      (s.board (boardKey d b)).lastDone.findSome? (s.stepLate (boardKey d b)) = some (pc, j) →
        exec (.watchdogExpiry d b) s = .next (s.boardFault (boardKey d b) 7 pc j)) ∧
  (∀ (s : State) (d : Die) (b : Brd),
      fld (s.reg ((bkBase (boardKey d b)) + 0x40014)) 0 16 = 0 → exec (.watchdogExpiry d b) s = .next (s)) ∧
  (∀ (s : State) (d : Die) (b : Brd) (n : Nat) (i : BoardImg) (w : Nat),
      (s.board (boardKey d b)).score = some n →
        ((s.score n).file.boards.find? fun i => i.lb == (s.board (boardKey d b)).lb) = some i →
        i.prog[(s.board (boardKey d b)).pc]? = some w →
        exec (.scoreRefetch d b) s = .next ((s.bump ((bkBase (boardKey d b)) + 0x40088) 1).store ((bkBase (boardKey d
            b)) + 0x20000 + 16 * (s.board (boardKey d b)).pc) (leBytes 16 w))) ∧
  (∀ (s : State) (d : Die) (b : Brd),
      (s.board (boardKey d b)).score = none →
        exec (.scoreRefetch d b) s = .next (s.bump ((bkBase (boardKey d b)) + 0x40088) 1)) ∧
  (∀ (s : State) (j : Nat) (x : Job),
      s.job j = some x → x.failedAt = true → x.st ≠ .completed → x.replayed = false →
        exec (.jobFailureCancel j) s = .next (s.failJob j x.status)) ∧
  (∀ (s : State) (j : Nat) (x : Job),
      s.job j = some x → x.failedAt = true → x.st ≠ .completed → x.replayed = true →
        exec (.jobFailureCancel j) s = .next ((s.setRing x.ring
            { s.ring x.ring with replay := (s.ring x.ring).replay.map fun _ => [] }).failJob j x.status)) ∧
  (∀ (s : State) (j : Nat) (x : Job),
      s.job j = some x → (x.failedAt = false ∨ x.st = .completed) → exec (.jobFailureCancel j) s = .next (s))

/-- A stroke instruction begins its strokes, forwards them or skips them. A frame with no stroke in hand, of a die that
runs, takes up the oldest stroke forwarded to it, and before Ready none; otherwise the next iteration of its oldest
STROKE, with the drive its slate, its stride set and its group exponents give. A STROKE of no iteration, no row or
no rod ends without a stroke; an iteration whose groups hold no code is counted as skipped and adds nothing. The
values and conventions that the manual leaves open are the model's choices of log entries 51, 57, 93, 96, 100, 119
and 120. Rules: R63, R182, R215, R220, R237, R283. -/
def Obligations.Stroke_begin : Prop :=
  (∀ (s : State) (d : Die) (b : Brd) (f : Sys2Proof.Frm) (ecc : Bool) (x : Stroke) (r : List Stroke),
      (s.frame (frameKey d b f)).queue = x :: r → (s.frame (frameKey d b f)).stroke = none →
        s.awakeFrame (frameKey d b f) = true →
        exec (.stroke d b f ecc) s = .next ((s.setFrame (frameKey d b f)
            { (s.frame (frameKey d b f)) with queue := r }).beginStroke (frameKey d b f)
            { x with lane := s.laneOf (frameKey d b f) x.ctx } (!x.idle))) ∧
  (∀ (s : State) (d : Die) (b : Brd) (f : Sys2Proof.Frm) (ecc : Bool) (x : Stroke) (r : List Stroke),
      (s.frame (frameKey d b f)).queue = x :: r → ((s.frame (frameKey d b f)).stroke.isSome = true ∨
        s.awakeFrame (frameKey d b f) = false) → exec (.stroke d b f ecc) s = .next (s)) ∧
  (∀ (s : State) (d : Die) (b : Brd) (f : Sys2Proof.Frm) (ecc : Bool) (e : SbEntry),
      (s.frame (frameKey d b f)).queue = [] → s.headOf (boardKey d b) (.frame f) = some e → topc e.word = 1 →
        s.dead e.ctx = false → (tnb e.word = 0 ∨ (strokeOp e.word).nrow = 0 ∨ (strokeOp e.word).nrod = 0) →
        exec (.stroke d b f ecc) s = .next (s.finishEntry (boardKey d b) e)) ∧
  (∀ (s : State) (d : Die) (b : Brd) (f : Sys2Proof.Frm) (e : SbEntry),
      (s.frame (frameKey d b f)).queue = [] → s.headOf (boardKey d b) (.frame f) = some e → topc e.word = 1 →
        s.dead e.ctx = false → tnb e.word ≠ 0 → (strokeOp e.word).nrow ≠ 0 → (strokeOp e.word).nrod ≠ 0 →
        e.iter < tnb e.word → s.redirected (boardKey d b) f ((e.seq0 + e.iter) % 2 ^ 48) = (frameKey d b f) →
        fkBoard (frameKey d b f) = (boardKey d b) → (s.frame (frameKey d b f)).stroke = none →
        (s.strokeDrive (boardKey d b) (frameKey d b f) e.word e.iter).eref = none →
        s.offDuty (frameKey d b f) = false →
        exec (.stroke d b f false) s = .next (((((s.setEntry (boardKey d b) { e with iter := e.iter + 1 }).countTurn
            (boardKey d b) e.ctx (s.strokeDrive (boardKey d b) (frameKey d b f) e.word e.iter)).bump (fkBase (frameKey
            d b f) + 0x84) 1).addCounts e.ctx.job { skip := 1 }).iterDone (boardKey d b) e.id)) ∧
  (∀ (s : State) (d : Die) (b : Brd) (f : Sys2Proof.Frm) (e : SbEntry) (er : Int),
      (s.frame (frameKey d b f)).queue = [] → s.headOf (boardKey d b) (.frame f) = some e → topc e.word = 1 →
        s.dead e.ctx = false → tnb e.word ≠ 0 → (strokeOp e.word).nrow ≠ 0 → (strokeOp e.word).nrod ≠ 0 →
        e.iter < tnb e.word → s.redirected (boardKey d b) f ((e.seq0 + e.iter) % 2 ^ 48) = (frameKey d b f) →
        fkBoard (frameKey d b f) = (boardKey d b) → (s.frame (frameKey d b f)).stroke = none →
        (s.strokeDrive (boardKey d b) (frameKey d b f) e.word e.iter).eref = some er →
        exec (.stroke d b f false) s = .next (((s.setEntry (boardKey d b) { e with iter := e.iter + 1 }).countTurn
            (boardKey d b) e.ctx (s.strokeDrive (boardKey d b) (frameKey d b f) e.word e.iter)).beginStroke (frameKey
            d b f)
          { ctx := e.ctx, plane := (strokeOp e.word).plane, shape := (strokeOp e.word).shape, row0 := (strokeOp e.word).row0, rod0 := (strokeOp e.word).rod0, nrod := (strokeOp e.word).nrod,
            w9 := ((s.setEntry (boardKey d b) { e with iter := e.iter + 1 }).countTurn (boardKey d b) e.ctx (s.strokeDrive (boardKey d b) (frameKey d b f) e.word e.iter)).planeW9 (frameKey d b f) (strokeOp e.word).plane,
            tslot := (strokeOp e.word).tslot + s.tlyStride (boardKey d b) (strokeOp e.word).sidx * e.iter, q := (e.seq0 + e.iter) % 2 ^ 48, es := (s.strokeDrive (boardKey d b) (frameKey d b f) e.word e.iter).es.getD er,
            eref := er, v := (s.strokeDrive (boardKey d b) (frameKey d b f) e.word e.iter).v, parts := [], lane := ((s.setEntry (boardKey d b) { e with iter := e.iter + 1 }).countTurn (boardKey d b) e.ctx (s.strokeDrive (boardKey d b) (frameKey d b f) e.word e.iter)).laneOf (frameKey d b f) e.ctx,
            tag := e.id, capt := e.capt } (s.strokeDrive (boardKey d b) (frameKey d b f) e.word e.iter).es.isSome))

/-- The end of a stroke, a confidence re-stroke, the slew to zero, PSEL and a part of the exact lane. The end of a
started stroke counts it as performed, records its codes where it is captured, adds its trimmed codes to the running
sums and judges them: the frame goes on to its next part, or waits for a re-stroke. A converter fault raises frame
fault 4, marks the frame for diagnosis and sends the stroke to the exact lane. A re-stroke is counted and draws its
charge again, and begins if the pool grants it. A frame without a stroke in hand or queued moves every drive level
one slew step towards zero. A PSEL selects its plane, unless the plane is selected already or the frame is out of
service, and is freed; a bad read of the side store raises frame fault 3. A part of the oldest lane stroke is
evaluated from its image once its tokens are drawn; without an image its job fails. Where there is nothing to do
none of them changes anything. The values and conventions that the manual leaves open are the model's choices of log
entries 4, 13, 44, 93, 99, 101 and 119. Rules: R32, R38, R45, R47, R56, R58, R69, R233, R234. -/
def Obligations.Stroke_end : Prop :=
  (∀ (s : State) (d : Die) (b : Brd) (f : Sys2Proof.Frm) (x : Stroke),
      (s.frame (frameKey d b f)).stroke = some x → x.started = true → x.lane = false →
        exec (.strokeEnd d b f false) s = .next
        ((let cs := s.strokeCodes (frameKey d b f) x
        let u := ((s.take 264).countPerformed (frameKey d b f) (cs.map (·.2))).recordCodes (frameKey d b f) x cs
        let p := u.judge_ (frameKey d b f) (x.addCodes (u.trimCodes (frameKey d b f) x cs))
        if p.2 then p.1.nextPart partFuel (frameKey d b f) else p.1))) ∧
  (∀ (s : State) (d : Die) (b : Brd) (f : Sys2Proof.Frm) (x : Stroke),
      (s.frame (frameKey d b f)).stroke = some x → x.started = true → x.lane = false →
        exec (.strokeEnd d b f true) s = .next (State.nextPart partFuel (((s.frameFault (frameKey d b f) 4).setFrame
            (frameKey d b f) { (s.frameFault (frameKey d b f) 4).frame (frameKey d b f) with diagnose := true }).toLane
            (frameKey d b f)) (frameKey d b f))) ∧
  (∀ (s : State) (d : Die) (b : Brd) (f : Sys2Proof.Frm) (conv : Bool) (x : Stroke),
      (s.frame (frameKey d b f)).stroke = some x → (x.started = false ∨ x.lane = true) →
        exec (.strokeEnd d b f conv) s = .next (s)) ∧
  (∀ (s : State) (d : Die) (b : Brd) (f : Sys2Proof.Frm) (conv : Bool),
      (s.frame (frameKey d b f)).stroke = none → exec (.strokeEnd d b f conv) s = .next (s)) ∧
  (∀ (s : State) (d : Die) (b : Brd) (f : Sys2Proof.Frm) (x : Stroke),
      (s.frame (frameKey d b f)).stroke = some x → x.pending = true → exec (.confidenceRestroke d b f) s = .next
        ((let u := (s.setStroke (frameKey d b f) (some { x with pending := false })).bump (fkBase (frameKey d b f) + 0x8C) 1
        let p := u.draw d prioJob (strokeCharge (u.fInteg (frameKey d b f)) (x.parts.getD x.part (0, 0)).2 (shapeRods x.shape)) (.stroke (frameKey d b f))
        if p.2 then p.1.startPart (frameKey d b f) else p.1))) ∧
  (∀ (s : State) (d : Die) (b : Brd) (f : Sys2Proof.Frm) (x : Stroke),
      (s.frame (frameKey d b f)).stroke = some x → x.pending = false → exec (.confidenceRestroke d b f) s = .next (s))
          ∧
  (∀ (s : State) (d : Die) (b : Brd) (f : Sys2Proof.Frm),
      (s.frame (frameKey d b f)).stroke = none → exec (.confidenceRestroke d b f) s = .next (s)) ∧
  (∀ (s : State) (d : Die) (b : Brd) (f : Sys2Proof.Frm),
      (s.frame (frameKey d b f)).stroke = none → (s.frame (frameKey d b f)).queue = [] →
        s.strokeQueued (frameKey d b f) = false →
        exec (.rowRamp d b f) s = .next (s.setFrame (frameKey d b f)
            { (s.frame (frameKey d b f)) with levels := (((s.frame (frameKey d b f)).levels.map fun (e : Nat × Int) =>
            (e.1, if e.2 < 0 then min 0 (e.2 + ((fld (s.frmLive (frameKey d b f) 0x18) 0 8 : Nat) : Int) * (if bit (s.frmLive (frameKey d b f) 0x14) (e.1 / 64) then 16 else 8))
                  else max 0 (e.2 - ((fld (s.frmLive (frameKey d b f) 0x18) 0 8 : Nat) : Int) * (if bit (s.frmLive (frameKey d b f) 0x14) (e.1 / 64) then 16 else 8)))).filter
              fun e => decide (e.2 ≠ 0)) })) ∧
  (∀ (s : State) (d : Die) (b : Brd) (f : Sys2Proof.Frm),
      ((s.frame (frameKey d b f)).stroke.isSome = true ∨ (s.frame (frameKey d b f)).queue ≠ [] ∨
        s.strokeQueued (frameKey d b f) = true) → exec (.rowRamp d b f) s = .next (s)) ∧
  (∀ (s : State) (d : Die) (b : Brd) (f : Sys2Proof.Frm) (e : SbEntry),
      s.headOf (boardKey d b) (.frame f) = some e → topc e.word = 2 → (s.frame (frameKey d b f)).stroke = none →
        ((s.frame (frameKey d b f)).st = .programming ∨ (s.frame (frameKey d b f)).st = .repair ∨
        (s.frame (frameKey d b f)).st = .spare ∨ (s.frame (frameKey d b f)).st = .retired) →
        exec (.psel d b f) s = .next (s.finishEntry (boardKey d b) e)) ∧
  (∀ (s : State) (d : Die) (b : Brd) (f : Sys2Proof.Frm) (e : SbEntry),
      s.headOf (boardKey d b) (.frame f) = some e → topc e.word = 2 → (s.frame (frameKey d b f)).stroke = none →
        (s.frame (frameKey d b f)).st ≠ .programming → (s.frame (frameKey d b f)).st ≠ .repair →
        (s.frame (frameKey d b f)).st ≠ .spare → (s.frame (frameKey d b f)).st ≠ .retired →
        (s.frame (frameKey d b f)).planeValid = true → (s.frame (frameKey d b f)).plane = tf e.word 0 22 3 →
        exec (.psel d b f) s = .next (s.finishEntry (boardKey d b) e)) ∧
  (∀ (s : State) (d : Die) (b : Brd) (f : Sys2Proof.Frm) (e : SbEntry),
      s.headOf (boardKey d b) (.frame f) = some e → topc e.word = 2 → (s.frame (frameKey d b f)).stroke = none →
        (s.frame (frameKey d b f)).st ≠ .programming → (s.frame (frameKey d b f)).st ≠ .repair →
        (s.frame (frameKey d b f)).st ≠ .spare → (s.frame (frameKey d b f)).st ≠ .retired →
        ((s.frame (frameKey d b f)).planeValid = false ∨ (s.frame (frameKey d b f)).plane ≠ tf e.word 0 22 3) →
        exec (.psel d b f) s = .next
        ((let p := s.selectPlane (frameKey d b f) (tf e.word 0 22 3)
        (if p.2 then ((p.1.frameFault (frameKey d b f) 3).setFrame (frameKey d b f)
            { (p.1.frameFault (frameKey d b f) 3).frame (frameKey d b f) with diagnose := true }) else
            p.1).finishEntry (boardKey d b) e))) ∧
  (∀ (s : State) (d : Die) (b : Brd) (f : Sys2Proof.Frm) (e : SbEntry),
      s.headOf (boardKey d b) (.frame f) = some e → (topc e.word ≠ 2 ∨
        (s.frame (frameKey d b f)).stroke.isSome = true) → exec (.psel d b f) s = .next (s)) ∧
  (∀ (s : State) (d : Die) (b : Brd) (f : Sys2Proof.Frm),
      s.headOf (boardKey d b) (.frame f) = none → exec (.psel d b f) s = .next (s)) ∧
  (∀ (s : State) (d : Die) (b : Brd) (k : Nat) (x : Stroke),
      s.laneHead (boardKey d b) = some (k, x) → s.imageOf k x.plane = none →
        exec (.exactLanePart d b) s = .next (((s.setStroke k none).boundary k).jobFault x.ctx.job 0x0504)) ∧
  (∀ (s : State) (d : Die) (b : Brd) (k : Nat) (x : Stroke) (g : PlaneImg),
      s.laneHead (boardKey d b) = some (k, x) → s.imageOf k x.plane = some g → x.started = true →
        exec (.exactLanePart d b) s = .next (s.lanePart (boardKey d b) k x g)) ∧
  (∀ (s : State) (d : Die) (b : Brd) (k : Nat) (x : Stroke) (g : PlaneImg),
      s.laneHead (boardKey d b) = some (k, x) → s.imageOf k x.plane = some g → x.started = false →
        ((s.die d).draws.any fun w => decide (w.work = .exact (boardKey d b))) = true →
        exec (.exactLanePart d b) s = .next (s)) ∧
  (∀ (s : State) (d : Die) (b : Brd) (k : Nat) (x : Stroke) (g : PlaneImg) (u : State) (ok : Bool),
      s.laneHead (boardKey d b) = some (k, x) → s.imageOf k x.plane = some g → x.started = false →
        ((s.die d).draws.any fun w => decide (w.work = .exact (boardKey d b))) = false →
        s.draw d prioJob (cdiv x.partUnits 40) (.exact (boardKey d b)) = (u, ok) →
        exec (.exactLanePart d b) s = .next ((if ok then u.lanePart (boardKey d b) k x g else u))) ∧
  (∀ (s : State) (d : Die) (b : Brd),
      s.laneHead (boardKey d b) = none → exec (.exactLanePart d b) s = .next (s))

/-- Token ticks, grants and the balance check. A tick in Boot, Ready or Drowsy measures the unmetered power, shows the
budget of R437 and refills every powered die's pool by its share of it; in the other states nothing happens. The
first waiting draw takes its next part, at most half a pool, where the pool has it and a tick has passed since the
last part; its work starts with the last part. Otherwise it waits. The balance check reports every powered die whose
issued tokens are not those consumed, returned and pooled, and changes nothing where all balance. The values and
conventions that the manual leaves open are the model's choices of log entries 38 and 95. Rules: R437, R438, R439. -/
def Obligations.Token_pools : Prop :=
  (∀ (s : State),
      s.pstate ≠ 1 → s.pstate ≠ 2 → s.pstate ≠ 3 → exec (.tokenTick) s = .next (s)) ∧
  (∀ (s : State),
      (s.pstate = 1 ∨ s.pstate = 2 ∨ s.pstate = 3) → exec (.tokenTick) s = .next
        ((let u := (s.setBoth 0x8000C (word (Config.freeNat s.fresh % 65536))).take 1
        let b := budgetOf (fld (u.reg (hubBase 0 + 0x80004)) 0 8) (fld (u.reg (hubBase 0 + 0x80004)) 8 8)
          (fld (u.reg (hubBase 0 + 0x8000C)) 0 16) u.pw.halved u.pw.overHalve
        let v := u.setBoth 0x80008 (word b)
        let ds := (List.range 32).filter v.diePowered
        let want := fun d => min (v.dieLimit d) (v.dieDemand d)
        ds.foldl (fun t d => t.refill d (grantOf b (nsum (ds.map want)) (want d))) v))) ∧
  (∀ (s : State) (d : Die) (w : Draw),
      firstDraw (s.die d).draws = some w → w.ready = true → (min (w.need - w.got) halfDepth) ≤ s.openTo d w.prio →
        w.need ≤ w.got + (min (w.need - w.got) halfDepth) →
        exec (.tokenGrant d) s = .next (((if w.prio = 0 then s.consumeFirst d (min (w.need - w.got) halfDepth) else
            s.consume d (min (w.need - w.got) halfDepth)).setDie d
            { (if w.prio = 0 then s.consumeFirst d (min (w.need - w.got) halfDepth) else s.consume d (min (w.need - w.got) halfDepth)).die d with draws := ((if w.prio = 0 then s.consumeFirst d (min (w.need - w.got) halfDepth) else s.consume d (min (w.need - w.got) halfDepth)).die d).draws.erase w }).startWork
            w)) ∧
  (∀ (s : State) (d : Die) (w : Draw),
      firstDraw (s.die d).draws = some w → w.ready = true → (min (w.need - w.got) halfDepth) ≤ s.openTo d w.prio →
        w.got + (min (w.need - w.got) halfDepth) < w.need →
        exec (.tokenGrant d) s = .next ((if w.prio = 0 then s.consumeFirst d (min (w.need - w.got) halfDepth) else
            s.consume d (min (w.need - w.got) halfDepth)).setDie d
            { (if w.prio = 0 then s.consumeFirst d (min (w.need - w.got) halfDepth) else s.consume d (min (w.need - w.got) halfDepth)).die d with draws := ((if w.prio = 0 then s.consumeFirst d (min (w.need - w.got) halfDepth) else s.consume d (min (w.need - w.got) halfDepth)).die d).draws.map fun (v : Draw) => if v = w then { w with got := w.got + (min (w.need - w.got) halfDepth), ready := false } else v }))
            ∧
  (∀ (s : State) (d : Die) (w : Draw),
      firstDraw (s.die d).draws = some w → (w.ready = false ∨ s.openTo d w.prio < (min (w.need - w.got) halfDepth)) →
        exec (.tokenGrant d) s = .next (s)) ∧
  (∀ (s : State) (d : Die),
      (s.die d).draws = [] → exec (.tokenGrant d) s = .next (s)) ∧
  (∀ (s : State),
      exec (.tokenBalanceCheck) s = .next (((List.range 32).foldl (fun (s : State) (d : Nat) =>
          if s.diePowered d = true ∧ (s.die d).issued ≠ ((s.die d).consumed + (s.die d).returned + s.pool d) % 2 ^ 64
          then s.event 6 (leBytes 4 d) else s) s))) ∧
  (∀ (s : State),
      (∀ d : Nat, d < 32 → s.diePowered d = true →
        (s.die d).issued = ((s.die d).consumed + (s.die d).returned + s.pool d) % 2 ^ 64) →
        exec (.tokenBalanceCheck) s = .next (s))

/-- TCLR, TRD, CSEND and CRECV. TCLR leaves exactly the tally slots and tags outside its range; TRD stores its slots, an
empty one as 0, as 64-bit patterns or saturated to 32 bits with the events counted; CSEND within the stage's carries
sends one carry of up to 32 slots to each target and one beyond them fails the job; CRECV adds the arrived carries
of its step that lie in its range, takes no more than it still waits for, and ends when it has them all; of no slots
it ends at once. The values and conventions that the manual leaves open are the model's choices of log entries 27
and 45. Rules: R218, R219, R278, R282, R284. -/
def Obligations.Tally_instructions : Prop :=
  (∀ (s : State) (d : Die) (b : Brd) (e : SbEntry),
      s.unitHead (boardKey d b) .tally 0x03 = some e →
        exec (.tclr d b) s = .next ((s.setBoard (boardKey d b) { (s.board (boardKey d b)) with
        tally := (s.board (boardKey d b)).tally.filter fun p => decide (p.1 < tf e.word 0 16 11 ∨
          tf e.word 0 16 11 + tf e.word 1 0 12 ≤ p.1),
        tags := (s.board (boardKey d b)).tags.filter fun p => decide (p.1 < tf e.word 0 16 11 ∨
          tf e.word 0 16 11 + tf e.word 1 0 12 ≤ p.1) }).finishEntry (boardKey d b) e)) ∧
  (∀ (s : State) (d : Die) (b : Brd) (e : SbEntry),
      s.unitHead (boardKey d b) .tally 0x04 = some e → tf e.word 0 27 1 = 0 →
        exec (.trd d b) s = .next ((s.store ((bkBase (boardKey d b)) + 8 * tf e.word 1 12 14) ((List.range (tf e.word
            1 0 12)).flatMap fun i =>
        leBytes 8 (pattern 64 (if (mget none (s.board (boardKey d b)).tags (tf e.word 0 16 11 + i)).isSome then mget 0
            (s.board (boardKey d b)).tally (tf e.word 0 16 11 + i) else 0)))).finishEntry (boardKey d b) e)) ∧
  (∀ (s : State) (d : Die) (b : Brd) (e : SbEntry),
      s.unitHead (boardKey d b) .tally 0x04 = some e → tf e.word 0 27 1 = 1 → ∃ t, exec (.trd d b) s = .next t ∧ 
        (let q := (List.range (tf e.word 1 0 12)).map fun i =>
            satFmt .int32 (if (mget none (s.board (boardKey d b)).tags (tf e.word 0 16 11 + i)).isSome then mget 0
                (s.board (boardKey d b)).tally (tf e.word 0 16 11 + i) else 0);
          t = ((s.countEv e.ctx.job ((q.map (·.2)).foldl Ev.add {})).store ((bkBase (boardKey d b)) + 8 * tf e.word 1
              12 14)
            (q.flatMap fun (p : Int × Ev) => leBytes 4 (pattern 32 p.1))).finishEntry (boardKey d b) e)) ∧
  (∀ (s : State) (d : Die) (b : Brd) (e : SbEntry),
      s.unitHead (boardKey d b) .lane 0x08 = some e →
        (s.stageOf (boardKey d b)).carryOut < (if (s.board (boardKey d b)).sentStep = (e.ctx.job, e.ctx.step) then
            (s.board (boardKey d b)).carriesSent else 0) + cdiv (tf e.word 1 0 12) 32 →
        exec (.csend d b) s = .next (s.jobFault e.ctx.job 0x030A)) ∧
  (∀ (s : State) (d : Die) (b : Brd) (e : SbEntry),
      s.unitHead (boardKey d b) .lane 0x08 = some e → (s.board (boardKey d b)).sentStep ≠ (e.ctx.job, e.ctx.step) →
        tf e.word 1 0 12 = 0 →
        exec (.csend d b) s = .next ((s.setBoard (boardKey d b)
            { (s.board (boardKey d b)) with carriesSent := 0, sentStep := (e.ctx.job, e.ctx.step) }).finishEntry
            (boardKey d b) e)) ∧
  (∀ (s : State) (d : Die) (b : Brd) (e : SbEntry),
      s.unitHead (boardKey d b) .lane 0x08 = some e → (s.board (boardKey d b)).sentStep ≠ (e.ctx.job, e.ctx.step) →
        0 < tf e.word 1 0 12 → tf e.word 1 0 12 ≤ 32 → 1 ≤ (s.stageOf (boardKey d b)).carryOut → ∃ t,
        exec (.csend d b) s = .next t ∧
         (let u := s.setBoard (boardKey d b) { (s.board (boardKey d b)) with carriesSent := 1, sentStep := (e.ctx.job, e.ctx.step) }
          t = ((u.carryTargets ((s.board (boardKey d b)).score.getD 64) (boardKey (tf e.word 1 12 5) (tf e.word 1 17
              8))).foldl (fun s q =>
            s.sendPkt { (s.pktOf (boardKey d b) e.ctx e.seq0 0 0) with
              epoch := e.ctx.epoch, dstNode := keyDie q, dstBoard := keyBrd q, ordinal := 0, addr := tf e.word 2 0 11,
              payload := carryBytes (s.board (boardKey d b)) (tf e.word 0 16 11) (tf e.word 1 0 12) }) u).finishEntry
                  (boardKey d b) e)) ∧
  (∀ (s : State) (d : Die) (b : Brd) (e : SbEntry),
      s.unitHead (boardKey d b) .tally 0x09 = some e → tf e.word 1 0 12 = 0 →
        exec (.crecv d b) s = .next ((s.setBoard (boardKey d b) (s.board (boardKey d b))).finishEntry (boardKey d b)
            e)) ∧
  (∀ (s : State) (d : Die) (b : Brd) (e : SbEntry),
      s.unitHead (boardKey d b) .tally 0x09 = some e → tf e.word 1 0 12 ≠ 0 →
        (((s.board (boardKey d b)).arrived.filter fun x => x.job == e.ctx.job && x.step == e.ctx.step && decide (tf
            e.word 0 16 11 ≤ x.slot ∧
        x.slot + x.vals.length ≤ tf e.word 0 16 11 + tf e.word 1 0 12)) = []) → ∃ t, exec (.crecv d b) s = .next t ∧
        t = (if tf e.word 1 12 12 ≤ e.done then (s.setBoard (boardKey d b) (s.board (boardKey d b))).finishEntry
            (boardKey d b) e else (s.setBoard (boardKey d b) (s.board (boardKey d b))).setEntry (boardKey d b) e)) ∧
  (∀ (s : State) (d : Die) (b : Brd) (e : SbEntry) (x : Carry),
      s.unitHead (boardKey d b) .tally 0x09 = some e → tf e.word 1 0 12 ≠ 0 → (s.board (boardKey d b)).arrived = [x] →
        x.job = e.ctx.job → x.step = e.ctx.step → tf e.word 0 16 11 ≤ x.slot →
        x.slot + x.vals.length ≤ tf e.word 0 16 11 + tf e.word 1 0 12 → e.done + 1 = tf e.word 1 12 12 → ∃ t,
        exec (.crecv d b) s = .next t ∧
        t = ((s.setBoard (boardKey d b) { (s.board (boardKey d b)) with arrived := [] }).addCarry (boardKey d b) x
            e.pc).finishEntry (boardKey d b) { e with done := e.done + 1 })

/-- DRAIN, VMM, VOP and MOVE. A DRAIN of at least one iteration and slot, with clean operands and no record update to
come, runs its program for each of its iterations in order and is freed; one of none is freed at once. A VMM or VOP
draws the tokens of its work, then computes and stores its blocks and is freed; of no iteration or no element it is
freed at once. While the stream is still to be updated, or tokens are awaited, the instruction waits. A T40 operand
that is no T40 raises board fault 3 and an uncorrectable slate word board fault 5 in place of the work. A VMM
operand of a poisoned block or outside the pool fails the job. A MOVE copies its bytes between the slate and the
buffer's home and counts its flits; a write that fails the epoch test is discarded and counted; outside the buffer
or the pool, with no such buffer, or of a poisoned block, its job fails. The values and conventions that the manual
leaves open are the model's choices of log entries 28, 35, 48, 107 and 108. Rules: R222, R223, R224, R229, R230,
R231, R237, R264, R291, R298, R553. -/
def Obligations.Drain_and_vector : Prop :=
  (∀ (s : State) (d : Die) (b : Brd) (e : SbEntry),
      s.unitHead (boardKey d b) .drain 0x05 = some e → tnb e.word ≠ 0 → tf e.word 1 11 12 ≠ 0 →
        ((bit (s.breg (boardKey d b) (0x41000 + 16 * tf e.word 0 16 3)) 6 || bit (s.breg (boardKey d b) (0x41000 + 16
            * tf e.word 0 16 3)) 7) && s.strBusy (boardKey d b) (tf e.word 0 19 4) e.ctx) = false →
        s.drainBad (boardKey d b) e.word = false →
        exec (.drain d b false) s = .next (((List.range (tnb e.word)).foldl (fun s i => s.drainIter (boardKey d b) e
            i) s).finishEntry (boardKey d b) e)) ∧
  (∀ (s : State) (d : Die) (b : Brd) (e : SbEntry),
      s.unitHead (boardKey d b) .drain 0x05 = some e → tnb e.word ≠ 0 → tf e.word 1 11 12 ≠ 0 →
        ((bit (s.breg (boardKey d b) (0x41000 + 16 * tf e.word 0 16 3)) 6 || bit (s.breg (boardKey d b) (0x41000 + 16
            * tf e.word 0 16 3)) 7) && s.strBusy (boardKey d b) (tf e.word 0 19 4) e.ctx) = false →
        s.drainBad (boardKey d b) e.word = true →
        exec (.drain d b false) s = .next (s.boardFault (boardKey d b) 3 e.pc e.ctx.job)) ∧
  (∀ (s : State) (d : Die) (b : Brd) (e : SbEntry) (u : State),
      s.unitHead (boardKey d b) .drain 0x05 = some e → tnb e.word ≠ 0 → tf e.word 1 11 12 ≠ 0 →
        ((bit (s.breg (boardKey d b) (0x41000 + 16 * tf e.word 0 16 3)) 6 || bit (s.breg (boardKey d b) (0x41000 + 16
            * tf e.word 0 16 3)) 7) && s.strBusy (boardKey d b) (tf e.word 0 19 4) e.ctx) = false →
        s.eccFault (boardKey d b) e true = some u → exec (.drain d b true) s = .next (u)) ∧
  (∀ (s : State) (d : Die) (b : Brd) (ecc : Bool) (e : SbEntry),
      s.unitHead (boardKey d b) .drain 0x05 = some e → tnb e.word ≠ 0 → tf e.word 1 11 12 ≠ 0 →
        ((bit (s.breg (boardKey d b) (0x41000 + 16 * tf e.word 0 16 3)) 6 || bit (s.breg (boardKey d b) (0x41000 + 16
            * tf e.word 0 16 3)) 7) && s.strBusy (boardKey d b) (tf e.word 0 19 4) e.ctx) = true →
        exec (.drain d b ecc) s = .next (s)) ∧
  (∀ (s : State) (d : Die) (b : Brd) (ecc : Bool) (e : SbEntry),
      s.unitHead (boardKey d b) .drain 0x05 = some e → (tnb e.word = 0 ∨ tf e.word 1 11 12 = 0) →
        exec (.drain d b ecc) s = .next (s.finishEntry (boardKey d b) e)) ∧
  (∀ (s : State) (d : Die) (b : Brd) (e : SbEntry) (u : State) (bv : List FV) (ev : Ev),
      s.unitHead (boardKey d b) .vector 0x06 = some e → tf e.word 1 0 13 ≠ 0 → tnb e.word ≠ 0 →
        s.strBusy (boardKey d b) (tf e.word 1 13 4) e.ctx = false →
        s.vecPay (boardKey d b) e (vecTokens ((vmmTile (tf e.word 0 16 2)).1 * (vmmTile (tf e.word 0 16 2)).2 * tf
            e.word 1 0 13) (max (fmtWidth ((Fmt.ofCode (tf e.word 0 18 5)).getD .fp32)) (fmtWidth ((Fmt.ofCode (tf
            e.word 0 23 5)).getD .fp32)))) = (u, true) →
        u.vmmNoT40 (boardKey d b) e.word = false →
        u.vmmPoison (boardKey d b) e.word ((Fmt.ofCode (tf e.word 0 23 5)).getD .fp32) (tf e.word 1 0 13) (vmmTile (tf
            e.word 0 16 2)).2 = false →
        u.vmmB (boardKey d b) e.word ((Fmt.ofCode (tf e.word 0 23 5)).getD .fp32) (tf e.word 1 0 13) (vmmTile (tf
            e.word 0 16 2)).2 = some (bv, ev) →
        exec (.vmm d b false) s = .next ((u.vmmRun (boardKey d b) e bv ev).finishEntry (boardKey d b) e)) ∧
  (∀ (s : State) (d : Die) (b : Brd) (e : SbEntry) (u : State),
      s.unitHead (boardKey d b) .vector 0x06 = some e → tf e.word 1 0 13 ≠ 0 → tnb e.word ≠ 0 →
        s.strBusy (boardKey d b) (tf e.word 1 13 4) e.ctx = false →
        s.vecPay (boardKey d b) e (vecTokens ((vmmTile (tf e.word 0 16 2)).1 * (vmmTile (tf e.word 0 16 2)).2 * tf
            e.word 1 0 13) (max (fmtWidth ((Fmt.ofCode (tf e.word 0 18 5)).getD .fp32)) (fmtWidth ((Fmt.ofCode (tf
            e.word 0 23 5)).getD .fp32)))) = (u, true) →
        u.vmmNoT40 (boardKey d b) e.word = true →
        exec (.vmm d b false) s = .next (u.boardFault (boardKey d b) 3 e.pc e.ctx.job)) ∧
  (∀ (s : State) (d : Die) (b : Brd) (e : SbEntry) (u : State),
      s.unitHead (boardKey d b) .vector 0x06 = some e → tf e.word 1 0 13 ≠ 0 → tnb e.word ≠ 0 →
        s.strBusy (boardKey d b) (tf e.word 1 13 4) e.ctx = false →
        s.vecPay (boardKey d b) e (vecTokens ((vmmTile (tf e.word 0 16 2)).1 * (vmmTile (tf e.word 0 16 2)).2 * tf
            e.word 1 0 13) (max (fmtWidth ((Fmt.ofCode (tf e.word 0 18 5)).getD .fp32)) (fmtWidth ((Fmt.ofCode (tf
            e.word 0 23 5)).getD .fp32)))) = (u, true) →
        u.vmmNoT40 (boardKey d b) e.word = false →
        u.vmmPoison (boardKey d b) e.word ((Fmt.ofCode (tf e.word 0 23 5)).getD .fp32) (tf e.word 1 0 13) (vmmTile (tf
            e.word 0 16 2)).2 = true →
        exec (.vmm d b false) s = .next (u.jobFault e.ctx.job 0x0503)) ∧
  (∀ (s : State) (d : Die) (b : Brd) (e : SbEntry) (u : State),
      s.unitHead (boardKey d b) .vector 0x06 = some e → tf e.word 1 0 13 ≠ 0 → tnb e.word ≠ 0 →
        s.strBusy (boardKey d b) (tf e.word 1 13 4) e.ctx = false →
        s.vecPay (boardKey d b) e (vecTokens ((vmmTile (tf e.word 0 16 2)).1 * (vmmTile (tf e.word 0 16 2)).2 * tf
            e.word 1 0 13) (max (fmtWidth ((Fmt.ofCode (tf e.word 0 18 5)).getD .fp32)) (fmtWidth ((Fmt.ofCode (tf
            e.word 0 23 5)).getD .fp32)))) = (u, true) →
        u.vmmNoT40 (boardKey d b) e.word = false →
        u.vmmPoison (boardKey d b) e.word ((Fmt.ofCode (tf e.word 0 23 5)).getD .fp32) (tf e.word 1 0 13) (vmmTile (tf
            e.word 0 16 2)).2 = false →
        u.vmmB (boardKey d b) e.word ((Fmt.ofCode (tf e.word 0 23 5)).getD .fp32) (tf e.word 1 0 13) (vmmTile (tf
            e.word 0 16 2)).2 = none →
        exec (.vmm d b false) s = .next (u.jobFault e.ctx.job 0x0306)) ∧
  (∀ (s : State) (d : Die) (b : Brd) (e : SbEntry) (u : State),
      s.unitHead (boardKey d b) .vector 0x06 = some e → tf e.word 1 0 13 ≠ 0 → tnb e.word ≠ 0 →
        s.strBusy (boardKey d b) (tf e.word 1 13 4) e.ctx = false →
        s.vecPay (boardKey d b) e (vecTokens ((vmmTile (tf e.word 0 16 2)).1 * (vmmTile (tf e.word 0 16 2)).2 * tf
            e.word 1 0 13) (max (fmtWidth ((Fmt.ofCode (tf e.word 0 18 5)).getD .fp32)) (fmtWidth ((Fmt.ofCode (tf
            e.word 0 23 5)).getD .fp32)))) = (u, false) →
        exec (.vmm d b false) s = .next (u)) ∧
  (∀ (s : State) (d : Die) (b : Brd) (e : SbEntry) (u : State),
      s.unitHead (boardKey d b) .vector 0x06 = some e → tf e.word 1 0 13 ≠ 0 → tnb e.word ≠ 0 →
        s.strBusy (boardKey d b) (tf e.word 1 13 4) e.ctx = false → s.eccFault (boardKey d b) e true = some u →
        exec (.vmm d b true) s = .next (u)) ∧
  (∀ (s : State) (d : Die) (b : Brd) (ecc : Bool) (e : SbEntry),
      s.unitHead (boardKey d b) .vector 0x06 = some e → tf e.word 1 0 13 ≠ 0 → tnb e.word ≠ 0 →
        s.strBusy (boardKey d b) (tf e.word 1 13 4) e.ctx = true → exec (.vmm d b ecc) s = .next (s)) ∧
  (∀ (s : State) (d : Die) (b : Brd) (ecc : Bool) (e : SbEntry),
      s.unitHead (boardKey d b) .vector 0x06 = some e → (tf e.word 1 0 13 = 0 ∨ tnb e.word = 0) →
        exec (.vmm d b ecc) s = .next (s.finishEntry (boardKey d b) e)) ∧
  (∀ (s : State) (d : Die) (b : Brd) (e : SbEntry) (u : State),
      s.unitHead (boardKey d b) .vector 0x07 = some e → tf e.word 1 0 16 ≠ 0 → tnb e.word ≠ 0 →
        (¬(tf e.word 0 21 8 ≠ 0x0B ∧ s.strBusy (boardKey d b) (tf e.word 1 16 4) e.ctx = true)) →
        s.vecPay (boardKey d b) e (vecTokens (vopUnits (tf e.word 0 21 8) * tf e.word 1 0 16 * tnb e.word) (fmtWidth
            ((Fmt.ofCode (tf e.word 0 16 5)).getD .fp32))) = (u, true) →
        u.vopNoT40 (boardKey d b) e.word = false →
        exec (.vop d b false) s = .next ((u.vopRun (boardKey d b) e).finishEntry (boardKey d b) e)) ∧
  (∀ (s : State) (d : Die) (b : Brd) (e : SbEntry) (u : State),
      s.unitHead (boardKey d b) .vector 0x07 = some e → tf e.word 1 0 16 ≠ 0 → tnb e.word ≠ 0 →
        (¬(tf e.word 0 21 8 ≠ 0x0B ∧ s.strBusy (boardKey d b) (tf e.word 1 16 4) e.ctx = true)) →
        s.vecPay (boardKey d b) e (vecTokens (vopUnits (tf e.word 0 21 8) * tf e.word 1 0 16 * tnb e.word) (fmtWidth
            ((Fmt.ofCode (tf e.word 0 16 5)).getD .fp32))) = (u, true) →
        u.vopNoT40 (boardKey d b) e.word = true →
        exec (.vop d b false) s = .next (u.boardFault (boardKey d b) 3 e.pc e.ctx.job)) ∧
  (∀ (s : State) (d : Die) (b : Brd) (e : SbEntry) (u : State),
      s.unitHead (boardKey d b) .vector 0x07 = some e → tf e.word 1 0 16 ≠ 0 → tnb e.word ≠ 0 →
        (¬(tf e.word 0 21 8 ≠ 0x0B ∧ s.strBusy (boardKey d b) (tf e.word 1 16 4) e.ctx = true)) →
        s.vecPay (boardKey d b) e (vecTokens (vopUnits (tf e.word 0 21 8) * tf e.word 1 0 16 * tnb e.word) (fmtWidth
            ((Fmt.ofCode (tf e.word 0 16 5)).getD .fp32))) = (u, false) →
        exec (.vop d b false) s = .next (u)) ∧
  (∀ (s : State) (d : Die) (b : Brd) (e : SbEntry) (u : State),
      s.unitHead (boardKey d b) .vector 0x07 = some e → tf e.word 1 0 16 ≠ 0 → tnb e.word ≠ 0 →
        (¬(tf e.word 0 21 8 ≠ 0x0B ∧ s.strBusy (boardKey d b) (tf e.word 1 16 4) e.ctx = true)) →
        s.eccFault (boardKey d b) e true = some u → exec (.vop d b true) s = .next (u)) ∧
  (∀ (s : State) (d : Die) (b : Brd) (ecc : Bool) (e : SbEntry),
      s.unitHead (boardKey d b) .vector 0x07 = some e → tf e.word 1 0 16 ≠ 0 → tnb e.word ≠ 0 →
        ((tf e.word 0 21 8 ≠ 0x0B ∧ s.strBusy (boardKey d b) (tf e.word 1 16 4) e.ctx = true)) →
        exec (.vop d b ecc) s = .next (s)) ∧
  (∀ (s : State) (d : Die) (b : Brd) (ecc : Bool) (e : SbEntry),
      s.unitHead (boardKey d b) .vector 0x07 = some e → (tf e.word 1 0 16 = 0 ∨ tnb e.word = 0) →
        exec (.vop d b ecc) s = .next (s.finishEntry (boardKey d b) e)) ∧
  (∀ (s : State) (d : Die) (b : Brd) (e : SbEntry) (n : Nat) (f : Buf) (a : Nat × Nat),
      s.unitHead (boardKey d b) .lane 0x0A = some e → (s.board (boardKey d b)).score = some n →
        (s.score n).file.man.bufs[tf e.word 2 0 16]? = some f → (s.score n).bufAt[tf e.word 2 0 16]? = some a →
        (8 * tf e.word 1 14 14) ≠ 0 → (tf e.word 3 0 32) + (8 * tf e.word 1 14 14) ≤ f.size → (f.cached = false ∨
        a.2 + (tf e.word 3 0 32) + (8 * tf e.word 1 14 14) ≤ 0x1800000) → tf e.word 0 16 1 = 0 →
        s.memBad (a.1 + (tf e.word 3 0 32)) (8 * tf e.word 1 14 14) = false →
        exec (.move d b false) s = .next (((s.store ((bkBase (boardKey d b)) + 8 * tf e.word 1 0 14) (s.load (a.1 +
            (tf e.word 3 0 32)) (8 * tf e.word 1 14 14))).bump ((bkBase (boardKey d b)) + 0x46080) (cdiv (8 * tf
            e.word 1 14 14) 2048)).finishEntry (boardKey d b) e)) ∧
  (∀ (s : State) (d : Die) (b : Brd) (e : SbEntry) (n : Nat) (f : Buf) (a : Nat × Nat),
      s.unitHead (boardKey d b) .lane 0x0A = some e → (s.board (boardKey d b)).score = some n →
        (s.score n).file.man.bufs[tf e.word 2 0 16]? = some f → (s.score n).bufAt[tf e.word 2 0 16]? = some a →
        (8 * tf e.word 1 14 14) ≠ 0 → (tf e.word 3 0 32) + (8 * tf e.word 1 14 14) ≤ f.size → (f.cached = false ∨
        a.2 + (tf e.word 3 0 32) + (8 * tf e.word 1 14 14) ≤ 0x1800000) → tf e.word 0 16 1 = 1 →
        s.epochOk { (s.pktOf (boardKey d b) e.ctx e.seq0 5 2) with dstNode := 32 + f.hub } = true →
        exec (.move d b false) s = .next (((s.memWrite (a.1 + (tf e.word 3 0 32)) (s.load ((bkBase (boardKey d b)) + 8
            * tf e.word 1 0 14) (8 * tf e.word 1 14 14))).bump ((bkBase (boardKey d b)) + 0x46080) (cdiv (8 * tf
            e.word 1 14 14) 2048 + cdiv (8 * tf e.word 1 14 14) 32)).finishEntry (boardKey d b) e)) ∧
  (∀ (s : State) (d : Die) (b : Brd) (e : SbEntry) (n : Nat) (f : Buf) (a : Nat × Nat),
      s.unitHead (boardKey d b) .lane 0x0A = some e → (s.board (boardKey d b)).score = some n →
        (s.score n).file.man.bufs[tf e.word 2 0 16]? = some f → (s.score n).bufAt[tf e.word 2 0 16]? = some a →
        (8 * tf e.word 1 14 14) ≠ 0 → (tf e.word 3 0 32) + (8 * tf e.word 1 14 14) ≤ f.size → (f.cached = false ∨
        a.2 + (tf e.word 3 0 32) + (8 * tf e.word 1 14 14) ≤ 0x1800000) → tf e.word 0 16 1 = 0 →
        s.memBad (a.1 + (tf e.word 3 0 32)) (8 * tf e.word 1 14 14) = true →
        exec (.move d b false) s = .next (s.poisoned { dstNode := d, dstBoard := b, job := e.ctx.job })) ∧
  (∀ (s : State) (d : Die) (b : Brd) (e : SbEntry) (n : Nat) (f : Buf) (a : Nat × Nat),
      s.unitHead (boardKey d b) .lane 0x0A = some e → (s.board (boardKey d b)).score = some n →
        (s.score n).file.man.bufs[tf e.word 2 0 16]? = some f → (s.score n).bufAt[tf e.word 2 0 16]? = some a →
        (8 * tf e.word 1 14 14) ≠ 0 → (tf e.word 3 0 32) + (8 * tf e.word 1 14 14) ≤ f.size → (f.cached = false ∨
        a.2 + (tf e.word 3 0 32) + (8 * tf e.word 1 14 14) ≤ 0x1800000) → tf e.word 0 16 1 = 1 →
        s.epochOk { (s.pktOf (boardKey d b) e.ctx e.seq0 5 2) with dstNode := 32 + f.hub } = false →
        exec (.move d b false) s = .next
            (({ s.bump ((bkBase (boardKey d b)) + 0x46080) (cdiv (8 * tf e.word 1 14 14) 2048 + cdiv (8 * tf e.word 1 14 14) 32) with fb.disc := s.fb.disc.set f.hub (s.fb.disc.getD f.hub 0 + 1) }
            : State).finishEntry (boardKey d b) e)) ∧
  (∀ (s : State) (d : Die) (b : Brd) (e : SbEntry) (n : Nat) (f : Buf) (a : Nat × Nat),
      s.unitHead (boardKey d b) .lane 0x0A = some e → (s.board (boardKey d b)).score = some n →
        (s.score n).file.man.bufs[tf e.word 2 0 16]? = some f → (s.score n).bufAt[tf e.word 2 0 16]? = some a →
        (8 * tf e.word 1 14 14) ≠ 0 → f.cached = true →
        0x1800000 < a.2 + (tf e.word 3 0 32) + (8 * tf e.word 1 14 14) →
        exec (.move d b false) s = .next (s.jobFault e.ctx.job 0x0306)) ∧
  (∀ (s : State) (d : Die) (b : Brd) (e : SbEntry) (n : Nat) (f : Buf) (a : Nat × Nat),
      s.unitHead (boardKey d b) .lane 0x0A = some e → (s.board (boardKey d b)).score = some n →
        (s.score n).file.man.bufs[tf e.word 2 0 16]? = some f → (s.score n).bufAt[tf e.word 2 0 16]? = some a →
        (8 * tf e.word 1 14 14) ≠ 0 → f.size < (tf e.word 3 0 32) + (8 * tf e.word 1 14 14) →
        exec (.move d b false) s = .next (s.jobFault e.ctx.job 0x0306)) ∧
  (∀ (s : State) (d : Die) (b : Brd) (ecc : Bool) (e : SbEntry) (n : Nat) (f : Buf) (a : Nat × Nat),
      s.unitHead (boardKey d b) .lane 0x0A = some e → (s.board (boardKey d b)).score = some n →
        (s.score n).file.man.bufs[tf e.word 2 0 16]? = some f → (s.score n).bufAt[tf e.word 2 0 16]? = some a →
        (8 * tf e.word 1 14 14) = 0 → exec (.move d b ecc) s = .next (s.finishEntry (boardKey d b) e)) ∧
  (∀ (s : State) (d : Die) (b : Brd) (ecc : Bool) (e : SbEntry) (n : Nat),
      s.unitHead (boardKey d b) .lane 0x0A = some e → (s.board (boardKey d b)).score = some n →
        (s.score n).file.man.bufs[tf e.word 2 0 16]? = none →
        exec (.move d b ecc) s = .next (s.jobFault e.ctx.job 0x0306)) ∧
  (∀ (s : State) (d : Die) (b : Brd) (e : SbEntry) (n : Nat) (f : Buf) (a : Nat × Nat) (u : State),
      s.unitHead (boardKey d b) .lane 0x0A = some e → (s.board (boardKey d b)).score = some n →
        (s.score n).file.man.bufs[tf e.word 2 0 16]? = some f → (s.score n).bufAt[tf e.word 2 0 16]? = some a →
        (8 * tf e.word 1 14 14) ≠ 0 → s.eccFault (boardKey d b) e true = some u → exec (.move d b true) s = .next (u))

/-- Carries, forwarded strokes, activations and records that arrive. An unpoisoned, routable packet with a good header
check leaves the network and has its effect at its destination: a carry or a stroke carry goes to the board's tally
side, a held carry follows when an entry is free, a forwarded stroke joins the queue of its frame unless that is
held in reset or does not exist, an ACT is stored at every board it reaches whose epoch test it passes, counted
where it fails it, and acknowledged, a maximum joins its stream step, a switch record is written and acknowledged
where there is room for it, and an ACK ends the wait of the packet it answers. The values and conventions that the
manual leaves open are the model's choices of log entries 27, 46, 47, 104, 105, 118 and 120. Rules: R199, R268,
R270, R283, R284, R286, R287. -/
def Obligations.Packets_that_carry_work : Prop :=
  (∀ (s : State) (p : Pkt),
      s.outOfTurn p = false → s.unroutable p = false → badPkt p = false →
        exec (.carryPacket p) s = .next ((s.arrive p).takeCarry (pktDst p) { p with skind := false })) ∧
  (∀ (s : State) (p : Pkt),
      s.outOfTurn p = false → s.unroutable p = false → badPkt p = false →
        exec (.scarryPacket p) s = .next ((s.arrive p).takeCarry (pktDst p) { p with skind := true })) ∧
  (∀ (s : State) (d : Die) (b : Brd) (p : Pkt) (r : List Pkt),
      (s.board (boardKey d b)).heldC = p :: r → (s.board (boardKey d b)).keys.length < 8192 →
        exec (.carryRetry d b) s = .next ((s.setBoard (boardKey d b)
            { (s.board (boardKey d b)) with heldC := r }).takeCarry (boardKey d b) p)) ∧
  (∀ (s : State) (p : Pkt),
      s.outOfTurn p = false → s.unroutable p = false → badPkt p = false → leAt p.payload 0 1 % 64 < 34 →
        (s.arrive p).awakeFrame (34 * (pktDst p) + leAt p.payload 0 1 % 64) = true →
        exec (.sfwdPacket p) s = .next ((s.arrive p).setFrame (34 * (pktDst p) + leAt p.payload 0 1 % 64) { (s.arrive p).frame (34 * (pktDst p) + leAt p.payload 0 1 % 64) with
        queue := ((s.arrive p).frame (34 * (pktDst p) + leAt p.payload 0 1 % 64)).queue ++ [(s.arrive p).forwarded (34 * (pktDst p) + leAt p.payload 0 1 % 64) p] }))
            ∧
  (∀ (s : State) (p : Pkt),
      s.outOfTurn p = false → s.unroutable p = false → badPkt p = false →
        (s.arrive p).awakeFrame (34 * (pktDst p) + leAt p.payload 0 1 % 64) = false →
        exec (.sfwdPacket p) s = .next ((s.arrive p))) ∧
  (∀ (s : State) (p : Pkt),
      s.outOfTurn p = false → s.unroutable p = false → badPkt p = false → 34 ≤ leAt p.payload 0 1 % 64 →
        exec (.sfwdPacket p) s = .next ((s.arrive p))) ∧
  (∀ (s : State) (p : Pkt),
      s.outOfTurn p = false → s.unroutable p = false → badPkt p = false → (p.mc = false ∨ p.member.isSome = true) →
        (s.arrive p).epochAt (pktDst p) p = true →
        exec (.actPacket p) s = .next (((s.arrive p).actStore (pktDst p) p).ackPacket p)) ∧
  (∀ (s : State) (p : Pkt),
      s.outOfTurn p = false → s.unroutable p = false → badPkt p = false →
        exec (.actPacket p) s = .next ((((s.arrive p).reached p).foldl (fun s k => if s.epochAt k p then s.actStore k
            p else s.bump (bkBase k + 0x4608C) 1) (s.arrive p)).ackPacket p)) ∧
  (∀ (s : State) (p : Pkt),
      s.outOfTurn p = false → s.unroutable p = false → badPkt p = false → (p.mc = false ∨ p.member.isSome = true) →
        (s.arrive p).epochAt (pktDst p) p = false →
        exec (.actPacket p) s = .next (((s.arrive p).bump (bkBase (pktDst p) + 0x4608C) 1).ackPacket p)) ∧
  (∀ (s : State) (p : Pkt),
      s.outOfTurn p = false → s.unroutable p = false → badPkt p = false → exec (.amaxPacket p) s = .next
        ((let v : FV := if leAt p.payload 2 1 % 2 = 0 then .nan false else .fin false (leAt p.payload 8 8) (signed 16 (leAt p.payload 16 2))
        let key := (s.arrive p).strKey (pktDst p) (leAt p.payload 0 1) { step := p.step }
        let y : StreamStep := (((s.arrive p).board (pktDst p)).strm.find? (isStep (leAt p.payload 0 1) (leAt p.payload 1 1) p.job key)).getD
          { n := leAt p.payload 0 1, ctx := leAt p.payload 1 1, job := p.job, step := key }
        let x : StreamStep := { y with got := y.got.filter (fun g => g.1 != pktSrc p) ++ [(pktSrc p, v)] }
        ((s.arrive p).putStrm (pktDst p) x).settleStrm (pktDst p) x))) ∧
  (∀ (s : State) (p : Pkt),
      s.outOfTurn p = false → s.unroutable p = false → badPkt p = false → 32 ≤ p.dstNode →
        exec (.switchPacket p) s = .next
            ({ (s.arrive p) with fb.recs := ((s.arrive p).fb.recs.filter fun (r : Nat × Nat × Nat × Nat × Bool) => !(r.1 == p.dstNode - 32 && r.2.1 == leAt p.payload 0 2 % 8192)) ++
          [(p.dstNode - 32, leAt p.payload 0 2 % 8192, leAt p.payload 2 2, leAt p.payload 8 6, leAt p.payload 4 1 % 2 == 1)] }.ackPacket
              p)) ∧
  (∀ (s : State) (p : Pkt) (u : State),
      s.outOfTurn p = false → s.unroutable p = false → badPkt p = false → p.dstNode < 32 →
        (s.arrive p).putRec (pktDst p) (leAt p.payload 0 2 % 8192) (leAt p.payload 2 2) (leAt p.payload 8 6) (leAt
            p.payload 4 1 % 2 == 1) = some u →
        exec (.switchPacket p) s = .next (u.ackPacket p)) ∧
  (∀ (s : State) (p : Pkt),
      s.outOfTurn p = false → s.unroutable p = false → badPkt p = false → p.dstNode < 32 →
        (s.arrive p).putRec (pktDst p) (leAt p.payload 0 2 % 8192) (leAt p.payload 2 2) (leAt p.payload 8 6) (leAt
            p.payload 4 1 % 2 == 1) = none →
        exec (.switchPacket p) s = .next ((s.arrive p))) ∧
  (∀ (s : State) (p : Pkt),
      s.outOfTurn p = false → s.unroutable p = false → badPkt p = false → p.ordinal ≠ 9 →
        exec (.ackPacket p) s = .next ({ (s.arrive p) with fb.acks := (s.arrive p).fb.acks.eraseP fun x => pktSrc x == (pktDst p) && pktDst x == pktSrc p && x.job == p.job && x.step == p.step && x.addr == p.addr && x.type == p.ordinal }))
            ∧
  (∀ (s : State) (p : Pkt),
      s.outOfTurn p = false → s.unroutable p = false → badPkt p = false → p.ordinal = 9 →
        exec (.ackPacket p) s = .next (({ (s.arrive p) with fb.acks := (s.arrive p).fb.acks.eraseP fun x => pktSrc x == (pktDst p) && pktDst x == pktSrc p && x.job == p.job && x.step == p.step && x.addr == p.addr && x.type == 9 }
            : State).ackSwitch p.addr))

/-- Memory packets, poisoned and stray packets, and the routing order. A read of memory is answered with the bytes in
packets of at most 2,048; one whose first or last byte is no memory is answered poisoned, and one of no bytes is no
operation; a write that passes the epoch test is stored and acknowledged, and one that fails it is discarded,
counted and acknowledged; a response is stored on the slate its request named. A poisoned packet is not used and
fails its job. A packet of a reserved type is discarded and counted at its board. A packet of any kind that is
unroutable, or that is marked or fails its header check, has no effect of its own. A die changes its routing order
once its lanes are idle. The values and conventions that the manual leaves open are the model's choices of log
entries 46, 49, 86, 104, 105 and 118. Rules: R268, R271, R286, R290, R296, R305, R314. -/
def Obligations.Packets_to_memory_and_strays : Prop :=
  (∀ (s : State) (p : Pkt) (a n : Nat),
      s.outOfTurn p = false → s.unroutable p = false → badPkt p = false → n = 0 →
        exec (.memRdPacket p a n) s = .next ((s.arrive p))) ∧
  (∀ (s : State) (p : Pkt) (a n k : Nat),
      s.outOfTurn p = false → s.unroutable p = false → badPkt p = false → n ≠ 0 → isMem a = true →
        isMem (a + n - 1) = true → (s.arrive p).memTarget p a n = some k →
        exec (.memRdPacket p a n) s = .next ((List.range (cdiv n 2048)).foldl (fun s i => s.sendPkt
            { p with type := 6, vc := 2, mc := false, member := none, srcNode := p.dstNode, srcBoard := p.dstBoard, dstNode := p.srcNode, dstBoard := p.srcBoard, lsrc := 0, epoch := 0, addr := p.addr + 256 * i, poison := s.memBad (k + 2048 * i) (min 2048 (n - 2048 * i)), payload := s.load (k + 2048 * i) (min 2048 (n - 2048 * i)) })
            (s.arrive p))) ∧
  (∀ (s : State) (p : Pkt) (a n k : Nat),
      s.outOfTurn p = false → s.unroutable p = false → badPkt p = false → isMem a = true → isMem (a + n - 1) = true →
        (s.arrive p).memTarget p a n = some k → n ≠ 0 → n ≤ 2048 →
        exec (.memRdPacket p a n) s = .next ((s.arrive p).sendPkt
            { p with type := 6, vc := 2, mc := false, member := none, srcNode := p.dstNode, srcBoard := p.dstBoard, dstNode := p.srcNode, dstBoard := p.srcBoard, lsrc := 0, epoch := 0, addr := p.addr, poison := (s.arrive p).memBad k n, payload := (s.arrive p).load k n }))
            ∧
  (∀ (s : State) (p : Pkt) (a n : Nat),
      s.outOfTurn p = false → s.unroutable p = false → badPkt p = false → isMem a = true → isMem (a + n - 1) = true →
        n ≠ 0 → (s.arrive p).memTarget p a n = none →
        exec (.memRdPacket p a n) s = .next ((s.arrive p).jobFault p.job 0x0306)) ∧
  (∀ (s : State) (p : Pkt) (a n : Nat),
      s.outOfTurn p = false → s.unroutable p = false → badPkt p = false → n ≠ 0 → (isMem a = false ∨
        isMem (a + n - 1) = false) → p.srcNode < 32 →
        exec (.memRdPacket p a n) s = .next (((s.arrive p).bump (bkBase (pktSrc p) + 0x46088) 1).sendPkt
            { p with type := 6, vc := 2, mc := false, member := none, srcNode := p.dstNode, srcBoard := p.dstBoard, dstNode := p.srcNode, dstBoard := p.srcBoard, lsrc := 0, epoch := 0, poison := true, payload := List.replicate 32 0 }))
            ∧
  (∀ (s : State) (p : Pkt) (a n : Nat),
      s.outOfTurn p = false → s.unroutable p = false → badPkt p = false → n ≠ 0 → (isMem a = false ∨
        isMem (a + n - 1) = false) → 32 ≤ p.srcNode →
        exec (.memRdPacket p a n) s = .next ((s.arrive p).sendPkt
            { p with type := 6, vc := 2, mc := false, member := none, srcNode := p.dstNode, srcBoard := p.dstBoard, dstNode := p.srcNode, dstBoard := p.srcBoard, lsrc := 0, epoch := 0, poison := true, payload := List.replicate 32 0 }))
            ∧
  (∀ (s : State) (p : Pkt) (a k : Nat),
      s.outOfTurn p = false → s.unroutable p = false → badPkt p = false → isMem a = true →
        isMem (a + p.payload.length - 1) = true → (s.arrive p).epochOk p = true →
        (s.arrive p).memTarget p a p.payload.length = some k →
        exec (.memWrPacket p a) s = .next (((s.arrive p).memWrite k p.payload).ackPacket p)) ∧
  (∀ (s : State) (p : Pkt) (a : Nat),
      s.outOfTurn p = false → s.unroutable p = false → badPkt p = false → isMem a = true →
        isMem (a + p.payload.length - 1) = true → (s.arrive p).epochOk p = true →
        (s.arrive p).memTarget p a p.payload.length = none →
        exec (.memWrPacket p a) s = .next ((s.arrive p).jobFault p.job 0x0306)) ∧
  (∀ (s : State) (p : Pkt) (a : Nat),
      s.outOfTurn p = false → s.unroutable p = false → badPkt p = false → (isMem a = false ∨
        isMem (a + p.payload.length - 1) = false) → p.srcNode < 32 →
        exec (.memWrPacket p a) s = .next ((s.arrive p).bump (bkBase (pktSrc p) + 0x46088) 1)) ∧
  (∀ (s : State) (p : Pkt) (a : Nat),
      s.outOfTurn p = false → s.unroutable p = false → badPkt p = false → isMem a = true →
        isMem (a + p.payload.length - 1) = true → (s.arrive p).epochOk p = false →
        exec (.memWrPacket p a) s = .next
            ({ (s.arrive p) with fb.disc := (s.arrive p).fb.disc.set (p.dstNode - 32) ((s.arrive p).fb.disc.getD (p.dstNode - 32) 0 + 1) }.ackPacket
            p)) ∧
  (∀ (s : State) (p : Pkt),
      s.outOfTurn p = false → s.unroutable p = false → badPkt p = false → p.dstNode < 32 →
        exec (.memRspPacket p) s = .next ((s.arrive p).actStore (pktDst p) p)) ∧
  (∀ (s : State) (p : Pkt),
      s.outOfTurn p = false → s.unroutable p = false → badPkt p = false → 32 ≤ p.dstNode →
        exec (.memRspPacket p) s = .next ({ (s.arrive p) with rdata := word (leAt p.payload 0 4) })) ∧
  (∀ (s : State) (p : Pkt) (lane : Fin 4),
      32 ≤ p.dstNode → exec (.poisonPacket p lane) s = .next ((s.arrive p).poisoned p)) ∧
  (∀ (s : State) (p : Pkt) (lane : Fin 4),
      p.dstNode < 32 → p.member.getD p.dstBoard < 192 → ∃ t, exec (.poisonPacket p lane) s = .next t ∧
         (let u := (s.arrive p).poisoned p
          let seen := (u.die p.dstNode).poison.filter (fun e => decide (u.now < e / 1024 + 1000000000)) ++
            [u.now * 1024 + (4 * p.member.getD p.dstBoard + lane.val)]
          let v := u.setDie p.dstNode { u.die p.dstNode with poison := seen }
          t = (if 3 ≤ (seen.filter fun e => e % 1024 == 4 * p.member.getD p.dstBoard + lane.val).length ∧
            v.disabled (mapLane (pktDst p) lane) = false then v.loseLane (pktDst p) lane else v))) ∧
  (∀ (s : State) (p : Pkt),
      s.outOfTurn p = false → s.unroutable p = false → badPkt p = false → 12 ≤ p.type → p.dstNode < 32 →
        exec (.reservedPacket p) s = .next ((s.arrive p).bump (bkBase (pktDst p) + 0x46088) 1)) ∧
  (∀ (s : State) (p : Pkt),
      s.outOfTurn p = false → s.unroutable p = true → exec (.carryPacket p) s = .next ((s.arrive p).strayed p)) ∧
  (∀ (s : State) (p : Pkt),
      s.outOfTurn p = false → s.unroutable p = false → badPkt p = true →
        exec (.carryPacket p) s = .next ((s.arrive p).poisoned p)) ∧
  (∀ (s : State) (p : Pkt),
      s.outOfTurn p = false → s.unroutable p = true → exec (.scarryPacket p) s = .next ((s.arrive p).strayed p)) ∧
  (∀ (s : State) (p : Pkt),
      s.outOfTurn p = false → s.unroutable p = false → badPkt p = true →
        exec (.scarryPacket p) s = .next ((s.arrive p).poisoned p)) ∧
  (∀ (s : State) (p : Pkt),
      s.outOfTurn p = false → s.unroutable p = true → exec (.sfwdPacket p) s = .next ((s.arrive p).strayed p)) ∧
  (∀ (s : State) (p : Pkt),
      s.outOfTurn p = false → s.unroutable p = false → badPkt p = true →
        exec (.sfwdPacket p) s = .next ((s.arrive p).poisoned p)) ∧
  (∀ (s : State) (p : Pkt),
      s.outOfTurn p = false → s.unroutable p = true → exec (.actPacket p) s = .next ((s.arrive p).strayed p)) ∧
  (∀ (s : State) (p : Pkt),
      s.outOfTurn p = false → s.unroutable p = false → badPkt p = true →
        exec (.actPacket p) s = .next ((s.arrive p).poisoned p)) ∧
  (∀ (s : State) (p : Pkt) (a n : Nat),
      s.outOfTurn p = false → s.unroutable p = true → exec (.memRdPacket p a n) s = .next ((s.arrive p).strayed p)) ∧
  (∀ (s : State) (p : Pkt) (a n : Nat),
      s.outOfTurn p = false → s.unroutable p = false → badPkt p = true →
        exec (.memRdPacket p a n) s = .next ((s.arrive p).poisoned p)) ∧
  (∀ (s : State) (p : Pkt) (a : Nat),
      s.outOfTurn p = false → s.unroutable p = true → exec (.memWrPacket p a) s = .next ((s.arrive p).strayed p)) ∧
  (∀ (s : State) (p : Pkt) (a : Nat),
      s.outOfTurn p = false → s.unroutable p = false → badPkt p = true →
        exec (.memWrPacket p a) s = .next ((s.arrive p).poisoned p)) ∧
  (∀ (s : State) (p : Pkt),
      s.outOfTurn p = false → s.unroutable p = true → exec (.memRspPacket p) s = .next ((s.arrive p).strayed p)) ∧
  (∀ (s : State) (p : Pkt),
      s.outOfTurn p = false → s.unroutable p = false → badPkt p = true →
        exec (.memRspPacket p) s = .next ((s.arrive p).poisoned p)) ∧
  (∀ (s : State) (p : Pkt),
      s.outOfTurn p = false → s.unroutable p = true → exec (.amaxPacket p) s = .next ((s.arrive p).strayed p)) ∧
  (∀ (s : State) (p : Pkt),
      s.outOfTurn p = false → s.unroutable p = false → badPkt p = true →
        exec (.amaxPacket p) s = .next ((s.arrive p).poisoned p)) ∧
  (∀ (s : State) (p : Pkt),
      s.outOfTurn p = false → s.unroutable p = true → exec (.switchPacket p) s = .next ((s.arrive p).strayed p)) ∧
  (∀ (s : State) (p : Pkt),
      s.outOfTurn p = false → s.unroutable p = false → badPkt p = true →
        exec (.switchPacket p) s = .next ((s.arrive p).poisoned p)) ∧
  (∀ (s : State) (p : Pkt),
      s.outOfTurn p = false → s.unroutable p = true → exec (.ackPacket p) s = .next ((s.arrive p).strayed p)) ∧
  (∀ (s : State) (p : Pkt),
      s.outOfTurn p = false → s.unroutable p = false → badPkt p = true →
        exec (.ackPacket p) s = .next ((s.arrive p).poisoned p)) ∧
  (∀ (s : State) (p : Pkt),
      s.outOfTurn p = false → s.unroutable p = true → exec (.reservedPacket p) s = .next ((s.arrive p).strayed p)) ∧
  (∀ (s : State) (p : Pkt),
      s.outOfTurn p = false → s.unroutable p = false → badPkt p = true →
        exec (.reservedPacket p) s = .next ((s.arrive p).poisoned p)) ∧
  (∀ (s : State) (d : Die),
      (s.aboard.any fun p => (s.lanesOf p).any fun l => l / 768 == d.val) = false →
        exec (.laneRoutingSwitch d) s = .next ((s.setDie d { s.die d with yfirst := (s.die d).yWant }).flow)) ∧
  (∀ (s : State) (d : Die),
      (s.aboard.any fun p => (s.lanesOf p).any fun l => l / 768 == d.val) = true →
        exec (.laneRoutingSwitch d) s = .next (s))

/-- Frames, idle frames and silence of a link. A frame with a bad CRC is counted and answered by a NAK of the sequence
expected and changes nothing else. A good frame is noted, its acknowledgement or NAK taken, and then: an idle frame
returns credits; a frame in sequence returns credits, advances the sequence and the through-hub sequence, is
released unless its through-hub sequence has been passed, and is acknowledged with the next one; an earlier frame is
acknowledged again, one beyond a gap answered by a NAK; held packets follow. A link below Degraded takes none. A
link without traffic for 1 us sends an idle frame; a link that has had no valid frame for 16 us is declared down,
and before that it is not. The values and conventions that the manual leaves open are the model's choices of log
entries 42, 105 and 106. Rules: R280, R276, R486. -/
def Obligations.Link_frames : Prop :=
  (∀ (s : State) (l : LinkEnd) (fr : LinkFrame),
      2 ≤ s.linkState (endKey l) → fr.crcOk = false →
        exec (.linkFrameRx l fr) s = .next ((s.bump ((linkBase (endKey l)) + 0x10) 1).emit (.linkNak (endKey l)
            (s.link (endKey l)).rxSeq))) ∧
  (∀ (s : State) (l : LinkEnd) (fr : LinkFrame),
      2 ≤ s.linkState (endKey l) → fr.crcOk = true → fr.idle = true →
        exec (.linkFrameRx l fr) s = .next (((if fr.nak then ((s.setLink (endKey l)
            { (s.link (endKey l)) with lastRx := s.now }).linkAcked (endKey l) fr.ack).linkNaked (endKey l) fr.ack
            else ((s.setLink (endKey l) { (s.link (endKey l)) with lastRx := s.now }).linkAcked (endKey l)
            fr.ack)).linkCredits (endKey l) fr.credits).release (endKey l))) ∧
  (∀ (s : State) (l : LinkEnd) (fr : LinkFrame),
      2 ≤ s.linkState (endKey l) → fr.crcOk = true → fr.idle = false → fr.seq = (s.link (endKey l)).rxSeq →
        fr.through = none → exec (.linkFrameRx l fr) s = .next
        ((let u := (if fr.nak then ((s.setLink (endKey l) { (s.link (endKey l)) with lastRx := s.now }).linkAcked (endKey l) fr.ack).linkNaked (endKey l) fr.ack else ((s.setLink (endKey l) { (s.link (endKey l)) with lastRx := s.now }).linkAcked (endKey l) fr.ack)).linkCredits (endKey l) fr.credits
        ((u.setLink (endKey l) { u.link (endKey l) with rxSeq := ((u.link (endKey l)).rxSeq + 1) % 4096, relN := ((u.link (endKey l)).relN + fr.flits.length) % 2 ^ 32 }).emit
          (.linkAck (endKey l) (((s.link (endKey l)).rxSeq + 1) % 4096))).release (endKey l)))) ∧
  (∀ (s : State) (l : LinkEnd) (fr : LinkFrame) (n : Nat),
      2 ≤ s.linkState (endKey l) → fr.crcOk = true → fr.idle = false → fr.seq = (s.link (endKey l)).rxSeq →
        fr.through = some n → exec (.linkFrameRx l fr) s = .next
        ((let u := (if fr.nak then ((s.setLink (endKey l) { (s.link (endKey l)) with lastRx := s.now }).linkAcked (endKey l) fr.ack).linkNaked (endKey l) fr.ack else ((s.setLink (endKey l) { (s.link (endKey l)) with lastRx := s.now }).linkAcked (endKey l) fr.ack)).linkCredits (endKey l) fr.credits
        ((u.setLink (endKey l) { u.link (endKey l) with rxSeq := ((u.link (endKey l)).rxSeq + 1) % 4096, thRx := max (u.link (endKey l)).thRx (n + 1), relN := if n < (u.link (endKey l)).thRx then (u.link (endKey l)).relN else ((u.link (endKey l)).relN + fr.flits.length) % 2 ^ 32 }).emit
          (.linkAck (endKey l) (((s.link (endKey l)).rxSeq + 1) % 4096))).release (endKey l)))) ∧
  (∀ (s : State) (l : LinkEnd) (fr : LinkFrame),
      2 ≤ s.linkState (endKey l) → fr.crcOk = true → fr.idle = false → fr.seq ≠ (s.link (endKey l)).rxSeq →
        frameBefore fr.seq (s.link (endKey l)).rxSeq = true →
        exec (.linkFrameRx l fr) s = .next (((if fr.nak then ((s.setLink (endKey l)
            { (s.link (endKey l)) with lastRx := s.now }).linkAcked (endKey l) fr.ack).linkNaked (endKey l) fr.ack
            else ((s.setLink (endKey l) { (s.link (endKey l)) with lastRx := s.now }).linkAcked (endKey l)
            fr.ack)).emit (.linkAck (endKey l) (s.link (endKey l)).rxSeq)).release (endKey l))) ∧
  (∀ (s : State) (l : LinkEnd) (fr : LinkFrame),
      2 ≤ s.linkState (endKey l) → fr.crcOk = true → fr.idle = false → fr.seq ≠ (s.link (endKey l)).rxSeq →
        frameBefore fr.seq (s.link (endKey l)).rxSeq = false →
        exec (.linkFrameRx l fr) s = .next (((if fr.nak then ((s.setLink (endKey l)
            { (s.link (endKey l)) with lastRx := s.now }).linkAcked (endKey l) fr.ack).linkNaked (endKey l) fr.ack
            else ((s.setLink (endKey l) { (s.link (endKey l)) with lastRx := s.now }).linkAcked (endKey l)
            fr.ack)).emit (.linkNak (endKey l) (s.link (endKey l)).rxSeq)).release (endKey l))) ∧
  (∀ (s : State) (l : LinkEnd) (fr : LinkFrame),
      s.linkState (endKey l) < 2 → exec (.linkFrameRx l fr) s = .next (s)) ∧
  (∀ (s : State) (l : LinkEnd),
      2 ≤ s.linkState (endKey l) → (s.link (endKey l)).lastTx + 1000 ≤ s.now →
        exec (.linkIdleFrame l) s = .next ((s.setLink (endKey l) { (s.link (endKey l)) with lastTx := s.now }).emit
            (.idle (endKey l)))) ∧
  (∀ (s : State) (l : LinkEnd),
      s.now < (s.link (endKey l)).lastTx + 1000 → exec (.linkIdleFrame l) s = .next (s)) ∧
  (∀ (s : State) (l : LinkEnd),
      2 ≤ s.linkState (endKey l) → (s.link (endKey l)).lastRx + 16000 ≤ s.now →
        exec (.linkSilenceTimeout l) s = .next (s.declareDown (endKey l))) ∧
  (∀ (s : State) (l : LinkEnd),
      s.now < (s.link (endKey l)).lastRx + 16000 → exec (.linkSilenceTimeout l) s = .next (s))

/-- Retraining, going down and the route fence. A retrain from the block's own register and from the link's errors is
one operation; one that succeeds with agreeing counts brings the link up and releases what it held, one that fails
declares the link down, and one with disagreeing counts marks the disagreement too. A link gone down keeps its
unacknowledged frames, in order, for the new route behind a fence; the end of the fence, once no frame waits, puts
the routes round the link, re-injects its frames there and sends what it held. Packets kept for a fenced hub are
sent again to the other, and only for a fenced hub. The values and conventions that the manual leaves open are the
model's choices of log entries 61, 104 and 106. Rules: R275, R277, R280, R281, R486. -/
def Obligations.Link_training_and_routes : Prop :=
  (∀ (s : State) (l : LinkEnd),
      exec (.linkRetrain l) s = .next (s.startTrain (endKey l))) ∧
  (∀ (s : State) (l : LinkEnd),
      exec (.beamCtlRetrain l) s = .next (s.startTrain (endKey l))) ∧
  (∀ (s : State) (l : LinkEnd),
      exec (.beamCtlDown l) s = .next (s.declareDown (endKey l))) ∧
  (∀ (s : State) (l : LinkEnd),
      s.linkState (endKey l) = 1 →
        exec (.linkRetrainDone l true true) s = .next ((s.linkUp (endKey l)).release (endKey l))) ∧
  (∀ (s : State) (l : LinkEnd) (agree : Bool),
      s.linkState (endKey l) = 1 → exec (.linkRetrainDone l false agree) s = .next (s.declareDown (endKey l))) ∧
  (∀ (s : State) (l : LinkEnd),
      s.linkState (endKey l) = 1 →
        exec (.linkRetrainDone l true false) s = .next ((s.setReg ((linkBase (endKey l)) + 4) (putBit (s.reg
            ((linkBase (endKey l)) + 4)) 2 true)).declareDown (endKey l))) ∧
  (∀ (s : State) (l : LinkEnd),
      (s.link (endKey l)).downAt.isSome = true → exec (.linkDown l) s = .next
        ((let u := s.putLink (endKey l) { (s.link (endKey l)) with downAt := none, reinject := (s.link (endKey l)).reinject ++ (s.link (endKey l)).retry, retry := [] }
        { u with fb.fences := if u.fb.fences.contains (endKey l) then u.fb.fences else u.fb.fences ++ [(endKey l)] })))
            ∧
  (∀ (s : State) (l : LinkEnd),
      (s.link (endKey l)).downAt = none → exec (.linkDown l) s = .next (s)) ∧
  (∀ (s : State) (l : LinkEnd),
      s.fb.fences.contains (endKey l) = true → (s.link (endKey l)).retry = [] →
        exec (.routeFenceComplete l) s = .next ((((s.unfence (endKey l)).passFrames (endKey l)).rerouteHeld (endKey
            l)).flow)) ∧
  (∀ (s : State) (l : LinkEnd),
      (s.fb.fences.contains (endKey l) = false ∨ (s.link (endKey l)).retry ≠ []) →
        exec (.routeFenceComplete l) s = .next (s)) ∧
  (∀ (s : State) (h : Hub),
      s.sv.fenced.getD h false = false → exec (.heldPacketResend h) s = .next (s)) ∧
  (∀ (s : State) (h : Hub),
      s.sv.fenced.getD h false = true → exec (.heldPacketResend h) s = .next ((List.range 8).foldl (fun s n =>
        (s.link (portEnd n h)).copies.foldl (fun s (c : Nat × Pkt) =>
          let p := if c.2.dstNode = 32 + h.val then { c.2 with dstNode := 33 - h } else c.2
          ({ s with fb.net := s.fb.net.erase c.2 } : State).launch { p with hcrc := pktCrc { p with hcrc := 0 } })
          ((s.setLink (portEnd n h) { s.link (portEnd n h) with copies := [] }).bump (hubBase (1 - h.val) + 0xB0048)
              (s.link (portEnd n h)).copies.length)) s))

/-- Scrubs, refresh management and the mirror. The slate scrub of a powered die counts a corrected word, and zeroes and
logs an uncorrectable one and no byte beside its eight; of a die that is off, and of a clean word, it changes
nothing. The DRAM scrub counts a corrected block and marks an uncorrectable one. Refresh changes nothing; a
package's rate field is taken. A ring runs mirrored again once the other hub and both hubs' channels serve. The
values and conventions that the manual leaves open are the model's choices of log entry 60. Rules: R293, R302, R305,
R306, R313. -/
def Obligations.Memory_maintenance : Prop :=
  (∀ (s : State) (d : Die) (b : Brd) (wi : Fin 16384),
      (s.die d).on = true → exec (.slateScrub d b wi .corrected) s = .next (s.countCorrected (boardKey d b))) ∧
  (∀ (s : State) (d : Die) (b : Brd) (wi : Fin 16384),
      (s.die d).on = true →
        exec (.slateScrub d b wi .uncorrectable) s = .next ((s.zeroRange (boardBase d b + 8 * wi.val) 8).log 0x109 [d,
            b, wi])) ∧
  (∀ (s : State) (d : Die) (b : Brd) (wi : Fin 16384),
      (s.die d).on = true → ∃ t, exec (.slateScrub d b wi .uncorrectable) s = .next t ∧
        ∀ a, t.byte a = if boardBase d b + 8 * wi.val ≤ a ∧ a < boardBase d b + 8 * wi.val + 8 then 0 else s.byte a) ∧
  (∀ (s : State) (d : Die) (b : Brd) (wi : Fin 16384) (e : EccErr),
      ((s.die d).on = false ∨ e = .clean) → exec (.slateScrub d b wi e) s = .next (s)) ∧
  (∀ (s : State) (h : Hub) (blk : Nat),
      blk < 0xF800000 → (s.chan (chanOf (256 * (h.val * 0x10000000 + blk)))).failed = false →
        exec (.dramPatrolScrub h blk .corrected) s = .next (s.countCorrected (8192 + chanOf (256 * (h.val * 0x10000000
            + blk))))) ∧
  (∀ (s : State) (h : Hub) (blk : Nat),
      blk < 0xF800000 → (s.chan (chanOf (256 * (h.val * 0x10000000 + blk)))).failed = false →
        exec (.dramPatrolScrub h blk .uncorrectable) s = .next (s.uncorrectable (h.val * 0x10000000 + blk))) ∧
  (∀ (s : State) (k : Fin 8) (rate : Fin 32) (beyond : Bool),
      exec (.dramMr4Poll k rate beyond) s = .next ({ s with ms.mr4 := mput (0, false) s.ms.mr4 k (rate, beyond) })) ∧
  (∀ (s : State) (h : Hub) (c : Fin 16),
      exec (.dramRefresh h c) s = .next (s)) ∧
  (∀ (s : State) (h : Hub) (ev : ChanEv) (i : Fin 16),
      exec (.dramChannelFail h i ev) s = .next (s.chanEvent h i ev)) ∧
  (∀ (s : State) (g : Fin 4096) (n : Nat),
      (s.ring g).lone = some n → s.sv.alive.getD (1 - n) false = true → s.chanFailed (1 - n) = false →
        s.chanFailed n = false →
        exec (.mirrorResyncDone g) s = .next ((s.ranUnmirrored g).setRing g { s.ring g with lone := none })) ∧
  (∀ (s : State) (g : Fin 4096) (n : Nat),
      (s.ring g).lone = some n → (s.sv.alive.getD (1 - n) false = false ∨ s.chanFailed (1 - n) = true ∨
        s.chanFailed n = true) → exec (.mirrorResyncDone g) s = .next (s))

/-- The close of a plane, migration, frame repair and diagnosis. A plane whose 512 rows are programmed closes with the
tokens of its read-back: with good read-back its frame ends programming with result 1, IDLE where a score places it
and SPARE where none does; with a bad one it ends with result 6 and is SPARE. A frame with no reason to migrate
stays; one with enough marks moves to a spare where its board has room for a redirection, and its board moves where
it has none. A frame marked for diagnosis goes to REPAIR, covered where a score places it and its image is resident.
One that no score places is diagnosed; a repair that has begun goes on; one that can be read, of a board that is not
switched, is replaced by a spare, or its board moves where there is no room for a redirection. The values and
conventions that the manual leaves open are the model's choices of log entries 13, 44, 59, 102, 115 and 120. Rules:
R88, R94, R95, R105, R138, R139, R143, R288, R472, R477, R478. -/
def Obligations.Plane_close_and_frame_moves : Prop :=
  (∀ (s : State) (d : Die) (b : Brd) (f : Sys2Proof.Frm) (p : Prg),
      s.pstate = 2 → (s.frame (frameKey d b f)).prg = some p → p.row = 512 → p.paused = false → p.granted = true →
        p.paid = false → p.waits = false → s.canDraw d p.prio 34000 = true → s.loadingSlot (frameKey d b f) = none →
        s.repairOf (frameKey d b f) = none → ∃ t, exec (.prgPlaneClose d b f true) s = .next t ∧
        (t.frame (frameKey d b f)).prg = none ∧ fld (t.reg (prgStat (frameKey d b f))) 21 3 = 1 ∧
        (t.frame (frameKey d b f)).st = (if (s.frame (frameKey d b f)).placed.isSome then .idle else .spare) ∧
        (t.frame (frameKey d b f)).degraded = (if p.poor then (s.frame (frameKey d b f)).degraded else (s.frame
            (frameKey d b f)).degraded.filter (· != p.plane)) ∧
        t.beads = s.beads ∧ t.mem = s.mem ∧ t.pool d = s.pool d - 34000) ∧
  (∀ (s : State) (d : Die) (b : Brd) (f : Sys2Proof.Frm) (p : Prg),
      s.pstate = 2 → (s.frame (frameKey d b f)).prg = some p → p.row = 512 → p.paused = false → p.granted = true →
        p.paid = false → p.waits = false → s.canDraw d p.prio 34000 = true → s.loadingSlot (frameKey d b f) = none →
        s.repairOf (frameKey d b f) = none → ∃ t, exec (.prgPlaneClose d b f false) s = .next t ∧
        (t.frame (frameKey d b f)).prg = none ∧ fld (t.reg (prgStat (frameKey d b f))) 21 3 = 6 ∧
        (t.frame (frameKey d b f)).st = .spare ∧ t.beads = s.beads ∧ t.mem = s.mem) ∧
  (∀ (s : State) (d : Die) (b : Brd) (f : Sys2Proof.Frm) (p : Prg),
      s.pstate = 2 → (s.frame (frameKey d b f)).prg = some p → p.row = 512 → p.paused = false → p.granted = true →
        p.paid = true → s.loadingSlot (frameKey d b f) = none → s.repairOf (frameKey d b f) = none → ∃ t,
        exec (.prgPlaneClose d b f true) s = .next t ∧ (t.frame (frameKey d b f)).prg = none ∧
        fld (t.reg (prgStat (frameKey d b f))) 21 3 = 1 ∧
        (t.frame (frameKey d b f)).st = (if (s.frame (frameKey d b f)).placed.isSome then .idle else .spare) ∧
        t.beads = s.beads ∧ t.mem = s.mem ∧ t.pool d = s.pool d) ∧
  (∀ (s : State) (d : Die) (b : Brd) (f : Sys2Proof.Frm) (ok : Bool) (p : Prg),
      s.pstate = 2 → (s.frame (frameKey d b f)).prg = some p → p.row = 512 → p.paused = false → p.granted = true →
        p.paid = false → p.waits = false → s.canDraw d p.prio 34000 = false →
        exec (.prgPlaneClose d b f ok) s = .next ((s.draw d p.prio 34000 (.program (frameKey d b f))).1.setFrame
            (frameKey d b f) { (s.frame (frameKey d b f)) with prg := some { p with waits := true } })) ∧
  (∀ (s : State) (d : Die) (b : Brd) (f : Sys2Proof.Frm),
      s.sourceOf (frameKey d b f) = none → s.inService (frameKey d b f) = true →
        ((s.frame (frameKey d b f)).st = .idle ∨ (s.frame (frameKey d b f)).st = .stroking) →
        s.switching (s.homeOf (frameKey d b f) / 34) = false → ((s.frame (frameKey d b f)).damaged = [] ∨
        s.residentOf (frameKey d b f) = true) → (s.frame (frameKey d b f)).migrate = true →
        s.fswRoom (s.homeOf (frameKey d b f)) = true →
        exec (.refreshMigration d b f) s = .next ((s.startRepair (frameKey d b f) []).1)) ∧
  (∀ (s : State) (d : Die) (b : Brd) (f : Sys2Proof.Frm),
      s.sourceOf (frameKey d b f) = none → s.inService (frameKey d b f) = true →
        ((s.frame (frameKey d b f)).st = .idle ∨ (s.frame (frameKey d b f)).st = .stroking) →
        s.switching (s.homeOf (frameKey d b f) / 34) = false → (s.frame (frameKey d b f)).damaged ≠ [] →
        s.residentOf (frameKey d b f) = false → exec (.refreshMigration d b f) s = .next (s)) ∧
  (∀ (s : State) (d : Die) (b : Brd) (f : Sys2Proof.Frm),
      s.sourceOf (frameKey d b f) = none → s.inService (frameKey d b f) = true →
        ((s.frame (frameKey d b f)).st = .idle ∨ (s.frame (frameKey d b f)).st = .stroking) →
        s.switching (s.homeOf (frameKey d b f) / 34) = false → ((s.frame (frameKey d b f)).damaged = [] ∨
        s.residentOf (frameKey d b f) = true) → (s.frame (frameKey d b f)).marks ≠ [] →
        s.sv.recount.getD 2 256 ≤ (s.frame (frameKey d b f)).marks.length →
        s.fswRoom (s.homeOf (frameKey d b f)) = false →
        exec (.refreshMigration d b f) s = .next (s.moveBoard (s.homeOf (frameKey d b f) / 34))) ∧
  (∀ (s : State) (d : Die) (b : Brd) (f : Sys2Proof.Frm),
      s.sourceOf (frameKey d b f) = none → (s.frame (frameKey d b f)).migrate = false →
        (s.frame (frameKey d b f)).marks = [] → (s.frame (frameKey d b f)).damaged = [] →
        exec (.refreshMigration d b f) s = .next (s)) ∧
  (∀ (s : State) (d : Die) (b : Brd) (f : Sys2Proof.Frm) (r : Repair),
      s.sourceOf (frameKey d b f) = some r → exec (.refreshMigration d b f) s = .next (s.repairOn r)) ∧
  (∀ (s : State) (d : Die) (b : Brd) (f : Sys2Proof.Frm),
      (s.frame (frameKey d b f)).diagnose = true → (s.frame (frameKey d b f)).st ≠ .retired →
        (s.frame (frameKey d b f)).placed = none →
        exec (.frameRepair d b f) s = .next ((if (((s.toRepair (frameKey d b f)).setFrame (frameKey d b f)
            { (s.toRepair (frameKey d b f)).frame (frameKey d b f) with covered := (s.frame (frameKey d b f)).placed.isSome && (s.toRepair (frameKey d b f)).residentOf (frameKey d b f) }).frame
            (frameKey d b f)).st = .repair then ((s.toRepair (frameKey d b f)).setFrame (frameKey d b f)
            { (s.toRepair (frameKey d b f)).frame (frameKey d b f) with covered := (s.frame (frameKey d b f)).placed.isSome && (s.toRepair (frameKey d b f)).residentOf (frameKey d b f) }).diagnoseFrame
            (frameKey d b f) else ((s.toRepair (frameKey d b f)).setFrame (frameKey d b f)
            { (s.toRepair (frameKey d b f)).frame (frameKey d b f) with covered := (s.frame (frameKey d b f)).placed.isSome && (s.toRepair (frameKey d b f)).residentOf (frameKey d b f) }))))
            ∧
  (∀ (s : State) (d : Die) (b : Brd) (f : Sys2Proof.Frm) (n : Nat) (r : Repair),
      (s.frame (frameKey d b f)).diagnose = true → (s.frame (frameKey d b f)).st ≠ .retired →
        (s.frame (frameKey d b f)).placed = some n →
        ((s.toRepair (frameKey d b f)).setFrame (frameKey d b f)
            { (s.toRepair (frameKey d b f)).frame (frameKey d b f) with covered := (s.frame (frameKey d b f)).placed.isSome && (s.toRepair (frameKey d b f)).residentOf (frameKey d b f) }).sourceOf
            (frameKey d b f) = some r →
        exec (.frameRepair d b f) s = .next (((s.toRepair (frameKey d b f)).setFrame (frameKey d b f)
            { (s.toRepair (frameKey d b f)).frame (frameKey d b f) with covered := (s.frame (frameKey d b f)).placed.isSome && (s.toRepair (frameKey d b f)).residentOf (frameKey d b f) }).repairOn
            r)) ∧
  (∀ (s : State) (d : Die) (b : Brd) (f : Sys2Proof.Frm) (n : Nat),
      (s.frame (frameKey d b f)).diagnose = true → (s.frame (frameKey d b f)).st ≠ .retired →
        (s.frame (frameKey d b f)).placed = some n →
        ((s.toRepair (frameKey d b f)).setFrame (frameKey d b f)
            { (s.toRepair (frameKey d b f)).frame (frameKey d b f) with covered := (s.frame (frameKey d b f)).placed.isSome && (s.toRepair (frameKey d b f)).residentOf (frameKey d b f) }).sourceOf
            (frameKey d b f) = none →
        (((s.toRepair (frameKey d b f)).setFrame (frameKey d b f)
            { (s.toRepair (frameKey d b f)).frame (frameKey d b f) with covered := (s.frame (frameKey d b f)).placed.isSome && (s.toRepair (frameKey d b f)).residentOf (frameKey d b f) }).residentOf
            (frameKey d b f) || !((s.frame (frameKey d b f)).fault && [3, 4, 5].contains (s.frame (frameKey d b
            f)).faultCode)) = true →
        ((s.toRepair (frameKey d b f)).setFrame (frameKey d b f)
            { (s.toRepair (frameKey d b f)).frame (frameKey d b f) with covered := (s.frame (frameKey d b f)).placed.isSome && (s.toRepair (frameKey d b f)).residentOf (frameKey d b f) }).switching
            (((s.toRepair (frameKey d b f)).setFrame (frameKey d b f)
            { (s.toRepair (frameKey d b f)).frame (frameKey d b f) with covered := (s.frame (frameKey d b f)).placed.isSome && (s.toRepair (frameKey d b f)).residentOf (frameKey d b f) }).homeOf
            (frameKey d b f) / 34) = false →
        ((s.toRepair (frameKey d b f)).setFrame (frameKey d b f)
            { (s.toRepair (frameKey d b f)).frame (frameKey d b f) with covered := (s.frame (frameKey d b f)).placed.isSome && (s.toRepair (frameKey d b f)).residentOf (frameKey d b f) }).repairOf
            (frameKey d b f) = none →
        ((s.toRepair (frameKey d b f)).setFrame (frameKey d b f)
            { (s.toRepair (frameKey d b f)).frame (frameKey d b f) with covered := (s.frame (frameKey d b f)).placed.isSome && (s.toRepair (frameKey d b f)).residentOf (frameKey d b f) }).fswRoom
            (((s.toRepair (frameKey d b f)).setFrame (frameKey d b f)
            { (s.toRepair (frameKey d b f)).frame (frameKey d b f) with covered := (s.frame (frameKey d b f)).placed.isSome && (s.toRepair (frameKey d b f)).residentOf (frameKey d b f) }).homeOf
            (frameKey d b f)) = true →
        exec (.frameRepair d b f) s = .next ((((s.toRepair (frameKey d b f)).setFrame (frameKey d b f)
            { (s.toRepair (frameKey d b f)).frame (frameKey d b f) with covered := (s.frame (frameKey d b f)).placed.isSome && (s.toRepair (frameKey d b f)).residentOf (frameKey d b f) }).startRepair
            (frameKey d b f) []).1)) ∧
  (∀ (s : State) (d : Die) (b : Brd) (f : Sys2Proof.Frm) (n : Nat),
      (s.frame (frameKey d b f)).diagnose = true → (s.frame (frameKey d b f)).st ≠ .retired →
        (s.frame (frameKey d b f)).placed = some n →
        ((s.toRepair (frameKey d b f)).setFrame (frameKey d b f)
            { (s.toRepair (frameKey d b f)).frame (frameKey d b f) with covered := (s.frame (frameKey d b f)).placed.isSome && (s.toRepair (frameKey d b f)).residentOf (frameKey d b f) }).sourceOf
            (frameKey d b f) = none →
        (((s.toRepair (frameKey d b f)).setFrame (frameKey d b f)
            { (s.toRepair (frameKey d b f)).frame (frameKey d b f) with covered := (s.frame (frameKey d b f)).placed.isSome && (s.toRepair (frameKey d b f)).residentOf (frameKey d b f) }).residentOf
            (frameKey d b f) || !((s.frame (frameKey d b f)).fault && [3, 4, 5].contains (s.frame (frameKey d b
            f)).faultCode)) = true →
        ((s.toRepair (frameKey d b f)).setFrame (frameKey d b f)
            { (s.toRepair (frameKey d b f)).frame (frameKey d b f) with covered := (s.frame (frameKey d b f)).placed.isSome && (s.toRepair (frameKey d b f)).residentOf (frameKey d b f) }).switching
            (((s.toRepair (frameKey d b f)).setFrame (frameKey d b f)
            { (s.toRepair (frameKey d b f)).frame (frameKey d b f) with covered := (s.frame (frameKey d b f)).placed.isSome && (s.toRepair (frameKey d b f)).residentOf (frameKey d b f) }).homeOf
            (frameKey d b f) / 34) = false →
        ((s.toRepair (frameKey d b f)).setFrame (frameKey d b f)
            { (s.toRepair (frameKey d b f)).frame (frameKey d b f) with covered := (s.frame (frameKey d b f)).placed.isSome && (s.toRepair (frameKey d b f)).residentOf (frameKey d b f) }).repairOf
            (frameKey d b f) = none →
        ((s.toRepair (frameKey d b f)).setFrame (frameKey d b f)
            { (s.toRepair (frameKey d b f)).frame (frameKey d b f) with covered := (s.frame (frameKey d b f)).placed.isSome && (s.toRepair (frameKey d b f)).residentOf (frameKey d b f) }).fswRoom
            (((s.toRepair (frameKey d b f)).setFrame (frameKey d b f)
            { (s.toRepair (frameKey d b f)).frame (frameKey d b f) with covered := (s.frame (frameKey d b f)).placed.isSome && (s.toRepair (frameKey d b f)).residentOf (frameKey d b f) }).homeOf
            (frameKey d b f)) = false →
        exec (.frameRepair d b f) s = .next (((s.toRepair (frameKey d b f)).setFrame (frameKey d b f)
            { (s.toRepair (frameKey d b f)).frame (frameKey d b f) with covered := (s.frame (frameKey d b f)).placed.isSome && (s.toRepair (frameKey d b f)).residentOf (frameKey d b f) }).moveBoard
            (((s.toRepair (frameKey d b f)).setFrame (frameKey d b f)
            { (s.toRepair (frameKey d b f)).frame (frameKey d b f) with covered := (s.frame (frameKey d b f)).placed.isSome && (s.toRepair (frameKey d b f)).residentOf (frameKey d b f) }).homeOf
            (frameKey d b f) / 34))) ∧
  (∀ (s : State) (d : Die) (b : Brd) (f : Sys2Proof.Frm) (n : Nat),
      (s.frame (frameKey d b f)).diagnose = true → (s.frame (frameKey d b f)).st ≠ .retired →
        (s.frame (frameKey d b f)).placed = some n →
        ((s.toRepair (frameKey d b f)).setFrame (frameKey d b f)
            { (s.toRepair (frameKey d b f)).frame (frameKey d b f) with covered := (s.frame (frameKey d b f)).placed.isSome && (s.toRepair (frameKey d b f)).residentOf (frameKey d b f) }).sourceOf
            (frameKey d b f) = none →
        ((((s.toRepair (frameKey d b f)).setFrame (frameKey d b f)
            { (s.toRepair (frameKey d b f)).frame (frameKey d b f) with covered := (s.frame (frameKey d b f)).placed.isSome && (s.toRepair (frameKey d b f)).residentOf (frameKey d b f) }).residentOf
            (frameKey d b f) || !((s.frame (frameKey d b f)).fault && [3, 4, 5].contains (s.frame (frameKey d b
            f)).faultCode)) = false ∨
        ((s.toRepair (frameKey d b f)).setFrame (frameKey d b f)
            { (s.toRepair (frameKey d b f)).frame (frameKey d b f) with covered := (s.frame (frameKey d b f)).placed.isSome && (s.toRepair (frameKey d b f)).residentOf (frameKey d b f) }).switching
            (((s.toRepair (frameKey d b f)).setFrame (frameKey d b f)
            { (s.toRepair (frameKey d b f)).frame (frameKey d b f) with covered := (s.frame (frameKey d b f)).placed.isSome && (s.toRepair (frameKey d b f)).residentOf (frameKey d b f) }).homeOf
            (frameKey d b f) / 34) = true ∨
        (((s.toRepair (frameKey d b f)).setFrame (frameKey d b f)
            { (s.toRepair (frameKey d b f)).frame (frameKey d b f) with covered := (s.frame (frameKey d b f)).placed.isSome && (s.toRepair (frameKey d b f)).residentOf (frameKey d b f) }).repairOf
            (frameKey d b f)).isSome = true) →
        exec (.frameRepair d b f) s = .next (((s.toRepair (frameKey d b f)).setFrame (frameKey d b f)
            { (s.toRepair (frameKey d b f)).frame (frameKey d b f) with covered := (s.frame (frameKey d b f)).placed.isSome && (s.toRepair (frameKey d b f)).residentOf (frameKey d b f) })))
            ∧
  (∀ (s : State) (d : Die) (b : Brd) (f : Sys2Proof.Frm),
      ((s.frame (frameKey d b f)).diagnose = false ∨ (s.frame (frameKey d b f)).st = .retired) →
        exec (.frameRepair d b f) s = .next (s))

/-- Overlapped and fenced board switches, the history copy and the removal of records. A sound, free board of the same
die is prepared for a logical board that is to move; prepared, an overlapped switch begins at a stroke sequence
beyond every step on its way, under the next epoch, and its records are sent. Once the old board has ended its last
step below that sequence the state is copied and the new board replaces it. A fenced switch begins at the old
board's own sequence, copies once the old board is drained and ends. While the old board is not drained a fenced
switch waits; one whose records found no place sends them when there is one. The records of an ended switch are
removed when no packet and no held carry of the old placement is left and no route is behind a fence, for a failed
board after 1 ms at the earliest. The values and conventions that the manual leaves open are the model's choices of
log entries 29, 59 and 120. Rules: R220, R286, R287, R288. -/
def Obligations.Board_switches : Prop :=
  (∀ (s : State) (slot : Fin 64) (lb : Nat) (d : Die) (b : Brd) (k : Nat),
      (s.score slot).boardOf lb = some k → (s.score slot).st = 4 → s.switchOf slot lb = none →
        (s.board k).failed = false → s.moveOf k = none → s.freeBoard (boardKey d b) = true →
        keyDie (boardKey d b) = keyDie k → s.soundBoard (s.score slot) k (boardKey d b) = true →
        s.switching k = false → exec (.overlappedBoardSwitch slot lb d b) s = .next (s.prepareBoard k (boardKey d b)))
            ∧
  (∀ (s : State) (slot : Fin 64) (lb : Nat) (d : Die) (b : Brd) (k : Nat) (r : Repair),
      (s.score slot).boardOf lb = some k → (s.score slot).st = 4 → s.switchOf slot lb = none →
        (s.board k).failed = false → s.moveOf k = some r → r.target = (boardKey d b) → r.todo = [] →
        progStrokes ((s.score slot).progOf lb) ≠ 0 → s.recordRoom (s.receivers slot lb).1 lb = true →
        exec (.overlappedBoardSwitch slot lb d b) s = .next
        ((let per := progStrokes ((s.score slot).progOf lb)
        let n := s.stepsToCome slot k
        let ahead := (s.board k).steps.length + (s.stepsToward k).length + n
        let w : Switch :=
          { slot := slot, lb := lb, old := k, new := (boardKey d b), at_ := s.now, skip := n, en := (s.serveEpoch k + 1) % 2 ^ 16,
            s := (s.nextBase k per + per * ahead) % 2 ^ 48 }
        ({ s with fb.switches := s.fb.switches ++ [w] } : State).sendSwitch w))) ∧
  (∀ (s : State) (slot : Fin 64) (lb : Nat) (d : Die) (b : Brd) (k : Nat),
      (s.score slot).boardOf lb = some k → ((s.score slot).st ≠ 4 ∨ (s.switchOf slot lb).isSome = true ∨
        (s.board k).failed = true) → exec (.overlappedBoardSwitch slot lb d b) s = .next (s)) ∧
  (∀ (s : State) (slot : Fin 64) (lb : Nat) (d : Die) (b : Brd) (k : Nat) (r : Repair),
      (s.score slot).boardOf lb = some k → (s.score slot).st = 4 → s.switchOf slot lb = none →
        (s.board k).failed = false → s.moveOf k = some r → (r.target ≠ (boardKey d b) ∨ r.todo ≠ [] ∨
        s.recordRoom (s.receivers slot lb).1 lb = false) → exec (.overlappedBoardSwitch slot lb d b) s = .next (s)) ∧
  (∀ (s : State) (slot : Fin 64) (lb : Nat) (d : Die) (b : Brd) (k : Nat),
      (s.score slot).boardOf lb = some k → (s.score slot).st = 4 → s.switchOf slot lb = none → s.moveOf k = none →
        s.freeBoard (boardKey d b) = true → keyDie (boardKey d b) = keyDie k →
        s.soundBoard (s.score slot) k (boardKey d b) = true → s.switching k = false →
        exec (.fencedBoardSwitch slot lb d b false) s = .next (s.prepareBoard k (boardKey d b))) ∧
  (∀ (s : State) (slot : Fin 64) (lb : Nat) (d : Die) (b : Brd) (k : Nat) (r : Repair),
      (s.score slot).boardOf lb = some k → (s.score slot).st = 4 → s.switchOf slot lb = none → s.moveOf k = some r →
        r.target = (boardKey d b) → r.todo = [] →
        exec (.fencedBoardSwitch slot lb d b false) s = .next
            ({ s with fb.switches := s.fb.switches ++ [{ slot := slot, lb := lb, old := k, new := (boardKey d b), overlapped := false, at_ := s.now, s := (s.board k).q, en := s.serveEpoch k }] }))
            ∧
  (∀ (s : State) (slot : Fin 64) (lb : Nat) (d : Die) (b : Brd) (failed : Bool) (w : Switch),
      s.switchOf slot lb = some w → w.overlapped = false → w.new = (boardKey d b) → w.copied = false →
        w.drop = false → s.drained w.old = true →
        exec (.fencedBoardSwitch slot lb d b failed) s = .next
            ({ ((((s.copyState slot lb w.old w.new).replaceBoard slot lb w.old w.new).serve { w with s := (s.board w.old).q, en := s.serveEpoch w.old }).endMove w.old) with fb.switches := ((((s.copyState slot lb w.old w.new).replaceBoard slot lb w.old w.new).serve { w with s := (s.board w.old).q, en := s.serveEpoch w.old }).endMove w.old).fb.switches.filter (· != w) }))
            ∧
  (∀ (s : State) (slot : Fin 64) (lb : Nat) (d : Die) (b : Brd) (failed : Bool) (w : Switch),
      s.switchOf slot lb = some w → w.overlapped = false → w.new = (boardKey d b) → w.copied = false →
        w.drop = false → s.drained w.old = false → exec (.fencedBoardSwitch slot lb d b failed) s = .next (s)) ∧
  (∀ (s : State) (slot : Fin 64) (lb : Nat) (d : Die) (b : Brd) (failed : Bool) (w : Switch),
      s.switchOf slot lb = some w → w.overlapped = false → w.new = (boardKey d b) → w.copied = false → w.drop = true →
        w.sent = false → s.recordRoom (s.receivers slot lb).1 lb = true →
        exec (.fencedBoardSwitch slot lb d b failed) s = .next (s.sendSwitch w)) ∧
  (∀ (s : State) (slot : Fin 64) (lb : Nat) (d : Die) (b : Brd) (failed : Bool) (w : Switch),
      s.switchOf slot lb = some w → (w.overlapped = true ∨ w.new ≠ (boardKey d b) ∨ w.copied = true) →
        exec (.fencedBoardSwitch slot lb d b failed) s = .next (s)) ∧
  (∀ (s : State) (slot : Fin 64) (lb : Nat) (w : Switch),
      s.switchOf slot lb = some w → w.overlapped = true → w.copied = false → w.acks = 0 → w.sent = true → w.skip = 0 →
        s.quiet w.old = true → atOrAfter (s.board w.old).q w.s = true →
        exec (.historyCopy slot lb) s = .next ((((s.copyState slot lb w.old w.new).putSwitch w
            { w with copied := true }).replaceBoard slot lb w.old w.new).endMove w.old)) ∧
  (∀ (s : State) (slot : Fin 64) (lb : Nat) (w : Switch),
      s.switchOf slot lb = some w → w.copied = true →
        s.inFabric.any (fun (p : Pkt) => pktSrc p == w.old && p.lsrc == lb) = false →
        (s.boards.any fun e => e.2.heldC.any (fun (p : Pkt) => pktSrc p == w.old && p.lsrc == lb)) = false →
        s.fb.fences = [] → (w.drop = false ∨ w.at_ + 1000000 ≤ s.now) →
        exec (.switchRecordRemoval slot lb) s = .next
            ({ ((s.receivers slot lb).1.foldl (fun s k => s.dropRecAt k lb) s) with fb.recs := ((s.receivers slot lb).1.foldl (fun s k => s.dropRecAt k lb) s).fb.recs.filter (fun r => r.2.1 != lb), fb.switches := ((s.receivers slot lb).1.foldl (fun s k => s.dropRecAt k lb) s).fb.switches.filter (· != w) }))
            ∧
  (∀ (s : State) (slot : Fin 64) (lb : Nat) (w : Switch),
      s.switchOf slot lb = some w → (w.copied = false ∨
        s.inFabric.any (fun (p : Pkt) => pktSrc p == w.old && p.lsrc == lb) = true ∨
        (s.boards.any fun e => e.2.heldC.any (fun (p : Pkt) => pktSrc p == w.old && p.lsrc == lb)) = true ∨
        s.fb.fences ≠ [] ∨ (w.drop = true ∧ s.now < w.at_ + 1000000)) →
        exec (.switchRecordRemoval slot lb) s = .next (s))

/-- Repair of a board and the loss of a die. A healthy board asked to move is moved and asked no more; a board cut off
that runs no score fails; a board that runs a score and has a reserve board and its images resident is replaced by
it, and one with no reserve board, or whose images are not resident, leaves its score degraded; where more than
eight boards of a die fail within 1 s the die is lost. A die lost stays lost, and its loss has the effect of R482
once. The values and conventions that the manual leaves open are the model's choices of log entries 30, 59, 81, 113
and 120. Rules: R241, R368, R481, R482. -/
def Obligations.Board_repair_and_die_loss : Prop :=
  (∀ (s : State) (d : Die) (b : Brd),
      (s.die d).on = true → (s.board (boardKey d b)).move = true → (s.board (boardKey d b)).failed = false →
        (s.board (boardKey d b)).score.isSome = true →
        exec (.boardRepair d b) s = .next ((s.setBoard (boardKey d b)
            { (s.board (boardKey d b)) with move := false }).moveBoard (boardKey d b))) ∧
  (∀ (s : State) (d : Die) (b : Brd),
      (s.die d).on = true → (s.board (boardKey d b)).failed = true → (s.board (boardKey d b)).score = none →
        s.disabled (mapBoard (boardKey d b)) = false → exec (.boardRepair d b) s = .next (s.failBoard (boardKey d b)))
            ∧
  (∀ (s : State) (d : Die) (b : Brd),
      (s.die d).on = true → (s.board (boardKey d b)).move = false → (s.board (boardKey d b)).failed = false →
        (s.board (boardKey d b)).score = none →
        exec (.boardRepair d b) s = .next ((s.boardFault (boardKey d b) 6 (s.board (boardKey d b)).pc 0).failBoard
            (boardKey d b))) ∧
  (∀ (s : State) (d : Die) (b : Brd),
      (s.die d).on = false → exec (.boardRepair d b) s = .next (s)) ∧
  (∀ (s : State) (d : Die) (b : Brd) (n : Nat) (u w : State) (k : Nat),
      (s.die d).on = true → (s.board (boardKey d b)).failed = true → (s.board (boardKey d b)).score = some n →
        u = (s.failBoard (boardKey d b)).failScore n 0x0507 false → (u.die d).boardFails.length ≤ 8 →
        w = { u with fb.switches := u.fb.switches.filter fun v => !(v.slot == n && v.lb == (s.board (boardKey d b)).lb && !v.copied) }
            →
        w.reserveBoard (boardKey d b) = some k → (w.score n).resident = true →
        ((homes (w.score n)).all fun h => h.1 / 34 != (boardKey d b) || w.residentOf ((w.score n).frameAt (boardKey d
            b) (h.1 % 34))) = true →
        exec (.boardRepair d b) s = .next (w.takeOverBoard n (s.board (boardKey d b)).lb (boardKey d b) k)) ∧
  (∀ (s : State) (d : Die) (b : Brd) (n : Nat) (u w : State) (k : Nat),
      (s.die d).on = true → (s.board (boardKey d b)).failed = true → (s.board (boardKey d b)).score = some n →
        u = (s.failBoard (boardKey d b)).failScore n 0x0507 false → (u.die d).boardFails.length ≤ 8 →
        w = { u with fb.switches := u.fb.switches.filter fun v => !(v.slot == n && v.lb == (s.board (boardKey d b)).lb && !v.copied) }
            →
        w.reserveBoard (boardKey d b) = some k →
        ((w.score n).resident && (homes (w.score n)).all fun h => h.1 / 34 != (boardKey d b) || w.residentOf ((w.score
            n).frameAt (boardKey d b) (h.1 % 34))) = false →
        exec (.boardRepair d b) s = .next ((w.setScore n { w.score n with degraded := true }).event 6 (leBytes 4 (34 *
            (boardKey d b))))) ∧
  (∀ (s : State) (d : Die) (b : Brd),
      (s.die d).on = true → (s.board (boardKey d b)).move = true → (s.board (boardKey d b)).failed = false →
        (s.board (boardKey d b)).score = none → exec (.boardRepair d b) s = .next (s)) ∧
  (∀ (s : State) (d : Die) (b : Brd) (n : Nat) (u w : State),
      (s.die d).on = true → (s.board (boardKey d b)).failed = true → (s.board (boardKey d b)).score = some n →
        u = (s.failBoard (boardKey d b)).failScore n 0x0507 false → (u.die d).boardFails.length ≤ 8 →
        w = { u with fb.switches := u.fb.switches.filter fun v => !(v.slot == n && v.lb == (s.board (boardKey d b)).lb && !v.copied) }
            →
        w.reserveBoard (boardKey d b) = none →
        exec (.boardRepair d b) s = .next ((w.setScore n { w.score n with degraded := true }).event 6 (leBytes 4 (34 *
            (boardKey d b))))) ∧
  (∀ (s : State) (d : Die) (b : Brd) (n : Nat) (u : State),
      (s.die d).on = true → (s.board (boardKey d b)).failed = true → (s.board (boardKey d b)).score = some n →
        u = (s.failBoard (boardKey d b)).failScore n 0x0507 false → 8 < (u.die d).boardFails.length →
        exec (.boardRepair d b) s = .next (u.loseDie d)) ∧
  (∀ (s : State) (d : Die),
      (s.die d).lost = true → exec (.dieLoss d) s = .next (s)) ∧
  (∀ (s : State) (d : Die),
      exec (.dieLoss d) s = .next (s.loseDie d))

/-- The device commands. DEV_INFO answers the part, the firmware release, the serial number and the number of disabled
frames; DEV_STATE the power state, the control hubs' state and the reckoning counter. DEV_POWER towards a state
other than the present one begins the entry or the wake and is answered when it is reached; of the present state it
completes at once; a target that is no state is refused. DEV_RESET without its key is refused; with it the module
restarts as from cold start. DEV_PORT puts the settings to be applied once its RESPONSE is acknowledged, DEV_EVENTS
sets the session's EVENT selection. The values and conventions that the manual leaves open are the model's choices
of log entries 36, 41 and 77. Instr.admitted gathers the conditions under which Porell carries a command out (R363,
R366), and takesEntry those under which the ledger takes its audit record (R367). Rules: R368, R370, R434, R435,
R436, R363, R366, R367. -/
def Obligations.Device_commands : Prop :=
  (∀ (s : State) (r : Req),
      Instr.admitted (.devInfo r) s →
        exec (.devInfo r) s = .next (s.answer r 0 ([word 0xB0, word s.fwRelease] ++ words64 s.serial ++ [word
            s.disabledFrames]))) ∧
  (∀ (s : State) (r : Req),
      Instr.admitted (.devState r) s →
        exec (.devState r) s = .next (s.answer r 0 ([word s.pstate, word (b2n (s.sv.alive.getD 0 false) + 2 * b2n
            (s.sv.alive.getD 1 false) + 4 * b2n s.sv.owner.isSome + 8 * b2n s.pw.serviceEn)] ++ words64 s.ck.rk))) ∧
  (∀ (s : State) (r : Req),
      Instr.admitted (.devPower r) s → (argw r 1 < 2 ∨ 4 < argw r 1) →
        exec (.devPower r) s = .next (s.answer r 0x104 [])) ∧
  (∀ (s : State) (r : Req),
      Instr.admitted (.devPower r) s → 2 ≤ argw r 1 → argw r 1 ≤ 4 → (s.pstate = 1 ∨ s.pw.failN = true) →
        exec (.devPower r) s = .next (s.answer r 0x401 [])) ∧
  (∀ (s : State) (r : Req),
      Instr.admitted (.devPower r) s → s.takesEntry → argw r 1 = 2 → s.pstate = 2 → s.pw.failN = false →
        exec (.devPower r) s = .next (((Instr.entered (.devPower r) s).wake).finish r 0 ([word 2]))) ∧
  (∀ (s : State) (r : Req),
      Instr.admitted (.devPower r) s → s.takesEntry → argw r 1 = 3 → s.pstate = 2 → s.pw.failN = false →
        exec (.devPower r) s = .next (((Instr.entered (.devPower r) s).beginEntry 3).addPend
            { req := r, op := 0x0102, key := 3 })) ∧
  (∀ (s : State) (r : Req),
      Instr.admitted (.devPower r) s → s.takesEntry → argw r 1 = 4 → s.pstate = 2 → s.pw.failN = false →
        exec (.devPower r) s = .next (((Instr.entered (.devPower r) s).beginEntry 4).addPend
            { req := r, op := 0x0102, key := 4 })) ∧
  (∀ (s : State) (r : Req),
      Instr.admitted (.devReset r) s → argw r 1 ≠ 0x52535421 → exec (.devReset r) s = .next (s.answer r 0x104 [])) ∧
  (∀ (s : State) (r : Req),
      Instr.admitted (.devReset r) s → s.takesEntry → argw r 1 = 0x52535421 →
        exec (.devReset r) s = .next ((((((Instr.entered (.devReset r) s).addPend
            { req := r, op := 0x0103, key := 0 }).finish r 0 []).respondAll).vinReset.setPstate 1))) ∧
  (∀ (s : State) (r : Req),
      Instr.admitted (.devPort r) s → s.takesEntry → s.gated r.src 5 1 = false → argw r 1 < 2 →
        argw r 2 / 2 ^ 23 = 0 → argw r 2 % 4 ≠ 3 → let u := Instr.entered (.devPort r) s; exec (.devPort r) s = .next
        ((let t := (u.setPort (argw r 1) { u.port (argw r 1) with conf := some (argw r 2, argw r 3, argw r 4, 0) }).finish r 0 []
        { t with hl.replies := t.hl.replies.take s.hl.replies.length ++ (t.hl.replies.drop s.hl.replies.length).map fun (x : Reply) => if x.src = r.src ∧
          x.tag = r.tag ∧ x.code = 0 then { x with port := some (argw r 1) } else x }))) ∧
  (∀ (s : State) (r : Req) (h : Hub) (n : Fin 16),
      Instr.admitted (.devEvents r) s → r.src = .session h n →
        exec (.devEvents r) s = .next ((s.setSess (sessKey h n)
            { s.sess (sessKey h n) with events := argw r 1 }).answer r 0 ([])))

/-- The log, telemetry, journal and replay commands. LOG_READ, LOG_TELEM and LOG_EXPORT put the entries, the telemetry
block or the journal records asked for into the object named or the sideband and answer OK; LOG_READ past the log's
end and LOG_EXPORT of a record that is not there answer RESOURCE; LOG_JOURNAL sets the journal's size, its enable
and its captures; LOG_REPLAY restores the ring from the record named and puts it under replay. The values and
conventions that the manual leaves open are the model's choices of log entries 5 and 21. Instr.admitted gathers the
conditions under which Porell carries a command out (R363, R366), and takesEntry those under which the ledger takes
its audit record (R367). Rules: R368, R393, R396, R397, R398, R363, R366, R367. -/
def Obligations.Log_and_journal_commands : Prop :=
  (∀ (s : State) (r : Req),
      Instr.admitted (.logRead r) s → s.sink (argw r 3) (32 * argw r 2) = 0 → argw r 1 + argw r 2 ≤ s.evlog.length →
        exec (.logRead r) s = .next ((s.bulk r.src (argw r 3) ((List.range (argw r 2)).flatMap fun i => logBytes (argw
            r 1 + i) (s.evlog.getD (argw r 1 + i) ⟨0, 0, []⟩))).answer r 0 ([]))) ∧
  (∀ (s : State) (r : Req),
      Instr.admitted (.logRead r) s → s.sink (argw r 3) (32 * argw r 2) = 0 → s.evlog.length < argw r 1 + argw r 2 →
        exec (.logRead r) s = .next (s.answer r 0x405 [])) ∧
  (∀ (s : State) (r : Req),
      Instr.admitted (.logTelem r) s → argw r 2 ≤ 3 → s.sink (argw r 1) (s.telem (argw r 2)).length = 0 →
        exec (.logTelem r) s = .next ((s.bulk r.src (argw r 1) (s.telem (argw r 2))).answer r 0 ([]))) ∧
  (∀ (s : State) (r : Req),
      Instr.admitted (.logTelem r) s → 3 < argw r 2 → exec (.logTelem r) s = .next (s.answer r 0x104 [])) ∧
  (∀ (s : State) (r : Req),
      Instr.admitted (.logJournal r) s → s.takesEntry → 1 ≤ argw r 1 → argw r 1 ≤ 4096 → argw r 2 < 4 →
        ((List.range 2).any fun h => decide (dramCap < s.dramUsed h - s.sv.journal.size * 2 ^ 19 + argw r 1 * 2 ^ 19))
            = false →
        let u := Instr.entered (.logJournal r) s; exec (.logJournal r) s = .next
        ((let on := argw r 2 % 2 == 1; let j := { u.sv.journal with size := argw r 1, on := on, captures := argw r 2 / 2 == 1 }
        let k := if on && !u.sv.journal.on then { j with cals := [] } else j
        let v := { u with sv.journal := (k.fit k.recs.length 0).fit k.recs.length 1 }
        (if on then { v with wk.rings := v.wk.rings.map fun e => (e.1, { e.2 with stateAt := 0 }) } else v).finish r 0
            []))) ∧
  (∀ (s : State) (r : Req) (x : Nat × List Byte) (xs : List (Nat × List Byte)) (h : Handle),
      Instr.admitted (.logExport r) s →
        (s.sv.journal.recs.filter fun x => x.1 / 2 ^ 31 == argw r 2 / 2 ^ 31).dropWhile (fun x => x.1 != argw r 2) = x
            :: xs →
        s.handle (argw r 1) = some h → h.fmt = 0xFF →
        exec (.logExport r) s = .next ((s.bulk r.src (argw r 1) (((x :: xs).flatMap (·.2)).take h.codeLen)).answer r 0
            ([]))) ∧
  (∀ (s : State) (r : Req),
      Instr.admitted (.logExport r) s →
        (s.sv.journal.recs.filter fun x => x.1 / 2 ^ 31 == argw r 2 / 2 ^ 31).dropWhile (fun x => x.1 != argw r 2) =
            [] →
        exec (.logExport r) s = .next (s.answer r 0x405 [])) ∧
  (∀ (s : State) (r : Req),
      Instr.admitted (.logReplay r) s → s.takesEntry → argw r 1 < 4096 → argw r 3 ≠ 0 → s.ringDepth (argw r 1) ≠ 0 →
        s.replayCode (argw r 1) (argw r 2) (argw r 3) = 0 →
        let u := Instr.entered (.logReplay r) s; exec (.logReplay r) s = .next
        ((let recs := u.sv.journal.recs.filter fun x => decide (argw r 2 ≤ x.1 ∧ x.1 < argw r 2 + argw r 3)
        let src := match recs with | x :: _ => leAt x.2 2 2 | [] => 0
        let descs := recs.filter fun x => leAt x.2 0 1 == 1 && leAt x.2 2 2 == src
        let v := (u.ckRestore (argw r 1) (match recs with | x :: _ => x.2.drop 32 | [] => [])).1
        (v.setRing (argw r 1) { v.ring (argw r 1) with replay := some (descs.map (·.1)), replayBase := v.ck.rk + 1000000, replayA0 := (match descs with | x :: _ => leAt x.2 24 8 | [] => 0), replaySrc := src, replayed := 0, replayReq := some r }).addPend { req := r, op := 0x0C04, key := argw r 1 }))) ∧
  (∀ (s : State) (r : Req),
      Instr.admitted (.logReplay r) s → s.takesEntry → argw r 1 < 4096 → argw r 3 = 0 → s.ringDepth (argw r 1) ≠ 0 →
        exec (.logReplay r) s = .next ((Instr.entered (.logReplay r) s).finish r 0 ([])))

/-- The service commands. SVC_MAP_READ puts the region map into its object. SVC_MAP_EDIT writes a well-formed map with
the next edit count into region 2. SVC_REPAIR marks the frame for migration or its board for a move. SVC_SWAP hands
the rings and sessions of hub A over to hub B or back. SVC_LIMITS sets a maker limit, brings the present setting
down to it and saves the policy. The values and conventions that the manual leaves open are the model's choices of
log entries 72 and 81. Instr.admitted gathers the conditions under which Porell carries a command out (R363, R366),
and takesEntry those under which the ledger takes its audit record (R367). Rules: R440, R445, R465, R475, R476,
R477, R481, R490, R363, R366, R367. -/
def Obligations.Service_commands : Prop :=
  (∀ (s : State) (r : Req),
      Instr.admitted (.svcMapRead r) s → s.gated r.src 2 0 = false → s.sink (argw r 1) 32768 = 0 →
        exec (.svcMapRead r) s = .next ((s.bulk r.src (argw r 1) s.mapBytes).answer r 0 ([]))) ∧
  (∀ (s : State) (r : Req),
      Instr.admitted (.svcMapRead r) s → s.gated r.src 2 0 = true →
        exec (.svcMapRead r) s = .next (s.answer r 0x204 [])) ∧
  (∀ (s : State) (r : Req) (bs : List Byte),
      Instr.admitted (.svcMapEdit r) s → s.gated r.src 2 1 = false → s.object (argw r 1) = .ok bs →
        bs.length ≠ 32768 → exec (.svcMapEdit r) s = .next (s.answer r 0x104 [])) ∧
  (∀ (s : State) (r : Req) (bs : List Byte),
      Instr.admitted (.svcMapEdit r) s → s.takesEntry → s.gated r.src 2 1 = false → s.object (argw r 1) = .ok bs →
        bs.length = 32768 → leAt bs 0 4 = 0x4D444C59 → leAt bs 4 4 = 1 →
        let u := Instr.entered (.svcMapEdit r) s; exec (.svcMapEdit r) s = .next ((((u.ctrInc 3).1.ledgerPages 440 128 (patch bs 8 (leBytes 8 ((u.ctrInc 3).1.counter 3)))).1).finish r 0 ([]))) ∧
  (∀ (s : State) (r : Req) (k : Nat),
      Instr.admitted (.svcRepair r) s → s.takesEntry → argw r 2 = 0 → s.frameAddr? (argw r 1) = some k →
        (s.frame k).placed.isSome = true →
        let u := Instr.entered (.svcRepair r) s; exec (.svcRepair r) s = .next ((u.setFrame k { u.frame k with migrate := true }).finish r 0 ([]))) ∧
  (∀ (s : State) (r : Req) (k : Nat),
      Instr.admitted (.svcRepair r) s → s.takesEntry → argw r 2 = 1 → s.frameAddr? (argw r 1) = some k →
        (s.board (fkBoard k)).score.isSome = true →
        let u := Instr.entered (.svcRepair r) s; exec (.svcRepair r) s = .next ((u.setBoard (fkBoard k) { u.board (fkBoard k) with move := true }).finish r 0 ([]))) ∧
  (∀ (s : State) (r : Req),
      Instr.admitted (.svcRepair r) s → argw r 2 ≤ 1 → s.frameAddr? (argw r 1) = none →
        exec (.svcRepair r) s = .next (s.answer r 0x10a [])) ∧
  (∀ (s : State) (r : Req),
      Instr.admitted (.svcSwap r) s → s.takesEntry → argw r 1 = 0 → s.sv.alive = [true, true] → s.sv.swapped = false →
        let u := Instr.entered (.svcSwap r) s; exec (.svcSwap r) s = .next ((({ u with sv.swapped := true, sv.owner := some 1, wk.jobs := u.wk.jobs.map fun e => (e.1, e.2.map fun j => if j.st ≠ .completed ∧
        ringHub j.ring = 0 then { j with takeover := true } else j) } : State).finish r 0 []))) ∧
  (∀ (s : State) (r : Req),
      Instr.admitted (.svcSwap r) s → s.takesEntry → argw r 1 = 1 → s.sv.alive = [true, true] → s.sv.swapped = true →
        let u := Instr.entered (.svcSwap r) s; exec (.svcSwap r) s = .next ((({ u with sv.swapped := false, sv.owner := none, wk.jobs := u.wk.jobs.map fun e => (e.1, e.2.map fun j => if j.st ≠ .completed ∧
        ringHub j.ring = 0 then { j with takeover := true } else j) } : State).finish r 0 []))) ∧
  (∀ (s : State) (r : Req),
      Instr.admitted (.svcLimits r) s → s.takesEntry → argw r 1 = 3 → 80 ≤ argw r 2 → argw r 2 ≤ 240 →
        let u := Instr.entered (.svcLimits r) s; exec (.svcLimits r) s = .next
        ((let v := { u with th.maker := u.th.maker.set 3 (argw r 2) }
        ((v.setBoth 0x80004 (put (v.reg (hubBase 0 + 0x80004)) 0 8 (min (v.regN (hubBase 0 + 0x80004) % 256) (argw r
            2)))).savePolicy).finish r 0 []))) ∧
  (∀ (s : State) (r : Req),
      Instr.admitted (.svcLimits r) s → s.takesEntry → argw r 1 < 3 → argw r 2 < 115 →
        let u := Instr.entered (.svcLimits r) s; exec (.svcLimits r) s = .next
        ((let v := { u with th.maker := u.th.maker.set (argw r 1) (argw r 2) }
        ((v.setBoth 0x70000 (put (v.reg (hubBase 0 + 0x70000)) (8 * argw r 1) 8 (min (fld (v.reg (hubBase 0 +
            0x70000)) (8 * argw r 1) 8) (argw r 2)))).savePolicy).finish r 0 []))) ∧
  (∀ (s : State) (r : Req),
      Instr.admitted (.svcLimits r) s → 3 < argw r 1 → exec (.svcLimits r) s = .next (s.answer r 0x104 []))

/-- The score commands. SCORE_LOAD of an image already loaded answers its slot once the file's digest and signature
hold; with every slot taken it is refused; one whose file fails a check empties the slot and fails with the check's
code; one that passes every check and finds its resources takes the slot, opens its frames and starts to program the
planes that it still has to, answering at once where there is none. SCORE_ABORT of a load in progress releases it,
SCORE_RETIRE of a loaded or kept score that no ring names releases it; both are refused with NOT_FOUND for an empty
slot and STATE in any other state. SCORE_INFO and SCORE_LIST answer from the slots. The values and conventions that
the manual leaves open are the model's choices of log entries 36, 54, 56, 109 and 120. Instr.admitted gathers the
conditions under which Porell carries a command out (R363, R366), and takesEntry those under which the ledger takes
its audit record (R367). Rules: R254, R368, R371, R373, R374, R363, R366, R367. -/
def Obligations.Score_commands : Prop :=
  (∀ (s : State) (r : Req),
      Instr.admitted (.scoreInfo r) s → argw r 1 < 64 →
        exec (.scoreInfo r) s = .next (s.answer r 0 ([word (s.score (argw r 1)).st] ++ words64 (s.score (argw r 1)).id
            ++ [word (s.score (argw r 1)).place.length, word (s.score (argw r 1)).epoch, word (b2n ((s.score (argw r
            1)).resident && (s.score (argw r 1)).imgLost == []) + 2 * b2n (s.scoreDegraded (argw r 1)))]))) ∧
  (∀ (s : State) (r : Req),
      Instr.admitted (.scoreInfo r) s → 64 ≤ argw r 1 → exec (.scoreInfo r) s = .next (s.answer r 0x104 [])) ∧
  (∀ (s : State) (r : Req),
      Instr.admitted (.scoreList r) s →
        exec (.scoreList r) s = .next (s.answer r 0 (words64 (nsum ((List.range 64).map fun n => if (s.score n).st = 0
            then 0 else 2 ^ n))))) ∧
  (∀ (s : State) (r : Req) (f : ScoreFile) (sig : Bool) (code : Nat),
      Instr.admitted (.scoreLoad r f sig) s → s.segments (argw r 1) = .error code →
        exec (.scoreLoad r f sig) s = .next (s.answer r code [])) ∧
  (∀ (s : State) (r : Req) (f : ScoreFile) (sig : Bool) (bs : List Byte),
      Instr.admitted (.scoreLoad r f sig) s → s.segments (argw r 1) = .ok bs →
        s.imageSlot (leAt bs 8 8) (slice bs 160 64) = none → s.loadSlot (leAt bs 8 8) (slice bs 160 64) = none →
        exec (.scoreLoad r f sig) s = .next (s.answer r 0x302 [])) ∧
  (∀ (s : State) (r : Req) (f : ScoreFile) (sig : Bool) (bs : List Byte) (n : Nat),
      Instr.admitted (.scoreLoad r f sig) s → s.takesEntry → s.segments (argw r 1) = .ok bs →
        s.imageSlot (leAt bs 8 8) (slice bs 160 64) = some n → scoreDigest bs = slice bs 160 64 → sig = true →
        let u := Instr.entered (.scoreLoad r f sig) s; exec (.scoreLoad r f sig) s = .next ((u.setScore n { u.score n with imgLost := [] }).finish r 0 (u.loadWords n))) ∧
  (∀ (s : State) (r : Req) (f : ScoreFile) (sig : Bool) (bs : List Byte) (n code d : Nat),
      Instr.admitted (.scoreLoad r f sig) s → s.takesEntry → s.segments (argw r 1) = .ok bs →
        s.imageSlot (leAt bs 8 8) (slice bs 160 64) = none → s.loadSlot (leAt bs 8 8) (slice bs 160 64) = some n →
        code ≠ 0x0605 → (Instr.entered (.scoreLoad r f sig) s).fileCheck bs f sig = some (code, d) →
        ((Instr.entered (.scoreLoad r f sig) s).score n).st ≠ 3 →
        exec (.scoreLoad r f sig) s = .next ((((((Instr.entered (.scoreLoad r f sig) s).releaseScore n).event 8
            (leBytes 1 n ++ leBytes 1 0)).take 1).finish r code [word d]))) ∧
  (∀ (s : State) (r : Req) (f : ScoreFile) (sig : Bool) (bs : List Byte) (n : Nat) (k : Bool) (v : State),
      Instr.admitted (.scoreLoad r f sig) s → s.takesEntry → s.segments (argw r 1) = .ok bs →
        s.imageSlot (leAt bs 8 8) (slice bs 160 64) = none → s.loadSlot (leAt bs 8 8) (slice bs 160 64) = some n →
        (Instr.entered (.scoreLoad r f sig) s).fileCheck bs f sig = none →
        (((Instr.entered (.scoreLoad r f sig) s).score n).st == 3) = k →
        ((Instr.entered (.scoreLoad r f sig) s).setScore n
            { st := 1, id := leAt bs 8 8, digest := slice bs 160 64, flags := leAt bs 6 2, file := f, resident := (leAt bs 6 2).testBit 1, req := some r, kept := k, place := if k then ((Instr.entered (.scoreLoad r f sig) s).score n).place else [], redir := if k then ((Instr.entered (.scoreLoad r f sig) s).score n).redir else [] }).claim
            n k = .ok v →
        exec (.scoreLoad r f sig) s = .next
        ((let w := ((v.openFrames n k).setScore n { v.score n with todo := v.loadTodo n k }).event 8 (leBytes 1 n ++ leBytes 1 2)
        if v.loadTodo n k = [] then ((w.finishLoad n).setScore n { (w.finishLoad n).score n with req := none }).finish
            r 0 ((w.finishLoad n).loadWords n)
        else (w.loadOn n).addPend { req := r, op := 0x0200, key := n }))) ∧
  (∀ (s : State) (r : Req),
      Instr.admitted (.scoreAbort r) s → argw r 1 < 64 → (s.score (argw r 1)).st = 0 →
        exec (.scoreAbort r) s = .next (s.answer r 0x405 [])) ∧
  (∀ (s : State) (r : Req),
      Instr.admitted (.scoreAbort r) s → argw r 1 < 64 → (s.score (argw r 1)).st = 4 →
        exec (.scoreAbort r) s = .next (s.answer r 0x403 [])) ∧
  (∀ (s : State) (r q : Req),
      Instr.admitted (.scoreAbort r) s → s.takesEntry → argw r 1 < 64 → ((s.score (argw r 1)).st = 1 ∨
        (s.score (argw r 1)).st = 2) → (s.score (argw r 1)).req = some q →
        exec (.scoreAbort r) s = .next (((((((Instr.entered (.scoreAbort r) s).releaseScore (argw r 1)).event 8
            (leBytes 1 (argw r 1) ++ leBytes 1 0)).unpend q 0x0200).finish q 0x0505 [])).finish r 0 ([]))) ∧
  (∀ (s : State) (r : Req),
      Instr.admitted (.scoreRetire r) s → argw r 1 < 64 → (s.score (argw r 1)).st = 0 →
        exec (.scoreRetire r) s = .next (s.answer r 0x405 [])) ∧
  (∀ (s : State) (r : Req),
      Instr.admitted (.scoreRetire r) s → argw r 1 < 64 → (s.score (argw r 1)).st = 4 →
        (s.ringList.any fun g => s.ringScore g == argw r 1) = true →
        exec (.scoreRetire r) s = .next (s.answer r 0x404 [])) ∧
  (∀ (s : State) (r : Req),
      Instr.admitted (.scoreRetire r) s → s.takesEntry → argw r 1 < 64 → ((s.score (argw r 1)).st = 3 ∨
        (s.score (argw r 1)).st = 4) → (s.ringList.any fun g => s.ringScore g == argw r 1) = false →
        exec (.scoreRetire r) s = .next (((((((Instr.entered (.scoreRetire r) s).setScoreSt (argw r 1) 5).releaseScore
            (argw r 1)).saveRecord (argw r 1)).event 8 (leBytes 1 (argw r 1) ++ leBytes 1 0))).finish r 0 ([])))

/-- Calibration commands, measurement visits, publication and recount. CAL_STATUS answers the epoch and the digest of
the calibration set; CAL_RECOUNT sets one of the recount settings within its range and saves the policy; CAL_RECAL
with its key writes the measured set as the reserve set; CAL_FACTORY writes a set from an object; CAL_MEASURE asks
for the trims or gains of a die's free frames and is answered later. A publication of a score that can be published
publishes it. A measurement visit begins on its trigger and holds the frame; each further one is one conversion or
stroke for its tokens, none while a stroke is in hand; a read-back that is off raises fault 5 of the frame. A
recount visit begins once its period has passed; each further one is the read of a row or a spot stroke, once its
tokens are granted, and the last one its end, which where it refreshes the plane waits for the tokens of the
measurement that follows. The values and conventions that the manual leaves open are the model's choices of log
entries 13, 24, 50, 94, 102, 119 and 120. Instr.admitted gathers the conditions under which Porell carries a command
out (R363, R366), and takesEntry those under which the ledger takes its audit record (R367). Rules: R27, R121, R122,
R126, R128, R130, R136, R142, R147, R363, R366, R367. -/
def Obligations.Calibration : Prop :=
  (∀ (s : State) (r : Req),
      Instr.admitted (.calStatus r) s → s.gated r.src 1 0 = false →
        exec (.calStatus r) s = .next (s.answer r 0 ([word s.sv.calEpoch, word (s.calN 16 1)] ++ bytesToWords
            (s.calDigest.take 16)))) ∧
  (∀ (s : State) (r : Req),
      Instr.admitted (.calRecount r) s → s.takesEntry → s.gated r.src 5 1 = false →
        (recountRange (argw r 1)).1 ≤ argw r 2 → argw r 2 ≤ (recountRange (argw r 1)).2 →
        let u := Instr.entered (.calRecount r) s; exec (.calRecount r) s = .next ((({ u with sv.recount := u.sv.recount.set (argw r 1) (argw r 2) } : State).savePolicy).finish r 0 [])) ∧
  (∀ (s : State) (r : Req),
      Instr.admitted (.calRecount r) s → s.gated r.src 5 1 = false → (argw r 2 < (recountRange (argw r 1)).1 ∨
        (recountRange (argw r 1)).2 < argw r 2) → exec (.calRecount r) s = .next (s.answer r 0x104 [])) ∧
  (∀ (s : State) (r : Req),
      Instr.admitted (.calRecal r) s → s.takesEntry → s.gated r.src 1 1 = false → argw r 1 = 0x5243414C →
        s.recalReady = true →
        let u := Instr.entered (.calRecal r) s; exec (.calRecal r) s = .next ((((u.take 1).writeCalSet 1 u.recalSet).1).finish r 0 ([]))) ∧
  (∀ (s : State) (r : Req),
      Instr.admitted (.calRecal r) s → s.gated r.src 1 1 = false → argw r 1 ≠ 0x5243414C →
        exec (.calRecal r) s = .next (s.answer r 0x104 [])) ∧
  (∀ (s : State) (r : Req) (bs : List Byte),
      Instr.admitted (.calFactory r) s → s.takesEntry → s.gated r.src 1 1 = false → s.object (argw r 1) = .ok bs →
        exec (.calFactory r) s = .next ((((Instr.entered (.calFactory r) s).writeCalSet 0 (List.replicate 64 0 ++
            factoryBody (padTo 0 103104 (Config.factorySet bs)))).1).finish r 0 ([]))) ∧
  (∀ (s : State) (r : Req),
      Instr.admitted (.calMeasure r) s → argw r 1 < 32 → argw r 2 ≤ 1 → s.disabled (mapDie (argw r 1)) = false →
        (s.die (argw r 1)).lost = false →
        exec (.calMeasure r) s = .next (((((s.ackPending r).dieFrames (argw r 1)).filter fun k => !(((s.ackPending
            r).frame k).st == .programming || ((s.ackPending r).frame k).st == .repair)).foldl (fun v k =>
            v.askMeasure k (argw r 2)) (s.ackPending r)).addPend
            { req := r, op := 0x0404, key := 2 * argw r 1 + argw r 2 })) ∧
  (∀ (s : State) (r : Req),
      Instr.admitted (.calMeasure r) s → argw r 1 < 32 → argw r 2 ≤ 1 → (s.disabled (mapDie (argw r 1)) = true ∨
        (s.die (argw r 1)).lost = true) → exec (.calMeasure r) s = .next (s.answer r 0x10a [])) ∧
  (∀ (s : State) (slot : Fin 64),
      s.canPublish slot = true → exec (.calPublication slot) s = .next (s.publish slot)) ∧
  (∀ (s : State) (slot : Fin 64),
      s.canPublish slot = false → exec (.calPublication slot) s = .next (s)) ∧
  (∀ (s : State) (d : Die) (b : Brd) (f : Sys2Proof.Frm) (p : Pln),
      (s.frame (frameKey d b f)).measure = none → s.visitable (frameKey d b f) = true →
        s.measureDue (frameKey d b f) (.gain p) = true →
        exec (.measurementVisit d b f (.gain p)) s = .next ((s.setFrame (frameKey d b f)
            { (s.frame (frameKey d b f)) with measure := some { gain := some p.val } }).holdFrame (frameKey d b f))) ∧
  (∀ (s : State) (d : Die) (b : Brd) (f : Sys2Proof.Frm),
      (s.frame (frameKey d b f)).measure = none → s.visitable (frameKey d b f) = true →
        s.measureDue (frameKey d b f) .trims = true → bit (s.reg (metBase d + 8)) 20 = false →
        exec (.measurementVisit d b f .trims) s = .next ((((s.measureSource (frameKey d b f)).1.setSource (frameKey d
            b f) false 0 true).setFrame (frameKey d b f)
            { (s.frame (frameKey d b f)) with measure := some { e := (s.measureSource (frameKey d b f)).2 } }).holdFrame
            (frameKey d b f))) ∧
  (∀ (s : State) (d : Die) (b : Brd) (f : Sys2Proof.Frm) (row : Fin 512) (hi mid lo : Int),
      (s.frame (frameKey d b f)).measure = none → s.visitable (frameKey d b f) = true →
        s.measureDue (frameKey d b f) (.readback row hi mid lo) = true →
        1000 * (hi * 2048 - 2040 * 8388607).natAbs ≤ 5 * 8388607 * 2048 →
        1000 * (mid * 2048 - 0 * 8388607).natAbs ≤ 5 * 8388607 * 2048 →
        1000 * (lo * 2048 - (-2048) * 8388607).natAbs ≤ 5 * 8388607 * 2048 →
        exec (.measurementVisit d b f (.readback row hi mid lo)) s = .next (s.setFrame (frameKey d b f)
            { (s.frame (frameKey d b f)) with readAt := mput 0 (s.frame (frameKey d b f)).readAt row s.now })) ∧
  (∀ (s : State) (d : Die) (b : Brd) (f : Sys2Proof.Frm) (row : Fin 512) (hi mid lo : Int),
      (s.frame (frameKey d b f)).measure = none → s.visitable (frameKey d b f) = true →
        s.measureDue (frameKey d b f) (.readback row hi mid lo) = true →
        (5 * 8388607 * 2048 < 1000 * (hi * 2048 - 2040 * 8388607).natAbs ∨
        5 * 8388607 * 2048 < 1000 * (mid * 2048 - 0 * 8388607).natAbs ∨
        5 * 8388607 * 2048 < 1000 * (lo * 2048 - (-2048) * 8388607).natAbs) →
        exec (.measurementVisit d b f (.readback row hi mid lo)) s = .next
        ((let t := (s.setFrame (frameKey d b f) { (s.frame (frameKey d b f)) with readAt := mput 0 (s.frame (frameKey d b f)).readAt row s.now }).frameFault (frameKey d b f) 5
        (t.setFrame (frameKey d b f) { t.frame (frameKey d b f) with diagnose := true }).log 0x107 [(frameKey d b f),
            row]))) ∧
  (∀ (s : State) (d : Die) (b : Brd) (f : Sys2Proof.Frm) (p : Pln) (m : Measure),
      s.pstate = 2 → (s.frame (frameKey d b f)).st ≠ .stroking → (s.frame (frameKey d b f)).stroke = none →
        (s.frame (frameKey d b f)).measure = some m → m.gain = some p.val →
        s.canDraw d prioMet (s.visitTokens (frameKey d b f) true) = true →
        exec (.measurementVisit d b f (.gain p)) s = .next ((((s.consumeFirst d (s.visitTokens (frameKey d b f)
            true)).gainStep (frameKey d b f) p m).settleLoad (frameKey d b f)).settleMeasure d)) ∧
  (∀ (s : State) (d : Die) (b : Brd) (f : Sys2Proof.Frm) (m : Measure),
      s.pstate = 2 → (s.frame (frameKey d b f)).st ≠ .stroking → (s.frame (frameKey d b f)).stroke = none →
        (s.frame (frameKey d b f)).measure = some m → m.gain = none →
        s.canDraw d prioMet (s.visitTokens (frameKey d b f) false) = true →
        exec (.measurementVisit d b f .trims) s = .next ((((s.consumeFirst d (s.visitTokens (frameKey d b f)
            false)).trimStep (frameKey d b f) m).settleLoad (frameKey d b f)).settleMeasure d)) ∧
  (∀ (s : State) (d : Die) (b : Brd) (f : Sys2Proof.Frm) (k : Visit),
      (s.frame (frameKey d b f)).measure = none → s.visitable (frameKey d b f) = true →
        s.measureDue (frameKey d b f) k = false → exec (.measurementVisit d b f k) s = .next (s)) ∧
  (∀ (s : State) (d : Die) (b : Brd) (f : Sys2Proof.Frm) (k : Visit) (m : Measure),
      (s.frame (frameKey d b f)).measure = some m → (s.frame (frameKey d b f)).st = .stroking →
        exec (.measurementVisit d b f k) s = .next (s)) ∧
  (∀ (s : State) (d : Die) (b : Brd) (f : Sys2Proof.Frm) (p : Pln),
      (s.frame (frameKey d b f)).recount = none → s.visitable (frameKey d b f) = true →
        (s.frame (frameKey d b f)).st ≠ .repair → s.moving (frameKey d b f) = false →
        s.visitDueAt (frameKey d b f) p ≤ s.now →
        exec (.recountVisit d b f p) s = .next ((s.setFrame (frameKey d b f)
            { (s.frame (frameKey d b f)) with recount := some { plane := p } }).holdFrame (frameKey d b f))) ∧
  (∀ (s : State) (d : Die) (b : Brd) (f : Sys2Proof.Frm) (p : Pln) (v : Recount) (w : State),
      s.pstate = 2 → (s.frame (frameKey d b f)).st ≠ .stroking → (s.frame (frameKey d b f)).stroke = none →
        (s.frame (frameKey d b f)).recount = some v → v.plane = p.val → v.row < 512 →
        s.visitDraw (frameKey d b f) v rowReadTokens = (w, true) →
        exec (.recountVisit d b f p) s = .next (w.recountRow (frameKey d b f) v)) ∧
  (∀ (s : State) (d : Die) (b : Brd) (f : Sys2Proof.Frm) (p : Pln) (v : Recount) (w : State),
      s.pstate = 2 → (s.frame (frameKey d b f)).st ≠ .stroking → (s.frame (frameKey d b f)).stroke = none →
        (s.frame (frameKey d b f)).recount = some v → v.plane = p.val → 512 ≤ v.row →
        v.spots < s.spotCount (frameKey d b f) v.plane →
        s.visitDraw (frameKey d b f) v (s.spotTokens (frameKey d b f)) = (w, true) →
        exec (.recountVisit d b f p) s = .next (w.spotStroke (frameKey d b f) v)) ∧
  (∀ (s : State) (d : Die) (b : Brd) (f : Sys2Proof.Frm) (p : Pln) (v : Recount) (w : State),
      s.pstate = 2 → (s.frame (frameKey d b f)).st ≠ .stroking → (s.frame (frameKey d b f)).stroke = none →
        (s.frame (frameKey d b f)).recount = some v → v.plane = p.val → v.row < 512 →
        s.visitDraw (frameKey d b f) v rowReadTokens = (w, false) → exec (.recountVisit d b f p) s = .next (w)) ∧
  (∀ (s : State) (d : Die) (b : Brd) (f : Sys2Proof.Frm) (p : Pln) (v : Recount),
      s.pstate = 2 → (s.frame (frameKey d b f)).st ≠ .stroking → (s.frame (frameKey d b f)).stroke = none →
        (s.frame (frameKey d b f)).recount = some v → v.plane = p.val → 512 ≤ v.row →
        s.spotCount (frameKey d b f) v.plane ≤ v.spots → s.inPlace (frameKey d b f) v = false →
        exec (.recountVisit d b f p) s = .next (s.endVisit (frameKey d b f) v)) ∧
  (∀ (s : State) (d : Die) (b : Brd) (f : Sys2Proof.Frm) (p : Pln) (v : Recount),
      s.pstate = 2 → (s.frame (frameKey d b f)).st ≠ .stroking → (s.frame (frameKey d b f)).stroke = none →
        (s.frame (frameKey d b f)).recount = some v → v.plane = p.val → 512 ≤ v.row →
        s.spotCount (frameKey d b f) v.plane ≤ v.spots → s.inPlace (frameKey d b f) v = true →
        s.canDraw d prioMet gainTokens = true → exec (.recountVisit d b f p) s = .next (s.endVisit (frameKey d b f)
            v)) ∧
  (∀ (s : State) (d : Die) (b : Brd) (f : Sys2Proof.Frm) (p : Pln) (v : Recount),
      s.pstate = 2 → (s.frame (frameKey d b f)).st ≠ .stroking → (s.frame (frameKey d b f)).stroke = none →
        (s.frame (frameKey d b f)).recount = some v → v.plane = p.val → 512 ≤ v.row →
        s.spotCount (frameKey d b f) v.plane ≤ v.spots → s.inPlace (frameKey d b f) v = true →
        s.canDraw d prioMet gainTokens = false → exec (.recountVisit d b f p) s = .next (s)) ∧
  (∀ (s : State) (d : Die) (b : Brd) (f : Sys2Proof.Frm) (p : Pln),
      s.pstate ≠ 2 → exec (.recountVisit d b f p) s = .next (s))

/-- The reckoning counter: setting, SYNC_IN, SYNC_OUT, its read and its commands. The counter is set once, before Ready
and from the preferred source where it is locked, and its status says so; at other times a set does nothing. A
SYNC_IN edge that the counter follows corrects its rate, or counts a slip where the error exceeds 2^22 sixteenths;
10 ms without an edge hand over to 802.1AS. SYNC_OUT rises at multiples of 2^20. A read of the low word latches the
high word. SYNC_NOW answers the counter; SYNC_CFG sets the preferred source and saves the policy. The values and
conventions that the manual leaves open are the model's choices of log entries 8, 74 and 84. Instr.admitted gathers
the conditions under which Porell carries a command out (R363, R366), and takesEntry those under which the ledger
takes its audit record (R367). Rules: R368, R383, R386, R363, R366, R367. -/
def Obligations.Reckoning_counter : Prop :=
  (∀ (s : State) (t : Nat),
      s.pstate = 1 → s.ck.on = true → s.ck.set = false → (fld (s.reg (rkReg 8)) 0 2 = 3 ∨
        (fld (s.reg (rkReg 8)) 0 2 ≠ 0 ∧ (s.port (fld (s.reg (rkReg 8)) 0 2 - 1)).synced = true)) →
        exec (.reckoningSet t) s = .next (({ s with ck.rk := t % 2 ^ 64, ck.set := true, ck.frac := 0 } : State).setRk
            0xC (word (fld (s.reg (rkReg 8)) 0 2 + 4 + 8)))) ∧
  (∀ (s : State) (t : Nat),
      (s.pstate ≠ 1 ∨ s.ck.on = false ∨ s.ck.set = true) → exec (.reckoningSet t) s = .next (s)) ∧
  (∀ (s : State),
      s.pstate ≠ 0 → s.rkSrc = 3 → s.ck.on = true →
        ({ s with ck.syncInAt := s.now } : State).syncError.natAbs ≤ 2 ^ 22 →
        exec (.syncInEdge) s = .next (({ s with ck.syncInAt := s.now } : State).discipline (-(rneDiv
            ({ s with ck.syncInAt := s.now } : State).syncError 16)))) ∧
  (∀ (s : State),
      s.pstate ≠ 0 → s.rkSrc = 3 → s.ck.on = true →
        2 ^ 22 < ({ s with ck.syncInAt := s.now } : State).syncError.natAbs →
        exec (.syncInEdge) s = .next (({ s with ck.syncInAt := s.now } : State).bump (rkReg 0x40) 1)) ∧
  (∀ (s : State),
      s.pstate ≠ 0 → s.rkSrc ≠ 3 → exec (.syncInEdge) s = .next ({ s with ck.syncInAt := s.now })) ∧
  (∀ (s : State),
      s.pstate = 0 → exec (.syncInEdge) s = .next (s)) ∧
  (∀ (s : State),
      s.rkSrc = 3 → s.ck.syncInAt + 10000000 ≤ s.now →
        exec (.syncInLoss) s = .next (s.setRkSrc (if (s.port 0).synced = false ∧
        (s.port 1).synced = true then 2 else 1))) ∧
  (∀ (s : State),
      (s.rkSrc ≠ 3 ∨ s.now < s.ck.syncInAt + 10000000) → exec (.syncInLoss) s = .next (s)) ∧
  (∀ (s : State) (h : Hub),
      exec (.rkCntLoRead h) s = .next
          ({ s.setReg (hubBase h + 0x50004) (word (s.ck.rk / 2 ^ 32)) with rdata := word s.ck.rk })) ∧
  (∀ (s : State),
      s.ck.on = true → bit (s.reg (rkReg 8)) 2 = true → s.ck.rk % 2 ^ 20 < 1024 →
        exec (.syncOutEdge) s = .next ({ s with ck.syncOut := true })) ∧
  (∀ (s : State),
      (s.ck.on = false ∨ bit (s.reg (rkReg 8)) 2 = false ∨ 1024 ≤ s.ck.rk % 2 ^ 20) →
        exec (.syncOutEdge) s = .next (s)) ∧
  (∀ (s : State) (r : Req),
      Instr.admitted (.syncStat r) s →
        exec (.syncStat r) s = .next (s.answer r 0 ([word s.rkSrc, word (fld (s.reg (rkReg 0xC)) 2 1), s.reg (rkReg
            0x10)]))) ∧
  (∀ (s : State) (r : Req),
      Instr.admitted (.syncNow r) s → exec (.syncNow r) s = .next (s.answer r 0 (words64 s.ck.rk))) ∧
  (∀ (s : State) (r : Req),
      Instr.admitted (.syncCfg r) s → s.takesEntry → s.gated r.src 5 1 = false → argw r 1 < 4 → argw r 2 < 2 →
        exec (.syncCfg r) s = .next
        ((let v := (Instr.entered (.syncCfg r) s).setRk 8 (word (argw r 1 + 4 * argw r 2))
        ((if argw r 1 = v.rkSrc then v else v.setRkSrc (argw r 1)).savePolicy).finish r 0 []))) ∧
  (∀ (s : State) (r : Req),
      Instr.admitted (.syncCfg r) s → s.gated r.src 5 1 = false → 4 ≤ argw r 1 →
        exec (.syncCfg r) s = .next (s.answer r 0x104 []))

/-- Conversions: delays, triggers, urgent requests, ends. An entry's delay over, a converter converts, or arms for a
trigger that is still to come. At a trigger every armed converter begins, and the target advances by the period or
is spent. An external event sets the target of every unit of its source 10,000 rk ahead. An urgent request to a
valid channel and filter is taken, after a wake where the converter was powered down, or counted as refused while
one is in hand; an invalid one is ignored. A conversion that ends stores its result, and an urgent one frees its
converter. The values and conventions that the manual leaves open are the model's choices of log entries 13 and 112.
Rules: R406, R412, R415, R416, R417, R421, R422, R423. -/
def Obligations.Metrology_conversions : Prop :=
  (∀ (s : State) (u : Unit34) (n : Fin 4) (t : Nat),
      (s.conv u n).ph = .delay t → s.metIdle u = false → t ≤ s.now → (s.conv u n).urg = none →
        (seqEntry (s.conv u n).pass).trig = false →
        exec (.metEntryDelayEnd u n) s = .next (s.beginConv u n (seqEntry (s.conv u n).pass).ch 4000 false)) ∧
  (∀ (s : State) (u : Unit34) (n : Fin 4) (t : Nat),
      (s.conv u n).ph = .delay t → s.metIdle u = false → t ≤ s.now → (s.conv u n).urg = none →
        (seqEntry (s.conv u n).pass).trig = true → s.trigSrc u ≠ 0 → (s.met u).spent = false →
        s.ck.rk + 4000 < s.trigTarget u →
        exec (.metEntryDelayEnd u n) s = .next ((s.setConv u n { (s.conv u n) with ph := .armed }).restConv u n)) ∧
  (∀ (s : State) (u : Unit34) (n : Fin 4) (t : Nat),
      (s.conv u n).ph = .delay t → s.metIdle u = false → t ≤ s.now → (s.conv u n).urg = none →
        (seqEntry (s.conv u n).pass).trig = true → (s.trigSrc u = 0 ∨ (s.met u).spent = true ∨
        s.trigTarget u ≤ s.ck.rk + 4000) →
        exec (.metEntryDelayEnd u n) s = .next (s.beginConv u n (seqEntry (s.conv u n).pass).ch 4000 true)) ∧
  (∀ (s : State) (u : Unit34),
      (s.met u).on = true → s.trigSrc u ≠ 0 → (s.met u).spent = false → s.trigTarget u ≤ s.ck.rk →
        exec (.metTrigger u) s = .next
        ((let v := (List.range 4).foldl (fun (s : State) (n : Nat) => if (s.conv u n).ph = .armed then (if (s.conv u n).urg.isSome then s.setConv u n { s.conv u n with missed := true } else s.beginConv u n (seqEntry (s.conv u n).pass).ch 0 false) else s) s
        if v.regN ((metBase u) + 0x68) = 0 then v.setMet u { v.met u with spent := true } else v.setTarget u
            (s.trigTarget u + v.regN ((metBase u) + 0x68))))) ∧
  (∀ (s : State) (u : Unit34),
      ((s.met u).on = false ∨ s.trigSrc u = 0 ∨ (s.met u).spent = true ∨ s.ck.rk < s.trigTarget u) →
        exec (.metTrigger u) s = .next (s)) ∧
  (∀ (s : State) (fire : Bool),
      exec (.metExternalEvent fire) s = .next ((List.range 34).foldl (fun s u => if s.trigSrc u = (if fire then 3 else
          2) then s.setTarget u (s.ck.rk + 10000) else s) s)) ∧
  (∀ (s : State) (u : Unit34) (n : Fin 4) (w : Word),
      (s.met u).on = true → chanOk u (fld w 0 6) = true → filterOk (fld w 6 4) = true → (s.conv u n).urg = none →
        (s.met u).selfcal = none → fld w 0 6 ≠ 32 → exec (.metUrgentRequest u n w) s = .next
        ((let v := s.setConv u n { (s.conv u n) with urg := some (fld w 0 6, fld w 6 4, fld w 10 3, s.ck.rk + 4000 + if (s.conv u n).powered then 0 else 20000), powered := true }
        (v.setReg ((metBase u) + 0xA4 + 8 * n) (putBit (v.reg ((metBase u) + 0xA4 + 8 * n)) 25 false)).bump ((metBase
            u) + 0x8C) 1))) ∧
  (∀ (s : State) (u : Unit34) (n : Fin 4) (w : Word),
      (s.met u).on = true → chanOk u (fld w 0 6) = true → filterOk (fld w 6 4) = true →
        ((s.conv u n).urg.isSome = true ∨ (s.met u).selfcal.isSome = true) →
        exec (.metUrgentRequest u n w) s = .next (s.bump ((metBase u) + 0x90) 1)) ∧
  (∀ (s : State) (u : Unit34) (n : Fin 4) (w : Word),
      ((s.met u).on = false ∨ chanOk u (fld w 0 6) = false ∨ filterOk (fld w 6 4) = false) →
        exec (.metUrgentRequest u n w) s = .next (s)) ∧
  (∀ (s : State) (u : Unit34) (n : Fin 4) (raw : Fin 16777216) (ovr : Option Bool) (ch f ws start : Nat),
      s.pstate ≠ 0 → s.metIdle u = false → (s.conv u n).urg = some (ch, f, ws, start) → start + convTime f ≤ s.ck.rk →
        (s.conv u n).ph = .stopped →
        exec (.metConversionEnd u n raw ovr) s = .next (((s.result u n ch ws true false (s.correct u n ch (signed 24
            raw)) ovr start).setConv u n { (s.conv u n) with urg := none }).restConv u n)) ∧
  (∀ (s : State) (u : Unit34) (n : Fin 4) (raw : Fin 16777216) (ovr : Option Bool) (ch f ws start x : Nat),
      s.pstate ≠ 0 → s.metIdle u = false → (s.conv u n).urg = some (ch, f, ws, start) → start + convTime f ≤ s.ck.rk →
        (s.conv u n).ph = .converting x →
        exec (.metConversionEnd u n raw ovr) s = .next (((s.result u n ch ws true false (s.correct u n ch (signed 24
            raw)) ovr start).setConv u n { (s.conv u n) with urg := none }).beginConv u n (seqEntry (s.conv u
            n).pass).ch 4000 (s.conv u n).late)) ∧
  (∀ (s : State) (u : Unit34) (n : Fin 4) (raw : Fin 16777216) (ovr : Option Bool) (start : Nat),
      s.pstate ≠ 0 → s.metIdle u = false → (s.conv u n).urg = none → (s.conv u n).ph = .converting start →
        start + convTime (seqEntry (s.conv u n).pass).filter ≤ s.ck.rk → (s.conv u n).stopping = false →
        (s.conv u n).done + 1 < (seqEntry (s.conv u n).pass).rep →
        exec (.metConversionEnd u n raw ovr) s = .next ((((s.result u n (seqEntry (s.conv u n).pass).ch (seqEntry
            (s.conv u n).pass).wset false (s.conv u n).late (s.correct u n (seqEntry (s.conv u n).pass).ch (signed 24
            raw)) ovr start).setConv u n { (s.conv u n) with done := (s.conv u n).done + 1, late := false }).beginConv
            u n (seqEntry (s.conv u n).pass).ch 0 false))) ∧
  (∀ (s : State) (u : Unit34) (n : Fin 4) (raw : Fin 16777216) (ovr : Option Bool) (start : Nat),
      s.pstate ≠ 0 → s.metIdle u = false → (s.conv u n).urg = none → (s.conv u n).ph = .converting start →
        start + convTime (seqEntry (s.conv u n).pass).filter ≤ s.ck.rk → (s.conv u n).stopping = false →
        (seqEntry (s.conv u n).pass).rep ≤ (s.conv u n).done + 1 →
        exec (.metConversionEnd u n raw ovr) s = .next ((((s.result u n (seqEntry (s.conv u n).pass).ch (seqEntry
            (s.conv u n).pass).wset false (s.conv u n).late (s.correct u n (seqEntry (s.conv u n).pass).ch (signed 24
            raw)) ovr start).setConv u n { (s.conv u n) with done := (s.conv u n).done + 1, late := false }).toEntry u
            n ((s.conv u n).entry + 1)))) ∧
  (∀ (s : State) (u : Unit34) (n : Fin 4) (raw : Fin 16777216) (ovr : Option Bool) (start : Nat),
      s.pstate ≠ 0 → s.metIdle u = false → (s.conv u n).urg = none → (s.conv u n).ph = .converting start →
        start + convTime (seqEntry (s.conv u n).pass).filter ≤ s.ck.rk → (s.conv u n).stopping = true →
        exec (.metConversionEnd u n raw ovr) s = .next ((s.result u n (seqEntry (s.conv u n).pass).ch (seqEntry
            (s.conv u n).pass).wset false (s.conv u n).late (s.correct u n (seqEntry (s.conv u n).pass).ch (signed 24
            raw)) ovr start).setConv u n
            { (s.conv u n) with ph := .stopped, stopping := false, powered := false, late := false, entry := ((s.conv u n).entry + 1) % 32, done := 0 }))
            ∧
  (∀ (s : State) (u : Unit34) (n : Fin 4) (t : Nat),
      (s.conv u n).ph = .delay t → (s.met u).on = true → t ≤ s.now + 20000 →
        exec (.metConverterWake u n) s = .next (s.setConv u n { (s.conv u n) with powered := true })) ∧
  (∀ (s : State) (u : Unit34) (n : Fin 4) (t : Nat),
      (s.conv u n).ph = .delay t → ((s.met u).on = false ∨ s.now + 20000 < t) →
        exec (.metConverterWake u n) s = .next (s))

/-- Self-calibration, the result queue, the register writes and the commands of a metrology unit. Self-calibration that
has run 42 ms ends for every pending command of its unit. A flush empties the queue; a read of the queue removes the
oldest word, latches its high half and reads 0 where it is empty. A control write sets the four enables; a probe
write is kept but for en in a hub's unit; a source write is ignored where the unit has no source, holds it or is
given a reserved value; a write of window status clears the bits written. MET_READ answers the latest result of a
channel, MET_SEQ and MET_WIN write a valid entry or window, MET_SELFCAL starts the calibration and replies later,
MET_DUMP removes queue words into an object. The values and conventions that the manual leaves open are the model's
choices of log entries 24, 44, 78 and 112. Instr.admitted gathers the conditions under which Porell carries a
command out (R363, R366), and takesEntry those under which the ledger takes its audit record (R367). Rules: R368,
R406, R412, R414, R419, R420, R424, R426, R427, R363, R366, R367. -/
def Obligations.Metrology_registers : Prop :=
  (∀ (s : State) (u : Unit34),
      exec (.metCmdSelfcal u) s = .next (s.startSelfcal u)) ∧
  (∀ (s : State) (u : Unit34) (meas : List (Int×Int)) (t : Nat),
      (s.met u).selfcal = some t → s.now < t + 42000000 → exec (.metSelfcalDone u meas) s = .next (s)) ∧
  (∀ (s : State) (u : Unit34) (meas : List (Int×Int)) (t : Nat),
      (s.met u).selfcal = some t → t + 42000000 ≤ s.now → ∃ t', exec (.metSelfcalDone u meas) s = .next t' ∧
        (t'.met u).calValid = true ∧ (t'.met u).selfcal = none ∧ t'.mem = s.mem ∧ t'.frames = s.frames ∧
        ∀ p ∈ t'.hl.pend, ¬(p.op = 0x0803 ∧ p.key = u.val)) ∧
  (∀ (s : State) (u : Unit34),
      exec (.metCmdFlush u) s = .next (s.setMet u { s.met u with queue := [] })) ∧
  (∀ (s : State) (u : Unit34),
      (s.met u).queue = [] → exec (.metQRead u) s = .next ({ s with rdata := 0 })) ∧
  (∀ (s : State) (u : Unit34) (w : Nat) (q : List Nat),
      (s.met u).queue = w :: q →
        exec (.metQRead u) s = .next ({ (s.setMet u { s.met u with queue := q }).setRegN (metBase u + 0x74) (w / 2 ^ 32) with rdata := word w }))
            ∧
  (∀ (s : State) (u : Unit34) (w : Word),
      (s.met u).on = false → exec (.metCtlWrite u w) s = .next (s.setReg (metBase u) (w &&& 0xF))) ∧
  (∀ (s : State) (u : Unit34) (w : Word),
      (s.met u).on = true → ∃ t, exec (.metCtlWrite u w) s = .next t ∧ t.reg (metBase u) = w &&& 0xF ∧ t.mem = s.mem ∧
        t.frames = s.frames ∧ t.boards = s.boards ∧ ∀ n : Nat, (s.conv u n).ph = .failed → (t.conv u n).ph = .failed)
            ∧
  (∀ (s : State) (u : Unit34) (w : Word),
      u.val < 32 → exec (.metProbeWrite u w) s = .next (s.setReg (metBase u + 0x78) (w &&& 0xFFFFFF))) ∧
  (∀ (s : State) (u : Unit34) (w : Word),
      32 ≤ u.val →
        exec (.metProbeWrite u w) s = .next (s.setReg (metBase u + 0x78) (putBit (w &&& 0xFFFFFF) 23 false))) ∧
  (∀ (s : State) (u : Unit34) (w : Word),
      u.val < 32 → bit (s.reg (metBase u + 8)) 20 = false → fld w 0 10 ≤ 800 → fld w 11 2 ≠ 3 →
        exec (.metIsrcWrite u w) s = .next (s.setReg (metBase u + 0x7C) (w &&& 0x7FFFFFF))) ∧
  (∀ (s : State) (u : Unit34) (w : Word),
      (32 ≤ u.val ∨ bit (s.reg (metBase u + 8)) 20 = true ∨ 800 < fld w 0 10 ∨ fld w 11 2 = 3) →
        exec (.metIsrcWrite u w) s = .next (s)) ∧
  (∀ (s : State) (u : Unit34) (w : Word),
      exec (.metWinStatClear u w) s = .next (s.setReg (metBase u + 0x98) (s.reg (metBase u + 0x98) &&& ~~~ w))) ∧
  (∀ (s : State) (r : Req),
      Instr.admitted (.metRead r) s → s.noUnit (argw r 1) = false → argw r 2 < 64 →
        exec (.metRead r) s = .next (s.answer r 0 ([iword (sfld (s.reg (metBase (argw r 1) + 0x800 + 8 * argw r 2)) 0
            24), word (fld (s.reg (metBase (argw r 1) + 0x800 + 8 * argw r 2)) 24 1), word (fld (s.reg (metBase (argw
            r 1) + 0x804 + 8 * argw r 2)) 0 8)]))) ∧
  (∀ (s : State) (r : Req),
      Instr.admitted (.metRead r) s → s.noUnit (argw r 1) = true → exec (.metRead r) s = .next (s.answer r 0x10a []))
          ∧
  (∀ (s : State) (r : Req),
      Instr.admitted (.metSeq r) s → s.takesEntry → s.noUnit (argw r 1) = false → argw r 2 < 4 → 16 ≤ argw r 3 →
        argw r 3 < 32 → bit (word (argw r 4)) 31 = false → chanOk (argw r 1) (fld (word (argw r 4)) 0 6) = true →
        filterOk (fld (word (argw r 4)) 23 4) = true → fld (word (argw r 4)) 28 3 ≤ 4 → (argw r 2 = 3 ∨
        entryTime (word (argw r 4)) ≤ 50000) →
        exec (.metSeq r) s = .next (((Instr.entered (.metSeq r) s).writeEntry (argw r 1) (argw r 2) (argw r 3) (word
            (argw r 4))).finish r 0 ([]))) ∧
  (∀ (s : State) (r : Req),
      Instr.admitted (.metSeq r) s → s.noUnit (argw r 1) = false → bit (word (argw r 4)) 31 = false → argw r 3 < 16 →
        exec (.metSeq r) s = .next (s.answer r 0x104 [])) ∧
  (∀ (s : State) (r : Req),
      Instr.admitted (.metWin r) s → s.takesEntry → s.noUnit (argw r 1) = false → 8 ≤ argw r 2 → argw r 2 < 16 →
        chanOk (argw r 1) (argw r 3) = true →
        exec (.metWin r) s = .next (((((Instr.entered (.metWin r) s).setRegN (winLo (argw r 1) (argw r 2)) (argw r 4 %
            2 ^ 24 + argw r 3 * 2 ^ 24 + 2 ^ 30)).setRegN (winHi (argw r 1) (argw r 2)) (argw r 5))).finish r 0 ([])))
            ∧
  (∀ (s : State) (r : Req),
      Instr.admitted (.metSelfcal r) s → s.noUnit (argw r 1) = false → s.hotUnit (argw r 1) = false →
        (s.met (argw r 1)).on = true → (s.ackPending r).hotUnit (argw r 1) = false →
        ((s.ackPending r).met (argw r 1)).on = true →
        exec (.metSelfcal r) s = .next (((s.ackPending r).startSelfcal (argw r 1)).addPend
            { req := r, op := 0x0803, key := argw r 1 })) ∧
  (∀ (s : State) (r : Req),
      Instr.admitted (.metSelfcal r) s → s.noUnit (argw r 1) = false → (s.hotUnit (argw r 1) = true ∨
        (s.met (argw r 1)).on = false) → exec (.metSelfcal r) s = .next (s.answer r 0x407 [])) ∧
  (∀ (s : State) (r : Req),
      Instr.admitted (.metDump r) s → s.noUnit (argw r 1) = false → 1 ≤ argw r 3 → argw r 3 ≤ 512 →
        s.sink (argw r 2) (8 * ((s.met (argw r 1)).queue.take (argw r 3)).length) = 0 →
        exec (.metDump r) s = .next (((s.setMet (argw r 1)
            { s.met (argw r 1) with queue := (s.met (argw r 1)).queue.drop (argw r 3) }).bulk r.src (argw r 2)
            (((s.met (argw r 1)).queue.take (argw r 3)).flatMap (leBytes 8))).answer r 0 ([])))

/-- The bead commands. BEAD_OPEN reserves one handle for each GiB of the file and answers the first and their number;
BEAD_CLOSE of the first handle of an idle object frees all of them. BEAD_PLANE answers the header of a plane,
BEAD_WEAR the worn planes and retired frames of a die. A file of no bytes takes no handle and is answered with none
(the model's choice, log entry 120). A handle that names nothing, one in use and a file of more than 4,096 segments
and a plane or die that is not there are refused. The values and conventions that the manual leaves open are the
model's choices of log entries 9, 36 and 120. Instr.admitted gathers the conditions under which Porell carries a
command out (R363, R366). Rules: R86, R110, R368, R369, R363, R366. -/
def Obligations.Bead_commands : Prop :=
  (∀ (s : State) (r : Req) (k : Nat),
      Instr.admitted (.beadOpen r) s → argw64 r 1 ≠ 0 → cdiv (argw64 r 1) (2 ^ 30) ≤ 4096 →
        s.freeHandles (srcHub r.src) (cdiv (argw64 r 1) (2 ^ 30)) = some k →
        exec (.beadOpen r) s = .next (((List.range (cdiv (argw64 r 1) (2 ^ 30))).foldl (fun s i => s.setHandle (k + i)
            (some { fmt := 0xFE, codeLen := min (2 ^ 30) (argw64 r 1 - i * 2 ^ 30), first := k, segs := cdiv (argw64 r 1) (2 ^ 30) }))
            s).answer r 0 ([word k, word (cdiv (argw64 r 1) (2 ^ 30))]))) ∧
  (∀ (s : State) (r : Req),
      Instr.admitted (.beadOpen r) s → argw64 r 1 = 0 → exec (.beadOpen r) s = .next (s.answer r 0 ([word 0, word
          0]))) ∧
  (∀ (s : State) (r : Req),
      Instr.admitted (.beadOpen r) s → argw64 r 1 ≠ 0 → 4096 < cdiv (argw64 r 1) (2 ^ 30) →
        exec (.beadOpen r) s = .next (s.answer r 0x309 [])) ∧
  (∀ (s : State) (r : Req) (h : Handle),
      Instr.admitted (.beadClose r) s → s.handle (argw r 1) = some h → h.fmt = 0xFE → h.first = argw r 1 →
        h.busy = 0 → s.objBusy (argw r 1) = false →
        exec (.beadClose r) s = .next (((List.range h.segs).foldl (fun s i => s.setHandle (argw r 1 + i) none)
            s).answer r 0 ([]))) ∧
  (∀ (s : State) (r : Req) (h : Handle),
      Instr.admitted (.beadClose r) s → s.handle (argw r 1) = some h → h.fmt = 0xFE → h.first = argw r 1 →
        h.busy ≠ 0 → exec (.beadClose r) s = .next (s.answer r 0x406 [])) ∧
  (∀ (s : State) (r : Req),
      Instr.admitted (.beadClose r) s → s.handle (argw r 1) = none →
        exec (.beadClose r) s = .next (s.answer r 0x105 [])) ∧
  (∀ (s : State) (r : Req) (k : Nat),
      Instr.admitted (.beadPlane r) s → s.frameAddr? (argw r 1) = some k → argw r 2 < 8 →
        exec (.beadPlane r) s = .next (s.answer r 0
        ((let h := (s.frame k).headers.getD (argw r 2) {}; [word h.fmt, word h.cycles, word h.refreshes, word h.stuck.length, word h.chkOff])))) ∧
  (∀ (s : State) (r : Req),
      Instr.admitted (.beadPlane r) s → s.frameAddr? (argw r 1) = none →
        exec (.beadPlane r) s = .next (s.answer r 0x10a [])) ∧
  (∀ (s : State) (r : Req),
      Instr.admitted (.beadWear r) s → argw r 1 < 32 → s.disabled (mapDie (argw r 1)) = false →
        exec (.beadWear r) s = .next (s.answer r 0 ([word (((s.dieFrameRecs (argw r 1)).flatMap (·.headers)).filter
            fun h => decide (9000 ≤ h.cycles)).length, word (((s.dieFrameRecs (argw r 1)).flatMap (·.headers)).filter
            fun h => decide (90000 ≤ h.refreshes)).length, word ((s.dieFrameRecs (argw r 1)).filter fun f => f.st ==
            .retired).length]))) ∧
  (∀ (s : State) (r : Req),
      Instr.admitted (.beadWear r) s → (32 ≤ argw r 1 ∨ s.disabled (mapDie (argw r 1)) = true) →
        exec (.beadWear r) s = .next (s.answer r 0x10a []))

/-- The ring commands. RING_CFG gives a ring its depth, weight, score and a fresh history context; a slot that is empty
answers NOT_FOUND, another that is not loaded STATE, a ring in use BUSY. RING_ATTACH answers the credits that the
ring has free and sends its held completions; RING_DETACH by its own session ends the attachment. RING_PAUSE and
RING_HRESET take effect at once where no job runs and else reply later; RING_RESUME ends a pause but not that of a
replay; RING_STAT answers depth, held jobs, running jobs and flags; RING_DELETE removes a detached, empty ring. A
ring number that names no ring is refused. The values and conventions that the manual leaves open are the model's
choices of log entries 34, 36, 63 and 69. Instr.admitted gathers the conditions under which Porell carries a command
out (R363, R366), and takesEntry those under which the ledger takes its audit record (R367). Rules: R194, R333,
R334, R344, R368, R371, R377, R397, R363, R366, R367. -/
def Obligations.Ring_commands : Prop :=
  (∀ (s : State) (r : Req) (c : Nat),
      Instr.admitted (.ringCfg r) s → s.takesEntry → argw r 1 < 4096 → argw r 5 ≤ 1 → 1 ≤ argw r 2 → argw r 2 ≤ 1024 →
        1 ≤ argw r 3 → argw r 3 ≤ 16 → argw r 4 < 64 → (s.score (argw r 4)).st = 4 → (s.ringSess (argw r 1)) = none →
        s.held (argw r 1) = 0 → s.ringDepth (argw r 1) = 0 → nsum (s.ringList.map s.ringDepth) + argw r 2 ≤ 65536 →
        (s.score (argw r 4)).freeCtx = some c → argw r 5 = 0 →
        let u := Instr.entered (.ringCfg r) s; exec (.ringCfg r) s = .next
        ((let v := ((u.setScore (argw r 4) { u.score (argw r 4) with ctxs := (u.score (argw r 4)).ctxs ++ [c] }).setRing (argw r 1) { ctx := c }).setRegN (ringReg (argw r 1)) (argw r 2 + (argw r 3 - 1) * 2 ^ 11 + argw r 4 * 2 ^ 22)
        (v.resetCtx (argw r 4) c false).finish r 0 []))) ∧
  (∀ (s : State) (r : Req),
      Instr.admitted (.ringCfg r) s → argw r 1 < 4096 → argw r 5 ≤ 1 → 1 ≤ argw r 2 → argw r 2 ≤ 1024 → 1 ≤ argw r 3 →
        argw r 3 ≤ 16 → argw r 4 < 64 → (s.score (argw r 4)).st = 0 →
        exec (.ringCfg r) s = .next (s.answer r 0x405 [])) ∧
  (∀ (s : State) (r : Req),
      Instr.admitted (.ringCfg r) s → argw r 1 < 4096 → argw r 5 ≤ 1 → 1 ≤ argw r 2 → argw r 2 ≤ 1024 → 1 ≤ argw r 3 →
        argw r 3 ≤ 16 → argw r 4 < 64 → (s.score (argw r 4)).st = 4 → ((s.ringSess (argw r 1)).isSome = true ∨
        s.held (argw r 1) ≠ 0) → exec (.ringCfg r) s = .next (s.answer r 0x404 [])) ∧
  (∀ (s : State) (r : Req) (h : Hub) (n : Fin 16),
      Instr.admitted (.ringAttach r) s → s.ringCode (argw r 1) = 0 → s.ringSess (argw r 1) = none →
        r.src = .session h n →
        exec (.ringAttach r) s = .next (((s.attach (argw r 1) (some (sessKey h n))).sendCompl (argw r 1)).answer r 0
            ([word (s.ringDepth (argw r 1) - s.held (argw r 1))]))) ∧
  (∀ (s : State) (r : Req),
      Instr.admitted (.ringAttach r) s → s.ringCode (argw r 1) = 0 → (s.ringSess (argw r 1)).isSome = true →
        exec (.ringAttach r) s = .next (s.answer r 0x404 [])) ∧
  (∀ (s : State) (r : Req),
      Instr.admitted (.ringAttach r) s → s.ringCode (argw r 1) ≠ 0 →
        exec (.ringAttach r) s = .next (s.answer r (s.ringCode (argw r 1)) [])) ∧
  (∀ (s : State) (r : Req),
      Instr.admitted (.ringDetach r) s → s.ringCode (argw r 1) ≠ 0 →
        exec (.ringDetach r) s = .next (s.answer r (s.ringCode (argw r 1)) [])) ∧
  (∀ (s : State) (r : Req),
      Instr.admitted (.ringPause r) s → s.ringCode (argw r 1) ≠ 0 →
        exec (.ringPause r) s = .next (s.answer r (s.ringCode (argw r 1)) [])) ∧
  (∀ (s : State) (r : Req),
      Instr.admitted (.ringResume r) s → s.ringCode (argw r 1) ≠ 0 →
        exec (.ringResume r) s = .next (s.answer r (s.ringCode (argw r 1)) [])) ∧
  (∀ (s : State) (r : Req),
      Instr.admitted (.ringHreset r) s → s.ringCode (argw r 1) ≠ 0 →
        exec (.ringHreset r) s = .next (s.answer r (s.ringCode (argw r 1)) [])) ∧
  (∀ (s : State) (r : Req),
      Instr.admitted (.ringStat r) s → s.ringCode (argw r 1) ≠ 0 →
        exec (.ringStat r) s = .next (s.answer r (s.ringCode (argw r 1)) [])) ∧
  (∀ (s : State) (r : Req),
      Instr.admitted (.jobCancel r) s → s.ringCode (argw r 1) ≠ 0 →
        exec (.jobCancel r) s = .next (s.answer r (s.ringCode (argw r 1)) [])) ∧
  (∀ (s : State) (r : Req),
      Instr.admitted (.jobCkpt r) s → s.ringCode (argw r 1) ≠ 0 →
        exec (.jobCkpt r) s = .next (s.answer r (s.ringCode (argw r 1)) [])) ∧
  (∀ (s : State) (r : Req),
      Instr.admitted (.jobRestore r) s → s.ringCode (argw r 1) ≠ 0 →
        exec (.jobRestore r) s = .next (s.answer r (s.ringCode (argw r 1)) [])) ∧
  (∀ (s : State) (r : Req) (h : Hub) (n : Fin 16),
      Instr.admitted (.ringDetach r) s → s.ringCode (argw r 1) = 0 → r.src = .session h n →
        s.ringSess (argw r 1) = some (sessKey h n) →
        exec (.ringDetach r) s = .next ((s.attach (argw r 1) none).answer r 0 ([]))) ∧
  (∀ (s : State) (r : Req) (h : Hub) (n : Fin 16),
      Instr.admitted (.ringDetach r) s → s.ringCode (argw r 1) = 0 → r.src = .session h n →
        s.ringSess (argw r 1) ≠ some (sessKey h n) → exec (.ringDetach r) s = .next (s.answer r 0x405 [])) ∧
  (∀ (s : State) (r : Req),
      Instr.admitted (.ringPause r) s → s.ringCode (argw r 1) = 0 → s.runningOf (argw r 1) = [] →
        exec (.ringPause r) s = .next ((s.setRing (argw r 1) { s.ring (argw r 1) with paused := true }).answer r 0
            ([]))) ∧
  (∀ (s : State) (r : Req),
      Instr.admitted (.ringPause r) s → s.ringCode (argw r 1) = 0 → s.runningOf (argw r 1) ≠ [] →
        exec (.ringPause r) s = .next
        ((let v := s.ackPending r; (v.setRing (argw r 1) { v.ring (argw r 1) with paused := true }).addPend { req := r, op := 0x0503, key := argw r 1 }))) ∧
  (∀ (s : State) (r : Req),
      Instr.admitted (.ringResume r) s → s.ringCode (argw r 1) = 0 → (s.ring (argw r 1)).replay = none →
        exec (.ringResume r) s = .next ((s.setRing (argw r 1) { s.ring (argw r 1) with paused := false }).answer r 0
            ([]))) ∧
  (∀ (s : State) (r : Req),
      Instr.admitted (.ringResume r) s → s.ringCode (argw r 1) = 0 → (s.ring (argw r 1)).replay.isSome = true →
        exec (.ringResume r) s = .next (s.answer r 0x403 [])) ∧
  (∀ (s : State) (r : Req),
      Instr.admitted (.ringHreset r) s → s.ringCode (argw r 1) = 0 → s.runningOf (argw r 1) = [] →
        exec (.ringHreset r) s = .next ((s.resetCtx (s.ringScore (argw r 1)) (s.ring (argw r 1)).ctx false).answer r 0
            ([]))) ∧
  (∀ (s : State) (r : Req),
      Instr.admitted (.ringHreset r) s → s.ringCode (argw r 1) = 0 → s.runningOf (argw r 1) ≠ [] →
        exec (.ringHreset r) s = .next (((s.ackPending r).addPend { req := r, op := 0x0505, key := argw r 1 }))) ∧
  (∀ (s : State) (r : Req),
      Instr.admitted (.ringStat r) s → s.ringCode (argw r 1) = 0 →
        exec (.ringStat r) s = .next (s.answer r 0 ([word (s.ringDepth (argw r 1)), word (s.held (argw r 1)), word
            (s.runningOf (argw r 1)).length, word (b2n (s.ringSess (argw r 1)).isSome + 2 * b2n (s.ring (argw r
            1)).paused + 4 * b2n (s.ringCont (argw r 1)) + 8 * b2n (s.ring (argw r 1)).unmirrored)]))) ∧
  (∀ (s : State) (r : Req),
      Instr.admitted (.ringDelete r) s → s.takesEntry → s.ringCode (argw r 1) = 0 → s.ringSess (argw r 1) = none →
        s.held (argw r 1) = 0 →
        exec (.ringDelete r) s = .next (((Instr.entered (.ringDelete r) s).deleteRing (argw r 1)).finish r 0 ([]))) ∧
  (∀ (s : State) (r : Req),
      Instr.admitted (.ringDelete r) s → s.ringCode (argw r 1) = 0 → ((s.ringSess (argw r 1)).isSome = true ∨
        s.held (argw r 1) ≠ 0) → exec (.ringDelete r) s = .next (s.answer r 0x404 []))

/-- The job commands. JOB_HANDLE of a format a job may have, with an exponent part only where the format has exponents,
takes a free handle; JOB_FREE gives an idle one back. JOB_CANCEL cancels the ring's jobs of a tag that are not
complete and answers how many; JOB_FETCH sends a part's bytes as DATA; JOB_PAGES_FREE frees an idle page map.
JOB_CKPT writes the ring's checkpoint into an object where no job runs; JOB_RESTORE of a valid checkpoint of the
same score into a paused, empty ring restores it and takes the queued jobs up again; each refuses what it does not
find. The values and conventions that the manual leaves open are the model's choices of log entries 16, 17, 22 and
67. Instr.admitted gathers the conditions under which Porell carries a command out (R363, R366). Rules: R176, R311,
R339, R368, R369, R370, R376, R377, R390, R391, R363, R366. -/
def Obligations.Job_commands : Prop :=
  (∀ (s : State) (r : Req) (k : Nat),
      Instr.admitted (.jobHandle r) s → (argw r 1 = 0xFF ∨ dataFormat (argw r 1) = true) → argw r 4 ≤ 3 →
        argw r 3 = 0 → s.freeHandles (srcHub r.src) 1 = some k →
        exec (.jobHandle r) s = .next ((s.setHandle k (some
            { fmt := argw r 1, codeLen := argw r 2, expLen := argw r 3, group := argw r 4 })).answer r 0 ([word k])))
            ∧
  (∀ (s : State) (r : Req) (k : Nat) (f : Fmt),
      Instr.admitted (.jobHandle r) s → dataFormat (argw r 1) = true → Fmt.ofCode (argw r 1) = some f →
        f.hasExp = true → argw r 4 ≤ 3 → s.freeHandles (srcHub r.src) 1 = some k →
        exec (.jobHandle r) s = .next ((s.setHandle k (some
            { fmt := argw r 1, codeLen := argw r 2, expLen := argw r 3, group := argw r 4 })).answer r 0 ([word k])))
            ∧
  (∀ (s : State) (r : Req),
      Instr.admitted (.jobHandle r) s → argw r 1 ≠ 0xFF → dataFormat (argw r 1) = false →
        exec (.jobHandle r) s = .next (s.answer r 0x106 [])) ∧
  (∀ (s : State) (r : Req) (h : Handle),
      Instr.admitted (.jobFree r) s → s.handle (argw r 1) = some h → h.fmt ≠ 0xFE → h.busy = 0 →
        s.objBusy (argw r 1) = false → exec (.jobFree r) s = .next ((s.setHandle (argw r 1) none).answer r 0 ([]))) ∧
  (∀ (s : State) (r : Req) (h : Handle),
      Instr.admitted (.jobFree r) s → s.handle (argw r 1) = some h → h.fmt ≠ 0xFE → h.busy ≠ 0 →
        exec (.jobFree r) s = .next (s.answer r 0x406 [])) ∧
  (∀ (s : State) (r : Req),
      Instr.admitted (.jobFree r) s → s.handle (argw r 1) = none → exec (.jobFree r) s = .next (s.answer r 0x105 []))
          ∧
  (∀ (s : State) (r : Req),
      Instr.admitted (.jobCancel r) s → s.ringCode (argw r 1) = 0 →
        ((s.ring (argw r 1)).jobs.filter fun j => match s.job j with | some x => x.tag == argw64 r 2 | none => false) ≠ [] →
        exec (.jobCancel r) s = .next (((((s.ring (argw r 1)).jobs.filter fun j => match s.job j with | some x => x.tag == argw64 r 2 | none => false).filter fun j => s.jstate j != .completed).foldl (fun s j => s.failJob j 3) s).answer r 0 ([word (((s.ring (argw r 1)).jobs.filter fun j => match s.job j with | some x => x.tag == argw64 r 2 | none => false).filter fun j => s.jstate j != .completed).length]))) ∧
  (∀ (s : State) (r : Req),
      Instr.admitted (.jobCancel r) s → s.ringCode (argw r 1) = 0 →
        ((s.ring (argw r 1)).jobs.filter fun j => match s.job j with | some x => x.tag == argw64 r 2 | none => false) = [] →
        exec (.jobCancel r) s = .next (s.answer r 0x405 [])) ∧
  (∀ (s : State) (r : Req) (h : Handle) (b : Hub) (n : Fin 16),
      Instr.admitted (.jobFetch r) s → s.handle (argw r 1) = some h → h.fmt ≠ 0xFE → argw r 2 = 0 →
        argw r 3 + argw r 4 ≤ h.codeLen → r.src = .session b n →
        exec (.jobFetch r) s = .next ((State.sendData (((List.range (argw r 4)).map fun i => mget 0 h.code (argw r 3 +
            i)).length + 1) s (sessKey b n) (partHeader (argw r 1) h.fmt 0 h.group h.codeLen) (s.dataCap (sessKey b
            n)) (argw r 3) ((List.range (argw r 4)).map fun i => mget 0 h.code (argw r 3 + i))).answer r 0 ([]))) ∧
  (∀ (s : State) (r : Req) (h : Handle) (b : Hub) (n : Fin 16),
      Instr.admitted (.jobFetch r) s → s.handle (argw r 1) = some h → h.fmt ≠ 0xFE → argw r 2 = 1 →
        argw r 3 + argw r 4 ≤ h.expLen → r.src = .session b n →
        exec (.jobFetch r) s = .next ((State.sendData (((List.range (argw r 4)).map fun i => mget 0 h.exp (argw r 3 +
            i)).length + 1) s (sessKey b n) (partHeader (argw r 1) h.fmt 1 h.group h.expLen) (s.dataCap (sessKey b n))
            (argw r 3) ((List.range (argw r 4)).map fun i => mget 0 h.exp (argw r 3 + i))).answer r 0 ([]))) ∧
  (∀ (s : State) (r : Req),
      Instr.admitted (.jobPagesFree r) s → (mget none s.wk.maps (argw r 1)).isSome = true →
        s.mapBusy (argw r 1) = false → exec (.jobPagesFree r) s = .next ((s.freeMap (argw r 1)).answer r 0 ([]))) ∧
  (∀ (s : State) (r : Req),
      Instr.admitted (.jobPagesFree r) s → (mget none s.wk.maps (argw r 1)) = none →
        exec (.jobPagesFree r) s = .next (s.answer r 0x405 [])) ∧
  (∀ (s : State) (r : Req) (h : Handle),
      Instr.admitted (.jobCkpt r) s → s.ringCode (argw r 1) = 0 → s.handle (argw r 2) = some h → h.fmt = 0xFF →
        s.runningOf (argw r 1) = [] → s.ckptBad (argw r 1) = false → (s.checkpoint (argw r 1)).length ≤ h.codeLen →
        exec (.jobCkpt r) s = .next ((s.setHandle (argw r 2) (some (({ h with code := [], got := [] } : Handle).write
            0 (padTo 0 h.codeLen (s.checkpoint (argw r 1)))))).answer r 0 ([]))) ∧
  (∀ (s : State) (r : Req) (bs : List Byte),
      Instr.admitted (.jobRestore r) s → s.ringCode (argw r 1) = 0 → s.object (argw r 2) = .ok bs →
        s.held (argw r 1) = 0 → ckValid (bs.take (leAt bs 16 8)) = true → (s.ring (argw r 1)).paused = true →
        (s.score (s.ringScore (argw r 1))).st = 4 →
        (s.score (s.ringScore (argw r 1))).id = leAt (bs.take (leAt bs 16 8)) 8 8 →
        (s.score (s.ringScore (argw r 1))).digest.take 32 = slice (bs.take (leAt bs 16 8)) 32 32 →
        exec (.jobRestore r) s = .next
        (((let x := s.ckRestore (argw r 1) (bs.take (leAt bs 16 8)); let v := x.1.setRing (argw r 1) { x.1.ring (argw r 1) with jseq := ((x.1.ring (argw r 1)).jseq + 2 ^ 64 - x.2.length) % 2 ^ 64 }
        x.2.foldl (fun (t : State) q => t.reaccept (argw r 1) (match r.src with | .session h n => sessKey h n | .sideband => 0) q) v)).answer r 0 ([]))) ∧
  (∀ (s : State) (r : Req) (bs : List Byte),
      Instr.admitted (.jobRestore r) s → s.ringCode (argw r 1) = 0 → s.object (argw r 2) = .ok bs →
        s.held (argw r 1) = 0 → ckValid (bs.take (leAt bs 16 8)) = false →
        exec (.jobRestore r) s = .next (s.answer r 0x602 []))

/-- The ledger commands. LDG_READ of pages within a region whose reads are open puts them into the object; region 6 is
never read. LDG_WRITE of 256 bytes writes one page of region 7, or with the installer role one of pages 64 up of
region 5; other regions are refused. LDG_COUNTER answers a counter, or increments one of counters 32 to 63.
LDG_UNLOCK with the right password opens the region to the session; with a wrong one it counts the failure, locks at
ten, and a locked region refuses. LDG_PASSWD sets a password and clears the count. LDG_AUDIT puts the entries asked
for into the object and refuses entries that are not held. The values and conventions that the manual leaves open
are the model's choices of log entries 20, 23 and 36. Instr.admitted gathers the conditions under which Porell
carries a command out (R363, R366), and takesEntry those under which the ledger takes its audit record (R367).
Rules: R455, R463, R465, R468, R469, R363, R366, R367. -/
def Obligations.Ledger_commands : Prop :=
  (∀ (s : State) (r : Req),
      Instr.admitted (.ldgRead r) s → argw r 1 < 8 → argw r 3 ≠ 0 →
        (regionPages (argw r 1)).1 + argw r 2 + argw r 3 ≤ (regionPages (argw r 1)).2 →
        s.readCode r.src (argw r 1) = 0 → s.sink (argw r 4) (256 * argw r 3) = 0 →
        exec (.ldgRead r) s = .next ((s.bulk r.src (argw r 4) (s.pages ((regionPages (argw r 1)).1 + argw r 2) (argw r
            3))).answer r 0 ([]))) ∧
  (∀ (s : State) (r : Req),
      Instr.admitted (.ldgRead r) s → argw r 1 < 8 → argw r 3 ≠ 0 →
        (regionPages (argw r 1)).1 + argw r 2 + argw r 3 ≤ (regionPages (argw r 1)).2 → argw r 1 = 6 →
        exec (.ldgRead r) s = .next (s.answer r 0x201 [])) ∧
  (∀ (s : State) (r : Req) (bs : List Byte),
      Instr.admitted (.ldgWrite r) s → s.takesEntry → (argw r 1 = 7 ∨ (argw r 1 = 5 ∧ 64 ≤ argw r 2)) →
        (regionPages (argw r 1)).1 + argw r 2 < (regionPages (argw r 1)).2 → s.gated r.src (argw r 1) 1 = false →
        s.object (argw r 3) = .ok bs → bs.length = 256 →
        exec (.ldgWrite r) s = .next ((((Instr.entered (.ldgWrite r) s).commitPage ((regionPages (argw r 1)).1 + argw
            r 2) bs)).finish r 0 ([]))) ∧
  (∀ (s : State) (r : Req),
      Instr.admitted (.ldgWrite r) s → argw r 1 < 8 →
        (regionPages (argw r 1)).1 + argw r 2 < (regionPages (argw r 1)).2 → argw r 1 ≠ 5 → argw r 1 ≠ 7 →
        exec (.ldgWrite r) s = .next (s.answer r 0x201 [])) ∧
  (∀ (s : State) (r : Req),
      Instr.admitted (.ldgCounter r) s → argw r 1 < 64 → argw r 2 = 0 →
        exec (.ldgCounter r) s = .next (s.answer r 0 (words64 (s.counter (argw r 1))))) ∧
  (∀ (s : State) (r : Req),
      Instr.admitted (.ldgCounter r) s → s.takesEntry → 32 ≤ argw r 1 → argw r 1 < 64 → argw r 2 = 1 → s.pstate ≠ 0 →
        s.counter (argw r 1) < 2 ^ 48 - 1 → (Instr.entered (.ldgCounter r) s).counter (argw r 1) < 2 ^ 48 - 1 →
        let u := Instr.entered (.ldgCounter r) s; exec (.ldgCounter r) s = .next ((u.ctrInc (argw r 1)).1.finish r 0 (words64 ((u.ctrInc (argw r 1)).1.counter (argw r 1))))) ∧
  (∀ (s : State) (r : Req),
      Instr.admitted (.ldgCounter r) s → argw r 1 < 32 → argw r 2 = 1 →
        exec (.ldgCounter r) s = .next (s.answer r 0x104 [])) ∧
  (∀ (s : State) (r : Req) (h : Hub) (n : Fin 16),
      Instr.admitted (.ldgUnlock r) s → passwRegion (argw r 1) = true → argw r 2 ≤ 1 →
        mget 0 s.lg.passFail (argw r 1) = 0 → (mget [] s.lg.passw (2 * argw r 1 + argw r 2) = [] ∨
        mget [] s.lg.passw (2 * argw r 1 + argw r 2) = sha3 (wordsToBytes ((r.args.drop 2).take 4))) →
        r.src = .session h n →
        exec (.ldgUnlock r) s = .next ((s.setSess (sessKey h n)
            { s.sess (sessKey h n) with regions := (s.sess (sessKey h n)).regions ++ [(argw r 1, argw r 2)] }).answer
            r 0 ([]))) ∧
  (∀ (s : State) (r : Req),
      Instr.admitted (.ldgUnlock r) s → passwRegion (argw r 1) = true → argw r 2 ≤ 1 →
        mget 0 s.lg.passFail (argw r 1) < 9 → mget [] s.lg.passw (2 * argw r 1 + argw r 2) ≠ [] →
        mget [] s.lg.passw (2 * argw r 1 + argw r 2) ≠ sha3 (wordsToBytes ((r.args.drop 2).take 4)) →
        exec (.ldgUnlock r) s = .next (((((({ s with lg.passFail := mput 0 s.lg.passFail (argw r 1) (mget 0 s.lg.passFail (argw r 1) + 1) }
            : State).savePassw (argw r 1)).1).bump (hubBase (srcByte r.src / 16 % 2) + 0x90050) 1).answer r 0x0204
            []))) ∧
  (∀ (s : State) (r : Req),
      Instr.admitted (.ldgUnlock r) s → passwRegion (argw r 1) = true → argw r 2 ≤ 1 →
        10 ≤ mget 0 s.lg.passFail (argw r 1) → exec (.ldgUnlock r) s = .next (s.answer r 0x205 [])) ∧
  (∀ (s : State) (r : Req),
      Instr.admitted (.ldgUnlock r) s → passwRegion (argw r 1) = false →
        exec (.ldgUnlock r) s = .next (s.answer r 0x104 [])) ∧
  (∀ (s : State) (r : Req),
      Instr.admitted (.ldgPasswd r) s → s.takesEntry → passwRegion (argw r 1) = true → argw r 2 ≤ 1 →
        let u := Instr.entered (.ldgPasswd r) s; exec (.ldgPasswd r) s = .next (((({ u with lg.passw := mput [] u.lg.passw (2 * argw r 1 + argw r 2) (if (wordsToBytes ((r.args.drop 2).take 4)).all (· == 0) then [] else sha3 (wordsToBytes ((r.args.drop 2).take 4))), lg.passFail := mput 0 u.lg.passFail (argw r 1) 0 } : State).savePassw (argw r 1)).1.finish r 0 []))) ∧
  (∀ (s : State) (r : Req),
      Instr.admitted (.ldgAudit r) s → s.gated r.src 4 0 = false → argw r 1 + argw r 2 ≤ s.counter 6 →
        s.counter 6 ≤ argw r 1 + 1536 → s.sink (argw r 3) (32 * argw r 2) = 0 →
        exec (.ldgAudit r) s = .next ((s.bulk r.src (argw r 3) ((List.range (argw r 2)).flatMap fun i => slice (s.page
            (570 + (argw r 1 + i) % 1536 / 8)) (32 * ((argw r 1 + i) % 8)) 32)).answer r 0 ([]))) ∧
  (∀ (s : State) (r : Req),
      Instr.admitted (.ldgAudit r) s → s.gated r.src 4 0 = false → s.counter 6 < argw r 1 + argw r 2 →
        exec (.ldgAudit r) s = .next (s.answer r 0x405 []))

/-- Ledger writes, counters, resolution, margin pass, copies and readiness. With the ledger ready, a page write carries
out the oldest queued write, an increment sets a counter that is not reserved, the first read of a page or counter
settles it and later ones do nothing, and a margin pass that is due rewrites what is weak and counts it; without it
none of them has an effect. A page with no valid slot has its slots cleared and is logged. A lost copy leaves
service with its audit entry while the other serves, a returning one takes the survivor's pages and cells. The
ledger is ready once VSB is in range. The values and conventions that the manual leaves open are the model's choices
of log entries 13 and 83. Rules: R430, R457, R460, R461, R463, R464, R466, R470. -/
def Obligations.Ledger_upkeep : Prop :=
  (∀ (s : State) (p : Nat) (bs : List Byte) (q : List (Nat × List Byte)),
      s.lg.ready = true → s.pstate ≠ 0 → s.lg.queue = (p, bs) :: q →
        exec (.ledgerPageWrite) s = .next ((({ s with lg.queue := q }).ledgerWrite p bs).1)) ∧
  (∀ (s : State),
      (s.lg.ready = false ∨ s.pstate = 0 ∨ s.lg.queue = []) → exec (.ledgerPageWrite) s = .next (s)) ∧
  (∀ (s : State) (k : Fin 64),
      s.lg.ready = true → s.pstate ≠ 0 → reservedCtr k = false → s.counter k < 2 ^ 48 - 1 →
        exec (.ledgerCounterIncrement k) s = .next ((s.ctrInc k).1)) ∧
  (∀ (s : State) (k : Fin 64),
      (s.lg.ready = false ∨ s.pstate = 0 ∨ reservedCtr k = true ∨ 2 ^ 48 - 1 ≤ s.counter k) →
        exec (.ledgerCounterIncrement k) s = .next (s)) ∧
  (∀ (s : State) (pg : Fin 1024) (c i : Nat),
      s.lg.ready = true → s.lg.pages.contains pg.val = false → s.committed pg = some (c, i) →
        exec (.ledgerPageResolve pg) s = .next ((s.copies.foldl (fun (u : State) n =>
          let v := u.settleSlot n pg i (s.lslot c pg i)
          if v.lg.slots = u.lg.slots then u else v.bump (ldgReg n 0x48) 1)
              { s with lg.pages := pg.val :: s.lg.pages }))) ∧
  (∀ (s : State) (pg : Fin 1024),
      s.lg.ready = true → s.lg.pages.contains pg.val = false → s.committed pg = none →
        exec (.ledgerPageResolve pg) s = .next (((s.copies.foldl (fun (u : State) n => (List.range 2).foldl (fun (u :
            State) i =>
          if (u.lslot n pg i).valid = true then u.putSlot n pg i (u.lslot n pg i).cleared else u) u)
          { s with lg.pages := pg.val :: s.lg.pages }).log 0x10F [pg.val]))) ∧
  (∀ (s : State) (pg : Fin 1024),
      (s.lg.ready = false ∨ s.lg.pages.contains pg.val = true) → exec (.ledgerPageResolve pg) s = .next (s)) ∧
  (∀ (s : State) (k : Fin 64),
      s.lg.ready = true → s.lg.ctrs.contains k.val = false →
        exec (.ledgerCounterResolve k) s = .next (((List.range 64).foldl (fun (u : State) i =>
          if s.cellTorn k i = true then
            let v := if cellSet (s.ctrGen k) (s.cell s.judge k i) = true then (s.ctrGen k, 255 - s.ctrGen k)
              else ((s.ctrGen k + 255) % 256, 255 - (s.ctrGen k + 255) % 256)
            s.copies.foldl (fun (u : State) n => (u.setCell n k i v).bump (ldgReg n 0x48) 1) u
          else u) { s with lg.ctrs := k.val :: s.lg.ctrs }))) ∧
  (∀ (s : State) (k : Fin 64),
      (s.lg.ready = false ∨ s.lg.ctrs.contains k.val = true) → exec (.ledgerCounterResolve k) s = .next (s)) ∧
  (∀ (s : State) (slots cells : List Nat),
      s.lg.ready = true → s.marginDue = true → (s.pstate ≠ 0 ∨
        s.weakOf slots ++ (cells.filter fun k => k / 4096 < 2) = []) →
        exec (.ledgerMarginPass slots cells) s = .next
            ({ s.marginRun (s.weakOf slots) (cells.filter fun k => k / 4096 < 2) with lg.marginAt := some s.now, lg.hot := 0 }))
            ∧
  (∀ (s : State) (slots cells : List Nat),
      (s.lg.ready = false ∨ s.marginDue = false) → exec (.ledgerMarginPass slots cells) s = .next (s)) ∧
  (∀ (s : State) (h : Hub),
      s.lg.inServ.getD h false = true → s.lg.inServ.getD (1 - h.val) false = true →
        exec (.ledgerCopyLost h) s = .next ((({ s with lg.inServ := s.lg.inServ.set h false } : State).log 0x110
            [h.val]).auditModule 0xE006 [word h.val])) ∧
  (∀ (s : State) (h : Hub),
      (s.lg.inServ.getD h false = false ∨ s.lg.inServ.getD (1 - h.val) false = false) →
        exec (.ledgerCopyLost h) s = .next (s)) ∧
  (∀ (s : State) (h : Hub),
      s.lg.inServ.getD h false = false → s.lg.inServ.getD (1 - h.val) false = true →
        exec (.ledgerCopyReturn h) s = .next
            (({ s.copyBack h with lg.inServ := (s.copyBack h).lg.inServ.set h true, lg.pages := [], lg.ctrs := [] } :
            State).auditModule 0xE007 [word h.val])) ∧
  (∀ (s : State) (h : Hub),
      (s.lg.inServ.getD h false = true ∨ s.lg.inServ.getD (1 - h.val) false = false) →
        exec (.ledgerCopyReturn h) s = .next (s)) ∧
  (∀ (s : State),
      s.lg.ready = false → 3135 ≤ s.pw.vsb → s.pw.vsb ≤ 3465 →
        exec (.ledgerReady) s = .next ({ s with lg.ready := true, lg.pages := [], lg.ctrs := [] })) ∧
  (∀ (s : State),
      (s.lg.ready = true ∨ s.pw.vsb < 3135 ∨ 3465 < s.pw.vsb) → exec (.ledgerReady) s = .next (s))

/-- The security commands and the maker's access port. SEC_CHALLENGE for a role answers a nonce and keeps it with its
time; three failures block it for 60 s. SEC_AUTH whose signature verifies over a fresh challenge of the role raises
the session's role and counts; one that does not consumes the challenge and counts a failure, and one whose object
cannot be had consumes it too. SEC_DROP returns the session to the operator role. SEC_CAK seals a port's key,
SEC_IKEY replaces the installer key and drops the other installers, SEC_ATTEST puts the signed report into its
object, SEC_FW writes a verified release to the slots that do not run and begins the live update with hub A out,
SEC_DEBUG unlocks or locks debug. The access port's authentication needs SERVICE_EN; deasserting SERVICE_EN ends
maker sessions and locks debug; provisioning needs both, makes the identity once, writes the certificate once after
it, and the installer's keys after it. The values and conventions that the manual leaves open are the model's
choices of log entries 13, 14, 72, 73, 110, 111 and 117. Instr.admitted gathers the conditions under which Porell
carries a command out (R363, R366), and takesEntry those under which the ledger takes its audit record (R367).
Rules: R500, R501, R502, R504, R505, R508, R509, R511, R515, R363, R366, R367. -/
def Obligations.Security_commands : Prop :=
  (∀ (s : State) (r : Req) (h : Hub) (n : Fin 16),
      Instr.admitted (.secChallenge r) s → r.src = .session h n → 1 ≤ argw r 1 → argw r 1 ≤ 2 →
        (s.sess (sessKey h n)).chalBlock ≤ s.now →
        exec (.secChallenge r) s = .next (((s.take 1).setSess (sessKey h n)
            { s.sess (sessKey h n) with chal := some (argw r 1, Config.nonce s.fresh % 2 ^ 128, s.now) }).answer r 0
            ((List.range 4).map fun i => word (Config.nonce s.fresh % 2 ^ 128 / 2 ^ (32 * i))))) ∧
  (∀ (s : State) (r : Req) (h : Hub) (n : Fin 16),
      Instr.admitted (.secChallenge r) s → r.src = .session h n → 1 ≤ argw r 1 → argw r 1 ≤ 2 →
        s.now < (s.sess (sessKey h n)).chalBlock →
        exec (.secChallenge r) s = .next ((s.answer r 0x0604 []).bump (secReg h 0x48) 1)) ∧
  (∀ (s : State) (r : Req) (sig : Bool) (h : Hub) (n : Fin 16) (bs : List Byte),
      Instr.admitted (.secAuth r sig) s → s.takesEntry → r.src = .session h n → 1 ≤ argw r 1 → argw r 1 ≤ 2 →
        s.object (argw r 2) = .ok bs → bs.length = 4627 → s.authCode (sessKey h n) (argw r 1) sig = 0 →
        let u := Instr.entered (.secAuth r sig) s; exec (.secAuth r sig) s = .next ((((u.setSess (sessKey h n) { u.sess (sessKey h n) with role := argw r 1 + 1, chal := none }).bump (secReg h 0x40) 1)).finish r 0 ([]))) ∧
  (∀ (s : State) (r : Req) (sig : Bool) (h : Hub) (n : Fin 16) (bs : List Byte),
      Instr.admitted (.secAuth r sig) s → r.src = .session h n → 1 ≤ argw r 1 → argw r 1 ≤ 2 →
        s.object (argw r 2) = .ok bs → bs.length = 4627 → s.authCode (sessKey h n) (argw r 1) sig ≠ 0 →
        exec (.secAuth r sig) s = .next (((s.authFail h n).answer r (s.authCode (sessKey h n) (argw r 1) sig) []))) ∧
  (∀ (s : State) (r : Req) (sig : Bool) (h : Hub) (n : Fin 16) (e : Nat),
      Instr.admitted (.secAuth r sig) s → r.src = .session h n → 1 ≤ argw r 1 → argw r 1 ≤ 2 →
        s.object (argw r 2) = .error e →
        exec (.secAuth r sig) s = .next (((s.setSess (sessKey h n) { s.sess (sessKey h n) with chal := none }).answer
            r e []))) ∧
  (∀ (s : State) (r : Req) (h : Hub) (n : Fin 16),
      Instr.admitted (.secDrop r) s → s.takesEntry → r.src = .session h n →
        let u := Instr.entered (.secDrop r) s; exec (.secDrop r) s = .next ((u.setSess (sessKey h n) { u.sess (sessKey h n) with role := 1 }).finish r 0 ([]))) ∧
  (∀ (s : State) (r : Req) (opened : Option (List Byte)) (o p : List Byte),
      Instr.admitted (.secCak r opened) s → s.takesEntry → argw r 1 < 2 → s.object (argw r 2) = .ok o →
        opened = some p → cakPlain (argw r 1) o p = true → exec (.secCak r opened) s = .next
        ((let v := ((Instr.entered (.secCak r opened) s).sealWrite (880 + argw r 1) p).1
        (({ v with lg.caks := mput [] v.lg.caks (argw r 1) p } : State).secBit (2 + argw r 1) true).finish r 0 []))) ∧
  (∀ (s : State) (r : Req) (opened : Option (List Byte)) (o : List Byte),
      Instr.admitted (.secCak r opened) s → argw r 1 < 2 → s.object (argw r 2) = .ok o → opened = none →
        exec (.secCak r opened) s = .next (((s.answer r 0x0605 []).bump (secReg (srcByte r.src / 16 % 2) 0x4C) 1))) ∧
  (∀ (s : State) (r : Req) (sig : Bool) (o : List Byte),
      Instr.admitted (.secIkey r sig) s → s.takesEntry → s.object (argw r 1) = .ok o → o.length = 2592 + 4627 →
        s.gated r.src 5 1 = false → sig = true → exec (.secIkey r sig) s = .next
        ((let v := ((Instr.entered (.secIkey r sig) s).ledgerPages 762 11 (padTo 0 2816 (o.take 2592))).1
        (((v.ctrInc 1).1.secBit 1 true).dropInstallers (match r.src with | .session h n => sessKey h n | .sideband => 32)).finish r 0 []))) ∧
  (∀ (s : State) (r : Req) (h : Handle),
      Instr.admitted (.secAttest r) s → s.handle (argw r 1) = some h → h.fmt = 0xFF → 10195 ≤ h.codeLen →
        exec (.secAttest r) s = .next
        (((let b := s.report (wordsToBytes ((r.args.drop 1).take 4)); s.bulk r.src (argw r 1) (b ++ padTo 0 4627 (Config.identitySign (sha3 b))))).answer r 0 ([]))) ∧
  (∀ (s : State) (r : Req) (sig : Bool) (b : List Byte),
      Instr.admitted (.secFw r sig) s → s.takesEntry → s.segments (argw r 1) = .ok b → s.fwCode (fwOf b) sig = 0 →
        (fwOf b).pred.contains ((s.running 0).major, (s.running 0).minor) = true → s.sv.alive = [true, true] →
        (Instr.entered (.secFw r sig) s).fwCode (fwOf b) sig = 0 →
        exec (.secFw r sig) s = .next ((((List.range 2).foldl (fun (v : State) (h : Nat) =>
            { v with sv.fw := mput {} v.sv.fw (2 * h + (1 - v.sv.cur.getD h 0)) (fwOf b) }) (Instr.entered (.secFw r
            sig) s)).hubOut 0).addPend { req := r, op := 0x0B06, key := 0 })) ∧
  (∀ (s : State) (r : Req),
      Instr.admitted (.secDebug r) s → s.takesEntry → argw r 1 ≤ 1 →
        exec (.secDebug r) s = .next (((Instr.entered (.secDebug r) s).setDebug (argw r 1 == 1)).finish r 0 ([]))) ∧
  (∀ (s : State) (r : Req),
      Instr.admitted (.secDebug r) s → 1 < argw r 1 → exec (.secDebug r) s = .next (s.answer r 0x104 [])) ∧
  (∀ (s : State) (sig : Bool),
      sig = true → s.pw.serviceEn = true →
        exec (.securityTapAuth sig) s = .next (((s.setDebug true).auditModule 0x0B07 [1]).bump (secReg 0 0x40) 1)) ∧
  (∀ (s : State) (sig : Bool),
      (sig = false ∨ s.pw.serviceEn = false) → exec (.securityTapAuth sig) s = .next (s.bump (secReg 0 0x44) 1)) ∧
  (∀ (s : State),
      exec (.serviceEnChange true) s = .next ((({ s with pw.serviceEn := true }).secBit 4 true))) ∧
  (∀ (s : State),
      ∃ t, exec (.serviceEnChange false) s = .next t ∧ t.pw.serviceEn = false ∧ (∀ k, k < 32 → (s.sess k).role = 3 →
        (t.sess k).role = 1) ∧ (∀ k, (s.sess k).role ≠ 3 → t.sess k = s.sess k) ∧ bit (t.reg (secReg 0 0)) 5 = false)
            ∧
  (∀ (s : State) (step : ProvStep),
      (s.pw.serviceEn = false ∨ bit (s.reg (secReg 0 0)) 5 = false) →
        exec (.provisioning step) s = .next ({ s with rdata := 0x0203 })) ∧
  (∀ (s : State),
      s.pw.serviceEn = true → bit (s.reg (secReg 0 0)) 5 = true → bit (s.reg (secReg 0 0)) 0 = true →
        exec (.provisioning .identity) s = .next ({ s with rdata := 0x0606 })) ∧
  (∀ (s : State),
      s.pw.serviceEn = true → bit (s.reg (secReg 0 0)) 5 = true → bit (s.reg (secReg 0 0)) 0 = false → ∃ t,
        exec (.provisioning .identity) s = .next t ∧ bit (t.reg (secReg 0 0)) 0 = true ∧ t.rdata = 0 ∧
        t.fresh = s.fresh + 2 ∧ t.mem = s.mem ∧ t.frames = s.frames) ∧
  (∀ (s : State) (x : List Byte),
      s.pw.serviceEn = true → bit (s.reg (secReg 0 0)) 5 = true → bit (s.reg (secReg 0 0)) 0 = true →
        (s.pages 17 7).any (fun b => b != 0) = false →
        exec (.provisioning (.certificate x)) s = .next ({ (s.ledgerPages 17 7 (padTo 0 1792 x)).1 with rdata := 0 }))
            ∧
  (∀ (s : State) (x : List Byte),
      s.pw.serviceEn = true → bit (s.reg (secReg 0 0)) 5 = true → (bit (s.reg (secReg 0 0)) 0 = false ∨
        (s.pages 17 7).any (fun b => b != 0) = true) →
        exec (.provisioning (.certificate x)) s = .next ({ s with rdata := 0x0606 })) ∧
  (∀ (s : State) (x : List Byte) (a b : Option (List Byte)),
      s.pw.serviceEn = true → bit (s.reg (secReg 0 0)) 5 = true → bit (s.reg (secReg 0 0)) 0 = false →
        exec (.provisioning (.station x a b)) s = .next ({ s with rdata := 0x0606 })) ∧
  (∀ (s : State) (x : List Byte) (a b : Option (List Byte)),
      s.pw.serviceEn = true → bit (s.reg (secReg 0 0)) 5 = true → bit (s.reg (secReg 0 0)) 0 = true → ∃ t,
        exec (.provisioning (.station x a b)) s = .next t ∧ bit (t.reg (secReg 0 0)) 1 = true ∧ t.rdata = 0 ∧
        t.mem = s.mem ∧ t.frames = s.frames)

/-- Sensors, throttling, trips, restart and the thermal and power commands. A sample of a live sensor is judged from its
latest result, a sensor without one for four intervals is broken; a throttle step falls and an interval rises when
the reading has stayed low long enough; a trip of a sensor in use stops the module, or is recorded in Stopping. A
restart needs ten cool seconds and few stops, or a DEV_POWER. THM_READ and PWR_READ answer what they measure;
THM_POLICY, THM_RETIRE and PWR_POLICY set what they are given within the limits. The values and conventions that the
manual leaves open are the model's choices of log entries 10, 25 and 39. Instr.admitted gathers the conditions under
which Porell carries a command out (R363, R366), and takesEntry those under which the ledger takes its audit record
(R367). Rules: R440, R442, R443, R444, R445, R446, R447, R448, R449, R363, R366, R367. -/
def Obligations.Thermal_control : Prop :=
  (∀ (s : State) (u : Unit34) (k : Fin 24),
      (s.met u).on = true → k.val < sensorsOf u → s.pstate ≠ 0 →
        exec (.thermalSample u k) s = .next (((s.setSensor (24 * u.val + k.val) (s.judgeSample u k (bit (s.reg
            (metBase u + 0x800 + 8 * k.val)) 24) (sfld (s.reg (metBase u + 0x800 + 8 * k.val)) 0 24))).judgeUnit
            u).orderlyStop)) ∧
  (∀ (s : State) (u : Unit34) (k : Fin 24),
      ((s.met u).on = false ∨ sensorsOf u ≤ k.val ∨ s.pstate = 0) → exec (.thermalSample u k) s = .next (s)) ∧
  (∀ (s : State) (u : Unit34) (k : Fin 24),
      s.metIdle u = false → k.val < sensorsOf u → s.pstate ≠ 0 → (s.sensor (24 * u.val + k.val)).broken = false →
        (s.sensor (24 * u.val + k.val)).at_ + 4 * [10000000, 1000000, 250000].getD (s.thunit u).interval 10000000 <
            s.now →
        exec (.staleSensor u k) s = .next ((s.setSensor (24 * u.val + k.val)
            { s.sensor (24 * u.val + k.val) with broken := true }).judgeUnit u)) ∧
  (∀ (s : State) (u : Unit34) (k : Fin 24),
      (s.now ≤ (s.sensor (24 * u.val + k.val)).at_ + 4 * [10000000, 1000000, 250000].getD (s.thunit u).interval
          10000000 ∨
        (s.sensor (24 * u.val + k.val)).broken = true) → exec (.staleSensor u k) s = .next (s)) ∧
  (∀ (s : State) (u : Unit34) (n t : Nat),
      (s.thunit u).step = n + 1 → (s.thunit u).below.getD n none = some t → t + 100000000 ≤ s.now →
        exec (.throttleStepFall u) s = .next ((((s.setThunit u { s.thunit u with step := n }).showThermal u).event 4
            (leBytes 1 u.val ++ leBytes 1 n)))) ∧
  (∀ (s : State) (u : Unit34),
      (s.thunit u).step = 0 → exec (.throttleStepFall u) s = .next (s)) ∧
  (∀ (s : State) (u : Unit34) (t : Nat),
      (s.thunit u).slower.getD 0 none = some t → t + 1000000000 ≤ s.now → (s.thunit u).interval ≠ 0 →
        exec (.sampleIntervalRise u) s = .next ((((s.setThunit u { s.thunit u with interval := 0 }).porellTable u
            0).showThermal u))) ∧
  (∀ (s : State) (u : Unit34),
      (s.thunit u).slower = [none, none] → (s.thunit u).interval ≤ 2 → exec (.sampleIntervalRise u) s = .next (s)) ∧
  (∀ (s : State) (u : Unit34) (k : Fin 24),
      k.val < sensorsOf u → s.sensorRetired u k = false → (s.sensor (24 * u.val + k.val)).openShort = false →
        s.pstate ≠ 0 → s.pstate ≠ 5 → u.val < 32 → exec (.thermalTrip u k) s = .next (s.stopNow false 3 0xE002)) ∧
  (∀ (s : State) (u : Unit34) (k : Fin 24),
      k.val < sensorsOf u → s.sensorRetired u k = false → (s.sensor (24 * u.val + k.val)).openShort = false →
        s.pstate = 5 → u.val < 32 →
        exec (.thermalTrip u k) s = .next ((((s.setBoth 0x70004 (putBit (s.reg (hubBase 0 + 0x70004)) 3
            true)).auditModule 0xE002 [word u.val]).ctrInc 5).1)) ∧
  (∀ (s : State) (u : Unit34) (k : Fin 24),
      k.val < sensorsOf u → s.sensorRetired u k = false → (s.sensor (24 * u.val + k.val)).openShort = false →
        s.pstate ≠ 0 → s.pstate ≠ 5 → 32 ≤ u.val →
        exec (.thermalTrip u k) s = .next ((s.stopNow false 3 0xE002).takeover (u.val - 32 : Nat) true)) ∧
  (∀ (s : State) (u : Unit34) (k : Fin 24),
      (s.pstate = 0 ∨ sensorsOf u ≤ k.val ∨ s.sensorRetired u k = true ∨
        (s.sensor (24 * u.val + k.val)).openShort = true) → exec (.thermalTrip u k) s = .next (s)) ∧
  (∀ (s : State) (t : Nat),
      s.pstate = 5 → s.pw.failN = false → s.th.coolSince = some t → t + 10000000000 ≤ s.now → s.th.stops = [] →
        bit (s.reg (hubBase 0 + 0x70004)) 4 = true → s.th.stopSaved = false →
        exec (.autoRestart) s = .next (((({ s.setBoth 0x70004 (putBit (s.reg (hubBase 0 + 0x70004)) 2 false) with pw.wakePend := false }
            : State).setPstate 1).bootPhase 4))) ∧
  (∀ (s : State),
      s.pstate = 5 → s.pw.failN = false → s.pw.wakePend = true → s.th.stopSaved = true →
        exec (.autoRestart) s = .next ((s.setBoth 0x70004 (putBit (s.reg (hubBase 0 + 0x70004)) 2 false)))) ∧
  (∀ (s : State),
      (s.pstate ≠ 5 ∨ s.pw.failN = true) → exec (.autoRestart) s = .next (s)) ∧
  (∀ (s : State) (r : Req),
      Instr.admitted (.thmRead r) s →
        exec (.thmRead r) s = .next (s.answer r 0 ([iword s.hotSpot.2, word s.hotSpot.1, word ((s.liveUnits.map fun u
            => (s.thunit u).step).foldl max 0), word (nsum (s.liveUnits.map fun u => s.brokenOf u + s.retiredOf
            u))]))) ∧
  (∀ (s : State) (r : Req),
      Instr.admitted (.thmPolicy r) s → s.takesEntry → s.gated r.src 5 1 = false → argw r 1 < 2 →
        argw r 2 ≤ s.th.maker.getD 0 114 → argw r 3 ≤ s.th.maker.getD 1 114 → argw r 4 ≤ s.th.maker.getD 2 114 →
        argw r 2 < argw r 3 → argw r 3 < argw r 4 → argw r 4 < 115 →
        let u := Instr.entered (.thmPolicy r) s; exec (.thmPolicy r) s = .next
        ((let v := (u.setBoth 0x70000 (word (argw r 2 + argw r 3 * 256 + argw r 4 * 65536))).setBoth 0x70004 (putBit ((u.setBoth 0x70000 (word (argw r 2 + argw r 3 * 256 + argw r 4 * 65536))).reg (hubBase 0 + 0x70004)) 4 (argw r 1 == 1))
        let x := { v with th.units := v.th.units.map fun (e : Nat × ThUnit) => (e.1, { e.2 with below := [none, none, none], slower := [none, none] }) }
        ((x.liveUnits.foldl State.judgeUnit x).savePolicy).finish r 0 []))) ∧
  (∀ (s : State) (r : Req),
      Instr.admitted (.thmPolicy r) s → s.gated r.src 5 1 = false → argw r 1 < 2 → (argw r 3 ≤ argw r 2 ∨
        argw r 4 ≤ argw r 3 ∨ 115 ≤ argw r 4) → exec (.thmPolicy r) s = .next (s.answer r 0x104 [])) ∧
  (∀ (s : State) (r : Req),
      Instr.admitted (.thmRetire r) s → s.takesEntry → s.noUnit (argw r 1) = false → argw r 2 < sensorsOf (argw r 1) →
        let u := Instr.entered (.thmRetire r) s; exec (.thmRetire r) s = .next
        ((let v := ((u.setBoth (0x70200 + 4 * argw r 1) (putBit (u.reg (hubBase 0 + 0x70200 + 4 * argw r 1)) (argw r 2) true)).mapSet (mapSensor (argw r 1) (argw r 2))).flushAll
        (if (v.met (argw r 1)).on then v.judgeUnit (argw r 1) else v).finish r 0 []))) ∧
  (∀ (s : State) (r : Req),
      Instr.admitted (.thmRetire r) s → s.noUnit (argw r 1) = true →
        exec (.thmRetire r) s = .next (s.answer r 0x10a [])) ∧
  (∀ (s : State) (r : Req),
      Instr.admitted (.pwrRead r) s →
        exec (.pwrRead r) s = .next (s.answer r 0 ([word s.modulePower, iword (rneDiv (s.lastCode 32 13) 500), iword
            (rneDiv (s.lastCode 32 12) 2000), word s.pw.waitLast]))) ∧
  (∀ (s : State) (r : Req),
      Instr.admitted (.pwrPolicy r) s → s.takesEntry → s.gated r.src 5 1 = false → 80 ≤ argw r 3 →
        argw r 3 ≤ s.th.maker.getD 3 240 → let u := Instr.entered (.pwrPolicy r) s; exec (.pwrPolicy r) s = .next
        ((let v := u.setBoth 0x80004 (put (u.reg (hubBase 0 + 0x80004)) 0 8 (argw r 3))
        (({ v with pw.idleMs := argw r 1, pw.idleS := argw r 2 } : State).savePolicy).finish r 0 []))) ∧
  (∀ (s : State) (r : Req),
      Instr.admitted (.pwrPolicy r) s → s.gated r.src 5 1 = false → argw r 3 < 80 →
        exec (.pwrPolicy r) s = .next (s.answer r 0x104 []))

/-- Power failure, brown-out, reset, idling, entries and wakes. PWR_FAIL_N asserted ends work as a power failure,
deasserted it lets a halted bring-up go on; an assertion repeated does nothing. A brown-out is timed; after 1 ms it
halves the power, after 100 ms it is as a power failure, and its end lets work go on. A supply outside its limits
turns the module off. RESET_N low for 10 µs resets every domain, for less than 1 µs nothing, between them a free
value decides. A wake edge wakes; idleness begins an entry; an entry completes when nothing is in progress, and a
wake when its time has passed. An overdue recount wakes the module. The values and conventions that the manual
leaves open are the model's choices of log entries 7, 41, 42, 90 and 120. Rules: R431, R432, R435, R436, R440, R450,
R451, R519, R540, R543. -/
def Obligations.Power_states : Prop :=
  (∀ (s : State),
      s.pw.failN = false → exec (.pwrFailNAssert) s = .next ((s.setFailN true).powerFail)) ∧
  (∀ (s : State),
      s.pw.failN = true → exec (.pwrFailNAssert) s = .next (s)) ∧
  (∀ (s : State),
      s.pw.failN = true → (s.setFailN false).pw.halted = false → exec (.pwrFailNDeassert) s = .next (s.setFailN
          false)) ∧
  (∀ (s : State),
      s.pw.failN = true → (s.setFailN false).pw.halted = true → 10800 ≤ (s.setFailN false).pw.vin →
        (s.setFailN false).pw.vin ≤ 13200 → exec (.pwrFailNDeassert) s = .next ((s.setFailN false).bootAgain)) ∧
  (∀ (s : State),
      s.pw.failN = true → (s.setFailN false).pw.halted = true → ((s.setFailN false).pw.vin < 10800 ∨
        13200 < (s.setFailN false).pw.vin) → exec (.pwrFailNDeassert) s = .next (s.setFailN false)) ∧
  (∀ (s : State),
      s.pw.failN = false → exec (.pwrFailNDeassert) s = .next (s)) ∧
  (∀ (s : State) (above : Bool),
      exec (.vinOvercurrent above) s = .next ({ s with pw.overHalve := above })) ∧
  (∀ (s : State) (mv : Nat),
      10500 ≤ mv → mv < 10800 → s.pstate ≠ 0 →
        exec (.brownOut mv) s = .next ({ s with pw.vin := mv, pw.brownAt := some (s.pw.brownAt.getD s.now) })) ∧
  (∀ (s : State) (mv : Nat),
      (mv < 10500 ∨ 10800 ≤ mv ∨ s.pstate = 0) → exec (.brownOut mv) s = .next (s)) ∧
  (∀ (s : State) (t : Nat),
      s.pw.brownAt = some t → t + 1000000 ≤ s.now → s.pw.halved = false →
        exec (.brownOut1ms) s = .next (({ s with pw.halved := true }).event 5 (leBytes 1 s.pstate))) ∧
  (∀ (s : State),
      s.pw.brownAt = none → exec (.brownOut1ms) s = .next (s)) ∧
  (∀ (s : State) (t : Nat),
      s.pw.brownAt = some t → t + 100000000 ≤ s.now → s.pw.brownDorm = false →
        exec (.brownOut100ms) s = .next (({ s with pw.brownDorm := true } : State).powerFail)) ∧
  (∀ (s : State),
      s.pw.brownAt = none → exec (.brownOut100ms) s = .next (s)) ∧
  (∀ (s : State),
      s.pw.brownAt.isSome = true → s.pw.halted = false →
        exec (.brownOutEnd) s = .next ({ s with pw.brownAt := none, pw.halved := false, pw.okAt := s.now, pw.vin := max s.pw.vin 10800 }))
            ∧
  (∀ (s : State),
      s.pw.brownAt.isSome = true → s.pw.halted = true → s.pw.failN = false →
        exec (.brownOutEnd) s = .next (({ s with pw.brownAt := none, pw.halved := false, pw.okAt := s.now, pw.vin := max s.pw.vin 10800, pw.brownDorm := false }
            : State).bootAgain)) ∧
  (∀ (s : State),
      s.pw.brownAt = none → exec (.brownOutEnd) s = .next (s)) ∧
  (∀ (s : State) (vin vsb : Nat),
      (vin < 10500 ∨ 14000 < vin ∨ vsb < 3000) →
        exec (.supplyLoss vin vsb) s = .next
            ({ (({ s with pw.vin := vin, pw.vsb := vsb } : State).off) with lg.ready := s.lg.ready && decide (3000 ≤ vsb) }))
            ∧
  (∀ (s : State) (vin vsb : Nat),
      10500 ≤ vin → vin ≤ 14000 → 3000 ≤ vsb → exec (.supplyLoss vin vsb) s = .next (s)) ∧
  (∀ (s : State) (mv : Nat),
      3600 < mv → exec (.vsbHigh mv) s = .next ({ s with pw.vsb := mv, pw.vsbHigh := true })) ∧
  (∀ (s : State) (mv : Nat),
      3135 ≤ mv → mv ≤ 3465 → exec (.vsbHigh mv) s = .next ({ s with pw.vsb := mv, pw.vsbHigh := false })) ∧
  (∀ (s : State) (mv : Nat),
      (mv < 3135 ∨ 3465 < mv) → mv ≤ 3600 → exec (.vsbHigh mv) s = .next ({ s with pw.vsb := mv })) ∧
  (∀ (s : State) (ns : Nat),
      10000 ≤ ns → s.pstate ≠ 0 → exec (.resetNLow ns) s = .next (s.vinReset.setPstate 1)) ∧
  (∀ (s : State) (ns : Nat),
      1000 ≤ ns → ns < 10000 → s.pstate ≠ 0 →
        exec (.resetNLow ns) s = .next ((if Config.freeBit s.fresh = true then (s.take 1).vinReset.setPstate 1 else
            s.take 1))) ∧
  (∀ (s : State) (ns : Nat),
      (ns < 1000 ∨ (10000 ≤ ns ∧ s.pstate = 0)) → exec (.resetNLow ns) s = .next (s)) ∧
  (∀ (s : State),
      exec (.wakeEdge) s = .next (s.wake)) ∧
  (∀ (s : State),
      s.ck.refIn = true → exec (.refclkLoss) s = .next (({ s with ck.refIn := false } : State).log 0x10C [])) ∧
  (∀ (s : State),
      s.ck.refIn = false → exec (.refclkLoss) s = .next (s)) ∧
  (∀ (s : State),
      s.pstate = 2 → s.pw.entering = none → s.idleFor s.pw.idleMs 1000000 = true →
        exec (.idleToDrowsy) s = .next (s.beginEntry 3)) ∧
  (∀ (s : State),
      (s.pstate ≠ 2 ∨ s.pw.entering.isSome = true ∨ s.idleFor s.pw.idleMs 1000000 = false) →
        exec (.idleToDrowsy) s = .next (s)) ∧
  (∀ (s : State),
      (s.pstate = 2 ∨ s.pstate = 3) → s.pw.entering = none → s.idleFor s.pw.idleS 1000000000 = true →
        exec (.idleToDormant) s = .next (s.beginEntry 4)) ∧
  (∀ (s : State),
      ((s.pstate ≠ 2 ∧ s.pstate ≠ 3) ∨ s.pw.entering.isSome = true ∨ s.idleFor s.pw.idleS 1000000000 = false) →
        exec (.idleToDormant) s = .next (s)) ∧
  (∀ (s : State),
      s.pw.entering = some 3 → s.pstate = 2 → (s.boards.any fun e => e.2.sb != []) = false →
        (s.frames.any fun e => e.2.stroke.isSome || e.2.queue != []) = false → s.engines.isEmpty = true →
        exec (.drowsyEntry) s = .next (((s.endEntry.linksFrom 2 3).enter 3).powerReached 3)) ∧
  (∀ (s : State),
      (s.pw.entering ≠ some 3 ∨ s.pstate ≠ 2 ∨ (s.boards.any fun e => e.2.sb != []) = true ∨
        (s.frames.any fun e => e.2.stroke.isSome || e.2.queue != []) = true ∨ s.engines.isEmpty = false) →
        exec (.drowsyEntry) s = .next (s)) ∧
  (∀ (s : State),
      s.pw.entering = some 4 → (s.pstate = 2 ∨ s.pstate = 3) →
        (s.boards.any fun e => e.2.steps != [] || e.2.cur.isSome || e.2.sb != [] || e.2.endPend != []) = false →
        (s.inFabric.any fun p => p.type == 7) = false → s.engines.isEmpty = true →
        exec (.dormantEntry) s = .next ((((s.endEntry.saveArrays false).arraysOff false).enter 4).powerReached 4)) ∧
  (∀ (s : State),
      (s.pw.entering ≠ some 4 ∨ (s.pstate ≠ 2 ∧ s.pstate ≠ 3) ∨
        (s.boards.any fun e => e.2.steps != [] || e.2.cur.isSome || e.2.sb != [] || e.2.endPend != []) = true ∨
        (s.inFabric.any fun p => p.type == 7) = true ∨ s.engines.isEmpty = false) → exec (.dormantEntry) s = .next
            (s)) ∧
  (∀ (s : State),
      (s.pstate = 4 ∨ (s.pstate = 5 ∧ s.th.stopSaved = true)) → s.pw.wakePend = true →
        s.pw.wakeAt + 60000000 ≤ s.now → s.pw.failN = false → (s.pw.brownDorm = false ∨ (s.pw.brownAt = none ∧
        s.pw.okAt + 1000000000 ≤ s.now)) →
        exec (.wakeFromDormant) s = .next ((({ s.wakeArrays with pw.brownDorm := false, th.stopSaved := false } :
            State).backToReady))) ∧
  (∀ (s : State),
      (s.pw.wakePend = false ∨ s.now < s.pw.wakeAt + 60000000 ∨ s.pw.failN = true) →
        exec (.wakeFromDormant) s = .next (s)) ∧
  (∀ (s : State),
      s.pstate = 3 → s.pw.wakePend = true → s.pw.wakeAt + 50000 ≤ s.now →
        exec (.wakeFromDrowsy) s = .next ((s.linksFrom 3 2).backToReady)) ∧
  (∀ (s : State),
      (s.pstate ≠ 3 ∨ s.pw.wakePend = false ∨ s.now < s.pw.wakeAt + 50000) → exec (.wakeFromDrowsy) s = .next (s)) ∧
  (∀ (s : State),
      s.frames = [] → exec (.overdueRecountWake) s = .next (s)) ∧
  (∀ (s : State) (k : Nat) (y : Frame) (p : Nat),
      (k, y) ∈ s.frames → (y.st = .idle ∨ y.st = .stroking ∨ y.st = .recount) → p < 8 →
        (y.headers.getD p {}).fmt ≠ 3 → s.visitDueAt k p + 3600000000000 < s.now →
        exec (.overdueRecountWake) s = .next (s.wake))

/-- Received messages, responses and the timers of a session. A message is taken only by the row of its own type and is
otherwise left alone. A retransmission time-out sends the oldest unacknowledged message again and counts it, and
after eight sends closes the session; a session silent for 60 s closes; a throttle whose time has passed ends. None
of them has an effect before its time. The values and conventions that the manual leaves open are the model's
choices of log entries 65, 66, 76 and 121. Rules: R331, R332, R335, R339, R346, R347, R359, R360. -/
def Obligations.Session_messages : Prop :=
  (∀ (s : State) (m : Rx),
      ofType m 1 = true → exec (.sprinmosCommand m) s = .next (s.rxMessage m)) ∧
  (∀ (s : State) (m : Rx),
      ofType m 1 = false → exec (.sprinmosCommand m) s = .next (s)) ∧
  (∀ (s : State) (m : Rx),
      ofType m 3 = true → exec (.ringPush m) s = .next (s.rxMessage m)) ∧
  (∀ (s : State) (m : Rx),
      ofType m 3 = false → exec (.ringPush m) s = .next (s)) ∧
  (∀ (s : State) (m : Rx),
      ofType m 5 = true → exec (.dataMessage m) s = .next (s.rxMessage m)) ∧
  (∀ (s : State) (m : Rx),
      ofType m 5 = false → exec (.dataMessage m) s = .next (s)) ∧
  (∀ (s : State) (m : Rx),
      ofType m 7 = true → exec (.hostAck m) s = .next (s.rxMessage m)) ∧
  (∀ (s : State) (m : Rx),
      ofType m 7 = false → exec (.hostAck m) s = .next (s)) ∧
  (∀ (s : State) (m : Rx),
      ofType m 8 = true → exec (.hostNak m) s = .next (s.rxMessage m)) ∧
  (∀ (s : State) (m : Rx),
      ofType m 8 = false → exec (.hostNak m) s = .next (s)) ∧
  (∀ (s : State) (h : Hub),
      exec (.commandResponse h) s = .next (s.respond h)) ∧
  (∀ (s : State) (h : Hub) (n : Fin 16) (m : OMsg) (q : List OMsg),
      (s.sess (sessKey h n)).unacked = m :: q → m.at_ + rtoAfter m.tries ≤ s.now → s.portUp (sessKey h n) = true →
        m.tries < 8 →
        exec (.retransmitTimeout h n) s = .next ((((s.setSess (sessKey h n)
            { (s.sess (sessKey h n)) with unacked := { m with tries := m.tries + 1, at_ := s.now } :: q }).bump (spm
            (s.sess (sessKey h n)).port 0x48) 1).sendOn (sessKey h n) m.type true m.seq m.msgId m.offset m.payload)))
            ∧
  (∀ (s : State) (h : Hub) (n : Fin 16) (m : OMsg) (q : List OMsg),
      (s.sess (sessKey h n)).unacked = m :: q → m.at_ + rtoAfter m.tries ≤ s.now → s.portUp (sessKey h n) = true →
        8 ≤ m.tries → exec (.retransmitTimeout h n) s = .next (s.closeSess (sessKey h n))) ∧
  (∀ (s : State) (h : Hub) (n : Fin 16),
      (s.sess (sessKey h n)).unacked = [] → exec (.retransmitTimeout h n) s = .next (s)) ∧
  (∀ (s : State) (h : Hub) (n : Fin 16),
      (s.sess (sessKey h n)).opened = true → (s.sess (sessKey h n)).last + 60000000000 ≤ s.now →
        exec (.sessionIdleTimeout h n) s = .next (s.closeSess (sessKey h n))) ∧
  (∀ (s : State) (h : Hub) (n : Fin 16),
      ((s.sess (sessKey h n)).opened = false ∨ s.now < (s.sess (sessKey h n)).last + 60000000000) →
        exec (.sessionIdleTimeout h n) s = .next (s)) ∧
  (∀ (s : State) (h : Hub) (n : Fin 16) (t : Nat),
      (s.sess (sessKey h n)).throttle = some t → t ≤ s.now →
        exec (.throttleExpiry h n) s = .next (s.setSess (sessKey h n)
            { (s.sess (sessKey h n)) with throttle := none })) ∧
  (∀ (s : State) (h : Hub) (n : Fin 16),
      (s.sess (sessKey h n)).throttle = none → exec (.throttleExpiry h n) s = .next (s))

/-- Ethernet frames, port links, MKA, port settings and the sideband. A frame at a running hub beyond the frame limit is
dropped; one with a wrong check sequence, a foreign VLAN, a missing or a failed protection is counted and dropped;
one that passes is handled. A link that comes up shows its speed, one that drops loses its security and raises an
EVENT. MKA installs a key after an hour or past 2^62 packets. After 1 s unsynchronised the other time port is taken.
Accepted port settings come into force at their time. A Block Write to the sideband's address with a good check
hands one message to MB1, or is refused while one is awaited or where its opcode is none of R368; a Block Read and a
Read Byte answer; the address moves to hub B at a failover; an alert response answers while the alert is asserted.
The values and conventions that the manual leaves open are the model's choices of log entries 19, 75, 77 and 121.
Rules: R318, R319, R320, R321, R322, R323, R324, R364, R365, R366, R368, R514. -/
def Obligations.Ports_and_sideband : Prop :=
  (∀ (s : State) (f : EthFrame),
      ((s.sv.alive.getD f.port false && s.pw.booted.getD f.port false) = false ∨ s.pstate = 0) →
        exec (.ethernetFrameRx f) s = .next (s)) ∧
  (∀ (s : State) (f : EthFrame),
      (s.sv.alive.getD f.port false && s.pw.booted.getD f.port false) = true → s.pstate ≠ 0 →
        s.frameLimit f.port f.vid.isSome < f.len → exec (.ethernetFrameRx f) s = .next (s)) ∧
  (∀ (s : State) (f : EthFrame),
      (s.sv.alive.getD f.port false && s.pw.booted.getD f.port false) = true → s.pstate ≠ 0 →
        f.len ≤ s.frameLimit f.port f.vid.isSome → f.fcsOk = false →
        exec (.ethernetFrameRx f) s = .next (s.bump (spm f.port 0x64) 1)) ∧
  (∀ (s : State) (f : EthFrame),
      (s.sv.alive.getD f.port false && s.pw.booted.getD f.port false) = true → s.pstate ≠ 0 →
        f.len ≤ s.frameLimit f.port f.vid.isSome → f.fcsOk = true → s.vlanOk f.port f.vid = false →
        exec (.ethernetFrameRx f) s = .next (s.bump (spm f.port 0x60) 1)) ∧
  (∀ (s : State) (f : EthFrame),
      (s.sv.alive.getD f.port false && s.pw.booted.getD f.port false) = true → s.pstate ≠ 0 →
        f.len ≤ s.frameLimit f.port f.vid.isSome → f.fcsOk = true → s.vlanOk f.port f.vid = true → f.sec = none →
        ethExempt f = false → exec (.ethernetFrameRx f) s = .next (s.bump (spm f.port 0x5C) 1)) ∧
  (∀ (s : State) (f : EthFrame),
      (s.sv.alive.getD f.port false && s.pw.booted.getD f.port false) = true → s.pstate ≠ 0 →
        f.len ≤ s.frameLimit f.port f.vid.isSome → f.fcsOk = true → s.vlanOk f.port f.vid = true → f.sec = none →
        ethExempt f = true → exec (.ethernetFrameRx f) s = .next (s.ethKind f)) ∧
  (∀ (s : State) (f : EthFrame) (pn : Nat) (ok : Bool),
      (s.sv.alive.getD f.port false && s.pw.booted.getD f.port false) = true → s.pstate ≠ 0 →
        f.len ≤ s.frameLimit f.port f.vid.isSome → f.fcsOk = true → s.vlanOk f.port f.vid = true →
        f.sec = some (pn, ok) → (ok = false ∨ (s.port f.port).secured = false) →
        exec (.ethernetFrameRx f) s = .next (s.bump (spm f.port 0x64) 1)) ∧
  (∀ (s : State) (f : EthFrame) (pn : Nat),
      (s.sv.alive.getD f.port false && s.pw.booted.getD f.port false) = true → s.pstate ≠ 0 →
        f.len ≤ s.frameLimit f.port f.vid.isSome → f.fcsOk = true → s.vlanOk f.port f.vid = true →
        f.sec = some (pn, true) → (s.port f.port).secured = true →
        exec (.ethernetFrameRx f) s = .next ((s.setPort f.port
            { s.port f.port with pn := max (s.port f.port).pn pn }).ethKind f)) ∧
  (∀ (s : State) (h : Hub) (speed : Fin 3),
      (s.sv.alive.getD h false && s.pw.booted.getD h false) = true → s.pstate ≠ 0 →
        exec (.portLinkChange h false speed) s = .next ((((s.setPort h
            { s.port h with secured := false, synced := false, syncLost := if (s.port h).synced then s.now else (s.port h).syncLost }).setReg
            (spm h 0xC) 0).linkEvent h))) ∧
  (∀ (s : State) (h : Hub) (speed : Fin 3),
      (s.sv.alive.getD h false && s.pw.booted.getD h false) = true → s.pstate ≠ 0 → bit (s.reg (spm h 0)) 2 = false →
        exec (.portLinkChange h true speed) s = .next (s.setReg (spm h 0xC) (putBit (put (s.reg (spm h 0xC)) 0 4 (2 +
            4 * fld (s.reg (spm h 0)) 0 2)) 6 (bit (s.reg (spm h 0)) 3)))) ∧
  (∀ (s : State) (h : Hub) (speed : Fin 3),
      (s.sv.alive.getD h false && s.pw.booted.getD h false) = true → s.pstate ≠ 0 → bit (s.reg (spm h 0)) 2 = true →
        ∃ t, exec (.portLinkChange h true speed) s = .next t ∧
        fld (t.reg (spm h 0xC)) 0 4 = 2 + 4 * max speed.val (fld (s.reg (spm h 0)) 0 2) ∧ t.mem = s.mem ∧
        t.hl = s.hl ∧ ∀ a, a ≠ spm h 0xC → t.reg a = s.reg a) ∧
  (∀ (s : State) (h : Hub),
      (s.port h).secured = true → ((s.port h).sakAt + 3600000000000 ≤ s.now ∨ 2 ^ 62 < (s.port h).pn) →
        exec (.mkaRekey h) s = .next (((s.setPort h
            { s.port h with pn := 0, sak := Config.sak s.fresh, sakAt := s.now }).take 1))) ∧
  (∀ (s : State) (h : Hub),
      (s.port h).secured = false → exec (.mkaRekey h) s = .next (s)) ∧
  (∀ (s : State),
      (s.rkSrc = 1 ∨ s.rkSrc = 2) → (s.port (s.rkSrc - 1)).synced = false →
        (s.port (s.rkSrc - 1)).syncLost + 1000000000 ≤ s.now →
        exec (.timePortFallback) s = .next (s.setRkSrc (3 - s.rkSrc))) ∧
  (∀ (s : State),
      s.rkSrc ≠ 1 → s.rkSrc ≠ 2 → exec (.timePortFallback) s = .next (s)) ∧
  (∀ (s : State) (h : Hub) (c e i due : Nat),
      (s.port h).conf = some (c, e, i, due) → due ≠ 0 → due ≤ s.now →
        exec (.portConfigApply h) s = .next ((((s.setPort h { s.port h with conf := none }).setReg (spm h 0) (putBit
            (word c &&& 0x7FFFFF) 7 (bit (s.reg (spm h 0)) 7))).setRegN (spm h 4) e |>.setRegN (spm h 8)
            i).savePolicy)) ∧
  (∀ (s : State) (h : Hub),
      (s.port h).conf = none → exec (.portConfigApply h) s = .next (s)) ∧
  (∀ (s : State) (adr : Fin 128) (pec : Bool) (bs : List Byte),
      s.smbMine adr pec = false → exec (.smbusBlockWrite adr pec bs) s = .next (s)) ∧
  (∀ (s : State) (adr : Fin 128) (pec : Bool) (bs : List Byte),
      s.smbMine adr pec = true → s.hl.sbAwait = true →
        exec (.smbusBlockWrite adr pec bs) s = .next ({ s with hl.sbRefused := true })) ∧
  (∀ (s : State) (adr : Fin 128) (pec : Bool) (bs : List Byte),
      s.smbMine adr pec = true → s.hl.sbAwait = false → s.pstate ≠ 0 → unknownOp (bytesToWords bs) = false →
        exec (.smbusBlockWrite adr pec bs) s = .next (({ s with hl.sbAwait := true, hl.sbRefused := false } :
            State).mbDeliver s.hl.sbHub 1 0 (bytesToWords bs))) ∧
  (∀ (s : State) (adr : Fin 128) (pec : Bool) (bs : List Byte),
      s.smbMine adr pec = true → s.hl.sbAwait = false → s.pstate ≠ 0 → s.answers = true →
        unknownOp (bytesToWords bs) = true →
        exec (.smbusBlockWrite adr pec bs) s = .next
            ({ (({ s with hl.sbAwait := true, hl.sbRefused := false } : State).mbDeliver s.hl.sbHub 1 0 (bytesToWords bs)).mbAck s.hl.sbHub 1 1 0x0101 with hl.sbAwait := false, hl.sbRefused := true }))
            ∧
  (∀ (s : State) (adr : Fin 128) (pec : Bool) (bs : List Byte),
      s.smbMine adr pec = true → s.hl.sbAwait = false → s.pstate = 0 →
        offOps.contains (fld ((bytesToWords bs).headD 0) 0 16) = true →
        exec (.smbusBlockWrite adr pec bs) s = .next ({ s with hl.sbAwait := true, hl.sbRefused := false })) ∧
  (∀ (s : State) (adr : Fin 128) (pec : Bool),
      s.smbMine adr pec = true →
        exec (.smbusBlockRead adr pec) s = .next (({ s with hl.sbReplies := s.hl.sbReplies.drop 1 } : State).emit
            (.smbus (s.hl.sbReplies.headD [])))) ∧
  (∀ (s : State) (adr : Fin 128) (pec : Bool),
      s.smbMine adr pec = false → exec (.smbusBlockRead adr pec) s = .next (s)) ∧
  (∀ (s : State) (adr : Fin 128) (pec : Bool),
      s.smbMine adr pec = true →
        exec (.smbusReadByte adr pec) s = .next
            (({ s with rdata := word (b2n (s.hl.sbReplies != []) + 2 * b2n s.hl.sbAwait + 4 * b2n s.hl.sbRefused + 8 * b2n (s.pstate == 0)) }
            : State).emit (.smbus (leBytes 1 (b2n (s.hl.sbReplies != []) + 2 * b2n s.hl.sbAwait + 4 * b2n
            s.hl.sbRefused + 8 * b2n (s.pstate == 0)))))) ∧
  (∀ (s : State) (adr : Fin 128) (pec : Bool),
      s.smbMine adr pec = false → exec (.smbusReadByte adr pec) s = .next (s)) ∧
  (∀ (s : State),
      exec (.sidebandFailover) s = .next ({ s with hl.sbHub := 1 })) ∧
  (∀ (s : State),
      s.smbAlert = true →
        exec (.smbusAlertResponse) s = .next (({ s with hl.sbEvent := false } : State).emit (.smbus (leBytes 1 (2 *
            (0x58 + s.pw.smbAddr % 8)))))) ∧
  (∀ (s : State),
      s.smbAlert = false → exec (.smbusAlertResponse) s = .next (s))

/-- The steps of bring-up. A cold start from Off or right after reset with both supplies in range and the ledger ready
begins the hubs, or halts under an asserted PWR_FAIL_N. A hub boots the image its slots' signatures allow, or stays
out; a cold start waits while a hub sensor reads below -20 °C, and a hub out for an update boots the new image. Its
DRAM zeroed, the array rails ramp once no hub waits. A die whose counter copy is within 2 of the hub's joins;
otherwise it is counted, and lost at the third. A die that joined wakes with its boards zeroed. Trims and plane
gains are measured per die, then the map and the scores, then Ready, once its conditions hold. A step whose time has
not come does nothing. The values and conventions that the manual leaves open are the model's choices of log entries
12, 14, 40, 42, 82, 103 and 111. Rules: R307, R384, R491, R507, R518, R520, R522, R523, R524, R525, R528, R545. -/
def Obligations.Bring_up : Prop :=
  (∀ (s : State) (vin vsb : Nat) (refclk : Bool),
      (s.pstate = 0 ∨ (s.pstate = 1 ∧ s.phase = 0)) → 10800 ≤ vin → vin ≤ 13200 → 3135 ≤ vsb → vsb ≤ 3465 →
        s.lg.ready = true → s.pw.failN = false →
        exec (.coldStart vin vsb refclk) s = .next
            ((((({ s with pw.vin := vin, pw.vsb := vsb, pw.bootT0 := s.now, ck.refIn := refclk } : State).setPstate
            1).bootPhase 1).metStart 32).metStart 33)) ∧
  (∀ (s : State) (vin vsb : Nat) (refclk : Bool),
      (s.pstate = 0 ∨ (s.pstate = 1 ∧ s.phase = 0)) → 10800 ≤ vin → vin ≤ 13200 → 3135 ≤ vsb → vsb ≤ 3465 →
        s.lg.ready = true → s.pw.failN = true →
        exec (.coldStart vin vsb refclk) s = .next
            (({ (({ s with pw.vin := vin, pw.vsb := vsb, pw.bootT0 := s.now, ck.refIn := refclk } : State).setPstate 1) with pw.halted := true }
            : State).bootPhase 10)) ∧
  (∀ (s : State) (vin vsb : Nat) (refclk : Bool),
      (vin < 10800 ∨ 13200 < vin ∨ vsb < 3135 ∨ 3465 < vsb ∨ s.lg.ready = false) →
        exec (.coldStart vin vsb refclk) s = .next (s)) ∧
  (∀ (s : State) (h : Hub) (sig0 sig1 : Bool) (slot : Nat),
      s.sv.update ≠ some h.val → s.pstate = 1 → (s.phase = 2 ∨ (s.phase = 1 ∧ s.hubsWarm = true)) →
        s.pw.booted.getD h false = false → s.sv.alive.getD h false = true →
        s.bootChoice h (fun n => if n = 0 then sig0 else sig1) = some slot →
        exec (.secureBoot h sig0 sig1) s = .next ((s.bootReads.bootFrom h slot).hubsDecided)) ∧
  (∀ (s : State) (h : Hub) (sig0 sig1 : Bool),
      s.sv.update ≠ some h.val → s.pstate = 1 → (s.phase = 2 ∨ (s.phase = 1 ∧ s.hubsWarm = true)) →
        s.pw.booted.getD h false = false → s.sv.alive.getD h false = true →
        s.bootChoice h (fun n => if n = 0 then sig0 else sig1) = none →
        exec (.secureBoot h sig0 sig1) s = .next (({ s with sv.alive := s.sv.alive.set h false } :
            State).hubsDecided)) ∧
  (∀ (s : State) (h : Hub) (sig0 sig1 : Bool),
      s.sv.update ≠ some h.val → s.phase = 1 → s.hubsWarm = false → exec (.secureBoot h sig0 sig1) s = .next (s)) ∧
  (∀ (s : State) (h : Hub) (sig0 sig1 : Bool),
      s.sv.update = some h.val → s.pstate ≠ 0 →
        exec (.secureBoot h sig0 sig1) s = .next (s.updateBoot h fun n => if n = 0 then sig0 else sig1)) ∧
  (∀ (s : State) (h : Hub) (sig0 sig1 : Bool),
      s.sv.update ≠ some h.val → (s.pstate ≠ 1 ∨ s.pw.booted.getD h false = true ∨ s.sv.alive.getD h false = false) →
        exec (.secureBoot h sig0 sig1) s = .next (s)) ∧
  (∀ (s : State) (h : Hub),
      s.pstate = 1 → 3 ≤ s.phase → s.phase ≠ 11 → s.pw.booted.getD h false = true → s.ms.ready.getD h false = false →
        ((s.zeroDram h).dramWaits = true ∨ (s.zeroDram h).phase ≠ 3) → exec (.dramZeroDone h) s = .next (s.zeroDram
            h)) ∧
  (∀ (s : State) (h : Hub),
      s.pstate = 1 → 3 ≤ s.phase → s.phase ≠ 11 → s.pw.booted.getD h false = true → s.ms.ready.getD h false = false →
        (s.zeroDram h).dramWaits = false → (s.zeroDram h).phase = 3 →
        exec (.dramZeroDone h) s = .next ((s.zeroDram h).bootPhase 4)) ∧
  (∀ (s : State) (d : Die) (skew : Nat),
      s.pstate = 1 → (s.phase = 4 ∨ s.phase = 5) → s.dieIn d = true → (s.die d).sync = false → skew ≤ 2 →
        exec (.resetHandshake d skew) s = .next ({ ((s.startCounter.bootPhase 5).take 1).setDie d { (s.startCounter.bootPhase 5).die d with on := true, sync := true } with
          ck.copy := mput 0 (((s.startCounter.bootPhase 5).take 1).setDie d { (s.startCounter.bootPhase 5).die d with on := true, sync := true }).ck.copy d
            (if Config.freeBit (s.startCounter.bootPhase 5).fresh = true then (skew : Int) else -(skew : Int)) })) ∧
  (∀ (s : State) (d : Die) (skew : Nat),
      s.pstate = 1 → (s.phase = 4 ∨ s.phase = 5) → s.dieIn d = true → (s.die d).sync = false → 2 < skew →
        (s.die d).skews < 2 →
        exec (.resetHandshake d skew) s = .next ((s.startCounter.bootPhase 5).setDie d
            { (s.startCounter.bootPhase 5).die d with skews := ((s.startCounter.bootPhase 5).die d).skews + 1 })) ∧
  (∀ (s : State) (d : Die) (skew : Nat),
      s.pstate = 1 → (s.phase = 4 ∨ s.phase = 5) → s.dieIn d = true → (s.die d).sync = false → 2 < skew →
        2 ≤ (s.die d).skews →
        exec (.resetHandshake d skew) s = .next (((s.startCounter.bootPhase 5).setDie d
            { (s.startCounter.bootPhase 5).die d with skews := ((s.startCounter.bootPhase 5).die d).skews + 1 }).loseDie
            d)) ∧
  (∀ (s : State) (d : Die) (skew : Nat),
      (s.pstate ≠ 1 ∨ (s.phase ≠ 4 ∧ s.phase ≠ 5) ∨ s.dieIn d = false ∨ (s.die d).sync = true) →
        exec (.resetHandshake d skew) s = .next (s)) ∧
  (∀ (s : State) (d : Die),
      s.pstate = 1 → (s.phase = 5 ∨ s.phase = 6) → s.dieIn d = true → (s.die d).sync = true →
        (s.die d).awake = false → s.diesAll DieRec.sync = true → d.val % 4 ≠ 0 →
        exec (.arrayWake d) s = .next ((((((s.zeroRange (boardBase d 0) 0x10000000).setDie d
            { s.die d with awake := true }).loadPrgSettings d).metStart d).bootPhase 6))) ∧
  (∀ (s : State) (d : Die),
      s.pstate = 1 → (s.phase = 5 ∨ s.phase = 6) → s.dieIn d = true → (s.die d).sync = true →
        (s.die d).awake = false → s.diesAll DieRec.sync = true → d.val % 4 = 0 →
        exec (.arrayWake d) s = .next ((((((stackEnds (d.val / 4)).foldl (fun s k => s.raiseLink k (if k < 18 then k /
            9 else 0)) (s.zeroRange (boardBase d 0) 0x10000000)).setDie d
            { ((stackEnds (d.val / 4)).foldl (fun s k => s.raiseLink k (if k < 18 then k / 9 else 0)) (s.zeroRange (boardBase d 0) 0x10000000)).die d with awake := true }).loadPrgSettings
            d).metStart d).bootPhase 6)) ∧
  (∀ (s : State) (d : Die),
      s.pstate = 1 → s.dieIn d = true → (s.die d).awake = true → (s.die d).trimmed = false →
        (s.met d).selfcal = none → (s.met d).calValid = true → exec (.trimPass d) s = .next
        ((let u := ((s.dieFrames d).foldl State.modeFromRecord s).readSources (s.dieFrames d)
        let v := (s.dieFrames d).foldl (fun (s : State) (k : Nat) => (s.setSource k false 2 true).trimsOn k (((u.2.find? fun e => e.1 == s.fRange k).map (·.2)).getD 0)) u.1
        v.setDie d { v.die d with trimmed := true, trimEnd := v.now }))) ∧
  (∀ (s : State) (d : Die),
      (s.pstate ≠ 1 ∨ (s.die d).awake = false ∨ (s.die d).trimmed = true) → exec (.trimPass d) s = .next (s)) ∧
  (∀ (s : State) (d : Die),
      s.pstate = 1 → s.dieIn d = true → (s.die d).trimmed = true → (s.die d).gained = false → (s.settled d = true ∨
        (s.die d).trimEnd + 3500000000 ≤ s.now) → exec (.planeGainPass d) s = .next
        ((let u := if s.settled d then s else s.bootBit 11; let v := (u.dieFrames d).foldl (fun (s : State) (fk : Nat) => if s.holdsImage fk then (List.range 8).foldl (fun (s : State) (p : Nat) => s.measureGain fk p) s else s) u
        ({ v.setDie d { v.die d with gained := true } with pw.gainT0 := some (v.pw.gainT0.getD v.now) } :
            State).bootPhase 7))) ∧
  (∀ (s : State) (d : Die),
      (s.pstate ≠ 1 ∨ (s.die d).trimmed = false ∨ (s.die d).gained = true) → exec (.planeGainPass d) s = .next (s)) ∧
  (∀ (s : State),
      s.pstate = 1 → 4 ≤ s.phase → s.phase ≤ 7 → s.diesAll DieRec.gained = true → exec (.mapAndScores) s = .next
        ((let u := s.applyMap.restoreScores
        let ms := match u.pw.gainT0 with | some t => (u.now - t) / 1000000 | none => 0
        ({ u with pw.gainT0 := some (hold 0xFFFF ms) } : State).bootPhase 8))) ∧
  (∀ (s : State),
      (s.pstate ≠ 1 ∨ s.phase < 4 ∨ 7 < s.phase ∨ s.diesAll DieRec.gained = false) →
        exec (.mapAndScores) s = .next (s)) ∧
  (∀ (s : State),
      s.pstate = 1 → s.phase = 8 → s.lg.marginAt.isSome = true → s.dramWaits = false → (s.runs 0 = true ∨
        s.runs 1 = true) → exec (.ready) s = .next
        ((let ms := hold 0xFFFF ((s.now - s.pw.bootT0) / 1000000)
        let u := if s.regN (hubBase 0 + 0xB000C) = 0 then s.setBoth 0xB000C (word (ms + s.pw.gainT0.getD 0 * 2 ^ 16)) else s
        let v := (({ u with pw.gainT0 := none, pw.idleSince := none } : State).bootPhase 9).enter 2
        ((List.range 32).foldl State.tellLost v).powerReached 2))) ∧
  (∀ (s : State),
      (s.pstate ≠ 1 ∨ s.phase ≠ 8 ∨ s.lg.marginAt = none ∨ s.dramWaits = true ∨ (s.runs 0 = false ∧
        s.runs 1 = false)) → exec (.ready) s = .next (s))

/-- Heartbeats, the takeover of a failed hub and its restart. A running hub sends a heartbeat over each path that
carries packets. A path without one for 300 µs is counted as missed once, and the third missed path declares the
peer failed, which its survivor takes over, a hub out for an update among them. A fenced hub is restarted once, 1 s
after its takeover: without an image it stays fenced and is logged, with one it is in service again. The values and
conventions that the manual leaves open are the model's choices of log entries 61, 111, 114 and 121. Rules: R484,
R489, R490, R492. -/
def Obligations.Hub_continuity : Prop :=
  (∀ (s : State) (h : Hub),
      s.runs h = true →
        exec (.heartbeatSend h) s = .next (((List.range 3).filter s.beatPath).foldl (fun (s : State) (p : Nat) =>
            ({ s with sv.beat := mput 0 s.sv.beat (4 * (1 - h.val) + p) s.now, sv.missed := s.sv.missed.filter (· != 4 * (1 - h.val) + p) }
            : State).emit (.heartbeat h p)) s)) ∧
  (∀ (s : State) (h : Hub),
      s.runs h = false → exec (.heartbeatSend h) s = .next (s)) ∧
  (∀ (s : State) (h : Hub) (path : Fin 3),
      s.pstate ≠ 0 → s.sv.update = some h.val → mget 0 s.sv.beat (4 * h.val + path.val) + 300000 ≤ s.now →
        s.sv.missed.contains (4 * h.val + path.val) = false →
        ((List.range 3).all fun p => (s.sv.missed ++ [4 * h.val + path.val]).contains (4 * h.val + p)) = true →
        exec (.heartbeatMiss h path) s = .next ((({ s with sv.missed := s.sv.missed ++ [4 * h.val + path.val] } :
            State).bump (svcReg h 0x40) 1).takeover (1 - h.val) true)) ∧
  (∀ (s : State) (h : Hub) (path : Fin 3),
      s.runs h = true → mget 0 s.sv.beat (4 * h.val + path.val) + 300000 ≤ s.now →
        s.sv.missed.contains (4 * h.val + path.val) = false →
        ((List.range 3).all fun p => (s.sv.missed ++ [4 * h.val + path.val]).contains (4 * h.val + p)) = false →
        exec (.heartbeatMiss h path) s = .next ((({ s with sv.missed := s.sv.missed ++ [4 * h.val + path.val] } :
            State).bump (svcReg h 0x40) 1))) ∧
  (∀ (s : State) (h : Hub) (path : Fin 3),
      s.runs h = true → mget 0 s.sv.beat (4 * h.val + path.val) + 300000 ≤ s.now →
        s.sv.missed.contains (4 * h.val + path.val) = false →
        ((List.range 3).all fun p => (s.sv.missed ++ [4 * h.val + path.val]).contains (4 * h.val + p)) = true →
        exec (.heartbeatMiss h path) s = .next ((({ s with sv.missed := s.sv.missed ++ [4 * h.val + path.val] } :
            State).bump (svcReg h 0x40) 1).takeover (1 - h.val) true)) ∧
  (∀ (s : State) (h : Hub) (path : Fin 3),
      ((s.runs h = false ∧ s.sv.update ≠ some h.val) ∨ s.now < mget 0 s.sv.beat (4 * h.val + path.val) + 300000 ∨
        s.sv.missed.contains (4 * h.val + path.val) = true) → exec (.heartbeatMiss h path) s = .next (s)) ∧
  (∀ (s : State) (h : Hub) (sig : Bool) (t0 : Nat),
      s.sv.fenced.getD h false = true → s.sv.restarted = false → s.sv.tookAt = some t0 → t0 + 1000000000 ≤ s.now →
        ({ s with sv.restarted := true } : State).bootChoice h (fun _ => sig) = none →
        exec (.hubRestart h sig) s = .next (({ s with sv.restarted := true } : State).log 0x10E [h.val])) ∧
  (∀ (s : State) (h : Hub) (sig : Bool) (t0 slot : Nat),
      s.sv.fenced.getD h false = true → s.sv.restarted = false → s.sv.tookAt = some t0 → t0 + 1000000000 ≤ s.now →
        ({ s with sv.restarted := true } : State).bootChoice h (fun _ => sig) = some slot →
        exec (.hubRestart h sig) s = .next (
        (let a := (({ s with sv.restarted := true } : State).bootFrom h slot).zeroDram h
         let b := { a with
           ms.chans := a.ms.chans.filter (fun e => e.1 / 16 != h.val), sv.alive := a.sv.alive.set h true,
           sv.fenced := a.sv.fenced.set h false, sv.owner := none, sv.missed := a.sv.missed.filter fun k => k / 4 != h.val,
           sv.beat := (List.range 3).foldl (fun m p => mput 0 m (4 * h.val + p) a.now) a.sv.beat }
         let c := (hubEnds h).foldl (fun (u : State) (k : Nat) => if u.disabled (mapLink (linkNo k)) = true then u
           else { u.linkUp k with fb.routes := mput 0 u.fb.routes (linkNo k) 0 }) b
         (c.markTakeover h).metStart (32 + h)))) ∧
  (∀ (s : State) (h : Hub) (sig : Bool),
      (s.sv.fenced.getD h false = false ∨ s.sv.restarted = true ∨ s.sv.tookAt = none) →
        exec (.hubRestart h sig) s = .next (s))

/-- Ring admission, launch, step starts, completions and replay. The ring whose turn it is has its oldest descriptor
admitted, or completed with the status of the check it fails; without one nothing happens. An admitted job whose
turn and launch time have come stages its input and issues its first step; a running one issues its next; an epoch
ignored for 2 s is forced. A job whose steps have all ended sends its result and completes, one at an output point
sends what it has; a result that cannot be read fails the job. A replay injects its next record at its time and ends
with the last. The values and conventions that the manual leaves open are the model's choices of log entries 32, 33,
34, 37 and 113. Rules: R132, R260, R262, R263, R337, R338, R340, R343, R375, R385, R397, R398. -/
def Obligations.Job_engine : Prop :=
  (∀ (s : State) (h : Hub) (g used jn : Nat) (x : Job),
      s.pstate = 2 → s.pw.failN = false → s.turnRing h = some (g, used) →
        ({ s with wk.turn := s.wk.turn.set h g, wk.deficit := mput 0 s.wk.deficit h used } : State).admissible g =
            some jn →
        ({ s with wk.turn := s.wk.turn.set h g, wk.deficit := mput 0 s.wk.deficit h used } : State).job jn = some x →
        ({ s with wk.turn := s.wk.turn.set h g, wk.deficit := mput 0 s.wk.deficit h used } : State).admitCode x = 0 →
        exec (.ringAdmission h) s = .next
            (({ s with wk.turn := s.wk.turn.set h g, wk.deficit := mput 0 s.wk.deficit h used } : State).admitJob jn
            x)) ∧
  (∀ (s : State) (h : Hub) (g used jn : Nat) (x : Job),
      s.pstate = 2 → s.pw.failN = false → s.turnRing h = some (g, used) →
        ({ s with wk.turn := s.wk.turn.set h g, wk.deficit := mput 0 s.wk.deficit h used } : State).admissible g =
            some jn →
        ({ s with wk.turn := s.wk.turn.set h g, wk.deficit := mput 0 s.wk.deficit h used } : State).job jn = some x →
        ({ s with wk.turn := s.wk.turn.set h g, wk.deficit := mput 0 s.wk.deficit h used } : State).admitCode x ≠ 0 →
        exec (.ringAdmission h) s = .next
            (({ s with wk.turn := s.wk.turn.set h g, wk.deficit := mput 0 s.wk.deficit h used } : State).complete jn
            (({ s with wk.turn := s.wk.turn.set h g, wk.deficit := mput 0 s.wk.deficit h used } : State).admitCode
            x))) ∧
  (∀ (s : State) (h : Hub),
      s.turnRing h = none → exec (.ringAdmission h) s = .next (s)) ∧
  (∀ (s : State) (j : Nat) (x : Job),
      s.job j = some x → x.st = .admitted → s.mayIssue x = true → s.ringTurn j x = true → s.historiesIdle j x = true →
        (x.flags / 2 % 2 = 0 ∨ x.launch ≤ s.ck.rk) → exec (.jobLaunch j) s = .next
        ((let v := (s.stage x).resetCtx ((s.stage x).ringScore x.ring) ((s.stage x).ring x.ring).ctx true; v.issueStep j { x with st := .running, started := true, rkStart := v.ck.rk, launchRk := v.ck.rk }))) ∧
  (∀ (s : State) (j : Nat) (x : Job),
      s.job j = some x → (x.st ≠ .admitted ∨ s.mayIssue x = false ∨ s.ringTurn j x = false ∨
        s.historiesIdle j x = false ∨ (x.flags / 2 % 2 = 1 ∧ s.ck.rk < x.launch)) → exec (.jobLaunch j) s = .next (s))
            ∧
  (∀ (s : State) (j : Nat) (x : Job),
      s.job j = some x → x.st = .running → x.next < x.nsteps → x.failedAt = false → s.mayIssue x = true →
        exec (.stepStartIssue j) s = .next (s.issueStep j x)) ∧
  (∀ (s : State) (j : Nat) (x : Job),
      s.job j = some x → (x.st ≠ .running ∨ x.nsteps ≤ x.next ∨ x.failedAt = true ∨ s.mayIssue x = false) →
        exec (.stepStartIssue j) s = .next (s)) ∧
  (∀ (s : State) (j : Nat) (x : Job),
      s.job j = some x → x.st = .running → x.next < x.nsteps → x.force = false →
        (s.score (s.ringScore x.ring)).epoch ≠ x.epoch → x.lastCal + 2000000000 ≤ s.now →
        exec (.calForcedTimeout j) s = .next (s.setJob j (some { x with force := true, calForced := true }))) ∧
  (∀ (s : State) (j : Nat) (x : Job),
      s.job j = some x → (x.force = true ∨ (s.score (s.ringScore x.ring)).epoch = x.epoch ∨
        s.now < x.lastCal + 2000000000) → exec (.calForcedTimeout j) s = .next (s)) ∧
  (∀ (s : State) (j : Nat) (x : Job) (v : State) (ds : List (List Byte × Nat × List Byte)),
      s.job j = some x → x.st = .running → x.failedAt = false → x.nsteps ≤ x.next → x.outDue = [] →
        ((List.range x.nsteps).all (s.stepEnded x)) = true →
        s.sendResult x (sentSteps (s.score (s.ringScore x.ring)).file.man x) x.nsteps = some (v, ds) →
        exec (.finalCompletion j) s = .next (v.complete j 0 ds)) ∧
  (∀ (s : State) (j : Nat) (x : Job),
      s.job j = some x → x.st = .running → x.failedAt = false → x.nsteps ≤ x.next → x.outDue = [] →
        ((List.range x.nsteps).all (s.stepEnded x)) = true →
        s.sendResult x (sentSteps (s.score (s.ringScore x.ring)).file.man x) x.nsteps = none →
        exec (.finalCompletion j) s = .next (s.failJob j 0x0503)) ∧
  (∀ (s : State) (j : Nat) (x : Job),
      s.job j = some x → (x.st ≠ .running ∨ x.failedAt = true ∨ x.next < x.nsteps ∨ x.outDue ≠ []) →
        exec (.finalCompletion j) s = .next (s)) ∧
  (∀ (s : State) (j : Nat) (x : Job) (e : Nat) (q : List Nat) (v : State) (ds : List (List Byte × Nat × List Byte)),
      s.job j = some x → x.outDue = e :: q → x.st = .running → x.failedAt = false →
        s.stepEnded x (e / 2 ^ 32) = true →
        s.sendResult x (sentSteps (s.score (s.ringScore x.ring)).file.man x) (e / 2 ^ 32 + 1) = some (v, ds) →
        exec (.intermediateCompletion j) s = .next (v.formCompl j { x with outDue := q } 0 (if x.counts.strokes = 0
            then 0 else e % 2 ^ 32) false ds)) ∧
  (∀ (s : State) (j : Nat) (x : Job),
      s.job j = some x → x.outDue = [] → exec (.intermediateCompletion j) s = .next (s)) ∧
  (∀ (s : State) (g : Fin 4096),
      (s.ring g).replay = none → exec (.replayInject g) s = .next (s)) ∧
  (∀ (s : State) (g : Fin 4096),
      (s.ring g).replay = some [] → exec (.replayInject g) s = .next (s.settleReplay g)) ∧
  (∀ (s : State) (g : Fin 4096) (n : Nat) (q : List Nat) (v : Nat × List Byte) (k : Nat),
      (s.ring g).replay = some (n :: q) → (s.sv.journal.recs.find? fun v => v.1 == n) = some v → s.pstate = 2 →
        (s.ring g).replayBase + (leAt v.2 24 8 - (s.ring g).replayA0) ≤ s.ck.rk → s.held g < s.ringDepth g →
        s.freeHandles (ringHub g) 2 = some k → exec (.replayInject g) s = .next
        ((let u := s.replayHandles g n v.2 k
        let w := u.setRing g { u.ring g with replay := some q, jseq := leAt v.2 96 8 }
        (w.acceptDesc 0 (s.replayDesc g v.2 k)).modJob w.wk.nextJob fun j => { j with replayed := true }))) ∧
  (∀ (s : State) (g : Fin 4096) (n : Nat) (q : List Nat) (v : Nat × List Byte),
      (s.ring g).replay = some (n :: q) → (s.sv.journal.recs.find? fun v => v.1 == n) = some v → s.pstate = 2 →
        (s.ring g).replayBase + (leAt v.2 24 8 - (s.ring g).replayA0) ≤ s.ck.rk → s.held g < s.ringDepth g →
        s.freeHandles (ringHub g) 2 = none → exec (.replayInject g) s = .next (s)) ∧
  (∀ (s : State) (g : Fin 4096) (n : Nat) (q : List Nat) (v : Nat × List Byte),
      (s.ring g).replay = some (n :: q) → (s.sv.journal.recs.find? fun v => v.1 == n) = some v → (s.pstate ≠ 2 ∨
        s.ck.rk < (s.ring g).replayBase + (leAt v.2 24 8 - (s.ring g).replayA0) ∨ s.ringDepth g ≤ s.held g) →
        exec (.replayInject g) s = .next (s)) ∧
  (∀ (s : State) (g : Fin 4096) (n : Nat) (q : List Nat),
      (s.ring g).replay = some (n :: q) → (s.sv.journal.recs.find? fun v => v.1 == n) = none →
        exec (.replayInject g) s = .next (s.setRing g { s.ring g with replay := some q }))

/-- Reads and writes of registers by the host, by Porell's packets and by special addresses. A read of a tally slot's
low word answers it and latches the rest into the high word. A read of a clear-on-read counter answers and clears
it; another register is left alone. An activation-table write takes effect at once where no unfinished instruction
uses the table, and otherwise waits. A register write or a sound register packet reaches a register whose unit has
power, by its access class, and is discarded or answered 0 where it has none. The values and conventions that the
manual leaves open are the model's choices of log entries 5, 86, 87 and 119. Rules: R13, R14, R73, R226, R245, R314,
R317. -/
def Obligations.Register_access : Prop :=
  (∀ (s : State) (d : Die) (b : Brd) (n : Fin 2048),
      exec (.tlySlotLoRead d b n) s = .next ({ s.setReg (bkBase (boardKey d b) + 0x48004 + 8 * n) (word (pattern 40 (mget 0 (s.board (boardKey d b)).tally n) / 2 ^ 32 + (match mget none (s.board (boardKey d b)).tags n with | some e => pattern 7 e * 256 + 32768 | none => 0))) with rdata := word (pattern 40 (mget 0 (s.board (boardKey d b)).tally n)) })) ∧
  (∀ (s : State) (a : Nat) (i : RegInfo),
      regAt a = some i → i.cls = .rc → exec (.counterReadClear a) s = .next (s.readClear a)) ∧
  (∀ (s : State) (a : Nat) (i : RegInfo),
      regAt a = some i → i.cls ≠ .rc → exec (.counterReadClear a) s = .next (s)) ∧
  (∀ (s : State) (a : Nat),
      regAt a = none → exec (.counterReadClear a) s = .next (s)) ∧
  (∀ (s : State) (d : Die) (b : Brd) (t : Fin 8) (k : Fin 256) (w : Word),
      s.actBusy (boardKey d b) t = false →
        exec (.drnActWrite d b t k w) s = .next (s.setAct (boardKey d b) (0x42000 + 1024 * t + 4 * k) w)) ∧
  (∀ (s : State) (d : Die) (b : Brd) (t : Fin 8) (k : Fin 256) (w : Word),
      s.actBusy (boardKey d b) t = true →
        exec (.drnActWrite d b t k w) s = .next (s.setBoard (boardKey d b)
            { s.board (boardKey d b) with actPend := (s.board (boardKey d b)).actPend ++ [(0x42000 + 1024 * t.val + 4 * k.val, w)] }))
            ∧
  (∀ (s : State) (a : RegAt) (w : Word),
      s.reachable a.addr = true → exec (.registerWrite a w) s = .next (s.writeAt (a.addr / 4 * 4) w a.seq)) ∧
  (∀ (s : State) (a : RegAt) (w : Word),
      s.reachable a.addr = false → exec (.registerWrite a w) s = .next (s)) ∧
  (∀ (s : State) (p : Pkt) (wr : Bool) (a : Nat),
      s.outOfTurn p = false → s.unroutable p = false → badPkt p = false → (s.arrive p).reachable a = true →
        wr = true → exec (.regPacket p wr a) s = .next ((s.arrive p).writeAt (a / 4 * 4) (word (leAt p.payload 0 4))))
            ∧
  (∀ (s : State) (p : Pkt) (wr : Bool) (a : Nat),
      s.outOfTurn p = false → s.unroutable p = false → badPkt p = false → (s.arrive p).reachable a = true →
        wr = false → exec (.regPacket p wr a) s = .next ((s.arrive p).readAt (a / 4 * 4))) ∧
  (∀ (s : State) (p : Pkt) (wr : Bool) (a : Nat),
      s.outOfTurn p = false → s.unroutable p = false → badPkt p = false → (s.arrive p).reachable a = false →
        wr = true → p.dstNode < 32 → p.member.getD p.dstBoard < 192 →
        exec (.regPacket p wr a) s = .next ((s.arrive p).bump (bkBase (pktDst p) + 0x46088) 1)) ∧
  (∀ (s : State) (p : Pkt) (wr : Bool) (a : Nat),
      s.outOfTurn p = false → s.unroutable p = false → badPkt p = false → (s.arrive p).reachable a = false →
        wr = false → 32 ≤ p.dstNode → exec (.regPacket p wr a) s = .next ({ s.arrive p with rdata := 0 })) ∧
  (∀ (s : State) (p : Pkt) (wr : Bool) (a : Nat),
      s.outOfTurn p = false → s.unroutable p = false → badPkt p = true →
        exec (.regPacket p wr a) s = .next ((s.arrive p).poisoned p))

/-- A step carries out the command at the front of the queue. With a command at the front of the queue, a step is that
command on the state with the rest of the queue. The values and conventions that the manual leaves open are the
model's choices of log entry 1. Rules: R361. -/
def Obligations.Front_command_is_executed : Prop :=
  ∀ (i : Instr) (q : List Instr) (s : State), step { s with pending := i :: q } = exec i { s with pending := q }

/-- A step on an empty queue is one nanosecond. On an empty queue a step answers a next state in which one nanosecond
has passed, the queue is empty and, where no step start is held or none may go out (outside Ready and on the way to
Dormant, R435), memory, beads, side stores, frames, boards, the committed registers, the event log and what the
module has sent are as before. That time passes in this place is the model's choice (log entry 2). The values and
conventions that the manual leaves open are the model's choices of log entry 2. Rules: R5, R6, R435. -/
def Obligations.Empty_queue_lets_time_pass : Prop :=
  ∀ s : State, s.pending = [] → ∃ t, step s = .next t ∧ t.now = s.now + 1 ∧ t.pending = [] ∧
      ((s.fb.later = [] ∨ s.pstate ≠ 2 ∨ s.pw.entering = some 4) → t.mem = s.mem ∧
        t.beads = s.beads ∧ t.side = s.side ∧ t.frames = s.frames ∧ t.boards = s.boards ∧ t.live = s.live ∧
        t.evlog = s.evlog ∧ t.sent = s.sent)

/-- Commands leave the queue in the order in which they came. A command that is carried out leaves the queue as it is,
so that a step on a queue removes its front command and nothing else, and n steps on a queue of at least n commands
remove its first n. The values and conventions that the manual leaves open are the model's choices of log entry 1.
Rules: R361. -/
def Obligations.Queue_is_first_in_first_out : Prop :=
  (∀ (i : Instr) (s t : State), exec i s = .next t → t.pending = s.pending) ∧
    (∀ (n : Nat) (s t : State), n ≤ s.pending.length → s.runN n = some t → t.pending = s.pending.drop n)

/-- Every command and every step answers a next state. No command and no step ends in a fault or a refusal: a command
that the spec turns away, or whose conditions are unmet, answers a next state too. Rules: R22, R366. -/
def Obligations.Every_command_completes : Prop :=
  (∀ (i : Instr) (s : State), ∃ t, exec i s = .next t) ∧ (∀ s : State, ∃ t, step s = .next t) ∧
    (∀ (n : Nat) (s : State), ∃ t, s.runN n = some t)

/-- Every step keeps the memory, register and bead maps in canonical form. In every state whose memory, registers,
committed registers and bead levels list strictly rising keys and no entry equal to its reset value, a step that
answers a next state leaves them so. Equal contents are then equal data in every state a run reaches. The values and
conventions that the manual leaves open are the model's choices of log entry 3. Rules: R314, R12, R74. -/
def Obligations.Steps_keep_the_canonical_form : Prop :=
  ∀ s t : State, s.wf = true → step s = .next t → t.wf = true

/-- The state after reset is in canonical form. Right after reset the maps are in canonical form, nothing is queued, and
memory lists nothing. The values and conventions that the manual leaves open are the model's choices of log entries
3 and 6. Rules: R519, R314. -/
def Obligations.Reset_is_canonical : Prop :=
  State.reset.wf = true ∧ State.reset.pending = [] ∧ State.reset.mem = []

/-- A command changes no part of the state beside those named for it. Whenever a command answers a next state, every
part of the state that Instr.changes does not list for it, and the queue, is as before: the ledger under a command
that writes no ledger entry, the beads and side stores under every command but those that program them, memory, the
committed registers, the boards, the frames, the clock, the metrology units, thermal control and the links likewise.
In particular every byte of memory reads as before under a command that is not listed to change memory. Rules: R67,
R73, R107, R304, R459. -/
def Obligations.Commands_change_only_their_parts : Prop :=
  (∀ (i : Instr) (s t : State) (p : Part), exec i s = .next t → p ∉ Instr.changes i → State.same p s t) ∧
    (∀ (i : Instr) (s t : State), exec i s = .next t → t.pending = s.pending) ∧
    (∀ (i : Instr) (s t : State) (a : Nat), exec i s = .next t → Part.mem ∉ Instr.changes i → t.byte a = s.byte a)

/-- A command message that fails a check is answered with its code and does nothing else. Every command message whose
word count, reserved bits, role, sideband rights, SERVICE_EN, power state or pending allowance fails is acknowledged
with the code of the first failing check, and has no other effect than the acknowledgement and its reply. The values
and conventions that the manual leaves open are the model's choices of log entry 36. Rules: R363, R365, R366, R372. -/
def Obligations.Commands_that_fail_a_check_have_no_effect : Prop :=
  ∀ (i : Instr) (r : Req) (c : Cmd) (s : State), commandOf i = some (r, c) → s.cmdCheck c r ≠ 0 →
      exec i s = .next (s.answer r (s.cmdCheck c r) [])

/-- Registers hold the reset values of their tables. A read after reset gives, in every frame of every board of every
die: the position in FRM_ID, and in FRM_MODE, FRM_SLEW, FRM_RETRY, FRM_CHK_TOL, FRM_CONF, FRM_HR, FRM_GAIN,
FRM_PRG_WIN and FRM_PRG_PULSE the reset values of their tables; in every board those of SEQ_WDOG, DRN_PROG_CTL and
DRN_PROG_CLAMP; in every port those of SPM_PORT_CFG and SPM_ETH_CFG. The FRM_MODE in force is that of the shadow
copy. The values and conventions that the manual leaves open are the model's choices of log entry 5. Rules: R12,
R42, R519. -/
def Obligations.Reset_register_values : Prop :=
  ∀ (d : Die) (b : Brd) (f : Sys2Proof.Frm) (n : Fin 8) (h : Hub), let rd := fun x => (State.reset.readAt x).rdata
      let a := fkBase (frameKey d b f)
      let g := bkBase (boardKey d b)
      rd a = word (f.val + b.val * 2 ^ 8 + d.val * 2 ^ 16) ∧ rd (a + 0x10) = 0x355 ∧
        State.reset.liveReg (a + 0x10) = 0x355 ∧
      rd (a + 0x18) = 0x20 ∧ rd (a + 0x1C) = 3 ∧ rd (a + 0x20) = 0x40 ∧ rd (a + 0x24) = 0x410 ∧
      rd (a + 0x28) = 0xF0 ∧ rd (a + 0x2C) = 0x010622D1 ∧ rd (a + 0x10C) = 0x000C0508 ∧
      rd (a + 0x110) = 0x15856478 ∧ rd (g + 0x40014) = 0x2710 ∧
      rd (g + 0x41000 + 16 * n) = 0x0000E001 ∧ rd (g + 0x41004 + 16 * n) = 0x7F80FF80 ∧
      rd (spm h 0) = 0x00500074 ∧ rd (spm h 4) = 0x1E2888B5

/-- A message sent through a mailbox is read and acknowledged at the other end. Five queued commands - a word written,
the doorbell, the read at the other end, the acknowledgement and its read - leave the word in the reader's data and
the acknowledgement's code with its valid bit in the sender's, whatever the word and the code, wherever the sender
is a party of its end that may use it, nothing is outstanding and the receiving domain is up. The values and
conventions that the manual leaves open are the model's choices of log entries 1 and 5. Rules: R352, R353, R354,
R13. -/
def Obligations.Mailbox_round_trip : Prop :=
  ∀ (s : State) (h : Hub) (n : Fin 8) (e o : Fin 2) (p : Party) (w a : Word) (q : List Instr), o.val = 1 - e.val →
      mbOwn n e p = true → s.mbMay h n e p = true → s.domain h n o = .up → (s.mbxEnd (mbKey h n e)).busy = false →
      (s.mbxEnd (mbKey h n e)).ovf = false → (s.mbxEnd (mbKey h n e)).send = [] →
      s.pending = [.mbxTxdWrite h n e p w, .mbxDbRing h n e p, .mbxRxdRead h n o, .mbxAckWrite h n o a,
        .mbxAckinRead h n e] ++ q →
      ∃ t u, s.runN 3 = some t ∧ t.rdata = w ∧ s.runN 5 = some u ∧
        u.rdata = word (a.toNat % 2 ^ 16 + 2 ^ 16) ∧ u.pending = q ∧ u.mem = s.mem ∧ u.frames = s.frames ∧
          u.boards = s.boards

/-- A 4-bit input code enters the row driver as the 8-bit code of sixteen times its value. For every row of a 4-bit
input vector and every attenuation step 0 to 3: an A4U code is its pattern, 0 to 15, an A4S code its pattern in
two's complement, -8 to 7, and the row's drive level is the one an 8-bit input gives sixteen times the code, which
is 0 to 240 and -128 to 112. Rules: R35. -/
def Obligations.Four_bit_input_codes : Prop :=
  ∀ (x : DriveIn) (i k : Nat) (bip : Bool), x.a4 = true → i < x.nrow → k ≤ 3 →
      level true bip k (x.code i) = level false bip k (16 * x.code i) ∧
      ((if x.turn ≠ 0 then x.sgn else x.bip i) = false → x.code i = (x.codes.getD i 0 % 16 : Nat) ∧
        0 ≤ 16 * x.code i ∧ 16 * x.code i ≤ 240) ∧
      ((if x.turn ≠ 0 then x.sgn else x.bip i) = true →
        x.code i = (if x.codes.getD i 0 % 16 < 8 then (x.codes.getD i 0 % 16 : Nat) else (x.codes.getD i 0 % 16 : Nat)
            - 16 : Int) ∧
        -128 ≤ 16 * x.code i ∧ 16 * x.code i ≤ 112)

/-- A commit of a reserved encoding raises CONFIG and changes no configuration. On a frame with no stroke in hand, a
commit whose shadow copies hold a reserved encoding - FRM_MODE.fs = 3, FRM_MODE.hr = 3, FRM_SLEW.step = 0 or
FRM_HR.margin below 128 - leaves every committed register and every register as it was, and the frame faulted, with
CONFIG where no earlier fault stands; any other commit puts all seven shadow copies in force and raises no fault. A
snapshot taken during a stroke is treated the same at the boundary. Rules: R72. -/
def Obligations.Reserved_encodings_are_refused_whole : Prop :=
  (∀ (s : State) (d : Die) (b : Brd) (f : Sys2Proof.Frm), s.strokeInHand (frameKey d b f) = false →
    (fld (s.reg (fkBase (frameKey d b f) + 0x10)) 4 2 = 3 ∨ fld (s.reg (fkBase (frameKey d b f) + 0x10)) 6 2 = 3 ∨
        fld (s.reg (fkBase (frameKey d b f) + 0x18)) 0 8 = 0 ∨
          fld (s.reg (fkBase (frameKey d b f) + 0x28)) 0 8 < 128) →
      ∃ t, exec (.frmCommit d b f) s = .next t ∧ t.live = s.live ∧ t.regs = s.regs ∧
        (t.frame (frameKey d b f)).fault = true ∧
        (t.frame (frameKey d b f)).faultCode = (if (s.frame (frameKey d b f)).fault then (s.frame (frameKey d b
            f)).faultCode else 1) ∧
        (t.frame (frameKey d b f)).snap = none) ∧
    (∀ (s : State) (d : Die) (b : Brd) (f : Sys2Proof.Frm), s.strokeInHand (frameKey d b f) = false →
      ¬(fld (s.reg (fkBase (frameKey d b f) + 0x10)) 4 2 = 3 ∨ fld (s.reg (fkBase (frameKey d b f) + 0x10)) 6 2 = 3 ∨
        fld (s.reg (fkBase (frameKey d b f) + 0x18)) 0 8 = 0 ∨
          fld (s.reg (fkBase (frameKey d b f) + 0x28)) 0 8 < 128) →
      ∃ t, exec (.frmCommit d b f) s = .next t ∧
        (∀ o ∈ snapRegs, t.liveReg (fkBase (frameKey d b f) + o) = s.reg (fkBase (frameKey d b f) + o)) ∧
        (t.frame (frameKey d b f)).fault = (s.frame (frameKey d b f)).fault ∧
          (t.frame (frameKey d b f)).snap = none) ∧
    (∀ (s : State) (d : Die) (b : Brd) (f : Sys2Proof.Frm) (ws : List Word), s.strokeInHand (frameKey d b f) = false →
      (s.frame (frameKey d b f)).snap = some ws →
      (fld (ws.getD 0 0) 4 2 = 3 ∨ fld (ws.getD 0 0) 6 2 = 3 ∨ fld (ws.getD 2 0) 0 8 = 0 ∨
        fld (ws.getD 6 0) 0 8 < 128) →
      ∃ t, exec (.commitApply d b f) s = .next t ∧ t.live = s.live ∧ t.regs = s.regs ∧
        (t.frame (frameKey d b f)).fault = true ∧ (t.frame (frameKey d b f)).snap = none)

/-- The receiver reads oldest first and may acknowledge with words unread. MBX_RXD gives the oldest unread word and
leaves the later ones; writing a 16-bit code to MBX_ACK, at any time after delivery and with any number of words
unread, discards the unread words, clears the sender's tx_busy and posts the code with its valid bit to the sender's
MBX_ACKIN, whose next read gives both. Rules: R353. -/
def Obligations.Mailbox_acknowledgement : Prop :=
  (∀ (s : State) (h : Hub) (n : Fin 8) (e : Fin 2) (w : Word) (ws : List Word),
      (s.mbxEnd (mbKey h n e)).recv = some (w :: ws) →
      ∃ t, exec (.mbxRxdRead h n e) s = .next t ∧ t.rdata = w ∧ (t.mbxEnd (mbKey h n e)).recv = some ws) ∧
    (∀ (s : State) (h : Hub) (n : Fin 8) (e o : Fin 2) (a : Word) (ws : List Word), o.val = 1 - e.val →
      (s.mbxEnd (mbKey h n e)).recv = some ws →
      ∃ t u, exec (.mbxAckWrite h n e a) s = .next t ∧ (t.mbxEnd (mbKey h n e)).recv = none ∧
        (t.mbxEnd (mbKey h n o)).busy = false ∧ (t.mbxEnd (mbKey h n o)).code = a.toNat % 2 ^ 16 ∧
        (t.mbxEnd (mbKey h n o)).valid = true ∧ exec (.mbxAckinRead h n o) t = .next u ∧
        u.rdata = word (a.toNat % 2 ^ 16 + 2 ^ 16))

/-- A port without an IPv4 address answers neither ARP nor UDP, and counts fragments. On a port whose SPM_IP_ADDR is 0,
a frame within the frame limit that passes the check sequence, the VLAN rule and MACsec changes nothing but the
packet number where it carries ARP or UDP, whatever address or port number it names, so that nothing is answered;
where it carries an IPv4 fragment it changes, beside the packet number, only SPM_CNT_VIOL of that port, which counts
it, so that no NAK follows. An unprotected ARP frame passes too and changes nothing. Rules: R323. -/
def Obligations.Port_without_an_address : Prop :=
  (∀ (s : State) (h : Hub) (vid : Option Nat) (len mac tgt : Nat), (s.sv.alive.getD h.val false && s.pw.booted.getD
      h.val false) = true →
    s.pstate ≠ 0 → s.regN (spm h 8) = 0 → s.vlanOk h vid = true → len ≤ s.frameLimit h.val vid.isSome →
      exec (.ethernetFrameRx { port := h, len := len, fcsOk := true, vid := vid, sec := none, mac := mac, kind := .arp tgt })
          s = .next s) ∧
    (∀ (s : State) (h : Hub) (vid : Option Nat) (len mac pn : Nat) (k : EthKind), (s.sv.alive.getD h.val false &&
        s.pw.booted.getD h.val false) = true →
      s.pstate ≠ 0 → s.regN (spm h 8) = 0 → s.vlanOk h vid = true → len ≤ s.frameLimit h.val vid.isSome →
      (s.port h).secured = true →
      ((∃ a, k = .arp a) ∨ ∃ a b c bs, k = .udp a b c bs) →
      exec (.ethernetFrameRx { port := h, len := len, fcsOk := true, vid := vid, sec := some (pn, true), mac := mac, kind := k })
          s =
        .next (s.setPort h { s.port h with pn := max (s.port h).pn pn })) ∧
    (∀ (s : State) (h : Hub) (vid : Option Nat) (len mac pn : Nat), (s.sv.alive.getD h.val false && s.pw.booted.getD
        h.val false) = true →
      s.pstate ≠ 0 → s.regN (spm h 8) = 0 → s.vlanOk h vid = true → len ≤ s.frameLimit h.val vid.isSome →
      (s.port h).secured = true →
      exec (.ethernetFrameRx { port := h, len := len, fcsOk := true, vid := vid, sec := some (pn, true), mac := mac, kind := .fragment })
          s =
        .next ((s.setPort h { s.port h with pn := max (s.port h).pn pn }).bump (spm h 0x50) 1))

/-- Three failed SEC_AUTH of a session within 60 s block its challenges for 60 s. A SEC_AUTH that fails one of the
checks of R502 records its time; with two earlier failures of the same session less than 60 s old it blocks the
session's challenges until 60 s have passed, with fewer it leaves the block as it was, and either way every other
session is as before. A SEC_CHALLENGE of a blocked session is refused with 0x0604 and grants nothing; one that
arrives when the block has passed is granted a challenge. Rules: R503. -/
def Obligations.Three_failed_authentications_block_challenges : Prop :=
  (∀ (s : State) (r : Req) (sig : Bool) (h : Hub) (n : Fin 16) (bs : List Byte), r.src = .session h n →
    Instr.admitted (.secAuth r sig) s → 1 ≤ argw r 1 → argw r 1 ≤ 2 →
      s.object (argw r 2) = .ok bs → bs.length = 4627 → s.authCode (sessKey h n) (argw r 1) sig ≠ 0 →
      ∃ t, exec (.secAuth r sig) s = .next t ∧
        (t.sess (sessKey h n)).fails = ((s.sess (sessKey h n)).fails.filter fun x => decide (s.now < x + 60000000000))
            ++ [s.now] ∧
        (t.sess (sessKey h n)).chalBlock =
          (if 2 ≤ ((s.sess (sessKey h n)).fails.filter fun x => decide (s.now < x + 60000000000)).length then
            s.now + 60000000000 else (s.sess (sessKey h n)).chalBlock) ∧
        ∀ j, j ≠ sessKey h n → t.sess j = s.sess j) ∧
    (∀ (s : State) (r : Req) (h : Hub) (n : Fin 16), r.src = .session h n → Instr.admitted (.secChallenge r) s →
      1 ≤ argw r 1 → argw r 1 ≤ 2 → s.now < (s.sess (sessKey h n)).chalBlock →
      exec (.secChallenge r) s = .next ((s.answer r 0x0604 []).bump (secReg h 0x48) 1)) ∧
    (∀ (s : State) (r : Req) (h : Hub) (n : Fin 16), r.src = .session h n → Instr.admitted (.secChallenge r) s →
      1 ≤ argw r 1 → argw r 1 ≤ 2 → (s.sess (sessKey h n)).chalBlock ≤ s.now →
      ∃ t, exec (.secChallenge r) s = .next t ∧ (t.sess (sessKey h n)).chal =
        some (argw r 1, Config.nonce s.fresh % 2 ^ 128, s.now) ∧ ∀ j, j ≠ sessKey h n → t.sess j = s.sess j)
end

