-- ==== Sys2Proof/Laws/Maps.lean ====
section
/-! SUPPORT. Sparse maps: what a write leaves at its key and at every other, and that writes keep the canonical form. -/

set_option Elab.async false

namespace Sys2Proof.Machine

variable {β : Type}

theorem mget_nil (d : β) (k : Nat) : mget d [] k = d := rfl

@[simp] theorem mget_mins_same (d : β) (m : SMap β) (k : Nat) (v : β) : mget d (mins m k v) k = v := by
  induction m with
  | nil => simp [mins, mget]
  | cons e m ih =>
    obtain ⟨a, w⟩ := e
    simp only [mins]
    split
    · simp [mget]
    · split
      · simp [mget]
      · rename_i h; simp [mget, h, ih]

theorem mget_mins_ne (d : β) (m : SMap β) (k j : Nat) (v : β) (h : j ≠ k) : mget d (mins m k v) j = mget d m j := by
  induction m with
  | nil => simp [mins, mget, h.symm]
  | cons e m ih =>
    obtain ⟨a, w⟩ := e
    simp only [mins]
    split
    · simp [mget, h.symm]
    · split
      · rename_i hk; subst hk; simp [mget, h.symm]
      · simp [mget, ih]

/-- A key below every listed one reads as the default. -/
theorem mget_below (d : β) (m : SMap β) (lo k : Nat) (hm : mrising lo m = true) (hk : k < lo) : mget d m k = d := by
  induction m generalizing lo with
  | nil => rfl
  | cons e m ih =>
    obtain ⟨a, w⟩ := e
    simp only [mrising, Bool.and_eq_true, decide_eq_true_eq] at hm
    rw [mget, if_neg (by omega)]
    exact ih (a + 1) hm.2 (by omega)

theorem mget_mdel_ne (d : β) (m : SMap β) (k j : Nat) (h : j ≠ k) : mget d (mdel m k) j = mget d m j := by
  induction m with
  | nil => rfl
  | cons e m ih =>
    obtain ⟨a, w⟩ := e
    simp only [mdel]
    split
    · rename_i ha; subst ha; simp [mget, h.symm, ih]
    · simp [mget, ih]

@[simp] theorem mget_mdel_same (d : β) (m : SMap β) (k : Nat) : mget d (mdel m k) k = d := by
  induction m with
  | nil => rfl
  | cons e m ih =>
    obtain ⟨a, w⟩ := e
    simp only [mdel]
    split
    · exact ih
    · rename_i ha; simp [mget, ha, ih]

theorem mrising_mono (m : SMap β) (lo lo' : Nat) (h : lo' ≤ lo) (hm : mrising lo m = true) : mrising lo' m = true := by
  cases m with
  | nil => rfl
  | cons e m =>
    obtain ⟨a, w⟩ := e
    simp only [mrising, Bool.and_eq_true, decide_eq_true_eq] at hm ⊢
    exact ⟨by omega, hm.2⟩

theorem mrising_mins (m : SMap β) (lo k : Nat) (v : β) (hk : lo ≤ k) (hm : mrising lo m = true) :
    mrising lo (mins m k v) = true := by
  induction m generalizing lo with
  | nil => simp [mins, mrising, hk]
  | cons e m ih =>
    obtain ⟨a, w⟩ := e
    simp only [mrising, Bool.and_eq_true, decide_eq_true_eq] at hm
    simp only [mins]
    split
    · simp [mrising, hk, hm.2]; omega
    · split
      · rename_i _ h; subst h; simp [mrising, hm.1, hm.2]
      · rename_i h1 h2
        simp [mrising, hm.1, ih (a + 1) (by omega) hm.2]

theorem mrising_mdel (m : SMap β) (lo k : Nat) (hm : mrising lo m = true) : mrising lo (mdel m k) = true := by
  induction m generalizing lo with
  | nil => rfl
  | cons e m ih =>
    obtain ⟨a, w⟩ := e
    simp only [mrising, Bool.and_eq_true, decide_eq_true_eq] at hm
    simp only [mdel]
    split
    · exact mrising_mono _ (a + 1) lo (by omega) (ih (a + 1) hm.2)
    · simp [mrising, hm.1, ih (a + 1) hm.2]

theorem mrising_filter (m : SMap β) (lo : Nat) (p : Nat × β → Bool) (hm : mrising lo m = true) :
    mrising lo (m.filter p) = true := by
  induction m generalizing lo with
  | nil => rfl
  | cons e m ih =>
    obtain ⟨a, w⟩ := e
    simp only [mrising, Bool.and_eq_true, decide_eq_true_eq] at hm
    simp only [List.filter]
    split
    · simp [mrising, hm.1, ih (a + 1) hm.2]
    · exact mrising_mono _ (a + 1) lo (by omega) (ih (a + 1) hm.2)

theorem mem_mins (m : SMap β) (k : Nat) (v : β) (e : Nat × β) (h : e ∈ mins m k v) : e = (k, v) ∨ e ∈ m := by
  induction m with
  | nil => simp [mins] at h; exact .inl h
  | cons x m ih =>
    obtain ⟨a, w⟩ := x
    simp only [mins] at h
    split at h
    · simp only [List.mem_cons] at h ⊢; tauto
    · split at h
      · simp only [List.mem_cons] at h ⊢; tauto
      · simp only [List.mem_cons] at h ⊢
        rcases h with h | h
        · tauto
        · rcases ih h with h | h <;> tauto

theorem mem_mdel (m : SMap β) (k : Nat) (e : Nat × β) (h : e ∈ mdel m k) : e ∈ m := by
  induction m with
  | nil => exact h
  | cons x m ih =>
    obtain ⟨a, w⟩ := x
    simp only [mdel] at h
    split at h
    · exact List.mem_cons_of_mem _ (ih h)
    · simp only [List.mem_cons] at h ⊢
      rcases h with h | h
      · exact .inl h
      · exact .inr (ih h)

variable [DecidableEq β]

theorem mget_mput_ne (d : β) (m : SMap β) (k j : Nat) (v : β) (e : β) (h : j ≠ k) :
    mget e (mput d m k v) j = mget e m j := by
  unfold mput; split
  · exact mget_mdel_ne e m k j h
  · exact mget_mins_ne e m k j v h

/-- A map holds what was written last. -/
@[simp] theorem mget_mput_same (d : β) (m : SMap β) (k : Nat) (v : β) : mget d (mput d m k v) k = v := by
  unfold mput; split
  · rename_i h; rw [mget_mdel_same, h]
  · exact mget_mins_same d m k v

theorem mrising_mput (d : β) (m : SMap β) (lo k : Nat) (v : β) (hk : lo ≤ k) (hm : mrising lo m = true) :
    mrising lo (mput d m k v) = true := by
  unfold mput; split
  · exact mrising_mdel m lo k hm
  · exact mrising_mins m lo k v hk hm

theorem mwf_mput (d : Nat → β) (m : SMap β) (k : Nat) (v : β) (hm : mwf d m = true) :
    mwf d (mput (d k) m k v) = true := by
  simp only [mwf, Bool.and_eq_true, List.all_eq_true, decide_eq_true_eq] at hm ⊢
  refine ⟨mrising_mput (d k) m 0 k v (by omega) hm.1, fun e he => ?_⟩
  unfold mput at he
  split at he
  · exact hm.2 e (mem_mdel m k e he)
  · rename_i hv
    rcases mem_mins m k v e he with h | h
    · subst h; exact hv
    · exact hm.2 e h

theorem mwf_filter (d : Nat → β) (m : SMap β) (p : Nat × β → Bool) (hm : mwf d m = true) : mwf d (m.filter p) = true := by
  simp only [mwf, Bool.and_eq_true, List.all_eq_true, decide_eq_true_eq] at hm ⊢
  exact ⟨mrising_filter m 0 p hm.1, fun e he => hm.2 e (List.mem_of_mem_filter he)⟩

@[simp] theorem mwf_nil (d : Nat → β) : mwf d ([] : SMap β) = true := rfl

end Sys2Proof.Machine
end

