-- ==== Sys2Proof/Laws/State.lean ====
section
/-! SUPPORT. The fields of the state under each single update, and what each update makes its reader answer. -/

set_option Elab.async false

namespace Sys2Proof.Machine

@[simp] theorem State.setReg_pending (s : State) (a : Nat) (w : Word) : (s.setReg a w).pending = s.pending := by rfl
@[simp] theorem State.setReg_now (s : State) (a : Nat) (w : Word) : (s.setReg a w).now = s.now := by rfl
@[simp] theorem State.setReg_fresh (s : State) (a : Nat) (w : Word) : (s.setReg a w).fresh = s.fresh := by rfl
@[simp] theorem State.setReg_rdata (s : State) (a : Nat) (w : Word) : (s.setReg a w).rdata = s.rdata := by rfl
@[simp] theorem State.setReg_sent (s : State) (a : Nat) (w : Word) : (s.setReg a w).sent = s.sent := by rfl
@[simp] theorem State.setReg_evlog (s : State) (a : Nat) (w : Word) : (s.setReg a w).evlog = s.evlog := by rfl
@[simp] theorem State.setReg_live (s : State) (a : Nat) (w : Word) : (s.setReg a w).live = s.live := by rfl
@[simp] theorem State.setReg_mem (s : State) (a : Nat) (w : Word) : (s.setReg a w).mem = s.mem := by rfl
@[simp] theorem State.setReg_beads (s : State) (a : Nat) (w : Word) : (s.setReg a w).beads = s.beads := by rfl
@[simp] theorem State.setReg_side (s : State) (a : Nat) (w : Word) : (s.setReg a w).side = s.side := by rfl
@[simp] theorem State.setReg_frames (s : State) (a : Nat) (w : Word) : (s.setReg a w).frames = s.frames := by rfl
@[simp] theorem State.setReg_boards (s : State) (a : Nat) (w : Word) : (s.setReg a w).boards = s.boards := by rfl
@[simp] theorem State.setReg_dies (s : State) (a : Nat) (w : Word) : (s.setReg a w).dies = s.dies := by rfl
@[simp] theorem State.setReg_mets (s : State) (a : Nat) (w : Word) : (s.setReg a w).mets = s.mets := by rfl
@[simp] theorem State.setReg_ck (s : State) (a : Nat) (w : Word) : (s.setReg a w).ck = s.ck := by rfl
@[simp] theorem State.setReg_pw (s : State) (a : Nat) (w : Word) : (s.setReg a w).pw = s.pw := by rfl
@[simp] theorem State.setReg_th (s : State) (a : Nat) (w : Word) : (s.setReg a w).th = s.th := by rfl
@[simp] theorem State.setReg_hl (s : State) (a : Nat) (w : Word) : (s.setReg a w).hl = s.hl := by rfl
@[simp] theorem State.setReg_wk (s : State) (a : Nat) (w : Word) : (s.setReg a w).wk = s.wk := by rfl
@[simp] theorem State.setReg_fb (s : State) (a : Nat) (w : Word) : (s.setReg a w).fb = s.fb := by rfl
@[simp] theorem State.setReg_ms (s : State) (a : Nat) (w : Word) : (s.setReg a w).ms = s.ms := by rfl
@[simp] theorem State.setReg_lg (s : State) (a : Nat) (w : Word) : (s.setReg a w).lg = s.lg := by rfl
@[simp] theorem State.setReg_sv (s : State) (a : Nat) (w : Word) : (s.setReg a w).sv = s.sv := by rfl

@[simp] theorem State.setRegN_pending (s : State) (a n : Nat) : (s.setRegN a n).pending = s.pending := by rfl
@[simp] theorem State.setRegN_now (s : State) (a n : Nat) : (s.setRegN a n).now = s.now := by rfl
@[simp] theorem State.setRegN_fresh (s : State) (a n : Nat) : (s.setRegN a n).fresh = s.fresh := by rfl
@[simp] theorem State.setRegN_rdata (s : State) (a n : Nat) : (s.setRegN a n).rdata = s.rdata := by rfl
@[simp] theorem State.setRegN_sent (s : State) (a n : Nat) : (s.setRegN a n).sent = s.sent := by rfl
@[simp] theorem State.setRegN_evlog (s : State) (a n : Nat) : (s.setRegN a n).evlog = s.evlog := by rfl
@[simp] theorem State.setRegN_live (s : State) (a n : Nat) : (s.setRegN a n).live = s.live := by rfl
@[simp] theorem State.setRegN_mem (s : State) (a n : Nat) : (s.setRegN a n).mem = s.mem := by rfl
@[simp] theorem State.setRegN_beads (s : State) (a n : Nat) : (s.setRegN a n).beads = s.beads := by rfl
@[simp] theorem State.setRegN_side (s : State) (a n : Nat) : (s.setRegN a n).side = s.side := by rfl
@[simp] theorem State.setRegN_frames (s : State) (a n : Nat) : (s.setRegN a n).frames = s.frames := by rfl
@[simp] theorem State.setRegN_boards (s : State) (a n : Nat) : (s.setRegN a n).boards = s.boards := by rfl
@[simp] theorem State.setRegN_dies (s : State) (a n : Nat) : (s.setRegN a n).dies = s.dies := by rfl
@[simp] theorem State.setRegN_mets (s : State) (a n : Nat) : (s.setRegN a n).mets = s.mets := by rfl
@[simp] theorem State.setRegN_ck (s : State) (a n : Nat) : (s.setRegN a n).ck = s.ck := by rfl
@[simp] theorem State.setRegN_pw (s : State) (a n : Nat) : (s.setRegN a n).pw = s.pw := by rfl
@[simp] theorem State.setRegN_th (s : State) (a n : Nat) : (s.setRegN a n).th = s.th := by rfl
@[simp] theorem State.setRegN_hl (s : State) (a n : Nat) : (s.setRegN a n).hl = s.hl := by rfl
@[simp] theorem State.setRegN_wk (s : State) (a n : Nat) : (s.setRegN a n).wk = s.wk := by rfl
@[simp] theorem State.setRegN_fb (s : State) (a n : Nat) : (s.setRegN a n).fb = s.fb := by rfl
@[simp] theorem State.setRegN_ms (s : State) (a n : Nat) : (s.setRegN a n).ms = s.ms := by rfl
@[simp] theorem State.setRegN_lg (s : State) (a n : Nat) : (s.setRegN a n).lg = s.lg := by rfl
@[simp] theorem State.setRegN_sv (s : State) (a n : Nat) : (s.setRegN a n).sv = s.sv := by rfl

@[simp] theorem State.bump_pending (s : State) (a n : Nat) : (s.bump a n).pending = s.pending := by rfl
@[simp] theorem State.bump_now (s : State) (a n : Nat) : (s.bump a n).now = s.now := by rfl
@[simp] theorem State.bump_fresh (s : State) (a n : Nat) : (s.bump a n).fresh = s.fresh := by rfl
@[simp] theorem State.bump_rdata (s : State) (a n : Nat) : (s.bump a n).rdata = s.rdata := by rfl
@[simp] theorem State.bump_sent (s : State) (a n : Nat) : (s.bump a n).sent = s.sent := by rfl
@[simp] theorem State.bump_evlog (s : State) (a n : Nat) : (s.bump a n).evlog = s.evlog := by rfl
@[simp] theorem State.bump_live (s : State) (a n : Nat) : (s.bump a n).live = s.live := by rfl
@[simp] theorem State.bump_mem (s : State) (a n : Nat) : (s.bump a n).mem = s.mem := by rfl
@[simp] theorem State.bump_beads (s : State) (a n : Nat) : (s.bump a n).beads = s.beads := by rfl
@[simp] theorem State.bump_side (s : State) (a n : Nat) : (s.bump a n).side = s.side := by rfl
@[simp] theorem State.bump_frames (s : State) (a n : Nat) : (s.bump a n).frames = s.frames := by rfl
@[simp] theorem State.bump_boards (s : State) (a n : Nat) : (s.bump a n).boards = s.boards := by rfl
@[simp] theorem State.bump_dies (s : State) (a n : Nat) : (s.bump a n).dies = s.dies := by rfl
@[simp] theorem State.bump_mets (s : State) (a n : Nat) : (s.bump a n).mets = s.mets := by rfl
@[simp] theorem State.bump_ck (s : State) (a n : Nat) : (s.bump a n).ck = s.ck := by rfl
@[simp] theorem State.bump_pw (s : State) (a n : Nat) : (s.bump a n).pw = s.pw := by rfl
@[simp] theorem State.bump_th (s : State) (a n : Nat) : (s.bump a n).th = s.th := by rfl
@[simp] theorem State.bump_hl (s : State) (a n : Nat) : (s.bump a n).hl = s.hl := by rfl
@[simp] theorem State.bump_wk (s : State) (a n : Nat) : (s.bump a n).wk = s.wk := by rfl
@[simp] theorem State.bump_fb (s : State) (a n : Nat) : (s.bump a n).fb = s.fb := by rfl
@[simp] theorem State.bump_ms (s : State) (a n : Nat) : (s.bump a n).ms = s.ms := by rfl
@[simp] theorem State.bump_lg (s : State) (a n : Nat) : (s.bump a n).lg = s.lg := by rfl
@[simp] theorem State.bump_sv (s : State) (a n : Nat) : (s.bump a n).sv = s.sv := by rfl

@[simp] theorem State.setLive_pending (s : State) (a : Nat) (w : Word) : (s.setLive a w).pending = s.pending := by rfl
@[simp] theorem State.setLive_now (s : State) (a : Nat) (w : Word) : (s.setLive a w).now = s.now := by rfl
@[simp] theorem State.setLive_fresh (s : State) (a : Nat) (w : Word) : (s.setLive a w).fresh = s.fresh := by rfl
@[simp] theorem State.setLive_rdata (s : State) (a : Nat) (w : Word) : (s.setLive a w).rdata = s.rdata := by rfl
@[simp] theorem State.setLive_sent (s : State) (a : Nat) (w : Word) : (s.setLive a w).sent = s.sent := by rfl
@[simp] theorem State.setLive_evlog (s : State) (a : Nat) (w : Word) : (s.setLive a w).evlog = s.evlog := by rfl
@[simp] theorem State.setLive_regs (s : State) (a : Nat) (w : Word) : (s.setLive a w).regs = s.regs := by rfl
@[simp] theorem State.setLive_mem (s : State) (a : Nat) (w : Word) : (s.setLive a w).mem = s.mem := by rfl
@[simp] theorem State.setLive_beads (s : State) (a : Nat) (w : Word) : (s.setLive a w).beads = s.beads := by rfl
@[simp] theorem State.setLive_side (s : State) (a : Nat) (w : Word) : (s.setLive a w).side = s.side := by rfl
@[simp] theorem State.setLive_frames (s : State) (a : Nat) (w : Word) : (s.setLive a w).frames = s.frames := by rfl
@[simp] theorem State.setLive_boards (s : State) (a : Nat) (w : Word) : (s.setLive a w).boards = s.boards := by rfl
@[simp] theorem State.setLive_dies (s : State) (a : Nat) (w : Word) : (s.setLive a w).dies = s.dies := by rfl
@[simp] theorem State.setLive_mets (s : State) (a : Nat) (w : Word) : (s.setLive a w).mets = s.mets := by rfl
@[simp] theorem State.setLive_ck (s : State) (a : Nat) (w : Word) : (s.setLive a w).ck = s.ck := by rfl
@[simp] theorem State.setLive_pw (s : State) (a : Nat) (w : Word) : (s.setLive a w).pw = s.pw := by rfl
@[simp] theorem State.setLive_th (s : State) (a : Nat) (w : Word) : (s.setLive a w).th = s.th := by rfl
@[simp] theorem State.setLive_hl (s : State) (a : Nat) (w : Word) : (s.setLive a w).hl = s.hl := by rfl
@[simp] theorem State.setLive_wk (s : State) (a : Nat) (w : Word) : (s.setLive a w).wk = s.wk := by rfl
@[simp] theorem State.setLive_fb (s : State) (a : Nat) (w : Word) : (s.setLive a w).fb = s.fb := by rfl
@[simp] theorem State.setLive_ms (s : State) (a : Nat) (w : Word) : (s.setLive a w).ms = s.ms := by rfl
@[simp] theorem State.setLive_lg (s : State) (a : Nat) (w : Word) : (s.setLive a w).lg = s.lg := by rfl
@[simp] theorem State.setLive_sv (s : State) (a : Nat) (w : Word) : (s.setLive a w).sv = s.sv := by rfl

@[simp] theorem State.setFrame_pending (s : State) (k : Nat) (x : Frame) : (s.setFrame k x).pending = s.pending := by rfl
@[simp] theorem State.setFrame_now (s : State) (k : Nat) (x : Frame) : (s.setFrame k x).now = s.now := by rfl
@[simp] theorem State.setFrame_fresh (s : State) (k : Nat) (x : Frame) : (s.setFrame k x).fresh = s.fresh := by rfl
@[simp] theorem State.setFrame_rdata (s : State) (k : Nat) (x : Frame) : (s.setFrame k x).rdata = s.rdata := by rfl
@[simp] theorem State.setFrame_sent (s : State) (k : Nat) (x : Frame) : (s.setFrame k x).sent = s.sent := by rfl
@[simp] theorem State.setFrame_evlog (s : State) (k : Nat) (x : Frame) : (s.setFrame k x).evlog = s.evlog := by rfl
@[simp] theorem State.setFrame_regs (s : State) (k : Nat) (x : Frame) : (s.setFrame k x).regs = s.regs := by rfl
@[simp] theorem State.setFrame_live (s : State) (k : Nat) (x : Frame) : (s.setFrame k x).live = s.live := by rfl
@[simp] theorem State.setFrame_mem (s : State) (k : Nat) (x : Frame) : (s.setFrame k x).mem = s.mem := by rfl
@[simp] theorem State.setFrame_beads (s : State) (k : Nat) (x : Frame) : (s.setFrame k x).beads = s.beads := by rfl
@[simp] theorem State.setFrame_side (s : State) (k : Nat) (x : Frame) : (s.setFrame k x).side = s.side := by rfl
@[simp] theorem State.setFrame_boards (s : State) (k : Nat) (x : Frame) : (s.setFrame k x).boards = s.boards := by rfl
@[simp] theorem State.setFrame_dies (s : State) (k : Nat) (x : Frame) : (s.setFrame k x).dies = s.dies := by rfl
@[simp] theorem State.setFrame_mets (s : State) (k : Nat) (x : Frame) : (s.setFrame k x).mets = s.mets := by rfl
@[simp] theorem State.setFrame_ck (s : State) (k : Nat) (x : Frame) : (s.setFrame k x).ck = s.ck := by rfl
@[simp] theorem State.setFrame_pw (s : State) (k : Nat) (x : Frame) : (s.setFrame k x).pw = s.pw := by rfl
@[simp] theorem State.setFrame_th (s : State) (k : Nat) (x : Frame) : (s.setFrame k x).th = s.th := by rfl
@[simp] theorem State.setFrame_hl (s : State) (k : Nat) (x : Frame) : (s.setFrame k x).hl = s.hl := by rfl
@[simp] theorem State.setFrame_wk (s : State) (k : Nat) (x : Frame) : (s.setFrame k x).wk = s.wk := by rfl
@[simp] theorem State.setFrame_fb (s : State) (k : Nat) (x : Frame) : (s.setFrame k x).fb = s.fb := by rfl
@[simp] theorem State.setFrame_ms (s : State) (k : Nat) (x : Frame) : (s.setFrame k x).ms = s.ms := by rfl
@[simp] theorem State.setFrame_lg (s : State) (k : Nat) (x : Frame) : (s.setFrame k x).lg = s.lg := by rfl
@[simp] theorem State.setFrame_sv (s : State) (k : Nat) (x : Frame) : (s.setFrame k x).sv = s.sv := by rfl

@[simp] theorem State.setBoard_pending (s : State) (k : Nat) (x : Board) : (s.setBoard k x).pending = s.pending := by rfl
@[simp] theorem State.setBoard_now (s : State) (k : Nat) (x : Board) : (s.setBoard k x).now = s.now := by rfl
@[simp] theorem State.setBoard_fresh (s : State) (k : Nat) (x : Board) : (s.setBoard k x).fresh = s.fresh := by rfl
@[simp] theorem State.setBoard_rdata (s : State) (k : Nat) (x : Board) : (s.setBoard k x).rdata = s.rdata := by rfl
@[simp] theorem State.setBoard_sent (s : State) (k : Nat) (x : Board) : (s.setBoard k x).sent = s.sent := by rfl
@[simp] theorem State.setBoard_evlog (s : State) (k : Nat) (x : Board) : (s.setBoard k x).evlog = s.evlog := by rfl
@[simp] theorem State.setBoard_regs (s : State) (k : Nat) (x : Board) : (s.setBoard k x).regs = s.regs := by rfl
@[simp] theorem State.setBoard_live (s : State) (k : Nat) (x : Board) : (s.setBoard k x).live = s.live := by rfl
@[simp] theorem State.setBoard_mem (s : State) (k : Nat) (x : Board) : (s.setBoard k x).mem = s.mem := by rfl
@[simp] theorem State.setBoard_beads (s : State) (k : Nat) (x : Board) : (s.setBoard k x).beads = s.beads := by rfl
@[simp] theorem State.setBoard_side (s : State) (k : Nat) (x : Board) : (s.setBoard k x).side = s.side := by rfl
@[simp] theorem State.setBoard_frames (s : State) (k : Nat) (x : Board) : (s.setBoard k x).frames = s.frames := by rfl
@[simp] theorem State.setBoard_dies (s : State) (k : Nat) (x : Board) : (s.setBoard k x).dies = s.dies := by rfl
@[simp] theorem State.setBoard_mets (s : State) (k : Nat) (x : Board) : (s.setBoard k x).mets = s.mets := by rfl
@[simp] theorem State.setBoard_ck (s : State) (k : Nat) (x : Board) : (s.setBoard k x).ck = s.ck := by rfl
@[simp] theorem State.setBoard_pw (s : State) (k : Nat) (x : Board) : (s.setBoard k x).pw = s.pw := by rfl
@[simp] theorem State.setBoard_th (s : State) (k : Nat) (x : Board) : (s.setBoard k x).th = s.th := by rfl
@[simp] theorem State.setBoard_hl (s : State) (k : Nat) (x : Board) : (s.setBoard k x).hl = s.hl := by rfl
@[simp] theorem State.setBoard_wk (s : State) (k : Nat) (x : Board) : (s.setBoard k x).wk = s.wk := by rfl
@[simp] theorem State.setBoard_fb (s : State) (k : Nat) (x : Board) : (s.setBoard k x).fb = s.fb := by rfl
@[simp] theorem State.setBoard_ms (s : State) (k : Nat) (x : Board) : (s.setBoard k x).ms = s.ms := by rfl
@[simp] theorem State.setBoard_lg (s : State) (k : Nat) (x : Board) : (s.setBoard k x).lg = s.lg := by rfl
@[simp] theorem State.setBoard_sv (s : State) (k : Nat) (x : Board) : (s.setBoard k x).sv = s.sv := by rfl

@[simp] theorem State.setDie_pending (s : State) (k : Nat) (x : DieRec) : (s.setDie k x).pending = s.pending := by rfl
@[simp] theorem State.setDie_now (s : State) (k : Nat) (x : DieRec) : (s.setDie k x).now = s.now := by rfl
@[simp] theorem State.setDie_fresh (s : State) (k : Nat) (x : DieRec) : (s.setDie k x).fresh = s.fresh := by rfl
@[simp] theorem State.setDie_rdata (s : State) (k : Nat) (x : DieRec) : (s.setDie k x).rdata = s.rdata := by rfl
@[simp] theorem State.setDie_sent (s : State) (k : Nat) (x : DieRec) : (s.setDie k x).sent = s.sent := by rfl
@[simp] theorem State.setDie_evlog (s : State) (k : Nat) (x : DieRec) : (s.setDie k x).evlog = s.evlog := by rfl
@[simp] theorem State.setDie_regs (s : State) (k : Nat) (x : DieRec) : (s.setDie k x).regs = s.regs := by rfl
@[simp] theorem State.setDie_live (s : State) (k : Nat) (x : DieRec) : (s.setDie k x).live = s.live := by rfl
@[simp] theorem State.setDie_mem (s : State) (k : Nat) (x : DieRec) : (s.setDie k x).mem = s.mem := by rfl
@[simp] theorem State.setDie_beads (s : State) (k : Nat) (x : DieRec) : (s.setDie k x).beads = s.beads := by rfl
@[simp] theorem State.setDie_side (s : State) (k : Nat) (x : DieRec) : (s.setDie k x).side = s.side := by rfl
@[simp] theorem State.setDie_frames (s : State) (k : Nat) (x : DieRec) : (s.setDie k x).frames = s.frames := by rfl
@[simp] theorem State.setDie_boards (s : State) (k : Nat) (x : DieRec) : (s.setDie k x).boards = s.boards := by rfl
@[simp] theorem State.setDie_mets (s : State) (k : Nat) (x : DieRec) : (s.setDie k x).mets = s.mets := by rfl
@[simp] theorem State.setDie_ck (s : State) (k : Nat) (x : DieRec) : (s.setDie k x).ck = s.ck := by rfl
@[simp] theorem State.setDie_pw (s : State) (k : Nat) (x : DieRec) : (s.setDie k x).pw = s.pw := by rfl
@[simp] theorem State.setDie_th (s : State) (k : Nat) (x : DieRec) : (s.setDie k x).th = s.th := by rfl
@[simp] theorem State.setDie_hl (s : State) (k : Nat) (x : DieRec) : (s.setDie k x).hl = s.hl := by rfl
@[simp] theorem State.setDie_wk (s : State) (k : Nat) (x : DieRec) : (s.setDie k x).wk = s.wk := by rfl
@[simp] theorem State.setDie_fb (s : State) (k : Nat) (x : DieRec) : (s.setDie k x).fb = s.fb := by rfl
@[simp] theorem State.setDie_ms (s : State) (k : Nat) (x : DieRec) : (s.setDie k x).ms = s.ms := by rfl
@[simp] theorem State.setDie_lg (s : State) (k : Nat) (x : DieRec) : (s.setDie k x).lg = s.lg := by rfl
@[simp] theorem State.setDie_sv (s : State) (k : Nat) (x : DieRec) : (s.setDie k x).sv = s.sv := by rfl

@[simp] theorem State.setMet_pending (s : State) (k : Nat) (x : Met) : (s.setMet k x).pending = s.pending := by rfl
@[simp] theorem State.setMet_now (s : State) (k : Nat) (x : Met) : (s.setMet k x).now = s.now := by rfl
@[simp] theorem State.setMet_fresh (s : State) (k : Nat) (x : Met) : (s.setMet k x).fresh = s.fresh := by rfl
@[simp] theorem State.setMet_rdata (s : State) (k : Nat) (x : Met) : (s.setMet k x).rdata = s.rdata := by rfl
@[simp] theorem State.setMet_sent (s : State) (k : Nat) (x : Met) : (s.setMet k x).sent = s.sent := by rfl
@[simp] theorem State.setMet_evlog (s : State) (k : Nat) (x : Met) : (s.setMet k x).evlog = s.evlog := by rfl
@[simp] theorem State.setMet_regs (s : State) (k : Nat) (x : Met) : (s.setMet k x).regs = s.regs := by rfl
@[simp] theorem State.setMet_live (s : State) (k : Nat) (x : Met) : (s.setMet k x).live = s.live := by rfl
@[simp] theorem State.setMet_mem (s : State) (k : Nat) (x : Met) : (s.setMet k x).mem = s.mem := by rfl
@[simp] theorem State.setMet_beads (s : State) (k : Nat) (x : Met) : (s.setMet k x).beads = s.beads := by rfl
@[simp] theorem State.setMet_side (s : State) (k : Nat) (x : Met) : (s.setMet k x).side = s.side := by rfl
@[simp] theorem State.setMet_frames (s : State) (k : Nat) (x : Met) : (s.setMet k x).frames = s.frames := by rfl
@[simp] theorem State.setMet_boards (s : State) (k : Nat) (x : Met) : (s.setMet k x).boards = s.boards := by rfl
@[simp] theorem State.setMet_dies (s : State) (k : Nat) (x : Met) : (s.setMet k x).dies = s.dies := by rfl
@[simp] theorem State.setMet_ck (s : State) (k : Nat) (x : Met) : (s.setMet k x).ck = s.ck := by rfl
@[simp] theorem State.setMet_pw (s : State) (k : Nat) (x : Met) : (s.setMet k x).pw = s.pw := by rfl
@[simp] theorem State.setMet_th (s : State) (k : Nat) (x : Met) : (s.setMet k x).th = s.th := by rfl
@[simp] theorem State.setMet_hl (s : State) (k : Nat) (x : Met) : (s.setMet k x).hl = s.hl := by rfl
@[simp] theorem State.setMet_wk (s : State) (k : Nat) (x : Met) : (s.setMet k x).wk = s.wk := by rfl
@[simp] theorem State.setMet_fb (s : State) (k : Nat) (x : Met) : (s.setMet k x).fb = s.fb := by rfl
@[simp] theorem State.setMet_ms (s : State) (k : Nat) (x : Met) : (s.setMet k x).ms = s.ms := by rfl
@[simp] theorem State.setMet_lg (s : State) (k : Nat) (x : Met) : (s.setMet k x).lg = s.lg := by rfl
@[simp] theorem State.setMet_sv (s : State) (k : Nat) (x : Met) : (s.setMet k x).sv = s.sv := by rfl

@[simp] theorem State.setSess_pending (s : State) (k : Nat) (x : Sess) : (s.setSess k x).pending = s.pending := by rfl
@[simp] theorem State.setSess_now (s : State) (k : Nat) (x : Sess) : (s.setSess k x).now = s.now := by rfl
@[simp] theorem State.setSess_fresh (s : State) (k : Nat) (x : Sess) : (s.setSess k x).fresh = s.fresh := by rfl
@[simp] theorem State.setSess_rdata (s : State) (k : Nat) (x : Sess) : (s.setSess k x).rdata = s.rdata := by rfl
@[simp] theorem State.setSess_sent (s : State) (k : Nat) (x : Sess) : (s.setSess k x).sent = s.sent := by rfl
@[simp] theorem State.setSess_evlog (s : State) (k : Nat) (x : Sess) : (s.setSess k x).evlog = s.evlog := by rfl
@[simp] theorem State.setSess_regs (s : State) (k : Nat) (x : Sess) : (s.setSess k x).regs = s.regs := by rfl
@[simp] theorem State.setSess_live (s : State) (k : Nat) (x : Sess) : (s.setSess k x).live = s.live := by rfl
@[simp] theorem State.setSess_mem (s : State) (k : Nat) (x : Sess) : (s.setSess k x).mem = s.mem := by rfl
@[simp] theorem State.setSess_beads (s : State) (k : Nat) (x : Sess) : (s.setSess k x).beads = s.beads := by rfl
@[simp] theorem State.setSess_side (s : State) (k : Nat) (x : Sess) : (s.setSess k x).side = s.side := by rfl
@[simp] theorem State.setSess_frames (s : State) (k : Nat) (x : Sess) : (s.setSess k x).frames = s.frames := by rfl
@[simp] theorem State.setSess_boards (s : State) (k : Nat) (x : Sess) : (s.setSess k x).boards = s.boards := by rfl
@[simp] theorem State.setSess_dies (s : State) (k : Nat) (x : Sess) : (s.setSess k x).dies = s.dies := by rfl
@[simp] theorem State.setSess_mets (s : State) (k : Nat) (x : Sess) : (s.setSess k x).mets = s.mets := by rfl
@[simp] theorem State.setSess_ck (s : State) (k : Nat) (x : Sess) : (s.setSess k x).ck = s.ck := by rfl
@[simp] theorem State.setSess_pw (s : State) (k : Nat) (x : Sess) : (s.setSess k x).pw = s.pw := by rfl
@[simp] theorem State.setSess_th (s : State) (k : Nat) (x : Sess) : (s.setSess k x).th = s.th := by rfl
@[simp] theorem State.setSess_wk (s : State) (k : Nat) (x : Sess) : (s.setSess k x).wk = s.wk := by rfl
@[simp] theorem State.setSess_fb (s : State) (k : Nat) (x : Sess) : (s.setSess k x).fb = s.fb := by rfl
@[simp] theorem State.setSess_ms (s : State) (k : Nat) (x : Sess) : (s.setSess k x).ms = s.ms := by rfl
@[simp] theorem State.setSess_lg (s : State) (k : Nat) (x : Sess) : (s.setSess k x).lg = s.lg := by rfl
@[simp] theorem State.setSess_sv (s : State) (k : Nat) (x : Sess) : (s.setSess k x).sv = s.sv := by rfl

@[simp] theorem State.setMbx_pending (s : State) (k : Nat) (x : MbxEnd) : (s.setMbx k x).pending = s.pending := by rfl
@[simp] theorem State.setMbx_now (s : State) (k : Nat) (x : MbxEnd) : (s.setMbx k x).now = s.now := by rfl
@[simp] theorem State.setMbx_fresh (s : State) (k : Nat) (x : MbxEnd) : (s.setMbx k x).fresh = s.fresh := by rfl
@[simp] theorem State.setMbx_rdata (s : State) (k : Nat) (x : MbxEnd) : (s.setMbx k x).rdata = s.rdata := by rfl
@[simp] theorem State.setMbx_sent (s : State) (k : Nat) (x : MbxEnd) : (s.setMbx k x).sent = s.sent := by rfl
@[simp] theorem State.setMbx_evlog (s : State) (k : Nat) (x : MbxEnd) : (s.setMbx k x).evlog = s.evlog := by rfl
@[simp] theorem State.setMbx_regs (s : State) (k : Nat) (x : MbxEnd) : (s.setMbx k x).regs = s.regs := by rfl
@[simp] theorem State.setMbx_live (s : State) (k : Nat) (x : MbxEnd) : (s.setMbx k x).live = s.live := by rfl
@[simp] theorem State.setMbx_mem (s : State) (k : Nat) (x : MbxEnd) : (s.setMbx k x).mem = s.mem := by rfl
@[simp] theorem State.setMbx_beads (s : State) (k : Nat) (x : MbxEnd) : (s.setMbx k x).beads = s.beads := by rfl
@[simp] theorem State.setMbx_side (s : State) (k : Nat) (x : MbxEnd) : (s.setMbx k x).side = s.side := by rfl
@[simp] theorem State.setMbx_frames (s : State) (k : Nat) (x : MbxEnd) : (s.setMbx k x).frames = s.frames := by rfl
@[simp] theorem State.setMbx_boards (s : State) (k : Nat) (x : MbxEnd) : (s.setMbx k x).boards = s.boards := by rfl
@[simp] theorem State.setMbx_dies (s : State) (k : Nat) (x : MbxEnd) : (s.setMbx k x).dies = s.dies := by rfl
@[simp] theorem State.setMbx_mets (s : State) (k : Nat) (x : MbxEnd) : (s.setMbx k x).mets = s.mets := by rfl
@[simp] theorem State.setMbx_ck (s : State) (k : Nat) (x : MbxEnd) : (s.setMbx k x).ck = s.ck := by rfl
@[simp] theorem State.setMbx_pw (s : State) (k : Nat) (x : MbxEnd) : (s.setMbx k x).pw = s.pw := by rfl
@[simp] theorem State.setMbx_th (s : State) (k : Nat) (x : MbxEnd) : (s.setMbx k x).th = s.th := by rfl
@[simp] theorem State.setMbx_wk (s : State) (k : Nat) (x : MbxEnd) : (s.setMbx k x).wk = s.wk := by rfl
@[simp] theorem State.setMbx_fb (s : State) (k : Nat) (x : MbxEnd) : (s.setMbx k x).fb = s.fb := by rfl
@[simp] theorem State.setMbx_ms (s : State) (k : Nat) (x : MbxEnd) : (s.setMbx k x).ms = s.ms := by rfl
@[simp] theorem State.setMbx_lg (s : State) (k : Nat) (x : MbxEnd) : (s.setMbx k x).lg = s.lg := by rfl
@[simp] theorem State.setMbx_sv (s : State) (k : Nat) (x : MbxEnd) : (s.setMbx k x).sv = s.sv := by rfl

@[simp] theorem State.setPort_pending (s : State) (k : Nat) (x : Port) : (s.setPort k x).pending = s.pending := by rfl
@[simp] theorem State.setPort_now (s : State) (k : Nat) (x : Port) : (s.setPort k x).now = s.now := by rfl
@[simp] theorem State.setPort_fresh (s : State) (k : Nat) (x : Port) : (s.setPort k x).fresh = s.fresh := by rfl
@[simp] theorem State.setPort_rdata (s : State) (k : Nat) (x : Port) : (s.setPort k x).rdata = s.rdata := by rfl
@[simp] theorem State.setPort_sent (s : State) (k : Nat) (x : Port) : (s.setPort k x).sent = s.sent := by rfl
@[simp] theorem State.setPort_evlog (s : State) (k : Nat) (x : Port) : (s.setPort k x).evlog = s.evlog := by rfl
@[simp] theorem State.setPort_regs (s : State) (k : Nat) (x : Port) : (s.setPort k x).regs = s.regs := by rfl
@[simp] theorem State.setPort_live (s : State) (k : Nat) (x : Port) : (s.setPort k x).live = s.live := by rfl
@[simp] theorem State.setPort_mem (s : State) (k : Nat) (x : Port) : (s.setPort k x).mem = s.mem := by rfl
@[simp] theorem State.setPort_beads (s : State) (k : Nat) (x : Port) : (s.setPort k x).beads = s.beads := by rfl
@[simp] theorem State.setPort_side (s : State) (k : Nat) (x : Port) : (s.setPort k x).side = s.side := by rfl
@[simp] theorem State.setPort_frames (s : State) (k : Nat) (x : Port) : (s.setPort k x).frames = s.frames := by rfl
@[simp] theorem State.setPort_boards (s : State) (k : Nat) (x : Port) : (s.setPort k x).boards = s.boards := by rfl
@[simp] theorem State.setPort_dies (s : State) (k : Nat) (x : Port) : (s.setPort k x).dies = s.dies := by rfl
@[simp] theorem State.setPort_mets (s : State) (k : Nat) (x : Port) : (s.setPort k x).mets = s.mets := by rfl
@[simp] theorem State.setPort_ck (s : State) (k : Nat) (x : Port) : (s.setPort k x).ck = s.ck := by rfl
@[simp] theorem State.setPort_pw (s : State) (k : Nat) (x : Port) : (s.setPort k x).pw = s.pw := by rfl
@[simp] theorem State.setPort_th (s : State) (k : Nat) (x : Port) : (s.setPort k x).th = s.th := by rfl
@[simp] theorem State.setPort_wk (s : State) (k : Nat) (x : Port) : (s.setPort k x).wk = s.wk := by rfl
@[simp] theorem State.setPort_fb (s : State) (k : Nat) (x : Port) : (s.setPort k x).fb = s.fb := by rfl
@[simp] theorem State.setPort_ms (s : State) (k : Nat) (x : Port) : (s.setPort k x).ms = s.ms := by rfl
@[simp] theorem State.setPort_lg (s : State) (k : Nat) (x : Port) : (s.setPort k x).lg = s.lg := by rfl
@[simp] theorem State.setPort_sv (s : State) (k : Nat) (x : Port) : (s.setPort k x).sv = s.sv := by rfl

@[simp] theorem State.setRing_pending (s : State) (k : Nat) (x : Ring) : (s.setRing k x).pending = s.pending := by rfl
@[simp] theorem State.setRing_now (s : State) (k : Nat) (x : Ring) : (s.setRing k x).now = s.now := by rfl
@[simp] theorem State.setRing_fresh (s : State) (k : Nat) (x : Ring) : (s.setRing k x).fresh = s.fresh := by rfl
@[simp] theorem State.setRing_rdata (s : State) (k : Nat) (x : Ring) : (s.setRing k x).rdata = s.rdata := by rfl
@[simp] theorem State.setRing_sent (s : State) (k : Nat) (x : Ring) : (s.setRing k x).sent = s.sent := by rfl
@[simp] theorem State.setRing_evlog (s : State) (k : Nat) (x : Ring) : (s.setRing k x).evlog = s.evlog := by rfl
@[simp] theorem State.setRing_regs (s : State) (k : Nat) (x : Ring) : (s.setRing k x).regs = s.regs := by rfl
@[simp] theorem State.setRing_live (s : State) (k : Nat) (x : Ring) : (s.setRing k x).live = s.live := by rfl
@[simp] theorem State.setRing_mem (s : State) (k : Nat) (x : Ring) : (s.setRing k x).mem = s.mem := by rfl
@[simp] theorem State.setRing_beads (s : State) (k : Nat) (x : Ring) : (s.setRing k x).beads = s.beads := by rfl
@[simp] theorem State.setRing_side (s : State) (k : Nat) (x : Ring) : (s.setRing k x).side = s.side := by rfl
@[simp] theorem State.setRing_frames (s : State) (k : Nat) (x : Ring) : (s.setRing k x).frames = s.frames := by rfl
@[simp] theorem State.setRing_boards (s : State) (k : Nat) (x : Ring) : (s.setRing k x).boards = s.boards := by rfl
@[simp] theorem State.setRing_dies (s : State) (k : Nat) (x : Ring) : (s.setRing k x).dies = s.dies := by rfl
@[simp] theorem State.setRing_mets (s : State) (k : Nat) (x : Ring) : (s.setRing k x).mets = s.mets := by rfl
@[simp] theorem State.setRing_ck (s : State) (k : Nat) (x : Ring) : (s.setRing k x).ck = s.ck := by rfl
@[simp] theorem State.setRing_pw (s : State) (k : Nat) (x : Ring) : (s.setRing k x).pw = s.pw := by rfl
@[simp] theorem State.setRing_th (s : State) (k : Nat) (x : Ring) : (s.setRing k x).th = s.th := by rfl
@[simp] theorem State.setRing_hl (s : State) (k : Nat) (x : Ring) : (s.setRing k x).hl = s.hl := by rfl
@[simp] theorem State.setRing_fb (s : State) (k : Nat) (x : Ring) : (s.setRing k x).fb = s.fb := by rfl
@[simp] theorem State.setRing_ms (s : State) (k : Nat) (x : Ring) : (s.setRing k x).ms = s.ms := by rfl
@[simp] theorem State.setRing_lg (s : State) (k : Nat) (x : Ring) : (s.setRing k x).lg = s.lg := by rfl
@[simp] theorem State.setRing_sv (s : State) (k : Nat) (x : Ring) : (s.setRing k x).sv = s.sv := by rfl

@[simp] theorem State.setJob_pending (s : State) (k : Nat) (x : Option Job) : (s.setJob k x).pending = s.pending := by rfl
@[simp] theorem State.setJob_now (s : State) (k : Nat) (x : Option Job) : (s.setJob k x).now = s.now := by rfl
@[simp] theorem State.setJob_fresh (s : State) (k : Nat) (x : Option Job) : (s.setJob k x).fresh = s.fresh := by rfl
@[simp] theorem State.setJob_rdata (s : State) (k : Nat) (x : Option Job) : (s.setJob k x).rdata = s.rdata := by rfl
@[simp] theorem State.setJob_sent (s : State) (k : Nat) (x : Option Job) : (s.setJob k x).sent = s.sent := by rfl
@[simp] theorem State.setJob_evlog (s : State) (k : Nat) (x : Option Job) : (s.setJob k x).evlog = s.evlog := by rfl
@[simp] theorem State.setJob_regs (s : State) (k : Nat) (x : Option Job) : (s.setJob k x).regs = s.regs := by rfl
@[simp] theorem State.setJob_live (s : State) (k : Nat) (x : Option Job) : (s.setJob k x).live = s.live := by rfl
@[simp] theorem State.setJob_mem (s : State) (k : Nat) (x : Option Job) : (s.setJob k x).mem = s.mem := by rfl
@[simp] theorem State.setJob_beads (s : State) (k : Nat) (x : Option Job) : (s.setJob k x).beads = s.beads := by rfl
@[simp] theorem State.setJob_side (s : State) (k : Nat) (x : Option Job) : (s.setJob k x).side = s.side := by rfl
@[simp] theorem State.setJob_frames (s : State) (k : Nat) (x : Option Job) : (s.setJob k x).frames = s.frames := by rfl
@[simp] theorem State.setJob_boards (s : State) (k : Nat) (x : Option Job) : (s.setJob k x).boards = s.boards := by rfl
@[simp] theorem State.setJob_dies (s : State) (k : Nat) (x : Option Job) : (s.setJob k x).dies = s.dies := by rfl
@[simp] theorem State.setJob_mets (s : State) (k : Nat) (x : Option Job) : (s.setJob k x).mets = s.mets := by rfl
@[simp] theorem State.setJob_ck (s : State) (k : Nat) (x : Option Job) : (s.setJob k x).ck = s.ck := by rfl
@[simp] theorem State.setJob_pw (s : State) (k : Nat) (x : Option Job) : (s.setJob k x).pw = s.pw := by rfl
@[simp] theorem State.setJob_th (s : State) (k : Nat) (x : Option Job) : (s.setJob k x).th = s.th := by rfl
@[simp] theorem State.setJob_hl (s : State) (k : Nat) (x : Option Job) : (s.setJob k x).hl = s.hl := by rfl
@[simp] theorem State.setJob_fb (s : State) (k : Nat) (x : Option Job) : (s.setJob k x).fb = s.fb := by rfl
@[simp] theorem State.setJob_ms (s : State) (k : Nat) (x : Option Job) : (s.setJob k x).ms = s.ms := by rfl
@[simp] theorem State.setJob_lg (s : State) (k : Nat) (x : Option Job) : (s.setJob k x).lg = s.lg := by rfl
@[simp] theorem State.setJob_sv (s : State) (k : Nat) (x : Option Job) : (s.setJob k x).sv = s.sv := by rfl

@[simp] theorem State.setHandle_pending (s : State) (k : Nat) (x : Option Handle) : (s.setHandle k x).pending = s.pending := by rfl
@[simp] theorem State.setHandle_now (s : State) (k : Nat) (x : Option Handle) : (s.setHandle k x).now = s.now := by rfl
@[simp] theorem State.setHandle_fresh (s : State) (k : Nat) (x : Option Handle) : (s.setHandle k x).fresh = s.fresh := by rfl
@[simp] theorem State.setHandle_rdata (s : State) (k : Nat) (x : Option Handle) : (s.setHandle k x).rdata = s.rdata := by rfl
@[simp] theorem State.setHandle_sent (s : State) (k : Nat) (x : Option Handle) : (s.setHandle k x).sent = s.sent := by rfl
@[simp] theorem State.setHandle_evlog (s : State) (k : Nat) (x : Option Handle) : (s.setHandle k x).evlog = s.evlog := by rfl
@[simp] theorem State.setHandle_regs (s : State) (k : Nat) (x : Option Handle) : (s.setHandle k x).regs = s.regs := by rfl
@[simp] theorem State.setHandle_live (s : State) (k : Nat) (x : Option Handle) : (s.setHandle k x).live = s.live := by rfl
@[simp] theorem State.setHandle_mem (s : State) (k : Nat) (x : Option Handle) : (s.setHandle k x).mem = s.mem := by rfl
@[simp] theorem State.setHandle_beads (s : State) (k : Nat) (x : Option Handle) : (s.setHandle k x).beads = s.beads := by rfl
@[simp] theorem State.setHandle_side (s : State) (k : Nat) (x : Option Handle) : (s.setHandle k x).side = s.side := by rfl
@[simp] theorem State.setHandle_frames (s : State) (k : Nat) (x : Option Handle) : (s.setHandle k x).frames = s.frames := by rfl
@[simp] theorem State.setHandle_boards (s : State) (k : Nat) (x : Option Handle) : (s.setHandle k x).boards = s.boards := by rfl
@[simp] theorem State.setHandle_dies (s : State) (k : Nat) (x : Option Handle) : (s.setHandle k x).dies = s.dies := by rfl
@[simp] theorem State.setHandle_mets (s : State) (k : Nat) (x : Option Handle) : (s.setHandle k x).mets = s.mets := by rfl
@[simp] theorem State.setHandle_ck (s : State) (k : Nat) (x : Option Handle) : (s.setHandle k x).ck = s.ck := by rfl
@[simp] theorem State.setHandle_pw (s : State) (k : Nat) (x : Option Handle) : (s.setHandle k x).pw = s.pw := by rfl
@[simp] theorem State.setHandle_th (s : State) (k : Nat) (x : Option Handle) : (s.setHandle k x).th = s.th := by rfl
@[simp] theorem State.setHandle_hl (s : State) (k : Nat) (x : Option Handle) : (s.setHandle k x).hl = s.hl := by rfl
@[simp] theorem State.setHandle_fb (s : State) (k : Nat) (x : Option Handle) : (s.setHandle k x).fb = s.fb := by rfl
@[simp] theorem State.setHandle_ms (s : State) (k : Nat) (x : Option Handle) : (s.setHandle k x).ms = s.ms := by rfl
@[simp] theorem State.setHandle_lg (s : State) (k : Nat) (x : Option Handle) : (s.setHandle k x).lg = s.lg := by rfl
@[simp] theorem State.setHandle_sv (s : State) (k : Nat) (x : Option Handle) : (s.setHandle k x).sv = s.sv := by rfl

@[simp] theorem State.setScore_pending (s : State) (k : Nat) (x : Score) : (s.setScore k x).pending = s.pending := by rfl
@[simp] theorem State.setScore_now (s : State) (k : Nat) (x : Score) : (s.setScore k x).now = s.now := by rfl
@[simp] theorem State.setScore_fresh (s : State) (k : Nat) (x : Score) : (s.setScore k x).fresh = s.fresh := by rfl
@[simp] theorem State.setScore_rdata (s : State) (k : Nat) (x : Score) : (s.setScore k x).rdata = s.rdata := by rfl
@[simp] theorem State.setScore_sent (s : State) (k : Nat) (x : Score) : (s.setScore k x).sent = s.sent := by rfl
@[simp] theorem State.setScore_evlog (s : State) (k : Nat) (x : Score) : (s.setScore k x).evlog = s.evlog := by rfl
@[simp] theorem State.setScore_regs (s : State) (k : Nat) (x : Score) : (s.setScore k x).regs = s.regs := by rfl
@[simp] theorem State.setScore_live (s : State) (k : Nat) (x : Score) : (s.setScore k x).live = s.live := by rfl
@[simp] theorem State.setScore_mem (s : State) (k : Nat) (x : Score) : (s.setScore k x).mem = s.mem := by rfl
@[simp] theorem State.setScore_beads (s : State) (k : Nat) (x : Score) : (s.setScore k x).beads = s.beads := by rfl
@[simp] theorem State.setScore_side (s : State) (k : Nat) (x : Score) : (s.setScore k x).side = s.side := by rfl
@[simp] theorem State.setScore_frames (s : State) (k : Nat) (x : Score) : (s.setScore k x).frames = s.frames := by rfl
@[simp] theorem State.setScore_boards (s : State) (k : Nat) (x : Score) : (s.setScore k x).boards = s.boards := by rfl
@[simp] theorem State.setScore_dies (s : State) (k : Nat) (x : Score) : (s.setScore k x).dies = s.dies := by rfl
@[simp] theorem State.setScore_mets (s : State) (k : Nat) (x : Score) : (s.setScore k x).mets = s.mets := by rfl
@[simp] theorem State.setScore_ck (s : State) (k : Nat) (x : Score) : (s.setScore k x).ck = s.ck := by rfl
@[simp] theorem State.setScore_pw (s : State) (k : Nat) (x : Score) : (s.setScore k x).pw = s.pw := by rfl
@[simp] theorem State.setScore_th (s : State) (k : Nat) (x : Score) : (s.setScore k x).th = s.th := by rfl
@[simp] theorem State.setScore_hl (s : State) (k : Nat) (x : Score) : (s.setScore k x).hl = s.hl := by rfl
@[simp] theorem State.setScore_fb (s : State) (k : Nat) (x : Score) : (s.setScore k x).fb = s.fb := by rfl
@[simp] theorem State.setScore_ms (s : State) (k : Nat) (x : Score) : (s.setScore k x).ms = s.ms := by rfl
@[simp] theorem State.setScore_lg (s : State) (k : Nat) (x : Score) : (s.setScore k x).lg = s.lg := by rfl
@[simp] theorem State.setScore_sv (s : State) (k : Nat) (x : Score) : (s.setScore k x).sv = s.sv := by rfl

@[simp] theorem State.setLink_pending (s : State) (k : Nat) (x : Link) : (s.setLink k x).pending = s.pending := by rfl
@[simp] theorem State.setLink_now (s : State) (k : Nat) (x : Link) : (s.setLink k x).now = s.now := by rfl
@[simp] theorem State.setLink_fresh (s : State) (k : Nat) (x : Link) : (s.setLink k x).fresh = s.fresh := by rfl
@[simp] theorem State.setLink_rdata (s : State) (k : Nat) (x : Link) : (s.setLink k x).rdata = s.rdata := by rfl
@[simp] theorem State.setLink_sent (s : State) (k : Nat) (x : Link) : (s.setLink k x).sent = s.sent := by rfl
@[simp] theorem State.setLink_evlog (s : State) (k : Nat) (x : Link) : (s.setLink k x).evlog = s.evlog := by rfl
@[simp] theorem State.setLink_regs (s : State) (k : Nat) (x : Link) : (s.setLink k x).regs = s.regs := by rfl
@[simp] theorem State.setLink_live (s : State) (k : Nat) (x : Link) : (s.setLink k x).live = s.live := by rfl
@[simp] theorem State.setLink_mem (s : State) (k : Nat) (x : Link) : (s.setLink k x).mem = s.mem := by rfl
@[simp] theorem State.setLink_beads (s : State) (k : Nat) (x : Link) : (s.setLink k x).beads = s.beads := by rfl
@[simp] theorem State.setLink_side (s : State) (k : Nat) (x : Link) : (s.setLink k x).side = s.side := by rfl
@[simp] theorem State.setLink_frames (s : State) (k : Nat) (x : Link) : (s.setLink k x).frames = s.frames := by rfl
@[simp] theorem State.setLink_boards (s : State) (k : Nat) (x : Link) : (s.setLink k x).boards = s.boards := by rfl
@[simp] theorem State.setLink_dies (s : State) (k : Nat) (x : Link) : (s.setLink k x).dies = s.dies := by rfl
@[simp] theorem State.setLink_mets (s : State) (k : Nat) (x : Link) : (s.setLink k x).mets = s.mets := by rfl
@[simp] theorem State.setLink_ck (s : State) (k : Nat) (x : Link) : (s.setLink k x).ck = s.ck := by rfl
@[simp] theorem State.setLink_pw (s : State) (k : Nat) (x : Link) : (s.setLink k x).pw = s.pw := by rfl
@[simp] theorem State.setLink_th (s : State) (k : Nat) (x : Link) : (s.setLink k x).th = s.th := by rfl
@[simp] theorem State.setLink_hl (s : State) (k : Nat) (x : Link) : (s.setLink k x).hl = s.hl := by rfl
@[simp] theorem State.setLink_wk (s : State) (k : Nat) (x : Link) : (s.setLink k x).wk = s.wk := by rfl
@[simp] theorem State.setLink_ms (s : State) (k : Nat) (x : Link) : (s.setLink k x).ms = s.ms := by rfl
@[simp] theorem State.setLink_lg (s : State) (k : Nat) (x : Link) : (s.setLink k x).lg = s.lg := by rfl
@[simp] theorem State.setLink_sv (s : State) (k : Nat) (x : Link) : (s.setLink k x).sv = s.sv := by rfl

@[simp] theorem State.setSensor_pending (s : State) (k : Nat) (x : Sensor) : (s.setSensor k x).pending = s.pending := by rfl
@[simp] theorem State.setSensor_now (s : State) (k : Nat) (x : Sensor) : (s.setSensor k x).now = s.now := by rfl
@[simp] theorem State.setSensor_fresh (s : State) (k : Nat) (x : Sensor) : (s.setSensor k x).fresh = s.fresh := by rfl
@[simp] theorem State.setSensor_rdata (s : State) (k : Nat) (x : Sensor) : (s.setSensor k x).rdata = s.rdata := by rfl
@[simp] theorem State.setSensor_sent (s : State) (k : Nat) (x : Sensor) : (s.setSensor k x).sent = s.sent := by rfl
@[simp] theorem State.setSensor_evlog (s : State) (k : Nat) (x : Sensor) : (s.setSensor k x).evlog = s.evlog := by rfl
@[simp] theorem State.setSensor_regs (s : State) (k : Nat) (x : Sensor) : (s.setSensor k x).regs = s.regs := by rfl
@[simp] theorem State.setSensor_live (s : State) (k : Nat) (x : Sensor) : (s.setSensor k x).live = s.live := by rfl
@[simp] theorem State.setSensor_mem (s : State) (k : Nat) (x : Sensor) : (s.setSensor k x).mem = s.mem := by rfl
@[simp] theorem State.setSensor_beads (s : State) (k : Nat) (x : Sensor) : (s.setSensor k x).beads = s.beads := by rfl
@[simp] theorem State.setSensor_side (s : State) (k : Nat) (x : Sensor) : (s.setSensor k x).side = s.side := by rfl
@[simp] theorem State.setSensor_frames (s : State) (k : Nat) (x : Sensor) : (s.setSensor k x).frames = s.frames := by rfl
@[simp] theorem State.setSensor_boards (s : State) (k : Nat) (x : Sensor) : (s.setSensor k x).boards = s.boards := by rfl
@[simp] theorem State.setSensor_dies (s : State) (k : Nat) (x : Sensor) : (s.setSensor k x).dies = s.dies := by rfl
@[simp] theorem State.setSensor_mets (s : State) (k : Nat) (x : Sensor) : (s.setSensor k x).mets = s.mets := by rfl
@[simp] theorem State.setSensor_ck (s : State) (k : Nat) (x : Sensor) : (s.setSensor k x).ck = s.ck := by rfl
@[simp] theorem State.setSensor_pw (s : State) (k : Nat) (x : Sensor) : (s.setSensor k x).pw = s.pw := by rfl
@[simp] theorem State.setSensor_hl (s : State) (k : Nat) (x : Sensor) : (s.setSensor k x).hl = s.hl := by rfl
@[simp] theorem State.setSensor_wk (s : State) (k : Nat) (x : Sensor) : (s.setSensor k x).wk = s.wk := by rfl
@[simp] theorem State.setSensor_fb (s : State) (k : Nat) (x : Sensor) : (s.setSensor k x).fb = s.fb := by rfl
@[simp] theorem State.setSensor_ms (s : State) (k : Nat) (x : Sensor) : (s.setSensor k x).ms = s.ms := by rfl
@[simp] theorem State.setSensor_lg (s : State) (k : Nat) (x : Sensor) : (s.setSensor k x).lg = s.lg := by rfl
@[simp] theorem State.setSensor_sv (s : State) (k : Nat) (x : Sensor) : (s.setSensor k x).sv = s.sv := by rfl

@[simp] theorem State.setThunit_pending (s : State) (k : Nat) (x : ThUnit) : (s.setThunit k x).pending = s.pending := by rfl
@[simp] theorem State.setThunit_now (s : State) (k : Nat) (x : ThUnit) : (s.setThunit k x).now = s.now := by rfl
@[simp] theorem State.setThunit_fresh (s : State) (k : Nat) (x : ThUnit) : (s.setThunit k x).fresh = s.fresh := by rfl
@[simp] theorem State.setThunit_rdata (s : State) (k : Nat) (x : ThUnit) : (s.setThunit k x).rdata = s.rdata := by rfl
@[simp] theorem State.setThunit_sent (s : State) (k : Nat) (x : ThUnit) : (s.setThunit k x).sent = s.sent := by rfl
@[simp] theorem State.setThunit_evlog (s : State) (k : Nat) (x : ThUnit) : (s.setThunit k x).evlog = s.evlog := by rfl
@[simp] theorem State.setThunit_regs (s : State) (k : Nat) (x : ThUnit) : (s.setThunit k x).regs = s.regs := by rfl
@[simp] theorem State.setThunit_live (s : State) (k : Nat) (x : ThUnit) : (s.setThunit k x).live = s.live := by rfl
@[simp] theorem State.setThunit_mem (s : State) (k : Nat) (x : ThUnit) : (s.setThunit k x).mem = s.mem := by rfl
@[simp] theorem State.setThunit_beads (s : State) (k : Nat) (x : ThUnit) : (s.setThunit k x).beads = s.beads := by rfl
@[simp] theorem State.setThunit_side (s : State) (k : Nat) (x : ThUnit) : (s.setThunit k x).side = s.side := by rfl
@[simp] theorem State.setThunit_frames (s : State) (k : Nat) (x : ThUnit) : (s.setThunit k x).frames = s.frames := by rfl
@[simp] theorem State.setThunit_boards (s : State) (k : Nat) (x : ThUnit) : (s.setThunit k x).boards = s.boards := by rfl
@[simp] theorem State.setThunit_dies (s : State) (k : Nat) (x : ThUnit) : (s.setThunit k x).dies = s.dies := by rfl
@[simp] theorem State.setThunit_mets (s : State) (k : Nat) (x : ThUnit) : (s.setThunit k x).mets = s.mets := by rfl
@[simp] theorem State.setThunit_ck (s : State) (k : Nat) (x : ThUnit) : (s.setThunit k x).ck = s.ck := by rfl
@[simp] theorem State.setThunit_pw (s : State) (k : Nat) (x : ThUnit) : (s.setThunit k x).pw = s.pw := by rfl
@[simp] theorem State.setThunit_hl (s : State) (k : Nat) (x : ThUnit) : (s.setThunit k x).hl = s.hl := by rfl
@[simp] theorem State.setThunit_wk (s : State) (k : Nat) (x : ThUnit) : (s.setThunit k x).wk = s.wk := by rfl
@[simp] theorem State.setThunit_fb (s : State) (k : Nat) (x : ThUnit) : (s.setThunit k x).fb = s.fb := by rfl
@[simp] theorem State.setThunit_ms (s : State) (k : Nat) (x : ThUnit) : (s.setThunit k x).ms = s.ms := by rfl
@[simp] theorem State.setThunit_lg (s : State) (k : Nat) (x : ThUnit) : (s.setThunit k x).lg = s.lg := by rfl
@[simp] theorem State.setThunit_sv (s : State) (k : Nat) (x : ThUnit) : (s.setThunit k x).sv = s.sv := by rfl

@[simp] theorem State.setChan_pending (s : State) (k : Nat) (x : Chan) : (s.setChan k x).pending = s.pending := by rfl
@[simp] theorem State.setChan_now (s : State) (k : Nat) (x : Chan) : (s.setChan k x).now = s.now := by rfl
@[simp] theorem State.setChan_fresh (s : State) (k : Nat) (x : Chan) : (s.setChan k x).fresh = s.fresh := by rfl
@[simp] theorem State.setChan_rdata (s : State) (k : Nat) (x : Chan) : (s.setChan k x).rdata = s.rdata := by rfl
@[simp] theorem State.setChan_sent (s : State) (k : Nat) (x : Chan) : (s.setChan k x).sent = s.sent := by rfl
@[simp] theorem State.setChan_evlog (s : State) (k : Nat) (x : Chan) : (s.setChan k x).evlog = s.evlog := by rfl
@[simp] theorem State.setChan_regs (s : State) (k : Nat) (x : Chan) : (s.setChan k x).regs = s.regs := by rfl
@[simp] theorem State.setChan_live (s : State) (k : Nat) (x : Chan) : (s.setChan k x).live = s.live := by rfl
@[simp] theorem State.setChan_mem (s : State) (k : Nat) (x : Chan) : (s.setChan k x).mem = s.mem := by rfl
@[simp] theorem State.setChan_beads (s : State) (k : Nat) (x : Chan) : (s.setChan k x).beads = s.beads := by rfl
@[simp] theorem State.setChan_side (s : State) (k : Nat) (x : Chan) : (s.setChan k x).side = s.side := by rfl
@[simp] theorem State.setChan_frames (s : State) (k : Nat) (x : Chan) : (s.setChan k x).frames = s.frames := by rfl
@[simp] theorem State.setChan_boards (s : State) (k : Nat) (x : Chan) : (s.setChan k x).boards = s.boards := by rfl
@[simp] theorem State.setChan_dies (s : State) (k : Nat) (x : Chan) : (s.setChan k x).dies = s.dies := by rfl
@[simp] theorem State.setChan_mets (s : State) (k : Nat) (x : Chan) : (s.setChan k x).mets = s.mets := by rfl
@[simp] theorem State.setChan_ck (s : State) (k : Nat) (x : Chan) : (s.setChan k x).ck = s.ck := by rfl
@[simp] theorem State.setChan_pw (s : State) (k : Nat) (x : Chan) : (s.setChan k x).pw = s.pw := by rfl
@[simp] theorem State.setChan_th (s : State) (k : Nat) (x : Chan) : (s.setChan k x).th = s.th := by rfl
@[simp] theorem State.setChan_hl (s : State) (k : Nat) (x : Chan) : (s.setChan k x).hl = s.hl := by rfl
@[simp] theorem State.setChan_wk (s : State) (k : Nat) (x : Chan) : (s.setChan k x).wk = s.wk := by rfl
@[simp] theorem State.setChan_fb (s : State) (k : Nat) (x : Chan) : (s.setChan k x).fb = s.fb := by rfl
@[simp] theorem State.setChan_lg (s : State) (k : Nat) (x : Chan) : (s.setChan k x).lg = s.lg := by rfl
@[simp] theorem State.setChan_sv (s : State) (k : Nat) (x : Chan) : (s.setChan k x).sv = s.sv := by rfl

@[simp] theorem State.setBead_pending (s : State) (k v : Nat) : (s.setBead k v).pending = s.pending := by rfl
@[simp] theorem State.setBead_now (s : State) (k v : Nat) : (s.setBead k v).now = s.now := by rfl
@[simp] theorem State.setBead_fresh (s : State) (k v : Nat) : (s.setBead k v).fresh = s.fresh := by rfl
@[simp] theorem State.setBead_rdata (s : State) (k v : Nat) : (s.setBead k v).rdata = s.rdata := by rfl
@[simp] theorem State.setBead_sent (s : State) (k v : Nat) : (s.setBead k v).sent = s.sent := by rfl
@[simp] theorem State.setBead_evlog (s : State) (k v : Nat) : (s.setBead k v).evlog = s.evlog := by rfl
@[simp] theorem State.setBead_regs (s : State) (k v : Nat) : (s.setBead k v).regs = s.regs := by rfl
@[simp] theorem State.setBead_live (s : State) (k v : Nat) : (s.setBead k v).live = s.live := by rfl
@[simp] theorem State.setBead_mem (s : State) (k v : Nat) : (s.setBead k v).mem = s.mem := by rfl
@[simp] theorem State.setBead_side (s : State) (k v : Nat) : (s.setBead k v).side = s.side := by rfl
@[simp] theorem State.setBead_frames (s : State) (k v : Nat) : (s.setBead k v).frames = s.frames := by rfl
@[simp] theorem State.setBead_boards (s : State) (k v : Nat) : (s.setBead k v).boards = s.boards := by rfl
@[simp] theorem State.setBead_dies (s : State) (k v : Nat) : (s.setBead k v).dies = s.dies := by rfl
@[simp] theorem State.setBead_mets (s : State) (k v : Nat) : (s.setBead k v).mets = s.mets := by rfl
@[simp] theorem State.setBead_ck (s : State) (k v : Nat) : (s.setBead k v).ck = s.ck := by rfl
@[simp] theorem State.setBead_pw (s : State) (k v : Nat) : (s.setBead k v).pw = s.pw := by rfl
@[simp] theorem State.setBead_th (s : State) (k v : Nat) : (s.setBead k v).th = s.th := by rfl
@[simp] theorem State.setBead_hl (s : State) (k v : Nat) : (s.setBead k v).hl = s.hl := by rfl
@[simp] theorem State.setBead_wk (s : State) (k v : Nat) : (s.setBead k v).wk = s.wk := by rfl
@[simp] theorem State.setBead_fb (s : State) (k v : Nat) : (s.setBead k v).fb = s.fb := by rfl
@[simp] theorem State.setBead_ms (s : State) (k v : Nat) : (s.setBead k v).ms = s.ms := by rfl
@[simp] theorem State.setBead_lg (s : State) (k v : Nat) : (s.setBead k v).lg = s.lg := by rfl
@[simp] theorem State.setBead_sv (s : State) (k v : Nat) : (s.setBead k v).sv = s.sv := by rfl

@[simp] theorem State.setSide_pending (s : State) (fk p row : Nat) (x : Side) : (s.setSide fk p row x).pending = s.pending := by rfl
@[simp] theorem State.setSide_now (s : State) (fk p row : Nat) (x : Side) : (s.setSide fk p row x).now = s.now := by rfl
@[simp] theorem State.setSide_fresh (s : State) (fk p row : Nat) (x : Side) : (s.setSide fk p row x).fresh = s.fresh := by rfl
@[simp] theorem State.setSide_rdata (s : State) (fk p row : Nat) (x : Side) : (s.setSide fk p row x).rdata = s.rdata := by rfl
@[simp] theorem State.setSide_sent (s : State) (fk p row : Nat) (x : Side) : (s.setSide fk p row x).sent = s.sent := by rfl
@[simp] theorem State.setSide_evlog (s : State) (fk p row : Nat) (x : Side) : (s.setSide fk p row x).evlog = s.evlog := by rfl
@[simp] theorem State.setSide_regs (s : State) (fk p row : Nat) (x : Side) : (s.setSide fk p row x).regs = s.regs := by rfl
@[simp] theorem State.setSide_live (s : State) (fk p row : Nat) (x : Side) : (s.setSide fk p row x).live = s.live := by rfl
@[simp] theorem State.setSide_mem (s : State) (fk p row : Nat) (x : Side) : (s.setSide fk p row x).mem = s.mem := by rfl
@[simp] theorem State.setSide_beads (s : State) (fk p row : Nat) (x : Side) : (s.setSide fk p row x).beads = s.beads := by rfl
@[simp] theorem State.setSide_frames (s : State) (fk p row : Nat) (x : Side) : (s.setSide fk p row x).frames = s.frames := by rfl
@[simp] theorem State.setSide_boards (s : State) (fk p row : Nat) (x : Side) : (s.setSide fk p row x).boards = s.boards := by rfl
@[simp] theorem State.setSide_dies (s : State) (fk p row : Nat) (x : Side) : (s.setSide fk p row x).dies = s.dies := by rfl
@[simp] theorem State.setSide_mets (s : State) (fk p row : Nat) (x : Side) : (s.setSide fk p row x).mets = s.mets := by rfl
@[simp] theorem State.setSide_ck (s : State) (fk p row : Nat) (x : Side) : (s.setSide fk p row x).ck = s.ck := by rfl
@[simp] theorem State.setSide_pw (s : State) (fk p row : Nat) (x : Side) : (s.setSide fk p row x).pw = s.pw := by rfl
@[simp] theorem State.setSide_th (s : State) (fk p row : Nat) (x : Side) : (s.setSide fk p row x).th = s.th := by rfl
@[simp] theorem State.setSide_hl (s : State) (fk p row : Nat) (x : Side) : (s.setSide fk p row x).hl = s.hl := by rfl
@[simp] theorem State.setSide_wk (s : State) (fk p row : Nat) (x : Side) : (s.setSide fk p row x).wk = s.wk := by rfl
@[simp] theorem State.setSide_fb (s : State) (fk p row : Nat) (x : Side) : (s.setSide fk p row x).fb = s.fb := by rfl
@[simp] theorem State.setSide_ms (s : State) (fk p row : Nat) (x : Side) : (s.setSide fk p row x).ms = s.ms := by rfl
@[simp] theorem State.setSide_lg (s : State) (fk p row : Nat) (x : Side) : (s.setSide fk p row x).lg = s.lg := by rfl
@[simp] theorem State.setSide_sv (s : State) (fk p row : Nat) (x : Side) : (s.setSide fk p row x).sv = s.sv := by rfl

@[simp] theorem State.setByte_pending (s : State) (a : Nat) (v : Byte) : (s.setByte a v).pending = s.pending := by rfl
@[simp] theorem State.setByte_now (s : State) (a : Nat) (v : Byte) : (s.setByte a v).now = s.now := by rfl
@[simp] theorem State.setByte_fresh (s : State) (a : Nat) (v : Byte) : (s.setByte a v).fresh = s.fresh := by rfl
@[simp] theorem State.setByte_rdata (s : State) (a : Nat) (v : Byte) : (s.setByte a v).rdata = s.rdata := by rfl
@[simp] theorem State.setByte_sent (s : State) (a : Nat) (v : Byte) : (s.setByte a v).sent = s.sent := by rfl
@[simp] theorem State.setByte_evlog (s : State) (a : Nat) (v : Byte) : (s.setByte a v).evlog = s.evlog := by rfl
@[simp] theorem State.setByte_regs (s : State) (a : Nat) (v : Byte) : (s.setByte a v).regs = s.regs := by rfl
@[simp] theorem State.setByte_live (s : State) (a : Nat) (v : Byte) : (s.setByte a v).live = s.live := by rfl
@[simp] theorem State.setByte_beads (s : State) (a : Nat) (v : Byte) : (s.setByte a v).beads = s.beads := by rfl
@[simp] theorem State.setByte_side (s : State) (a : Nat) (v : Byte) : (s.setByte a v).side = s.side := by rfl
@[simp] theorem State.setByte_frames (s : State) (a : Nat) (v : Byte) : (s.setByte a v).frames = s.frames := by rfl
@[simp] theorem State.setByte_boards (s : State) (a : Nat) (v : Byte) : (s.setByte a v).boards = s.boards := by rfl
@[simp] theorem State.setByte_dies (s : State) (a : Nat) (v : Byte) : (s.setByte a v).dies = s.dies := by rfl
@[simp] theorem State.setByte_mets (s : State) (a : Nat) (v : Byte) : (s.setByte a v).mets = s.mets := by rfl
@[simp] theorem State.setByte_ck (s : State) (a : Nat) (v : Byte) : (s.setByte a v).ck = s.ck := by rfl
@[simp] theorem State.setByte_pw (s : State) (a : Nat) (v : Byte) : (s.setByte a v).pw = s.pw := by rfl
@[simp] theorem State.setByte_th (s : State) (a : Nat) (v : Byte) : (s.setByte a v).th = s.th := by rfl
@[simp] theorem State.setByte_hl (s : State) (a : Nat) (v : Byte) : (s.setByte a v).hl = s.hl := by rfl
@[simp] theorem State.setByte_wk (s : State) (a : Nat) (v : Byte) : (s.setByte a v).wk = s.wk := by rfl
@[simp] theorem State.setByte_fb (s : State) (a : Nat) (v : Byte) : (s.setByte a v).fb = s.fb := by rfl
@[simp] theorem State.setByte_ms (s : State) (a : Nat) (v : Byte) : (s.setByte a v).ms = s.ms := by rfl
@[simp] theorem State.setByte_lg (s : State) (a : Nat) (v : Byte) : (s.setByte a v).lg = s.lg := by rfl
@[simp] theorem State.setByte_sv (s : State) (a : Nat) (v : Byte) : (s.setByte a v).sv = s.sv := by rfl

@[simp] theorem State.store_pending (s : State) (a : Nat) (bs : List Byte) : (s.store a bs).pending = s.pending := by rfl
@[simp] theorem State.store_now (s : State) (a : Nat) (bs : List Byte) : (s.store a bs).now = s.now := by rfl
@[simp] theorem State.store_fresh (s : State) (a : Nat) (bs : List Byte) : (s.store a bs).fresh = s.fresh := by rfl
@[simp] theorem State.store_rdata (s : State) (a : Nat) (bs : List Byte) : (s.store a bs).rdata = s.rdata := by rfl
@[simp] theorem State.store_sent (s : State) (a : Nat) (bs : List Byte) : (s.store a bs).sent = s.sent := by rfl
@[simp] theorem State.store_evlog (s : State) (a : Nat) (bs : List Byte) : (s.store a bs).evlog = s.evlog := by rfl
@[simp] theorem State.store_regs (s : State) (a : Nat) (bs : List Byte) : (s.store a bs).regs = s.regs := by rfl
@[simp] theorem State.store_live (s : State) (a : Nat) (bs : List Byte) : (s.store a bs).live = s.live := by rfl
@[simp] theorem State.store_beads (s : State) (a : Nat) (bs : List Byte) : (s.store a bs).beads = s.beads := by rfl
@[simp] theorem State.store_side (s : State) (a : Nat) (bs : List Byte) : (s.store a bs).side = s.side := by rfl
@[simp] theorem State.store_frames (s : State) (a : Nat) (bs : List Byte) : (s.store a bs).frames = s.frames := by rfl
@[simp] theorem State.store_boards (s : State) (a : Nat) (bs : List Byte) : (s.store a bs).boards = s.boards := by rfl
@[simp] theorem State.store_dies (s : State) (a : Nat) (bs : List Byte) : (s.store a bs).dies = s.dies := by rfl
@[simp] theorem State.store_mets (s : State) (a : Nat) (bs : List Byte) : (s.store a bs).mets = s.mets := by rfl
@[simp] theorem State.store_ck (s : State) (a : Nat) (bs : List Byte) : (s.store a bs).ck = s.ck := by rfl
@[simp] theorem State.store_pw (s : State) (a : Nat) (bs : List Byte) : (s.store a bs).pw = s.pw := by rfl
@[simp] theorem State.store_th (s : State) (a : Nat) (bs : List Byte) : (s.store a bs).th = s.th := by rfl
@[simp] theorem State.store_hl (s : State) (a : Nat) (bs : List Byte) : (s.store a bs).hl = s.hl := by rfl
@[simp] theorem State.store_wk (s : State) (a : Nat) (bs : List Byte) : (s.store a bs).wk = s.wk := by rfl
@[simp] theorem State.store_fb (s : State) (a : Nat) (bs : List Byte) : (s.store a bs).fb = s.fb := by rfl
@[simp] theorem State.store_ms (s : State) (a : Nat) (bs : List Byte) : (s.store a bs).ms = s.ms := by rfl
@[simp] theorem State.store_lg (s : State) (a : Nat) (bs : List Byte) : (s.store a bs).lg = s.lg := by rfl
@[simp] theorem State.store_sv (s : State) (a : Nat) (bs : List Byte) : (s.store a bs).sv = s.sv := by rfl

@[simp] theorem State.zeroRange_pending (s : State) (a n : Nat) : (s.zeroRange a n).pending = s.pending := by rfl
@[simp] theorem State.zeroRange_now (s : State) (a n : Nat) : (s.zeroRange a n).now = s.now := by rfl
@[simp] theorem State.zeroRange_fresh (s : State) (a n : Nat) : (s.zeroRange a n).fresh = s.fresh := by rfl
@[simp] theorem State.zeroRange_rdata (s : State) (a n : Nat) : (s.zeroRange a n).rdata = s.rdata := by rfl
@[simp] theorem State.zeroRange_sent (s : State) (a n : Nat) : (s.zeroRange a n).sent = s.sent := by rfl
@[simp] theorem State.zeroRange_evlog (s : State) (a n : Nat) : (s.zeroRange a n).evlog = s.evlog := by rfl
@[simp] theorem State.zeroRange_regs (s : State) (a n : Nat) : (s.zeroRange a n).regs = s.regs := by rfl
@[simp] theorem State.zeroRange_live (s : State) (a n : Nat) : (s.zeroRange a n).live = s.live := by rfl
@[simp] theorem State.zeroRange_beads (s : State) (a n : Nat) : (s.zeroRange a n).beads = s.beads := by rfl
@[simp] theorem State.zeroRange_side (s : State) (a n : Nat) : (s.zeroRange a n).side = s.side := by rfl
@[simp] theorem State.zeroRange_frames (s : State) (a n : Nat) : (s.zeroRange a n).frames = s.frames := by rfl
@[simp] theorem State.zeroRange_boards (s : State) (a n : Nat) : (s.zeroRange a n).boards = s.boards := by rfl
@[simp] theorem State.zeroRange_dies (s : State) (a n : Nat) : (s.zeroRange a n).dies = s.dies := by rfl
@[simp] theorem State.zeroRange_mets (s : State) (a n : Nat) : (s.zeroRange a n).mets = s.mets := by rfl
@[simp] theorem State.zeroRange_ck (s : State) (a n : Nat) : (s.zeroRange a n).ck = s.ck := by rfl
@[simp] theorem State.zeroRange_pw (s : State) (a n : Nat) : (s.zeroRange a n).pw = s.pw := by rfl
@[simp] theorem State.zeroRange_th (s : State) (a n : Nat) : (s.zeroRange a n).th = s.th := by rfl
@[simp] theorem State.zeroRange_hl (s : State) (a n : Nat) : (s.zeroRange a n).hl = s.hl := by rfl
@[simp] theorem State.zeroRange_wk (s : State) (a n : Nat) : (s.zeroRange a n).wk = s.wk := by rfl
@[simp] theorem State.zeroRange_fb (s : State) (a n : Nat) : (s.zeroRange a n).fb = s.fb := by rfl
@[simp] theorem State.zeroRange_ms (s : State) (a n : Nat) : (s.zeroRange a n).ms = s.ms := by rfl
@[simp] theorem State.zeroRange_lg (s : State) (a n : Nat) : (s.zeroRange a n).lg = s.lg := by rfl
@[simp] theorem State.zeroRange_sv (s : State) (a n : Nat) : (s.zeroRange a n).sv = s.sv := by rfl

@[simp] theorem State.emit_pending (s : State) (o : Out) : (s.emit o).pending = s.pending := by rfl
@[simp] theorem State.emit_now (s : State) (o : Out) : (s.emit o).now = s.now := by rfl
@[simp] theorem State.emit_fresh (s : State) (o : Out) : (s.emit o).fresh = s.fresh := by rfl
@[simp] theorem State.emit_rdata (s : State) (o : Out) : (s.emit o).rdata = s.rdata := by rfl
@[simp] theorem State.emit_evlog (s : State) (o : Out) : (s.emit o).evlog = s.evlog := by rfl
@[simp] theorem State.emit_regs (s : State) (o : Out) : (s.emit o).regs = s.regs := by rfl
@[simp] theorem State.emit_live (s : State) (o : Out) : (s.emit o).live = s.live := by rfl
@[simp] theorem State.emit_mem (s : State) (o : Out) : (s.emit o).mem = s.mem := by rfl
@[simp] theorem State.emit_beads (s : State) (o : Out) : (s.emit o).beads = s.beads := by rfl
@[simp] theorem State.emit_side (s : State) (o : Out) : (s.emit o).side = s.side := by rfl
@[simp] theorem State.emit_frames (s : State) (o : Out) : (s.emit o).frames = s.frames := by rfl
@[simp] theorem State.emit_boards (s : State) (o : Out) : (s.emit o).boards = s.boards := by rfl
@[simp] theorem State.emit_dies (s : State) (o : Out) : (s.emit o).dies = s.dies := by rfl
@[simp] theorem State.emit_mets (s : State) (o : Out) : (s.emit o).mets = s.mets := by rfl
@[simp] theorem State.emit_ck (s : State) (o : Out) : (s.emit o).ck = s.ck := by rfl
@[simp] theorem State.emit_pw (s : State) (o : Out) : (s.emit o).pw = s.pw := by rfl
@[simp] theorem State.emit_th (s : State) (o : Out) : (s.emit o).th = s.th := by rfl
@[simp] theorem State.emit_hl (s : State) (o : Out) : (s.emit o).hl = s.hl := by rfl
@[simp] theorem State.emit_wk (s : State) (o : Out) : (s.emit o).wk = s.wk := by rfl
@[simp] theorem State.emit_fb (s : State) (o : Out) : (s.emit o).fb = s.fb := by rfl
@[simp] theorem State.emit_ms (s : State) (o : Out) : (s.emit o).ms = s.ms := by rfl
@[simp] theorem State.emit_lg (s : State) (o : Out) : (s.emit o).lg = s.lg := by rfl
@[simp] theorem State.emit_sv (s : State) (o : Out) : (s.emit o).sv = s.sv := by rfl

@[simp] theorem State.log_pending (s : State) (code : Nat) (detail : List Nat) : (s.log code detail).pending = s.pending := by rfl
@[simp] theorem State.log_now (s : State) (code : Nat) (detail : List Nat) : (s.log code detail).now = s.now := by rfl
@[simp] theorem State.log_fresh (s : State) (code : Nat) (detail : List Nat) : (s.log code detail).fresh = s.fresh := by rfl
@[simp] theorem State.log_rdata (s : State) (code : Nat) (detail : List Nat) : (s.log code detail).rdata = s.rdata := by rfl
@[simp] theorem State.log_sent (s : State) (code : Nat) (detail : List Nat) : (s.log code detail).sent = s.sent := by rfl
@[simp] theorem State.log_regs (s : State) (code : Nat) (detail : List Nat) : (s.log code detail).regs = s.regs := by rfl
@[simp] theorem State.log_live (s : State) (code : Nat) (detail : List Nat) : (s.log code detail).live = s.live := by rfl
@[simp] theorem State.log_mem (s : State) (code : Nat) (detail : List Nat) : (s.log code detail).mem = s.mem := by rfl
@[simp] theorem State.log_beads (s : State) (code : Nat) (detail : List Nat) : (s.log code detail).beads = s.beads := by rfl
@[simp] theorem State.log_side (s : State) (code : Nat) (detail : List Nat) : (s.log code detail).side = s.side := by rfl
@[simp] theorem State.log_frames (s : State) (code : Nat) (detail : List Nat) : (s.log code detail).frames = s.frames := by rfl
@[simp] theorem State.log_boards (s : State) (code : Nat) (detail : List Nat) : (s.log code detail).boards = s.boards := by rfl
@[simp] theorem State.log_dies (s : State) (code : Nat) (detail : List Nat) : (s.log code detail).dies = s.dies := by rfl
@[simp] theorem State.log_mets (s : State) (code : Nat) (detail : List Nat) : (s.log code detail).mets = s.mets := by rfl
@[simp] theorem State.log_ck (s : State) (code : Nat) (detail : List Nat) : (s.log code detail).ck = s.ck := by rfl
@[simp] theorem State.log_pw (s : State) (code : Nat) (detail : List Nat) : (s.log code detail).pw = s.pw := by rfl
@[simp] theorem State.log_th (s : State) (code : Nat) (detail : List Nat) : (s.log code detail).th = s.th := by rfl
@[simp] theorem State.log_hl (s : State) (code : Nat) (detail : List Nat) : (s.log code detail).hl = s.hl := by rfl
@[simp] theorem State.log_wk (s : State) (code : Nat) (detail : List Nat) : (s.log code detail).wk = s.wk := by rfl
@[simp] theorem State.log_fb (s : State) (code : Nat) (detail : List Nat) : (s.log code detail).fb = s.fb := by rfl
@[simp] theorem State.log_ms (s : State) (code : Nat) (detail : List Nat) : (s.log code detail).ms = s.ms := by rfl
@[simp] theorem State.log_lg (s : State) (code : Nat) (detail : List Nat) : (s.log code detail).lg = s.lg := by rfl
@[simp] theorem State.log_sv (s : State) (code : Nat) (detail : List Nat) : (s.log code detail).sv = s.sv := by rfl

@[simp] theorem State.take_pending (s : State) (n : Nat) : (s.take n).pending = s.pending := by rfl
@[simp] theorem State.take_now (s : State) (n : Nat) : (s.take n).now = s.now := by rfl
@[simp] theorem State.take_rdata (s : State) (n : Nat) : (s.take n).rdata = s.rdata := by rfl
@[simp] theorem State.take_sent (s : State) (n : Nat) : (s.take n).sent = s.sent := by rfl
@[simp] theorem State.take_evlog (s : State) (n : Nat) : (s.take n).evlog = s.evlog := by rfl
@[simp] theorem State.take_regs (s : State) (n : Nat) : (s.take n).regs = s.regs := by rfl
@[simp] theorem State.take_live (s : State) (n : Nat) : (s.take n).live = s.live := by rfl
@[simp] theorem State.take_mem (s : State) (n : Nat) : (s.take n).mem = s.mem := by rfl
@[simp] theorem State.take_beads (s : State) (n : Nat) : (s.take n).beads = s.beads := by rfl
@[simp] theorem State.take_side (s : State) (n : Nat) : (s.take n).side = s.side := by rfl
@[simp] theorem State.take_frames (s : State) (n : Nat) : (s.take n).frames = s.frames := by rfl
@[simp] theorem State.take_boards (s : State) (n : Nat) : (s.take n).boards = s.boards := by rfl
@[simp] theorem State.take_dies (s : State) (n : Nat) : (s.take n).dies = s.dies := by rfl
@[simp] theorem State.take_mets (s : State) (n : Nat) : (s.take n).mets = s.mets := by rfl
@[simp] theorem State.take_ck (s : State) (n : Nat) : (s.take n).ck = s.ck := by rfl
@[simp] theorem State.take_pw (s : State) (n : Nat) : (s.take n).pw = s.pw := by rfl
@[simp] theorem State.take_th (s : State) (n : Nat) : (s.take n).th = s.th := by rfl
@[simp] theorem State.take_hl (s : State) (n : Nat) : (s.take n).hl = s.hl := by rfl
@[simp] theorem State.take_wk (s : State) (n : Nat) : (s.take n).wk = s.wk := by rfl
@[simp] theorem State.take_fb (s : State) (n : Nat) : (s.take n).fb = s.fb := by rfl
@[simp] theorem State.take_ms (s : State) (n : Nat) : (s.take n).ms = s.ms := by rfl
@[simp] theorem State.take_lg (s : State) (n : Nat) : (s.take n).lg = s.lg := by rfl
@[simp] theorem State.take_sv (s : State) (n : Nat) : (s.take n).sv = s.sv := by rfl

@[simp] theorem State.frame_setFrame (s : State) (k : Nat) (x : Frame) : (s.setFrame k x).frame k = x := by
  simp [State.frame, State.setFrame]
theorem State.frame_setFrame_ne (s : State) (k j : Nat) (x : Frame) (h : j ≠ k) : (s.setFrame k x).frame j = s.frame j := by
  simp [State.frame, State.setFrame, mget_mput_ne _ _ _ _ _ _ h]
@[simp] theorem State.board_setBoard (s : State) (k : Nat) (x : Board) : (s.setBoard k x).board k = x := by
  simp [State.board, State.setBoard]
theorem State.board_setBoard_ne (s : State) (k j : Nat) (x : Board) (h : j ≠ k) : (s.setBoard k x).board j = s.board j := by
  simp [State.board, State.setBoard, mget_mput_ne _ _ _ _ _ _ h]
@[simp] theorem State.die_setDie (s : State) (k : Nat) (x : DieRec) : (s.setDie k x).die k = x := by
  simp [State.die, State.setDie]
theorem State.die_setDie_ne (s : State) (k j : Nat) (x : DieRec) (h : j ≠ k) : (s.setDie k x).die j = s.die j := by
  simp [State.die, State.setDie, mget_mput_ne _ _ _ _ _ _ h]
@[simp] theorem State.met_setMet (s : State) (k : Nat) (x : Met) : (s.setMet k x).met k = x := by
  simp [State.met, State.setMet]
theorem State.met_setMet_ne (s : State) (k j : Nat) (x : Met) (h : j ≠ k) : (s.setMet k x).met j = s.met j := by
  simp [State.met, State.setMet, mget_mput_ne _ _ _ _ _ _ h]
@[simp] theorem State.sess_setSess (s : State) (k : Nat) (x : Sess) : (s.setSess k x).sess k = x := by
  simp [State.sess, State.setSess]
theorem State.sess_setSess_ne (s : State) (k j : Nat) (x : Sess) (h : j ≠ k) : (s.setSess k x).sess j = s.sess j := by
  simp [State.sess, State.setSess, mget_mput_ne _ _ _ _ _ _ h]
@[simp] theorem State.mbxEnd_setMbx (s : State) (k : Nat) (x : MbxEnd) : (s.setMbx k x).mbxEnd k = x := by
  simp [State.mbxEnd, State.setMbx]
theorem State.mbxEnd_setMbx_ne (s : State) (k j : Nat) (x : MbxEnd) (h : j ≠ k) : (s.setMbx k x).mbxEnd j = s.mbxEnd j := by
  simp [State.mbxEnd, State.setMbx, mget_mput_ne _ _ _ _ _ _ h]
@[simp] theorem State.port_setPort (s : State) (k : Nat) (x : Port) : (s.setPort k x).port k = x := by
  simp [State.port, State.setPort]
theorem State.port_setPort_ne (s : State) (k j : Nat) (x : Port) (h : j ≠ k) : (s.setPort k x).port j = s.port j := by
  simp [State.port, State.setPort, mget_mput_ne _ _ _ _ _ _ h]
@[simp] theorem State.ring_setRing (s : State) (k : Nat) (x : Ring) : (s.setRing k x).ring k = x := by
  simp [State.ring, State.setRing]
theorem State.ring_setRing_ne (s : State) (k j : Nat) (x : Ring) (h : j ≠ k) : (s.setRing k x).ring j = s.ring j := by
  simp [State.ring, State.setRing, mget_mput_ne _ _ _ _ _ _ h]
@[simp] theorem State.job_setJob (s : State) (k : Nat) (x : Option Job) : (s.setJob k x).job k = x := by
  simp [State.job, State.setJob]
theorem State.job_setJob_ne (s : State) (k j : Nat) (x : Option Job) (h : j ≠ k) : (s.setJob k x).job j = s.job j := by
  simp [State.job, State.setJob, mget_mput_ne _ _ _ _ _ _ h]
@[simp] theorem State.handle_setHandle (s : State) (k : Nat) (x : Option Handle) : (s.setHandle k x).handle k = x := by
  simp [State.handle, State.setHandle]
theorem State.handle_setHandle_ne (s : State) (k j : Nat) (x : Option Handle) (h : j ≠ k) : (s.setHandle k x).handle j = s.handle j := by
  simp [State.handle, State.setHandle, mget_mput_ne _ _ _ _ _ _ h]
@[simp] theorem State.score_setScore (s : State) (k : Nat) (x : Score) : (s.setScore k x).score k = x := by
  simp [State.score, State.setScore]
theorem State.score_setScore_ne (s : State) (k j : Nat) (x : Score) (h : j ≠ k) : (s.setScore k x).score j = s.score j := by
  simp [State.score, State.setScore, mget_mput_ne _ _ _ _ _ _ h]
@[simp] theorem State.link_setLink (s : State) (k : Nat) (x : Link) : (s.setLink k x).link k = x := by
  simp [State.link, State.setLink]
theorem State.link_setLink_ne (s : State) (k j : Nat) (x : Link) (h : j ≠ k) : (s.setLink k x).link j = s.link j := by
  simp [State.link, State.setLink, mget_mput_ne _ _ _ _ _ _ h]
@[simp] theorem State.sensor_setSensor (s : State) (k : Nat) (x : Sensor) : (s.setSensor k x).sensor k = x := by
  simp [State.sensor, State.setSensor]
theorem State.sensor_setSensor_ne (s : State) (k j : Nat) (x : Sensor) (h : j ≠ k) : (s.setSensor k x).sensor j = s.sensor j := by
  simp [State.sensor, State.setSensor, mget_mput_ne _ _ _ _ _ _ h]
@[simp] theorem State.thunit_setThunit (s : State) (k : Nat) (x : ThUnit) : (s.setThunit k x).thunit k = x := by
  simp [State.thunit, State.setThunit]
theorem State.thunit_setThunit_ne (s : State) (k j : Nat) (x : ThUnit) (h : j ≠ k) : (s.setThunit k x).thunit j = s.thunit j := by
  simp [State.thunit, State.setThunit, mget_mput_ne _ _ _ _ _ _ h]
@[simp] theorem State.chan_setChan (s : State) (k : Nat) (x : Chan) : (s.setChan k x).chan k = x := by
  simp [State.chan, State.setChan]
theorem State.chan_setChan_ne (s : State) (k j : Nat) (x : Chan) (h : j ≠ k) : (s.setChan k x).chan j = s.chan j := by
  simp [State.chan, State.setChan, mget_mput_ne _ _ _ _ _ _ h]

@[simp] theorem State.reg_setReg (s : State) (a : Nat) (w : Word) : (s.setReg a w).reg a = w := by
  simp [State.reg, State.setReg]
theorem State.reg_setReg_ne (s : State) (a b : Nat) (w : Word) (h : b ≠ a) : (s.setReg a w).reg b = s.reg b := by
  simp [State.reg, State.setReg, mget_mput_ne _ _ _ _ _ _ h]
theorem State.reg_setReg_eq (s : State) (a b : Nat) (w : Word) : (s.setReg a w).reg b = if b = a then w else s.reg b := by
  split
  · rename_i h; subst h; simp
  · rename_i h; exact State.reg_setReg_ne s a b w h
@[simp] theorem State.liveReg_setLive (s : State) (a : Nat) (w : Word) : (s.setLive a w).liveReg a = w := by
  simp [State.liveReg, State.setLive]
theorem State.liveReg_setLive_ne (s : State) (a b : Nat) (w : Word) (h : b ≠ a) :
    (s.setLive a w).liveReg b = s.liveReg b := by
  simp [State.liveReg, State.setLive, mget_mput_ne _ _ _ _ _ _ h]
@[simp] theorem State.bead_setBead (s : State) (k v : Nat) : (s.setBead k v).bead k = v := by
  simp [State.bead, State.setBead]
theorem State.bead_setBead_ne (s : State) (k j v : Nat) (h : j ≠ k) : (s.setBead k v).bead j = s.bead j := by
  simp [State.bead, State.setBead, mget_mput_ne _ _ _ _ _ _ h]
@[simp] theorem State.byte_setByte (s : State) (a : Nat) (v : Byte) : (s.setByte a v).byte a = v := by
  simp [State.byte, State.setByte]
theorem State.byte_setByte_ne (s : State) (a b : Nat) (v : Byte) (h : b ≠ a) : (s.setByte a v).byte b = s.byte b := by
  simp [State.byte, State.setByte, mget_mput_ne _ _ _ _ _ _ h]

/-- A counter raised reads its old count plus n, held at 0xFFFF_FFFF (R73). -/
theorem State.regN_bump (s : State) (a n : Nat) : (s.bump a n).regN a = min 0xFFFFFFFF (s.regN a + n) := by
  simp only [State.bump, State.regN, State.setRegN, State.reg_setReg, hold, BitVec.toNat_ofNat]
  omega
theorem State.reg_bump_ne (s : State) (a b n : Nat) (h : b ≠ a) : (s.bump a n).reg b = s.reg b := State.reg_setReg_ne s a b _ h

/-- A store changes the bytes it covers and no other. -/
theorem State.byte_store_out (s : State) (a : Nat) (bs : List Byte) (b : Nat) (h : b < a ∨ a + bs.length ≤ b) :
    (s.store a bs).byte b = s.byte b := by
  have key : ∀ (bs : List Byte) (m : SMap Byte) (a : Nat), (b < a ∨ a + bs.length ≤ b) →
      mget 0 (writeBytes m a bs) b = mget 0 m b := by
    intro bs
    induction bs with
    | nil => intro m a _; rfl
    | cons v bs ih =>
      intro m a h
      simp only [List.length_cons] at h
      rw [writeBytes, ih _ _ (by omega), mget_mput_ne _ _ _ _ _ _ (by omega)]
  exact key bs s.mem a h

theorem State.byte_store_in (s : State) (a : Nat) (bs : List Byte) (i : Nat) (h : i < bs.length) :
    (s.store a bs).byte (a + i) = bs[i] := by
  have key : ∀ (bs : List Byte) (m : SMap Byte) (a i : Nat) (h : i < bs.length),
      mget 0 (writeBytes m a bs) (a + i) = bs[i] := by
    intro bs
    induction bs with
    | nil => intro m a i h; simp at h
    | cons v bs ih =>
      intro m a i h
      cases i with
      | zero =>
        have := State.byte_store_out ⟨[], 0, 0, 0, [], [], [], [], mput 0 m a v, [], [], [], [], [], [], {}, {}, {}, {}, {}, {}, {}, {}, {}⟩
          (a + 1) bs a (by omega)
        simpa [writeBytes, State.byte, State.store] using this
      | succ n =>
        have := ih (mput 0 m a v) (a + 1) n (by simpa using h)
        simpa [writeBytes, Nat.add_assoc, Nat.add_comm 1 n] using this
  exact key bs s.mem a i h

/-- A range made 0 reads 0, and no other byte changes. -/
theorem State.byte_zeroRange (s : State) (a n b : Nat) :
    (s.zeroRange a n).byte b = if a ≤ b ∧ b < a + n then 0 else s.byte b := by
  simp only [State.byte, State.zeroRange]
  induction s.mem with
  | nil => simp [mget]
  | cons e m ih =>
    obtain ⟨k, v⟩ := e
    simp only [List.filter]
    split <;> rename_i h <;> simp only [decide_eq_true_eq, decide_eq_false_iff_not] at h
    · by_cases hk : k = b
      · subst hk; simp only [mget, if_true]; rw [if_neg (by omega)]
      · rw [mget, mget, if_neg hk, if_neg hk]; exact ih
    · by_cases hk : k = b
      · subst hk; rw [ih]; rw [if_pos (by omega), if_pos (by omega)]
      · rw [mget, if_neg hk]; exact ih

/-! The canonical form. -/

/-- The maps of the state that the model keeps canonical: memory, registers and their values in force, beads, side
stores. -/
theorem mwf_writeBytes (m : SMap Byte) (a : Nat) (bs : List Byte) (h : mwf (fun _ => (0 : Byte)) m = true) :
    mwf (fun _ => (0 : Byte)) (writeBytes m a bs) = true := by
  induction bs generalizing m a with
  | nil => exact h
  | cons b bs ih => exact ih _ _ (mwf_mput (fun _ => (0 : Byte)) m a b h)

end Sys2Proof.Machine
end

