-- ==== Sys2Proof/Laws/Ledger.lean ====
section
/-! SUPPORT. Ledger writes whose pre-write checks hold: they succeed, and they leave the checks holding (R457, R458). -/

set_option Elab.async false

namespace Sys2Proof.Machine

/-- The pre-write checks read only these registers and pins. -/
theorem State.prewrite_congr {s t : State} (v : t.reg (metBase 32 + 0x860) = s.reg (metBase 32 + 0x860))
    (b : t.reg (hubBase 0 + 0x80010) = s.reg (hubBase 0 + 0x80010)) (p : t.pw = s.pw) : t.prewrite = s.prewrite := by
  simp only [State.prewrite, State.lastCode, show metBase 32 + 0x800 + 8 * 12 = metBase 32 + 0x860 from rfl, v, b, p]

/-- A page write and a counter keep the checks and the copies in service. -/
def State.SameChecks (s t : State) : Prop :=
  t.reg (metBase 32 + 0x860) = s.reg (metBase 32 + 0x860) ∧ t.reg (hubBase 0 + 0x80010) = s.reg (hubBase 0 + 0x80010) ∧
    t.pw = s.pw ∧ t.lg.inServ = s.lg.inServ

theorem State.SameChecks.prewrite {s t : State} (h : s.SameChecks t) : t.prewrite = s.prewrite :=
  State.prewrite_congr h.1 h.2.1 h.2.2.1

theorem State.SameChecks.copies {s t : State} (h : s.SameChecks t) : t.copies = s.copies := by
  simp only [State.copies, h.2.2.2]

theorem State.SameChecks.trans {s t u : State} (h : s.SameChecks t) (k : t.SameChecks u) : s.SameChecks u :=
  ⟨k.1.trans h.1, k.2.1.trans h.2.1, k.2.2.1.trans h.2.2.1, k.2.2.2.trans h.2.2.2⟩

theorem State.sameChecks_setReg (s : State) (a : Nat) (w : Word) (h : metBase 32 + 0x860 ≠ a)
    (k : hubBase 0 + 0x80010 ≠ a) : s.SameChecks (s.setReg a w) :=
  ⟨State.reg_setReg_ne _ _ _ _ h, State.reg_setReg_ne _ _ _ _ k, rfl, rfl⟩

theorem State.writeSlot_sameChecks (s : State) (c page i : Nat) (x : LSlot) (hc : c < 2) :
    s.SameChecks (s.writeSlot c page i x) := by
  have h : c = 0 ∨ c = 1 := by omega
  unfold State.writeSlot
  dsimp only
  split
  · rcases h with rfl | rfl <;> exact State.sameChecks_setReg _ _ _ (by decide) (by decide)
  · exact ⟨rfl, rfl, rfl, rfl⟩

theorem State.bump_sameChecks (s : State) (c n : Nat) (hc : c < 2) : s.SameChecks (s.bump (hubBase c + 0x90040) n) := by
  have h : c = 0 ∨ c = 1 := by omega
  rcases h with rfl | rfl <;> exact State.sameChecks_setReg _ _ _ (by decide) (by decide)

theorem State.commitPage_sameChecks (s : State) (page : Nat) (bs : List Byte) : s.SameChecks (s.commitPage page bs) := by
  have step : ∀ (l : List Nat) (t : State) (i : Nat) (x : LSlot), (∀ c ∈ l, c < 2) → s.SameChecks t →
      s.SameChecks (l.foldl (fun s c => (s.writeSlot c page i x).bump (hubBase c + 0x90040) 1) t) := by
    intro l
    induction l with
    | nil => exact fun _ _ _ _ h => h
    | cons c r ih =>
      intro t i x hl h
      have hc : c < 2 := hl c (by simp)
      exact ih _ _ _ (fun d hd => hl d (by simp [hd]))
        ((h.trans (State.writeSlot_sameChecks t c page i x hc)).trans (State.bump_sameChecks _ c 1 hc))
  unfold State.commitPage
  dsimp only
  refine step _ _ _ _ (fun c hc => ?_) ⟨rfl, rfl, rfl, rfl⟩
  simp only [State.copies, List.mem_filter, List.mem_range] at hc
  exact hc.1

/-- A page write whose checks hold commits the page. -/
theorem State.ledgerWrite_ok (s : State) (page : Nat) (bs : List Byte) (p : s.prewrite = 0) (c : s.copies ≠ []) :
    s.ledgerWrite page bs = (s.commitPage page bs, true) := by
  unfold State.ledgerWrite
  exact if_pos ⟨p, c⟩

/-- A run of page writes whose checks hold is carried out whole. -/
theorem State.ledgerPages_ok (s : State) (page n : Nat) (bs : List Byte) (p : s.prewrite = 0) (c : s.copies ≠ []) :
    (s.ledgerPages page n bs).2 = true := by
  induction n generalizing s page bs with
  | zero => rfl
  | succ n ih =>
    have h := State.commitPage_sameChecks s page (bs.take 256)
    simp only [State.ledgerPages, State.ledgerWrite_ok s page _ p c]
    exact ih _ _ _ (h.prewrite.trans p) (by rw [h.copies]; exact c)

end Sys2Proof.Machine
end

