-- ==== Sys2Proof/Laws/Entry.lean ====
section
/-! SUPPORT. What acknowledging a command message and writing its audit entry leave alone (R353, R357, R367, R469). -/

set_option Elab.async false

namespace Sys2Proof.Machine

/-- A register outside the mailbox and ledger blocks of the hubs (R316). -/
def calm (a : Nat) : Bool := decide (a < 0x4000000000) || (a / 65536 % 65536 != 1 && a / 65536 % 65536 != 9)

/-- `t` is `s` but for replies, mailboxes, mailbox and ledger registers, the free values drawn, and the ledger's slots, cells, wear
and queue. -/
structure State.Beside (s t : State) : Prop where
  same : t = { s with regs := t.regs, fresh := t.fresh, hl := t.hl, lg := t.lg }
  regs : ∀ a, calm a = true → t.reg a = s.reg a
  sess : t.hl.sessions = s.hl.sessions
  pend : t.hl.pend = s.hl.pend
  passw : t.lg.passw = s.lg.passw
  fail : t.lg.passFail = s.lg.passFail
  serv : t.lg.inServ = s.lg.inServ
  caks : t.lg.caks = s.lg.caks

namespace State.Beside
variable {s t u : State}

theorem refl (s : State) : s.Beside s := ⟨rfl, fun _ _ => rfl, rfl, rfl, rfl, rfl, rfl, rfl⟩

theorem trans (h : s.Beside t) (k : t.Beside u) : s.Beside u where
  same := by
    have e := k.same
    rw [h.same] at e
    exact e
  regs a c := (k.regs a c).trans (h.regs a c)
  sess := k.sess.trans h.sess
  pend := k.pend.trans h.pend
  passw := k.passw.trans h.passw
  fail := k.fail.trans h.fail
  serv := k.serv.trans h.serv
  caks := k.caks.trans h.caks

theorem setReg (a : Nat) (w : Word) (c : calm a = false) : s.Beside (s.setReg a w) where
  same := rfl
  regs b hb := State.reg_setReg_ne _ _ _ _ fun e => by rw [e, c] at hb; exact Bool.noConfusion hb
  sess := rfl
  pend := rfl
  passw := rfl
  fail := rfl
  serv := rfl
  caks := rfl

theorem bump (a n : Nat) (c : calm a = false) : s.Beside (s.bump a n) := setReg a _ c

theorem foldl {α : Type} (f : State → α → State) (hf : ∀ s a, State.Beside s (f s a)) (l : List α) (s : State) :
    s.Beside (l.foldl f s) := by
  induction l generalizing s with
  | nil => exact refl s
  | cons a r ih => exact (hf s a).trans (ih _)

theorem calm_block (h o k : Nat) (ho : o < 0x10000) (hk : k = 1 ∨ k = 9) : calm (hubBase h + k * 0x10000 + o) = false := by
  have lo : ¬ hubBase h + k * 0x10000 + o < 0x4000000000 := by unfold hubBase; omega
  have blk : (hubBase h + k * 0x10000 + o) / 65536 % 65536 = k := by unfold hubBase; omega
  unfold calm
  rw [blk, decide_eq_false lo]
  rcases hk with rfl | rfl <;> rfl

theorem calm_ldg (h o : Nat) (ho : o < 0x10000) : calm (hubBase h + 0x90000 + o) = false := calm_block h o 9 ho (.inr rfl)
theorem calm_mb (h n e o : Nat) (hn : n < 8) (he : e < 2) (ho : o < 0x80) : calm (mbBase h n e + o) = false := by
  have := calm_block h (0x100 * n + 0x80 * e + o) 1 (by omega) (.inl rfl)
  simp only [mbBase]
  rw [show hubBase h + 0x10000 + 0x100 * n + 0x80 * e + o = hubBase h + 1 * 0x10000 + (0x100 * n + 0x80 * e + o) by omega]
  exact this

/-! The ledger. -/

theorem writeSlot (s : State) (c page i : Nat) (x : LSlot) : s.Beside (s.writeSlot c page i x) := by
  unfold State.writeSlot
  dsimp only
  have base : ∀ a b, s.Beside { s with lg := { s.lg with slots := a, wear := b } } :=
    fun _ _ => ⟨rfl, fun _ _ => rfl, rfl, rfl, rfl, rfl, rfl, rfl⟩
  split
  · exact (base _ _).trans (setReg _ _ (calm_ldg c 4 (by decide)))
  · exact base _ _

theorem commitPage (s : State) (page : Nat) (bs : List Byte) : s.Beside (s.commitPage page bs) := by
  unfold State.commitPage
  dsimp only
  exact foldl _ (fun s c => (writeSlot s c _ _ _).trans (bump _ _ (calm_ldg c 0x40 (by decide)))) _ _

theorem ledgerWrite (s : State) (page : Nat) (bs : List Byte) : s.Beside (s.ledgerWrite page bs).1 := by
  unfold State.ledgerWrite
  dsimp only
  split
  · exact commitPage s page bs
  · have base : s.Beside { s with lg.refusal := s.prewrite } := ⟨rfl, fun _ _ => rfl, rfl, rfl, rfl, rfl, rfl, rfl⟩
    exact base.trans (foldl _ (fun s c => (setReg _ _ (calm_ldg c 0 (by decide))).trans
      (bump _ _ (calm_ldg c 0x44 (by decide)))) _ _)

theorem setCell (s : State) (c k i : Nat) (v : Nat × Nat) : s.Beside (s.setCell c k i v) :=
  ⟨rfl, fun _ _ => rfl, rfl, rfl, rfl, rfl, rfl, rfl⟩

theorem ctrInc (s : State) (k : Nat) : s.Beside (s.ctrInc k).1 := by
  unfold State.ctrInc
  split
  · exact ledgerWrite _ _ _
  · dsimp only
    split
    · exact foldl _ (fun s c => setCell s c _ _ _) _ _
    · split
      · rename_i t e
        have h : s.Beside t := by
          have h := ledgerWrite s (568 + 8 * k / 256) (patch (s.page (568 + 8 * k / 256)) (8 * k % 256)
            (leBytes 6 (s.ctrBase k + 64) ++ leBytes 1 ((s.ctrGen k + 1) % 256)))
          unfold State.ledgerPatch at e
          rw [e] at h
          exact h
        exact h.trans (foldl _ (fun s c => setCell s c _ _ _) _ _)
      · unfold State.ledgerPatch
        exact ledgerWrite _ _ _

theorem audit (s : State) (role src code : Nat) (args : List Word) : s.Beside (s.audit role src code args).1 := by
  unfold State.audit
  dsimp only
  split
  · rename_i t e
    have h : s.Beside t := by
      have h := ledgerWrite s (570 + 32 * (s.counter 6 % 1536) / 256) (patch (s.page (570 + 32 * (s.counter 6 % 1536) / 256))
        (32 * (s.counter 6 % 1536) % 256) (leBytes 4 (s.counter 6) ++ leBytes 8 (if s.ck.on then s.ck.rk else 0) ++
          leBytes 1 role ++ leBytes 1 src ++ leBytes 2 code ++ padTo 0 16 (wordsToBytes (args.take 4))))
      unfold State.ledgerPatch at e
      rw [e] at h
      exact h
    exact h.trans (ctrInc t 6)
  · unfold State.ledgerPatch
    exact ledgerWrite _ _ _

theorem flushLedger (n : Nat) (s : State) : s.Beside (s.flushLedger n) := by
  induction n generalizing s with
  | zero => exact refl s
  | succ n ih =>
    unfold State.flushLedger
    split
    · rename_i p bs r e
      have base : s.Beside { s with lg.queue := r } := ⟨rfl, fun _ _ => rfl, rfl, rfl, rfl, rfl, rfl, rfl⟩
      exact (base.trans (ledgerWrite _ p bs)).trans (ih _)
    · exact refl s

theorem flushAll (s : State) : s.Beside s.flushAll := flushLedger _ s

/-! The acknowledgement. -/

theorem setMbx (s : State) (k : Nat) (x : MbxEnd) : s.Beside (s.setMbx k x) :=
  ⟨rfl, fun _ _ => rfl, rfl, rfl, rfl, rfl, rfl, rfl⟩

theorem mbPost (s : State) (h n e code : Nat) (hn : n < 8) (he : e < 2) : s.Beside (s.mbPost h n e code) :=
  (setMbx s _ _).trans (setReg _ _ (calm_mb h n e 0x20 hn he (by decide)))

theorem mbDeliver (s : State) (h n e : Nat) (ws : List Word) (hn : n < 8) (he : e < 2) :
    s.Beside (s.mbDeliver h n e ws) :=
  (((setMbx s _ _).trans (setMbx _ _ _)).trans (setReg _ _ (calm_mb h n (1 - e) 0x20 hn (by omega) (by decide)))).trans
    (bump _ _ (calm_mb h n e 0x24 hn he (by decide)))

theorem mbAck (s : State) (h n e code : Nat) (hn : n < 8) : s.Beside (s.mbAck h n e code) := by
  unfold State.mbAck
  split
  · exact refl s
  · exact ((setMbx s _ _).trans (setMbx _ _ _)).trans (mbPost _ h n (1 - e) code hn (by omega))

theorem toEngine (s : State) (r : Req) (code : Nat) (ws : List Word) : s.Beside (s.toEngine r code ws) :=
  ⟨rfl, fun _ _ => rfl, rfl, rfl, rfl, rfl, rfl, rfl⟩

theorem nextMb0 (s : State) (h : Nat) (m : Nat × List Word) :
    s.Beside (({ s with hl.mb0 := s.hl.mb0.erase m }).mbDeliver h 0 0 m.2) :=
  trans (t := { s with hl.mb0 := s.hl.mb0.erase m }) ⟨rfl, fun _ _ => rfl, rfl, rfl, rfl, rfl, rfl, rfl⟩
    (mbDeliver _ h 0 0 m.2 (by decide) (by decide))

theorem serveMb0 (f : Nat) (s : State) (h : Nat) : s.Beside (State.serveMb0 f s h) := by
  induction f generalizing s with
  | zero => exact refl s
  | succ f ih =>
    unfold State.serveMb0
    dsimp only
    split
    · split
      · exact refl s
      · have k (r : Req) : s.Beside ((s.mbAck h 0 1 0x0101).toEngine r 0x0101 []) :=
          (mbAck s h 0 1 0x0101 (by decide)).trans (toEngine _ _ _ _)
        split
        · exact ((k _).trans (nextMb0 _ h _)).trans (ih _)
        · exact k _
    · exact refl s

theorem porellAck (s : State) (h n code : Nat) (hn : n < 8) : s.Beside (s.porellAck h n code) := by
  have k := mbAck s h n 1 code hn
  unfold State.porellAck
  generalize s.mbAck h n 1 code = t at k ⊢
  dsimp only
  split
  · split
    · rename_i m _
      exact (k.trans (nextMb0 t h m)).trans (serveMb0 _ _ h)
    · exact k
  · exact k

theorem replyMsg (s : State) (h n : Nat) (ws : List Word) (hn : n < 8) : s.Beside (s.replyMsg h n ws) :=
  (mbDeliver s h n 1 ws hn (by decide)).trans (mbAck _ h n 0 0 hn)

theorem reply (s : State) (r : Req) (code : Nat) (ws : List Word) : s.Beside (s.reply r code ws) := by
  unfold State.reply
  dsimp only
  split
  · exact (replyMsg s _ 0 _ (by decide)).trans (toEngine _ _ _ _)
  · exact (replyMsg s s.hl.sbHub 1 _ (by decide)).trans ⟨rfl, fun _ _ => rfl, rfl, rfl, rfl, rfl, rfl, rfl⟩

theorem answer (s : State) (r : Req) (code : Nat) (ws : List Word) : s.Beside (s.answer r code ws) := by
  unfold State.answer
  split
  · dsimp only
    split
    · exact (porellAck s _ 0 code (by decide)).trans (reply _ _ _ _)
    · exact (porellAck s _ 0 code (by decide)).trans (toEngine _ _ _ _)
  · have k := porellAck s s.hl.sbHub 1 code (by decide)
    dsimp only
    split
    · exact k.trans (reply _ _ _ _)
    · exact k.trans ⟨rfl, fun _ _ => rfl, rfl, rfl, rfl, rfl, rfl, rfl⟩

theorem ackPending (s : State) (r : Req) : s.Beside (s.ackPending r) :=
  (answer s r 1 _).trans ⟨rfl, fun _ _ => rfl, rfl, rfl, rfl, rfl, rfl, rfl⟩

/-! What it says of the readers. -/

theorem pw (h : s.Beside t) : t.pw = s.pw := by rw [h.same]
theorem wk (h : s.Beside t) : t.wk = s.wk := by rw [h.same]
theorem sv (h : s.Beside t) : t.sv = s.sv := by rw [h.same]
theorem th (h : s.Beside t) : t.th = s.th := by rw [h.same]
theorem ck (h : s.Beside t) : t.ck = s.ck := by rw [h.same]
theorem ms (h : s.Beside t) : t.ms = s.ms := by rw [h.same]
theorem fb (h : s.Beside t) : t.fb = s.fb := by rw [h.same]
theorem now (h : s.Beside t) : t.now = s.now := by rw [h.same]
theorem mem (h : s.Beside t) : t.mem = s.mem := by rw [h.same]
theorem live (h : s.Beside t) : t.live = s.live := by rw [h.same]
theorem frames (h : s.Beside t) : t.frames = s.frames := by rw [h.same]
theorem boards (h : s.Beside t) : t.boards = s.boards := by rw [h.same]
theorem dies (h : s.Beside t) : t.dies = s.dies := by rw [h.same]
theorem mets (h : s.Beside t) : t.mets = s.mets := by rw [h.same]
theorem evlog (h : s.Beside t) : t.evlog = s.evlog := by rw [h.same]

theorem pstate (h : s.Beside t) : t.pstate = s.pstate := by
  simp only [State.pstate, State.regN, h.regs (hubBase 0 + 0x80000) (by decide)]

theorem checks (h : s.Beside t) : s.SameChecks t :=
  ⟨h.regs _ (by decide), h.regs _ (by decide), h.pw, h.serv⟩

end State.Beside

/-- An increment, and an audit entry, whose checks hold are carried out (R457, R463, R469). -/
theorem State.ctrInc_ok (s : State) (k : Nat) (p : s.prewrite = 0) (c : s.copies ≠ []) : (s.ctrInc k).2 = true := by
  unfold State.ctrInc
  rw [if_neg (by simp [p, c])]
  dsimp only
  split
  · rfl
  · simp only [State.ledgerPatch, State.ledgerWrite_ok s _ _ p c]

theorem State.audit_ok (s : State) (role src code : Nat) (args : List Word) (p : s.prewrite = 0) (c : s.copies ≠ []) :
    (s.audit role src code args).2 = true := by
  unfold State.audit
  simp only [State.ledgerPatch, State.ledgerWrite_ok s _ _ p c]
  generalize patch _ _ _ = bs
  have h := (State.Beside.commitPage s (570 + 32 * (s.counter 6 % 1536) / 256) bs).checks
  exact State.ctrInc_ok _ 6 (h.prewrite.trans p) (by rw [h.copies]; exact c)

end Sys2Proof.Machine
end

