-- ==== Sys2Proof/Laws/Commands.lean ====
section
/-! SUPPORT. What `State.command` does, case by case (R357, R366, R367). -/

set_option Elab.async false

namespace Sys2Proof.Machine

/-- The clauses of an admission, for a command whose row is known. -/
theorem Instr.admitted_iff {i : Instr} {r : Req} {c : Cmd} (s : State) (e : commandOf i = some (r, c)) :
    Instr.admitted i s ↔ r.args.length = c.n ∧ r.nargs = c.n ∧ r.resv = 0 ∧ c.bad = false ∧
      (r.src = .sideband → c.sb = true) ∧ (r.src ≠ .sideband → c.role ≤ s.role r.src) ∧
      (c.role = 3 → s.pw.serviceEn = true) ∧
      (c.ready = true → s.pstate = 2) ∧ (s.pstate = 0 → r.src = .sideband ∧ offOps.contains c.op = true) ∧
      s.answers = true ∧ ((c.p || c.c) = true → s.pendFull r.src = false) ∧ s.waits c r = false ∧
      ∀ p ∈ s.hl.pend, ¬(p.req = r ∧ p.op = c.op) := by
  simp only [Instr.admitted, e]

/-- An admitted command passes the checks of R366, waits for nothing and is new. -/
theorem Instr.admitted_checks {i : Instr} {r : Req} {c : Cmd} {s : State} (e : commandOf i = some (r, c))
    (h : Instr.admitted i s) :
    s.answers = true ∧ s.cmdCheck c r = 0 ∧ ¬((c.ready ∧ (s.pstate = 3 ∨ s.pstate = 4)) ∨ s.waits c r) ∧
      ((c.p || c.c) = true → s.pendFull r.src = false) ∧ ∀ p ∈ s.hl.pend, ¬(p.req = r ∧ p.op = c.op) := by
  obtain ⟨a, n, v, bd, sb, ro, se, rd, off, an, pn, w, new⟩ := (Instr.admitted_iff s e).1 h
  refine ⟨an, ?_, ?_, pn, new⟩
  · unfold State.cmdCheck
    rw [if_neg (by simp [a, n]), if_neg (by simp [v, bd])]
    dsimp only
    have both : ∀ q z : Nat, q = 0 → z = 0 → (if q ≠ 0 then q else z) = 0 := by
      rintro _ _ rfl rfl
      rfl
    refine both _ _ ?_ ?_
    · cases x : r.src with
      | sideband => simp [sb x]
      | session h n =>
        have := ro (by rw [x]; exact fun k => nomatch k)
        rw [x] at this
        exact if_neg (Nat.not_lt.2 this)
    rw [if_neg (by intro k; simp [se k.1] at k), if_neg (by
      intro k
      have := off k.1
      simp [this.1] at k
      exact absurd this.2 (by simp [k.2]))]
    refine if_neg fun k => ?_
    have := rd k.1
    omega
  · rintro (⟨k, l⟩ | l)
    · have := rd k
      omega
    · rw [w] at l
      exact Bool.noConfusion l

theorem State.unpend_self {s : State} {r : Req} {op : Nat} (h : ∀ p ∈ s.hl.pend, ¬(p.req = r ∧ p.op = op)) :
    s.unpend r op = s := by
  have hf : (s.hl.pend.filter fun p => !decide (p.req = r ∧ p.op = op)) = s.hl.pend :=
    List.filter_eq_self.2 fun p hp => by
      have := h p hp
      simp [this]
  unfold State.unpend
  rw [hf]

/-- A command that fails the checks of R366 is answered with the code and has no effect. -/
theorem State.command_denied {s : State} {c : Cmd} {r : Req} {body : State → Res} (a : s.answers = true)
    (h : s.cmdCheck c r ≠ 0) : s.command c r body = s.answer r (s.cmdCheck c r) [] := by
  simp [State.command, a, h]

/-! The replies an answer queues. -/

theorem State.setMbx_replies (s : State) (k : Nat) (x : MbxEnd) : (s.setMbx k x).hl.replies = s.hl.replies := by rfl

theorem State.mbDeliver_replies (s : State) (h n e : Nat) (ws : List Word) :
    (s.mbDeliver h n e ws).hl.replies = s.hl.replies := by
  simp only [State.mbDeliver, State.bump_hl, State.setReg_hl, State.setMbx_replies]

theorem State.mbAck_replies (s : State) (h n e code : Nat) : (s.mbAck h n e code).hl.replies = s.hl.replies := by
  unfold State.mbAck
  split
  · rfl
  · simp only [State.mbPost, State.setReg_hl, State.setMbx_replies]

/-- Serving MB0 queues refusals of unknown commands alone. -/
theorem State.serveMb0_replies (f : Nat) (s : State) (h : Nat) :
    ∃ l : List Reply, (State.serveMb0 f s h).hl.replies = s.hl.replies ++ l ∧ ∀ x ∈ l, x.code = 0x0101 := by
  induction f generalizing s with
  | zero => exact ⟨[], by simp [State.serveMb0], by simp⟩
  | succ f ih =>
    unfold State.serveMb0
    dsimp only
    split
    · split
      · exact ⟨[], by simp, by simp⟩
      · rename_i ws _ _
        generalize reqOf _ ws = r
        have k : ((s.mbAck h 0 1 0x0101).toEngine r 0x0101 []).hl.replies =
            s.hl.replies ++ [{ src := r.src, tag := r.tag, code := 0x0101, words := [], port := none }] :=
          congrArg (· ++ _) (State.mbAck_replies s h 0 1 0x0101)
        generalize (s.mbAck h 0 1 0x0101).toEngine r 0x0101 [] = t at k ⊢
        split
        · obtain ⟨l, e, c⟩ := ih _
          rw [e, State.mbDeliver_replies]
          refine ⟨{ src := r.src, tag := r.tag, code := 0x0101, words := [], port := none } :: l, by
            simp only [k, List.append_assoc, List.singleton_append], ?_⟩
          rintro x (_ | ⟨_, y⟩)
          · rfl
          · exact c x y
        · exact ⟨_, k, by simp⟩
    · exact ⟨[], by simp, by simp⟩

theorem State.porellAck_replies (s : State) (h n code : Nat) :
    ∃ l : List Reply, (s.porellAck h n code).hl.replies = s.hl.replies ++ l ∧ ∀ x ∈ l, x.code = 0x0101 := by
  have k := State.mbAck_replies s h n 1 code
  unfold State.porellAck
  generalize s.mbAck h n 1 code = t at k ⊢
  dsimp only
  split
  · split
    · obtain ⟨l, e, c⟩ := State.serveMb0_replies (t.hl.mb0.length + 1) _ h
      exact ⟨l, by rw [e, State.mbDeliver_replies]; exact congrArg (· ++ l) k, c⟩
    · exact ⟨[], by simp [k], by simp⟩
  · exact ⟨[], by simp [k], by simp⟩

theorem State.replyMsg_replies (s : State) (h n : Nat) (ws : List Word) : (s.replyMsg h n ws).hl.replies = s.hl.replies := by
  unfold State.replyMsg
  rw [State.mbAck_replies, State.mbDeliver_replies]

/-- An answer without words queues its own reply, which carries its code, and those of unknown commands after it. -/
theorem State.answer_replies (s : State) (r : Req) (code : Nat) :
    ∃ l : List Reply, (s.answer r code []).hl.replies = s.hl.replies ++ l ∧ ∀ x ∈ l, x.code = code ∨ x.code = 0x0101 := by
  unfold State.answer
  cases e : r.src with
  | session h n =>
    dsimp only
    obtain ⟨l, a, c⟩ := State.porellAck_replies s h 0 code
    have own : ∀ x ∈ l ++ [{ src := r.src, tag := r.tag, code := code, words := [], port := none }],
        x.code = code ∨ x.code = 0x0101 := by
      intro x hx
      rcases List.mem_append.1 hx with y | y
      · exact .inr (c x y)
      · rw [List.mem_singleton.1 y]
        exact .inl rfl
    split
    · exact ⟨_, by simp only [State.reply, e, State.toEngine, State.replyMsg_replies, a, List.append_assoc], own⟩
    · exact ⟨_, by simp only [State.toEngine, a, List.append_assoc], own⟩
  | sideband =>
    dsimp only
    obtain ⟨l, a, c⟩ := State.porellAck_replies s s.hl.sbHub 1 code
    refine ⟨l, ?_, fun x hx => .inr (c x hx)⟩
    split
    · simp only [State.reply, e, State.replyMsg_replies, a]
    · exact a

/-- The codes of the checks 2 to 5 of R366. -/
theorem State.cmdCheck_mem (s : State) (c : Cmd) (r : Req) :
    s.cmdCheck c r ∈ [0, 0x0102, 0x0103, 0x0202, 0x0201, 0x0203, 0x0402, 0x0401] := by
  unfold State.cmdCheck
  dsimp only
  repeat' split
  all_goals simp_all

section
variable {s : State} {c : Cmd} {r : Req} {body : State → Res}
  (h : s.answers = true ∧ s.cmdCheck c r = 0 ∧ ¬((c.ready ∧ (s.pstate = 3 ∨ s.pstate = 4)) ∨ s.waits c r) ∧
    ((c.p || c.c) = true → s.pendFull r.src = false) ∧ ∀ p ∈ s.hl.pend, ¬(p.req = r ∧ p.op = c.op))
include h

theorem State.command_was : (s.hl.pend.any fun p => decide (p.req = r ∧ p.op = c.op ∧ p.key = deferred)) = false := by
  rw [List.any_eq_false]
  intro p hp
  have := h.2.2.2.2 p hp
  simp only [decide_eq_true_eq]
  exact fun x => this ⟨x.1, x.2.1⟩

/-- A command of its own part's refusal. -/
theorem State.command_refuse {code : Nat} (hb : body s = .refuse code 0) : s.command c r body = s.answer r code [] := by
  have hw := State.command_was h
  unfold State.command
  dsimp only
  rw [hw, State.unpend_self h.2.2.2.2, hb]
  simp [h.1, h.2.1, h.2.2.1]

/-- A command without the mark C that completes at once. -/
theorem State.command_ok {ws : List Word} {t : State} (hc : c.c = false) (hb : body s = .ok ws t) :
    s.command c r body = t.answer r 0 ws := by
  have hw := State.command_was h
  unfold State.command
  dsimp only
  rw [hw, State.unpend_self h.2.2.2.2, hb]
  simp [h.1, h.2.1, h.2.2.1, hc]

/-- A command without the mark C whose reply comes later. -/
theorem State.command_pend {k k' : Nat} {t t' : State} (hc : c.c = false) (hp : c.p = true) (hb : body s = .pend k t)
    (hb' : body (s.ackPending r) = .pend k' t') :
    s.command c r body = t'.addPend { req := r, op := c.op, key := k' } := by
  have hw := State.command_was h
  unfold State.command
  dsimp only
  rw [hw, State.unpend_self h.2.2.2.2, hb]
  simp [h.1, h.2.1, h.2.2.1, h.2.2.2.1 (by simp [hp]), hc, hb']

/-- A C command: its audit entry, then its effect on the state that holds it. -/
theorem State.command_c {i : Instr} (e : commandOf i = some (r, c)) (hc : c.c = true)
    (hb : ∀ code d, body s ≠ .refuse code d) (hl : s.takesEntry) :
    s.command c r body = (match body (Instr.entered i s) with
      | .refuse code d => (Instr.entered i s).finish r code [BitVec.ofNat 32 d]
      | .fail code d t => t.finish r code [BitVec.ofNat 32 d]
      | .ok ws t => t.finish r 0 ws
      | .pend key t => t.addPend { req := r, op := c.op, key := key }) := by
  obtain ⟨u, hu, ha⟩ : ∃ u, Instr.entered i s = u ∧ (((s.ackPending r).flushAll).audit
      (((s.ackPending r).flushAll).role r.src) (srcByte r.src) c.op r.args) = (u, true) := by
    have k := ((State.Beside.ackPending s r).trans (State.Beside.flushAll _)).checks
    have ok := State.audit_ok (s.ackPending r).flushAll ((s.ackPending r).flushAll.role r.src) (srcByte r.src) c.op r.args
      (k.prewrite.trans hl.1) (by rw [k.copies]; exact hl.2)
    refine ⟨_, rfl, ?_⟩
    simp only [Instr.entered, e]
    exact Prod.ext rfl ok
  rw [hu]
  have full := h.2.2.2.1 (by simp [hc])
  have hw := State.command_was h
  unfold State.command
  dsimp only
  rw [hw, State.unpend_self h.2.2.2.2]
  cases hx : body s with
  | refuse code d => exact absurd hx (hb code d)
  | ok ws t =>
    simp only [h.1, h.2.1, h.2.2.1, full, hc, ha, ne_eq, not_true, if_false, if_true, Bool.false_eq_true, Bool.and_false,
      Bool.not_true] <;> cases body u <;> rfl
  | fail code d t =>
    simp only [h.1, h.2.1, h.2.2.1, full, hc, ha, ne_eq, not_true, if_false, if_true, Bool.false_eq_true, Bool.and_false,
      Bool.not_true] <;> cases body u <;> rfl
  | pend k t =>
    simp only [h.1, h.2.1, h.2.2.1, full, hc, ha, ne_eq, not_true, if_false, if_true, Bool.false_eq_true, Bool.and_false,
      Bool.not_true] <;> cases body u <;> rfl
end

/-- What the audit entry of a command leaves alone. -/
theorem Instr.entered_beside (i : Instr) (s : State) : s.Beside (Instr.entered i s) := by
  unfold Instr.entered
  split
  · exact ((State.Beside.ackPending s _).trans (State.Beside.flushAll _)).trans (State.Beside.audit _ _ _ _ _)
  · exact State.Beside.refl s

section
variable (i : Instr) (s : State)
@[simp] theorem Instr.entered_pw : (Instr.entered i s).pw = s.pw := (Instr.entered_beside i s).pw
@[simp] theorem Instr.entered_wk : (Instr.entered i s).wk = s.wk := (Instr.entered_beside i s).wk
@[simp] theorem Instr.entered_sv : (Instr.entered i s).sv = s.sv := (Instr.entered_beside i s).sv
@[simp] theorem Instr.entered_th : (Instr.entered i s).th = s.th := (Instr.entered_beside i s).th
@[simp] theorem Instr.entered_ck : (Instr.entered i s).ck = s.ck := (Instr.entered_beside i s).ck
@[simp] theorem Instr.entered_ms : (Instr.entered i s).ms = s.ms := (Instr.entered_beside i s).ms
@[simp] theorem Instr.entered_fb : (Instr.entered i s).fb = s.fb := (Instr.entered_beside i s).fb
@[simp] theorem Instr.entered_now : (Instr.entered i s).now = s.now := (Instr.entered_beside i s).now
@[simp] theorem Instr.entered_mem : (Instr.entered i s).mem = s.mem := (Instr.entered_beside i s).mem
@[simp] theorem Instr.entered_live : (Instr.entered i s).live = s.live := (Instr.entered_beside i s).live
@[simp] theorem Instr.entered_frames : (Instr.entered i s).frames = s.frames := (Instr.entered_beside i s).frames
@[simp] theorem Instr.entered_boards : (Instr.entered i s).boards = s.boards := (Instr.entered_beside i s).boards
@[simp] theorem Instr.entered_dies : (Instr.entered i s).dies = s.dies := (Instr.entered_beside i s).dies
@[simp] theorem Instr.entered_mets : (Instr.entered i s).mets = s.mets := (Instr.entered_beside i s).mets
@[simp] theorem Instr.entered_evlog : (Instr.entered i s).evlog = s.evlog := (Instr.entered_beside i s).evlog
@[simp] theorem Instr.entered_pstate : (Instr.entered i s).pstate = s.pstate := (Instr.entered_beside i s).pstate
@[simp] theorem Instr.entered_sess (k : Nat) : (Instr.entered i s).sess k = s.sess k := by
  simp only [State.sess, (Instr.entered_beside i s).sess]
@[simp] theorem Instr.entered_pend : (Instr.entered i s).hl.pend = s.hl.pend := (Instr.entered_beside i s).pend
@[simp] theorem Instr.entered_gated (x : Src) (g w : Nat) : (Instr.entered i s).gated x g w = s.gated x g w := by
  simp only [State.gated, (Instr.entered_beside i s).passw, Instr.entered_sess]
theorem Instr.entered_reg (a : Nat) (h : calm a = true) : (Instr.entered i s).reg a = s.reg a :=
  (Instr.entered_beside i s).regs a h
theorem Instr.entered_ringW (r : Nat) (h : r < 4096) : (Instr.entered i s).ringW r = s.ringW r := by
  refine Instr.entered_reg i s _ ?_
  have e : ringReg r / 65536 % 65536 = 3 := by
    simp only [ringReg, hubBase]
    omega
  simp [calm, e]
theorem Instr.entered_ringDepth (r : Nat) (h : r < 4096) : (Instr.entered i s).ringDepth r = s.ringDepth r := by
  simp only [State.ringDepth, Instr.entered_ringW i s r h]
@[simp] theorem Instr.entered_ringList : (Instr.entered i s).ringList = s.ringList :=
  List.filter_congr fun r h => by rw [Instr.entered_ringDepth i s r (List.mem_range.1 h)]
@[simp] theorem Instr.entered_dramUsed (h : Nat) : (Instr.entered i s).dramUsed h = s.dramUsed h := by
  have c : (s.ringList.filter (Instr.entered i s).ringCont) = s.ringList.filter s.ringCont :=
    List.filter_congr fun r k => by
      simp only [State.ringCont, Instr.entered_ringW i s r (List.mem_range.1 (List.mem_filter.1 k).1)]
  have m : ((s.ringList.filter s.ringCont).map fun r => mirrorBytes ((Instr.entered i s).score ((Instr.entered i s).ringScore r)) h) =
      (s.ringList.filter s.ringCont).map fun r => mirrorBytes (s.score (s.ringScore r)) h :=
    List.map_congr_left fun r k => by
      have k := List.mem_range.1 (List.mem_filter.1 (List.mem_filter.1 k).1).1
      simp only [State.ringScore, Instr.entered_ringW i s r k, State.score, Instr.entered_wk]
  simp only [State.dramUsed, Instr.entered_ringList, c, m, Instr.entered_sv, Instr.entered_wk]
end

end Sys2Proof.Machine
end

