-- ==== Sys2Proof/Laws/Keeps0.lean ====
section
/-! SUPPORT. What every operation does: it leaves the queue alone, keeps the canonical form, and changes only the parts
named in its lemma's last hypotheses. The relation, its closure properties, and the single updates. -/

set_option Elab.async false

namespace Sys2Proof.Machine

/-- The state `t` has the queue of `s`, its maps are canonical where those of `s` are, and it differs from `s` only in
the parts of `F`. -/
structure Keeps (F : Part → Prop) (s t : State) : Prop where
  pending : t.pending = s.pending
  wf : s.wf = true → t.wf = true
  frame : ∀ p, F p ∨ State.same p s t

/-- The same of what an outcome, an option, a result or a command's own part holds. -/
structure KeepsO (F : Part → Prop) (s : State) (o : Host.Outcome State Fault Refusal) : Prop where
  out : ∀ t, o = .next t → Keeps F s t
structure KeepsM (F : Part → Prop) (s : State) (o : Option State) : Prop where
  out : ∀ t, o = some t → Keeps F s t
structure KeepsE {ε : Type} (F : Part → Prop) (s : State) (o : Except ε State) : Prop where
  out : ∀ t, o = .ok t → Keeps F s t
def KeepsR (F : Part → Prop) (s : State) : Res → Prop
  | .refuse _ _ => True
  | .fail _ _ t | .ok _ t | .pend _ t => Keeps F s t

variable {F : Part → Prop}

theorem State.same_rfl (p : Part) (s : State) : State.same p s s := by cases p <;> rfl

theorem State.same_trans {p : Part} {s t u : State} (a : State.same p s t) (b : State.same p t u) : State.same p s u := by
  cases p <;> exact Eq.trans b a

theorem Keeps.refl (s : State) : Keeps F s s := ⟨rfl, id, fun p => .inr (State.same_rfl p s)⟩

theorem Keeps.trans {s t u : State} (a : Keeps F s t) (b : Keeps F t u) : Keeps F s u :=
  ⟨b.pending.trans a.pending, fun h => b.wf (a.wf h), fun p =>
    (a.frame p).elim .inl fun x => (b.frame p).elim .inl fun y => .inr (State.same_trans x y)⟩

theorem Keeps.letS {s e : State} {b : State → State} (h : Keeps F s e) (hb : ∀ x, Keeps F s x → Keeps F s (b x)) :
    Keeps F s (let x := e; b x) := hb e h

theorem Keeps.of_eq {s0 a t : State} (h0 : t.pending = a.pending) (h1 : t.mem = a.mem) (h2 : t.regs = a.regs)
    (h3 : t.live = a.live) (h4 : t.beads = a.beads) (hf : ∀ p, F p ∨ State.same p a t) (h : Keeps F s0 a) : Keeps F s0 t := by
  refine ⟨h0.trans h.pending, fun w => ?_, fun p =>
    (h.frame p).elim .inl fun x => (hf p).elim .inl fun y => .inr (State.same_trans x y)⟩
  have := h.wf w
  simpa [State.wf, h1, h2, h3, h4] using this

theorem Keeps.upd {s0 a : State} {now_} {fresh_} {rdata_} {sent_} {evlog_} {side_} {frames_} {boards_} {dies_} {mets_} {ck_} {pw_} {th_} {hl_} {wk_} {fb_} {ms_} {lg_} {sv_} (h : Keeps F s0 a)
    (h_now : F .now ∨ now_ = a.now := by first | exact Or.inl (by assumption) | exact Or.inr rfl)
    (h_fresh : F .fresh ∨ fresh_ = a.fresh := by first | exact Or.inl (by assumption) | exact Or.inr rfl)
    (h_rdata : F .rdata ∨ rdata_ = a.rdata := by first | exact Or.inl (by assumption) | exact Or.inr rfl)
    (h_sent : F .sent ∨ sent_ = a.sent := by first | exact Or.inl (by assumption) | exact Or.inr rfl)
    (h_evlog : F .evlog ∨ evlog_ = a.evlog := by first | exact Or.inl (by assumption) | exact Or.inr rfl)
    (h_side : F .side ∨ side_ = a.side := by first | exact Or.inl (by assumption) | exact Or.inr rfl)
    (h_frames : F .frames ∨ frames_ = a.frames := by first | exact Or.inl (by assumption) | exact Or.inr rfl)
    (h_boards : F .boards ∨ boards_ = a.boards := by first | exact Or.inl (by assumption) | exact Or.inr rfl)
    (h_dies : F .dies ∨ dies_ = a.dies := by first | exact Or.inl (by assumption) | exact Or.inr rfl)
    (h_mets : F .mets ∨ mets_ = a.mets := by first | exact Or.inl (by assumption) | exact Or.inr rfl)
    (h_ck : F .ck ∨ ck_ = a.ck := by first | exact Or.inl (by assumption) | exact Or.inr rfl)
    (h_pw : F .pw ∨ pw_ = a.pw := by first | exact Or.inl (by assumption) | exact Or.inr rfl)
    (h_th : F .th ∨ th_ = a.th := by first | exact Or.inl (by assumption) | exact Or.inr rfl)
    (h_hl : F .hl ∨ hl_ = a.hl := by first | exact Or.inl (by assumption) | exact Or.inr rfl)
    (h_wk : F .wk ∨ wk_ = a.wk := by first | exact Or.inl (by assumption) | exact Or.inr rfl)
    (h_fb : F .fb ∨ fb_ = a.fb := by first | exact Or.inl (by assumption) | exact Or.inr rfl)
    (h_ms : F .ms ∨ ms_ = a.ms := by first | exact Or.inl (by assumption) | exact Or.inr rfl)
    (h_lg : F .lg ∨ lg_ = a.lg := by first | exact Or.inl (by assumption) | exact Or.inr rfl)
    (h_sv : F .sv ∨ sv_ = a.sv := by first | exact Or.inl (by assumption) | exact Or.inr rfl) :
    Keeps F s0 ⟨a.pending, now_, fresh_, rdata_, sent_, evlog_, a.regs, a.live, a.mem, a.beads, side_, frames_, boards_, dies_, mets_, ck_, pw_, th_, hl_, wk_, fb_, ms_, lg_, sv_⟩ := by
  refine .of_eq (a := a) rfl rfl rfl rfl rfl (fun p => ?_) h
  cases p <;> first | assumption | exact .inr rfl

theorem Keeps.foldl {α : Type} {s0 a : State} {f : State → α → State} {l : List α}
    (hf : ∀ t x, Keeps F s0 t → Keeps F s0 (f t x)) (ha : Keeps F s0 a) : Keeps F s0 (l.foldl f a) := by
  induction l generalizing a with
  | nil => exact ha
  | cons x l ih => exact ih (hf a x ha)

/-- A fold whose accumulator carries more beside the state. -/
theorem Keeps.foldl_fst {α β : Type} {s0 : State} {f : State × β → α → State × β} {l : List α} {a : State × β}
    (hf : ∀ t b x, Keeps F s0 t → Keeps F s0 (f (t, b) x).1) (ha : Keeps F s0 a.1) : Keeps F s0 (l.foldl f a).1 := by
  induction l generalizing a with
  | nil => exact ha
  | cons x l ih => exact ih (hf a.1 a.2 x ha)

theorem Keeps.of_fst {α : Type} {s0 t : State} {p : State × α} {b : α} (e : p = (t, b)) (h : Keeps F s0 p.1) :
    Keeps F s0 t := by subst e; exact h

theorem Keeps.ite {s a b : State} {c : Prop} [Decidable c] (ha : Keeps F s a) (hb : Keeps F s b) :
    Keeps F s (if c then a else b) := by split <;> assumption
theorem Keeps.ite_fst {α : Type} {s : State} {a b : State × α} {c : Prop} [Decidable c] (ha : Keeps F s a.1)
    (hb : Keeps F s b.1) : Keeps F s (if c then a else b).1 := by split <;> assumption
theorem KeepsM.ite {s : State} {a b : Option State} {c : Prop} [Decidable c] (ha : KeepsM F s a) (hb : KeepsM F s b) :
    KeepsM F s (if c then a else b) := by split <;> assumption
theorem KeepsE.ite {ε : Type} {s : State} {a b : Except ε State} {c : Prop} [Decidable c] (ha : KeepsE F s a)
    (hb : KeepsE F s b) : KeepsE F s (if c then a else b) := by split <;> assumption
theorem KeepsR.ite {s : State} {a b : Res} {c : Prop} [Decidable c] (ha : KeepsR F s a) (hb : KeepsR F s b) :
    KeepsR F s (if c then a else b) := by split <;> assumption

theorem KeepsO.ite {s : State} {a b : Host.Outcome State Fault Refusal} {c : Prop} [Decidable c] (ha : KeepsO F s a)
    (hb : KeepsO F s b) : KeepsO F s (if c then a else b) := by split <;> assumption

theorem KeepsO.next {s t : State} (h : Keeps F s t) : KeepsO F s (.next t) := ⟨fun _ e => by cases e; exact h⟩
theorem KeepsM.none {s : State} : KeepsM F s Option.none := ⟨fun _ e => by cases e⟩
theorem KeepsM.some {s t : State} (h : Keeps F s t) : KeepsM F s (Option.some t) := ⟨fun _ e => by cases e; exact h⟩
theorem KeepsM.get {s t : State} {o : Option State} (e : o = Option.some t) (h : KeepsM F s o) : Keeps F s t := h.out t e
theorem KeepsE.error {ε : Type} {s : State} {x : ε} : KeepsE F s (Except.error x) := ⟨fun _ e => by cases e⟩
theorem KeepsE.ok {ε : Type} {s t : State} (h : Keeps F s t) : KeepsE (ε := ε) F s (Except.ok t) := ⟨fun _ e => by cases e; exact h⟩
theorem KeepsE.get {ε : Type} {s t : State} {o : Except ε State} (e : o = Except.ok t) (h : KeepsE F s o) : Keeps F s t := h.out t e
theorem KeepsM.get1 {α : Type} {s t : State} {x : α} {o : Option (State × α)} (e : o = Option.some (t, x))
    (h : KeepsM F s (o.map Prod.fst)) : Keeps F s t := h.out t (by rw [e]; rfl)

theorem KeepsM.getD {s d : State} {o : Option State} (h : KeepsM F s o) (hd : Keeps F s d) : Keeps F s (o.getD d) := by
  cases o with
  | none => exact hd
  | some t => exact h.out t rfl
theorem KeepsM.bind {s : State} {o : Option State} {f : State → Option State} (h : KeepsM F s o)
    (hf : ∀ t, Keeps F s t → KeepsM F s (f t)) : KeepsM F s (o.bind f) := by
  cases o with
  | none => exact .none
  | some t => exact hf t (h.out t rfl)
theorem KeepsM.foldl {α : Type} {s : State} {f : Option State → α → Option State} {l : List α} {o : Option State}
    (hf : ∀ o x, KeepsM F s o → KeepsM F s (f o x)) (ho : KeepsM F s o) : KeepsM F s (l.foldl f o) := by
  induction l generalizing o with
  | nil => exact ho
  | cons x l ih => exact ih (hf o x ho)
theorem KeepsR.refuse {s : State} {a b : Nat} : KeepsR F s (.refuse a b) := trivial
theorem KeepsR.fail {s t : State} {a b : Nat} (h : Keeps F s t) : KeepsR F s (.fail a b t) := h
theorem KeepsR.ok {s t : State} {ws : List Word} (h : Keeps F s t) : KeepsR F s (.ok ws t) := h
theorem KeepsR.pend {s t : State} {k : Nat} (h : Keeps F s t) : KeepsR F s (.pend k t) := h

/-! The single updates. -/

theorem State.wf_iff (s : State) : s.wf = true ↔
    Memory.wf s.mem = true ∧ mwf regReset s.regs = true ∧ mwf regReset s.live = true ∧ mwf beadDefault s.beads = true := by
  simp [State.wf, and_assoc]

theorem Memory.wf_mput (m : SMap Byte) (a : Nat) (v : Byte) (h : Memory.wf m = true) : Memory.wf (mput 0 m a v) = true :=
  mwf_mput (fun _ => (0 : Byte)) m a v h

theorem Memory.wf_writeBytes (m : SMap Byte) (a : Nat) (bs : List Byte) (h : Memory.wf m = true) :
    Memory.wf (writeBytes m a bs) = true := mwf_writeBytes m a bs h

theorem Memory.wf_filter (m : SMap Byte) (p : Nat × Byte → Bool) (h : Memory.wf m = true) : Memory.wf (m.filter p) = true :=
  mwf_filter _ m p h

section
variable {s0 s : State}

theorem Keeps.mems (t : State) (h : Keeps F s0 s) (hp : t.pending = s.pending)
    (hm : Memory.wf s.mem = true → Memory.wf t.mem = true) (hr : mwf regReset s.regs = true → mwf regReset t.regs = true)
    (hl : mwf regReset s.live = true → mwf regReset t.live = true)
    (hb : mwf beadDefault s.beads = true → mwf beadDefault t.beads = true) (hf : ∀ p, F p ∨ State.same p s t) :
    Keeps F s0 t := by
  refine ⟨hp.trans h.pending, fun w => ?_, fun p =>
    (h.frame p).elim .inl fun x => (hf p).elim .inl fun y => .inr (State.same_trans x y)⟩
  have := (State.wf_iff s).1 (h.wf w)
  exact (State.wf_iff t).2 ⟨hm this.1, hr this.2.1, hl this.2.2.1, hb this.2.2.2⟩

theorem Keeps.filters {p q : Nat × Word → Bool} (h : Keeps F s0 s) (h_regs : F .regs := by assumption) (h_live : F .live := by assumption) :
    Keeps F s0 { s with regs := s.regs.filter p, live := s.live.filter q } :=
  Keeps.mems _ h rfl id (mwf_filter _ _ _) (mwf_filter _ _ _) id (fun p => by cases p <;> first | exact .inl (by assumption) | exact .inr rfl)

theorem State.setReg_k (a : Nat) (w : Word) (h : Keeps F s0 s)
    (h_regs : F .regs := by assumption) : Keeps F s0 (s.setReg a w) :=
  Keeps.mems _ h rfl id (fun r => mwf_mput regReset s.regs a w r) id id (fun p => by cases p <;> first | exact .inl (by assumption) | exact .inr rfl)
theorem State.setRegN_k (a n : Nat) (h : Keeps F s0 s)
    (h_regs : F .regs := by assumption) : Keeps F s0 (s.setRegN a n) := State.setReg_k _ _ h
theorem State.bump_k (a n : Nat) (h : Keeps F s0 s)
    (h_regs : F .regs := by assumption) : Keeps F s0 (s.bump a n) := State.setReg_k _ _ h
theorem State.setLive_k (a : Nat) (w : Word) (h : Keeps F s0 s)
    (h_live : F .live := by assumption) : Keeps F s0 (s.setLive a w) :=
  Keeps.mems _ h rfl id id (fun r => mwf_mput regReset s.live a w r) id (fun p => by cases p <;> first | exact .inl (by assumption) | exact .inr rfl)
theorem State.setBead_k (k v : Nat) (h : Keeps F s0 s)
    (h_beads : F .beads := by assumption) : Keeps F s0 (s.setBead k v) :=
  Keeps.mems _ h rfl id id id (fun r => mwf_mput beadDefault s.beads k v r) (fun p => by cases p <;> first | exact .inl (by assumption) | exact .inr rfl)
theorem State.setByte_k (a : Nat) (v : Byte) (h : Keeps F s0 s)
    (h_mem : F .mem := by assumption) : Keeps F s0 (s.setByte a v) :=
  Keeps.mems _ h rfl (Memory.wf_mput s.mem a v) id id id (fun p => by cases p <;> first | exact .inl (by assumption) | exact .inr rfl)
theorem State.store_k (a : Nat) (bs : List Byte) (h : Keeps F s0 s)
    (h_mem : F .mem := by assumption) : Keeps F s0 (s.store a bs) :=
  Keeps.mems _ h rfl (Memory.wf_writeBytes s.mem a bs) id id id (fun p => by cases p <;> first | exact .inl (by assumption) | exact .inr rfl)
theorem State.zeroRange_k (a n : Nat) (h : Keeps F s0 s)
    (h_mem : F .mem := by assumption) : Keeps F s0 (s.zeroRange a n) :=
  Keeps.mems _ h rfl (Memory.wf_filter s.mem _) id id id (fun p => by cases p <;> first | exact .inl (by assumption) | exact .inr rfl)
theorem State.setFrame_k (k : Nat) (x : Frame) (h : Keeps F s0 s)
    (h_frames : F .frames := by assumption) : Keeps F s0 (s.setFrame k x) :=
  .of_eq (a := s) rfl rfl rfl rfl rfl (fun p => by cases p <;> first | exact .inl (by assumption) | exact .inr rfl) h
theorem State.setBoard_k (k : Nat) (x : Board) (h : Keeps F s0 s)
    (h_boards : F .boards := by assumption) : Keeps F s0 (s.setBoard k x) :=
  .of_eq (a := s) rfl rfl rfl rfl rfl (fun p => by cases p <;> first | exact .inl (by assumption) | exact .inr rfl) h
theorem State.setDie_k (k : Nat) (x : DieRec) (h : Keeps F s0 s)
    (h_dies : F .dies := by assumption) : Keeps F s0 (s.setDie k x) :=
  .of_eq (a := s) rfl rfl rfl rfl rfl (fun p => by cases p <;> first | exact .inl (by assumption) | exact .inr rfl) h
theorem State.setMet_k (k : Nat) (x : Met) (h : Keeps F s0 s)
    (h_mets : F .mets := by assumption) : Keeps F s0 (s.setMet k x) :=
  .of_eq (a := s) rfl rfl rfl rfl rfl (fun p => by cases p <;> first | exact .inl (by assumption) | exact .inr rfl) h
theorem State.setSess_k (k : Nat) (x : Sess) (h : Keeps F s0 s)
    (h_hl : F .hl := by assumption) : Keeps F s0 (s.setSess k x) :=
  .of_eq (a := s) rfl rfl rfl rfl rfl (fun p => by cases p <;> first | exact .inl (by assumption) | exact .inr rfl) h
theorem State.setMbx_k (k : Nat) (x : MbxEnd) (h : Keeps F s0 s)
    (h_hl : F .hl := by assumption) : Keeps F s0 (s.setMbx k x) :=
  .of_eq (a := s) rfl rfl rfl rfl rfl (fun p => by cases p <;> first | exact .inl (by assumption) | exact .inr rfl) h
theorem State.setPort_k (k : Nat) (x : Port) (h : Keeps F s0 s)
    (h_hl : F .hl := by assumption) : Keeps F s0 (s.setPort k x) :=
  .of_eq (a := s) rfl rfl rfl rfl rfl (fun p => by cases p <;> first | exact .inl (by assumption) | exact .inr rfl) h
theorem State.setRing_k (k : Nat) (x : Ring) (h : Keeps F s0 s)
    (h_wk : F .wk := by assumption) : Keeps F s0 (s.setRing k x) :=
  .of_eq (a := s) rfl rfl rfl rfl rfl (fun p => by cases p <;> first | exact .inl (by assumption) | exact .inr rfl) h
theorem State.setJob_k (k : Nat) (x : Option Job) (h : Keeps F s0 s)
    (h_wk : F .wk := by assumption) : Keeps F s0 (s.setJob k x) :=
  .of_eq (a := s) rfl rfl rfl rfl rfl (fun p => by cases p <;> first | exact .inl (by assumption) | exact .inr rfl) h
theorem State.setHandle_k (k : Nat) (x : Option Handle) (h : Keeps F s0 s)
    (h_wk : F .wk := by assumption) : Keeps F s0 (s.setHandle k x) :=
  .of_eq (a := s) rfl rfl rfl rfl rfl (fun p => by cases p <;> first | exact .inl (by assumption) | exact .inr rfl) h
theorem State.setScore_k (k : Nat) (x : Score) (h : Keeps F s0 s)
    (h_wk : F .wk := by assumption) : Keeps F s0 (s.setScore k x) :=
  .of_eq (a := s) rfl rfl rfl rfl rfl (fun p => by cases p <;> first | exact .inl (by assumption) | exact .inr rfl) h
theorem State.setLink_k (k : Nat) (x : Link) (h : Keeps F s0 s)
    (h_fb : F .fb := by assumption) : Keeps F s0 (s.setLink k x) :=
  .of_eq (a := s) rfl rfl rfl rfl rfl (fun p => by cases p <;> first | exact .inl (by assumption) | exact .inr rfl) h
theorem State.setSensor_k (k : Nat) (x : Sensor) (h : Keeps F s0 s)
    (h_th : F .th := by assumption) : Keeps F s0 (s.setSensor k x) :=
  .of_eq (a := s) rfl rfl rfl rfl rfl (fun p => by cases p <;> first | exact .inl (by assumption) | exact .inr rfl) h
theorem State.setThunit_k (k : Nat) (x : ThUnit) (h : Keeps F s0 s)
    (h_th : F .th := by assumption) : Keeps F s0 (s.setThunit k x) :=
  .of_eq (a := s) rfl rfl rfl rfl rfl (fun p => by cases p <;> first | exact .inl (by assumption) | exact .inr rfl) h
theorem State.setChan_k (k : Nat) (x : Chan) (h : Keeps F s0 s)
    (h_ms : F .ms := by assumption) : Keeps F s0 (s.setChan k x) :=
  .of_eq (a := s) rfl rfl rfl rfl rfl (fun p => by cases p <;> first | exact .inl (by assumption) | exact .inr rfl) h
theorem State.setSide_k (fk p row : Nat) (x : Side) (h : Keeps F s0 s)
    (h_side : F .side := by assumption) : Keeps F s0 (s.setSide fk p row x) :=
  .of_eq (a := s) rfl rfl rfl rfl rfl (fun p => by cases p <;> first | exact .inl (by assumption) | exact .inr rfl) h
theorem State.emit_k (o : Out) (h : Keeps F s0 s)
    (h_sent : F .sent := by assumption) : Keeps F s0 (s.emit o) :=
  .of_eq (a := s) rfl rfl rfl rfl rfl (fun p => by cases p <;> first | exact .inl (by assumption) | exact .inr rfl) h
theorem State.log_k (code : Nat) (detail : List Nat) (h : Keeps F s0 s)
    (h_evlog : F .evlog := by assumption) : Keeps F s0 (s.log code detail) :=
  .of_eq (a := s) rfl rfl rfl rfl rfl (fun p => by cases p <;> first | exact .inl (by assumption) | exact .inr rfl) h
theorem State.take_k (n : Nat) (h : Keeps F s0 s)
    (h_fresh : F .fresh := by assumption) : Keeps F s0 (s.take n) :=
  .of_eq (a := s) rfl rfl rfl rfl rfl (fun p => by cases p <;> first | exact .inl (by assumption) | exact .inr rfl) h
end

end Sys2Proof.Machine
end

