-- ==== Sys2Proof/Laws/Keeps1.lean ====
section
/-! SUPPORT. Every operation and meaning of Regs, ActTables, Ops, FrameConf, RingOps, SysOps, Frames, Programming:
it leaves the queue alone, keeps the maps canonical, and changes only the parts its lemma names. -/

set_option Elab.async false

namespace Sys2Proof.Machine

theorem State.setPstate_k {F : Part → Prop} {s0 : State} (s : State) (n : Nat) (hk : Keeps F s0 s)
    (h_regs : F .regs := by assumption) (h_pw : F .pw := by assumption) : Keeps F s0 (State.setPstate s n) := by
  unfold State.setPstate
  with_reducible repeat' first | assumption | apply State.setReg_k | fail_if_no_progress (refine Keeps.upd ?_)

theorem State.zeroBut_k {F : Part → Prop} {s0 : State} (s : State) (a n : Nat) (keep : Nat → Bool) (hk : Keeps F s0 s)
    (h_mem : F .mem := by assumption) : Keeps F s0 (State.zeroBut s a n keep) :=
  Keeps.mems (s := s) _ hk rfl (Memory.wf_filter _ _) id id id (fun p => by cases p <;> first
      | exact .inl (by assumption) | exact .inr rfl)

theorem State.setAct_k {F : Part → Prop} {s0 : State} (s : State) (bk o : Nat) (w : Word) (hk : Keeps F s0 s)
    (h_regs : F .regs := by assumption) : Keeps F s0 (State.setAct s bk o w) := by
  unfold State.setAct
  with_reducible repeat' first | assumption | apply State.setReg_k

theorem State.sendFrame_k {F : Part → Prop} {s0 : State} (s : State) (h : Nat) (dst : Endpoint) (bytes : List Byte) (hk : Keeps F s0 s)
    (h_sent : F .sent := by assumption)
    (h_regs : F .regs := by assumption) : Keeps F s0 (State.sendFrame s h dst bytes) := by
  unfold State.sendFrame
  try dsimp only
  with_reducible repeat' first
      | assumption | intro _ | apply Keeps.ite | apply State.bump_k | apply State.emit_k | apply KeepsM.getD
      | apply KeepsM.foldl | apply KeepsM.bind | apply Keeps.foldl | apply Keeps.foldl_fst | split
      | (refine Keeps.of_fst (by assumption) ?_) | (refine KeepsM.get (by assumption) ?_)
      | (refine KeepsE.get (by assumption) ?_) | fail_if_no_progress (refine Keeps.upd ?_) | dsimp only

theorem State.sendOn_k {F : Part → Prop} {s0 : State} (s : State) (k type : Nat) (retx : Bool) (seq msgId offset : Nat) (payload : List Byte) (hk : Keeps F s0 s)
    (h_sent : F .sent := by assumption)
    (h_regs : F .regs := by assumption) : Keeps F s0 (State.sendOn s k type retx seq msgId offset payload) := by
  unfold State.sendOn
  try dsimp only
  with_reducible repeat' first
      | assumption | intro _ | apply Keeps.ite | apply State.sendFrame_k | apply KeepsM.getD | apply KeepsM.foldl
      | apply KeepsM.bind | apply Keeps.foldl | apply Keeps.foldl_fst | split
      | (refine Keeps.of_fst (by assumption) ?_) | (refine KeepsM.get (by assumption) ?_)
      | (refine KeepsE.get (by assumption) ?_) | fail_if_no_progress (refine Keeps.upd ?_) | dsimp only

theorem State.sendMsg_k {F : Part → Prop} {s0 : State} (s : State) (k type : Nat) (payload : List Byte) (msgId : Nat := 0) (offset : Nat := 0)
    (finals : List (Nat × Nat) := []) (applies : Option Nat := none) (hk : Keeps F s0 s)
    (h_sent : F .sent := by assumption) (h_regs : F .regs := by assumption)
    (h_hl : F .hl := by assumption) : Keeps F s0 (State.sendMsg s k type payload msgId offset finals applies) := by
  unfold State.sendMsg
  try dsimp only
  with_reducible repeat' first
      | assumption | intro _ | apply Keeps.ite | apply State.setSess_k | apply State.sendOn_k | apply KeepsM.getD
      | apply KeepsM.foldl | apply KeepsM.bind | apply Keeps.foldl | apply Keeps.foldl_fst | split
      | (refine Keeps.of_fst (by assumption) ?_) | (refine KeepsM.get (by assumption) ?_)
      | (refine KeepsE.get (by assumption) ?_) | fail_if_no_progress (refine Keeps.upd ?_) | dsimp only

theorem State.drain_k {F : Part → Prop} {s0 : State} (n : Nat) (s : State) (k : Nat) (hk : Keeps F s0 s)
    (h_sent : F .sent := by assumption) (h_regs : F .regs := by assumption)
    (h_hl : F .hl := by assumption) : Keeps F s0 (State.drain n s k) := by
  induction n generalizing s with
  | zero => exact hk
  | succ n ih =>
    unfold State.drain
    dsimp only
    with_reducible repeat' first | assumption | apply ih | apply State.sendOn_k | apply State.setSess_k | split

theorem State.event_k {F : Part → Prop} {s0 : State} (s : State) (code : Nat) (detail : List Byte := []) (hk : Keeps F s0 s)
    (h_sent : F .sent := by assumption) (h_evlog : F .evlog := by assumption) (h_regs : F .regs := by assumption)
    (h_hl : F .hl := by assumption) : Keeps F s0 (State.event s code detail) := by
  unfold State.event
  with_reducible repeat' first
      | assumption | intro _ | apply State.log_k | apply State.sendMsg_k | apply Keeps.foldl | split
      | fail_if_no_progress (refine Keeps.upd ?_)

theorem State.writeSlot_k {F : Part → Prop} {s0 : State} (s : State) (copy page i : Nat) (x : LSlot) (hk : Keeps F s0 s)
    (h_regs : F .regs := by assumption)
    (h_lg : F .lg := by assumption) : Keeps F s0 (State.writeSlot s copy page i x) := by
  unfold State.writeSlot
  with_reducible repeat' first
      | assumption | apply Keeps.ite | apply State.setRegN_k | fail_if_no_progress (refine Keeps.upd ?_)

theorem State.commitPage_k {F : Part → Prop} {s0 : State} (s : State) (page : Nat) (bs : List Byte) (hk : Keeps F s0 s)
    (h_regs : F .regs := by assumption)
    (h_lg : F .lg := by assumption) : Keeps F s0 (State.commitPage s page bs) := by
  unfold State.commitPage
  with_reducible repeat' first
      | assumption | intro _ | apply State.bump_k | apply State.writeSlot_k | apply Keeps.foldl

theorem State.ledgerWrite_k {F : Part → Prop} {s0 : State} (s : State) (page : Nat) (bs : List Byte) (hk : Keeps F s0 s)
    (h_regs : F .regs := by assumption)
    (h_lg : F .lg := by assumption) : Keeps F s0 (State.ledgerWrite s page bs).1 := by
  unfold State.ledgerWrite
  with_reducible repeat' first
      | assumption | intro _ | apply Keeps.ite_fst | apply State.setReg_k | apply State.bump_k
      | apply State.commitPage_k | apply Keeps.foldl | fail_if_no_progress (refine Keeps.upd ?_)

theorem State.ledgerPatch_k {F : Part → Prop} {s0 : State} (s : State) (page off : Nat) (bs : List Byte) (hk : Keeps F s0 s)
    (h_regs : F .regs := by assumption)
    (h_lg : F .lg := by assumption) : Keeps F s0 (State.ledgerPatch s page off bs).1 := by
  unfold State.ledgerPatch
  with_reducible repeat' first | assumption | apply State.ledgerWrite_k

theorem State.ledgerPages_k {F : Part → Prop} {s0 : State} (s : State) (page n : Nat) (bs : List Byte) (hk : Keeps F s0 s)
    (h_regs : F .regs := by assumption) (h_lg : F .lg := by assumption) :
    Keeps F s0 (s.ledgerPages page n bs).1 := by
  induction n generalizing s page bs with
  | zero => exact hk
  | succ n ih =>
    have hw := State.ledgerWrite_k s page (bs.take 256) hk
    unfold State.ledgerPages
    split
    · rename_i e; rw [e] at hw; exact ih _ _ _ hw
    · exact hw

theorem State.setCell_k {F : Part → Prop} {s0 : State} (s : State) (copy k i : Nat) (v : Nat × Nat) (hk : Keeps F s0 s)
    (h_lg : F .lg := by assumption) : Keeps F s0 (State.setCell s copy k i v) := by
  unfold State.setCell
  with_reducible repeat' first | assumption | fail_if_no_progress (refine Keeps.upd ?_)

theorem State.ctrInc_k {F : Part → Prop} {s0 : State} (s : State) (k : Nat) (hk : Keeps F s0 s)
    (h_regs : F .regs := by assumption) (h_lg : F .lg := by assumption) : Keeps F s0 (State.ctrInc s k).1 := by
  unfold State.ctrInc
  try dsimp only
  with_reducible repeat' first
      | assumption | intro _ | apply State.ledgerWrite_k | apply State.ledgerPatch_k | apply State.setCell_k
      | apply Keeps.foldl | split | (refine Keeps.of_fst (by assumption) ?_)

theorem State.audit_k {F : Part → Prop} {s0 : State} (s : State) (role src code : Nat) (args : List Word) (hk : Keeps F s0 s)
    (h_regs : F .regs := by assumption)
    (h_lg : F .lg := by assumption) : Keeps F s0 (State.audit s role src code args).1 := by
  unfold State.audit
  try dsimp only
  with_reducible repeat' first
      | assumption | apply State.take_k | apply State.ledgerPatch_k | apply State.ctrInc_k | split
      | (refine Keeps.of_fst (by assumption) ?_)

theorem State.flushLedger_k {F : Part → Prop} {s0 : State} (s : State) (n : Nat) (hk : Keeps F s0 s)
    (h_regs : F .regs := by assumption) (h_lg : F .lg := by assumption) : Keeps F s0 (s.flushLedger n) := by
  induction n generalizing s with
  | zero => exact hk
  | succ n ih =>
    unfold State.flushLedger
    split
    · exact ih _ (State.ledgerWrite_k _ _ _ (.upd hk))
    · exact hk

theorem State.flushAll_k {F : Part → Prop} {s0 : State} (s : State) (hk : Keeps F s0 s)
    (h_regs : F .regs := by assumption) (h_lg : F .lg := by assumption) : Keeps F s0 (State.flushAll s) := by
  unfold State.flushAll
  with_reducible repeat' first | assumption | apply State.flushLedger_k

theorem State.auditModule_k {F : Part → Prop} {s0 : State} (s : State) (code : Nat) (args : List Word := []) (hk : Keeps F s0 s)
    (h_regs : F .regs := by assumption)
    (h_lg : F .lg := by assumption) : Keeps F s0 (State.auditModule s code args) := by
  unfold State.auditModule
  with_reducible repeat' first | assumption | apply State.audit_k | apply State.flushAll_k

theorem State.mbPost_k {F : Part → Prop} {s0 : State} (s : State) (h n e code : Nat) (hk : Keeps F s0 s)
    (h_regs : F .regs := by assumption) (h_hl : F .hl := by assumption) : Keeps F s0 (State.mbPost s h n e code) := by
  unfold State.mbPost
  with_reducible repeat' first | assumption | apply State.setReg_k | apply State.setMbx_k

theorem State.mbDeliver_k {F : Part → Prop} {s0 : State} (s : State) (h n e : Nat) (ws : List Word) (hk : Keeps F s0 s)
    (h_regs : F .regs := by assumption)
    (h_hl : F .hl := by assumption) : Keeps F s0 (State.mbDeliver s h n e ws) := by
  unfold State.mbDeliver
  with_reducible repeat' first | assumption | apply State.setReg_k | apply State.bump_k | apply State.setMbx_k

theorem State.mbAck_k {F : Part → Prop} {s0 : State} (s : State) (h n e code : Nat) (hk : Keeps F s0 s)
    (h_regs : F .regs := by assumption) (h_hl : F .hl := by assumption) : Keeps F s0 (State.mbAck s h n e code) := by
  unfold State.mbAck
  try dsimp only
  with_reducible repeat' first
      | assumption | intro _ | apply Keeps.ite | apply State.setMbx_k | apply State.mbPost_k | apply KeepsM.getD
      | apply KeepsM.foldl | apply KeepsM.bind | apply Keeps.foldl | apply Keeps.foldl_fst | split
      | (refine Keeps.of_fst (by assumption) ?_) | (refine KeepsM.get (by assumption) ?_)
      | (refine KeepsE.get (by assumption) ?_) | fail_if_no_progress (refine Keeps.upd ?_) | dsimp only

theorem State.toEngine_k {F : Part → Prop} {s0 : State} (s : State) (r : Req) (code : Nat) (words : List Word) (port : Option Nat := none) (hk : Keeps F s0 s)
    (h_hl : F .hl := by assumption) : Keeps F s0 (State.toEngine s r code words port) := by
  unfold State.toEngine
  try dsimp only
  with_reducible repeat' first
      | assumption | intro _ | apply Keeps.ite | apply KeepsM.getD | apply KeepsM.foldl | apply KeepsM.bind
      | apply Keeps.foldl | apply Keeps.foldl_fst | split | (refine Keeps.of_fst (by assumption) ?_)
      | (refine KeepsM.get (by assumption) ?_) | (refine KeepsE.get (by assumption) ?_)
      | fail_if_no_progress (refine Keeps.upd ?_) | dsimp only

theorem State.serveMb0_k {F : Part → Prop} {s0 : State} (f : Nat) (s : State) (h : Nat) (hk : Keeps F s0 s)
    (h_regs : F .regs := by assumption) (h_hl : F .hl := by assumption) : Keeps F s0 (State.serveMb0 f s h) := by
  induction f generalizing s with
  | zero => exact hk
  | succ n ih =>
    unfold State.serveMb0
    dsimp only
    with_reducible repeat' first
        | assumption | apply ih | apply State.mbDeliver_k | apply State.toEngine_k | apply State.mbAck_k | split
        | fail_if_no_progress (refine Keeps.upd ?_)

theorem State.mb0Put_k {F : Part → Prop} {s0 : State} (s : State) (h : Nat) (ws : List Word) (hk : Keeps F s0 s)
    (h_regs : F .regs := by assumption) (h_hl : F .hl := by assumption) : Keeps F s0 (State.mb0Put s h ws) := by
  unfold State.mb0Put
  try dsimp only
  with_reducible repeat' first
      | assumption | apply State.serveMb0_k | intro _ | apply Keeps.ite | apply State.mbDeliver_k | apply KeepsM.getD
      | apply KeepsM.foldl | apply KeepsM.bind | apply Keeps.foldl | apply Keeps.foldl_fst | split
      | (refine Keeps.of_fst (by assumption) ?_) | (refine KeepsM.get (by assumption) ?_)
      | (refine KeepsE.get (by assumption) ?_) | fail_if_no_progress (refine Keeps.upd ?_) | dsimp only

theorem State.porellAck_k {F : Part → Prop} {s0 : State} (s : State) (h n code : Nat) (hk : Keeps F s0 s)
    (h_regs : F .regs := by assumption)
    (h_hl : F .hl := by assumption) : Keeps F s0 (State.porellAck s h n code) := by
  unfold State.porellAck
  try dsimp only
  with_reducible repeat' first
      | assumption | apply State.serveMb0_k | intro _ | apply Keeps.ite | apply State.mbDeliver_k
      | apply State.mbAck_k | apply KeepsM.getD | apply KeepsM.foldl | apply KeepsM.bind | apply Keeps.foldl
      | apply Keeps.foldl_fst | split | (refine Keeps.of_fst (by assumption) ?_)
      | (refine KeepsM.get (by assumption) ?_) | (refine KeepsE.get (by assumption) ?_)
      | fail_if_no_progress (refine Keeps.upd ?_) | dsimp only

theorem State.replyMsg_k {F : Part → Prop} {s0 : State} (s : State) (h n : Nat) (ws : List Word) (hk : Keeps F s0 s)
    (h_regs : F .regs := by assumption) (h_hl : F .hl := by assumption) : Keeps F s0 (State.replyMsg s h n ws) := by
  unfold State.replyMsg
  try dsimp only
  with_reducible repeat' first
      | assumption | intro _ | apply Keeps.ite | apply State.mbDeliver_k | apply State.mbAck_k | apply KeepsM.getD
      | apply KeepsM.foldl | apply KeepsM.bind | apply Keeps.foldl | apply Keeps.foldl_fst | split
      | (refine Keeps.of_fst (by assumption) ?_) | (refine KeepsM.get (by assumption) ?_)
      | (refine KeepsE.get (by assumption) ?_) | fail_if_no_progress (refine Keeps.upd ?_) | dsimp only

theorem State.reply_k {F : Part → Prop} {s0 : State} (s : State) (r : Req) (code : Nat) (words : List Word) (hk : Keeps F s0 s)
    (h_regs : F .regs := by assumption)
    (h_hl : F .hl := by assumption) : Keeps F s0 (State.reply s r code words) := by
  unfold State.reply
  try dsimp only
  with_reducible repeat' first
      | assumption | intro _ | apply Keeps.ite | apply State.toEngine_k | apply State.replyMsg_k | apply KeepsM.getD
      | apply KeepsM.foldl | apply KeepsM.bind | apply Keeps.foldl | apply Keeps.foldl_fst | split
      | (refine Keeps.of_fst (by assumption) ?_) | (refine KeepsM.get (by assumption) ?_)
      | (refine KeepsE.get (by assumption) ?_) | fail_if_no_progress (refine Keeps.upd ?_) | dsimp only

theorem State.answer_k {F : Part → Prop} {s0 : State} (s : State) (r : Req) (code : Nat) (words : List Word) (hk : Keeps F s0 s)
    (h_regs : F .regs := by assumption)
    (h_hl : F .hl := by assumption) : Keeps F s0 (State.answer s r code words) := by
  unfold State.answer
  try dsimp only
  with_reducible repeat' first
      | assumption | intro _ | apply Keeps.ite | apply State.toEngine_k | apply State.porellAck_k
      | apply State.reply_k | apply KeepsM.getD | apply KeepsM.foldl | apply KeepsM.bind | apply Keeps.foldl
      | apply Keeps.foldl_fst | split | (refine Keeps.of_fst (by assumption) ?_)
      | (refine KeepsM.get (by assumption) ?_) | (refine KeepsE.get (by assumption) ?_)
      | fail_if_no_progress (refine Keeps.upd ?_) | dsimp only

theorem State.ackPending_k {F : Part → Prop} {s0 : State} (s : State) (r : Req) (hk : Keeps F s0 s)
    (h_fresh : F .fresh := by assumption) (h_regs : F .regs := by assumption)
    (h_hl : F .hl := by assumption) : Keeps F s0 (State.ackPending s r) := by
  unfold State.ackPending
  with_reducible repeat' first | assumption | apply State.take_k | apply State.answer_k

theorem State.finish_k {F : Part → Prop} {s0 : State} (s : State) (r : Req) (code : Nat) (words : List Word) (hk : Keeps F s0 s)
    (h_regs : F .regs := by assumption)
    (h_hl : F .hl := by assumption) : Keeps F s0 (State.finish s r code words) := by
  unfold State.finish
  with_reducible repeat' first | assumption | apply State.take_k | apply State.reply_k

theorem State.unpend_k {F : Part → Prop} {s0 : State} (s : State) (r : Req) (op : Nat) (hk : Keeps F s0 s)
    (h_hl : F .hl := by assumption) : Keeps F s0 (State.unpend s r op) := by
  unfold State.unpend
  with_reducible repeat' first | assumption | fail_if_no_progress (refine Keeps.upd ?_)

theorem State.addPend_k {F : Part → Prop} {s0 : State} (s : State) (p : Pend) (hk : Keeps F s0 s)
    (h_hl : F .hl := by assumption) : Keeps F s0 (State.addPend s p) := by
  unfold State.addPend
  with_reducible repeat' first | assumption | fail_if_no_progress (refine Keeps.upd ?_)

theorem State.abandon_k {F : Part → Prop} {s0 : State} (s : State) (hk : Keeps F s0 s)
    (h_regs : F .regs := by assumption) (h_pw : F .pw := by assumption)
    (h_hl : F .hl := by assumption) : Keeps F s0 (State.abandon s) := by
  unfold State.abandon
  with_reducible repeat' first
      | assumption | intro _ | apply State.setReg_k | apply State.finish_k | apply State.unpend_k | apply Keeps.foldl
      | split | fail_if_no_progress (refine Keeps.upd ?_)

theorem State.wake_k {F : Part → Prop} {s0 : State} (s : State) (hk : Keeps F s0 s)
    (h_regs : F .regs := by assumption) (h_pw : F .pw := by assumption)
    (h_hl : F .hl := by assumption) : Keeps F s0 (State.wake s) := by
  unfold State.wake
  try dsimp only
  with_reducible repeat' first
      | assumption | intro _ | apply Keeps.ite | apply State.abandon_k | apply KeepsM.getD | apply KeepsM.foldl
      | apply KeepsM.bind | apply Keeps.foldl | apply Keeps.foldl_fst | split
      | (refine Keeps.of_fst (by assumption) ?_) | (refine KeepsM.get (by assumption) ?_)
      | (refine KeepsE.get (by assumption) ?_) | fail_if_no_progress (refine Keeps.upd ?_) | dsimp only

theorem State.command_k {F : Part → Prop} {s0 : State} (s : State) (c : Cmd) (r : Req) (body : State → Res)
    (hb : ∀ t, Keeps F s0 t → KeepsR F s0 (body t)) (hk : Keeps F s0 s)
    (h_fresh : F .fresh := by assumption) (h_regs : F .regs := by assumption)
    (h_pw : c.ready = true → F .pw := by first | exact fun _ => by assumption | exact fun h => absurd h Bool.false_ne_true)
    (h_hl : F .hl := by assumption)
    (h_lg : c.c = true → F .lg := by first | exact fun _ => by assumption | exact fun h => absurd h Bool.false_ne_true) : Keeps F s0 (s.command c r body) := by
  have hw : Keeps F s0 (if c.ready = true then s.wake else s) := by
    split
    · have := h_pw (by assumption)
      exact State.wake_k _ hk
    · exact hk
  unfold State.command
  dsimp only
  split
  · exact hk
  split
  · exact State.answer_k _ _ _ _ hk
  split
  · split
    · exact hw
    split
    · exact State.answer_k _ _ _ _ hk
    · exact State.addPend_k _ _ (State.ackPending_k _ _ hw)
  have hu := State.unpend_k s r c.op hk
  have late : ∀ (t : State) (x : Res), Keeps F s0 t → KeepsR F s0 x → Keeps F s0 (match x with
      | .refuse code d => t.finish r code [BitVec.ofNat 32 d]
      | .fail code d s => s.finish r code [BitVec.ofNat 32 d]
      | .ok ws s => s.finish r 0 ws
      | .pend key s => s.addPend { req := r, op := c.op, key := key }) := by
    intro t x ht hx
    cases x with
    | refuse => exact State.finish_k _ _ _ _ ht
    | fail => exact State.finish_k _ _ _ _ hx
    | ok => exact State.finish_k _ _ _ _ hx
    | pend => exact State.addPend_k _ _ hx
  have pe : ∀ (t : State) (b : Bool), Keeps F s0 t → Keeps F s0 (if b = true then t else t.ackPending r) := by
    intro t b ht
    split
    · exact ht
    · exact State.ackPending_k _ _ ht
  have hx := hb _ hu
  have h1 : ∀ b, Keeps F s0 (if b = true then s.unpend r c.op else (s.unpend r c.op).ackPending r) := fun b => pe _ b hu
  generalize body (s.unpend r c.op) = x at hx ⊢
  cases x
  case refuse =>
    dsimp only
    split
    · exact State.finish_k _ _ _ _ (pe _ _ hu)
    · exact State.answer_k _ _ _ _ hu
  all_goals
    dsimp only
    split
    · exact State.answer_k _ _ _ _ hu
    split
    · have := h_lg (by assumption)
      split
      · rename_i e
        exact State.finish_k _ _ _ _ (.of_fst e (State.audit_k _ _ _ _ _ (State.flushAll_k _ (pe _ _ hu))))
      · rename_i t e
        have h2 : Keeps F s0 t := .of_fst e (State.audit_k _ _ _ _ _ (State.flushAll_k _ (pe _ _ hu)))
        exact late _ _ h2 (hb _ h2)
    · first
        | exact late _ _ (h1 _) (hb _ (h1 _))
        | (split
           · exact State.finish_k _ _ _ _ hx
           · exact State.answer_k _ _ _ _ hx)

theorem State.turnDown_k {F : Part → Prop} {s0 : State} (s : State) (c : Cmd) (r : Req) (code : Nat) (hk : Keeps F s0 s)
    (h_regs : F .regs := by assumption) (h_hl : F .hl := by assumption) : Keeps F s0 (State.turnDown s c r code) := by
  unfold State.turnDown
  try dsimp only
  with_reducible repeat' first
      | assumption | intro _ | apply Keeps.ite | apply State.answer_k | apply State.finish_k | apply State.unpend_k
      | apply KeepsM.getD | apply KeepsM.foldl | apply KeepsM.bind | apply Keeps.foldl | apply Keeps.foldl_fst | split
      | (refine Keeps.of_fst (by assumption) ?_) | (refine KeepsM.get (by assumption) ?_)
      | (refine KeepsE.get (by assumption) ?_) | fail_if_no_progress (refine Keeps.upd ?_) | dsimp only

theorem State.sendData_k {F : Part → Prop} {s0 : State} (n : Nat) (s : State) (k : Nat) (hd : List Byte) (cap off : Nat) (bs : List Byte)
    (hk : Keeps F s0 s)
    (h_sent : F .sent := by assumption) (h_regs : F .regs := by assumption)
    (h_hl : F .hl := by assumption) : Keeps F s0 (State.sendData n s k hd cap off bs) := by
  induction n generalizing s off bs with
  | zero => exact hk
  | succ n ih =>
    unfold State.sendData
    split
    · exact hk
    · exact ih _ _ _ (State.sendMsg_k _ _ _ _ _ _ _ _ hk)

theorem State.bulk_k {F : Part → Prop} {s0 : State} (s : State) (src : Src) (handle : Nat) (bs : List Byte) (hk : Keeps F s0 s)
    (h_sent : F .sent := by assumption) (h_regs : F .regs := by assumption) (h_hl : F .hl := by assumption)
    (h_wk : F .wk := by assumption) : Keeps F s0 (State.bulk s src handle bs) := by
  unfold State.bulk
  with_reducible repeat' first
      | assumption | apply State.setHandle_k | apply State.take_k | apply State.sendData_k | split

theorem State.dropDraws_k {F : Part → Prop} {s0 : State} (s : State) (fk : Nat) (w : Work) (hk : Keeps F s0 s)
    (h_dies : F .dies := by assumption) : Keeps F s0 (State.dropDraws s fk w) := by
  unfold State.dropDraws
  try dsimp only
  with_reducible repeat' first
      | assumption | intro _ | apply Keeps.ite | apply State.setDie_k | split
      | fail_if_no_progress (refine Keeps.upd ?_) | dsimp only

theorem State.frameFault_k {F : Part → Prop} {s0 : State} (s : State) (fk code : Nat) (hk : Keeps F s0 s)
    (h_evlog : F .evlog := by assumption)
    (h_frames : F .frames := by assumption) : Keeps F s0 (State.frameFault s fk code) := by
  unfold State.frameFault
  try dsimp only
  with_reducible repeat' first
      | assumption | intro _ | apply Keeps.ite | apply State.setFrame_k | apply State.log_k | apply KeepsM.getD
      | apply KeepsM.foldl | apply KeepsM.bind | apply Keeps.foldl | apply Keeps.foldl_fst | split
      | (refine Keeps.of_fst (by assumption) ?_) | (refine KeepsM.get (by assumption) ?_)
      | (refine KeepsE.get (by assumption) ?_) | fail_if_no_progress (refine Keeps.upd ?_) | dsimp only

theorem State.applyCommit_k {F : Part → Prop} {s0 : State} (s : State) (fk : Nat) (hk : Keeps F s0 s)
    (h_evlog : F .evlog := by assumption) (h_regs : F .regs := by assumption) (h_live : F .live := by assumption)
    (h_frames : F .frames := by assumption) : Keeps F s0 (State.applyCommit s fk) := by
  unfold State.applyCommit
  try dsimp only
  with_reducible repeat' first
      | assumption | intro _ | apply Keeps.ite | apply State.setReg_k | apply State.setLive_k | apply State.setFrame_k
      | apply State.frameFault_k | apply KeepsM.getD | apply KeepsM.foldl | apply KeepsM.bind | apply Keeps.foldl
      | apply Keeps.foldl_fst | split | (refine Keeps.of_fst (by assumption) ?_)
      | (refine KeepsM.get (by assumption) ?_) | (refine KeepsE.get (by assumption) ?_)
      | fail_if_no_progress (refine Keeps.upd ?_) | dsimp only

theorem State.freeSource_k {F : Part → Prop} {s0 : State} (s : State) (d : Nat) (hk : Keeps F s0 s)
    (h_regs : F .regs := by assumption) : Keeps F s0 (State.freeSource s d) := by
  unfold State.freeSource
  try dsimp only
  with_reducible repeat' first
      | assumption | intro _ | apply Keeps.ite | apply State.setReg_k | apply KeepsM.getD | apply KeepsM.foldl
      | apply KeepsM.bind | apply Keeps.foldl | apply Keeps.foldl_fst | split
      | (refine Keeps.of_fst (by assumption) ?_) | (refine KeepsM.get (by assumption) ?_)
      | (refine KeepsE.get (by assumption) ?_) | fail_if_no_progress (refine Keeps.upd ?_) | dsimp only

theorem State.dropVisit_k {F : Part → Prop} {s0 : State} (s : State) (fk : Nat) (hk : Keeps F s0 s)
    (h_regs : F .regs := by assumption) (h_frames : F .frames := by assumption)
    (h_dies : F .dies := by assumption) : Keeps F s0 (State.dropVisit s fk) := by
  unfold State.dropVisit
  try dsimp only
  with_reducible repeat' first
      | assumption | intro _ | apply Keeps.ite | apply State.setFrame_k | apply State.dropDraws_k
      | apply State.freeSource_k | apply KeepsM.getD | apply KeepsM.foldl | apply KeepsM.bind | apply Keeps.foldl
      | apply Keeps.foldl_fst | split | (refine Keeps.of_fst (by assumption) ?_)
      | (refine KeepsM.get (by assumption) ?_) | (refine KeepsE.get (by assumption) ?_)
      | fail_if_no_progress (refine Keeps.upd ?_) | dsimp only

theorem State.boundary_k {F : Part → Prop} {s0 : State} (s : State) (fk : Nat) (hk : Keeps F s0 s)
    (h_evlog : F .evlog := by assumption) (h_regs : F .regs := by assumption) (h_live : F .live := by assumption)
    (h_frames : F .frames := by assumption)
    (h_dies : F .dies := by assumption) : Keeps F s0 (State.boundary s fk) := by
  unfold State.boundary
  try dsimp only
  with_reducible repeat' first
      | assumption | intro _ | apply Keeps.ite | apply State.setFrame_k | apply State.applyCommit_k
      | apply State.dropVisit_k | split | fail_if_no_progress (refine Keeps.upd ?_) | dsimp only

theorem State.attach_k {F : Part → Prop} {s0 : State} (s : State) (r : Nat) (k : Option Nat) (hk : Keeps F s0 s)
    (h_regs : F .regs := by assumption) : Keeps F s0 (State.attach s r k) := by
  unfold State.attach
  with_reducible repeat' first | assumption | apply State.setReg_k | split

theorem State.modJob_k {F : Part → Prop} {s0 : State} (s : State) (j : Nat) (f : Job → Job) (hk : Keeps F s0 s)
    (h_wk : F .wk := by assumption) : Keeps F s0 (State.modJob s j f) := by
  unfold State.modJob
  with_reducible repeat' first | assumption | apply State.setJob_k | split

theorem State.jrec_k {F : Part → Prop} {s0 : State} (s : State) (type ring : Nat) (jseq step point lb : Nat) (payload : List Byte) (hk : Keeps F s0 s)
    (h_sv : F .sv := by assumption) : Keeps F s0 (State.jrec s type ring jseq step point lb payload) := by
  unfold State.jrec
  with_reducible repeat' first | assumption | apply Keeps.ite | fail_if_no_progress (refine Keeps.upd ?_)

theorem State.unbusy_k {F : Part → Prop} {s0 : State} (s : State) (hs : List Nat) (hk : Keeps F s0 s)
    (h_wk : F .wk := by assumption) : Keeps F s0 (State.unbusy s hs) := by
  unfold State.unbusy
  try dsimp only
  with_reducible repeat' first
      | assumption | intro _ | apply Keeps.ite | apply State.setHandle_k | apply KeepsM.getD | apply KeepsM.foldl
      | apply KeepsM.bind | apply Keeps.foldl | apply Keeps.foldl_fst | split
      | (refine Keeps.of_fst (by assumption) ?_) | (refine KeepsM.get (by assumption) ?_)
      | (refine KeepsE.get (by assumption) ?_) | fail_if_no_progress (refine Keeps.upd ?_) | dsimp only

theorem State.freeHandlesOf_k {F : Part → Prop} {s0 : State} (s : State) (jn : Nat) (hk : Keeps F s0 s)
    (h_wk : F .wk := by assumption) : Keeps F s0 (State.freeHandlesOf s jn) := by
  unfold State.freeHandlesOf
  try dsimp only
  with_reducible repeat' first
      | assumption | intro _ | apply Keeps.ite | apply State.unbusy_k | apply KeepsM.getD | apply KeepsM.foldl
      | apply KeepsM.bind | apply Keeps.foldl | apply Keeps.foldl_fst | split
      | (refine Keeps.of_fst (by assumption) ?_) | (refine KeepsM.get (by assumption) ?_)
      | (refine KeepsE.get (by assumption) ?_) | fail_if_no_progress (refine Keeps.upd ?_) | dsimp only

theorem State.sendCompl_k {F : Part → Prop} {s0 : State} (s : State) (r : Nat) (hk : Keeps F s0 s)
    (h_sent : F .sent := by assumption) (h_regs : F .regs := by assumption) (h_hl : F .hl := by assumption)
    (h_wk : F .wk := by assumption) : Keeps F s0 (State.sendCompl s r) := by
  unfold State.sendCompl
  try dsimp only
  with_reducible repeat' first
      | assumption | intro _ | apply Keeps.ite | apply State.setRing_k | apply State.sendMsg_k
      | apply State.freeHandlesOf_k | apply State.sendData_k | apply KeepsM.getD | apply KeepsM.foldl
      | apply KeepsM.bind | apply Keeps.foldl | apply Keeps.foldl_fst | split
      | (refine Keeps.of_fst (by assumption) ?_) | (refine KeepsM.get (by assumption) ?_)
      | (refine KeepsE.get (by assumption) ?_) | fail_if_no_progress (refine Keeps.upd ?_) | dsimp only

theorem State.formCompl_k {F : Part → Prop} {s0 : State} (s : State) (jn : Nat) (j : Job) (status epoch : Nat) (final : Bool)
    (data : List (List Byte × Nat × List Byte) := []) (hk : Keeps F s0 s)
    (h_sent : F .sent := by assumption) (h_regs : F .regs := by assumption) (h_hl : F .hl := by assumption)
    (h_wk : F .wk := by assumption)
    (h_sv : F .sv := by assumption) : Keeps F s0 (State.formCompl s jn j status epoch final data) := by
  unfold State.formCompl
  try dsimp only
  with_reducible repeat' first
      | assumption | intro _ | apply Keeps.ite | apply State.setRing_k | apply State.setJob_k | apply State.jrec_k
      | apply State.sendCompl_k | apply KeepsM.getD | apply KeepsM.foldl | apply KeepsM.bind | apply Keeps.foldl
      | apply Keeps.foldl_fst | split | (refine Keeps.of_fst (by assumption) ?_)
      | (refine KeepsM.get (by assumption) ?_) | (refine KeepsE.get (by assumption) ?_)
      | fail_if_no_progress (refine Keeps.upd ?_) | dsimp only

theorem State.makeBusy_k {F : Part → Prop} {s0 : State} (s : State) (hs : List Nat) (hk : Keeps F s0 s)
    (h_wk : F .wk := by assumption) : Keeps F s0 (State.makeBusy s hs) := by
  unfold State.makeBusy
  with_reducible repeat' first | assumption | intro _ | apply State.setHandle_k | apply Keeps.foldl | split

theorem State.freeMap_k {F : Part → Prop} {s0 : State} (s : State) (m : Nat) (hk : Keeps F s0 s)
    (h_wk : F .wk := by assumption) : Keeps F s0 (State.freeMap s m) := by
  unfold State.freeMap
  try dsimp only
  with_reducible repeat' first
      | assumption | intro _ | apply Keeps.ite | apply KeepsM.getD | apply KeepsM.foldl | apply KeepsM.bind
      | apply Keeps.foldl | apply Keeps.foldl_fst | split | (refine Keeps.of_fst (by assumption) ?_)
      | (refine KeepsM.get (by assumption) ?_) | (refine KeepsE.get (by assumption) ?_)
      | fail_if_no_progress (refine Keeps.upd ?_) | dsimp only

theorem State.sendCredit_k {F : Part → Prop} {s0 : State} (s : State) (k r n : Nat) (hk : Keeps F s0 s)
    (h_sent : F .sent := by assumption)
    (h_regs : F .regs := by assumption) : Keeps F s0 (State.sendCredit s k r n) := by
  unfold State.sendCredit
  try dsimp only
  with_reducible repeat' first
      | assumption | intro _ | apply Keeps.ite | apply State.sendOn_k | apply KeepsM.getD | apply KeepsM.foldl
      | apply KeepsM.bind | apply Keeps.foldl | apply Keeps.foldl_fst | split
      | (refine Keeps.of_fst (by assumption) ?_) | (refine KeepsM.get (by assumption) ?_)
      | (refine KeepsE.get (by assumption) ?_) | fail_if_no_progress (refine Keeps.upd ?_) | dsimp only

theorem State.releaseJob_k {F : Part → Prop} {s0 : State} (s : State) (r jn : Nat) (hk : Keeps F s0 s)
    (h_sent : F .sent := by assumption) (h_regs : F .regs := by assumption)
    (h_wk : F .wk := by assumption) : Keeps F s0 (State.releaseJob s r jn) := by
  unfold State.releaseJob
  try dsimp only
  with_reducible repeat' first
      | assumption | intro _ | apply Keeps.ite | apply State.setReg_k | apply State.setRing_k | apply State.setJob_k
      | apply State.setHandle_k | apply State.sendCredit_k | apply KeepsM.getD | apply KeepsM.foldl
      | apply KeepsM.bind | apply Keeps.foldl | apply Keeps.foldl_fst | split
      | (refine Keeps.of_fst (by assumption) ?_) | (refine KeepsM.get (by assumption) ?_)
      | (refine KeepsE.get (by assumption) ?_) | fail_if_no_progress (refine Keeps.upd ?_) | dsimp only

theorem State.complAcked_k {F : Part → Prop} {s0 : State} (s : State) (p : Nat × Nat) (hk : Keeps F s0 s)
    (h_sent : F .sent := by assumption) (h_regs : F .regs := by assumption)
    (h_wk : F .wk := by assumption) : Keeps F s0 (State.complAcked s p) := by
  unfold State.complAcked
  try dsimp only
  with_reducible repeat' first | assumption | apply State.setRing_k | apply State.releaseJob_k | split

theorem State.msgAcked_k {F : Part → Prop} {s0 : State} (s : State) (m : OMsg) (hk : Keeps F s0 s)
    (h_sent : F .sent := by assumption) (h_regs : F .regs := by assumption) (h_hl : F .hl := by assumption)
    (h_wk : F .wk := by assumption) : Keeps F s0 (State.msgAcked s m) := by
  unfold State.msgAcked
  try dsimp only
  with_reducible repeat' first
      | assumption | intro _ | apply State.setPort_k | apply State.complAcked_k | apply Keeps.foldl | split

theorem State.ackIn_k {F : Part → Prop} {s0 : State} (s : State) (k ack window : Nat) (hk : Keeps F s0 s)
    (h_sent : F .sent := by assumption) (h_regs : F .regs := by assumption) (h_hl : F .hl := by assumption)
    (h_wk : F .wk := by assumption) : Keeps F s0 (State.ackIn s k ack window) := by
  unfold State.ackIn
  with_reducible repeat' first
      | assumption | intro _ | apply State.setSess_k | apply State.msgAcked_k | apply State.drain_k
      | apply Keeps.foldl

theorem State.closeSess_k {F : Part → Prop} {s0 : State} (s : State) (k : Nat) (hk : Keeps F s0 s)
    (h_regs : F .regs := by assumption) (h_hl : F .hl := by assumption) (h_wk : F .wk := by assumption)
    (h_lg : F .lg := by assumption) : Keeps F s0 (State.closeSess s k) := by
  unfold State.closeSess
  with_reducible repeat' first
      | assumption | intro _ | apply Keeps.ite | apply State.setSess_k | apply State.auditModule_k
      | apply State.attach_k | apply Keeps.foldl | fail_if_no_progress (refine Keeps.upd ?_)

theorem State.resetHist_k {F : Part → Prop} {s0 : State} (s : State) (slot bk ctx : Nat) (tokenOnly : Bool) (hk : Keeps F s0 s)
    (h_mem : F .mem := by assumption) : Keeps F s0 (State.resetHist s slot bk ctx tokenOnly) := by
  unfold State.resetHist
  with_reducible repeat' first | assumption | intro _ | apply Keeps.ite | apply State.store_k | apply Keeps.foldl

theorem State.resetCtx_k {F : Part → Prop} {s0 : State} (s : State) (slot ctx : Nat) (tokenOnly : Bool) (hk : Keeps F s0 s)
    (h_mem : F .mem := by assumption) : Keeps F s0 (State.resetCtx s slot ctx tokenOnly) := by
  unfold State.resetCtx
  with_reducible repeat' first | assumption | intro _ | apply State.resetHist_k | apply Keeps.foldl

theorem State.ckFill_k {F : Part → Prop} {s0 : State} (s : State) (bs : List Byte) (l : List (Nat × Nat)) (o : Nat) (hk : Keeps F s0 s)
    (h_mem : F .mem := by assumption) :
    Keeps F s0 (s.ckFill bs l o).1 := by
  induction l generalizing s o with
  | nil => exact hk
  | cons a l ih => exact ih _ _ (State.store_k _ _ hk)

theorem State.ckPages_k {F : Part → Prop} {s0 : State} (s : State) (bs : List Byte) (slot n o : Nat) (ps : List (Nat × Nat))
    (hk : Keeps F s0 s)
    (h_mem : F .mem := by assumption) : Keeps F s0 (s.ckPages bs slot n o ps).1 := by
  induction n generalizing s o ps with
  | zero => exact hk
  | succ n ih =>
    unfold State.ckPages
    dsimp only
    exact ih _ _ _ (State.ckFill_k s bs _ _ hk)

theorem State.ckMaps_k {F : Part → Prop} {s0 : State} (s : State) (bs : List Byte) (slot r n o : Nat)
    (hk : Keeps F s0 s)
    (h_mem : F .mem := by assumption) (h_wk : F .wk := by assumption) : Keeps F s0 (s.ckMaps bs slot r n o) := by
  induction n generalizing s o with
  | zero => exact hk
  | succ n ih =>
    refine ih _ _ (Keeps.foldl (fun _ _ h => ?_) ?_)
    · exact Keeps.upd h
    · exact Keeps.upd (State.ckPages_k _ _ _ _ _ _ hk)

theorem State.ckRestore_k {F : Part → Prop} {s0 : State} (s : State) (r : Nat) (bs : List Byte) (hk : Keeps F s0 s)
    (h_mem : F .mem := by assumption) (h_wk : F .wk := by assumption) :
    Keeps F s0 (s.ckRestore r bs).1 := by
  unfold State.ckRestore
  refine State.ckMaps_k _ _ _ _ _ _ (State.ckFill_k _ _ _ _ (State.ckFill_k _ _ _ _ (State.setRing_k _ _ hk)))

theorem State.stateRecord_k {F : Part → Prop} {s0 : State} (s : State) (r : Nat) (hk : Keeps F s0 s)
    (h_wk : F .wk := by assumption) (h_sv : F .sv := by assumption) : Keeps F s0 (State.stateRecord s r) := by
  unfold State.stateRecord
  with_reducible repeat' first | assumption | apply Keeps.ite | apply State.setRing_k | apply State.jrec_k

theorem State.acceptDesc_k {F : Part → Prop} {s0 : State} (s : State) (k : Nat) (b : List Byte) (hk : Keeps F s0 s)
    (h_regs : F .regs := by assumption) (h_wk : F .wk := by assumption)
    (h_sv : F .sv := by assumption) : Keeps F s0 (State.acceptDesc s k b) := by
  unfold State.acceptDesc
  with_reducible repeat' first
      | assumption | apply State.setReg_k | apply State.setRing_k | apply State.setJob_k | apply State.jrec_k
      | apply State.makeBusy_k | apply State.stateRecord_k | fail_if_no_progress (refine Keeps.upd ?_)

theorem State.dropStrokes_k {F : Part → Prop} {s0 : State} (s : State) (fk j : Nat) (hk : Keeps F s0 s)
    (h_evlog : F .evlog := by assumption) (h_regs : F .regs := by assumption) (h_live : F .live := by assumption)
    (h_frames : F .frames := by assumption)
    (h_dies : F .dies := by assumption) : Keeps F s0 (State.dropStrokes s fk j) := by
  unfold State.dropStrokes
  try dsimp only
  with_reducible repeat' first
      | assumption | intro _ | apply Keeps.ite | apply State.setFrame_k | apply State.boundary_k
      | apply State.dropJob_k | split | (refine Keeps.of_fst (by assumption) ?_)
      | (refine KeepsM.get (by assumption) ?_) | fail_if_no_progress (refine Keeps.upd ?_) | dsimp only

theorem State.dropJob_k {F : Part → Prop} {s0 : State} (s : State) (j : Nat) (hk : Keeps F s0 s)
    (h_evlog : F .evlog := by assumption) (h_regs : F .regs := by assumption) (h_live : F .live := by assumption)
    (h_frames : F .frames := by assumption) (h_boards : F .boards := by assumption)
    (h_dies : F .dies := by assumption) (h_fb : F .fb := by assumption) : Keeps F s0 (State.dropJob s j) := by
  unfold State.dropJob
  try dsimp only
  with_reducible repeat' first
      | assumption | intro _ | apply Keeps.ite | apply State.setBoard_k | apply State.dropStrokes_k
      | apply KeepsM.foldl | apply Keeps.foldl | apply Keeps.foldl_fst | split
      | (refine Keeps.of_fst (by assumption) ?_) | (refine KeepsM.get (by assumption) ?_)
      | fail_if_no_progress (refine Keeps.upd ?_) | dsimp only

theorem State.deleteRing_k {F : Part → Prop} {s0 : State} (s : State) (r : Nat) (hk : Keeps F s0 s)
    (h_regs : F .regs := by assumption) (h_wk : F .wk := by assumption) : Keeps F s0 (State.deleteRing s r) := by
  unfold State.deleteRing
  try dsimp only
  with_reducible repeat' first
      | assumption | intro _ | apply Keeps.ite | apply State.setReg_k | apply State.setRing_k | apply State.setScore_k
      | apply State.freeHandlesOf_k | apply State.freeMap_k | apply KeepsM.getD | apply KeepsM.foldl
      | apply KeepsM.bind | apply Keeps.foldl | apply Keeps.foldl_fst | split
      | (refine Keeps.of_fst (by assumption) ?_) | (refine KeepsM.get (by assumption) ?_)
      | (refine KeepsE.get (by assumption) ?_) | fail_if_no_progress (refine Keeps.upd ?_) | dsimp only

theorem State.doCkpt_k {F : Part → Prop} {s0 : State} (s : State) (q : Req) (hk : Keeps F s0 s)
    (h_regs : F .regs := by assumption) (h_hl : F .hl := by assumption)
    (h_wk : F .wk := by assumption) : Keeps F s0 (State.doCkpt s q) := by
  unfold State.doCkpt
  try dsimp only
  with_reducible repeat' first
      | assumption | intro _ | apply Keeps.ite | apply State.setHandle_k | apply State.finish_k | apply KeepsM.getD
      | apply KeepsM.foldl | apply KeepsM.bind | apply Keeps.foldl | apply Keeps.foldl_fst | split
      | (refine Keeps.of_fst (by assumption) ?_) | (refine KeepsM.get (by assumption) ?_)
      | (refine KeepsE.get (by assumption) ?_) | fail_if_no_progress (refine Keeps.upd ?_) | dsimp only

theorem State.settleReplay_k {F : Part → Prop} {s0 : State} (s : State) (r : Nat) (hk : Keeps F s0 s)
    (h_regs : F .regs := by assumption) (h_hl : F .hl := by assumption)
    (h_wk : F .wk := by assumption) : Keeps F s0 (State.settleReplay s r) := by
  unfold State.settleReplay
  with_reducible repeat' first
      | assumption | apply Keeps.ite | apply State.setRing_k | apply State.finish_k | apply State.unpend_k | split

theorem State.settleRing_k {F : Part → Prop} {s0 : State} (s : State) (r : Nat) (hk : Keeps F s0 s)
    (h_regs : F .regs := by assumption) (h_mem : F .mem := by assumption) (h_hl : F .hl := by assumption)
    (h_wk : F .wk := by assumption) : Keeps F s0 (State.settleRing s r) := by
  unfold State.settleRing
  try dsimp only
  with_reducible repeat' first
      | assumption | intro _ | apply Keeps.ite | apply State.finish_k | apply State.unpend_k | apply State.resetCtx_k
      | apply State.doCkpt_k | apply State.settleReplay_k | apply KeepsM.getD | apply KeepsM.foldl | apply KeepsM.bind
      | apply Keeps.foldl | apply Keeps.foldl_fst | split | (refine Keeps.of_fst (by assumption) ?_)
      | (refine KeepsM.get (by assumption) ?_) | (refine KeepsE.get (by assumption) ?_)
      | fail_if_no_progress (refine Keeps.upd ?_) | dsimp only

theorem State.complete_k {F : Part → Prop} {s0 : State} (s : State) (jn status : Nat) (data : List (List Byte × Nat × List Byte) := []) (hk : Keeps F s0 s)
    (h_sent : F .sent := by assumption) (h_regs : F .regs := by assumption) (h_mem : F .mem := by assumption)
    (h_hl : F .hl := by assumption) (h_wk : F .wk := by assumption)
    (h_sv : F .sv := by assumption) : Keeps F s0 (State.complete s jn status data) := by
  unfold State.complete
  try dsimp only
  with_reducible repeat' first
      | assumption | intro _ | apply Keeps.ite | apply State.setRing_k | apply State.formCompl_k
      | apply State.freeMap_k | apply State.settleRing_k | apply KeepsM.getD | apply KeepsM.foldl | apply KeepsM.bind
      | apply Keeps.foldl | apply Keeps.foldl_fst | split | (refine Keeps.of_fst (by assumption) ?_)
      | (refine KeepsM.get (by assumption) ?_) | (refine KeepsE.get (by assumption) ?_)
      | fail_if_no_progress (refine Keeps.upd ?_) | dsimp only

theorem State.failJob_k {F : Part → Prop} {s0 : State} (s : State) (jn status : Nat) (hk : Keeps F s0 s)
    (h_sent : F .sent := by assumption) (h_evlog : F .evlog := by assumption) (h_regs : F .regs := by assumption)
    (h_live : F .live := by assumption) (h_mem : F .mem := by assumption) (h_frames : F .frames := by assumption)
    (h_boards : F .boards := by assumption) (h_dies : F .dies := by assumption) (h_hl : F .hl := by assumption)
    (h_wk : F .wk := by assumption) (h_fb : F .fb := by assumption)
    (h_sv : F .sv := by assumption) : Keeps F s0 (State.failJob s jn status) := by
  unfold State.failJob
  with_reducible repeat' first | assumption | apply State.dropJob_k | apply State.complete_k

theorem State.moduleWrite_k {F : Part → Prop} {s0 : State} (s : State) (page off : Nat) (bs : List Byte) (hk : Keeps F s0 s)
    (h_lg : F .lg := by assumption) : Keeps F s0 (State.moduleWrite s page off bs) := by
  unfold State.moduleWrite
  with_reducible repeat' first | assumption | fail_if_no_progress (refine Keeps.upd ?_)

theorem State.mapSet_k {F : Part → Prop} {s0 : State} (s : State) (i : Nat) (hk : Keeps F s0 s)
    (h_lg : F .lg := by assumption) (h_sv : F .sv := by assumption) : Keeps F s0 (State.mapSet s i) := by
  unfold State.mapSet
  with_reducible repeat' first
      | assumption | apply State.moduleWrite_k | split | fail_if_no_progress (refine Keeps.upd ?_)

theorem State.savePolicy_k {F : Part → Prop} {s0 : State} (s : State) (hk : Keeps F s0 s)
    (h_regs : F .regs := by assumption) (h_lg : F .lg := by assumption) : Keeps F s0 (State.savePolicy s) := by
  unfold State.savePolicy
  with_reducible repeat' first | assumption | apply State.flushAll_k | apply State.moduleWrite_k

theorem State.setBoth_k {F : Part → Prop} {s0 : State} (s : State) (x : Nat) (w : Word) (hk : Keeps F s0 s)
    (h_regs : F .regs := by assumption) : Keeps F s0 (State.setBoth s x w) := by
  unfold State.setBoth
  with_reducible repeat' first | assumption | apply State.setReg_k

theorem State.loadPolicy_k {F : Part → Prop} {s0 : State} (s : State) (hk : Keeps F s0 s)
    (h_regs : F .regs := by assumption) (h_pw : F .pw := by assumption) (h_th : F .th := by assumption)
    (h_sv : F .sv := by assumption) : Keeps F s0 (State.loadPolicy s) := by
  unfold State.loadPolicy
  with_reducible repeat' first
      | assumption | intro _ | apply Keeps.ite | apply State.setReg_k | apply State.setBoth_k | apply Keeps.foldl
      | fail_if_no_progress (refine Keeps.upd ?_)

theorem State.sealWrite_k {F : Part → Prop} {s0 : State} (s : State) (page : Nat) (plain : List Byte) (hk : Keeps F s0 s)
    (h_regs : F .regs := by assumption)
    (h_lg : F .lg := by assumption) : Keeps F s0 (State.sealWrite s page plain).1 := by
  unfold State.sealWrite
  try dsimp only
  with_reducible repeat' first
      | assumption | intro _ | apply Keeps.ite_fst | apply State.ledgerWrite_k | split
      | (refine Keeps.of_fst (by assumption) ?_) | (refine KeepsM.get (by assumption) ?_)
      | fail_if_no_progress (refine Keeps.upd ?_) | dsimp only

theorem State.freeLocks_k {F : Part → Prop} {s0 : State} (s : State) (owners : List Nat) (hk : Keeps F s0 s)
    (h_hl : F .hl := by assumption) : Keeps F s0 (State.freeLocks s owners) := by
  unfold State.freeLocks
  try dsimp only
  with_reducible repeat' first
      | assumption | intro _ | apply Keeps.ite | apply State.setMbx_k | apply KeepsM.getD | apply KeepsM.foldl
      | apply KeepsM.bind | apply Keeps.foldl | apply Keeps.foldl_fst | split
      | (refine Keeps.of_fst (by assumption) ?_) | (refine KeepsM.get (by assumption) ?_)
      | (refine KeepsE.get (by assumption) ?_) | fail_if_no_progress (refine Keeps.upd ?_) | dsimp only

theorem State.freeHubLocks_k {F : Part → Prop} {s0 : State} (s : State) (h : Nat) (owners : List Nat) (hk : Keeps F s0 s)
    (h_hl : F .hl := by assumption) : Keeps F s0 (State.freeHubLocks s h owners) := by
  unfold State.freeHubLocks
  try dsimp only
  with_reducible repeat' first
      | assumption | intro _ | apply Keeps.ite | apply State.setMbx_k | apply KeepsM.getD | apply KeepsM.foldl
      | apply KeepsM.bind | apply Keeps.foldl | apply Keeps.foldl_fst | split
      | (refine Keeps.of_fst (by assumption) ?_) | (refine KeepsM.get (by assumption) ?_)
      | (refine KeepsE.get (by assumption) ?_) | fail_if_no_progress (refine Keeps.upd ?_) | dsimp only

theorem State.enter_k {F : Part → Prop} {s0 : State} (s : State) (n : Nat) (hk : Keeps F s0 s)
    (h_sent : F .sent := by assumption) (h_evlog : F .evlog := by assumption) (h_regs : F .regs := by assumption)
    (h_pw : F .pw := by assumption) (h_hl : F .hl := by assumption) : Keeps F s0 (State.enter s n) := by
  unfold State.enter
  try dsimp only
  with_reducible repeat' first
      | assumption | intro _ | apply Keeps.ite | apply State.setPstate_k | apply State.event_k
      | apply State.freeLocks_k | split | fail_if_no_progress (refine Keeps.upd ?_) | dsimp only

theorem State.powerReached_k {F : Part → Prop} {s0 : State} (s : State) (n : Nat) (hk : Keeps F s0 s)
    (h_regs : F .regs := by assumption) (h_hl : F .hl := by assumption) : Keeps F s0 (State.powerReached s n) := by
  unfold State.powerReached
  with_reducible repeat' first
      | assumption | intro _ | apply State.finish_k | apply State.unpend_k | apply Keeps.foldl

theorem State.showFail_k {F : Part → Prop} {s0 : State} (s : State) (hk : Keeps F s0 s)
    (h_regs : F .regs := by assumption) : Keeps F s0 (State.showFail s) := by
  unfold State.showFail
  with_reducible repeat' first | assumption | apply State.setBoth_k | split

theorem State.keepSec_k {F : Part → Prop} {s0 : State} (old s : State) (hk : Keeps F s0 s)
    (h_regs : F .regs := by assumption) : Keeps F s0 (State.keepSec old s) := by
  unfold State.keepSec
  exact Keeps.foldl (fun _ _ h => State.setReg_k _ _ h) hk

theorem State.vinReset_k {F : Part → Prop} {s0 : State} (s : State) (hk : Keeps F s0 s)
    (h_now : F .now := by assumption) (h_fresh : F .fresh := by assumption) (h_rdata : F .rdata := by assumption)
    (h_sent : F .sent := by assumption) (h_evlog : F .evlog := by assumption) (h_regs : F .regs := by assumption)
    (h_live : F .live := by assumption) (h_mem : F .mem := by assumption) (h_beads : F .beads := by assumption)
    (h_side : F .side := by assumption) (h_frames : F .frames := by assumption)
    (h_boards : F .boards := by assumption) (h_dies : F .dies := by assumption) (h_mets : F .mets := by assumption)
    (h_ck : F .ck := by assumption) (h_pw : F .pw := by assumption) (h_th : F .th := by assumption)
    (h_hl : F .hl := by assumption) (h_wk : F .wk := by assumption) (h_fb : F .fb := by assumption)
    (h_ms : F .ms := by assumption) (h_lg : F .lg := by assumption)
    (h_sv : F .sv := by assumption) : Keeps F s0 s.vinReset := by
  unfold State.vinReset
  refine State.keepSec_k _ _ (State.showFail_k _ ?_)
  refine Keeps.mems (s := s) _ hk rfl (fun _ => rfl) (fun r => mwf_filter _ _ _ r) (fun _ => rfl) id (fun p => by cases p <;> first
      | exact .inl (by assumption) | exact .inr rfl)

theorem State.off_k {F : Part → Prop} {s0 : State} (s : State) (hk : Keeps F s0 s)
    (h_now : F .now := by assumption) (h_fresh : F .fresh := by assumption) (h_rdata : F .rdata := by assumption)
    (h_sent : F .sent := by assumption) (h_evlog : F .evlog := by assumption) (h_regs : F .regs := by assumption)
    (h_live : F .live := by assumption) (h_mem : F .mem := by assumption) (h_beads : F .beads := by assumption)
    (h_side : F .side := by assumption) (h_frames : F .frames := by assumption)
    (h_boards : F .boards := by assumption) (h_dies : F .dies := by assumption) (h_mets : F .mets := by assumption)
    (h_ck : F .ck := by assumption) (h_pw : F .pw := by assumption) (h_th : F .th := by assumption)
    (h_hl : F .hl := by assumption) (h_wk : F .wk := by assumption) (h_fb : F .fb := by assumption)
    (h_ms : F .ms := by assumption) (h_lg : F .lg := by assumption)
    (h_sv : F .sv := by assumption) : Keeps F s0 (State.off s) := by
  unfold State.off
  with_reducible repeat' first | assumption | apply State.setPstate_k | apply State.vinReset_k

theorem State.bootPhase_k {F : Part → Prop} {s0 : State} (s : State) (n : Nat) (hk : Keeps F s0 s)
    (h_regs : F .regs := by assumption) : Keeps F s0 (State.bootPhase s n) := by
  unfold State.bootPhase
  with_reducible repeat' first | assumption | apply State.setBoth_k

theorem State.consume_k {F : Part → Prop} {s0 : State} (s : State) (d n : Nat) (hk : Keeps F s0 s)
    (h_regs : F .regs := by assumption) (h_dies : F .dies := by assumption) : Keeps F s0 (State.consume s d n) := by
  unfold State.consume
  with_reducible repeat' first | assumption | apply State.setRegN_k | apply State.setDie_k

theorem State.consumeFirst_k {F : Part → Prop} {s0 : State} (s : State) (d n : Nat) (hk : Keeps F s0 s)
    (h_regs : F .regs := by assumption)
    (h_dies : F .dies := by assumption) : Keeps F s0 (State.consumeFirst s d n) := by
  unfold State.consumeFirst
  try dsimp only
  with_reducible repeat' first
      | assumption | intro _ | apply Keeps.ite | apply State.setDie_k | apply State.consume_k | split
      | fail_if_no_progress (refine Keeps.upd ?_) | dsimp only

theorem State.draw_k {F : Part → Prop} {s0 : State} (s : State) (d prio need : Nat) (w : Work) (hk : Keeps F s0 s)
    (h_regs : F .regs := by assumption)
    (h_dies : F .dies := by assumption) : Keeps F s0 (State.draw s d prio need w).1 := by
  unfold State.draw
  try dsimp only
  with_reducible repeat' first
      | assumption | intro _ | apply Keeps.ite_fst | apply State.setDie_k | apply State.consume_k | split
      | fail_if_no_progress (refine Keeps.upd ?_) | dsimp only

theorem execFrmCommit_k {F : Part → Prop} {s0 : State} (d : Die) (b : Brd) (f : Frm) (s : State) (hk : Keeps F s0 s)
    (h_evlog : F .evlog := by assumption) (h_regs : F .regs := by assumption) (h_live : F .live := by assumption)
    (h_frames : F .frames := by assumption) : KeepsO F s0 (execFrmCommit d b f s) := by
  unfold execFrmCommit
  try dsimp only
  with_reducible repeat' first
      | assumption | intro _ | apply Keeps.ite | apply KeepsO.ite | apply KeepsO.next | apply State.setFrame_k
      | apply State.applyCommit_k | split | (refine KeepsM.get (by assumption) ?_)
      | fail_if_no_progress (refine Keeps.upd ?_) | dsimp only

theorem execCommitApply_k {F : Part → Prop} {s0 : State} (d : Die) (b : Brd) (f : Frm) (s : State) (hk : Keeps F s0 s)
    (h_evlog : F .evlog := by assumption) (h_regs : F .regs := by assumption) (h_live : F .live := by assumption)
    (h_frames : F .frames := by assumption) : KeepsO F s0 (execCommitApply d b f s) := by
  unfold execCommitApply
  try dsimp only
  with_reducible repeat' first
      | assumption | intro _ | apply Keeps.ite | apply KeepsO.ite | apply KeepsO.next | apply State.applyCommit_k
      | split | fail_if_no_progress (refine Keeps.upd ?_) | dsimp only

theorem State.stopPrg_k {F : Part → Prop} {s0 : State} (s : State) (fk result : Nat) (hk : Keeps F s0 s)
    (h_regs : F .regs := by assumption) (h_frames : F .frames := by assumption)
    (h_dies : F .dies := by assumption) : Keeps F s0 (State.stopPrg s fk result) := by
  unfold State.stopPrg
  try dsimp only
  with_reducible repeat' first
      | assumption | intro _ | apply Keeps.ite | apply State.setReg_k | apply State.setFrame_k
      | apply State.dropDraws_k | split | fail_if_no_progress (refine Keeps.upd ?_) | dsimp only

theorem execFrmCtlIdle_k {F : Part → Prop} {s0 : State} (d : Die) (b : Brd) (f : Frm) (s : State) (hk : Keeps F s0 s)
    (h_frames : F .frames := by assumption) : KeepsO F s0 (execFrmCtlIdle d b f s) := by
  unfold execFrmCtlIdle
  with_reducible repeat' first | assumption | apply KeepsO.next | apply State.setFrame_k | split

theorem execFrmCtlSpare_k {F : Part → Prop} {s0 : State} (d : Die) (b : Brd) (f : Frm) (s : State) (hk : Keeps F s0 s)
    (h_frames : F .frames := by assumption) : KeepsO F s0 (execFrmCtlSpare d b f s) := by
  unfold execFrmCtlSpare
  with_reducible repeat' first | assumption | apply KeepsO.next | apply State.setFrame_k | split

theorem State.toRepair_k {F : Part → Prop} {s0 : State} (s : State) (fk : Nat) (hk : Keeps F s0 s)
    (h_regs : F .regs := by assumption) (h_frames : F .frames := by assumption)
    (h_dies : F .dies := by assumption) : Keeps F s0 (State.toRepair s fk) := by
  unfold State.toRepair
  try dsimp only
  with_reducible repeat' first
      | assumption | intro _ | apply Keeps.ite | apply State.setFrame_k | apply State.dropVisit_k
      | apply State.stopPrg_k | split | fail_if_no_progress (refine Keeps.upd ?_) | dsimp only

theorem execFrmCtlRepair_k {F : Part → Prop} {s0 : State} (d : Die) (b : Brd) (f : Frm) (s : State) (hk : Keeps F s0 s)
    (h_regs : F .regs := by assumption) (h_frames : F .frames := by assumption)
    (h_dies : F .dies := by assumption) : KeepsO F s0 (execFrmCtlRepair d b f s) := by
  unfold execFrmCtlRepair
  try dsimp only
  with_reducible repeat' first
      | assumption | intro _ | apply Keeps.ite | apply KeepsO.ite | apply KeepsO.next | apply State.toRepair_k | split
      | fail_if_no_progress (refine Keeps.upd ?_) | dsimp only

theorem State.retire_k {F : Part → Prop} {s0 : State} (s : State) (fk : Nat) (hk : Keeps F s0 s)
    (h_regs : F .regs := by assumption) (h_frames : F .frames := by assumption) (h_dies : F .dies := by assumption)
    (h_lg : F .lg := by assumption) (h_sv : F .sv := by assumption) : Keeps F s0 (State.retire s fk) := by
  unfold State.retire
  try dsimp only
  with_reducible repeat' first
      | assumption | intro _ | apply Keeps.ite | apply State.setFrame_k | apply State.dropVisit_k
      | apply State.mapSet_k | apply State.stopPrg_k | split | fail_if_no_progress (refine Keeps.upd ?_) | dsimp only

theorem State.throughRepair_k {F : Part → Prop} {s0 : State} (s : State) (fk : Nat) (st : FState) (hk : Keeps F s0 s)
    (h_regs : F .regs := by assumption) (h_frames : F .frames := by assumption)
    (h_dies : F .dies := by assumption) : Keeps F s0 (State.throughRepair s fk st) := by
  unfold State.throughRepair
  try dsimp only
  with_reducible repeat' first
      | assumption | intro _ | apply Keeps.ite | apply State.setFrame_k | apply State.toRepair_k | split
      | fail_if_no_progress (refine Keeps.upd ?_) | dsimp only

theorem execFrmCtlRetire_k {F : Part → Prop} {s0 : State} (d : Die) (b : Brd) (f : Frm) (s : State) (hk : Keeps F s0 s)
    (h_regs : F .regs := by assumption) (h_frames : F .frames := by assumption) (h_dies : F .dies := by assumption)
    (h_lg : F .lg := by assumption) (h_sv : F .sv := by assumption) : KeepsO F s0 (execFrmCtlRetire d b f s) := by
  unfold execFrmCtlRetire
  with_reducible repeat' first | assumption | apply KeepsO.next | apply State.retire_k

theorem execFrmCtlClearFault_k {F : Part → Prop} {s0 : State} (d : Die) (b : Brd) (f : Frm) (s : State) (hk : Keeps F s0 s)
    (h_frames : F .frames := by assumption) : KeepsO F s0 (execFrmCtlClearFault d b f s) := by
  unfold execFrmCtlClearFault
  with_reducible repeat' first | assumption | apply KeepsO.next | apply State.setFrame_k

theorem execCalRegisterWrite_k {F : Part → Prop} {s0 : State} (d : Die) (b : Brd) (f : Frm) (k : Fin 280) (w : Word) (s : State) (hk : Keeps F s0 s)
    (h_regs : F .regs := by assumption) : KeepsO F s0 (execCalRegisterWrite d b f k w s) := by
  unfold execCalRegisterWrite
  try dsimp only
  with_reducible repeat' first
      | assumption | intro _ | apply Keeps.ite | apply KeepsO.ite | apply KeepsO.next | apply State.setReg_k
      | apply State.bump_k | split | fail_if_no_progress (refine Keeps.upd ?_) | dsimp only

theorem State.setHeader_k {F : Part → Prop} {s0 : State} (s : State) (fk p : Nat) (h : Header) (hk : Keeps F s0 s)
    (h_frames : F .frames := by assumption) : Keeps F s0 (State.setHeader s fk p h) := by
  unfold State.setHeader
  with_reducible repeat' first | assumption | apply State.setFrame_k

theorem State.startPlane_k {F : Part → Prop} {s0 : State} (s : State) (fk plane fmt : Nat) (load refresh : Bool) (hk : Keeps F s0 s)
    (h_regs : F .regs := by assumption) (h_frames : F .frames := by assumption)
    (h_dies : F .dies := by assumption) : Keeps F s0 (State.startPlane s fk plane fmt load refresh).1 := by
  unfold State.startPlane
  try dsimp only
  with_reducible repeat' first
      | assumption | intro _ | apply Keeps.ite_fst | apply State.setRegN_k | apply State.setFrame_k
      | apply State.dropVisit_k | apply State.setHeader_k | apply KeepsM.foldl | apply Keeps.foldl
      | apply Keeps.foldl_fst | split | (refine Keeps.of_fst (by assumption) ?_)
      | (refine KeepsM.get (by assumption) ?_) | fail_if_no_progress (refine Keeps.upd ?_) | dsimp only

theorem State.startResult_k {F : Part → Prop} {s0 : State} (s : State) (fk plane fmt : Nat) (load refresh : Bool) (hk : Keeps F s0 s)
    (h_regs : F .regs := by assumption) (h_frames : F .frames := by assumption)
    (h_dies : F .dies := by assumption) : Keeps F s0 (State.startResult s fk plane fmt load refresh) := by
  unfold State.startResult
  try dsimp only
  with_reducible repeat' first
      | assumption | intro _ | apply Keeps.ite | apply State.setReg_k | apply State.startPlane_k | split
      | (refine Keeps.of_fst (by assumption) ?_) | fail_if_no_progress (refine Keeps.upd ?_) | dsimp only

theorem State.loaderStart_k {F : Part → Prop} {s0 : State} (s : State) (fk plane fmt : Nat) (load refresh : Bool) (hk : Keeps F s0 s)
    (h_regs : F .regs := by assumption) (h_frames : F .frames := by assumption)
    (h_dies : F .dies := by assumption) : Keeps F s0 (State.loaderStart s fk plane fmt load refresh) := by
  unfold State.loaderStart
  try dsimp only
  with_reducible repeat' first
      | assumption | intro _ | apply Keeps.ite | apply State.setReg_k | apply State.startResult_k | split
      | fail_if_no_progress (refine Keeps.upd ?_) | dsimp only

theorem execFrmPrgStart_k {F : Part → Prop} {s0 : State} (d : Die) (b : Brd) (f : Frm) (s : State) (hk : Keeps F s0 s)
    (h_regs : F .regs := by assumption) (h_frames : F .frames := by assumption)
    (h_dies : F .dies := by assumption) : KeepsO F s0 (execFrmPrgStart d b f s) := by
  unfold execFrmPrgStart
  try dsimp only
  with_reducible repeat' first
      | assumption | intro _ | apply Keeps.ite | apply KeepsO.ite | apply KeepsO.next | apply State.startResult_k
      | split | fail_if_no_progress (refine Keeps.upd ?_) | dsimp only

theorem State.releaseScore_k {F : Part → Prop} {s0 : State} (s : State) (slot : Nat) (hk : Keeps F s0 s)
    (h_regs : F .regs := by assumption) (h_frames : F .frames := by assumption)
    (h_boards : F .boards := by assumption) (h_dies : F .dies := by assumption) (h_wk : F .wk := by assumption)
    (h_fb : F .fb := by assumption) (h_sv : F .sv := by assumption) : Keeps F s0 (State.releaseScore s slot) := by
  unfold State.releaseScore
  try dsimp only
  with_reducible repeat' first
      | assumption | intro _ | apply Keeps.ite | apply State.setFrame_k | apply State.setBoard_k
      | apply State.setScore_k | apply State.stopPrg_k | apply State.throughRepair_k | apply KeepsM.getD
      | apply KeepsM.foldl | apply KeepsM.bind | apply Keeps.foldl | apply Keeps.foldl_fst | split
      | (refine Keeps.of_fst (by assumption) ?_) | (refine KeepsM.get (by assumption) ?_)
      | (refine KeepsE.get (by assumption) ?_) | fail_if_no_progress (refine Keeps.upd ?_) | dsimp only

theorem State.moduleSpan_k {F : Part → Prop} {s0 : State} (s : State) (a : Nat) (bs : List Byte) (hk : Keeps F s0 s)
    (h_lg : F .lg := by assumption) : Keeps F s0 (State.moduleSpan s a bs) := by
  unfold State.moduleSpan
  try dsimp only
  with_reducible repeat' first
      | assumption | intro _ | apply Keeps.ite | apply State.take_k | apply State.moduleWrite_k | apply KeepsM.getD
      | apply KeepsM.foldl | apply KeepsM.bind | apply Keeps.foldl | apply Keeps.foldl_fst | split
      | (refine Keeps.of_fst (by assumption) ?_) | (refine KeepsM.get (by assumption) ?_)
      | (refine KeepsE.get (by assumption) ?_) | fail_if_no_progress (refine Keeps.upd ?_) | dsimp only

theorem State.saveRecord_k {F : Part → Prop} {s0 : State} (s : State) (slot : Nat) (hk : Keeps F s0 s)
    (h_lg : F .lg := by assumption) : Keeps F s0 (State.saveRecord s slot) := by
  unfold State.saveRecord
  try dsimp only
  with_reducible repeat' first
      | assumption | intro _ | apply Keeps.ite | apply State.moduleSpan_k | apply KeepsM.getD | apply KeepsM.foldl
      | apply KeepsM.bind | apply Keeps.foldl | apply Keeps.foldl_fst | split
      | (refine Keeps.of_fst (by assumption) ?_) | (refine KeepsM.get (by assumption) ?_)
      | (refine KeepsE.get (by assumption) ?_) | fail_if_no_progress (refine Keeps.upd ?_) | dsimp only

theorem State.loadFailed_k {F : Part → Prop} {s0 : State} (s : State) (slot code detail : Nat) (hk : Keeps F s0 s)
    (h_sent : F .sent := by assumption) (h_evlog : F .evlog := by assumption) (h_regs : F .regs := by assumption)
    (h_frames : F .frames := by assumption) (h_boards : F .boards := by assumption)
    (h_dies : F .dies := by assumption) (h_hl : F .hl := by assumption) (h_wk : F .wk := by assumption)
    (h_fb : F .fb := by assumption) (h_lg : F .lg := by assumption)
    (h_sv : F .sv := by assumption) : Keeps F s0 (State.loadFailed s slot code detail) := by
  unfold State.loadFailed
  try dsimp only
  with_reducible repeat' first
      | assumption | apply State.event_k | apply State.finish_k | apply State.unpend_k | apply State.releaseScore_k
      | apply State.saveRecord_k | split

theorem execFrmPrgFeed_k {F : Part → Prop} {s0 : State} (d : Die) (b : Brd) (f : Frm) (w : Word) (s : State) (hk : Keeps F s0 s)
    (h_frames : F .frames := by assumption) : KeepsO F s0 (execFrmPrgFeed d b f w s) := by
  unfold execFrmPrgFeed
  try dsimp only
  with_reducible repeat' first
      | assumption | intro _ | apply Keeps.ite | apply KeepsO.ite | apply KeepsO.next | apply State.setFrame_k | split
      | (refine Keeps.of_fst (by assumption) ?_) | (refine KeepsM.get (by assumption) ?_)
      | fail_if_no_progress (refine Keeps.upd ?_) | dsimp only

theorem State.scoreWrite_k {F : Part → Prop} {s0 : State} (s : State) (bk o : Nat) (w : Word) (hk : Keeps F s0 s)
    (h_regs : F .regs := by assumption)
    (h_live : F .live := by assumption) : Keeps F s0 (State.scoreWrite s bk o w) := by
  unfold State.scoreWrite
  with_reducible repeat' first
      | assumption | apply State.setReg_k | apply State.setLive_k | apply State.setAct_k | split

theorem State.writeFsw_k {F : Part → Prop} {s0 : State} (s : State) (slot bk : Nat) (hk : Keeps F s0 s)
    (h_regs : F .regs := by assumption)
    (h_live : F .live := by assumption) : Keeps F s0 (State.writeFsw s slot bk) := by
  unfold State.writeFsw
  with_reducible repeat' first | assumption | intro _ | apply State.scoreWrite_k | apply Keeps.foldl

theorem State.moveFrame_k {F : Part → Prop} {s0 : State} (s : State) (slot fk dst : Nat) (seq : Nat) (hk : Keeps F s0 s)
    (h_frames : F .frames := by assumption)
    (h_wk : F .wk := by assumption) : Keeps F s0 (State.moveFrame s slot fk dst seq) := by
  unfold State.moveFrame
  try dsimp only
  with_reducible repeat' first
      | assumption | intro _ | apply Keeps.ite | apply State.setFrame_k | apply State.setScore_k | split
      | (refine Keeps.of_fst (by assumption) ?_) | (refine KeepsM.get (by assumption) ?_)
      | fail_if_no_progress (refine Keeps.upd ?_) | dsimp only

theorem State.nextPlane_k {F : Part → Prop} {s0 : State} (s : State) (slot fk : Nat) (hk : Keeps F s0 s)
    (h_regs : F .regs := by assumption) (h_frames : F .frames := by assumption)
    (h_dies : F .dies := by assumption) : Keeps F s0 (State.nextPlane s slot fk) := by
  unfold State.nextPlane
  try dsimp only
  with_reducible repeat' first
      | assumption | intro _ | apply Keeps.ite | apply State.loaderStart_k | split
      | (refine Keeps.of_fst (by assumption) ?_) | (refine KeepsM.get (by assumption) ?_)
      | fail_if_no_progress (refine Keeps.upd ?_) | dsimp only

theorem State.repairPlane_k {F : Part → Prop} {s0 : State} (s : State) (r : Repair) (hk : Keeps F s0 s)
    (h_regs : F .regs := by assumption) (h_frames : F .frames := by assumption)
    (h_dies : F .dies := by assumption) : Keeps F s0 (State.repairPlane s r) := by
  unfold State.repairPlane
  try dsimp only
  with_reducible repeat' first
      | assumption | intro _ | apply Keeps.ite | apply State.loaderStart_k | apply KeepsM.getD | split
      | (refine Keeps.of_fst (by assumption) ?_) | (refine KeepsM.get (by assumption) ?_)
      | fail_if_no_progress (refine Keeps.upd ?_) | dsimp only

theorem State.startRepair_k {F : Part → Prop} {s0 : State} (s : State) (fk : Nat) (skip : List Nat) (hk : Keeps F s0 s)
    (h_sent : F .sent := by assumption) (h_evlog : F .evlog := by assumption) (h_regs : F .regs := by assumption)
    (h_frames : F .frames := by assumption) (h_dies : F .dies := by assumption) (h_hl : F .hl := by assumption)
    (h_sv : F .sv := by assumption) : Keeps F s0 (State.startRepair s fk skip).1 := by
  unfold State.startRepair
  try dsimp only
  with_reducible repeat' first
      | assumption | intro _ | apply Keeps.ite_fst | apply State.setFrame_k | apply State.event_k
      | apply State.repairPlane_k | split | (refine Keeps.of_fst (by assumption) ?_)
      | (refine KeepsM.get (by assumption) ?_) | fail_if_no_progress (refine Keeps.upd ?_) | dsimp only

theorem State.boardPlanes_k {F : Part → Prop} {s0 : State} (s : State) (r : Repair) (hk : Keeps F s0 s)
    (h_regs : F .regs := by assumption) (h_frames : F .frames := by assumption)
    (h_dies : F .dies := by assumption) : Keeps F s0 (State.boardPlanes s r) := by
  unfold State.boardPlanes
  try dsimp only
  with_reducible repeat' first
      | assumption | intro _ | apply Keeps.ite | apply State.repairPlane_k | apply KeepsM.getD | apply KeepsM.foldl
      | apply KeepsM.bind | apply Keeps.foldl | apply Keeps.foldl_fst | split
      | (refine Keeps.of_fst (by assumption) ?_) | (refine KeepsM.get (by assumption) ?_)
      | (refine KeepsE.get (by assumption) ?_) | fail_if_no_progress (refine Keeps.upd ?_) | dsimp only

theorem execPrgGrant_k {F : Part → Prop} {s0 : State} (d : Die) (b : Brd) (f : Frm) (s : State) (hk : Keeps F s0 s)
    (h_regs : F .regs := by assumption) (h_frames : F .frames := by assumption)
    (h_dies : F .dies := by assumption) : KeepsO F s0 (execPrgGrant d b f s) := by
  unfold execPrgGrant
  try dsimp only
  with_reducible repeat' first
      | assumption | intro _ | apply Keeps.ite | apply KeepsO.ite | apply KeepsO.next | apply State.setFrame_k
      | apply State.nextPlane_k | apply State.repairPlane_k | apply State.boardPlanes_k | apply KeepsM.getD
      | apply KeepsM.foldl | apply KeepsM.bind | apply Keeps.foldl | apply Keeps.foldl_fst | split
      | (refine Keeps.of_fst (by assumption) ?_) | (refine KeepsM.get (by assumption) ?_)
      | (refine KeepsE.get (by assumption) ?_) | fail_if_no_progress (refine Keeps.upd ?_) | dsimp only

theorem State.putRepair_k {F : Part → Prop} {s0 : State} (s : State) (r r' : Repair) (hk : Keeps F s0 s)
    (h_sv : F .sv := by assumption) : Keeps F s0 (State.putRepair s r r') := by
  unfold State.putRepair
  with_reducible repeat' first | assumption | fail_if_no_progress (refine Keeps.upd ?_)

theorem State.repairFailed_k {F : Part → Prop} {s0 : State} (s : State) (fk : Nat) (hk : Keeps F s0 s)
    (h_sent : F .sent := by assumption) (h_evlog : F .evlog := by assumption) (h_regs : F .regs := by assumption)
    (h_live : F .live := by assumption) (h_frames : F .frames := by assumption) (h_dies : F .dies := by assumption)
    (h_hl : F .hl := by assumption) (h_wk : F .wk := by assumption)
    (h_sv : F .sv := by assumption) : Keeps F s0 (State.repairFailed s fk) := by
  unfold State.repairFailed
  try dsimp only
  with_reducible repeat' first
      | assumption | apply State.setFrame_k | apply State.event_k | apply State.writeFsw_k | apply State.moveFrame_k
      | apply State.repairPlane_k | apply State.startRepair_k | apply State.putRepair_k | split
      | fail_if_no_progress (refine Keeps.upd ?_)

theorem State.stuckLimit_k {F : Part → Prop} {s0 : State} (s : State) (fk : Nat) (hk : Keeps F s0 s)
    (h_sent : F .sent := by assumption) (h_evlog : F .evlog := by assumption) (h_regs : F .regs := by assumption)
    (h_live : F .live := by assumption) (h_frames : F .frames := by assumption)
    (h_boards : F .boards := by assumption) (h_dies : F .dies := by assumption) (h_hl : F .hl := by assumption)
    (h_wk : F .wk := by assumption) (h_fb : F .fb := by assumption) (h_lg : F .lg := by assumption)
    (h_sv : F .sv := by assumption) : Keeps F s0 (State.stuckLimit s fk) := by
  unfold State.stuckLimit
  try dsimp only
  with_reducible repeat' first
      | assumption | apply State.setScore_k | apply State.stopPrg_k | apply State.retire_k | apply State.loadFailed_k
      | apply State.moveFrame_k | apply State.nextPlane_k | apply State.repairFailed_k | split

theorem execFrmPrgAbort_k {F : Part → Prop} {s0 : State} (d : Die) (b : Brd) (f : Frm) (s : State) (hk : Keeps F s0 s)
    (h_sent : F .sent := by assumption) (h_evlog : F .evlog := by assumption) (h_regs : F .regs := by assumption)
    (h_live : F .live := by assumption) (h_frames : F .frames := by assumption)
    (h_boards : F .boards := by assumption) (h_dies : F .dies := by assumption) (h_hl : F .hl := by assumption)
    (h_wk : F .wk := by assumption) (h_fb : F .fb := by assumption) (h_lg : F .lg := by assumption)
    (h_sv : F .sv := by assumption) : KeepsO F s0 (execFrmPrgAbort d b f s) := by
  unfold execFrmPrgAbort
  try dsimp only
  with_reducible repeat' first
      | assumption | intro _ | apply Keeps.ite | apply KeepsO.ite | apply KeepsO.next | apply State.setFrame_k
      | apply State.stopPrg_k | apply State.loadFailed_k | apply State.repairFailed_k | split
      | (refine Keeps.of_fst (by assumption) ?_) | (refine KeepsM.get (by assumption) ?_)
      | fail_if_no_progress (refine Keeps.upd ?_) | dsimp only

theorem State.endRow_k {F : Part → Prop} {s0 : State} (s : State) (fk : Nat) (p : Prg) (x : RowSrc) (ro : RowOut) (hk : Keeps F s0 s)
    (h_sent : F .sent := by assumption) (h_evlog : F .evlog := by assumption) (h_regs : F .regs := by assumption)
    (h_live : F .live := by assumption) (h_beads : F .beads := by assumption) (h_side : F .side := by assumption)
    (h_frames : F .frames := by assumption) (h_boards : F .boards := by assumption)
    (h_dies : F .dies := by assumption) (h_hl : F .hl := by assumption) (h_wk : F .wk := by assumption)
    (h_fb : F .fb := by assumption) (h_lg : F .lg := by assumption)
    (h_sv : F .sv := by assumption) : Keeps F s0 (State.endRow s fk p x ro) := by
  unfold State.endRow
  try dsimp only
  with_reducible repeat' first
      | assumption | intro _ | apply Keeps.ite | apply State.setRegN_k | apply State.bump_k | apply State.setFrame_k
      | apply State.setBead_k | apply State.setSide_k | apply State.stuckLimit_k | apply KeepsM.getD
      | apply KeepsM.foldl | apply Keeps.foldl | apply Keeps.foldl_fst | split
      | (refine Keeps.of_fst (by assumption) ?_) | (refine KeepsM.get (by assumption) ?_)
      | fail_if_no_progress (refine Keeps.upd ?_) | dsimp only

theorem execPrgRow_k {F : Part → Prop} {s0 : State} (d : Die) (b : Brd) (f : Frm) (s : State) (hk : Keeps F s0 s)
    (h_fresh : F .fresh := by assumption) (h_sent : F .sent := by assumption) (h_evlog : F .evlog := by assumption)
    (h_regs : F .regs := by assumption) (h_live : F .live := by assumption) (h_beads : F .beads := by assumption)
    (h_side : F .side := by assumption) (h_frames : F .frames := by assumption)
    (h_boards : F .boards := by assumption) (h_dies : F .dies := by assumption) (h_hl : F .hl := by assumption)
    (h_wk : F .wk := by assumption) (h_fb : F .fb := by assumption) (h_lg : F .lg := by assumption)
    (h_sv : F .sv := by assumption) : KeepsO F s0 (execPrgRow d b f s) := by
  unfold execPrgRow
  try dsimp only
  with_reducible repeat' first
      | assumption | intro _ | apply Keeps.ite | apply KeepsO.ite | apply KeepsO.next | apply State.setFrame_k
      | apply State.draw_k | apply State.endRow_k | apply KeepsM.getD | split
      | (refine Keeps.of_fst (by assumption) ?_) | (refine KeepsM.get (by assumption) ?_)
      | fail_if_no_progress (refine Keeps.upd ?_) | dsimp only

theorem execPrgThermalResume_k {F : Part → Prop} {s0 : State} (d : Die) (s : State) (hk : Keeps F s0 s)
    (h_frames : F .frames := by assumption) : KeepsO F s0 (execPrgThermalResume d s) := by
  unfold execPrgThermalResume
  with_reducible repeat' first
      | assumption | intro _ | apply KeepsO.next | apply State.setFrame_k | apply Keeps.foldl | split

end Sys2Proof.Machine
end

