-- ==== Sys2Proof/Laws/Keeps2.lean ====
section
/-! SUPPORT. Every operation and meaning of Operands, Routes, Packets, Flags, Strokes, Sequencer, Tally, Vector, Fabric:
it leaves the queue alone, keeps the maps canonical, and changes only the parts its lemma names. -/

set_option Elab.async false

namespace Sys2Proof.Machine

theorem State.writeAct_k {F : Part → Prop} {s0 : State} (s : State) (bk o : Nat) (w : Word) (hk : Keeps F s0 s)
    (h_regs : F .regs := by assumption)
    (h_boards : F .boards := by assumption) : Keeps F s0 (State.writeAct s bk o w) := by
  unfold State.writeAct
  try dsimp only
  with_reducible repeat' first
      | assumption | intro _ | apply Keeps.ite | apply State.setBoard_k | apply State.setAct_k | split
      | fail_if_no_progress (refine Keeps.upd ?_) | dsimp only

theorem State.settleAct_k {F : Part → Prop} {s0 : State} (s : State) (bk : Nat) (hk : Keeps F s0 s)
    (h_regs : F .regs := by assumption)
    (h_boards : F .boards := by assumption) : Keeps F s0 (State.settleAct s bk) := by
  unfold State.settleAct
  try dsimp only
  with_reducible repeat' first
      | assumption | intro _ | apply Keeps.ite | apply State.setBoard_k | apply State.setAct_k | apply KeepsM.foldl
      | apply Keeps.foldl | apply Keeps.foldl_fst | split | (refine Keeps.of_fst (by assumption) ?_)
      | fail_if_no_progress (refine Keeps.upd ?_) | dsimp only

theorem State.jobFault_k {F : Part → Prop} {s0 : State} (s : State) (j status : Nat) (hk : Keeps F s0 s)
    (h_wk : F .wk := by assumption) : Keeps F s0 (State.jobFault s j status) := by
  unfold State.jobFault
  with_reducible repeat' first | assumption | apply State.modJob_k

theorem State.boardFault_k {F : Part → Prop} {s0 : State} (s : State) (bk code pc job : Nat) (hk : Keeps F s0 s)
    (h_evlog : F .evlog := by assumption) (h_boards : F .boards := by assumption)
    (h_wk : F .wk := by assumption) : Keeps F s0 (State.boardFault s bk code pc job) := by
  unfold State.boardFault
  with_reducible repeat' first | assumption | apply State.setBoard_k | apply State.log_k | apply State.jobFault_k

theorem State.eccFault_k {F : Part → Prop} {s0 : State} (s : State) (bk : Nat) (e : SbEntry) (ecc : Bool) (hk : Keeps F s0 s)
    (h_evlog : F .evlog := by assumption) (h_boards : F .boards := by assumption)
    (h_wk : F .wk := by assumption) : KeepsM F s0 (State.eccFault s bk e ecc) := by
  unfold State.eccFault
  with_reducible repeat' first | assumption | apply KeepsM.none | apply KeepsM.some | apply State.boardFault_k | split

theorem State.addCounts_k {F : Part → Prop} {s0 : State} (s : State) (j : Nat) (c : Counts) (hk : Keeps F s0 s)
    (h_wk : F .wk := by assumption) : Keeps F s0 (State.addCounts s j c) := by
  unfold State.addCounts
  with_reducible repeat' first | assumption | apply State.modJob_k

theorem State.setEntry_k {F : Part → Prop} {s0 : State} (s : State) (bk : Nat) (e : SbEntry) (hk : Keeps F s0 s)
    (h_boards : F .boards := by assumption) : Keeps F s0 (State.setEntry s bk e) := by
  unfold State.setEntry
  try dsimp only
  with_reducible repeat' first
      | assumption | intro _ | apply Keeps.ite | apply State.setBoard_k | apply KeepsM.getD | apply KeepsM.foldl
      | apply KeepsM.bind | apply Keeps.foldl | apply Keeps.foldl_fst | split
      | (refine Keeps.of_fst (by assumption) ?_) | (refine KeepsM.get (by assumption) ?_)
      | (refine KeepsE.get (by assumption) ?_) | fail_if_no_progress (refine Keeps.upd ?_) | dsimp only

theorem State.setLinkState_k {F : Part → Prop} {s0 : State} (s : State) (k n : Nat) (hk : Keeps F s0 s)
    (h_regs : F .regs := by assumption) : Keeps F s0 (State.setLinkState s k n) := by
  unfold State.setLinkState
  with_reducible repeat' first | assumption | apply State.setReg_k

theorem State.putLink_k {F : Part → Prop} {s0 : State} (s : State) (k : Nat) (x : Link) (hk : Keeps F s0 s)
    (h_regs : F .regs := by assumption) (h_fb : F .fb := by assumption) : Keeps F s0 (State.putLink s k x) := by
  unfold State.putLink
  with_reducible repeat' first | assumption | apply State.setReg_k | apply State.setLink_k

theorem State.linkPush_k {F : Part → Prop} {s0 : State} (s : State) (k : Nat) (p : Pkt) (hk : Keeps F s0 s)
    (h_regs : F .regs := by assumption) (h_fb : F .fb := by assumption) : Keeps F s0 (State.linkPush s k p) := by
  unfold State.linkPush
  try dsimp only
  with_reducible repeat' first
      | assumption | intro _ | apply Keeps.ite | apply State.bump_k | apply State.setLinkState_k
      | apply State.putLink_k | apply KeepsM.getD | apply KeepsM.foldl | apply KeepsM.bind | apply Keeps.foldl
      | apply Keeps.foldl_fst | split | (refine Keeps.of_fst (by assumption) ?_)
      | (refine KeepsM.get (by assumption) ?_) | (refine KeepsE.get (by assumption) ?_)
      | fail_if_no_progress (refine Keeps.upd ?_) | dsimp only

theorem State.cross_k {F : Part → Prop} {s0 : State} (p : Pkt) (ks : List Nat) (s : State) (hk : Keeps F s0 s)
    (h_regs : F .regs := by assumption) (h_fb : F .fb := by assumption) : Keeps F s0 (State.cross p ks s) := by
  induction ks generalizing s with
  | nil => exact Keeps.upd hk
  | cons k r ih =>
    unfold State.cross
    with_reducible repeat' first | assumption | apply ih | apply State.linkPush_k | apply State.setLink_k | split

theorem State.overLinks_k {F : Part → Prop} {s0 : State} (s : State) (p : Pkt) (hk : Keeps F s0 s)
    (h_regs : F .regs := by assumption) (h_fb : F .fb := by assumption) : Keeps F s0 (State.overLinks s p) := by
  unfold State.overLinks
  try dsimp only
  with_reducible repeat' first
      | assumption | apply State.cross_k | intro _ | apply Keeps.ite | apply KeepsM.getD | apply KeepsM.foldl
      | apply KeepsM.bind | apply Keeps.foldl | apply Keeps.foldl_fst | split
      | (refine Keeps.of_fst (by assumption) ?_) | (refine KeepsM.get (by assumption) ?_)
      | (refine KeepsE.get (by assumption) ?_) | fail_if_no_progress (refine Keeps.upd ?_) | dsimp only

theorem State.onFrom_k {F : Part → Prop} {s0 : State} (s : State) (k : Nat) (p : Pkt) (hk : Keeps F s0 s)
    (h_regs : F .regs := by assumption) (h_fb : F .fb := by assumption) : Keeps F s0 (State.onFrom s k p) := by
  unfold State.onFrom
  try dsimp only
  with_reducible repeat' first
      | assumption | apply State.cross_k | intro _ | apply Keeps.ite | apply KeepsM.getD | apply KeepsM.foldl
      | apply KeepsM.bind | apply Keeps.foldl | apply Keeps.foldl_fst | split
      | (refine Keeps.of_fst (by assumption) ?_) | (refine KeepsM.get (by assumption) ?_)
      | (refine KeepsE.get (by assumption) ?_) | fail_if_no_progress (refine Keeps.upd ?_) | dsimp only

theorem State.launch_k {F : Part → Prop} {s0 : State} (s : State) (p : Pkt) (hk : Keeps F s0 s)
    (h_regs : F .regs := by assumption) (h_fb : F .fb := by assumption) : Keeps F s0 (State.launch s p) := by
  unfold State.launch
  try dsimp only
  with_reducible repeat' first
      | assumption | intro _ | apply Keeps.ite | apply State.overLinks_k | apply KeepsM.getD | apply KeepsM.foldl
      | apply KeepsM.bind | apply Keeps.foldl | apply Keeps.foldl_fst | split
      | (refine Keeps.of_fst (by assumption) ?_) | (refine KeepsM.get (by assumption) ?_)
      | (refine KeepsE.get (by assumption) ?_) | fail_if_no_progress (refine Keeps.upd ?_) | dsimp only

theorem State.reinject_k {F : Part → Prop} {s0 : State} (n k : Nat) (s : State) (hk : Keeps F s0 s)
    (h_regs : F .regs := by assumption) (h_fb : F .fb := by assumption) : Keeps F s0 (State.reinject n k s) := by
  induction n generalizing s with
  | zero => exact hk
  | succ n ih =>
    unfold State.reinject
    with_reducible repeat' first
        | assumption | apply ih | apply State.bump_k | apply State.putLink_k | apply State.setLink_k | split

theorem State.release_k {F : Part → Prop} {s0 : State} (s : State) (k : Nat) (hk : Keeps F s0 s)
    (h_regs : F .regs := by assumption) (h_fb : F .fb := by assumption) : Keeps F s0 (State.release s k) := by
  unfold State.release
  exact Keeps.foldl (fun t x h => State.onFrom_k _ _ _ h) (State.setLink_k _ _ (State.reinject_k _ _ _ hk))

theorem State.flow_k {F : Part → Prop} {s0 : State} (s : State) (hk : Keeps F s0 s)
    (h_regs : F .regs := by assumption) (h_fb : F .fb := by assumption) : Keeps F s0 (State.flow s) := by
  unfold State.flow
  try dsimp only
  with_reducible repeat' first
      | assumption | intro _ | apply Keeps.ite | apply State.launch_k | apply KeepsM.getD | apply KeepsM.foldl
      | apply KeepsM.bind | apply Keeps.foldl | apply Keeps.foldl_fst | split
      | (refine Keeps.of_fst (by assumption) ?_) | (refine KeepsM.get (by assumption) ?_)
      | (refine KeepsE.get (by assumption) ?_) | fail_if_no_progress (refine Keeps.upd ?_) | dsimp only

theorem State.sendPkt_k {F : Part → Prop} {s0 : State} (s : State) (p : Pkt) (hk : Keeps F s0 s)
    (h_regs : F .regs := by assumption) (h_wk : F .wk := by assumption)
    (h_fb : F .fb := by assumption) : Keeps F s0 (State.sendPkt s p) := by
  unfold State.sendPkt
  try dsimp only
  with_reducible repeat' first
      | assumption | intro _ | apply Keeps.ite | apply State.bump_k | apply State.jobFault_k | apply State.launch_k
      | split | fail_if_no_progress (refine Keeps.upd ?_) | dsimp only

theorem State.arrive_k {F : Part → Prop} {s0 : State} (s : State) (p : Pkt) (hk : Keeps F s0 s)
    (h_regs : F .regs := by assumption) (h_fb : F .fb := by assumption) : Keeps F s0 (State.arrive s p) := by
  unfold State.arrive
  try dsimp only
  with_reducible repeat' first
      | assumption | intro _ | apply Keeps.ite | apply State.bump_k | apply State.flow_k | apply KeepsM.getD
      | apply KeepsM.foldl | apply KeepsM.bind | apply Keeps.foldl | apply Keeps.foldl_fst | split
      | (refine Keeps.of_fst (by assumption) ?_) | (refine KeepsM.get (by assumption) ?_)
      | (refine KeepsE.get (by assumption) ?_) | fail_if_no_progress (refine Keeps.upd ?_) | dsimp only

theorem State.putRec_k {F : Part → Prop} {s0 : State} (s : State) (bk lsrc en sp : Nat) (drop : Bool) (hk : Keeps F s0 s)
    (h_regs : F .regs := by assumption) : KeepsM F s0 (State.putRec s bk lsrc en sp drop) := by
  unfold State.putRec
  try dsimp only
  with_reducible repeat' first | assumption | apply KeepsM.none | apply KeepsM.some | apply State.setRegN_k | split

theorem State.dropRecAt_k {F : Part → Prop} {s0 : State} (s : State) (bk lsrc : Nat) (hk : Keeps F s0 s)
    (h_regs : F .regs := by assumption) : Keeps F s0 (State.dropRecAt s bk lsrc) := by
  unfold State.dropRecAt
  with_reducible repeat' first | assumption | apply State.setReg_k | split

theorem State.sendAct_k {F : Part → Prop} {s0 : State} (s : State) (bk : Nat) (c : StepCtx) (q mset byte : Nat) (bs : List Byte) (hk : Keeps F s0 s)
    (h_regs : F .regs := by assumption) (h_wk : F .wk := by assumption)
    (h_fb : F .fb := by assumption) : Keeps F s0 (State.sendAct s bk c q mset byte bs) := by
  unfold State.sendAct
  try dsimp only
  with_reducible repeat' first
      | assumption | intro _ | apply Keeps.ite | apply State.sendPkt_k | apply KeepsM.foldl | apply Keeps.foldl
      | apply Keeps.foldl_fst | split | (refine KeepsM.get (by assumption) ?_)
      | fail_if_no_progress (refine Keeps.upd ?_) | dsimp only

theorem State.ackPacket_k {F : Part → Prop} {s0 : State} (s : State) (p : Pkt) (hk : Keeps F s0 s)
    (h_regs : F .regs := by assumption) (h_wk : F .wk := by assumption)
    (h_fb : F .fb := by assumption) : Keeps F s0 (State.ackPacket s p) := by
  unfold State.ackPacket
  try dsimp only
  with_reducible repeat' first
      | assumption | intro _ | apply Keeps.ite | apply State.sendPkt_k | apply KeepsM.getD | apply KeepsM.foldl
      | apply KeepsM.bind | apply Keeps.foldl | apply Keeps.foldl_fst | split
      | (refine Keeps.of_fst (by assumption) ?_) | (refine KeepsM.get (by assumption) ?_)
      | (refine KeepsE.get (by assumption) ?_) | fail_if_no_progress (refine Keeps.upd ?_) | dsimp only

theorem State.memWrite_k {F : Part → Prop} {s0 : State} (s : State) (a : Nat) (bs : List Byte) (hk : Keeps F s0 s)
    (h_mem : F .mem := by assumption) (h_ms : F .ms := by assumption) : Keeps F s0 (State.memWrite s a bs) := by
  unfold State.memWrite
  with_reducible repeat' first
      | assumption | intro _ | apply Keeps.ite | apply State.store_k | apply Keeps.foldl
      | fail_if_no_progress (refine Keeps.upd ?_)

theorem State.tallyAdd_k {F : Part → Prop} {s0 : State} (s : State) (bk slot : Nat) (vs : List (Option Int × Int)) (pc job : Nat) (hk : Keeps F s0 s)
    (h_evlog : F .evlog := by assumption) (h_regs : F .regs := by assumption) (h_boards : F .boards := by assumption)
    (h_wk : F .wk := by assumption) : Keeps F s0 (State.tallyAdd s bk slot vs pc job) := by
  unfold State.tallyAdd
  try dsimp only
  with_reducible repeat' first
      | assumption | intro _ | apply Keeps.ite | apply State.setRegN_k | apply State.bump_k | apply State.setBoard_k
      | apply State.boardFault_k | apply KeepsM.foldl | apply Keeps.foldl | apply Keeps.foldl_fst | split
      | (refine Keeps.of_fst (by assumption) ?_) | fail_if_no_progress (refine Keeps.upd ?_) | dsimp only

theorem State.setSclOut_k {F : Part → Prop} {s0 : State} (s : State) (bk j : Nat) (e : Int) (hk : Keeps F s0 s)
    (h_regs : F .regs := by assumption)
    (h_live : F .live := by assumption) : Keeps F s0 (State.setSclOut s bk j e) := by
  unfold State.setSclOut
  with_reducible repeat' first | assumption | apply State.setReg_k | apply State.setLive_k

theorem State.putStrm_k {F : Part → Prop} {s0 : State} (s : State) (bk : Nat) (x : StreamStep) (hk : Keeps F s0 s)
    (h_boards : F .boards := by assumption) : Keeps F s0 (State.putStrm s bk x) := by
  unfold State.putStrm
  with_reducible repeat' first | assumption | apply State.setBoard_k

theorem State.openStream_k {F : Part → Prop} {s0 : State} (s : State) (bk n : Nat) (c : StepCtx) (hk : Keeps F s0 s)
    (h_boards : F .boards := by assumption) : Keeps F s0 (State.openStream s bk n c) := by
  unfold State.openStream
  try dsimp only
  with_reducible repeat' first
      | assumption | intro _ | apply Keeps.ite | apply State.putStrm_k | apply KeepsM.getD | split
      | fail_if_no_progress (refine Keeps.upd ?_) | dsimp only

theorem State.beginStream_k {F : Part → Prop} {s0 : State} (s : State) (bk n : Nat) (c : StepCtx) (hk : Keeps F s0 s)
    (h_regs : F .regs := by assumption) (h_live : F .live := by assumption) (h_mem : F .mem := by assumption)
    (h_boards : F .boards := by assumption) : Keeps F s0 (State.beginStream s bk n c) := by
  unfold State.beginStream
  try dsimp only
  with_reducible repeat' first
      | assumption | intro _ | apply Keeps.ite | apply State.store_k | apply State.setSclOut_k | apply State.putStrm_k
      | apply State.openStream_k | apply KeepsM.getD | apply KeepsM.foldl | apply Keeps.foldl | apply Keeps.foldl_fst
      | split | (refine Keeps.of_fst (by assumption) ?_) | (refine KeepsM.get (by assumption) ?_)
      | fail_if_no_progress (refine Keeps.upd ?_) | dsimp only

theorem State.updateRecord_k {F : Part → Prop} {s0 : State} (s : State) (bk : Nat) (x : StreamStep) (amax : List FV) (hk : Keeps F s0 s)
    (h_mem : F .mem := by assumption) : Keeps F s0 (State.updateRecord s bk x amax) := by
  unfold State.updateRecord
  with_reducible repeat' first | assumption | intro _ | apply State.store_k | apply State.take_k | apply Keeps.foldl

theorem State.settleStrm_k {F : Part → Prop} {s0 : State} (s : State) (bk : Nat) (x : StreamStep) (hk : Keeps F s0 s)
    (h_regs : F .regs := by assumption) (h_live : F .live := by assumption) (h_mem : F .mem := by assumption)
    (h_boards : F .boards := by assumption) : Keeps F s0 (State.settleStrm s bk x) := by
  unfold State.settleStrm
  try dsimp only
  with_reducible repeat' first
      | assumption | intro _ | apply Keeps.ite | apply State.setBoard_k | apply State.beginStream_k
      | apply State.updateRecord_k | apply KeepsM.getD | apply KeepsM.foldl | apply KeepsM.bind | apply Keeps.foldl
      | apply Keeps.foldl_fst | split | (refine Keeps.of_fst (by assumption) ?_)
      | (refine KeepsM.get (by assumption) ?_) | (refine KeepsE.get (by assumption) ?_)
      | fail_if_no_progress (refine Keeps.upd ?_) | dsimp only

theorem State.endStrm_k {F : Part → Prop} {s0 : State} (s : State) (bk : Nat) (c : StepCtx) (n : Nat) (hk : Keeps F s0 s)
    (h_regs : F .regs := by assumption) (h_live : F .live := by assumption) (h_mem : F .mem := by assumption)
    (h_boards : F .boards := by assumption) (h_wk : F .wk := by assumption)
    (h_fb : F .fb := by assumption) : Keeps F s0 (State.endStrm s bk c n) := by
  unfold State.endStrm
  try dsimp only
  with_reducible repeat' first
      | assumption | intro _ | apply Keeps.ite | apply State.setBoard_k | apply State.sendPkt_k
      | apply State.putStrm_k | apply State.updateRecord_k | apply State.settleStrm_k | apply KeepsM.getD
      | apply KeepsM.foldl | apply KeepsM.bind | apply Keeps.foldl | apply Keeps.foldl_fst | split
      | (refine Keeps.of_fst (by assumption) ?_) | (refine KeepsM.get (by assumption) ?_)
      | (refine KeepsE.get (by assumption) ?_) | fail_if_no_progress (refine Keeps.upd ?_) | dsimp only

theorem State.countEv_k {F : Part → Prop} {s0 : State} (s : State) (job : Nat) (ev : Ev) (hk : Keeps F s0 s)
    (h_wk : F .wk := by assumption) : Keeps F s0 (State.countEv s job ev) := by
  unfold State.countEv
  with_reducible repeat' first | assumption | apply State.addCounts_k

theorem State.quantise_k {F : Part → Prop} {s0 : State} (s : State) (bk n : Nat) (c : StepCtx) (inf wide cap conv : Bool) (es : List QElem) (hk : Keeps F s0 s)
    (h_regs : F .regs := by assumption) (h_live : F .live := by assumption) (h_mem : F .mem := by assumption)
    (h_boards : F .boards := by assumption)
    (h_wk : F .wk := by assumption) : Keeps F s0 (State.quantise s bk n c inf wide cap conv es).1 := by
  unfold State.quantise
  try dsimp only
  with_reducible repeat' first
      | assumption | intro _ | apply Keeps.ite_fst | apply State.bump_k | apply State.putStrm_k
      | apply State.openStream_k | apply State.beginStream_k | apply State.countEv_k | apply KeepsM.getD
      | apply KeepsM.foldl | apply Keeps.foldl | apply Keeps.foldl_fst | split
      | (refine Keeps.of_fst (by assumption) ?_) | (refine KeepsM.get (by assumption) ?_)
      | fail_if_no_progress (refine Keeps.upd ?_) | dsimp only

theorem State.endStep_k {F : Part → Prop} {s0 : State} (s : State) (bk : Nat) (c : StepCtx) (hk : Keeps F s0 s)
    (h_regs : F .regs := by assumption) (h_live : F .live := by assumption) (h_mem : F .mem := by assumption)
    (h_boards : F .boards := by assumption) (h_wk : F .wk := by assumption)
    (h_fb : F .fb := by assumption) : Keeps F s0 (State.endStep s bk c) := by
  unfold State.endStep
  try dsimp only
  with_reducible repeat' first
      | assumption | intro _ | apply Keeps.ite | apply State.setBoard_k | apply State.modJob_k | apply State.endStrm_k
      | apply KeepsM.getD | apply KeepsM.foldl | apply KeepsM.bind | apply Keeps.foldl | apply Keeps.foldl_fst | split
      | (refine Keeps.of_fst (by assumption) ?_) | (refine KeepsM.get (by assumption) ?_)
      | (refine KeepsE.get (by assumption) ?_) | fail_if_no_progress (refine Keeps.upd ?_) | dsimp only

theorem State.endSteps_k {F : Part → Prop} {s0 : State} (s : State) (bk : Nat) (hk : Keeps F s0 s)
    (h_regs : F .regs := by assumption) (h_live : F .live := by assumption) (h_mem : F .mem := by assumption)
    (h_boards : F .boards := by assumption) (h_wk : F .wk := by assumption)
    (h_fb : F .fb := by assumption) : Keeps F s0 (State.endSteps s bk) := by
  unfold State.endSteps
  try dsimp only
  with_reducible repeat' first
      | assumption | intro _ | apply Keeps.ite | apply State.endStep_k | apply KeepsM.foldl | apply Keeps.foldl
      | apply Keeps.foldl_fst | split | fail_if_no_progress (refine Keeps.upd ?_) | dsimp only

theorem State.finishEntry_k {F : Part → Prop} {s0 : State} (s : State) (bk : Nat) (e : SbEntry) (hk : Keeps F s0 s)
    (h_regs : F .regs := by assumption) (h_live : F .live := by assumption) (h_mem : F .mem := by assumption)
    (h_boards : F .boards := by assumption) (h_wk : F .wk := by assumption)
    (h_fb : F .fb := by assumption) : Keeps F s0 (State.finishEntry s bk e) := by
  unfold State.finishEntry
  try dsimp only
  with_reducible repeat' first
      | assumption | intro _ | apply Keeps.ite | apply State.setBoard_k | apply State.settleAct_k
      | apply State.endSteps_k | apply KeepsM.getD | apply KeepsM.foldl | apply KeepsM.bind | apply Keeps.foldl
      | apply Keeps.foldl_fst | split | (refine Keeps.of_fst (by assumption) ?_)
      | (refine KeepsM.get (by assumption) ?_) | (refine KeepsE.get (by assumption) ?_)
      | fail_if_no_progress (refine Keeps.upd ?_) | dsimp only

theorem State.countPerformed_k {F : Part → Prop} {s0 : State} (s : State) (fk : Nat) (fl : List Bool) (hk : Keeps F s0 s)
    (h_regs : F .regs := by assumption)
    (h_frames : F .frames := by assumption) : Keeps F s0 (State.countPerformed s fk fl) := by
  unfold State.countPerformed
  try dsimp only
  with_reducible repeat' first
      | assumption | intro _ | apply Keeps.ite | apply State.setRegN_k | apply State.bump_k | apply State.setFrame_k
      | apply KeepsM.getD | apply KeepsM.foldl | apply Keeps.foldl | apply Keeps.foldl_fst | split
      | (refine Keeps.of_fst (by assumption) ?_) | (refine KeepsM.get (by assumption) ?_)
      | fail_if_no_progress (refine Keeps.upd ?_) | dsimp only

theorem State.setStroke_k {F : Part → Prop} {s0 : State} (s : State) (fk : Nat) (x : Option Stroke) (hk : Keeps F s0 s)
    (h_frames : F .frames := by assumption) : Keeps F s0 (State.setStroke s fk x) := by
  unfold State.setStroke
  with_reducible repeat' first | assumption | apply State.setFrame_k

theorem State.iterDone_k {F : Part → Prop} {s0 : State} (s : State) (bk id : Nat) (hk : Keeps F s0 s)
    (h_regs : F .regs := by assumption) (h_live : F .live := by assumption) (h_mem : F .mem := by assumption)
    (h_boards : F .boards := by assumption) (h_wk : F .wk := by assumption)
    (h_fb : F .fb := by assumption) : Keeps F s0 (State.iterDone s bk id) := by
  unfold State.iterDone
  with_reducible repeat' first
      | assumption | apply Keeps.ite | apply State.setEntry_k | apply State.finishEntry_k | split

theorem State.endStroke_k {F : Part → Prop} {s0 : State} (s : State) (fk : Nat) (hk : Keeps F s0 s)
    (h_evlog : F .evlog := by assumption) (h_regs : F .regs := by assumption) (h_live : F .live := by assumption)
    (h_mem : F .mem := by assumption) (h_frames : F .frames := by assumption) (h_boards : F .boards := by assumption)
    (h_dies : F .dies := by assumption) (h_wk : F .wk := by assumption)
    (h_fb : F .fb := by assumption) : Keeps F s0 (State.endStroke s fk) := by
  unfold State.endStroke
  with_reducible repeat' first
      | assumption | apply Keeps.ite | apply State.bump_k | apply State.setFrame_k | apply State.frameFault_k
      | apply State.boundary_k | apply State.addCounts_k | apply State.sendPkt_k | apply State.setStroke_k
      | apply State.iterDone_k | split

theorem State.deliver_k {F : Part → Prop} {s0 : State} (s : State) (fk : Nat) (x : Stroke) (c : Nat → Int) (hk : Keeps F s0 s)
    (h_evlog : F .evlog := by assumption) (h_regs : F .regs := by assumption) (h_frames : F .frames := by assumption)
    (h_boards : F .boards := by assumption)
    (h_wk : F .wk := by assumption) : Keeps F s0 (State.deliver s fk x c) := by
  unfold State.deliver
  try dsimp only
  with_reducible repeat' first
      | assumption | intro _ | apply Keeps.ite | apply State.tallyAdd_k | apply State.setStroke_k | split
      | (refine Keeps.of_fst (by assumption) ?_) | (refine KeepsM.get (by assumption) ?_)
      | fail_if_no_progress (refine Keeps.upd ?_) | dsimp only

theorem State.partOut_k {F : Part → Prop} {s0 : State} (s : State) (fk : Nat) (x : Stroke) (hk : Keeps F s0 s)
    (h_evlog : F .evlog := by assumption) (h_regs : F .regs := by assumption) (h_frames : F .frames := by assumption)
    (h_boards : F .boards := by assumption) (h_wk : F .wk := by assumption) : Keeps F s0 (State.partOut s fk x) := by
  unfold State.partOut
  try dsimp only
  with_reducible repeat' first
      | assumption | intro _ | apply Keeps.ite | apply State.bump_k | apply State.setStroke_k | apply State.deliver_k
      | apply KeepsM.getD | split | (refine Keeps.of_fst (by assumption) ?_) | (refine KeepsM.get (by assumption) ?_)
      | fail_if_no_progress (refine Keeps.upd ?_) | dsimp only

theorem State.toLane_k {F : Part → Prop} {s0 : State} (s : State) (fk : Nat) (hk : Keeps F s0 s)
    (h_evlog : F .evlog := by assumption) (h_regs : F .regs := by assumption) (h_live : F .live := by assumption)
    (h_frames : F .frames := by assumption) (h_dies : F .dies := by assumption)
    (h_wk : F .wk := by assumption) : Keeps F s0 (State.toLane s fk) := by
  unfold State.toLane
  with_reducible repeat' first
      | assumption | apply State.boundary_k | apply State.jobFault_k | apply State.setStroke_k | split

theorem State.captUsed_k {F : Part → Prop} {s0 : State} (s : State) (bk : Nat) (c : StepCtx) (point : Nat) (hk : Keeps F s0 s)
    (h_boards : F .boards := by assumption) : Keeps F s0 (State.captUsed s bk c point) := by
  unfold State.captUsed
  with_reducible repeat' first | assumption | apply State.setBoard_k

theorem State.calRecord_k {F : Part → Prop} {s0 : State} (s : State) (fk : Nat) (c : StepCtx) (hk : Keeps F s0 s)
    (h_sv : F .sv := by assumption) : Keeps F s0 (State.calRecord s fk c) := by
  unfold State.calRecord
  with_reducible repeat' first
      | assumption | apply Keeps.ite | apply State.jrec_k | fail_if_no_progress (refine Keeps.upd ?_)

theorem State.rodRecord_k {F : Part → Prop} {s0 : State} (s : State) (fk : Nat) (x : Stroke) (point : Nat) (cs : List (Int × Bool)) (hk : Keeps F s0 s)
    (h_sv : F .sv := by assumption) : Keeps F s0 (State.rodRecord s fk x point cs) := by
  unfold State.rodRecord
  with_reducible repeat' first | assumption | apply State.jrec_k | apply State.calRecord_k

theorem State.judge__k {F : Part → Prop} {s0 : State} (s : State) (fk : Nat) (x : Stroke) (hk : Keeps F s0 s)
    (h_evlog : F .evlog := by assumption) (h_regs : F .regs := by assumption) (h_frames : F .frames := by assumption)
    (h_boards : F .boards := by assumption) (h_wk : F .wk := by assumption) : Keeps F s0 (State.judge_ s fk x).1 := by
  unfold State.judge_
  with_reducible repeat' first | assumption | apply State.setStroke_k | apply State.partOut_k | split

theorem State.substitute_k {F : Part → Prop} {s0 : State} (s : State) (fk : Nat) (x : Stroke) (point : Nat) (p : State × Stroke)
    (e : s.substitute fk x point = .ok p) (hk : Keeps F s0 s)
    (h_boards : F .boards := by assumption) : Keeps F s0 p.1 := by
  unfold State.substitute at e
  dsimp only at e
  split at e
  · cases e
  split at e
  · cases e
  split at e
  · cases e
  cases e
  exact State.captUsed_k _ _ _ _ hk

theorem State.selectPlane_k {F : Part → Prop} {s0 : State} (s : State) (fk p : Nat) (hk : Keeps F s0 s)
    (h_fresh : F .fresh := by assumption) (h_regs : F .regs := by assumption)
    (h_frames : F .frames := by assumption) : Keeps F s0 (State.selectPlane s fk p).1 := by
  unfold State.selectPlane
  try dsimp only
  with_reducible repeat' first
      | assumption | intro _ | apply Keeps.ite_fst | apply State.bump_k | apply State.setFrame_k | apply State.take_k
      | split | fail_if_no_progress (refine Keeps.upd ?_) | dsimp only

theorem State.startPart_k {F : Part → Prop} {s0 : State} (s : State) (fk : Nat) (hk : Keeps F s0 s)
    (h_fresh : F .fresh := by assumption) (h_evlog : F .evlog := by assumption) (h_regs : F .regs := by assumption)
    (h_live : F .live := by assumption) (h_frames : F .frames := by assumption) (h_dies : F .dies := by assumption)
    (h_wk : F .wk := by assumption) : Keeps F s0 (State.startPart s fk) := by
  unfold State.startPart
  try dsimp only
  with_reducible repeat' first
      | assumption | intro _ | apply Keeps.ite | apply State.setFrame_k | apply State.frameFault_k
      | apply State.setStroke_k | apply State.toLane_k | apply State.selectPlane_k | split
      | (refine Keeps.of_fst (by assumption) ?_) | (refine KeepsM.get (by assumption) ?_)
      | fail_if_no_progress (refine Keeps.upd ?_) | dsimp only

theorem State.nextPart_k {F : Part → Prop} {s0 : State} (n : Nat) (s : State) (fk : Nat) (hk : Keeps F s0 s)
    (h_fresh : F .fresh := by assumption) (h_evlog : F .evlog := by assumption) (h_regs : F .regs := by assumption)
    (h_live : F .live := by assumption) (h_mem : F .mem := by assumption) (h_frames : F .frames := by assumption)
    (h_boards : F .boards := by assumption) (h_dies : F .dies := by assumption) (h_wk : F .wk := by assumption)
    (h_fb : F .fb := by assumption) :
    Keeps F s0 (State.nextPart n s fk) := by
  induction n generalizing s with
  | zero => exact hk
  | succ n ih =>
    have sub := fun x point p e => State.substitute_k (s0 := s0) s fk x point p e hk
    unfold State.nextPart
    dsimp only
    repeat' first
        | with_reducible assumption | with_reducible apply Keeps.ite | with_reducible apply ih
        | with_reducible apply State.endStroke_k | with_reducible apply State.setStroke_k
        | with_reducible apply State.bump_k | with_reducible apply State.deliver_k
        | with_reducible apply State.jobFault_k | with_reducible apply State.boundary_k
        | with_reducible apply State.judge__k | with_reducible apply State.startPart_k | split
        | exact sub _ _ _ (by assumption) | (with_reducible refine Keeps.of_fst (by with_reducible assumption) ?_)
        | with_reducible apply State.draw_k

theorem State.unavailable_k {F : Part → Prop} {s0 : State} (s : State) (fk : Nat) (hk : Keeps F s0 s)
    (h_evlog : F .evlog := by assumption)
    (h_frames : F .frames := by assumption) : Keeps F s0 (State.unavailable s fk) := by
  unfold State.unavailable
  try dsimp only
  with_reducible repeat' first
      | assumption | intro _ | apply Keeps.ite | apply State.setFrame_k | apply State.frameFault_k | split
      | fail_if_no_progress (refine Keeps.upd ?_) | dsimp only

theorem State.yieldVisit_k {F : Part → Prop} {s0 : State} (s : State) (fk : Nat) (hk : Keeps F s0 s)
    (h_frames : F .frames := by assumption) : Keeps F s0 (State.yieldVisit s fk) := by
  unfold State.yieldVisit
  try dsimp only
  with_reducible repeat' first
      | assumption | intro _ | apply Keeps.ite | apply State.setFrame_k | apply KeepsM.getD | apply KeepsM.foldl
      | apply KeepsM.bind | apply Keeps.foldl | apply Keeps.foldl_fst | split
      | (refine Keeps.of_fst (by assumption) ?_) | (refine KeepsM.get (by assumption) ?_)
      | (refine KeepsE.get (by assumption) ?_) | fail_if_no_progress (refine Keeps.upd ?_) | dsimp only

theorem State.beginStroke_k {F : Part → Prop} {s0 : State} (s : State) (fk : Nat) (x : Stroke) (hasEs : Bool) (hk : Keeps F s0 s)
    (h_fresh : F .fresh := by assumption) (h_evlog : F .evlog := by assumption) (h_regs : F .regs := by assumption)
    (h_live : F .live := by assumption) (h_mem : F .mem := by assumption) (h_frames : F .frames := by assumption)
    (h_boards : F .boards := by assumption) (h_dies : F .dies := by assumption) (h_wk : F .wk := by assumption)
    (h_fb : F .fb := by assumption) : Keeps F s0 (State.beginStroke s fk x hasEs) := by
  unfold State.beginStroke
  try dsimp only
  with_reducible repeat' first
      | assumption | intro _ | apply Keeps.ite | apply State.bump_k | apply State.setFrame_k | apply State.setStroke_k
      | apply State.endStroke_k | apply State.deliver_k | apply State.toLane_k | apply State.unavailable_k
      | apply State.yieldVisit_k | apply State.nextPart_k | apply KeepsM.getD | apply KeepsM.foldl | apply KeepsM.bind
      | apply Keeps.foldl | apply Keeps.foldl_fst | split | (refine Keeps.of_fst (by assumption) ?_)
      | (refine KeepsM.get (by assumption) ?_) | (refine KeepsE.get (by assumption) ?_)
      | fail_if_no_progress (refine Keeps.upd ?_) | dsimp only

theorem State.countTurn_k {F : Part → Prop} {s0 : State} (s : State) (bk : Nat) (c : StepCtx) (dr : Drive) (hk : Keeps F s0 s)
    (h_regs : F .regs := by assumption) (h_wk : F .wk := by assumption) : Keeps F s0 (State.countTurn s bk c dr) := by
  unfold State.countTurn
  with_reducible repeat' first | assumption | apply State.bump_k | apply State.addCounts_k

theorem execStroke_k {F : Part → Prop} {s0 : State} (d : Die) (b : Brd) (f : Frm) (ecc : Bool) (s : State) (hk : Keeps F s0 s)
    (h_fresh : F .fresh := by assumption) (h_evlog : F .evlog := by assumption) (h_regs : F .regs := by assumption)
    (h_live : F .live := by assumption) (h_mem : F .mem := by assumption) (h_frames : F .frames := by assumption)
    (h_boards : F .boards := by assumption) (h_dies : F .dies := by assumption) (h_wk : F .wk := by assumption)
    (h_fb : F .fb := by assumption) : KeepsO F s0 (execStroke d b f ecc s) := by
  unfold execStroke
  try dsimp only
  with_reducible repeat' first
      | assumption | intro _ | apply Keeps.ite | apply KeepsO.ite | apply KeepsO.next | apply State.bump_k
      | apply State.setFrame_k | apply State.eccFault_k | apply State.addCounts_k | apply State.setEntry_k
      | apply State.sendPkt_k | apply State.finishEntry_k | apply State.iterDone_k | apply State.unavailable_k
      | apply State.beginStroke_k | apply State.countTurn_k | apply KeepsM.getD | apply KeepsM.foldl
      | apply KeepsM.bind | apply Keeps.foldl | apply Keeps.foldl_fst | split
      | (refine Keeps.of_fst (by assumption) ?_) | (refine KeepsM.get (by assumption) ?_)
      | (refine KeepsE.get (by assumption) ?_) | fail_if_no_progress (refine Keeps.upd ?_) | dsimp only

theorem execStrokeEnd_k {F : Part → Prop} {s0 : State} (d : Die) (b : Brd) (f : Frm) (conv : Bool) (s : State) (hk : Keeps F s0 s)
    (h_fresh : F .fresh := by assumption) (h_evlog : F .evlog := by assumption) (h_regs : F .regs := by assumption)
    (h_live : F .live := by assumption) (h_mem : F .mem := by assumption) (h_frames : F .frames := by assumption)
    (h_boards : F .boards := by assumption) (h_dies : F .dies := by assumption) (h_wk : F .wk := by assumption)
    (h_fb : F .fb := by assumption) (h_sv : F .sv := by assumption) : KeepsO F s0 (execStrokeEnd d b f conv s) := by
  unfold execStrokeEnd State.recordCodes
  try dsimp only
  with_reducible repeat' first
      | assumption | intro _ | apply Keeps.ite | apply KeepsO.ite | apply KeepsO.next | apply State.setFrame_k
      | apply State.take_k | apply State.frameFault_k | apply State.countPerformed_k | apply State.toLane_k
      | apply State.rodRecord_k | apply State.judge__k | apply State.nextPart_k | split
      | (refine Keeps.of_fst (by assumption) ?_) | (refine KeepsM.get (by assumption) ?_)
      | fail_if_no_progress (refine Keeps.upd ?_) | dsimp only

theorem execConfidenceRestroke_k {F : Part → Prop} {s0 : State} (d : Die) (b : Brd) (f : Frm) (s : State) (hk : Keeps F s0 s)
    (h_fresh : F .fresh := by assumption) (h_evlog : F .evlog := by assumption) (h_regs : F .regs := by assumption)
    (h_live : F .live := by assumption) (h_frames : F .frames := by assumption) (h_dies : F .dies := by assumption)
    (h_wk : F .wk := by assumption) : KeepsO F s0 (execConfidenceRestroke d b f s) := by
  unfold execConfidenceRestroke
  try dsimp only
  with_reducible repeat' first
      | assumption | intro _ | apply Keeps.ite | apply KeepsO.ite | apply KeepsO.next | apply State.bump_k
      | apply State.draw_k | apply State.setStroke_k | apply State.startPart_k | apply KeepsM.getD | split
      | (refine Keeps.of_fst (by assumption) ?_) | (refine KeepsM.get (by assumption) ?_)
      | fail_if_no_progress (refine Keeps.upd ?_) | dsimp only

theorem execRowRamp_k {F : Part → Prop} {s0 : State} (d : Die) (b : Brd) (f : Frm) (s : State) (hk : Keeps F s0 s)
    (h_frames : F .frames := by assumption) : KeepsO F s0 (execRowRamp d b f s) := by
  unfold execRowRamp
  try dsimp only
  with_reducible repeat' first
      | assumption | intro _ | apply Keeps.ite | apply KeepsO.ite | apply KeepsO.next | apply State.setFrame_k | split
      | (refine Keeps.of_fst (by assumption) ?_) | fail_if_no_progress (refine Keeps.upd ?_) | dsimp only

theorem execExactLanePart_k {F : Part → Prop} {s0 : State} (d : Die) (b : Brd) (s : State) (hk : Keeps F s0 s)
    (h_fresh : F .fresh := by assumption) (h_evlog : F .evlog := by assumption) (h_regs : F .regs := by assumption)
    (h_live : F .live := by assumption) (h_mem : F .mem := by assumption) (h_frames : F .frames := by assumption)
    (h_boards : F .boards := by assumption) (h_dies : F .dies := by assumption) (h_wk : F .wk := by assumption)
    (h_fb : F .fb := by assumption) : KeepsO F s0 (execExactLanePart d b s) := by
  unfold execExactLanePart State.lanePart
  try dsimp only
  with_reducible repeat' first
      | assumption | intro _ | apply Keeps.ite | apply KeepsO.ite | apply KeepsO.next | apply State.bump_k
      | apply State.boundary_k | apply State.draw_k | apply State.jobFault_k | apply State.setStroke_k
      | apply State.deliver_k | apply State.nextPart_k | apply KeepsM.getD | apply KeepsM.foldl | apply Keeps.foldl
      | apply Keeps.foldl_fst | split | (refine Keeps.of_fst (by assumption) ?_)
      | (refine KeepsM.get (by assumption) ?_) | fail_if_no_progress (refine Keeps.upd ?_) | dsimp only

theorem execPsel_k {F : Part → Prop} {s0 : State} (d : Die) (b : Brd) (f : Frm) (s : State) (hk : Keeps F s0 s)
    (h_fresh : F .fresh := by assumption) (h_evlog : F .evlog := by assumption) (h_regs : F .regs := by assumption)
    (h_live : F .live := by assumption) (h_mem : F .mem := by assumption) (h_frames : F .frames := by assumption)
    (h_boards : F .boards := by assumption) (h_wk : F .wk := by assumption)
    (h_fb : F .fb := by assumption) : KeepsO F s0 (execPsel d b f s) := by
  unfold execPsel
  try dsimp only
  with_reducible repeat' first
      | assumption | apply KeepsO.next | apply State.setFrame_k | apply State.frameFault_k | apply State.finishEntry_k
      | apply State.selectPlane_k | split

theorem execStepStart_k {F : Part → Prop} {s0 : State} (d : Die) (b : Brd) (c : StepCtx) (s : State) (hk : Keeps F s0 s)
    (h_regs : F .regs := by assumption) (h_boards : F .boards := by assumption)
    (h_fb : F .fb := by assumption) : KeepsO F s0 (execStepStart d b c s) := by
  unfold execStepStart
  try dsimp only
  with_reducible repeat' first
      | assumption | intro _ | apply Keeps.ite | apply KeepsO.ite | apply KeepsO.next | apply State.setBoard_k
      | apply State.arrive_k | split | (refine Keeps.of_fst (by assumption) ?_)
      | (refine KeepsM.get (by assumption) ?_) | fail_if_no_progress (refine Keeps.upd ?_) | dsimp only

theorem execSeqBeginStep_k {F : Part → Prop} {s0 : State} (d : Die) (b : Brd) (s : State) (hk : Keeps F s0 s)
    (h_boards : F .boards := by assumption) : KeepsO F s0 (execSeqBeginStep d b s) := by
  unfold execSeqBeginStep
  try dsimp only
  with_reducible repeat' first
      | assumption | intro _ | apply Keeps.ite | apply KeepsO.ite | apply KeepsO.next | apply State.setBoard_k
      | apply KeepsM.getD | apply KeepsM.foldl | apply KeepsM.bind | apply Keeps.foldl | apply Keeps.foldl_fst | split
      | (refine Keeps.of_fst (by assumption) ?_) | (refine KeepsM.get (by assumption) ?_)
      | (refine KeepsE.get (by assumption) ?_) | fail_if_no_progress (refine Keeps.upd ?_) | dsimp only

theorem execInstructionIssue_k {F : Part → Prop} {s0 : State} (d : Die) (b : Brd) (s : State) (hk : Keeps F s0 s)
    (h_evlog : F .evlog := by assumption) (h_regs : F .regs := by assumption) (h_boards : F .boards := by assumption)
    (h_wk : F .wk := by assumption) : KeepsO F s0 (execInstructionIssue d b s) := by
  unfold execInstructionIssue
  try dsimp only
  with_reducible repeat' first
      | assumption | intro _ | apply Keeps.ite | apply KeepsO.ite | apply KeepsO.next | apply State.bump_k
      | apply State.setBoard_k | apply State.boardFault_k | apply KeepsM.getD | apply KeepsM.foldl | apply KeepsM.bind
      | apply Keeps.foldl | apply Keeps.foldl_fst | split | (refine Keeps.of_fst (by assumption) ?_)
      | (refine KeepsM.get (by assumption) ?_) | (refine KeepsE.get (by assumption) ?_)
      | fail_if_no_progress (refine Keeps.upd ?_) | dsimp only

theorem State.commitBoard_k {F : Part → Prop} {s0 : State} (s : State) (bk : Nat) (hk : Keeps F s0 s)
    (h_live : F .live := by assumption) : Keeps F s0 (State.commitBoard s bk) := by
  unfold State.commitBoard
  try dsimp only
  with_reducible repeat' first
      | assumption | intro _ | apply Keeps.ite | apply State.setLive_k | apply KeepsM.foldl | apply Keeps.foldl
      | apply Keeps.foldl_fst | split | (refine Keeps.of_fst (by assumption) ?_)
      | (refine KeepsM.get (by assumption) ?_) | fail_if_no_progress (refine Keeps.upd ?_) | dsimp only

theorem execSeqCtlRun_k {F : Part → Prop} {s0 : State} (d : Die) (b : Brd) (s : State) (hk : Keeps F s0 s)
    (h_live : F .live := by assumption)
    (h_boards : F .boards := by assumption) : KeepsO F s0 (execSeqCtlRun d b s) := by
  unfold execSeqCtlRun
  try dsimp only
  with_reducible repeat' first
      | assumption | intro _ | apply Keeps.ite | apply KeepsO.ite | apply KeepsO.next | apply State.setBoard_k
      | apply State.commitBoard_k | split | fail_if_no_progress (refine Keeps.upd ?_) | dsimp only

theorem execSeqCtlHalt_k {F : Part → Prop} {s0 : State} (d : Die) (b : Brd) (s : State) (hk : Keeps F s0 s)
    (h_boards : F .boards := by assumption) : KeepsO F s0 (execSeqCtlHalt d b s) := by
  unfold execSeqCtlHalt
  with_reducible repeat' first | assumption | apply KeepsO.next | apply State.setBoard_k

theorem execSeqCtlClear_k {F : Part → Prop} {s0 : State} (d : Die) (b : Brd) (s : State) (hk : Keeps F s0 s)
    (h_boards : F .boards := by assumption) : KeepsO F s0 (execSeqCtlClear d b s) := by
  unfold execSeqCtlClear
  with_reducible repeat' first | assumption | apply KeepsO.next | apply State.setBoard_k

theorem execWaitrk_k {F : Part → Prop} {s0 : State} (d : Die) (b : Brd) (s : State) (hk : Keeps F s0 s)
    (h_regs : F .regs := by assumption) (h_live : F .live := by assumption) (h_mem : F .mem := by assumption)
    (h_boards : F .boards := by assumption) (h_wk : F .wk := by assumption)
    (h_fb : F .fb := by assumption) : KeepsO F s0 (execWaitrk d b s) := by
  unfold execWaitrk
  try dsimp only
  with_reducible repeat' first
      | assumption | apply KeepsO.next | apply State.setBoard_k | apply State.finishEntry_k | split

theorem execWaitrkRelease_k {F : Part → Prop} {s0 : State} (d : Die) (b : Brd) (s : State) (hk : Keeps F s0 s)
    (h_regs : F .regs := by assumption) (h_live : F .live := by assumption) (h_mem : F .mem := by assumption)
    (h_boards : F .boards := by assumption) (h_wk : F .wk := by assumption)
    (h_fb : F .fb := by assumption) : KeepsO F s0 (execWaitrkRelease d b s) := by
  unfold execWaitrkRelease
  try dsimp only
  with_reducible repeat' first
      | assumption | apply KeepsO.next | apply State.setBoard_k | apply State.finishEntry_k | split

theorem State.sendStep_k {F : Part → Prop} {s0 : State} (s : State) (slot stage : Nat) (p : Pkt) (c : StepCtx) (hk : Keeps F s0 s)
    (h_regs : F .regs := by assumption) (h_wk : F .wk := by assumption) (h_fb : F .fb := by assumption)
    (h_ms : F .ms := by assumption) : Keeps F s0 (State.sendStep s slot stage p c) := by
  unfold State.sendStep
  try dsimp only
  with_reducible repeat' first
      | assumption | intro _ | apply Keeps.ite | apply State.sendPkt_k | apply State.stage_k | apply KeepsM.getD
      | apply KeepsM.foldl | apply KeepsM.bind | apply Keeps.foldl | apply Keeps.foldl_fst | split
      | (refine Keeps.of_fst (by assumption) ?_) | (refine KeepsM.get (by assumption) ?_)
      | (refine KeepsE.get (by assumption) ?_) | fail_if_no_progress (refine Keeps.upd ?_) | dsimp only

theorem execStep_k {F : Part → Prop} {s0 : State} (d : Die) (b : Brd) (s : State) (hk : Keeps F s0 s)
    (h_regs : F .regs := by assumption) (h_live : F .live := by assumption) (h_mem : F .mem := by assumption)
    (h_boards : F .boards := by assumption) (h_wk : F .wk := by assumption) (h_fb : F .fb := by assumption)
    (h_ms : F .ms := by assumption) : KeepsO F s0 (execStep d b s) := by
  unfold execStep
  try dsimp only
  with_reducible repeat' first
      | assumption | intro _ | apply Keeps.ite | apply KeepsO.ite | apply KeepsO.next | apply State.finishEntry_k
      | apply State.sendStep_k | apply State.stage_k | apply KeepsM.getD | apply KeepsM.foldl | apply KeepsM.bind
      | apply Keeps.foldl | apply Keeps.foldl_fst | split | (refine Keeps.of_fst (by assumption) ?_)
      | (refine KeepsM.get (by assumption) ?_) | (refine KeepsE.get (by assumption) ?_)
      | fail_if_no_progress (refine Keeps.upd ?_) | dsimp only

theorem State.releaseSteps_k {F : Part → Prop} {s0 : State} (s : State) (hk : Keeps F s0 s)
    (h_regs : F .regs := by assumption) (h_wk : F .wk := by assumption) (h_fb : F .fb := by assumption)
    (h_ms : F .ms := by assumption) : Keeps F s0 (State.releaseSteps s) := by
  unfold State.releaseSteps
  with_reducible repeat' first
      | assumption | intro _ | apply State.sendStep_k | apply Keeps.foldl | split
      | fail_if_no_progress (refine Keeps.upd ?_)

theorem execCapt_k {F : Part → Prop} {s0 : State} (d : Die) (b : Brd) (s : State) (hk : Keeps F s0 s)
    (h_regs : F .regs := by assumption) (h_live : F .live := by assumption) (h_mem : F .mem := by assumption)
    (h_boards : F .boards := by assumption) (h_wk : F .wk := by assumption) (h_fb : F .fb := by assumption)
    (h_sv : F .sv := by assumption) : KeepsO F s0 (execCapt d b s) := by
  unfold execCapt
  try dsimp only
  with_reducible repeat' first
      | assumption | intro _ | apply Keeps.ite | apply KeepsO.ite | apply KeepsO.next | apply State.setBoard_k
      | apply State.store_k | apply State.jrec_k | apply State.jobFault_k | apply State.finishEntry_k
      | apply State.captUsed_k | split | (refine Keeps.of_fst (by assumption) ?_)
      | (refine KeepsM.get (by assumption) ?_) | fail_if_no_progress (refine Keeps.upd ?_) | dsimp only

theorem execLoop_k {F : Part → Prop} {s0 : State} (d : Die) (b : Brd) (s : State) (hk : Keeps F s0 s)
    (h_regs : F .regs := by assumption) (h_live : F .live := by assumption) (h_mem : F .mem := by assumption)
    (h_boards : F .boards := by assumption) (h_wk : F .wk := by assumption)
    (h_fb : F .fb := by assumption) : KeepsO F s0 (execLoop d b s) := by
  unfold execLoop
  try dsimp only
  with_reducible repeat' first
      | assumption | apply KeepsO.next | apply State.setBoard_k | apply State.finishEntry_k | split

theorem execEndProg_k {F : Part → Prop} {s0 : State} (d : Die) (b : Brd) (s : State) (hk : Keeps F s0 s)
    (h_regs : F .regs := by assumption) (h_live : F .live := by assumption) (h_mem : F .mem := by assumption)
    (h_boards : F .boards := by assumption) (h_wk : F .wk := by assumption)
    (h_fb : F .fb := by assumption) : KeepsO F s0 (execEndProg d b s) := by
  unfold execEndProg
  try dsimp only
  with_reducible repeat' first
      | assumption | apply KeepsO.next | apply State.setBoard_k | apply State.finishEntry_k | split

theorem execJobFailureCancel_k {F : Part → Prop} {s0 : State} (j : Nat) (s : State) (hk : Keeps F s0 s)
    (h_sent : F .sent := by assumption) (h_evlog : F .evlog := by assumption) (h_regs : F .regs := by assumption)
    (h_live : F .live := by assumption) (h_mem : F .mem := by assumption) (h_frames : F .frames := by assumption)
    (h_boards : F .boards := by assumption) (h_dies : F .dies := by assumption) (h_hl : F .hl := by assumption)
    (h_wk : F .wk := by assumption) (h_fb : F .fb := by assumption)
    (h_sv : F .sv := by assumption) : KeepsO F s0 (execJobFailureCancel j s) := by
  unfold execJobFailureCancel
  with_reducible repeat' first
      | assumption | apply KeepsO.next | apply State.setRing_k | apply State.failJob_k | split

theorem execWatchdogExpiry_k {F : Part → Prop} {s0 : State} (d : Die) (b : Brd) (s : State) (hk : Keeps F s0 s)
    (h_evlog : F .evlog := by assumption) (h_boards : F .boards := by assumption)
    (h_wk : F .wk := by assumption) : KeepsO F s0 (execWatchdogExpiry d b s) := by
  unfold execWatchdogExpiry
  try dsimp only
  with_reducible repeat' first
      | assumption | intro _ | apply Keeps.ite | apply KeepsO.ite | apply KeepsO.next | apply State.boardFault_k
      | split | (refine Keeps.of_fst (by assumption) ?_) | (refine KeepsM.get (by assumption) ?_)
      | fail_if_no_progress (refine Keeps.upd ?_) | dsimp only

theorem execScoreRefetch_k {F : Part → Prop} {s0 : State} (d : Die) (b : Brd) (s : State) (hk : Keeps F s0 s)
    (h_regs : F .regs := by assumption) (h_mem : F .mem := by assumption) : KeepsO F s0 (execScoreRefetch d b s) := by
  unfold execScoreRefetch
  try dsimp only
  with_reducible repeat' first | assumption | apply KeepsO.next | apply State.bump_k | apply State.store_k | split

theorem execTclr_k {F : Part → Prop} {s0 : State} (d : Die) (b : Brd) (s : State) (hk : Keeps F s0 s)
    (h_regs : F .regs := by assumption) (h_live : F .live := by assumption) (h_mem : F .mem := by assumption)
    (h_boards : F .boards := by assumption) (h_wk : F .wk := by assumption)
    (h_fb : F .fb := by assumption) : KeepsO F s0 (execTclr d b s) := by
  unfold execTclr
  try dsimp only
  with_reducible repeat' first
      | assumption | apply KeepsO.next | apply State.setBoard_k | apply State.finishEntry_k | split

theorem execTrd_k {F : Part → Prop} {s0 : State} (d : Die) (b : Brd) (s : State) (hk : Keeps F s0 s)
    (h_regs : F .regs := by assumption) (h_live : F .live := by assumption) (h_mem : F .mem := by assumption)
    (h_boards : F .boards := by assumption) (h_wk : F .wk := by assumption)
    (h_fb : F .fb := by assumption) : KeepsO F s0 (execTrd d b s) := by
  unfold execTrd
  try dsimp only
  with_reducible repeat' first
      | assumption | apply KeepsO.next | apply State.store_k | apply State.countEv_k | apply State.finishEntry_k
      | split

theorem State.writeOut_k {F : Part → Prop} {s0 : State} (s : State) (bk : Nat) (e : SbEntry) (mset : Option Nat) (byte : Nat) (bs : List Byte) (hk : Keeps F s0 s)
    (h_regs : F .regs := by assumption) (h_mem : F .mem := by assumption) (h_wk : F .wk := by assumption)
    (h_fb : F .fb := by assumption) : Keeps F s0 (State.writeOut s bk e mset byte bs) := by
  unfold State.writeOut
  with_reducible repeat' first | assumption | apply State.store_k | apply State.sendAct_k | split

theorem State.drainIter_k {F : Part → Prop} {s0 : State} (s : State) (bk : Nat) (e : SbEntry) (i : Nat) (hk : Keeps F s0 s)
    (h_regs : F .regs := by assumption) (h_live : F .live := by assumption) (h_mem : F .mem := by assumption)
    (h_boards : F .boards := by assumption) (h_wk : F .wk := by assumption)
    (h_fb : F .fb := by assumption) : Keeps F s0 (State.drainIter s bk e i) := by
  unfold State.drainIter
  try dsimp only
  with_reducible repeat' first
      | assumption | intro _ | apply Keeps.ite | apply State.quantise_k | apply State.writeOut_k | apply KeepsM.getD
      | split | (refine Keeps.of_fst (by assumption) ?_) | (refine KeepsM.get (by assumption) ?_)
      | fail_if_no_progress (refine Keeps.upd ?_) | dsimp only

theorem execDrain_k {F : Part → Prop} {s0 : State} (d : Die) (b : Brd) (ecc : Bool) (s : State) (hk : Keeps F s0 s)
    (h_evlog : F .evlog := by assumption) (h_regs : F .regs := by assumption) (h_live : F .live := by assumption)
    (h_mem : F .mem := by assumption) (h_boards : F .boards := by assumption) (h_wk : F .wk := by assumption)
    (h_fb : F .fb := by assumption) : KeepsO F s0 (execDrain d b ecc s) := by
  unfold execDrain
  try dsimp only
  with_reducible repeat' first
      | assumption | intro _ | apply KeepsO.next | apply State.boardFault_k | apply State.eccFault_k
      | apply State.finishEntry_k | apply State.drainIter_k | apply State.drain_k | apply KeepsM.getD
      | apply Keeps.foldl | split

theorem execCsend_k {F : Part → Prop} {s0 : State} (d : Die) (b : Brd) (s : State) (hk : Keeps F s0 s)
    (h_regs : F .regs := by assumption) (h_live : F .live := by assumption) (h_mem : F .mem := by assumption)
    (h_boards : F .boards := by assumption) (h_wk : F .wk := by assumption)
    (h_fb : F .fb := by assumption) : KeepsO F s0 (execCsend d b s) := by
  unfold execCsend
  try dsimp only
  with_reducible repeat' first
      | assumption | intro _ | apply Keeps.ite | apply KeepsO.ite | apply KeepsO.next | apply State.setBoard_k
      | apply State.jobFault_k | apply State.sendPkt_k | apply State.finishEntry_k | apply KeepsM.getD
      | apply KeepsM.foldl | apply Keeps.foldl | apply Keeps.foldl_fst | split
      | (refine Keeps.of_fst (by assumption) ?_) | (refine KeepsM.get (by assumption) ?_)
      | fail_if_no_progress (refine Keeps.upd ?_) | dsimp only

theorem State.addCarry_k {F : Part → Prop} {s0 : State} (s : State) (bk : Nat) (c : Carry) (pc : Nat) (hk : Keeps F s0 s)
    (h_evlog : F .evlog := by assumption) (h_regs : F .regs := by assumption) (h_boards : F .boards := by assumption)
    (h_wk : F .wk := by assumption) : Keeps F s0 (State.addCarry s bk c pc) := by
  unfold State.addCarry
  try dsimp only
  with_reducible repeat' first
      | assumption | intro _ | apply Keeps.ite | apply State.setRegN_k | apply State.boardFault_k
      | apply State.tallyAdd_k | split | (refine Keeps.of_fst (by assumption) ?_)
      | (refine KeepsM.get (by assumption) ?_) | fail_if_no_progress (refine Keeps.upd ?_) | dsimp only

theorem execCrecv_k {F : Part → Prop} {s0 : State} (d : Die) (b : Brd) (s : State) (hk : Keeps F s0 s)
    (h_evlog : F .evlog := by assumption) (h_regs : F .regs := by assumption) (h_live : F .live := by assumption)
    (h_mem : F .mem := by assumption) (h_boards : F .boards := by assumption) (h_wk : F .wk := by assumption)
    (h_fb : F .fb := by assumption) : KeepsO F s0 (execCrecv d b s) := by
  unfold execCrecv
  try dsimp only
  with_reducible repeat' first
      | assumption | intro _ | apply Keeps.ite | apply KeepsO.ite | apply KeepsO.next | apply State.setBoard_k
      | apply State.take_k | apply State.setEntry_k | apply State.finishEntry_k | apply State.addCarry_k
      | apply taken_k | apply KeepsM.foldl | apply Keeps.foldl | apply Keeps.foldl_fst | split
      | (refine Keeps.of_fst (by assumption) ?_) | (refine KeepsM.get (by assumption) ?_)
      | fail_if_no_progress (refine Keeps.upd ?_) | dsimp only

theorem State.vecPay_k {F : Part → Prop} {s0 : State} (s : State) (bk : Nat) (e : SbEntry) (need : Nat) (hk : Keeps F s0 s)
    (h_regs : F .regs := by assumption) (h_boards : F .boards := by assumption)
    (h_dies : F .dies := by assumption) : Keeps F s0 (State.vecPay s bk e need).1 := by
  unfold State.vecPay
  try dsimp only
  with_reducible repeat' first
      | assumption | intro _ | apply Keeps.ite_fst | apply State.draw_k | apply State.setEntry_k | apply KeepsM.getD
      | apply KeepsM.foldl | apply KeepsM.bind | apply Keeps.foldl | apply Keeps.foldl_fst | split
      | (refine Keeps.of_fst (by assumption) ?_) | (refine KeepsM.get (by assumption) ?_)
      | (refine KeepsE.get (by assumption) ?_) | fail_if_no_progress (refine Keeps.upd ?_) | dsimp only

theorem execVmm_k {F : Part → Prop} {s0 : State} (d : Die) (b : Brd) (ecc : Bool) (s : State) (hk : Keeps F s0 s)
    (h_evlog : F .evlog := by assumption) (h_regs : F .regs := by assumption) (h_live : F .live := by assumption)
    (h_mem : F .mem := by assumption) (h_boards : F .boards := by assumption) (h_dies : F .dies := by assumption)
    (h_wk : F .wk := by assumption) (h_fb : F .fb := by assumption) : KeepsO F s0 (execVmm d b ecc s) := by
  unfold execVmm State.vmmRun
  try dsimp only
  with_reducible repeat' first
      | assumption | intro _ | apply Keeps.ite | apply KeepsO.ite | apply KeepsO.next | apply State.bump_k
      | apply State.store_k | apply State.take_k | apply State.jobFault_k | apply State.boardFault_k
      | apply State.eccFault_k | apply State.countEv_k | apply State.quantise_k | apply State.finishEntry_k
      | apply State.vecPay_k | apply KeepsM.getD | apply KeepsM.foldl | apply KeepsM.bind | apply Keeps.foldl
      | apply Keeps.foldl_fst | split | (refine Keeps.of_fst (by assumption) ?_)
      | (refine KeepsM.get (by assumption) ?_) | (refine KeepsE.get (by assumption) ?_)
      | fail_if_no_progress (refine Keeps.upd ?_) | dsimp only

theorem State.genc_k {F : Part → Prop} {s0 : State} (s : State) (bk : Nat) (e : SbEntry) (rows : List (List FV)) (hk : Keeps F s0 s)
    (h_mem : F .mem := by assumption) (h_wk : F .wk := by assumption) : Keeps F s0 (State.genc s bk e rows) := by
  unfold State.genc
  try dsimp only
  with_reducible repeat' first
      | assumption | intro _ | apply Keeps.ite | apply State.store_k | apply State.countEv_k | apply KeepsM.foldl
      | apply Keeps.foldl | apply Keeps.foldl_fst | split | (refine Keeps.of_fst (by assumption) ?_)
      | fail_if_no_progress (refine Keeps.upd ?_) | dsimp only

theorem State.optuRow_k {F : Part → Prop} {s0 : State} (s : State) (bk : Nat) (e : SbEntry) (i n : Nat) (hk : Keeps F s0 s)
    (h_fresh : F .fresh := by assumption) (h_mem : F .mem := by assumption)
    (h_wk : F .wk := by assumption) : Keeps F s0 (State.optuRow s bk e i n).1 := by
  unfold State.optuRow
  try dsimp only
  with_reducible repeat' first
      | assumption | intro _ | apply Keeps.ite_fst | apply State.store_k | apply State.take_k | apply State.countEv_k
      | apply KeepsM.getD | apply KeepsM.foldl | apply KeepsM.bind | apply Keeps.foldl | apply Keeps.foldl_fst | split
      | (refine Keeps.of_fst (by assumption) ?_) | (refine KeepsM.get (by assumption) ?_)
      | (refine KeepsE.get (by assumption) ?_) | fail_if_no_progress (refine Keeps.upd ?_) | dsimp only

theorem execVop_k {F : Part → Prop} {s0 : State} (d : Die) (b : Brd) (ecc : Bool) (s : State) (hk : Keeps F s0 s)
    (h_fresh : F .fresh := by assumption) (h_evlog : F .evlog := by assumption) (h_regs : F .regs := by assumption)
    (h_live : F .live := by assumption) (h_mem : F .mem := by assumption) (h_boards : F .boards := by assumption)
    (h_dies : F .dies := by assumption) (h_wk : F .wk := by assumption)
    (h_fb : F .fb := by assumption) : KeepsO F s0 (execVop d b ecc s) := by
  unfold execVop State.vopRun
  try dsimp only
  with_reducible repeat' first
      | assumption | intro _ | apply Keeps.ite | apply KeepsO.ite | apply KeepsO.next | apply State.bump_k
      | apply State.store_k | apply State.take_k | apply State.boardFault_k | apply State.eccFault_k
      | apply State.countEv_k | apply State.quantise_k | apply State.finishEntry_k | apply State.vecPay_k
      | apply State.genc_k | apply State.optuRow_k | apply KeepsM.getD | apply KeepsM.foldl | apply Keeps.foldl
      | apply Keeps.foldl_fst | split | (refine Keeps.of_fst (by assumption) ?_)
      | (refine KeepsM.get (by assumption) ?_) | fail_if_no_progress (refine Keeps.upd ?_) | dsimp only

theorem State.poisoned_k {F : Part → Prop} {s0 : State} (s : State) (p : Pkt) (hk : Keeps F s0 s)
    (h_regs : F .regs := by assumption) (h_wk : F .wk := by assumption) : Keeps F s0 (State.poisoned s p) := by
  unfold State.poisoned
  try dsimp only
  with_reducible repeat' first
      | assumption | intro _ | apply Keeps.ite | apply State.bump_k | apply State.jobFault_k | apply KeepsM.foldl
      | apply Keeps.foldl | apply Keeps.foldl_fst | split | fail_if_no_progress (refine Keeps.upd ?_) | dsimp only

theorem State.strayed_k {F : Part → Prop} {s0 : State} (s : State) (p : Pkt) (hk : Keeps F s0 s)
    (h_regs : F .regs := by assumption) (h_wk : F .wk := by assumption) : Keeps F s0 (State.strayed s p) := by
  unfold State.strayed
  try dsimp only
  with_reducible repeat' first
      | assumption | intro _ | apply Keeps.ite | apply State.bump_k | apply State.jobFault_k | apply KeepsM.getD
      | apply KeepsM.foldl | apply KeepsM.bind | apply Keeps.foldl | apply Keeps.foldl_fst | split
      | (refine Keeps.of_fst (by assumption) ?_) | (refine KeepsM.get (by assumption) ?_)
      | (refine KeepsE.get (by assumption) ?_) | fail_if_no_progress (refine Keeps.upd ?_) | dsimp only

theorem State.accept_k {F : Part → Prop} {s0 : State} (s : State) (p : Pkt) (hk : Keeps F s0 s)
    (h_regs : F .regs := by assumption) (h_wk : F .wk := by assumption)
    (h_fb : F .fb := by assumption) : Keeps F s0 (State.accept s p).1 := by
  unfold State.accept
  try dsimp only
  with_reducible repeat' first
      | assumption | intro _ | apply Keeps.ite_fst | apply State.arrive_k | apply State.poisoned_k
      | apply State.strayed_k | apply KeepsM.getD | apply KeepsM.foldl | apply KeepsM.bind | apply Keeps.foldl
      | apply Keeps.foldl_fst | split | (refine Keeps.of_fst (by assumption) ?_)
      | (refine KeepsM.get (by assumption) ?_) | (refine KeepsE.get (by assumption) ?_)
      | fail_if_no_progress (refine Keeps.upd ?_) | dsimp only

theorem State.addScarry_k {F : Part → Prop} {s0 : State} (s : State) (bk : Nat) (p : Pkt) (hk : Keeps F s0 s)
    (h_evlog : F .evlog := by assumption) (h_regs : F .regs := by assumption) (h_live : F .live := by assumption)
    (h_mem : F .mem := by assumption) (h_boards : F .boards := by assumption) (h_wk : F .wk := by assumption)
    (h_fb : F .fb := by assumption) : Keeps F s0 (State.addScarry s bk p) := by
  unfold State.addScarry
  with_reducible repeat' first
      | assumption | apply State.addCounts_k | apply State.iterDone_k | apply State.addCarry_k | split

theorem State.takeCarry_k {F : Part → Prop} {s0 : State} (s : State) (bk : Nat) (p : Pkt) (hk : Keeps F s0 s)
    (h_evlog : F .evlog := by assumption) (h_regs : F .regs := by assumption) (h_live : F .live := by assumption)
    (h_mem : F .mem := by assumption) (h_boards : F .boards := by assumption) (h_wk : F .wk := by assumption)
    (h_fb : F .fb := by assumption) : Keeps F s0 (State.takeCarry s bk p) := by
  unfold State.takeCarry
  try dsimp only
  with_reducible repeat' first
      | assumption | intro _ | apply Keeps.ite | apply State.bump_k | apply State.setBoard_k | apply State.take_k
      | apply State.addScarry_k | split | fail_if_no_progress (refine Keeps.upd ?_) | dsimp only

theorem execCarryPacket_k {F : Part → Prop} {s0 : State} (p : Pkt) (s : State) (hk : Keeps F s0 s)
    (h_evlog : F .evlog := by assumption) (h_regs : F .regs := by assumption) (h_live : F .live := by assumption)
    (h_mem : F .mem := by assumption) (h_boards : F .boards := by assumption) (h_wk : F .wk := by assumption)
    (h_fb : F .fb := by assumption) : KeepsO F s0 (execCarryPacket p s) := by
  unfold execCarryPacket
  with_reducible repeat' first
      | assumption | apply KeepsO.next | apply State.accept_k | apply State.takeCarry_k | split
      | (refine Keeps.of_fst (by assumption) ?_)

theorem execCarryRetry_k {F : Part → Prop} {s0 : State} (d : Die) (b : Brd) (s : State) (hk : Keeps F s0 s)
    (h_evlog : F .evlog := by assumption) (h_regs : F .regs := by assumption) (h_live : F .live := by assumption)
    (h_mem : F .mem := by assumption) (h_boards : F .boards := by assumption) (h_wk : F .wk := by assumption)
    (h_fb : F .fb := by assumption) : KeepsO F s0 (execCarryRetry d b s) := by
  unfold execCarryRetry
  try dsimp only
  with_reducible repeat' first
      | assumption | apply KeepsO.next | apply State.setBoard_k | apply State.takeCarry_k | split

theorem execScarryPacket_k {F : Part → Prop} {s0 : State} (p : Pkt) (s : State) (hk : Keeps F s0 s)
    (h_evlog : F .evlog := by assumption) (h_regs : F .regs := by assumption) (h_live : F .live := by assumption)
    (h_mem : F .mem := by assumption) (h_boards : F .boards := by assumption) (h_wk : F .wk := by assumption)
    (h_fb : F .fb := by assumption) : KeepsO F s0 (execScarryPacket p s) := by
  unfold execScarryPacket
  with_reducible repeat' first
      | assumption | apply KeepsO.next | apply State.accept_k | apply State.takeCarry_k | split
      | (refine Keeps.of_fst (by assumption) ?_)

theorem execSfwdPacket_k {F : Part → Prop} {s0 : State} (p : Pkt) (s : State) (hk : Keeps F s0 s)
    (h_regs : F .regs := by assumption) (h_frames : F .frames := by assumption) (h_wk : F .wk := by assumption)
    (h_fb : F .fb := by assumption) : KeepsO F s0 (execSfwdPacket p s) := by
  unfold execSfwdPacket
  try dsimp only
  with_reducible repeat' first
      | assumption | intro _ | apply Keeps.ite | apply KeepsO.ite | apply KeepsO.next | apply State.setFrame_k
      | apply State.accept_k | split | (refine Keeps.of_fst (by assumption) ?_)
      | fail_if_no_progress (refine Keeps.upd ?_) | dsimp only

theorem State.actStore_k {F : Part → Prop} {s0 : State} (s : State) (bk : Nat) (p : Pkt) (hk : Keeps F s0 s)
    (h_mem : F .mem := by assumption) : Keeps F s0 (State.actStore s bk p) := by
  unfold State.actStore
  with_reducible repeat' first | assumption | apply State.store_k | apply State.take_k

theorem execActPacket_k {F : Part → Prop} {s0 : State} (p : Pkt) (s : State) (hk : Keeps F s0 s)
    (h_regs : F .regs := by assumption) (h_mem : F .mem := by assumption) (h_wk : F .wk := by assumption)
    (h_fb : F .fb := by assumption) : KeepsO F s0 (execActPacket p s) := by
  unfold execActPacket
  try dsimp only
  with_reducible repeat' first
      | assumption | intro _ | apply Keeps.ite | apply KeepsO.ite | apply KeepsO.next | apply State.bump_k
      | apply State.ackPacket_k | apply State.accept_k | apply State.actStore_k | apply KeepsM.getD
      | apply KeepsM.foldl | apply KeepsM.bind | apply Keeps.foldl | apply Keeps.foldl_fst | split
      | (refine Keeps.of_fst (by assumption) ?_) | (refine KeepsM.get (by assumption) ?_)
      | (refine KeepsE.get (by assumption) ?_) | fail_if_no_progress (refine Keeps.upd ?_) | dsimp only

theorem execMemRdPacket_k {F : Part → Prop} {s0 : State} (p : Pkt) (a n : Nat) (s : State) (hk : Keeps F s0 s)
    (h_regs : F .regs := by assumption) (h_wk : F .wk := by assumption)
    (h_fb : F .fb := by assumption) : KeepsO F s0 (execMemRdPacket p a n s) := by
  unfold execMemRdPacket
  try dsimp only
  with_reducible repeat' first
      | assumption | intro _ | apply Keeps.ite | apply KeepsO.ite | apply KeepsO.next | apply State.bump_k
      | apply State.jobFault_k | apply State.sendPkt_k | apply State.accept_k | apply KeepsM.getD | apply KeepsM.foldl
      | apply KeepsM.bind | apply Keeps.foldl | apply Keeps.foldl_fst | split
      | (refine Keeps.of_fst (by assumption) ?_) | (refine KeepsM.get (by assumption) ?_)
      | (refine KeepsE.get (by assumption) ?_) | fail_if_no_progress (refine Keeps.upd ?_) | dsimp only

theorem execMemWrPacket_k {F : Part → Prop} {s0 : State} (p : Pkt) (a : Nat) (s : State) (hk : Keeps F s0 s)
    (h_regs : F .regs := by assumption) (h_mem : F .mem := by assumption) (h_wk : F .wk := by assumption)
    (h_fb : F .fb := by assumption) (h_ms : F .ms := by assumption) : KeepsO F s0 (execMemWrPacket p a s) := by
  unfold execMemWrPacket
  try dsimp only
  with_reducible repeat' first
      | assumption | intro _ | apply Keeps.ite | apply KeepsO.ite | apply KeepsO.next | apply State.bump_k
      | apply State.jobFault_k | apply State.ackPacket_k | apply State.memWrite_k | apply State.accept_k
      | apply KeepsM.getD | apply KeepsM.foldl | apply KeepsM.bind | apply Keeps.foldl | apply Keeps.foldl_fst | split
      | (refine Keeps.of_fst (by assumption) ?_) | (refine KeepsM.get (by assumption) ?_)
      | (refine KeepsE.get (by assumption) ?_) | fail_if_no_progress (refine Keeps.upd ?_) | dsimp only

theorem execMemRspPacket_k {F : Part → Prop} {s0 : State} (p : Pkt) (s : State) (hk : Keeps F s0 s)
    (h_rdata : F .rdata := by assumption) (h_regs : F .regs := by assumption) (h_mem : F .mem := by assumption)
    (h_wk : F .wk := by assumption) (h_fb : F .fb := by assumption) : KeepsO F s0 (execMemRspPacket p s) := by
  unfold execMemRspPacket
  with_reducible repeat' first
      | assumption | apply KeepsO.next | apply State.accept_k | apply State.actStore_k | split
      | (refine Keeps.of_fst (by assumption) ?_) | fail_if_no_progress (refine Keeps.upd ?_)

theorem execMove_k {F : Part → Prop} {s0 : State} (d : Die) (b : Brd) (ecc : Bool) (s : State) (hk : Keeps F s0 s)
    (h_evlog : F .evlog := by assumption) (h_regs : F .regs := by assumption) (h_live : F .live := by assumption)
    (h_mem : F .mem := by assumption) (h_boards : F .boards := by assumption) (h_wk : F .wk := by assumption)
    (h_fb : F .fb := by assumption) (h_ms : F .ms := by assumption) : KeepsO F s0 (execMove d b ecc s) := by
  unfold execMove
  try dsimp only
  with_reducible repeat' first
      | assumption | intro _ | apply Keeps.ite | apply KeepsO.ite | apply KeepsO.next | apply State.bump_k
      | apply State.store_k | apply State.jobFault_k | apply State.eccFault_k | apply State.memWrite_k
      | apply State.finishEntry_k | apply State.poisoned_k | apply KeepsM.getD | apply KeepsM.foldl
      | apply KeepsM.bind | apply Keeps.foldl | apply Keeps.foldl_fst | split
      | (refine Keeps.of_fst (by assumption) ?_) | (refine KeepsM.get (by assumption) ?_)
      | (refine KeepsE.get (by assumption) ?_) | fail_if_no_progress (refine Keeps.upd ?_) | dsimp only

theorem execAmaxPacket_k {F : Part → Prop} {s0 : State} (p : Pkt) (s : State) (hk : Keeps F s0 s)
    (h_regs : F .regs := by assumption) (h_live : F .live := by assumption) (h_mem : F .mem := by assumption)
    (h_boards : F .boards := by assumption) (h_wk : F .wk := by assumption)
    (h_fb : F .fb := by assumption) : KeepsO F s0 (execAmaxPacket p s) := by
  unfold execAmaxPacket
  try dsimp only
  with_reducible repeat' first
      | assumption | intro _ | apply Keeps.ite | apply KeepsO.ite | apply KeepsO.next | apply State.putStrm_k
      | apply State.settleStrm_k | apply State.accept_k | apply KeepsM.getD | split
      | (refine Keeps.of_fst (by assumption) ?_) | fail_if_no_progress (refine Keeps.upd ?_) | dsimp only

theorem execSwitchPacket_k {F : Part → Prop} {s0 : State} (p : Pkt) (s : State) (hk : Keeps F s0 s)
    (h_regs : F .regs := by assumption) (h_wk : F .wk := by assumption)
    (h_fb : F .fb := by assumption) : KeepsO F s0 (execSwitchPacket p s) := by
  unfold execSwitchPacket
  with_reducible repeat' first
      | assumption | apply KeepsO.ite | apply KeepsO.next | apply State.putRec_k | apply State.ackPacket_k
      | apply State.accept_k | split | (refine Keeps.of_fst (by assumption) ?_)
      | (refine KeepsM.get (by assumption) ?_) | fail_if_no_progress (refine Keeps.upd ?_)

theorem State.putSwitch_k {F : Part → Prop} {s0 : State} (s : State) (w w' : Switch) (hk : Keeps F s0 s)
    (h_fb : F .fb := by assumption) : Keeps F s0 (State.putSwitch s w w') := by
  unfold State.putSwitch
  with_reducible repeat' first | assumption | fail_if_no_progress (refine Keeps.upd ?_)

theorem State.serve_k {F : Part → Prop} {s0 : State} (s : State) (w : Switch) (hk : Keeps F s0 s)
    (h_regs : F .regs := by assumption) (h_live : F .live := by assumption)
    (h_boards : F .boards := by assumption) : Keeps F s0 (State.serve s w) := by
  unfold State.serve
  with_reducible repeat' first | assumption | apply State.setReg_k | apply State.setLive_k | apply State.setBoard_k

theorem State.switchAcked_k {F : Part → Prop} {s0 : State} (s : State) (w : Switch) (hk : Keeps F s0 s)
    (h_regs : F .regs := by assumption) (h_live : F .live := by assumption) (h_boards : F .boards := by assumption)
    (h_fb : F .fb := by assumption) : Keeps F s0 (State.switchAcked s w) := by
  unfold State.switchAcked
  with_reducible repeat' first | assumption | apply State.putSwitch_k | apply State.serve_k

theorem State.ackSwitch_k {F : Part → Prop} {s0 : State} (s : State) (tag : Nat) (hk : Keeps F s0 s)
    (h_regs : F .regs := by assumption) (h_live : F .live := by assumption) (h_boards : F .boards := by assumption)
    (h_fb : F .fb := by assumption) : Keeps F s0 (State.ackSwitch s tag) := by
  unfold State.ackSwitch
  with_reducible repeat' first
      | assumption | apply Keeps.ite | apply State.putSwitch_k | apply State.switchAcked_k | split

theorem execAckPacket_k {F : Part → Prop} {s0 : State} (p : Pkt) (s : State) (hk : Keeps F s0 s)
    (h_regs : F .regs := by assumption) (h_live : F .live := by assumption) (h_boards : F .boards := by assumption)
    (h_wk : F .wk := by assumption) (h_fb : F .fb := by assumption) : KeepsO F s0 (execAckPacket p s) := by
  unfold execAckPacket
  try dsimp only
  with_reducible repeat' first
      | assumption | intro _ | apply Keeps.ite | apply KeepsO.ite | apply KeepsO.next | apply State.accept_k
      | apply State.ackSwitch_k | split | (refine Keeps.of_fst (by assumption) ?_)
      | fail_if_no_progress (refine Keeps.upd ?_) | dsimp only

theorem execReservedPacket_k {F : Part → Prop} {s0 : State} (p : Pkt) (s : State) (hk : Keeps F s0 s)
    (h_regs : F .regs := by assumption) (h_wk : F .wk := by assumption)
    (h_fb : F .fb := by assumption) : KeepsO F s0 (execReservedPacket p s) := by
  unfold execReservedPacket
  try dsimp only
  with_reducible repeat' first
      | assumption | intro _ | apply Keeps.ite | apply KeepsO.ite | apply KeepsO.next | apply State.bump_k
      | apply State.accept_k | split | (refine Keeps.of_fst (by assumption) ?_)
      | fail_if_no_progress (refine Keeps.upd ?_) | dsimp only

theorem State.loseLane_k {F : Part → Prop} {s0 : State} (s : State) (bk lane : Nat) (hk : Keeps F s0 s)
    (h_evlog : F .evlog := by assumption) (h_boards : F .boards := by assumption) (h_dies : F .dies := by assumption)
    (h_lg : F .lg := by assumption) (h_sv : F .sv := by assumption) : Keeps F s0 (State.loseLane s bk lane) := by
  unfold State.loseLane
  with_reducible repeat' first
      | assumption | intro _ | apply Keeps.ite | apply State.setBoard_k | apply State.setDie_k | apply State.log_k
      | apply State.mapSet_k | apply Keeps.foldl

theorem execPoisonPacket_k {F : Part → Prop} {s0 : State} (p : Pkt) (lane : Fin 4) (s : State) (hk : Keeps F s0 s)
    (h_evlog : F .evlog := by assumption) (h_regs : F .regs := by assumption) (h_boards : F .boards := by assumption)
    (h_dies : F .dies := by assumption) (h_wk : F .wk := by assumption) (h_fb : F .fb := by assumption)
    (h_lg : F .lg := by assumption) (h_sv : F .sv := by assumption) : KeepsO F s0 (execPoisonPacket p lane s) := by
  unfold execPoisonPacket
  try dsimp only
  with_reducible repeat' first
      | assumption | intro _ | apply Keeps.ite | apply KeepsO.ite | apply KeepsO.next | apply State.setDie_k
      | apply State.arrive_k | apply State.poisoned_k | apply State.loseLane_k | apply KeepsM.getD | split
      | fail_if_no_progress (refine Keeps.upd ?_) | dsimp only

theorem execLaneRoutingSwitch_k {F : Part → Prop} {s0 : State} (d : Die) (s : State) (hk : Keeps F s0 s)
    (h_regs : F .regs := by assumption) (h_dies : F .dies := by assumption)
    (h_fb : F .fb := by assumption) : KeepsO F s0 (execLaneRoutingSwitch d s) := by
  unfold execLaneRoutingSwitch
  try dsimp only
  with_reducible repeat' first
      | assumption | intro _ | apply Keeps.ite | apply KeepsO.ite | apply KeepsO.next | apply State.setDie_k
      | apply State.flow_k | split | fail_if_no_progress (refine Keeps.upd ?_) | dsimp only

end Sys2Proof.Machine
end

