-- ==== Sys2Proof/Laws/Keeps3.lean ====
section
/-! SUPPORT. Every operation and meaning of Links, Metrology, Calib, Tokens, ScoreCheck, Scores:
it leaves the queue alone, keeps the maps canonical, and changes only the parts its lemma names. -/

set_option Elab.async false

namespace Sys2Proof.Machine

theorem State.declareDown_k {F : Part → Prop} {s0 : State} (s : State) (k : Nat) (hk : Keeps F s0 s)
    (h_evlog : F .evlog := by assumption) (h_regs : F .regs := by assumption) (h_fb : F .fb := by assumption)
    (h_lg : F .lg := by assumption) (h_sv : F .sv := by assumption) : Keeps F s0 (State.declareDown s k) := by
  unfold State.declareDown
  with_reducible repeat' first
      | assumption | apply State.setLink_k | apply State.log_k | apply State.mapSet_k | apply State.setLinkState_k
      | split

theorem State.startTrain_k {F : Part → Prop} {s0 : State} (s : State) (k : Nat) (hk : Keeps F s0 s)
    (h_evlog : F .evlog := by assumption) (h_regs : F .regs := by assumption) (h_fb : F .fb := by assumption)
    (h_lg : F .lg := by assumption) (h_sv : F .sv := by assumption) : Keeps F s0 (State.startTrain s k) := by
  unfold State.startTrain
  with_reducible repeat' first
      | assumption | apply Keeps.ite | apply State.bump_k | apply State.setLink_k | apply State.setLinkState_k
      | apply State.declareDown_k

theorem State.linkAcked_k {F : Part → Prop} {s0 : State} (s : State) (k ack : Nat) (hk : Keeps F s0 s)
    (h_regs : F .regs := by assumption) (h_fb : F .fb := by assumption) : Keeps F s0 (State.linkAcked s k ack) := by
  unfold State.linkAcked
  try dsimp only
  with_reducible repeat' first
      | assumption | intro _ | apply Keeps.ite | apply State.putLink_k | split
      | fail_if_no_progress (refine Keeps.upd ?_) | dsimp only

theorem State.linkNaked_k {F : Part → Prop} {s0 : State} (s : State) (k ack : Nat) (hk : Keeps F s0 s)
    (h_evlog : F .evlog := by assumption) (h_regs : F .regs := by assumption) (h_fb : F .fb := by assumption)
    (h_lg : F .lg := by assumption) (h_sv : F .sv := by assumption) : Keeps F s0 (State.linkNaked s k ack) := by
  unfold State.linkNaked
  try dsimp only
  with_reducible repeat' first
      | assumption | intro _ | apply Keeps.ite | apply State.bump_k | apply State.setLink_k | apply State.startTrain_k
      | apply KeepsM.getD | apply KeepsM.foldl | apply KeepsM.bind | apply Keeps.foldl | apply Keeps.foldl_fst | split
      | (refine Keeps.of_fst (by assumption) ?_) | (refine KeepsM.get (by assumption) ?_)
      | (refine KeepsE.get (by assumption) ?_) | fail_if_no_progress (refine Keeps.upd ?_) | dsimp only

theorem State.creditFault_k {F : Part → Prop} {s0 : State} (s : State) (k : Nat) (hk : Keeps F s0 s)
    (h_evlog : F .evlog := by assumption) (h_regs : F .regs := by assumption) (h_fb : F .fb := by assumption)
    (h_lg : F .lg := by assumption) (h_sv : F .sv := by assumption) : Keeps F s0 (State.creditFault s k) := by
  unfold State.creditFault
  try dsimp only
  with_reducible repeat' first
      | assumption | intro _ | apply Keeps.ite | apply State.setReg_k | apply State.declareDown_k | apply KeepsM.getD
      | apply KeepsM.foldl | apply KeepsM.bind | apply Keeps.foldl | apply Keeps.foldl_fst | split
      | (refine Keeps.of_fst (by assumption) ?_) | (refine KeepsM.get (by assumption) ?_)
      | (refine KeepsE.get (by assumption) ?_) | fail_if_no_progress (refine Keeps.upd ?_) | dsimp only

theorem State.linkCredits_k {F : Part → Prop} {s0 : State} (s : State) (k : Nat) (cs : List Nat) (hk : Keeps F s0 s)
    (h_evlog : F .evlog := by assumption) (h_regs : F .regs := by assumption) (h_fb : F .fb := by assumption)
    (h_lg : F .lg := by assumption) (h_sv : F .sv := by assumption) : Keeps F s0 (State.linkCredits s k cs) := by
  unfold State.linkCredits
  try dsimp only
  with_reducible repeat' first
      | assumption | intro _ | apply Keeps.ite | apply State.setLink_k | apply State.creditFault_k | apply KeepsM.getD
      | apply KeepsM.foldl | apply KeepsM.bind | apply Keeps.foldl | apply Keeps.foldl_fst | split
      | (refine Keeps.of_fst (by assumption) ?_) | (refine KeepsM.get (by assumption) ?_)
      | (refine KeepsE.get (by assumption) ?_) | fail_if_no_progress (refine Keeps.upd ?_) | dsimp only

theorem execLinkFrameRx_k {F : Part → Prop} {s0 : State} (l : LinkEnd) (fr : LinkFrame) (s : State) (hk : Keeps F s0 s)
    (h_sent : F .sent := by assumption) (h_evlog : F .evlog := by assumption) (h_regs : F .regs := by assumption)
    (h_fb : F .fb := by assumption) (h_lg : F .lg := by assumption)
    (h_sv : F .sv := by assumption) : KeepsO F s0 (execLinkFrameRx l fr s) := by
  unfold execLinkFrameRx
  try dsimp only
  with_reducible repeat' first
      | assumption | intro _ | apply Keeps.ite | apply KeepsO.ite | apply KeepsO.next | apply State.bump_k
      | apply State.setLink_k | apply State.emit_k | apply State.release_k | apply State.linkAcked_k
      | apply State.linkNaked_k | apply State.linkCredits_k | apply KeepsM.getD | apply KeepsM.foldl
      | apply KeepsM.bind | apply Keeps.foldl | apply Keeps.foldl_fst | split
      | (refine Keeps.of_fst (by assumption) ?_) | (refine KeepsM.get (by assumption) ?_)
      | (refine KeepsE.get (by assumption) ?_) | fail_if_no_progress (refine Keeps.upd ?_) | dsimp only

theorem execLinkIdleFrame_k {F : Part → Prop} {s0 : State} (l : LinkEnd) (s : State) (hk : Keeps F s0 s)
    (h_sent : F .sent := by assumption) (h_fb : F .fb := by assumption) : KeepsO F s0 (execLinkIdleFrame l s) := by
  unfold execLinkIdleFrame
  with_reducible repeat' first
      | assumption | apply KeepsO.ite | apply KeepsO.next | apply State.setLink_k | apply State.emit_k

theorem execLinkRetrain_k {F : Part → Prop} {s0 : State} (l : LinkEnd) (s : State) (hk : Keeps F s0 s)
    (h_evlog : F .evlog := by assumption) (h_regs : F .regs := by assumption) (h_fb : F .fb := by assumption)
    (h_lg : F .lg := by assumption) (h_sv : F .sv := by assumption) : KeepsO F s0 (execLinkRetrain l s) := by
  unfold execLinkRetrain
  with_reducible repeat' first | assumption | apply KeepsO.next | apply State.startTrain_k

theorem State.linkUp_k {F : Part → Prop} {s0 : State} (s : State) (k : Nat) (hk : Keeps F s0 s)
    (h_regs : F .regs := by assumption) (h_fb : F .fb := by assumption) : Keeps F s0 (State.linkUp s k) := by
  unfold State.linkUp
  with_reducible repeat' first | assumption | apply State.setLink_k | apply State.setLinkState_k

theorem execLinkRetrainDone_k {F : Part → Prop} {s0 : State} (l : LinkEnd) (ok agree : Bool) (s : State) (hk : Keeps F s0 s)
    (h_evlog : F .evlog := by assumption) (h_regs : F .regs := by assumption) (h_fb : F .fb := by assumption)
    (h_lg : F .lg := by assumption)
    (h_sv : F .sv := by assumption) : KeepsO F s0 (execLinkRetrainDone l ok agree s) := by
  unfold execLinkRetrainDone
  try dsimp only
  with_reducible repeat' first
      | assumption | intro _ | apply Keeps.ite | apply KeepsO.ite | apply KeepsO.next | apply State.release_k
      | apply State.declareDown_k | apply State.creditFault_k | apply State.linkUp_k | apply KeepsM.getD
      | apply KeepsM.foldl | apply KeepsM.bind | apply Keeps.foldl | apply Keeps.foldl_fst | split
      | (refine Keeps.of_fst (by assumption) ?_) | (refine KeepsM.get (by assumption) ?_)
      | (refine KeepsE.get (by assumption) ?_) | fail_if_no_progress (refine Keeps.upd ?_) | dsimp only

theorem execLinkSilenceTimeout_k {F : Part → Prop} {s0 : State} (l : LinkEnd) (s : State) (hk : Keeps F s0 s)
    (h_evlog : F .evlog := by assumption) (h_regs : F .regs := by assumption) (h_fb : F .fb := by assumption)
    (h_lg : F .lg := by assumption) (h_sv : F .sv := by assumption) : KeepsO F s0 (execLinkSilenceTimeout l s) := by
  unfold execLinkSilenceTimeout
  with_reducible repeat' first | assumption | apply KeepsO.ite | apply KeepsO.next | apply State.declareDown_k

theorem execLinkDown_k {F : Part → Prop} {s0 : State} (l : LinkEnd) (s : State) (hk : Keeps F s0 s)
    (h_regs : F .regs := by assumption) (h_fb : F .fb := by assumption) : KeepsO F s0 (execLinkDown l s) := by
  unfold execLinkDown
  with_reducible repeat' first
      | assumption | apply KeepsO.ite | apply KeepsO.next | apply State.putLink_k
      | fail_if_no_progress (refine Keeps.upd ?_)

theorem State.rerouteHeld_k {F : Part → Prop} {s0 : State} (s : State) (k : Nat) (hk : Keeps F s0 s)
    (h_regs : F .regs := by assumption) (h_fb : F .fb := by assumption) : Keeps F s0 (State.rerouteHeld s k) := by
  unfold State.rerouteHeld
  try dsimp only
  with_reducible repeat' first
      | assumption | intro _ | intro _ | apply Keeps.ite | apply State.setLink_k | apply State.launch_k
      | apply KeepsM.getD | apply KeepsM.foldl | apply KeepsM.bind | apply Keeps.foldl | apply Keeps.foldl_fst | split
      | (refine Keeps.of_fst (by assumption) ?_) | (refine KeepsM.get (by assumption) ?_)
      | (refine KeepsE.get (by assumption) ?_) | fail_if_no_progress (refine Keeps.upd ?_) | dsimp only

theorem execRouteFenceComplete_k {F : Part → Prop} {s0 : State} (l : LinkEnd) (s : State) (hk : Keeps F s0 s)
    (h_regs : F .regs := by assumption)
    (h_fb : F .fb := by assumption) : KeepsO F s0 (execRouteFenceComplete l s) := by
  unfold execRouteFenceComplete State.passFrames State.unfence
  try dsimp only
  with_reducible repeat' first
      | assumption | apply State.reinject_k | intro _ | apply Keeps.ite | apply KeepsO.ite | apply KeepsO.next
      | apply State.setLink_k | apply State.flow_k | apply State.rerouteHeld_k | apply KeepsM.getD
      | apply KeepsM.foldl | apply KeepsM.bind | apply Keeps.foldl | apply Keeps.foldl_fst | split
      | (refine Keeps.of_fst (by assumption) ?_) | (refine KeepsM.get (by assumption) ?_)
      | (refine KeepsE.get (by assumption) ?_) | fail_if_no_progress (refine Keeps.upd ?_) | dsimp only

theorem execBeamCtlRetrain_k {F : Part → Prop} {s0 : State} (l : LinkEnd) (s : State) (hk : Keeps F s0 s)
    (h_evlog : F .evlog := by assumption) (h_regs : F .regs := by assumption) (h_fb : F .fb := by assumption)
    (h_lg : F .lg := by assumption) (h_sv : F .sv := by assumption) : KeepsO F s0 (execBeamCtlRetrain l s) := by
  unfold execBeamCtlRetrain
  with_reducible repeat' first | assumption | apply KeepsO.next | apply State.startTrain_k

theorem execBeamCtlDown_k {F : Part → Prop} {s0 : State} (l : LinkEnd) (s : State) (hk : Keeps F s0 s)
    (h_evlog : F .evlog := by assumption) (h_regs : F .regs := by assumption) (h_fb : F .fb := by assumption)
    (h_lg : F .lg := by assumption) (h_sv : F .sv := by assumption) : KeepsO F s0 (execBeamCtlDown l s) := by
  unfold execBeamCtlDown
  with_reducible repeat' first | assumption | apply KeepsO.next | apply State.declareDown_k

theorem execHeldPacketResend_k {F : Part → Prop} {s0 : State} (h : Hub) (s : State) (hk : Keeps F s0 s)
    (h_regs : F .regs := by assumption) (h_fb : F .fb := by assumption) : KeepsO F s0 (execHeldPacketResend h s) := by
  unfold execHeldPacketResend
  with_reducible repeat' first
      | assumption | intro _ | apply KeepsO.next | apply State.bump_k | apply State.setLink_k | apply State.launch_k
      | apply Keeps.foldl | split | fail_if_no_progress (refine Keeps.upd ?_)

theorem State.setConv_k {F : Part → Prop} {s0 : State} (s : State) (u n : Nat) (c : Conv) (hk : Keeps F s0 s)
    (h_mets : F .mets := by assumption) : Keeps F s0 (State.setConv s u n c) := by
  unfold State.setConv
  with_reducible repeat' first | assumption | apply State.setMet_k

theorem State.toEntry_k {F : Part → Prop} {s0 : State} (s : State) (u n k : Nat) (hk : Keeps F s0 s)
    (h_mets : F .mets := by assumption) : Keeps F s0 (State.toEntry s u n k) := by
  unfold State.toEntry
  try dsimp only
  with_reducible repeat' first
      | assumption | intro _ | apply Keeps.ite | apply State.off_k | apply State.setConv_k | split
      | (refine Keeps.of_fst (by assumption) ?_) | (refine KeepsM.get (by assumption) ?_)
      | fail_if_no_progress (refine Keeps.upd ?_) | dsimp only

theorem State.setTarget_k {F : Part → Prop} {s0 : State} (s : State) (u t : Nat) (hk : Keeps F s0 s)
    (h_regs : F .regs := by assumption) (h_mets : F .mets := by assumption) : Keeps F s0 (State.setTarget s u t) := by
  unfold State.setTarget
  with_reducible repeat' first | assumption | apply State.setRegN_k | apply State.setMet_k

theorem State.windows_k {F : Part → Prop} {s0 : State} (s : State) (u ch wset : Nat) (data : Int) (ovr : Option Bool) (hk : Keeps F s0 s)
    (h_evlog : F .evlog := by assumption)
    (h_regs : F .regs := by assumption) : Keeps F s0 (State.windows s u ch wset data ovr).1 := by
  unfold State.windows
  try dsimp only
  with_reducible repeat' first
      | assumption | intro _ | apply State.setReg_k | apply State.bump_k | apply State.log_k | apply Keeps.foldl_fst
      | split

theorem State.result_k {F : Part → Prop} {s0 : State} (s : State) (u n ch wset : Nat) (urg late : Bool) (data : Int) (ovr : Option Bool) (start : Nat) (hk : Keeps F s0 s)
    (h_evlog : F .evlog := by assumption) (h_regs : F .regs := by assumption)
    (h_mets : F .mets := by assumption) : Keeps F s0 (State.result s u n ch wset urg late data ovr start) := by
  unfold State.result
  try dsimp only
  with_reducible repeat' first
      | assumption | intro _ | apply Keeps.ite | apply State.setRegN_k | apply State.bump_k | apply State.setMet_k
      | apply State.setBoth_k | apply State.windows_k | split | (refine Keeps.of_fst (by assumption) ?_)
      | fail_if_no_progress (refine Keeps.upd ?_) | dsimp only

theorem State.beginConv_k {F : Part → Prop} {s0 : State} (s : State) (u n ch settle : Nat) (late : Bool) (hk : Keeps F s0 s)
    (h_live : F .live := by assumption)
    (h_mets : F .mets := by assumption) : Keeps F s0 (State.beginConv s u n ch settle late) := by
  unfold State.beginConv
  with_reducible repeat' first | assumption | apply State.setLive_k | apply State.setConv_k | split

theorem State.restConv_k {F : Part → Prop} {s0 : State} (s : State) (u n : Nat) (hk : Keeps F s0 s)
    (h_mets : F .mets := by assumption) : Keeps F s0 (State.restConv s u n) := by
  unfold State.restConv
  try dsimp only
  with_reducible repeat' first
      | assumption | intro _ | apply Keeps.ite | apply State.setConv_k | split
      | fail_if_no_progress (refine Keeps.upd ?_) | dsimp only

theorem execMetConversionEnd_k {F : Part → Prop} {s0 : State} (u : Unit34) (n : Fin 4) (raw : Fin 16777216) (ovr : Option Bool) (s : State) (hk : Keeps F s0 s)
    (h_evlog : F .evlog := by assumption) (h_regs : F .regs := by assumption) (h_live : F .live := by assumption)
    (h_mets : F .mets := by assumption) : KeepsO F s0 (execMetConversionEnd u n raw ovr s) := by
  unfold execMetConversionEnd
  try dsimp only
  with_reducible repeat' first
      | assumption | intro _ | apply Keeps.ite | apply KeepsO.ite | apply KeepsO.next | apply State.setConv_k
      | apply State.toEntry_k | apply State.result_k | apply State.beginConv_k | apply State.restConv_k
      | apply KeepsM.getD | split | (refine Keeps.of_fst (by assumption) ?_) | (refine KeepsM.get (by assumption) ?_)
      | fail_if_no_progress (refine Keeps.upd ?_) | dsimp only

theorem execMetEntryDelayEnd_k {F : Part → Prop} {s0 : State} (u : Unit34) (n : Fin 4) (s : State) (hk : Keeps F s0 s)
    (h_live : F .live := by assumption)
    (h_mets : F .mets := by assumption) : KeepsO F s0 (execMetEntryDelayEnd u n s) := by
  unfold execMetEntryDelayEnd
  try dsimp only
  with_reducible repeat' first
      | assumption | intro _ | apply Keeps.ite | apply KeepsO.ite | apply KeepsO.next | apply State.setConv_k
      | apply State.beginConv_k | apply State.restConv_k | split | (refine Keeps.of_fst (by assumption) ?_)
      | fail_if_no_progress (refine Keeps.upd ?_) | dsimp only

theorem execMetTrigger_k {F : Part → Prop} {s0 : State} (u : Unit34) (s : State) (hk : Keeps F s0 s)
    (h_regs : F .regs := by assumption) (h_live : F .live := by assumption)
    (h_mets : F .mets := by assumption) : KeepsO F s0 (execMetTrigger u s) := by
  unfold execMetTrigger
  try dsimp only
  with_reducible repeat' first
      | assumption | intro _ | apply Keeps.ite | apply KeepsO.ite | apply KeepsO.next | apply State.setMet_k
      | apply State.setConv_k | apply State.setTarget_k | apply State.beginConv_k | apply KeepsM.foldl
      | apply Keeps.foldl | apply Keeps.foldl_fst | split | fail_if_no_progress (refine Keeps.upd ?_) | dsimp only

theorem execMetExternalEvent_k {F : Part → Prop} {s0 : State} (fire : Bool) (s : State) (hk : Keeps F s0 s)
    (h_regs : F .regs := by assumption)
    (h_mets : F .mets := by assumption) : KeepsO F s0 (execMetExternalEvent fire s) := by
  unfold execMetExternalEvent
  with_reducible repeat' first
      | assumption | intro _ | apply KeepsO.next | apply State.setTarget_k | apply Keeps.foldl | split

theorem execMetUrgentRequest_k {F : Part → Prop} {s0 : State} (u : Unit34) (n : Fin 4) (w : Word) (s : State) (hk : Keeps F s0 s)
    (h_regs : F .regs := by assumption) (h_live : F .live := by assumption)
    (h_mets : F .mets := by assumption) : KeepsO F s0 (execMetUrgentRequest u n w s) := by
  unfold execMetUrgentRequest
  with_reducible repeat' first
      | assumption | apply KeepsO.ite | apply KeepsO.next | apply State.setReg_k | apply State.setLive_k
      | apply State.bump_k | apply State.setConv_k | split

theorem State.startSelfcal_k {F : Part → Prop} {s0 : State} (s : State) (u : Nat) (hk : Keeps F s0 s)
    (h_mets : F .mets := by assumption) : Keeps F s0 (State.startSelfcal s u) := by
  unfold State.startSelfcal
  with_reducible repeat' first | assumption | apply Keeps.ite | apply State.setMet_k

theorem execMetCmdSelfcal_k {F : Part → Prop} {s0 : State} (u : Unit34) (s : State) (hk : Keeps F s0 s)
    (h_mets : F .mets := by assumption) : KeepsO F s0 (execMetCmdSelfcal u s) := by
  unfold execMetCmdSelfcal
  with_reducible repeat' first | assumption | apply KeepsO.next | apply State.startSelfcal_k

theorem State.freshSensors_k {F : Part → Prop} {s0 : State} (s : State) (u : Nat) (hk : Keeps F s0 s)
    (h_th : F .th := by assumption) : Keeps F s0 (State.freshSensors s u) := by
  unfold State.freshSensors
  with_reducible repeat' first | assumption | intro _ | apply State.setSensor_k | apply Keeps.foldl

theorem State.moveEntries_k {F : Part → Prop} {s0 : State} (s : State) (u n : Nat) (hk : Keeps F s0 s)
    (h_regs : F .regs := by assumption)
    (h_mets : F .mets := by assumption) : Keeps F s0 (State.moveEntries s u n) := by
  unfold State.moveEntries
  try dsimp only
  with_reducible repeat' first
      | assumption | intro _ | apply Keeps.ite | apply State.setReg_k | apply State.off_k | apply State.toEntry_k
      | apply KeepsM.foldl | apply Keeps.foldl | apply Keeps.foldl_fst | split
      | (refine Keeps.of_fst (by assumption) ?_) | (refine KeepsM.get (by assumption) ?_)
      | fail_if_no_progress (refine Keeps.upd ?_) | dsimp only

theorem State.resumeEntry_k {F : Part → Prop} {s0 : State} (s : State) (u n : Nat) (hk : Keeps F s0 s)
    (h_mets : F .mets := by assumption) : Keeps F s0 (State.resumeEntry s u n) := by
  unfold State.resumeEntry
  try dsimp only
  with_reducible repeat' first
      | assumption | intro _ | apply Keeps.ite | apply State.setConv_k | apply State.toEntry_k | split
      | (refine Keeps.of_fst (by assumption) ?_) | fail_if_no_progress (refine Keeps.upd ?_) | dsimp only

theorem execMetSelfcalDone_k {F : Part → Prop} {s0 : State} (u : Unit34) (meas : List (Int × Int)) (s : State) (hk : Keeps F s0 s)
    (h_regs : F .regs := by assumption) (h_mets : F .mets := by assumption) (h_th : F .th := by assumption)
    (h_hl : F .hl := by assumption) : KeepsO F s0 (execMetSelfcalDone u meas s) := by
  unfold execMetSelfcalDone
  try dsimp only
  with_reducible repeat' first
      | assumption | intro _ | apply Keeps.ite | apply KeepsO.ite | apply KeepsO.next | apply State.setRegN_k
      | apply State.setMet_k | apply State.finish_k | apply State.unpend_k | apply State.setConv_k
      | apply State.freshSensors_k | apply State.moveEntries_k | apply State.resumeEntry_k | apply KeepsM.getD
      | apply KeepsM.foldl | apply Keeps.foldl | apply Keeps.foldl_fst | split
      | (refine Keeps.of_fst (by assumption) ?_) | (refine KeepsM.get (by assumption) ?_)
      | fail_if_no_progress (refine Keeps.upd ?_) | dsimp only

theorem execMetCmdFlush_k {F : Part → Prop} {s0 : State} (u : Unit34) (s : State) (hk : Keeps F s0 s)
    (h_mets : F .mets := by assumption) : KeepsO F s0 (execMetCmdFlush u s) := by
  unfold execMetCmdFlush
  with_reducible repeat' first | assumption | apply KeepsO.next | apply State.setMet_k

theorem execMetQRead_k {F : Part → Prop} {s0 : State} (u : Unit34) (s : State) (hk : Keeps F s0 s)
    (h_rdata : F .rdata := by assumption) (h_regs : F .regs := by assumption)
    (h_mets : F .mets := by assumption) : KeepsO F s0 (execMetQRead u s) := by
  unfold execMetQRead
  with_reducible repeat' first
      | assumption | apply KeepsO.next | apply State.setRegN_k | apply State.setMet_k | split
      | fail_if_no_progress (refine Keeps.upd ?_)

theorem execMetCtlWrite_k {F : Part → Prop} {s0 : State} (u : Unit34) (w : Word) (s : State) (hk : Keeps F s0 s)
    (h_regs : F .regs := by assumption)
    (h_mets : F .mets := by assumption) : KeepsO F s0 (execMetCtlWrite u w s) := by
  unfold execMetCtlWrite
  try dsimp only
  with_reducible repeat' first
      | assumption | intro _ | apply Keeps.ite | apply KeepsO.ite | apply KeepsO.next | apply State.setReg_k
      | apply State.off_k | apply State.setConv_k | apply State.toEntry_k | apply KeepsM.foldl | apply Keeps.foldl
      | apply Keeps.foldl_fst | split | (refine Keeps.of_fst (by assumption) ?_)
      | fail_if_no_progress (refine Keeps.upd ?_) | dsimp only

theorem execMetConverterWake_k {F : Part → Prop} {s0 : State} (u : Unit34) (n : Fin 4) (s : State) (hk : Keeps F s0 s)
    (h_mets : F .mets := by assumption) : KeepsO F s0 (execMetConverterWake u n s) := by
  unfold execMetConverterWake
  try dsimp only
  with_reducible repeat' first
      | assumption | intro _ | apply Keeps.ite | apply KeepsO.ite | apply KeepsO.next | apply State.setConv_k | split
      | (refine Keeps.of_fst (by assumption) ?_) | fail_if_no_progress (refine Keeps.upd ?_) | dsimp only

theorem execMetProbeWrite_k {F : Part → Prop} {s0 : State} (u : Unit34) (w : Word) (s : State) (hk : Keeps F s0 s)
    (h_regs : F .regs := by assumption) : KeepsO F s0 (execMetProbeWrite u w s) := by
  unfold execMetProbeWrite
  with_reducible repeat' first | assumption | apply KeepsO.next | apply State.setReg_k

theorem execMetIsrcWrite_k {F : Part → Prop} {s0 : State} (u : Unit34) (w : Word) (s : State) (hk : Keeps F s0 s)
    (h_regs : F .regs := by assumption) : KeepsO F s0 (execMetIsrcWrite u w s) := by
  unfold execMetIsrcWrite
  with_reducible repeat' first | assumption | apply KeepsO.next | apply State.setReg_k | split

theorem execMetWinStatClear_k {F : Part → Prop} {s0 : State} (u : Unit34) (w : Word) (s : State) (hk : Keeps F s0 s)
    (h_regs : F .regs := by assumption) : KeepsO F s0 (execMetWinStatClear u w s) := by
  unfold execMetWinStatClear
  with_reducible repeat' first | assumption | apply KeepsO.next | apply State.setReg_k

theorem State.porellTable_k {F : Part → Prop} {s0 : State} (s : State) (u interval : Nat) (hk : Keeps F s0 s)
    (h_regs : F .regs := by assumption) : Keeps F s0 (State.porellTable s u interval) := by
  unfold State.porellTable
  with_reducible repeat' first | assumption | intro _ | apply State.setReg_k | apply Keeps.foldl | split

theorem State.metStart_k {F : Part → Prop} {s0 : State} (s : State) (u : Nat) (hk : Keeps F s0 s)
    (h_regs : F .regs := by assumption) (h_mets : F .mets := by assumption) : Keeps F s0 (State.metStart s u) := by
  unfold State.metStart
  with_reducible repeat' first
      | assumption | intro _ | apply State.setReg_k | apply State.setRegN_k | apply State.setMet_k
      | apply State.startSelfcal_k | apply State.porellTable_k | apply Keeps.foldl

theorem execMetRead_k {F : Part → Prop} {s0 : State} (r : Req) (s : State) (hk : Keeps F s0 s)
    (h_fresh : F .fresh := by assumption) (h_regs : F .regs := by assumption)
    (h_hl : F .hl := by assumption) : KeepsO F s0 (execMetRead r s) := by
  unfold execMetRead
  try dsimp only
  with_reducible repeat' first
      | assumption | exact fun _ => by assumption | exact fun h => absurd h Bool.false_ne_true | intro _
      | apply Keeps.ite | apply KeepsO.ite | apply KeepsO.next | apply KeepsR.ite | apply KeepsR.refuse
      | apply KeepsR.fail | apply KeepsR.ok | apply KeepsR.pend | apply State.command_k | apply KeepsM.getD
      | apply KeepsM.foldl | apply KeepsM.bind | apply Keeps.foldl | apply Keeps.foldl_fst | split
      | (refine Keeps.of_fst (by assumption) ?_) | (refine KeepsM.get (by assumption) ?_)
      | (refine KeepsE.get (by assumption) ?_) | fail_if_no_progress (refine Keeps.upd ?_) | dsimp only

theorem State.writeEntry_k {F : Part → Prop} {s0 : State} (s : State) (u n k : Nat) (w : Word) (hk : Keeps F s0 s)
    (h_regs : F .regs := by assumption)
    (h_mets : F .mets := by assumption) : Keeps F s0 (State.writeEntry s u n k w) := by
  unfold State.writeEntry
  with_reducible repeat' first
      | assumption | apply Keeps.ite | apply State.setReg_k | apply State.off_k | apply State.toEntry_k

theorem execMetSeq_k {F : Part → Prop} {s0 : State} (r : Req) (s : State) (hk : Keeps F s0 s)
    (h_fresh : F .fresh := by assumption) (h_regs : F .regs := by assumption) (h_mets : F .mets := by assumption)
    (h_hl : F .hl := by assumption) (h_lg : F .lg := by assumption) : KeepsO F s0 (execMetSeq r s) := by
  unfold execMetSeq
  try dsimp only
  with_reducible repeat' first
      | assumption | exact fun _ => by assumption | exact fun h => absurd h Bool.false_ne_true | intro _
      | apply Keeps.ite | apply KeepsO.ite | apply KeepsO.next | apply KeepsR.ite | apply KeepsR.refuse
      | apply KeepsR.fail | apply KeepsR.ok | apply KeepsR.pend | apply State.command_k | apply State.writeEntry_k
      | apply KeepsM.getD | apply KeepsM.foldl | apply KeepsM.bind | apply Keeps.foldl | apply Keeps.foldl_fst | split
      | (refine Keeps.of_fst (by assumption) ?_) | (refine KeepsM.get (by assumption) ?_)
      | (refine KeepsE.get (by assumption) ?_) | fail_if_no_progress (refine Keeps.upd ?_) | dsimp only

theorem execMetWin_k {F : Part → Prop} {s0 : State} (r : Req) (s : State) (hk : Keeps F s0 s)
    (h_fresh : F .fresh := by assumption) (h_regs : F .regs := by assumption) (h_hl : F .hl := by assumption)
    (h_lg : F .lg := by assumption) : KeepsO F s0 (execMetWin r s) := by
  unfold execMetWin
  try dsimp only
  with_reducible repeat' first
      | assumption | exact fun _ => by assumption | exact fun h => absurd h Bool.false_ne_true | intro _
      | apply Keeps.ite | apply KeepsO.ite | apply KeepsO.next | apply KeepsR.ite | apply KeepsR.refuse
      | apply KeepsR.fail | apply KeepsR.ok | apply KeepsR.pend | apply State.setRegN_k | apply State.command_k
      | apply KeepsM.getD | apply KeepsM.foldl | apply KeepsM.bind | apply Keeps.foldl | apply Keeps.foldl_fst | split
      | (refine Keeps.of_fst (by assumption) ?_) | (refine KeepsM.get (by assumption) ?_)
      | (refine KeepsE.get (by assumption) ?_) | fail_if_no_progress (refine Keeps.upd ?_) | dsimp only

theorem execMetSelfcal_k {F : Part → Prop} {s0 : State} (r : Req) (s : State) (hk : Keeps F s0 s)
    (h_fresh : F .fresh := by assumption) (h_regs : F .regs := by assumption) (h_mets : F .mets := by assumption)
    (h_hl : F .hl := by assumption) : KeepsO F s0 (execMetSelfcal r s) := by
  unfold execMetSelfcal
  try dsimp only
  with_reducible repeat' first
      | assumption | exact fun _ => by assumption | exact fun h => absurd h Bool.false_ne_true | intro _
      | apply Keeps.ite | apply KeepsO.ite | apply KeepsO.next | apply KeepsR.ite | apply KeepsR.refuse
      | apply KeepsR.fail | apply KeepsR.ok | apply KeepsR.pend | apply State.command_k | apply State.startSelfcal_k
      | apply KeepsM.getD | apply KeepsM.foldl | apply KeepsM.bind | apply Keeps.foldl | apply Keeps.foldl_fst | split
      | (refine Keeps.of_fst (by assumption) ?_) | (refine KeepsM.get (by assumption) ?_)
      | (refine KeepsE.get (by assumption) ?_) | fail_if_no_progress (refine Keeps.upd ?_) | dsimp only

theorem execMetDump_k {F : Part → Prop} {s0 : State} (r : Req) (s : State) (hk : Keeps F s0 s)
    (h_fresh : F .fresh := by assumption) (h_sent : F .sent := by assumption) (h_regs : F .regs := by assumption)
    (h_mets : F .mets := by assumption) (h_hl : F .hl := by assumption)
    (h_wk : F .wk := by assumption) : KeepsO F s0 (execMetDump r s) := by
  unfold execMetDump
  try dsimp only
  with_reducible repeat' first
      | assumption | exact fun _ => by assumption | exact fun h => absurd h Bool.false_ne_true | intro _
      | apply Keeps.ite | apply KeepsO.ite | apply KeepsO.next | apply KeepsR.ite | apply KeepsR.refuse
      | apply KeepsR.fail | apply KeepsR.ok | apply KeepsR.pend | apply State.setMet_k | apply State.take_k
      | apply State.command_k | apply State.bulk_k | apply KeepsM.getD | apply KeepsM.foldl | apply KeepsM.bind
      | apply Keeps.foldl | apply Keeps.foldl_fst | split | (refine Keeps.of_fst (by assumption) ?_)
      | (refine KeepsM.get (by assumption) ?_) | (refine KeepsE.get (by assumption) ?_)
      | fail_if_no_progress (refine Keeps.upd ?_) | dsimp only

theorem State.failFrame_k {F : Part → Prop} {s0 : State} (s : State) (fk : Nat) (hk : Keeps F s0 s)
    (h_regs : F .regs := by assumption) (h_frames : F .frames := by assumption)
    (h_dies : F .dies := by assumption) : Keeps F s0 (State.failFrame s fk) := by
  unfold State.failFrame
  with_reducible repeat' first | assumption | apply State.setFrame_k | apply State.toRepair_k

theorem State.applyTrims_k {F : Part → Prop} {s0 : State} (s : State) (fk : Nat) (sums : List (Int × Int × Int)) (e : Int) (hk : Keeps F s0 s)
    (h_regs : F .regs := by assumption) (h_frames : F .frames := by assumption)
    (h_dies : F .dies := by assumption) : Keeps F s0 (State.applyTrims s fk sums e) := by
  unfold State.applyTrims
  try dsimp only
  with_reducible repeat' first
      | assumption | intro _ | apply Keeps.ite | apply State.setFrame_k | apply State.failFrame_k | apply KeepsM.getD
      | split | (refine Keeps.of_fst (by assumption) ?_) | (refine KeepsM.get (by assumption) ?_)
      | fail_if_no_progress (refine Keeps.upd ?_) | dsimp only

theorem State.applyGain_k {F : Part → Prop} {s0 : State} (s : State) (fk p : Nat) (m : List Int) (hk : Keeps F s0 s)
    (h_regs : F .regs := by assumption)
    (h_frames : F .frames := by assumption) : Keeps F s0 (State.applyGain s fk p m) := by
  unfold State.applyGain
  try dsimp only
  with_reducible repeat' first
      | assumption | intro _ | apply Keeps.ite | apply State.setReg_k | apply State.setFrame_k | apply KeepsM.getD
      | apply KeepsM.foldl | apply KeepsM.bind | apply Keeps.foldl | apply Keeps.foldl_fst | split
      | (refine Keeps.of_fst (by assumption) ?_) | (refine KeepsM.get (by assumption) ?_)
      | (refine KeepsE.get (by assumption) ?_) | fail_if_no_progress (refine Keeps.upd ?_) | dsimp only

theorem State.setSource_k {F : Part → Prop} {s0 : State} (s : State) (fk : Nat) (neg : Bool) (target : Nat) (held : Bool) (hk : Keeps F s0 s)
    (h_regs : F .regs := by assumption) : Keeps F s0 (State.setSource s fk neg target held) := by
  unfold State.setSource
  try dsimp only
  with_reducible repeat' first
      | assumption | intro _ | apply Keeps.ite | apply State.setReg_k | apply KeepsM.getD | apply KeepsM.foldl
      | apply KeepsM.bind | apply Keeps.foldl | apply Keeps.foldl_fst | split
      | (refine Keeps.of_fst (by assumption) ?_) | (refine KeepsM.get (by assumption) ?_)
      | (refine KeepsE.get (by assumption) ?_) | fail_if_no_progress (refine Keeps.upd ?_) | dsimp only

theorem State.readSource_k {F : Part → Prop} {s0 : State} (s : State) (fk : Nat) (neg : Bool) (hk : Keeps F s0 s)
    (h_fresh : F .fresh := by assumption) (h_evlog : F .evlog := by assumption) (h_regs : F .regs := by assumption)
    (h_mets : F .mets := by assumption) : Keeps F s0 (State.readSource s fk neg).1 := by
  unfold State.readSource
  try dsimp only
  with_reducible repeat' first
      | assumption | intro _ | apply Keeps.ite_fst | apply State.take_k | apply State.result_k
      | apply State.setSource_k | apply KeepsM.getD | apply KeepsM.foldl | apply KeepsM.bind | apply Keeps.foldl
      | apply Keeps.foldl_fst | split | (refine Keeps.of_fst (by assumption) ?_)
      | (refine KeepsM.get (by assumption) ?_) | (refine KeepsE.get (by assumption) ?_)
      | fail_if_no_progress (refine Keeps.upd ?_) | dsimp only

theorem State.measureSource_k {F : Part → Prop} {s0 : State} (s : State) (fk : Nat) (hk : Keeps F s0 s)
    (h_fresh : F .fresh := by assumption) (h_evlog : F .evlog := by assumption) (h_regs : F .regs := by assumption)
    (h_mets : F .mets := by assumption) : Keeps F s0 (State.measureSource s fk).1 := by
  unfold State.measureSource
  try dsimp only
  with_reducible repeat' first
      | assumption | intro _ | apply Keeps.ite_fst | apply State.setSource_k | apply State.readSource_k
      | apply KeepsM.getD | apply KeepsM.foldl | apply KeepsM.bind | apply Keeps.foldl | apply Keeps.foldl_fst | split
      | (refine Keeps.of_fst (by assumption) ?_) | (refine KeepsM.get (by assumption) ?_)
      | (refine KeepsE.get (by assumption) ?_) | fail_if_no_progress (refine Keeps.upd ?_) | dsimp only

theorem State.trimsOn_k {F : Part → Prop} {s0 : State} (s : State) (fk : Nat) (e : Int) (hk : Keeps F s0 s)
    (h_fresh : F .fresh := by assumption) (h_regs : F .regs := by assumption) (h_frames : F .frames := by assumption)
    (h_dies : F .dies := by assumption) : Keeps F s0 (State.trimsOn s fk e) := by
  unfold State.trimsOn
  try dsimp only
  with_reducible repeat' first
      | assumption | intro _ | apply Keeps.ite | apply State.take_k | apply State.applyTrims_k
      | apply State.setSource_k | apply KeepsM.getD | apply KeepsM.foldl | apply KeepsM.bind | apply Keeps.foldl
      | apply Keeps.foldl_fst | split | (refine Keeps.of_fst (by assumption) ?_)
      | (refine KeepsM.get (by assumption) ?_) | (refine KeepsE.get (by assumption) ?_)
      | fail_if_no_progress (refine Keeps.upd ?_) | dsimp only

theorem State.measureTrims_k {F : Part → Prop} {s0 : State} (s : State) (fk : Nat) (hk : Keeps F s0 s)
    (h_fresh : F .fresh := by assumption) (h_evlog : F .evlog := by assumption) (h_regs : F .regs := by assumption)
    (h_frames : F .frames := by assumption) (h_dies : F .dies := by assumption)
    (h_mets : F .mets := by assumption) : Keeps F s0 (State.measureTrims s fk) := by
  unfold State.measureTrims
  try dsimp only
  with_reducible repeat' first
      | assumption | intro _ | apply Keeps.ite | apply State.measureSource_k | apply State.trimsOn_k | split
      | (refine Keeps.of_fst (by assumption) ?_) | fail_if_no_progress (refine Keeps.upd ?_) | dsimp only

theorem State.choosePlane_k {F : Part → Prop} {s0 : State} (s : State) (fk p : Nat) (hk : Keeps F s0 s)
    (h_fresh : F .fresh := by assumption) (h_evlog : F .evlog := by assumption) (h_regs : F .regs := by assumption)
    (h_frames : F .frames := by assumption) : Keeps F s0 (State.choosePlane s fk p) := by
  unfold State.choosePlane
  try dsimp only
  with_reducible repeat' first
      | assumption | intro _ | apply Keeps.ite | apply State.setFrame_k | apply State.frameFault_k
      | apply State.selectPlane_k | apply KeepsM.getD | apply KeepsM.foldl | apply KeepsM.bind | apply Keeps.foldl
      | apply Keeps.foldl_fst | split | (refine Keeps.of_fst (by assumption) ?_)
      | (refine KeepsM.get (by assumption) ?_) | (refine KeepsE.get (by assumption) ?_)
      | fail_if_no_progress (refine Keeps.upd ?_) | dsimp only

theorem State.driveRows_k {F : Part → Prop} {s0 : State} (s : State) (fk : Nat) (v : List Int) (hk : Keeps F s0 s)
    (h_frames : F .frames := by assumption) : Keeps F s0 (State.driveRows s fk v) := by
  unfold State.driveRows
  try dsimp only
  with_reducible repeat' first
      | assumption | intro _ | apply Keeps.ite | apply State.setFrame_k | apply KeepsM.getD | apply KeepsM.foldl
      | apply KeepsM.bind | apply Keeps.foldl | apply Keeps.foldl_fst | split
      | (refine Keeps.of_fst (by assumption) ?_) | (refine KeepsM.get (by assumption) ?_)
      | (refine KeepsE.get (by assumption) ?_) | fail_if_no_progress (refine Keeps.upd ?_) | dsimp only

theorem State.calDrive_k {F : Part → Prop} {s0 : State} (s : State) (fk p : Nat) (hk : Keeps F s0 s)
    (h_fresh : F .fresh := by assumption) (h_evlog : F .evlog := by assumption) (h_regs : F .regs := by assumption)
    (h_frames : F .frames := by assumption) : Keeps F s0 (State.calDrive s fk p) := by
  unfold State.calDrive
  try dsimp only
  with_reducible repeat' first
      | assumption | intro _ | apply Keeps.ite | apply State.choosePlane_k | apply State.driveRows_k
      | apply KeepsM.getD | apply KeepsM.foldl | apply KeepsM.bind | apply Keeps.foldl | apply Keeps.foldl_fst | split
      | (refine Keeps.of_fst (by assumption) ?_) | (refine KeepsM.get (by assumption) ?_)
      | (refine KeepsE.get (by assumption) ?_) | fail_if_no_progress (refine Keeps.upd ?_) | dsimp only

theorem State.measureGain_k {F : Part → Prop} {s0 : State} (s : State) (fk p : Nat) (hk : Keeps F s0 s)
    (h_fresh : F .fresh := by assumption) (h_evlog : F .evlog := by assumption) (h_regs : F .regs := by assumption)
    (h_frames : F .frames := by assumption) : Keeps F s0 (State.measureGain s fk p) := by
  unfold State.measureGain
  try dsimp only
  with_reducible repeat' first
      | assumption | intro _ | apply Keeps.ite | apply State.take_k | apply State.applyGain_k | apply State.calDrive_k
      | apply KeepsM.getD | apply KeepsM.foldl | apply KeepsM.bind | apply Keeps.foldl | apply Keeps.foldl_fst | split
      | (refine Keeps.of_fst (by assumption) ?_) | (refine KeepsM.get (by assumption) ?_)
      | (refine KeepsE.get (by assumption) ?_) | fail_if_no_progress (refine Keeps.upd ?_) | dsimp only

theorem State.predictGains_k {F : Part → Prop} {s0 : State} (s : State) (fk : Nat) (ps : List Nat) (hk : Keeps F s0 s)
    (h_frames : F .frames := by assumption) : Keeps F s0 (State.predictGains s fk ps) := by
  unfold State.predictGains
  try dsimp only
  with_reducible repeat' first
      | assumption | intro _ | apply Keeps.ite | apply State.setFrame_k | apply KeepsM.getD | apply KeepsM.foldl
      | apply KeepsM.bind | apply Keeps.foldl | apply Keeps.foldl_fst | split
      | (refine Keeps.of_fst (by assumption) ?_) | (refine KeepsM.get (by assumption) ?_)
      | (refine KeepsE.get (by assumption) ?_) | fail_if_no_progress (refine Keeps.upd ?_) | dsimp only

theorem State.predict_k {F : Part → Prop} {s0 : State} (s : State) (fk : Nat) (hk : Keeps F s0 s)
    (h_frames : F .frames := by assumption) : Keeps F s0 (State.predict s fk) := by
  unfold State.predict
  try dsimp only
  with_reducible repeat' first
      | assumption | intro _ | apply Keeps.ite | apply State.predictGains_k | apply KeepsM.getD | apply KeepsM.foldl
      | apply KeepsM.bind | apply Keeps.foldl | apply Keeps.foldl_fst | split
      | (refine Keeps.of_fst (by assumption) ?_) | (refine KeepsM.get (by assumption) ?_)
      | (refine KeepsE.get (by assumption) ?_) | fail_if_no_progress (refine Keeps.upd ?_) | dsimp only

theorem State.writeBank_k {F : Part → Prop} {s0 : State} (s : State) (fk n epoch : Nat) (hk : Keeps F s0 s)
    (h_regs : F .regs := by assumption)
    (h_frames : F .frames := by assumption) : Keeps F s0 (State.writeBank s fk n epoch) := by
  unfold State.writeBank
  try dsimp only
  with_reducible repeat' first
      | assumption | intro _ | apply Keeps.ite | apply State.setReg_k | apply State.setRegN_k | apply State.setFrame_k
      | apply KeepsM.getD | apply KeepsM.foldl | apply KeepsM.bind | apply Keeps.foldl | apply Keeps.foldl_fst | split
      | (refine Keeps.of_fst (by assumption) ?_) | (refine KeepsM.get (by assumption) ?_)
      | (refine KeepsE.get (by assumption) ?_) | fail_if_no_progress (refine Keeps.upd ?_) | dsimp only

theorem State.publish_k {F : Part → Prop} {s0 : State} (s : State) (slot : Nat) (hk : Keeps F s0 s)
    (h_regs : F .regs := by assumption) (h_frames : F .frames := by assumption) (h_wk : F .wk := by assumption)
    (h_sv : F .sv := by assumption) : Keeps F s0 (State.publish s slot) := by
  unfold State.publish
  try dsimp only
  with_reducible repeat' first
      | assumption | intro _ | apply Keeps.ite | apply State.setScore_k | apply State.predict_k
      | apply State.writeBank_k | apply KeepsM.foldl | apply Keeps.foldl | apply Keeps.foldl_fst | split
      | fail_if_no_progress (refine Keeps.upd ?_) | dsimp only

theorem execCalPublication_k {F : Part → Prop} {s0 : State} (slot : Fin 64) (s : State) (hk : Keeps F s0 s)
    (h_regs : F .regs := by assumption) (h_frames : F .frames := by assumption) (h_wk : F .wk := by assumption)
    (h_sv : F .sv := by assumption) : KeepsO F s0 (execCalPublication slot s) := by
  unfold execCalPublication
  try dsimp only
  with_reducible repeat' first
      | assumption | intro _ | apply Keeps.ite | apply KeepsO.ite | apply KeepsO.next | apply State.publish_k | split
      | fail_if_no_progress (refine Keeps.upd ?_) | dsimp only

theorem State.holdFrame_k {F : Part → Prop} {s0 : State} (s : State) (fk : Nat) (hk : Keeps F s0 s)
    (h_frames : F .frames := by assumption) : Keeps F s0 (State.holdFrame s fk) := by
  unfold State.holdFrame
  try dsimp only
  with_reducible repeat' first
      | assumption | intro _ | apply Keeps.ite | apply State.setFrame_k | split
      | fail_if_no_progress (refine Keeps.upd ?_) | dsimp only

theorem State.freeFrame_k {F : Part → Prop} {s0 : State} (s : State) (fk : Nat) (hk : Keeps F s0 s)
    (h_frames : F .frames := by assumption) : Keeps F s0 (State.freeFrame s fk) := by
  unfold State.freeFrame
  try dsimp only
  with_reducible repeat' first
      | assumption | intro _ | apply Keeps.ite | apply State.setFrame_k | split
      | fail_if_no_progress (refine Keeps.upd ?_) | dsimp only

theorem State.publishDie_k {F : Part → Prop} {s0 : State} (s : State) (d : Nat) (hk : Keeps F s0 s)
    (h_regs : F .regs := by assumption) (h_frames : F .frames := by assumption) (h_wk : F .wk := by assumption)
    (h_sv : F .sv := by assumption) : Keeps F s0 (State.publishDie s d) := by
  unfold State.publishDie
  try dsimp only
  with_reducible repeat' first
      | assumption | intro _ | apply Keeps.ite | apply State.publish_k | apply KeepsM.foldl | apply Keeps.foldl
      | apply Keeps.foldl_fst | split | (refine Keeps.of_fst (by assumption) ?_)
      | fail_if_no_progress (refine Keeps.upd ?_) | dsimp only

theorem State.settleMeasure_k {F : Part → Prop} {s0 : State} (s : State) (d : Nat) (hk : Keeps F s0 s)
    (h_regs : F .regs := by assumption) (h_frames : F .frames := by assumption) (h_hl : F .hl := by assumption)
    (h_wk : F .wk := by assumption) (h_sv : F .sv := by assumption) : Keeps F s0 (State.settleMeasure s d) := by
  unfold State.settleMeasure
  try dsimp only
  with_reducible repeat' first
      | assumption | intro _ | apply Keeps.ite | apply State.finish_k | apply State.unpend_k
      | apply State.publishDie_k | apply KeepsM.foldl | apply Keeps.foldl | apply Keeps.foldl_fst | split
      | fail_if_no_progress (refine Keeps.upd ?_) | dsimp only

theorem State.trimStep_k {F : Part → Prop} {s0 : State} (s : State) (fk : Nat) (m : Measure) (hk : Keeps F s0 s)
    (h_fresh : F .fresh := by assumption) (h_regs : F .regs := by assumption) (h_frames : F .frames := by assumption)
    (h_dies : F .dies := by assumption) : Keeps F s0 (State.trimStep s fk m) := by
  unfold State.trimStep
  try dsimp only
  with_reducible repeat' first
      | assumption | intro _ | apply Keeps.ite | apply State.setFrame_k | apply State.take_k
      | apply State.applyTrims_k | apply State.setSource_k | apply State.freeFrame_k | apply KeepsM.getD
      | apply KeepsM.foldl | apply KeepsM.bind | apply Keeps.foldl | apply Keeps.foldl_fst | split
      | (refine Keeps.of_fst (by assumption) ?_) | (refine KeepsM.get (by assumption) ?_)
      | (refine KeepsE.get (by assumption) ?_) | fail_if_no_progress (refine Keeps.upd ?_) | dsimp only

theorem State.gainStep_k {F : Part → Prop} {s0 : State} (s : State) (fk p : Nat) (m : Measure) (hk : Keeps F s0 s)
    (h_fresh : F .fresh := by assumption) (h_evlog : F .evlog := by assumption) (h_regs : F .regs := by assumption)
    (h_frames : F .frames := by assumption) : Keeps F s0 (State.gainStep s fk p m) := by
  unfold State.gainStep
  try dsimp only
  with_reducible repeat' first
      | assumption | intro _ | apply Keeps.ite | apply State.setFrame_k | apply State.take_k | apply State.applyGain_k
      | apply State.calDrive_k | apply State.freeFrame_k | apply KeepsM.getD | apply KeepsM.foldl | apply KeepsM.bind
      | apply Keeps.foldl | apply Keeps.foldl_fst | split | (refine Keeps.of_fst (by assumption) ?_)
      | (refine KeepsM.get (by assumption) ?_) | (refine KeepsE.get (by assumption) ?_)
      | fail_if_no_progress (refine Keeps.upd ?_) | dsimp only

theorem State.readDriver_k {F : Part → Prop} {s0 : State} (s : State) (fk row : Nat) (hi mid lo : Int) (hk : Keeps F s0 s)
    (h_evlog : F .evlog := by assumption)
    (h_frames : F .frames := by assumption) : Keeps F s0 (State.readDriver s fk row hi mid lo) := by
  unfold State.readDriver
  try dsimp only
  with_reducible repeat' first
      | assumption | intro _ | apply Keeps.ite | apply State.setFrame_k | apply State.log_k | apply State.frameFault_k
      | apply State.readAt_k | split | fail_if_no_progress (refine Keeps.upd ?_) | dsimp only

theorem execCalStatus_k {F : Part → Prop} {s0 : State} (r : Req) (s : State) (hk : Keeps F s0 s)
    (h_fresh : F .fresh := by assumption) (h_regs : F .regs := by assumption)
    (h_hl : F .hl := by assumption) : KeepsO F s0 (execCalStatus r s) := by
  unfold execCalStatus
  try dsimp only
  with_reducible repeat' first
      | assumption | exact fun _ => by assumption | exact fun h => absurd h Bool.false_ne_true | intro _
      | apply Keeps.ite | apply KeepsO.ite | apply KeepsO.next | apply KeepsR.ite | apply KeepsR.refuse
      | apply KeepsR.fail | apply KeepsR.ok | apply KeepsR.pend | apply State.take_k | apply State.command_k
      | apply KeepsM.getD | apply KeepsM.foldl | apply KeepsM.bind | apply Keeps.foldl | apply Keeps.foldl_fst | split
      | (refine Keeps.of_fst (by assumption) ?_) | (refine KeepsM.get (by assumption) ?_)
      | (refine KeepsE.get (by assumption) ?_) | fail_if_no_progress (refine Keeps.upd ?_) | dsimp only

theorem execCalRecount_k {F : Part → Prop} {s0 : State} (r : Req) (s : State) (hk : Keeps F s0 s)
    (h_fresh : F .fresh := by assumption) (h_regs : F .regs := by assumption) (h_pw : F .pw := by assumption)
    (h_hl : F .hl := by assumption) (h_lg : F .lg := by assumption)
    (h_sv : F .sv := by assumption) : KeepsO F s0 (execCalRecount r s) := by
  unfold execCalRecount
  try dsimp only
  with_reducible repeat' first
      | assumption | exact fun _ => by assumption | exact fun h => absurd h Bool.false_ne_true | intro _
      | apply Keeps.ite | apply KeepsO.ite | apply KeepsO.next | apply KeepsR.ite | apply KeepsR.refuse
      | apply KeepsR.fail | apply KeepsR.ok | apply KeepsR.pend | apply State.command_k | apply State.savePolicy_k
      | apply KeepsM.getD | apply KeepsM.foldl | apply KeepsM.bind | apply Keeps.foldl | apply Keeps.foldl_fst | split
      | (refine Keeps.of_fst (by assumption) ?_) | (refine KeepsM.get (by assumption) ?_)
      | (refine KeepsE.get (by assumption) ?_) | fail_if_no_progress (refine Keeps.upd ?_) | dsimp only

theorem State.writeCalSet_k {F : Part → Prop} {s0 : State} (s : State) (kind : Nat) (body : List Byte) (hk : Keeps F s0 s)
    (h_regs : F .regs := by assumption)
    (h_lg : F .lg := by assumption) : Keeps F s0 (State.writeCalSet s kind body).1 := by
  unfold State.writeCalSet
  with_reducible repeat' first
      | assumption | apply State.ctrInc_k | apply State.ledgerPages_k | split
      | (refine Keeps.of_fst (by assumption) ?_)

set_option maxRecDepth 20000 in
theorem execCalRecal_k {F : Part → Prop} {s0 : State} (r : Req) (s : State) (hk : Keeps F s0 s)
    (h_fresh : F .fresh := by assumption) (h_regs : F .regs := by assumption) (h_pw : F .pw := by assumption)
    (h_hl : F .hl := by assumption) (h_lg : F .lg := by assumption) : KeepsO F s0 (execCalRecal r s) := by
  unfold execCalRecal
  refine KeepsO.next (State.command_k _ _ _ _ (fun t h => ?_) hk)
  split
  · exact .refuse
  split
  · exact .refuse
  split
  · exact .refuse
  have hw := State.writeCalSet_k (s0 := s0) (t.take 1) 1 t.recalSet (State.take_k _ h)
  generalize (t.take 1).writeCalSet 1 t.recalSet = p at hw ⊢
  obtain ⟨u, _ | _⟩ := p
  · exact .refuse
  · exact hw

theorem execCalFactory_k {F : Part → Prop} {s0 : State} (r : Req) (s : State) (hk : Keeps F s0 s)
    (h_fresh : F .fresh := by assumption) (h_regs : F .regs := by assumption) (h_pw : F .pw := by assumption)
    (h_hl : F .hl := by assumption) (h_lg : F .lg := by assumption) : KeepsO F s0 (execCalFactory r s) := by
  unfold execCalFactory
  try dsimp only
  with_reducible repeat' first
      | assumption | exact fun _ => by assumption | exact fun h => absurd h Bool.false_ne_true | intro _
      | apply Keeps.ite | apply KeepsO.ite | apply KeepsO.next | apply KeepsR.ite | apply KeepsR.refuse
      | apply KeepsR.fail | apply KeepsR.ok | apply KeepsR.pend | apply State.command_k | apply State.writeCalSet_k
      | apply KeepsM.getD | apply KeepsM.foldl | apply KeepsM.bind | apply Keeps.foldl | apply Keeps.foldl_fst | split
      | (refine Keeps.of_fst (by assumption) ?_) | (refine KeepsM.get (by assumption) ?_)
      | (refine KeepsE.get (by assumption) ?_) | fail_if_no_progress (refine Keeps.upd ?_) | dsimp only

theorem State.askMeasure_k {F : Part → Prop} {s0 : State} (s : State) (fk k : Nat) (hk : Keeps F s0 s)
    (h_frames : F .frames := by assumption) : Keeps F s0 (State.askMeasure s fk k) := by
  unfold State.askMeasure
  try dsimp only
  with_reducible repeat' first
      | assumption | intro _ | apply Keeps.ite | apply State.setFrame_k | split
      | fail_if_no_progress (refine Keeps.upd ?_) | dsimp only

theorem execCalMeasure_k {F : Part → Prop} {s0 : State} (r : Req) (s : State) (hk : Keeps F s0 s)
    (h_fresh : F .fresh := by assumption) (h_regs : F .regs := by assumption) (h_frames : F .frames := by assumption)
    (h_pw : F .pw := by assumption) (h_hl : F .hl := by assumption) : KeepsO F s0 (execCalMeasure r s) := by
  unfold execCalMeasure
  try dsimp only
  with_reducible repeat' first
      | assumption | exact fun _ => by assumption | exact fun h => absurd h Bool.false_ne_true | intro _
      | apply Keeps.ite | apply KeepsO.ite | apply KeepsO.next | apply KeepsR.ite | apply KeepsR.refuse
      | apply KeepsR.fail | apply KeepsR.ok | apply KeepsR.pend | apply State.command_k | apply State.askMeasure_k
      | apply KeepsM.getD | apply KeepsM.foldl | apply KeepsM.bind | apply Keeps.foldl | apply Keeps.foldl_fst | split
      | (refine Keeps.of_fst (by assumption) ?_) | (refine KeepsM.get (by assumption) ?_)
      | (refine KeepsE.get (by assumption) ?_) | fail_if_no_progress (refine Keeps.upd ?_) | dsimp only

theorem State.visitDraw_k {F : Part → Prop} {s0 : State} (s : State) (fk : Nat) (v : Recount) (need : Nat) (hk : Keeps F s0 s)
    (h_regs : F .regs := by assumption) (h_frames : F .frames := by assumption)
    (h_dies : F .dies := by assumption) : Keeps F s0 (State.visitDraw s fk v need).1 := by
  unfold State.visitDraw
  try dsimp only
  with_reducible repeat' first
      | assumption | intro _ | apply Keeps.ite_fst | apply State.setFrame_k | apply State.draw_k | split
      | (refine KeepsM.get (by assumption) ?_) | fail_if_no_progress (refine Keeps.upd ?_) | dsimp only

theorem State.recountRow_k {F : Part → Prop} {s0 : State} (s : State) (fk : Nat) (v : Recount) (hk : Keeps F s0 s)
    (h_fresh : F .fresh := by assumption) (h_evlog : F .evlog := by assumption) (h_regs : F .regs := by assumption)
    (h_frames : F .frames := by assumption) : Keeps F s0 (State.recountRow s fk v) := by
  unfold State.recountRow
  try dsimp only
  with_reducible repeat' first
      | assumption | intro _ | apply Keeps.ite | apply State.bump_k | apply State.setFrame_k | apply State.take_k
      | apply State.choosePlane_k | apply KeepsM.getD | apply KeepsM.foldl | apply KeepsM.bind | apply Keeps.foldl
      | apply Keeps.foldl_fst | split | (refine Keeps.of_fst (by assumption) ?_)
      | (refine KeepsM.get (by assumption) ?_) | (refine KeepsE.get (by assumption) ?_)
      | fail_if_no_progress (refine Keeps.upd ?_) | dsimp only

theorem State.spotStroke_k {F : Part → Prop} {s0 : State} (s : State) (fk : Nat) (v : Recount) (hk : Keeps F s0 s)
    (h_fresh : F .fresh := by assumption) (h_evlog : F .evlog := by assumption) (h_regs : F .regs := by assumption)
    (h_frames : F .frames := by assumption) : Keeps F s0 (State.spotStroke s fk v) := by
  unfold State.spotStroke
  try dsimp only
  with_reducible repeat' first
      | assumption | intro _ | apply Keeps.ite | apply State.setFrame_k | apply State.take_k
      | apply State.choosePlane_k | apply State.driveRows_k | apply KeepsM.getD | apply KeepsM.foldl
      | apply KeepsM.bind | apply Keeps.foldl | apply Keeps.foldl_fst | split
      | (refine Keeps.of_fst (by assumption) ?_) | (refine KeepsM.get (by assumption) ?_)
      | (refine KeepsE.get (by assumption) ?_) | fail_if_no_progress (refine Keeps.upd ?_) | dsimp only

theorem State.endSpots_k {F : Part → Prop} {s0 : State} (s : State) (fk : Nat) (v : Recount) (hk : Keeps F s0 s)
    (h_regs : F .regs := by assumption)
    (h_frames : F .frames := by assumption) : Keeps F s0 (State.endSpots s fk v) := by
  unfold State.endSpots
  try dsimp only
  with_reducible repeat' first
      | assumption | intro _ | apply Keeps.ite | apply State.bump_k | apply State.setFrame_k | apply KeepsM.getD
      | apply KeepsM.foldl | apply KeepsM.bind | apply Keeps.foldl | apply Keeps.foldl_fst | split
      | (refine Keeps.of_fst (by assumption) ?_) | (refine KeepsM.get (by assumption) ?_)
      | (refine KeepsE.get (by assumption) ?_) | fail_if_no_progress (refine Keeps.upd ?_) | dsimp only

theorem State.refreshPlane_k {F : Part → Prop} {s0 : State} (s : State) (fk p : Nat) (hk : Keeps F s0 s)
    (h_fresh : F .fresh := by assumption) (h_evlog : F .evlog := by assumption) (h_regs : F .regs := by assumption)
    (h_frames : F .frames := by assumption)
    (h_dies : F .dies := by assumption) : Keeps F s0 (State.refreshPlane s fk p) := by
  unfold State.refreshPlane
  try dsimp only
  with_reducible repeat' first
      | assumption | intro _ | apply Keeps.ite | apply State.consumeFirst_k | apply State.setHeader_k
      | apply State.measureGain_k | apply KeepsM.getD | apply KeepsM.foldl | apply KeepsM.bind | apply Keeps.foldl
      | apply Keeps.foldl_fst | split | (refine Keeps.of_fst (by assumption) ?_)
      | (refine KeepsM.get (by assumption) ?_) | (refine KeepsE.get (by assumption) ?_)
      | fail_if_no_progress (refine Keeps.upd ?_) | dsimp only

theorem State.endVisit_k {F : Part → Prop} {s0 : State} (s : State) (fk : Nat) (v : Recount) (hk : Keeps F s0 s)
    (h_fresh : F .fresh := by assumption) (h_evlog : F .evlog := by assumption) (h_regs : F .regs := by assumption)
    (h_frames : F .frames := by assumption) (h_dies : F .dies := by assumption) (h_lg : F .lg := by assumption)
    (h_sv : F .sv := by assumption) : Keeps F s0 (State.endVisit s fk v) := by
  unfold State.endVisit
  try dsimp only
  with_reducible repeat' first
      | assumption | intro _ | apply Keeps.ite | apply State.setFrame_k | apply State.log_k | apply State.retire_k
      | apply State.setHeader_k | apply State.freeFrame_k | apply State.endSpots_k | apply State.refreshPlane_k
      | apply KeepsM.getD | apply KeepsM.foldl | apply KeepsM.bind | apply Keeps.foldl | apply Keeps.foldl_fst | split
      | (refine Keeps.of_fst (by assumption) ?_) | (refine KeepsM.get (by assumption) ?_)
      | (refine KeepsE.get (by assumption) ?_) | fail_if_no_progress (refine Keeps.upd ?_) | dsimp only

theorem execRecountVisit_k {F : Part → Prop} {s0 : State} (d : Die) (b : Brd) (f : Frm) (p : Pln) (s : State) (hk : Keeps F s0 s)
    (h_fresh : F .fresh := by assumption) (h_evlog : F .evlog := by assumption) (h_regs : F .regs := by assumption)
    (h_frames : F .frames := by assumption) (h_dies : F .dies := by assumption) (h_lg : F .lg := by assumption)
    (h_sv : F .sv := by assumption) : KeepsO F s0 (execRecountVisit d b f p s) := by
  unfold execRecountVisit
  try dsimp only
  with_reducible repeat' first
      | assumption | intro _ | apply Keeps.ite | apply KeepsO.ite | apply KeepsO.next | apply State.setFrame_k
      | apply State.holdFrame_k | apply State.visitDraw_k | apply State.recountRow_k | apply State.spotStroke_k
      | apply State.endVisit_k | apply KeepsM.getD | apply KeepsM.foldl | apply KeepsM.bind | apply Keeps.foldl
      | apply Keeps.foldl_fst | split | (refine Keeps.of_fst (by assumption) ?_)
      | (refine KeepsM.get (by assumption) ?_) | (refine KeepsE.get (by assumption) ?_)
      | fail_if_no_progress (refine Keeps.upd ?_) | dsimp only

theorem State.refill_k {F : Part → Prop} {s0 : State} (s : State) (d grant : Nat) (hk : Keeps F s0 s)
    (h_regs : F .regs := by assumption)
    (h_dies : F .dies := by assumption) : Keeps F s0 (State.refill s d grant) := by
  unfold State.refill
  try dsimp only
  with_reducible repeat' first
      | assumption | intro _ | apply Keeps.ite | apply State.setRegN_k | apply State.setDie_k | apply KeepsM.getD
      | apply KeepsM.foldl | apply KeepsM.bind | apply Keeps.foldl | apply Keeps.foldl_fst | split
      | (refine Keeps.of_fst (by assumption) ?_) | (refine KeepsM.get (by assumption) ?_)
      | (refine KeepsE.get (by assumption) ?_) | fail_if_no_progress (refine Keeps.upd ?_) | dsimp only

theorem execTokenTick_k {F : Part → Prop} {s0 : State} (s : State) (hk : Keeps F s0 s)
    (h_fresh : F .fresh := by assumption) (h_regs : F .regs := by assumption)
    (h_dies : F .dies := by assumption) : KeepsO F s0 (execTokenTick s) := by
  unfold execTokenTick
  try dsimp only
  with_reducible repeat' first
      | assumption | intro _ | apply Keeps.ite | apply KeepsO.ite | apply KeepsO.next | apply State.take_k
      | apply State.setBoth_k | apply State.refill_k | apply KeepsM.foldl | apply Keeps.foldl | apply Keeps.foldl_fst
      | split | fail_if_no_progress (refine Keeps.upd ?_) | dsimp only

theorem State.shiftWatch_k {F : Part → Prop} {s0 : State} (s : State) (bk since id : Nat) (hk : Keeps F s0 s)
    (h_boards : F .boards := by assumption) : Keeps F s0 (State.shiftWatch s bk since id) := by
  unfold State.shiftWatch
  try dsimp only
  with_reducible repeat' first
      | assumption | intro _ | apply Keeps.ite | apply State.setBoard_k | apply KeepsM.getD | apply KeepsM.foldl
      | apply KeepsM.bind | apply Keeps.foldl | apply Keeps.foldl_fst | split
      | (refine Keeps.of_fst (by assumption) ?_) | (refine KeepsM.get (by assumption) ?_)
      | (refine KeepsE.get (by assumption) ?_) | fail_if_no_progress (refine Keeps.upd ?_) | dsimp only

theorem State.startWork_k {F : Part → Prop} {s0 : State} (s : State) (w : Draw) (hk : Keeps F s0 s)
    (h_fresh : F .fresh := by assumption) (h_evlog : F .evlog := by assumption) (h_regs : F .regs := by assumption)
    (h_live : F .live := by assumption) (h_frames : F .frames := by assumption)
    (h_boards : F .boards := by assumption) (h_dies : F .dies := by assumption)
    (h_wk : F .wk := by assumption) : Keeps F s0 (State.startWork s w) := by
  unfold State.startWork
  try dsimp only
  with_reducible repeat' first
      | assumption | intro _ | apply Keeps.ite | apply State.setFrame_k | apply State.setEntry_k
      | apply State.setStroke_k | apply State.startPart_k | apply State.shiftWatch_k | apply KeepsM.foldl
      | apply Keeps.foldl | apply Keeps.foldl_fst | split | (refine Keeps.of_fst (by assumption) ?_)
      | (refine KeepsM.get (by assumption) ?_) | fail_if_no_progress (refine Keeps.upd ?_) | dsimp only

theorem execTokenGrant_k {F : Part → Prop} {s0 : State} (d : Die) (s : State) (hk : Keeps F s0 s)
    (h_fresh : F .fresh := by assumption) (h_evlog : F .evlog := by assumption) (h_regs : F .regs := by assumption)
    (h_live : F .live := by assumption) (h_frames : F .frames := by assumption)
    (h_boards : F .boards := by assumption) (h_dies : F .dies := by assumption)
    (h_wk : F .wk := by assumption) : KeepsO F s0 (execTokenGrant d s) := by
  unfold execTokenGrant
  with_reducible repeat' first
      | assumption | apply KeepsO.ite | apply KeepsO.next | apply State.setDie_k | apply State.consume_k
      | apply State.consumeFirst_k | apply State.startWork_k | split

theorem execTokenBalanceCheck_k {F : Part → Prop} {s0 : State} (s : State) (hk : Keeps F s0 s)
    (h_sent : F .sent := by assumption) (h_evlog : F .evlog := by assumption) (h_regs : F .regs := by assumption)
    (h_hl : F .hl := by assumption) : KeepsO F s0 (execTokenBalanceCheck s) := by
  unfold execTokenBalanceCheck
  with_reducible repeat' first
      | assumption | intro _ | apply Keeps.ite | apply KeepsO.next | apply State.event_k | apply Keeps.foldl

theorem State.dropPool_k {F : Part → Prop} {s0 : State} (s : State) (d : Nat) (hk : Keeps F s0 s)
    (h_regs : F .regs := by assumption) (h_dies : F .dies := by assumption) : Keeps F s0 (State.dropPool s d) := by
  unfold State.dropPool
  with_reducible repeat' first | assumption | apply State.setRegN_k | apply State.setDie_k

theorem State.loadRegs_k {F : Part → Prop} {s0 : State} (s : State) (bk : Nat) (h : StageHdr) (i : BoardImg) (hk : Keeps F s0 s)
    (h_evlog : F .evlog := by assumption) (h_regs : F .regs := by assumption) (h_live : F .live := by assumption)
    (h_frames : F .frames := by assumption) : Keeps F s0 (State.loadRegs s bk h i) := by
  unfold State.loadRegs
  try dsimp only
  with_reducible repeat' first
      | assumption | intro _ | apply Keeps.ite | apply State.setReg_k | apply State.setFrame_k
      | apply State.applyCommit_k | apply State.scoreWrite_k | apply KeepsM.foldl | apply Keeps.foldl
      | apply Keeps.foldl_fst | split | (refine Keeps.of_fst (by assumption) ?_)
      | (refine KeepsM.get (by assumption) ?_) | fail_if_no_progress (refine Keeps.upd ?_) | dsimp only

theorem State.placeFrames_k {F : Part → Prop} {s0 : State} (s : State) (slot : Nat) (l : List (Nat × List Nat)) (hk : Keeps F s0 s)
    (h_frames : F .frames := by assumption) (h_wk : F .wk := by assumption) :
    KeepsE F s0 (s.placeFrames slot l) := by
  induction l generalizing s with
  | nil => exact .ok hk
  | cons x l ih =>
    unfold State.placeFrames
    dsimp only
    repeat' first
        | with_reducible assumption | with_reducible apply KeepsE.ite | with_reducible apply ih
        | with_reducible apply State.moveFrame_k | with_reducible apply KeepsE.error | split

theorem State.placeKv_k {F : Part → Prop} {s0 : State} (s : State) (slot : Nat) (ks : List KvPool) (hk : Keeps F s0 s)
    (h_wk : F .wk := by assumption) : Keeps F s0 (State.placeKv s slot ks) := by
  unfold State.placeKv
  try dsimp only
  with_reducible repeat' first | assumption | intro _ | apply State.setScore_k | apply Keeps.foldl

theorem State.clearBoard_k {F : Part → Prop} {s0 : State} (s : State) (bk : Nat) (hk : Keeps F s0 s)
    (h_regs : F .regs := by assumption) (h_live : F .live := by assumption) : Keeps F s0 (s.clearBoard bk) :=
  Keeps.mems (s := s) _ hk rfl id (mwf_filter _ _ _) (mwf_filter _ _ _) id (fun p => by cases p <;> first
      | exact .inl (by assumption) | exact .inr rfl)

theorem State.loadBoard_k {F : Part → Prop} {s0 : State} (s : State) (slot lb bk : Nat) (hk : Keeps F s0 s)
    (h_evlog : F .evlog := by assumption) (h_regs : F .regs := by assumption) (h_live : F .live := by assumption)
    (h_mem : F .mem := by assumption) (h_frames : F .frames := by assumption)
    (h_boards : F .boards := by assumption) : Keeps F s0 (State.loadBoard s slot lb bk) := by
  unfold State.loadBoard
  try dsimp only
  with_reducible repeat' first
      | assumption | intro _ | apply State.setBoard_k | apply State.store_k | apply State.writeFsw_k
      | apply State.loadRegs_k | apply State.clearBoard_k | apply State.stage_k | apply Keeps.foldl | split

theorem State.copyConfig_k {F : Part → Prop} {s0 : State} (s : State) (a b : Nat) (hk : Keeps F s0 s)
    (h_regs : F .regs := by assumption)
    (h_live : F .live := by assumption) : Keeps F s0 (State.copyConfig s a b) := by
  unfold State.copyConfig
  with_reducible repeat' first
      | assumption | intro _ | apply State.setReg_k | apply State.setLive_k | apply Keeps.foldl | split

theorem State.setScoreSt_k {F : Part → Prop} {s0 : State} (s : State) (slot st : Nat) (hk : Keeps F s0 s)
    (h_sent : F .sent := by assumption) (h_evlog : F .evlog := by assumption) (h_regs : F .regs := by assumption)
    (h_hl : F .hl := by assumption) (h_wk : F .wk := by assumption) : Keeps F s0 (State.setScoreSt s slot st) := by
  unfold State.setScoreSt
  try dsimp only
  with_reducible repeat' first
      | assumption | intro _ | apply Keeps.ite | apply State.setScore_k | apply State.event_k | apply KeepsM.getD
      | apply KeepsM.foldl | apply KeepsM.bind | apply Keeps.foldl | apply Keeps.foldl_fst | split
      | (refine Keeps.of_fst (by assumption) ?_) | (refine KeepsM.get (by assumption) ?_)
      | (refine KeepsE.get (by assumption) ?_) | fail_if_no_progress (refine Keeps.upd ?_) | dsimp only

theorem State.modeFromRecord_k {F : Part → Prop} {s0 : State} (s : State) (fk : Nat) (hk : Keeps F s0 s)
    (h_evlog : F .evlog := by assumption) (h_regs : F .regs := by assumption) (h_live : F .live := by assumption)
    (h_frames : F .frames := by assumption) : Keeps F s0 (State.modeFromRecord s fk) := by
  unfold State.modeFromRecord
  try dsimp only
  with_reducible repeat' first
      | assumption | intro _ | apply Keeps.ite | apply State.setReg_k | apply State.setFrame_k
      | apply State.applyCommit_k | apply KeepsM.getD | apply KeepsM.foldl | apply KeepsM.bind | apply Keeps.foldl
      | apply Keeps.foldl_fst | split | (refine Keeps.of_fst (by assumption) ?_)
      | (refine KeepsM.get (by assumption) ?_) | (refine KeepsE.get (by assumption) ?_)
      | fail_if_no_progress (refine Keeps.upd ?_) | dsimp only

theorem State.finishLoad_k {F : Part → Prop} {s0 : State} (s : State) (slot : Nat) (hk : Keeps F s0 s)
    (h_sent : F .sent := by assumption) (h_evlog : F .evlog := by assumption) (h_regs : F .regs := by assumption)
    (h_live : F .live := by assumption) (h_mem : F .mem := by assumption) (h_frames : F .frames := by assumption)
    (h_boards : F .boards := by assumption) (h_hl : F .hl := by assumption) (h_wk : F .wk := by assumption)
    (h_lg : F .lg := by assumption) (h_sv : F .sv := by assumption) : Keeps F s0 (State.finishLoad s slot) := by
  unfold State.finishLoad
  try dsimp only
  with_reducible repeat' first
      | assumption | intro _ | apply Keeps.ite | apply State.saveRecord_k | apply State.publish_k
      | apply State.loadBoard_k | apply State.copyConfig_k | apply State.setScoreSt_k | apply KeepsM.getD
      | apply KeepsM.foldl | apply KeepsM.bind | apply Keeps.foldl | apply Keeps.foldl_fst | split
      | (refine Keeps.of_fst (by assumption) ?_) | (refine KeepsM.get (by assumption) ?_)
      | (refine KeepsE.get (by assumption) ?_) | fail_if_no_progress (refine Keeps.upd ?_) | dsimp only

theorem State.loadOn_k {F : Part → Prop} {s0 : State} (s : State) (slot : Nat) (hk : Keeps F s0 s)
    (h_sent : F .sent := by assumption) (h_evlog : F .evlog := by assumption) (h_regs : F .regs := by assumption)
    (h_live : F .live := by assumption) (h_mem : F .mem := by assumption) (h_frames : F .frames := by assumption)
    (h_boards : F .boards := by assumption) (h_dies : F .dies := by assumption) (h_hl : F .hl := by assumption)
    (h_wk : F .wk := by assumption) (h_lg : F .lg := by assumption)
    (h_sv : F .sv := by assumption) : Keeps F s0 (State.loadOn s slot) := by
  unfold State.loadOn
  try dsimp only
  with_reducible repeat' first
      | assumption | intro _ | apply Keeps.ite | apply State.setScore_k | apply State.finish_k | apply State.unpend_k
      | apply State.nextPlane_k | apply State.finishLoad_k | apply KeepsM.getD | apply KeepsM.foldl
      | apply KeepsM.bind | apply Keeps.foldl | apply Keeps.foldl_fst | split
      | (refine Keeps.of_fst (by assumption) ?_) | (refine KeepsM.get (by assumption) ?_)
      | (refine KeepsE.get (by assumption) ?_) | fail_if_no_progress (refine Keeps.upd ?_) | dsimp only

theorem State.claim_k {F : Part → Prop} {s0 : State} (s : State) (slot : Nat) (kept : Bool) (hk : Keeps F s0 s)
    (h_frames : F .frames := by assumption) (h_boards : F .boards := by assumption)
    (h_wk : F .wk := by assumption) : KeepsE F s0 (State.claim s slot kept) := by
  unfold State.claim
  try dsimp only
  with_reducible repeat' first
      | assumption | intro _ | apply KeepsE.ite | apply KeepsE.error | apply KeepsE.ok | apply State.setFrame_k
      | apply State.setBoard_k | apply State.setScore_k | apply State.placeKv_k | apply State.placeFrames_k
      | apply KeepsM.foldl | apply Keeps.foldl | apply Keeps.foldl_fst | split
      | (refine Keeps.of_fst (by assumption) ?_) | (refine KeepsM.get (by assumption) ?_)
      | (refine KeepsE.get (by assumption) ?_) | fail_if_no_progress (refine Keeps.upd ?_) | dsimp only

theorem State.openFrames_k {F : Part → Prop} {s0 : State} (s : State) (slot : Nat) (kept : Bool) (hk : Keeps F s0 s)
    (h_evlog : F .evlog := by assumption) (h_regs : F .regs := by assumption) (h_live : F .live := by assumption)
    (h_frames : F .frames := by assumption)
    (h_dies : F .dies := by assumption) : Keeps F s0 (State.openFrames s slot kept) := by
  unfold State.openFrames
  try dsimp only
  with_reducible repeat' first
      | assumption | intro _ | apply Keeps.ite | apply State.setFrame_k | apply State.dropVisit_k
      | apply State.throughRepair_k | apply State.modeFromRecord_k | apply KeepsM.getD | apply KeepsM.foldl
      | apply KeepsM.bind | apply Keeps.foldl | apply Keeps.foldl_fst | split
      | (refine Keeps.of_fst (by assumption) ?_) | (refine KeepsM.get (by assumption) ?_)
      | (refine KeepsE.get (by assumption) ?_) | fail_if_no_progress (refine Keeps.upd ?_) | dsimp only

theorem execScoreLoad_k {F : Part → Prop} {s0 : State} (r : Req) (f : ScoreFile) (sig : Bool) (s : State) (hk : Keeps F s0 s)
    (h_fresh : F .fresh := by assumption) (h_sent : F .sent := by assumption) (h_evlog : F .evlog := by assumption)
    (h_regs : F .regs := by assumption) (h_live : F .live := by assumption) (h_mem : F .mem := by assumption)
    (h_frames : F .frames := by assumption) (h_boards : F .boards := by assumption)
    (h_dies : F .dies := by assumption) (h_pw : F .pw := by assumption) (h_hl : F .hl := by assumption)
    (h_wk : F .wk := by assumption) (h_fb : F .fb := by assumption) (h_lg : F .lg := by assumption)
    (h_sv : F .sv := by assumption) : KeepsO F s0 (execScoreLoad r f sig s) := by
  unfold execScoreLoad
  try dsimp only
  with_reducible repeat' first
      | assumption | exact fun _ => by assumption | exact fun h => absurd h Bool.false_ne_true | intro _
      | apply Keeps.ite | apply KeepsO.ite | apply KeepsO.next | apply KeepsR.ite | apply KeepsR.refuse
      | apply KeepsR.fail | apply KeepsR.ok | apply KeepsR.pend | apply State.bump_k | apply State.setScore_k
      | apply State.take_k | apply State.event_k | apply State.command_k | apply State.releaseScore_k
      | apply State.saveRecord_k | apply State.finishLoad_k | apply State.loadOn_k | apply State.claim_k
      | apply State.openFrames_k | apply KeepsM.getD | apply KeepsM.foldl | apply KeepsM.bind | apply Keeps.foldl
      | apply Keeps.foldl_fst | split | (refine Keeps.of_fst (by assumption) ?_)
      | (refine KeepsM.get (by assumption) ?_) | (refine KeepsE.get (by assumption) ?_)
      | fail_if_no_progress (refine Keeps.upd ?_) | dsimp only

theorem State.settleLoad_k {F : Part → Prop} {s0 : State} (s : State) (fk : Nat) (hk : Keeps F s0 s)
    (h_sent : F .sent := by assumption) (h_evlog : F .evlog := by assumption) (h_regs : F .regs := by assumption)
    (h_live : F .live := by assumption) (h_mem : F .mem := by assumption) (h_frames : F .frames := by assumption)
    (h_boards : F .boards := by assumption) (h_dies : F .dies := by assumption) (h_hl : F .hl := by assumption)
    (h_wk : F .wk := by assumption) (h_lg : F .lg := by assumption)
    (h_sv : F .sv := by assumption) : Keeps F s0 (State.settleLoad s fk) := by
  unfold State.settleLoad
  try dsimp only
  with_reducible repeat' first
      | assumption | intro _ | apply Keeps.ite | apply State.loadOn_k | apply KeepsM.getD | apply KeepsM.foldl
      | apply KeepsM.bind | apply Keeps.foldl | apply Keeps.foldl_fst | split
      | (refine Keeps.of_fst (by assumption) ?_) | (refine KeepsM.get (by assumption) ?_)
      | (refine KeepsE.get (by assumption) ?_) | fail_if_no_progress (refine Keeps.upd ?_) | dsimp only

theorem execMeasurementVisit_k {F : Part → Prop} {s0 : State} (d : Die) (b : Brd) (f : Frm) (k : Visit) (s : State) (hk : Keeps F s0 s)
    (h_fresh : F .fresh := by assumption) (h_sent : F .sent := by assumption) (h_evlog : F .evlog := by assumption)
    (h_regs : F .regs := by assumption) (h_live : F .live := by assumption) (h_mem : F .mem := by assumption)
    (h_frames : F .frames := by assumption) (h_boards : F .boards := by assumption)
    (h_dies : F .dies := by assumption) (h_mets : F .mets := by assumption) (h_hl : F .hl := by assumption)
    (h_wk : F .wk := by assumption) (h_lg : F .lg := by assumption)
    (h_sv : F .sv := by assumption) : KeepsO F s0 (execMeasurementVisit d b f k s) := by
  unfold execMeasurementVisit
  try dsimp only
  with_reducible repeat' first
      | assumption | intro _ | apply Keeps.ite | apply KeepsO.ite | apply KeepsO.next | apply State.setFrame_k
      | apply State.consumeFirst_k | apply State.setSource_k | apply State.measureSource_k | apply State.holdFrame_k
      | apply State.settleMeasure_k | apply State.trimStep_k | apply State.gainStep_k | apply State.readDriver_k
      | apply State.settleLoad_k | apply KeepsM.getD | apply KeepsM.foldl | apply KeepsM.bind | apply Keeps.foldl
      | apply Keeps.foldl_fst | split | (refine Keeps.of_fst (by assumption) ?_)
      | (refine KeepsM.get (by assumption) ?_) | (refine KeepsE.get (by assumption) ?_)
      | fail_if_no_progress (refine Keeps.upd ?_) | dsimp only

theorem execScoreAbort_k {F : Part → Prop} {s0 : State} (r : Req) (s : State) (hk : Keeps F s0 s)
    (h_fresh : F .fresh := by assumption) (h_sent : F .sent := by assumption) (h_evlog : F .evlog := by assumption)
    (h_regs : F .regs := by assumption) (h_frames : F .frames := by assumption)
    (h_boards : F .boards := by assumption) (h_dies : F .dies := by assumption) (h_pw : F .pw := by assumption)
    (h_hl : F .hl := by assumption) (h_wk : F .wk := by assumption) (h_fb : F .fb := by assumption)
    (h_lg : F .lg := by assumption) (h_sv : F .sv := by assumption) : KeepsO F s0 (execScoreAbort r s) := by
  unfold execScoreAbort
  try dsimp only
  with_reducible repeat' first
      | assumption | exact fun _ => by assumption | exact fun h => absurd h Bool.false_ne_true | intro _
      | apply Keeps.ite | apply KeepsO.ite | apply KeepsO.next | apply KeepsR.ite | apply KeepsR.refuse
      | apply KeepsR.fail | apply KeepsR.ok | apply KeepsR.pend | apply State.event_k | apply State.finish_k
      | apply State.unpend_k | apply State.command_k | apply State.releaseScore_k | apply KeepsM.getD
      | apply KeepsM.foldl | apply KeepsM.bind | apply Keeps.foldl | apply Keeps.foldl_fst | split
      | (refine Keeps.of_fst (by assumption) ?_) | (refine KeepsM.get (by assumption) ?_)
      | (refine KeepsE.get (by assumption) ?_) | fail_if_no_progress (refine Keeps.upd ?_) | dsimp only

set_option maxRecDepth 20000 in
theorem execScoreRetire_k {F : Part → Prop} {s0 : State} (r : Req) (s : State) (hk : Keeps F s0 s)
    (h_fresh : F .fresh := by assumption) (h_sent : F .sent := by assumption) (h_evlog : F .evlog := by assumption)
    (h_regs : F .regs := by assumption) (h_frames : F .frames := by assumption)
    (h_boards : F .boards := by assumption) (h_dies : F .dies := by assumption) (h_pw : F .pw := by assumption)
    (h_hl : F .hl := by assumption) (h_wk : F .wk := by assumption) (h_fb : F .fb := by assumption)
    (h_lg : F .lg := by assumption) (h_sv : F .sv := by assumption) : KeepsO F s0 (execScoreRetire r s) := by
  unfold execScoreRetire
  refine KeepsO.next (State.command_k _ _ _ _ (fun t h => ?_) hk)
  extract_lets slot st
  split
  · exact .refuse
  split
  · exact .refuse
  split
  · exact .refuse
  split
  · exact .refuse
  rename_i u _ _ _ _
  have hu : Keeps F s0 u := by
    with_reducible repeat' first
        | assumption | exact fun _ => by assumption | exact fun h => absurd h Bool.false_ne_true
        | apply State.releaseScore_k | apply State.setScoreSt_k
  clear_value u
  with_reducible repeat' first
      | assumption | exact fun _ => by assumption | exact fun h => absurd h Bool.false_ne_true | apply KeepsR.ok
      | apply State.event_k | apply State.saveRecord_k

theorem execScoreInfo_k {F : Part → Prop} {s0 : State} (r : Req) (s : State) (hk : Keeps F s0 s)
    (h_fresh : F .fresh := by assumption) (h_regs : F .regs := by assumption) (h_pw : F .pw := by assumption)
    (h_hl : F .hl := by assumption) : KeepsO F s0 (execScoreInfo r s) := by
  unfold execScoreInfo
  try dsimp only
  with_reducible repeat' first
      | assumption | exact fun _ => by assumption | exact fun h => absurd h Bool.false_ne_true | intro _
      | apply Keeps.ite | apply KeepsO.ite | apply KeepsO.next | apply KeepsR.ite | apply KeepsR.refuse
      | apply KeepsR.fail | apply KeepsR.ok | apply KeepsR.pend | apply State.command_k | apply KeepsM.getD
      | apply KeepsM.foldl | apply KeepsM.bind | apply Keeps.foldl | apply Keeps.foldl_fst | split
      | (refine Keeps.of_fst (by assumption) ?_) | (refine KeepsM.get (by assumption) ?_)
      | (refine KeepsE.get (by assumption) ?_) | fail_if_no_progress (refine Keeps.upd ?_) | dsimp only

theorem execScoreList_k {F : Part → Prop} {s0 : State} (r : Req) (s : State) (hk : Keeps F s0 s)
    (h_fresh : F .fresh := by assumption) (h_regs : F .regs := by assumption)
    (h_hl : F .hl := by assumption) : KeepsO F s0 (execScoreList r s) := by
  unfold execScoreList
  try dsimp only
  with_reducible repeat' first
      | assumption | exact fun _ => by assumption | exact fun h => absurd h Bool.false_ne_true | intro _
      | apply Keeps.ite | apply KeepsO.ite | apply KeepsO.next | apply KeepsR.ite | apply KeepsR.refuse
      | apply KeepsR.fail | apply KeepsR.ok | apply KeepsR.pend | apply State.command_k | apply KeepsM.getD
      | apply KeepsM.foldl | apply KeepsM.bind | apply Keeps.foldl | apply Keeps.foldl_fst | split
      | (refine Keeps.of_fst (by assumption) ?_) | (refine KeepsM.get (by assumption) ?_)
      | (refine KeepsE.get (by assumption) ?_) | fail_if_no_progress (refine Keeps.upd ?_) | dsimp only

end Sys2Proof.Machine
end

