-- ==== Sys2Proof/Laws/Keeps4.lean ====
section
/-! SUPPORT. Every operation and meaning of Sprinmos, Ports, DeviceCmds, PowerStates:
it leaves the queue alone, keeps the maps canonical, and changes only the parts its lemma names. -/

set_option Elab.async false

namespace Sys2Proof.Machine

theorem State.nakAnon_k {F : Part → Prop} {s0 : State} (s : State) (h : Nat) (e : Endpoint) (reason seq ring : Nat) (hk : Keeps F s0 s)
    (h_sent : F .sent := by assumption) (h_regs : F .regs := by assumption)
    (h_hl : F .hl := by assumption) : Keeps F s0 (State.nakAnon s h e reason seq ring) := by
  unfold State.nakAnon
  try dsimp only
  with_reducible repeat' first
      | assumption | intro _ | apply Keeps.ite | apply State.bump_k | apply State.setPort_k | apply State.sendFrame_k
      | apply KeepsM.getD | apply KeepsM.foldl | apply KeepsM.bind | apply Keeps.foldl | apply Keeps.foldl_fst | split
      | (refine Keeps.of_fst (by assumption) ?_) | (refine KeepsM.get (by assumption) ?_)
      | (refine KeepsE.get (by assumption) ?_) | fail_if_no_progress (refine Keeps.upd ?_) | dsimp only

theorem State.violate_k {F : Part → Prop} {s0 : State} (s : State) (h : Nat) (e : Endpoint) (k : Option Nat) (reason seq ring : Nat) (hk : Keeps F s0 s)
    (h_sent : F .sent := by assumption) (h_evlog : F .evlog := by assumption) (h_regs : F .regs := by assumption)
    (h_hl : F .hl := by assumption) (h_wk : F .wk := by assumption)
    (h_lg : F .lg := by assumption) : Keeps F s0 (State.violate s h e k reason seq ring) := by
  unfold State.violate
  try dsimp only
  with_reducible repeat' first
      | assumption | intro _ | apply Keeps.ite | apply State.bump_k | apply State.setSess_k | apply State.log_k
      | apply State.sendFrame_k | apply State.sendMsg_k | apply State.closeSess_k | apply State.nakAnon_k
      | apply KeepsM.getD | apply KeepsM.foldl | apply KeepsM.bind | apply Keeps.foldl | apply Keeps.foldl_fst | split
      | (refine Keeps.of_fst (by assumption) ?_) | (refine KeepsM.get (by assumption) ?_)
      | (refine KeepsE.get (by assumption) ?_) | fail_if_no_progress (refine Keeps.upd ?_) | dsimp only

theorem State.refuseMsg_k {F : Part → Prop} {s0 : State} (s : State) (k reason code seq ring : Nat) (hk : Keeps F s0 s)
    (h_sent : F .sent := by assumption) (h_regs : F .regs := by assumption)
    (h_hl : F .hl := by assumption) : Keeps F s0 (State.refuseMsg s k reason code seq ring) := by
  unfold State.refuseMsg
  with_reducible repeat' first | assumption | apply State.sendMsg_k

theorem State.sendAck_k {F : Part → Prop} {s0 : State} (s : State) (k : Nat) (hk : Keeps F s0 s)
    (h_sent : F .sent := by assumption) (h_regs : F .regs := by assumption) : Keeps F s0 (State.sendAck s k) := by
  unfold State.sendAck
  try dsimp only
  with_reducible repeat' first
      | assumption | intro _ | apply Keeps.ite | apply State.sendOn_k | apply KeepsM.getD | apply KeepsM.foldl
      | apply KeepsM.bind | apply Keeps.foldl | apply Keeps.foldl_fst | split
      | (refine Keeps.of_fst (by assumption) ?_) | (refine KeepsM.get (by assumption) ?_)
      | (refine KeepsE.get (by assumption) ?_) | fail_if_no_progress (refine Keeps.upd ?_) | dsimp only

theorem State.nextRx_k {F : Part → Prop} {s0 : State} (s : State) (k : Nat) (hk : Keeps F s0 s)
    (h_hl : F .hl := by assumption) : Keeps F s0 (State.nextRx s k) := by
  unfold State.nextRx
  try dsimp only
  with_reducible repeat' first
      | assumption | intro _ | apply Keeps.ite | apply State.setSess_k | apply KeepsM.getD | apply KeepsM.foldl
      | apply KeepsM.bind | apply Keeps.foldl | apply Keeps.foldl_fst | split
      | (refine Keeps.of_fst (by assumption) ?_) | (refine KeepsM.get (by assumption) ?_)
      | (refine KeepsE.get (by assumption) ?_) | fail_if_no_progress (refine Keeps.upd ?_) | dsimp only

theorem State.processed_k {F : Part → Prop} {s0 : State} (s : State) (k : Nat) (hk : Keeps F s0 s)
    (h_sent : F .sent := by assumption) (h_regs : F .regs := by assumption) : Keeps F s0 (State.processed s k) := by
  unfold State.processed
  try dsimp only
  with_reducible repeat' first
      | assumption | intro _ | apply Keeps.ite | apply State.sendAck_k | apply KeepsM.getD | apply KeepsM.foldl
      | apply KeepsM.bind | apply Keeps.foldl | apply Keeps.foldl_fst | split
      | (refine Keeps.of_fst (by assumption) ?_) | (refine KeepsM.get (by assumption) ?_)
      | (refine KeepsE.get (by assumption) ?_) | fail_if_no_progress (refine Keeps.upd ?_) | dsimp only

theorem State.rxCommand_k {F : Part → Prop} {s0 : State} (s : State) (k : Nat) (h : Hdr) (hk : Keeps F s0 s)
    (h_sent : F .sent := by assumption) (h_regs : F .regs := by assumption)
    (h_hl : F .hl := by assumption) : Keeps F s0 (State.rxCommand s k h) := by
  unfold State.rxCommand
  with_reducible repeat' first
      | assumption | apply State.sendMsg_k | apply State.mb0Put_k | apply State.processed_k | split
      | fail_if_no_progress (refine Keeps.upd ?_)

theorem State.rxPush_k {F : Part → Prop} {s0 : State} (s : State) (k port : Nat) (h : Hdr) (hk : Keeps F s0 s)
    (h_sent : F .sent := by assumption) (h_evlog : F .evlog := by assumption) (h_regs : F .regs := by assumption)
    (h_pw : F .pw := by assumption) (h_hl : F .hl := by assumption) (h_wk : F .wk := by assumption)
    (h_lg : F .lg := by assumption) (h_sv : F .sv := by assumption) : Keeps F s0 (State.rxPush s k port h) := by
  unfold State.rxPush
  try dsimp only
  with_reducible repeat' first
      | assumption | intro _ | apply Keeps.ite | apply State.wake_k | apply State.acceptDesc_k | apply State.violate_k
      | apply State.refuseMsg_k | apply State.processed_k | apply KeepsM.getD | apply KeepsM.foldl | apply KeepsM.bind
      | apply Keeps.foldl | apply Keeps.foldl_fst | split | (refine Keeps.of_fst (by assumption) ?_)
      | (refine KeepsM.get (by assumption) ?_) | (refine KeepsE.get (by assumption) ?_)
      | fail_if_no_progress (refine Keeps.upd ?_) | dsimp only

theorem State.rxData_k {F : Part → Prop} {s0 : State} (s : State) (k port : Nat) (h : Hdr) (hk : Keeps F s0 s)
    (h_sent : F .sent := by assumption) (h_evlog : F .evlog := by assumption) (h_regs : F .regs := by assumption)
    (h_hl : F .hl := by assumption) (h_wk : F .wk := by assumption)
    (h_lg : F .lg := by assumption) : Keeps F s0 (State.rxData s k port h) := by
  unfold State.rxData
  try dsimp only
  with_reducible repeat' first
      | assumption | intro _ | apply Keeps.ite | apply State.setHandle_k | apply State.violate_k
      | apply State.refuseMsg_k | apply State.processed_k | apply KeepsM.getD | apply KeepsM.foldl | apply KeepsM.bind
      | apply Keeps.foldl | apply Keeps.foldl_fst | split | (refine Keeps.of_fst (by assumption) ?_)
      | (refine KeepsM.get (by assumption) ?_) | (refine KeepsE.get (by assumption) ?_)
      | fail_if_no_progress (refine Keeps.upd ?_) | dsimp only

theorem State.resend_k {F : Part → Prop} {s0 : State} (s : State) (k x : Nat) (hk : Keeps F s0 s)
    (h_sent : F .sent := by assumption) (h_regs : F .regs := by assumption)
    (h_hl : F .hl := by assumption) : Keeps F s0 (State.resend s k x) := by
  unfold State.resend
  try dsimp only
  with_reducible repeat' first
      | assumption | intro _ | apply Keeps.ite | apply State.bump_k | apply State.setSess_k | apply State.sendOn_k
      | apply KeepsM.getD | apply KeepsM.foldl | apply KeepsM.bind | apply Keeps.foldl | apply Keeps.foldl_fst | split
      | (refine Keeps.of_fst (by assumption) ?_) | (refine KeepsM.get (by assumption) ?_)
      | (refine KeepsE.get (by assumption) ?_) | fail_if_no_progress (refine Keeps.upd ?_) | dsimp only

theorem State.rxNak_k {F : Part → Prop} {s0 : State} (s : State) (k port : Nat) (h : Hdr) (hk : Keeps F s0 s)
    (h_sent : F .sent := by assumption) (h_regs : F .regs := by assumption)
    (h_hl : F .hl := by assumption) : Keeps F s0 (State.rxNak s k port h) := by
  unfold State.rxNak
  with_reducible repeat' first
      | assumption | apply State.bump_k | apply State.processed_k | apply State.resend_k | split

theorem State.openSess_k {F : Part → Prop} {s0 : State} (s : State) (k : Nat) (m : Rx) (h : Hdr) (hk : Keeps F s0 s)
    (h_fresh : F .fresh := by assumption) (h_hl : F .hl := by assumption) : Keeps F s0 (State.openSess s k m h) := by
  unfold State.openSess
  with_reducible repeat' first | assumption | apply State.setSess_k | apply State.take_k

theorem State.rxOpen_k {F : Part → Prop} {s0 : State} (s : State) (k port : Nat) (h : Hdr) (hk : Keeps F s0 s)
    (h_sent : F .sent := by assumption) (h_evlog : F .evlog := by assumption) (h_regs : F .regs := by assumption)
    (h_pw : F .pw := by assumption) (h_hl : F .hl := by assumption) (h_wk : F .wk := by assumption)
    (h_lg : F .lg := by assumption) (h_sv : F .sv := by assumption) : Keeps F s0 (State.rxOpen s k port h) := by
  unfold State.rxOpen
  with_reducible repeat' first
      | assumption | apply Keeps.ite | apply State.bump_k | apply State.ackIn_k | apply State.violate_k
      | apply State.refuseMsg_k | apply State.sendAck_k | apply State.rxCommand_k | apply State.rxPush_k
      | apply State.rxData_k | apply State.rxNak_k | apply State.nextRx_k | split

theorem State.rxMessage_k {F : Part → Prop} {s0 : State} (s : State) (m : Rx) (hk : Keeps F s0 s)
    (h_fresh : F .fresh := by assumption) (h_sent : F .sent := by assumption) (h_evlog : F .evlog := by assumption)
    (h_regs : F .regs := by assumption) (h_pw : F .pw := by assumption) (h_hl : F .hl := by assumption)
    (h_wk : F .wk := by assumption) (h_lg : F .lg := by assumption)
    (h_sv : F .sv := by assumption) : Keeps F s0 (State.rxMessage s m) := by
  unfold State.rxMessage
  try dsimp only
  with_reducible repeat' first
      | assumption | intro _ | apply Keeps.ite | apply State.bump_k | apply State.setSess_k | apply State.closeSess_k
      | apply State.violate_k | apply State.openSess_k | apply State.rxOpen_k | apply KeepsM.getD | apply KeepsM.foldl
      | apply KeepsM.bind | apply Keeps.foldl | apply Keeps.foldl_fst | split
      | (refine Keeps.of_fst (by assumption) ?_) | (refine KeepsM.get (by assumption) ?_)
      | (refine KeepsE.get (by assumption) ?_) | fail_if_no_progress (refine Keeps.upd ?_) | dsimp only

theorem execSprinmosCommand_k {F : Part → Prop} {s0 : State} (m : Rx) (s : State) (hk : Keeps F s0 s)
    (h_fresh : F .fresh := by assumption) (h_sent : F .sent := by assumption) (h_evlog : F .evlog := by assumption)
    (h_regs : F .regs := by assumption) (h_pw : F .pw := by assumption) (h_hl : F .hl := by assumption)
    (h_wk : F .wk := by assumption) (h_lg : F .lg := by assumption)
    (h_sv : F .sv := by assumption) : KeepsO F s0 (execSprinmosCommand m s) := by
  unfold execSprinmosCommand
  with_reducible repeat' first | assumption | apply KeepsO.next | apply State.rxMessage_k | split

theorem execRingPush_k {F : Part → Prop} {s0 : State} (m : Rx) (s : State) (hk : Keeps F s0 s)
    (h_fresh : F .fresh := by assumption) (h_sent : F .sent := by assumption) (h_evlog : F .evlog := by assumption)
    (h_regs : F .regs := by assumption) (h_pw : F .pw := by assumption) (h_hl : F .hl := by assumption)
    (h_wk : F .wk := by assumption) (h_lg : F .lg := by assumption)
    (h_sv : F .sv := by assumption) : KeepsO F s0 (execRingPush m s) := by
  unfold execRingPush
  with_reducible repeat' first | assumption | apply KeepsO.next | apply State.rxMessage_k | split

theorem execDataMessage_k {F : Part → Prop} {s0 : State} (m : Rx) (s : State) (hk : Keeps F s0 s)
    (h_fresh : F .fresh := by assumption) (h_sent : F .sent := by assumption) (h_evlog : F .evlog := by assumption)
    (h_regs : F .regs := by assumption) (h_pw : F .pw := by assumption) (h_hl : F .hl := by assumption)
    (h_wk : F .wk := by assumption) (h_lg : F .lg := by assumption)
    (h_sv : F .sv := by assumption) : KeepsO F s0 (execDataMessage m s) := by
  unfold execDataMessage
  with_reducible repeat' first | assumption | apply KeepsO.next | apply State.rxMessage_k | split

theorem execHostAck_k {F : Part → Prop} {s0 : State} (m : Rx) (s : State) (hk : Keeps F s0 s)
    (h_fresh : F .fresh := by assumption) (h_sent : F .sent := by assumption) (h_evlog : F .evlog := by assumption)
    (h_regs : F .regs := by assumption) (h_pw : F .pw := by assumption) (h_hl : F .hl := by assumption)
    (h_wk : F .wk := by assumption) (h_lg : F .lg := by assumption)
    (h_sv : F .sv := by assumption) : KeepsO F s0 (execHostAck m s) := by
  unfold execHostAck
  with_reducible repeat' first | assumption | apply KeepsO.next | apply State.rxMessage_k | split

theorem execHostNak_k {F : Part → Prop} {s0 : State} (m : Rx) (s : State) (hk : Keeps F s0 s)
    (h_fresh : F .fresh := by assumption) (h_sent : F .sent := by assumption) (h_evlog : F .evlog := by assumption)
    (h_regs : F .regs := by assumption) (h_pw : F .pw := by assumption) (h_hl : F .hl := by assumption)
    (h_wk : F .wk := by assumption) (h_lg : F .lg := by assumption)
    (h_sv : F .sv := by assumption) : KeepsO F s0 (execHostNak m s) := by
  unfold execHostNak
  with_reducible repeat' first | assumption | apply KeepsO.next | apply State.rxMessage_k | split

theorem State.respond_k {F : Part → Prop} {s0 : State} (s : State) (h : Nat) (hk : Keeps F s0 s)
    (h_fresh : F .fresh := by assumption) (h_sent : F .sent := by assumption) (h_regs : F .regs := by assumption)
    (h_hl : F .hl := by assumption) : Keeps F s0 (State.respond s h) := by
  unfold State.respond
  try dsimp only
  with_reducible repeat' first
      | assumption | apply State.take_k | apply State.sendMsg_k | split | fail_if_no_progress (refine Keeps.upd ?_)

theorem State.respondAll_k {F : Part → Prop} {s0 : State} (s : State) (hk : Keeps F s0 s)
    (h_fresh : F .fresh := by assumption) (h_sent : F .sent := by assumption) (h_regs : F .regs := by assumption)
    (h_hl : F .hl := by assumption) : Keeps F s0 (State.respondAll s) := by
  unfold State.respondAll
  with_reducible repeat' first | assumption | intro _ | apply State.respond_k | apply Keeps.foldl | split

theorem execCommandResponse_k {F : Part → Prop} {s0 : State} (h : Hub) (s : State) (hk : Keeps F s0 s)
    (h_fresh : F .fresh := by assumption) (h_sent : F .sent := by assumption) (h_regs : F .regs := by assumption)
    (h_hl : F .hl := by assumption) : KeepsO F s0 (execCommandResponse h s) := by
  unfold execCommandResponse
  with_reducible repeat' first | assumption | apply KeepsO.next | apply State.respond_k

theorem execRetransmitTimeout_k {F : Part → Prop} {s0 : State} (h : Hub) (n : Fin 16) (s : State) (hk : Keeps F s0 s)
    (h_sent : F .sent := by assumption) (h_regs : F .regs := by assumption) (h_hl : F .hl := by assumption)
    (h_wk : F .wk := by assumption) (h_lg : F .lg := by assumption) : KeepsO F s0 (execRetransmitTimeout h n s) := by
  unfold execRetransmitTimeout
  try dsimp only
  with_reducible repeat' first
      | assumption | intro _ | apply Keeps.ite | apply KeepsO.ite | apply KeepsO.next | apply State.bump_k
      | apply State.setSess_k | apply State.sendOn_k | apply State.closeSess_k | apply KeepsM.getD
      | apply KeepsM.foldl | apply KeepsM.bind | apply Keeps.foldl | apply Keeps.foldl_fst | split
      | (refine Keeps.of_fst (by assumption) ?_) | (refine KeepsM.get (by assumption) ?_)
      | (refine KeepsE.get (by assumption) ?_) | fail_if_no_progress (refine Keeps.upd ?_) | dsimp only

theorem execSessionIdleTimeout_k {F : Part → Prop} {s0 : State} (h : Hub) (n : Fin 16) (s : State) (hk : Keeps F s0 s)
    (h_regs : F .regs := by assumption) (h_hl : F .hl := by assumption) (h_wk : F .wk := by assumption)
    (h_lg : F .lg := by assumption) : KeepsO F s0 (execSessionIdleTimeout h n s) := by
  unfold execSessionIdleTimeout
  with_reducible repeat' first | assumption | apply KeepsO.next | apply State.closeSess_k | split

theorem execThrottleExpiry_k {F : Part → Prop} {s0 : State} (h : Hub) (n : Fin 16) (s : State) (hk : Keeps F s0 s)
    (h_hl : F .hl := by assumption) : KeepsO F s0 (execThrottleExpiry h n s) := by
  unfold execThrottleExpiry
  try dsimp only
  with_reducible repeat' first | assumption | apply KeepsO.next | apply State.setSess_k | split

theorem State.setRk_k {F : Part → Prop} {s0 : State} (s : State) (x : Nat) (w : Word) (hk : Keeps F s0 s)
    (h_regs : F .regs := by assumption) : Keeps F s0 (State.setRk s x w) := by
  unfold State.setRk
  with_reducible repeat' first | assumption | apply State.setReg_k

theorem State.setRkSrc_k {F : Part → Prop} {s0 : State} (s : State) (n : Nat) (hk : Keeps F s0 s)
    (h_regs : F .regs := by assumption) : Keeps F s0 (State.setRkSrc s n) := by
  unfold State.setRkSrc
  with_reducible repeat' first | assumption | apply State.setReg_k | apply State.setRk_k | split

theorem State.discipline_k {F : Part → Prop} {s0 : State} (s : State) (offset : Int) (hk : Keeps F s0 s)
    (h_fresh : F .fresh := by assumption)
    (h_regs : F .regs := by assumption) : Keeps F s0 (State.discipline s offset) := by
  unfold State.discipline
  with_reducible repeat' first | assumption | apply State.take_k | apply State.setRk_k | split

theorem State.drainPort_k {F : Part → Prop} {s0 : State} (s : State) (h : Nat) (hk : Keeps F s0 s)
    (h_sent : F .sent := by assumption) (h_regs : F .regs := by assumption)
    (h_hl : F .hl := by assumption) : Keeps F s0 (State.drainPort s h) := by
  unfold State.drainPort
  try dsimp only
  with_reducible repeat' first
      | assumption | intro _ | apply Keeps.ite | apply State.drain_k | apply KeepsM.getD | apply KeepsM.foldl
      | apply KeepsM.bind | apply Keeps.foldl | apply Keeps.foldl_fst | split
      | (refine Keeps.of_fst (by assumption) ?_) | (refine KeepsM.get (by assumption) ?_)
      | (refine KeepsE.get (by assumption) ?_) | fail_if_no_progress (refine Keeps.upd ?_) | dsimp only

theorem State.ethKind_k {F : Part → Prop} {s0 : State} (s : State) (f : EthFrame) (hk : Keeps F s0 s)
    (h_fresh : F .fresh := by assumption) (h_sent : F .sent := by assumption) (h_evlog : F .evlog := by assumption)
    (h_regs : F .regs := by assumption) (h_pw : F .pw := by assumption) (h_hl : F .hl := by assumption)
    (h_wk : F .wk := by assumption) (h_lg : F .lg := by assumption)
    (h_sv : F .sv := by assumption) : Keeps F s0 (State.ethKind s f) := by
  unfold State.ethKind
  try dsimp only
  with_reducible repeat' first
      | assumption | intro _ | apply Keeps.ite | apply State.setReg_k | apply State.bump_k | apply State.setPort_k
      | apply State.emit_k | apply State.take_k | apply State.rxMessage_k | apply State.discipline_k
      | apply State.drainPort_k | apply KeepsM.getD | apply KeepsM.foldl | apply KeepsM.bind | apply Keeps.foldl
      | apply Keeps.foldl_fst | split | (refine Keeps.of_fst (by assumption) ?_)
      | (refine KeepsM.get (by assumption) ?_) | (refine KeepsE.get (by assumption) ?_)
      | fail_if_no_progress (refine Keeps.upd ?_) | dsimp only

theorem execEthernetFrameRx_k {F : Part → Prop} {s0 : State} (f : EthFrame) (s : State) (hk : Keeps F s0 s)
    (h_fresh : F .fresh := by assumption) (h_sent : F .sent := by assumption) (h_evlog : F .evlog := by assumption)
    (h_regs : F .regs := by assumption) (h_pw : F .pw := by assumption) (h_hl : F .hl := by assumption)
    (h_wk : F .wk := by assumption) (h_lg : F .lg := by assumption)
    (h_sv : F .sv := by assumption) : KeepsO F s0 (execEthernetFrameRx f s) := by
  unfold execEthernetFrameRx
  try dsimp only
  with_reducible repeat' first
      | assumption | intro _ | apply Keeps.ite | apply KeepsO.ite | apply KeepsO.next | apply State.bump_k
      | apply State.setPort_k | apply State.ethKind_k | apply KeepsM.getD | apply KeepsM.foldl | apply KeepsM.bind
      | apply Keeps.foldl | apply Keeps.foldl_fst | split | (refine Keeps.of_fst (by assumption) ?_)
      | (refine KeepsM.get (by assumption) ?_) | (refine KeepsE.get (by assumption) ?_)
      | fail_if_no_progress (refine Keeps.upd ?_) | dsimp only

theorem State.linkEvent_k {F : Part → Prop} {s0 : State} (s : State) (h : Hub) (hk : Keeps F s0 s)
    (h_sent : F .sent := by assumption) (h_evlog : F .evlog := by assumption) (h_regs : F .regs := by assumption)
    (h_hl : F .hl := by assumption) : Keeps F s0 (State.linkEvent s h) := by
  unfold State.linkEvent
  try dsimp only
  with_reducible repeat' first
      | assumption | intro _ | apply Keeps.ite | apply State.setSess_k | apply State.event_k | apply KeepsM.foldl
      | apply Keeps.foldl | apply Keeps.foldl_fst | split | fail_if_no_progress (refine Keeps.upd ?_) | dsimp only

theorem execPortLinkChange_k {F : Part → Prop} {s0 : State} (h : Hub) (up : Bool) (speed : Fin 3) (s : State) (hk : Keeps F s0 s)
    (h_fresh : F .fresh := by assumption) (h_sent : F .sent := by assumption) (h_evlog : F .evlog := by assumption)
    (h_regs : F .regs := by assumption)
    (h_hl : F .hl := by assumption) : KeepsO F s0 (execPortLinkChange h up speed s) := by
  unfold execPortLinkChange
  try dsimp only
  with_reducible repeat' first
      | assumption | intro _ | apply Keeps.ite | apply KeepsO.ite | apply KeepsO.next | apply State.setReg_k
      | apply State.setPort_k | apply State.take_k | apply State.linkEvent_k | apply KeepsM.getD | split
      | fail_if_no_progress (refine Keeps.upd ?_) | dsimp only

theorem execMkaRekey_k {F : Part → Prop} {s0 : State} (h : Hub) (s : State) (hk : Keeps F s0 s)
    (h_fresh : F .fresh := by assumption) (h_hl : F .hl := by assumption) : KeepsO F s0 (execMkaRekey h s) := by
  unfold execMkaRekey
  with_reducible repeat' first
      | assumption | apply KeepsO.ite | apply KeepsO.next | apply State.setPort_k | apply State.take_k

theorem execTimePortFallback_k {F : Part → Prop} {s0 : State} (s : State) (hk : Keeps F s0 s)
    (h_regs : F .regs := by assumption) : KeepsO F s0 (execTimePortFallback s) := by
  unfold execTimePortFallback
  with_reducible repeat' first | assumption | apply KeepsO.ite | apply KeepsO.next | apply State.setRkSrc_k | split

theorem execPortConfigApply_k {F : Part → Prop} {s0 : State} (h : Hub) (s : State) (hk : Keeps F s0 s)
    (h_regs : F .regs := by assumption) (h_hl : F .hl := by assumption)
    (h_lg : F .lg := by assumption) : KeepsO F s0 (execPortConfigApply h s) := by
  unfold execPortConfigApply
  try dsimp only
  with_reducible repeat' first
      | assumption | apply KeepsO.next | apply State.setReg_k | apply State.setRegN_k | apply State.setPort_k
      | apply State.savePolicy_k | split

theorem execSmbusBlockWrite_k {F : Part → Prop} {s0 : State} (adr : Fin 128) (pec : Bool) (bs : List Byte) (s : State) (hk : Keeps F s0 s)
    (h_regs : F .regs := by assumption)
    (h_hl : F .hl := by assumption) : KeepsO F s0 (execSmbusBlockWrite adr pec bs s) := by
  unfold execSmbusBlockWrite
  try dsimp only
  with_reducible repeat' first
      | assumption | intro _ | apply Keeps.ite | apply KeepsO.ite | apply KeepsO.next | apply State.mbPost_k
      | apply State.mbDeliver_k | apply State.mbAck_k | apply KeepsM.getD | apply KeepsM.foldl | apply KeepsM.bind
      | apply Keeps.foldl | apply Keeps.foldl_fst | split | (refine Keeps.of_fst (by assumption) ?_)
      | (refine KeepsM.get (by assumption) ?_) | (refine KeepsE.get (by assumption) ?_)
      | fail_if_no_progress (refine Keeps.upd ?_) | dsimp only

theorem execSmbusBlockRead_k {F : Part → Prop} {s0 : State} (adr : Fin 128) (pec : Bool) (s : State) (hk : Keeps F s0 s)
    (h_sent : F .sent := by assumption)
    (h_hl : F .hl := by assumption) : KeepsO F s0 (execSmbusBlockRead adr pec s) := by
  unfold execSmbusBlockRead
  with_reducible repeat' first
      | assumption | apply KeepsO.next | apply State.emit_k | split | fail_if_no_progress (refine Keeps.upd ?_)

theorem execSmbusReadByte_k {F : Part → Prop} {s0 : State} (adr : Fin 128) (pec : Bool) (s : State) (hk : Keeps F s0 s)
    (h_rdata : F .rdata := by assumption)
    (h_sent : F .sent := by assumption) : KeepsO F s0 (execSmbusReadByte adr pec s) := by
  unfold execSmbusReadByte
  with_reducible repeat' first
      | assumption | apply KeepsO.next | apply State.emit_k | split | fail_if_no_progress (refine Keeps.upd ?_)

theorem execSidebandFailover_k {F : Part → Prop} {s0 : State} (s : State) (hk : Keeps F s0 s)
    (h_hl : F .hl := by assumption) : KeepsO F s0 (execSidebandFailover s) := by
  unfold execSidebandFailover
  with_reducible repeat' first | assumption | apply KeepsO.next | fail_if_no_progress (refine Keeps.upd ?_)

theorem execSmbusAlertResponse_k {F : Part → Prop} {s0 : State} (s : State) (hk : Keeps F s0 s)
    (h_sent : F .sent := by assumption) (h_hl : F .hl := by assumption) : KeepsO F s0 (execSmbusAlertResponse s) := by
  unfold execSmbusAlertResponse
  with_reducible repeat' first
      | assumption | apply KeepsO.next | apply State.emit_k | split | fail_if_no_progress (refine Keeps.upd ?_)

theorem execDevInfo_k {F : Part → Prop} {s0 : State} (r : Req) (s : State) (hk : Keeps F s0 s)
    (h_fresh : F .fresh := by assumption) (h_regs : F .regs := by assumption)
    (h_hl : F .hl := by assumption) : KeepsO F s0 (execDevInfo r s) := by
  unfold execDevInfo
  try dsimp only
  with_reducible repeat' first
      | assumption | exact fun _ => by assumption | exact fun h => absurd h Bool.false_ne_true | intro _
      | apply Keeps.ite | apply KeepsO.ite | apply KeepsO.next | apply KeepsR.ite | apply KeepsR.refuse
      | apply KeepsR.fail | apply KeepsR.ok | apply KeepsR.pend | apply State.command_k | apply KeepsM.getD
      | apply KeepsM.foldl | apply KeepsM.bind | apply Keeps.foldl | apply Keeps.foldl_fst | split
      | (refine Keeps.of_fst (by assumption) ?_) | (refine KeepsM.get (by assumption) ?_)
      | (refine KeepsE.get (by assumption) ?_) | fail_if_no_progress (refine Keeps.upd ?_) | dsimp only

theorem execDevState_k {F : Part → Prop} {s0 : State} (r : Req) (s : State) (hk : Keeps F s0 s)
    (h_fresh : F .fresh := by assumption) (h_regs : F .regs := by assumption)
    (h_hl : F .hl := by assumption) : KeepsO F s0 (execDevState r s) := by
  unfold execDevState
  try dsimp only
  with_reducible repeat' first
      | assumption | exact fun _ => by assumption | exact fun h => absurd h Bool.false_ne_true | intro _
      | apply Keeps.ite | apply KeepsO.ite | apply KeepsO.next | apply KeepsR.ite | apply KeepsR.refuse
      | apply KeepsR.fail | apply KeepsR.ok | apply KeepsR.pend | apply State.command_k | apply KeepsM.getD
      | apply KeepsM.foldl | apply KeepsM.bind | apply Keeps.foldl | apply Keeps.foldl_fst | split
      | (refine Keeps.of_fst (by assumption) ?_) | (refine KeepsM.get (by assumption) ?_)
      | (refine KeepsE.get (by assumption) ?_) | fail_if_no_progress (refine Keeps.upd ?_) | dsimp only

theorem State.beginEntry_k {F : Part → Prop} {s0 : State} (s : State) (n : Nat) (hk : Keeps F s0 s)
    (h_regs : F .regs := by assumption) (h_pw : F .pw := by assumption) : Keeps F s0 (State.beginEntry s n) := by
  unfold State.beginEntry
  with_reducible repeat' first | assumption | apply State.setBoth_k | fail_if_no_progress (refine Keeps.upd ?_)

theorem execDevPower_k {F : Part → Prop} {s0 : State} (r : Req) (s : State) (hk : Keeps F s0 s)
    (h_fresh : F .fresh := by assumption) (h_regs : F .regs := by assumption) (h_pw : F .pw := by assumption)
    (h_hl : F .hl := by assumption) (h_lg : F .lg := by assumption) : KeepsO F s0 (execDevPower r s) := by
  unfold execDevPower
  try dsimp only
  with_reducible repeat' first
      | assumption | exact fun _ => by assumption | exact fun h => absurd h Bool.false_ne_true | intro _
      | apply Keeps.ite | apply KeepsO.ite | apply KeepsO.next | apply KeepsR.ite | apply KeepsR.refuse
      | apply KeepsR.fail | apply KeepsR.ok | apply KeepsR.pend | apply State.wake_k | apply State.command_k
      | apply State.beginEntry_k | apply KeepsM.getD | apply KeepsM.foldl | apply KeepsM.bind | apply Keeps.foldl
      | apply Keeps.foldl_fst | split | (refine Keeps.of_fst (by assumption) ?_)
      | (refine KeepsM.get (by assumption) ?_) | (refine KeepsE.get (by assumption) ?_)
      | fail_if_no_progress (refine Keeps.upd ?_) | dsimp only

theorem execDevReset_k {F : Part → Prop} {s0 : State} (r : Req) (s : State) (hk : Keeps F s0 s)
    (h_now : F .now := by assumption) (h_fresh : F .fresh := by assumption) (h_rdata : F .rdata := by assumption)
    (h_sent : F .sent := by assumption) (h_evlog : F .evlog := by assumption) (h_regs : F .regs := by assumption)
    (h_live : F .live := by assumption) (h_mem : F .mem := by assumption) (h_beads : F .beads := by assumption)
    (h_side : F .side := by assumption) (h_frames : F .frames := by assumption)
    (h_boards : F .boards := by assumption) (h_dies : F .dies := by assumption) (h_mets : F .mets := by assumption)
    (h_ck : F .ck := by assumption) (h_pw : F .pw := by assumption) (h_th : F .th := by assumption)
    (h_hl : F .hl := by assumption) (h_wk : F .wk := by assumption) (h_fb : F .fb := by assumption)
    (h_ms : F .ms := by assumption) (h_lg : F .lg := by assumption)
    (h_sv : F .sv := by assumption) : KeepsO F s0 (execDevReset r s) := by
  unfold execDevReset
  try dsimp only
  with_reducible repeat' first
      | assumption | exact fun _ => by assumption | exact fun h => absurd h Bool.false_ne_true | intro _
      | apply Keeps.ite | apply KeepsO.ite | apply KeepsO.next | apply KeepsR.ite | apply KeepsR.refuse
      | apply KeepsR.fail | apply KeepsR.ok | apply KeepsR.pend | apply State.setPstate_k | apply State.finish_k
      | apply State.command_k | apply State.vinReset_k | apply State.respondAll_k | apply KeepsM.getD
      | apply KeepsM.foldl | apply KeepsM.bind | apply Keeps.foldl | apply Keeps.foldl_fst | split
      | (refine Keeps.of_fst (by assumption) ?_) | (refine KeepsM.get (by assumption) ?_)
      | (refine KeepsE.get (by assumption) ?_) | fail_if_no_progress (refine Keeps.upd ?_) | dsimp only

theorem execDevPort_k {F : Part → Prop} {s0 : State} (r : Req) (s : State) (hk : Keeps F s0 s)
    (h_fresh : F .fresh := by assumption) (h_regs : F .regs := by assumption) (h_hl : F .hl := by assumption)
    (h_lg : F .lg := by assumption) : KeepsO F s0 (execDevPort r s) := by
  unfold execDevPort
  try dsimp only
  with_reducible repeat' first
      | assumption | exact fun _ => by assumption | exact fun h => absurd h Bool.false_ne_true | intro _
      | apply Keeps.ite | apply KeepsO.ite | apply KeepsO.next | apply KeepsR.ite | apply KeepsR.refuse
      | apply KeepsR.fail | apply KeepsR.ok | apply KeepsR.pend | apply State.setPort_k | apply State.take_k
      | apply State.command_k | apply KeepsM.getD | apply KeepsM.foldl | apply KeepsM.bind | apply Keeps.foldl
      | apply Keeps.foldl_fst | split | (refine Keeps.of_fst (by assumption) ?_)
      | (refine KeepsM.get (by assumption) ?_) | (refine KeepsE.get (by assumption) ?_)
      | fail_if_no_progress (refine Keeps.upd ?_) | dsimp only

theorem execDevEvents_k {F : Part → Prop} {s0 : State} (r : Req) (s : State) (hk : Keeps F s0 s)
    (h_fresh : F .fresh := by assumption) (h_regs : F .regs := by assumption)
    (h_hl : F .hl := by assumption) : KeepsO F s0 (execDevEvents r s) := by
  unfold execDevEvents
  try dsimp only
  with_reducible repeat' first
      | assumption | exact fun _ => by assumption | exact fun h => absurd h Bool.false_ne_true | intro _
      | apply Keeps.ite | apply KeepsO.ite | apply KeepsO.next | apply KeepsR.ite | apply KeepsR.refuse
      | apply KeepsR.fail | apply KeepsR.ok | apply KeepsR.pend | apply State.setSess_k | apply State.command_k
      | apply KeepsM.getD | apply KeepsM.foldl | apply KeepsM.bind | apply Keeps.foldl | apply Keeps.foldl_fst | split
      | (refine Keeps.of_fst (by assumption) ?_) | (refine KeepsM.get (by assumption) ?_)
      | (refine KeepsE.get (by assumption) ?_) | fail_if_no_progress (refine Keeps.upd ?_) | dsimp only

theorem execLogRead_k {F : Part → Prop} {s0 : State} (r : Req) (s : State) (hk : Keeps F s0 s)
    (h_fresh : F .fresh := by assumption) (h_sent : F .sent := by assumption) (h_regs : F .regs := by assumption)
    (h_hl : F .hl := by assumption) (h_wk : F .wk := by assumption) : KeepsO F s0 (execLogRead r s) := by
  unfold execLogRead
  try dsimp only
  with_reducible repeat' first
      | assumption | exact fun _ => by assumption | exact fun h => absurd h Bool.false_ne_true | intro _
      | apply Keeps.ite | apply KeepsO.ite | apply KeepsO.next | apply KeepsR.ite | apply KeepsR.refuse
      | apply KeepsR.fail | apply KeepsR.ok | apply KeepsR.pend | apply State.command_k | apply State.bulk_k
      | apply KeepsM.getD | apply KeepsM.foldl | apply KeepsM.bind | apply Keeps.foldl | apply Keeps.foldl_fst | split
      | (refine Keeps.of_fst (by assumption) ?_) | (refine KeepsM.get (by assumption) ?_)
      | (refine KeepsE.get (by assumption) ?_) | fail_if_no_progress (refine Keeps.upd ?_) | dsimp only

theorem execLogTelem_k {F : Part → Prop} {s0 : State} (r : Req) (s : State) (hk : Keeps F s0 s)
    (h_fresh : F .fresh := by assumption) (h_sent : F .sent := by assumption) (h_regs : F .regs := by assumption)
    (h_hl : F .hl := by assumption) (h_wk : F .wk := by assumption) : KeepsO F s0 (execLogTelem r s) := by
  unfold execLogTelem
  try dsimp only
  with_reducible repeat' first
      | assumption | exact fun _ => by assumption | exact fun h => absurd h Bool.false_ne_true | intro _
      | apply Keeps.ite | apply KeepsO.ite | apply KeepsO.next | apply KeepsR.ite | apply KeepsR.refuse
      | apply KeepsR.fail | apply KeepsR.ok | apply KeepsR.pend | apply State.command_k | apply State.bulk_k
      | apply KeepsM.getD | apply KeepsM.foldl | apply KeepsM.bind | apply Keeps.foldl | apply Keeps.foldl_fst | split
      | (refine Keeps.of_fst (by assumption) ?_) | (refine KeepsM.get (by assumption) ?_)
      | (refine KeepsE.get (by assumption) ?_) | fail_if_no_progress (refine Keeps.upd ?_) | dsimp only

theorem execLogJournal_k {F : Part → Prop} {s0 : State} (r : Req) (s : State) (hk : Keeps F s0 s)
    (h_fresh : F .fresh := by assumption) (h_regs : F .regs := by assumption) (h_hl : F .hl := by assumption)
    (h_wk : F .wk := by assumption) (h_lg : F .lg := by assumption)
    (h_sv : F .sv := by assumption) : KeepsO F s0 (execLogJournal r s) := by
  unfold execLogJournal
  try dsimp only
  with_reducible repeat' first
      | assumption | exact fun _ => by assumption | exact fun h => absurd h Bool.false_ne_true | intro _
      | apply Keeps.ite | apply KeepsO.ite | apply KeepsO.next | apply KeepsR.ite | apply KeepsR.refuse
      | apply KeepsR.fail | apply KeepsR.ok | apply KeepsR.pend | apply State.command_k | apply KeepsM.getD
      | apply KeepsM.foldl | apply KeepsM.bind | apply Keeps.foldl | apply Keeps.foldl_fst | split
      | (refine Keeps.of_fst (by assumption) ?_) | (refine KeepsM.get (by assumption) ?_)
      | (refine KeepsE.get (by assumption) ?_) | fail_if_no_progress (refine Keeps.upd ?_) | dsimp only

theorem execLogExport_k {F : Part → Prop} {s0 : State} (r : Req) (s : State) (hk : Keeps F s0 s)
    (h_fresh : F .fresh := by assumption) (h_sent : F .sent := by assumption) (h_regs : F .regs := by assumption)
    (h_hl : F .hl := by assumption) (h_wk : F .wk := by assumption) : KeepsO F s0 (execLogExport r s) := by
  unfold execLogExport
  try dsimp only
  with_reducible repeat' first
      | assumption | exact fun _ => by assumption | exact fun h => absurd h Bool.false_ne_true | intro _
      | apply Keeps.ite | apply KeepsO.ite | apply KeepsO.next | apply KeepsR.ite | apply KeepsR.refuse
      | apply KeepsR.fail | apply KeepsR.ok | apply KeepsR.pend | apply State.take_k | apply State.command_k
      | apply State.bulk_k | apply KeepsM.getD | apply KeepsM.foldl | apply KeepsM.bind | apply Keeps.foldl
      | apply Keeps.foldl_fst | split | (refine Keeps.of_fst (by assumption) ?_)
      | (refine KeepsM.get (by assumption) ?_) | (refine KeepsE.get (by assumption) ?_)
      | fail_if_no_progress (refine Keeps.upd ?_) | dsimp only

theorem execLogReplay_k {F : Part → Prop} {s0 : State} (r : Req) (s : State) (hk : Keeps F s0 s)
    (h_fresh : F .fresh := by assumption) (h_regs : F .regs := by assumption) (h_mem : F .mem := by assumption)
    (h_hl : F .hl := by assumption) (h_wk : F .wk := by assumption)
    (h_lg : F .lg := by assumption) : KeepsO F s0 (execLogReplay r s) := by
  unfold execLogReplay
  try dsimp only
  with_reducible repeat' first
      | assumption | exact fun _ => by assumption | exact fun h => absurd h Bool.false_ne_true | intro _
      | apply Keeps.ite | apply KeepsO.ite | apply KeepsO.next | apply KeepsR.ite | apply KeepsR.refuse
      | apply KeepsR.fail | apply KeepsR.ok | apply KeepsR.pend | apply State.setRing_k | apply State.command_k
      | apply State.ckRestore_k | apply KeepsM.getD | apply KeepsM.foldl | apply KeepsM.bind | apply Keeps.foldl
      | apply Keeps.foldl_fst | split | (refine Keeps.of_fst (by assumption) ?_)
      | (refine KeepsM.get (by assumption) ?_) | (refine KeepsE.get (by assumption) ?_)
      | fail_if_no_progress (refine Keeps.upd ?_) | dsimp only

theorem execSvcMapRead_k {F : Part → Prop} {s0 : State} (r : Req) (s : State) (hk : Keeps F s0 s)
    (h_fresh : F .fresh := by assumption) (h_sent : F .sent := by assumption) (h_regs : F .regs := by assumption)
    (h_hl : F .hl := by assumption) (h_wk : F .wk := by assumption) : KeepsO F s0 (execSvcMapRead r s) := by
  unfold execSvcMapRead
  try dsimp only
  with_reducible repeat' first
      | assumption | exact fun _ => by assumption | exact fun h => absurd h Bool.false_ne_true | intro _
      | apply Keeps.ite | apply KeepsO.ite | apply KeepsO.next | apply KeepsR.ite | apply KeepsR.refuse
      | apply KeepsR.fail | apply KeepsR.ok | apply KeepsR.pend | apply State.command_k | apply State.bulk_k
      | apply KeepsM.getD | apply KeepsM.foldl | apply KeepsM.bind | apply Keeps.foldl | apply Keeps.foldl_fst | split
      | (refine Keeps.of_fst (by assumption) ?_) | (refine KeepsM.get (by assumption) ?_)
      | (refine KeepsE.get (by assumption) ?_) | fail_if_no_progress (refine Keeps.upd ?_) | dsimp only

theorem execSvcMapEdit_k {F : Part → Prop} {s0 : State} (r : Req) (s : State) (hk : Keeps F s0 s)
    (h_fresh : F .fresh := by assumption) (h_regs : F .regs := by assumption) (h_hl : F .hl := by assumption)
    (h_lg : F .lg := by assumption) : KeepsO F s0 (execSvcMapEdit r s) := by
  unfold execSvcMapEdit
  try dsimp only
  with_reducible repeat' first
      | assumption | exact fun _ => by assumption | exact fun h => absurd h Bool.false_ne_true | intro _
      | apply Keeps.ite | apply KeepsO.ite | apply KeepsO.next | apply KeepsR.ite | apply KeepsR.refuse
      | apply KeepsR.fail | apply KeepsR.ok | apply KeepsR.pend | apply State.ctrInc_k | apply State.command_k
      | apply State.ledgerPages_k | apply KeepsM.getD | apply KeepsM.foldl | apply KeepsM.bind | apply Keeps.foldl
      | apply Keeps.foldl_fst | split | (refine Keeps.of_fst (by assumption) ?_)
      | (refine KeepsM.get (by assumption) ?_) | (refine KeepsE.get (by assumption) ?_)
      | fail_if_no_progress (refine Keeps.upd ?_) | dsimp only

theorem execSvcRepair_k {F : Part → Prop} {s0 : State} (r : Req) (s : State) (hk : Keeps F s0 s)
    (h_fresh : F .fresh := by assumption) (h_regs : F .regs := by assumption) (h_frames : F .frames := by assumption)
    (h_boards : F .boards := by assumption) (h_hl : F .hl := by assumption)
    (h_lg : F .lg := by assumption) : KeepsO F s0 (execSvcRepair r s) := by
  unfold execSvcRepair
  try dsimp only
  with_reducible repeat' first
      | assumption | exact fun _ => by assumption | exact fun h => absurd h Bool.false_ne_true | intro _
      | apply Keeps.ite | apply KeepsO.ite | apply KeepsO.next | apply KeepsR.ite | apply KeepsR.refuse
      | apply KeepsR.fail | apply KeepsR.ok | apply KeepsR.pend | apply State.setFrame_k | apply State.setBoard_k
      | apply State.command_k | apply KeepsM.getD | apply KeepsM.foldl | apply KeepsM.bind | apply Keeps.foldl
      | apply Keeps.foldl_fst | split | (refine Keeps.of_fst (by assumption) ?_)
      | (refine KeepsM.get (by assumption) ?_) | (refine KeepsE.get (by assumption) ?_)
      | fail_if_no_progress (refine Keeps.upd ?_) | dsimp only

theorem execSvcSwap_k {F : Part → Prop} {s0 : State} (r : Req) (s : State) (hk : Keeps F s0 s)
    (h_fresh : F .fresh := by assumption) (h_regs : F .regs := by assumption) (h_hl : F .hl := by assumption)
    (h_wk : F .wk := by assumption) (h_lg : F .lg := by assumption)
    (h_sv : F .sv := by assumption) : KeepsO F s0 (execSvcSwap r s) := by
  unfold execSvcSwap
  try dsimp only
  with_reducible repeat' first
      | assumption | exact fun _ => by assumption | exact fun h => absurd h Bool.false_ne_true | intro _
      | apply Keeps.ite | apply KeepsO.ite | apply KeepsO.next | apply KeepsR.ite | apply KeepsR.refuse
      | apply KeepsR.fail | apply KeepsR.ok | apply KeepsR.pend | apply State.command_k | apply KeepsM.getD
      | apply KeepsM.foldl | apply KeepsM.bind | apply Keeps.foldl | apply Keeps.foldl_fst | split
      | (refine Keeps.of_fst (by assumption) ?_) | (refine KeepsM.get (by assumption) ?_)
      | (refine KeepsE.get (by assumption) ?_) | fail_if_no_progress (refine Keeps.upd ?_) | dsimp only

theorem execSvcLimits_k {F : Part → Prop} {s0 : State} (r : Req) (s : State) (hk : Keeps F s0 s)
    (h_fresh : F .fresh := by assumption) (h_regs : F .regs := by assumption) (h_th : F .th := by assumption)
    (h_hl : F .hl := by assumption) (h_lg : F .lg := by assumption) : KeepsO F s0 (execSvcLimits r s) := by
  unfold execSvcLimits
  try dsimp only
  with_reducible repeat' first
      | assumption | exact fun _ => by assumption | exact fun h => absurd h Bool.false_ne_true | intro _
      | apply Keeps.ite | apply KeepsO.ite | apply KeepsO.next | apply KeepsR.ite | apply KeepsR.refuse
      | apply KeepsR.fail | apply KeepsR.ok | apply KeepsR.pend | apply State.command_k | apply State.savePolicy_k
      | apply State.setBoth_k | apply KeepsM.getD | apply KeepsM.foldl | apply KeepsM.bind | apply Keeps.foldl
      | apply Keeps.foldl_fst | split | (refine Keeps.of_fst (by assumption) ?_)
      | (refine KeepsM.get (by assumption) ?_) | (refine KeepsE.get (by assumption) ?_)
      | fail_if_no_progress (refine Keeps.upd ?_) | dsimp only

theorem State.saveArrays_k {F : Part → Prop} {s0 : State} (s : State) (met : Bool) (hk : Keeps F s0 s)
    (h_pw : F .pw := by assumption) : Keeps F s0 (State.saveArrays s met) := by
  unfold State.saveArrays
  with_reducible repeat' first | assumption | fail_if_no_progress (refine Keeps.upd ?_)

theorem State.arraysOff_k {F : Part → Prop} {s0 : State} (s : State) (met : Bool) (hk : Keeps F s0 s)
    (h_regs : F .regs := by assumption) (h_live : F .live := by assumption) (h_mem : F .mem := by assumption)
    (h_frames : F .frames := by assumption) (h_boards : F .boards := by assumption)
    (h_dies : F .dies := by assumption) (h_mets : F .mets := by assumption)
    (h_fb : F .fb := by assumption) : Keeps F s0 (s.arraysOff met) := by
  unfold State.arraysOff
  extract_lets s1 gone s2 s3
  have h1 : Keeps F s0 s1 := Keeps.foldl (fun _ _ h => State.freeSource_k _ _ (State.dropPool_k _ _ h)) hk
  have h2 : Keeps F s0 s2 := by
    refine Keeps.foldl (fun _ _ h => ?_) h1
    with_reducible repeat' first | assumption | intro _ | apply State.setLink_k | apply State.setLinkState_k
  have h3 : Keeps F s0 s3 := by
    refine Keeps.foldl (fun _ _ h => ?_) h2
    with_reducible repeat' first | assumption | intro _ | apply State.setLink_k
  clear_value s3
  exact Keeps.mems _ (s := s3) h3 rfl (Memory.wf_filter _ _) (mwf_filter _ _ _) (mwf_filter _ _ _) id (fun p => by cases p <;> first
      | exact .inl (by assumption) | exact .inr rfl)

theorem State.raiseLink_k {F : Part → Prop} {s0 : State} (s : State) (k : Nat) (hub : Nat) (hk : Keeps F s0 s)
    (h_regs : F .regs := by assumption) (h_fb : F .fb := by assumption) : Keeps F s0 (State.raiseLink s k hub) := by
  unfold State.raiseLink
  with_reducible repeat' first | assumption | apply State.linkUp_k | split

theorem State.linksUp_k {F : Part → Prop} {s0 : State} (s : State) (hk : Keeps F s0 s)
    (h_regs : F .regs := by assumption) (h_fb : F .fb := by assumption) : Keeps F s0 (State.linksUp s) := by
  unfold State.linksUp
  with_reducible repeat' first
      | assumption | intro _ | apply Keeps.ite | apply State.linkUp_k | apply State.raiseLink_k | apply Keeps.foldl

theorem State.reloadBoard_k {F : Part → Prop} {s0 : State} (s : State) (slot lb bk : Nat) (hk : Keeps F s0 s)
    (h_evlog : F .evlog := by assumption) (h_regs : F .regs := by assumption) (h_live : F .live := by assumption)
    (h_mem : F .mem := by assumption) (h_frames : F .frames := by assumption)
    (h_boards : F .boards := by assumption) : Keeps F s0 (State.reloadBoard s slot lb bk) := by
  unfold State.reloadBoard
  with_reducible repeat' first | assumption | apply State.setBoard_k | apply State.loadBoard_k

theorem State.reloadScores_k {F : Part → Prop} {s0 : State} (s : State) (hk : Keeps F s0 s)
    (h_evlog : F .evlog := by assumption) (h_regs : F .regs := by assumption) (h_live : F .live := by assumption)
    (h_mem : F .mem := by assumption) (h_frames : F .frames := by assumption)
    (h_boards : F .boards := by assumption) : Keeps F s0 (State.reloadScores s) := by
  unfold State.reloadScores
  with_reducible repeat' first | assumption | intro _ | apply State.reloadBoard_k | apply Keeps.foldl

theorem State.dieUp_k {F : Part → Prop} {s0 : State} (s : State) (d : Nat) (hk : Keeps F s0 s)
    (h_fresh : F .fresh := by assumption) (h_dies : F .dies := by assumption)
    (h_ck : F .ck := by assumption) : Keeps F s0 (State.dieUp s d) := by
  unfold State.dieUp
  try dsimp only
  with_reducible repeat' first
      | assumption | intro _ | apply Keeps.ite | apply State.setDie_k | apply State.take_k | split
      | fail_if_no_progress (refine Keeps.upd ?_) | dsimp only

theorem State.metWake_k {F : Part → Prop} {s0 : State} (s : State) (u : Nat) (hk : Keeps F s0 s)
    (h_fresh : F .fresh := by assumption) (h_mets : F .mets := by assumption)
    (h_th : F .th := by assumption) : Keeps F s0 (State.metWake s u) := by
  unfold State.metWake
  try dsimp only
  with_reducible repeat' first
      | assumption | intro _ | apply Keeps.ite | apply State.setMet_k | apply State.take_k | apply State.setConv_k
      | apply State.toEntry_k | apply State.startSelfcal_k | apply State.freshSensors_k | apply KeepsM.foldl
      | apply Keeps.foldl | apply Keeps.foldl_fst | split | fail_if_no_progress (refine Keeps.upd ?_) | dsimp only

theorem State.offsetCheck_k {F : Part → Prop} {s0 : State} (s : State) (fk : Nat) (hk : Keeps F s0 s)
    (h_fresh : F .fresh := by assumption) (h_evlog : F .evlog := by assumption) (h_regs : F .regs := by assumption)
    (h_frames : F .frames := by assumption) (h_dies : F .dies := by assumption)
    (h_mets : F .mets := by assumption) : Keeps F s0 (State.offsetCheck s fk) := by
  unfold State.offsetCheck
  try dsimp only
  with_reducible repeat' first
      | assumption | intro _ | apply Keeps.ite | apply State.take_k | apply State.measureTrims_k | apply KeepsM.getD
      | apply KeepsM.foldl | apply KeepsM.bind | apply Keeps.foldl | apply Keeps.foldl_fst | split
      | (refine Keeps.of_fst (by assumption) ?_) | (refine KeepsM.get (by assumption) ?_)
      | (refine KeepsE.get (by assumption) ?_) | fail_if_no_progress (refine Keeps.upd ?_) | dsimp only

theorem State.publishWake_k {F : Part → Prop} {s0 : State} (s : State) (slot : Nat) (hk : Keeps F s0 s)
    (h_regs : F .regs := by assumption) (h_frames : F .frames := by assumption) (h_wk : F .wk := by assumption)
    (h_sv : F .sv := by assumption) : Keeps F s0 (State.publishWake s slot) := by
  unfold State.publishWake
  try dsimp only
  with_reducible repeat' first
      | assumption | intro _ | apply Keeps.ite | apply State.setJob_k | apply State.publish_k | apply KeepsM.getD
      | apply KeepsM.foldl | apply KeepsM.bind | apply Keeps.foldl | apply Keeps.foldl_fst | split
      | (refine Keeps.of_fst (by assumption) ?_) | (refine KeepsM.get (by assumption) ?_)
      | (refine KeepsE.get (by assumption) ?_) | fail_if_no_progress (refine Keeps.upd ?_) | dsimp only

theorem State.wakeArrays_k {F : Part → Prop} {s0 : State} (s : State) (hk : Keeps F s0 s)
    (h_fresh : F .fresh := by assumption) (h_evlog : F .evlog := by assumption) (h_regs : F .regs := by assumption)
    (h_live : F .live := by assumption) (h_mem : F .mem := by assumption) (h_frames : F .frames := by assumption)
    (h_boards : F .boards := by assumption) (h_dies : F .dies := by assumption) (h_mets : F .mets := by assumption)
    (h_ck : F .ck := by assumption) (h_pw : F .pw := by assumption) (h_th : F .th := by assumption)
    (h_wk : F .wk := by assumption) (h_fb : F .fb := by assumption)
    (h_sv : F .sv := by assumption) : Keeps F s0 s.wakeArrays := by
  unfold State.wakeArrays
  dsimp only
  have h1 : Keeps F s0 ((List.range 32).foldl State.dieUp s).reloadScores :=
    State.reloadScores_k _ (Keeps.foldl (fun _ _ h => State.dieUp_k _ _ h) hk)
  repeat' first
      | with_reducible assumption | intro _ | with_reducible apply Keeps.foldl
      | with_reducible apply State.publishWake_k | with_reducible apply State.predictGains_k
      | with_reducible apply State.offsetCheck_k | with_reducible apply State.metWake_k
      | with_reducible apply State.linksUp_k | with_reducible apply State.setReg_k
      | with_reducible apply State.setLive_k | with_reducible apply State.setByte_k | split
      | (with_reducible exact Keeps.filters h1) | with_reducible refine Keeps.upd ?_

theorem State.unprepare_k {F : Part → Prop} {s0 : State} (s : State) (r : Repair) (hk : Keeps F s0 s)
    (h_regs : F .regs := by assumption) (h_frames : F .frames := by assumption)
    (h_boards : F .boards := by assumption)
    (h_dies : F .dies := by assumption) : Keeps F s0 (State.unprepare s r) := by
  unfold State.unprepare
  try dsimp only
  with_reducible repeat' first
      | assumption | intro _ | apply Keeps.ite | apply State.setFrame_k | apply State.setBoard_k
      | apply State.throughRepair_k | apply KeepsM.getD | apply KeepsM.foldl | apply Keeps.foldl
      | apply Keeps.foldl_fst | split | (refine Keeps.of_fst (by assumption) ?_)
      | fail_if_no_progress (refine Keeps.upd ?_) | dsimp only

theorem State.stopEngine_k {F : Part → Prop} {s0 : State} (s : State) (fk : Nat) (hk : Keeps F s0 s)
    (h_sent : F .sent := by assumption) (h_evlog : F .evlog := by assumption) (h_regs : F .regs := by assumption)
    (h_frames : F .frames := by assumption) (h_boards : F .boards := by assumption)
    (h_dies : F .dies := by assumption) (h_hl : F .hl := by assumption) (h_wk : F .wk := by assumption)
    (h_fb : F .fb := by assumption) (h_lg : F .lg := by assumption)
    (h_sv : F .sv := by assumption) : Keeps F s0 (State.stopEngine s fk) := by
  unfold State.stopEngine
  try dsimp only
  with_reducible repeat' first
      | assumption | intro _ | apply Keeps.ite | apply State.setFrame_k | apply State.setBoard_k
      | apply State.stopPrg_k | apply State.loadFailed_k | apply State.unprepare_k | split
      | (refine Keeps.of_fst (by assumption) ?_) | (refine KeepsM.get (by assumption) ?_)
      | fail_if_no_progress (refine Keeps.upd ?_) | dsimp only

theorem State.stopEngines_k {F : Part → Prop} {s0 : State} (s : State) (hk : Keeps F s0 s)
    (h_sent : F .sent := by assumption) (h_evlog : F .evlog := by assumption) (h_regs : F .regs := by assumption)
    (h_frames : F .frames := by assumption) (h_boards : F .boards := by assumption)
    (h_dies : F .dies := by assumption) (h_hl : F .hl := by assumption) (h_wk : F .wk := by assumption)
    (h_fb : F .fb := by assumption) (h_lg : F .lg := by assumption)
    (h_sv : F .sv := by assumption) : Keeps F s0 (State.stopEngines s) := by
  unfold State.stopEngines
  with_reducible repeat' first | assumption | intro _ | apply State.stopEngine_k | apply Keeps.foldl

theorem State.cancelRunning_k {F : Part → Prop} {s0 : State} (s : State) (hk : Keeps F s0 s)
    (h_sent : F .sent := by assumption) (h_evlog : F .evlog := by assumption) (h_regs : F .regs := by assumption)
    (h_live : F .live := by assumption) (h_mem : F .mem := by assumption) (h_frames : F .frames := by assumption)
    (h_boards : F .boards := by assumption) (h_dies : F .dies := by assumption) (h_hl : F .hl := by assumption)
    (h_wk : F .wk := by assumption) (h_fb : F .fb := by assumption)
    (h_sv : F .sv := by assumption) : Keeps F s0 (State.cancelRunning s) := by
  unfold State.cancelRunning
  with_reducible repeat' first | assumption | intro _ | apply State.failJob_k | apply Keeps.foldl

theorem State.haltBoot_k {F : Part → Prop} {s0 : State} (s : State) (hk : Keeps F s0 s)
    (h_regs : F .regs := by assumption) (h_live : F .live := by assumption) (h_mem : F .mem := by assumption)
    (h_frames : F .frames := by assumption) (h_boards : F .boards := by assumption)
    (h_dies : F .dies := by assumption) (h_mets : F .mets := by assumption) (h_pw : F .pw := by assumption)
    (h_fb : F .fb := by assumption) : Keeps F s0 (State.haltBoot s) := by
  unfold State.haltBoot
  with_reducible repeat' first
      | assumption | apply State.bootPhase_k | apply State.arraysOff_k | split
      | fail_if_no_progress (refine Keeps.upd ?_)

theorem State.powerFail_k {F : Part → Prop} {s0 : State} (s : State) (hk : Keeps F s0 s)
    (h_sent : F .sent := by assumption) (h_evlog : F .evlog := by assumption) (h_regs : F .regs := by assumption)
    (h_live : F .live := by assumption) (h_mem : F .mem := by assumption) (h_frames : F .frames := by assumption)
    (h_boards : F .boards := by assumption) (h_dies : F .dies := by assumption) (h_mets : F .mets := by assumption)
    (h_pw : F .pw := by assumption) (h_hl : F .hl := by assumption) (h_wk : F .wk := by assumption)
    (h_fb : F .fb := by assumption) (h_lg : F .lg := by assumption)
    (h_sv : F .sv := by assumption) : Keeps F s0 (State.powerFail s) := by
  unfold State.powerFail
  with_reducible repeat' first
      | assumption | apply State.abandon_k | apply State.enter_k | apply State.saveArrays_k | apply State.arraysOff_k
      | apply State.stopEngines_k | apply State.cancelRunning_k | apply State.haltBoot_k | split
      | fail_if_no_progress (refine Keeps.upd ?_)

theorem State.setFailN_k {F : Part → Prop} {s0 : State} (s : State) (b : Bool) (hk : Keeps F s0 s)
    (h_regs : F .regs := by assumption) (h_pw : F .pw := by assumption) : Keeps F s0 (State.setFailN s b) := by
  unfold State.setFailN
  with_reducible repeat' first | assumption | apply State.setBoth_k | fail_if_no_progress (refine Keeps.upd ?_)

theorem execPwrFailNAssert_k {F : Part → Prop} {s0 : State} (s : State) (hk : Keeps F s0 s)
    (h_sent : F .sent := by assumption) (h_evlog : F .evlog := by assumption) (h_regs : F .regs := by assumption)
    (h_live : F .live := by assumption) (h_mem : F .mem := by assumption) (h_frames : F .frames := by assumption)
    (h_boards : F .boards := by assumption) (h_dies : F .dies := by assumption) (h_mets : F .mets := by assumption)
    (h_pw : F .pw := by assumption) (h_hl : F .hl := by assumption) (h_wk : F .wk := by assumption)
    (h_fb : F .fb := by assumption) (h_lg : F .lg := by assumption)
    (h_sv : F .sv := by assumption) : KeepsO F s0 (execPwrFailNAssert s) := by
  unfold execPwrFailNAssert
  with_reducible repeat' first
      | assumption | apply KeepsO.next | apply State.powerFail_k | apply State.setFailN_k | split

theorem State.bootAgain_k {F : Part → Prop} {s0 : State} (s : State) (hk : Keeps F s0 s)
    (h_regs : F .regs := by assumption) (h_pw : F .pw := by assumption) : Keeps F s0 (State.bootAgain s) := by
  unfold State.bootAgain
  with_reducible repeat' first
      | assumption | apply State.bootPhase_k | split | fail_if_no_progress (refine Keeps.upd ?_)

theorem execPwrFailNDeassert_k {F : Part → Prop} {s0 : State} (s : State) (hk : Keeps F s0 s)
    (h_regs : F .regs := by assumption) (h_pw : F .pw := by assumption) : KeepsO F s0 (execPwrFailNDeassert s) := by
  unfold execPwrFailNDeassert
  with_reducible repeat' first
      | assumption | apply KeepsO.next | apply State.setFailN_k | apply State.bootAgain_k | split

theorem execVinOvercurrent_k {F : Part → Prop} {s0 : State} (above : Bool) (s : State) (hk : Keeps F s0 s)
    (h_pw : F .pw := by assumption) : KeepsO F s0 (execVinOvercurrent above s) := by
  unfold execVinOvercurrent
  with_reducible repeat' first | assumption | apply KeepsO.next | fail_if_no_progress (refine Keeps.upd ?_)

theorem execBrownOut_k {F : Part → Prop} {s0 : State} (mv : Nat) (s : State) (hk : Keeps F s0 s)
    (h_pw : F .pw := by assumption) : KeepsO F s0 (execBrownOut mv s) := by
  unfold execBrownOut
  with_reducible repeat' first | assumption | apply KeepsO.next | split | fail_if_no_progress (refine Keeps.upd ?_)

theorem execBrownOut1ms_k {F : Part → Prop} {s0 : State} (s : State) (hk : Keeps F s0 s)
    (h_sent : F .sent := by assumption) (h_evlog : F .evlog := by assumption) (h_regs : F .regs := by assumption)
    (h_pw : F .pw := by assumption) (h_hl : F .hl := by assumption) : KeepsO F s0 (execBrownOut1ms s) := by
  unfold execBrownOut1ms
  with_reducible repeat' first
      | assumption | apply KeepsO.next | apply State.event_k | split | fail_if_no_progress (refine Keeps.upd ?_)

theorem execBrownOut100ms_k {F : Part → Prop} {s0 : State} (s : State) (hk : Keeps F s0 s)
    (h_sent : F .sent := by assumption) (h_evlog : F .evlog := by assumption) (h_regs : F .regs := by assumption)
    (h_live : F .live := by assumption) (h_mem : F .mem := by assumption) (h_frames : F .frames := by assumption)
    (h_boards : F .boards := by assumption) (h_dies : F .dies := by assumption) (h_mets : F .mets := by assumption)
    (h_pw : F .pw := by assumption) (h_hl : F .hl := by assumption) (h_wk : F .wk := by assumption)
    (h_fb : F .fb := by assumption) (h_lg : F .lg := by assumption)
    (h_sv : F .sv := by assumption) : KeepsO F s0 (execBrownOut100ms s) := by
  unfold execBrownOut100ms
  with_reducible repeat' first
      | assumption | apply KeepsO.next | apply State.powerFail_k | split | fail_if_no_progress (refine Keeps.upd ?_)

theorem execBrownOutEnd_k {F : Part → Prop} {s0 : State} (s : State) (hk : Keeps F s0 s)
    (h_regs : F .regs := by assumption) (h_pw : F .pw := by assumption) : KeepsO F s0 (execBrownOutEnd s) := by
  unfold execBrownOutEnd
  with_reducible repeat' first
      | assumption | apply KeepsO.next | apply State.bootAgain_k | split | fail_if_no_progress (refine Keeps.upd ?_)

theorem execSupplyLoss_k {F : Part → Prop} {s0 : State} (vin vsb : Nat) (s : State) (hk : Keeps F s0 s)
    (h_now : F .now := by assumption) (h_fresh : F .fresh := by assumption) (h_rdata : F .rdata := by assumption)
    (h_sent : F .sent := by assumption) (h_evlog : F .evlog := by assumption) (h_regs : F .regs := by assumption)
    (h_live : F .live := by assumption) (h_mem : F .mem := by assumption) (h_beads : F .beads := by assumption)
    (h_side : F .side := by assumption) (h_frames : F .frames := by assumption)
    (h_boards : F .boards := by assumption) (h_dies : F .dies := by assumption) (h_mets : F .mets := by assumption)
    (h_ck : F .ck := by assumption) (h_pw : F .pw := by assumption) (h_th : F .th := by assumption)
    (h_hl : F .hl := by assumption) (h_wk : F .wk := by assumption) (h_fb : F .fb := by assumption)
    (h_ms : F .ms := by assumption) (h_lg : F .lg := by assumption)
    (h_sv : F .sv := by assumption) : KeepsO F s0 (execSupplyLoss vin vsb s) := by
  unfold execSupplyLoss
  with_reducible repeat' first
      | assumption | apply KeepsO.next | apply State.off_k | split | fail_if_no_progress (refine Keeps.upd ?_)

theorem execVsbHigh_k {F : Part → Prop} {s0 : State} (mv : Nat) (s : State) (hk : Keeps F s0 s)
    (h_pw : F .pw := by assumption) : KeepsO F s0 (execVsbHigh mv s) := by
  unfold execVsbHigh
  with_reducible repeat' first | assumption | apply KeepsO.next | split | fail_if_no_progress (refine Keeps.upd ?_)

theorem execResetNLow_k {F : Part → Prop} {s0 : State} (ns : Nat) (s : State) (hk : Keeps F s0 s)
    (h_now : F .now := by assumption) (h_fresh : F .fresh := by assumption) (h_rdata : F .rdata := by assumption)
    (h_sent : F .sent := by assumption) (h_evlog : F .evlog := by assumption) (h_regs : F .regs := by assumption)
    (h_live : F .live := by assumption) (h_mem : F .mem := by assumption) (h_beads : F .beads := by assumption)
    (h_side : F .side := by assumption) (h_frames : F .frames := by assumption)
    (h_boards : F .boards := by assumption) (h_dies : F .dies := by assumption) (h_mets : F .mets := by assumption)
    (h_ck : F .ck := by assumption) (h_pw : F .pw := by assumption) (h_th : F .th := by assumption)
    (h_hl : F .hl := by assumption) (h_wk : F .wk := by assumption) (h_fb : F .fb := by assumption)
    (h_ms : F .ms := by assumption) (h_lg : F .lg := by assumption)
    (h_sv : F .sv := by assumption) : KeepsO F s0 (execResetNLow ns s) := by
  unfold execResetNLow
  with_reducible repeat' first
      | assumption | apply KeepsO.ite | apply KeepsO.next | apply State.setPstate_k | apply State.take_k
      | apply State.vinReset_k | split

theorem execWakeEdge_k {F : Part → Prop} {s0 : State} (s : State) (hk : Keeps F s0 s)
    (h_regs : F .regs := by assumption) (h_pw : F .pw := by assumption)
    (h_hl : F .hl := by assumption) : KeepsO F s0 (execWakeEdge s) := by
  unfold execWakeEdge
  with_reducible repeat' first | assumption | apply KeepsO.next | apply State.wake_k

theorem execRefclkLoss_k {F : Part → Prop} {s0 : State} (s : State) (hk : Keeps F s0 s)
    (h_evlog : F .evlog := by assumption) (h_ck : F .ck := by assumption) : KeepsO F s0 (execRefclkLoss s) := by
  unfold execRefclkLoss
  with_reducible repeat' first
      | assumption | apply KeepsO.next | apply State.log_k | split | fail_if_no_progress (refine Keeps.upd ?_)

theorem execIdleToDrowsy_k {F : Part → Prop} {s0 : State} (s : State) (hk : Keeps F s0 s)
    (h_regs : F .regs := by assumption) (h_pw : F .pw := by assumption) : KeepsO F s0 (execIdleToDrowsy s) := by
  unfold execIdleToDrowsy
  with_reducible repeat' first | assumption | apply KeepsO.next | apply State.beginEntry_k | split

theorem execIdleToDormant_k {F : Part → Prop} {s0 : State} (s : State) (hk : Keeps F s0 s)
    (h_regs : F .regs := by assumption) (h_pw : F .pw := by assumption) : KeepsO F s0 (execIdleToDormant s) := by
  unfold execIdleToDormant
  with_reducible repeat' first | assumption | apply KeepsO.next | apply State.beginEntry_k | split

theorem State.endEntry_k {F : Part → Prop} {s0 : State} (s : State) (hk : Keeps F s0 s)
    (h_regs : F .regs := by assumption) (h_pw : F .pw := by assumption) : Keeps F s0 (State.endEntry s) := by
  unfold State.endEntry
  with_reducible repeat' first | assumption | apply State.setBoth_k | fail_if_no_progress (refine Keeps.upd ?_)

theorem State.linksFrom_k {F : Part → Prop} {s0 : State} (s : State) (a b : Nat) (hk : Keeps F s0 s)
    (h_regs : F .regs := by assumption) : Keeps F s0 (State.linksFrom s a b) := by
  unfold State.linksFrom
  with_reducible repeat' first | assumption | intro _ | apply State.setLinkState_k | apply Keeps.foldl | split

theorem execDrowsyEntry_k {F : Part → Prop} {s0 : State} (s : State) (hk : Keeps F s0 s)
    (h_sent : F .sent := by assumption) (h_evlog : F .evlog := by assumption) (h_regs : F .regs := by assumption)
    (h_pw : F .pw := by assumption) (h_hl : F .hl := by assumption) : KeepsO F s0 (execDrowsyEntry s) := by
  unfold execDrowsyEntry
  with_reducible repeat' first
      | assumption | apply KeepsO.ite | apply KeepsO.next | apply State.enter_k | apply State.powerReached_k
      | apply State.endEntry_k | apply State.linksFrom_k

theorem execDormantEntry_k {F : Part → Prop} {s0 : State} (s : State) (hk : Keeps F s0 s)
    (h_sent : F .sent := by assumption) (h_evlog : F .evlog := by assumption) (h_regs : F .regs := by assumption)
    (h_live : F .live := by assumption) (h_mem : F .mem := by assumption) (h_frames : F .frames := by assumption)
    (h_boards : F .boards := by assumption) (h_dies : F .dies := by assumption) (h_mets : F .mets := by assumption)
    (h_pw : F .pw := by assumption) (h_hl : F .hl := by assumption)
    (h_fb : F .fb := by assumption) : KeepsO F s0 (execDormantEntry s) := by
  unfold execDormantEntry
  try dsimp only
  with_reducible repeat' first
      | assumption | intro _ | apply Keeps.ite | apply KeepsO.ite | apply KeepsO.next | apply State.enter_k
      | apply State.powerReached_k | apply State.saveArrays_k | apply State.arraysOff_k | apply State.endEntry_k
      | split | (refine Keeps.of_fst (by assumption) ?_) | (refine KeepsM.get (by assumption) ?_)
      | fail_if_no_progress (refine Keeps.upd ?_) | dsimp only

theorem State.backToReady_k {F : Part → Prop} {s0 : State} (s : State) (hk : Keeps F s0 s)
    (h_sent : F .sent := by assumption) (h_evlog : F .evlog := by assumption) (h_regs : F .regs := by assumption)
    (h_pw : F .pw := by assumption) (h_hl : F .hl := by assumption) : Keeps F s0 (State.backToReady s) := by
  unfold State.backToReady
  with_reducible repeat' first
      | assumption | apply Keeps.ite | apply State.enter_k | apply State.powerReached_k | apply State.beginEntry_k
      | fail_if_no_progress (refine Keeps.upd ?_)

theorem execWakeFromDormant_k {F : Part → Prop} {s0 : State} (s : State) (hk : Keeps F s0 s)
    (h_fresh : F .fresh := by assumption) (h_sent : F .sent := by assumption) (h_evlog : F .evlog := by assumption)
    (h_regs : F .regs := by assumption) (h_live : F .live := by assumption) (h_mem : F .mem := by assumption)
    (h_frames : F .frames := by assumption) (h_boards : F .boards := by assumption)
    (h_dies : F .dies := by assumption) (h_mets : F .mets := by assumption) (h_ck : F .ck := by assumption)
    (h_pw : F .pw := by assumption) (h_th : F .th := by assumption) (h_hl : F .hl := by assumption)
    (h_wk : F .wk := by assumption) (h_fb : F .fb := by assumption)
    (h_sv : F .sv := by assumption) : KeepsO F s0 (execWakeFromDormant s) := by
  unfold execWakeFromDormant
  with_reducible repeat' first
      | assumption | apply KeepsO.ite | apply KeepsO.next | apply State.wakeArrays_k | apply State.backToReady_k
      | fail_if_no_progress (refine Keeps.upd ?_)

theorem execWakeFromDrowsy_k {F : Part → Prop} {s0 : State} (s : State) (hk : Keeps F s0 s)
    (h_sent : F .sent := by assumption) (h_evlog : F .evlog := by assumption) (h_regs : F .regs := by assumption)
    (h_pw : F .pw := by assumption) (h_hl : F .hl := by assumption) : KeepsO F s0 (execWakeFromDrowsy s) := by
  unfold execWakeFromDrowsy
  with_reducible repeat' first
      | assumption | apply KeepsO.next | apply State.linksFrom_k | apply State.backToReady_k | split

theorem execOverdueRecountWake_k {F : Part → Prop} {s0 : State} (s : State) (hk : Keeps F s0 s)
    (h_regs : F .regs := by assumption) (h_pw : F .pw := by assumption)
    (h_hl : F .hl := by assumption) : KeepsO F s0 (execOverdueRecountWake s) := by
  unfold execOverdueRecountWake
  try dsimp only
  with_reducible repeat' first
      | assumption | intro _ | apply Keeps.ite | apply KeepsO.ite | apply KeepsO.next | apply State.wake_k
      | apply KeepsM.getD | split | (refine Keeps.of_fst (by assumption) ?_)
      | fail_if_no_progress (refine Keeps.upd ?_) | dsimp only

end Sys2Proof.Machine
end

