-- ==== Sys2Proof/Laws/Keeps5.lean ====
section
/-! SUPPORT. Every operation and meaning of Memory, Moves, Placement, SecurityCmds, Continuity, LedgerCmds, Thermal:
it leaves the queue alone, keeps the maps canonical, and changes only the parts its lemma names. -/

set_option Elab.async false

namespace Sys2Proof.Machine

theorem State.countCorrected_k {F : Part → Prop} {s0 : State} (s : State) (k : Nat) (hk : Keeps F s0 s)
    (h_ms : F .ms := by assumption) : Keeps F s0 (State.countCorrected s k) := by
  unfold State.countCorrected
  with_reducible repeat' first | assumption | fail_if_no_progress (refine Keeps.upd ?_)

theorem execSlateScrub_k {F : Part → Prop} {s0 : State} (d : Die) (b : Brd) (wi : Fin 16384) (e : EccErr) (s : State) (hk : Keeps F s0 s)
    (h_evlog : F .evlog := by assumption) (h_mem : F .mem := by assumption)
    (h_ms : F .ms := by assumption) : KeepsO F s0 (execSlateScrub d b wi e s) := by
  unfold execSlateScrub
  with_reducible repeat' first
      | assumption | apply KeepsO.next | apply State.zeroRange_k | apply State.log_k | apply State.countCorrected_k
      | apply State.uncorrectable_k | split

theorem State.loseImages_k {F : Part → Prop} {s0 : State} (s : State) (h : Nat) (hk : Keeps F s0 s)
    (h_wk : F .wk := by assumption) : Keeps F s0 (State.loseImages s h) := by
  unfold State.loseImages
  with_reducible repeat' first | assumption | fail_if_no_progress (refine Keeps.upd ?_)

theorem State.failChan_k {F : Part → Prop} {s0 : State} (s : State) (h c : Nat) (hk : Keeps F s0 s)
    (h_evlog : F .evlog := by assumption) (h_wk : F .wk := by assumption)
    (h_ms : F .ms := by assumption) : Keeps F s0 (State.failChan s h c) := by
  unfold State.failChan
  try dsimp only
  with_reducible repeat' first
      | assumption | intro _ | apply Keeps.ite | apply State.setRing_k | apply State.setChan_k | apply State.log_k
      | apply State.loseImages_k | apply KeepsM.getD | apply KeepsM.foldl | apply KeepsM.bind | apply Keeps.foldl
      | apply Keeps.foldl_fst | split | (refine Keeps.of_fst (by assumption) ?_)
      | (refine KeepsM.get (by assumption) ?_) | (refine KeepsE.get (by assumption) ?_)
      | fail_if_no_progress (refine Keeps.upd ?_) | dsimp only

theorem State.chanEvent_k {F : Part → Prop} {s0 : State} (s : State) (h c : Nat) (ev : ChanEv) (blk : Option Nat := none) (hk : Keeps F s0 s)
    (h_evlog : F .evlog := by assumption) (h_wk : F .wk := by assumption)
    (h_ms : F .ms := by assumption) : Keeps F s0 (State.chanEvent s h c ev blk) := by
  unfold State.chanEvent
  try dsimp only
  with_reducible repeat' first
      | assumption | intro _ | apply Keeps.ite | apply State.setChan_k | apply State.failChan_k
      | apply State.uncorrectable_k | apply KeepsM.getD | apply KeepsM.foldl | apply KeepsM.bind | apply Keeps.foldl
      | apply Keeps.foldl_fst | split | (refine Keeps.of_fst (by assumption) ?_)
      | (refine KeepsM.get (by assumption) ?_) | (refine KeepsE.get (by assumption) ?_)
      | fail_if_no_progress (refine Keeps.upd ?_) | dsimp only

theorem State.uncorrectable_k {F : Part → Prop} {s0 : State} (s : State) (k : Nat) (hk : Keeps F s0 s)
    (h_evlog : F .evlog := by assumption) (h_wk : F .wk := by assumption)
    (h_ms : F .ms := by assumption) : Keeps F s0 (State.uncorrectable s k) := by
  unfold State.uncorrectable
  try dsimp only
  with_reducible repeat' first
      | assumption | intro _ | apply Keeps.ite | apply State.log_k | apply State.chanEvent_k | apply KeepsM.getD
      | apply KeepsM.foldl | apply KeepsM.bind | apply Keeps.foldl | apply Keeps.foldl_fst | split
      | (refine Keeps.of_fst (by assumption) ?_) | (refine KeepsM.get (by assumption) ?_)
      | (refine KeepsE.get (by assumption) ?_) | fail_if_no_progress (refine Keeps.upd ?_) | dsimp only

theorem execDramPatrolScrub_k {F : Part → Prop} {s0 : State} (h : Hub) (blk : Nat) (e : EccErr) (s : State) (hk : Keeps F s0 s)
    (h_evlog : F .evlog := by assumption) (h_wk : F .wk := by assumption)
    (h_ms : F .ms := by assumption) : KeepsO F s0 (execDramPatrolScrub h blk e s) := by
  unfold execDramPatrolScrub
  with_reducible repeat' first
      | assumption | apply KeepsO.ite | apply KeepsO.next | apply State.countCorrected_k | apply State.uncorrectable_k
      | split

theorem execDramMr4Poll_k {F : Part → Prop} {s0 : State} (k : Fin 8) (rate : Fin 32) (beyond : Bool) (s : State) (hk : Keeps F s0 s)
    (h_ms : F .ms := by assumption) : KeepsO F s0 (execDramMr4Poll k rate beyond s) := by
  unfold execDramMr4Poll
  with_reducible repeat' first | assumption | apply KeepsO.next | fail_if_no_progress (refine Keeps.upd ?_)

theorem execDramRefresh_k {F : Part → Prop} {s0 : State} (_h : Hub) (_c : Fin 16) (s : State) (hk : Keeps F s0 s) : KeepsO F s0 (execDramRefresh _h _c s) := by
  unfold execDramRefresh
  with_reducible repeat' first | assumption | apply KeepsO.next

theorem execDramChannelFail_k {F : Part → Prop} {s0 : State} (h : Hub) (c : Fin 16) (ev : ChanEv) (s : State) (hk : Keeps F s0 s)
    (h_evlog : F .evlog := by assumption) (h_wk : F .wk := by assumption)
    (h_ms : F .ms := by assumption) : KeepsO F s0 (execDramChannelFail h c ev s) := by
  unfold execDramChannelFail
  try dsimp only
  with_reducible repeat' first
      | assumption | intro _ | apply Keeps.ite | apply KeepsO.ite | apply KeepsO.next | apply State.chanEvent_k
      | apply KeepsM.getD | apply KeepsM.foldl | apply KeepsM.bind | apply Keeps.foldl | apply Keeps.foldl_fst | split
      | (refine Keeps.of_fst (by assumption) ?_) | (refine KeepsM.get (by assumption) ?_)
      | (refine KeepsE.get (by assumption) ?_) | fail_if_no_progress (refine Keeps.upd ?_) | dsimp only

theorem State.ranUnmirrored_k {F : Part → Prop} {s0 : State} (s : State) (g : Nat) (hk : Keeps F s0 s)
    (h_wk : F .wk := by assumption) : Keeps F s0 (State.ranUnmirrored s g) := by
  unfold State.ranUnmirrored
  try dsimp only
  with_reducible repeat' first
      | assumption | intro _ | apply Keeps.ite | apply State.modJob_k | apply KeepsM.getD | apply KeepsM.foldl
      | apply KeepsM.bind | apply Keeps.foldl | apply Keeps.foldl_fst | split
      | (refine Keeps.of_fst (by assumption) ?_) | (refine KeepsM.get (by assumption) ?_)
      | (refine KeepsE.get (by assumption) ?_) | fail_if_no_progress (refine Keeps.upd ?_) | dsimp only

theorem execMirrorResyncDone_k {F : Part → Prop} {s0 : State} (g : Fin 4096) (s : State) (hk : Keeps F s0 s)
    (h_wk : F .wk := by assumption) : KeepsO F s0 (execMirrorResyncDone g s) := by
  unfold execMirrorResyncDone
  try dsimp only
  with_reducible repeat' first
      | assumption | intro _ | apply Keeps.ite | apply KeepsO.ite | apply KeepsO.next | apply State.setRing_k
      | apply State.ranUnmirrored_k | apply KeepsM.getD | apply KeepsM.foldl | apply KeepsM.bind | apply Keeps.foldl
      | apply Keeps.foldl_fst | split | (refine Keeps.of_fst (by assumption) ?_)
      | (refine KeepsM.get (by assumption) ?_) | (refine KeepsE.get (by assumption) ?_)
      | fail_if_no_progress (refine Keeps.upd ?_) | dsimp only

theorem State.flagPlacement_k {F : Part → Prop} {s0 : State} (s : State) (slot : Nat) (hk : Keeps F s0 s)
    (h_wk : F .wk := by assumption) : Keeps F s0 (State.flagPlacement s slot) := by
  unfold State.flagPlacement
  try dsimp only
  with_reducible repeat' first
      | assumption | intro _ | apply Keeps.ite | apply State.setJob_k | apply KeepsM.getD | apply KeepsM.foldl
      | apply KeepsM.bind | apply Keeps.foldl | apply Keeps.foldl_fst | split
      | (refine Keeps.of_fst (by assumption) ?_) | (refine KeepsM.get (by assumption) ?_)
      | (refine KeepsE.get (by assumption) ?_) | fail_if_no_progress (refine Keeps.upd ?_) | dsimp only

theorem State.measureBoth_k {F : Part → Prop} {s0 : State} (s : State) (fk : Nat) (hk : Keeps F s0 s)
    (h_fresh : F .fresh := by assumption) (h_evlog : F .evlog := by assumption) (h_regs : F .regs := by assumption)
    (h_frames : F .frames := by assumption) (h_dies : F .dies := by assumption)
    (h_mets : F .mets := by assumption) : Keeps F s0 (State.measureBoth s fk) := by
  unfold State.measureBoth
  try dsimp only
  with_reducible repeat' first
      | assumption | intro _ | apply Keeps.ite | apply State.consumeFirst_k | apply State.measureTrims_k
      | apply State.measureGain_k | apply State.writeBank_k | apply KeepsM.getD | apply KeepsM.foldl
      | apply KeepsM.bind | apply Keeps.foldl | apply Keeps.foldl_fst | split
      | (refine Keeps.of_fst (by assumption) ?_) | (refine KeepsM.get (by assumption) ?_)
      | (refine KeepsE.get (by assumption) ?_) | fail_if_no_progress (refine Keeps.upd ?_) | dsimp only

theorem State.switchFrame_k {F : Part → Prop} {s0 : State} (s : State) (r : Repair) (hk : Keeps F s0 s)
    (h_fresh : F .fresh := by assumption) (h_sent : F .sent := by assumption) (h_evlog : F .evlog := by assumption)
    (h_regs : F .regs := by assumption) (h_live : F .live := by assumption) (h_frames : F .frames := by assumption)
    (h_dies : F .dies := by assumption) (h_mets : F .mets := by assumption) (h_hl : F .hl := by assumption)
    (h_wk : F .wk := by assumption) (h_sv : F .sv := by assumption) : Keeps F s0 (State.switchFrame s r) := by
  unfold State.switchFrame
  try dsimp only
  with_reducible repeat' first
      | assumption | intro _ | apply Keeps.ite | apply State.bump_k | apply State.setFrame_k | apply State.setScore_k
      | apply State.event_k | apply State.scoreWrite_k | apply State.putRepair_k | apply State.commitBoard_k
      | apply State.copyConfig_k | apply State.flagPlacement_k | apply State.measureBoth_k | apply KeepsM.getD
      | apply KeepsM.foldl | apply KeepsM.bind | apply Keeps.foldl | apply Keeps.foldl_fst | split
      | (refine Keeps.of_fst (by assumption) ?_) | (refine KeepsM.get (by assumption) ?_)
      | (refine KeepsE.get (by assumption) ?_) | fail_if_no_progress (refine Keeps.upd ?_) | dsimp only

theorem State.diagnoseFrame_k {F : Part → Prop} {s0 : State} (s : State) (fk : Nat) (hk : Keeps F s0 s)
    (h_fresh : F .fresh := by assumption) (h_regs : F .regs := by assumption) (h_frames : F .frames := by assumption)
    (h_dies : F .dies := by assumption) (h_lg : F .lg := by assumption)
    (h_sv : F .sv := by assumption) : Keeps F s0 (State.diagnoseFrame s fk) := by
  unfold State.diagnoseFrame
  try dsimp only
  with_reducible repeat' first
      | assumption | intro _ | apply Keeps.ite | apply State.setFrame_k | apply State.take_k | apply State.retire_k
      | apply KeepsM.getD | apply KeepsM.foldl | apply KeepsM.bind | apply Keeps.foldl | apply Keeps.foldl_fst | split
      | (refine Keeps.of_fst (by assumption) ?_) | (refine KeepsM.get (by assumption) ?_)
      | (refine KeepsE.get (by assumption) ?_) | fail_if_no_progress (refine Keeps.upd ?_) | dsimp only

theorem State.leaveFrame_k {F : Part → Prop} {s0 : State} (s : State) (r : Repair) (hk : Keeps F s0 s)
    (h_regs : F .regs := by assumption) (h_frames : F .frames := by assumption) (h_dies : F .dies := by assumption)
    (h_lg : F .lg := by assumption) (h_sv : F .sv := by assumption) : Keeps F s0 (State.leaveFrame s r) := by
  unfold State.leaveFrame
  try dsimp only
  with_reducible repeat' first
      | assumption | intro _ | apply Keeps.ite | apply State.setFrame_k | apply State.retire_k
      | apply State.throughRepair_k | split | (refine KeepsM.get (by assumption) ?_)
      | fail_if_no_progress (refine Keeps.upd ?_) | dsimp only

theorem State.repairOn_k {F : Part → Prop} {s0 : State} (s : State) (r : Repair) (hk : Keeps F s0 s)
    (h_fresh : F .fresh := by assumption) (h_sent : F .sent := by assumption) (h_evlog : F .evlog := by assumption)
    (h_regs : F .regs := by assumption) (h_live : F .live := by assumption) (h_frames : F .frames := by assumption)
    (h_dies : F .dies := by assumption) (h_mets : F .mets := by assumption) (h_hl : F .hl := by assumption)
    (h_wk : F .wk := by assumption) (h_lg : F .lg := by assumption)
    (h_sv : F .sv := by assumption) : Keeps F s0 (State.repairOn s r) := by
  unfold State.repairOn
  try dsimp only
  with_reducible repeat' first
      | assumption | intro _ | apply Keeps.ite | apply State.toRepair_k | apply State.switchFrame_k
      | apply State.diagnoseFrame_k | apply State.leaveFrame_k | apply KeepsM.getD | apply KeepsM.foldl
      | apply KeepsM.bind | apply Keeps.foldl | apply Keeps.foldl_fst | split
      | (refine Keeps.of_fst (by assumption) ?_) | (refine KeepsM.get (by assumption) ?_)
      | (refine KeepsE.get (by assumption) ?_) | fail_if_no_progress (refine Keeps.upd ?_) | dsimp only

theorem State.prepareBoard_k {F : Part → Prop} {s0 : State} (s : State) (bk new : Nat) (hk : Keeps F s0 s)
    (h_evlog : F .evlog := by assumption) (h_regs : F .regs := by assumption) (h_live : F .live := by assumption)
    (h_mem : F .mem := by assumption) (h_frames : F .frames := by assumption) (h_boards : F .boards := by assumption)
    (h_dies : F .dies := by assumption)
    (h_sv : F .sv := by assumption) : Keeps F s0 (State.prepareBoard s bk new) := by
  unfold State.prepareBoard
  try dsimp only
  with_reducible repeat' first
      | assumption | intro _ | apply Keeps.ite | apply State.setFrame_k | apply State.setBoard_k
      | apply State.throughRepair_k | apply State.boardPlanes_k | apply State.loadBoard_k | apply KeepsM.foldl
      | apply Keeps.foldl | apply Keeps.foldl_fst | split | (refine Keeps.of_fst (by assumption) ?_)
      | (refine KeepsM.get (by assumption) ?_) | fail_if_no_progress (refine Keeps.upd ?_) | dsimp only

theorem State.moveBoard_k {F : Part → Prop} {s0 : State} (s : State) (bk : Nat) (hk : Keeps F s0 s)
    (h_sent : F .sent := by assumption) (h_evlog : F .evlog := by assumption) (h_regs : F .regs := by assumption)
    (h_live : F .live := by assumption) (h_mem : F .mem := by assumption) (h_frames : F .frames := by assumption)
    (h_boards : F .boards := by assumption) (h_dies : F .dies := by assumption) (h_hl : F .hl := by assumption)
    (h_sv : F .sv := by assumption) : Keeps F s0 (State.moveBoard s bk) := by
  unfold State.moveBoard
  with_reducible repeat' first
      | assumption | apply Keeps.ite | apply State.event_k | apply State.prepareBoard_k | split

theorem State.planeDone_k {F : Part → Prop} {s0 : State} (s : State) (r : Repair) (fk p : Nat) (hk : Keeps F s0 s)
    (h_fresh : F .fresh := by assumption) (h_sent : F .sent := by assumption) (h_evlog : F .evlog := by assumption)
    (h_regs : F .regs := by assumption) (h_live : F .live := by assumption) (h_frames : F .frames := by assumption)
    (h_dies : F .dies := by assumption) (h_mets : F .mets := by assumption) (h_hl : F .hl := by assumption)
    (h_wk : F .wk := by assumption) (h_lg : F .lg := by assumption)
    (h_sv : F .sv := by assumption) : Keeps F s0 (State.planeDone s r fk p) := by
  unfold State.planeDone
  try dsimp only
  with_reducible repeat' first
      | assumption | intro _ | apply Keeps.ite | apply State.bump_k | apply State.setFrame_k | apply State.event_k
      | apply State.repairPlane_k | apply State.putRepair_k | apply State.measureBoth_k | apply State.repairOn_k
      | apply KeepsM.getD | apply KeepsM.foldl | apply KeepsM.bind | apply Keeps.foldl | apply Keeps.foldl_fst | split
      | (refine Keeps.of_fst (by assumption) ?_) | (refine KeepsM.get (by assumption) ?_)
      | (refine KeepsE.get (by assumption) ?_) | fail_if_no_progress (refine Keeps.upd ?_) | dsimp only

theorem execPrgPlaneClose_k {F : Part → Prop} {s0 : State} (d : Die) (b : Brd) (f : Frm) (ok : Bool) (s : State) (hk : Keeps F s0 s)
    (h_fresh : F .fresh := by assumption) (h_sent : F .sent := by assumption) (h_evlog : F .evlog := by assumption)
    (h_regs : F .regs := by assumption) (h_live : F .live := by assumption) (h_mem : F .mem := by assumption)
    (h_frames : F .frames := by assumption) (h_boards : F .boards := by assumption)
    (h_dies : F .dies := by assumption) (h_mets : F .mets := by assumption) (h_hl : F .hl := by assumption)
    (h_wk : F .wk := by assumption) (h_fb : F .fb := by assumption) (h_lg : F .lg := by assumption)
    (h_sv : F .sv := by assumption) : KeepsO F s0 (execPrgPlaneClose d b f ok s) := by
  unfold execPrgPlaneClose
  try dsimp only
  with_reducible repeat' first
      | assumption | intro _ | apply Keeps.ite | apply KeepsO.ite | apply KeepsO.next | apply State.setFrame_k
      | apply State.setScore_k | apply State.draw_k | apply State.stopPrg_k | apply State.setHeader_k
      | apply State.loadFailed_k | apply State.repairFailed_k | apply State.loadOn_k | apply State.planeDone_k
      | apply KeepsM.getD | apply KeepsM.foldl | apply KeepsM.bind | apply Keeps.foldl | apply Keeps.foldl_fst | split
      | (refine Keeps.of_fst (by assumption) ?_) | (refine KeepsM.get (by assumption) ?_)
      | (refine KeepsE.get (by assumption) ?_) | fail_if_no_progress (refine Keeps.upd ?_) | dsimp only

theorem execRefreshMigration_k {F : Part → Prop} {s0 : State} (d : Die) (b : Brd) (f : Frm) (s : State) (hk : Keeps F s0 s)
    (h_fresh : F .fresh := by assumption) (h_sent : F .sent := by assumption) (h_evlog : F .evlog := by assumption)
    (h_regs : F .regs := by assumption) (h_live : F .live := by assumption) (h_mem : F .mem := by assumption)
    (h_frames : F .frames := by assumption) (h_boards : F .boards := by assumption)
    (h_dies : F .dies := by assumption) (h_mets : F .mets := by assumption) (h_hl : F .hl := by assumption)
    (h_wk : F .wk := by assumption) (h_lg : F .lg := by assumption)
    (h_sv : F .sv := by assumption) : KeepsO F s0 (execRefreshMigration d b f s) := by
  unfold execRefreshMigration
  try dsimp only
  with_reducible repeat' first
      | assumption | intro _ | apply Keeps.ite | apply KeepsO.ite | apply KeepsO.next | apply State.startRepair_k
      | apply State.repairOn_k | apply State.moveBoard_k | apply KeepsM.getD | apply KeepsM.foldl | apply KeepsM.bind
      | apply Keeps.foldl | apply Keeps.foldl_fst | split | (refine Keeps.of_fst (by assumption) ?_)
      | (refine KeepsM.get (by assumption) ?_) | (refine KeepsE.get (by assumption) ?_)
      | fail_if_no_progress (refine Keeps.upd ?_) | dsimp only

theorem execFrameRepair_k {F : Part → Prop} {s0 : State} (d : Die) (b : Brd) (f : Frm) (s : State) (hk : Keeps F s0 s)
    (h_fresh : F .fresh := by assumption) (h_sent : F .sent := by assumption) (h_evlog : F .evlog := by assumption)
    (h_regs : F .regs := by assumption) (h_live : F .live := by assumption) (h_mem : F .mem := by assumption)
    (h_frames : F .frames := by assumption) (h_boards : F .boards := by assumption)
    (h_dies : F .dies := by assumption) (h_mets : F .mets := by assumption) (h_hl : F .hl := by assumption)
    (h_wk : F .wk := by assumption) (h_lg : F .lg := by assumption)
    (h_sv : F .sv := by assumption) : KeepsO F s0 (execFrameRepair d b f s) := by
  unfold execFrameRepair
  try dsimp only
  with_reducible repeat' first
      | assumption | apply KeepsO.next | apply State.setFrame_k | apply State.toRepair_k | apply State.startRepair_k
      | apply State.diagnoseFrame_k | apply State.repairOn_k | apply State.moveBoard_k | split

theorem State.sendSwitch_k {F : Part → Prop} {s0 : State} (s : State) (w : Switch) (hk : Keeps F s0 s)
    (h_sent : F .sent := by assumption) (h_regs : F .regs := by assumption) (h_live : F .live := by assumption)
    (h_boards : F .boards := by assumption) (h_wk : F .wk := by assumption)
    (h_fb : F .fb := by assumption) : Keeps F s0 (State.sendSwitch s w) := by
  unfold State.sendSwitch
  with_reducible repeat' first
      | assumption | intro _ | apply Keeps.ite | apply State.sendPkt_k | apply State.putSwitch_k
      | apply State.switchAcked_k | apply Keeps.foldl | fail_if_no_progress (refine Keeps.upd ?_)

theorem execOverlappedBoardSwitch_k {F : Part → Prop} {s0 : State} (slot : Fin 64) (lb : Nat) (d : Die) (b : Brd) (s : State) (hk : Keeps F s0 s)
    (h_sent : F .sent := by assumption) (h_evlog : F .evlog := by assumption) (h_regs : F .regs := by assumption)
    (h_live : F .live := by assumption) (h_mem : F .mem := by assumption) (h_frames : F .frames := by assumption)
    (h_boards : F .boards := by assumption) (h_dies : F .dies := by assumption) (h_wk : F .wk := by assumption)
    (h_fb : F .fb := by assumption)
    (h_sv : F .sv := by assumption) : KeepsO F s0 (execOverlappedBoardSwitch slot lb d b s) := by
  unfold execOverlappedBoardSwitch
  try dsimp only
  with_reducible repeat' first
      | assumption | apply KeepsO.next | apply State.prepareBoard_k | apply State.sendSwitch_k | split
      | fail_if_no_progress (refine Keeps.upd ?_)

theorem State.copyState_k {F : Part → Prop} {s0 : State} (s : State) (slot lb old new : Nat) (hk : Keeps F s0 s)
    (h_mem : F .mem := by assumption)
    (h_boards : F .boards := by assumption) : Keeps F s0 (State.copyState s slot lb old new) := by
  unfold State.copyState
  try dsimp only
  with_reducible repeat' first
      | assumption | intro _ | apply Keeps.ite | apply State.setBoard_k | apply State.store_k | apply KeepsM.foldl
      | apply Keeps.foldl | apply Keeps.foldl_fst | split | (refine Keeps.of_fst (by assumption) ?_)
      | fail_if_no_progress (refine Keeps.upd ?_) | dsimp only

theorem State.replaceBoard_k {F : Part → Prop} {s0 : State} (s : State) (slot lb old new : Nat) (hk : Keeps F s0 s)
    (h_regs : F .regs := by assumption) (h_live : F .live := by assumption) (h_frames : F .frames := by assumption)
    (h_boards : F .boards := by assumption) (h_dies : F .dies := by assumption) (h_wk : F .wk := by assumption)
    (h_fb : F .fb := by assumption) : Keeps F s0 (State.replaceBoard s slot lb old new) := by
  unfold State.replaceBoard
  try dsimp only
  with_reducible repeat' first
      | assumption | intro _ | apply Keeps.ite | apply State.setFrame_k | apply State.setBoard_k
      | apply State.setScore_k | apply State.throughRepair_k | apply State.commitBoard_k | apply State.flagPlacement_k
      | apply KeepsM.foldl | apply Keeps.foldl | apply Keeps.foldl_fst | split
      | (refine Keeps.of_fst (by assumption) ?_) | (refine KeepsM.get (by assumption) ?_)
      | fail_if_no_progress (refine Keeps.upd ?_) | dsimp only

theorem State.endMove_k {F : Part → Prop} {s0 : State} (s : State) (old : Nat) (hk : Keeps F s0 s)
    (h_sent : F .sent := by assumption) (h_evlog : F .evlog := by assumption) (h_regs : F .regs := by assumption)
    (h_hl : F .hl := by assumption) (h_sv : F .sv := by assumption) : Keeps F s0 (State.endMove s old) := by
  unfold State.endMove
  try dsimp only
  with_reducible repeat' first
      | assumption | intro _ | apply Keeps.ite | apply State.bump_k | apply State.event_k | split
      | (refine Keeps.of_fst (by assumption) ?_) | (refine KeepsM.get (by assumption) ?_)
      | fail_if_no_progress (refine Keeps.upd ?_) | dsimp only

theorem execHistoryCopy_k {F : Part → Prop} {s0 : State} (slot : Fin 64) (lb : Nat) (s : State) (hk : Keeps F s0 s)
    (h_sent : F .sent := by assumption) (h_evlog : F .evlog := by assumption) (h_regs : F .regs := by assumption)
    (h_live : F .live := by assumption) (h_mem : F .mem := by assumption) (h_frames : F .frames := by assumption)
    (h_boards : F .boards := by assumption) (h_dies : F .dies := by assumption) (h_hl : F .hl := by assumption)
    (h_wk : F .wk := by assumption) (h_fb : F .fb := by assumption)
    (h_sv : F .sv := by assumption) : KeepsO F s0 (execHistoryCopy slot lb s) := by
  unfold execHistoryCopy
  try dsimp only
  with_reducible repeat' first
      | assumption | intro _ | apply Keeps.ite | apply KeepsO.ite | apply KeepsO.next | apply State.putSwitch_k
      | apply State.copyState_k | apply State.replaceBoard_k | apply State.endMove_k | split
      | (refine Keeps.of_fst (by assumption) ?_) | (refine KeepsM.get (by assumption) ?_)
      | fail_if_no_progress (refine Keeps.upd ?_) | dsimp only

theorem execFencedBoardSwitch_k {F : Part → Prop} {s0 : State} (slot : Fin 64) (lb : Nat) (d : Die) (b : Brd) (failed : Bool) (s : State) (hk : Keeps F s0 s)
    (h_sent : F .sent := by assumption) (h_evlog : F .evlog := by assumption) (h_regs : F .regs := by assumption)
    (h_live : F .live := by assumption) (h_mem : F .mem := by assumption) (h_frames : F .frames := by assumption)
    (h_boards : F .boards := by assumption) (h_dies : F .dies := by assumption) (h_hl : F .hl := by assumption)
    (h_wk : F .wk := by assumption) (h_fb : F .fb := by assumption)
    (h_sv : F .sv := by assumption) : KeepsO F s0 (execFencedBoardSwitch slot lb d b failed s) := by
  unfold execFencedBoardSwitch
  try dsimp only
  with_reducible repeat' first
      | assumption | apply KeepsO.next | apply State.serve_k | apply State.prepareBoard_k | apply State.sendSwitch_k
      | apply State.copyState_k | apply State.replaceBoard_k | apply State.endMove_k | split
      | fail_if_no_progress (refine Keeps.upd ?_)

theorem execSwitchRecordRemoval_k {F : Part → Prop} {s0 : State} (slot : Fin 64) (lb : Nat) (s : State) (hk : Keeps F s0 s)
    (h_regs : F .regs := by assumption)
    (h_fb : F .fb := by assumption) : KeepsO F s0 (execSwitchRecordRemoval slot lb s) := by
  unfold execSwitchRecordRemoval
  try dsimp only
  with_reducible repeat' first
      | assumption | intro _ | apply Keeps.ite | apply KeepsO.ite | apply KeepsO.next | apply State.dropRecAt_k
      | apply KeepsM.getD | apply KeepsM.foldl | apply KeepsM.bind | apply Keeps.foldl | apply Keeps.foldl_fst | split
      | (refine Keeps.of_fst (by assumption) ?_) | (refine KeepsM.get (by assumption) ?_)
      | (refine KeepsE.get (by assumption) ?_) | fail_if_no_progress (refine Keeps.upd ?_) | dsimp only

theorem State.failScore_k {F : Part → Prop} {s0 : State} (s : State) (slot status : Nat) (all : Bool) (hk : Keeps F s0 s)
    (h_sent : F .sent := by assumption) (h_evlog : F .evlog := by assumption) (h_regs : F .regs := by assumption)
    (h_live : F .live := by assumption) (h_mem : F .mem := by assumption) (h_frames : F .frames := by assumption)
    (h_boards : F .boards := by assumption) (h_dies : F .dies := by assumption) (h_hl : F .hl := by assumption)
    (h_wk : F .wk := by assumption) (h_fb : F .fb := by assumption)
    (h_sv : F .sv := by assumption) : Keeps F s0 (State.failScore s slot status all) := by
  unfold State.failScore
  with_reducible repeat' first | assumption | intro _ | apply State.failJob_k | apply Keeps.foldl | split

theorem State.failBoard_k {F : Part → Prop} {s0 : State} (s : State) (bk : Nat) (hk : Keeps F s0 s)
    (h_boards : F .boards := by assumption) (h_dies : F .dies := by assumption) (h_lg : F .lg := by assumption)
    (h_sv : F .sv := by assumption) : Keeps F s0 (State.failBoard s bk) := by
  unfold State.failBoard
  with_reducible repeat' first
      | assumption | apply State.setBoard_k | apply State.setDie_k | apply State.mapSet_k
      | fail_if_no_progress (refine Keeps.upd ?_)

theorem State.coverBoard_k {F : Part → Prop} {s0 : State} (s : State) (r : Repair) (hk : Keeps F s0 s)
    (h_frames : F .frames := by assumption) : Keeps F s0 (State.coverBoard s r) := by
  unfold State.coverBoard
  with_reducible repeat' first | assumption | intro _ | apply State.setFrame_k | apply Keeps.foldl

theorem State.takeOverBoard_k {F : Part → Prop} {s0 : State} (s : State) (slot lb bk new : Nat) (hk : Keeps F s0 s)
    (h_sent : F .sent := by assumption) (h_evlog : F .evlog := by assumption) (h_regs : F .regs := by assumption)
    (h_live : F .live := by assumption) (h_mem : F .mem := by assumption) (h_frames : F .frames := by assumption)
    (h_boards : F .boards := by assumption) (h_dies : F .dies := by assumption) (h_hl : F .hl := by assumption)
    (h_wk : F .wk := by assumption) (h_fb : F .fb := by assumption)
    (h_sv : F .sv := by assumption) : Keeps F s0 (State.takeOverBoard s slot lb bk new) := by
  unfold State.takeOverBoard
  try dsimp only
  with_reducible repeat' first
      | assumption | intro _ | apply Keeps.ite | apply State.resetHist_k | apply State.prepareBoard_k
      | apply State.sendSwitch_k | apply State.replaceBoard_k | apply State.endMove_k | apply State.coverBoard_k
      | apply KeepsM.foldl | apply Keeps.foldl | apply Keeps.foldl_fst | split
      | (refine Keeps.of_fst (by assumption) ?_) | (refine KeepsM.get (by assumption) ?_)
      | fail_if_no_progress (refine Keeps.upd ?_) | dsimp only

theorem State.loseDie_k {F : Part → Prop} {s0 : State} (s : State) (d : Nat) (hk : Keeps F s0 s)
    (h_sent : F .sent := by assumption) (h_evlog : F .evlog := by assumption) (h_regs : F .regs := by assumption)
    (h_live : F .live := by assumption) (h_mem : F .mem := by assumption) (h_frames : F .frames := by assumption)
    (h_boards : F .boards := by assumption) (h_dies : F .dies := by assumption) (h_mets : F .mets := by assumption)
    (h_hl : F .hl := by assumption) (h_wk : F .wk := by assumption) (h_fb : F .fb := by assumption)
    (h_lg : F .lg := by assumption) (h_sv : F .sv := by assumption) : Keeps F s0 (State.loseDie s d) := by
  unfold State.loseDie
  try dsimp only
  with_reducible repeat' first
      | assumption | intro _ | apply Keeps.ite | apply State.setDie_k | apply State.setMet_k | apply State.event_k
      | apply State.mapSet_k | apply State.setBoth_k | apply State.declareDown_k | apply State.failScore_k
      | apply KeepsM.foldl | apply Keeps.foldl | apply Keeps.foldl_fst | split
      | (refine Keeps.of_fst (by assumption) ?_) | fail_if_no_progress (refine Keeps.upd ?_) | dsimp only

theorem execBoardRepair_k {F : Part → Prop} {s0 : State} (d : Die) (b : Brd) (s : State) (hk : Keeps F s0 s)
    (h_sent : F .sent := by assumption) (h_evlog : F .evlog := by assumption) (h_regs : F .regs := by assumption)
    (h_live : F .live := by assumption) (h_mem : F .mem := by assumption) (h_frames : F .frames := by assumption)
    (h_boards : F .boards := by assumption) (h_dies : F .dies := by assumption) (h_mets : F .mets := by assumption)
    (h_hl : F .hl := by assumption) (h_wk : F .wk := by assumption) (h_fb : F .fb := by assumption)
    (h_lg : F .lg := by assumption) (h_sv : F .sv := by assumption) : KeepsO F s0 (execBoardRepair d b s) := by
  unfold execBoardRepair
  try dsimp only
  with_reducible repeat' first
      | assumption | intro _ | apply Keeps.ite | apply KeepsO.ite | apply KeepsO.next | apply State.setBoard_k
      | apply State.setScore_k | apply State.event_k | apply State.boardFault_k | apply State.moveBoard_k
      | apply State.failScore_k | apply State.failBoard_k | apply State.takeOverBoard_k | apply State.loseDie_k
      | split | (refine Keeps.of_fst (by assumption) ?_) | (refine KeepsM.get (by assumption) ?_)
      | fail_if_no_progress (refine Keeps.upd ?_) | dsimp only

theorem execDieLoss_k {F : Part → Prop} {s0 : State} (d : Die) (s : State) (hk : Keeps F s0 s)
    (h_sent : F .sent := by assumption) (h_evlog : F .evlog := by assumption) (h_regs : F .regs := by assumption)
    (h_live : F .live := by assumption) (h_mem : F .mem := by assumption) (h_frames : F .frames := by assumption)
    (h_boards : F .boards := by assumption) (h_dies : F .dies := by assumption) (h_mets : F .mets := by assumption)
    (h_hl : F .hl := by assumption) (h_wk : F .wk := by assumption) (h_fb : F .fb := by assumption)
    (h_lg : F .lg := by assumption) (h_sv : F .sv := by assumption) : KeepsO F s0 (execDieLoss d s) := by
  unfold execDieLoss
  with_reducible repeat' first | assumption | apply KeepsO.next | apply State.loseDie_k

theorem State.secBit_k {F : Part → Prop} {s0 : State} (s : State) (n : Nat) (b : Bool) (hk : Keeps F s0 s)
    (h_regs : F .regs := by assumption) : Keeps F s0 (State.secBit s n b) := by
  unfold State.secBit
  with_reducible repeat' first | assumption | apply State.setReg_k

theorem execSecChallenge_k {F : Part → Prop} {s0 : State} (r : Req) (s : State) (hk : Keeps F s0 s)
    (h_fresh : F .fresh := by assumption) (h_regs : F .regs := by assumption)
    (h_hl : F .hl := by assumption) : KeepsO F s0 (execSecChallenge r s) := by
  unfold execSecChallenge
  try dsimp only
  with_reducible repeat' first
      | assumption | exact fun _ => by assumption | exact fun h => absurd h Bool.false_ne_true | intro _
      | apply Keeps.ite | apply KeepsO.ite | apply KeepsO.next | apply KeepsR.ite | apply KeepsR.refuse
      | apply KeepsR.fail | apply KeepsR.ok | apply KeepsR.pend | apply State.bump_k | apply State.setSess_k
      | apply State.take_k | apply State.command_k | apply KeepsM.getD | apply KeepsM.foldl | apply KeepsM.bind
      | apply Keeps.foldl | apply Keeps.foldl_fst | split | (refine Keeps.of_fst (by assumption) ?_)
      | (refine KeepsM.get (by assumption) ?_) | (refine KeepsE.get (by assumption) ?_)
      | fail_if_no_progress (refine Keeps.upd ?_) | dsimp only

theorem State.authFail_k {F : Part → Prop} {s0 : State} (s : State) (h n : Nat) (hk : Keeps F s0 s)
    (h_regs : F .regs := by assumption) (h_hl : F .hl := by assumption) : Keeps F s0 (State.authFail s h n) := by
  unfold State.authFail
  with_reducible repeat' first | assumption | apply State.bump_k | apply State.setSess_k

theorem execSecAuth_k {F : Part → Prop} {s0 : State} (r : Req) (sig : Bool) (s : State) (hk : Keeps F s0 s)
    (h_fresh : F .fresh := by assumption) (h_regs : F .regs := by assumption) (h_hl : F .hl := by assumption)
    (h_lg : F .lg := by assumption) : KeepsO F s0 (execSecAuth r sig s) := by
  unfold execSecAuth
  try dsimp only
  with_reducible repeat' first
      | assumption | exact fun _ => by assumption | exact fun h => absurd h Bool.false_ne_true | intro _
      | apply Keeps.ite | apply KeepsO.ite | apply KeepsO.next | apply KeepsR.ite | apply KeepsR.refuse
      | apply KeepsR.fail | apply KeepsR.ok | apply KeepsR.pend | apply State.bump_k | apply State.setSess_k
      | apply State.command_k | apply State.turnDown_k | apply State.authFail_k | apply KeepsM.getD
      | apply KeepsM.foldl | apply KeepsM.bind | apply Keeps.foldl | apply Keeps.foldl_fst | split
      | (refine Keeps.of_fst (by assumption) ?_) | (refine KeepsM.get (by assumption) ?_)
      | (refine KeepsE.get (by assumption) ?_) | fail_if_no_progress (refine Keeps.upd ?_) | dsimp only

theorem execSecDrop_k {F : Part → Prop} {s0 : State} (r : Req) (s : State) (hk : Keeps F s0 s)
    (h_fresh : F .fresh := by assumption) (h_regs : F .regs := by assumption) (h_hl : F .hl := by assumption)
    (h_lg : F .lg := by assumption) : KeepsO F s0 (execSecDrop r s) := by
  unfold execSecDrop
  try dsimp only
  with_reducible repeat' first
      | assumption | exact fun _ => by assumption | exact fun h => absurd h Bool.false_ne_true | intro _
      | apply Keeps.ite | apply KeepsO.ite | apply KeepsO.next | apply KeepsR.ite | apply KeepsR.refuse
      | apply KeepsR.fail | apply KeepsR.ok | apply KeepsR.pend | apply State.setSess_k | apply State.command_k
      | apply KeepsM.getD | apply KeepsM.foldl | apply KeepsM.bind | apply Keeps.foldl | apply Keeps.foldl_fst | split
      | (refine Keeps.of_fst (by assumption) ?_) | (refine KeepsM.get (by assumption) ?_)
      | (refine KeepsE.get (by assumption) ?_) | fail_if_no_progress (refine Keeps.upd ?_) | dsimp only

theorem execSecCak_k {F : Part → Prop} {s0 : State} (r : Req) (opened : Option (List Byte)) (s : State) (hk : Keeps F s0 s)
    (h_fresh : F .fresh := by assumption) (h_regs : F .regs := by assumption) (h_hl : F .hl := by assumption)
    (h_lg : F .lg := by assumption) : KeepsO F s0 (execSecCak r opened s) := by
  unfold execSecCak
  try dsimp only
  with_reducible repeat' first
      | assumption | exact fun _ => by assumption | exact fun h => absurd h Bool.false_ne_true | intro _
      | apply Keeps.ite | apply KeepsO.ite | apply KeepsO.next | apply KeepsR.ite | apply KeepsR.refuse
      | apply KeepsR.fail | apply KeepsR.ok | apply KeepsR.pend | apply State.bump_k | apply State.command_k
      | apply State.sealWrite_k | apply State.secBit_k | apply KeepsM.getD | apply KeepsM.foldl | apply KeepsM.bind
      | apply Keeps.foldl | apply Keeps.foldl_fst | split | (refine Keeps.of_fst (by assumption) ?_)
      | (refine KeepsM.get (by assumption) ?_) | (refine KeepsE.get (by assumption) ?_)
      | fail_if_no_progress (refine Keeps.upd ?_) | dsimp only

theorem State.dropInstallers_k {F : Part → Prop} {s0 : State} (s : State) (keep : Nat) (hk : Keeps F s0 s)
    (h_regs : F .regs := by assumption) (h_hl : F .hl := by assumption)
    (h_lg : F .lg := by assumption) : Keeps F s0 (State.dropInstallers s keep) := by
  unfold State.dropInstallers
  with_reducible repeat' first
      | assumption | intro _ | apply Keeps.ite | apply State.setSess_k | apply State.auditModule_k | apply Keeps.foldl

theorem execSecIkey_k {F : Part → Prop} {s0 : State} (r : Req) (sig : Bool) (s : State) (hk : Keeps F s0 s)
    (h_fresh : F .fresh := by assumption) (h_regs : F .regs := by assumption) (h_hl : F .hl := by assumption)
    (h_lg : F .lg := by assumption) : KeepsO F s0 (execSecIkey r sig s) := by
  unfold execSecIkey
  try dsimp only
  with_reducible repeat' first
      | assumption | exact fun _ => by assumption | exact fun h => absurd h Bool.false_ne_true | intro _
      | apply Keeps.ite | apply KeepsO.ite | apply KeepsO.next | apply KeepsR.ite | apply KeepsR.refuse
      | apply KeepsR.fail | apply KeepsR.ok | apply KeepsR.pend | apply State.take_k | apply State.ctrInc_k
      | apply State.command_k | apply State.secBit_k | apply State.dropInstallers_k | apply State.ledgerPages_k
      | apply KeepsM.getD | apply KeepsM.foldl | apply KeepsM.bind | apply Keeps.foldl | apply Keeps.foldl_fst | split
      | (refine Keeps.of_fst (by assumption) ?_) | (refine KeepsM.get (by assumption) ?_)
      | (refine KeepsE.get (by assumption) ?_) | fail_if_no_progress (refine Keeps.upd ?_) | dsimp only

theorem execSecAttest_k {F : Part → Prop} {s0 : State} (r : Req) (s : State) (hk : Keeps F s0 s)
    (h_fresh : F .fresh := by assumption) (h_sent : F .sent := by assumption) (h_regs : F .regs := by assumption)
    (h_hl : F .hl := by assumption) (h_wk : F .wk := by assumption) : KeepsO F s0 (execSecAttest r s) := by
  unfold execSecAttest
  try dsimp only
  with_reducible repeat' first
      | assumption | exact fun _ => by assumption | exact fun h => absurd h Bool.false_ne_true | intro _
      | apply Keeps.ite | apply KeepsO.ite | apply KeepsO.next | apply KeepsR.ite | apply KeepsR.refuse
      | apply KeepsR.fail | apply KeepsR.ok | apply KeepsR.pend | apply State.take_k | apply State.command_k
      | apply State.bulk_k | apply KeepsM.getD | apply KeepsM.foldl | apply KeepsM.bind | apply Keeps.foldl
      | apply Keeps.foldl_fst | split | (refine Keeps.of_fst (by assumption) ?_)
      | (refine KeepsM.get (by assumption) ?_) | (refine KeepsE.get (by assumption) ?_)
      | fail_if_no_progress (refine Keeps.upd ?_) | dsimp only

theorem State.raiseLevel_k {F : Part → Prop} {s0 : State} (n : Nat) (s : State) (l : Nat) (hk : Keeps F s0 s)
    (h_regs : F .regs := by assumption) (h_lg : F .lg := by assumption) : Keeps F s0 (State.raiseLevel n s l) := by
  induction n generalizing s with
  | zero => exact hk
  | succ n ih =>
    unfold State.raiseLevel
    exact Keeps.ite (ih _ (State.ctrInc_k _ _ hk)) hk

theorem State.bootSlot_k {F : Part → Prop} {s0 : State} (s : State) (h slot : Nat) (hk : Keeps F s0 s)
    (h_regs : F .regs := by assumption) (h_sv : F .sv := by assumption) : Keeps F s0 (State.bootSlot s h slot) := by
  unfold State.bootSlot
  try dsimp only
  with_reducible repeat' first
      | assumption | intro _ | apply Keeps.ite | apply State.setReg_k | apply State.setRegN_k | split
      | (refine KeepsM.get (by assumption) ?_) | fail_if_no_progress (refine Keeps.upd ?_) | dsimp only

theorem State.sessPorts_k {F : Part → Prop} {s0 : State} (s : State) (h : Nat) (p : Hub) (hk : Keeps F s0 s)
    (h_hl : F .hl := by assumption) : Keeps F s0 (State.sessPorts s h p) := by
  unfold State.sessPorts
  try dsimp only
  with_reducible repeat' first
      | assumption | intro _ | apply Keeps.ite | apply State.setSess_k | apply KeepsM.foldl | apply Keeps.foldl
      | apply Keeps.foldl_fst | split | fail_if_no_progress (refine Keeps.upd ?_) | dsimp only

theorem State.markTakeover_k {F : Part → Prop} {s0 : State} (s : State) (h : Nat) (hk : Keeps F s0 s)
    (h_wk : F .wk := by assumption) : Keeps F s0 (State.markTakeover s h) := by
  unfold State.markTakeover
  try dsimp only
  with_reducible repeat' first
      | assumption | intro _ | apply Keeps.ite | split | (refine Keeps.of_fst (by assumption) ?_)
      | fail_if_no_progress (refine Keeps.upd ?_) | dsimp only

theorem State.beatsNow_k {F : Part → Prop} {s0 : State} (s : State) (hk : Keeps F s0 s)
    (h_sv : F .sv := by assumption) : Keeps F s0 (State.beatsNow s) := by
  unfold State.beatsNow
  try dsimp only
  with_reducible repeat' first
      | assumption | intro _ | apply Keeps.ite | apply KeepsM.foldl | apply Keeps.foldl | apply Keeps.foldl_fst
      | split | fail_if_no_progress (refine Keeps.upd ?_) | dsimp only

theorem State.hubOut_k {F : Part → Prop} {s0 : State} (s : State) (h : Nat) (hk : Keeps F s0 s)
    (h_pw : F .pw := by assumption) (h_hl : F .hl := by assumption) (h_wk : F .wk := by assumption)
    (h_sv : F .sv := by assumption) : Keeps F s0 (State.hubOut s h) := by
  unfold State.hubOut
  try dsimp only
  with_reducible repeat' first
      | assumption | intro _ | apply Keeps.ite | apply State.freeHubLocks_k | apply State.sessPorts_k
      | apply State.markTakeover_k | apply State.beatsNow_k | apply KeepsM.getD | apply KeepsM.foldl
      | apply KeepsM.bind | apply Keeps.foldl | apply Keeps.foldl_fst | split
      | (refine Keeps.of_fst (by assumption) ?_) | (refine KeepsM.get (by assumption) ?_)
      | (refine KeepsE.get (by assumption) ?_) | fail_if_no_progress (refine Keeps.upd ?_) | dsimp only

theorem State.hubBack_k {F : Part → Prop} {s0 : State} (s : State) (h : Nat) (hk : Keeps F s0 s)
    (h_pw : F .pw := by assumption) (h_wk : F .wk := by assumption)
    (h_sv : F .sv := by assumption) : Keeps F s0 (State.hubBack s h) := by
  unfold State.hubBack
  try dsimp only
  with_reducible repeat' first
      | assumption | intro _ | apply Keeps.ite | apply State.markTakeover_k | apply State.beatsNow_k
      | apply KeepsM.getD | apply KeepsM.foldl | apply KeepsM.bind | apply Keeps.foldl | apply Keeps.foldl_fst | split
      | (refine Keeps.of_fst (by assumption) ?_) | (refine KeepsM.get (by assumption) ?_)
      | (refine KeepsE.get (by assumption) ?_) | fail_if_no_progress (refine Keeps.upd ?_) | dsimp only

theorem State.endUpdate_k {F : Part → Prop} {s0 : State} (s : State) (code : Nat) (hk : Keeps F s0 s)
    (h_regs : F .regs := by assumption) (h_hl : F .hl := by assumption) : Keeps F s0 (State.endUpdate s code) := by
  unfold State.endUpdate
  try dsimp only
  with_reducible repeat' first
      | assumption | intro _ | apply Keeps.ite | apply State.finish_k | apply State.unpend_k | apply KeepsM.foldl
      | apply Keeps.foldl | apply Keeps.foldl_fst | split | fail_if_no_progress (refine Keeps.upd ?_) | dsimp only

theorem State.updateBoot_k {F : Part → Prop} {s0 : State} (s : State) (h : Nat) (sig : Nat → Bool) (hk : Keeps F s0 s)
    (h_fresh : F .fresh := by assumption) (h_regs : F .regs := by assumption) (h_pw : F .pw := by assumption)
    (h_hl : F .hl := by assumption) (h_wk : F .wk := by assumption) (h_lg : F .lg := by assumption)
    (h_sv : F .sv := by assumption) : Keeps F s0 (State.updateBoot s h sig) := by
  unfold State.updateBoot
  try dsimp only
  with_reducible repeat' first
      | assumption | intro _ | apply Keeps.ite | apply State.take_k | apply State.bootSlot_k | apply State.hubOut_k
      | apply State.hubBack_k | apply State.endUpdate_k | apply State.raiseLevel_k | apply KeepsM.getD | split
      | fail_if_no_progress (refine Keeps.upd ?_) | dsimp only

theorem State.abandonUpdate_k {F : Part → Prop} {s0 : State} (s : State) (failed : Nat) (hk : Keeps F s0 s)
    (h_regs : F .regs := by assumption) (h_pw : F .pw := by assumption) (h_hl : F .hl := by assumption)
    (h_wk : F .wk := by assumption) (h_sv : F .sv := by assumption) : Keeps F s0 (State.abandonUpdate s failed) := by
  unfold State.abandonUpdate
  try dsimp only
  with_reducible repeat' first
      | assumption | intro _ | apply Keeps.ite | apply State.hubBack_k | apply State.endUpdate_k | split
      | (refine KeepsM.get (by assumption) ?_) | fail_if_no_progress (refine Keeps.upd ?_) | dsimp only

theorem execSecFw_k {F : Part → Prop} {s0 : State} (r : Req) (sig : Bool) (s : State) (hk : Keeps F s0 s)
    (h_fresh : F .fresh := by assumption) (h_regs : F .regs := by assumption) (h_pw : F .pw := by assumption)
    (h_hl : F .hl := by assumption) (h_wk : F .wk := by assumption) (h_lg : F .lg := by assumption)
    (h_sv : F .sv := by assumption) : KeepsO F s0 (execSecFw r sig s) := by
  unfold execSecFw
  try dsimp only
  with_reducible repeat' first
      | assumption | exact fun _ => by assumption | exact fun h => absurd h Bool.false_ne_true | intro _
      | apply Keeps.ite | apply KeepsO.ite | apply KeepsO.next | apply KeepsR.ite | apply KeepsR.refuse
      | apply KeepsR.fail | apply KeepsR.ok | apply KeepsR.pend | apply State.command_k | apply State.hubOut_k
      | apply KeepsM.getD | apply KeepsM.foldl | apply KeepsM.bind | apply Keeps.foldl | apply Keeps.foldl_fst | split
      | (refine Keeps.of_fst (by assumption) ?_) | (refine KeepsM.get (by assumption) ?_)
      | (refine KeepsE.get (by assumption) ?_) | fail_if_no_progress (refine Keeps.upd ?_) | dsimp only

theorem State.setDebug_k {F : Part → Prop} {s0 : State} (s : State) (on : Bool) (hk : Keeps F s0 s)
    (h_regs : F .regs := by assumption) : Keeps F s0 (State.setDebug s on) := by
  unfold State.setDebug
  with_reducible repeat' first | assumption | apply State.secBit_k | split

theorem execSecDebug_k {F : Part → Prop} {s0 : State} (r : Req) (s : State) (hk : Keeps F s0 s)
    (h_fresh : F .fresh := by assumption) (h_regs : F .regs := by assumption) (h_hl : F .hl := by assumption)
    (h_lg : F .lg := by assumption) : KeepsO F s0 (execSecDebug r s) := by
  unfold execSecDebug
  try dsimp only
  with_reducible repeat' first
      | assumption | exact fun _ => by assumption | exact fun h => absurd h Bool.false_ne_true | intro _
      | apply Keeps.ite | apply KeepsO.ite | apply KeepsO.next | apply KeepsR.ite | apply KeepsR.refuse
      | apply KeepsR.fail | apply KeepsR.ok | apply KeepsR.pend | apply State.command_k | apply State.setDebug_k
      | apply KeepsM.getD | apply KeepsM.foldl | apply KeepsM.bind | apply Keeps.foldl | apply Keeps.foldl_fst | split
      | (refine Keeps.of_fst (by assumption) ?_) | (refine KeepsM.get (by assumption) ?_)
      | (refine KeepsE.get (by assumption) ?_) | fail_if_no_progress (refine Keeps.upd ?_) | dsimp only

theorem execSecurityTapAuth_k {F : Part → Prop} {s0 : State} (sig : Bool) (s : State) (hk : Keeps F s0 s)
    (h_regs : F .regs := by assumption)
    (h_lg : F .lg := by assumption) : KeepsO F s0 (execSecurityTapAuth sig s) := by
  unfold execSecurityTapAuth
  with_reducible repeat' first
      | assumption | apply KeepsO.next | apply State.bump_k | apply State.auditModule_k | apply State.setDebug_k
      | split

theorem execServiceEnChange_k {F : Part → Prop} {s0 : State} (level : Bool) (s : State) (hk : Keeps F s0 s)
    (h_regs : F .regs := by assumption) (h_pw : F .pw := by assumption) (h_hl : F .hl := by assumption)
    (h_lg : F .lg := by assumption) : KeepsO F s0 (execServiceEnChange level s) := by
  unfold execServiceEnChange
  with_reducible repeat' first
      | assumption | intro _ | apply KeepsO.next | apply State.setSess_k | apply State.auditModule_k
      | apply State.secBit_k | apply State.setDebug_k | apply Keeps.foldl | split
      | fail_if_no_progress (refine Keeps.upd ?_)

theorem execProvisioning_k {F : Part → Prop} {s0 : State} (step : ProvStep) (s : State) (hk : Keeps F s0 s)
    (h_fresh : F .fresh := by assumption) (h_rdata : F .rdata := by assumption) (h_regs : F .regs := by assumption)
    (h_lg : F .lg := by assumption) : KeepsO F s0 (execProvisioning step s) := by
  unfold execProvisioning
  try dsimp only
  with_reducible repeat' first
      | assumption | apply KeepsO.next | apply State.take_k | apply State.secBit_k | apply State.sealWrite_k
      | apply State.ledgerPages_k | split | fail_if_no_progress (refine Keeps.upd ?_)

theorem execHeartbeatSend_k {F : Part → Prop} {s0 : State} (h : Hub) (s : State) (hk : Keeps F s0 s)
    (h_sent : F .sent := by assumption) (h_sv : F .sv := by assumption) : KeepsO F s0 (execHeartbeatSend h s) := by
  unfold execHeartbeatSend
  with_reducible repeat' first
      | assumption | intro _ | apply KeepsO.next | apply State.emit_k | apply Keeps.foldl | split
      | fail_if_no_progress (refine Keeps.upd ?_)

theorem State.dropLink_k {F : Part → Prop} {s0 : State} (s : State) (k : Nat) (hk : Keeps F s0 s)
    (h_regs : F .regs := by assumption) (h_fb : F .fb := by assumption) : Keeps F s0 (State.dropLink s k) := by
  unfold State.dropLink
  with_reducible repeat' first | assumption | apply State.setLink_k | apply State.setLinkState_k | split

theorem State.takeJobs_k {F : Part → Prop} {s0 : State} (s : State) (f : Nat) (hk : Keeps F s0 s)
    (h_sent : F .sent := by assumption) (h_evlog : F .evlog := by assumption) (h_regs : F .regs := by assumption)
    (h_live : F .live := by assumption) (h_mem : F .mem := by assumption) (h_frames : F .frames := by assumption)
    (h_boards : F .boards := by assumption) (h_dies : F .dies := by assumption) (h_hl : F .hl := by assumption)
    (h_wk : F .wk := by assumption) (h_fb : F .fb := by assumption)
    (h_sv : F .sv := by assumption) : Keeps F s0 (State.takeJobs s f) := by
  unfold State.takeJobs
  with_reducible repeat' first
      | assumption | intro _ | apply State.modJob_k | apply State.failJob_k | apply Keeps.foldl | split

theorem State.takeSessions_k {F : Part → Prop} {s0 : State} (s : State) (f : Nat) (o : Hub) (hk : Keeps F s0 s)
    (h_sent : F .sent := by assumption) (h_regs : F .regs := by assumption)
    (h_hl : F .hl := by assumption) : Keeps F s0 (State.takeSessions s f o) := by
  unfold State.takeSessions
  try dsimp only
  with_reducible repeat' first
      | assumption | intro _ | apply Keeps.ite | apply State.setSess_k | apply State.resend_k | apply KeepsM.foldl
      | apply Keeps.foldl | apply Keeps.foldl_fst | split | (refine Keeps.of_fst (by assumption) ?_)
      | fail_if_no_progress (refine Keeps.upd ?_) | dsimp only

theorem State.takeover_k {F : Part → Prop} {s0 : State} (s : State) (f : Nat) (cut : Bool) (hk : Keeps F s0 s)
    (h_sent : F .sent := by assumption) (h_evlog : F .evlog := by assumption) (h_regs : F .regs := by assumption)
    (h_live : F .live := by assumption) (h_mem : F .mem := by assumption) (h_frames : F .frames := by assumption)
    (h_boards : F .boards := by assumption) (h_dies : F .dies := by assumption) (h_pw : F .pw := by assumption)
    (h_hl : F .hl := by assumption) (h_wk : F .wk := by assumption) (h_fb : F .fb := by assumption)
    (h_lg : F .lg := by assumption) (h_sv : F .sv := by assumption) : Keeps F s0 (State.takeover s f cut) := by
  unfold State.takeover
  try dsimp only
  with_reducible repeat' first
      | assumption | intro _ | apply Keeps.ite | apply State.bump_k | apply State.setPort_k | apply State.setRing_k
      | apply State.event_k | apply State.auditModule_k | apply State.jrec_k | apply State.freeLocks_k
      | apply State.freeHubLocks_k | apply State.loseImages_k | apply State.abandonUpdate_k | apply State.dropLink_k
      | apply State.takeJobs_k | apply State.takeSessions_k | apply KeepsM.getD | apply KeepsM.foldl
      | apply KeepsM.bind | apply Keeps.foldl | apply Keeps.foldl_fst | split
      | (refine Keeps.of_fst (by assumption) ?_) | (refine KeepsM.get (by assumption) ?_)
      | (refine KeepsE.get (by assumption) ?_) | fail_if_no_progress (refine Keeps.upd ?_) | dsimp only

theorem execHeartbeatMiss_k {F : Part → Prop} {s0 : State} (h : Hub) (path : Fin 3) (s : State) (hk : Keeps F s0 s)
    (h_sent : F .sent := by assumption) (h_evlog : F .evlog := by assumption) (h_regs : F .regs := by assumption)
    (h_live : F .live := by assumption) (h_mem : F .mem := by assumption) (h_frames : F .frames := by assumption)
    (h_boards : F .boards := by assumption) (h_dies : F .dies := by assumption) (h_pw : F .pw := by assumption)
    (h_hl : F .hl := by assumption) (h_wk : F .wk := by assumption) (h_fb : F .fb := by assumption)
    (h_lg : F .lg := by assumption) (h_sv : F .sv := by assumption) : KeepsO F s0 (execHeartbeatMiss h path s) := by
  unfold execHeartbeatMiss
  try dsimp only
  with_reducible repeat' first
      | assumption | intro _ | apply Keeps.ite | apply KeepsO.ite | apply KeepsO.next | apply State.bump_k
      | apply State.takeover_k | split | (refine KeepsM.get (by assumption) ?_)
      | fail_if_no_progress (refine Keeps.upd ?_) | dsimp only

theorem State.bootFrom_k {F : Part → Prop} {s0 : State} (s : State) (h slot : Nat) (hk : Keeps F s0 s)
    (h_evlog : F .evlog := by assumption) (h_regs : F .regs := by assumption) (h_pw : F .pw := by assumption)
    (h_hl : F .hl := by assumption) (h_sv : F .sv := by assumption) : Keeps F s0 (State.bootFrom s h slot) := by
  unfold State.bootFrom
  try dsimp only
  with_reducible repeat' first
      | assumption | intro _ | apply Keeps.ite | apply State.setReg_k | apply State.setPort_k | apply State.log_k
      | apply State.setBoth_k | apply State.bootSlot_k | apply KeepsM.getD | apply KeepsM.foldl | apply KeepsM.bind
      | apply Keeps.foldl | apply Keeps.foldl_fst | split | (refine Keeps.of_fst (by assumption) ?_)
      | (refine KeepsM.get (by assumption) ?_) | (refine KeepsE.get (by assumption) ?_)
      | fail_if_no_progress (refine Keeps.upd ?_) | dsimp only

theorem State.zeroDram_k {F : Part → Prop} {s0 : State} (s : State) (h : Nat) (hk : Keeps F s0 s)
    (h_mem : F .mem := by assumption) (h_ms : F .ms := by assumption) : Keeps F s0 (State.zeroDram s h) := by
  unfold State.zeroDram
  try dsimp only
  with_reducible repeat' first
      | assumption | intro _ | apply Keeps.ite | apply State.zeroBut_k | apply KeepsM.getD | apply KeepsM.foldl
      | apply KeepsM.bind | apply Keeps.foldl | apply Keeps.foldl_fst | split
      | (refine Keeps.of_fst (by assumption) ?_) | (refine KeepsM.get (by assumption) ?_)
      | (refine KeepsE.get (by assumption) ?_) | fail_if_no_progress (refine Keeps.upd ?_) | dsimp only

theorem execHubRestart_k {F : Part → Prop} {s0 : State} (h : Hub) (sig : Bool) (s : State) (hk : Keeps F s0 s)
    (h_evlog : F .evlog := by assumption) (h_regs : F .regs := by assumption) (h_mem : F .mem := by assumption)
    (h_mets : F .mets := by assumption) (h_pw : F .pw := by assumption) (h_hl : F .hl := by assumption)
    (h_wk : F .wk := by assumption) (h_fb : F .fb := by assumption) (h_ms : F .ms := by assumption)
    (h_sv : F .sv := by assumption) : KeepsO F s0 (execHubRestart h sig s) := by
  unfold execHubRestart
  try dsimp only
  with_reducible repeat' first
      | assumption | intro _ | apply Keeps.ite | apply KeepsO.ite | apply KeepsO.next | apply State.log_k
      | apply State.linkUp_k | apply State.metStart_k | apply State.markTakeover_k | apply State.bootFrom_k
      | apply State.zeroDram_k | apply KeepsM.getD | apply KeepsM.foldl | apply KeepsM.bind | apply Keeps.foldl
      | apply Keeps.foldl_fst | split | (refine Keeps.of_fst (by assumption) ?_)
      | (refine KeepsM.get (by assumption) ?_) | (refine KeepsE.get (by assumption) ?_)
      | fail_if_no_progress (refine Keeps.upd ?_) | dsimp only

theorem execLdgRead_k {F : Part → Prop} {s0 : State} (r : Req) (s : State) (hk : Keeps F s0 s)
    (h_fresh : F .fresh := by assumption) (h_sent : F .sent := by assumption) (h_regs : F .regs := by assumption)
    (h_hl : F .hl := by assumption) (h_wk : F .wk := by assumption) : KeepsO F s0 (execLdgRead r s) := by
  unfold execLdgRead
  try dsimp only
  with_reducible repeat' first
      | assumption | exact fun _ => by assumption | exact fun h => absurd h Bool.false_ne_true | intro _
      | apply Keeps.ite | apply KeepsO.ite | apply KeepsO.next | apply KeepsR.ite | apply KeepsR.refuse
      | apply KeepsR.fail | apply KeepsR.ok | apply KeepsR.pend | apply State.command_k | apply State.bulk_k
      | apply KeepsM.getD | apply KeepsM.foldl | apply KeepsM.bind | apply Keeps.foldl | apply Keeps.foldl_fst | split
      | (refine Keeps.of_fst (by assumption) ?_) | (refine KeepsM.get (by assumption) ?_)
      | (refine KeepsE.get (by assumption) ?_) | fail_if_no_progress (refine Keeps.upd ?_) | dsimp only

theorem execLdgWrite_k {F : Part → Prop} {s0 : State} (r : Req) (s : State) (hk : Keeps F s0 s)
    (h_fresh : F .fresh := by assumption) (h_regs : F .regs := by assumption) (h_hl : F .hl := by assumption)
    (h_lg : F .lg := by assumption) : KeepsO F s0 (execLdgWrite r s) := by
  unfold execLdgWrite
  try dsimp only
  with_reducible repeat' first
      | assumption | exact fun _ => by assumption | exact fun h => absurd h Bool.false_ne_true | intro _
      | apply Keeps.ite | apply KeepsO.ite | apply KeepsO.next | apply KeepsR.ite | apply KeepsR.refuse
      | apply KeepsR.fail | apply KeepsR.ok | apply KeepsR.pend | apply State.ledgerWrite_k | apply State.command_k
      | apply KeepsM.getD | apply KeepsM.foldl | apply KeepsM.bind | apply Keeps.foldl | apply Keeps.foldl_fst | split
      | (refine Keeps.of_fst (by assumption) ?_) | (refine KeepsM.get (by assumption) ?_)
      | (refine KeepsE.get (by assumption) ?_) | fail_if_no_progress (refine Keeps.upd ?_) | dsimp only

theorem execLdgCounter_k {F : Part → Prop} {s0 : State} (r : Req) (s : State) (hk : Keeps F s0 s)
    (h_fresh : F .fresh := by assumption) (h_regs : F .regs := by assumption) (h_hl : F .hl := by assumption)
    (h_lg : F .lg := by assumption) : KeepsO F s0 (execLdgCounter r s) := by
  unfold execLdgCounter
  try dsimp only
  with_reducible repeat' first
      | assumption | exact fun _ => by assumption | exact fun h => absurd h Bool.false_ne_true | intro _
      | apply Keeps.ite | apply KeepsO.ite | apply KeepsO.next | apply KeepsR.ite | apply KeepsR.refuse
      | apply KeepsR.fail | apply KeepsR.ok | apply KeepsR.pend | apply State.ctrInc_k | apply State.command_k
      | apply KeepsM.getD | apply KeepsM.foldl | apply KeepsM.bind | apply Keeps.foldl | apply Keeps.foldl_fst | split
      | (refine Keeps.of_fst (by assumption) ?_) | (refine KeepsM.get (by assumption) ?_)
      | (refine KeepsE.get (by assumption) ?_) | fail_if_no_progress (refine Keeps.upd ?_) | dsimp only

theorem State.savePassw_k {F : Part → Prop} {s0 : State} (s : State) (g : Nat) (hk : Keeps F s0 s)
    (h_regs : F .regs := by assumption) (h_lg : F .lg := by assumption) : Keeps F s0 (State.savePassw s g).1 := by
  unfold State.savePassw
  try dsimp only
  with_reducible repeat' first
      | assumption | intro _ | apply Keeps.ite_fst | apply State.sealWrite_k | split
      | fail_if_no_progress (refine Keeps.upd ?_) | dsimp only

theorem execLdgUnlock_k {F : Part → Prop} {s0 : State} (r : Req) (s : State) (hk : Keeps F s0 s)
    (h_fresh : F .fresh := by assumption) (h_regs : F .regs := by assumption) (h_pw : F .pw := by assumption)
    (h_hl : F .hl := by assumption) (h_lg : F .lg := by assumption) : KeepsO F s0 (execLdgUnlock r s) := by
  unfold execLdgUnlock
  try dsimp only
  with_reducible repeat' first
      | assumption | exact fun _ => by assumption | exact fun h => absurd h Bool.false_ne_true | intro _
      | apply Keeps.ite | apply KeepsO.ite | apply KeepsO.next | apply KeepsR.ite | apply KeepsR.refuse
      | apply KeepsR.fail | apply KeepsR.ok | apply KeepsR.pend | apply State.bump_k | apply State.setSess_k
      | apply State.take_k | apply State.ctrInc_k | apply State.auditModule_k | apply State.command_k
      | apply State.turnDown_k | apply State.savePassw_k | apply KeepsM.getD | apply KeepsM.foldl | apply KeepsM.bind
      | apply Keeps.foldl | apply Keeps.foldl_fst | split | (refine Keeps.of_fst (by assumption) ?_)
      | (refine KeepsM.get (by assumption) ?_) | (refine KeepsE.get (by assumption) ?_)
      | fail_if_no_progress (refine Keeps.upd ?_) | dsimp only

theorem execLdgPasswd_k {F : Part → Prop} {s0 : State} (r : Req) (s : State) (hk : Keeps F s0 s)
    (h_fresh : F .fresh := by assumption) (h_regs : F .regs := by assumption) (h_pw : F .pw := by assumption)
    (h_hl : F .hl := by assumption) (h_lg : F .lg := by assumption) : KeepsO F s0 (execLdgPasswd r s) := by
  unfold execLdgPasswd
  try dsimp only
  with_reducible repeat' first
      | assumption | exact fun _ => by assumption | exact fun h => absurd h Bool.false_ne_true | intro _
      | apply Keeps.ite | apply KeepsO.ite | apply KeepsO.next | apply KeepsR.ite | apply KeepsR.refuse
      | apply KeepsR.fail | apply KeepsR.ok | apply KeepsR.pend | apply State.take_k | apply State.command_k
      | apply State.savePassw_k | apply KeepsM.getD | apply KeepsM.foldl | apply KeepsM.bind | apply Keeps.foldl
      | apply Keeps.foldl_fst | split | (refine Keeps.of_fst (by assumption) ?_)
      | (refine KeepsM.get (by assumption) ?_) | (refine KeepsE.get (by assumption) ?_)
      | fail_if_no_progress (refine Keeps.upd ?_) | dsimp only

theorem execLdgAudit_k {F : Part → Prop} {s0 : State} (r : Req) (s : State) (hk : Keeps F s0 s)
    (h_fresh : F .fresh := by assumption) (h_sent : F .sent := by assumption) (h_regs : F .regs := by assumption)
    (h_hl : F .hl := by assumption) (h_wk : F .wk := by assumption) : KeepsO F s0 (execLdgAudit r s) := by
  unfold execLdgAudit
  try dsimp only
  with_reducible repeat' first
      | assumption | exact fun _ => by assumption | exact fun h => absurd h Bool.false_ne_true | intro _
      | apply Keeps.ite | apply KeepsO.ite | apply KeepsO.next | apply KeepsR.ite | apply KeepsR.refuse
      | apply KeepsR.fail | apply KeepsR.ok | apply KeepsR.pend | apply State.command_k | apply State.bulk_k
      | apply KeepsM.getD | apply KeepsM.foldl | apply KeepsM.bind | apply Keeps.foldl | apply Keeps.foldl_fst | split
      | (refine Keeps.of_fst (by assumption) ?_) | (refine KeepsM.get (by assumption) ?_)
      | (refine KeepsE.get (by assumption) ?_) | fail_if_no_progress (refine Keeps.upd ?_) | dsimp only

theorem State.showThermal_k {F : Part → Prop} {s0 : State} (s : State) (u : Nat) (hk : Keeps F s0 s)
    (h_regs : F .regs := by assumption) : Keeps F s0 (State.showThermal s u) := by
  unfold State.showThermal
  with_reducible repeat' first | assumption | apply State.setBoth_k

theorem State.judgeUnit_k {F : Part → Prop} {s0 : State} (s : State) (u : Nat) (hk : Keeps F s0 s)
    (h_sent : F .sent := by assumption) (h_evlog : F .evlog := by assumption) (h_regs : F .regs := by assumption)
    (h_th : F .th := by assumption) (h_hl : F .hl := by assumption) : Keeps F s0 (State.judgeUnit s u) := by
  unfold State.judgeUnit
  with_reducible repeat' first
      | assumption | apply Keeps.ite | apply State.setThunit_k | apply State.event_k | apply State.porellTable_k
      | apply State.showThermal_k | fail_if_no_progress (refine Keeps.upd ?_)

theorem State.stopNow_k {F : Part → Prop} {s0 : State} (s : State) (save : Bool) (bitNo code : Nat) (hk : Keeps F s0 s)
    (h_sent : F .sent := by assumption) (h_evlog : F .evlog := by assumption) (h_regs : F .regs := by assumption)
    (h_live : F .live := by assumption) (h_mem : F .mem := by assumption) (h_frames : F .frames := by assumption)
    (h_boards : F .boards := by assumption) (h_dies : F .dies := by assumption) (h_mets : F .mets := by assumption)
    (h_pw : F .pw := by assumption) (h_th : F .th := by assumption) (h_hl : F .hl := by assumption)
    (h_wk : F .wk := by assumption) (h_fb : F .fb := by assumption) (h_lg : F .lg := by assumption)
    (h_sv : F .sv := by assumption) : Keeps F s0 (State.stopNow s save bitNo code) := by
  unfold State.stopNow
  with_reducible repeat' first
      | assumption | apply State.ctrInc_k | apply State.auditModule_k | apply State.abandon_k | apply State.setBoth_k
      | apply State.enter_k | apply State.saveArrays_k | apply State.arraysOff_k | apply State.stopEngines_k
      | apply State.cancelRunning_k | split | fail_if_no_progress (refine Keeps.upd ?_)

theorem State.orderlyStop_k {F : Part → Prop} {s0 : State} (s : State) (hk : Keeps F s0 s)
    (h_sent : F .sent := by assumption) (h_evlog : F .evlog := by assumption) (h_regs : F .regs := by assumption)
    (h_live : F .live := by assumption) (h_mem : F .mem := by assumption) (h_frames : F .frames := by assumption)
    (h_boards : F .boards := by assumption) (h_dies : F .dies := by assumption) (h_mets : F .mets := by assumption)
    (h_pw : F .pw := by assumption) (h_th : F .th := by assumption) (h_hl : F .hl := by assumption)
    (h_wk : F .wk := by assumption) (h_fb : F .fb := by assumption) (h_lg : F .lg := by assumption)
    (h_sv : F .sv := by assumption) : Keeps F s0 (State.orderlyStop s) := by
  unfold State.orderlyStop
  with_reducible repeat' first | assumption | apply State.stopNow_k | split

theorem execThermalSample_k {F : Part → Prop} {s0 : State} (u : Unit34) (k : Fin 24) (s : State) (hk : Keeps F s0 s)
    (h_sent : F .sent := by assumption) (h_evlog : F .evlog := by assumption) (h_regs : F .regs := by assumption)
    (h_live : F .live := by assumption) (h_mem : F .mem := by assumption) (h_frames : F .frames := by assumption)
    (h_boards : F .boards := by assumption) (h_dies : F .dies := by assumption) (h_mets : F .mets := by assumption)
    (h_pw : F .pw := by assumption) (h_th : F .th := by assumption) (h_hl : F .hl := by assumption)
    (h_wk : F .wk := by assumption) (h_fb : F .fb := by assumption) (h_lg : F .lg := by assumption)
    (h_sv : F .sv := by assumption) : KeepsO F s0 (execThermalSample u k s) := by
  unfold execThermalSample
  with_reducible repeat' first
      | assumption | apply KeepsO.next | apply State.setSensor_k | apply State.judgeUnit_k | apply State.orderlyStop_k
      | split

theorem execStaleSensor_k {F : Part → Prop} {s0 : State} (u : Unit34) (k : Fin 24) (s : State) (hk : Keeps F s0 s)
    (h_sent : F .sent := by assumption) (h_evlog : F .evlog := by assumption) (h_regs : F .regs := by assumption)
    (h_th : F .th := by assumption) (h_hl : F .hl := by assumption) : KeepsO F s0 (execStaleSensor u k s) := by
  unfold execStaleSensor
  with_reducible repeat' first
      | assumption | apply KeepsO.ite | apply KeepsO.next | apply State.setSensor_k | apply State.judgeUnit_k

theorem execThrottleStepFall_k {F : Part → Prop} {s0 : State} (u : Unit34) (s : State) (hk : Keeps F s0 s)
    (h_sent : F .sent := by assumption) (h_evlog : F .evlog := by assumption) (h_regs : F .regs := by assumption)
    (h_th : F .th := by assumption) (h_hl : F .hl := by assumption) : KeepsO F s0 (execThrottleStepFall u s) := by
  unfold execThrottleStepFall
  try dsimp only
  with_reducible repeat' first
      | assumption | apply KeepsO.next | apply State.setThunit_k | apply State.event_k | apply State.showThermal_k
      | split

theorem execSampleIntervalRise_k {F : Part → Prop} {s0 : State} (u : Unit34) (s : State) (hk : Keeps F s0 s)
    (h_regs : F .regs := by assumption)
    (h_th : F .th := by assumption) : KeepsO F s0 (execSampleIntervalRise u s) := by
  unfold execSampleIntervalRise
  with_reducible repeat' first
      | assumption | apply KeepsO.ite | apply KeepsO.next | apply State.setThunit_k | apply State.porellTable_k
      | apply State.showThermal_k

theorem execThermalTrip_k {F : Part → Prop} {s0 : State} (u : Unit34) (k : Fin 24) (s : State) (hk : Keeps F s0 s)
    (h_sent : F .sent := by assumption) (h_evlog : F .evlog := by assumption) (h_regs : F .regs := by assumption)
    (h_live : F .live := by assumption) (h_mem : F .mem := by assumption) (h_frames : F .frames := by assumption)
    (h_boards : F .boards := by assumption) (h_dies : F .dies := by assumption) (h_mets : F .mets := by assumption)
    (h_pw : F .pw := by assumption) (h_th : F .th := by assumption) (h_hl : F .hl := by assumption)
    (h_wk : F .wk := by assumption) (h_fb : F .fb := by assumption) (h_lg : F .lg := by assumption)
    (h_sv : F .sv := by assumption) : KeepsO F s0 (execThermalTrip u k s) := by
  unfold execThermalTrip
  with_reducible repeat' first
      | assumption | apply KeepsO.next | apply State.ctrInc_k | apply State.auditModule_k | apply State.setBoth_k
      | apply State.takeover_k | apply State.stopNow_k | split

theorem execAutoRestart_k {F : Part → Prop} {s0 : State} (s : State) (hk : Keeps F s0 s)
    (h_regs : F .regs := by assumption) (h_pw : F .pw := by assumption) : KeepsO F s0 (execAutoRestart s) := by
  unfold execAutoRestart
  with_reducible repeat' first
      | assumption | apply KeepsO.ite | apply KeepsO.next | apply State.setPstate_k | apply State.setBoth_k
      | apply State.bootPhase_k | split | fail_if_no_progress (refine Keeps.upd ?_)

theorem execThmRead_k {F : Part → Prop} {s0 : State} (r : Req) (s : State) (hk : Keeps F s0 s)
    (h_fresh : F .fresh := by assumption) (h_regs : F .regs := by assumption)
    (h_hl : F .hl := by assumption) : KeepsO F s0 (execThmRead r s) := by
  unfold execThmRead
  try dsimp only
  with_reducible repeat' first
      | assumption | exact fun _ => by assumption | exact fun h => absurd h Bool.false_ne_true | intro _
      | apply Keeps.ite | apply KeepsO.ite | apply KeepsO.next | apply KeepsR.ite | apply KeepsR.refuse
      | apply KeepsR.fail | apply KeepsR.ok | apply KeepsR.pend | apply State.command_k | apply KeepsM.getD
      | apply KeepsM.foldl | apply KeepsM.bind | apply Keeps.foldl | apply Keeps.foldl_fst | split
      | (refine Keeps.of_fst (by assumption) ?_) | (refine KeepsM.get (by assumption) ?_)
      | (refine KeepsE.get (by assumption) ?_) | fail_if_no_progress (refine Keeps.upd ?_) | dsimp only

theorem execThmPolicy_k {F : Part → Prop} {s0 : State} (r : Req) (s : State) (hk : Keeps F s0 s)
    (h_fresh : F .fresh := by assumption) (h_sent : F .sent := by assumption) (h_evlog : F .evlog := by assumption)
    (h_regs : F .regs := by assumption) (h_th : F .th := by assumption) (h_hl : F .hl := by assumption)
    (h_lg : F .lg := by assumption) : KeepsO F s0 (execThmPolicy r s) := by
  unfold execThmPolicy
  try dsimp only
  with_reducible repeat' first
      | assumption | exact fun _ => by assumption | exact fun h => absurd h Bool.false_ne_true | intro _
      | apply Keeps.ite | apply KeepsO.ite | apply KeepsO.next | apply KeepsR.ite | apply KeepsR.refuse
      | apply KeepsR.fail | apply KeepsR.ok | apply KeepsR.pend | apply State.command_k | apply State.savePolicy_k
      | apply State.setBoth_k | apply State.judgeUnit_k | apply KeepsM.getD | apply KeepsM.foldl | apply KeepsM.bind
      | apply Keeps.foldl | apply Keeps.foldl_fst | split | (refine Keeps.of_fst (by assumption) ?_)
      | (refine KeepsM.get (by assumption) ?_) | (refine KeepsE.get (by assumption) ?_)
      | fail_if_no_progress (refine Keeps.upd ?_) | dsimp only

theorem execThmRetire_k {F : Part → Prop} {s0 : State} (r : Req) (s : State) (hk : Keeps F s0 s)
    (h_fresh : F .fresh := by assumption) (h_sent : F .sent := by assumption) (h_evlog : F .evlog := by assumption)
    (h_regs : F .regs := by assumption) (h_th : F .th := by assumption) (h_hl : F .hl := by assumption)
    (h_lg : F .lg := by assumption) (h_sv : F .sv := by assumption) : KeepsO F s0 (execThmRetire r s) := by
  unfold execThmRetire
  try dsimp only
  with_reducible repeat' first
      | assumption | exact fun _ => by assumption | exact fun h => absurd h Bool.false_ne_true | intro _
      | apply Keeps.ite | apply KeepsO.ite | apply KeepsO.next | apply KeepsR.ite | apply KeepsR.refuse
      | apply KeepsR.fail | apply KeepsR.ok | apply KeepsR.pend | apply State.flushAll_k | apply State.command_k
      | apply State.mapSet_k | apply State.setBoth_k | apply State.judgeUnit_k | apply KeepsM.getD
      | apply KeepsM.foldl | apply KeepsM.bind | apply Keeps.foldl | apply Keeps.foldl_fst | split
      | (refine Keeps.of_fst (by assumption) ?_) | (refine KeepsM.get (by assumption) ?_)
      | (refine KeepsE.get (by assumption) ?_) | fail_if_no_progress (refine Keeps.upd ?_) | dsimp only

theorem execPwrRead_k {F : Part → Prop} {s0 : State} (r : Req) (s : State) (hk : Keeps F s0 s)
    (h_fresh : F .fresh := by assumption) (h_regs : F .regs := by assumption)
    (h_hl : F .hl := by assumption) : KeepsO F s0 (execPwrRead r s) := by
  unfold execPwrRead
  try dsimp only
  with_reducible repeat' first
      | assumption | exact fun _ => by assumption | exact fun h => absurd h Bool.false_ne_true | intro _
      | apply Keeps.ite | apply KeepsO.ite | apply KeepsO.next | apply KeepsR.ite | apply KeepsR.refuse
      | apply KeepsR.fail | apply KeepsR.ok | apply KeepsR.pend | apply State.command_k | apply KeepsM.getD
      | apply KeepsM.foldl | apply KeepsM.bind | apply Keeps.foldl | apply Keeps.foldl_fst | split
      | (refine Keeps.of_fst (by assumption) ?_) | (refine KeepsM.get (by assumption) ?_)
      | (refine KeepsE.get (by assumption) ?_) | fail_if_no_progress (refine Keeps.upd ?_) | dsimp only

theorem execPwrPolicy_k {F : Part → Prop} {s0 : State} (r : Req) (s : State) (hk : Keeps F s0 s)
    (h_fresh : F .fresh := by assumption) (h_regs : F .regs := by assumption) (h_pw : F .pw := by assumption)
    (h_hl : F .hl := by assumption) (h_lg : F .lg := by assumption) : KeepsO F s0 (execPwrPolicy r s) := by
  unfold execPwrPolicy
  try dsimp only
  with_reducible repeat' first
      | assumption | exact fun _ => by assumption | exact fun h => absurd h Bool.false_ne_true | intro _
      | apply Keeps.ite | apply KeepsO.ite | apply KeepsO.next | apply KeepsR.ite | apply KeepsR.refuse
      | apply KeepsR.fail | apply KeepsR.ok | apply KeepsR.pend | apply State.command_k | apply State.savePolicy_k
      | apply State.setBoth_k | apply KeepsM.getD | apply KeepsM.foldl | apply KeepsM.bind | apply Keeps.foldl
      | apply Keeps.foldl_fst | split | (refine Keeps.of_fst (by assumption) ?_)
      | (refine KeepsM.get (by assumption) ?_) | (refine KeepsE.get (by assumption) ?_)
      | fail_if_no_progress (refine Keeps.upd ?_) | dsimp only

end Sys2Proof.Machine
end

