-- ==== Sys2Proof/Laws/Keeps6.lean ====
section
/-! SUPPORT. Every operation and meaning of Time, BringUp, RingCmds, Engine, LedgerRows, Mailbox, Registers:
it leaves the queue alone, keeps the maps canonical, and changes only the parts its lemma names. -/

set_option Elab.async false

namespace Sys2Proof.Machine

theorem State.advance_k {F : Part → Prop} {s0 : State} (s : State) (hk : Keeps F s0 s)
    (h_now : F .now := by assumption) (h_ck : F .ck := by assumption) : Keeps F s0 (State.advance s) := by
  unfold State.advance
  with_reducible repeat' first | assumption | apply Keeps.ite | fail_if_no_progress (refine Keeps.upd ?_)

theorem State.countWaits_k {F : Part → Prop} {s0 : State} (s : State) (hk : Keeps F s0 s)
    (h_regs : F .regs := by assumption) (h_pw : F .pw := by assumption) : Keeps F s0 (State.countWaits s) := by
  unfold State.countWaits
  with_reducible repeat' first
      | assumption | intro _ | apply Keeps.ite | apply State.bump_k | apply Keeps.foldl
      | fail_if_no_progress (refine Keeps.upd ?_)

theorem State.watch_k {F : Part → Prop} {s0 : State} (s : State) (hk : Keeps F s0 s)
    (h_pw : F .pw := by assumption) (h_lg : F .lg := by assumption) : Keeps F s0 (State.watch s) := by
  unfold State.watch
  with_reducible repeat' first | assumption | fail_if_no_progress (refine Keeps.upd ?_)

theorem State.lowerSyncOut_k {F : Part → Prop} {s0 : State} (s : State) (hk : Keeps F s0 s)
    (h_ck : F .ck := by assumption) : Keeps F s0 (State.lowerSyncOut s) := by
  unfold State.lowerSyncOut
  with_reducible repeat' first | assumption | split | fail_if_no_progress (refine Keeps.upd ?_)

theorem State.tick_k {F : Part → Prop} {s0 : State} (s : State) (hk : Keeps F s0 s)
    (h_now : F .now := by assumption) (h_regs : F .regs := by assumption) (h_ck : F .ck := by assumption)
    (h_pw : F .pw := by assumption) (h_wk : F .wk := by assumption) (h_fb : F .fb := by assumption)
    (h_ms : F .ms := by assumption) (h_lg : F .lg := by assumption) : Keeps F s0 (State.tick s) := by
  unfold State.tick
  with_reducible repeat' first
      | assumption | apply State.releaseSteps_k | apply State.advance_k | apply State.countWaits_k
      | apply State.watch_k | apply State.lowerSyncOut_k

theorem execSyncStat_k {F : Part → Prop} {s0 : State} (r : Req) (s : State) (hk : Keeps F s0 s)
    (h_fresh : F .fresh := by assumption) (h_regs : F .regs := by assumption)
    (h_hl : F .hl := by assumption) : KeepsO F s0 (execSyncStat r s) := by
  unfold execSyncStat
  try dsimp only
  with_reducible repeat' first
      | assumption | exact fun _ => by assumption | exact fun h => absurd h Bool.false_ne_true | intro _
      | apply Keeps.ite | apply KeepsO.ite | apply KeepsO.next | apply KeepsR.ite | apply KeepsR.refuse
      | apply KeepsR.fail | apply KeepsR.ok | apply KeepsR.pend | apply State.command_k | apply KeepsM.getD
      | apply KeepsM.foldl | apply KeepsM.bind | apply Keeps.foldl | apply Keeps.foldl_fst | split
      | (refine Keeps.of_fst (by assumption) ?_) | (refine KeepsM.get (by assumption) ?_)
      | (refine KeepsE.get (by assumption) ?_) | fail_if_no_progress (refine Keeps.upd ?_) | dsimp only

theorem execSyncCfg_k {F : Part → Prop} {s0 : State} (r : Req) (s : State) (hk : Keeps F s0 s)
    (h_fresh : F .fresh := by assumption) (h_regs : F .regs := by assumption) (h_hl : F .hl := by assumption)
    (h_lg : F .lg := by assumption) : KeepsO F s0 (execSyncCfg r s) := by
  unfold execSyncCfg
  try dsimp only
  with_reducible repeat' first
      | assumption | exact fun _ => by assumption | exact fun h => absurd h Bool.false_ne_true | intro _
      | apply Keeps.ite | apply KeepsO.ite | apply KeepsO.next | apply KeepsR.ite | apply KeepsR.refuse
      | apply KeepsR.fail | apply KeepsR.ok | apply KeepsR.pend | apply State.command_k | apply State.savePolicy_k
      | apply State.setRk_k | apply State.setRkSrc_k | apply KeepsM.getD | apply KeepsM.foldl | apply KeepsM.bind
      | apply Keeps.foldl | apply Keeps.foldl_fst | split | (refine Keeps.of_fst (by assumption) ?_)
      | (refine KeepsM.get (by assumption) ?_) | (refine KeepsE.get (by assumption) ?_)
      | fail_if_no_progress (refine Keeps.upd ?_) | dsimp only

theorem execSyncNow_k {F : Part → Prop} {s0 : State} (r : Req) (s : State) (hk : Keeps F s0 s)
    (h_fresh : F .fresh := by assumption) (h_regs : F .regs := by assumption)
    (h_hl : F .hl := by assumption) : KeepsO F s0 (execSyncNow r s) := by
  unfold execSyncNow
  try dsimp only
  with_reducible repeat' first
      | assumption | exact fun _ => by assumption | exact fun h => absurd h Bool.false_ne_true | intro _
      | apply Keeps.ite | apply KeepsO.ite | apply KeepsO.next | apply KeepsR.ite | apply KeepsR.refuse
      | apply KeepsR.fail | apply KeepsR.ok | apply KeepsR.pend | apply State.command_k | apply KeepsM.getD
      | apply KeepsM.foldl | apply KeepsM.bind | apply Keeps.foldl | apply Keeps.foldl_fst | split
      | (refine Keeps.of_fst (by assumption) ?_) | (refine KeepsM.get (by assumption) ?_)
      | (refine KeepsE.get (by assumption) ?_) | fail_if_no_progress (refine Keeps.upd ?_) | dsimp only

theorem execReckoningSet_k {F : Part → Prop} {s0 : State} (t : Nat) (s : State) (hk : Keeps F s0 s)
    (h_regs : F .regs := by assumption) (h_ck : F .ck := by assumption) : KeepsO F s0 (execReckoningSet t s) := by
  unfold execReckoningSet
  with_reducible repeat' first
      | assumption | apply KeepsO.ite | apply KeepsO.next | apply State.setRk_k
      | fail_if_no_progress (refine Keeps.upd ?_)

theorem execSyncInEdge_k {F : Part → Prop} {s0 : State} (s : State) (hk : Keeps F s0 s)
    (h_fresh : F .fresh := by assumption) (h_regs : F .regs := by assumption)
    (h_ck : F .ck := by assumption) : KeepsO F s0 (execSyncInEdge s) := by
  unfold execSyncInEdge
  with_reducible repeat' first
      | assumption | apply KeepsO.ite | apply KeepsO.next | apply State.bump_k | apply State.discipline_k
      | fail_if_no_progress (refine Keeps.upd ?_)

theorem execSyncInLoss_k {F : Part → Prop} {s0 : State} (s : State) (hk : Keeps F s0 s)
    (h_regs : F .regs := by assumption) : KeepsO F s0 (execSyncInLoss s) := by
  unfold execSyncInLoss
  with_reducible repeat' first | assumption | apply KeepsO.next | apply State.setRkSrc_k | split

theorem execRkCntLoRead_k {F : Part → Prop} {s0 : State} (h : Hub) (s : State) (hk : Keeps F s0 s)
    (h_rdata : F .rdata := by assumption)
    (h_regs : F .regs := by assumption) : KeepsO F s0 (execRkCntLoRead h s) := by
  unfold execRkCntLoRead
  with_reducible repeat' first
      | assumption | apply KeepsO.next | apply State.setReg_k | fail_if_no_progress (refine Keeps.upd ?_)

theorem execSyncOutEdge_k {F : Part → Prop} {s0 : State} (s : State) (hk : Keeps F s0 s)
    (h_ck : F .ck := by assumption) : KeepsO F s0 (execSyncOutEdge s) := by
  unfold execSyncOutEdge
  with_reducible repeat' first | assumption | apply KeepsO.next | split | fail_if_no_progress (refine Keeps.upd ?_)

theorem State.bootBit_k {F : Part → Prop} {s0 : State} (s : State) (n : Nat) (hk : Keeps F s0 s)
    (h_regs : F .regs := by assumption) : Keeps F s0 (State.bootBit s n) := by
  unfold State.bootBit
  with_reducible repeat' first | assumption | apply State.setBoth_k

theorem execColdStart_k {F : Part → Prop} {s0 : State} (vin vsb : Nat) (refclk : Bool) (s : State) (hk : Keeps F s0 s)
    (h_regs : F .regs := by assumption) (h_mets : F .mets := by assumption) (h_ck : F .ck := by assumption)
    (h_pw : F .pw := by assumption) : KeepsO F s0 (execColdStart vin vsb refclk s) := by
  unfold execColdStart
  with_reducible repeat' first
      | assumption | apply KeepsO.ite | apply KeepsO.next | apply State.setPstate_k | apply State.bootPhase_k
      | apply State.metStart_k | fail_if_no_progress (refine Keeps.upd ?_)

theorem State.bootReads_k {F : Part → Prop} {s0 : State} (s : State) (hk : Keeps F s0 s)
    (h_regs : F .regs := by assumption) (h_pw : F .pw := by assumption) (h_th : F .th := by assumption)
    (h_sv : F .sv := by assumption) : Keeps F s0 (State.bootReads s) := by
  unfold State.bootReads
  with_reducible repeat' first
      | assumption | apply State.loadPolicy_k | apply State.setRkSrc_k | fail_if_no_progress (refine Keeps.upd ?_)

theorem State.hubsDecided_k {F : Part → Prop} {s0 : State} (s : State) (hk : Keeps F s0 s)
    (h_regs : F .regs := by assumption) (h_fb : F .fb := by assumption)
    (h_sv : F .sv := by assumption) : Keeps F s0 (State.hubsDecided s) := by
  unfold State.hubsDecided
  try dsimp only
  with_reducible repeat' first
      | assumption | intro _ | apply Keeps.ite | apply State.bootPhase_k | apply State.raiseLink_k
      | apply State.bootBit_k | apply KeepsM.getD | apply KeepsM.foldl | apply Keeps.foldl | apply Keeps.foldl_fst
      | split | (refine KeepsM.get (by assumption) ?_) | fail_if_no_progress (refine Keeps.upd ?_) | dsimp only

theorem execSecureBoot_k {F : Part → Prop} {s0 : State} (h : Hub) (sig0 sig1 : Bool) (s : State) (hk : Keeps F s0 s)
    (h_fresh : F .fresh := by assumption) (h_evlog : F .evlog := by assumption) (h_regs : F .regs := by assumption)
    (h_pw : F .pw := by assumption) (h_th : F .th := by assumption) (h_hl : F .hl := by assumption)
    (h_wk : F .wk := by assumption) (h_fb : F .fb := by assumption) (h_lg : F .lg := by assumption)
    (h_sv : F .sv := by assumption) : KeepsO F s0 (execSecureBoot h sig0 sig1 s) := by
  unfold execSecureBoot
  try dsimp only
  with_reducible repeat' first
      | assumption | intro _ | apply Keeps.ite | apply KeepsO.ite | apply KeepsO.next | apply State.updateBoot_k
      | apply State.bootFrom_k | apply State.bootReads_k | apply State.hubsDecided_k | apply KeepsM.getD | split
      | (refine Keeps.of_fst (by assumption) ?_) | (refine KeepsM.get (by assumption) ?_)
      | fail_if_no_progress (refine Keeps.upd ?_) | dsimp only

theorem execDramZeroDone_k {F : Part → Prop} {s0 : State} (h : Hub) (s : State) (hk : Keeps F s0 s)
    (h_regs : F .regs := by assumption) (h_mem : F .mem := by assumption)
    (h_ms : F .ms := by assumption) : KeepsO F s0 (execDramZeroDone h s) := by
  unfold execDramZeroDone
  with_reducible repeat' first
      | assumption | apply KeepsO.next | apply State.bootPhase_k | apply State.zeroDram_k | split

theorem State.startCounter_k {F : Part → Prop} {s0 : State} (s : State) (hk : Keeps F s0 s)
    (h_regs : F .regs := by assumption) (h_ck : F .ck := by assumption)
    (h_lg : F .lg := by assumption) : Keeps F s0 (State.startCounter s) := by
  unfold State.startCounter
  with_reducible repeat' first
      | assumption | apply State.ctrInc_k | apply State.auditModule_k | split
      | fail_if_no_progress (refine Keeps.upd ?_)

theorem execResetHandshake_k {F : Part → Prop} {s0 : State} (d : Die) (skew : Nat) (s : State) (hk : Keeps F s0 s)
    (h_fresh : F .fresh := by assumption) (h_sent : F .sent := by assumption) (h_evlog : F .evlog := by assumption)
    (h_regs : F .regs := by assumption) (h_live : F .live := by assumption) (h_mem : F .mem := by assumption)
    (h_frames : F .frames := by assumption) (h_boards : F .boards := by assumption)
    (h_dies : F .dies := by assumption) (h_mets : F .mets := by assumption) (h_ck : F .ck := by assumption)
    (h_hl : F .hl := by assumption) (h_wk : F .wk := by assumption) (h_fb : F .fb := by assumption)
    (h_lg : F .lg := by assumption) (h_sv : F .sv := by assumption) : KeepsO F s0 (execResetHandshake d skew s) := by
  unfold execResetHandshake
  try dsimp only
  with_reducible repeat' first
      | assumption | intro _ | apply Keeps.ite | apply KeepsO.ite | apply KeepsO.next | apply State.setDie_k
      | apply State.take_k | apply State.bootPhase_k | apply State.loseDie_k | apply State.startCounter_k | split
      | fail_if_no_progress (refine Keeps.upd ?_) | dsimp only

theorem State.loadPrgSettings_k {F : Part → Prop} {s0 : State} (s : State) (d : Nat) (hk : Keeps F s0 s)
    (h_regs : F .regs := by assumption) : Keeps F s0 (State.loadPrgSettings s d) := by
  unfold State.loadPrgSettings
  try dsimp only
  with_reducible repeat' first
      | assumption | intro _ | apply Keeps.ite | apply State.setReg_k | apply KeepsM.foldl | apply Keeps.foldl
      | apply Keeps.foldl_fst | split | fail_if_no_progress (refine Keeps.upd ?_) | dsimp only

theorem execArrayWake_k {F : Part → Prop} {s0 : State} (d : Die) (s : State) (hk : Keeps F s0 s)
    (h_regs : F .regs := by assumption) (h_mem : F .mem := by assumption) (h_dies : F .dies := by assumption)
    (h_mets : F .mets := by assumption) (h_fb : F .fb := by assumption) : KeepsO F s0 (execArrayWake d s) := by
  unfold execArrayWake
  try dsimp only
  with_reducible repeat' first
      | assumption | intro _ | apply Keeps.ite | apply KeepsO.ite | apply KeepsO.next | apply State.setDie_k
      | apply State.zeroRange_k | apply State.bootPhase_k | apply State.metStart_k | apply State.raiseLink_k
      | apply State.loadPrgSettings_k | apply KeepsM.getD | apply KeepsM.foldl | apply KeepsM.bind | apply Keeps.foldl
      | apply Keeps.foldl_fst | split | (refine Keeps.of_fst (by assumption) ?_)
      | (refine KeepsM.get (by assumption) ?_) | (refine KeepsE.get (by assumption) ?_)
      | fail_if_no_progress (refine Keeps.upd ?_) | dsimp only

theorem State.readSources_k {F : Part → Prop} {s0 : State} (s : State) (fks : List Nat) (hk : Keeps F s0 s)
    (h_fresh : F .fresh := by assumption) (h_evlog : F .evlog := by assumption) (h_regs : F .regs := by assumption)
    (h_mets : F .mets := by assumption) : Keeps F s0 (State.readSources s fks).1 := by
  unfold State.readSources
  try dsimp only
  with_reducible repeat' first
      | assumption | intro _ | apply Keeps.ite_fst | apply State.readSource_k | apply KeepsM.foldl | apply Keeps.foldl
      | apply Keeps.foldl_fst | split | (refine Keeps.of_fst (by assumption) ?_)
      | (refine KeepsM.get (by assumption) ?_) | fail_if_no_progress (refine Keeps.upd ?_) | dsimp only

theorem execTrimPass_k {F : Part → Prop} {s0 : State} (d : Die) (s : State) (hk : Keeps F s0 s)
    (h_fresh : F .fresh := by assumption) (h_evlog : F .evlog := by assumption) (h_regs : F .regs := by assumption)
    (h_live : F .live := by assumption) (h_frames : F .frames := by assumption) (h_dies : F .dies := by assumption)
    (h_mets : F .mets := by assumption) : KeepsO F s0 (execTrimPass d s) := by
  unfold execTrimPass
  try dsimp only
  with_reducible repeat' first
      | assumption | intro _ | apply Keeps.ite | apply KeepsO.ite | apply KeepsO.next | apply State.setDie_k
      | apply State.setSource_k | apply State.trimsOn_k | apply State.modeFromRecord_k | apply State.readSources_k
      | apply KeepsM.getD | apply KeepsM.foldl | apply KeepsM.bind | apply Keeps.foldl | apply Keeps.foldl_fst | split
      | (refine Keeps.of_fst (by assumption) ?_) | (refine KeepsM.get (by assumption) ?_)
      | (refine KeepsE.get (by assumption) ?_) | fail_if_no_progress (refine Keeps.upd ?_) | dsimp only

theorem execPlaneGainPass_k {F : Part → Prop} {s0 : State} (d : Die) (s : State) (hk : Keeps F s0 s)
    (h_fresh : F .fresh := by assumption) (h_evlog : F .evlog := by assumption) (h_regs : F .regs := by assumption)
    (h_frames : F .frames := by assumption) (h_dies : F .dies := by assumption)
    (h_pw : F .pw := by assumption) : KeepsO F s0 (execPlaneGainPass d s) := by
  unfold execPlaneGainPass
  try dsimp only
  with_reducible repeat' first
      | assumption | intro _ | apply Keeps.ite | apply KeepsO.ite | apply KeepsO.next | apply State.setDie_k
      | apply State.bootPhase_k | apply State.measureGain_k | apply State.bootBit_k | apply KeepsM.getD
      | apply KeepsM.foldl | apply Keeps.foldl | apply Keeps.foldl_fst | split
      | (refine KeepsM.get (by assumption) ?_) | fail_if_no_progress (refine Keeps.upd ?_) | dsimp only

theorem State.frameAtReady_k {F : Part → Prop} {s0 : State} (s : State) (fk : Nat) (hk : Keeps F s0 s)
    (h_frames : F .frames := by assumption) : Keeps F s0 (State.frameAtReady s fk) := by
  unfold State.frameAtReady
  try dsimp only
  with_reducible repeat' first
      | assumption | intro _ | apply Keeps.ite | apply State.setFrame_k | apply KeepsM.getD | apply KeepsM.foldl
      | apply KeepsM.bind | apply Keeps.foldl | apply Keeps.foldl_fst | split
      | (refine Keeps.of_fst (by assumption) ?_) | (refine KeepsM.get (by assumption) ?_)
      | (refine KeepsE.get (by assumption) ?_) | fail_if_no_progress (refine Keeps.upd ?_) | dsimp only

theorem State.retiredMasks_k {F : Part → Prop} {s0 : State} (s : State) (hk : Keeps F s0 s)
    (h_regs : F .regs := by assumption) : Keeps F s0 (State.retiredMasks s) := by
  unfold State.retiredMasks
  with_reducible repeat' first | assumption | intro _ | apply State.setBoth_k | apply Keeps.foldl

theorem execMapAndScores_k {F : Part → Prop} {s0 : State} (s : State) (hk : Keeps F s0 s)
    (h_evlog : F .evlog := by assumption) (h_regs : F .regs := by assumption) (h_live : F .live := by assumption)
    (h_mem : F .mem := by assumption) (h_frames : F .frames := by assumption) (h_boards : F .boards := by assumption)
    (h_dies : F .dies := by assumption) (h_pw : F .pw := by assumption) (h_wk : F .wk := by assumption)
    (h_fb : F .fb := by assumption) (h_ms : F .ms := by assumption)
    (h_sv : F .sv := by assumption) : KeepsO F s0 (execMapAndScores s) := by
  unfold execMapAndScores State.applyMap State.restoreScores
  dsimp only
  with_reducible repeat' first
      | assumption | intro _ | apply KeepsO.next | apply State.setDie_k | apply State.resetCtx_k
      | apply State.bootPhase_k | apply State.publish_k | apply State.reloadScores_k | apply State.frameAtReady_k
      | apply State.retiredMasks_k | apply Keeps.foldl | split | fail_if_no_progress (refine Keeps.upd ?_)

theorem State.tellLost_k {F : Part → Prop} {s0 : State} (s : State) (d : Nat) (hk : Keeps F s0 s)
    (h_sent : F .sent := by assumption) (h_evlog : F .evlog := by assumption) (h_regs : F .regs := by assumption)
    (h_dies : F .dies := by assumption) (h_hl : F .hl := by assumption) : Keeps F s0 (State.tellLost s d) := by
  unfold State.tellLost
  with_reducible repeat' first | assumption | apply Keeps.ite | apply State.setDie_k | apply State.event_k

theorem execReady_k {F : Part → Prop} {s0 : State} (s : State) (hk : Keeps F s0 s)
    (h_sent : F .sent := by assumption) (h_evlog : F .evlog := by assumption) (h_regs : F .regs := by assumption)
    (h_dies : F .dies := by assumption) (h_pw : F .pw := by assumption) (h_hl : F .hl := by assumption)
    (h_ms : F .ms := by assumption) : KeepsO F s0 (execReady s) := by
  unfold execReady
  with_reducible repeat' first
      | assumption | intro _ | apply KeepsO.ite | apply KeepsO.next | apply State.setBoth_k | apply State.enter_k
      | apply State.powerReached_k | apply State.bootPhase_k | apply State.tellLost_k | apply Keeps.foldl | split
      | fail_if_no_progress (refine Keeps.upd ?_)

theorem execBeadOpen_k {F : Part → Prop} {s0 : State} (r : Req) (s : State) (hk : Keeps F s0 s)
    (h_fresh : F .fresh := by assumption) (h_regs : F .regs := by assumption) (h_pw : F .pw := by assumption)
    (h_hl : F .hl := by assumption) (h_wk : F .wk := by assumption) : KeepsO F s0 (execBeadOpen r s) := by
  unfold execBeadOpen
  refine KeepsO.next (State.command_k _ _ _ _ (fun t h => ?_) hk)
  extract_lets size n
  split
  · exact KeepsR.ok h
  split
  · exact .refuse
  split
  · exact .refuse
  extract_lets u
  exact KeepsR.ok (Keeps.foldl (fun _ _ h => State.setHandle_k _ _ h) h)

theorem execBeadClose_k {F : Part → Prop} {s0 : State} (r : Req) (s : State) (hk : Keeps F s0 s)
    (h_fresh : F .fresh := by assumption) (h_regs : F .regs := by assumption) (h_pw : F .pw := by assumption)
    (h_hl : F .hl := by assumption) (h_wk : F .wk := by assumption) : KeepsO F s0 (execBeadClose r s) := by
  unfold execBeadClose
  try dsimp only
  with_reducible repeat' first
      | assumption | exact fun _ => by assumption | exact fun h => absurd h Bool.false_ne_true | intro _
      | apply Keeps.ite | apply KeepsO.ite | apply KeepsO.next | apply KeepsR.ite | apply KeepsR.refuse
      | apply KeepsR.fail | apply KeepsR.ok | apply KeepsR.pend | apply State.setHandle_k | apply State.command_k
      | apply KeepsM.getD | apply KeepsM.foldl | apply KeepsM.bind | apply Keeps.foldl | apply Keeps.foldl_fst | split
      | (refine Keeps.of_fst (by assumption) ?_) | (refine KeepsM.get (by assumption) ?_)
      | (refine KeepsE.get (by assumption) ?_) | fail_if_no_progress (refine Keeps.upd ?_) | dsimp only

theorem execBeadPlane_k {F : Part → Prop} {s0 : State} (r : Req) (s : State) (hk : Keeps F s0 s)
    (h_fresh : F .fresh := by assumption) (h_regs : F .regs := by assumption) (h_pw : F .pw := by assumption)
    (h_hl : F .hl := by assumption) : KeepsO F s0 (execBeadPlane r s) := by
  unfold execBeadPlane
  try dsimp only
  with_reducible repeat' first
      | assumption | exact fun _ => by assumption | exact fun h => absurd h Bool.false_ne_true | intro _
      | apply Keeps.ite | apply KeepsO.ite | apply KeepsO.next | apply KeepsR.ite | apply KeepsR.refuse
      | apply KeepsR.fail | apply KeepsR.ok | apply KeepsR.pend | apply State.command_k | apply KeepsM.getD
      | apply KeepsM.foldl | apply KeepsM.bind | apply Keeps.foldl | apply Keeps.foldl_fst | split
      | (refine Keeps.of_fst (by assumption) ?_) | (refine KeepsM.get (by assumption) ?_)
      | (refine KeepsE.get (by assumption) ?_) | fail_if_no_progress (refine Keeps.upd ?_) | dsimp only

theorem execBeadWear_k {F : Part → Prop} {s0 : State} (r : Req) (s : State) (hk : Keeps F s0 s)
    (h_fresh : F .fresh := by assumption) (h_regs : F .regs := by assumption) (h_pw : F .pw := by assumption)
    (h_hl : F .hl := by assumption) : KeepsO F s0 (execBeadWear r s) := by
  unfold execBeadWear
  try dsimp only
  with_reducible repeat' first
      | assumption | exact fun _ => by assumption | exact fun h => absurd h Bool.false_ne_true | intro _
      | apply Keeps.ite | apply KeepsO.ite | apply KeepsO.next | apply KeepsR.ite | apply KeepsR.refuse
      | apply KeepsR.fail | apply KeepsR.ok | apply KeepsR.pend | apply State.command_k | apply KeepsM.getD
      | apply KeepsM.foldl | apply KeepsM.bind | apply Keeps.foldl | apply Keeps.foldl_fst | split
      | (refine Keeps.of_fst (by assumption) ?_) | (refine KeepsM.get (by assumption) ?_)
      | (refine KeepsE.get (by assumption) ?_) | fail_if_no_progress (refine Keeps.upd ?_) | dsimp only

theorem execRingCfg_k {F : Part → Prop} {s0 : State} (r : Req) (s : State) (hk : Keeps F s0 s)
    (h_fresh : F .fresh := by assumption) (h_regs : F .regs := by assumption) (h_mem : F .mem := by assumption)
    (h_pw : F .pw := by assumption) (h_hl : F .hl := by assumption) (h_wk : F .wk := by assumption)
    (h_lg : F .lg := by assumption) : KeepsO F s0 (execRingCfg r s) := by
  unfold execRingCfg
  try dsimp only
  with_reducible repeat' first
      | assumption | exact fun _ => by assumption | exact fun h => absurd h Bool.false_ne_true | intro _
      | apply Keeps.ite | apply KeepsO.ite | apply KeepsO.next | apply KeepsR.ite | apply KeepsR.refuse
      | apply KeepsR.fail | apply KeepsR.ok | apply KeepsR.pend | apply State.setRegN_k | apply State.setRing_k
      | apply State.setScore_k | apply State.command_k | apply State.resetCtx_k | apply State.deleteRing_k
      | apply KeepsM.getD | apply KeepsM.foldl | apply KeepsM.bind | apply Keeps.foldl | apply Keeps.foldl_fst | split
      | (refine Keeps.of_fst (by assumption) ?_) | (refine KeepsM.get (by assumption) ?_)
      | (refine KeepsE.get (by assumption) ?_) | fail_if_no_progress (refine Keeps.upd ?_) | dsimp only

theorem execRingAttach_k {F : Part → Prop} {s0 : State} (r : Req) (s : State) (hk : Keeps F s0 s)
    (h_fresh : F .fresh := by assumption) (h_sent : F .sent := by assumption) (h_regs : F .regs := by assumption)
    (h_pw : F .pw := by assumption) (h_hl : F .hl := by assumption)
    (h_wk : F .wk := by assumption) : KeepsO F s0 (execRingAttach r s) := by
  unfold execRingAttach
  try dsimp only
  with_reducible repeat' first
      | assumption | exact fun _ => by assumption | exact fun h => absurd h Bool.false_ne_true | intro _
      | apply Keeps.ite | apply KeepsO.ite | apply KeepsO.next | apply KeepsR.ite | apply KeepsR.refuse
      | apply KeepsR.fail | apply KeepsR.ok | apply KeepsR.pend | apply State.command_k | apply State.attach_k
      | apply State.sendCompl_k | apply KeepsM.getD | apply KeepsM.foldl | apply KeepsM.bind | apply Keeps.foldl
      | apply Keeps.foldl_fst | split | (refine Keeps.of_fst (by assumption) ?_)
      | (refine KeepsM.get (by assumption) ?_) | (refine KeepsE.get (by assumption) ?_)
      | fail_if_no_progress (refine Keeps.upd ?_) | dsimp only

theorem execRingDetach_k {F : Part → Prop} {s0 : State} (r : Req) (s : State) (hk : Keeps F s0 s)
    (h_fresh : F .fresh := by assumption) (h_regs : F .regs := by assumption) (h_pw : F .pw := by assumption)
    (h_hl : F .hl := by assumption) : KeepsO F s0 (execRingDetach r s) := by
  unfold execRingDetach
  try dsimp only
  with_reducible repeat' first
      | assumption | exact fun _ => by assumption | exact fun h => absurd h Bool.false_ne_true | intro _
      | apply Keeps.ite | apply KeepsO.ite | apply KeepsO.next | apply KeepsR.ite | apply KeepsR.refuse
      | apply KeepsR.fail | apply KeepsR.ok | apply KeepsR.pend | apply State.command_k | apply State.attach_k
      | apply KeepsM.getD | apply KeepsM.foldl | apply KeepsM.bind | apply Keeps.foldl | apply Keeps.foldl_fst | split
      | (refine Keeps.of_fst (by assumption) ?_) | (refine KeepsM.get (by assumption) ?_)
      | (refine KeepsE.get (by assumption) ?_) | fail_if_no_progress (refine Keeps.upd ?_) | dsimp only

theorem execRingPause_k {F : Part → Prop} {s0 : State} (r : Req) (s : State) (hk : Keeps F s0 s)
    (h_fresh : F .fresh := by assumption) (h_regs : F .regs := by assumption) (h_pw : F .pw := by assumption)
    (h_hl : F .hl := by assumption) (h_wk : F .wk := by assumption) : KeepsO F s0 (execRingPause r s) := by
  unfold execRingPause
  try dsimp only
  with_reducible repeat' first
      | assumption | exact fun _ => by assumption | exact fun h => absurd h Bool.false_ne_true | intro _
      | apply Keeps.ite | apply KeepsO.ite | apply KeepsO.next | apply KeepsR.ite | apply KeepsR.refuse
      | apply KeepsR.fail | apply KeepsR.ok | apply KeepsR.pend | apply State.setRing_k | apply State.command_k
      | apply KeepsM.getD | apply KeepsM.foldl | apply KeepsM.bind | apply Keeps.foldl | apply Keeps.foldl_fst | split
      | (refine Keeps.of_fst (by assumption) ?_) | (refine KeepsM.get (by assumption) ?_)
      | (refine KeepsE.get (by assumption) ?_) | fail_if_no_progress (refine Keeps.upd ?_) | dsimp only

theorem execRingResume_k {F : Part → Prop} {s0 : State} (r : Req) (s : State) (hk : Keeps F s0 s)
    (h_fresh : F .fresh := by assumption) (h_regs : F .regs := by assumption) (h_pw : F .pw := by assumption)
    (h_hl : F .hl := by assumption) (h_wk : F .wk := by assumption) : KeepsO F s0 (execRingResume r s) := by
  unfold execRingResume
  try dsimp only
  with_reducible repeat' first
      | assumption | exact fun _ => by assumption | exact fun h => absurd h Bool.false_ne_true | intro _
      | apply Keeps.ite | apply KeepsO.ite | apply KeepsO.next | apply KeepsR.ite | apply KeepsR.refuse
      | apply KeepsR.fail | apply KeepsR.ok | apply KeepsR.pend | apply State.setRing_k | apply State.command_k
      | apply KeepsM.getD | apply KeepsM.foldl | apply KeepsM.bind | apply Keeps.foldl | apply Keeps.foldl_fst | split
      | (refine Keeps.of_fst (by assumption) ?_) | (refine KeepsM.get (by assumption) ?_)
      | (refine KeepsE.get (by assumption) ?_) | fail_if_no_progress (refine Keeps.upd ?_) | dsimp only

theorem execRingHreset_k {F : Part → Prop} {s0 : State} (r : Req) (s : State) (hk : Keeps F s0 s)
    (h_fresh : F .fresh := by assumption) (h_regs : F .regs := by assumption) (h_mem : F .mem := by assumption)
    (h_pw : F .pw := by assumption) (h_hl : F .hl := by assumption) : KeepsO F s0 (execRingHreset r s) := by
  unfold execRingHreset
  try dsimp only
  with_reducible repeat' first
      | assumption | exact fun _ => by assumption | exact fun h => absurd h Bool.false_ne_true | intro _
      | apply Keeps.ite | apply KeepsO.ite | apply KeepsO.next | apply KeepsR.ite | apply KeepsR.refuse
      | apply KeepsR.fail | apply KeepsR.ok | apply KeepsR.pend | apply State.command_k | apply State.resetCtx_k
      | apply KeepsM.getD | apply KeepsM.foldl | apply KeepsM.bind | apply Keeps.foldl | apply Keeps.foldl_fst | split
      | (refine Keeps.of_fst (by assumption) ?_) | (refine KeepsM.get (by assumption) ?_)
      | (refine KeepsE.get (by assumption) ?_) | fail_if_no_progress (refine Keeps.upd ?_) | dsimp only

theorem execRingStat_k {F : Part → Prop} {s0 : State} (r : Req) (s : State) (hk : Keeps F s0 s)
    (h_fresh : F .fresh := by assumption) (h_regs : F .regs := by assumption) (h_pw : F .pw := by assumption)
    (h_hl : F .hl := by assumption) : KeepsO F s0 (execRingStat r s) := by
  unfold execRingStat
  try dsimp only
  with_reducible repeat' first
      | assumption | exact fun _ => by assumption | exact fun h => absurd h Bool.false_ne_true | intro _
      | apply Keeps.ite | apply KeepsO.ite | apply KeepsO.next | apply KeepsR.ite | apply KeepsR.refuse
      | apply KeepsR.fail | apply KeepsR.ok | apply KeepsR.pend | apply State.command_k | apply KeepsM.getD
      | apply KeepsM.foldl | apply KeepsM.bind | apply Keeps.foldl | apply Keeps.foldl_fst | split
      | (refine Keeps.of_fst (by assumption) ?_) | (refine KeepsM.get (by assumption) ?_)
      | (refine KeepsE.get (by assumption) ?_) | fail_if_no_progress (refine Keeps.upd ?_) | dsimp only

theorem execRingDelete_k {F : Part → Prop} {s0 : State} (r : Req) (s : State) (hk : Keeps F s0 s)
    (h_fresh : F .fresh := by assumption) (h_regs : F .regs := by assumption) (h_pw : F .pw := by assumption)
    (h_hl : F .hl := by assumption) (h_wk : F .wk := by assumption)
    (h_lg : F .lg := by assumption) : KeepsO F s0 (execRingDelete r s) := by
  unfold execRingDelete
  try dsimp only
  with_reducible repeat' first
      | assumption | exact fun _ => by assumption | exact fun h => absurd h Bool.false_ne_true | intro _
      | apply Keeps.ite | apply KeepsO.ite | apply KeepsO.next | apply KeepsR.ite | apply KeepsR.refuse
      | apply KeepsR.fail | apply KeepsR.ok | apply KeepsR.pend | apply State.command_k | apply State.deleteRing_k
      | apply KeepsM.getD | apply KeepsM.foldl | apply KeepsM.bind | apply Keeps.foldl | apply Keeps.foldl_fst | split
      | (refine Keeps.of_fst (by assumption) ?_) | (refine KeepsM.get (by assumption) ?_)
      | (refine KeepsE.get (by assumption) ?_) | fail_if_no_progress (refine Keeps.upd ?_) | dsimp only

theorem execJobHandle_k {F : Part → Prop} {s0 : State} (r : Req) (s : State) (hk : Keeps F s0 s)
    (h_fresh : F .fresh := by assumption) (h_regs : F .regs := by assumption) (h_pw : F .pw := by assumption)
    (h_hl : F .hl := by assumption) (h_wk : F .wk := by assumption) : KeepsO F s0 (execJobHandle r s) := by
  unfold execJobHandle
  refine KeepsO.next (State.command_k _ _ _ _ (fun t h => ?_) hk)
  extract_lets f e
  split
  · exact .refuse
  split
  · exact .refuse
  split
  · exact .refuse
  exact KeepsR.ok (State.setHandle_k _ _ h)

theorem execJobFree_k {F : Part → Prop} {s0 : State} (r : Req) (s : State) (hk : Keeps F s0 s)
    (h_fresh : F .fresh := by assumption) (h_regs : F .regs := by assumption) (h_pw : F .pw := by assumption)
    (h_hl : F .hl := by assumption) (h_wk : F .wk := by assumption) : KeepsO F s0 (execJobFree r s) := by
  unfold execJobFree
  try dsimp only
  with_reducible repeat' first
      | assumption | exact fun _ => by assumption | exact fun h => absurd h Bool.false_ne_true | intro _
      | apply Keeps.ite | apply KeepsO.ite | apply KeepsO.next | apply KeepsR.ite | apply KeepsR.refuse
      | apply KeepsR.fail | apply KeepsR.ok | apply KeepsR.pend | apply State.setHandle_k | apply State.command_k
      | apply KeepsM.getD | apply KeepsM.foldl | apply KeepsM.bind | apply Keeps.foldl | apply Keeps.foldl_fst | split
      | (refine Keeps.of_fst (by assumption) ?_) | (refine KeepsM.get (by assumption) ?_)
      | (refine KeepsE.get (by assumption) ?_) | fail_if_no_progress (refine Keeps.upd ?_) | dsimp only

theorem execJobCancel_k {F : Part → Prop} {s0 : State} (r : Req) (s : State) (hk : Keeps F s0 s)
    (h_fresh : F .fresh := by assumption) (h_sent : F .sent := by assumption) (h_evlog : F .evlog := by assumption)
    (h_regs : F .regs := by assumption) (h_live : F .live := by assumption) (h_mem : F .mem := by assumption)
    (h_frames : F .frames := by assumption) (h_boards : F .boards := by assumption)
    (h_dies : F .dies := by assumption) (h_pw : F .pw := by assumption) (h_hl : F .hl := by assumption)
    (h_wk : F .wk := by assumption) (h_fb : F .fb := by assumption)
    (h_sv : F .sv := by assumption) : KeepsO F s0 (execJobCancel r s) := by
  unfold execJobCancel
  try dsimp only
  with_reducible repeat' first
      | assumption | exact fun _ => by assumption | exact fun h => absurd h Bool.false_ne_true | intro _
      | apply Keeps.ite | apply KeepsO.ite | apply KeepsO.next | apply KeepsR.ite | apply KeepsR.refuse
      | apply KeepsR.fail | apply KeepsR.ok | apply KeepsR.pend | apply State.command_k | apply State.failJob_k
      | apply KeepsM.getD | apply KeepsM.foldl | apply KeepsM.bind | apply Keeps.foldl | apply Keeps.foldl_fst | split
      | (refine Keeps.of_fst (by assumption) ?_) | (refine KeepsM.get (by assumption) ?_)
      | (refine KeepsE.get (by assumption) ?_) | fail_if_no_progress (refine Keeps.upd ?_) | dsimp only

theorem execJobFetch_k {F : Part → Prop} {s0 : State} (r : Req) (s : State) (hk : Keeps F s0 s)
    (h_fresh : F .fresh := by assumption) (h_sent : F .sent := by assumption) (h_regs : F .regs := by assumption)
    (h_pw : F .pw := by assumption) (h_hl : F .hl := by assumption) : KeepsO F s0 (execJobFetch r s) := by
  unfold execJobFetch
  try dsimp only
  with_reducible repeat' first
      | assumption | exact fun _ => by assumption | exact fun h => absurd h Bool.false_ne_true | intro _
      | apply Keeps.ite | apply KeepsO.ite | apply KeepsO.next | apply KeepsR.ite | apply KeepsR.refuse
      | apply KeepsR.fail | apply KeepsR.ok | apply KeepsR.pend | apply State.command_k | apply State.sendData_k
      | apply KeepsM.getD | apply KeepsM.foldl | apply KeepsM.bind | apply Keeps.foldl | apply Keeps.foldl_fst | split
      | (refine Keeps.of_fst (by assumption) ?_) | (refine KeepsM.get (by assumption) ?_)
      | (refine KeepsE.get (by assumption) ?_) | fail_if_no_progress (refine Keeps.upd ?_) | dsimp only

theorem execJobPagesFree_k {F : Part → Prop} {s0 : State} (r : Req) (s : State) (hk : Keeps F s0 s)
    (h_fresh : F .fresh := by assumption) (h_regs : F .regs := by assumption) (h_pw : F .pw := by assumption)
    (h_hl : F .hl := by assumption) (h_wk : F .wk := by assumption) : KeepsO F s0 (execJobPagesFree r s) := by
  unfold execJobPagesFree
  try dsimp only
  with_reducible repeat' first
      | assumption | exact fun _ => by assumption | exact fun h => absurd h Bool.false_ne_true | intro _
      | apply Keeps.ite | apply KeepsO.ite | apply KeepsO.next | apply KeepsR.ite | apply KeepsR.refuse
      | apply KeepsR.fail | apply KeepsR.ok | apply KeepsR.pend | apply State.command_k | apply State.freeMap_k
      | apply KeepsM.getD | apply KeepsM.foldl | apply KeepsM.bind | apply Keeps.foldl | apply Keeps.foldl_fst | split
      | (refine Keeps.of_fst (by assumption) ?_) | (refine KeepsM.get (by assumption) ?_)
      | (refine KeepsE.get (by assumption) ?_) | fail_if_no_progress (refine Keeps.upd ?_) | dsimp only

theorem execJobCkpt_k {F : Part → Prop} {s0 : State} (r : Req) (s : State) (hk : Keeps F s0 s)
    (h_fresh : F .fresh := by assumption) (h_regs : F .regs := by assumption) (h_pw : F .pw := by assumption)
    (h_hl : F .hl := by assumption) (h_wk : F .wk := by assumption) : KeepsO F s0 (execJobCkpt r s) := by
  unfold execJobCkpt
  try dsimp only
  with_reducible repeat' first
      | assumption | exact fun _ => by assumption | exact fun h => absurd h Bool.false_ne_true | intro _
      | apply Keeps.ite | apply KeepsO.ite | apply KeepsO.next | apply KeepsR.ite | apply KeepsR.refuse
      | apply KeepsR.fail | apply KeepsR.ok | apply KeepsR.pend | apply State.setHandle_k | apply State.command_k
      | apply KeepsM.getD | apply KeepsM.foldl | apply KeepsM.bind | apply Keeps.foldl | apply Keeps.foldl_fst | split
      | (refine Keeps.of_fst (by assumption) ?_) | (refine KeepsM.get (by assumption) ?_)
      | (refine KeepsE.get (by assumption) ?_) | fail_if_no_progress (refine Keeps.upd ?_) | dsimp only

theorem State.reaccept_k {F : Part → Prop} {s0 : State} (s : State) (r k : Nat) (q : List Byte × List Byte) (hk : Keeps F s0 s)
    (h_regs : F .regs := by assumption) (h_wk : F .wk := by assumption)
    (h_sv : F .sv := by assumption) : Keeps F s0 (State.reaccept s r k q) := by
  unfold State.reaccept
  try dsimp only
  with_reducible repeat' first
      | assumption | intro _ | apply Keeps.ite | apply State.setHandle_k | apply State.take_k
      | apply State.acceptDesc_k | split | (refine Keeps.of_fst (by assumption) ?_)
      | (refine KeepsM.get (by assumption) ?_) | fail_if_no_progress (refine Keeps.upd ?_) | dsimp only

theorem execJobRestore_k {F : Part → Prop} {s0 : State} (r : Req) (s : State) (hk : Keeps F s0 s)
    (h_fresh : F .fresh := by assumption) (h_regs : F .regs := by assumption) (h_mem : F .mem := by assumption)
    (h_pw : F .pw := by assumption) (h_hl : F .hl := by assumption) (h_wk : F .wk := by assumption)
    (h_sv : F .sv := by assumption) : KeepsO F s0 (execJobRestore r s) := by
  unfold execJobRestore
  try dsimp only
  with_reducible repeat' first
      | assumption | exact fun _ => by assumption | exact fun h => absurd h Bool.false_ne_true | intro _
      | apply Keeps.ite | apply KeepsO.ite | apply KeepsO.next | apply KeepsR.ite | apply KeepsR.refuse
      | apply KeepsR.fail | apply KeepsR.ok | apply KeepsR.pend | apply State.setRing_k | apply State.take_k
      | apply State.command_k | apply State.ckRestore_k | apply State.reaccept_k | apply KeepsM.getD
      | apply KeepsM.foldl | apply KeepsM.bind | apply Keeps.foldl | apply Keeps.foldl_fst | split
      | (refine Keeps.of_fst (by assumption) ?_) | (refine KeepsM.get (by assumption) ?_)
      | (refine KeepsE.get (by assumption) ?_) | fail_if_no_progress (refine Keeps.upd ?_) | dsimp only

theorem State.stage_k {F : Part → Prop} {s0 : State} (s : State) (j : Job) (hk : Keeps F s0 s)
    (h_mem : F .mem := by assumption) (h_ms : F .ms := by assumption) : Keeps F s0 (State.stage s j) := by
  unfold State.stage
  try dsimp only
  with_reducible repeat' first
      | assumption | intro _ | apply Keeps.ite | apply State.memWrite_k | apply KeepsM.getD | apply KeepsM.foldl
      | apply KeepsM.bind | apply Keeps.foldl | apply Keeps.foldl_fst | split
      | (refine Keeps.of_fst (by assumption) ?_) | (refine KeepsM.get (by assumption) ?_)
      | (refine KeepsE.get (by assumption) ?_) | fail_if_no_progress (refine Keeps.upd ?_) | dsimp only

theorem State.admitJob_k {F : Part → Prop} {s0 : State} (s : State) (jn : Nat) (j : Job) (hk : Keeps F s0 s)
    (h_mem : F .mem := by assumption) (h_wk : F .wk := by assumption) (h_ms : F .ms := by assumption)
    (h_sv : F .sv := by assumption) : Keeps F s0 (State.admitJob s jn j) := by
  unfold State.admitJob
  try dsimp only
  with_reducible repeat' first
      | assumption | intro _ | apply Keeps.ite | apply State.setJob_k | apply State.jrec_k | apply State.stage_k
      | apply KeepsM.getD | apply KeepsM.foldl | apply KeepsM.bind | apply Keeps.foldl | apply Keeps.foldl_fst | split
      | (refine Keeps.of_fst (by assumption) ?_) | (refine KeepsM.get (by assumption) ?_)
      | (refine KeepsE.get (by assumption) ?_) | fail_if_no_progress (refine Keeps.upd ?_) | dsimp only

theorem execRingAdmission_k {F : Part → Prop} {s0 : State} (h : Hub) (s : State) (hk : Keeps F s0 s)
    (h_sent : F .sent := by assumption) (h_regs : F .regs := by assumption) (h_mem : F .mem := by assumption)
    (h_hl : F .hl := by assumption) (h_wk : F .wk := by assumption) (h_ms : F .ms := by assumption)
    (h_sv : F .sv := by assumption) : KeepsO F s0 (execRingAdmission h s) := by
  unfold execRingAdmission
  try dsimp only
  with_reducible repeat' first
      | assumption | intro _ | apply Keeps.ite | apply KeepsO.ite | apply KeepsO.next | apply State.complete_k
      | apply State.admitJob_k | apply KeepsM.getD | apply KeepsM.foldl | apply KeepsM.bind | apply Keeps.foldl
      | apply Keeps.foldl_fst | split | (refine Keeps.of_fst (by assumption) ?_)
      | (refine KeepsM.get (by assumption) ?_) | (refine KeepsE.get (by assumption) ?_)
      | fail_if_no_progress (refine Keeps.upd ?_) | dsimp only

theorem State.takePages_k {F : Part → Prop} {s0 : State} (s : State) (m key count n f : Nat) (hk : Keeps F s0 s)
    (h_wk : F .wk := by assumption) :
    KeepsM F s0 (s.takePages m key count n f) := by
  induction f generalizing s with
  | zero => exact .some hk
  | succ f ih =>
    unfold State.takePages
    dsimp only
    repeat' first
        | with_reducible assumption | with_reducible apply ih | with_reducible apply KeepsM.none
        | with_reducible apply KeepsM.some | split | with_reducible refine Keeps.upd ?_

theorem State.pagesFor_k {F : Part → Prop} {s0 : State} (s : State) (j : Job) (k : Nat) (hk : Keeps F s0 s)
    (h_wk : F .wk := by assumption) : KeepsM F s0 (State.pagesFor s j k) := by
  unfold State.pagesFor
  with_reducible repeat' first
      | assumption | intro _ | apply KeepsM.some | apply State.takePages_k | apply KeepsM.foldl | apply KeepsM.bind
      | split | fail_if_no_progress (refine Keeps.upd ?_)

theorem State.issueStep_k {F : Part → Prop} {s0 : State} (s : State) (jn : Nat) (j : Job) (hk : Keeps F s0 s)
    (h_sent : F .sent := by assumption) (h_evlog : F .evlog := by assumption) (h_regs : F .regs := by assumption)
    (h_live : F .live := by assumption) (h_mem : F .mem := by assumption) (h_frames : F .frames := by assumption)
    (h_boards : F .boards := by assumption) (h_dies : F .dies := by assumption) (h_hl : F .hl := by assumption)
    (h_wk : F .wk := by assumption) (h_fb : F .fb := by assumption) (h_ms : F .ms := by assumption)
    (h_sv : F .sv := by assumption) : Keeps F s0 (State.issueStep s jn j) := by
  unfold State.issueStep
  try dsimp only
  with_reducible repeat' first
      | assumption | intro _ | apply State.setJob_k | apply State.failJob_k | apply State.sendStep_k
      | apply State.pagesFor_k | apply Keeps.foldl | split | (refine KeepsM.get (by assumption) ?_)

theorem execJobLaunch_k {F : Part → Prop} {s0 : State} (j : Nat) (s : State) (hk : Keeps F s0 s)
    (h_sent : F .sent := by assumption) (h_evlog : F .evlog := by assumption) (h_regs : F .regs := by assumption)
    (h_live : F .live := by assumption) (h_mem : F .mem := by assumption) (h_frames : F .frames := by assumption)
    (h_boards : F .boards := by assumption) (h_dies : F .dies := by assumption) (h_hl : F .hl := by assumption)
    (h_wk : F .wk := by assumption) (h_fb : F .fb := by assumption) (h_ms : F .ms := by assumption)
    (h_sv : F .sv := by assumption) : KeepsO F s0 (execJobLaunch j s) := by
  unfold execJobLaunch
  try dsimp only
  with_reducible repeat' first
      | assumption | intro _ | apply Keeps.ite | apply KeepsO.ite | apply KeepsO.next | apply State.resetCtx_k
      | apply State.launch_k | apply State.stage_k | apply State.issueStep_k | split
      | (refine Keeps.of_fst (by assumption) ?_) | (refine KeepsM.get (by assumption) ?_)
      | fail_if_no_progress (refine Keeps.upd ?_) | dsimp only

theorem execStepStartIssue_k {F : Part → Prop} {s0 : State} (j : Nat) (s : State) (hk : Keeps F s0 s)
    (h_sent : F .sent := by assumption) (h_evlog : F .evlog := by assumption) (h_regs : F .regs := by assumption)
    (h_live : F .live := by assumption) (h_mem : F .mem := by assumption) (h_frames : F .frames := by assumption)
    (h_boards : F .boards := by assumption) (h_dies : F .dies := by assumption) (h_hl : F .hl := by assumption)
    (h_wk : F .wk := by assumption) (h_fb : F .fb := by assumption) (h_ms : F .ms := by assumption)
    (h_sv : F .sv := by assumption) : KeepsO F s0 (execStepStartIssue j s) := by
  unfold execStepStartIssue
  with_reducible repeat' first | assumption | apply KeepsO.next | apply State.issueStep_k | split

theorem execCalForcedTimeout_k {F : Part → Prop} {s0 : State} (j : Nat) (s : State) (hk : Keeps F s0 s)
    (h_wk : F .wk := by assumption) : KeepsO F s0 (execCalForcedTimeout j s) := by
  unfold execCalForcedTimeout
  try dsimp only
  with_reducible repeat' first
      | assumption | intro _ | apply Keeps.ite | apply KeepsO.ite | apply KeepsO.next | apply State.setJob_k | split
      | (refine Keeps.of_fst (by assumption) ?_) | (refine KeepsM.get (by assumption) ?_)
      | fail_if_no_progress (refine Keeps.upd ?_) | dsimp only

theorem State.putPart_k {F : Part → Prop} {s0 : State} (s : State) (j : Job) (part : Nat) (bytes : List Byte) (r : Nat × Nat) (hk : Keeps F s0 s)
    (h_wk : F .wk := by assumption) : Keeps F s0 (State.putPart s j part bytes r) := by
  unfold State.putPart
  try dsimp only
  with_reducible repeat' first
      | assumption | intro _ | apply Keeps.ite | apply State.setHandle_k | apply KeepsM.getD | apply KeepsM.foldl
      | apply KeepsM.bind | apply Keeps.foldl | apply Keeps.foldl_fst | split
      | (refine Keeps.of_fst (by assumption) ?_) | (refine KeepsM.get (by assumption) ?_)
      | (refine KeepsE.get (by assumption) ?_) | fail_if_no_progress (refine Keeps.upd ?_) | dsimp only

theorem State.sendResult_k {F : Part → Prop} {s0 : State} (s : State) (j : Job) (k0 k : Nat) (hk : Keeps F s0 s)
    (h_wk : F .wk := by assumption) : KeepsM F s0 ((State.sendResult s j k0 k).map Prod.fst) := by
  unfold State.sendResult
  dsimp only
  split
  · split
    · exact KeepsM.some hk
    split
    · exact KeepsM.none
    · exact KeepsM.some (Keeps.foldl (fun _ _ h => State.putPart_k _ _ _ _ _ h) (Keeps.foldl (fun _ _ h => State.putPart_k _ _ _ _ _ h) hk))
  · exact KeepsM.some hk

theorem execIntermediateCompletion_k {F : Part → Prop} {s0 : State} (j : Nat) (s : State) (hk : Keeps F s0 s)
    (h_sent : F .sent := by assumption) (h_evlog : F .evlog := by assumption) (h_regs : F .regs := by assumption)
    (h_live : F .live := by assumption) (h_mem : F .mem := by assumption) (h_frames : F .frames := by assumption)
    (h_boards : F .boards := by assumption) (h_dies : F .dies := by assumption) (h_hl : F .hl := by assumption)
    (h_wk : F .wk := by assumption) (h_fb : F .fb := by assumption)
    (h_sv : F .sv := by assumption) : KeepsO F s0 (execIntermediateCompletion j s) := by
  unfold execIntermediateCompletion
  try dsimp only
  with_reducible repeat' first
      | assumption | apply State.sendResult_k | (refine KeepsM.get1 (by assumption) ?_) | intro _ | apply Keeps.ite
      | apply KeepsO.ite | apply KeepsO.next | apply State.formCompl_k | apply State.failJob_k | apply KeepsM.getD
      | apply KeepsM.foldl | apply KeepsM.bind | apply Keeps.foldl | apply Keeps.foldl_fst | split
      | (refine Keeps.of_fst (by assumption) ?_) | (refine KeepsM.get (by assumption) ?_)
      | (refine KeepsE.get (by assumption) ?_) | fail_if_no_progress (refine Keeps.upd ?_) | dsimp only

theorem execFinalCompletion_k {F : Part → Prop} {s0 : State} (j : Nat) (s : State) (hk : Keeps F s0 s)
    (h_sent : F .sent := by assumption) (h_evlog : F .evlog := by assumption) (h_regs : F .regs := by assumption)
    (h_live : F .live := by assumption) (h_mem : F .mem := by assumption) (h_frames : F .frames := by assumption)
    (h_boards : F .boards := by assumption) (h_dies : F .dies := by assumption) (h_hl : F .hl := by assumption)
    (h_wk : F .wk := by assumption) (h_fb : F .fb := by assumption)
    (h_sv : F .sv := by assumption) : KeepsO F s0 (execFinalCompletion j s) := by
  unfold execFinalCompletion
  try dsimp only
  with_reducible repeat' first
      | assumption | apply State.sendResult_k | (refine KeepsM.get1 (by assumption) ?_) | intro _ | apply Keeps.ite
      | apply KeepsO.ite | apply KeepsO.next | apply State.complete_k | apply State.failJob_k | apply KeepsM.getD
      | apply KeepsM.foldl | apply KeepsM.bind | apply Keeps.foldl | apply Keeps.foldl_fst | split
      | (refine Keeps.of_fst (by assumption) ?_) | (refine KeepsM.get (by assumption) ?_)
      | (refine KeepsE.get (by assumption) ?_) | fail_if_no_progress (refine Keeps.upd ?_) | dsimp only

theorem execReplayInject_k {F : Part → Prop} {s0 : State} (g : Fin 4096) (s : State) (hk : Keeps F s0 s)
    (h_regs : F .regs := by assumption) (h_hl : F .hl := by assumption) (h_wk : F .wk := by assumption)
    (h_sv : F .sv := by assumption) : KeepsO F s0 (execReplayInject g s) := by
  unfold execReplayInject State.replayHandles
  try dsimp only
  with_reducible repeat' first
      | assumption | apply KeepsO.next | apply State.setRing_k | apply State.setHandle_k | apply State.modJob_k
      | apply State.acceptDesc_k | apply State.settleReplay_k | split

theorem execLedgerPageWrite_k {F : Part → Prop} {s0 : State} (s : State) (hk : Keeps F s0 s)
    (h_regs : F .regs := by assumption) (h_lg : F .lg := by assumption) : KeepsO F s0 (execLedgerPageWrite s) := by
  unfold execLedgerPageWrite
  with_reducible repeat' first | assumption | apply KeepsO.next | apply State.flushLedger_k | split

theorem execLedgerCounterIncrement_k {F : Part → Prop} {s0 : State} (k : Fin 64) (s : State) (hk : Keeps F s0 s)
    (h_regs : F .regs := by assumption)
    (h_lg : F .lg := by assumption) : KeepsO F s0 (execLedgerCounterIncrement k s) := by
  unfold execLedgerCounterIncrement
  with_reducible repeat' first | assumption | apply KeepsO.next | apply State.ctrInc_k | split

theorem State.putSlot_k {F : Part → Prop} {s0 : State} (s : State) (copy page i : Nat) (x : LSlot) (hk : Keeps F s0 s)
    (h_lg : F .lg := by assumption) : Keeps F s0 (State.putSlot s copy page i x) := by
  unfold State.putSlot
  with_reducible repeat' first | assumption | fail_if_no_progress (refine Keeps.upd ?_)

theorem State.settleSlot_k {F : Part → Prop} {s0 : State} (s : State) (copy page i : Nat) (x : LSlot) (hk : Keeps F s0 s)
    (h_lg : F .lg := by assumption) : Keeps F s0 (State.settleSlot s copy page i x) := by
  unfold State.settleSlot
  with_reducible repeat' first | assumption | apply Keeps.ite | apply State.putSlot_k

theorem execLedgerPageResolve_k {F : Part → Prop} {s0 : State} (pg : Fin 1024) (s : State) (hk : Keeps F s0 s)
    (h_evlog : F .evlog := by assumption) (h_regs : F .regs := by assumption)
    (h_lg : F .lg := by assumption) : KeepsO F s0 (execLedgerPageResolve pg s) := by
  unfold execLedgerPageResolve
  with_reducible repeat' first
      | assumption | intro _ | apply Keeps.ite | apply KeepsO.next | apply State.bump_k | apply State.log_k
      | apply State.putSlot_k | apply State.settleSlot_k | apply Keeps.foldl | split
      | fail_if_no_progress (refine Keeps.upd ?_)

theorem execLedgerCounterResolve_k {F : Part → Prop} {s0 : State} (k : Fin 64) (s : State) (hk : Keeps F s0 s)
    (h_regs : F .regs := by assumption)
    (h_lg : F .lg := by assumption) : KeepsO F s0 (execLedgerCounterResolve k s) := by
  unfold execLedgerCounterResolve
  with_reducible repeat' first
      | assumption | intro _ | apply KeepsO.next | apply State.bump_k | apply State.setCell_k | apply Keeps.foldl
      | split | fail_if_no_progress (refine Keeps.upd ?_)

theorem execLedgerMarginPass_k {F : Part → Prop} {s0 : State} (slots cells : List Nat) (s : State) (hk : Keeps F s0 s)
    (h_regs : F .regs := by assumption)
    (h_lg : F .lg := by assumption) : KeepsO F s0 (execLedgerMarginPass slots cells s) := by
  unfold execLedgerMarginPass State.marginRun
  try dsimp only
  with_reducible repeat' first
      | assumption | intro _ | apply Keeps.ite | apply KeepsO.ite | apply KeepsO.next | apply State.setRegN_k
      | apply State.bump_k | apply State.ledgerWrite_k | apply KeepsM.foldl | apply Keeps.foldl
      | apply Keeps.foldl_fst | split | (refine Keeps.of_fst (by assumption) ?_)
      | (refine KeepsM.get (by assumption) ?_) | fail_if_no_progress (refine Keeps.upd ?_) | dsimp only

theorem execLedgerCopyLost_k {F : Part → Prop} {s0 : State} (h : Hub) (s : State) (hk : Keeps F s0 s)
    (h_evlog : F .evlog := by assumption) (h_regs : F .regs := by assumption)
    (h_lg : F .lg := by assumption) : KeepsO F s0 (execLedgerCopyLost h s) := by
  unfold execLedgerCopyLost
  with_reducible repeat' first
      | assumption | apply KeepsO.next | apply State.log_k | apply State.auditModule_k | split
      | fail_if_no_progress (refine Keeps.upd ?_)

theorem execLedgerCopyReturn_k {F : Part → Prop} {s0 : State} (h : Hub) (s : State) (hk : Keeps F s0 s)
    (h_regs : F .regs := by assumption) (h_lg : F .lg := by assumption) : KeepsO F s0 (execLedgerCopyReturn h s) := by
  unfold execLedgerCopyReturn State.copyBack
  with_reducible repeat' first
      | assumption | intro _ | apply KeepsO.next | apply State.setCell_k | apply State.auditModule_k
      | apply State.putSlot_k | apply Keeps.foldl | split | fail_if_no_progress (refine Keeps.upd ?_)

theorem execLedgerReady_k {F : Part → Prop} {s0 : State} (s : State) (hk : Keeps F s0 s)
    (h_lg : F .lg := by assumption) : KeepsO F s0 (execLedgerReady s) := by
  unfold execLedgerReady
  with_reducible repeat' first | assumption | apply KeepsO.next | split | fail_if_no_progress (refine Keeps.upd ?_)

theorem execMbxTxdWrite_k {F : Part → Prop} {s0 : State} (h : Hub) (n : Fin 8) (e : Fin 2) (p : Party) (w : Word) (s : State) (hk : Keeps F s0 s)
    (h_regs : F .regs := by assumption)
    (h_hl : F .hl := by assumption) : KeepsO F s0 (execMbxTxdWrite h n e p w s) := by
  unfold execMbxTxdWrite
  try dsimp only
  with_reducible repeat' first
      | assumption | intro _ | apply Keeps.ite | apply KeepsO.ite | apply KeepsO.next | apply State.bump_k
      | apply State.setMbx_k | apply State.mbPost_k | apply KeepsM.getD | apply KeepsM.foldl | apply KeepsM.bind
      | apply Keeps.foldl | apply Keeps.foldl_fst | split | (refine Keeps.of_fst (by assumption) ?_)
      | (refine KeepsM.get (by assumption) ?_) | (refine KeepsE.get (by assumption) ?_)
      | fail_if_no_progress (refine Keeps.upd ?_) | dsimp only

theorem execMbxDbRing_k {F : Part → Prop} {s0 : State} (h : Hub) (n : Fin 8) (e : Fin 2) (p : Party) (s : State) (hk : Keeps F s0 s)
    (h_regs : F .regs := by assumption) (h_pw : F .pw := by assumption)
    (h_hl : F .hl := by assumption) : KeepsO F s0 (execMbxDbRing h n e p s) := by
  unfold execMbxDbRing
  try dsimp only
  with_reducible repeat' first
      | assumption | intro _ | apply Keeps.ite | apply KeepsO.ite | apply KeepsO.next | apply State.bump_k
      | apply State.setMbx_k | apply State.mbPost_k | apply State.mbDeliver_k | apply State.wake_k | apply KeepsM.getD
      | apply KeepsM.foldl | apply KeepsM.bind | apply Keeps.foldl | apply Keeps.foldl_fst | split
      | (refine Keeps.of_fst (by assumption) ?_) | (refine KeepsM.get (by assumption) ?_)
      | (refine KeepsE.get (by assumption) ?_) | fail_if_no_progress (refine Keeps.upd ?_) | dsimp only

theorem execMbxDbFlush_k {F : Part → Prop} {s0 : State} (h : Hub) (n : Fin 8) (e : Fin 2) (p : Party) (s : State) (hk : Keeps F s0 s)
    (h_regs : F .regs := by assumption) (h_hl : F .hl := by assumption) : KeepsO F s0 (execMbxDbFlush h n e p s) := by
  unfold execMbxDbFlush
  try dsimp only
  with_reducible repeat' first
      | assumption | intro _ | apply Keeps.ite | apply KeepsO.ite | apply KeepsO.next | apply State.bump_k
      | apply State.setMbx_k | apply State.mbPost_k | apply KeepsM.getD | apply KeepsM.foldl | apply KeepsM.bind
      | apply Keeps.foldl | apply Keeps.foldl_fst | split | (refine Keeps.of_fst (by assumption) ?_)
      | (refine KeepsM.get (by assumption) ?_) | (refine KeepsE.get (by assumption) ?_)
      | fail_if_no_progress (refine Keeps.upd ?_) | dsimp only

theorem execMbxRxdRead_k {F : Part → Prop} {s0 : State} (h : Hub) (n : Fin 8) (e : Fin 2) (s : State) (hk : Keeps F s0 s)
    (h_rdata : F .rdata := by assumption) (h_hl : F .hl := by assumption) : KeepsO F s0 (execMbxRxdRead h n e s) := by
  unfold execMbxRxdRead
  try dsimp only
  with_reducible repeat' first
      | assumption | apply KeepsO.next | apply State.setMbx_k | split | fail_if_no_progress (refine Keeps.upd ?_)

theorem execMbxAckWrite_k {F : Part → Prop} {s0 : State} (h : Hub) (n : Fin 8) (e : Fin 2) (w : Word) (s : State) (hk : Keeps F s0 s)
    (h_regs : F .regs := by assumption)
    (h_hl : F .hl := by assumption) : KeepsO F s0 (execMbxAckWrite h n e w s) := by
  unfold execMbxAckWrite
  with_reducible repeat' first | assumption | apply KeepsO.next | apply State.mbAck_k

theorem execMbxAckinRead_k {F : Part → Prop} {s0 : State} (h : Hub) (n : Fin 8) (e : Fin 2) (s : State) (hk : Keeps F s0 s)
    (h_rdata : F .rdata := by assumption)
    (h_hl : F .hl := by assumption) : KeepsO F s0 (execMbxAckinRead h n e s) := by
  unfold execMbxAckinRead
  with_reducible repeat' first
      | assumption | apply KeepsO.next | apply State.setMbx_k | fail_if_no_progress (refine Keeps.upd ?_)

theorem execMbxLockRead_k {F : Part → Prop} {s0 : State} (h : Hub) (n : Fin 8) (e : Fin 2) (p : Party) (s : State) (hk : Keeps F s0 s)
    (h_rdata : F .rdata := by assumption)
    (h_hl : F .hl := by assumption) : KeepsO F s0 (execMbxLockRead h n e p s) := by
  unfold execMbxLockRead
  try dsimp only
  with_reducible repeat' first
      | assumption | intro _ | apply Keeps.ite | apply KeepsO.ite | apply KeepsO.next | apply State.setMbx_k
      | apply KeepsM.getD | apply KeepsM.foldl | apply KeepsM.bind | apply Keeps.foldl | apply Keeps.foldl_fst | split
      | (refine Keeps.of_fst (by assumption) ?_) | (refine KeepsM.get (by assumption) ?_)
      | (refine KeepsE.get (by assumption) ?_) | fail_if_no_progress (refine Keeps.upd ?_) | dsimp only

theorem execMbxLockRelease_k {F : Part → Prop} {s0 : State} (h : Hub) (n : Fin 8) (e : Fin 2) (p : Party) (s : State) (hk : Keeps F s0 s)
    (h_hl : F .hl := by assumption) : KeepsO F s0 (execMbxLockRelease h n e p s) := by
  unfold execMbxLockRelease
  try dsimp only
  with_reducible repeat' first
      | assumption | intro _ | apply Keeps.ite | apply KeepsO.ite | apply KeepsO.next | apply State.setMbx_k
      | apply KeepsM.getD | apply KeepsM.foldl | apply KeepsM.bind | apply Keeps.foldl | apply Keeps.foldl_fst | split
      | (refine Keeps.of_fst (by assumption) ?_) | (refine KeepsM.get (by assumption) ?_)
      | (refine KeepsE.get (by assumption) ?_) | fail_if_no_progress (refine Keeps.upd ?_) | dsimp only

theorem execMbxIrqClear_k {F : Part → Prop} {s0 : State} (h : Hub) (n : Fin 8) (e : Fin 2) (w : Word) (s : State) (hk : Keeps F s0 s)
    (h_regs : F .regs := by assumption) : KeepsO F s0 (execMbxIrqClear h n e w s) := by
  unfold execMbxIrqClear
  with_reducible repeat' first | assumption | apply KeepsO.next | apply State.setReg_k

theorem execMbxWakeDelivery_k {F : Part → Prop} {s0 : State} (h : Hub) (n : Fin 8) (e : Fin 2) (s : State) (hk : Keeps F s0 s)
    (h_regs : F .regs := by assumption)
    (h_hl : F .hl := by assumption) : KeepsO F s0 (execMbxWakeDelivery h n e s) := by
  unfold execMbxWakeDelivery
  try dsimp only
  with_reducible repeat' first
      | assumption | intro _ | apply Keeps.ite | apply KeepsO.ite | apply KeepsO.next | apply State.mbDeliver_k
      | apply KeepsM.getD | apply KeepsM.foldl | apply KeepsM.bind | apply Keeps.foldl | apply Keeps.foldl_fst | split
      | (refine Keeps.of_fst (by assumption) ?_) | (refine KeepsM.get (by assumption) ?_)
      | (refine KeepsE.get (by assumption) ?_) | fail_if_no_progress (refine Keeps.upd ?_) | dsimp only

theorem execMb4Timeout_k {F : Part → Prop} {s0 : State} (h : Hub) (e : Fin 2) (s : State) (hk : Keeps F s0 s)
    (h_regs : F .regs := by assumption) (h_hl : F .hl := by assumption) : KeepsO F s0 (execMb4Timeout h e s) := by
  unfold execMb4Timeout
  with_reducible repeat' first
      | assumption | apply KeepsO.ite | apply KeepsO.next | apply State.setMbx_k | apply State.mbPost_k

theorem taken_k {F : Part → Prop} {s0 : State} (o : Host.Outcome State Fault Refusal) (s : State) (ho : KeepsO F s0 o) (hk : Keeps F s0 s) :
    Keeps F s0 (taken o s) := by
  unfold taken
  split
  · exact ho.out _ rfl
  · exact hk

theorem execTlySlotLoRead_k {F : Part → Prop} {s0 : State} (d : Die) (b : Brd) (n : Fin 2048) (s : State) (hk : Keeps F s0 s)
    (h_rdata : F .rdata := by assumption)
    (h_regs : F .regs := by assumption) : KeepsO F s0 (execTlySlotLoRead d b n s) := by
  unfold execTlySlotLoRead
  with_reducible repeat' first
      | assumption | apply KeepsO.next | apply State.setReg_k | fail_if_no_progress (refine Keeps.upd ?_)

theorem State.readClear_k {F : Part → Prop} {s0 : State} (s : State) (a : Nat) (hk : Keeps F s0 s)
    (h_rdata : F .rdata := by assumption) (h_regs : F .regs := by assumption) (h_mets : F .mets := by assumption)
    (h_hl : F .hl := by assumption) : Keeps F s0 (State.readClear s a) := by
  unfold State.readClear
  with_reducible repeat' first
      | assumption | apply Keeps.ite | apply State.setReg_k | apply execMetQRead_k | apply execMbxRxdRead_k
      | apply execMbxAckinRead_k | apply taken_k | split | fail_if_no_progress (refine Keeps.upd ?_)

theorem execCounterReadClear_k {F : Part → Prop} {s0 : State} (a : Nat) (s : State) (hk : Keeps F s0 s)
    (h_rdata : F .rdata := by assumption) (h_regs : F .regs := by assumption) (h_mets : F .mets := by assumption)
    (h_hl : F .hl := by assumption) : KeepsO F s0 (execCounterReadClear a s) := by
  unfold execCounterReadClear
  with_reducible repeat' first | assumption | apply KeepsO.next | apply State.readClear_k | split

theorem State.readAt_k {F : Part → Prop} {s0 : State} (s : State) (a : Nat) (hk : Keeps F s0 s)
    (h_rdata : F .rdata := by assumption) (h_regs : F .regs := by assumption) (h_mets : F .mets := by assumption)
    (h_hl : F .hl := by assumption) : Keeps F s0 (State.readAt s a) := by
  unfold State.readAt
  try dsimp only
  with_reducible repeat' first
      | assumption | intro _ | apply Keeps.ite | apply State.setReg_k | apply execMbxLockRead_k | apply taken_k
      | apply execTlySlotLoRead_k | apply State.readClear_k | split | (refine Keeps.of_fst (by assumption) ?_)
      | (refine KeepsM.get (by assumption) ?_) | fail_if_no_progress (refine Keeps.upd ?_) | dsimp only

theorem execDrnActWrite_k {F : Part → Prop} {s0 : State} (d : Die) (b : Brd) (t : Fin 8) (i : Fin 256) (w : Word) (s : State) (hk : Keeps F s0 s)
    (h_regs : F .regs := by assumption)
    (h_boards : F .boards := by assumption) : KeepsO F s0 (execDrnActWrite d b t i w s) := by
  unfold execDrnActWrite
  try dsimp only
  with_reducible repeat' first
      | assumption | intro _ | apply Keeps.ite | apply KeepsO.ite | apply KeepsO.next | apply State.writeAct_k | split
      | fail_if_no_progress (refine Keeps.upd ?_) | dsimp only

theorem State.plainWrite_k {F : Part → Prop} {s0 : State} (s : State) (a : Nat) (w : Word) (hk : Keeps F s0 s)
    (h_regs : F .regs := by assumption) : Keeps F s0 (State.plainWrite s a w) := by
  unfold State.plainWrite
  try dsimp only
  with_reducible repeat' first
      | assumption | intro _ | apply Keeps.ite | apply State.setReg_k | apply KeepsM.getD | apply KeepsM.foldl
      | apply KeepsM.bind | apply Keeps.foldl | apply Keeps.foldl_fst | split
      | (refine Keeps.of_fst (by assumption) ?_) | (refine KeepsM.get (by assumption) ?_)
      | (refine KeepsE.get (by assumption) ?_) | fail_if_no_progress (refine Keeps.upd ?_) | dsimp only

theorem State.writeScl_k {F : Part → Prop} {s0 : State} (s : State) (bk k : Nat) (w : Word) (hk : Keeps F s0 s)
    (h_regs : F .regs := by assumption) : Keeps F s0 (State.writeScl s bk k w) := by
  unfold State.writeScl
  with_reducible repeat' first | assumption | apply State.setReg_k

theorem State.writeMet_k {F : Part → Prop} {s0 : State} (s : State) (u o : Nat) (w : Word) (hk : Keeps F s0 s)
    (h_regs : F .regs := by assumption) (h_live : F .live := by assumption)
    (h_mets : F .mets := by assumption) : Keeps F s0 (State.writeMet s u o w) := by
  unfold State.writeMet
  try dsimp only
  with_reducible repeat' first
      | assumption | intro _ | apply Keeps.ite | apply State.setMet_k | apply execMetExternalEvent_k
      | apply execMetUrgentRequest_k | apply execMetCmdSelfcal_k | apply execMetCmdFlush_k | apply execMetCtlWrite_k
      | apply execMetProbeWrite_k | apply execMetIsrcWrite_k | apply execMetWinStatClear_k | apply State.writeEntry_k
      | apply taken_k | apply State.plainWrite_k | split | fail_if_no_progress (refine Keeps.upd ?_) | dsimp only

theorem State.writeFrm_k {F : Part → Prop} {s0 : State} (s : State) (d b f o : Nat) (w : Word) (seq : Bool := false) (hk : Keeps F s0 s)
    (h_sent : F .sent := by assumption) (h_evlog : F .evlog := by assumption) (h_regs : F .regs := by assumption)
    (h_live : F .live := by assumption) (h_frames : F .frames := by assumption)
    (h_boards : F .boards := by assumption) (h_dies : F .dies := by assumption) (h_hl : F .hl := by assumption)
    (h_wk : F .wk := by assumption) (h_fb : F .fb := by assumption) (h_lg : F .lg := by assumption)
    (h_sv : F .sv := by assumption) : Keeps F s0 (State.writeFrm s d b f o w seq) := by
  unfold State.writeFrm
  try dsimp only
  with_reducible repeat' first
      | assumption | intro _ | apply Keeps.ite | apply execFrmCommit_k | apply execFrmCtlIdle_k
      | apply execFrmCtlSpare_k | apply execFrmCtlRepair_k | apply execFrmCtlRetire_k | apply execFrmCtlClearFault_k
      | apply execCalRegisterWrite_k | apply execFrmPrgStart_k | apply execFrmPrgFeed_k | apply execFrmPrgAbort_k
      | apply taken_k | apply State.plainWrite_k | split | (refine Keeps.of_fst (by assumption) ?_)
      | fail_if_no_progress (refine Keeps.upd ?_) | dsimp only

theorem State.writeBrd_k {F : Part → Prop} {s0 : State} (s : State) (d b o : Nat) (w : Word) (hk : Keeps F s0 s)
    (h_evlog : F .evlog := by assumption) (h_regs : F .regs := by assumption) (h_live : F .live := by assumption)
    (h_mem : F .mem := by assumption) (h_boards : F .boards := by assumption) (h_fb : F .fb := by assumption)
    (h_lg : F .lg := by assumption) (h_sv : F .sv := by assumption) :
    Keeps F s0 (State.writeBrd s d b o w) := by
  unfold State.writeBrd
  extract_lets x y bk a
  refine Keeps.ite (State.store_k _ _ hk) (Keeps.ite ?_ (Keeps.ite ?_ (Keeps.ite ?_ (Keeps.ite ?_ (Keeps.ite ?_ ?_)))))
  · have run : ∀ u, Keeps F s0 u → Keeps F s0 (if bit w 0 = true then taken (execSeqCtlRun x y u) u else u) :=
      fun u h => Keeps.ite (taken_k _ _ (execSeqCtlRun_k _ _ _ h) h) h
    have halt : ∀ u, Keeps F s0 u → Keeps F s0 (if bit w 1 = true then taken (execSeqCtlHalt x y u) u else u) :=
      fun u h => Keeps.ite (taken_k _ _ (execSeqCtlHalt_k _ _ _ h) h) h
    have clear : ∀ u, Keeps F s0 u → Keeps F s0 (if bit w 2 = true then taken (execSeqCtlClear x y u) u else u) :=
      fun u h => Keeps.ite (taken_k _ _ (execSeqCtlClear_k _ _ _ h) h) h
    exact clear _ (halt _ (run _ hk))
  · exact taken_k _ _ (execDrnActWrite_k _ _ _ _ _ _ hk) hk
  · exact State.writeAct_k _ _ _ _ hk
  · exact State.writeScl_k _ _ _ _ hk
  · split
    · have tr : ∀ k u, Keeps F s0 u → Keeps F s0 (if bit w 0 = true then u.startTrain k else u) :=
        fun k u h => Keeps.ite (State.startTrain_k _ _ h) h
      have dn : ∀ k u, Keeps F s0 u → Keeps F s0 (if bit w 1 = true then u.declareDown k else u) :=
        fun k u h => Keeps.ite (State.declareDown_k _ _ h) h
      exact dn _ _ (tr _ _ hk)
    · exact hk
  · exact State.plainWrite_k _ _ _ hk

theorem State.writeHub_k {F : Part → Prop} {s0 : State} (s : State) (h o : Nat) (w : Word) (hk : Keeps F s0 s)
    (h_evlog : F .evlog := by assumption) (h_regs : F .regs := by assumption) (h_live : F .live := by assumption)
    (h_mets : F .mets := by assumption) (h_pw : F .pw := by assumption) (h_hl : F .hl := by assumption)
    (h_fb : F .fb := by assumption) (h_lg : F .lg := by assumption)
    (h_sv : F .sv := by assumption) : Keeps F s0 (State.writeHub s h o w) := by
  unfold State.writeHub
  with_reducible repeat' first
      | assumption | apply Keeps.ite | apply State.declareDown_k | apply State.startTrain_k | apply execMbxTxdWrite_k
      | apply execMbxDbRing_k | apply execMbxDbFlush_k | apply execMbxAckWrite_k | apply execMbxLockRelease_k
      | apply execMbxIrqClear_k | apply taken_k | apply State.plainWrite_k | apply State.writeMet_k | split

theorem State.writeAt_k {F : Part → Prop} {s0 : State} (s : State) (a : Nat) (w : Word) (seq : Bool := false) (hk : Keeps F s0 s)
    (h_sent : F .sent := by assumption) (h_evlog : F .evlog := by assumption) (h_regs : F .regs := by assumption)
    (h_live : F .live := by assumption) (h_mem : F .mem := by assumption) (h_frames : F .frames := by assumption)
    (h_boards : F .boards := by assumption) (h_dies : F .dies := by assumption) (h_mets : F .mets := by assumption)
    (h_pw : F .pw := by assumption) (h_hl : F .hl := by assumption) (h_wk : F .wk := by assumption)
    (h_fb : F .fb := by assumption) (h_lg : F .lg := by assumption)
    (h_sv : F .sv := by assumption) : Keeps F s0 (State.writeAt s a w seq) := by
  unfold State.writeAt
  try dsimp only
  with_reducible repeat' first
      | assumption | intro _ | apply Keeps.ite | apply State.writeMet_k | apply State.writeFrm_k
      | apply State.writeBrd_k | apply State.writeHub_k | split | (refine Keeps.of_fst (by assumption) ?_)
      | fail_if_no_progress (refine Keeps.upd ?_) | dsimp only

theorem execRegisterWrite_k {F : Part → Prop} {s0 : State} (a : RegAt) (w : Word) (s : State) (hk : Keeps F s0 s)
    (h_sent : F .sent := by assumption) (h_evlog : F .evlog := by assumption) (h_regs : F .regs := by assumption)
    (h_live : F .live := by assumption) (h_mem : F .mem := by assumption) (h_frames : F .frames := by assumption)
    (h_boards : F .boards := by assumption) (h_dies : F .dies := by assumption) (h_mets : F .mets := by assumption)
    (h_pw : F .pw := by assumption) (h_hl : F .hl := by assumption) (h_wk : F .wk := by assumption)
    (h_fb : F .fb := by assumption) (h_lg : F .lg := by assumption)
    (h_sv : F .sv := by assumption) : KeepsO F s0 (execRegisterWrite a w s) := by
  unfold execRegisterWrite
  try dsimp only
  with_reducible repeat' first
      | assumption | intro _ | apply Keeps.ite | apply KeepsO.ite | apply KeepsO.next | apply State.writeAt_k | split
      | fail_if_no_progress (refine Keeps.upd ?_) | dsimp only

theorem execRegPacket_k {F : Part → Prop} {s0 : State} (p : Pkt) (wr : Bool) (a : Nat) (s : State) (hk : Keeps F s0 s)
    (h_rdata : F .rdata := by assumption) (h_sent : F .sent := by assumption) (h_evlog : F .evlog := by assumption)
    (h_regs : F .regs := by assumption) (h_live : F .live := by assumption) (h_mem : F .mem := by assumption)
    (h_frames : F .frames := by assumption) (h_boards : F .boards := by assumption)
    (h_dies : F .dies := by assumption) (h_mets : F .mets := by assumption) (h_pw : F .pw := by assumption)
    (h_hl : F .hl := by assumption) (h_wk : F .wk := by assumption) (h_fb : F .fb := by assumption)
    (h_lg : F .lg := by assumption) (h_sv : F .sv := by assumption) : KeepsO F s0 (execRegPacket p wr a s) := by
  unfold execRegPacket
  try dsimp only
  with_reducible repeat' first
      | assumption | intro _ | apply Keeps.ite | apply KeepsO.ite | apply KeepsO.next | apply State.bump_k
      | apply State.accept_k | apply State.readAt_k | apply State.writeAt_k | apply KeepsM.getD | split
      | (refine Keeps.of_fst (by assumption) ?_) | fail_if_no_progress (refine Keeps.upd ?_) | dsimp only

end Sys2Proof.Machine
end

