-- ==== Sys2Proof/Laws/Packets.lean ====
section
/-! SUPPORT. What the fabric does with a packet that reaches its destination: only registers and the fabric change, and
whether the packet may be used is known beforehand. -/

set_option Elab.async false

namespace Sys2Proof.Machine

/-- A packet's arrival changes registers and the fabric alone. -/
theorem State.arrive_same (s : State) (p : Pkt) (q : Part) (hr : q ≠ .regs) (hf : q ≠ .fb) :
    State.same q s (s.arrive p) :=
  ((State.arrive_k (F := fun x => x = .regs ∨ x = .fb) s p (Keeps.refl s) (.inl rfl) (.inr rfl)).frame q).resolve_left
    (by simp [hr, hf])

section
variable (s : State) (p : Pkt)
@[simp] theorem State.arrive_sv : (s.arrive p).sv = s.sv := State.arrive_same s p .sv nofun nofun
@[simp] theorem State.arrive_dies : (s.arrive p).dies = s.dies := State.arrive_same s p .dies nofun nofun
@[simp] theorem State.arrive_boards : (s.arrive p).boards = s.boards := State.arrive_same s p .boards nofun nofun
@[simp] theorem State.arrive_frames : (s.arrive p).frames = s.frames := State.arrive_same s p .frames nofun nofun
@[simp] theorem State.arrive_wk : (s.arrive p).wk = s.wk := State.arrive_same s p .wk nofun nofun
@[simp] theorem State.arrive_ms : (s.arrive p).ms = s.ms := State.arrive_same s p .ms nofun nofun
@[simp] theorem State.arrive_mem : (s.arrive p).mem = s.mem := State.arrive_same s p .mem nofun nofun
@[simp] theorem State.arrive_pw : (s.arrive p).pw = s.pw := State.arrive_same s p .pw nofun nofun
end

/-- Whether a packet can be routed does not change as one arrives. -/
theorem State.arrive_unroutable (s : State) (p q : Pkt) : (s.arrive p).unroutable q = s.unroutable q := by
  simp only [State.unroutable, State.disabled, State.die, State.board, State.arrive_sv, State.arrive_dies,
    State.arrive_boards]

/-- A routable, sound packet is used in its turn (R275). -/
theorem State.accept_sound {s : State} {p : Pkt} (o : s.outOfTurn p = false) (h : s.unroutable p = false)
    (hb : badPkt p = false) : s.accept p = (s.arrive p, true) := by
  simp only [State.accept, State.arrive_unroutable, o, h, hb, Bool.false_eq_true, if_false]

/-- An unroutable packet strays, and a bad one is poison (R268, R290). -/
theorem State.accept_stray {s : State} {p : Pkt} (o : s.outOfTurn p = false) (h : s.unroutable p = true) :
    s.accept p = ((s.arrive p).strayed p, false) := by
  simp only [State.accept, State.arrive_unroutable, o, h, Bool.false_eq_true, if_false, if_true]
theorem State.accept_bad {s : State} {p : Pkt} (o : s.outOfTurn p = false) (h : s.unroutable p = false)
    (hb : badPkt p = true) : s.accept p = ((s.arrive p).poisoned p, false) := by
  simp only [State.accept, State.arrive_unroutable, o, h, hb, Bool.false_eq_true, if_false, if_true]

/-- A packet that came out of turn is left where it is (R275). -/
theorem State.accept_held {s : State} {p : Pkt} (o : s.outOfTurn p = true) : s.accept p = (s, false) := by
  simp only [State.accept, o, if_true]

end Sys2Proof.Machine
end

