-- ==== Sys2Proof/Tests/Slice0.lean ====
section
/-! SUPPORT. Tests: ill-formed commands refused, the worked examples of the specification, and for each clause of each
obligation that has conditions a state and operands that meet them all (wit_<obligation>_<clause>). -/

set_option Elab.async false

namespace Sys2Proof.Machine

open Sys2Proof

/-- A Ready module with SERVICE_EN asserted whose supply readings allow ledger writes, and a maker session 1 of hub A. -/
def Wit.user : State :=
  ((({ State.reset.setPstate 2 with pw.serviceEn := true, pw.booted := [true, true] }).setSess 1 { opened := true, role := 3 }).setReg
    (metBase 32 + 0x860) (word 6800000)).setReg (hubBase 0 + 0x80010) (word (2 ^ 16))
theorem Wit.pair {α : Type} {x : α × Bool} (h : x.2 = true) : x = (x.1, true) := by
  cases x
  simp_all
def Wit.req (a : List Nat) : Req := { src := .session 0 1, nargs := a.length, args := a.map word }

/-- Ring 0 of depth 2 on the LOADED score 0, its first context; and the same ring attached to session 1 of hub A. -/
def Wit.digest : List Byte := List.replicate 64 0
def Wit.ringed : State :=
  ((Wit.user.setScore 0 { st := 4, digest := Wit.digest, ctxs := [0], file := { man := { contexts := 2 } } }).setRegN (ringReg 0) 2).setRing 0 {}
def Wit.attached : State := Wit.ringed.attach 0 (some 1)
def Wit.pausedRing : State := Wit.ringed.setRing 0 { paused := true }
def Wit.replay : State := { Wit.pausedRing with sv.journal.recs := [(0, 3 :: List.replicate 127 0)] }

/-- States for the witnesses: one end of a mailbox in each condition. -/
def Wit.mbx (k : Nat) (x : MbxEnd) : State := State.reset.setMbx k x
def Wit.mbxFull : State := Wit.mbx (mbKey 0 1 0) { send := List.replicate 8 1 }
def Wit.mbxBusy : State := Wit.mbx (mbKey 0 1 0) { busy := true }
def Wit.mbxSend : State := Wit.mbx (mbKey 0 3 0) { send := [1, 2] }
def Wit.mbxUnpowered : State := (Wit.mbx (mbKey 0 1 0) { send := [1] }).setPstate 0
def Wit.mbxDown : State := { (Wit.mbx (mbKey 0 2 0) { send := [1], owner := 1 }).setPstate 3 with sv.alive := [true, true] }
def Wit.mbxOvf : State := Wit.mbx (mbKey 0 1 0) { send := List.replicate 8 1, ovf := true }
def Wit.mbxRecv : State := Wit.mbx (mbKey 0 1 0) { recv := some [7, 8] }
def Wit.mbxLocked : State := Wit.mbx (mbKey 0 5 1) { owner := 3 }
def Wit.mbxWaking : State := ({ Wit.mbx (mbKey 0 2 0) { send := [1], waking := true, busy := true } with sv.alive := [true, true] }).setPstate 2
def Wit.mb4 : State := { Wit.mbx (mbKey 0 4 0) { send := [1], busy := true } with now := 1000000 }

/-- States for the witnesses: the last frame of the last board of the last die in a condition. -/
def Wit.frm (x : Frame) : State := State.reset.setFrame (frameKey 31 191 33) x
def Wit.snap : List Word := [0, 1, 1, 1, 1, 1, 128]
def Wit.bankHeld : State := State.reset.setBoard 0 { steps := [{}] }

def Wit.prg : Prg := { plane := 0, fmt := 1 }
def Wit.row : Prg := { plane := 7, fmt := 1, row := 511, full1 := true, granted := true }
/-- Sixty-four frames of die 0 are being programmed, and one waits. -/
def Wit.fullDie : State := (((List.range 64).foldl (fun s k => s.setFrame k { prg := some { Wit.prg with granted := true } }) State.reset).setFrame 68
  { prg := some Wit.prg }).setPstate 2
def Wit.hotDie : State := State.reset.setSensor (24 * 31) { tj16 := 2000 }
def Wit.tokens : State := ((Wit.frm { prg := some Wit.row }).setRegN (poolReg 31) 5000).setPstate 2
def Wit.rowSrc : RowSrc := ⟨List.replicate 256 0, 0, List.replicate 528 0, List.replicate 256 0⟩

/-- States for the witnesses: Ready, the last board of the last die with one instruction on its scoreboard. -/
def Wit.ready : State := State.reset.setPstate 2
def Wit.board (x : Board) : State := Wit.ready.setBoard (boardKey 31 191) x
def Wit.entry (u : BUnit) (w : Nat) : SbEntry := { id := 0, pc := 5, word := w, ctx := {}, unit := u }
def Wit.stepOf : Pkt := { type := 7, vc := 3, dstNode := 31, dstBoard := 191, payload := List.replicate 32 0 }
def Wit.stepPkt : State := ({ State.reset with fb.net := [Wit.stepOf] }).setJob 0 (some { ring := 0 })
def Wit.at (u : BUnit) (w : Nat) : State := Wit.board { sb := [Wit.entry u w], cur := some {}, halted := false }

/-- A board whose instruction 0 is a TCLR of one slot; one whose TCLR runs past the tally; one that an earlier TCLR blocks. -/
def Wit.alloc (s : State) : State := s.setLive (bkBase (boardKey 31 191) + 0x4000C) (word (2048 * 2 ^ 11))
def Wit.issue : State :=
  Wit.alloc ((Wit.board { cur := some {}, halted := false }).store (bkBase (boardKey 31 191) + 0x20000) [3, 0, 0, 0, 1])
def Wit.bounds : State :=
  (Wit.board { cur := some {}, halted := false }).store (bkBase (boardKey 31 191) + 0x20000) [3, 0, 0xFF, 7, 2]
def Wit.blocked : State :=
  Wit.alloc ((Wit.board { cur := some {}, halted := false, sb := [Wit.entry .tally (3 + 2 ^ 32)] }).store
    (bkBase (boardKey 31 191) + 0x20000) [3, 0, 0, 0, 1])

def Wit.over (u : BUnit) (w : Nat) : State :=
  { (Wit.board { sb := [Wit.entry u w], cur := some {}, halted := false, lastDone := [(0, 0, 0)] }).setReg
      (bkBase (boardKey 31 191) + 0x40014) 1 with now := 10000 }
def Wit.late : State := Wit.over .tally 3
def Wit.waits : State := Wit.over .seq 0x0B
def Wit.img : BoardImg := { lb := 9, prog := [7] }
def Wit.refetch : State :=
  (Wit.board { score := some 3, lb := 9 }).setScore 3 { file := { boards := [Wit.img] } }
def Wit.held : State :=
  let s := (Wit.board { sb := [Wit.entry .seq 0x0C], score := some 63 }).setScore 63
    { file := { man := { succ := [[1]] }, stages := [{ stage := 1, boards := [9] }] } }
  { s with fb.switches := [{ slot := 63, lb := 9, old := 0, new := 0, s := 0, en := 0, acks := 1 }] }
def Wit.failed : State := State.reset.setJob 1 (some { ring := 0, failedAt := true })

def Wit.str : Stroke := { ctx := {}, plane := 0, shape := 0, row0 := 0, rod0 := 0, nrod := 1, w9 := false, tslot := 0, q := 0, es := 0, eref := 0, v := [], parts := [] }
/-- One STROKE of one iteration, one row and one rod. -/
def Wit.strokeWord : Nat := 1 + 1 * 2 ^ 8 + 33 * 2 ^ 16 + 2 ^ 41 + 2 ^ 64
def Wit.strokeEntry (turn : Nat) : SbEntry := { Wit.entry (.frame 33) (Wit.strokeWord + turn * 2 ^ 28) with id := 0 }
def Wit.queued : State := ((Wit.frm { queue := [Wit.str] }).setPstate 2).setDie 31 { on := true }
def Wit.drawOf : Draw := { prio := 2, need := 4, work := .vector 0 }
def Wit.draw : State := (State.reset.setDie 31 { on := true, draws := [Wit.drawOf] }).setRegN (poolReg 31) 1000
def Wit.bigDraw : State :=
  (State.reset.setDie 31 { on := true, draws := [{ Wit.drawOf with need := 3000000 }] }).setRegN (poolReg 31) 4000000
def Wit.balanced : State := (State.reset.setPstate 2).setDie 31 { on := true }

def Wit.strokeNone : State := Wit.board { sb := [Wit.strokeEntry 0], cur := some {}, halted := false }
def Wit.strokeAt : State := Wit.strokeNone.setLive (bkBase (boardKey 31 191) + 0x40108) 1
def Wit.plane : PlaneImg := { lb := 0, frame := 33, plane := 0, fmt := 1, bytes := [] }
def Wit.laneImg (b : Bool) : State :=
  ((State.reset.setScore 3 { st := 2, place := [(0, boardKey 31 191)], file := { planes := [Wit.plane] } }).setFrame
    (frameKey 31 191 33) { placed := some 3, stroke := some { Wit.str with lane := true, started := b } })

def Wit.car : Carry := { job := 0, step := 0, lsrc := 0, skind := false, slot := 0, tags := [128], vals := [7] }
def Wit.carry : State :=
  (Wit.board { sb := [Wit.entry .lane (8 + 2 ^ 32)], score := some 3, sentStep := (1, 1) }).setScore 3
    { file := { stages := [{ stage := 0, boards := [0], carryOut := 1 }] } }
def Wit.vec (w : Nat) : State := Wit.board { sb := [{ Wit.entry .vector w with paid := true }], cur := some {}, halted := false }
def Wit.buf : Buf := { hub := 0, size := 4096 }
/-- A MOVE of eight bytes from the first buffer. -/
def Wit.moveWord : Nat := 0x0A + 2 ^ 46
def Wit.move (w : Nat) : State :=
  (Wit.board { sb := [Wit.entry .lane w], score := some 3 }).setScore 3 { file := { man := { bufs := [Wit.buf] } }, bufAt := [(0x1000, 0)] }
def Wit.moveTop : State :=
  (Wit.board { sb := [Wit.entry .lane Wit.moveWord], score := some 3 }).setScore 3
    { file := { man := { bufs := [{ Wit.buf with cached := true }] } }, bufAt := [(0x1000, 0x1800000)] }
/-- Eight bytes that are no T40, at the start of the slate; a VMM that takes B from a buffer; a stream step still to be updated. -/
def Wit.t40Word : Nat := 5 + 2 ^ 8 + 2 ^ 43
def Wit.badT40 : State :=
  ((Wit.at .drain Wit.t40Word).setLive (bkBase (boardKey 31 191) + 0x41000) (word (16 + 8 * 2 ^ 17))).store
    (bkBase (boardKey 31 191)) [0, 0, 0, 0, 0, 1]
def Wit.vmmT40 : Nat := 6 + 2 ^ 8 + 2 ^ 21 + 2 ^ 32
def Wit.vopT40 : Nat := 7 + 2 ^ 8 + 2 ^ 19 + 2 ^ 32
def Wit.vecT40 (w : Nat) : State := (Wit.vec w).store (bkBase (boardKey 31 191)) [0, 0, 0, 0, 0, 1]
def Wit.vmmPool : Nat := 6 + 2 ^ 8 + 2 ^ 30 + 2 ^ 32
def Wit.vecPool (bad : List Nat) : State :=
  let s := (Wit.board { sb := [{ Wit.entry .vector Wit.vmmPool with paid := true }], score := some 3 }).setScore 3
    { file := { man := { bufs := [Wit.buf] } }, bufAt := [(0x1000, 0)] }
  { s with ms.poison := bad }
def Wit.scaledDrain : Nat := Wit.t40Word
def Wit.strWait (u : BUnit) (w : Nat) : State :=
  ((Wit.board { sb := [Wit.entry u w], cur := some {}, strm := [{ n := 0, ctx := 0, job := 7, step := 0, wait := true }] }).setLive
    (strCfg (boardKey 31 191) 0) (word (2 ^ 27))).setLive (bkBase (boardKey 31 191) + 0x41000) 64
/-- A packet with its header check. -/
def Wit.pkt (p : Pkt) : Pkt := { p with hcrc := pktCrc { p with hcrc := 0 } }

/-- A switch record of source 0 with epoch 9 at board 0, one written by a packet of zeros, and a disabled lane. -/
def Wit.record : State := Wit.ready.setRegN (bkBase 0 + 0x46100) (2 ^ 13 + 9 * 2 ^ 16)
def Wit.recsFull : State :=
  (List.range 64).foldl (fun s n => s.setRegN (bkBase 0 + 0x46100 + 16 * n) (n + 1 + 2 ^ 13)) Wit.ready
def Wit.recorded : State :=
  ((((Wit.ready.arrive (Wit.pkt { type := 9 })).setRegN (bkBase 0 + 0x46100) (2 ^ 13)).setRegN (bkBase 0 + 0x46104) 0).setRegN
    (bkBase 0 + 0x46108) 0)
def Wit.noLane : State := Wit.ready.mapSet (mapLane 0 0)

def Wit.linkUp : State := State.reset.setLinkState (endKey (.hub 1 8)) 3
def Wit.linkTrain : State := State.reset.setLinkState (endKey (.hub 1 8)) 1
def Wit.linkGone : State := State.reset.setLink (endKey (.hub 1 8)) { downAt := some 0 }
def Wit.fence : State := { State.reset with fb.fences := [endKey (.hub 1 8)] }
def Wit.copies : State := { State.reset.setLink (portEnd 7 0) { copies := [(0, {})] } with sv.fenced := [true, false] }

def Wit.dieOn : State := State.reset.setDie 31 { on := true }
def Wit.lone : State := { State.reset.setRing 4095 { lone := some 0 } with sv.alive := [true, true] }

def Wit.closed : Prg := { plane := 0, fmt := 1, row := 512, granted := true }
def Wit.poorClosing : State := (Wit.frm { st := .programming, prg := some Wit.closed }).setPstate 2
def Wit.closing : State := Wit.poorClosing.setRegN (poolReg 31) 40000
def Wit.paidClosing : State :=
  (Wit.frm { st := .programming, prg := some { Wit.closed with waits := true, paid := true } }).setPstate 2
def Wit.placed (x : Frame) : State :=
  (Wit.frm { x with placed := some 3 }).setScore 3 { st := 4, resident := true, place := [(0, boardKey 31 191)], file := { planes := [Wit.plane] } }
def Wit.migrate : State := Wit.placed { migrate := true }
def Wit.damaged : State := { Wit.placed { damaged := [1], migrate := true } with sv.alive := [false, false] }
def Wit.noRoom : State :=
  (List.range 4).foldl (fun s n => (s.setReg (bkBase (boardKey 31 191) + 0x46010 + 16 * n) (word (n + 2 ^ 25))).setLive
    (bkBase (boardKey 31 191) + 0x46010 + 16 * n) (word (n + 2 ^ 25))) (Wit.placed { marks := List.range 256, oldMark := 0 })
def Wit.repair : Repair := { frame := frameKey 31 191 33, target := frameKey 31 191 0, todo := [1] }
def Wit.faulty : State := Wit.placed { diagnose := true }

def Wit.boardOn (x : Board) : State := (State.reset.setDie 31 { on := true }).setBoard (boardKey 31 191) x
def Wit.loaded : State :=
  ((Wit.boardOn { score := some 63, up := true }).setPstate 2).setScore 63
    { st := 4, resident := true, place := [(0, boardKey 31 191)], file := { boards := [{ lb := 0, prog := [1 + 2 ^ 8 + 2 ^ 41 + 2 ^ 64] }] } }
def Wit.move31 : Repair := { frame := boardKey 31 191, target := boardKey 31 190, isBoard := true, todo := [] }
def Wit.prepared : State := { Wit.loaded with sv.repairs := [Wit.move31] }
def Wit.sw : Switch := { slot := 63, lb := 0, old := boardKey 31 191, new := boardKey 31 190, s := 0, en := 1 }
def Wit.failedBoard : State :=
  (Wit.boardOn { score := some 3, failed := true, lb := 0 }).setScore 3 { st := 4, resident := true, place := [(0, boardKey 31 191)] }
def Wit.failedGone : State := Wit.failedBoard.setScore 3 { Wit.failedBoard.score 3 with resident := false }
def Wit.nextBoard (s u : State) : State :=
  { u with fb.switches := u.fb.switches.filter fun v => !(v.slot == 3 && v.lb == (s.board (boardKey 31 191)).lb && !v.copied) }
def Wit.failedOnce : State := (Wit.failedBoard.failBoard (boardKey 31 191)).failScore 3 0x0507 false
def Wit.goneOnce : State := (Wit.failedGone.failBoard (boardKey 31 191)).failScore 3 0x0507 false
def Wit.goneNext : State := Wit.nextBoard Wit.failedGone Wit.goneOnce
def Wit.failedNext : State := Wit.nextBoard Wit.failedBoard Wit.failedOnce
def Wit.reserve : Nat := (Wit.failedNext.reserveBoard (boardKey 31 191)).getD 0
/-- Every frame of the failed board holds a plane, and every other board of its die is disabled. -/
def Wit.lastBoard : State :=
  let s := Wit.failedBoard
  (List.range 191).foldl (fun s b => s.mapSet (mapBoard (boardKey 31 b))) s
def Wit.lastOnce : State := (Wit.lastBoard.failBoard (boardKey 31 191)).failScore 3 0x0507 false
def Wit.lastNext : State := Wit.nextBoard Wit.lastBoard Wit.lastOnce
def Wit.ninthBoard : State :=
  Wit.failedBoard.setDie 31 { on := true, boardFails := List.replicate 8 0 }
def Wit.ninthOnce : State := (Wit.ninthBoard.failBoard (boardKey 31 191)).failScore 3 0x0507 false

def Wit.object : Handle := { fmt := 0xFF, codeLen := 1024 }
def Wit.obj : State := Wit.user.setHandle 0 (some Wit.object)

/-- The object of handle 0 complete with one byte, and with a region map. -/
def Wit.sparse (bs : List Byte) : SMap Byte := (bs.zipIdx.filter fun p => p.1 != 0).map fun p => (p.2, p.1)
def Wit.whole (bs : List Byte) : State :=
  Wit.user.setHandle 0 (some { fmt := 0xFF, codeLen := bs.length, code := Wit.sparse bs, got := [(0, bs.length)] })
def Wit.done : State := Wit.whole [7]
def Wit.mapHandle : Handle :=
  { fmt := 0xFF, codeLen := 32768, code := [(0, 0x59), (1, 0x4C), (2, 0x44), (3, 0x4D), (4, 1)], got := [(0, 32768)] }
def Wit.mapFile : List Byte := Wit.mapHandle.bytes 0 32768
def Wit.map : State := Wit.user.setHandle 0 (some Wit.mapHandle)
theorem Wit.mapLen : Wit.mapFile.length = 32768 := by simp [Wit.mapFile, Handle.bytes]
theorem Wit.objectOf {s : State} {h : Handle} (a : s.handle 0 = some h) (f : h.full = true) (m : h.fmt = 0xFF) :
    s.object 0 = .ok (h.bytes 0 h.codeLen) := by simp [State.object, a, f, m]
theorem Wit.mapObj : Wit.map.object (argw (Wit.req [0]) 1) = .ok Wit.mapFile :=
  Wit.objectOf (by decide +kernel) (by decide +kernel) rfl

/-- A score of one board that ends at once and no plane, its file's bytes and the module that holds them. -/
def Wit.file : ScoreFile :=
  { man := { lboards := [(0, 0)] }, stages := [{ stage := 0, boards := [0] }], boards := [{ lb := 0, prog := [0x0F] }] }
def Wit.fileBytes : List Byte :=
  let sec := fun (o n : Nat) => leBytes 8 o ++ leBytes 8 n
  let none_ := sec 0 0
  let head := leBytes 4 0x53424C59 ++ leBytes 2 3 ++ leBytes 2 0 ++ leBytes 8 7 ++ leBytes 4 1 ++ leBytes 4 1 ++ leBytes 8 0 ++
    sec 256 64 ++ sec 320 64 ++ sec 384 20 ++ none_ ++ none_ ++ sec 448 64 ++ none_ ++ none_
  head ++ leBytes 64
    11279176153366586760111006073319615911997167796365016199482073025572969475168244919568603377761248146618889083777247514881297311074612560846269872987546251 ++
    List.replicate 96 0 ++ leBytes 64 (2 ^ 16 + 5 * 2 ^ 88) ++ leBytes 64 (1 + 15 * 2 ^ 32) ++ List.replicate 64 0
def Wit.goodFile : State :=
  Wit.user.setHandle 0 (some { fmt := 0xFE, codeLen := 512, code := Wit.sparse Wit.fileBytes, got := [(0, 512)] })
def Wit.image : State :=
  Wit.goodFile.setScore 0 { st := 4, id := 7, digest := slice Wit.fileBytes 160 64, imgLost := [1] }
def Wit.keptFile : State :=
  Wit.goodFile.setScore 5 { st := 3, id := 7, digest := slice Wit.fileBytes 160 64, file := Wit.file, place := [(0, boardKey 1 2)] }
def Wit.isOk (x : Except Nat State) : Bool := match x with | .ok _ => true | .error _ => false
def Wit.val (x : Except Nat State) : State := match x with | .ok t => t | .error _ => {}
theorem Wit.eq_ok {x : Except Nat State} (h : Wit.isOk x = true) : x = .ok (Wit.val x) := by
  cases x with
  | ok t => rfl
  | error e => cases h
def Wit.loadU (s : State) : State := Instr.entered (.scoreLoad (Wit.req [0]) Wit.file true) s
def Wit.newScore : Score :=
  { st := 1, id := leAt Wit.fileBytes 8 8, digest := slice Wit.fileBytes 160 64, flags := leAt Wit.fileBytes 6 2, file := Wit.file, resident := (leAt Wit.fileBytes 6 2).testBit 1, req := some (Wit.req [0]), kept := true, place := if true then ((Wit.loadU Wit.keptFile).score 5).place else [], redir := if true then ((Wit.loadU Wit.keptFile).score 5).redir else [] }
def Wit.claimedKept : State :=
  Wit.val (((Wit.loadU Wit.keptFile).setScore 5 Wit.newScore).claim 5 true)
theorem Wit.digestOk : scoreDigest Wit.fileBytes = slice Wit.fileBytes 160 64 := by decide +kernel
theorem Wit.fileOk (s : State) (h : s.idTaken (leAt Wit.fileBytes 8 8) (slice Wit.fileBytes 160 64) = false := by decide +kernel) :
    s.fileCheck Wit.fileBytes Wit.file true = none := by
  have l : layoutOk Wit.fileBytes Wit.file = true := by decide +kernel
  have o : scoreOk Wit.file = true := by decide +kernel
  have n : Wit.file.planes.zipIdx = [] := by decide
  have m : ¬ Wit.file.planes.length < leAt Wit.fileBytes 24 4 := by decide +kernel
  simp [State.fileCheck, Wit.digestOk, h, l, o, n, m]
theorem Wit.fileBad (s : State) : s.fileCheck Wit.fileBytes {} false = some (0x0601, 0) := by
  simp [State.fileCheck, Wit.digestOk]
theorem Wit.claimKept_eq :
    ((Wit.loadU Wit.keptFile).setScore 5 Wit.newScore).claim 5 true =
      .ok Wit.claimedKept := Wit.eq_ok (by decide +kernel)

def Wit.segment (bs : List Byte) : State :=
  Wit.user.setHandle 0 (some { fmt := 0xFE, codeLen := bs.length, code := Wit.sparse bs, got := [(0, bs.length)] })
def Wit.full : State :=
  { Wit.segment [0] with wk.scores := (List.range 64).map fun n => (n, { st := 4, id := 7 }) }
def Wit.loading : State := Wit.user.setScore 0 { st := 2, req := some (Wit.req [5]) }

def Wit.visit : State :=
  { ((Wit.frm { st := .idle }).setPstate 2).setRegN (poolReg 31) 400000 with now := 100000000000000 }
def Wit.measuring (m : Measure) : State := Wit.visit.setFrame (frameKey 31 191 33) { st := .recount, measure := some m }
def Wit.recounting (row spots : Nat) : State :=
  Wit.visit.setFrame (frameKey 31 191 33) { st := .recount, recount := some { plane := 7, row := row, spots := spots, paid := true } }
def Wit.renewal : Recount := { plane := 7, row := 512, paid := true, refs := 1 }
/-- A visit that ends with a refresh in place, and n tokens in its die's pool. -/
def Wit.renewing (n : Nat) : State :=
  (Wit.visit.setFrame (frameKey 31 191 33) { st := .recount, recount := some Wit.renewal }).setRegN (poolReg 31) n
def Wit.paidVisit (row : Nat) : State :=
  (Wit.recounting row 0).setFrame (frameKey 31 191 33) { st := .recount, recount := some { plane := 7, row := row } }
def Wit.waitingVisit : State :=
  (Wit.visit.setFrame (frameKey 31 191 33) { st := .recount, recount := some { plane := 7 } }).setDie 31
    { (Wit.visit.die 31) with draws := [{ prio := 4, need := 9, at_ := 0, work := .recount (frameKey 31 191 33) }] }
def Wit.spotting : State :=
  (((Wit.placed { st := .recount, recount := some { plane := 0, row := 512, paid := true } }).setPstate 2).setRegN (poolReg 31) 400000)
def Wit.calibrated : State :=
  { (List.range 32).foldl (fun s u => s.setThunit u { s.thunit u with band := some 0 }) Wit.user with now := 600000000000 }

def Wit.follows : State := { Wit.ready.setRkSrc 3 with ck.on := true }

/-- The unit of the last die running, its last converter as given. -/
def Wit.metOn : State := Wit.ready.setMet 31 { on := true }
def Wit.conv (c : Conv) : State := Wit.metOn.setConv 31 3 c
def Wit.trigEntry : State := Wit.conv { ph := .delay 0, pass := word (2 ^ 6 + 2 ^ 27) }
def Wit.trigNow : State := Wit.metOn.setRegN (metBase 31 + 0x6C) 1
def Wit.armable : State := (Wit.trigEntry.setRegN (metBase 31 + 0x6C) 1).setRegN (metBase 31 + 0x60) 4001
def Wit.urgentDone : State := { Wit.conv { ph := .stopped, urg := some (0, 0, 0, 0) } with ck.rk := 10000000 }
def Wit.urgentFirst : State := { Wit.conv { ph := .converting 7, urg := some (0, 0, 0, 0) } with ck.rk := 10000000 }
def Wit.rep (w : Nat) : State := { Wit.conv { ph := .converting 0, pass := word w } with ck.rk := 10000000 }
def Wit.convStop : State := { Wit.conv { ph := .converting 0, stopping := true } with ck.rk := 10000000 }

/-- A running job of tag 9 on ring 0; an idle page map; a checkpoint of an empty ring. -/
def Wit.runs : State := (Wit.ringed.setRing 0 { jobs := [1] }).setJob 1 (some { ring := 0, st := .running, tag := 9 })
def Wit.ckBytes : List Byte :=
  leBytes 148
    167861184625185595573276798903740536967558757385620856646387911469452755567420571799612564215250864401281684964549529392048689312392277658520618113396939601037028453040528390961296231048323737679790209780296037693342711670046327226910039071711663953153129031983023615625677497398441174638390509522470041096796372606169964528525644102981327180285398392982617
def Wit.restore : State :=
  Wit.pausedRing.setHandle 0 (some { fmt := 0xFF, codeLen := 148, code := Wit.sparse Wit.ckBytes, got := [(0, 148)] })
def Wit.mapped : State := { Wit.user with wk.maps := [(7, some { ring := 0 })] }

def Wit.page : State := Wit.whole (List.replicate 256 3)
def Wit.locked (n : Nat) : State := { Wit.user with lg.passw := [(15, [1])], lg.passFail := mput 0 [] 7 n }

def Wit.paged : State := { Wit.user.commitPage 1023 [5] with lg.ready := true, lg.pages := [] }

def Wit.sigHandle : Handle := { fmt := 0xFF, codeLen := 4627, got := [(0, 4627)] }
def Wit.challenged : State :=
  (Wit.user.setHandle 0 (some Wit.sigHandle)).setSess 1 { opened := true, role := 1, chal := some (2, 0, 0) }
theorem Wit.sigObject : Wit.challenged.object (argw (Wit.req [2, 0]) 2) = .ok (Wit.sigHandle.bytes 0 4627) :=
  Wit.objectOf (by decide +kernel) (by decide +kernel) rfl
theorem Wit.sigLen : (Wit.sigHandle.bytes 0 4627).length = 4627 := by simp [Handle.bytes]
def Wit.ikeyHandle : Handle := { fmt := 0xFF, codeLen := 7219, got := [(0, 7219)] }
def Wit.ikey : State := Wit.user.setHandle 0 (some Wit.ikeyHandle)
theorem Wit.ikeyObject : Wit.ikey.object (argw (Wit.req [0]) 1) = .ok (Wit.ikeyHandle.bytes 0 7219) :=
  Wit.objectOf (by decide +kernel) (by decide +kernel) rfl
theorem Wit.ikeyLen : (Wit.ikeyHandle.bytes 0 7219).length = 2592 + 4627 := by simp [Handle.bytes]
def Wit.cakKey : List Byte := 1 :: List.replicate 33 0
def Wit.cakHandle : Handle :=
  { fmt := 0xFF, codeLen := 1584, got := [(0, 1584)],
    code := (leBytes 8 0x204B41432D594C42 ++ leBytes 1 1).zipIdx.map fun p => (1568 + p.2, p.1) }
def Wit.cak : State := Wit.user.setHandle 0 (some Wit.cakHandle)
theorem Wit.cakObject : Wit.cak.object (argw (Wit.req [1, 0]) 2) = .ok (Wit.cakHandle.bytes 0 1584) :=
  Wit.objectOf (by decide +kernel) (by decide +kernel) rfl
/-- A release with an empty body whose key is the fused one and whose predecessor runs. -/
def Wit.fwBytes : List Byte :=
  leBytes 4 0x46574C59 ++ leBytes 8 0 ++ leBytes 4 0 ++ leBytes 2 2 ++ leBytes 2 3 ++ List.replicate 12 0 ++ leBytes 64
    2032185109136100497347277046002761906096929499779616884567684664036691428639899180348028630442493768911811670683214844317028620902108902752392100072103846
def Wit.fw : State :=
  { Wit.segment Wit.fwBytes with sv.fused := [(fwOf Wit.fwBytes).keyDigest], sv.revoked := 0 }
theorem Wit.fwOk {s : State} (c : s.counter 0 = 0) (v : s.sv.revoked = 0) (f : s.sv.fused = [(fwOf Wit.fwBytes).keyDigest]) :
    s.fwCode (fwOf Wit.fwBytes) true = 0 := by
  have a : (fwOf Wit.fwBytes).magicOk = true := by decide +kernel
  have b : (fwOf Wit.fwBytes).bodyOk = true := by decide +kernel
  have l : (fwOf Wit.fwBytes).level = 0 := by decide +kernel
  have m : (s.makerSlot (fwOf Wit.fwBytes)).isNone = false := by
    simp [State.makerSlot, f, v, List.range_succ]
  simp [State.fwCode, a, b, l, c, m]

def Wit.cooled : State :=
  { (State.reset.setPstate 5).setReg (hubBase 0 + 0x70004) 16 with th.coolSince := some 0, th.stops := [], now := 10000000000 }

def Wit.idle : State := { Wit.ready with pw.idleMs := 1, pw.idleS := 1, pw.idleSince := some 0, now := 100000000000 }
def Wit.overdue : State :=
  { Wit.ready with frames := [(5, { headers := List.replicate 8 { fmt := 0 } })], now := 2 ^ 60 }

def Wit.rx (t : Nat) : Rx := { port := 0, bytes := List.replicate 3 0 ++ leBytes 1 t ++ List.replicate 40 0 }
def Wit.msg (n : Nat) : OMsg := { type := 2, seq := 0, payload := [], tries := n, at_ := 0 }
def Wit.unacked (n : Nat) : State :=
  { (Wit.ready.setPort 0 { secured := true }).setSess 31 { opened := true, unacked := [Wit.msg n] } with now := 2 ^ 60 }

def Wit.booted : State := { Wit.ready with pw.booted := [true, true] }

/-- Bring-up at a phase; with every die's counter in step; with every die's gains measured. -/
def Wit.phase (n : Nat) : State := (State.reset.setPstate 1).bootPhase n
def Wit.cold : State :=
  (Wit.phase 1).setSensor (24 * 32) { tj16 := -321 }
def Wit.synced : State := (List.range 32).foldl (fun s d => s.setDie d { on := true, sync := true }) (Wit.phase 5)
def Wit.gained : State := (List.range 32).foldl (fun s d => s.setDie d { on := true, gained := true }) (Wit.phase 7)

def Wit.acceptedJob : Job := { ring := 0, inLen := 1, inH := 0, outH := 2 }
def Wit.descJob : State :=
  ((((Wit.ringed.setScore 0 { st := 4, file := { man := { contexts := 2, inCode := 1 } } }).setRing 0 { jobs := [1] }).setJob 1
    (some Wit.acceptedJob)).setHandle 0 (some { fmt := 9, codeLen := 1, got := [(0, 1)] })).setHandle 2 (some { fmt := 9, codeLen := 0 })
def Wit.badOut : State :=
  { (Wit.ringed.setScore 0 { st := 4, bufAt := [(0, 0)], file := { man := { contexts := 2, outCode := 64, bufs := [{ hub := 0, size := 64 }] } } }).setJob 1
    (some { ring := 0, st := .running, nsteps := 0 }) with ms.poison := [0], wk.handles := [(0, some Wit.object)] }
def Wit.replaying : State :=
  { Wit.ringed.setRing 0 { paused := true, replay := some [0] } with sv.journal.recs := [(0, 1 :: List.replicate 127 0)] }
@[irreducible] def Wit.fullHandles : SMap (Option Handle) := (List.range 4096).map fun k => (k, some Wit.object)
/-- Every handle of hub A taken. -/
def Wit.replayFull : State := { Wit.replaying with wk.handles := Wit.fullHandles }
theorem Wit.mget_full (h : Handle) (l : List Nat) (k : Nat) (hk : k ∈ l) : mget none (l.map fun i => (i, some h)) k = some h := by
  induction l with
  | nil => cases hk
  | cons i l ih =>
    by_cases e : i = k
    · simp [mget, e]
    · simp [mget, e, ih (by simpa [Ne.symm e] using hk)]
theorem Wit.fullHandles_get (k : Nat) (h : k < 4096) : mget none Wit.fullHandles k = some Wit.object :=
  by unfold Wit.fullHandles; exact Wit.mget_full _ _ _ (List.mem_range.2 h)
theorem Wit.replayFull_free : Wit.replayFull.freeHandles (ringHub 0) 2 = none := by
  refine List.find?_eq_none.2 fun k hk => ?_
  obtain ⟨i, hi, rfl⟩ := List.mem_map.1 hk
  have e : ringHub 0 * 4096 + 1 + i = i + 1 := by rw [show ringHub 0 = 0 from rfl]; omega
  have hm : i + 1 < 4096 := by have := List.mem_range.1 hi; omega
  have : Wit.replayFull.handle (i + 1) = some Wit.object := Wit.fullHandles_get _ hm
  rw [e]
  intro h
  have h0 : (Wit.replayFull.handle (i + 1)).isNone = true := List.all_eq_true.1 h 0 (by decide)
  rw [this] at h0
  cases h0

/-- A register packet to hub A. -/
def Wit.regPkt : Pkt := Wit.pkt { type := 10, dstNode := 32, payload := [5] }
def Wit.actUse : State := (State.reset.setBoard (boardKey 31 191) { sb := [{ id := 0, pc := 5, word := 7 + 7 * 2 ^ 21, ctx := {}, unit := .vector }] })

/-! Well-formedness: a term for each check, refused. -/

theorem test_req_wf : WellFormed (.ringStat { src := .session 0 1, tag := 255, nargs := 7, resv := 15, args := List.replicate 7 0 }) = true := by decide
theorem test_req_tag : WellFormed (.ringStat { src := .session 0 1, tag := 256 }) = false := by decide
theorem test_req_nargs : WellFormed (.devInfo { src := .sideband, nargs := 8 }) = false := by decide
theorem test_req_resv : WellFormed (.devInfo { src := .sideband, resv := 16 }) = false := by decide
theorem test_req_args : WellFormed (.secFw { src := .sideband, args := List.replicate 8 0 } false) = false := by decide
theorem test_pkt_wf : WellFormed (.actPacket { nflit := 2, payload := List.replicate 33 0 }) = true := by decide
theorem test_pkt_type : WellFormed (.actPacket { type := 16 }) = false := by decide
theorem test_pkt_vc : WellFormed (.actPacket { vc := 4 }) = false := by decide
theorem test_pkt_nflit : WellFormed (.actPacket { nflit := 128, payload := List.replicate 4096 0 }) = false := by decide +kernel
theorem test_pkt_dstNode : WellFormed (.actPacket { dstNode := 64 }) = false := by decide
theorem test_pkt_dstBoard : WellFormed (.actPacket { dstBoard := 256 }) = false := by decide
theorem test_pkt_srcNode : WellFormed (.actPacket { srcNode := 64 }) = false := by decide
theorem test_pkt_srcBoard : WellFormed (.actPacket { srcBoard := 256 }) = false := by decide
theorem test_pkt_lsrc : WellFormed (.carryPacket { lsrc := 8192 }) = false := by decide
theorem test_pkt_epoch : WellFormed (.carryPacket { epoch := 65536 }) = false := by decide
theorem test_pkt_q : WellFormed (.sfwdPacket { q := 2 ^ 48 }) = false := by decide
theorem test_pkt_job : WellFormed (.sfwdPacket { job := 2 ^ 32 }) = false := by decide
theorem test_pkt_step : WellFormed (.sfwdPacket { step := 2 ^ 32 }) = false := by decide
theorem test_pkt_ordinal : WellFormed (.memRspPacket { ordinal := 4096 }) = false := by decide
theorem test_pkt_addr : WellFormed (.memRspPacket { addr := 2 ^ 19 }) = false := by decide
theorem test_pkt_hcrc : WellFormed (.ackPacket { hcrc := 2 ^ 32 }) = false := by decide
theorem test_pkt_payload : WellFormed (.ackPacket { nflit := 1, payload := List.replicate 33 0 }) = false := by decide
theorem test_ctx_job : WellFormed (.stepStart 0 0 { job := 2 ^ 32 }) = false := by decide
theorem test_ctx_step : WellFormed (.stepStart 0 0 { step := 2 ^ 32 }) = false := by decide
theorem test_ctx_seed : WellFormed (.stepStart 0 0 { seed := 2 ^ 64 }) = false := by decide
theorem test_ctx_launch : WellFormed (.stepStart 0 0 { launch := 2 ^ 64 }) = false := by decide
theorem test_ctx_valid : WellFormed (.stepStart 0 0 { valid := [0, 0, 0, 0, 0] }) = false := by decide
theorem test_ctx_valid_width : WellFormed (.stepStart 0 0 { valid := [8192] }) = false := by decide
theorem test_ctx_epoch : WellFormed (.stepStart 0 0 { epoch := 65536 }) = false := by decide
theorem test_ctx_ctx : WellFormed (.stepStart 0 0 { ctx := 64 }) = false := by decide
theorem test_ctx_capture : WellFormed (.stepStart 0 0 { capture := 3 }) = false := by decide
theorem test_addr_wide : WellFormed (.registerWrite { addr := 2 ^ 48 } 0) = false := by decide
theorem test_addr_aligned : WellFormed (.counterReadClear 2) = false := by decide
theorem test_read_end : WellFormed (.memRdPacket {} (2 ^ 48) 1) = false := by decide
theorem test_write_end : WellFormed (.memWrPacket {} (2 ^ 48)) = false := by decide
theorem test_board_wide : WellFormed (.historyCopy 0 6144) = false := by decide
theorem test_block_wide : WellFormed (.dramPatrolScrub 0 260046848 .clean) = false := by decide
theorem test_job_wide : WellFormed (.jobLaunch (2 ^ 32)) = false := by decide
theorem test_count_wide : WellFormed (.reckoningSet (2 ^ 64)) = false := by decide
theorem test_smbus_short : WellFormed (.smbusBlockWrite 0 0 [0, 0, 0]) = false := by decide
theorem test_smbus_long : WellFormed (.smbusBlockWrite 0 0 (List.replicate 33 0)) = false := by decide

/-! The examples of the specification. -/

/-- rne's examples (R153). -/
theorem test_rne : rneDiv 5 2 = 2 ∧ rneDiv 7 2 = 4 ∧ rneDiv (-5) 2 = -2 ∧ rneDiv (-1) 2 = 0 ∧ rneShift 18789 1 = 9394 := by decide

/-- Narrowing conversions at their limits: the example of chapter 5. -/
theorem test_narrow_e4m3 : convert .e4m3 false (FV.ofInt 460) = (0x7E, {}) ∧ convert .e4m3 false (FV.ofInt 464) = (0x7E, {}) ∧
    convert .e4m3 false (FV.ofInt 470) = (0x7E, ⟨1, 0⟩) ∧ convert .e4m3 false (.fin true 3 (-10)) = (0x82, {}) := by decide +kernel
theorem test_narrow_e5m2 : convert .e5m2 false (FV.ofInt 60000) = (0x7B, {}) ∧
    convert .e5m2 false (FV.ofInt 62000) = (0x7B, ⟨1, 0⟩) ∧ convert .e5m2 true (FV.ofInt 62000) = (0x7C, ⟨1, 0⟩) ∧
    convert .e5m2 false (.fin false 1 (-18)) = (0, ⟨0, 1⟩) := by decide +kernel
theorem test_narrow_int : convert .int8 false (.divN (FV.ofInt 3007) 10) = (127, ⟨1, 0⟩) ∧
    convert .a8u false ((FV.divN (FV.ofInt 4) 10).neg) = (0, ⟨0, 1⟩) := by decide +kernel

/-- The S4G64 group of chapter 5: exponent byte 0x3D, code bytes 0xC7, 0xE2. -/
theorem test_s4g64 : let r := encodeGroup .s4g64 [(FV.ofInt 83).divN 100, .fin true 1 (-1), .fin false 3 (-4), .fin true 5 (-4), .fin false 1 (-4)]
    expByte r.1 = 0x3D ∧ (packCodes .s4g64 r.2.1).take 2 = [0xC7, 0xE2] ∧ r.2.2 = ⟨0, 1⟩ := by decide +kernel

/-- The group exponents of chapter 6: levels 2,000, 720, 100 and 2. -/
theorem test_levels : level false false 0 250 = 2000 ∧ level false false 1 180 = 720 ∧ level false false 4 200 = 100 ∧
    level false false 7 40 = 2 := by decide

/-- The drive path on the groups of chapter 6 gives Ês = -2 and Eref = -1. -/
theorem test_drive : let x : DriveIn := ⟨0, 512, 512, 0, 0, 128, false, false, 0, 5, [0x3E, 0x3D, 0x3A, 0x37, 0x3F],
      List.replicate 128 250 ++ List.replicate 128 180 ++ List.replicate 128 200 ++ List.replicate 128 40⟩
    (driveOf x).es = some (-2) ∧ (driveOf x).eref = some (-1) ∧
      [(driveOf x).v.getD 0 0, (driveOf x).v.getD 128 0, (driveOf x).v.getD 256 0, (driveOf x).v.getD 511 0] = [2000, 720, 100, 2] := by
  decide +kernel

/-- The headroom split of chapter 2: two halves, the first exactly at the limit; 2 × 111 tokens instead of 170. -/
theorem test_headroom : let l := List.replicate 256 ((2000 : Int), 15) ++ List.replicate 256 ((1440 : Int), 14)
    hrBound l = 12840960 ∧ hrParts 1 7680000 512 l = ([(0, 256), (256, 256)], true) ∧
      strokeCharge 1 256 256 = 111 ∧ strokeCharge 1 512 256 = 170 := by decide +kernel

/-- The raw code 12,345 of chapter 4 is trimmed to 12,022. -/
theorem test_trim : ((State.reset.setReg (trimReg 0 0 100) (put (put 0 0 16 600) 16 16 1835)).setReg (gainReg 0 0 3)
    (put 0 0 18 (pattern 18 (-31462)))).trim 0 0 3 100 12345 = 12022 := by decide +kernel

/-- The W9 weight 100 of chapter 3, with column 80 stuck at level 0: digits 7 and -12, and with P = 11 7 and -11. -/
theorem test_w9_split : w9Digits 100 (deckDigits none none 12) (deckDigits (some 0) none 12) 12 = (7, -12) ∧
    w9Digits 100 (deckDigits none none 11) (deckDigits (some 0) none 11) 11 = (7, -11) := by decide +kernel

/-- The running maximum of chapter 6: the fits of 9.3, 2.0 and 6.1, and the exponent of steps 1, 2 and 8. -/
theorem test_fits : fitExp 127 ((FV.ofInt 93).divN 10) = -3 ∧ fitExp 127 (FV.ofInt 2) = -5 ∧
    fitExp 127 ((FV.ofInt 61).divN 10) = -4 := by decide +kernel
theorem test_chosen : chooseExp .a8s 4 1 ([0x80, 0x80, 0x80, 0x80] ++ List.replicate 12 0x80 ++ [0x3C]) = -4 ∧
    chooseExp .a8s 4 1 ([0x3D, 0x80, 0x80, 0x80] ++ List.replicate 12 0x80 ++ [0x3C]) = -2 ∧
    chooseExp .a8s 4 1 ([0x3A, 0x3B, 0x3A, 0x80] ++ List.replicate 12 0x80 ++ [0x3C]) = -4 := by decide +kernel

/-- The W9 output of chapter 7: 512 and 751 aligned, 12,528 combined; the drain's stages to -74. -/
theorem test_w9_output : (deckOuts true 40 2 fun r => rneShift (if r = 40 then 2050 else 3003) 2) = [12528] ∧
    (deckOuts true 40 2 fun r => if r = 40 then 5123 else -1207) = [-14189] := by decide +kernel
theorem test_drain_stages :
    let v := rneFP32 ((FV.ofInt (-1661)).scale (-8))
    let m := (v.mul (fpDecode .bf16 0x4048))
    let r := (m.add (fpDecode .bf16 0x3F00)).add (fpDecode .bf16 0x3FA0)
    (r.scale 2).rneInt = -74 ∧ fitExp 127 r.abs = -2 := by decide +kernel

/-- Usable address 0x10_0001_2345 of chapter 10 lies in channel 9 of hub B. -/
theorem test_channel : chanOf 0x1000012345 = 16 + 9 := by decide

/-! Steps. -/

/-- The idle block counts time and does nothing else. -/
theorem test_idle : (match step State.reset with | .next t => t.now | _ => 0) = State.reset.now + 1 := by decide +kernel

/-- No word spells a command. -/
theorem test_no_word : decodeTableWord 16 0x1234 = none ∧ State.reset.withFetchWord 16 0x1234 = State.reset := ⟨rfl, rfl⟩

/-- A commit of FRM_HR.margin 127 faults the frame with CONFIG, and one of 128 does not (R54, R72). -/
theorem test_margin_127 : (match exec (.frmCommit 0 0 0) (State.reset.setReg (fkBase 0 + 0x28) 127) with
    | .next t => (t.frame 0).faultCode | _ => 99) = 1 := by decide +kernel
theorem test_margin_128 : (match exec (.frmCommit 0 0 0) (State.reset.setReg (fkBase 0 + 0x28) 128) with
    | .next t => (t.frame 0).faultCode | _ => 99) = 0 := by decide +kernel

/-- The ninth word of a message is refused and counted (R352). -/
theorem test_ninth_word : (match exec (.mbxTxdWrite 0 1 0 .sideband 9) Wit.mbxFull with
    | .next t => ((t.mbxEnd (mbKey 0 1 0)).ovf, (t.mbxEnd (mbKey 0 1 0)).send.length, t.reg (mbBase 0 1 0 + 0x28)) | _ => (false, 0, 0)) =
    (true, 8, 1) := by decide +kernel

/-! Witnesses. -/

theorem wit_Mailbox_words_0 : ∃ (s : State) (h : Hub) (n : Fin 8) (e : Fin 2) (p : Party), (mbOwn n e p = true) ∧ (s.mbMay h n e p = true) ∧ ((s.mbxEnd (mbKey h n e)).busy = false) ∧ ((s.mbxEnd (mbKey h n e)).send.length < 8) :=
  ⟨State.reset, 0, 1, 0, .sideband, by decide⟩
theorem wit_Mailbox_words_1 : ∃ (s : State) (h : Hub) (n : Fin 8) (e : Fin 2) (p : Party), (mbOwn n e p = true) ∧ (s.mbMay h n e p = true) ∧ ((s.mbxEnd (mbKey h n e)).busy = false) ∧ (8 ≤ (s.mbxEnd (mbKey h n e)).send.length) :=
  ⟨Wit.mbxFull, 0, 1, 0, .sideband, by decide⟩
theorem wit_Mailbox_words_2 : ∃ (s : State) (h : Hub) (n : Fin 8) (e : Fin 2) (p : Party), (mbOwn n e p = true) ∧ (s.mbMay h n e p = false) :=
  ⟨State.reset, 0, 5, 1, .debug, by decide⟩
theorem wit_Mailbox_words_3 : ∃ (n : Fin 8) (e : Fin 2) (p : Party), (mbOwn n e p = false) :=
  ⟨1, 0, .debug, by decide⟩
theorem wit_Mailbox_words_4 : ∃ (n : Fin 8) (e : Fin 2) (p : Party), (mbOwn n e p = false) :=
  ⟨1, 0, .debug, by decide⟩
theorem wit_Mailbox_words_5 : ∃ (n : Fin 8) (e : Fin 2) (p : Party), (mbOwn n e p = false) :=
  ⟨1, 0, .debug, by decide⟩
theorem wit_Mailbox_words_6 : ∃ (s : State) (h : Hub) (n : Fin 8) (e : Fin 2) (p : Party), (mbOwn n e p = true) ∧ (s.mbMay h n e p = true) ∧ ((s.mbxEnd (mbKey h n e)).busy = true) :=
  ⟨Wit.mbxBusy, 0, 1, 0, .sideband, by decide⟩
theorem wit_Mailbox_words_7 : ∃ (s : State) (h : Hub) (n : Fin 8) (e : Fin 2) (p : Party), (mbOwn n e p = true) ∧ (s.mbMay h n e p = true) ∧ ((s.mbxEnd (mbKey h n e)).busy = false) ∧ ((s.mbxEnd (mbKey h n e)).ovf = false) ∧ ((s.mbxEnd (mbKey h n e)).send ≠ []) ∧ (s.domain h n (1 - e.val) = .up) :=
  ⟨Wit.mbxSend, 0, 3, 0, .control, by decide⟩
theorem wit_Mailbox_words_8 : ∃ (s : State) (h : Hub) (n : Fin 8) (e : Fin 2) (p : Party), (mbOwn n e p = true) ∧ (s.mbMay h n e p = true) ∧ ((s.mbxEnd (mbKey h n e)).busy = false) ∧ ((s.mbxEnd (mbKey h n e)).ovf = false) ∧ ((s.mbxEnd (mbKey h n e)).send ≠ []) ∧ (s.domain h n (1 - e.val) = .down) :=
  ⟨Wit.mbxDown, 0, 2, 0, .control, by decide⟩
theorem wit_Mailbox_words_9 : ∃ (s : State) (h : Hub) (n : Fin 8) (e : Fin 2) (p : Party), (mbOwn n e p = true) ∧ (s.mbMay h n e p = true) ∧ ((s.mbxEnd (mbKey h n e)).busy = false) ∧ ((s.mbxEnd (mbKey h n e)).ovf = false) ∧ ((s.mbxEnd (mbKey h n e)).send ≠ []) ∧ (s.domain h n (1 - e.val) = .unpowered) :=
  ⟨Wit.mbxUnpowered, 0, 1, 0, .sideband, by decide⟩
theorem wit_Mailbox_words_10 : ∃ (s : State) (h : Hub) (n : Fin 8) (e : Fin 2) (p : Party), (mbOwn n e p = true) ∧ (s.mbMay h n e p = true) ∧ ((s.mbxEnd (mbKey h n e)).busy = false) ∧ ((s.mbxEnd (mbKey h n e)).ovf = true) :=
  ⟨Wit.mbxOvf, 0, 1, 0, .sideband, by decide⟩
theorem wit_Mailbox_words_11 : ∃ (s : State) (h : Hub) (n : Fin 8) (e : Fin 2) (p : Party), (mbOwn n e p = true) ∧ (s.mbMay h n e p = true) ∧ ((s.mbxEnd (mbKey h n e)).busy = false) :=
  ⟨State.reset, 0, 1, 0, .sideband, by decide⟩
theorem wit_Mailbox_receive_0 : ∃ (s : State) (h : Hub) (n : Fin 8) (e : Fin 2) (w : Word) (ws : List Word), ((s.mbxEnd (mbKey h n e)).recv = some (w :: ws)) :=
  ⟨Wit.mbxRecv, 0, 1, 0, 7, [8], by decide⟩
theorem wit_Mailbox_receive_1 : ∃ (s : State) (h : Hub) (n : Fin 8) (e : Fin 2), ((s.mbxEnd (mbKey h n e)).recv = none ∨ (s.mbxEnd (mbKey h n e)).recv = some []) :=
  ⟨State.reset, 0, 1, 0, by decide⟩
theorem wit_Mailbox_receive_2 : ∃ (s : State) (h : Hub) (n : Fin 8) (e : Fin 2), ((s.mbxEnd (mbKey h n e)).recv.isSome = true) :=
  ⟨Wit.mbxRecv, 0, 1, 0, by decide⟩
theorem wit_Mailbox_receive_4 : ∃ (s : State) (h : Hub) (n : Fin 8) (e : Fin 2) (p : Party), (mbOwn n e p = true) ∧ ((s.mbxEnd (mbKey h n e)).owner = 0 ∨ (s.mbxEnd (mbKey h n e)).owner = p.num) :=
  ⟨State.reset, 0, 1, 0, .sideband, by decide⟩
theorem wit_Mailbox_receive_5 : ∃ (n : Fin 8) (e : Fin 2) (p : Party), (mbOwn n e p = false) :=
  ⟨1, 0, .debug, by decide⟩
theorem wit_Mailbox_receive_6 : ∃ (s : State) (h : Hub) (n : Fin 8) (e : Fin 2) (p : Party), (mbOwn n e p = true) ∧ ((s.mbxEnd (mbKey h n e)).owner ≠ 0) ∧ ((s.mbxEnd (mbKey h n e)).owner ≠ p.num) :=
  ⟨Wit.mbxLocked, 0, 5, 1, .debug, by decide⟩
theorem wit_Mailbox_receive_7 : ∃ (s : State) (h : Hub) (n : Fin 8) (e : Fin 2) (p : Party), (mbOwn n e p = true) ∧ ((s.mbxEnd (mbKey h n e)).owner = p.num) :=
  ⟨Wit.mbxLocked, 0, 5, 1, .management, by decide⟩
theorem wit_Mailbox_receive_8 : ∃ (s : State) (h : Hub) (n : Fin 8) (e : Fin 2) (p : Party), (mbOwn n e p = false ∨ (s.mbxEnd (mbKey h n e)).owner ≠ p.num) :=
  ⟨State.reset, 0, 1, 0, .sideband, by decide⟩
theorem wit_Mailbox_receive_10 : ∃ (s : State) (h : Hub) (n : Fin 8) (e : Fin 2), ((s.mbxEnd (mbKey h n e)).waking = true) ∧ (s.domain h n (1 - e.val) = .up) :=
  ⟨Wit.mbxWaking, 0, 2, 0, by decide⟩
theorem wit_Mailbox_receive_11 : ∃ (s : State) (h : Hub) (e : Fin 2), ((s.mbxEnd (mbKey h 4 e)).busy = true) ∧ ((s.mbxEnd (mbKey h 4 e)).sentAt + 1000000 ≤ s.now) :=
  ⟨Wit.mb4, 0, 0, by decide⟩
theorem wit_Frame_commit_and_faults_0 : ∃ (s : State) (d : Die) (b : Brd) (f : Frm), (s.strokeInHand (frameKey d b f) = true) :=
  ⟨Wit.frm { st := .stroking }, 31, 191, 33, by decide⟩
theorem wit_Frame_commit_and_faults_1 : ∃ (s : State) (d : Die) (b : Brd) (f : Frm), (s.strokeInHand (frameKey d b f) = false) :=
  ⟨State.reset, 0, 0, 0, by decide⟩
theorem wit_Frame_commit_and_faults_2 : ∃ (s : State) (d : Die) (b : Brd) (f : Frm), (s.strokeInHand (frameKey d b f) = false) :=
  ⟨State.reset, 0, 0, 0, by decide⟩
theorem wit_Frame_commit_and_faults_3 : ∃ (s : State) (d : Die) (b : Brd) (f : Frm), (s.strokeInHand (frameKey d b f) = true) :=
  ⟨Wit.frm { st := .stroking }, 31, 191, 33, by decide⟩
theorem wit_Frame_commit_and_faults_4 : ∃ (s : State) (d : Die) (b : Brd) (f : Frm) (ws : List Word), (s.strokeInHand (frameKey d b f) = false) ∧ ((s.frame (frameKey d b f)).snap = some ws) ∧ (snapBad ws = false) :=
  ⟨Wit.frm { snap := some Wit.snap }, 31, 191, 33, Wit.snap, by decide⟩
theorem wit_Frame_commit_and_faults_6 : ∃ (s : State) (d : Die) (b : Brd) (f : Frm), (s.bankHeld (boardKey d b) (fld (s.reg (fkBase (frameKey d b f) + 0xC60)) 0 1) = true) :=
  ⟨Wit.bankHeld, 0, 0, 0, by decide⟩
theorem wit_Frame_commit_and_faults_7 : ∃ (s : State) (d : Die) (b : Brd) (f : Frm) (k : Fin 280), (s.bankHeld (boardKey d b) (fld (s.reg (fkBase (frameKey d b f) + 0xC60)) 0 1) = false) ∧ (k.val < 272) :=
  ⟨State.reset, 0, 0, 0, 271, by decide⟩
theorem wit_Frame_commit_and_faults_8 : ∃ (s : State) (d : Die) (b : Brd) (f : Frm) (k : Fin 280), (s.bankHeld (boardKey d b) (fld (s.reg (fkBase (frameKey d b f) + 0xC60)) 0 1) = false) ∧ (272 ≤ k.val) :=
  ⟨State.reset, 0, 0, 0, 272, by decide⟩
theorem wit_Frame_state_changes_0 : ∃ (s : State) (d : Die) (b : Brd) (f : Frm), ((s.frame (frameKey d b f)).st = .repair) :=
  ⟨Wit.frm { st := .repair }, 31, 191, 33, by decide⟩
theorem wit_Frame_state_changes_1 : ∃ (s : State) (d : Die) (b : Brd) (f : Frm), ((s.frame (frameKey d b f)).st ≠ .repair) :=
  ⟨State.reset, 0, 0, 0, by decide⟩
theorem wit_Frame_state_changes_2 : ∃ (s : State) (d : Die) (b : Brd) (f : Frm), ((s.frame (frameKey d b f)).st = .repair) :=
  ⟨Wit.frm { st := .repair }, 31, 191, 33, by decide⟩
theorem wit_Frame_state_changes_3 : ∃ (s : State) (d : Die) (b : Brd) (f : Frm), ((s.frame (frameKey d b f)).st ≠ .repair) :=
  ⟨State.reset, 0, 0, 0, by decide⟩
theorem wit_Frame_state_changes_4 : ∃ (s : State) (d : Die) (b : Brd) (f : Frm), ((s.frame (frameKey d b f)).st = .idle ∨ (s.frame (frameKey d b f)).st = .recount ∨ (s.frame (frameKey d b f)).st = .spare) :=
  ⟨State.reset, 0, 0, 0, by decide⟩
theorem wit_Frame_state_changes_5 : ∃ (s : State) (d : Die) (b : Brd) (f : Frm), ((s.frame (frameKey d b f)).st = .stroking) :=
  ⟨Wit.frm { st := .stroking }, 31, 191, 33, by decide⟩
theorem wit_Frame_state_changes_6 : ∃ (s : State) (d : Die) (b : Brd) (f : Frm), ((s.frame (frameKey d b f)).st = .programming) :=
  ⟨Wit.frm { st := .programming }, 31, 191, 33, by decide⟩
theorem wit_Frame_state_changes_7 : ∃ (s : State) (d : Die) (b : Brd) (f : Frm), ((s.frame (frameKey d b f)).st = .repair ∨ (s.frame (frameKey d b f)).st = .retired) :=
  ⟨Wit.frm { st := .retired }, 31, 191, 33, by decide⟩
theorem wit_Frame_state_changes_8 : ∃ (s : State) (d : Die) (b : Brd) (f : Frm), ((s.frame (frameKey d b f)).st = .retired) :=
  ⟨Wit.frm { st := .retired }, 31, 191, 33, by decide⟩
theorem wit_Frame_state_changes_9 : ∃ (s : State) (d : Die) (b : Brd) (f : Frm), ((s.frame (frameKey d b f)).st ≠ .retired) ∧ ((s.frame (frameKey d b f)).prg = none) :=
  ⟨State.reset, 0, 0, 0, by decide⟩
theorem wit_Programming_start_feed_abort_0 : ∃ (s : State) (d : Die) (b : Brd) (f : Frm) (p : Prg), ((s.frame (frameKey d b f)).prg = some p) :=
  ⟨Wit.frm { prg := some Wit.prg }, 31, 191, 33, Wit.prg, by decide⟩
theorem wit_Programming_start_feed_abort_1 : ∃ (s : State) (d : Die) (b : Brd) (f : Frm), ((s.frame (frameKey d b f)).prg.isSome = true) :=
  ⟨Wit.frm { prg := some Wit.prg }, 31, 191, 33, by decide⟩
theorem wit_Programming_start_feed_abort_2 : ∃ (s : State) (d : Die) (b : Brd) (f : Frm), ((s.frame (frameKey d b f)).prg = none) ∧ (s.pstate = 2) ∧ (s.pw.entering = none) ∧ ((s.frame (frameKey d b f)).st = .idle ∨ (s.frame (frameKey d b f)).st = .spare) ∧ (s.inService (frameKey d b f) = false) ∧ (fld (s.reg (fkBase (frameKey d b f) + 0x104)) 3 2 ≠ 3) ∧ (fld (s.reg (fkBase (frameKey d b f) + 0x10C)) 0 8 ≠ 0) ∧ (fld (s.reg (fkBase (frameKey d b f) + 0x10C)) 8 8 ≠ 0) ∧ (fld (s.reg (fkBase (frameKey d b f) + 0x10C)) 16 8 ≠ 0) ∧ ((s.header (frameKey d b f) (fld (s.reg (fkBase (frameKey d b f) + 0x104)) 0 3)).cycles < 10000) :=
  ⟨State.reset.setPstate 2, 0, 0, 33, by decide +kernel⟩
theorem wit_Programming_start_feed_abort_3 : ∃ (s : State) (d : Die) (b : Brd) (f : Frm), ((s.frame (frameKey d b f)).prg = none) ∧ (s.pstate ≠ 2) :=
  ⟨State.reset, 0, 0, 33, by decide⟩
theorem wit_Programming_start_feed_abort_4 : ∃ (s : State) (d : Die) (b : Brd) (f : Frm) (p : Prg), (s.pstate = 2) ∧ ((s.frame (frameKey d b f)).prg = some p) ∧ (p.granted = false) ∧ (s.grantsOn d = 0) ∧ (((s.engines.filter fun e => keyDie (fkBoard e.1) == d.val).any fun e => !e.2.granted && (p.load && !e.2.load || (p.load == e.2.load && decide (e.2.at_ < p.at_)))) = false) :=
  ⟨(Wit.frm { prg := some Wit.prg }).setPstate 2, 31, 191, 33, Wit.prg, by decide +kernel⟩
theorem wit_Programming_start_feed_abort_5 : ∃ (s : State) (d : Die) (b : Brd) (f : Frm) (p : Prg), (s.pstate = 2) ∧ ((s.frame (frameKey d b f)).prg = some p) ∧ (p.granted = false) ∧ (s.grantsOn d ≠ 0) ∧ (s.grantsOn d < 64) ∧ (s.prgRoom = true) ∧ (((s.engines.filter fun e => decide (s.grantsOn (keyDie (fkBoard e.1)) < 64)).any fun e => !e.2.granted && (p.load && !e.2.load || (p.load == e.2.load && decide (e.2.at_ < p.at_)))) = false) :=
  ⟨((Wit.frm { prg := some Wit.prg }).setFrame (34 * boardKey 31 191) { prg := some { Wit.prg with granted := true } }).setPstate 2, 31, 191, 33, Wit.prg, by decide +kernel⟩
theorem wit_Programming_start_feed_abort_6 : ∃ (s : State) (d : Die) (b : Brd) (f : Frm) (p : Prg), ((s.frame (frameKey d b f)).prg = some p) ∧ (64 ≤ s.grantsOn d) :=
  ⟨Wit.fullDie, 0, 2, 0, Wit.prg, by decide +kernel⟩
theorem wit_Programming_start_feed_abort_7 : ∃ (s : State) (d : Die) (b : Brd) (f : Frm), ((s.frame (frameKey d b f)).prg.isSome = true) ∧ (s.loadingSlot (frameKey d b f) = none) ∧ (s.repairOf (frameKey d b f) = none) :=
  ⟨Wit.frm { prg := some Wit.prg }, 31, 191, 33, by decide⟩
theorem wit_Programming_start_feed_abort_8 : ∃ (s : State) (d : Die), (s.dieBelow d s.t1 = true) :=
  ⟨State.reset, 0, by decide⟩
theorem wit_Programming_start_feed_abort_9 : ∃ (s : State) (d : Die), (s.dieBelow d s.t1 = false) :=
  ⟨Wit.hotDie, 31, by decide⟩
theorem wit_Programming_row_0 : ∃ (s : State) (d : Die) (b : Brd) (f : Frm) (p : Prg) (x : RowSrc), (s.pstate = 2) ∧ ((s.frame (frameKey d b f)).prg = some p) ∧ (p.granted = true) ∧ (p.paused = false) ∧ (p.row < 512) ∧ (p.waits = false) ∧ (p.out = none) ∧ (s.dieBelow d s.t2 = true) ∧ (s.rowSrc (frameKey d b f) p = some x) ∧ (s.drawAhead d p.prio = false) ∧ (p.paid = false) ∧ (3592 ≤ s.openTo d p.prio) :=
  ⟨Wit.tokens, 31, 191, 33, Wit.row, Wit.rowSrc, by decide +kernel⟩
theorem wit_Programming_row_1 : ∃ (s : State) (d : Die) (b : Brd) (f : Frm) (p : Prg), (s.pstate = 2) ∧ ((s.frame (frameKey d b f)).prg = some p) ∧ (p.granted = true) ∧ (p.paused = false) ∧ (p.row < 512) ∧ (p.waits = false) ∧ (p.out = none) ∧ (s.dieBelow d s.t2 = true) ∧ (s.imageOf (frameKey d b f) p.plane = none) ∧ (s.levelSource (frameKey d b f) = none) ∧ ((if p.row % 2 = 0 then p.full0 else p.full1) = true) ∧ (s.drawAhead d p.prio = false) ∧ (p.paid = false) ∧ (3592 ≤ s.openTo d p.prio) :=
  ⟨Wit.tokens, 31, 191, 33, Wit.row, by decide +kernel⟩
theorem wit_Programming_row_2 : ∃ (s : State) (d : Die) (b : Brd) (f : Frm) (p : Prg), (s.pstate = 2) ∧ ((s.frame (frameKey d b f)).prg = some p) ∧ (p.granted = true) ∧ (p.paused = false) ∧ (p.row < 512) ∧ (p.waits = false) ∧ (s.dieBelow d s.t2 = false) :=
  ⟨Wit.tokens.setSensor (24 * 31) { tj16 := 2000 }, 31, 191, 33, Wit.row, by decide +kernel⟩
theorem wit_Sequencer_control_0 : ∃ (s : State) (d : Die) (b : Brd), ((s.board (boardKey d b)).halted = false) :=
  ⟨Wit.board { halted := false }, 31, 191, by decide⟩
theorem wit_Sequencer_control_1 : ∃ (s : State) (d : Die) (b : Brd), ((s.board (boardKey d b)).halted = true) :=
  ⟨State.reset, 31, 191, by decide⟩
theorem wit_Sequencer_control_4 : ∃ (s : State) (d : Die) (b : Brd) (c : StepCtx), ((s.fb.net.find? fun (p : Pkt) => p.type == 7 && pktDst p == (boardKey d b) && p.job == c.job && p.step == c.step) = none) ∧ ((s.board (boardKey d b)).holds c.job c.step = false) ∧ (s.dead c = false) :=
  ⟨State.reset.setJob 0 (some { ring := 0 }), 31, 191, {}, by decide⟩
theorem wit_Sequencer_control_5 : ∃ (s : State) (d : Die) (b : Brd) (c : StepCtx), ((s.fb.net.find? fun (p : Pkt) => p.type == 7 && pktDst p == (boardKey d b) && p.job == c.job && p.step == c.step) = none) ∧ ((s.board (boardKey d b)).holds c.job c.step = true ∨ s.dead c = true) :=
  ⟨Wit.board { steps := [{}] }, 31, 191, {}, by decide⟩
theorem wit_Sequencer_control_6 : ∃ (s : State) (d : Die) (b : Brd) (c : StepCtx) (p : Pkt), ((s.fb.net.find? fun (p : Pkt) => p.type == 7 && pktDst p == (boardKey d b) && p.job == c.job && p.step == c.step) = some p) ∧ (((s.arrive p).board (boardKey d b)).holds (ctxOfPkt p).job (ctxOfPkt p).step = false) ∧ ((s.arrive p).dead (ctxOfPkt p) = false) :=
  ⟨Wit.stepPkt, 31, 191, {}, Wit.stepOf, by decide +kernel⟩
theorem wit_Sequencer_control_7 : ∃ (s : State) (d : Die) (b : Brd) (c : StepCtx) (r : List StepCtx), ((s.board (boardKey d b)).steps = c :: r) ∧ ((s.board (boardKey d b)).halted = false) ∧ ((s.board (boardKey d b)).failed = false) ∧ ((s.board (boardKey d b)).cur = none) ∧ (s.frozen = false) ∧ (s.copyWait (boardKey d b) = false) ∧ (s.pastSwitch (boardKey d b) = false) ∧ (s.dead c = false) :=
  ⟨(Wit.board { steps := [{}], halted := false }).setJob 0 (some { ring := 0 }), 31, 191, {}, [], by decide⟩
theorem wit_Sequencer_control_8 : ∃ (s : State) (d : Die) (b : Brd), ((s.board (boardKey d b)).steps = [] ∨ (s.board (boardKey d b)).halted = true ∨ (s.board (boardKey d b)).failed = true ∨ (s.board (boardKey d b)).cur.isSome = true ∨ s.frozen = true) :=
  ⟨State.reset, 31, 191, by decide⟩
theorem wit_Instruction_issue_0 : ∃ (s : State) (d : Die) (b : Brd) (c : StepCtx), ((s.board (boardKey d b)).cur = some c) ∧ ((s.board (boardKey d b)).failed = false) ∧ (s.frozen = false) ∧ (s.dead c = false) ∧ (((s.board (boardKey d b)).sb.any fun e => decide (e.unit = .seq)) = false) ∧ ((s.board (boardKey d b)).pc < (s.board (boardKey d b)).ninstr) ∧ ((s.board (boardKey d b)).pc < 1024) ∧ (s.illegal (boardKey d b) (s.board (boardKey d b)).pc (s.instr (boardKey d b) (s.board (boardKey d b)).pc) = false) ∧ (s.outside (boardKey d b) (s.ranges (boardKey d b) (s.instr (boardKey d b) (s.board (boardKey d b)).pc) c.capture) = false) ∧ (s.blocked (boardKey d b) (s.instr (boardKey d b) (s.board (boardKey d b)).pc) c = false) :=
  ⟨Wit.issue, 31, 191, {}, by decide⟩
theorem wit_Instruction_issue_1 : ∃ (s : State) (d : Die) (b : Brd) (c : StepCtx), ((s.board (boardKey d b)).cur = some c) ∧ ((s.board (boardKey d b)).failed = false) ∧ (s.frozen = false) ∧ (s.dead c = false) ∧ (((s.board (boardKey d b)).sb.any fun e => decide (e.unit = .seq)) = false) ∧ ((s.board (boardKey d b)).ninstr ≤ (s.board (boardKey d b)).pc ∨ 1024 ≤ (s.board (boardKey d b)).pc ∨ s.illegal (boardKey d b) (s.board (boardKey d b)).pc (s.instr (boardKey d b) (s.board (boardKey d b)).pc) = true) :=
  ⟨Wit.board { cur := some {}, halted := false }, 31, 191, {}, by decide⟩
theorem wit_Instruction_issue_2 : ∃ (s : State) (d : Die) (b : Brd) (c : StepCtx), ((s.board (boardKey d b)).cur = some c) ∧ ((s.board (boardKey d b)).failed = false) ∧ (s.frozen = false) ∧ (s.dead c = false) ∧ (((s.board (boardKey d b)).sb.any fun e => decide (e.unit = .seq)) = false) ∧ ((s.board (boardKey d b)).pc < (s.board (boardKey d b)).ninstr) ∧ ((s.board (boardKey d b)).pc < 1024) ∧ (s.illegal (boardKey d b) (s.board (boardKey d b)).pc (s.instr (boardKey d b) (s.board (boardKey d b)).pc) = false) ∧ (s.outside (boardKey d b) (s.ranges (boardKey d b) (s.instr (boardKey d b) (s.board (boardKey d b)).pc) c.capture) = true) :=
  ⟨Wit.bounds, 31, 191, {}, by decide⟩
theorem wit_Instruction_issue_3 : ∃ (s : State) (d : Die) (b : Brd) (c : StepCtx), ((s.board (boardKey d b)).cur = some c) ∧ ((s.board (boardKey d b)).failed = false) ∧ (s.frozen = false) ∧ (s.dead c = false) ∧ (((s.board (boardKey d b)).sb.any fun e => decide (e.unit = .seq)) = false) ∧ ((s.board (boardKey d b)).pc < (s.board (boardKey d b)).ninstr) ∧ ((s.board (boardKey d b)).pc < 1024) ∧ (s.illegal (boardKey d b) (s.board (boardKey d b)).pc (s.instr (boardKey d b) (s.board (boardKey d b)).pc) = false) ∧ (s.outside (boardKey d b) (s.ranges (boardKey d b) (s.instr (boardKey d b) (s.board (boardKey d b)).pc) c.capture) = false) ∧ (s.blocked (boardKey d b) (s.instr (boardKey d b) (s.board (boardKey d b)).pc) c = true) :=
  ⟨Wit.blocked, 31, 191, {}, by decide⟩
theorem wit_Sequencer_instructions_0 : ∃ (s : State) (d : Die) (b : Brd) (e : SbEntry), (s.seqHead (boardKey d b) 0x0B = some e) ∧ (waitTarget e ≤ s.rkAt d) :=
  ⟨Wit.at .seq 0x0B, 31, 191, Wit.entry .seq 0x0B, by decide⟩
theorem wit_Sequencer_instructions_1 : ∃ (s : State) (d : Die) (b : Brd) (e : SbEntry), (s.seqHead (boardKey d b) 0x0B = some e) ∧ (s.rkAt d < waitTarget e) :=
  ⟨Wit.at .seq (0x0B + 5 * 2 ^ 64), 31, 191, Wit.entry .seq (0x0B + 5 * 2 ^ 64), by decide⟩
theorem wit_Sequencer_instructions_2 : ∃ (s : State) (d : Die) (b : Brd) (e : SbEntry) (n : Nat), (s.seqHead (boardKey d b) 0x0B = some e) ∧ ((s.board (boardKey d b)).waitRk = some n) ∧ (n ≤ s.rkAt d) :=
  ⟨Wit.board { sb := [Wit.entry .seq 0x0B], waitRk := some 0 }, 31, 191, Wit.entry .seq 0x0B, 0, by decide⟩
theorem wit_Sequencer_instructions_3 : ∃ (s : State) (d : Die) (b : Brd) (e : SbEntry) (n : Nat), (s.seqHead (boardKey d b) 0x0B = some e) ∧ ((s.board (boardKey d b)).waitRk = some n) ∧ (s.rkAt d < n) :=
  ⟨Wit.board { sb := [Wit.entry .seq 0x0B], waitRk := some 1 }, 31, 191, Wit.entry .seq 0x0B, 1, by decide⟩
theorem wit_Sequencer_instructions_4 : ∃ (s : State) (d : Die) (b : Brd) (e : SbEntry), (s.seqHead (boardKey d b) 0x0E = some e) ∧ ((s.board (boardKey d b)).loops = []) ∧ (tf e.word 1 0 16 ≠ 0) :=
  ⟨Wit.at .seq (0x0E + 2 ^ 32), 31, 191, Wit.entry .seq (0x0E + 2 ^ 32), by decide⟩
theorem wit_Sequencer_instructions_5 : ∃ (s : State) (d : Die) (b : Brd) (e : SbEntry) (n : Nat) (r : List (Nat × Nat)), (s.seqHead (boardKey d b) 0x0E = some e) ∧ ((s.board (boardKey d b)).loops = (e.pc, n + 1) :: r) :=
  ⟨Wit.board { sb := [Wit.entry .seq 0x0E], loops := [(5, 1)] }, 31, 191, Wit.entry .seq 0x0E, 0, [], by decide⟩
theorem wit_Sequencer_instructions_6 : ∃ (s : State) (d : Die) (b : Brd) (e : SbEntry) (r : List (Nat × Nat)), (s.seqHead (boardKey d b) 0x0E = some e) ∧ ((s.board (boardKey d b)).loops = (e.pc, 0) :: r) :=
  ⟨Wit.board { sb := [Wit.entry .seq 0x0E], loops := [(5, 0)] }, 31, 191, Wit.entry .seq 0x0E, [], by decide⟩
theorem wit_Sequencer_instructions_7 : ∃ (s : State) (d : Die) (b : Brd) (e : SbEntry), (s.seqHead (boardKey d b) 0x0E = some e) ∧ ((s.board (boardKey d b)).loops = []) ∧ (tf e.word 1 0 16 = 0) :=
  ⟨Wit.at .seq 0x0E, 31, 191, Wit.entry .seq 0x0E, by decide⟩
theorem wit_Sequencer_instructions_8 : ∃ (s : State) (d : Die) (b : Brd) (e : SbEntry) (k n : Nat) (r : List (Nat × Nat)), (s.seqHead (boardKey d b) 0x0E = some e) ∧ ((s.board (boardKey d b)).loops = (k, n) :: r) ∧ (k ≠ e.pc) ∧ (tf e.word 1 0 16 ≠ 0) :=
  ⟨Wit.board { sb := [Wit.entry .seq (0x0E + 2 ^ 32)], loops := [(9, 1)] }, 31, 191, Wit.entry .seq (0x0E + 2 ^ 32), 9, 1, [], by decide⟩
theorem wit_Sequencer_instructions_9 : ∃ (s : State) (d : Die) (b : Brd) (e : SbEntry) (k n : Nat) (r : List (Nat × Nat)), (s.seqHead (boardKey d b) 0x0E = some e) ∧ ((s.board (boardKey d b)).loops = (k, n) :: r) ∧ (k ≠ e.pc) ∧ (tf e.word 1 0 16 = 0) :=
  ⟨Wit.board { sb := [Wit.entry .seq 0x0E], loops := [(9, 1)] }, 31, 191, Wit.entry .seq 0x0E, 9, 1, [], by decide⟩
theorem wit_Sequencer_instructions_10 : ∃ (s : State) (d : Die) (b : Brd) (e : SbEntry), (s.seqHead (boardKey d b) 0x0F = some e) :=
  ⟨Wit.at .seq 0x0F, 31, 191, Wit.entry .seq 0x0F, by decide⟩
theorem wit_Sequencer_instructions_11 : ∃ (s : State) (d : Die) (b : Brd) (e : SbEntry), (s.seqHead (boardKey d b) 0x0C = some e) ∧ ((s.board (boardKey d b)).score = none) :=
  ⟨Wit.at .seq 0x0C, 31, 191, Wit.entry .seq 0x0C, by decide⟩
theorem wit_Sequencer_instructions_12 : ∃ (s : State) (d : Die) (b : Brd) (e : SbEntry) (n : Nat), (s.seqHead (boardKey d b) 0x0C = some e) ∧ ((s.board (boardKey d b)).score = some n) ∧ ((s.fb.acks.any fun p => pktSrc p == (boardKey d b) && p.job == e.ctx.job && p.step == e.ctx.step) = true ∨ ((s.board (boardKey d b)).sb.any fun y => (y.ctx.job == e.ctx.job && y.ctx.step == e.ctx.step) && decide (y.id < e.id) && ((topc y.word == 5 && tf y.word 0 23 1 == 1) || topc y.word == 0x0A)) = true) :=
  ⟨{ Wit.board { sb := [Wit.entry .seq 0x0C], score := some 63 } with fb.acks := [{ srcNode := 31, srcBoard := 191 }] }, 31, 191, Wit.entry .seq 0x0C, 63, by decide⟩
theorem wit_Sequencer_instructions_13 : ∃ (s : State) (d : Die) (b : Brd) (e : SbEntry) (n : Nat), (s.seqHead (boardKey d b) 0x0C = some e) ∧ ((s.board (boardKey d b)).score = some n) ∧ ((s.fb.acks.any fun p => pktSrc p == (boardKey d b) && p.job == e.ctx.job && p.step == e.ctx.step) = false) ∧ (((s.board (boardKey d b)).sb.any fun y => (y.ctx.job == e.ctx.job && y.ctx.step == e.ctx.step) && decide (y.id < e.id) && ((topc y.word == 5 && tf y.word 0 23 1 == 1) || topc y.word == 0x0A)) = false) ∧ (s.pw.entering ≠ some 4) ∧ ((((s.score n).file.man.succ.getD (s.board (boardKey d b)).stage []).any (s.stageHeld n)) = false) :=
  ⟨Wit.board { sb := [Wit.entry .seq 0x0C], score := some 63 }, 31, 191, Wit.entry .seq 0x0C, 63, by decide⟩
theorem wit_Sequencer_instructions_14 : ∃ (s : State) (d : Die) (b : Brd) (e : SbEntry) (n : Nat), (s.seqHead (boardKey d b) 0x0C = some e) ∧ ((s.board (boardKey d b)).score = some n) ∧ ((s.fb.acks.any fun p => pktSrc p == (boardKey d b) && p.job == e.ctx.job && p.step == e.ctx.step) = false) ∧ (((s.board (boardKey d b)).sb.any fun y => (y.ctx.job == e.ctx.job && y.ctx.step == e.ctx.step) && decide (y.id < e.id) && ((topc y.word == 5 && tf y.word 0 23 1 == 1) || topc y.word == 0x0A)) = false) ∧ (s.pw.entering = some 4) :=
  ⟨{ Wit.board { sb := [Wit.entry .seq 0x0C], score := some 63 } with pw.entering := some 4 }, 31, 191, Wit.entry .seq 0x0C, 63, by decide⟩
theorem wit_Sequencer_instructions_15 : ∃ (s : State) (d : Die) (b : Brd) (e : SbEntry) (n : Nat), (s.seqHead (boardKey d b) 0x0C = some e) ∧ ((s.board (boardKey d b)).score = some n) ∧ (s.pw.entering ≠ some 4) ∧ ((((s.score n).file.man.succ.getD (s.board (boardKey d b)).stage []).any (s.stageHeld n)) = true) :=
  ⟨Wit.held, 31, 191, Wit.entry .seq 0x0C, 63, by decide +kernel⟩
theorem wit_Sequencer_instructions_16 : ∃ (s : State) (d : Die) (b : Brd) (e : SbEntry), (s.seqHead (boardKey d b) 0x0D = some e) ∧ (tf e.word 0 16 2 = 0) ∧ (s.captures e.ctx = true ∨ e.ctx.capture = 2) :=
  ⟨Wit.board { sb := [{ id := 0, pc := 5, word := 0x0D, ctx := { capture := 2 }, unit := .seq }] }, 31, 191, { id := 0, pc := 5, word := 0x0D, ctx := { capture := 2 }, unit := .seq }, by decide⟩
theorem wit_Sequencer_instructions_17 : ∃ (s : State) (d : Die) (b : Brd) (e : SbEntry), (s.seqHead (boardKey d b) 0x0D = some e) ∧ (s.captures e.ctx = false) ∧ (e.ctx.capture ≠ 2) :=
  ⟨Wit.at .seq 0x0D, 31, 191, Wit.entry .seq 0x0D, by decide⟩
theorem wit_Sequencer_instructions_18 : ∃ (s : State) (d : Die) (b : Brd) (e : SbEntry), (s.seqHead (boardKey d b) 0x0D = some e) ∧ (tf e.word 0 16 2 ≠ 0) ∧ (tf e.word 3 0 14 = 0) :=
  ⟨Wit.at .seq (0x0D + 2 ^ 16), 31, 191, Wit.entry .seq (0x0D + 2 ^ 16), by decide⟩
theorem wit_Sequencer_instructions_19 : ∃ (s : State) (d : Die) (b : Brd) (e : SbEntry), (s.seqHead (boardKey d b) 0x0D = some e) ∧ (tf e.word 3 0 14 ≠ 0) ∧ (tf e.word 0 16 2 = 1) ∧ (s.captures e.ctx = true) :=
  ⟨{ Wit.board { sb := [{ id := 0, pc := 5, word := 0x0D + 1 * 2 ^ 16 + 2 ^ 96, ctx := { capture := 1 }, unit := .seq }] } with sv.journal.on := true, sv.journal.captures := true }, 31, 191, { id := 0, pc := 5, word := 0x0D + 1 * 2 ^ 16 + 2 ^ 96, ctx := { capture := 1 }, unit := .seq }, by decide +kernel⟩
theorem wit_Sequencer_instructions_20 : ∃ (s : State) (d : Die) (b : Brd) (e : SbEntry), (s.seqHead (boardKey d b) 0x0D = some e) ∧ (tf e.word 3 0 14 ≠ 0) ∧ (2 ≤ tf e.word 0 16 2) ∧ (s.captures e.ctx = true) :=
  ⟨{ Wit.board { sb := [{ id := 0, pc := 5, word := 0x0D + 2 * 2 ^ 16 + 2 ^ 96, ctx := { capture := 1 }, unit := .seq }] } with sv.journal.on := true, sv.journal.captures := true }, 31, 191, { id := 0, pc := 5, word := 0x0D + 2 * 2 ^ 16 + 2 ^ 96, ctx := { capture := 1 }, unit := .seq }, by decide +kernel⟩
theorem wit_Sequencer_instructions_21 : ∃ (s : State) (d : Die) (b : Brd) (e : SbEntry), (s.seqHead (boardKey d b) 0x0D = some e) ∧ (tf e.word 3 0 14 ≠ 0) ∧ (s.captures e.ctx = false) ∧ (e.ctx.capture = 2) ∧ (tf e.word 0 16 2 ≠ 0) ∧ ((s.captured (5 + tf e.word 0 16 2) e.ctx (tf e.word 1 0 16) (s.board (boardKey d b)).lb)[mget 0 (s.board (boardKey d b)).captStroke (captKey e.ctx (64 + tf e.word 1 0 16))]? = none) :=
  ⟨Wit.board { sb := [{ id := 0, pc := 5, word := 0x0D + 1 * 2 ^ 16 + 2 ^ 96, ctx := { capture := 2 }, unit := .seq }] }, 31, 191, { id := 0, pc := 5, word := 0x0D + 1 * 2 ^ 16 + 2 ^ 96, ctx := { capture := 2 }, unit := .seq }, by decide +kernel⟩
theorem wit_Sequencer_instructions_22 : ∃ (s : State) (d : Die) (b : Brd) (e : SbEntry) (z : Nat) (v : List Byte), (s.seqHead (boardKey d b) 0x0D = some e) ∧ (tf e.word 3 0 14 ≠ 0) ∧ (s.captures e.ctx = false) ∧ (e.ctx.capture = 2) ∧ (tf e.word 0 16 2 = 1) ∧ ((s.captured (5 + tf e.word 0 16 2) e.ctx (tf e.word 1 0 16) (s.board (boardKey d b)).lb)[mget 0 (s.board (boardKey d b)).captStroke (captKey e.ctx (64 + tf e.word 1 0 16))]? = some (z, v)) ∧ (leAt (v.drop 32) 0 2 ≠ tf e.word 2 0 11 ∨ leAt (v.drop 32) 2 2 ≠ tf e.word 3 0 14) :=
  ⟨{ Wit.board { sb := [{ id := 0, pc := 5, word := 0x0D + 1 * 2 ^ 16 + 2 ^ 96, ctx := { capture := 2 }, unit := .seq }] } with sv.journal.recs := [(0, ([6] ++ List.replicate 31 0 ++ [5]))] }, 31, 191, { id := 0, pc := 5, word := 0x0D + 1 * 2 ^ 16 + 2 ^ 96, ctx := { capture := 2 }, unit := .seq }, 0, ([6] ++ List.replicate 31 0 ++ [5]), by decide +kernel⟩
theorem wit_Sequencer_instructions_23 : ∃ (s : State) (d : Die) (b : Brd) (e : SbEntry) (z : Nat) (v : List Byte), (s.seqHead (boardKey d b) 0x0D = some e) ∧ (tf e.word 3 0 14 ≠ 0) ∧ (s.captures e.ctx = false) ∧ (e.ctx.capture = 2) ∧ (tf e.word 0 16 2 = 1) ∧ ((s.captured (5 + tf e.word 0 16 2) e.ctx (tf e.word 1 0 16) (s.board (boardKey d b)).lb)[mget 0 (s.board (boardKey d b)).captStroke (captKey e.ctx (64 + tf e.word 1 0 16))]? = some (z, v)) ∧ (leAt (v.drop 32) 0 2 = tf e.word 2 0 11 ∧ leAt (v.drop 32) 2 2 = tf e.word 3 0 14) :=
  ⟨{ Wit.board { sb := [{ id := 0, pc := 5, word := 0x0D + 1 * 2 ^ 16 + 2 ^ 96, ctx := { capture := 2 }, unit := .seq }] } with sv.journal.recs := [(0, ([6] ++ List.replicate 31 0 ++ [0, 0, 1, 0, 7, 0, 0, 0]))] }, 31, 191, { id := 0, pc := 5, word := 0x0D + 1 * 2 ^ 16 + 2 ^ 96, ctx := { capture := 2 }, unit := .seq }, 0, ([6] ++ List.replicate 31 0 ++ [0, 0, 1, 0, 7, 0, 0, 0]), by decide +kernel⟩
theorem wit_Sequencer_instructions_24 : ∃ (s : State) (d : Die) (b : Brd) (e : SbEntry) (z : Nat) (v : List Byte), (s.seqHead (boardKey d b) 0x0D = some e) ∧ (tf e.word 3 0 14 ≠ 0) ∧ (s.captures e.ctx = false) ∧ (e.ctx.capture = 2) ∧ (2 ≤ tf e.word 0 16 2) ∧ ((s.captured (5 + tf e.word 0 16 2) e.ctx (tf e.word 1 0 16) (s.board (boardKey d b)).lb)[mget 0 (s.board (boardKey d b)).captStroke (captKey e.ctx (64 + tf e.word 1 0 16))]? = some (z, v)) ∧ (leAt (v.drop 32) 0 4 ≠ 8 * tf e.word 2 0 14 ∨ leAt (v.drop 32) 4 4 ≠ tf e.word 3 0 14) :=
  ⟨{ Wit.board { sb := [{ id := 0, pc := 5, word := 0x0D + 2 * 2 ^ 16 + 2 ^ 96, ctx := { capture := 2 }, unit := .seq }] } with sv.journal.recs := [(0, ([7] ++ List.replicate 31 0 ++ [5]))] }, 31, 191, { id := 0, pc := 5, word := 0x0D + 2 * 2 ^ 16 + 2 ^ 96, ctx := { capture := 2 }, unit := .seq }, 0, ([7] ++ List.replicate 31 0 ++ [5]), by decide +kernel⟩
theorem wit_Sequencer_instructions_25 : ∃ (s : State) (d : Die) (b : Brd) (e : SbEntry) (z : Nat) (v : List Byte), (s.seqHead (boardKey d b) 0x0D = some e) ∧ (tf e.word 3 0 14 ≠ 0) ∧ (s.captures e.ctx = false) ∧ (e.ctx.capture = 2) ∧ (2 ≤ tf e.word 0 16 2) ∧ ((s.captured (5 + tf e.word 0 16 2) e.ctx (tf e.word 1 0 16) (s.board (boardKey d b)).lb)[mget 0 (s.board (boardKey d b)).captStroke (captKey e.ctx (64 + tf e.word 1 0 16))]? = some (z, v)) ∧ (leAt (v.drop 32) 0 4 = 8 * tf e.word 2 0 14 ∧ leAt (v.drop 32) 4 4 = tf e.word 3 0 14) :=
  ⟨{ Wit.board { sb := [{ id := 0, pc := 5, word := 0x0D + 2 * 2 ^ 16 + 2 ^ 96, ctx := { capture := 2 }, unit := .seq }] } with sv.journal.recs := [(0, ([7] ++ List.replicate 31 0 ++ [0, 0, 0, 0, 1, 0, 0, 0, 9]))] }, 31, 191, { id := 0, pc := 5, word := 0x0D + 2 * 2 ^ 16 + 2 ^ 96, ctx := { capture := 2 }, unit := .seq }, 0, ([7] ++ List.replicate 31 0 ++ [0, 0, 0, 0, 1, 0, 0, 0, 9]), by decide +kernel⟩
theorem wit_Board_faults_and_failures_0 : ∃ (s : State) (d : Die) (b : Brd) (e : SbEntry) (j n at_ : Nat), ((s.board (boardKey d b)).lastDone = [(j, n, at_)]) ∧ (fld (s.reg ((bkBase (boardKey d b)) + 0x40014)) 0 16 ≠ 0) ∧ (at_ + fld (s.reg ((bkBase (boardKey d b)) + 0x40014)) 0 16 * 10000 ≤ s.now) ∧ (((s.board (boardKey d b)).sb.find? fun e => e.ctx.job == j && e.ctx.step == n) = some e) ∧ (topc e.word ≠ 0x0B) ∧ (s.tokenWait (boardKey d b) e = false) :=
  ⟨Wit.late, 31, 191, Wit.entry .tally 3, 0, 0, 0, by decide⟩
theorem wit_Board_faults_and_failures_1 : ∃ (s : State) (d : Die) (b : Brd) (e : SbEntry) (j n at_ : Nat), ((s.board (boardKey d b)).lastDone = [(j, n, at_)]) ∧ (((s.board (boardKey d b)).sb.find? fun e => e.ctx.job == j && e.ctx.step == n) = some e) ∧ (topc e.word = 0x0B ∨ s.tokenWait (boardKey d b) e = true) :=
  ⟨Wit.waits, 31, 191, Wit.entry .seq 0x0B, 0, 0, 0, by decide⟩
theorem wit_Board_faults_and_failures_2 : ∃ (s : State) (d : Die) (b : Brd) (pc j : Nat), ((s.board (boardKey d b)).lastDone.findSome? (s.stepLate (boardKey d b)) = some (pc, j)) :=
  ⟨Wit.late, 31, 191, 5, 0, by decide⟩
theorem wit_Board_faults_and_failures_3 : ∃ (s : State) (d : Die) (b : Brd), (fld (s.reg ((bkBase (boardKey d b)) + 0x40014)) 0 16 = 0) :=
  ⟨State.reset.setReg (bkBase (boardKey 31 191) + 0x40014) 0, 31, 191, by decide⟩
theorem wit_Board_faults_and_failures_4 : ∃ (s : State) (d : Die) (b : Brd) (n : Nat) (i : BoardImg) (w : Nat), ((s.board (boardKey d b)).score = some n) ∧ (((s.score n).file.boards.find? fun i => i.lb == (s.board (boardKey d b)).lb) = some i) ∧ (i.prog[(s.board (boardKey d b)).pc]? = some w) :=
  ⟨Wit.refetch, 31, 191, 3, Wit.img, 7, by decide⟩
theorem wit_Board_faults_and_failures_5 : ∃ (s : State) (d : Die) (b : Brd), ((s.board (boardKey d b)).score = none) :=
  ⟨State.reset, 31, 191, by decide⟩
theorem wit_Board_faults_and_failures_6 : ∃ (s : State) (j : Nat) (x : Job), (s.job j = some x) ∧ (x.failedAt = true) ∧ (x.st ≠ .completed) ∧ (x.replayed = false) :=
  ⟨Wit.failed, 1, { ring := 0, failedAt := true }, by decide⟩
theorem wit_Board_faults_and_failures_7 : ∃ (s : State) (j : Nat) (x : Job), (s.job j = some x) ∧ (x.failedAt = true) ∧ (x.st ≠ .completed) ∧ (x.replayed = true) :=
  ⟨State.reset.setJob 1 (some { ring := 0, failedAt := true, replayed := true }), 1, { ring := 0, failedAt := true, replayed := true }, by decide⟩
theorem wit_Board_faults_and_failures_8 : ∃ (s : State) (j : Nat) (x : Job), (s.job j = some x) ∧ (x.failedAt = false ∨ x.st = .completed) :=
  ⟨State.reset.setJob 1 (some { ring := 0 }), 1, { ring := 0 }, by decide⟩
theorem wit_Stroke_begin_0 : ∃ (s : State) (d : Die) (b : Brd) (f : Frm) (x : Stroke) (r : List Stroke), ((s.frame (frameKey d b f)).queue = x :: r) ∧ ((s.frame (frameKey d b f)).stroke = none) ∧ (s.awakeFrame (frameKey d b f) = true) :=
  ⟨Wit.queued, 31, 191, 33, Wit.str, [], by decide +kernel⟩
theorem wit_Stroke_begin_1 : ∃ (s : State) (d : Die) (b : Brd) (f : Frm) (x : Stroke) (r : List Stroke), ((s.frame (frameKey d b f)).queue = x :: r) ∧ ((s.frame (frameKey d b f)).stroke.isSome = true ∨ s.awakeFrame (frameKey d b f) = false) :=
  ⟨Wit.frm { queue := [Wit.str] }, 31, 191, 33, Wit.str, [], by decide⟩
theorem wit_Stroke_begin_2 : ∃ (s : State) (d : Die) (b : Brd) (f : Frm) (e : SbEntry), ((s.frame (frameKey d b f)).queue = []) ∧ (s.headOf (boardKey d b) (.frame f) = some e) ∧ (topc e.word = 1) ∧ (s.dead e.ctx = false) ∧ (tnb e.word = 0 ∨ (strokeOp e.word).nrow = 0 ∨ (strokeOp e.word).nrod = 0) :=
  ⟨Wit.at (.frame 33) 1, 31, 191, 33, Wit.entry (.frame 33) 1, by decide⟩
theorem wit_Stroke_begin_3 : ∃ (s : State) (d : Die) (b : Brd) (f : Frm) (e : SbEntry), ((s.frame (frameKey d b f)).queue = []) ∧ (s.headOf (boardKey d b) (.frame f) = some e) ∧ (topc e.word = 1) ∧ (s.dead e.ctx = false) ∧ (tnb e.word ≠ 0) ∧ ((strokeOp e.word).nrow ≠ 0) ∧ ((strokeOp e.word).nrod ≠ 0) ∧ (e.iter < tnb e.word) ∧ (s.redirected (boardKey d b) f ((e.seq0 + e.iter) % 2 ^ 48) = (frameKey d b f)) ∧ (fkBoard (frameKey d b f) = (boardKey d b)) ∧ ((s.frame (frameKey d b f)).stroke = none) ∧ ((s.strokeDrive (boardKey d b) (frameKey d b f) e.word e.iter).eref = none) ∧ (s.offDuty (frameKey d b f) = false) :=
  ⟨Wit.strokeNone, 31, 191, 33, Wit.strokeEntry 0, by decide⟩
theorem wit_Stroke_begin_4 : ∃ (s : State) (d : Die) (b : Brd) (f : Frm) (e : SbEntry) (er : Int), ((s.frame (frameKey d b f)).queue = []) ∧ (s.headOf (boardKey d b) (.frame f) = some e) ∧ (topc e.word = 1) ∧ (s.dead e.ctx = false) ∧ (tnb e.word ≠ 0) ∧ ((strokeOp e.word).nrow ≠ 0) ∧ ((strokeOp e.word).nrod ≠ 0) ∧ (e.iter < tnb e.word) ∧ (s.redirected (boardKey d b) f ((e.seq0 + e.iter) % 2 ^ 48) = (frameKey d b f)) ∧ (fkBoard (frameKey d b f) = (boardKey d b)) ∧ ((s.frame (frameKey d b f)).stroke = none) ∧ ((s.strokeDrive (boardKey d b) (frameKey d b f) e.word e.iter).eref = some er) :=
  ⟨Wit.strokeAt, 31, 191, 33, Wit.strokeEntry 0, 0, by decide⟩
theorem wit_Stroke_end_0 : ∃ (s : State) (d : Die) (b : Brd) (f : Frm) (x : Stroke), ((s.frame (frameKey d b f)).stroke = some x) ∧ (x.started = true) ∧ (x.lane = false) :=
  ⟨Wit.frm { stroke := some { Wit.str with started := true } }, 31, 191, 33, { Wit.str with started := true }, by decide⟩
theorem wit_Stroke_end_1 : ∃ (s : State) (d : Die) (b : Brd) (f : Frm) (x : Stroke), ((s.frame (frameKey d b f)).stroke = some x) ∧ (x.started = true) ∧ (x.lane = false) :=
  ⟨Wit.frm { stroke := some { Wit.str with started := true } }, 31, 191, 33, { Wit.str with started := true }, by decide⟩
theorem wit_Stroke_end_2 : ∃ (s : State) (d : Die) (b : Brd) (f : Frm) (x : Stroke), ((s.frame (frameKey d b f)).stroke = some x) ∧ (x.started = false ∨ x.lane = true) :=
  ⟨Wit.frm { stroke := some Wit.str }, 31, 191, 33, Wit.str, by decide⟩
theorem wit_Stroke_end_3 : ∃ (s : State) (d : Die) (b : Brd) (f : Frm), ((s.frame (frameKey d b f)).stroke = none) :=
  ⟨State.reset, 31, 191, 33, by decide⟩
theorem wit_Stroke_end_4 : ∃ (s : State) (d : Die) (b : Brd) (f : Frm) (x : Stroke), ((s.frame (frameKey d b f)).stroke = some x) ∧ (x.pending = true) :=
  ⟨Wit.frm { stroke := some { Wit.str with pending := true } }, 31, 191, 33, { Wit.str with pending := true }, by decide⟩
theorem wit_Stroke_end_5 : ∃ (s : State) (d : Die) (b : Brd) (f : Frm) (x : Stroke), ((s.frame (frameKey d b f)).stroke = some x) ∧ (x.pending = false) :=
  ⟨Wit.frm { stroke := some Wit.str }, 31, 191, 33, Wit.str, by decide⟩
theorem wit_Stroke_end_6 : ∃ (s : State) (d : Die) (b : Brd) (f : Frm), ((s.frame (frameKey d b f)).stroke = none) :=
  ⟨State.reset, 31, 191, 33, by decide⟩
theorem wit_Stroke_end_7 : ∃ (s : State) (d : Die) (b : Brd) (f : Frm), ((s.frame (frameKey d b f)).stroke = none) ∧ ((s.frame (frameKey d b f)).queue = []) ∧ (s.strokeQueued (frameKey d b f) = false) :=
  ⟨State.reset, 31, 191, 33, by decide⟩
theorem wit_Stroke_end_8 : ∃ (s : State) (d : Die) (b : Brd) (f : Frm), ((s.frame (frameKey d b f)).stroke.isSome = true ∨ (s.frame (frameKey d b f)).queue ≠ [] ∨ s.strokeQueued (frameKey d b f) = true) :=
  ⟨Wit.frm { stroke := some Wit.str }, 31, 191, 33, by decide⟩
theorem wit_Stroke_end_9 : ∃ (s : State) (d : Die) (b : Brd) (f : Frm) (e : SbEntry), (s.headOf (boardKey d b) (.frame f) = some e) ∧ (topc e.word = 2) ∧ ((s.frame (frameKey d b f)).stroke = none) ∧ ((s.frame (frameKey d b f)).st = .programming ∨ (s.frame (frameKey d b f)).st = .repair ∨ (s.frame (frameKey d b f)).st = .spare ∨ (s.frame (frameKey d b f)).st = .retired) :=
  ⟨(Wit.at (.frame 33) 2).setFrame (frameKey 31 191 33) { st := .spare }, 31, 191, 33, Wit.entry (.frame 33) 2, by decide⟩
theorem wit_Stroke_end_10 : ∃ (s : State) (d : Die) (b : Brd) (f : Frm) (e : SbEntry), (s.headOf (boardKey d b) (.frame f) = some e) ∧ (topc e.word = 2) ∧ ((s.frame (frameKey d b f)).stroke = none) ∧ ((s.frame (frameKey d b f)).st ≠ .programming) ∧ ((s.frame (frameKey d b f)).st ≠ .repair) ∧ ((s.frame (frameKey d b f)).st ≠ .spare) ∧ ((s.frame (frameKey d b f)).st ≠ .retired) ∧ ((s.frame (frameKey d b f)).planeValid = true) ∧ ((s.frame (frameKey d b f)).plane = tf e.word 0 22 3) :=
  ⟨(Wit.at (.frame 33) (2 + 7 * 2 ^ 22)).setFrame (frameKey 31 191 33) { st := .recount, plane := 7, planeValid := true }, 31, 191, 33, Wit.entry (.frame 33) (2 + 7 * 2 ^ 22), by decide⟩
theorem wit_Stroke_end_11 : ∃ (s : State) (d : Die) (b : Brd) (f : Frm) (e : SbEntry), (s.headOf (boardKey d b) (.frame f) = some e) ∧ (topc e.word = 2) ∧ ((s.frame (frameKey d b f)).stroke = none) ∧ ((s.frame (frameKey d b f)).st ≠ .programming) ∧ ((s.frame (frameKey d b f)).st ≠ .repair) ∧ ((s.frame (frameKey d b f)).st ≠ .spare) ∧ ((s.frame (frameKey d b f)).st ≠ .retired) ∧ ((s.frame (frameKey d b f)).planeValid = false ∨ (s.frame (frameKey d b f)).plane ≠ tf e.word 0 22 3) :=
  ⟨Wit.at (.frame 33) (2 + 2 ^ 22), 31, 191, 33, Wit.entry (.frame 33) (2 + 2 ^ 22), by decide⟩
theorem wit_Stroke_end_12 : ∃ (s : State) (d : Die) (b : Brd) (f : Frm) (e : SbEntry), (s.headOf (boardKey d b) (.frame f) = some e) ∧ (topc e.word ≠ 2 ∨ (s.frame (frameKey d b f)).stroke.isSome = true) :=
  ⟨Wit.at (.frame 33) 1, 31, 191, 33, Wit.entry (.frame 33) 1, by decide⟩
theorem wit_Stroke_end_13 : ∃ (s : State) (d : Die) (b : Brd) (f : Frm), (s.headOf (boardKey d b) (.frame f) = none) :=
  ⟨State.reset, 31, 191, 33, by decide⟩
theorem wit_Stroke_end_14 : ∃ (s : State) (d : Die) (b : Brd) (k : Nat) (x : Stroke), (s.laneHead (boardKey d b) = some (k, x)) ∧ (s.imageOf k x.plane = none) :=
  ⟨Wit.frm { stroke := some { Wit.str with lane := true } }, 31, 191, frameKey 31 191 33, { Wit.str with lane := true }, by decide⟩
theorem wit_Stroke_end_15 : ∃ (s : State) (d : Die) (b : Brd) (k : Nat) (x : Stroke) (g : PlaneImg), (s.laneHead (boardKey d b) = some (k, x)) ∧ (s.imageOf k x.plane = some g) ∧ (x.started = true) :=
  ⟨Wit.laneImg true, 31, 191, frameKey 31 191 33, { Wit.str with lane := true, started := true }, Wit.plane, by decide⟩
theorem wit_Stroke_end_16 : ∃ (s : State) (d : Die) (b : Brd) (k : Nat) (x : Stroke) (g : PlaneImg), (s.laneHead (boardKey d b) = some (k, x)) ∧ (s.imageOf k x.plane = some g) ∧ (x.started = false) ∧ (((s.die d).draws.any fun w => decide (w.work = .exact (boardKey d b))) = true) :=
  ⟨(Wit.laneImg false).setDie 31 { on := true, draws := [{ prio := 2, need := 1, work := .exact (boardKey 31 191) }] }, 31, 191, frameKey 31 191 33, { Wit.str with lane := true, started := false }, Wit.plane, by decide⟩
theorem wit_Stroke_end_17 : ∃ (s : State) (d : Die) (b : Brd) (k : Nat) (x : Stroke) (g : PlaneImg) (u : State) (ok : Bool), (s.laneHead (boardKey d b) = some (k, x)) ∧ (s.imageOf k x.plane = some g) ∧ (x.started = false) ∧ (((s.die d).draws.any fun w => decide (w.work = .exact (boardKey d b))) = false) ∧ (s.draw d prioJob (cdiv x.partUnits 40) (.exact (boardKey d b)) = (u, ok)) :=
  ⟨(Wit.laneImg false), 31, 191, frameKey 31 191 33, { Wit.str with lane := true, started := false }, Wit.plane, ((Wit.laneImg false).draw 31 prioJob 0 (.exact (boardKey 31 191))).1, ((Wit.laneImg false).draw 31 prioJob 0 (.exact (boardKey 31 191))).2, by decide +kernel⟩
theorem wit_Stroke_end_18 : ∃ (s : State) (d : Die) (b : Brd), (s.laneHead (boardKey d b) = none) :=
  ⟨State.reset, 31, 191, by decide⟩
theorem wit_Token_pools_0 : ∃ (s : State), (s.pstate ≠ 1) ∧ (s.pstate ≠ 2) ∧ (s.pstate ≠ 3) :=
  ⟨State.reset.setPstate 4, by decide⟩
theorem wit_Token_pools_1 : ∃ (s : State), (s.pstate = 1 ∨ s.pstate = 2 ∨ s.pstate = 3) :=
  ⟨State.reset, by decide⟩
theorem wit_Token_pools_2 : ∃ (s : State) (d : Die) (w : Draw), (firstDraw (s.die d).draws = some w) ∧ (w.ready = true) ∧ ((min (w.need - w.got) halfDepth) ≤ s.openTo d w.prio) ∧ (w.need ≤ w.got + (min (w.need - w.got) halfDepth)) :=
  ⟨Wit.draw, 31, Wit.drawOf, by decide⟩
theorem wit_Token_pools_3 : ∃ (s : State) (d : Die) (w : Draw), (firstDraw (s.die d).draws = some w) ∧ (w.ready = true) ∧ ((min (w.need - w.got) halfDepth) ≤ s.openTo d w.prio) ∧ (w.got + (min (w.need - w.got) halfDepth) < w.need) :=
  ⟨Wit.bigDraw, 31, { Wit.drawOf with need := 3000000 }, by decide⟩
theorem wit_Token_pools_4 : ∃ (s : State) (d : Die) (w : Draw), (firstDraw (s.die d).draws = some w) ∧ (w.ready = false ∨ s.openTo d w.prio < (min (w.need - w.got) halfDepth)) :=
  ⟨Wit.bigDraw.setRegN (poolReg 31) 0, 31, { Wit.drawOf with need := 3000000 }, by decide⟩
theorem wit_Token_pools_5 : ∃ (s : State) (d : Die), ((s.die d).draws = []) :=
  ⟨State.reset, 0, by decide⟩
theorem wit_Token_pools_7 : ∃ (s : State), (∀ d : Nat, d < 32 → s.diePowered d = true → (s.die d).issued = ((s.die d).consumed + (s.die d).returned + s.pool d) % 2 ^ 64) :=
  ⟨Wit.balanced, by decide +kernel⟩
theorem wit_Tally_instructions_0 : ∃ (s : State) (d : Die) (b : Brd) (e : SbEntry), (s.unitHead (boardKey d b) .tally 0x03 = some e) :=
  ⟨Wit.at .tally 3, 31, 191, Wit.entry .tally 3, by decide⟩
theorem wit_Tally_instructions_1 : ∃ (s : State) (d : Die) (b : Brd) (e : SbEntry), (s.unitHead (boardKey d b) .tally 0x04 = some e) ∧ (tf e.word 0 27 1 = 0) :=
  ⟨Wit.at .tally 4, 31, 191, Wit.entry .tally 4, by decide⟩
theorem wit_Tally_instructions_2 : ∃ (s : State) (d : Die) (b : Brd) (e : SbEntry), (s.unitHead (boardKey d b) .tally 0x04 = some e) ∧ (tf e.word 0 27 1 = 1) :=
  ⟨Wit.at .tally (4 + 2 ^ 27), 31, 191, Wit.entry .tally (4 + 2 ^ 27), by decide⟩
theorem wit_Tally_instructions_3 : ∃ (s : State) (d : Die) (b : Brd) (e : SbEntry), (s.unitHead (boardKey d b) .lane 0x08 = some e) ∧ ((s.stageOf (boardKey d b)).carryOut < (if (s.board (boardKey d b)).sentStep = (e.ctx.job, e.ctx.step) then (s.board (boardKey d b)).carriesSent else 0) + cdiv (tf e.word 1 0 12) 32) :=
  ⟨Wit.at .lane (8 + 2 ^ 32), 31, 191, Wit.entry .lane (8 + 2 ^ 32), by decide⟩
theorem wit_Tally_instructions_4 : ∃ (s : State) (d : Die) (b : Brd) (e : SbEntry), (s.unitHead (boardKey d b) .lane 0x08 = some e) ∧ ((s.board (boardKey d b)).sentStep ≠ (e.ctx.job, e.ctx.step)) ∧ (tf e.word 1 0 12 = 0) :=
  ⟨Wit.board { sb := [Wit.entry .lane 8], sentStep := (1, 1) }, 31, 191, Wit.entry .lane 8, by decide⟩
theorem wit_Tally_instructions_5 : ∃ (s : State) (d : Die) (b : Brd) (e : SbEntry), (s.unitHead (boardKey d b) .lane 0x08 = some e) ∧ ((s.board (boardKey d b)).sentStep ≠ (e.ctx.job, e.ctx.step)) ∧ (0 < tf e.word 1 0 12) ∧ (tf e.word 1 0 12 ≤ 32) ∧ (1 ≤ (s.stageOf (boardKey d b)).carryOut) :=
  ⟨Wit.carry, 31, 191, Wit.entry .lane (8 + 2 ^ 32), by decide⟩
theorem wit_Tally_instructions_6 : ∃ (s : State) (d : Die) (b : Brd) (e : SbEntry), (s.unitHead (boardKey d b) .tally 0x09 = some e) ∧ (tf e.word 1 0 12 = 0) :=
  ⟨Wit.at .tally 9, 31, 191, Wit.entry .tally 9, by decide⟩
theorem wit_Tally_instructions_7 : ∃ (s : State) (d : Die) (b : Brd) (e : SbEntry), (s.unitHead (boardKey d b) .tally 0x09 = some e) ∧ (tf e.word 1 0 12 ≠ 0) ∧ (((s.board (boardKey d b)).arrived.filter fun x => x.job == e.ctx.job && x.step == e.ctx.step && decide (tf e.word 0 16 11 ≤ x.slot ∧ x.slot + x.vals.length ≤ tf e.word 0 16 11 + tf e.word 1 0 12)) = []) :=
  ⟨Wit.at .tally (9 + 2 ^ 32), 31, 191, Wit.entry .tally (9 + 2 ^ 32), by decide⟩
theorem wit_Tally_instructions_8 : ∃ (s : State) (d : Die) (b : Brd) (e : SbEntry) (x : Carry), (s.unitHead (boardKey d b) .tally 0x09 = some e) ∧ (tf e.word 1 0 12 ≠ 0) ∧ ((s.board (boardKey d b)).arrived = [x]) ∧ (x.job = e.ctx.job) ∧ (x.step = e.ctx.step) ∧ (tf e.word 0 16 11 ≤ x.slot) ∧ (x.slot + x.vals.length ≤ tf e.word 0 16 11 + tf e.word 1 0 12) ∧ (e.done + 1 = tf e.word 1 12 12) :=
  ⟨Wit.board { sb := [Wit.entry .tally (9 + 2 ^ 32 + 2 ^ 44)], arrived := [Wit.car] }, 31, 191, Wit.entry .tally (9 + 2 ^ 32 + 2 ^ 44), Wit.car, by decide⟩
theorem wit_Drain_and_vector_0 : ∃ (s : State) (d : Die) (b : Brd) (e : SbEntry), (s.unitHead (boardKey d b) .drain 0x05 = some e) ∧ (tnb e.word ≠ 0) ∧ (tf e.word 1 11 12 ≠ 0) ∧ (((bit (s.breg (boardKey d b) (0x41000 + 16 * tf e.word 0 16 3)) 6 || bit (s.breg (boardKey d b) (0x41000 + 16 * tf e.word 0 16 3)) 7) && s.strBusy (boardKey d b) (tf e.word 0 19 4) e.ctx) = false) ∧ (s.drainBad (boardKey d b) e.word = false) :=
  ⟨Wit.at .drain (5 + 2 ^ 8 + 2 ^ 43), 31, 191, Wit.entry .drain (5 + 2 ^ 8 + 2 ^ 43), by decide⟩
theorem wit_Drain_and_vector_1 : ∃ (s : State) (d : Die) (b : Brd) (e : SbEntry), (s.unitHead (boardKey d b) .drain 0x05 = some e) ∧ (tnb e.word ≠ 0) ∧ (tf e.word 1 11 12 ≠ 0) ∧ (((bit (s.breg (boardKey d b) (0x41000 + 16 * tf e.word 0 16 3)) 6 || bit (s.breg (boardKey d b) (0x41000 + 16 * tf e.word 0 16 3)) 7) && s.strBusy (boardKey d b) (tf e.word 0 19 4) e.ctx) = false) ∧ (s.drainBad (boardKey d b) e.word = true) :=
  ⟨Wit.badT40, 31, 191, Wit.entry .drain Wit.t40Word, by decide +kernel⟩
theorem wit_Drain_and_vector_2 : ∃ (s : State) (d : Die) (b : Brd) (e : SbEntry) (u : State), (s.unitHead (boardKey d b) .drain 0x05 = some e) ∧ (tnb e.word ≠ 0) ∧ (tf e.word 1 11 12 ≠ 0) ∧ (((bit (s.breg (boardKey d b) (0x41000 + 16 * tf e.word 0 16 3)) 6 || bit (s.breg (boardKey d b) (0x41000 + 16 * tf e.word 0 16 3)) 7) && s.strBusy (boardKey d b) (tf e.word 0 19 4) e.ctx) = false) ∧ (s.eccFault (boardKey d b) e true = some u) :=
  ⟨Wit.badT40, 31, 191, Wit.entry .drain Wit.t40Word, (Wit.badT40.eccFault (boardKey 31 191) (Wit.entry .drain Wit.t40Word) true).getD State.reset, by decide +kernel⟩
theorem wit_Drain_and_vector_3 : ∃ (s : State) (d : Die) (b : Brd) (e : SbEntry), (s.unitHead (boardKey d b) .drain 0x05 = some e) ∧ (tnb e.word ≠ 0) ∧ (tf e.word 1 11 12 ≠ 0) ∧ (((bit (s.breg (boardKey d b) (0x41000 + 16 * tf e.word 0 16 3)) 6 || bit (s.breg (boardKey d b) (0x41000 + 16 * tf e.word 0 16 3)) 7) && s.strBusy (boardKey d b) (tf e.word 0 19 4) e.ctx) = true) :=
  ⟨Wit.strWait .drain Wit.scaledDrain, 31, 191, Wit.entry .drain Wit.scaledDrain, by decide +kernel⟩
theorem wit_Drain_and_vector_4 : ∃ (s : State) (d : Die) (b : Brd) (e : SbEntry), (s.unitHead (boardKey d b) .drain 0x05 = some e) ∧ (tnb e.word = 0 ∨ tf e.word 1 11 12 = 0) :=
  ⟨Wit.at .drain 5, 31, 191, Wit.entry .drain 5, by decide⟩
theorem wit_Drain_and_vector_5 : ∃ (s : State) (d : Die) (b : Brd) (e : SbEntry) (u : State) (bv : List FV) (ev : Ev), (s.unitHead (boardKey d b) .vector 0x06 = some e) ∧ (tf e.word 1 0 13 ≠ 0) ∧ (tnb e.word ≠ 0) ∧ (s.strBusy (boardKey d b) (tf e.word 1 13 4) e.ctx = false) ∧ (s.vecPay (boardKey d b) e (vecTokens ((vmmTile (tf e.word 0 16 2)).1 * (vmmTile (tf e.word 0 16 2)).2 * tf e.word 1 0 13) (max (fmtWidth ((Fmt.ofCode (tf e.word 0 18 5)).getD .fp32)) (fmtWidth ((Fmt.ofCode (tf e.word 0 23 5)).getD .fp32)))) = (u, true)) ∧ (u.vmmNoT40 (boardKey d b) e.word = false) ∧ (u.vmmPoison (boardKey d b) e.word ((Fmt.ofCode (tf e.word 0 23 5)).getD .fp32) (tf e.word 1 0 13) (vmmTile (tf e.word 0 16 2)).2 = false) ∧ (u.vmmB (boardKey d b) e.word ((Fmt.ofCode (tf e.word 0 23 5)).getD .fp32) (tf e.word 1 0 13) (vmmTile (tf e.word 0 16 2)).2 = some (bv, ev)) :=
  ⟨Wit.vec (6 + 2 ^ 8 + 2 ^ 32), 31, 191, { Wit.entry .vector (6 + 2 ^ 8 + 2 ^ 32) with paid := true }, Wit.vec (6 + 2 ^ 8 + 2 ^ 32), (((Wit.vec (6 + 2 ^ 8 + 2 ^ 32)).vmmB (boardKey 31 191) (6 + 2 ^ 8 + 2 ^ 32) .a8u 1 (vmmTile 0).2).getD ([], {})).1, (((Wit.vec (6 + 2 ^ 8 + 2 ^ 32)).vmmB (boardKey 31 191) (6 + 2 ^ 8 + 2 ^ 32) .a8u 1 (vmmTile 0).2).getD ([], {})).2, by decide +kernel⟩
theorem wit_Drain_and_vector_6 : ∃ (s : State) (d : Die) (b : Brd) (e : SbEntry) (u : State), (s.unitHead (boardKey d b) .vector 0x06 = some e) ∧ (tf e.word 1 0 13 ≠ 0) ∧ (tnb e.word ≠ 0) ∧ (s.strBusy (boardKey d b) (tf e.word 1 13 4) e.ctx = false) ∧ (s.vecPay (boardKey d b) e (vecTokens ((vmmTile (tf e.word 0 16 2)).1 * (vmmTile (tf e.word 0 16 2)).2 * tf e.word 1 0 13) (max (fmtWidth ((Fmt.ofCode (tf e.word 0 18 5)).getD .fp32)) (fmtWidth ((Fmt.ofCode (tf e.word 0 23 5)).getD .fp32)))) = (u, true)) ∧ (u.vmmNoT40 (boardKey d b) e.word = true) :=
  ⟨Wit.vecT40 Wit.vmmT40, 31, 191, { Wit.entry .vector Wit.vmmT40 with paid := true }, Wit.vecT40 Wit.vmmT40, by decide +kernel⟩
theorem wit_Drain_and_vector_7 : ∃ (s : State) (d : Die) (b : Brd) (e : SbEntry) (u : State), (s.unitHead (boardKey d b) .vector 0x06 = some e) ∧ (tf e.word 1 0 13 ≠ 0) ∧ (tnb e.word ≠ 0) ∧ (s.strBusy (boardKey d b) (tf e.word 1 13 4) e.ctx = false) ∧ (s.vecPay (boardKey d b) e (vecTokens ((vmmTile (tf e.word 0 16 2)).1 * (vmmTile (tf e.word 0 16 2)).2 * tf e.word 1 0 13) (max (fmtWidth ((Fmt.ofCode (tf e.word 0 18 5)).getD .fp32)) (fmtWidth ((Fmt.ofCode (tf e.word 0 23 5)).getD .fp32)))) = (u, true)) ∧ (u.vmmNoT40 (boardKey d b) e.word = false) ∧ (u.vmmPoison (boardKey d b) e.word ((Fmt.ofCode (tf e.word 0 23 5)).getD .fp32) (tf e.word 1 0 13) (vmmTile (tf e.word 0 16 2)).2 = true) :=
  ⟨Wit.vecPool [16], 31, 191, { Wit.entry .vector Wit.vmmPool with paid := true }, Wit.vecPool [16], by decide +kernel⟩
theorem wit_Drain_and_vector_8 : ∃ (s : State) (d : Die) (b : Brd) (e : SbEntry) (u : State), (s.unitHead (boardKey d b) .vector 0x06 = some e) ∧ (tf e.word 1 0 13 ≠ 0) ∧ (tnb e.word ≠ 0) ∧ (s.strBusy (boardKey d b) (tf e.word 1 13 4) e.ctx = false) ∧ (s.vecPay (boardKey d b) e (vecTokens ((vmmTile (tf e.word 0 16 2)).1 * (vmmTile (tf e.word 0 16 2)).2 * tf e.word 1 0 13) (max (fmtWidth ((Fmt.ofCode (tf e.word 0 18 5)).getD .fp32)) (fmtWidth ((Fmt.ofCode (tf e.word 0 23 5)).getD .fp32)))) = (u, true)) ∧ (u.vmmNoT40 (boardKey d b) e.word = false) ∧ (u.vmmPoison (boardKey d b) e.word ((Fmt.ofCode (tf e.word 0 23 5)).getD .fp32) (tf e.word 1 0 13) (vmmTile (tf e.word 0 16 2)).2 = false) ∧ (u.vmmB (boardKey d b) e.word ((Fmt.ofCode (tf e.word 0 23 5)).getD .fp32) (tf e.word 1 0 13) (vmmTile (tf e.word 0 16 2)).2 = none) :=
  ⟨Wit.vec (Wit.vmmPool), 31, 191, { Wit.entry .vector (Wit.vmmPool) with paid := true }, Wit.vec (Wit.vmmPool), by decide +kernel⟩
theorem wit_Drain_and_vector_9 : ∃ (s : State) (d : Die) (b : Brd) (e : SbEntry) (u : State), (s.unitHead (boardKey d b) .vector 0x06 = some e) ∧ (tf e.word 1 0 13 ≠ 0) ∧ (tnb e.word ≠ 0) ∧ (s.strBusy (boardKey d b) (tf e.word 1 13 4) e.ctx = false) ∧ (s.vecPay (boardKey d b) e (vecTokens ((vmmTile (tf e.word 0 16 2)).1 * (vmmTile (tf e.word 0 16 2)).2 * tf e.word 1 0 13) (max (fmtWidth ((Fmt.ofCode (tf e.word 0 18 5)).getD .fp32)) (fmtWidth ((Fmt.ofCode (tf e.word 0 23 5)).getD .fp32)))) = (u, false)) :=
  ⟨Wit.at .vector (6 + 2 ^ 8 + 2 ^ 32), 31, 191, Wit.entry .vector (6 + 2 ^ 8 + 2 ^ 32), ((Wit.at .vector (6 + 2 ^ 8 + 2 ^ 32)).vecPay (boardKey 31 191) (Wit.entry .vector (6 + 2 ^ 8 + 2 ^ 32)) (vecTokens ((vmmTile 0).1 * (vmmTile 0).2) (fmtWidth .a8u))).1, by decide +kernel⟩
theorem wit_Drain_and_vector_10 : ∃ (s : State) (d : Die) (b : Brd) (e : SbEntry) (u : State), (s.unitHead (boardKey d b) .vector 0x06 = some e) ∧ (tf e.word 1 0 13 ≠ 0) ∧ (tnb e.word ≠ 0) ∧ (s.strBusy (boardKey d b) (tf e.word 1 13 4) e.ctx = false) ∧ (s.eccFault (boardKey d b) e true = some u) :=
  ⟨Wit.vec (6 + 2 ^ 8 + 2 ^ 32), 31, 191, { Wit.entry .vector (6 + 2 ^ 8 + 2 ^ 32) with paid := true }, ((Wit.vec (6 + 2 ^ 8 + 2 ^ 32)).eccFault (boardKey 31 191) { Wit.entry .vector (6 + 2 ^ 8 + 2 ^ 32) with paid := true } true).getD State.reset, by decide +kernel⟩
theorem wit_Drain_and_vector_11 : ∃ (s : State) (d : Die) (b : Brd) (e : SbEntry), (s.unitHead (boardKey d b) .vector 0x06 = some e) ∧ (tf e.word 1 0 13 ≠ 0) ∧ (tnb e.word ≠ 0) ∧ (s.strBusy (boardKey d b) (tf e.word 1 13 4) e.ctx = true) :=
  ⟨Wit.strWait .vector (6 + 2 ^ 8 + 2 ^ 32), 31, 191, Wit.entry .vector (6 + 2 ^ 8 + 2 ^ 32), by decide +kernel⟩
theorem wit_Drain_and_vector_12 : ∃ (s : State) (d : Die) (b : Brd) (e : SbEntry), (s.unitHead (boardKey d b) .vector 0x06 = some e) ∧ (tf e.word 1 0 13 = 0 ∨ tnb e.word = 0) :=
  ⟨Wit.at .vector 6, 31, 191, Wit.entry .vector 6, by decide⟩
theorem wit_Drain_and_vector_13 : ∃ (s : State) (d : Die) (b : Brd) (e : SbEntry) (u : State), (s.unitHead (boardKey d b) .vector 0x07 = some e) ∧ (tf e.word 1 0 16 ≠ 0) ∧ (tnb e.word ≠ 0) ∧ (¬(tf e.word 0 21 8 ≠ 0x0B ∧ s.strBusy (boardKey d b) (tf e.word 1 16 4) e.ctx = true)) ∧ (s.vecPay (boardKey d b) e (vecTokens (vopUnits (tf e.word 0 21 8) * tf e.word 1 0 16 * tnb e.word) (fmtWidth ((Fmt.ofCode (tf e.word 0 16 5)).getD .fp32))) = (u, true)) ∧ (u.vopNoT40 (boardKey d b) e.word = false) :=
  ⟨Wit.vec (7 + 2 ^ 8 + 2 ^ 32), 31, 191, { Wit.entry .vector (7 + 2 ^ 8 + 2 ^ 32) with paid := true }, Wit.vec (7 + 2 ^ 8 + 2 ^ 32), by decide +kernel⟩
theorem wit_Drain_and_vector_14 : ∃ (s : State) (d : Die) (b : Brd) (e : SbEntry) (u : State), (s.unitHead (boardKey d b) .vector 0x07 = some e) ∧ (tf e.word 1 0 16 ≠ 0) ∧ (tnb e.word ≠ 0) ∧ (¬(tf e.word 0 21 8 ≠ 0x0B ∧ s.strBusy (boardKey d b) (tf e.word 1 16 4) e.ctx = true)) ∧ (s.vecPay (boardKey d b) e (vecTokens (vopUnits (tf e.word 0 21 8) * tf e.word 1 0 16 * tnb e.word) (fmtWidth ((Fmt.ofCode (tf e.word 0 16 5)).getD .fp32))) = (u, true)) ∧ (u.vopNoT40 (boardKey d b) e.word = true) :=
  ⟨Wit.vecT40 Wit.vopT40, 31, 191, { Wit.entry .vector Wit.vopT40 with paid := true }, Wit.vecT40 Wit.vopT40, by decide +kernel⟩
theorem wit_Drain_and_vector_15 : ∃ (s : State) (d : Die) (b : Brd) (e : SbEntry) (u : State), (s.unitHead (boardKey d b) .vector 0x07 = some e) ∧ (tf e.word 1 0 16 ≠ 0) ∧ (tnb e.word ≠ 0) ∧ (¬(tf e.word 0 21 8 ≠ 0x0B ∧ s.strBusy (boardKey d b) (tf e.word 1 16 4) e.ctx = true)) ∧ (s.vecPay (boardKey d b) e (vecTokens (vopUnits (tf e.word 0 21 8) * tf e.word 1 0 16 * tnb e.word) (fmtWidth ((Fmt.ofCode (tf e.word 0 16 5)).getD .fp32))) = (u, false)) :=
  ⟨Wit.at .vector (7 + 2 ^ 8 + 2 ^ 32), 31, 191, Wit.entry .vector (7 + 2 ^ 8 + 2 ^ 32), ((Wit.at .vector (7 + 2 ^ 8 + 2 ^ 32)).vecPay (boardKey 31 191) (Wit.entry .vector (7 + 2 ^ 8 + 2 ^ 32)) (vecTokens (vopUnits 0) (fmtWidth .a8u))).1, by decide +kernel⟩
theorem wit_Drain_and_vector_16 : ∃ (s : State) (d : Die) (b : Brd) (e : SbEntry) (u : State), (s.unitHead (boardKey d b) .vector 0x07 = some e) ∧ (tf e.word 1 0 16 ≠ 0) ∧ (tnb e.word ≠ 0) ∧ (¬(tf e.word 0 21 8 ≠ 0x0B ∧ s.strBusy (boardKey d b) (tf e.word 1 16 4) e.ctx = true)) ∧ (s.eccFault (boardKey d b) e true = some u) :=
  ⟨Wit.vec (7 + 2 ^ 8 + 2 ^ 32), 31, 191, { Wit.entry .vector (7 + 2 ^ 8 + 2 ^ 32) with paid := true }, ((Wit.vec (7 + 2 ^ 8 + 2 ^ 32)).eccFault (boardKey 31 191) { Wit.entry .vector (7 + 2 ^ 8 + 2 ^ 32) with paid := true } true).getD State.reset, by decide +kernel⟩
theorem wit_Drain_and_vector_17 : ∃ (s : State) (d : Die) (b : Brd) (e : SbEntry), (s.unitHead (boardKey d b) .vector 0x07 = some e) ∧ (tf e.word 1 0 16 ≠ 0) ∧ (tnb e.word ≠ 0) ∧ ((tf e.word 0 21 8 ≠ 0x0B ∧ s.strBusy (boardKey d b) (tf e.word 1 16 4) e.ctx = true)) :=
  ⟨Wit.strWait .vector (7 + 2 ^ 8 + 2 ^ 32), 31, 191, Wit.entry .vector (7 + 2 ^ 8 + 2 ^ 32), by decide +kernel⟩
theorem wit_Drain_and_vector_18 : ∃ (s : State) (d : Die) (b : Brd) (e : SbEntry), (s.unitHead (boardKey d b) .vector 0x07 = some e) ∧ (tf e.word 1 0 16 = 0 ∨ tnb e.word = 0) :=
  ⟨Wit.at .vector 7, 31, 191, Wit.entry .vector 7, by decide⟩
theorem wit_Drain_and_vector_19 : ∃ (s : State) (d : Die) (b : Brd) (e : SbEntry) (n : Nat) (f : Buf) (a : Nat × Nat), (s.unitHead (boardKey d b) .lane 0x0A = some e) ∧ ((s.board (boardKey d b)).score = some n) ∧ ((s.score n).file.man.bufs[tf e.word 2 0 16]? = some f) ∧ ((s.score n).bufAt[tf e.word 2 0 16]? = some a) ∧ ((8 * tf e.word 1 14 14) ≠ 0) ∧ ((tf e.word 3 0 32) + (8 * tf e.word 1 14 14) ≤ f.size) ∧ (f.cached = false ∨ a.2 + (tf e.word 3 0 32) + (8 * tf e.word 1 14 14) ≤ 0x1800000) ∧ (tf e.word 0 16 1 = 0) ∧ (s.memBad (a.1 + (tf e.word 3 0 32)) (8 * tf e.word 1 14 14) = false) :=
  ⟨Wit.move Wit.moveWord, 31, 191, Wit.entry .lane Wit.moveWord, 3, Wit.buf, (0x1000, 0), by decide⟩
theorem wit_Drain_and_vector_20 : ∃ (s : State) (d : Die) (b : Brd) (e : SbEntry) (n : Nat) (f : Buf) (a : Nat × Nat), (s.unitHead (boardKey d b) .lane 0x0A = some e) ∧ ((s.board (boardKey d b)).score = some n) ∧ ((s.score n).file.man.bufs[tf e.word 2 0 16]? = some f) ∧ ((s.score n).bufAt[tf e.word 2 0 16]? = some a) ∧ ((8 * tf e.word 1 14 14) ≠ 0) ∧ ((tf e.word 3 0 32) + (8 * tf e.word 1 14 14) ≤ f.size) ∧ (f.cached = false ∨ a.2 + (tf e.word 3 0 32) + (8 * tf e.word 1 14 14) ≤ 0x1800000) ∧ (tf e.word 0 16 1 = 1) ∧ (s.epochOk { (s.pktOf (boardKey d b) e.ctx e.seq0 5 2) with dstNode := 32 + f.hub } = true) :=
  ⟨Wit.move (Wit.moveWord + 2 ^ 16), 31, 191, Wit.entry .lane (Wit.moveWord + 2 ^ 16), 3, Wit.buf, (0x1000, 0), by decide⟩
theorem wit_Drain_and_vector_21 : ∃ (s : State) (d : Die) (b : Brd) (e : SbEntry) (n : Nat) (f : Buf) (a : Nat × Nat), (s.unitHead (boardKey d b) .lane 0x0A = some e) ∧ ((s.board (boardKey d b)).score = some n) ∧ ((s.score n).file.man.bufs[tf e.word 2 0 16]? = some f) ∧ ((s.score n).bufAt[tf e.word 2 0 16]? = some a) ∧ ((8 * tf e.word 1 14 14) ≠ 0) ∧ ((tf e.word 3 0 32) + (8 * tf e.word 1 14 14) ≤ f.size) ∧ (f.cached = false ∨ a.2 + (tf e.word 3 0 32) + (8 * tf e.word 1 14 14) ≤ 0x1800000) ∧ (tf e.word 0 16 1 = 0) ∧ (s.memBad (a.1 + (tf e.word 3 0 32)) (8 * tf e.word 1 14 14) = true) :=
  ⟨{ Wit.move Wit.moveWord with ms.poison := [16] }, 31, 191, Wit.entry .lane Wit.moveWord, 3, Wit.buf, (0x1000, 0), by decide +kernel⟩
theorem wit_Drain_and_vector_22 : ∃ (s : State) (d : Die) (b : Brd) (e : SbEntry) (n : Nat) (f : Buf) (a : Nat × Nat), (s.unitHead (boardKey d b) .lane 0x0A = some e) ∧ ((s.board (boardKey d b)).score = some n) ∧ ((s.score n).file.man.bufs[tf e.word 2 0 16]? = some f) ∧ ((s.score n).bufAt[tf e.word 2 0 16]? = some a) ∧ ((8 * tf e.word 1 14 14) ≠ 0) ∧ ((tf e.word 3 0 32) + (8 * tf e.word 1 14 14) ≤ f.size) ∧ (f.cached = false ∨ a.2 + (tf e.word 3 0 32) + (8 * tf e.word 1 14 14) ≤ 0x1800000) ∧ (tf e.word 0 16 1 = 1) ∧ (s.epochOk { (s.pktOf (boardKey d b) e.ctx e.seq0 5 2) with dstNode := 32 + f.hub } = false) :=
  ⟨{ Wit.move (Wit.moveWord + 2 ^ 16) with fb.recs := [(0, 0, 7, 0, false)] }, 31, 191, Wit.entry .lane (Wit.moveWord + 2 ^ 16), 3, Wit.buf, (0x1000, 0), by decide⟩
theorem wit_Drain_and_vector_23 : ∃ (s : State) (d : Die) (b : Brd) (e : SbEntry) (n : Nat) (f : Buf) (a : Nat × Nat), (s.unitHead (boardKey d b) .lane 0x0A = some e) ∧ ((s.board (boardKey d b)).score = some n) ∧ ((s.score n).file.man.bufs[tf e.word 2 0 16]? = some f) ∧ ((s.score n).bufAt[tf e.word 2 0 16]? = some a) ∧ ((8 * tf e.word 1 14 14) ≠ 0) ∧ (f.cached = true) ∧ (0x1800000 < a.2 + (tf e.word 3 0 32) + (8 * tf e.word 1 14 14)) :=
  ⟨Wit.moveTop, 31, 191, Wit.entry .lane Wit.moveWord, 3, { Wit.buf with cached := true }, (0x1000, 0x1800000), by decide⟩
theorem wit_Drain_and_vector_24 : ∃ (s : State) (d : Die) (b : Brd) (e : SbEntry) (n : Nat) (f : Buf) (a : Nat × Nat), (s.unitHead (boardKey d b) .lane 0x0A = some e) ∧ ((s.board (boardKey d b)).score = some n) ∧ ((s.score n).file.man.bufs[tf e.word 2 0 16]? = some f) ∧ ((s.score n).bufAt[tf e.word 2 0 16]? = some a) ∧ ((8 * tf e.word 1 14 14) ≠ 0) ∧ (f.size < (tf e.word 3 0 32) + (8 * tf e.word 1 14 14)) :=
  ⟨Wit.move (Wit.moveWord + 2 ^ 112), 31, 191, Wit.entry .lane (Wit.moveWord + 2 ^ 112), 3, Wit.buf, (0x1000, 0), by decide⟩
theorem wit_Drain_and_vector_25 : ∃ (s : State) (d : Die) (b : Brd) (e : SbEntry) (n : Nat) (f : Buf) (a : Nat × Nat), (s.unitHead (boardKey d b) .lane 0x0A = some e) ∧ ((s.board (boardKey d b)).score = some n) ∧ ((s.score n).file.man.bufs[tf e.word 2 0 16]? = some f) ∧ ((s.score n).bufAt[tf e.word 2 0 16]? = some a) ∧ ((8 * tf e.word 1 14 14) = 0) :=
  ⟨Wit.move 0x0A, 31, 191, Wit.entry .lane 0x0A, 3, Wit.buf, (0x1000, 0), by decide⟩
theorem wit_Drain_and_vector_26 : ∃ (s : State) (d : Die) (b : Brd) (e : SbEntry) (n : Nat), (s.unitHead (boardKey d b) .lane 0x0A = some e) ∧ ((s.board (boardKey d b)).score = some n) ∧ ((s.score n).file.man.bufs[tf e.word 2 0 16]? = none) :=
  ⟨Wit.move (Wit.moveWord + 2 ^ 64), 31, 191, Wit.entry .lane (Wit.moveWord + 2 ^ 64), 3, by decide⟩
theorem wit_Drain_and_vector_27 : ∃ (s : State) (d : Die) (b : Brd) (e : SbEntry) (n : Nat) (f : Buf) (a : Nat × Nat) (u : State), (s.unitHead (boardKey d b) .lane 0x0A = some e) ∧ ((s.board (boardKey d b)).score = some n) ∧ ((s.score n).file.man.bufs[tf e.word 2 0 16]? = some f) ∧ ((s.score n).bufAt[tf e.word 2 0 16]? = some a) ∧ ((8 * tf e.word 1 14 14) ≠ 0) ∧ (s.eccFault (boardKey d b) e true = some u) :=
  ⟨Wit.move (Wit.moveWord + 2 ^ 16), 31, 191, Wit.entry .lane (Wit.moveWord + 2 ^ 16), 3, Wit.buf, (0x1000, 0), ((Wit.move (Wit.moveWord + 2 ^ 16)).eccFault (boardKey 31 191) (Wit.entry .lane (Wit.moveWord + 2 ^ 16)) true).getD State.reset, by decide +kernel⟩
theorem wit_Packets_that_carry_work_0 : ∃ (s : State) (p : Pkt), (s.outOfTurn p = false) ∧ (s.unroutable p = false) ∧ (badPkt p = false) :=
  ⟨Wit.ready, Wit.pkt { type := 0 }, by decide +kernel⟩
theorem wit_Packets_that_carry_work_1 : ∃ (s : State) (p : Pkt), (s.outOfTurn p = false) ∧ (s.unroutable p = false) ∧ (badPkt p = false) :=
  ⟨Wit.ready, Wit.pkt { type := 1 }, by decide +kernel⟩
theorem wit_Packets_that_carry_work_2 : ∃ (s : State) (d : Die) (b : Brd) (p : Pkt) (r : List Pkt), ((s.board (boardKey d b)).heldC = p :: r) ∧ ((s.board (boardKey d b)).keys.length < 8192) :=
  ⟨Wit.board { heldC := [{}] }, 31, 191, {}, [], by decide⟩
theorem wit_Packets_that_carry_work_3 : ∃ (s : State) (p : Pkt), (s.outOfTurn p = false) ∧ (s.unroutable p = false) ∧ (badPkt p = false) ∧ (leAt p.payload 0 1 % 64 < 34) ∧ ((s.arrive p).awakeFrame (34 * (pktDst p) + leAt p.payload 0 1 % 64) = true) :=
  ⟨Wit.ready.setDie 0 { on := true }, Wit.pkt { type := 2 }, by decide +kernel⟩
theorem wit_Packets_that_carry_work_4 : ∃ (s : State) (p : Pkt), (s.outOfTurn p = false) ∧ (s.unroutable p = false) ∧ (badPkt p = false) ∧ ((s.arrive p).awakeFrame (34 * (pktDst p) + leAt p.payload 0 1 % 64) = false) :=
  ⟨Wit.ready, Wit.pkt { type := 2 }, by decide +kernel⟩
theorem wit_Packets_that_carry_work_5 : ∃ (s : State) (p : Pkt), (s.outOfTurn p = false) ∧ (s.unroutable p = false) ∧ (badPkt p = false) ∧ (34 ≤ leAt p.payload 0 1 % 64) :=
  ⟨Wit.ready, Wit.pkt { type := 2, payload := [34] }, by decide +kernel⟩
theorem wit_Packets_that_carry_work_6 : ∃ (s : State) (p : Pkt), (s.outOfTurn p = false) ∧ (s.unroutable p = false) ∧ (badPkt p = false) ∧ (p.mc = false ∨ p.member.isSome = true) ∧ ((s.arrive p).epochAt (pktDst p) p = true) :=
  ⟨Wit.ready, Wit.pkt { type := 4 }, by decide +kernel⟩
theorem wit_Packets_that_carry_work_7 : ∃ (s : State) (p : Pkt), (s.outOfTurn p = false) ∧ (s.unroutable p = false) ∧ (badPkt p = false) :=
  ⟨Wit.ready, Wit.pkt { type := 4 }, by decide +kernel⟩
theorem wit_Packets_that_carry_work_8 : ∃ (s : State) (p : Pkt), (s.outOfTurn p = false) ∧ (s.unroutable p = false) ∧ (badPkt p = false) ∧ (p.mc = false ∨ p.member.isSome = true) ∧ ((s.arrive p).epochAt (pktDst p) p = false) :=
  ⟨Wit.record, Wit.pkt { type := 4, epoch := 7 }, by decide +kernel⟩
theorem wit_Packets_that_carry_work_9 : ∃ (s : State) (p : Pkt), (s.outOfTurn p = false) ∧ (s.unroutable p = false) ∧ (badPkt p = false) :=
  ⟨Wit.ready, Wit.pkt { type := 8 }, by decide +kernel⟩
theorem wit_Packets_that_carry_work_10 : ∃ (s : State) (p : Pkt), (s.outOfTurn p = false) ∧ (s.unroutable p = false) ∧ (badPkt p = false) ∧ (32 ≤ p.dstNode) :=
  ⟨Wit.ready, Wit.pkt { type := 9, dstNode := 32 }, by decide +kernel⟩
theorem wit_Packets_that_carry_work_11 : ∃ (s : State) (p : Pkt) (u : State), (s.outOfTurn p = false) ∧ (s.unroutable p = false) ∧ (badPkt p = false) ∧ (p.dstNode < 32) ∧ ((s.arrive p).putRec (pktDst p) (leAt p.payload 0 2 % 8192) (leAt p.payload 2 2) (leAt p.payload 8 6) (leAt p.payload 4 1 % 2 == 1) = some u) :=
  ⟨Wit.ready, Wit.pkt { type := 9 }, Wit.recorded, by decide +kernel⟩
theorem wit_Packets_that_carry_work_12 : ∃ (s : State) (p : Pkt), (s.outOfTurn p = false) ∧ (s.unroutable p = false) ∧ (badPkt p = false) ∧ (p.dstNode < 32) ∧ ((s.arrive p).putRec (pktDst p) (leAt p.payload 0 2 % 8192) (leAt p.payload 2 2) (leAt p.payload 8 6) (leAt p.payload 4 1 % 2 == 1) = none) :=
  ⟨Wit.recsFull, Wit.pkt { type := 9 }, by decide +kernel⟩
theorem wit_Packets_that_carry_work_13 : ∃ (s : State) (p : Pkt), (s.outOfTurn p = false) ∧ (s.unroutable p = false) ∧ (badPkt p = false) ∧ (p.ordinal ≠ 9) :=
  ⟨Wit.ready, Wit.pkt { type := 11 }, by decide +kernel⟩
theorem wit_Packets_that_carry_work_14 : ∃ (s : State) (p : Pkt), (s.outOfTurn p = false) ∧ (s.unroutable p = false) ∧ (badPkt p = false) ∧ (p.ordinal = 9) :=
  ⟨Wit.ready, Wit.pkt { type := 11, ordinal := 9 }, by decide +kernel⟩
theorem wit_Packets_to_memory_and_strays_0 : ∃ (s : State) (p : Pkt) (n : Nat), (s.outOfTurn p = false) ∧ (s.unroutable p = false) ∧ (badPkt p = false) ∧ (n = 0) :=
  ⟨Wit.ready, Wit.pkt { type := 5, dstNode := 32 }, 0, by decide +kernel⟩
theorem wit_Packets_to_memory_and_strays_1 : ∃ (s : State) (p : Pkt) (a n k : Nat), (s.outOfTurn p = false) ∧ (s.unroutable p = false) ∧ (badPkt p = false) ∧ (n ≠ 0) ∧ (isMem a = true) ∧ (isMem (a + n - 1) = true) ∧ ((s.arrive p).memTarget p a n = some k) :=
  ⟨Wit.ready, Wit.pkt { type := 5, dstNode := 32, srcNode := 33 }, 0x100, 32, 0x100, by decide +kernel⟩
theorem wit_Packets_to_memory_and_strays_2 : ∃ (s : State) (p : Pkt) (a n k : Nat), (s.outOfTurn p = false) ∧ (s.unroutable p = false) ∧ (badPkt p = false) ∧ (isMem a = true) ∧ (isMem (a + n - 1) = true) ∧ ((s.arrive p).memTarget p a n = some k) ∧ (n ≠ 0) ∧ (n ≤ 2048) :=
  ⟨Wit.ready, Wit.pkt { type := 5, dstNode := 32, srcNode := 33 }, 0x100, 32, 0x100, by decide +kernel⟩
theorem wit_Packets_to_memory_and_strays_3 : ∃ (s : State) (p : Pkt) (a n : Nat), (s.outOfTurn p = false) ∧ (s.unroutable p = false) ∧ (badPkt p = false) ∧ (isMem a = true) ∧ (isMem (a + n - 1) = true) ∧ (n ≠ 0) ∧ ((s.arrive p).memTarget p a n = none) :=
  ⟨Wit.ready, Wit.pkt { type := 5, dstNode := 32 }, 0x2000000000, 32, by decide +kernel⟩
theorem wit_Packets_to_memory_and_strays_4 : ∃ (s : State) (p : Pkt) (a n : Nat), (s.outOfTurn p = false) ∧ (s.unroutable p = false) ∧ (badPkt p = false) ∧ (n ≠ 0) ∧ (isMem a = false ∨ isMem (a + n - 1) = false) ∧ (p.srcNode < 32) :=
  ⟨Wit.ready, Wit.pkt { type := 5, dstNode := 32 }, 0x3000000000, 32, by decide +kernel⟩
theorem wit_Packets_to_memory_and_strays_5 : ∃ (s : State) (p : Pkt) (a n : Nat), (s.outOfTurn p = false) ∧ (s.unroutable p = false) ∧ (badPkt p = false) ∧ (n ≠ 0) ∧ (isMem a = false ∨ isMem (a + n - 1) = false) ∧ (32 ≤ p.srcNode) :=
  ⟨Wit.ready, Wit.pkt { type := 5, dstNode := 32, srcNode := 33 }, 0x3000000000, 32, by decide +kernel⟩
theorem wit_Packets_to_memory_and_strays_6 : ∃ (s : State) (p : Pkt) (a k : Nat), (s.outOfTurn p = false) ∧ (s.unroutable p = false) ∧ (badPkt p = false) ∧ (isMem a = true) ∧ (isMem (a + p.payload.length - 1) = true) ∧ ((s.arrive p).epochOk p = true) ∧ ((s.arrive p).memTarget p a p.payload.length = some k) :=
  ⟨Wit.ready, Wit.pkt { type := 6, dstNode := 32, srcNode := 33, payload := [1, 2] }, 0x100, 0x100, by decide +kernel⟩
theorem wit_Packets_to_memory_and_strays_7 : ∃ (s : State) (p : Pkt) (a : Nat), (s.outOfTurn p = false) ∧ (s.unroutable p = false) ∧ (badPkt p = false) ∧ (isMem a = true) ∧ (isMem (a + p.payload.length - 1) = true) ∧ ((s.arrive p).epochOk p = true) ∧ ((s.arrive p).memTarget p a p.payload.length = none) :=
  ⟨Wit.ready, Wit.pkt { type := 6, dstNode := 32, payload := [1, 2] }, 0x100, by decide +kernel⟩
theorem wit_Packets_to_memory_and_strays_8 : ∃ (s : State) (p : Pkt) (a : Nat), (s.outOfTurn p = false) ∧ (s.unroutable p = false) ∧ (badPkt p = false) ∧ (isMem a = false ∨ isMem (a + p.payload.length - 1) = false) ∧ (p.srcNode < 32) :=
  ⟨Wit.ready, Wit.pkt { type := 6, dstNode := 32 }, 0x3000000000, by decide +kernel⟩
theorem wit_Packets_to_memory_and_strays_9 : ∃ (s : State) (p : Pkt) (a : Nat), (s.outOfTurn p = false) ∧ (s.unroutable p = false) ∧ (badPkt p = false) ∧ (isMem a = true) ∧ (isMem (a + p.payload.length - 1) = true) ∧ ((s.arrive p).epochOk p = false) :=
  ⟨{ Wit.ready with fb.recs := [(0, 0, 7, 0, false)] }, Wit.pkt { type := 6, dstNode := 32 }, 0x100, by decide +kernel⟩
theorem wit_Packets_to_memory_and_strays_10 : ∃ (s : State) (p : Pkt), (s.outOfTurn p = false) ∧ (s.unroutable p = false) ∧ (badPkt p = false) ∧ (p.dstNode < 32) :=
  ⟨Wit.ready, Wit.pkt { type := 6 }, by decide +kernel⟩
theorem wit_Packets_to_memory_and_strays_11 : ∃ (s : State) (p : Pkt), (s.outOfTurn p = false) ∧ (s.unroutable p = false) ∧ (badPkt p = false) ∧ (32 ≤ p.dstNode) :=
  ⟨Wit.ready, Wit.pkt { type := 6, dstNode := 33 }, by decide +kernel⟩
theorem wit_Packets_to_memory_and_strays_12 : ∃ (p : Pkt), (32 ≤ p.dstNode) :=
  ⟨{ poison := true, dstNode := 32 }, by decide⟩
theorem wit_Packets_to_memory_and_strays_13 : ∃ (p : Pkt), (p.dstNode < 32) ∧ (p.member.getD p.dstBoard < 192) :=
  ⟨{ poison := true }, by decide⟩
theorem wit_Packets_to_memory_and_strays_14 : ∃ (s : State) (p : Pkt), (s.outOfTurn p = false) ∧ (s.unroutable p = false) ∧ (badPkt p = false) ∧ (12 ≤ p.type) ∧ (p.dstNode < 32) :=
  ⟨Wit.ready, Wit.pkt { type := 15 }, by decide +kernel⟩
theorem wit_Packets_to_memory_and_strays_15 : ∃ (s : State) (p : Pkt), (s.outOfTurn p = false) ∧ (s.unroutable p = true) :=
  ⟨Wit.ready, { dstNode := 34 }, by decide⟩
theorem wit_Packets_to_memory_and_strays_16 : ∃ (s : State) (p : Pkt), (s.outOfTurn p = false) ∧ (s.unroutable p = false) ∧ (badPkt p = true) :=
  ⟨Wit.ready, { poison := true }, by decide⟩
theorem wit_Packets_to_memory_and_strays_17 : ∃ (s : State) (p : Pkt), (s.outOfTurn p = false) ∧ (s.unroutable p = true) :=
  ⟨Wit.ready, { dstNode := 34 }, by decide⟩
theorem wit_Packets_to_memory_and_strays_18 : ∃ (s : State) (p : Pkt), (s.outOfTurn p = false) ∧ (s.unroutable p = false) ∧ (badPkt p = true) :=
  ⟨Wit.ready, { poison := true }, by decide⟩
theorem wit_Packets_to_memory_and_strays_19 : ∃ (s : State) (p : Pkt), (s.outOfTurn p = false) ∧ (s.unroutable p = true) :=
  ⟨Wit.ready, { dstNode := 34 }, by decide⟩
theorem wit_Packets_to_memory_and_strays_20 : ∃ (s : State) (p : Pkt), (s.outOfTurn p = false) ∧ (s.unroutable p = false) ∧ (badPkt p = true) :=
  ⟨Wit.ready, { poison := true }, by decide⟩
theorem wit_Packets_to_memory_and_strays_21 : ∃ (s : State) (p : Pkt), (s.outOfTurn p = false) ∧ (s.unroutable p = true) :=
  ⟨Wit.ready, { dstNode := 34 }, by decide⟩
theorem wit_Packets_to_memory_and_strays_22 : ∃ (s : State) (p : Pkt), (s.outOfTurn p = false) ∧ (s.unroutable p = false) ∧ (badPkt p = true) :=
  ⟨Wit.ready, { poison := true }, by decide⟩
theorem wit_Packets_to_memory_and_strays_23 : ∃ (s : State) (p : Pkt), (s.outOfTurn p = false) ∧ (s.unroutable p = true) :=
  ⟨Wit.ready, { dstNode := 34 }, by decide⟩
theorem wit_Packets_to_memory_and_strays_24 : ∃ (s : State) (p : Pkt), (s.outOfTurn p = false) ∧ (s.unroutable p = false) ∧ (badPkt p = true) :=
  ⟨Wit.ready, { poison := true }, by decide⟩
theorem wit_Packets_to_memory_and_strays_25 : ∃ (s : State) (p : Pkt), (s.outOfTurn p = false) ∧ (s.unroutable p = true) :=
  ⟨Wit.ready, { dstNode := 34 }, by decide⟩
theorem wit_Packets_to_memory_and_strays_26 : ∃ (s : State) (p : Pkt), (s.outOfTurn p = false) ∧ (s.unroutable p = false) ∧ (badPkt p = true) :=
  ⟨Wit.ready, { poison := true }, by decide⟩
theorem wit_Packets_to_memory_and_strays_27 : ∃ (s : State) (p : Pkt), (s.outOfTurn p = false) ∧ (s.unroutable p = true) :=
  ⟨Wit.ready, { dstNode := 34 }, by decide⟩
theorem wit_Packets_to_memory_and_strays_28 : ∃ (s : State) (p : Pkt), (s.outOfTurn p = false) ∧ (s.unroutable p = false) ∧ (badPkt p = true) :=
  ⟨Wit.ready, { poison := true }, by decide⟩
theorem wit_Packets_to_memory_and_strays_29 : ∃ (s : State) (p : Pkt), (s.outOfTurn p = false) ∧ (s.unroutable p = true) :=
  ⟨Wit.ready, { dstNode := 34 }, by decide⟩
theorem wit_Packets_to_memory_and_strays_30 : ∃ (s : State) (p : Pkt), (s.outOfTurn p = false) ∧ (s.unroutable p = false) ∧ (badPkt p = true) :=
  ⟨Wit.ready, { poison := true }, by decide⟩
theorem wit_Packets_to_memory_and_strays_31 : ∃ (s : State) (p : Pkt), (s.outOfTurn p = false) ∧ (s.unroutable p = true) :=
  ⟨Wit.ready, { dstNode := 34 }, by decide⟩
theorem wit_Packets_to_memory_and_strays_32 : ∃ (s : State) (p : Pkt), (s.outOfTurn p = false) ∧ (s.unroutable p = false) ∧ (badPkt p = true) :=
  ⟨Wit.ready, { poison := true }, by decide⟩
theorem wit_Packets_to_memory_and_strays_33 : ∃ (s : State) (p : Pkt), (s.outOfTurn p = false) ∧ (s.unroutable p = true) :=
  ⟨Wit.ready, { dstNode := 34 }, by decide⟩
theorem wit_Packets_to_memory_and_strays_34 : ∃ (s : State) (p : Pkt), (s.outOfTurn p = false) ∧ (s.unroutable p = false) ∧ (badPkt p = true) :=
  ⟨Wit.ready, { poison := true }, by decide⟩
theorem wit_Packets_to_memory_and_strays_35 : ∃ (s : State) (p : Pkt), (s.outOfTurn p = false) ∧ (s.unroutable p = true) :=
  ⟨Wit.ready, { dstNode := 34 }, by decide⟩
theorem wit_Packets_to_memory_and_strays_36 : ∃ (s : State) (p : Pkt), (s.outOfTurn p = false) ∧ (s.unroutable p = false) ∧ (badPkt p = true) :=
  ⟨Wit.ready, { poison := true }, by decide⟩
theorem wit_Packets_to_memory_and_strays_37 : ∃ (s : State) (d : Die), ((s.aboard.any fun p => (s.lanesOf p).any fun l => l / 768 == d.val) = false) :=
  ⟨State.reset, 0, by decide⟩
theorem wit_Packets_to_memory_and_strays_38 : ∃ (s : State) (d : Die), ((s.aboard.any fun p => (s.lanesOf p).any fun l => l / 768 == d.val) = true) :=
  ⟨{ State.reset with fb.net := [{ dstBoard := 1 }] }, 0, by decide⟩
theorem wit_Link_frames_0 : ∃ (s : State) (l : LinkEnd) (fr : LinkFrame), (2 ≤ s.linkState (endKey l)) ∧ (fr.crcOk = false) :=
  ⟨Wit.linkUp, .hub 1 8, { crcOk := false }, by decide⟩
theorem wit_Link_frames_1 : ∃ (s : State) (l : LinkEnd) (fr : LinkFrame), (2 ≤ s.linkState (endKey l)) ∧ (fr.crcOk = true) ∧ (fr.idle = true) :=
  ⟨Wit.linkUp, .hub 1 8, { idle := true, credits := [1] }, by decide⟩
theorem wit_Link_frames_2 : ∃ (s : State) (l : LinkEnd) (fr : LinkFrame), (2 ≤ s.linkState (endKey l)) ∧ (fr.crcOk = true) ∧ (fr.idle = false) ∧ (fr.seq = (s.link (endKey l)).rxSeq) ∧ (fr.through = none) :=
  ⟨Wit.linkUp, .hub 1 8, {}, by decide⟩
theorem wit_Link_frames_3 : ∃ (s : State) (l : LinkEnd) (fr : LinkFrame) (n : Nat), (2 ≤ s.linkState (endKey l)) ∧ (fr.crcOk = true) ∧ (fr.idle = false) ∧ (fr.seq = (s.link (endKey l)).rxSeq) ∧ (fr.through = some n) :=
  ⟨Wit.linkUp, .hub 1 8, { through := some 0 }, 0, by decide⟩
theorem wit_Link_frames_4 : ∃ (s : State) (l : LinkEnd) (fr : LinkFrame), (2 ≤ s.linkState (endKey l)) ∧ (fr.crcOk = true) ∧ (fr.idle = false) ∧ (fr.seq ≠ (s.link (endKey l)).rxSeq) ∧ (frameBefore fr.seq (s.link (endKey l)).rxSeq = true) :=
  ⟨Wit.linkUp, .hub 1 8, { seq := 4095 }, by decide⟩
theorem wit_Link_frames_5 : ∃ (s : State) (l : LinkEnd) (fr : LinkFrame), (2 ≤ s.linkState (endKey l)) ∧ (fr.crcOk = true) ∧ (fr.idle = false) ∧ (fr.seq ≠ (s.link (endKey l)).rxSeq) ∧ (frameBefore fr.seq (s.link (endKey l)).rxSeq = false) :=
  ⟨Wit.linkUp, .hub 1 8, { seq := 1 }, by decide⟩
theorem wit_Link_frames_6 : ∃ (s : State) (l : LinkEnd), (s.linkState (endKey l) < 2) :=
  ⟨State.reset, .hub 1 8, by decide⟩
theorem wit_Link_frames_7 : ∃ (s : State) (l : LinkEnd), (2 ≤ s.linkState (endKey l)) ∧ ((s.link (endKey l)).lastTx + 1000 ≤ s.now) :=
  ⟨{ Wit.linkUp with now := 1000 }, .hub 1 8, by decide⟩
theorem wit_Link_frames_8 : ∃ (s : State) (l : LinkEnd), (s.now < (s.link (endKey l)).lastTx + 1000) :=
  ⟨State.reset, .hub 1 8, by decide⟩
theorem wit_Link_frames_9 : ∃ (s : State) (l : LinkEnd), (2 ≤ s.linkState (endKey l)) ∧ ((s.link (endKey l)).lastRx + 16000 ≤ s.now) :=
  ⟨{ Wit.linkUp with now := 16000 }, .hub 1 8, by decide⟩
theorem wit_Link_frames_10 : ∃ (s : State) (l : LinkEnd), (s.now < (s.link (endKey l)).lastRx + 16000) :=
  ⟨State.reset, .hub 1 8, by decide⟩
theorem wit_Link_training_and_routes_3 : ∃ (s : State) (l : LinkEnd), (s.linkState (endKey l) = 1) :=
  ⟨Wit.linkTrain, .hub 1 8, by decide⟩
theorem wit_Link_training_and_routes_4 : ∃ (s : State) (l : LinkEnd), (s.linkState (endKey l) = 1) :=
  ⟨Wit.linkTrain, .hub 1 8, by decide⟩
theorem wit_Link_training_and_routes_5 : ∃ (s : State) (l : LinkEnd), (s.linkState (endKey l) = 1) :=
  ⟨Wit.linkTrain, .hub 1 8, by decide⟩
theorem wit_Link_training_and_routes_6 : ∃ (s : State) (l : LinkEnd), ((s.link (endKey l)).downAt.isSome = true) :=
  ⟨Wit.linkGone, .hub 1 8, by decide⟩
theorem wit_Link_training_and_routes_7 : ∃ (s : State) (l : LinkEnd), ((s.link (endKey l)).downAt = none) :=
  ⟨State.reset, .hub 1 8, by decide⟩
theorem wit_Link_training_and_routes_8 : ∃ (s : State) (l : LinkEnd), (s.fb.fences.contains (endKey l) = true) ∧ ((s.link (endKey l)).retry = []) :=
  ⟨Wit.fence, .hub 1 8, by decide⟩
theorem wit_Link_training_and_routes_9 : ∃ (s : State) (l : LinkEnd), (s.fb.fences.contains (endKey l) = false ∨ (s.link (endKey l)).retry ≠ []) :=
  ⟨State.reset, .hub 1 8, by decide⟩
theorem wit_Link_training_and_routes_10 : ∃ (s : State) (h : Hub), (s.sv.fenced.getD h false = false) :=
  ⟨State.reset, 0, by decide⟩
theorem wit_Link_training_and_routes_11 : ∃ (s : State) (h : Hub), (s.sv.fenced.getD h false = true) :=
  ⟨Wit.copies, 0, by decide⟩
theorem wit_Memory_maintenance_0 : ∃ (s : State) (d : Die), ((s.die d).on = true) :=
  ⟨Wit.dieOn, 31, by decide⟩
theorem wit_Memory_maintenance_1 : ∃ (s : State) (d : Die), ((s.die d).on = true) :=
  ⟨Wit.dieOn, 31, by decide⟩
theorem wit_Memory_maintenance_2 : ∃ (s : State) (d : Die), ((s.die d).on = true) :=
  ⟨Wit.dieOn, 31, by decide⟩
theorem wit_Memory_maintenance_3 : ∃ (s : State) (d : Die) (e : EccErr), ((s.die d).on = false ∨ e = .clean) :=
  ⟨State.reset, 0, .clean, by decide⟩
theorem wit_Memory_maintenance_4 : ∃ (s : State) (h : Hub) (blk : Nat), (blk < 0xF800000) ∧ ((s.chan (chanOf (256 * (h.val * 0x10000000 + blk)))).failed = false) :=
  ⟨State.reset, 1, 0xF7FFFFF, by decide +kernel⟩
theorem wit_Memory_maintenance_5 : ∃ (s : State) (h : Hub) (blk : Nat), (blk < 0xF800000) ∧ ((s.chan (chanOf (256 * (h.val * 0x10000000 + blk)))).failed = false) :=
  ⟨State.reset, 1, 0xF7FFFFF, by decide +kernel⟩
theorem wit_Memory_maintenance_9 : ∃ (s : State) (g : Fin 4096) (n : Nat), ((s.ring g).lone = some n) ∧ (s.sv.alive.getD (1 - n) false = true) ∧ (s.chanFailed (1 - n) = false) ∧ (s.chanFailed n = false) :=
  ⟨Wit.lone, 4095, 0, by decide⟩
theorem wit_Memory_maintenance_10 : ∃ (s : State) (g : Fin 4096) (n : Nat), ((s.ring g).lone = some n) ∧ (s.sv.alive.getD (1 - n) false = false ∨ s.chanFailed (1 - n) = true ∨ s.chanFailed n = true) :=
  ⟨{ Wit.lone with sv.alive := [true, false] }, 4095, 0, by decide⟩
theorem wit_Plane_close_and_frame_moves_0 : ∃ (s : State) (d : Die) (b : Brd) (f : Frm) (p : Prg), (s.pstate = 2) ∧ ((s.frame (frameKey d b f)).prg = some p) ∧ (p.row = 512) ∧ (p.paused = false) ∧ (p.granted = true) ∧ (p.paid = false) ∧ (p.waits = false) ∧ (s.canDraw d p.prio 34000 = true) ∧ (s.loadingSlot (frameKey d b f) = none) ∧ (s.repairOf (frameKey d b f) = none) :=
  ⟨Wit.closing, 31, 191, 33, Wit.closed, by decide +kernel⟩
theorem wit_Plane_close_and_frame_moves_1 : ∃ (s : State) (d : Die) (b : Brd) (f : Frm) (p : Prg), (s.pstate = 2) ∧ ((s.frame (frameKey d b f)).prg = some p) ∧ (p.row = 512) ∧ (p.paused = false) ∧ (p.granted = true) ∧ (p.paid = false) ∧ (p.waits = false) ∧ (s.canDraw d p.prio 34000 = true) ∧ (s.loadingSlot (frameKey d b f) = none) ∧ (s.repairOf (frameKey d b f) = none) :=
  ⟨Wit.closing, 31, 191, 33, Wit.closed, by decide +kernel⟩
theorem wit_Plane_close_and_frame_moves_2 : ∃ (s : State) (d : Die) (b : Brd) (f : Frm) (p : Prg), (s.pstate = 2) ∧ ((s.frame (frameKey d b f)).prg = some p) ∧ (p.row = 512) ∧ (p.paused = false) ∧ (p.granted = true) ∧ (p.paid = true) ∧ (s.loadingSlot (frameKey d b f) = none) ∧ (s.repairOf (frameKey d b f) = none) :=
  ⟨Wit.paidClosing, 31, 191, 33, { Wit.closed with waits := true, paid := true }, by decide +kernel⟩
theorem wit_Plane_close_and_frame_moves_3 : ∃ (s : State) (d : Die) (b : Brd) (f : Frm) (p : Prg), (s.pstate = 2) ∧ ((s.frame (frameKey d b f)).prg = some p) ∧ (p.row = 512) ∧ (p.paused = false) ∧ (p.granted = true) ∧ (p.paid = false) ∧ (p.waits = false) ∧ (s.canDraw d p.prio 34000 = false) :=
  ⟨Wit.poorClosing, 31, 191, 33, Wit.closed, by decide +kernel⟩
theorem wit_Plane_close_and_frame_moves_4 : ∃ (s : State) (d : Die) (b : Brd) (f : Frm), (s.sourceOf (frameKey d b f) = none) ∧ (s.inService (frameKey d b f) = true) ∧ ((s.frame (frameKey d b f)).st = .idle ∨ (s.frame (frameKey d b f)).st = .stroking) ∧ (s.switching (s.homeOf (frameKey d b f) / 34) = false) ∧ ((s.frame (frameKey d b f)).damaged = [] ∨ s.residentOf (frameKey d b f) = true) ∧ ((s.frame (frameKey d b f)).migrate = true) ∧ (s.fswRoom (s.homeOf (frameKey d b f)) = true) :=
  ⟨Wit.migrate, 31, 191, 33, by decide⟩
theorem wit_Plane_close_and_frame_moves_5 : ∃ (s : State) (d : Die) (b : Brd) (f : Frm), (s.sourceOf (frameKey d b f) = none) ∧ (s.inService (frameKey d b f) = true) ∧ ((s.frame (frameKey d b f)).st = .idle ∨ (s.frame (frameKey d b f)).st = .stroking) ∧ (s.switching (s.homeOf (frameKey d b f) / 34) = false) ∧ ((s.frame (frameKey d b f)).damaged ≠ []) ∧ (s.residentOf (frameKey d b f) = false) :=
  ⟨Wit.damaged, 31, 191, 33, by decide⟩
theorem wit_Plane_close_and_frame_moves_6 : ∃ (s : State) (d : Die) (b : Brd) (f : Frm), (s.sourceOf (frameKey d b f) = none) ∧ (s.inService (frameKey d b f) = true) ∧ ((s.frame (frameKey d b f)).st = .idle ∨ (s.frame (frameKey d b f)).st = .stroking) ∧ (s.switching (s.homeOf (frameKey d b f) / 34) = false) ∧ ((s.frame (frameKey d b f)).damaged = [] ∨ s.residentOf (frameKey d b f) = true) ∧ ((s.frame (frameKey d b f)).marks ≠ []) ∧ (s.sv.recount.getD 2 256 ≤ (s.frame (frameKey d b f)).marks.length) ∧ (s.fswRoom (s.homeOf (frameKey d b f)) = false) :=
  ⟨Wit.noRoom, 31, 191, 33, by decide +kernel⟩
theorem wit_Plane_close_and_frame_moves_7 : ∃ (s : State) (d : Die) (b : Brd) (f : Frm), (s.sourceOf (frameKey d b f) = none) ∧ ((s.frame (frameKey d b f)).migrate = false) ∧ ((s.frame (frameKey d b f)).marks = []) ∧ ((s.frame (frameKey d b f)).damaged = []) :=
  ⟨State.reset, 31, 191, 33, by decide⟩
theorem wit_Plane_close_and_frame_moves_8 : ∃ (s : State) (d : Die) (b : Brd) (f : Frm) (r : Repair), (s.sourceOf (frameKey d b f) = some r) :=
  ⟨{ State.reset with sv.repairs := [Wit.repair] }, 31, 191, 33, Wit.repair, by decide⟩
theorem wit_Plane_close_and_frame_moves_9 : ∃ (s : State) (d : Die) (b : Brd) (f : Frm), ((s.frame (frameKey d b f)).diagnose = true) ∧ ((s.frame (frameKey d b f)).st ≠ .retired) ∧ ((s.frame (frameKey d b f)).placed = none) :=
  ⟨Wit.frm { diagnose := true }, 31, 191, 33, by decide⟩
theorem wit_Plane_close_and_frame_moves_10 : ∃ (s : State) (d : Die) (b : Brd) (f : Frm) (n : Nat) (r : Repair), ((s.frame (frameKey d b f)).diagnose = true) ∧ ((s.frame (frameKey d b f)).st ≠ .retired) ∧ ((s.frame (frameKey d b f)).placed = some n) ∧ (((s.toRepair (frameKey d b f)).setFrame (frameKey d b f) { (s.toRepair (frameKey d b f)).frame (frameKey d b f) with covered := (s.frame (frameKey d b f)).placed.isSome && (s.toRepair (frameKey d b f)).residentOf (frameKey d b f) }).sourceOf (frameKey d b f) = some r) :=
  ⟨{ Wit.faulty with sv.repairs := [Wit.repair] }, 31, 191, 33, 3, Wit.repair, by decide +kernel⟩
theorem wit_Plane_close_and_frame_moves_11 : ∃ (s : State) (d : Die) (b : Brd) (f : Frm) (n : Nat), ((s.frame (frameKey d b f)).diagnose = true) ∧ ((s.frame (frameKey d b f)).st ≠ .retired) ∧ ((s.frame (frameKey d b f)).placed = some n) ∧ (((s.toRepair (frameKey d b f)).setFrame (frameKey d b f) { (s.toRepair (frameKey d b f)).frame (frameKey d b f) with covered := (s.frame (frameKey d b f)).placed.isSome && (s.toRepair (frameKey d b f)).residentOf (frameKey d b f) }).sourceOf (frameKey d b f) = none) ∧ ((((s.toRepair (frameKey d b f)).setFrame (frameKey d b f) { (s.toRepair (frameKey d b f)).frame (frameKey d b f) with covered := (s.frame (frameKey d b f)).placed.isSome && (s.toRepair (frameKey d b f)).residentOf (frameKey d b f) }).residentOf (frameKey d b f) || !((s.frame (frameKey d b f)).fault && [3, 4, 5].contains (s.frame (frameKey d b f)).faultCode)) = true) ∧ (((s.toRepair (frameKey d b f)).setFrame (frameKey d b f) { (s.toRepair (frameKey d b f)).frame (frameKey d b f) with covered := (s.frame (frameKey d b f)).placed.isSome && (s.toRepair (frameKey d b f)).residentOf (frameKey d b f) }).switching (((s.toRepair (frameKey d b f)).setFrame (frameKey d b f) { (s.toRepair (frameKey d b f)).frame (frameKey d b f) with covered := (s.frame (frameKey d b f)).placed.isSome && (s.toRepair (frameKey d b f)).residentOf (frameKey d b f) }).homeOf (frameKey d b f) / 34) = false) ∧ (((s.toRepair (frameKey d b f)).setFrame (frameKey d b f) { (s.toRepair (frameKey d b f)).frame (frameKey d b f) with covered := (s.frame (frameKey d b f)).placed.isSome && (s.toRepair (frameKey d b f)).residentOf (frameKey d b f) }).repairOf (frameKey d b f) = none) ∧ (((s.toRepair (frameKey d b f)).setFrame (frameKey d b f) { (s.toRepair (frameKey d b f)).frame (frameKey d b f) with covered := (s.frame (frameKey d b f)).placed.isSome && (s.toRepair (frameKey d b f)).residentOf (frameKey d b f) }).fswRoom (((s.toRepair (frameKey d b f)).setFrame (frameKey d b f) { (s.toRepair (frameKey d b f)).frame (frameKey d b f) with covered := (s.frame (frameKey d b f)).placed.isSome && (s.toRepair (frameKey d b f)).residentOf (frameKey d b f) }).homeOf (frameKey d b f)) = true) :=
  ⟨Wit.faulty, 31, 191, 33, 3, by decide +kernel⟩
theorem wit_Plane_close_and_frame_moves_12 : ∃ (s : State) (d : Die) (b : Brd) (f : Frm) (n : Nat), ((s.frame (frameKey d b f)).diagnose = true) ∧ ((s.frame (frameKey d b f)).st ≠ .retired) ∧ ((s.frame (frameKey d b f)).placed = some n) ∧ (((s.toRepair (frameKey d b f)).setFrame (frameKey d b f) { (s.toRepair (frameKey d b f)).frame (frameKey d b f) with covered := (s.frame (frameKey d b f)).placed.isSome && (s.toRepair (frameKey d b f)).residentOf (frameKey d b f) }).sourceOf (frameKey d b f) = none) ∧ ((((s.toRepair (frameKey d b f)).setFrame (frameKey d b f) { (s.toRepair (frameKey d b f)).frame (frameKey d b f) with covered := (s.frame (frameKey d b f)).placed.isSome && (s.toRepair (frameKey d b f)).residentOf (frameKey d b f) }).residentOf (frameKey d b f) || !((s.frame (frameKey d b f)).fault && [3, 4, 5].contains (s.frame (frameKey d b f)).faultCode)) = true) ∧ (((s.toRepair (frameKey d b f)).setFrame (frameKey d b f) { (s.toRepair (frameKey d b f)).frame (frameKey d b f) with covered := (s.frame (frameKey d b f)).placed.isSome && (s.toRepair (frameKey d b f)).residentOf (frameKey d b f) }).switching (((s.toRepair (frameKey d b f)).setFrame (frameKey d b f) { (s.toRepair (frameKey d b f)).frame (frameKey d b f) with covered := (s.frame (frameKey d b f)).placed.isSome && (s.toRepair (frameKey d b f)).residentOf (frameKey d b f) }).homeOf (frameKey d b f) / 34) = false) ∧ (((s.toRepair (frameKey d b f)).setFrame (frameKey d b f) { (s.toRepair (frameKey d b f)).frame (frameKey d b f) with covered := (s.frame (frameKey d b f)).placed.isSome && (s.toRepair (frameKey d b f)).residentOf (frameKey d b f) }).repairOf (frameKey d b f) = none) ∧ (((s.toRepair (frameKey d b f)).setFrame (frameKey d b f) { (s.toRepair (frameKey d b f)).frame (frameKey d b f) with covered := (s.frame (frameKey d b f)).placed.isSome && (s.toRepair (frameKey d b f)).residentOf (frameKey d b f) }).fswRoom (((s.toRepair (frameKey d b f)).setFrame (frameKey d b f) { (s.toRepair (frameKey d b f)).frame (frameKey d b f) with covered := (s.frame (frameKey d b f)).placed.isSome && (s.toRepair (frameKey d b f)).residentOf (frameKey d b f) }).homeOf (frameKey d b f)) = false) :=
  ⟨Wit.noRoom.setFrame (frameKey 31 191 33) { placed := some 3, diagnose := true }, 31, 191, 33, 3, by decide +kernel⟩
theorem wit_Plane_close_and_frame_moves_13 : ∃ (s : State) (d : Die) (b : Brd) (f : Frm) (n : Nat), ((s.frame (frameKey d b f)).diagnose = true) ∧ ((s.frame (frameKey d b f)).st ≠ .retired) ∧ ((s.frame (frameKey d b f)).placed = some n) ∧ (((s.toRepair (frameKey d b f)).setFrame (frameKey d b f) { (s.toRepair (frameKey d b f)).frame (frameKey d b f) with covered := (s.frame (frameKey d b f)).placed.isSome && (s.toRepair (frameKey d b f)).residentOf (frameKey d b f) }).sourceOf (frameKey d b f) = none) ∧ ((((s.toRepair (frameKey d b f)).setFrame (frameKey d b f) { (s.toRepair (frameKey d b f)).frame (frameKey d b f) with covered := (s.frame (frameKey d b f)).placed.isSome && (s.toRepair (frameKey d b f)).residentOf (frameKey d b f) }).residentOf (frameKey d b f) || !((s.frame (frameKey d b f)).fault && [3, 4, 5].contains (s.frame (frameKey d b f)).faultCode)) = false ∨ ((s.toRepair (frameKey d b f)).setFrame (frameKey d b f) { (s.toRepair (frameKey d b f)).frame (frameKey d b f) with covered := (s.frame (frameKey d b f)).placed.isSome && (s.toRepair (frameKey d b f)).residentOf (frameKey d b f) }).switching (((s.toRepair (frameKey d b f)).setFrame (frameKey d b f) { (s.toRepair (frameKey d b f)).frame (frameKey d b f) with covered := (s.frame (frameKey d b f)).placed.isSome && (s.toRepair (frameKey d b f)).residentOf (frameKey d b f) }).homeOf (frameKey d b f) / 34) = true ∨ (((s.toRepair (frameKey d b f)).setFrame (frameKey d b f) { (s.toRepair (frameKey d b f)).frame (frameKey d b f) with covered := (s.frame (frameKey d b f)).placed.isSome && (s.toRepair (frameKey d b f)).residentOf (frameKey d b f) }).repairOf (frameKey d b f)).isSome = true) :=
  ⟨{ Wit.faulty with fb.switches := [{ Wit.sw with slot := 3, overlapped := false }] }, 31, 191, 33, 3, by decide +kernel⟩
theorem wit_Plane_close_and_frame_moves_14 : ∃ (s : State) (d : Die) (b : Brd) (f : Frm), ((s.frame (frameKey d b f)).diagnose = false ∨ (s.frame (frameKey d b f)).st = .retired) :=
  ⟨State.reset, 31, 191, 33, by decide⟩
theorem wit_Board_switches_0 : ∃ (s : State) (slot : Fin 64) (lb : Nat) (d : Die) (b : Brd) (k : Nat), ((s.score slot).boardOf lb = some k) ∧ ((s.score slot).st = 4) ∧ (s.switchOf slot lb = none) ∧ ((s.board k).failed = false) ∧ (s.moveOf k = none) ∧ (s.freeBoard (boardKey d b) = true) ∧ (keyDie (boardKey d b) = keyDie k) ∧ (s.soundBoard (s.score slot) k (boardKey d b) = true) ∧ (s.switching k = false) :=
  ⟨Wit.loaded, 63, 0, 31, 190, boardKey 31 191, by decide⟩
theorem wit_Board_switches_1 : ∃ (s : State) (slot : Fin 64) (lb : Nat) (d : Die) (b : Brd) (k : Nat) (r : Repair), ((s.score slot).boardOf lb = some k) ∧ ((s.score slot).st = 4) ∧ (s.switchOf slot lb = none) ∧ ((s.board k).failed = false) ∧ (s.moveOf k = some r) ∧ (r.target = (boardKey d b)) ∧ (r.todo = []) ∧ (progStrokes ((s.score slot).progOf lb) ≠ 0) ∧ (s.recordRoom (s.receivers slot lb).1 lb = true) :=
  ⟨Wit.prepared, 63, 0, 31, 190, boardKey 31 191, Wit.move31, by decide⟩
theorem wit_Board_switches_2 : ∃ (s : State) (slot : Fin 64) (lb k : Nat), ((s.score slot).boardOf lb = some k) ∧ ((s.score slot).st ≠ 4 ∨ (s.switchOf slot lb).isSome = true ∨ (s.board k).failed = true) :=
  ⟨Wit.loaded.setBoard (boardKey 31 191) { failed := true }, 63, 0, boardKey 31 191, by decide⟩
theorem wit_Board_switches_3 : ∃ (s : State) (slot : Fin 64) (lb : Nat) (d : Die) (b : Brd) (k : Nat) (r : Repair), ((s.score slot).boardOf lb = some k) ∧ ((s.score slot).st = 4) ∧ (s.switchOf slot lb = none) ∧ ((s.board k).failed = false) ∧ (s.moveOf k = some r) ∧ (r.target ≠ (boardKey d b) ∨ r.todo ≠ [] ∨ s.recordRoom (s.receivers slot lb).1 lb = false) :=
  ⟨Wit.prepared, 63, 0, 31, 189, boardKey 31 191, Wit.move31, by decide⟩
theorem wit_Board_switches_4 : ∃ (s : State) (slot : Fin 64) (lb : Nat) (d : Die) (b : Brd) (k : Nat), ((s.score slot).boardOf lb = some k) ∧ ((s.score slot).st = 4) ∧ (s.switchOf slot lb = none) ∧ (s.moveOf k = none) ∧ (s.freeBoard (boardKey d b) = true) ∧ (keyDie (boardKey d b) = keyDie k) ∧ (s.soundBoard (s.score slot) k (boardKey d b) = true) ∧ (s.switching k = false) :=
  ⟨Wit.loaded, 63, 0, 31, 190, boardKey 31 191, by decide⟩
theorem wit_Board_switches_5 : ∃ (s : State) (slot : Fin 64) (lb : Nat) (d : Die) (b : Brd) (k : Nat) (r : Repair), ((s.score slot).boardOf lb = some k) ∧ ((s.score slot).st = 4) ∧ (s.switchOf slot lb = none) ∧ (s.moveOf k = some r) ∧ (r.target = (boardKey d b)) ∧ (r.todo = []) :=
  ⟨Wit.prepared, 63, 0, 31, 190, boardKey 31 191, Wit.move31, by decide⟩
theorem wit_Board_switches_6 : ∃ (s : State) (slot : Fin 64) (lb : Nat) (d : Die) (b : Brd) (w : Switch), (s.switchOf slot lb = some w) ∧ (w.overlapped = false) ∧ (w.new = (boardKey d b)) ∧ (w.copied = false) ∧ (w.drop = false) ∧ (s.drained w.old = true) :=
  ⟨{ Wit.loaded with fb.switches := [{ Wit.sw with overlapped := false }] }, 63, 0, 31, 190, { Wit.sw with overlapped := false }, by decide⟩
theorem wit_Board_switches_7 : ∃ (s : State) (slot : Fin 64) (lb : Nat) (d : Die) (b : Brd) (w : Switch), (s.switchOf slot lb = some w) ∧ (w.overlapped = false) ∧ (w.new = (boardKey d b)) ∧ (w.copied = false) ∧ (w.drop = false) ∧ (s.drained w.old = false) :=
  ⟨({ Wit.loaded with fb.switches := [{ Wit.sw with overlapped := false }] } : State).setBoard (boardKey 31 191) { cur := some {} }, 63, 0, 31, 190, { Wit.sw with overlapped := false }, by decide⟩
theorem wit_Board_switches_8 : ∃ (s : State) (slot : Fin 64) (lb : Nat) (d : Die) (b : Brd) (w : Switch), (s.switchOf slot lb = some w) ∧ (w.overlapped = false) ∧ (w.new = (boardKey d b)) ∧ (w.copied = false) ∧ (w.drop = true) ∧ (w.sent = false) ∧ (s.recordRoom (s.receivers slot lb).1 lb = true) :=
  ⟨{ Wit.loaded with fb.switches := [{ Wit.sw with overlapped := false, drop := true, sent := false }] }, 63, 0, 31, 190, { Wit.sw with overlapped := false, drop := true, sent := false }, by decide⟩
theorem wit_Board_switches_9 : ∃ (s : State) (slot : Fin 64) (lb : Nat) (d : Die) (b : Brd) (w : Switch), (s.switchOf slot lb = some w) ∧ (w.overlapped = true ∨ w.new ≠ (boardKey d b) ∨ w.copied = true) :=
  ⟨{ Wit.loaded with fb.switches := [Wit.sw] }, 63, 0, 31, 190, Wit.sw, by decide⟩
theorem wit_Board_switches_10 : ∃ (s : State) (slot : Fin 64) (lb : Nat) (w : Switch), (s.switchOf slot lb = some w) ∧ (w.overlapped = true) ∧ (w.copied = false) ∧ (w.acks = 0) ∧ (w.sent = true) ∧ (w.skip = 0) ∧ (s.quiet w.old = true) ∧ (atOrAfter (s.board w.old).q w.s = true) :=
  ⟨{ Wit.loaded with fb.switches := [Wit.sw] }, 63, 0, Wit.sw, by decide⟩
theorem wit_Board_switches_11 : ∃ (s : State) (slot : Fin 64) (lb : Nat) (w : Switch), (s.switchOf slot lb = some w) ∧ (w.copied = true) ∧ (s.inFabric.any (fun (p : Pkt) => pktSrc p == w.old && p.lsrc == lb) = false) ∧ ((s.boards.any fun e => e.2.heldC.any (fun (p : Pkt) => pktSrc p == w.old && p.lsrc == lb)) = false) ∧ (s.fb.fences = []) ∧ (w.drop = false ∨ w.at_ + 1000000 ≤ s.now) :=
  ⟨{ Wit.loaded with fb.switches := [{ Wit.sw with copied := true }] }, 63, 0, { Wit.sw with copied := true }, by decide⟩
theorem wit_Board_switches_12 : ∃ (s : State) (slot : Fin 64) (lb : Nat) (w : Switch), (s.switchOf slot lb = some w) ∧ (w.copied = false ∨ s.inFabric.any (fun (p : Pkt) => pktSrc p == w.old && p.lsrc == lb) = true ∨ (s.boards.any fun e => e.2.heldC.any (fun (p : Pkt) => pktSrc p == w.old && p.lsrc == lb)) = true ∨ s.fb.fences ≠ [] ∨ (w.drop = true ∧ s.now < w.at_ + 1000000)) :=
  ⟨{ Wit.loaded with fb.switches := [Wit.sw] }, 63, 0, Wit.sw, by decide⟩
theorem wit_Board_repair_and_die_loss_0 : ∃ (s : State) (d : Die) (b : Brd), ((s.die d).on = true) ∧ ((s.board (boardKey d b)).move = true) ∧ ((s.board (boardKey d b)).failed = false) ∧ ((s.board (boardKey d b)).score.isSome = true) :=
  ⟨Wit.boardOn { move := true, score := some 3 }, 31, 191, by decide⟩
theorem wit_Board_repair_and_die_loss_1 : ∃ (s : State) (d : Die) (b : Brd), ((s.die d).on = true) ∧ ((s.board (boardKey d b)).failed = true) ∧ ((s.board (boardKey d b)).score = none) ∧ (s.disabled (mapBoard (boardKey d b)) = false) :=
  ⟨Wit.boardOn { failed := true }, 31, 191, by decide⟩
theorem wit_Board_repair_and_die_loss_2 : ∃ (s : State) (d : Die) (b : Brd), ((s.die d).on = true) ∧ ((s.board (boardKey d b)).move = false) ∧ ((s.board (boardKey d b)).failed = false) ∧ ((s.board (boardKey d b)).score = none) :=
  ⟨Wit.boardOn {}, 31, 191, by decide⟩
theorem wit_Board_repair_and_die_loss_3 : ∃ (s : State) (d : Die), ((s.die d).on = false) :=
  ⟨State.reset, 31, by decide⟩
theorem wit_Board_repair_and_die_loss_4 : ∃ (s : State) (d : Die) (b : Brd) (n : Nat) (u w : State) (k : Nat), ((s.die d).on = true) ∧ ((s.board (boardKey d b)).failed = true) ∧ ((s.board (boardKey d b)).score = some n) ∧ (u = (s.failBoard (boardKey d b)).failScore n 0x0507 false) ∧ ((u.die d).boardFails.length ≤ 8) ∧ (w = { u with fb.switches := u.fb.switches.filter fun v => !(v.slot == n && v.lb == (s.board (boardKey d b)).lb && !v.copied) }) ∧ (w.reserveBoard (boardKey d b) = some k) ∧ ((w.score n).resident = true) ∧ (((homes (w.score n)).all fun h => h.1 / 34 != (boardKey d b) || w.residentOf ((w.score n).frameAt (boardKey d b) (h.1 % 34))) = true) :=
  ⟨Wit.failedBoard, 31, 191, 3, Wit.failedOnce, Wit.failedNext, Wit.reserve, by decide +kernel, by decide +kernel, by decide +kernel, rfl, by decide +kernel, rfl, by decide +kernel⟩
theorem wit_Board_repair_and_die_loss_5 : ∃ (s : State) (d : Die) (b : Brd) (n : Nat) (u w : State) (k : Nat), ((s.die d).on = true) ∧ ((s.board (boardKey d b)).failed = true) ∧ ((s.board (boardKey d b)).score = some n) ∧ (u = (s.failBoard (boardKey d b)).failScore n 0x0507 false) ∧ ((u.die d).boardFails.length ≤ 8) ∧ (w = { u with fb.switches := u.fb.switches.filter fun v => !(v.slot == n && v.lb == (s.board (boardKey d b)).lb && !v.copied) }) ∧ (w.reserveBoard (boardKey d b) = some k) ∧ (((w.score n).resident && (homes (w.score n)).all fun h => h.1 / 34 != (boardKey d b) || w.residentOf ((w.score n).frameAt (boardKey d b) (h.1 % 34))) = false) :=
  ⟨Wit.failedGone, 31, 191, 3, Wit.goneOnce, Wit.goneNext, (Wit.goneNext.reserveBoard (boardKey 31 191)).getD 0, by decide +kernel, by decide +kernel, by decide +kernel, rfl, by decide +kernel, rfl, by decide +kernel⟩
theorem wit_Board_repair_and_die_loss_6 : ∃ (s : State) (d : Die) (b : Brd), ((s.die d).on = true) ∧ ((s.board (boardKey d b)).move = true) ∧ ((s.board (boardKey d b)).failed = false) ∧ ((s.board (boardKey d b)).score = none) :=
  ⟨Wit.boardOn { move := true }, 31, 191, by decide⟩
theorem wit_Board_repair_and_die_loss_7 : ∃ (s : State) (d : Die) (b : Brd) (n : Nat) (u w : State), ((s.die d).on = true) ∧ ((s.board (boardKey d b)).failed = true) ∧ ((s.board (boardKey d b)).score = some n) ∧ (u = (s.failBoard (boardKey d b)).failScore n 0x0507 false) ∧ ((u.die d).boardFails.length ≤ 8) ∧ (w = { u with fb.switches := u.fb.switches.filter fun v => !(v.slot == n && v.lb == (s.board (boardKey d b)).lb && !v.copied) }) ∧ (w.reserveBoard (boardKey d b) = none) :=
  ⟨Wit.lastBoard, 31, 191, 3, Wit.lastOnce, Wit.lastNext, by decide +kernel, by decide +kernel, by decide +kernel, rfl, by decide +kernel, rfl, by decide +kernel⟩
theorem wit_Board_repair_and_die_loss_8 : ∃ (s : State) (d : Die) (b : Brd) (n : Nat) (u : State), ((s.die d).on = true) ∧ ((s.board (boardKey d b)).failed = true) ∧ ((s.board (boardKey d b)).score = some n) ∧ (u = (s.failBoard (boardKey d b)).failScore n 0x0507 false) ∧ (8 < (u.die d).boardFails.length) :=
  ⟨Wit.ninthBoard, 31, 191, 3, Wit.ninthOnce, by decide +kernel, by decide +kernel, by decide +kernel, rfl, by decide +kernel⟩
theorem wit_Board_repair_and_die_loss_9 : ∃ (s : State) (d : Die), ((s.die d).lost = true) :=
  ⟨State.reset.setDie 31 { lost := true }, 31, by decide⟩
theorem wit_Device_commands_0 : ∃ (s : State) (r : Req), Instr.admitted (.devInfo r) s :=
  ⟨Wit.user, (Wit.req []), (Instr.admitted_iff _ rfl).2 (by decide +kernel)⟩
theorem wit_Device_commands_1 : ∃ (s : State) (r : Req), Instr.admitted (.devState r) s :=
  ⟨Wit.user, (Wit.req []), (Instr.admitted_iff _ rfl).2 (by decide +kernel)⟩
theorem wit_Device_commands_2 : ∃ (s : State) (r : Req), Instr.admitted (.devPower r) s ∧ (argw r 1 < 2 ∨ 4 < argw r 1) :=
  ⟨Wit.user, (Wit.req [5]), (Instr.admitted_iff _ rfl).2 (by decide +kernel), by decide +kernel⟩
theorem wit_Device_commands_3 : ∃ (s : State) (r : Req), Instr.admitted (.devPower r) s ∧ (2 ≤ argw r 1) ∧ (argw r 1 ≤ 4) ∧ (s.pstate = 1 ∨ s.pw.failN = true) :=
  ⟨{ Wit.user with pw.failN := true }, (Wit.req [3]), (Instr.admitted_iff _ rfl).2 (by decide +kernel), by decide +kernel⟩
theorem wit_Device_commands_4 : ∃ (s : State) (r : Req), Instr.admitted (.devPower r) s ∧ s.takesEntry ∧ (argw r 1 = 2) ∧ (s.pstate = 2) ∧ (s.pw.failN = false) :=
  ⟨Wit.user, (Wit.req [2]), (Instr.admitted_iff _ rfl).2 (by decide +kernel), ⟨by decide +kernel, by decide +kernel⟩, by decide +kernel⟩
theorem wit_Device_commands_5 : ∃ (s : State) (r : Req), Instr.admitted (.devPower r) s ∧ s.takesEntry ∧ (argw r 1 = 3) ∧ (s.pstate = 2) ∧ (s.pw.failN = false) :=
  ⟨Wit.user, (Wit.req [3]), (Instr.admitted_iff _ rfl).2 (by decide +kernel), ⟨by decide +kernel, by decide +kernel⟩, by decide +kernel⟩
theorem wit_Device_commands_6 : ∃ (s : State) (r : Req), Instr.admitted (.devPower r) s ∧ s.takesEntry ∧ (argw r 1 = 4) ∧ (s.pstate = 2) ∧ (s.pw.failN = false) :=
  ⟨Wit.user, (Wit.req [4]), (Instr.admitted_iff _ rfl).2 (by decide +kernel), ⟨by decide +kernel, by decide +kernel⟩, by decide +kernel⟩
theorem wit_Device_commands_7 : ∃ (s : State) (r : Req), Instr.admitted (.devReset r) s ∧ (argw r 1 ≠ 0x52535421) :=
  ⟨Wit.user, (Wit.req [3]), (Instr.admitted_iff _ rfl).2 (by decide +kernel), by decide +kernel⟩
theorem wit_Device_commands_8 : ∃ (s : State) (r : Req), Instr.admitted (.devReset r) s ∧ s.takesEntry ∧ (argw r 1 = 0x52535421) :=
  ⟨Wit.user, (Wit.req [1381192737]), (Instr.admitted_iff _ rfl).2 (by decide +kernel), ⟨by decide +kernel, by decide +kernel⟩, by decide +kernel⟩
theorem wit_Device_commands_9 : ∃ (s : State) (r : Req), Instr.admitted (.devPort r) s ∧ s.takesEntry ∧ (s.gated r.src 5 1 = false) ∧ (argw r 1 < 2) ∧ (argw r 2 / 2 ^ 23 = 0) ∧ (argw r 2 % 4 ≠ 3) :=
  ⟨Wit.user, (Wit.req [0, 0, 0, 0]), (Instr.admitted_iff _ rfl).2 (by decide +kernel), ⟨by decide +kernel, by decide +kernel⟩, by decide +kernel⟩
theorem wit_Device_commands_10 : ∃ (s : State) (r : Req) (h : Hub) (n : Fin 16), Instr.admitted (.devEvents r) s ∧ (r.src = .session h n) :=
  ⟨Wit.user, (Wit.req [5]), 0, 1, (Instr.admitted_iff _ rfl).2 (by decide +kernel), by decide +kernel⟩
theorem wit_Log_and_journal_commands_0 : ∃ (s : State) (r : Req), Instr.admitted (.logRead r) s ∧ (s.sink (argw r 3) (32 * argw r 2) = 0) ∧ (argw r 1 + argw r 2 ≤ s.evlog.length) :=
  ⟨Wit.obj, (Wit.req [0, 0, 0]), (Instr.admitted_iff _ rfl).2 (by decide +kernel), by decide +kernel⟩
theorem wit_Log_and_journal_commands_1 : ∃ (s : State) (r : Req), Instr.admitted (.logRead r) s ∧ (s.sink (argw r 3) (32 * argw r 2) = 0) ∧ (s.evlog.length < argw r 1 + argw r 2) :=
  ⟨Wit.obj, (Wit.req [0, 1, 0]), (Instr.admitted_iff _ rfl).2 (by decide +kernel), by decide +kernel⟩
theorem wit_Log_and_journal_commands_2 : ∃ (s : State) (r : Req), Instr.admitted (.logTelem r) s ∧ (argw r 2 ≤ 3) ∧ (s.sink (argw r 1) (s.telem (argw r 2)).length = 0) :=
  ⟨Wit.obj, (Wit.req [0, 0]), (Instr.admitted_iff _ rfl).2 (by decide +kernel), by decide +kernel⟩
theorem wit_Log_and_journal_commands_3 : ∃ (s : State) (r : Req), Instr.admitted (.logTelem r) s ∧ (3 < argw r 2) :=
  ⟨Wit.user, (Wit.req [0, 4]), (Instr.admitted_iff _ rfl).2 (by decide +kernel), by decide +kernel⟩
theorem wit_Log_and_journal_commands_4 : ∃ (s : State) (r : Req), Instr.admitted (.logJournal r) s ∧ s.takesEntry ∧ (1 ≤ argw r 1) ∧ (argw r 1 ≤ 4096) ∧ (argw r 2 < 4) ∧ (((List.range 2).any fun h => decide (dramCap < s.dramUsed h - s.sv.journal.size * 2 ^ 19 + argw r 1 * 2 ^ 19)) = false) :=
  ⟨Wit.user, (Wit.req [1, 1]), (Instr.admitted_iff _ rfl).2 (by decide +kernel), ⟨by decide +kernel, by decide +kernel⟩, by decide +kernel⟩
theorem wit_Log_and_journal_commands_5 : ∃ (s : State) (r : Req) (x : Nat × List Byte) (xs : List (Nat × List Byte)) (h : Handle), Instr.admitted (.logExport r) s ∧ ((s.sv.journal.recs.filter fun x => x.1 / 2 ^ 31 == argw r 2 / 2 ^ 31).dropWhile (fun x => x.1 != argw r 2) = x :: xs) ∧ (s.handle (argw r 1) = some h) ∧ (h.fmt = 0xFF) :=
  ⟨{ Wit.obj with sv.journal.recs := [(0, [5])] }, (Wit.req [0, 0]), (0, [5]), [], Wit.object, (Instr.admitted_iff _ rfl).2 (by decide +kernel), by decide +kernel⟩
theorem wit_Log_and_journal_commands_6 : ∃ (s : State) (r : Req), Instr.admitted (.logExport r) s ∧ ((s.sv.journal.recs.filter fun x => x.1 / 2 ^ 31 == argw r 2 / 2 ^ 31).dropWhile (fun x => x.1 != argw r 2) = []) :=
  ⟨Wit.user, (Wit.req [0, 0]), (Instr.admitted_iff _ rfl).2 (by decide +kernel), by decide +kernel⟩
theorem wit_Log_and_journal_commands_7 : ∃ (s : State) (r : Req), Instr.admitted (.logReplay r) s ∧ s.takesEntry ∧ (argw r 1 < 4096) ∧ (argw r 3 ≠ 0) ∧ (s.ringDepth (argw r 1) ≠ 0) ∧ (s.replayCode (argw r 1) (argw r 2) (argw r 3) = 0) :=
  ⟨Wit.replay, (Wit.req [0, 0, 1]), (Instr.admitted_iff _ rfl).2 (by decide +kernel), ⟨by decide +kernel, by decide +kernel⟩, by decide +kernel⟩
theorem wit_Log_and_journal_commands_8 : ∃ (s : State) (r : Req), Instr.admitted (.logReplay r) s ∧ s.takesEntry ∧ (argw r 1 < 4096) ∧ (argw r 3 = 0) ∧ (s.ringDepth (argw r 1) ≠ 0) :=
  ⟨Wit.replay, (Wit.req [0, 0, 0]), (Instr.admitted_iff _ rfl).2 (by decide +kernel), ⟨by decide +kernel, by decide +kernel⟩, by decide +kernel⟩
theorem wit_Service_commands_0 : ∃ (s : State) (r : Req), Instr.admitted (.svcMapRead r) s ∧ (s.gated r.src 2 0 = false) ∧ (s.sink (argw r 1) 32768 = 0) :=
  ⟨Wit.user.setHandle 0 (some { fmt := 0xFF, codeLen := 32768 }), (Wit.req [0]), (Instr.admitted_iff _ rfl).2 (by decide +kernel), by decide +kernel⟩
theorem wit_Service_commands_1 : ∃ (s : State) (r : Req), Instr.admitted (.svcMapRead r) s ∧ (s.gated r.src 2 0 = true) :=
  ⟨{ Wit.user with lg.passw := [(4, [1])] }, (Wit.req [0]), (Instr.admitted_iff _ rfl).2 (by decide +kernel), by decide +kernel⟩
theorem wit_Service_commands_2 : ∃ (s : State) (r : Req) (bs : List Byte), Instr.admitted (.svcMapEdit r) s ∧ (s.gated r.src 2 1 = false) ∧ (s.object (argw r 1) = .ok bs) ∧ (bs.length ≠ 32768) :=
  ⟨Wit.done, (Wit.req [0]), [7], (Instr.admitted_iff _ rfl).2 (by decide +kernel), by decide +kernel⟩
theorem wit_Service_commands_3 : ∃ (s : State) (r : Req) (bs : List Byte), Instr.admitted (.svcMapEdit r) s ∧ s.takesEntry ∧ (s.gated r.src 2 1 = false) ∧ (s.object (argw r 1) = .ok bs) ∧ (bs.length = 32768) ∧ (leAt bs 0 4 = 0x4D444C59) ∧ (leAt bs 4 4 = 1) :=
  ⟨Wit.map, (Wit.req [0]), Wit.mapFile, (Instr.admitted_iff _ rfl).2 (by decide +kernel), ⟨by decide +kernel, by decide +kernel⟩, by decide +kernel, Wit.mapObj, Wit.mapLen, by decide +kernel⟩
theorem wit_Service_commands_4 : ∃ (s : State) (r : Req) (k : Nat), Instr.admitted (.svcRepair r) s ∧ s.takesEntry ∧ (argw r 2 = 0) ∧ (s.frameAddr? (argw r 1) = some k) ∧ ((s.frame k).placed.isSome = true) :=
  ⟨(Wit.user.setFrame 0 { placed := some 3 }), (Wit.req [0, 0]), 0, (Instr.admitted_iff _ rfl).2 (by decide +kernel), ⟨by decide +kernel, by decide +kernel⟩, by decide +kernel⟩
theorem wit_Service_commands_5 : ∃ (s : State) (r : Req) (k : Nat), Instr.admitted (.svcRepair r) s ∧ s.takesEntry ∧ (argw r 2 = 1) ∧ (s.frameAddr? (argw r 1) = some k) ∧ ((s.board (fkBoard k)).score.isSome = true) :=
  ⟨(Wit.user.setBoard 0 { score := some 3 }), (Wit.req [0, 1]), 0, (Instr.admitted_iff _ rfl).2 (by decide +kernel), ⟨by decide +kernel, by decide +kernel⟩, by decide +kernel⟩
theorem wit_Service_commands_6 : ∃ (s : State) (r : Req), Instr.admitted (.svcRepair r) s ∧ (argw r 2 ≤ 1) ∧ (s.frameAddr? (argw r 1) = none) :=
  ⟨Wit.user, (Wit.req [4294967295, 1]), (Instr.admitted_iff _ rfl).2 (by decide +kernel), by decide +kernel⟩
theorem wit_Service_commands_7 : ∃ (s : State) (r : Req), Instr.admitted (.svcSwap r) s ∧ s.takesEntry ∧ (argw r 1 = 0) ∧ (s.sv.alive = [true, true]) ∧ (s.sv.swapped = false) :=
  ⟨Wit.user, (Wit.req [0]), (Instr.admitted_iff _ rfl).2 (by decide +kernel), ⟨by decide +kernel, by decide +kernel⟩, by decide +kernel⟩
theorem wit_Service_commands_8 : ∃ (s : State) (r : Req), Instr.admitted (.svcSwap r) s ∧ s.takesEntry ∧ (argw r 1 = 1) ∧ (s.sv.alive = [true, true]) ∧ (s.sv.swapped = true) :=
  ⟨{ Wit.user with sv.swapped := true }, (Wit.req [1]), (Instr.admitted_iff _ rfl).2 (by decide +kernel), ⟨by decide +kernel, by decide +kernel⟩, by decide +kernel⟩
theorem wit_Service_commands_9 : ∃ (s : State) (r : Req), Instr.admitted (.svcLimits r) s ∧ s.takesEntry ∧ (argw r 1 = 3) ∧ (80 ≤ argw r 2) ∧ (argw r 2 ≤ 240) :=
  ⟨Wit.user, (Wit.req [3, 100]), (Instr.admitted_iff _ rfl).2 (by decide +kernel), ⟨by decide +kernel, by decide +kernel⟩, by decide +kernel⟩
theorem wit_Service_commands_10 : ∃ (s : State) (r : Req), Instr.admitted (.svcLimits r) s ∧ s.takesEntry ∧ (argw r 1 < 3) ∧ (argw r 2 < 115) :=
  ⟨Wit.user, (Wit.req [0, 100]), (Instr.admitted_iff _ rfl).2 (by decide +kernel), ⟨by decide +kernel, by decide +kernel⟩, by decide +kernel⟩
theorem wit_Service_commands_11 : ∃ (s : State) (r : Req), Instr.admitted (.svcLimits r) s ∧ (3 < argw r 1) :=
  ⟨Wit.user, (Wit.req [4, 100]), (Instr.admitted_iff _ rfl).2 (by decide +kernel), by decide +kernel⟩
theorem wit_Score_commands_0 : ∃ (s : State) (r : Req), Instr.admitted (.scoreInfo r) s ∧ (argw r 1 < 64) :=
  ⟨Wit.user, (Wit.req [63]), (Instr.admitted_iff _ rfl).2 (by decide +kernel), by decide +kernel⟩
theorem wit_Score_commands_1 : ∃ (s : State) (r : Req), Instr.admitted (.scoreInfo r) s ∧ (64 ≤ argw r 1) :=
  ⟨Wit.user, (Wit.req [64]), (Instr.admitted_iff _ rfl).2 (by decide +kernel), by decide +kernel⟩
theorem wit_Score_commands_2 : ∃ (s : State) (r : Req), Instr.admitted (.scoreList r) s :=
  ⟨Wit.user, (Wit.req []), (Instr.admitted_iff _ rfl).2 (by decide +kernel)⟩
theorem wit_Score_commands_3 : ∃ (s : State) (r : Req) (f : ScoreFile) (sig : Bool) (code : Nat), Instr.admitted (.scoreLoad r f sig) s ∧ (s.segments (argw r 1) = .error code) :=
  ⟨Wit.user, (Wit.req [0]), {}, true, 0x0105, (Instr.admitted_iff _ rfl).2 (by decide +kernel), by decide +kernel⟩
theorem wit_Score_commands_4 : ∃ (s : State) (r : Req) (f : ScoreFile) (sig : Bool) (bs : List Byte), Instr.admitted (.scoreLoad r f sig) s ∧ (s.segments (argw r 1) = .ok bs) ∧ (s.imageSlot (leAt bs 8 8) (slice bs 160 64) = none) ∧ (s.loadSlot (leAt bs 8 8) (slice bs 160 64) = none) :=
  ⟨Wit.full, (Wit.req [0]), {}, true, [0], (Instr.admitted_iff _ rfl).2 (by decide +kernel), by decide +kernel⟩
theorem wit_Score_commands_5 : ∃ (s : State) (r : Req) (f : ScoreFile) (sig : Bool) (bs : List Byte) (n : Nat), Instr.admitted (.scoreLoad r f sig) s ∧ s.takesEntry ∧ (s.segments (argw r 1) = .ok bs) ∧ (s.imageSlot (leAt bs 8 8) (slice bs 160 64) = some n) ∧ (scoreDigest bs = slice bs 160 64) ∧ (sig = true) :=
  ⟨Wit.image, (Wit.req [0]), {}, true, Wit.fileBytes, 0, (Instr.admitted_iff _ rfl).2 (by decide +kernel), ⟨by decide +kernel, by decide +kernel⟩, by decide +kernel, by decide +kernel, Wit.digestOk, rfl⟩
theorem wit_Score_commands_6 : ∃ (s : State) (r : Req) (f : ScoreFile) (sig : Bool) (bs : List Byte) (n code d : Nat), Instr.admitted (.scoreLoad r f sig) s ∧ s.takesEntry ∧ (s.segments (argw r 1) = .ok bs) ∧ (s.imageSlot (leAt bs 8 8) (slice bs 160 64) = none) ∧ (s.loadSlot (leAt bs 8 8) (slice bs 160 64) = some n) ∧ (code ≠ 0x0605) ∧ ((Instr.entered (.scoreLoad r f sig) s).fileCheck bs f sig = some (code, d)) ∧ (((Instr.entered (.scoreLoad r f sig) s).score n).st ≠ 3) :=
  ⟨Wit.goodFile, (Wit.req [0]), {}, false, Wit.fileBytes, 0, 0x0601, 0, (Instr.admitted_iff _ rfl).2 (by decide +kernel), ⟨by decide +kernel, by decide +kernel⟩, by decide +kernel, by decide +kernel, by decide +kernel, by decide +kernel, Wit.fileBad _, by decide +kernel⟩
theorem wit_Score_commands_7 : ∃ (s : State) (r : Req) (f : ScoreFile) (sig : Bool) (bs : List Byte) (n : Nat) (k : Bool) (v : State), Instr.admitted (.scoreLoad r f sig) s ∧ s.takesEntry ∧ (s.segments (argw r 1) = .ok bs) ∧ (s.imageSlot (leAt bs 8 8) (slice bs 160 64) = none) ∧ (s.loadSlot (leAt bs 8 8) (slice bs 160 64) = some n) ∧ ((Instr.entered (.scoreLoad r f sig) s).fileCheck bs f sig = none) ∧ ((((Instr.entered (.scoreLoad r f sig) s).score n).st == 3) = k) ∧ (((Instr.entered (.scoreLoad r f sig) s).setScore n { st := 1, id := leAt bs 8 8, digest := slice bs 160 64, flags := leAt bs 6 2, file := f, resident := (leAt bs 6 2).testBit 1, req := some r, kept := k, place := if k then ((Instr.entered (.scoreLoad r f sig) s).score n).place else [], redir := if k then ((Instr.entered (.scoreLoad r f sig) s).score n).redir else [] }).claim n k = .ok v) :=
  ⟨Wit.keptFile, (Wit.req [0]), Wit.file, true, Wit.fileBytes, 5, true, Wit.claimedKept, (Instr.admitted_iff _ rfl).2 (by decide +kernel), ⟨by decide +kernel, by decide +kernel⟩, by decide +kernel, by decide +kernel, by decide +kernel, Wit.fileOk _, by decide +kernel, Wit.claimKept_eq⟩
theorem wit_Score_commands_8 : ∃ (s : State) (r : Req), Instr.admitted (.scoreAbort r) s ∧ (argw r 1 < 64) ∧ ((s.score (argw r 1)).st = 0) :=
  ⟨Wit.user, (Wit.req [63]), (Instr.admitted_iff _ rfl).2 (by decide +kernel), by decide +kernel⟩
theorem wit_Score_commands_9 : ∃ (s : State) (r : Req), Instr.admitted (.scoreAbort r) s ∧ (argw r 1 < 64) ∧ ((s.score (argw r 1)).st = 4) :=
  ⟨Wit.ringed, (Wit.req [0]), (Instr.admitted_iff _ rfl).2 (by decide +kernel), by decide +kernel⟩
theorem wit_Score_commands_10 : ∃ (s : State) (r q : Req), Instr.admitted (.scoreAbort r) s ∧ s.takesEntry ∧ (argw r 1 < 64) ∧ ((s.score (argw r 1)).st = 1 ∨ (s.score (argw r 1)).st = 2) ∧ ((s.score (argw r 1)).req = some q) :=
  ⟨Wit.loading, (Wit.req [0]), Wit.req [5], (Instr.admitted_iff _ rfl).2 (by decide +kernel), ⟨by decide +kernel, by decide +kernel⟩, by decide +kernel⟩
theorem wit_Score_commands_11 : ∃ (s : State) (r : Req), Instr.admitted (.scoreRetire r) s ∧ (argw r 1 < 64) ∧ ((s.score (argw r 1)).st = 0) :=
  ⟨Wit.user, (Wit.req [63]), (Instr.admitted_iff _ rfl).2 (by decide +kernel), by decide +kernel⟩
theorem wit_Score_commands_12 : ∃ (s : State) (r : Req), Instr.admitted (.scoreRetire r) s ∧ (argw r 1 < 64) ∧ ((s.score (argw r 1)).st = 4) ∧ ((s.ringList.any fun g => s.ringScore g == argw r 1) = true) :=
  ⟨Wit.ringed, (Wit.req [0]), (Instr.admitted_iff _ rfl).2 (by decide +kernel), by decide +kernel⟩
theorem wit_Score_commands_13 : ∃ (s : State) (r : Req), Instr.admitted (.scoreRetire r) s ∧ s.takesEntry ∧ (argw r 1 < 64) ∧ ((s.score (argw r 1)).st = 3 ∨ (s.score (argw r 1)).st = 4) ∧ ((s.ringList.any fun g => s.ringScore g == argw r 1) = false) :=
  ⟨(Wit.user.setScore 63 { st := 3 }), (Wit.req [63]), (Instr.admitted_iff _ rfl).2 (by decide +kernel), ⟨by decide +kernel, by decide +kernel⟩, by decide +kernel⟩
theorem wit_Calibration_0 : ∃ (s : State) (r : Req), Instr.admitted (.calStatus r) s ∧ (s.gated r.src 1 0 = false) :=
  ⟨Wit.user, (Wit.req []), (Instr.admitted_iff _ rfl).2 (by decide +kernel), by decide +kernel⟩
theorem wit_Calibration_1 : ∃ (s : State) (r : Req), Instr.admitted (.calRecount r) s ∧ s.takesEntry ∧ (s.gated r.src 5 1 = false) ∧ ((recountRange (argw r 1)).1 ≤ argw r 2) ∧ (argw r 2 ≤ (recountRange (argw r 1)).2) :=
  ⟨Wit.user, (Wit.req [2, 300]), (Instr.admitted_iff _ rfl).2 (by decide +kernel), ⟨by decide +kernel, by decide +kernel⟩, by decide +kernel⟩
theorem wit_Calibration_2 : ∃ (s : State) (r : Req), Instr.admitted (.calRecount r) s ∧ (s.gated r.src 5 1 = false) ∧ (argw r 2 < (recountRange (argw r 1)).1 ∨ (recountRange (argw r 1)).2 < argw r 2) :=
  ⟨Wit.user, (Wit.req [2, 0]), (Instr.admitted_iff _ rfl).2 (by decide +kernel), by decide +kernel⟩
theorem wit_Calibration_3 : ∃ (s : State) (r : Req), Instr.admitted (.calRecal r) s ∧ s.takesEntry ∧ (s.gated r.src 1 1 = false) ∧ (argw r 1 = 0x5243414C) ∧ (s.recalReady = true) :=
  ⟨Wit.calibrated, (Wit.req [1380139340]), (Instr.admitted_iff _ rfl).2 (by decide +kernel), ⟨by decide +kernel, by decide +kernel⟩, by decide +kernel⟩
theorem wit_Calibration_4 : ∃ (s : State) (r : Req), Instr.admitted (.calRecal r) s ∧ (s.gated r.src 1 1 = false) ∧ (argw r 1 ≠ 0x5243414C) :=
  ⟨Wit.user, (Wit.req [0]), (Instr.admitted_iff _ rfl).2 (by decide +kernel), by decide +kernel⟩
theorem wit_Calibration_5 : ∃ (s : State) (r : Req) (bs : List Byte), Instr.admitted (.calFactory r) s ∧ s.takesEntry ∧ (s.gated r.src 1 1 = false) ∧ (s.object (argw r 1) = .ok bs) :=
  ⟨Wit.done, (Wit.req [0]), [7], (Instr.admitted_iff _ rfl).2 (by decide +kernel), ⟨by decide +kernel, by decide +kernel⟩, by decide +kernel⟩
theorem wit_Calibration_6 : ∃ (s : State) (r : Req), Instr.admitted (.calMeasure r) s ∧ (argw r 1 < 32) ∧ (argw r 2 ≤ 1) ∧ (s.disabled (mapDie (argw r 1)) = false) ∧ ((s.die (argw r 1)).lost = false) :=
  ⟨Wit.user, (Wit.req [31, 1]), (Instr.admitted_iff _ rfl).2 (by decide +kernel), by decide +kernel⟩
theorem wit_Calibration_7 : ∃ (s : State) (r : Req), Instr.admitted (.calMeasure r) s ∧ (argw r 1 < 32) ∧ (argw r 2 ≤ 1) ∧ (s.disabled (mapDie (argw r 1)) = true ∨ (s.die (argw r 1)).lost = true) :=
  ⟨(Wit.user.setDie 31 { lost := true }), (Wit.req [31, 0]), (Instr.admitted_iff _ rfl).2 (by decide +kernel), by decide +kernel⟩
theorem wit_Calibration_8 : ∃ (s : State) (slot : Fin 64), (s.canPublish slot = true) :=
  ⟨Wit.placed {}, 3, by decide⟩
theorem wit_Calibration_9 : ∃ (s : State) (slot : Fin 64), (s.canPublish slot = false) :=
  ⟨State.reset, 0, by decide⟩
theorem wit_Calibration_10 : ∃ (s : State) (d : Die) (b : Brd) (f : Frm) (p : Pln), ((s.frame (frameKey d b f)).measure = none) ∧ (s.visitable (frameKey d b f) = true) ∧ (s.measureDue (frameKey d b f) (.gain p) = true) :=
  ⟨Wit.visit, 31, 191, 33, 7, by decide +kernel⟩
theorem wit_Calibration_11 : ∃ (s : State) (d : Die) (b : Brd) (f : Frm), ((s.frame (frameKey d b f)).measure = none) ∧ (s.visitable (frameKey d b f) = true) ∧ (s.measureDue (frameKey d b f) .trims = true) ∧ (bit (s.reg (metBase d + 8)) 20 = false) :=
  ⟨Wit.visit, 31, 191, 33, by decide +kernel⟩
theorem wit_Calibration_12 : ∃ (s : State) (d : Die) (b : Brd) (f : Frm) (row : Fin 512) (hi mid lo : Int), ((s.frame (frameKey d b f)).measure = none) ∧ (s.visitable (frameKey d b f) = true) ∧ (s.measureDue (frameKey d b f) (.readback row hi mid lo) = true) ∧ (1000 * (hi * 2048 - 2040 * 8388607).natAbs ≤ 5 * 8388607 * 2048) ∧ (1000 * (mid * 2048 - 0 * 8388607).natAbs ≤ 5 * 8388607 * 2048) ∧ (1000 * (lo * 2048 - (-2048) * 8388607).natAbs ≤ 5 * 8388607 * 2048) :=
  ⟨Wit.visit, 31, 191, 33, 0, 8355838, 0, -8388607, by decide +kernel⟩
theorem wit_Calibration_13 : ∃ (s : State) (d : Die) (b : Brd) (f : Frm) (row : Fin 512) (hi mid lo : Int), ((s.frame (frameKey d b f)).measure = none) ∧ (s.visitable (frameKey d b f) = true) ∧ (s.measureDue (frameKey d b f) (.readback row hi mid lo) = true) ∧ (5 * 8388607 * 2048 < 1000 * (hi * 2048 - 2040 * 8388607).natAbs ∨ 5 * 8388607 * 2048 < 1000 * (mid * 2048 - 0 * 8388607).natAbs ∨ 5 * 8388607 * 2048 < 1000 * (lo * 2048 - (-2048) * 8388607).natAbs) :=
  ⟨Wit.visit, 31, 191, 33, 0, 0, 0, 0, by decide +kernel⟩
theorem wit_Calibration_14 : ∃ (s : State) (d : Die) (b : Brd) (f : Frm) (p : Pln) (m : Measure), (s.pstate = 2) ∧ ((s.frame (frameKey d b f)).st ≠ .stroking) ∧ ((s.frame (frameKey d b f)).stroke = none) ∧ ((s.frame (frameKey d b f)).measure = some m) ∧ (m.gain = some p.val) ∧ (s.canDraw d prioMet (s.visitTokens (frameKey d b f) true) = true) :=
  ⟨Wit.measuring { gain := some 7 }, 31, 191, 33, 7, { gain := some 7 }, by decide +kernel⟩
theorem wit_Calibration_15 : ∃ (s : State) (d : Die) (b : Brd) (f : Frm) (m : Measure), (s.pstate = 2) ∧ ((s.frame (frameKey d b f)).st ≠ .stroking) ∧ ((s.frame (frameKey d b f)).stroke = none) ∧ ((s.frame (frameKey d b f)).measure = some m) ∧ (m.gain = none) ∧ (s.canDraw d prioMet (s.visitTokens (frameKey d b f) false) = true) :=
  ⟨Wit.measuring {}, 31, 191, 33, {}, by decide +kernel⟩
theorem wit_Calibration_16 : ∃ (s : State) (d : Die) (b : Brd) (f : Frm) (k : Visit), ((s.frame (frameKey d b f)).measure = none) ∧ (s.visitable (frameKey d b f) = true) ∧ (s.measureDue (frameKey d b f) k = false) :=
  ⟨{ Wit.visit with now := 0 }, 31, 191, 33, (.readback 0 0 0 0), by decide +kernel⟩
theorem wit_Calibration_17 : ∃ (s : State) (d : Die) (b : Brd) (f : Frm) (m : Measure), ((s.frame (frameKey d b f)).measure = some m) ∧ ((s.frame (frameKey d b f)).st = .stroking) :=
  ⟨Wit.frm { st := .stroking, measure := some {} }, 31, 191, 33, {}, by decide +kernel⟩
theorem wit_Calibration_18 : ∃ (s : State) (d : Die) (b : Brd) (f : Frm) (p : Pln), ((s.frame (frameKey d b f)).recount = none) ∧ (s.visitable (frameKey d b f) = true) ∧ ((s.frame (frameKey d b f)).st ≠ .repair) ∧ (s.moving (frameKey d b f) = false) ∧ (s.visitDueAt (frameKey d b f) p ≤ s.now) :=
  ⟨Wit.visit, 31, 191, 33, 7, by decide +kernel⟩
theorem wit_Calibration_19 : ∃ (s : State) (d : Die) (b : Brd) (f : Frm) (p : Pln) (v : Recount) (w : State), (s.pstate = 2) ∧ ((s.frame (frameKey d b f)).st ≠ .stroking) ∧ ((s.frame (frameKey d b f)).stroke = none) ∧ ((s.frame (frameKey d b f)).recount = some v) ∧ (v.plane = p.val) ∧ (v.row < 512) ∧ (s.visitDraw (frameKey d b f) v rowReadTokens = (w, true)) :=
  ⟨Wit.recounting 511 0, 31, 191, 33, 7, { plane := 7, row := 511, paid := true }, Wit.paidVisit 511, by decide +kernel, by decide +kernel, by decide +kernel, by decide +kernel, rfl, by decide, rfl⟩
theorem wit_Calibration_20 : ∃ (s : State) (d : Die) (b : Brd) (f : Frm) (p : Pln) (v : Recount) (w : State), (s.pstate = 2) ∧ ((s.frame (frameKey d b f)).st ≠ .stroking) ∧ ((s.frame (frameKey d b f)).stroke = none) ∧ ((s.frame (frameKey d b f)).recount = some v) ∧ (v.plane = p.val) ∧ (512 ≤ v.row) ∧ (v.spots < s.spotCount (frameKey d b f) v.plane) ∧ (s.visitDraw (frameKey d b f) v (s.spotTokens (frameKey d b f)) = (w, true)) :=
  ⟨Wit.spotting, 31, 191, 33, 0, { plane := 0, row := 512, paid := true }, (Wit.spotting.visitDraw (frameKey 31 191 33) { plane := 0, row := 512, paid := true } 0).1, by decide +kernel, by decide +kernel, by decide +kernel, by decide +kernel, rfl, by decide, by decide +kernel, rfl⟩
theorem wit_Calibration_21 : ∃ (s : State) (d : Die) (b : Brd) (f : Frm) (p : Pln) (v : Recount) (w : State), (s.pstate = 2) ∧ ((s.frame (frameKey d b f)).st ≠ .stroking) ∧ ((s.frame (frameKey d b f)).stroke = none) ∧ ((s.frame (frameKey d b f)).recount = some v) ∧ (v.plane = p.val) ∧ (v.row < 512) ∧ (s.visitDraw (frameKey d b f) v rowReadTokens = (w, false)) :=
  ⟨Wit.waitingVisit, 31, 191, 33, 7, { plane := 7 }, Wit.waitingVisit, by decide +kernel, by decide +kernel, by decide +kernel, by decide +kernel, rfl, by decide, rfl⟩
theorem wit_Calibration_22 : ∃ (s : State) (d : Die) (b : Brd) (f : Frm) (p : Pln) (v : Recount), (s.pstate = 2) ∧ ((s.frame (frameKey d b f)).st ≠ .stroking) ∧ ((s.frame (frameKey d b f)).stroke = none) ∧ ((s.frame (frameKey d b f)).recount = some v) ∧ (v.plane = p.val) ∧ (512 ≤ v.row) ∧ (s.spotCount (frameKey d b f) v.plane ≤ v.spots) ∧ (s.inPlace (frameKey d b f) v = false) :=
  ⟨Wit.recounting 512 0, 31, 191, 33, 7, { plane := 7, row := 512, paid := true }, by decide +kernel⟩
theorem wit_Calibration_23 : ∃ (s : State) (d : Die) (b : Brd) (f : Frm) (p : Pln) (v : Recount), (s.pstate = 2) ∧ ((s.frame (frameKey d b f)).st ≠ .stroking) ∧ ((s.frame (frameKey d b f)).stroke = none) ∧ ((s.frame (frameKey d b f)).recount = some v) ∧ (v.plane = p.val) ∧ (512 ≤ v.row) ∧ (s.spotCount (frameKey d b f) v.plane ≤ v.spots) ∧ (s.inPlace (frameKey d b f) v = true) ∧ (s.canDraw d prioMet gainTokens = true) :=
  ⟨Wit.renewing 400000, 31, 191, 33, 7, Wit.renewal, by decide +kernel⟩
theorem wit_Calibration_24 : ∃ (s : State) (d : Die) (b : Brd) (f : Frm) (p : Pln) (v : Recount), (s.pstate = 2) ∧ ((s.frame (frameKey d b f)).st ≠ .stroking) ∧ ((s.frame (frameKey d b f)).stroke = none) ∧ ((s.frame (frameKey d b f)).recount = some v) ∧ (v.plane = p.val) ∧ (512 ≤ v.row) ∧ (s.spotCount (frameKey d b f) v.plane ≤ v.spots) ∧ (s.inPlace (frameKey d b f) v = true) ∧ (s.canDraw d prioMet gainTokens = false) :=
  ⟨Wit.renewing 0, 31, 191, 33, 7, Wit.renewal, by decide +kernel⟩
theorem wit_Calibration_25 : ∃ (s : State), (s.pstate ≠ 2) :=
  ⟨State.reset, by decide⟩
theorem wit_Reckoning_counter_0 : ∃ (s : State), (s.pstate = 1) ∧ (s.ck.on = true) ∧ (s.ck.set = false) ∧ (fld (s.reg (rkReg 8)) 0 2 = 3 ∨ (fld (s.reg (rkReg 8)) 0 2 ≠ 0 ∧ (s.port (fld (s.reg (rkReg 8)) 0 2 - 1)).synced = true)) :=
  ⟨{ (State.reset.setPstate 1).setReg (rkReg 8) 3 with ck.on := true }, by decide⟩
theorem wit_Reckoning_counter_1 : ∃ (s : State), (s.pstate ≠ 1 ∨ s.ck.on = false ∨ s.ck.set = true) :=
  ⟨Wit.ready, by decide⟩
theorem wit_Reckoning_counter_2 : ∃ (s : State), (s.pstate ≠ 0) ∧ (s.rkSrc = 3) ∧ (s.ck.on = true) ∧ (({ s with ck.syncInAt := s.now } : State).syncError.natAbs ≤ 2 ^ 22) :=
  ⟨Wit.follows, by decide⟩
theorem wit_Reckoning_counter_3 : ∃ (s : State), (s.pstate ≠ 0) ∧ (s.rkSrc = 3) ∧ (s.ck.on = true) ∧ (2 ^ 22 < ({ s with ck.syncInAt := s.now } : State).syncError.natAbs) :=
  ⟨{ Wit.follows with ck.rk := 2 ^ 19 }, by decide⟩
theorem wit_Reckoning_counter_4 : ∃ (s : State), (s.pstate ≠ 0) ∧ (s.rkSrc ≠ 3) :=
  ⟨Wit.ready, by decide⟩
theorem wit_Reckoning_counter_5 : ∃ (s : State), (s.pstate = 0) :=
  ⟨(State.reset.setPstate 0), by decide⟩
theorem wit_Reckoning_counter_6 : ∃ (s : State), (s.rkSrc = 3) ∧ (s.ck.syncInAt + 10000000 ≤ s.now) :=
  ⟨{ Wit.follows with now := 10000000 }, by decide⟩
theorem wit_Reckoning_counter_7 : ∃ (s : State), (s.rkSrc ≠ 3 ∨ s.now < s.ck.syncInAt + 10000000) :=
  ⟨Wit.ready, by decide⟩
theorem wit_Reckoning_counter_9 : ∃ (s : State), (s.ck.on = true) ∧ (bit (s.reg (rkReg 8)) 2 = true) ∧ (s.ck.rk % 2 ^ 20 < 1024) :=
  ⟨{ State.reset.setReg (rkReg 8) 4 with ck.on := true, ck.rk := 2 ^ 20 + 1023 }, by decide⟩
theorem wit_Reckoning_counter_10 : ∃ (s : State), (s.ck.on = false ∨ bit (s.reg (rkReg 8)) 2 = false ∨ 1024 ≤ s.ck.rk % 2 ^ 20) :=
  ⟨{ State.reset with ck.rk := 1024 }, by decide⟩
theorem wit_Reckoning_counter_11 : ∃ (s : State) (r : Req), Instr.admitted (.syncStat r) s :=
  ⟨Wit.user, (Wit.req []), (Instr.admitted_iff _ rfl).2 (by decide +kernel)⟩
theorem wit_Reckoning_counter_12 : ∃ (s : State) (r : Req), Instr.admitted (.syncNow r) s :=
  ⟨Wit.user, (Wit.req []), (Instr.admitted_iff _ rfl).2 (by decide +kernel)⟩
theorem wit_Reckoning_counter_13 : ∃ (s : State) (r : Req), Instr.admitted (.syncCfg r) s ∧ s.takesEntry ∧ (s.gated r.src 5 1 = false) ∧ (argw r 1 < 4) ∧ (argw r 2 < 2) :=
  ⟨Wit.user, (Wit.req [3, 1]), (Instr.admitted_iff _ rfl).2 (by decide +kernel), ⟨by decide +kernel, by decide +kernel⟩, by decide +kernel⟩
theorem wit_Reckoning_counter_14 : ∃ (s : State) (r : Req), Instr.admitted (.syncCfg r) s ∧ (s.gated r.src 5 1 = false) ∧ (4 ≤ argw r 1) :=
  ⟨Wit.user, (Wit.req [4, 0]), (Instr.admitted_iff _ rfl).2 (by decide +kernel), by decide +kernel⟩
theorem wit_Metrology_conversions_0 : ∃ (s : State) (u : Unit34) (n : Fin 4) (t : Nat), ((s.conv u n).ph = .delay t) ∧ (s.metIdle u = false) ∧ (t ≤ s.now) ∧ ((s.conv u n).urg = none) ∧ ((seqEntry (s.conv u n).pass).trig = false) :=
  ⟨Wit.conv { ph := .delay 0 }, 31, 3, 0, by decide⟩
theorem wit_Metrology_conversions_1 : ∃ (s : State) (u : Unit34) (n : Fin 4) (t : Nat), ((s.conv u n).ph = .delay t) ∧ (s.metIdle u = false) ∧ (t ≤ s.now) ∧ ((s.conv u n).urg = none) ∧ ((seqEntry (s.conv u n).pass).trig = true) ∧ (s.trigSrc u ≠ 0) ∧ ((s.met u).spent = false) ∧ (s.ck.rk + 4000 < s.trigTarget u) :=
  ⟨Wit.armable, 31, 3, 0, by decide⟩
theorem wit_Metrology_conversions_2 : ∃ (s : State) (u : Unit34) (n : Fin 4) (t : Nat), ((s.conv u n).ph = .delay t) ∧ (s.metIdle u = false) ∧ (t ≤ s.now) ∧ ((s.conv u n).urg = none) ∧ ((seqEntry (s.conv u n).pass).trig = true) ∧ (s.trigSrc u = 0 ∨ (s.met u).spent = true ∨ s.trigTarget u ≤ s.ck.rk + 4000) :=
  ⟨Wit.trigEntry, 31, 3, 0, by decide⟩
theorem wit_Metrology_conversions_3 : ∃ (s : State) (u : Unit34), ((s.met u).on = true) ∧ (s.trigSrc u ≠ 0) ∧ ((s.met u).spent = false) ∧ (s.trigTarget u ≤ s.ck.rk) :=
  ⟨Wit.trigNow, 31, by decide⟩
theorem wit_Metrology_conversions_4 : ∃ (s : State) (u : Unit34), ((s.met u).on = false ∨ s.trigSrc u = 0 ∨ (s.met u).spent = true ∨ s.ck.rk < s.trigTarget u) :=
  ⟨State.reset, 31, by decide⟩
theorem wit_Metrology_conversions_6 : ∃ (s : State) (u : Unit34) (n : Fin 4) (w : Word), ((s.met u).on = true) ∧ (chanOk u (fld w 0 6) = true) ∧ (filterOk (fld w 6 4) = true) ∧ ((s.conv u n).urg = none) ∧ ((s.met u).selfcal = none) ∧ (fld w 0 6 ≠ 32) :=
  ⟨Wit.metOn, 31, 3, 0, by decide⟩
theorem wit_Metrology_conversions_7 : ∃ (s : State) (u : Unit34) (n : Fin 4) (w : Word), ((s.met u).on = true) ∧ (chanOk u (fld w 0 6) = true) ∧ (filterOk (fld w 6 4) = true) ∧ ((s.conv u n).urg.isSome = true ∨ (s.met u).selfcal.isSome = true) :=
  ⟨Wit.conv { urg := some (0, 0, 0, 0) }, 31, 3, 0, by decide⟩
theorem wit_Metrology_conversions_8 : ∃ (s : State) (u : Unit34) (w : Word), ((s.met u).on = false ∨ chanOk u (fld w 0 6) = false ∨ filterOk (fld w 6 4) = false) :=
  ⟨Wit.metOn, 31, 63, by decide⟩
theorem wit_Metrology_conversions_9 : ∃ (s : State) (u : Unit34) (n : Fin 4) (ch f ws start : Nat), (s.pstate ≠ 0) ∧ (s.metIdle u = false) ∧ ((s.conv u n).urg = some (ch, f, ws, start)) ∧ (start + convTime f ≤ s.ck.rk) ∧ ((s.conv u n).ph = .stopped) :=
  ⟨Wit.urgentDone, 31, 3, 0, 0, 0, 0, by decide⟩
theorem wit_Metrology_conversions_10 : ∃ (s : State) (u : Unit34) (n : Fin 4) (ch f ws start x : Nat), (s.pstate ≠ 0) ∧ (s.metIdle u = false) ∧ ((s.conv u n).urg = some (ch, f, ws, start)) ∧ (start + convTime f ≤ s.ck.rk) ∧ ((s.conv u n).ph = .converting x) :=
  ⟨Wit.urgentFirst, 31, 3, 0, 0, 0, 0, 7, by decide⟩
theorem wit_Metrology_conversions_11 : ∃ (s : State) (u : Unit34) (n : Fin 4) (start : Nat), (s.pstate ≠ 0) ∧ (s.metIdle u = false) ∧ ((s.conv u n).urg = none) ∧ ((s.conv u n).ph = .converting start) ∧ (start + convTime (seqEntry (s.conv u n).pass).filter ≤ s.ck.rk) ∧ ((s.conv u n).stopping = false) ∧ ((s.conv u n).done + 1 < (seqEntry (s.conv u n).pass).rep) :=
  ⟨Wit.rep (2 ^ 7), 31, 3, 0, by decide⟩
theorem wit_Metrology_conversions_12 : ∃ (s : State) (u : Unit34) (n : Fin 4) (start : Nat), (s.pstate ≠ 0) ∧ (s.metIdle u = false) ∧ ((s.conv u n).urg = none) ∧ ((s.conv u n).ph = .converting start) ∧ (start + convTime (seqEntry (s.conv u n).pass).filter ≤ s.ck.rk) ∧ ((s.conv u n).stopping = false) ∧ ((seqEntry (s.conv u n).pass).rep ≤ (s.conv u n).done + 1) :=
  ⟨Wit.rep (2 ^ 6), 31, 3, 0, by decide⟩
theorem wit_Metrology_conversions_13 : ∃ (s : State) (u : Unit34) (n : Fin 4) (start : Nat), (s.pstate ≠ 0) ∧ (s.metIdle u = false) ∧ ((s.conv u n).urg = none) ∧ ((s.conv u n).ph = .converting start) ∧ (start + convTime (seqEntry (s.conv u n).pass).filter ≤ s.ck.rk) ∧ ((s.conv u n).stopping = true) :=
  ⟨Wit.convStop, 31, 3, 0, by decide⟩
theorem wit_Metrology_conversions_14 : ∃ (s : State) (u : Unit34) (n : Fin 4) (t : Nat), ((s.conv u n).ph = .delay t) ∧ ((s.met u).on = true) ∧ (t ≤ s.now + 20000) :=
  ⟨Wit.conv { ph := .delay 0 }, 31, 3, 0, by decide⟩
theorem wit_Metrology_conversions_15 : ∃ (s : State) (u : Unit34) (n : Fin 4) (t : Nat), ((s.conv u n).ph = .delay t) ∧ ((s.met u).on = false ∨ s.now + 20000 < t) :=
  ⟨Wit.conv { ph := .delay 20001 }, 31, 3, 20001, by decide⟩
theorem wit_Metrology_registers_1 : ∃ (s : State) (u : Unit34) (t : Nat), ((s.met u).selfcal = some t) ∧ (s.now < t + 42000000) :=
  ⟨(Wit.ready.setMet 31 { on := true, selfcal := some 5 }), 31, 5, by decide⟩
theorem wit_Metrology_registers_2 : ∃ (s : State) (u : Unit34) (t : Nat), ((s.met u).selfcal = some t) ∧ (t + 42000000 ≤ s.now) :=
  ⟨{ Wit.ready.setMet 31 { on := true, selfcal := some 0 } with now := 42000000 }, 31, 0, by decide⟩
theorem wit_Metrology_registers_4 : ∃ (s : State) (u : Unit34), ((s.met u).queue = []) :=
  ⟨State.reset, 31, by decide⟩
theorem wit_Metrology_registers_5 : ∃ (s : State) (u : Unit34) (w : Nat) (q : List Nat), ((s.met u).queue = w :: q) :=
  ⟨(State.reset.setMet 31 { queue := [7] }), 31, 7, [], by decide⟩
theorem wit_Metrology_registers_6 : ∃ (s : State) (u : Unit34), ((s.met u).on = false) :=
  ⟨State.reset, 31, by decide⟩
theorem wit_Metrology_registers_7 : ∃ (s : State) (u : Unit34), ((s.met u).on = true) :=
  ⟨Wit.metOn, 31, by decide⟩
theorem wit_Metrology_registers_8 : ∃ (u : Unit34), (u.val < 32) :=
  ⟨31, by decide⟩
theorem wit_Metrology_registers_9 : ∃ (u : Unit34), (32 ≤ u.val) :=
  ⟨33, by decide⟩
theorem wit_Metrology_registers_10 : ∃ (s : State) (u : Unit34) (w : Word), (u.val < 32) ∧ (bit (s.reg (metBase u + 8)) 20 = false) ∧ (fld w 0 10 ≤ 800) ∧ (fld w 11 2 ≠ 3) :=
  ⟨State.reset, 31, 800, by decide⟩
theorem wit_Metrology_registers_11 : ∃ (s : State) (u : Unit34) (w : Word), (32 ≤ u.val ∨ bit (s.reg (metBase u + 8)) 20 = true ∨ 800 < fld w 0 10 ∨ fld w 11 2 = 3) :=
  ⟨State.reset, 31, 801, by decide⟩
theorem wit_Metrology_registers_13 : ∃ (s : State) (r : Req), Instr.admitted (.metRead r) s ∧ (s.noUnit (argw r 1) = false) ∧ (argw r 2 < 64) :=
  ⟨Wit.user, (Wit.req [33, 63]), (Instr.admitted_iff _ rfl).2 (by decide +kernel), by decide +kernel⟩
theorem wit_Metrology_registers_14 : ∃ (s : State) (r : Req), Instr.admitted (.metRead r) s ∧ (s.noUnit (argw r 1) = true) :=
  ⟨Wit.user, (Wit.req [34, 0]), (Instr.admitted_iff _ rfl).2 (by decide +kernel), by decide +kernel⟩
theorem wit_Metrology_registers_15 : ∃ (s : State) (r : Req), Instr.admitted (.metSeq r) s ∧ s.takesEntry ∧ (s.noUnit (argw r 1) = false) ∧ (argw r 2 < 4) ∧ (16 ≤ argw r 3) ∧ (argw r 3 < 32) ∧ (bit (word (argw r 4)) 31 = false) ∧ (chanOk (argw r 1) (fld (word (argw r 4)) 0 6) = true) ∧ (filterOk (fld (word (argw r 4)) 23 4) = true) ∧ (fld (word (argw r 4)) 28 3 ≤ 4) ∧ (argw r 2 = 3 ∨ entryTime (word (argw r 4)) ≤ 50000) :=
  ⟨Wit.user, (Wit.req [31, 3, 16, 64]), (Instr.admitted_iff _ rfl).2 (by decide +kernel), ⟨by decide +kernel, by decide +kernel⟩, by decide +kernel⟩
theorem wit_Metrology_registers_16 : ∃ (s : State) (r : Req), Instr.admitted (.metSeq r) s ∧ (s.noUnit (argw r 1) = false) ∧ (bit (word (argw r 4)) 31 = false) ∧ (argw r 3 < 16) :=
  ⟨Wit.user, (Wit.req [31, 3, 15, 64]), (Instr.admitted_iff _ rfl).2 (by decide +kernel), by decide +kernel⟩
theorem wit_Metrology_registers_17 : ∃ (s : State) (r : Req), Instr.admitted (.metWin r) s ∧ s.takesEntry ∧ (s.noUnit (argw r 1) = false) ∧ (8 ≤ argw r 2) ∧ (argw r 2 < 16) ∧ (chanOk (argw r 1) (argw r 3) = true) :=
  ⟨Wit.user, (Wit.req [31, 15, 0, 0, 0]), (Instr.admitted_iff _ rfl).2 (by decide +kernel), ⟨by decide +kernel, by decide +kernel⟩, by decide +kernel⟩
theorem wit_Metrology_registers_18 : ∃ (s : State) (r : Req), Instr.admitted (.metSelfcal r) s ∧ (s.noUnit (argw r 1) = false) ∧ (s.hotUnit (argw r 1) = false) ∧ ((s.met (argw r 1)).on = true) ∧ ((s.ackPending r).hotUnit (argw r 1) = false) ∧ (((s.ackPending r).met (argw r 1)).on = true) :=
  ⟨(Wit.user.setMet 31 { on := true }), (Wit.req [31]), (Instr.admitted_iff _ rfl).2 (by decide +kernel), by decide +kernel⟩
theorem wit_Metrology_registers_19 : ∃ (s : State) (r : Req), Instr.admitted (.metSelfcal r) s ∧ (s.noUnit (argw r 1) = false) ∧ (s.hotUnit (argw r 1) = true ∨ (s.met (argw r 1)).on = false) :=
  ⟨Wit.user, (Wit.req [31]), (Instr.admitted_iff _ rfl).2 (by decide +kernel), by decide +kernel⟩
theorem wit_Metrology_registers_20 : ∃ (s : State) (r : Req), Instr.admitted (.metDump r) s ∧ (s.noUnit (argw r 1) = false) ∧ (1 ≤ argw r 3) ∧ (argw r 3 ≤ 512) ∧ (s.sink (argw r 2) (8 * ((s.met (argw r 1)).queue.take (argw r 3)).length) = 0) :=
  ⟨(Wit.obj.setMet 31 { queue := [7] }), (Wit.req [31, 0, 2]), (Instr.admitted_iff _ rfl).2 (by decide +kernel), by decide +kernel⟩
theorem wit_Bead_commands_0 : ∃ (s : State) (r : Req) (k : Nat), Instr.admitted (.beadOpen r) s ∧ (argw64 r 1 ≠ 0) ∧ (cdiv (argw64 r 1) (2 ^ 30) ≤ 4096) ∧ (s.freeHandles (srcHub r.src) (cdiv (argw64 r 1) (2 ^ 30)) = some k) :=
  ⟨Wit.user, (Wit.req [5, 0]), 1, (Instr.admitted_iff _ rfl).2 (by decide +kernel), by decide +kernel⟩
theorem wit_Bead_commands_1 : ∃ (s : State) (r : Req), Instr.admitted (.beadOpen r) s ∧ (argw64 r 1 = 0) :=
  ⟨Wit.user, (Wit.req [0, 0]), (Instr.admitted_iff _ rfl).2 (by decide +kernel), by decide +kernel⟩
theorem wit_Bead_commands_2 : ∃ (s : State) (r : Req), Instr.admitted (.beadOpen r) s ∧ (argw64 r 1 ≠ 0) ∧ (4096 < cdiv (argw64 r 1) (2 ^ 30)) :=
  ⟨Wit.user, (Wit.req [0, 2048]), (Instr.admitted_iff _ rfl).2 (by decide +kernel), by decide +kernel⟩
theorem wit_Bead_commands_3 : ∃ (s : State) (r : Req) (h : Handle), Instr.admitted (.beadClose r) s ∧ (s.handle (argw r 1) = some h) ∧ (h.fmt = 0xFE) ∧ (h.first = argw r 1) ∧ (h.busy = 0) ∧ (s.objBusy (argw r 1) = false) :=
  ⟨(Wit.user.setHandle 0 (some { fmt := 0xFE, codeLen := 5 })), (Wit.req [0]), { fmt := 0xFE, codeLen := 5 }, (Instr.admitted_iff _ rfl).2 (by decide +kernel), by decide +kernel⟩
theorem wit_Bead_commands_4 : ∃ (s : State) (r : Req) (h : Handle), Instr.admitted (.beadClose r) s ∧ (s.handle (argw r 1) = some h) ∧ (h.fmt = 0xFE) ∧ (h.first = argw r 1) ∧ (h.busy ≠ 0) :=
  ⟨(Wit.user.setHandle 0 (some { fmt := 0xFE, codeLen := 5, busy := 1 })), (Wit.req [0]), { fmt := 0xFE, codeLen := 5, busy := 1 }, (Instr.admitted_iff _ rfl).2 (by decide +kernel), by decide +kernel⟩
theorem wit_Bead_commands_5 : ∃ (s : State) (r : Req), Instr.admitted (.beadClose r) s ∧ (s.handle (argw r 1) = none) :=
  ⟨Wit.user, (Wit.req [0]), (Instr.admitted_iff _ rfl).2 (by decide +kernel), by decide +kernel⟩
theorem wit_Bead_commands_6 : ∃ (s : State) (r : Req) (k : Nat), Instr.admitted (.beadPlane r) s ∧ (s.frameAddr? (argw r 1) = some k) ∧ (argw r 2 < 8) :=
  ⟨Wit.user, (Wit.req [0, 7]), 0, (Instr.admitted_iff _ rfl).2 (by decide +kernel), by decide +kernel⟩
theorem wit_Bead_commands_7 : ∃ (s : State) (r : Req), Instr.admitted (.beadPlane r) s ∧ (s.frameAddr? (argw r 1) = none) :=
  ⟨Wit.user, (Wit.req [34, 7]), (Instr.admitted_iff _ rfl).2 (by decide +kernel), by decide +kernel⟩
theorem wit_Bead_commands_8 : ∃ (s : State) (r : Req), Instr.admitted (.beadWear r) s ∧ (argw r 1 < 32) ∧ (s.disabled (mapDie (argw r 1)) = false) :=
  ⟨Wit.user, (Wit.req [31]), (Instr.admitted_iff _ rfl).2 (by decide +kernel), by decide +kernel⟩
theorem wit_Bead_commands_9 : ∃ (s : State) (r : Req), Instr.admitted (.beadWear r) s ∧ (32 ≤ argw r 1 ∨ s.disabled (mapDie (argw r 1)) = true) :=
  ⟨Wit.user, (Wit.req [32]), (Instr.admitted_iff _ rfl).2 (by decide +kernel), by decide +kernel⟩
theorem wit_Ring_commands_0 : ∃ (s : State) (r : Req) (c : Nat), Instr.admitted (.ringCfg r) s ∧ s.takesEntry ∧ (argw r 1 < 4096) ∧ (argw r 5 ≤ 1) ∧ (1 ≤ argw r 2) ∧ (argw r 2 ≤ 1024) ∧ (1 ≤ argw r 3) ∧ (argw r 3 ≤ 16) ∧ (argw r 4 < 64) ∧ ((s.score (argw r 4)).st = 4) ∧ ((s.ringSess (argw r 1)) = none) ∧ (s.held (argw r 1) = 0) ∧ (s.ringDepth (argw r 1) = 0) ∧ (nsum (s.ringList.map s.ringDepth) + argw r 2 ≤ 65536) ∧ ((s.score (argw r 4)).freeCtx = some c) ∧ (argw r 5 = 0) :=
  ⟨Wit.ringed, (Wit.req [1, 2, 16, 0, 0]), 1, (Instr.admitted_iff _ rfl).2 (by decide +kernel), ⟨by decide +kernel, by decide +kernel⟩, by decide +kernel⟩
theorem wit_Ring_commands_1 : ∃ (s : State) (r : Req), Instr.admitted (.ringCfg r) s ∧ (argw r 1 < 4096) ∧ (argw r 5 ≤ 1) ∧ (1 ≤ argw r 2) ∧ (argw r 2 ≤ 1024) ∧ (1 ≤ argw r 3) ∧ (argw r 3 ≤ 16) ∧ (argw r 4 < 64) ∧ ((s.score (argw r 4)).st = 0) :=
  ⟨Wit.ringed, (Wit.req [4095, 1024, 16, 63, 1]), (Instr.admitted_iff _ rfl).2 (by decide +kernel), by decide +kernel⟩
theorem wit_Ring_commands_2 : ∃ (s : State) (r : Req), Instr.admitted (.ringCfg r) s ∧ (argw r 1 < 4096) ∧ (argw r 5 ≤ 1) ∧ (1 ≤ argw r 2) ∧ (argw r 2 ≤ 1024) ∧ (1 ≤ argw r 3) ∧ (argw r 3 ≤ 16) ∧ (argw r 4 < 64) ∧ ((s.score (argw r 4)).st = 4) ∧ ((s.ringSess (argw r 1)).isSome = true ∨ s.held (argw r 1) ≠ 0) :=
  ⟨Wit.attached, (Wit.req [0, 1024, 16, 0, 1]), (Instr.admitted_iff _ rfl).2 (by decide +kernel), by decide +kernel⟩
theorem wit_Ring_commands_3 : ∃ (s : State) (r : Req) (h : Hub) (n : Fin 16), Instr.admitted (.ringAttach r) s ∧ (s.ringCode (argw r 1) = 0) ∧ (s.ringSess (argw r 1) = none) ∧ (r.src = .session h n) :=
  ⟨Wit.ringed, (Wit.req [0]), 0, 1, (Instr.admitted_iff _ rfl).2 (by decide +kernel), by decide +kernel⟩
theorem wit_Ring_commands_4 : ∃ (s : State) (r : Req), Instr.admitted (.ringAttach r) s ∧ (s.ringCode (argw r 1) = 0) ∧ ((s.ringSess (argw r 1)).isSome = true) :=
  ⟨Wit.attached, (Wit.req [0]), (Instr.admitted_iff _ rfl).2 (by decide +kernel), by decide +kernel⟩
theorem wit_Ring_commands_5 : ∃ (s : State) (r : Req), Instr.admitted (.ringAttach r) s ∧ (s.ringCode (argw r 1) ≠ 0) :=
  ⟨Wit.user, (Wit.req [5]), (Instr.admitted_iff _ rfl).2 (by decide +kernel), by decide +kernel⟩
theorem wit_Ring_commands_6 : ∃ (s : State) (r : Req), Instr.admitted (.ringDetach r) s ∧ (s.ringCode (argw r 1) ≠ 0) :=
  ⟨Wit.user, (Wit.req [5]), (Instr.admitted_iff _ rfl).2 (by decide +kernel), by decide +kernel⟩
theorem wit_Ring_commands_7 : ∃ (s : State) (r : Req), Instr.admitted (.ringPause r) s ∧ (s.ringCode (argw r 1) ≠ 0) :=
  ⟨Wit.user, (Wit.req [5]), (Instr.admitted_iff _ rfl).2 (by decide +kernel), by decide +kernel⟩
theorem wit_Ring_commands_8 : ∃ (s : State) (r : Req), Instr.admitted (.ringResume r) s ∧ (s.ringCode (argw r 1) ≠ 0) :=
  ⟨Wit.user, (Wit.req [5]), (Instr.admitted_iff _ rfl).2 (by decide +kernel), by decide +kernel⟩
theorem wit_Ring_commands_9 : ∃ (s : State) (r : Req), Instr.admitted (.ringHreset r) s ∧ (s.ringCode (argw r 1) ≠ 0) :=
  ⟨Wit.user, (Wit.req [5]), (Instr.admitted_iff _ rfl).2 (by decide +kernel), by decide +kernel⟩
theorem wit_Ring_commands_10 : ∃ (s : State) (r : Req), Instr.admitted (.ringStat r) s ∧ (s.ringCode (argw r 1) ≠ 0) :=
  ⟨Wit.user, (Wit.req [5]), (Instr.admitted_iff _ rfl).2 (by decide +kernel), by decide +kernel⟩
theorem wit_Ring_commands_11 : ∃ (s : State) (r : Req), Instr.admitted (.jobCancel r) s ∧ (s.ringCode (argw r 1) ≠ 0) :=
  ⟨Wit.user, (Wit.req [5, 0, 0]), (Instr.admitted_iff _ rfl).2 (by decide +kernel), by decide +kernel⟩
theorem wit_Ring_commands_12 : ∃ (s : State) (r : Req), Instr.admitted (.jobCkpt r) s ∧ (s.ringCode (argw r 1) ≠ 0) :=
  ⟨Wit.user, (Wit.req [5, 0]), (Instr.admitted_iff _ rfl).2 (by decide +kernel), by decide +kernel⟩
theorem wit_Ring_commands_13 : ∃ (s : State) (r : Req), Instr.admitted (.jobRestore r) s ∧ (s.ringCode (argw r 1) ≠ 0) :=
  ⟨Wit.user, (Wit.req [5, 0]), (Instr.admitted_iff _ rfl).2 (by decide +kernel), by decide +kernel⟩
theorem wit_Ring_commands_14 : ∃ (s : State) (r : Req) (h : Hub) (n : Fin 16), Instr.admitted (.ringDetach r) s ∧ (s.ringCode (argw r 1) = 0) ∧ (r.src = .session h n) ∧ (s.ringSess (argw r 1) = some (sessKey h n)) :=
  ⟨Wit.attached, (Wit.req [0]), 0, 1, (Instr.admitted_iff _ rfl).2 (by decide +kernel), by decide +kernel⟩
theorem wit_Ring_commands_15 : ∃ (s : State) (r : Req) (h : Hub) (n : Fin 16), Instr.admitted (.ringDetach r) s ∧ (s.ringCode (argw r 1) = 0) ∧ (r.src = .session h n) ∧ (s.ringSess (argw r 1) ≠ some (sessKey h n)) :=
  ⟨Wit.ringed, (Wit.req [0]), 0, 1, (Instr.admitted_iff _ rfl).2 (by decide +kernel), by decide +kernel⟩
theorem wit_Ring_commands_16 : ∃ (s : State) (r : Req), Instr.admitted (.ringPause r) s ∧ (s.ringCode (argw r 1) = 0) ∧ (s.runningOf (argw r 1) = []) :=
  ⟨Wit.ringed, (Wit.req [0]), (Instr.admitted_iff _ rfl).2 (by decide +kernel), by decide +kernel⟩
theorem wit_Ring_commands_17 : ∃ (s : State) (r : Req), Instr.admitted (.ringPause r) s ∧ (s.ringCode (argw r 1) = 0) ∧ (s.runningOf (argw r 1) ≠ []) :=
  ⟨Wit.runs, (Wit.req [0]), (Instr.admitted_iff _ rfl).2 (by decide +kernel), by decide +kernel⟩
theorem wit_Ring_commands_18 : ∃ (s : State) (r : Req), Instr.admitted (.ringResume r) s ∧ (s.ringCode (argw r 1) = 0) ∧ ((s.ring (argw r 1)).replay = none) :=
  ⟨Wit.pausedRing, (Wit.req [0]), (Instr.admitted_iff _ rfl).2 (by decide +kernel), by decide +kernel⟩
theorem wit_Ring_commands_19 : ∃ (s : State) (r : Req), Instr.admitted (.ringResume r) s ∧ (s.ringCode (argw r 1) = 0) ∧ ((s.ring (argw r 1)).replay.isSome = true) :=
  ⟨(Wit.ringed.setRing 0 { paused := true, replay := some [] }), (Wit.req [0]), (Instr.admitted_iff _ rfl).2 (by decide +kernel), by decide +kernel⟩
theorem wit_Ring_commands_20 : ∃ (s : State) (r : Req), Instr.admitted (.ringHreset r) s ∧ (s.ringCode (argw r 1) = 0) ∧ (s.runningOf (argw r 1) = []) :=
  ⟨Wit.ringed, (Wit.req [0]), (Instr.admitted_iff _ rfl).2 (by decide +kernel), by decide +kernel⟩
theorem wit_Ring_commands_21 : ∃ (s : State) (r : Req), Instr.admitted (.ringHreset r) s ∧ (s.ringCode (argw r 1) = 0) ∧ (s.runningOf (argw r 1) ≠ []) :=
  ⟨Wit.runs, (Wit.req [0]), (Instr.admitted_iff _ rfl).2 (by decide +kernel), by decide +kernel⟩
theorem wit_Ring_commands_22 : ∃ (s : State) (r : Req), Instr.admitted (.ringStat r) s ∧ (s.ringCode (argw r 1) = 0) :=
  ⟨Wit.ringed, (Wit.req [0]), (Instr.admitted_iff _ rfl).2 (by decide +kernel), by decide +kernel⟩
theorem wit_Ring_commands_23 : ∃ (s : State) (r : Req), Instr.admitted (.ringDelete r) s ∧ s.takesEntry ∧ (s.ringCode (argw r 1) = 0) ∧ (s.ringSess (argw r 1) = none) ∧ (s.held (argw r 1) = 0) :=
  ⟨Wit.ringed, (Wit.req [0]), (Instr.admitted_iff _ rfl).2 (by decide +kernel), ⟨by decide +kernel, by decide +kernel⟩, by decide +kernel⟩
theorem wit_Ring_commands_24 : ∃ (s : State) (r : Req), Instr.admitted (.ringDelete r) s ∧ (s.ringCode (argw r 1) = 0) ∧ ((s.ringSess (argw r 1)).isSome = true ∨ s.held (argw r 1) ≠ 0) :=
  ⟨Wit.attached, (Wit.req [0]), (Instr.admitted_iff _ rfl).2 (by decide +kernel), by decide +kernel⟩
theorem wit_Job_commands_0 : ∃ (s : State) (r : Req) (k : Nat), Instr.admitted (.jobHandle r) s ∧ (argw r 1 = 0xFF ∨ dataFormat (argw r 1) = true) ∧ (argw r 4 ≤ 3) ∧ (argw r 3 = 0) ∧ (s.freeHandles (srcHub r.src) 1 = some k) :=
  ⟨Wit.user, (Wit.req [255, 5, 0, 3]), 1, (Instr.admitted_iff _ rfl).2 (by decide +kernel), by decide +kernel⟩
theorem wit_Job_commands_1 : ∃ (s : State) (r : Req) (k : Nat) (f : Fmt), Instr.admitted (.jobHandle r) s ∧ (dataFormat (argw r 1) = true) ∧ (Fmt.ofCode (argw r 1) = some f) ∧ (f.hasExp = true) ∧ (argw r 4 ≤ 3) ∧ (s.freeHandles (srcHub r.src) 1 = some k) :=
  ⟨Wit.user, (Wit.req [0, 5, 1, 3]), 1, .a8u, (Instr.admitted_iff _ rfl).2 (by decide +kernel), by decide +kernel⟩
theorem wit_Job_commands_2 : ∃ (s : State) (r : Req), Instr.admitted (.jobHandle r) s ∧ (argw r 1 ≠ 0xFF) ∧ (dataFormat (argw r 1) = false) :=
  ⟨Wit.user, (Wit.req [31, 0, 0, 0]), (Instr.admitted_iff _ rfl).2 (by decide +kernel), by decide +kernel⟩
theorem wit_Job_commands_3 : ∃ (s : State) (r : Req) (h : Handle), Instr.admitted (.jobFree r) s ∧ (s.handle (argw r 1) = some h) ∧ (h.fmt ≠ 0xFE) ∧ (h.busy = 0) ∧ (s.objBusy (argw r 1) = false) :=
  ⟨Wit.obj, (Wit.req [0]), Wit.object, (Instr.admitted_iff _ rfl).2 (by decide +kernel), by decide +kernel⟩
theorem wit_Job_commands_4 : ∃ (s : State) (r : Req) (h : Handle), Instr.admitted (.jobFree r) s ∧ (s.handle (argw r 1) = some h) ∧ (h.fmt ≠ 0xFE) ∧ (h.busy ≠ 0) :=
  ⟨(Wit.user.setHandle 0 (some { fmt := 0xFF, codeLen := 5, busy := 1 })), (Wit.req [0]), { fmt := 0xFF, codeLen := 5, busy := 1 }, (Instr.admitted_iff _ rfl).2 (by decide +kernel), by decide +kernel⟩
theorem wit_Job_commands_5 : ∃ (s : State) (r : Req), Instr.admitted (.jobFree r) s ∧ (s.handle (argw r 1) = none) :=
  ⟨Wit.user, (Wit.req [0]), (Instr.admitted_iff _ rfl).2 (by decide +kernel), by decide +kernel⟩
theorem wit_Job_commands_6 : ∃ (s : State) (r : Req), Instr.admitted (.jobCancel r) s ∧ (s.ringCode (argw r 1) = 0) ∧ (((s.ring (argw r 1)).jobs.filter fun j => match s.job j with | some x => x.tag == argw64 r 2 | none => false) ≠ []) :=
  ⟨Wit.runs, (Wit.req [0, 9, 0]), (Instr.admitted_iff _ rfl).2 (by decide +kernel), by decide +kernel⟩
theorem wit_Job_commands_7 : ∃ (s : State) (r : Req), Instr.admitted (.jobCancel r) s ∧ (s.ringCode (argw r 1) = 0) ∧ (((s.ring (argw r 1)).jobs.filter fun j => match s.job j with | some x => x.tag == argw64 r 2 | none => false) = []) :=
  ⟨Wit.runs, (Wit.req [0, 8, 0]), (Instr.admitted_iff _ rfl).2 (by decide +kernel), by decide +kernel⟩
theorem wit_Job_commands_8 : ∃ (s : State) (r : Req) (h : Handle) (b : Hub) (n : Fin 16), Instr.admitted (.jobFetch r) s ∧ (s.handle (argw r 1) = some h) ∧ (h.fmt ≠ 0xFE) ∧ (argw r 2 = 0) ∧ (argw r 3 + argw r 4 ≤ h.codeLen) ∧ (r.src = .session b n) :=
  ⟨Wit.obj, (Wit.req [0, 0, 1, 2]), Wit.object, 0, 1, (Instr.admitted_iff _ rfl).2 (by decide +kernel), by decide +kernel⟩
theorem wit_Job_commands_9 : ∃ (s : State) (r : Req) (h : Handle) (b : Hub) (n : Fin 16), Instr.admitted (.jobFetch r) s ∧ (s.handle (argw r 1) = some h) ∧ (h.fmt ≠ 0xFE) ∧ (argw r 2 = 1) ∧ (argw r 3 + argw r 4 ≤ h.expLen) ∧ (r.src = .session b n) :=
  ⟨Wit.obj, (Wit.req [0, 1, 0, 0]), Wit.object, 0, 1, (Instr.admitted_iff _ rfl).2 (by decide +kernel), by decide +kernel⟩
theorem wit_Job_commands_10 : ∃ (s : State) (r : Req), Instr.admitted (.jobPagesFree r) s ∧ ((mget none s.wk.maps (argw r 1)).isSome = true) ∧ (s.mapBusy (argw r 1) = false) :=
  ⟨Wit.mapped, (Wit.req [7]), (Instr.admitted_iff _ rfl).2 (by decide +kernel), by decide +kernel⟩
theorem wit_Job_commands_11 : ∃ (s : State) (r : Req), Instr.admitted (.jobPagesFree r) s ∧ ((mget none s.wk.maps (argw r 1)) = none) :=
  ⟨Wit.user, (Wit.req [7]), (Instr.admitted_iff _ rfl).2 (by decide +kernel), by decide +kernel⟩
theorem wit_Job_commands_12 : ∃ (s : State) (r : Req) (h : Handle), Instr.admitted (.jobCkpt r) s ∧ (s.ringCode (argw r 1) = 0) ∧ (s.handle (argw r 2) = some h) ∧ (h.fmt = 0xFF) ∧ (s.runningOf (argw r 1) = []) ∧ (s.ckptBad (argw r 1) = false) ∧ ((s.checkpoint (argw r 1)).length ≤ h.codeLen) :=
  ⟨(Wit.ringed.setHandle 0 (some Wit.object)), (Wit.req [0, 0]), Wit.object, (Instr.admitted_iff _ rfl).2 (by decide +kernel), by decide +kernel⟩
theorem wit_Job_commands_13 : ∃ (s : State) (r : Req) (bs : List Byte), Instr.admitted (.jobRestore r) s ∧ (s.ringCode (argw r 1) = 0) ∧ (s.object (argw r 2) = .ok bs) ∧ (s.held (argw r 1) = 0) ∧ (ckValid (bs.take (leAt bs 16 8)) = true) ∧ ((s.ring (argw r 1)).paused = true) ∧ ((s.score (s.ringScore (argw r 1))).st = 4) ∧ ((s.score (s.ringScore (argw r 1))).id = leAt (bs.take (leAt bs 16 8)) 8 8) ∧ ((s.score (s.ringScore (argw r 1))).digest.take 32 = slice (bs.take (leAt bs 16 8)) 32 32) :=
  ⟨Wit.restore, (Wit.req [0, 0]), Wit.ckBytes, (Instr.admitted_iff _ rfl).2 (by decide +kernel), by decide +kernel⟩
theorem wit_Job_commands_14 : ∃ (s : State) (r : Req) (bs : List Byte), Instr.admitted (.jobRestore r) s ∧ (s.ringCode (argw r 1) = 0) ∧ (s.object (argw r 2) = .ok bs) ∧ (s.held (argw r 1) = 0) ∧ (ckValid (bs.take (leAt bs 16 8)) = false) :=
  ⟨(Wit.ringed.setHandle 0 (Wit.done.handle 0)), (Wit.req [0, 0]), [7], (Instr.admitted_iff _ rfl).2 (by decide +kernel), by decide +kernel⟩
theorem wit_Ledger_commands_0 : ∃ (s : State) (r : Req), Instr.admitted (.ldgRead r) s ∧ (argw r 1 < 8) ∧ (argw r 3 ≠ 0) ∧ ((regionPages (argw r 1)).1 + argw r 2 + argw r 3 ≤ (regionPages (argw r 1)).2) ∧ (s.readCode r.src (argw r 1) = 0) ∧ (s.sink (argw r 4) (256 * argw r 3) = 0) :=
  ⟨Wit.obj, (Wit.req [7, 0, 1, 0]), (Instr.admitted_iff _ rfl).2 (by decide +kernel), by decide +kernel⟩
theorem wit_Ledger_commands_1 : ∃ (s : State) (r : Req), Instr.admitted (.ldgRead r) s ∧ (argw r 1 < 8) ∧ (argw r 3 ≠ 0) ∧ ((regionPages (argw r 1)).1 + argw r 2 + argw r 3 ≤ (regionPages (argw r 1)).2) ∧ (argw r 1 = 6) :=
  ⟨Wit.obj, (Wit.req [6, 0, 1, 0]), (Instr.admitted_iff _ rfl).2 (by decide +kernel), by decide +kernel⟩
theorem wit_Ledger_commands_2 : ∃ (s : State) (r : Req) (bs : List Byte), Instr.admitted (.ldgWrite r) s ∧ s.takesEntry ∧ (argw r 1 = 7 ∨ (argw r 1 = 5 ∧ 64 ≤ argw r 2)) ∧ ((regionPages (argw r 1)).1 + argw r 2 < (regionPages (argw r 1)).2) ∧ (s.gated r.src (argw r 1) 1 = false) ∧ (s.object (argw r 3) = .ok bs) ∧ (bs.length = 256) :=
  ⟨Wit.page, (Wit.req [7, 117, 0]), (List.replicate 256 3), (Instr.admitted_iff _ rfl).2 (by decide +kernel), ⟨by decide +kernel, by decide +kernel⟩, by decide +kernel⟩
theorem wit_Ledger_commands_3 : ∃ (s : State) (r : Req), Instr.admitted (.ldgWrite r) s ∧ (argw r 1 < 8) ∧ ((regionPages (argw r 1)).1 + argw r 2 < (regionPages (argw r 1)).2) ∧ (argw r 1 ≠ 5) ∧ (argw r 1 ≠ 7) :=
  ⟨Wit.user, (Wit.req [0, 0, 0]), (Instr.admitted_iff _ rfl).2 (by decide +kernel), by decide +kernel⟩
theorem wit_Ledger_commands_4 : ∃ (s : State) (r : Req), Instr.admitted (.ldgCounter r) s ∧ (argw r 1 < 64) ∧ (argw r 2 = 0) :=
  ⟨Wit.user, (Wit.req [63, 0]), (Instr.admitted_iff _ rfl).2 (by decide +kernel), by decide +kernel⟩
theorem wit_Ledger_commands_5 : ∃ (s : State) (r : Req), Instr.admitted (.ldgCounter r) s ∧ s.takesEntry ∧ (32 ≤ argw r 1) ∧ (argw r 1 < 64) ∧ (argw r 2 = 1) ∧ (s.pstate ≠ 0) ∧ (s.counter (argw r 1) < 2 ^ 48 - 1) ∧ ((Instr.entered (.ldgCounter r) s).counter (argw r 1) < 2 ^ 48 - 1) :=
  ⟨Wit.user, (Wit.req [63, 1]), (Instr.admitted_iff _ rfl).2 (by decide +kernel), ⟨by decide +kernel, by decide +kernel⟩, by decide +kernel⟩
theorem wit_Ledger_commands_6 : ∃ (s : State) (r : Req), Instr.admitted (.ldgCounter r) s ∧ (argw r 1 < 32) ∧ (argw r 2 = 1) :=
  ⟨Wit.user, (Wit.req [31, 1]), (Instr.admitted_iff _ rfl).2 (by decide +kernel), by decide +kernel⟩
theorem wit_Ledger_commands_7 : ∃ (s : State) (r : Req) (h : Hub) (n : Fin 16), Instr.admitted (.ldgUnlock r) s ∧ (passwRegion (argw r 1) = true) ∧ (argw r 2 ≤ 1) ∧ (mget 0 s.lg.passFail (argw r 1) = 0) ∧ (mget [] s.lg.passw (2 * argw r 1 + argw r 2) = [] ∨ mget [] s.lg.passw (2 * argw r 1 + argw r 2) = sha3 (wordsToBytes ((r.args.drop 2).take 4))) ∧ (r.src = .session h n) :=
  ⟨Wit.user, (Wit.req [7, 1, 0, 0, 0, 0]), 0, 1, (Instr.admitted_iff _ rfl).2 (by decide +kernel), by decide +kernel⟩
theorem wit_Ledger_commands_8 : ∃ (s : State) (r : Req), Instr.admitted (.ldgUnlock r) s ∧ (passwRegion (argw r 1) = true) ∧ (argw r 2 ≤ 1) ∧ (mget 0 s.lg.passFail (argw r 1) < 9) ∧ (mget [] s.lg.passw (2 * argw r 1 + argw r 2) ≠ []) ∧ (mget [] s.lg.passw (2 * argw r 1 + argw r 2) ≠ sha3 (wordsToBytes ((r.args.drop 2).take 4))) :=
  ⟨Wit.locked 0, (Wit.req [7, 1, 0, 0, 0, 0]), (Instr.admitted_iff _ rfl).2 (by decide +kernel), by decide +kernel⟩
theorem wit_Ledger_commands_9 : ∃ (s : State) (r : Req), Instr.admitted (.ldgUnlock r) s ∧ (passwRegion (argw r 1) = true) ∧ (argw r 2 ≤ 1) ∧ (10 ≤ mget 0 s.lg.passFail (argw r 1)) :=
  ⟨Wit.locked 10, (Wit.req [7, 1, 0, 0, 0, 0]), (Instr.admitted_iff _ rfl).2 (by decide +kernel), by decide +kernel⟩
theorem wit_Ledger_commands_10 : ∃ (s : State) (r : Req), Instr.admitted (.ldgUnlock r) s ∧ (passwRegion (argw r 1) = false) :=
  ⟨Wit.user, (Wit.req [6, 1, 0, 0, 0, 0]), (Instr.admitted_iff _ rfl).2 (by decide +kernel), by decide +kernel⟩
theorem wit_Ledger_commands_11 : ∃ (s : State) (r : Req), Instr.admitted (.ldgPasswd r) s ∧ s.takesEntry ∧ (passwRegion (argw r 1) = true) ∧ (argw r 2 ≤ 1) :=
  ⟨Wit.user, (Wit.req [7, 1, 5, 0, 0, 0]), (Instr.admitted_iff _ rfl).2 (by decide +kernel), ⟨by decide +kernel, by decide +kernel⟩, by decide +kernel⟩
theorem wit_Ledger_commands_12 : ∃ (s : State) (r : Req), Instr.admitted (.ldgAudit r) s ∧ (s.gated r.src 4 0 = false) ∧ (argw r 1 + argw r 2 ≤ s.counter 6) ∧ (s.counter 6 ≤ argw r 1 + 1536) ∧ (s.sink (argw r 3) (32 * argw r 2) = 0) :=
  ⟨Wit.obj, (Wit.req [0, 0, 0]), (Instr.admitted_iff _ rfl).2 (by decide +kernel), by decide +kernel⟩
theorem wit_Ledger_commands_13 : ∃ (s : State) (r : Req), Instr.admitted (.ldgAudit r) s ∧ (s.gated r.src 4 0 = false) ∧ (s.counter 6 < argw r 1 + argw r 2) :=
  ⟨Wit.user, (Wit.req [0, 1, 0]), (Instr.admitted_iff _ rfl).2 (by decide +kernel), by decide +kernel⟩
theorem wit_Ledger_upkeep_0 : ∃ (s : State) (p : Nat) (bs : List Byte) (q : List (Nat × List Byte)), (s.lg.ready = true) ∧ (s.pstate ≠ 0) ∧ (s.lg.queue = (p, bs) :: q) :=
  ⟨{ Wit.user with lg.ready := true, lg.queue := [(5, [1])] }, 5, [1], [], by decide +kernel⟩
theorem wit_Ledger_upkeep_1 : ∃ (s : State), (s.lg.ready = false ∨ s.pstate = 0 ∨ s.lg.queue = []) :=
  ⟨State.reset, by decide⟩
theorem wit_Ledger_upkeep_2 : ∃ (s : State) (k : Fin 64), (s.lg.ready = true) ∧ (s.pstate ≠ 0) ∧ (reservedCtr k = false) ∧ (s.counter k < 2 ^ 48 - 1) :=
  ⟨{ Wit.user with lg.ready := true }, 63, by decide +kernel⟩
theorem wit_Ledger_upkeep_3 : ∃ (s : State) (k : Fin 64), (s.lg.ready = false ∨ s.pstate = 0 ∨ reservedCtr k = true ∨ 2 ^ 48 - 1 ≤ s.counter k) :=
  ⟨(State.reset.setPstate 0), 63, by decide +kernel⟩
set_option maxRecDepth 100000 in
theorem wit_Ledger_upkeep_4 : ∃ (s : State) (pg : Fin 1024) (c i : Nat), (s.lg.ready = true) ∧ (s.lg.pages.contains pg.val = false) ∧ (s.committed pg = some (c, i)) :=
  ⟨Wit.paged, 1023, 0, 0, by decide +kernel⟩
theorem wit_Ledger_upkeep_5 : ∃ (s : State) (pg : Fin 1024), (s.lg.ready = true) ∧ (s.lg.pages.contains pg.val = false) ∧ (s.committed pg = none) :=
  ⟨{ State.reset with lg.ready := true }, 1023, by decide⟩
theorem wit_Ledger_upkeep_6 : ∃ (s : State) (pg : Fin 1024), (s.lg.ready = false ∨ s.lg.pages.contains pg.val = true) :=
  ⟨{ State.reset with lg.ready := true, lg.pages := [1023] }, 1023, by decide⟩
theorem wit_Ledger_upkeep_7 : ∃ (s : State) (k : Fin 64), (s.lg.ready = true) ∧ (s.lg.ctrs.contains k.val = false) :=
  ⟨{ State.reset with lg.ready := true }, 63, by decide⟩
theorem wit_Ledger_upkeep_8 : ∃ (s : State) (k : Fin 64), (s.lg.ready = false ∨ s.lg.ctrs.contains k.val = true) :=
  ⟨{ State.reset with lg.ready := true, lg.ctrs := [63] }, 63, by decide⟩
theorem wit_Ledger_upkeep_9 : ∃ (s : State) (slots cells : List Nat), (s.lg.ready = true) ∧ (s.marginDue = true) ∧ (s.pstate ≠ 0 ∨ s.weakOf slots ++ (cells.filter fun k => k / 4096 < 2) = []) :=
  ⟨{ Wit.user with lg.ready := true, lg.marginAt := none }, [], [5], by decide +kernel⟩
theorem wit_Ledger_upkeep_10 : ∃ (s : State), (s.lg.ready = false ∨ s.marginDue = false) :=
  ⟨{ State.reset with lg.ready := false }, by decide⟩
theorem wit_Ledger_upkeep_11 : ∃ (s : State) (h : Hub), (s.lg.inServ.getD h false = true) ∧ (s.lg.inServ.getD (1 - h.val) false = true) :=
  ⟨State.reset, 1, by decide +kernel⟩
theorem wit_Ledger_upkeep_12 : ∃ (s : State) (h : Hub), (s.lg.inServ.getD h false = false ∨ s.lg.inServ.getD (1 - h.val) false = false) :=
  ⟨{ State.reset with lg.inServ := [true, false] }, 1, by decide⟩
theorem wit_Ledger_upkeep_13 : ∃ (s : State) (h : Hub), (s.lg.inServ.getD h false = false) ∧ (s.lg.inServ.getD (1 - h.val) false = true) :=
  ⟨{ State.reset with lg.inServ := [true, false] }, 1, by decide⟩
theorem wit_Ledger_upkeep_14 : ∃ (s : State) (h : Hub), (s.lg.inServ.getD h false = true ∨ s.lg.inServ.getD (1 - h.val) false = false) :=
  ⟨State.reset, 1, by decide⟩
theorem wit_Ledger_upkeep_15 : ∃ (s : State), (s.lg.ready = false) ∧ (3135 ≤ s.pw.vsb) ∧ (s.pw.vsb ≤ 3465) :=
  ⟨{ State.reset with lg.ready := false, pw.vsb := 3465 }, by decide⟩
theorem wit_Ledger_upkeep_16 : ∃ (s : State), (s.lg.ready = true ∨ s.pw.vsb < 3135 ∨ 3465 < s.pw.vsb) :=
  ⟨{ State.reset with pw.vsb := 3466 }, by decide⟩
theorem wit_Security_commands_0 : ∃ (s : State) (r : Req) (h : Hub) (n : Fin 16), Instr.admitted (.secChallenge r) s ∧ (r.src = .session h n) ∧ (1 ≤ argw r 1) ∧ (argw r 1 ≤ 2) ∧ ((s.sess (sessKey h n)).chalBlock ≤ s.now) :=
  ⟨Wit.user, (Wit.req [2]), 0, 1, (Instr.admitted_iff _ rfl).2 (by decide +kernel), by decide +kernel⟩
theorem wit_Security_commands_1 : ∃ (s : State) (r : Req) (h : Hub) (n : Fin 16), Instr.admitted (.secChallenge r) s ∧ (r.src = .session h n) ∧ (1 ≤ argw r 1) ∧ (argw r 1 ≤ 2) ∧ (s.now < (s.sess (sessKey h n)).chalBlock) :=
  ⟨(Wit.user.setSess 1 { opened := true, role := 3, chalBlock := 1 }), (Wit.req [2]), 0, 1, (Instr.admitted_iff _ rfl).2 (by decide +kernel), by decide +kernel⟩
theorem wit_Security_commands_2 : ∃ (s : State) (r : Req) (sig : Bool) (h : Hub) (n : Fin 16) (bs : List Byte), Instr.admitted (.secAuth r sig) s ∧ s.takesEntry ∧ (r.src = .session h n) ∧ (1 ≤ argw r 1) ∧ (argw r 1 ≤ 2) ∧ (s.object (argw r 2) = .ok bs) ∧ (bs.length = 4627) ∧ (s.authCode (sessKey h n) (argw r 1) sig = 0) :=
  ⟨Wit.challenged, (Wit.req [2, 0]), true, 0, 1, (Wit.sigHandle.bytes 0 4627), (Instr.admitted_iff _ rfl).2 (by decide +kernel), ⟨by decide +kernel, by decide +kernel⟩, rfl, by decide, by decide, Wit.sigObject, Wit.sigLen, by decide +kernel⟩
theorem wit_Security_commands_3 : ∃ (s : State) (r : Req) (sig : Bool) (h : Hub) (n : Fin 16) (bs : List Byte), Instr.admitted (.secAuth r sig) s ∧ (r.src = .session h n) ∧ (1 ≤ argw r 1) ∧ (argw r 1 ≤ 2) ∧ (s.object (argw r 2) = .ok bs) ∧ (bs.length = 4627) ∧ (s.authCode (sessKey h n) (argw r 1) sig ≠ 0) :=
  ⟨Wit.challenged, (Wit.req [2, 0]), false, 0, 1, (Wit.sigHandle.bytes 0 4627), (Instr.admitted_iff _ rfl).2 (by decide +kernel), rfl, by decide, by decide, Wit.sigObject, Wit.sigLen, by decide +kernel⟩
theorem wit_Security_commands_4 : ∃ (s : State) (r : Req) (sig : Bool) (h : Hub) (n : Fin 16) (e : Nat), Instr.admitted (.secAuth r sig) s ∧ (r.src = .session h n) ∧ (1 ≤ argw r 1) ∧ (argw r 1 ≤ 2) ∧ (s.object (argw r 2) = .error e) :=
  ⟨Wit.user, (Wit.req [2, 0]), false, 0, 1, 0x0105, (Instr.admitted_iff _ rfl).2 (by decide +kernel), by decide +kernel⟩
theorem wit_Security_commands_5 : ∃ (s : State) (r : Req) (h : Hub) (n : Fin 16), Instr.admitted (.secDrop r) s ∧ s.takesEntry ∧ (r.src = .session h n) :=
  ⟨Wit.user, (Wit.req []), 0, 1, (Instr.admitted_iff _ rfl).2 (by decide +kernel), ⟨by decide +kernel, by decide +kernel⟩, by decide +kernel⟩
theorem wit_Security_commands_6 : ∃ (s : State) (r : Req) (opened : Option (List Byte)) (o p : List Byte), Instr.admitted (.secCak r opened) s ∧ s.takesEntry ∧ (argw r 1 < 2) ∧ (s.object (argw r 2) = .ok o) ∧ (opened = some p) ∧ (cakPlain (argw r 1) o p = true) :=
  ⟨Wit.cak, (Wit.req [1, 0]), (some Wit.cakKey), (Wit.cakHandle.bytes 0 1584), Wit.cakKey, (Instr.admitted_iff _ rfl).2 (by decide +kernel), ⟨by decide +kernel, by decide +kernel⟩, by decide, Wit.cakObject, rfl, by decide +kernel⟩
theorem wit_Security_commands_7 : ∃ (s : State) (r : Req) (opened : Option (List Byte)) (o : List Byte), Instr.admitted (.secCak r opened) s ∧ (argw r 1 < 2) ∧ (s.object (argw r 2) = .ok o) ∧ (opened = none) :=
  ⟨Wit.done, (Wit.req [1, 0]), none, [7], (Instr.admitted_iff _ rfl).2 (by decide +kernel), by decide +kernel⟩
theorem wit_Security_commands_8 : ∃ (s : State) (r : Req) (sig : Bool) (o : List Byte), Instr.admitted (.secIkey r sig) s ∧ s.takesEntry ∧ (s.object (argw r 1) = .ok o) ∧ (o.length = 2592 + 4627) ∧ (s.gated r.src 5 1 = false) ∧ (sig = true) :=
  ⟨Wit.ikey, (Wit.req [0]), true, (Wit.ikeyHandle.bytes 0 7219), (Instr.admitted_iff _ rfl).2 (by decide +kernel), ⟨by decide +kernel, by decide +kernel⟩, Wit.ikeyObject, Wit.ikeyLen, by decide +kernel, rfl⟩
theorem wit_Security_commands_9 : ∃ (s : State) (r : Req) (h : Handle), Instr.admitted (.secAttest r) s ∧ (s.handle (argw r 1) = some h) ∧ (h.fmt = 0xFF) ∧ (10195 ≤ h.codeLen) :=
  ⟨(Wit.user.setHandle 0 (some { fmt := 0xFF, codeLen := 10195 })), (Wit.req [0, 0, 0, 0, 0]), { fmt := 0xFF, codeLen := 10195 }, (Instr.admitted_iff _ rfl).2 (by decide +kernel), by decide +kernel⟩
theorem wit_Security_commands_10 : ∃ (s : State) (r : Req) (sig : Bool) (b : List Byte), Instr.admitted (.secFw r sig) s ∧ s.takesEntry ∧ (s.segments (argw r 1) = .ok b) ∧ (s.fwCode (fwOf b) sig = 0) ∧ ((fwOf b).pred.contains ((s.running 0).major, (s.running 0).minor) = true) ∧ (s.sv.alive = [true, true]) ∧ ((Instr.entered (.secFw r sig) s).fwCode (fwOf b) sig = 0) :=
  ⟨Wit.fw, (Wit.req [0]), true, Wit.fwBytes, (Instr.admitted_iff _ rfl).2 (by decide +kernel), ⟨by decide +kernel, by decide +kernel⟩, by decide +kernel, Wit.fwOk (by decide +kernel) (by decide +kernel) rfl, by decide +kernel, by decide +kernel, Wit.fwOk (by decide +kernel) (by decide +kernel) (by decide +kernel)⟩
theorem wit_Security_commands_11 : ∃ (s : State) (r : Req), Instr.admitted (.secDebug r) s ∧ s.takesEntry ∧ (argw r 1 ≤ 1) :=
  ⟨Wit.user, (Wit.req [1]), (Instr.admitted_iff _ rfl).2 (by decide +kernel), ⟨by decide +kernel, by decide +kernel⟩, by decide +kernel⟩
theorem wit_Security_commands_12 : ∃ (s : State) (r : Req), Instr.admitted (.secDebug r) s ∧ (1 < argw r 1) :=
  ⟨Wit.user, (Wit.req [2]), (Instr.admitted_iff _ rfl).2 (by decide +kernel), by decide +kernel⟩
theorem wit_Security_commands_13 : ∃ (s : State) (sig : Bool), (sig = true) ∧ (s.pw.serviceEn = true) :=
  ⟨Wit.user, true, by decide +kernel⟩
theorem wit_Security_commands_14 : ∃ (s : State) (sig : Bool), (sig = false ∨ s.pw.serviceEn = false) :=
  ⟨State.reset, true, by decide⟩
theorem wit_Security_commands_17 : ∃ (s : State), (s.pw.serviceEn = false ∨ bit (s.reg (secReg 0 0)) 5 = false) :=
  ⟨State.reset, by decide⟩
theorem wit_Security_commands_18 : ∃ (s : State), (s.pw.serviceEn = true) ∧ (bit (s.reg (secReg 0 0)) 5 = true) ∧ (bit (s.reg (secReg 0 0)) 0 = true) :=
  ⟨((Wit.user.setDebug true).secBit 0 true), by decide +kernel⟩
theorem wit_Security_commands_19 : ∃ (s : State), (s.pw.serviceEn = true) ∧ (bit (s.reg (secReg 0 0)) 5 = true) ∧ (bit (s.reg (secReg 0 0)) 0 = false) :=
  ⟨(Wit.user.setDebug true), by decide +kernel⟩
theorem wit_Security_commands_20 : ∃ (s : State), (s.pw.serviceEn = true) ∧ (bit (s.reg (secReg 0 0)) 5 = true) ∧ (bit (s.reg (secReg 0 0)) 0 = true) ∧ ((s.pages 17 7).any (fun b => b != 0) = false) :=
  ⟨((Wit.user.setDebug true).secBit 0 true), by decide +kernel⟩
theorem wit_Security_commands_21 : ∃ (s : State), (s.pw.serviceEn = true) ∧ (bit (s.reg (secReg 0 0)) 5 = true) ∧ (bit (s.reg (secReg 0 0)) 0 = false ∨ (s.pages 17 7).any (fun b => b != 0) = true) :=
  ⟨(Wit.user.setDebug true), by decide +kernel⟩
theorem wit_Security_commands_22 : ∃ (s : State), (s.pw.serviceEn = true) ∧ (bit (s.reg (secReg 0 0)) 5 = true) ∧ (bit (s.reg (secReg 0 0)) 0 = false) :=
  ⟨(Wit.user.setDebug true), by decide +kernel⟩
theorem wit_Security_commands_23 : ∃ (s : State), (s.pw.serviceEn = true) ∧ (bit (s.reg (secReg 0 0)) 5 = true) ∧ (bit (s.reg (secReg 0 0)) 0 = true) :=
  ⟨((Wit.user.setDebug true).secBit 0 true), by decide +kernel⟩
theorem wit_Thermal_control_0 : ∃ (s : State) (u : Unit34) (k : Fin 24), ((s.met u).on = true) ∧ (k.val < sensorsOf u) ∧ (s.pstate ≠ 0) :=
  ⟨(Wit.ready.setMet 33 { on := true }), 33, 7, by decide⟩
theorem wit_Thermal_control_1 : ∃ (s : State) (u : Unit34) (k : Fin 24), ((s.met u).on = false ∨ sensorsOf u ≤ k.val ∨ s.pstate = 0) :=
  ⟨State.reset, 33, 7, by decide⟩
theorem wit_Thermal_control_2 : ∃ (s : State) (u : Unit34) (k : Fin 24), (s.metIdle u = false) ∧ (k.val < sensorsOf u) ∧ (s.pstate ≠ 0) ∧ ((s.sensor (24 * u.val + k.val)).broken = false) ∧ ((s.sensor (24 * u.val + k.val)).at_ + 4 * [10000000, 1000000, 250000].getD (s.thunit u).interval 10000000 < s.now) :=
  ⟨{ Wit.ready.setMet 33 { on := true } with now := 40000001 }, 33, 7, by decide⟩
theorem wit_Thermal_control_3 : ∃ (s : State) (u : Unit34) (k : Fin 24), (s.now ≤ (s.sensor (24 * u.val + k.val)).at_ + 4 * [10000000, 1000000, 250000].getD (s.thunit u).interval 10000000 ∨ (s.sensor (24 * u.val + k.val)).broken = true) :=
  ⟨State.reset, 33, 7, by decide⟩
theorem wit_Thermal_control_4 : ∃ (s : State) (u : Unit34) (n t : Nat), ((s.thunit u).step = n + 1) ∧ ((s.thunit u).below.getD n none = some t) ∧ (t + 100000000 ≤ s.now) :=
  ⟨{ Wit.ready.setThunit 33 { step := 1, below := [some 0, none, none] } with now := 100000000 }, 33, 0, 0, by decide⟩
theorem wit_Thermal_control_5 : ∃ (s : State) (u : Unit34), ((s.thunit u).step = 0) :=
  ⟨State.reset, 33, by decide⟩
theorem wit_Thermal_control_6 : ∃ (s : State) (u : Unit34) (t : Nat), ((s.thunit u).slower.getD 0 none = some t) ∧ (t + 1000000000 ≤ s.now) ∧ ((s.thunit u).interval ≠ 0) :=
  ⟨{ Wit.ready.setThunit 33 { interval := 2, slower := [some 0, some 0] } with now := 1000000000 }, 33, 0, by decide⟩
theorem wit_Thermal_control_7 : ∃ (s : State) (u : Unit34), ((s.thunit u).slower = [none, none]) ∧ ((s.thunit u).interval ≤ 2) :=
  ⟨(State.reset.setThunit 33 { interval := 2 }), 33, by decide⟩
theorem wit_Thermal_control_8 : ∃ (s : State) (u : Unit34) (k : Fin 24), (k.val < sensorsOf u) ∧ (s.sensorRetired u k = false) ∧ ((s.sensor (24 * u.val + k.val)).openShort = false) ∧ (s.pstate ≠ 0) ∧ (s.pstate ≠ 5) ∧ (u.val < 32) :=
  ⟨Wit.ready, 31, 23, by decide⟩
theorem wit_Thermal_control_9 : ∃ (s : State) (u : Unit34) (k : Fin 24), (k.val < sensorsOf u) ∧ (s.sensorRetired u k = false) ∧ ((s.sensor (24 * u.val + k.val)).openShort = false) ∧ (s.pstate = 5) ∧ (u.val < 32) :=
  ⟨(State.reset.setPstate 5), 31, 23, by decide +kernel⟩
theorem wit_Thermal_control_10 : ∃ (s : State) (u : Unit34) (k : Fin 24), (k.val < sensorsOf u) ∧ (s.sensorRetired u k = false) ∧ ((s.sensor (24 * u.val + k.val)).openShort = false) ∧ (s.pstate ≠ 0) ∧ (s.pstate ≠ 5) ∧ (32 ≤ u.val) :=
  ⟨Wit.ready, 33, 7, by decide⟩
theorem wit_Thermal_control_11 : ∃ (s : State) (u : Unit34) (k : Fin 24), (s.pstate = 0 ∨ sensorsOf u ≤ k.val ∨ s.sensorRetired u k = true ∨ (s.sensor (24 * u.val + k.val)).openShort = true) :=
  ⟨(State.reset.setPstate 0), 33, 7, by decide⟩
theorem wit_Thermal_control_12 : ∃ (s : State) (t : Nat), (s.pstate = 5) ∧ (s.pw.failN = false) ∧ (s.th.coolSince = some t) ∧ (t + 10000000000 ≤ s.now) ∧ (s.th.stops = []) ∧ (bit (s.reg (hubBase 0 + 0x70004)) 4 = true) ∧ (s.th.stopSaved = false) :=
  ⟨Wit.cooled, 0, by decide +kernel⟩
theorem wit_Thermal_control_13 : ∃ (s : State), (s.pstate = 5) ∧ (s.pw.failN = false) ∧ (s.pw.wakePend = true) ∧ (s.th.stopSaved = true) :=
  ⟨{ State.reset.setPstate 5 with pw.wakePend := true, th.stopSaved := true }, by decide +kernel⟩
theorem wit_Thermal_control_14 : ∃ (s : State), (s.pstate ≠ 5 ∨ s.pw.failN = true) :=
  ⟨State.reset, by decide⟩
theorem wit_Thermal_control_15 : ∃ (s : State) (r : Req), Instr.admitted (.thmRead r) s :=
  ⟨Wit.user, (Wit.req []), (Instr.admitted_iff _ rfl).2 (by decide +kernel)⟩
theorem wit_Thermal_control_16 : ∃ (s : State) (r : Req), Instr.admitted (.thmPolicy r) s ∧ s.takesEntry ∧ (s.gated r.src 5 1 = false) ∧ (argw r 1 < 2) ∧ (argw r 2 ≤ s.th.maker.getD 0 114) ∧ (argw r 3 ≤ s.th.maker.getD 1 114) ∧ (argw r 4 ≤ s.th.maker.getD 2 114) ∧ (argw r 2 < argw r 3) ∧ (argw r 3 < argw r 4) ∧ (argw r 4 < 115) :=
  ⟨Wit.user, (Wit.req [1, 80, 85, 90]), (Instr.admitted_iff _ rfl).2 (by decide +kernel), ⟨by decide +kernel, by decide +kernel⟩, by decide +kernel⟩
theorem wit_Thermal_control_17 : ∃ (s : State) (r : Req), Instr.admitted (.thmPolicy r) s ∧ (s.gated r.src 5 1 = false) ∧ (argw r 1 < 2) ∧ (argw r 3 ≤ argw r 2 ∨ argw r 4 ≤ argw r 3 ∨ 115 ≤ argw r 4) :=
  ⟨Wit.user, (Wit.req [1, 85, 85, 90]), (Instr.admitted_iff _ rfl).2 (by decide +kernel), by decide +kernel⟩
theorem wit_Thermal_control_18 : ∃ (s : State) (r : Req), Instr.admitted (.thmRetire r) s ∧ s.takesEntry ∧ (s.noUnit (argw r 1) = false) ∧ (argw r 2 < sensorsOf (argw r 1)) :=
  ⟨Wit.user, (Wit.req [33, 7]), (Instr.admitted_iff _ rfl).2 (by decide +kernel), ⟨by decide +kernel, by decide +kernel⟩, by decide +kernel⟩
theorem wit_Thermal_control_19 : ∃ (s : State) (r : Req), Instr.admitted (.thmRetire r) s ∧ (s.noUnit (argw r 1) = true) :=
  ⟨Wit.user, (Wit.req [34, 0]), (Instr.admitted_iff _ rfl).2 (by decide +kernel), by decide +kernel⟩
theorem wit_Thermal_control_20 : ∃ (s : State) (r : Req), Instr.admitted (.pwrRead r) s :=
  ⟨Wit.user, (Wit.req []), (Instr.admitted_iff _ rfl).2 (by decide +kernel)⟩
theorem wit_Thermal_control_21 : ∃ (s : State) (r : Req), Instr.admitted (.pwrPolicy r) s ∧ s.takesEntry ∧ (s.gated r.src 5 1 = false) ∧ (80 ≤ argw r 3) ∧ (argw r 3 ≤ s.th.maker.getD 3 240) :=
  ⟨Wit.user, (Wit.req [10, 20, 100]), (Instr.admitted_iff _ rfl).2 (by decide +kernel), ⟨by decide +kernel, by decide +kernel⟩, by decide +kernel⟩
theorem wit_Thermal_control_22 : ∃ (s : State) (r : Req), Instr.admitted (.pwrPolicy r) s ∧ (s.gated r.src 5 1 = false) ∧ (argw r 3 < 80) :=
  ⟨Wit.user, (Wit.req [10, 20, 79]), (Instr.admitted_iff _ rfl).2 (by decide +kernel), by decide +kernel⟩
theorem wit_Power_states_0 : ∃ (s : State), (s.pw.failN = false) :=
  ⟨State.reset, by decide⟩
theorem wit_Power_states_1 : ∃ (s : State), (s.pw.failN = true) :=
  ⟨{ State.reset with pw.failN := true }, by decide⟩
theorem wit_Power_states_2 : ∃ (s : State), (s.pw.failN = true) ∧ ((s.setFailN false).pw.halted = false) :=
  ⟨{ State.reset with pw.failN := true }, by decide⟩
theorem wit_Power_states_3 : ∃ (s : State), (s.pw.failN = true) ∧ ((s.setFailN false).pw.halted = true) ∧ (10800 ≤ (s.setFailN false).pw.vin) ∧ ((s.setFailN false).pw.vin ≤ 13200) :=
  ⟨{ State.reset with pw.failN := true, pw.halted := true, pw.vin := 12000 }, by decide⟩
theorem wit_Power_states_4 : ∃ (s : State), (s.pw.failN = true) ∧ ((s.setFailN false).pw.halted = true) ∧ ((s.setFailN false).pw.vin < 10800 ∨ 13200 < (s.setFailN false).pw.vin) :=
  ⟨{ State.reset with pw.failN := true, pw.halted := true, pw.vin := 10799 }, by decide⟩
theorem wit_Power_states_5 : ∃ (s : State), (s.pw.failN = false) :=
  ⟨State.reset, by decide⟩
theorem wit_Power_states_7 : ∃ (s : State) (mv : Nat), (10500 ≤ mv) ∧ (mv < 10800) ∧ (s.pstate ≠ 0) :=
  ⟨Wit.ready, 10799, by decide⟩
theorem wit_Power_states_8 : ∃ (s : State) (mv : Nat), (mv < 10500 ∨ 10800 ≤ mv ∨ s.pstate = 0) :=
  ⟨Wit.ready, 10800, by decide⟩
theorem wit_Power_states_9 : ∃ (s : State) (t : Nat), (s.pw.brownAt = some t) ∧ (t + 1000000 ≤ s.now) ∧ (s.pw.halved = false) :=
  ⟨{ Wit.ready with pw.brownAt := some 0, now := 1000000 }, 0, by decide⟩
theorem wit_Power_states_10 : ∃ (s : State), (s.pw.brownAt = none) :=
  ⟨State.reset, by decide⟩
theorem wit_Power_states_11 : ∃ (s : State) (t : Nat), (s.pw.brownAt = some t) ∧ (t + 100000000 ≤ s.now) ∧ (s.pw.brownDorm = false) :=
  ⟨{ Wit.ready with pw.brownAt := some 0, now := 100000000 }, 0, by decide⟩
theorem wit_Power_states_12 : ∃ (s : State), (s.pw.brownAt = none) :=
  ⟨State.reset, by decide⟩
theorem wit_Power_states_13 : ∃ (s : State), (s.pw.brownAt.isSome = true) ∧ (s.pw.halted = false) :=
  ⟨{ Wit.ready with pw.brownAt := some 0, pw.halted := false }, by decide⟩
theorem wit_Power_states_14 : ∃ (s : State), (s.pw.brownAt.isSome = true) ∧ (s.pw.halted = true) ∧ (s.pw.failN = false) :=
  ⟨{ Wit.ready with pw.brownAt := some 0, pw.halted := true }, by decide⟩
theorem wit_Power_states_15 : ∃ (s : State), (s.pw.brownAt = none) :=
  ⟨State.reset, by decide⟩
theorem wit_Power_states_16 : ∃ (vin vsb : Nat), (vin < 10500 ∨ 14000 < vin ∨ vsb < 3000) :=
  ⟨10499, 3300, by decide⟩
theorem wit_Power_states_17 : ∃ (vin vsb : Nat), (10500 ≤ vin) ∧ (vin ≤ 14000) ∧ (3000 ≤ vsb) :=
  ⟨14000, 3000, by decide⟩
theorem wit_Power_states_18 : ∃ (mv : Nat), (3600 < mv) :=
  ⟨3601, by decide⟩
theorem wit_Power_states_19 : ∃ (mv : Nat), (3135 ≤ mv) ∧ (mv ≤ 3465) :=
  ⟨3465, by decide⟩
theorem wit_Power_states_20 : ∃ (mv : Nat), (mv < 3135 ∨ 3465 < mv) ∧ (mv ≤ 3600) :=
  ⟨3600, by decide⟩
theorem wit_Power_states_21 : ∃ (s : State) (ns : Nat), (10000 ≤ ns) ∧ (s.pstate ≠ 0) :=
  ⟨Wit.ready, 10000, by decide⟩
theorem wit_Power_states_22 : ∃ (s : State) (ns : Nat), (1000 ≤ ns) ∧ (ns < 10000) ∧ (s.pstate ≠ 0) :=
  ⟨Wit.ready, 9999, by decide⟩
theorem wit_Power_states_23 : ∃ (s : State) (ns : Nat), (ns < 1000 ∨ (10000 ≤ ns ∧ s.pstate = 0)) :=
  ⟨State.reset, 999, by decide⟩
theorem wit_Power_states_25 : ∃ (s : State), (s.ck.refIn = true) :=
  ⟨{ State.reset with ck.refIn := true }, by decide⟩
theorem wit_Power_states_26 : ∃ (s : State), (s.ck.refIn = false) :=
  ⟨{ State.reset with ck.refIn := false }, by decide⟩
theorem wit_Power_states_27 : ∃ (s : State), (s.pstate = 2) ∧ (s.pw.entering = none) ∧ (s.idleFor s.pw.idleMs 1000000 = true) :=
  ⟨Wit.idle, by decide +kernel⟩
theorem wit_Power_states_28 : ∃ (s : State), (s.pstate ≠ 2 ∨ s.pw.entering.isSome = true ∨ s.idleFor s.pw.idleMs 1000000 = false) :=
  ⟨State.reset, by decide⟩
theorem wit_Power_states_29 : ∃ (s : State), (s.pstate = 2 ∨ s.pstate = 3) ∧ (s.pw.entering = none) ∧ (s.idleFor s.pw.idleS 1000000000 = true) :=
  ⟨Wit.idle, by decide +kernel⟩
theorem wit_Power_states_30 : ∃ (s : State), ((s.pstate ≠ 2 ∧ s.pstate ≠ 3) ∨ s.pw.entering.isSome = true ∨ s.idleFor s.pw.idleS 1000000000 = false) :=
  ⟨State.reset, by decide⟩
theorem wit_Power_states_31 : ∃ (s : State), (s.pw.entering = some 3) ∧ (s.pstate = 2) ∧ ((s.boards.any fun e => e.2.sb != []) = false) ∧ ((s.frames.any fun e => e.2.stroke.isSome || e.2.queue != []) = false) ∧ (s.engines.isEmpty = true) :=
  ⟨{ Wit.ready with pw.entering := some 3 }, by decide +kernel⟩
theorem wit_Power_states_32 : ∃ (s : State), (s.pw.entering ≠ some 3 ∨ s.pstate ≠ 2 ∨ (s.boards.any fun e => e.2.sb != []) = true ∨ (s.frames.any fun e => e.2.stroke.isSome || e.2.queue != []) = true ∨ s.engines.isEmpty = false) :=
  ⟨State.reset, by decide⟩
theorem wit_Power_states_33 : ∃ (s : State), (s.pw.entering = some 4) ∧ (s.pstate = 2 ∨ s.pstate = 3) ∧ ((s.boards.any fun e => e.2.steps != [] || e.2.cur.isSome || e.2.sb != [] || e.2.endPend != []) = false) ∧ ((s.inFabric.any fun p => p.type == 7) = false) ∧ (s.engines.isEmpty = true) :=
  ⟨{ Wit.ready with pw.entering := some 4 }, by decide +kernel⟩
theorem wit_Power_states_34 : ∃ (s : State), (s.pw.entering ≠ some 4 ∨ (s.pstate ≠ 2 ∧ s.pstate ≠ 3) ∨ (s.boards.any fun e => e.2.steps != [] || e.2.cur.isSome || e.2.sb != [] || e.2.endPend != []) = true ∨ (s.inFabric.any fun p => p.type == 7) = true ∨ s.engines.isEmpty = false) :=
  ⟨State.reset, by decide⟩
theorem wit_Power_states_35 : ∃ (s : State), (s.pstate = 4 ∨ (s.pstate = 5 ∧ s.th.stopSaved = true)) ∧ (s.pw.wakePend = true) ∧ (s.pw.wakeAt + 60000000 ≤ s.now) ∧ (s.pw.failN = false) ∧ (s.pw.brownDorm = false ∨ (s.pw.brownAt = none ∧ s.pw.okAt + 1000000000 ≤ s.now)) :=
  ⟨{ State.reset.setPstate 4 with pw.wakePend := true, now := 60000000 }, by decide +kernel⟩
theorem wit_Power_states_36 : ∃ (s : State), (s.pw.wakePend = false ∨ s.now < s.pw.wakeAt + 60000000 ∨ s.pw.failN = true) :=
  ⟨State.reset, by decide⟩
theorem wit_Power_states_37 : ∃ (s : State), (s.pstate = 3) ∧ (s.pw.wakePend = true) ∧ (s.pw.wakeAt + 50000 ≤ s.now) :=
  ⟨{ State.reset.setPstate 3 with pw.wakePend := true, now := 50000 }, by decide +kernel⟩
theorem wit_Power_states_38 : ∃ (s : State), (s.pstate ≠ 3 ∨ s.pw.wakePend = false ∨ s.now < s.pw.wakeAt + 50000) :=
  ⟨State.reset, by decide⟩
theorem wit_Power_states_39 : ∃ (s : State), (s.frames = []) :=
  ⟨State.reset, by decide⟩
theorem wit_Power_states_40 : ∃ (s : State) (k : Nat) (y : Frame) (p : Nat), (k, y) ∈ s.frames ∧ (y.st = .idle ∨ y.st = .stroking ∨ y.st = .recount) ∧ (p < 8) ∧ ((y.headers.getD p {}).fmt ≠ 3) ∧ (s.visitDueAt k p + 3600000000000 < s.now) :=
  ⟨Wit.overdue, 5, { headers := List.replicate 8 { fmt := 0 } }, 7, by decide +kernel⟩
theorem wit_Session_messages_0 : ∃ (m : Rx), (ofType m 1 = true) :=
  ⟨(Wit.rx 1), by decide⟩
theorem wit_Session_messages_1 : ∃ (m : Rx), (ofType m 1 = false) :=
  ⟨(Wit.rx 3), by decide⟩
theorem wit_Session_messages_2 : ∃ (m : Rx), (ofType m 3 = true) :=
  ⟨(Wit.rx 3), by decide⟩
theorem wit_Session_messages_3 : ∃ (m : Rx), (ofType m 3 = false) :=
  ⟨(Wit.rx 1), by decide⟩
theorem wit_Session_messages_4 : ∃ (m : Rx), (ofType m 5 = true) :=
  ⟨(Wit.rx 5), by decide⟩
theorem wit_Session_messages_5 : ∃ (m : Rx), (ofType m 5 = false) :=
  ⟨(Wit.rx 1), by decide⟩
theorem wit_Session_messages_6 : ∃ (m : Rx), (ofType m 7 = true) :=
  ⟨(Wit.rx 7), by decide⟩
theorem wit_Session_messages_7 : ∃ (m : Rx), (ofType m 7 = false) :=
  ⟨(Wit.rx 1), by decide⟩
theorem wit_Session_messages_8 : ∃ (m : Rx), (ofType m 8 = true) :=
  ⟨(Wit.rx 8), by decide⟩
theorem wit_Session_messages_9 : ∃ (m : Rx), (ofType m 8 = false) :=
  ⟨(Wit.rx 1), by decide⟩
theorem wit_Session_messages_11 : ∃ (s : State) (h : Hub) (n : Fin 16) (m : OMsg) (q : List OMsg), ((s.sess (sessKey h n)).unacked = m :: q) ∧ (m.at_ + rtoAfter m.tries ≤ s.now) ∧ (s.portUp (sessKey h n) = true) ∧ (m.tries < 8) :=
  ⟨Wit.unacked 1, 1, 15, Wit.msg 1, [], by decide⟩
theorem wit_Session_messages_12 : ∃ (s : State) (h : Hub) (n : Fin 16) (m : OMsg) (q : List OMsg), ((s.sess (sessKey h n)).unacked = m :: q) ∧ (m.at_ + rtoAfter m.tries ≤ s.now) ∧ (s.portUp (sessKey h n) = true) ∧ (8 ≤ m.tries) :=
  ⟨Wit.unacked 8, 1, 15, Wit.msg 8, [], by decide⟩
theorem wit_Session_messages_13 : ∃ (s : State) (h : Hub) (n : Fin 16), ((s.sess (sessKey h n)).unacked = []) :=
  ⟨State.reset, 1, 15, by decide⟩
theorem wit_Session_messages_14 : ∃ (s : State) (h : Hub) (n : Fin 16), ((s.sess (sessKey h n)).opened = true) ∧ ((s.sess (sessKey h n)).last + 60000000000 ≤ s.now) :=
  ⟨{ Wit.ready.setSess 31 { opened := true } with now := 60000000000 }, 1, 15, by decide⟩
theorem wit_Session_messages_15 : ∃ (s : State) (h : Hub) (n : Fin 16), ((s.sess (sessKey h n)).opened = false ∨ s.now < (s.sess (sessKey h n)).last + 60000000000) :=
  ⟨State.reset, 1, 15, by decide⟩
theorem wit_Session_messages_16 : ∃ (s : State) (h : Hub) (n : Fin 16) (t : Nat), ((s.sess (sessKey h n)).throttle = some t) ∧ (t ≤ s.now) :=
  ⟨(Wit.ready.setSess 31 { throttle := some 0 }), 1, 15, 0, by decide⟩
theorem wit_Session_messages_17 : ∃ (s : State) (h : Hub) (n : Fin 16), ((s.sess (sessKey h n)).throttle = none) :=
  ⟨State.reset, 1, 15, by decide⟩
theorem wit_Ports_and_sideband_0 : ∃ (s : State) (f : EthFrame), ((s.sv.alive.getD f.port false && s.pw.booted.getD f.port false) = false ∨ s.pstate = 0) :=
  ⟨(State.reset.setPstate 0), { port := 1, kind := .other }, by decide⟩
theorem wit_Ports_and_sideband_1 : ∃ (s : State) (f : EthFrame), ((s.sv.alive.getD f.port false && s.pw.booted.getD f.port false) = true) ∧ (s.pstate ≠ 0) ∧ (s.frameLimit f.port f.vid.isSome < f.len) :=
  ⟨Wit.booted, { port := 1, len := 9217, kind := .mka }, by decide⟩
theorem wit_Ports_and_sideband_2 : ∃ (s : State) (f : EthFrame), ((s.sv.alive.getD f.port false && s.pw.booted.getD f.port false) = true) ∧ (s.pstate ≠ 0) ∧ (f.len ≤ s.frameLimit f.port f.vid.isSome) ∧ (f.fcsOk = false) :=
  ⟨Wit.booted, { port := 1, fcsOk := false, kind := .other }, by decide⟩
theorem wit_Ports_and_sideband_3 : ∃ (s : State) (f : EthFrame), ((s.sv.alive.getD f.port false && s.pw.booted.getD f.port false) = true) ∧ (s.pstate ≠ 0) ∧ (f.len ≤ s.frameLimit f.port f.vid.isSome) ∧ (f.fcsOk = true) ∧ (s.vlanOk f.port f.vid = false) :=
  ⟨Wit.booted, { port := 1, vid := some 5, kind := .other }, by decide⟩
theorem wit_Ports_and_sideband_4 : ∃ (s : State) (f : EthFrame), ((s.sv.alive.getD f.port false && s.pw.booted.getD f.port false) = true) ∧ (s.pstate ≠ 0) ∧ (f.len ≤ s.frameLimit f.port f.vid.isSome) ∧ (f.fcsOk = true) ∧ (s.vlanOk f.port f.vid = true) ∧ (f.sec = none) ∧ (ethExempt f = false) :=
  ⟨Wit.booted, { port := 1, kind := .other }, by decide⟩
theorem wit_Ports_and_sideband_5 : ∃ (s : State) (f : EthFrame), ((s.sv.alive.getD f.port false && s.pw.booted.getD f.port false) = true) ∧ (s.pstate ≠ 0) ∧ (f.len ≤ s.frameLimit f.port f.vid.isSome) ∧ (f.fcsOk = true) ∧ (s.vlanOk f.port f.vid = true) ∧ (f.sec = none) ∧ (ethExempt f = true) :=
  ⟨Wit.booted, { port := 1, kind := .mka }, by decide⟩
theorem wit_Ports_and_sideband_6 : ∃ (s : State) (f : EthFrame) (pn : Nat) (ok : Bool), ((s.sv.alive.getD f.port false && s.pw.booted.getD f.port false) = true) ∧ (s.pstate ≠ 0) ∧ (f.len ≤ s.frameLimit f.port f.vid.isSome) ∧ (f.fcsOk = true) ∧ (s.vlanOk f.port f.vid = true) ∧ (f.sec = some (pn, ok)) ∧ (ok = false ∨ (s.port f.port).secured = false) :=
  ⟨Wit.booted, { port := 1, sec := some (7, true), kind := .other }, 7, true, by decide⟩
theorem wit_Ports_and_sideband_7 : ∃ (s : State) (f : EthFrame) (pn : Nat), ((s.sv.alive.getD f.port false && s.pw.booted.getD f.port false) = true) ∧ (s.pstate ≠ 0) ∧ (f.len ≤ s.frameLimit f.port f.vid.isSome) ∧ (f.fcsOk = true) ∧ (s.vlanOk f.port f.vid = true) ∧ (f.sec = some (pn, true)) ∧ ((s.port f.port).secured = true) :=
  ⟨(Wit.booted.setPort 1 { secured := true }), { port := 1, sec := some (7, true), kind := .other }, 7, by decide⟩
theorem wit_Ports_and_sideband_8 : ∃ (s : State) (h : Hub), ((s.sv.alive.getD h false && s.pw.booted.getD h false) = true) ∧ (s.pstate ≠ 0) :=
  ⟨Wit.booted, 1, by decide⟩
theorem wit_Ports_and_sideband_9 : ∃ (s : State) (h : Hub), ((s.sv.alive.getD h false && s.pw.booted.getD h false) = true) ∧ (s.pstate ≠ 0) ∧ (bit (s.reg (spm h 0)) 2 = false) :=
  ⟨(Wit.booted.setReg (spm 1 0) 1), 1, by decide⟩
theorem wit_Ports_and_sideband_10 : ∃ (s : State) (h : Hub), ((s.sv.alive.getD h false && s.pw.booted.getD h false) = true) ∧ (s.pstate ≠ 0) ∧ (bit (s.reg (spm h 0)) 2 = true) :=
  ⟨(Wit.booted.setReg (spm 1 0) 4), 1, by decide⟩
theorem wit_Ports_and_sideband_11 : ∃ (s : State) (h : Hub), ((s.port h).secured = true) ∧ ((s.port h).sakAt + 3600000000000 ≤ s.now ∨ 2 ^ 62 < (s.port h).pn) :=
  ⟨{ State.reset.setPort 1 { secured := true } with now := 3600000000000 }, 1, by decide⟩
theorem wit_Ports_and_sideband_12 : ∃ (s : State) (h : Hub), ((s.port h).secured = false) :=
  ⟨State.reset, 1, by decide⟩
theorem wit_Ports_and_sideband_13 : ∃ (s : State), (s.rkSrc = 1 ∨ s.rkSrc = 2) ∧ ((s.port (s.rkSrc - 1)).synced = false) ∧ ((s.port (s.rkSrc - 1)).syncLost + 1000000000 ≤ s.now) :=
  ⟨{ Wit.ready.setRkSrc 1 with now := 1000000000 }, by decide⟩
theorem wit_Ports_and_sideband_14 : ∃ (s : State), (s.rkSrc ≠ 1) ∧ (s.rkSrc ≠ 2) :=
  ⟨(Wit.ready.setRkSrc 3), by decide⟩
theorem wit_Ports_and_sideband_15 : ∃ (s : State) (h : Hub) (c e i due : Nat), ((s.port h).conf = some (c, e, i, due)) ∧ (due ≠ 0) ∧ (due ≤ s.now) :=
  ⟨{ State.reset.setPort 1 { conf := some (1, 2, 3, 4) } with now := 4 }, 1, 1, 2, 3, 4, by decide⟩
theorem wit_Ports_and_sideband_16 : ∃ (s : State) (h : Hub), ((s.port h).conf = none) :=
  ⟨State.reset, 1, by decide⟩
theorem wit_Ports_and_sideband_17 : ∃ (s : State) (adr : Fin 128) (pec : Bool), (s.smbMine adr pec = false) :=
  ⟨State.reset, 0, true, by decide⟩
theorem wit_Ports_and_sideband_18 : ∃ (s : State) (adr : Fin 128) (pec : Bool), (s.smbMine adr pec = true) ∧ (s.hl.sbAwait = true) :=
  ⟨{ Wit.ready with hl.sbAwait := true }, 88, true, by decide⟩
theorem wit_Ports_and_sideband_19 : ∃ (s : State) (adr : Fin 128) (pec : Bool) (bs : List Byte), (s.smbMine adr pec = true) ∧ (s.hl.sbAwait = false) ∧ (s.pstate ≠ 0) ∧ (unknownOp (bytesToWords bs) = false) :=
  ⟨Wit.ready, 88, true, [0, 1], by decide⟩
theorem wit_Ports_and_sideband_20 : ∃ (s : State) (adr : Fin 128) (pec : Bool) (bs : List Byte), (s.smbMine adr pec = true) ∧ (s.hl.sbAwait = false) ∧ (s.pstate ≠ 0) ∧ (s.answers = true) ∧ (unknownOp (bytesToWords bs) = true) :=
  ⟨Wit.booted, 88, true, [0, 15], by decide⟩
theorem wit_Ports_and_sideband_21 : ∃ (s : State) (adr : Fin 128) (pec : Bool) (bs : List Byte), (s.smbMine adr pec = true) ∧ (s.hl.sbAwait = false) ∧ (s.pstate = 0) ∧ (offOps.contains (fld ((bytesToWords bs).headD 0) 0 16) = true) :=
  ⟨(State.reset.setPstate 0), 88, true, [0, 1], by decide⟩
theorem wit_Ports_and_sideband_22 : ∃ (s : State) (adr : Fin 128) (pec : Bool), (s.smbMine adr pec = true) :=
  ⟨Wit.ready, 88, true, by decide⟩
theorem wit_Ports_and_sideband_23 : ∃ (s : State) (adr : Fin 128) (pec : Bool), (s.smbMine adr pec = false) :=
  ⟨State.reset, 0, true, by decide⟩
theorem wit_Ports_and_sideband_24 : ∃ (s : State) (adr : Fin 128) (pec : Bool), (s.smbMine adr pec = true) :=
  ⟨Wit.ready, 88, true, by decide⟩
theorem wit_Ports_and_sideband_25 : ∃ (s : State) (adr : Fin 128) (pec : Bool), (s.smbMine adr pec = false) :=
  ⟨State.reset, 0, true, by decide⟩
theorem wit_Ports_and_sideband_27 : ∃ (s : State), (s.smbAlert = true) :=
  ⟨{ Wit.ready with hl.sbEvent := true }, by decide⟩
theorem wit_Ports_and_sideband_28 : ∃ (s : State), (s.smbAlert = false) :=
  ⟨State.reset, by decide⟩
theorem wit_Bring_up_0 : ∃ (s : State) (vin vsb : Nat), (s.pstate = 0 ∨ (s.pstate = 1 ∧ s.phase = 0)) ∧ (10800 ≤ vin) ∧ (vin ≤ 13200) ∧ (3135 ≤ vsb) ∧ (vsb ≤ 3465) ∧ (s.lg.ready = true) ∧ (s.pw.failN = false) :=
  ⟨{ State.reset with lg.ready := true }, 13200, 3135, by decide⟩
theorem wit_Bring_up_1 : ∃ (s : State) (vin vsb : Nat), (s.pstate = 0 ∨ (s.pstate = 1 ∧ s.phase = 0)) ∧ (10800 ≤ vin) ∧ (vin ≤ 13200) ∧ (3135 ≤ vsb) ∧ (vsb ≤ 3465) ∧ (s.lg.ready = true) ∧ (s.pw.failN = true) :=
  ⟨{ State.reset with lg.ready := true, pw.failN := true }, 13200, 3135, by decide⟩
theorem wit_Bring_up_2 : ∃ (s : State) (vin vsb : Nat), (vin < 10800 ∨ 13200 < vin ∨ vsb < 3135 ∨ 3465 < vsb ∨ s.lg.ready = false) :=
  ⟨State.reset, 13200, 3134, by decide⟩
theorem wit_Bring_up_3 : ∃ (s : State) (h : Hub) (sig0 sig1 : Bool) (slot : Nat), (s.sv.update ≠ some h.val) ∧ (s.pstate = 1) ∧ (s.phase = 2 ∨ (s.phase = 1 ∧ s.hubsWarm = true)) ∧ (s.pw.booted.getD h false = false) ∧ (s.sv.alive.getD h false = true) ∧ (s.bootChoice h (fun n => if n = 0 then sig0 else sig1) = some slot) :=
  ⟨(Wit.phase 1), 1, true, true, 0, by decide +kernel⟩
theorem wit_Bring_up_4 : ∃ (s : State) (h : Hub) (sig0 sig1 : Bool), (s.sv.update ≠ some h.val) ∧ (s.pstate = 1) ∧ (s.phase = 2 ∨ (s.phase = 1 ∧ s.hubsWarm = true)) ∧ (s.pw.booted.getD h false = false) ∧ (s.sv.alive.getD h false = true) ∧ (s.bootChoice h (fun n => if n = 0 then sig0 else sig1) = none) :=
  ⟨(Wit.phase 1), 1, false, false, by decide +kernel⟩
theorem wit_Bring_up_5 : ∃ (s : State) (h : Hub), (s.sv.update ≠ some h.val) ∧ (s.phase = 1) ∧ (s.hubsWarm = false) :=
  ⟨Wit.cold, 1, by decide +kernel⟩
theorem wit_Bring_up_6 : ∃ (s : State) (h : Hub), (s.sv.update = some h.val) ∧ (s.pstate ≠ 0) :=
  ⟨{ Wit.ready with sv.update := some 1 }, 1, by decide +kernel⟩
theorem wit_Bring_up_7 : ∃ (s : State) (h : Hub), (s.sv.update ≠ some h.val) ∧ (s.pstate ≠ 1 ∨ s.pw.booted.getD h false = true ∨ s.sv.alive.getD h false = false) :=
  ⟨Wit.ready, 1, by decide⟩
theorem wit_Bring_up_8 : ∃ (s : State) (h : Hub), (s.pstate = 1) ∧ (3 ≤ s.phase) ∧ (s.phase ≠ 11) ∧ (s.pw.booted.getD h false = true) ∧ (s.ms.ready.getD h false = false) ∧ ((s.zeroDram h).dramWaits = true ∨ (s.zeroDram h).phase ≠ 3) :=
  ⟨{ Wit.phase 3 with pw.booted := [true, true] }, 1, by decide +kernel⟩
theorem wit_Bring_up_9 : ∃ (s : State) (h : Hub), (s.pstate = 1) ∧ (3 ≤ s.phase) ∧ (s.phase ≠ 11) ∧ (s.pw.booted.getD h false = true) ∧ (s.ms.ready.getD h false = false) ∧ ((s.zeroDram h).dramWaits = false) ∧ ((s.zeroDram h).phase = 3) :=
  ⟨{ Wit.phase 3 with pw.booted := [true, false] }, 0, by decide +kernel⟩
theorem wit_Bring_up_10 : ∃ (s : State) (d : Die) (skew : Nat), (s.pstate = 1) ∧ (s.phase = 4 ∨ s.phase = 5) ∧ (s.dieIn d = true) ∧ ((s.die d).sync = false) ∧ (skew ≤ 2) :=
  ⟨(Wit.phase 4), 31, 2, by decide +kernel⟩
theorem wit_Bring_up_11 : ∃ (s : State) (d : Die) (skew : Nat), (s.pstate = 1) ∧ (s.phase = 4 ∨ s.phase = 5) ∧ (s.dieIn d = true) ∧ ((s.die d).sync = false) ∧ (2 < skew) ∧ ((s.die d).skews < 2) :=
  ⟨(Wit.phase 4), 31, 3, by decide +kernel⟩
theorem wit_Bring_up_12 : ∃ (s : State) (d : Die) (skew : Nat), (s.pstate = 1) ∧ (s.phase = 4 ∨ s.phase = 5) ∧ (s.dieIn d = true) ∧ ((s.die d).sync = false) ∧ (2 < skew) ∧ (2 ≤ (s.die d).skews) :=
  ⟨((Wit.phase 4).setDie 31 { skews := 2 }), 31, 3, by decide +kernel⟩
theorem wit_Bring_up_13 : ∃ (s : State) (d : Die), (s.pstate ≠ 1 ∨ (s.phase ≠ 4 ∧ s.phase ≠ 5) ∨ s.dieIn d = false ∨ (s.die d).sync = true) :=
  ⟨State.reset, 31, by decide +kernel⟩
theorem wit_Bring_up_14 : ∃ (s : State) (d : Die), (s.pstate = 1) ∧ (s.phase = 5 ∨ s.phase = 6) ∧ (s.dieIn d = true) ∧ ((s.die d).sync = true) ∧ ((s.die d).awake = false) ∧ (s.diesAll DieRec.sync = true) ∧ (d.val % 4 ≠ 0) :=
  ⟨Wit.synced, 31, by decide +kernel⟩
theorem wit_Bring_up_15 : ∃ (s : State) (d : Die), (s.pstate = 1) ∧ (s.phase = 5 ∨ s.phase = 6) ∧ (s.dieIn d = true) ∧ ((s.die d).sync = true) ∧ ((s.die d).awake = false) ∧ (s.diesAll DieRec.sync = true) ∧ (d.val % 4 = 0) :=
  ⟨Wit.synced, 28, by decide +kernel⟩
theorem wit_Bring_up_16 : ∃ (s : State) (d : Die), (s.pstate = 1) ∧ (s.dieIn d = true) ∧ ((s.die d).awake = true) ∧ ((s.die d).trimmed = false) ∧ ((s.met d).selfcal = none) ∧ ((s.met d).calValid = true) :=
  ⟨(((Wit.phase 6).setDie 31 { awake := true }).setMet 31 { on := true, calValid := true }), 31, by decide⟩
theorem wit_Bring_up_17 : ∃ (s : State) (d : Die), (s.pstate ≠ 1 ∨ (s.die d).awake = false ∨ (s.die d).trimmed = true) :=
  ⟨State.reset, 31, by decide⟩
theorem wit_Bring_up_18 : ∃ (s : State) (d : Die), (s.pstate = 1) ∧ (s.dieIn d = true) ∧ ((s.die d).trimmed = true) ∧ ((s.die d).gained = false) ∧ (s.settled d = true ∨ (s.die d).trimEnd + 3500000000 ≤ s.now) :=
  ⟨{ (Wit.phase 6).setDie 31 { trimmed := true } with now := 3500000000 }, 31, by decide⟩
theorem wit_Bring_up_19 : ∃ (s : State) (d : Die), (s.pstate ≠ 1 ∨ (s.die d).trimmed = false ∨ (s.die d).gained = true) :=
  ⟨State.reset, 31, by decide⟩
theorem wit_Bring_up_20 : ∃ (s : State), (s.pstate = 1) ∧ (4 ≤ s.phase) ∧ (s.phase ≤ 7) ∧ (s.diesAll DieRec.gained = true) :=
  ⟨Wit.gained, by decide +kernel⟩
theorem wit_Bring_up_21 : ∃ (s : State), (s.pstate ≠ 1 ∨ s.phase < 4 ∨ 7 < s.phase ∨ s.diesAll DieRec.gained = false) :=
  ⟨State.reset, by decide⟩
theorem wit_Bring_up_22 : ∃ (s : State), (s.pstate = 1) ∧ (s.phase = 8) ∧ (s.lg.marginAt.isSome = true) ∧ (s.dramWaits = false) ∧ (s.runs 0 = true ∨ s.runs 1 = true) :=
  ⟨{ Wit.phase 8 with lg.marginAt := some 0, pw.booted := [true, true], ms.ready := [true, true] }, by decide +kernel⟩
theorem wit_Bring_up_23 : ∃ (s : State), (s.pstate ≠ 1 ∨ s.phase ≠ 8 ∨ s.lg.marginAt = none ∨ s.dramWaits = true ∨ (s.runs 0 = false ∧ s.runs 1 = false)) :=
  ⟨State.reset, by decide⟩
theorem wit_Hub_continuity_0 : ∃ (s : State) (h : Hub), (s.runs h = true) :=
  ⟨Wit.booted, 1, by decide⟩
theorem wit_Hub_continuity_1 : ∃ (s : State) (h : Hub), (s.runs h = false) :=
  ⟨State.reset, 1, by decide⟩
theorem wit_Hub_continuity_2 : ∃ (s : State) (h : Hub) (path : Fin 3), (s.pstate ≠ 0) ∧ (s.sv.update = some h.val) ∧ (mget 0 s.sv.beat (4 * h.val + path.val) + 300000 ≤ s.now) ∧ (s.sv.missed.contains (4 * h.val + path.val) = false) ∧ (((List.range 3).all fun p => (s.sv.missed ++ [4 * h.val + path.val]).contains (4 * h.val + p)) = true) :=
  ⟨{ Wit.booted with now := 300000, sv.missed := [4, 5], sv.update := some 1 }, 1, 2, by decide +kernel⟩
theorem wit_Hub_continuity_3 : ∃ (s : State) (h : Hub) (path : Fin 3), (s.runs h = true) ∧ (mget 0 s.sv.beat (4 * h.val + path.val) + 300000 ≤ s.now) ∧ (s.sv.missed.contains (4 * h.val + path.val) = false) ∧ (((List.range 3).all fun p => (s.sv.missed ++ [4 * h.val + path.val]).contains (4 * h.val + p)) = false) :=
  ⟨{ Wit.booted with now := 300000 }, 1, 2, by decide⟩
theorem wit_Hub_continuity_4 : ∃ (s : State) (h : Hub) (path : Fin 3), (s.runs h = true) ∧ (mget 0 s.sv.beat (4 * h.val + path.val) + 300000 ≤ s.now) ∧ (s.sv.missed.contains (4 * h.val + path.val) = false) ∧ (((List.range 3).all fun p => (s.sv.missed ++ [4 * h.val + path.val]).contains (4 * h.val + p)) = true) :=
  ⟨{ Wit.booted with now := 300000, sv.missed := [4, 5] }, 1, 2, by decide⟩
theorem wit_Hub_continuity_5 : ∃ (s : State) (h : Hub) (path : Fin 3), ((s.runs h = false ∧ s.sv.update ≠ some h.val) ∨ s.now < mget 0 s.sv.beat (4 * h.val + path.val) + 300000 ∨ s.sv.missed.contains (4 * h.val + path.val) = true) :=
  ⟨State.reset, 1, 2, by decide⟩
theorem wit_Hub_continuity_6 : ∃ (s : State) (h : Hub) (sig : Bool) (t0 : Nat), (s.sv.fenced.getD h false = true) ∧ (s.sv.restarted = false) ∧ (s.sv.tookAt = some t0) ∧ (t0 + 1000000000 ≤ s.now) ∧ (({ s with sv.restarted := true } : State).bootChoice h (fun _ => sig) = none) :=
  ⟨{ Wit.booted with sv.fenced := [false, true], sv.tookAt := some 0, now := 1000000000, sv.alive := [true, false] }, 1, false, 0, by decide +kernel⟩
theorem wit_Hub_continuity_7 : ∃ (s : State) (h : Hub) (sig : Bool) (t0 slot : Nat), (s.sv.fenced.getD h false = true) ∧ (s.sv.restarted = false) ∧ (s.sv.tookAt = some t0) ∧ (t0 + 1000000000 ≤ s.now) ∧ (({ s with sv.restarted := true } : State).bootChoice h (fun _ => sig) = some slot) :=
  ⟨{ Wit.booted with sv.fenced := [false, true], sv.tookAt := some 0, now := 1000000000, sv.alive := [true, false] }, 1, true, 0, 0, by decide +kernel⟩
theorem wit_Hub_continuity_8 : ∃ (s : State) (h : Hub), (s.sv.fenced.getD h false = false ∨ s.sv.restarted = true ∨ s.sv.tookAt = none) :=
  ⟨State.reset, 1, by decide⟩
theorem wit_Job_engine_0 : ∃ (s : State) (h : Hub) (g used jn : Nat) (x : Job), (s.pstate = 2) ∧ (s.pw.failN = false) ∧ (s.turnRing h = some (g, used)) ∧ (({ s with wk.turn := s.wk.turn.set h g, wk.deficit := mput 0 s.wk.deficit h used } : State).admissible g = some jn) ∧ (({ s with wk.turn := s.wk.turn.set h g, wk.deficit := mput 0 s.wk.deficit h used } : State).job jn = some x) ∧ (({ s with wk.turn := s.wk.turn.set h g, wk.deficit := mput 0 s.wk.deficit h used } : State).admitCode x = 0) :=
  ⟨Wit.descJob, 0, 0, 1, 1, Wit.acceptedJob, by decide +kernel⟩
theorem wit_Job_engine_1 : ∃ (s : State) (h : Hub) (g used jn : Nat) (x : Job), (s.pstate = 2) ∧ (s.pw.failN = false) ∧ (s.turnRing h = some (g, used)) ∧ (({ s with wk.turn := s.wk.turn.set h g, wk.deficit := mput 0 s.wk.deficit h used } : State).admissible g = some jn) ∧ (({ s with wk.turn := s.wk.turn.set h g, wk.deficit := mput 0 s.wk.deficit h used } : State).job jn = some x) ∧ (({ s with wk.turn := s.wk.turn.set h g, wk.deficit := mput 0 s.wk.deficit h used } : State).admitCode x ≠ 0) :=
  ⟨(Wit.descJob.setJob 1 (some { Wit.acceptedJob with resv := true })), 0, 0, 1, 1, { Wit.acceptedJob with resv := true }, by decide +kernel⟩
theorem wit_Job_engine_2 : ∃ (s : State) (h : Hub), (s.turnRing h = none) :=
  ⟨State.reset, 1, by decide +kernel⟩
theorem wit_Job_engine_3 : ∃ (s : State) (j : Nat) (x : Job), (s.job j = some x) ∧ (x.st = .admitted) ∧ (s.mayIssue x = true) ∧ (s.ringTurn j x = true) ∧ (s.historiesIdle j x = true) ∧ (x.flags / 2 % 2 = 0 ∨ x.launch ≤ s.ck.rk) :=
  ⟨(Wit.ringed.setJob 1 (some { ring := 0, st := .admitted })), 1, { ring := 0, st := .admitted }, by decide +kernel⟩
theorem wit_Job_engine_4 : ∃ (s : State) (j : Nat) (x : Job), (s.job j = some x) ∧ (x.st ≠ .admitted ∨ s.mayIssue x = false ∨ s.ringTurn j x = false ∨ s.historiesIdle j x = false ∨ (x.flags / 2 % 2 = 1 ∧ s.ck.rk < x.launch)) :=
  ⟨(Wit.ringed.setJob 1 (some { ring := 0 })), 1, { ring := 0 }, by decide +kernel⟩
theorem wit_Job_engine_5 : ∃ (s : State) (j : Nat) (x : Job), (s.job j = some x) ∧ (x.st = .running) ∧ (x.next < x.nsteps) ∧ (x.failedAt = false) ∧ (s.mayIssue x = true) :=
  ⟨(Wit.ringed.setJob 1 (some { ring := 0, st := .running, nsteps := 1 })), 1, { ring := 0, st := .running, nsteps := 1 }, by decide +kernel⟩
theorem wit_Job_engine_6 : ∃ (s : State) (j : Nat) (x : Job), (s.job j = some x) ∧ (x.st ≠ .running ∨ x.nsteps ≤ x.next ∨ x.failedAt = true ∨ s.mayIssue x = false) :=
  ⟨(Wit.ringed.setJob 1 (some { ring := 0 })), 1, { ring := 0 }, by decide +kernel⟩
theorem wit_Job_engine_7 : ∃ (s : State) (j : Nat) (x : Job), (s.job j = some x) ∧ (x.st = .running) ∧ (x.next < x.nsteps) ∧ (x.force = false) ∧ ((s.score (s.ringScore x.ring)).epoch ≠ x.epoch) ∧ (x.lastCal + 2000000000 ≤ s.now) :=
  ⟨{ Wit.ringed.setJob 1 (some { ring := 0, st := .running, nsteps := 1, epoch := 5 }) with now := 2000000000 }, 1, { ring := 0, st := .running, nsteps := 1, epoch := 5 }, by decide +kernel⟩
theorem wit_Job_engine_8 : ∃ (s : State) (j : Nat) (x : Job), (s.job j = some x) ∧ (x.force = true ∨ (s.score (s.ringScore x.ring)).epoch = x.epoch ∨ s.now < x.lastCal + 2000000000) :=
  ⟨(Wit.ringed.setJob 1 (some { ring := 0 })), 1, { ring := 0 }, by decide +kernel⟩
theorem wit_Job_engine_9 : ∃ (s : State) (j : Nat) (x : Job) (v : State) (ds : List (List Byte × Nat × List Byte)), (s.job j = some x) ∧ (x.st = .running) ∧ (x.failedAt = false) ∧ (x.nsteps ≤ x.next) ∧ (x.outDue = []) ∧ (((List.range x.nsteps).all (s.stepEnded x)) = true) ∧ (s.sendResult x (sentSteps (s.score (s.ringScore x.ring)).file.man x) x.nsteps = some (v, ds)) :=
  ⟨(Wit.ringed.setJob 1 (some { ring := 0, st := .running, nsteps := 0 })), 1, { ring := 0, st := .running, nsteps := 0 }, (Wit.ringed.setJob 1 (some { ring := 0, st := .running, nsteps := 0 })), [], by decide +kernel⟩
theorem wit_Job_engine_10 : ∃ (s : State) (j : Nat) (x : Job), (s.job j = some x) ∧ (x.st = .running) ∧ (x.failedAt = false) ∧ (x.nsteps ≤ x.next) ∧ (x.outDue = []) ∧ (((List.range x.nsteps).all (s.stepEnded x)) = true) ∧ (s.sendResult x (sentSteps (s.score (s.ringScore x.ring)).file.man x) x.nsteps = none) :=
  ⟨Wit.badOut, 1, { ring := 0, st := .running, nsteps := 0 }, by decide +kernel⟩
theorem wit_Job_engine_11 : ∃ (s : State) (j : Nat) (x : Job), (s.job j = some x) ∧ (x.st ≠ .running ∨ x.failedAt = true ∨ x.next < x.nsteps ∨ x.outDue ≠ []) :=
  ⟨(Wit.ringed.setJob 1 (some { ring := 0 })), 1, { ring := 0 }, by decide +kernel⟩
theorem wit_Job_engine_12 : ∃ (s : State) (j : Nat) (x : Job) (e : Nat) (q : List Nat) (v : State) (ds : List (List Byte × Nat × List Byte)), (s.job j = some x) ∧ (x.outDue = e :: q) ∧ (x.st = .running) ∧ (x.failedAt = false) ∧ (s.stepEnded x (e / 2 ^ 32) = true) ∧ (s.sendResult x (sentSteps (s.score (s.ringScore x.ring)).file.man x) (e / 2 ^ 32 + 1) = some (v, ds)) :=
  ⟨(Wit.ringed.setJob 1 (some { ring := 0, st := .running, nsteps := 1, outDue := [0], ended := [(0, 0)] })), 1, { ring := 0, st := .running, nsteps := 1, outDue := [0], ended := [(0, 0)] }, 0, [], (Wit.ringed.setJob 1 (some { ring := 0, st := .running, nsteps := 1, outDue := [0], ended := [(0, 0)] })), [], by decide +kernel⟩
theorem wit_Job_engine_13 : ∃ (s : State) (j : Nat) (x : Job), (s.job j = some x) ∧ (x.outDue = []) :=
  ⟨(Wit.ringed.setJob 1 (some { ring := 0 })), 1, { ring := 0 }, by decide +kernel⟩
theorem wit_Job_engine_14 : ∃ (s : State) (g : Fin 4096), ((s.ring g).replay = none) :=
  ⟨State.reset, 4095, by decide⟩
theorem wit_Job_engine_15 : ∃ (s : State) (g : Fin 4096), ((s.ring g).replay = some []) :=
  ⟨(State.reset.setRing 4095 { replay := some [] }), 4095, by decide⟩
theorem wit_Job_engine_16 : ∃ (s : State) (g : Fin 4096) (n : Nat) (q : List Nat) (v : Nat × List Byte) (k : Nat), ((s.ring g).replay = some (n :: q)) ∧ ((s.sv.journal.recs.find? fun v => v.1 == n) = some v) ∧ (s.pstate = 2) ∧ ((s.ring g).replayBase + (leAt v.2 24 8 - (s.ring g).replayA0) ≤ s.ck.rk) ∧ (s.held g < s.ringDepth g) ∧ (s.freeHandles (ringHub g) 2 = some k) :=
  ⟨Wit.replaying, 0, 0, [], (0, 1 :: List.replicate 127 0), 1, by decide +kernel⟩
theorem wit_Job_engine_17 : ∃ (s : State) (g : Fin 4096) (n : Nat) (q : List Nat) (v : Nat × List Byte), ((s.ring g).replay = some (n :: q)) ∧ ((s.sv.journal.recs.find? fun v => v.1 == n) = some v) ∧ (s.pstate = 2) ∧ ((s.ring g).replayBase + (leAt v.2 24 8 - (s.ring g).replayA0) ≤ s.ck.rk) ∧ (s.held g < s.ringDepth g) ∧ (s.freeHandles (ringHub g) 2 = none) :=
  ⟨Wit.replayFull, 0, 0, [], (0, 1 :: List.replicate 127 0), by decide +kernel, by decide +kernel, by decide +kernel, by decide +kernel, by decide +kernel, Wit.replayFull_free⟩
theorem wit_Job_engine_18 : ∃ (s : State) (g : Fin 4096) (n : Nat) (q : List Nat) (v : Nat × List Byte), ((s.ring g).replay = some (n :: q)) ∧ ((s.sv.journal.recs.find? fun v => v.1 == n) = some v) ∧ (s.pstate ≠ 2 ∨ s.ck.rk < (s.ring g).replayBase + (leAt v.2 24 8 - (s.ring g).replayA0) ∨ s.ringDepth g ≤ s.held g) :=
  ⟨Wit.replaying.setPstate 3, 0, 0, [], (0, 1 :: List.replicate 127 0), by decide +kernel⟩
theorem wit_Job_engine_19 : ∃ (s : State) (g : Fin 4096) (n : Nat) (q : List Nat), ((s.ring g).replay = some (n :: q)) ∧ ((s.sv.journal.recs.find? fun v => v.1 == n) = none) :=
  ⟨(State.reset.setRing 4095 { replay := some [5] }), 4095, 5, [], by decide⟩
theorem wit_Register_access_1 : ∃ (a : Nat) (i : RegInfo), (regAt a = some i) ∧ (i.cls = .rc) :=
  ⟨(bkBase 0 + 0x40084), ((regAt (bkBase 0 + 0x40084)).getD { cls := .rw }), by decide +kernel⟩
theorem wit_Register_access_2 : ∃ (a : Nat) (i : RegInfo), (regAt a = some i) ∧ (i.cls ≠ .rc) :=
  ⟨(bkBase 0 + 0x40014), ((regAt (bkBase 0 + 0x40014)).getD { cls := .rc }), by decide +kernel⟩
theorem wit_Register_access_3 : ∃ (a : Nat), (regAt a = none) :=
  ⟨1, by decide +kernel⟩
theorem wit_Register_access_4 : ∃ (s : State) (d : Die) (b : Brd) (t : Fin 8), (s.actBusy (boardKey d b) t = false) :=
  ⟨State.reset, 31, 191, 7, by decide⟩
theorem wit_Register_access_5 : ∃ (s : State) (d : Die) (b : Brd) (t : Fin 8), (s.actBusy (boardKey d b) t = true) :=
  ⟨Wit.actUse, 31, 191, 0, by decide +kernel⟩
theorem wit_Register_access_6 : ∃ (s : State) (a : RegAt), (s.reachable a.addr = true) :=
  ⟨Wit.ready, { addr := hubBase 1 }, by decide +kernel⟩
theorem wit_Register_access_7 : ∃ (s : State) (a : RegAt), (s.reachable a.addr = false) :=
  ⟨State.reset, { addr := 0 }, by decide +kernel⟩
theorem wit_Register_access_8 : ∃ (s : State) (p : Pkt) (wr : Bool) (a : Nat), (s.outOfTurn p = false) ∧ (s.unroutable p = false) ∧ (badPkt p = false) ∧ ((s.arrive p).reachable a = true) ∧ (wr = true) :=
  ⟨Wit.ready, Wit.regPkt, true, hubBase 1, by decide +kernel⟩
theorem wit_Register_access_9 : ∃ (s : State) (p : Pkt) (wr : Bool) (a : Nat), (s.outOfTurn p = false) ∧ (s.unroutable p = false) ∧ (badPkt p = false) ∧ ((s.arrive p).reachable a = true) ∧ (wr = false) :=
  ⟨Wit.ready, Wit.regPkt, false, hubBase 1, by decide +kernel⟩
theorem wit_Register_access_10 : ∃ (s : State) (p : Pkt) (wr : Bool) (a : Nat), (s.outOfTurn p = false) ∧ (s.unroutable p = false) ∧ (badPkt p = false) ∧ ((s.arrive p).reachable a = false) ∧ (wr = true) ∧ (p.dstNode < 32) ∧ (p.member.getD p.dstBoard < 192) :=
  ⟨Wit.ready, Wit.pkt { type := 10, dstNode := 31, dstBoard := 191, payload := [5] }, true, 1, by decide +kernel⟩
theorem wit_Register_access_11 : ∃ (s : State) (p : Pkt) (wr : Bool) (a : Nat), (s.outOfTurn p = false) ∧ (s.unroutable p = false) ∧ (badPkt p = false) ∧ ((s.arrive p).reachable a = false) ∧ (wr = false) ∧ (32 ≤ p.dstNode) :=
  ⟨Wit.ready, Wit.pkt { type := 10, dstNode := 32, payload := [0] }, false, 1, by decide +kernel⟩
theorem wit_Register_access_12 : ∃ (s : State) (p : Pkt), (s.outOfTurn p = false) ∧ (s.unroutable p = false) ∧ (badPkt p = true) :=
  ⟨Wit.ready, { poison := true }, by decide +kernel⟩
theorem wit_Empty_queue_lets_time_pass : ∃ s : State, s.pending = [] := ⟨State.reset, rfl⟩
theorem wit_Queue_is_first_in_first_out_0 : ∃ (i : Instr) (s t : State), exec i s = .next t :=
  ⟨.frmCommit 0 0 0, State.reset, _, rfl⟩
theorem wit_Queue_is_first_in_first_out_1 : ∃ (n : Nat) (s t : State), n ≤ s.pending.length ∧ s.runN n = some t :=
  ⟨1, { State.reset with pending := [.mbxIrqClear 0 1 0 0] }, _, by decide, rfl⟩
theorem wit_Steps_keep_the_canonical_form : ∃ s t : State, s.wf = true ∧ step s = .next t :=
  ⟨State.reset, _, by decide, rfl⟩
theorem wit_Commands_change_only_their_parts_0 :
    ∃ (i : Instr) (s t : State) (p : Part), exec i s = .next t ∧ p ∉ Instr.changes i :=
  ⟨.mbxIrqClear 0 1 0 3, State.reset, _, .mem, rfl, by decide⟩
theorem wit_Commands_change_only_their_parts_2 :
    ∃ (i : Instr) (s t : State) (a : Nat), exec i s = .next t ∧ Part.mem ∉ Instr.changes i :=
  ⟨.seqCtlHalt 0 0, State.reset, _, 0, rfl, by decide⟩
theorem wit_Commands_that_fail_a_check_have_no_effect :
    ∃ (i : Instr) (r : Req) (c : Cmd) (s : State), commandOf i = some (r, c) ∧ s.cmdCheck c r ≠ 0 :=
  ⟨.devPower (Wit.req []), Wit.req [], _, State.reset, rfl, by decide +kernel⟩
theorem wit_Mailbox_round_trip : ∃ (s : State) (h : Hub) (n : Fin 8) (e o : Fin 2) (p : Party) (w a : Word) (q : List Instr),
    o.val = 1 - e.val ∧ mbOwn n e p = true ∧ s.mbMay h n e p = true ∧ s.domain h n o = .up ∧ (s.mbxEnd (mbKey h n e)).busy = false ∧
      (s.mbxEnd (mbKey h n e)).ovf = false ∧ (s.mbxEnd (mbKey h n e)).send = [] ∧
      s.pending = [.mbxTxdWrite h n e p w, .mbxDbRing h n e p, .mbxRxdRead h n o, .mbxAckWrite h n o a,
        .mbxAckinRead h n e] ++ q :=
  ⟨{ State.reset with pending := [.mbxTxdWrite 0 3 0 .control 7, .mbxDbRing 0 3 0 .control, .mbxRxdRead 0 3 1, .mbxAckWrite 0 3 1 9,
        .mbxAckinRead 0 3 0] }, 0, 3, 0, 1, .control, 7, 9, [], rfl, by decide, by decide, by decide, by decide, by decide, by decide, rfl⟩
theorem wit_Four_bit_input_codes_0 : ∃ (x : DriveIn) (i k : Nat) (bip : Bool), x.a4 = true ∧ i < x.nrow ∧ k ≤ 3 ∧
    (if x.turn ≠ 0 then x.sgn else x.bip i) = false :=
  ⟨⟨0, 32, 32, 0, 0, 0, true, false, 0, 1, [0], [15]⟩, 0, 3, false, rfl, by decide, by decide, by decide⟩
theorem wit_Four_bit_input_codes_1 : ∃ (x : DriveIn) (i k : Nat) (bip : Bool), x.a4 = true ∧ i < x.nrow ∧ k ≤ 3 ∧
    (if x.turn ≠ 0 then x.sgn else x.bip i) = true :=
  ⟨⟨0, 32, 32, 0, 0, 0, true, false, 1, 1, [0], [8]⟩, 0, 0, true, rfl, by decide, by decide, by decide⟩
theorem wit_Reserved_encodings_are_refused_whole_0 : ∃ (s : State) (d : Die) (b : Brd) (f : Frm),
    s.strokeInHand (frameKey d b f) = false ∧ (fld (s.reg (fkBase (frameKey d b f) + 0x10)) 4 2 = 3 ∨ fld (s.reg (fkBase (frameKey d b f) + 0x10)) 6 2 = 3 ∨
        fld (s.reg (fkBase (frameKey d b f) + 0x18)) 0 8 = 0 ∨ fld (s.reg (fkBase (frameKey d b f) + 0x28)) 0 8 < 128) :=
  ⟨State.reset.setReg (fkBase (frameKey 31 191 33) + 0x28) 127, 31, 191, 33, by decide +kernel, by decide +kernel⟩
theorem wit_Reserved_encodings_are_refused_whole_1 : ∃ (s : State) (d : Die) (b : Brd) (f : Frm),
    s.strokeInHand (frameKey d b f) = false ∧ ¬(fld (s.reg (fkBase (frameKey d b f) + 0x10)) 4 2 = 3 ∨ fld (s.reg (fkBase (frameKey d b f) + 0x10)) 6 2 = 3 ∨
        fld (s.reg (fkBase (frameKey d b f) + 0x18)) 0 8 = 0 ∨ fld (s.reg (fkBase (frameKey d b f) + 0x28)) 0 8 < 128) :=
  ⟨State.reset.setReg (fkBase (frameKey 0 0 0) + 0x28) 128, 0, 0, 0, by decide +kernel, by decide +kernel⟩
theorem wit_Reserved_encodings_are_refused_whole_2 : ∃ (s : State) (d : Die) (b : Brd) (f : Frm) (ws : List Word),
    s.strokeInHand (frameKey d b f) = false ∧ (s.frame (frameKey d b f)).snap = some ws ∧
    (fld (ws.getD 0 0) 4 2 = 3 ∨ fld (ws.getD 0 0) 6 2 = 3 ∨ fld (ws.getD 2 0) 0 8 = 0 ∨ fld (ws.getD 6 0) 0 8 < 128) :=
  ⟨Wit.frm { snap := some [0, 1, 0, 1, 1, 1, 128] }, 31, 191, 33, [0, 1, 0, 1, 1, 1, 128], by decide, by decide, by decide⟩
theorem wit_Mailbox_acknowledgement_0 : ∃ (s : State) (h : Hub) (n : Fin 8) (e : Fin 2) (w : Word) (ws : List Word),
    (s.mbxEnd (mbKey h n e)).recv = some (w :: ws) := ⟨Wit.mbxRecv, 0, 1, 0, 7, [8], by decide⟩
theorem wit_Mailbox_acknowledgement_1 : ∃ (s : State) (h : Hub) (n : Fin 8) (e o : Fin 2) (ws : List Word),
    o.val = 1 - e.val ∧ (s.mbxEnd (mbKey h n e)).recv = some ws := ⟨Wit.mbxRecv, 0, 1, 0, 1, [7, 8], rfl, by decide⟩
theorem wit_Port_without_an_address_0 : ∃ (s : State) (h : Hub) (vid : Option Nat) (len : Nat),
    (s.sv.alive.getD h.val false && s.pw.booted.getD h.val false) = true ∧ s.pstate ≠ 0 ∧ s.regN (spm h 8) = 0 ∧ s.vlanOk h vid = true ∧ len ≤ s.frameLimit h.val vid.isSome :=
  ⟨{ Wit.user with sv.alive := [true, true], pw.booted := [true, true] }, 0, some 0, 1518, by decide +kernel, by decide +kernel, by decide +kernel, by decide +kernel, by decide +kernel⟩
theorem wit_Port_without_an_address_1 : ∃ (s : State) (h : Hub) (vid : Option Nat) (len : Nat),
    (s.sv.alive.getD h.val false && s.pw.booted.getD h.val false) = true ∧ s.pstate ≠ 0 ∧ s.regN (spm h 8) = 0 ∧ s.vlanOk h vid = true ∧ len ≤ s.frameLimit h.val vid.isSome ∧ (s.port h).secured = true :=
  ⟨({ Wit.user with sv.alive := [true, true], pw.booted := [true, true] }).setPort 0 { secured := true }, 0, none, 1518, by decide +kernel, by decide +kernel, by decide +kernel,
    by decide +kernel, by decide +kernel, by decide +kernel⟩
theorem wit_Three_failed_authentications_block_challenges_0 : ∃ (s : State) (r : Req) (sig : Bool) (h : Hub) (n : Fin 16) (bs : List Byte),
    r.src = .session h n ∧ Instr.admitted (.secAuth r sig) s ∧ 1 ≤ argw r 1 ∧ argw r 1 ≤ 2 ∧ s.object (argw r 2) = .ok bs ∧
      bs.length = 4627 ∧ s.authCode (sessKey h n) (argw r 1) sig ≠ 0 :=
  ⟨Wit.challenged, Wit.req [2, 0], false, 0, 1, Wit.sigHandle.bytes 0 4627, rfl, (Instr.admitted_iff _ rfl).2 (by decide +kernel), by decide, by decide,
    Wit.sigObject, Wit.sigLen, by decide +kernel⟩
theorem wit_Three_failed_authentications_block_challenges_1 : ∃ (s : State) (r : Req) (h : Hub) (n : Fin 16),
    r.src = .session h n ∧ Instr.admitted (.secChallenge r) s ∧ 1 ≤ argw r 1 ∧ argw r 1 ≤ 2 ∧ s.now < (s.sess (sessKey h n)).chalBlock :=
  ⟨Wit.user.setSess 1 { opened := true, role := 3, chalBlock := 1 }, Wit.req [2], 0, 1, rfl, (Instr.admitted_iff _ rfl).2 (by decide +kernel), by decide, by decide,
    by decide +kernel⟩
theorem wit_Three_failed_authentications_block_challenges_2 : ∃ (s : State) (r : Req) (h : Hub) (n : Fin 16),
    r.src = .session h n ∧ Instr.admitted (.secChallenge r) s ∧ 1 ≤ argw r 1 ∧ argw r 1 ≤ 2 ∧ (s.sess (sessKey h n)).chalBlock ≤ s.now :=
  ⟨Wit.user, Wit.req [1], 0, 1, rfl, (Instr.admitted_iff _ rfl).2 (by decide +kernel), by decide, by decide, by decide +kernel⟩

end Sys2Proof.Machine
end

section
/-! PROOFS. Accesses of registers, their values after reset, and what a step on an empty queue brings. -/

namespace Sys2Proof.Machine

/-! The keys of units and the address map (R314-R316). -/

@[simp] theorem keyDie_boardKey (d : Die) (b : Brd) : keyDie (boardKey d b) = d := by
  unfold keyDie boardKey; omega

@[simp] theorem keyBrd_boardKey (d : Die) (b : Brd) : keyBrd (boardKey d b) = b := by
  unfold keyBrd boardKey; omega

@[simp] theorem fkBoard_frameKey (d b : Nat) (f : Sys2Proof.Frm) : fkBoard (frameKey d b f) = boardKey d b := by
  unfold fkBoard frameKey; omega

@[simp] theorem fkFrame_frameKey (d b : Nat) (f : Sys2Proof.Frm) : fkFrame (frameKey d b f) = f := by
  unfold fkFrame frameKey; omega

theorem bkBase_boardKey (d : Die) (b : Brd) : bkBase (boardKey d b) = boardBase d b := by
  simp only [bkBase, keyDie_boardKey, keyBrd_boardKey]

theorem fkBase_frameKey (d : Die) (b : Brd) (f : Sys2Proof.Frm) : fkBase (frameKey d b f) = frameBase d b f := by
  simp only [fkBase, fkBoard_frameKey, fkFrame_frameKey, keyDie_boardKey, keyBrd_boardKey]

/-- The window of a board: its frames from 0x80000 on, its own registers and memories below (R315). -/
theorem regionOf_boardBase (d : Die) (b : Brd) {o : Nat} (ho : o < 0x100000) :
    regionOf (boardBase d b + o) =
      if 0x80000 ≤ o then
        (if (o - 0x80000) / 0x1000 < 34 then .frame d b ((o - 0x80000) / 0x1000) (o % 0x1000) else .none)
      else .board d b o := by
  -- the address and its remainders stand as variables, so that no elaboration step evaluates a sum with a large base
  obtain ⟨y, hy⟩ : ∃ y, y = b.val * 0x100000 + o := ⟨_, rfl⟩
  obtain ⟨x, hx⟩ : ∃ x, x = d.val * 0x10000000 + y := ⟨_, rfl⟩
  obtain ⟨a, ha⟩ : ∃ a, a = 0x3000000000 + x := ⟨_, rfl⟩
  have hbase : boardBase d b + o = a := by unfold boardBase; omega
  have hax : a - 0x3000000000 = x := by omega
  have hd : x / 0x10000000 = d ∧ x % 0x10000000 = y := by omega
  have hb : y / 0x100000 = b ∧ y % 0x100000 = o := by omega
  have hdram : ¬a < 0x0F80000000 ∧ ¬(0x1000000000 ≤ a ∧ a < 0x1F80000000) := by omega
  have hpool : ¬(0x2000000000 ≤ a ∧ a < 0x2001800000) ∧ ¬(0x2100000000 ≤ a ∧ a < 0x2101800000) := by omega
  have harray : 0x3000000000 ≤ a ∧ a < 0x3200000000 := by omega
  have hdie : ¬0x0F000000 ≤ y := by omega
  have hbrd : ¬192 ≤ b.val := by omega
  rw [hbase, regionOf, if_neg hdram.1, if_neg hdram.2, if_neg hpool.1, if_neg hpool.2, if_pos harray]
  simp only [hax, hd, hb, hdie, hbrd, if_false]

/-- An offset of a frame's window lies in that frame. -/
theorem regionOf_frame (d : Die) (b : Brd) (f : Sys2Proof.Frm) {o : Nat} (ho : o < 0x1000) :
    regionOf (fkBase (frameKey d b f) + o) = .frame d b f o := by
  have ha : frameBase d b f + o = boardBase d b + (0x80000 + f.val * 0x1000 + o) := by unfold frameBase; omega
  have hf : (0x80000 + f.val * 0x1000 + o - 0x80000) / 0x1000 = f := by omega
  have hr : (0x80000 + f.val * 0x1000 + o) % 0x1000 = o := by omega
  rw [fkBase_frameKey, ha, regionOf_boardBase d b (by omega), if_pos (by omega), hf, hr, if_pos f.isLt]

/-- An offset below its frames lies in the board. -/
theorem regionOf_board (d : Die) (b : Brd) {o : Nat} (ho : o < 0x80000) :
    regionOf (bkBase (boardKey d b) + o) = .board d b o := by
  rw [bkBase_boardKey, regionOf_boardBase d b (by omega), if_neg (by omega)]

/-- An offset of a hub's window lies in that hub (R316). -/
theorem regionOf_hub (h : Hub) {o : Nat} (ho : o < 0x1000000) : regionOf (hubBase h + o) = .hub h o := by
  obtain ⟨a, ha⟩ : ∃ a, a = 0x4000000000 + h.val * 0x100000000 + o := ⟨_, rfl⟩
  have hbase : hubBase h + o = a := by unfold hubBase; omega
  have hdram : ¬a < 0x0F80000000 ∧ ¬(0x1000000000 ≤ a ∧ a < 0x1F80000000) := by omega
  have hpool : ¬(0x2000000000 ≤ a ∧ a < 0x2001800000) ∧ ¬(0x2100000000 ≤ a ∧ a < 0x2101800000) := by omega
  have harray : ¬(0x3000000000 ≤ a ∧ a < 0x3200000000) := by omega
  rw [hbase, regionOf, if_neg hdram.1, if_neg hdram.2, if_neg hpool.1, if_neg hpool.2, if_neg harray]
  obtain hh | hh : h.val = 0 ∨ h.val = 1 := by omega
  · have hin : 0x4000000000 ≤ a ∧ a < 0x4001000000 := by omega
    have hoff : a - 0x4000000000 = o := by omega
    rw [if_pos hin, hoff, hh]
  · have hout : ¬(0x4000000000 ≤ a ∧ a < 0x4001000000) := by omega
    have hin : 0x4100000000 ≤ a ∧ a < 0x4101000000 := by omega
    have hoff : a - 0x4100000000 = o := by omega
    rw [if_neg hout, if_pos hin, hoff, hh]

theorem regAt_frame (d : Die) (b : Brd) (f : Sys2Proof.Frm) {o : Nat} (ho : o < 0x1000) :
    regAt (fkBase (frameKey d b f) + o) = frameReg o := by
  have ha : fkBase (frameKey d b f) + o < 2 ^ 48 := by
    rw [fkBase_frameKey]; unfold frameBase boardBase; omega
  rw [regAt, Nat.mod_eq_of_lt ha, regionOf_frame d b f ho]

theorem regAt_board (d : Die) (b : Brd) {o : Nat} (ho : o < 0x80000) :
    regAt (bkBase (boardKey d b) + o) = boardReg o := by
  have ha : bkBase (boardKey d b) + o < 2 ^ 48 := by
    rw [bkBase_boardKey]; unfold boardBase; omega
  rw [regAt, Nat.mod_eq_of_lt ha, regionOf_board d b ho]

theorem regAt_hub (h : Hub) {o : Nat} (ho : o < 0x1000000) : regAt (hubBase h + o) = hubReg o := by
  have ha : hubBase h + o < 2 ^ 48 := by unfold hubBase; omega
  rw [regAt, Nat.mod_eq_of_lt ha, regionOf_hub h ho]

/-! Reads. -/

/-- The offsets of a frame's window whose reads show other state than the register file (R66, R112, R121). -/
def frameMirror (o : Nat) : Bool :=
  o == 0 || o == 4 || o == 0x114 || o == 0xC64 || inRange o 0x800 0xC3C 4 || inRange o 0xC40 0xC5C 4

section
variable (s : State) {a d b f h o : Nat} {i : RegInfo}

/-- A read of a frame register shows it and has no effect, unless the register is write-only or clear-on-read. -/
theorem State.readAt_frame (hr : regionOf a = .frame d b f o) (hi : regAt a = some i) (hw : i.cls ≠ .wo)
    (hc : i.cls ≠ .rc) : s.readAt a = { s with rdata := s.peek a } := by
  simp only [State.readAt, hr, hi, hw, hc, if_false]

/-- The same of a board register below the tally's slots. -/
theorem State.readAt_board (hr : regionOf a = .board d b o) (ho : o < 0x48000) (hi : regAt a = some i)
    (hw : i.cls ≠ .wo) (hc : i.cls ≠ .rc) : s.readAt a = { s with rdata := s.peek a } := by
  have ht : ¬(0x48000 ≤ o ∧ o % 8 = 0) := by omega
  simp only [State.readAt, hr, hi, hw, hc, ht, if_false]

/-- The same of a port register of a hub. -/
theorem State.readAt_port (hr : regionOf a = .hub h o) (ho : o / 0x10000 = 4) (hi : regAt a = some i)
    (hw : i.cls ≠ .wo) (hc : i.cls ≠ .rc) : s.readAt a = { s with rdata := s.peek a } := by
  have hrk : o ≠ 0x50000 := by omega
  have hmbx : ¬(o / 0x10000 = 1 ∧ o % 0x10000 % 0x80 = 0x18) := by omega
  simp only [State.readAt, hr, hi, hw, hc, hrk, hmbx, if_false]

/-- FRM_ID is the position of its frame. -/
theorem State.peek_frmId (hr : regionOf a = .frame d b f 0) : s.peek a = word (f + b * 2 ^ 8 + d * 2 ^ 16) := by
  simp only [State.peek, hr, if_true]

/-- A frame register that mirrors no other state reads as the register file holds it. -/
theorem State.peek_frame (hr : regionOf a = .frame d b f o) (hm : frameMirror o = false) : s.peek a = s.reg a := by
  simp only [frameMirror, Bool.or_eq_false_iff, beq_eq_false_iff_ne] at hm
  simp only [State.peek, hr, hm, Bool.false_eq_true, if_false]

/-- So does a board register between the status of the sequencer and the activation tables. -/
theorem State.peek_board (hr : regionOf a = .board d b o) (hlo : 0x40010 ≤ o) (hhi : o < 0x41100) :
    s.peek a = s.reg a := by
  have hbelow : ¬o < 0x24000 ∧ o ≠ 0x40004 := by omega
  have habove : o ≠ 0x46000 ∧ ¬(0x48000 ≤ o ∧ o < 0x4C000 ∧ o % 8 = 0) := by omega
  have hact : inRange o 0x41100 0x4111C 4 = false ∧ inRange o 0x42000 0x43FFC 4 = false := by
    simp only [inRange, decide_eq_false_iff_not]; omega
  simp only [State.peek, hr, hbelow, habove, hact, Bool.or_false, Bool.false_eq_true, if_false]

/-- And a port register below the session states. -/
theorem State.peek_port (hr : regionOf a = .hub h (0x40000 + o)) (ho : o < 0x100) : s.peek a = s.reg a := by
  have hq : (0x40000 + o) / 0x10000 = 4 ∧ (0x40000 + o) % 0x10000 = o := by omega
  have hs : inRange o 0x100 0x13C 4 = false := by simp only [inRange, decide_eq_false_iff_not]; omega
  simp only [State.peek, hr, hq, hs, Bool.false_eq_true, if_false]

end

/-! Reset. -/

/-- After reset the register file holds the reset values of the tables (R12, R519). -/
theorem State.reset_reg {a : Nat} {i : RegInfo} (hi : regAt a = some i) :
    State.reset.reg a = BitVec.ofNat 32 i.reset := by
  simp only [State.reg, State.reset, mget_nil, regReset, hi]

/-- And so do the values in force. -/
theorem State.reset_liveReg {a : Nat} {i : RegInfo} (hi : regAt a = some i) :
    State.reset.liveReg a = BitVec.ofNat 32 i.reset := by
  simp only [State.liveReg, State.reset, mget_nil, regReset, hi]

theorem readAt_reset_frmId (d : Die) (b : Brd) (f : Sys2Proof.Frm) :
    (State.reset.readAt (fkBase (frameKey d b f))).rdata = word (f.val + b.val * 2 ^ 8 + d.val * 2 ^ 16) := by
  have hr : regionOf (fkBase (frameKey d b f)) = .frame d b f 0 := regionOf_frame d b f (o := 0) (by omega)
  have hi : regAt (fkBase (frameKey d b f)) = some ⟨.ro, 0, 0⟩ := regAt_frame d b f (o := 0) (by omega)
  rw [State.readAt_frame _ hr hi nofun nofun, State.peek_frmId _ hr]

/-- After reset a frame register that mirrors no other state answers the reset value of its table. -/
theorem readAt_reset_frame (d : Die) (b : Brd) (f : Sys2Proof.Frm) {o : Nat} {i : RegInfo} {v : Word} (ho : o < 0x1000)
    (hm : frameMirror o = false) (hi : frameReg o = some i) (hw : i.cls ≠ .wo) (hc : i.cls ≠ .rc)
    (hv : BitVec.ofNat 32 i.reset = v) :
    (State.reset.readAt (fkBase (frameKey d b f) + o)).rdata = v := by
  have hr := regionOf_frame d b f ho
  have ha := (regAt_frame d b f ho).trans hi
  rw [State.readAt_frame _ hr ha hw hc, State.peek_frame _ hr hm, State.reset_reg ha, hv]

theorem readAt_reset_board (d : Die) (b : Brd) {o : Nat} {i : RegInfo} {v : Word} (hlo : 0x40010 ≤ o)
    (hhi : o < 0x41100) (hi : boardReg o = some i) (hw : i.cls ≠ .wo) (hc : i.cls ≠ .rc)
    (hv : BitVec.ofNat 32 i.reset = v) :
    (State.reset.readAt (bkBase (boardKey d b) + o)).rdata = v := by
  have hr := regionOf_board d b (o := o) (by omega)
  have ha := (regAt_board d b (o := o) (by omega)).trans hi
  rw [State.readAt_board _ hr (by omega) ha hw hc, State.peek_board _ hr hlo hhi, State.reset_reg ha, hv]

theorem readAt_reset_port (h : Hub) {x : Nat} {i : RegInfo} {v : Word} (hx : x < 0x100)
    (hi : hubReg (0x40000 + x) = some i) (hw : i.cls ≠ .wo) (hc : i.cls ≠ .rc) (hv : BitVec.ofNat 32 i.reset = v) :
    (State.reset.readAt (spm h x)).rdata = v := by
  have hr := regionOf_hub h (o := 0x40000 + x) (by omega)
  have ha := (regAt_hub h (o := 0x40000 + x) (by omega)).trans hi
  rw [spm, Nat.add_assoc, State.readAt_port _ hr (by omega) ha hw hc, State.peek_port _ hr hx, State.reset_reg ha, hv]

theorem boardReg_drnProgCtl : ∀ n : Fin 8, boardReg (0x41000 + 16 * n) = some ⟨.rws, 0x3FFFFE, 0xE001⟩ := by decide

theorem boardReg_drnProgClamp : ∀ n : Fin 8, boardReg (0x41004 + 16 * n) = some ⟨.rws, 0xFFFFFFFF, 0x7F80FF80⟩ := by
  decide

/-- Settles O54: each register named is read through its own window, where the read shows the reset value of the
register's table. -/
theorem resetRegisterValues : Obligations.Reset_register_values := by
  intro d b f n h
  refine ⟨readAt_reset_frmId d b f, ?mode, ?inForce, ?slew, ?retry, ?tol, ?conf, ?hr, ?gain, ?win, ?pulse, ?wdog,
    ?ctl, ?clamp, ?portCfg, ?ethCfg⟩
  case mode | slew | retry | tol | conf | hr | gain | win | pulse =>
    exact readAt_reset_frame d b f (by omega) (by decide) rfl nofun nofun rfl
  case inForce => exact State.reset_liveReg (regAt_frame d b f (o := 0x10) (by omega))
  case wdog => exact readAt_reset_board d b (by omega) (by omega) rfl nofun nofun rfl
  case ctl =>
    rw [Nat.add_assoc]
    exact readAt_reset_board d b (by omega) (by omega) (boardReg_drnProgCtl n) nofun nofun rfl
  case clamp =>
    rw [Nat.add_assoc]
    exact readAt_reset_board d b (by omega) (by omega) (boardReg_drnProgClamp n) nofun nofun rfl
  case portCfg | ethCfg => exact readAt_reset_port h (by omega) rfl nofun nofun rfl

/-! Time on an empty queue. -/

theorem State.advance_now (s : State) : s.advance.now = s.now + 1 := by
  unfold State.advance
  dsimp only
  split
  case isFalse => rfl
  case isTrue =>
    split
    · rfl
    · split <;> rfl

theorem step_of_empty {s : State} (h : s.pending = []) : step s = .next s.tick := by
  simp only [step, h]

/-- What follows a nanosecond's count leaves the time as it is. -/
theorem State.tick_now (s : State) : s.tick.now = s.now + 1 := by
  have h : Keeps (· ≠ .now) s.advance s.tick := by
    unfold State.tick
    exact State.releaseSteps_k _ (State.lowerSyncOut_k _ (State.watch_k _ (State.countWaits_k _ (Keeps.refl _)
      nofun nofun) nofun nofun) nofun) nofun nofun nofun nofun
  have hn : s.tick.now = s.advance.now := (h.frame .now).resolve_left (by simp)
  rw [hn, State.advance_now]

/-- The parts of the state that a nanosecond may change. -/
def tickParts : List Part := [.now, .regs, .ck, .pw, .wk, .fb, .ms, .lg]

theorem State.tick_keeps (s : State) : Keeps (· ∈ tickParts) s s.tick := by
  refine State.tick_k s (Keeps.refl s) ?_ ?_ ?_ ?_ ?_ ?_ ?_ ?_ <;> decide

theorem State.tick_same (s : State) {p : Part} (h : p ∉ tickParts) : State.same p s s.tick :=
  (s.tick_keeps.frame p).resolve_left h

/-- Settles O47: a nanosecond changes the registers, the clock, power, work, fabric, memory and ledger records alone,
whether or not step starts are held. -/
theorem emptyQueueLetsTimePass : Obligations.Empty_queue_lets_time_pass := by
  intro s h
  have same (p : Part) (hp : p ∉ tickParts) : State.same p s s.tick := s.tick_same hp
  refine ⟨s.tick, step_of_empty h, s.tick_now, s.tick_keeps.pending.trans h, fun _ => ?_⟩
  exact ⟨same .mem (by decide), same .beads (by decide), same .side (by decide), same .frames (by decide),
    same .boards (by decide), same .live (by decide), same .evlog (by decide), same .sent (by decide)⟩

/-! Accesses. -/

theorem exec_counterReadClear (a : Nat) (s : State) : exec (.counterReadClear a) s = execCounterReadClear a s := rfl

/-- A write to an activation register of a table that an unfinished instruction uses waits its turn (R226). -/
theorem State.writeAct_busy {s : State} {bk o : Nat} (w : Word) (h : s.actBusy bk (actTable o) = true) :
    s.writeAct bk o w = s.setBoard bk { s.board bk with actPend := (s.board bk).actPend ++ [(o, w)] } := by
  simp only [State.writeAct, h, if_true]

theorem State.writeAct_free {s : State} {bk o : Nat} (w : Word) (h : s.actBusy bk (actTable o) = false) :
    s.writeAct bk o w = s.setAct bk o w := by
  simp only [State.writeAct, h, Bool.false_eq_true, if_false]

/-- The 256 words of table t lie from 0x42000 + 1024 t on. -/
theorem actTable_entry (t : Fin 8) (k : Fin 256) : actTable (0x42000 + 1024 * t + 4 * k) = t := by
  rw [actTable, if_neg (by omega)]; omega

theorem exec_drnActWrite (d : Die) (b : Brd) (t : Fin 8) (k : Fin 256) (w : Word) (s : State) :
    exec (.drnActWrite d b t k w) s = .next (s.writeAct (boardKey d b) (0x42000 + 1024 * t + 4 * k) w) := rfl

theorem exec_registerWrite (a : RegAt) (w : Word) (s : State) :
    exec (.registerWrite a w) s =
      .next (if s.reachable a.addr then s.writeAt (a.addr / 4 * 4) w a.seq else s) := rfl

section
variable {s : State} {p : Pkt} (o : s.outOfTurn p = false) (u : s.unroutable p = false)
include o u

/-- A sound REG packet reads or writes the address it names once it has arrived (R270, R317). -/
theorem execRegPacket_reached {a : Nat} (hb : badPkt p = false) (hr : (s.arrive p).reachable a = true) (wr : Bool) :
    execRegPacket p wr a s = .next (if wr then (s.arrive p).writeAt (a / 4 * 4) (word (leAt p.payload 0 4))
      else (s.arrive p).readAt (a / 4 * 4)) := by
  cases wr <;> simp [execRegPacket, State.accept_sound o u hb, hr]

/-- Where nothing answers at the address the packet is counted at its destination board, and a read answers 0 (R314). -/
theorem execRegPacket_unreached {a : Nat} (hb : badPkt p = false) (hr : (s.arrive p).reachable a = false) (wr : Bool)
    {t : State} (ht : t = if p.dstNode < 32 ∧ p.member.getD p.dstBoard < 192
      then (s.arrive p).bump (bkBase (pktDst p) + 0x46088) 1 else s.arrive p) :
    execRegPacket p wr a s = .next (if wr then t else { t with rdata := 0 }) := by
  simp [execRegPacket, State.accept_sound o u hb, hr, ht]

/-- A poisoned REG packet is not used (R268, R290). -/
theorem execRegPacket_bad (hb : badPkt p = true) (wr : Bool) (a : Nat) :
    execRegPacket p wr a s = .next ((s.arrive p).poisoned p) := by
  simp only [execRegPacket, State.accept_bad o u hb]

end

/-- Settles O45, by the cases of each access: the register's class, the use of the table, the power of the unit and the
soundness of the packet. -/
theorem registerAccess : Obligations.Register_access := by
  refine ⟨fun s d b n => rfl, ?clear, ?other, ?unassigned, ?actFree, ?actBusy, ?write, ?discard, ?pktWrite, ?pktRead,
    ?pktLost, ?pktZero, ?pktBad⟩
  case clear =>
    intro s a i hi hc
    simp only [exec_counterReadClear, execCounterReadClear, hi, hc, if_true]
  case other =>
    intro s a i hi hc
    simp only [exec_counterReadClear, execCounterReadClear, hi, hc, if_false]
  case unassigned =>
    intro s a hi
    simp only [exec_counterReadClear, execCounterReadClear, hi]
  case actFree =>
    intro s d b t k w h
    rw [exec_drnActWrite, State.writeAct_free w (by rw [actTable_entry, h])]
  case actBusy =>
    intro s d b t k w h
    rw [exec_drnActWrite, State.writeAct_busy w (by rw [actTable_entry, h])]
  case write =>
    intro s a w h
    rw [exec_registerWrite, if_pos h]
  case discard =>
    intro s a w h
    rw [exec_registerWrite, if_neg (by simp [h])]
  case pktWrite =>
    rintro s p _ a o u hb hr rfl
    exact execRegPacket_reached o u hb hr true
  case pktRead =>
    rintro s p _ a o u hb hr rfl
    exact execRegPacket_reached o u hb hr false
  case pktLost =>
    rintro s p _ a o u hb hr rfl hd hm
    exact execRegPacket_unreached o u hb hr true (if_pos ⟨hd, hm⟩).symm
  case pktZero =>
    rintro s p _ a o u hb hr rfl hd
    exact execRegPacket_unreached o u hb hr false (if_neg (by omega)).symm
  case pktBad =>
    intro s p wr a o u hb
    exact execRegPacket_bad o u hb wr a

end Sys2Proof.Machine
end

section
/-! PROOFS. Every command and every step answers a next state. -/

namespace Sys2Proof.Machine

/-- A meaning that answers a next state. -/
def Completes (o : Host.Outcome State Fault Refusal) : Prop := ∃ t, o = .next t

theorem Completes.next (t : State) : Completes (.next t) := ⟨t, rfl⟩

theorem Completes.ite {c : Prop} [Decidable c] {a b : Host.Outcome State Fault Refusal} (ha : Completes a)
    (hb : Completes b) : Completes (if c then a else b) := by
  split
  · exact ha
  · exact hb

/-- Every command answers a next state: its meaning is one outright, or chooses among next states by conditions, or also
by what it finds in a record, the queue of a unit, a pool or a packet. -/
theorem exec_completes (i : Instr) (s : State) : Completes (exec i s) := by
  cases i
  -- a next state outright
  case devInfo | devState | devPower | devPort | devEvents | scoreLoad | scoreAbort | scoreRetire | scoreInfo |
    scoreList | beadOpen | beadClose | beadPlane | beadWear | calStatus | calRecount | calRecal | calFactory |
    calMeasure | ringCfg | ringAttach | ringDetach | ringPause | ringResume | ringHreset | ringStat | ringDelete
    | jobHandle | jobFree | jobCancel | jobFetch | jobPagesFree | jobCkpt | jobRestore | syncStat | syncCfg |
    syncNow | metRead | metSeq | metWin | metSelfcal | metDump | thmRead | thmPolicy | thmRetire | pwrRead |
    pwrPolicy | ldgRead | ldgWrite | ldgCounter | ldgPasswd | ldgAudit | secDrop | secCak | secIkey | secAttest
    | secFw | secDebug | logRead | logTelem | logJournal | logExport | logReplay | svcMapRead | svcMapEdit |
    svcRepair | svcSwap | svcLimits | sprinmosCommand | commandResponse | ringPush | dataMessage | hostAck |
    hostNak | sessionIdleTimeout | sidebandFailover | mbxAckWrite | mbxAckinRead | mbxLockRelease | mbxIrqClear
    | mbxWakeDelivery | frmCommit | commitApply | frmCtlIdle | frmCtlRepair | frmCtlSpare | frmCtlRetire |
    frmCtlClearFault | seqCtlRun | seqCtlHalt | seqCtlClear | tlySlotLoRead | drnActWrite | registerWrite |
    stepStart | linkRetrain | beamCtlRetrain | beamCtlDown | dramMr4Poll | dramRefresh | dramChannelFail |
    calPublication | metExternalEvent | metCmdSelfcal | metCmdFlush | metProbeWrite | metWinStatClear |
    tokenBalanceCheck | vinOvercurrent | vsbHigh | wakeEdge | overdueRecountWake | dieLoss | rkCntLoRead |
    smbusAlertResponse =>
    exact .next _
  -- conditions alone
  case devReset | ldgUnlock | portLinkChange | mkaRekey | timePortFallback | smbusBlockWrite | smbusBlockRead |
    smbusReadByte | mbxTxdWrite | mbxDbFlush | mbxLockRead | mb4Timeout | calRegisterWrite | frmPrgStart |
    frmPrgAbort | prgThermalResume | rowRamp | poisonPacket | linkFrameRx | linkIdleFrame | linkRetrainDone |
    linkSilenceTimeout | linkDown | routeFenceComplete | laneRoutingSwitch | metTrigger | metUrgentRequest |
    metCtlWrite | metIsrcWrite | thermalSample | sampleIntervalRise | thermalTrip | autoRestart | tokenTick |
    brownOut | supplyLoss | pwrFailNAssert | pwrFailNDeassert | resetNLow | serviceEnChange | refclkLoss |
    idleToDrowsy | idleToDormant | drowsyEntry | dormantEntry | wakeFromDormant | wakeFromDrowsy |
    ledgerPageWrite | ledgerCounterIncrement | ledgerCounterResolve | ledgerMarginPass | ledgerCopyLost |
    ledgerCopyReturn | ledgerReady | heartbeatSend | heartbeatMiss | heldPacketResend | coldStart | secureBoot |
    dramZeroDone | resetHandshake | reckoningSet | syncInEdge | syncInLoss | arrayWake | planeGainPass |
    mapAndScores | ready | securityTapAuth | syncOutEdge | brownOutEnd | staleSensor =>
    repeat' first | with_reducible exact .next _ | refine .ite ?_ ?_
  -- conditions and what is found
  case secChallenge | secAuth | retransmitTimeout | throttleExpiry | ethernetFrameRx | mbxDbRing | mbxRxdRead |
    frmPrgFeed | prgRow | prgPlaneClose | prgGrant | counterReadClear | seqBeginStep | instructionIssue | stroke
    | tokenGrant | strokeEnd | confidenceRestroke | exactLanePart | psel | tclr | trd | drain | vmm | vop |
    csend | crecv | move | waitrk | waitrkRelease | step | capt | loop | endProg | jobFailureCancel |
    watchdogExpiry | scoreRefetch | carryPacket | carryRetry | scarryPacket | sfwdPacket | actPacket |
    memRdPacket | memWrPacket | memRspPacket | amaxPacket | switchPacket | regPacket | ackPacket |
    reservedPacket | overlappedBoardSwitch | fencedBoardSwitch | switchRecordRemoval | historyCopy | slateScrub
    | dramPatrolScrub | mirrorResyncDone | ringAdmission | jobLaunch | stepStartIssue | calForcedTimeout |
    intermediateCompletion | finalCompletion | replayInject | recountVisit | refreshMigration | measurementVisit
    | metConversionEnd | metEntryDelayEnd | metSelfcalDone | metQRead | metConverterWake | throttleStepFall |
    brownOut1ms | brownOut100ms | ledgerPageResolve | hubRestart | frameRepair | boardRepair | trimPass |
    portConfigApply | provisioning =>
    dsimp only [exec, execSecChallenge, execSecAuth, execRetransmitTimeout, execThrottleExpiry, execEthernetFrameRx,
      execMbxDbRing, execMbxRxdRead, execFrmPrgFeed, execPrgRow, execPrgPlaneClose, execPrgGrant,
      execCounterReadClear, execSeqBeginStep, execInstructionIssue, execStroke, execTokenGrant, execStrokeEnd,
      execConfidenceRestroke, execExactLanePart, execPsel, execTclr, execTrd, execDrain, execVmm, execVop,
      execCsend, execCrecv, execMove, execWaitrk, execWaitrkRelease, execStep, execCapt, execLoop, execEndProg,
      execJobFailureCancel, execWatchdogExpiry, execScoreRefetch, execCarryPacket, execCarryRetry, execScarryPacket,
      execSfwdPacket, execActPacket, execMemRdPacket, execMemWrPacket, execMemRspPacket, execAmaxPacket,
      execSwitchPacket, execRegPacket, execAckPacket, execReservedPacket, execOverlappedBoardSwitch,
      execFencedBoardSwitch, execSwitchRecordRemoval, execHistoryCopy, execSlateScrub, execDramPatrolScrub,
      execMirrorResyncDone, execRingAdmission, execJobLaunch, execStepStartIssue, execCalForcedTimeout,
      execIntermediateCompletion, execFinalCompletion, execReplayInject, execRecountVisit, execRefreshMigration,
      execMeasurementVisit, execMetConversionEnd, execMetEntryDelayEnd, execMetSelfcalDone, execMetQRead,
      execMetConverterWake, execThrottleStepFall, execBrownOut1ms, execBrownOut100ms, execLedgerPageResolve,
      execHubRestart, execFrameRepair, execBoardRepair, execTrimPass, execPortConfigApply, execProvisioning]
    repeat' first | with_reducible exact .next _ | with_reducible refine .ite ?_ ?_ | split

theorem step_of_cons {s : State} {c : Instr} {rest : List Instr} (h : s.pending = c :: rest) :
    step s = exec c { s with pending := rest } := by
  simp only [step, h]

/-- A step completes: time passes on an empty queue, and a queued command is carried out. -/
theorem step_completes (s : State) : Completes (step s) := by
  cases h : s.pending with
  | nil => exact step_of_empty h ▸ .next _
  | cons c rest => exact step_of_cons h ▸ exec_completes c _

theorem State.runN_succ {s t : State} (n : Nat) (h : step s = .next t) : s.runN (n + 1) = t.runN n := by
  simp only [State.runN, h]

theorem State.runN_completes (n : Nat) (s : State) : ∃ t, s.runN n = some t := by
  induction n generalizing s with
  | zero => exact ⟨s, rfl⟩
  | succ n ih =>
    obtain ⟨t, h⟩ := step_completes s
    exact State.runN_succ n h ▸ ih t

/-- Settles O49, by the shape of each command's meaning, and by induction on the number of steps. -/
theorem everyCommandCompletes : Obligations.Every_command_completes :=
  ⟨exec_completes, step_completes, State.runN_completes⟩

end Sys2Proof.Machine
end

section
/-! PROOFS. Calibration: its commands, publication, the measurement visit and the recount visit. -/

namespace Sys2Proof.Machine

/-! Commands whose audit entry is written. -/

section
variable {s : State} {c : Cmd} {r : Req} {body : State → Res} {i : Instr}
  (h : s.answers = true ∧ s.cmdCheck c r = 0 ∧ ¬((c.ready ∧ (s.pstate = 3 ∨ s.pstate = 4)) ∨ s.waits c r) ∧
    ((c.p || c.c) = true → s.pendFull r.src = false) ∧ ∀ p ∈ s.hl.pend, ¬(p.req = r ∧ p.op = c.op))
include h

/-- A C command that nothing refuses and that completes at once. -/
theorem State.command_c_ok {ws : List Word} {t : State} (e : commandOf i = some (r, c)) (hc : c.c = true)
    (hl : s.takesEntry) (hn : ∀ code d, body s ≠ .refuse code d) (hb : body (Instr.entered i s) = .ok ws t) :
    s.command c r body = t.finish r 0 ws := by
  rw [State.command_c h e hc hn hl, hb]

end

theorem Instr.entered_takesEntry (i : Instr) {s : State} (hl : s.takesEntry) : (Instr.entered i s).takesEntry := by
  have k := (Instr.entered_beside i s).checks
  exact ⟨k.prewrite.trans hl.1, by rw [k.copies]; exact hl.2⟩

/-! The calibration set. -/

/-- A calibration set is written whole where the ledger's checks hold (R457, R465). -/
theorem State.writeCalSet_ok {s : State} (kind : Nat) (bs : List Byte) (hl : s.takesEntry) :
    s.writeCalSet kind bs = ((s.writeCalSet kind bs).1, true) := by
  have inc : s.ctrInc 2 = ((s.ctrInc 2).1, true) := Prod.ext rfl (State.ctrInc_ok s 2 hl.1 hl.2)
  have k := (State.Beside.ctrInc s 2).checks
  refine Prod.ext rfl ?_
  rw [State.writeCalSet, inc]
  exact State.ledgerPages_ok _ _ _ _ (k.prewrite.trans hl.1) (by rw [k.copies]; exact hl.2)

/-- The conditions of a recalibration are those of the state in which its entry is made (R145). -/
@[simp] theorem Instr.entered_recalReady (i : Instr) (s : State) : (Instr.entered i s).recalReady = s.recalReady := by
  simp only [State.recalReady, State.ring, State.runningOf, State.jstate, State.job, State.thunit,
    Instr.entered_ringList, Instr.entered_wk, Instr.entered_th, Instr.entered_now]

@[simp] theorem Instr.entered_object (i : Instr) (s : State) (k fmt : Nat) :
    (Instr.entered i s).object k fmt = s.object k fmt := by
  simp only [State.object, State.handle, Instr.entered_wk]

/-! Publication and visits. -/

theorem exec_calPublication (slot : Fin 64) (s : State) :
    exec (.calPublication slot) s = .next (if s.canPublish slot then s.publish slot else s) := rfl

/-- A row driver whose readings lie within 0.5 % of full scale is as it should be; one reading beyond raises its fault
(R69, R427). -/
theorem State.readDriver_near {s : State} {fk row : Nat} {hi mid lo : Int}
    (h : 1000 * (hi * 2048 - 2040 * 8388607).natAbs ≤ 5 * 8388607 * 2048)
    (m : 1000 * (mid * 2048 - 0 * 8388607).natAbs ≤ 5 * 8388607 * 2048)
    (l : 1000 * (lo * 2048 - (-2048) * 8388607).natAbs ≤ 5 * 8388607 * 2048) :
    s.readDriver fk row hi mid lo =
      s.setFrame fk { s.frame fk with readAt := mput 0 (s.frame fk).readAt row s.now } := by
  rw [State.readDriver, if_neg]
  simp only [decide_eq_true_eq, not_or, not_lt]
  exact ⟨h, m, l⟩

theorem State.readDriver_off {s : State} {fk row : Nat} {hi mid lo : Int}
    (h : 5 * 8388607 * 2048 < 1000 * (hi * 2048 - 2040 * 8388607).natAbs ∨
      5 * 8388607 * 2048 < 1000 * (mid * 2048 - 0 * 8388607).natAbs ∨
      5 * 8388607 * 2048 < 1000 * (lo * 2048 - (-2048) * 8388607).natAbs) :
    s.readDriver fk row hi mid lo =
      let t := (s.setFrame fk { s.frame fk with readAt := mput 0 (s.frame fk).readAt row s.now }).frameFault fk 5
      (t.setFrame fk { t.frame fk with diagnose := true }).log 0x107 [fk, row] := by
  rw [State.readDriver, if_pos]
  simpa only [decide_eq_true_eq] using h

section
variable {s : State} {d : Die} {b : Brd} {f : Sys2Proof.Frm}

/-- What a measurement visit due on a free frame does first. -/
def State.beginMeasure (s : State) (d : Die) (fk : Nat) : Visit → State
  | .readback row hi mid lo => s.readDriver fk row hi mid lo
  | .gain p => (s.setFrame fk { s.frame fk with measure := some { gain := some p.val } }).holdFrame fk
  | .trims =>
    if bit (s.reg (metBase d + 8)) 20 then s
    else (((s.measureSource fk).1.setSource fk false 0 true).setFrame fk
      { s.frame fk with measure := some { e := (s.measureSource fk).2 } }).holdFrame fk

/-- A visit begins on a free frame once it is due (R126, R427). -/
theorem exec_measurementVisit_begins {k : Visit} (hm : (s.frame (frameKey d b f)).measure = none)
    (hv : s.visitable (frameKey d b f) = true) (hd : s.measureDue (frameKey d b f) k = true) :
    exec (.measurementVisit d b f k) s = .next (s.beginMeasure d (frameKey d b f) k) := by
  show execMeasurementVisit d b f k s = _
  simp only [execMeasurementVisit, hm, hv, hd, Bool.not_true, Bool.false_eq_true, or_self, if_false]
  cases k with
  | readback row hi mid lo => rfl
  | gain p => rfl
  | trims => exact (apply_ite Host.Outcome.next _ _ _).symm

/-- Without its trigger a measurement visit does not begin (R126). -/
theorem exec_measurementVisit_notDue {k : Visit} (hm : (s.frame (frameKey d b f)).measure = none)
    (hd : s.measureDue (frameKey d b f) k = false) : exec (.measurementVisit d b f k) s = .next s := by
  show execMeasurementVisit d b f k s = _
  simp only [execMeasurementVisit, hm, hd, Bool.not_false, or_true, if_true]

/-- A visit in hand waits while a stroke is (R128). -/
theorem exec_measurementVisit_stroking {k : Visit} {m : Measure} (hm : (s.frame (frameKey d b f)).measure = some m)
    (hs : (s.frame (frameKey d b f)).st = .stroking) : exec (.measurementVisit d b f k) s = .next s := by
  show execMeasurementVisit d b f k s = _
  simp only [execMeasurementVisit, hm, hs, true_or, or_true, if_true]

/-- A recount visit begins on a free frame that is not on the move, once its period has passed (R141). -/
theorem exec_recountVisit_begins {p : Pln} (hr : (s.frame (frameKey d b f)).recount = none)
    (hv : s.visitable (frameKey d b f) = true) (hst : (s.frame (frameKey d b f)).st ≠ .repair)
    (hmv : s.moving (frameKey d b f) = false) (hdue : s.visitDueAt (frameKey d b f) p ≤ s.now) :
    exec (.recountVisit d b f p) s = .next ((s.setFrame (frameKey d b f)
      { s.frame (frameKey d b f) with recount := some { plane := p } }).holdFrame (frameKey d b f)) := by
  show execRecountVisit d b f p s = _
  simp only [execRecountVisit, hr, hv, hst, hmv, Nat.not_lt.2 hdue, Bool.not_true, Bool.false_eq_true, or_self,
    if_false]

/-- Outside Ready neither the begin nor a step of a recount visit takes place (R136, R141). -/
theorem exec_recountVisit_notReady {p : Pln} (hp : s.pstate ≠ 2) : exec (.recountVisit d b f p) s = .next s := by
  have hv : s.visitable (frameKey d b f) = false := by simp [State.visitable, hp]
  show execRecountVisit d b f p s = _
  cases hr : (s.frame (frameKey d b f)).recount with
  | none => simp only [execRecountVisit, hr, hv, Bool.not_false, true_or, if_true]
  | some v => simp only [execRecountVisit, hr, hp, ne_eq, not_false_eq_true, true_or, or_true, if_true]

end

section
variable {s : State} {d : Die} {b : Brd} {f : Sys2Proof.Frm} {p : Pln} {v : Recount} (hp : s.pstate = 2)
  (hs : (s.frame (frameKey d b f)).st ≠ .stroking) (hn : (s.frame (frameKey d b f)).stroke = none)
include hp hs hn

/-- A gain visit goes on by one calibration stroke, once its tokens are there (R122, R128). -/
theorem exec_measurementVisit_stroke {m : Measure} (hm : (s.frame (frameKey d b f)).measure = some m)
    (hg : m.gain = some p.val) (hc : s.canDraw d prioMet (s.visitTokens (frameKey d b f) true) = true) :
    exec (.measurementVisit d b f (.gain p)) s =
      .next ((((s.consumeFirst d (s.visitTokens (frameKey d b f) true)).gainStep (frameKey d b f) p m).settleLoad
        (frameKey d b f)).settleMeasure d) := by
  show execMeasurementVisit d b f (.gain p) s = _
  simp [execMeasurementVisit, Measure.isVisit, hm, hg, hp, hs, hn, hc]

/-- A trim visit goes on by one conversion, once its tokens are there (R121, R128). -/
theorem exec_measurementVisit_conversion {m : Measure} (hm : (s.frame (frameKey d b f)).measure = some m)
    (hg : m.gain = none) (hc : s.canDraw d prioMet (s.visitTokens (frameKey d b f) false) = true) :
    exec (.measurementVisit d b f .trims) s =
      .next ((((s.consumeFirst d (s.visitTokens (frameKey d b f) false)).trimStep (frameKey d b f) m).settleLoad
        (frameKey d b f)).settleMeasure d) := by
  show execMeasurementVisit d b f .trims s = _
  simp [execMeasurementVisit, Measure.isVisit, hm, hg, hp, hs, hn, hc]

variable (hr : (s.frame (frameKey d b f)).recount = some v) (hv : v.plane = p.val)
include hr hv

/-- A recount visit that has read every row and driven every spot stroke ends, or waits for the tokens of the
measurement that follows its refresh (R128, R138). -/
theorem exec_recountVisit_ends (hrow : 512 ≤ v.row) (hsp : s.spotCount (frameKey d b f) v.plane ≤ v.spots) :
    exec (.recountVisit d b f p) s =
      .next (if s.inPlace (frameKey d b f) v ∧ !s.canDraw d prioMet gainTokens then s
        else s.endVisit (frameKey d b f) v) := by
  show execRecountVisit d b f p s = _
  simp only [execRecountVisit, hr, hp, hs, hn, hv, ne_eq, not_true, Option.isSome_none, Bool.false_eq_true, or_self,
    if_false]
  rw [if_pos ⟨hrow, hv ▸ hsp⟩]

/-- Before that it reads a row, or drives a spot stroke, once the tokens are granted (R136, R142). -/
theorem exec_recountVisit_draws {w : State} {granted : Bool}
    (hmore : ¬(512 ≤ v.row ∧ s.spotCount (frameKey d b f) v.plane ≤ v.spots))
    (hw : s.visitDraw (frameKey d b f) v (if v.row < 512 then rowReadTokens else s.spotTokens (frameKey d b f)) =
      (w, granted)) :
    exec (.recountVisit d b f p) s =
      .next (if granted then if v.row < 512 then w.recountRow (frameKey d b f) v else w.spotStroke (frameKey d b f) v
        else w) := by
  show execRecountVisit d b f p s = _
  simp only [execRecountVisit, hr, hp, hs, hn, hv, ne_eq, not_true, Option.isSome_none, Bool.false_eq_true, or_self,
    if_false]
  rw [if_neg (hv ▸ hmore), hw]
  cases granted <;> rfl

end

/-- Settles O28: the commands by the cases of State.command, with the calibration set written whole where the ledger
takes its pages, and the visits by what they do first, at each further step and while they wait. -/
theorem calibration : Obligations.Calibration := by
  refine ⟨?status, ?recount, ?recountRange, ?recal, ?recalKey, ?factory, ?measure, ?measureLost, ?publish, ?unpublished,
    ?gainBegins, ?trimsBegin, ?readback, ?readbackOff, ?stroke, ?conversion, ?notDue, ?visitWaits, ?recountBegins,
    ?row, ?spot, ?rowWaits, ?ends, ?refreshes, ?refreshWaits, ?notReady⟩
  case status =>
    intro s r ha hg
    refine congrArg Host.Outcome.next (State.command_ok (Instr.admitted_checks rfl ha) rfl ?_)
    simp only [hg, Bool.false_eq_true, if_false]
  case recount =>
    intro s r ha hl hg hlo hhi
    have hr : ¬(argw r 2 < (recountRange (argw r 1)).1 ∨ (recountRange (argw r 1)).2 < argw r 2) := by omega
    refine congrArg Host.Outcome.next
      (State.command_c_ok (i := .calRecount r) (Instr.admitted_checks rfl ha) rfl rfl hl ?_ ?_)
    · simp only [hg, hr, Bool.false_eq_true, if_false]
      exact nofun
    · simp only [Instr.entered_gated, hg, hr, Bool.false_eq_true, if_false]
  case recountRange =>
    intro s r ha hg hr
    refine congrArg Host.Outcome.next (State.command_refuse (Instr.admitted_checks rfl ha) ?_)
    simp only [hg, hr, Bool.false_eq_true, if_false, if_true]
  case recal =>
    intro s r ha hl hg hk hready
    have written (u : State) (hu : u.takesEntry) := State.writeCalSet_ok (s := u.take 1) 1 u.recalSet hu
    refine congrArg Host.Outcome.next
      (State.command_c_ok (i := .calRecal r) (Instr.admitted_checks rfl ha) rfl rfl hl ?_ ?_)
    all_goals
      simp only [Instr.entered_gated, Instr.entered_recalReady, hg, hk, hready, ne_eq, not_true, Bool.not_true,
        Bool.false_eq_true, if_false]
    · rw [written s hl]
      exact nofun
    · rw [written _ (Instr.entered_takesEntry _ hl)]
  case recalKey =>
    intro s r ha hg hk
    refine congrArg Host.Outcome.next (State.command_refuse (Instr.admitted_checks rfl ha) ?_)
    simp only [hg, hk, ne_eq, not_false_eq_true, Bool.false_eq_true, if_false, if_true]
  case factory =>
    intro s r bs ha hl hg ho
    have written (u : State) (hu : u.takesEntry) := State.writeCalSet_ok 0
      (List.replicate 64 0 ++ factoryBody (padTo 0 103104 (Config.factorySet bs))) hu
    refine congrArg Host.Outcome.next
      (State.command_c_ok (i := .calFactory r) (Instr.admitted_checks rfl ha) rfl rfl hl ?_ ?_)
    all_goals simp only [Instr.entered_gated, Instr.entered_object, hg, ho, Bool.false_eq_true, if_false]
    · rw [written s hl]
      exact nofun
    · rw [written _ (Instr.entered_takesEntry _ hl)]
  case measure =>
    intro s r ha hd hk hdis hlost
    have hargs : ¬(32 ≤ argw r 1 ∨ 1 < argw r 2) := by omega
    have k := State.Beside.ackPending s r
    have hlost' : ((s.ackPending r).die (argw r 1)).lost = false := by rw [State.die, k.dies]; exact hlost
    have hdis' : (s.ackPending r).disabled (mapDie (argw r 1)) = false := by rw [State.disabled, k.sv]; exact hdis
    refine congrArg Host.Outcome.next (State.command_pend (Instr.admitted_checks rfl ha) rfl rfl
      (by simp only [hargs, hdis, hlost, Bool.false_eq_true, or_self, if_false]; rfl) ?_)
    simp only [hargs, hdis', hlost', Bool.false_eq_true, or_self, if_false]
  case measureLost =>
    intro s r ha hd hk hgone
    have hargs : ¬(32 ≤ argw r 1 ∨ 1 < argw r 2) := by omega
    refine congrArg Host.Outcome.next (State.command_refuse (Instr.admitted_checks rfl ha) ?_)
    simp only [hargs, hgone, if_false, if_true]
  case publish =>
    intro s slot h
    rw [exec_calPublication, if_pos h]
  case unpublished =>
    intro s slot h
    rw [exec_calPublication, if_neg (by simp [h])]
  case gainBegins =>
    intro s d b f p hm hv hd
    exact exec_measurementVisit_begins hm hv hd
  case trimsBegin =>
    intro s d b f hm hv hd hfree
    rw [exec_measurementVisit_begins hm hv hd, State.beginMeasure, if_neg (by simp [hfree])]
  case readback =>
    intro s d b f row hi mid lo hm hv hd hhi hmid hlo
    rw [exec_measurementVisit_begins hm hv hd, State.beginMeasure, State.readDriver_near hhi hmid hlo]
  case readbackOff =>
    intro s d b f row hi mid lo hm hv hd hoff
    rw [exec_measurementVisit_begins hm hv hd, State.beginMeasure, State.readDriver_off hoff]
  case stroke =>
    intro s d b f p m hp hs hn hm hg hc
    exact exec_measurementVisit_stroke hp hs hn hm hg hc
  case conversion =>
    intro s d b f m hp hs hn hm hg hc
    exact exec_measurementVisit_conversion hp hs hn hm hg hc
  case notDue =>
    intro s d b f k hm hv hd
    exact exec_measurementVisit_notDue hm hd
  case visitWaits =>
    intro s d b f k m hm hs
    exact exec_measurementVisit_stroking hm hs
  case recountBegins =>
    intro s d b f p hr hv hst hmv hdue
    exact exec_recountVisit_begins hr hv hst hmv hdue
  case row =>
    intro s d b f p v w hp hs hn hr hv hrow hw
    rw [exec_recountVisit_draws hp hs hn hr hv (w := w) (granted := true) (by omega) (by rwa [if_pos hrow]),
      if_pos rfl, if_pos hrow]
  case spot =>
    intro s d b f p v w hp hs hn hr hv hrow hsp hw
    have hrow : ¬v.row < 512 := by omega
    rw [exec_recountVisit_draws hp hs hn hr hv (w := w) (granted := true) (by omega) (by rwa [if_neg hrow]),
      if_pos rfl, if_neg hrow]
  case rowWaits =>
    intro s d b f p v w hp hs hn hr hv hrow hw
    rw [exec_recountVisit_draws hp hs hn hr hv (w := w) (granted := false) (by omega) (by rwa [if_pos hrow]),
      if_neg Bool.false_ne_true]
  case ends =>
    intro s d b f p v hp hs hn hr hv hrow hsp hin
    rw [exec_recountVisit_ends hp hs hn hr hv hrow hsp, if_neg (by simp [hin])]
  case refreshes =>
    intro s d b f p v hp hs hn hr hv hrow hsp hin hc
    rw [exec_recountVisit_ends hp hs hn hr hv hrow hsp, if_neg (by simp [hc])]
  case refreshWaits =>
    intro s d b f p v hp hs hn hr hv hrow hsp hin hc
    rw [exec_recountVisit_ends hp hs hn hr hv hrow hsp, if_pos (by simp [hin, hc])]
  case notReady =>
    intro s d b f p hp
    exact exec_recountVisit_notReady hp

end Sys2Proof.Machine
end

section
/-! PROOFS. FRM_COMMIT and the stroke boundary, the states of a frame, its faults, and its calibration registers. -/

namespace Sys2Proof.Machine

/-! The snapshot in force (R71, R72). -/

/-- The registers of a snapshot put in force as one set (R71). -/
def State.putInForce (s : State) (fk : Nat) (l : List (Nat × Word)) : State :=
  l.foldl (fun s p => s.setLive (fkBase fk + p.1) p.2) s

theorem State.putInForce_keeps (s : State) (fk : Nat) (l : List (Nat × Word)) :
    Keeps (· = .live) s (s.putInForce fk l) :=
  Keeps.foldl (fun _ _ h => State.setLive_k _ _ h rfl) (.refl s)

@[simp] theorem State.putInForce_regs (s : State) (fk : Nat) (l : List (Nat × Word)) :
    (s.putInForce fk l).regs = s.regs :=
  ((s.putInForce_keeps fk l).frame .regs).resolve_left nofun

@[simp] theorem State.putInForce_frames (s : State) (fk : Nat) (l : List (Nat × Word)) :
    (s.putInForce fk l).frames = s.frames :=
  ((s.putInForce_keeps fk l).frame .frames).resolve_left nofun

theorem State.frame_of_frames {s t : State} (h : t.frames = s.frames) (k : Nat) : t.frame k = s.frame k := by
  rw [State.frame, State.frame, h]

theorem State.regs_setReg (s : State) (a : Nat) (w : Word) : (s.setReg a w).regs = mput (regReset a) s.regs a w := rfl

theorem State.liveReg_setReg (s : State) (a b : Nat) (w : Word) : (s.setReg a w).liveReg b = s.liveReg b := rfl

theorem State.reg_setFrame (s : State) (k a : Nat) (x : Frame) : (s.setFrame k x).reg a = s.reg a := rfl

theorem State.liveReg_setFrame (s : State) (k a : Nat) (x : Frame) : (s.setFrame k x).liveReg a = s.liveReg a := rfl

/-- A register that a set does not list stays in force. -/
theorem State.liveReg_putInForce_out (s : State) (fk o : Nat) (l : List (Nat × Word)) (h : o ∉ l.map Prod.fst) :
    (s.putInForce fk l).liveReg (fkBase fk + o) = s.liveReg (fkBase fk + o) := by
  induction l generalizing s with
  | nil => rfl
  | cons p l ih =>
    simp only [List.map_cons, List.mem_cons, not_or] at h
    exact (ih _ h.2).trans (State.liveReg_setLive_ne _ _ _ _ (by omega))

/-- A set that lists no register twice puts each of its values in force. -/
theorem State.liveReg_putInForce (s : State) (fk : Nat) {l : List (Nat × Word)} (hl : (l.map Prod.fst).Nodup)
    {p : Nat × Word} (hp : p ∈ l) : (s.putInForce fk l).liveReg (fkBase fk + p.1) = p.2 := by
  induction l generalizing s with
  | nil => cases hp
  | cons q l ih =>
    rw [List.map_cons, List.nodup_cons] at hl
    cases hp with
    | head => exact (State.liveReg_putInForce_out _ _ _ _ hl.1).trans (State.liveReg_setLive _ _ _)
    | tail _ hp => exact ih _ hl.2 hp

theorem snapRegs_zip_nodup (ws : List Word) : ((snapRegs.zip ws).map Prod.fst).Nodup := by
  rw [List.zip_eq_zip_take_min, List.map_fst_zip (by simp)]
  exact (List.take_sublist _ snapRegs).nodup (by decide)

/-- The pending snapshot of a frame taken off it. -/
def State.dropSnap (s : State) (fk : Nat) : State := s.setFrame fk { s.frame fk with snap := none }

@[simp] theorem State.dropSnap_frame (s : State) (fk : Nat) :
    (s.dropSnap fk).frame fk = { s.frame fk with snap := none } := State.frame_setFrame _ _ _

/-- A snapshot in force, with FRM_GAIN for the mode it sets (R42, R71). -/
def State.inForce (s : State) (fk : Nat) (ws : List Word) : State :=
  let t := (s.dropSnap fk).putInForce fk (snapRegs.zip ws)
  t.setReg (fkBase fk + 0x2C) (iword (gq (t.fFs fk) (t.fRange fk)))

@[simp] theorem State.inForce_frame (s : State) (fk : Nat) (ws : List Word) :
    (s.inForce fk ws).frame fk = { s.frame fk with snap := none } := by
  rw [State.inForce, State.frame_of_frames (State.setReg_frames _ _ _), State.frame_of_frames (State.putInForce_frames _ _ _),
    State.dropSnap_frame]

section
variable {s : State} {fk : Nat} {ws : List Word} (h : (s.frame fk).snap = some ws)
include h

/-- A snapshot with a reserved encoding raises CONFIG (R72). -/
theorem State.applyCommit_bad (hb : snapBad ws = true) : s.applyCommit fk = (s.dropSnap fk).frameFault fk 1 := by
  simp only [State.applyCommit, h, hb, if_true, State.dropSnap]

/-- Any other is put in force; the window of R61 restarts where FRM_CONF changed (R71). -/
theorem State.applyCommit_good (hb : snapBad ws = false) :
    s.applyCommit fk = s.inForce fk ws ∨ s.applyCommit fk =
      (s.inForce fk ws).setFrame fk { (s.inForce fk ws).frame fk with winCount := 0, winStrokes := 0 } := by
  simp only [State.applyCommit, h, hb, Bool.false_eq_true, if_false]
  split
  · exact .inl rfl
  · exact .inr rfl

end

/-- What a snapshot without a reserved encoding leaves (R71, R72). -/
structure State.Committed (s t : State) (fk : Nat) (ws : List Word) : Prop where
  snap : (t.frame fk).snap = none
  fault : (t.frame fk).fault = (s.frame fk).fault
  regs : t.regs = (s.setReg (fkBase fk + 0x2C) (t.reg (fkBase fk + 0x2C))).regs
  live : ∀ p ∈ snapRegs.zip ws, t.liveReg (fkBase fk + p.1) = p.2

theorem State.inForce_committed (s : State) (fk : Nat) (ws : List Word) :
    State.Committed s (s.inForce fk ws) fk ws where
  snap := by rw [State.inForce_frame]
  fault := by rw [State.inForce_frame]
  regs := by
    have hr : ((s.dropSnap fk).putInForce fk (snapRegs.zip ws)).regs = s.regs := State.putInForce_regs _ _ _
    rw [State.inForce, State.reg_setReg, State.regs_setReg, State.regs_setReg, hr]
  live p hp := by
    rw [State.inForce, State.liveReg_setReg]
    exact (s.dropSnap fk).liveReg_putInForce fk (snapRegs_zip_nodup ws) hp

theorem State.applyCommit_committed {s : State} {fk : Nat} {ws : List Word} (h : (s.frame fk).snap = some ws)
    (hb : snapBad ws = false) : State.Committed s (s.applyCommit fk) fk ws := by
  obtain ⟨hsnap, hfault, hregs, hlive⟩ := s.inForce_committed fk ws
  rcases State.applyCommit_good h hb with e | e <;> rw [e]
  · exact ⟨hsnap, hfault, hregs, hlive⟩
  · refine ⟨?_, ?_, ?_, fun p hp => ?_⟩
    · rw [State.frame_setFrame]
      exact hsnap
    · rw [State.frame_setFrame]
      exact hfault
    · rw [State.reg_setFrame, State.setFrame_regs]
      exact hregs
    · rw [State.liveReg_setFrame]
      exact hlive p hp

/-! A refused snapshot (R69, R72). -/

/-- A fault raised is the frame's first, or leaves the first as it is (R69). -/
theorem State.frame_frameFault (s : State) (fk code : Nat) :
    (s.frameFault fk code).frame fk =
      if (s.frame fk).fault then s.frame fk else { s.frame fk with fault := true, faultCode := code } := by
  unfold State.frameFault
  dsimp only
  split
  · rfl
  · exact State.frame_setFrame _ _ _

/-- What a snapshot with a reserved encoding leaves (R72). -/
structure State.Refused (s t : State) (fk : Nat) : Prop where
  snap : (t.frame fk).snap = none
  fault : (t.frame fk).fault = true
  code : (t.frame fk).faultCode = if (s.frame fk).fault then (s.frame fk).faultCode else 1
  regs : t.regs = s.regs
  live : t.live = s.live

theorem State.applyCommit_refused {s : State} {fk : Nat} {ws : List Word} (h : (s.frame fk).snap = some ws)
    (hb : snapBad ws = true) : State.Refused s (s.applyCommit fk) fk := by
  have k : Keeps (fun p => p = .evlog ∨ p = .frames) s ((s.dropSnap fk).frameFault fk 1) :=
    State.frameFault_k _ _ _ (State.setFrame_k _ _ (.refl s) (.inr rfl)) (.inl rfl) (.inr rfl)
  have hf : ((s.dropSnap fk).frameFault fk 1).frame fk = if (s.frame fk).fault then { s.frame fk with snap := none }
      else { s.frame fk with snap := none, fault := true, faultCode := 1 } := by
    rw [State.frame_frameFault, State.dropSnap_frame]
  have hregs : ((s.dropSnap fk).frameFault fk 1).regs = s.regs := (k.frame .regs).resolve_left (by simp)
  have hlive : ((s.dropSnap fk).frameFault fk 1).live = s.live := (k.frame .live).resolve_left (by simp)
  rw [State.applyCommit_bad h hb]
  cases hx : (s.frame fk).fault with
  | false =>
    rw [hx, if_neg Bool.false_ne_true] at hf
    exact ⟨by rw [hf], by rw [hf], by rw [hf, hx, if_neg Bool.false_ne_true], hregs, hlive⟩
  | true =>
    rw [hx, if_pos rfl] at hf
    exact ⟨by rw [hf], by rw [hf, hx], by rw [hf, hx, if_pos rfl], hregs, hlive⟩

/-- The reserved encodings of R72. -/
theorem snapBad_iff (ws : List Word) : snapBad ws = true ↔
    (fld (ws.getD 0 0) 4 2 = 3 ∨ fld (ws.getD 0 0) 6 2 = 3 ∨ fld (ws.getD 2 0) 0 8 = 0 ∨ fld (ws.getD 6 0) 0 8 < 128) := by
  simp [snapBad, or_assoc]

/-! FRM_COMMIT and the boundary (R71). -/

/-- The shadow copies of a frame, in the order of the snapshot. -/
def State.shadow (s : State) (fk : Nat) : List Word := snapRegs.map fun o => s.reg (fkBase fk + o)

/-- The snapshot of the shadow copies taken (R71). -/
def State.takeSnap (s : State) (fk : Nat) : State := s.setFrame fk { s.frame fk with snap := some (s.shadow fk) }

@[simp] theorem State.takeSnap_frame (s : State) (fk : Nat) :
    (s.takeSnap fk).frame fk = { s.frame fk with snap := some (s.shadow fk) } := State.frame_setFrame _ _ _

@[simp] theorem State.takeSnap_strokeInHand (s : State) (fk : Nat) :
    (s.takeSnap fk).strokeInHand fk = s.strokeInHand fk := by
  simp only [State.strokeInHand, State.takeSnap_frame]

theorem State.mem_zip_shadow (s : State) (fk : Nat) {o : Nat} (ho : o ∈ snapRegs) :
    (o, s.reg (fkBase fk + o)) ∈ snapRegs.zip (s.shadow fk) := by
  rw [State.shadow, ← List.map_prod_left_eq_zip]
  exact List.mem_map_of_mem ho

section
variable {s : State} {d : Die} {b : Brd} {f : Sys2Proof.Frm}

theorem exec_frmCommit_stroking (h : s.strokeInHand (frameKey d b f) = true) :
    exec (.frmCommit d b f) s = .next (s.takeSnap (frameKey d b f)) := by
  refine congrArg Host.Outcome.next (if_pos ?_)
  exact (State.takeSnap_strokeInHand _ _).trans h

theorem exec_frmCommit_free (h : s.strokeInHand (frameKey d b f) = false) :
    exec (.frmCommit d b f) s = .next ((s.takeSnap (frameKey d b f)).applyCommit (frameKey d b f)) := by
  refine congrArg Host.Outcome.next (if_neg ?_)
  exact Bool.eq_false_iff.1 ((State.takeSnap_strokeInHand _ _).trans h)

theorem exec_commitApply_stroking (h : s.strokeInHand (frameKey d b f) = true) :
    exec (.commitApply d b f) s = .next s := congrArg Host.Outcome.next (if_pos h)

theorem exec_commitApply_free (h : s.strokeInHand (frameKey d b f) = false) :
    exec (.commitApply d b f) s = .next (s.applyCommit (frameKey d b f)) :=
  congrArg Host.Outcome.next (if_neg (Bool.eq_false_iff.1 h))

/-- A calibration register of a bank that a running step holds keeps its value, and the write is counted (R135). -/
theorem exec_calRegisterWrite_held {k : Fin 280} {w : Word}
    (h : s.bankHeld (boardKey d b) (fld (s.reg (fkBase (frameKey d b f) + 0xC60)) 0 1) = true) :
    exec (.calRegisterWrite d b f k w) s = .next (s.bump (fkBase (frameKey d b f) + 0xA4) 1) := by
  show execCalRegisterWrite d b f k w s = _
  simp only [execCalRegisterWrite, h, if_true]

/-- Of a free bank the one register is written: a trim, or a plane's gain of 18 bits (R121, R122). -/
theorem exec_calRegisterWrite_free {k : Fin 280} {w : Word}
    (h : s.bankHeld (boardKey d b) (fld (s.reg (fkBase (frameKey d b f) + 0xC60)) 0 1) = false) :
    exec (.calRegisterWrite d b f k w) s =
      let n := fld (s.reg (fkBase (frameKey d b f) + 0xC60)) 0 1
      if k.val < 272 then .next (s.setReg (trimReg (frameKey d b f) n k) w)
      else .next (s.setReg (gainReg (frameKey d b f) n (k.val - 272)) (w &&& 0x3FFFF)) := by
  show execCalRegisterWrite d b f k w s = _
  simp only [execCalRegisterWrite, h, Bool.false_eq_true, if_false]

end

/-- The commit leaves memory and boards alone. -/
theorem State.applyCommit_keeps (s : State) (fk : Nat) :
    Keeps (· ∈ [Part.evlog, .regs, .live, .frames]) s (s.applyCommit fk) := by
  refine State.applyCommit_k s fk (.refl s) ?_ ?_ ?_ ?_ <;> decide

/-- Settles O3: by whether a stroke is in hand, and for the calibration registers by whether a running step holds the bank. -/
theorem frameCommitAndFaults : Obligations.Frame_commit_and_faults := by
  refine ⟨?stroking, ?free, ?boundary, ?notYet, ?inForce, ?clear, ?held, ?trim, ?gain⟩
  case stroking =>
    intro s d b f h
    exact exec_frmCommit_stroking h
  case free =>
    intro s d b f h
    exact exec_frmCommit_free h
  case boundary =>
    intro s d b f h
    exact exec_commitApply_free h
  case notYet =>
    intro s d b f h
    exact exec_commitApply_stroking h
  case inForce =>
    intro s d b f ws h hs hb
    have k := s.applyCommit_keeps (frameKey d b f)
    obtain ⟨hsnap, -, hregs, hlive⟩ := State.applyCommit_committed hs hb
    exact ⟨_, exec_commitApply_free h, hsnap, hregs, (k.frame .mem).resolve_left (by decide),
      (k.frame .boards).resolve_left (by decide), hlive⟩
  case clear =>
    intro s d b f
    rfl
  case held =>
    intro s d b f k w h
    exact exec_calRegisterWrite_held h
  case trim =>
    intro s d b f k w h hk
    exact (exec_calRegisterWrite_free h).trans (if_pos hk)
  case gain =>
    intro s d b f k w h hk
    exact (exec_calRegisterWrite_free h).trans (if_neg (Nat.not_lt.2 hk))

/-- Settles O57: a commit, at once or at the boundary, is refused or put in force by its snapshot alone. -/
theorem reservedEncodingsAreRefusedWhole : Obligations.Reserved_encodings_are_refused_whole := by
  refine ⟨?refused, ?committed, ?boundary⟩
  case refused =>
    intro s d b f h hbad
    obtain ⟨hsnap, hfault, hcode, hregs, hlive⟩ :=
      State.applyCommit_refused (s := s.takeSnap (frameKey d b f)) (congrArg Frame.snap (s.takeSnap_frame _))
        ((snapBad_iff _).2 hbad)
    rw [State.takeSnap_frame] at hcode
    exact ⟨_, exec_frmCommit_free h, hlive, hregs, hfault, hcode, hsnap⟩
  case committed =>
    intro s d b f h hgood
    obtain ⟨hsnap, hfault, -, hlive⟩ :=
      State.applyCommit_committed (s := s.takeSnap (frameKey d b f)) (congrArg Frame.snap (s.takeSnap_frame _))
        (Bool.eq_false_iff.2 fun hb => hgood ((snapBad_iff _).1 hb))
    rw [State.takeSnap_frame] at hfault
    exact ⟨_, exec_frmCommit_free h, fun o ho => hlive _ (s.mem_zip_shadow _ ho), hfault, hsnap⟩
  case boundary =>
    intro s d b f ws h hs hbad
    obtain ⟨hsnap, hfault, -, hregs, hlive⟩ := State.applyCommit_refused hs ((snapBad_iff ws).2 hbad)
    exact ⟨_, exec_commitApply_free h, hlive, hregs, hfault, hsnap⟩

end Sys2Proof.Machine
end

section
/-! PROOFS. FRM_CTL: IDLE, SPARE, REPAIR and RETIRE (R67). -/

namespace Sys2Proof.Machine

/-! Fields of words. -/

theorem testBit_fld (w : Word) (lo len i : Nat) : (fld w lo len).testBit i = (decide (i < len) && w.getLsbD (lo + i)) := by
  rw [fld, nfld, Nat.testBit_mod_two_pow, Nat.testBit_div_two_pow, Nat.add_comm i lo]
  rfl

theorem getLsbD_putBit_ne (w : Word) {n j : Nat} (v : Bool) (h : j ≠ n) : (putBit w n v).getLsbD j = w.getLsbD j := by
  have hb : (BitVec.ofNat 32 (2 ^ n)).getLsbD j = false := by
    rw [BitVec.getLsbD_ofNat, Nat.testBit_two_pow, decide_eq_false h.symm, Bool.and_false]
  by_cases hj : j < 32
  · cases v <;>
      simp only [putBit, Bool.false_eq_true, if_false, if_true, BitVec.getLsbD_and, BitVec.getLsbD_not,
        BitVec.getLsbD_or, hb, hj, decide_true, Bool.not_false, Bool.and_true, Bool.or_false]
  · rw [BitVec.getLsbD_of_ge _ _ (Nat.not_lt.1 hj), BitVec.getLsbD_of_ge _ _ (Nat.not_lt.1 hj)]

/-- A field does not see a bit set outside it. -/
theorem fld_putBit_out (w : Word) {lo len n : Nat} (v : Bool) (h : n < lo ∨ lo + len ≤ n) :
    fld (putBit w n v) lo len = fld w lo len := by
  refine Nat.eq_of_testBit_eq fun i => ?_
  rw [testBit_fld, testBit_fld]
  by_cases hi : i < len
  · rw [getLsbD_putBit_ne w v (by omega)]
  · simp only [hi, decide_false, Bool.false_and]

/-- What a number is made of around one of its fields. -/
theorem nput_eq (n lo len v : Nat) :
    nput n lo len v = 2 ^ lo * (2 ^ len * (n / 2 ^ lo / 2 ^ len) + v % 2 ^ len) + n % 2 ^ lo := by
  have h1 := Nat.div_add_mod n (2 ^ lo)
  have h2 := Nat.div_add_mod (n / 2 ^ lo) (2 ^ len)
  have h3 : n = 2 ^ lo * (2 ^ len * (n / 2 ^ lo / 2 ^ len)) + 2 ^ lo * nfld n lo len + n % 2 ^ lo := by
    rw [← Nat.mul_add, nfld, h2, h1]
  rw [nput, Nat.mul_add, Nat.mul_comm (nfld n lo len), Nat.mul_comm (v % 2 ^ len)]
  omega

theorem nfld_nput_same (n lo len v : Nat) : nfld (nput n lo len v) lo len = v % 2 ^ len := by
  rw [nput_eq, nfld, Nat.mul_add_div (Nat.two_pow_pos lo), Nat.div_eq_of_lt (Nat.mod_lt _ (Nat.two_pow_pos lo)),
    Nat.add_zero, Nat.mul_add_mod, Nat.mod_mod]

/-- A field put into a word is read back from it. -/
theorem fld_put_same (w : Word) {lo len v : Nat} (h : lo + len ≤ 32) : fld (put w lo len v) lo len = v % 2 ^ len := by
  rw [← nfld_nput_same w.toNat lo len v]
  refine Nat.eq_of_testBit_eq fun i => ?_
  rw [testBit_fld, put, BitVec.getLsbD_ofNat, nfld, Nat.testBit_mod_two_pow, Nat.testBit_div_two_pow, Nat.add_comm i lo]
  by_cases hi : i < len
  · simp [hi, show lo + i < 32 by omega]
  · simp [hi]

section
variable {s : State} {fk : Nat}

/-! REPAIR. -/

/-- A frame that stands free goes to REPAIR at once, and a visit on it ends. -/
theorem State.toRepair_free (h : (s.frame fk).st = .idle ∨ (s.frame fk).st = .recount ∨ (s.frame fk).st = .spare) :
    s.toRepair fk = (s.dropVisit fk).setFrame fk { (s.dropVisit fk).frame fk with st := .repair } := by
  rcases h with h | h | h <;> simp only [State.toRepair, h]

theorem State.toRepair_stroking (h : (s.frame fk).st = .stroking) :
    s.toRepair fk = s.setFrame fk { s.frame fk with repairNext := true } := by
  simp only [State.toRepair, h]

theorem State.toRepair_programming (h : (s.frame fk).st = .programming) :
    s.toRepair fk = (s.stopPrg fk 4).setFrame fk { (s.stopPrg fk 4).frame fk with st := .repair } := by
  simp only [State.toRepair, h]

theorem State.toRepair_out (h : (s.frame fk).st = .repair ∨ (s.frame fk).st = .retired) : s.toRepair fk = s := by
  rcases h with h | h <;> simp only [State.toRepair, h]

@[simp] theorem State.dropDraws_frames (s : State) (fk : Nat) (w : Work) : (s.dropDraws fk w).frames = s.frames := rfl

theorem State.reg_dropDraws (s : State) (fk a : Nat) (w : Work) : (s.dropDraws fk w).reg a = s.reg a := rfl

/-- Programming that stops leaves no plane in hand and its result in FRM_PRG_CTL (R107). -/
@[simp] theorem State.stopPrg_frame (s : State) (fk result : Nat) :
    (s.stopPrg fk result).frame fk = { s.frame fk with prg := none } := by
  rw [State.stopPrg, State.frame_setFrame, State.frame_of_frames (State.dropDraws_frames _ _ _),
    State.frame_of_frames (State.setReg_frames _ _ _)]

theorem State.stopPrg_result (s : State) (fk : Nat) {result : Nat} (h : result < 8) :
    fld ((s.stopPrg fk result).reg (fkBase fk + 0x108)) 21 3 = result := by
  rw [State.stopPrg, State.reg_setFrame, State.reg_dropDraws, State.reg_setReg, fld_putBit_out _ _ (by omega),
    fld_put_same _ (by omega)]
  exact Nat.mod_eq_of_lt h

theorem State.toRepair_keeps (s : State) (fk : Nat) : Keeps (· ∈ [Part.regs, .frames, .dies]) s (s.toRepair fk) := by
  refine State.toRepair_k s fk (.refl s) ?_ ?_ ?_ <;> decide

/-! RETIRE. -/

theorem State.retire_retired (h : (s.frame fk).st = .retired) : s.retire fk = s := if_pos h

/-- A stroke in hand that its frame loses: none of its codes counts, and the exact lane performs it (R70). -/
def Stroke.lost (x : Stroke) : Stroke :=
  { x with lane := true, started := false, pending := false, n := 0, sums := [], flags := [] }

theorem State.retire_idlePlane (h : (s.frame fk).st ≠ .retired) (hp : (s.frame fk).prg = none) :
    s.retire fk = ((s.dropVisit fk).setFrame fk { (s.dropVisit fk).frame fk with
      st := .retired, stroke := ((s.dropVisit fk).frame fk).stroke.map Stroke.lost }).mapSet (mapFrame fk) := by
  simp only [State.retire, h, hp, Option.isSome_none, Bool.false_eq_true, if_false]
  rfl

end

section
variable {s : State} {d : Die} {b : Brd} {f : Sys2Proof.Frm}

/-! The commands. -/

theorem exec_frmCtlRepair : exec (.frmCtlRepair d b f) s = .next (s.toRepair (frameKey d b f)) := rfl

theorem exec_frmCtlRetire : exec (.frmCtlRetire d b f) s = .next (s.retire (frameKey d b f)) := rfl

/-- IDLE and SPARE are for a frame in REPAIR alone. -/
theorem exec_frmCtlIdle_repair (h : (s.frame (frameKey d b f)).st = .repair) :
    exec (.frmCtlIdle d b f) s = .next (s.setFrame (frameKey d b f) { s.frame (frameKey d b f) with st := .idle }) :=
  congrArg Host.Outcome.next (if_pos h)

theorem exec_frmCtlIdle_other (h : (s.frame (frameKey d b f)).st ≠ .repair) : exec (.frmCtlIdle d b f) s = .next s :=
  congrArg Host.Outcome.next (if_neg h)

theorem exec_frmCtlSpare_repair (h : (s.frame (frameKey d b f)).st = .repair) :
    exec (.frmCtlSpare d b f) s = .next (s.setFrame (frameKey d b f) { s.frame (frameKey d b f) with st := .spare }) :=
  congrArg Host.Outcome.next (if_pos h)

theorem exec_frmCtlSpare_other (h : (s.frame (frameKey d b f)).st ≠ .repair) : exec (.frmCtlSpare d b f) s = .next s :=
  congrArg Host.Outcome.next (if_neg h)

end

/-- Settles O4: each command by the state it finds the frame in. -/
theorem frameStateChanges : Obligations.Frame_state_changes := by
  refine ⟨?idle, ?notIdle, ?spare, ?notSpare, ?repair, ?repairNext, ?stopped, ?noRepair, ?retired, ?retires⟩
  case idle =>
    intro s d b f h
    exact exec_frmCtlIdle_repair h
  case notIdle =>
    intro s d b f h
    exact exec_frmCtlIdle_other h
  case spare =>
    intro s d b f h
    exact exec_frmCtlSpare_repair h
  case notSpare =>
    intro s d b f h
    exact exec_frmCtlSpare_other h
  case repair =>
    intro s d b f h
    rw [exec_frmCtlRepair, State.toRepair_free h]
  case repairNext =>
    intro s d b f h
    rw [exec_frmCtlRepair, State.toRepair_stroking h]
  case stopped =>
    intro s d b f h
    have k := s.toRepair_keeps (frameKey d b f)
    refine ⟨_, exec_frmCtlRepair, ?_, ?_, ?_, (k.frame .beads).resolve_left (by decide),
      (k.frame .mem).resolve_left (by decide)⟩ <;> rw [State.toRepair_programming h]
    · rw [State.frame_setFrame]
    · rw [State.frame_setFrame, State.stopPrg_frame]
    · rw [State.reg_setFrame]
      exact s.stopPrg_result _ (by decide)
  case noRepair =>
    intro s d b f h
    rw [exec_frmCtlRepair, State.toRepair_out h]
  case retired =>
    intro s d b f h
    rw [exec_frmCtlRetire, State.retire_retired h]
  case retires =>
    intro s d b f h hp
    rw [exec_frmCtlRetire, State.retire_idlePlane h hp]
    rfl

end Sys2Proof.Machine
end

section
/-! PROOFS. The begin and the end of a stroke, the confidence re-stroke, the row ramp, PSEL and the exact lane. -/

namespace Sys2Proof.Machine

section
variable {s : State} {d : Die} {b : Brd} {f : Sys2Proof.Frm}

/-! The begin (R63, R283). -/

theorem State.offDuty_of_frames {s t : State} (h : t.frames = s.frames) (fk : Nat) : t.offDuty fk = s.offDuty fk := by
  simp only [State.offDuty, State.frame, h]

@[simp] theorem State.setEntry_offDuty (s : State) (bk : Nat) (e : SbEntry) (fk : Nat) :
    (s.setEntry bk e).offDuty fk = s.offDuty fk := State.offDuty_of_frames rfl fk

@[simp] theorem State.countTurn_offDuty (s : State) (bk : Nat) (c : StepCtx) (dr : Drive) (fk : Nat) :
    (s.countTurn bk c dr).offDuty fk = s.offDuty fk := by
  have k : Keeps (fun p => p = .regs ∨ p = .wk) s (s.countTurn bk c dr) :=
    State.countTurn_k s bk c dr (.refl s) (.inl rfl) (.inr rfl)
  exact State.offDuty_of_frames ((k.frame .frames).resolve_left (by simp)) fk

/-- A free frame of a die that runs takes up the oldest stroke forwarded to it (R68, R283). -/
theorem exec_stroke_forwarded {ecc : Bool} {x : Stroke} {r : List Stroke}
    (hq : (s.frame (frameKey d b f)).queue = x :: r) (hs : (s.frame (frameKey d b f)).stroke = none)
    (ha : s.awakeFrame (frameKey d b f) = true) :
    exec (.stroke d b f ecc) s =
      .next ((s.setFrame (frameKey d b f) { s.frame (frameKey d b f) with queue := r }).beginStroke (frameKey d b f)
        { x with lane := s.laneOf (frameKey d b f) x.ctx } (!x.idle)) := by
  show execStroke d b f ecc s = _
  simp only [execStroke, hq, hs, ha, Option.isSome_none, Bool.false_eq_true, Bool.not_true, or_self, if_false]

theorem exec_stroke_forwardedWaits {ecc : Bool} {x : Stroke} {r : List Stroke}
    (hq : (s.frame (frameKey d b f)).queue = x :: r)
    (h : (s.frame (frameKey d b f)).stroke.isSome = true ∨ s.awakeFrame (frameKey d b f) = false) :
    exec (.stroke d b f ecc) s = .next s := by
  show execStroke d b f ecc s = _
  have hwait : (s.frame (frameKey d b f)).stroke.isSome = true ∨ (!s.awakeFrame (frameKey d b f)) = true := by
    simpa using h
  simp only [execStroke, hq, hwait, if_true]

section
variable {e : SbEntry} (hq : (s.frame (frameKey d b f)).queue = [])
  (hh : s.headOf (boardKey d b) (.frame f) = some e) (ht : topc e.word = 1) (hd : s.dead e.ctx = false)
include hq hh ht hd

/-- A STROKE of no iteration, no row or no rod ends without a stroke (R237). -/
theorem exec_stroke_empty {ecc : Bool}
    (h : tnb e.word = 0 ∨ (strokeOp e.word).nrow = 0 ∨ (strokeOp e.word).nrod = 0) :
    exec (.stroke d b f ecc) s = .next (s.finishEntry (boardKey d b) e) := by
  show execStroke d b f ecc s = _
  simp only [execStroke, hq, hh, ht, hd, h, ne_eq, not_true, Bool.false_eq_true, or_self, if_false, if_true]

section
variable (hnb : tnb e.word ≠ 0) (hrow : (strokeOp e.word).nrow ≠ 0) (hrod : (strokeOp e.word).nrod ≠ 0)
  (hit : e.iter < tnb e.word)
  (hred : s.redirected (boardKey d b) f ((e.seq0 + e.iter) % 2 ^ 48) = frameKey d b f)
  (hown : fkBoard (frameKey d b f) = boardKey d b) (hs : (s.frame (frameKey d b f)).stroke = none)
include hnb hrow hrod hit hred hown hs

/-- An iteration without Eref is counted as skipped and adds nothing (R182, R215). -/
theorem exec_stroke_skipped (he : (s.strokeDrive (boardKey d b) (frameKey d b f) e.word e.iter).eref = none)
    (hoff : s.offDuty (frameKey d b f) = false) :
    exec (.stroke d b f false) s = .next (((((s.setEntry (boardKey d b) { e with iter := e.iter + 1 }).countTurn
      (boardKey d b) e.ctx (s.strokeDrive (boardKey d b) (frameKey d b f) e.word e.iter)).bump
      (fkBase (frameKey d b f) + 0x84) 1).addCounts e.ctx.job { skip := 1 }).iterDone (boardKey d b) e.id) := by
  show execStroke d b f false s = _
  simp only [execStroke, hq, hh, ht, hd, hnb, hrow, hrod, Nat.not_le.2 hit, hred, hown, hs, he, State.countTurn_offDuty,
    State.setEntry_offDuty, hoff, Bool.and_false, ne_eq, not_true, Bool.false_eq_true, or_self, if_false, BEq.rfl, if_true,
    Option.isSome_none, Bool.not_true]

/-- An iteration with an Eref begins its stroke (R63). -/
theorem exec_stroke_begins {er : Int}
    (he : (s.strokeDrive (boardKey d b) (frameKey d b f) e.word e.iter).eref = some er) :
    exec (.stroke d b f false) s =
      let dr := s.strokeDrive (boardKey d b) (frameKey d b f) e.word e.iter
      let o := strokeOp e.word
      let u := (s.setEntry (boardKey d b) { e with iter := e.iter + 1 }).countTurn (boardKey d b) e.ctx dr
      .next (u.beginStroke (frameKey d b f)
        { ctx := e.ctx, plane := o.plane, shape := o.shape, row0 := o.row0, rod0 := o.rod0, nrod := o.nrod,
          w9 := u.planeW9 (frameKey d b f) o.plane, tslot := o.tslot + s.tlyStride (boardKey d b) o.sidx * e.iter,
          q := (e.seq0 + e.iter) % 2 ^ 48, es := dr.es.getD er, eref := er, v := dr.v, parts := [],
          lane := u.laneOf (frameKey d b f) e.ctx, tag := e.id, capt := e.capt } dr.es.isSome) := by
  show execStroke d b f false s = _
  simp only [execStroke, hq, hh, ht, hd, hnb, hrow, hrod, Nat.not_le.2 hit, hred, hown, hs, he, ne_eq, not_true,
    Bool.false_eq_true, or_self, if_false, BEq.rfl, if_true, Option.isSome_none, Bool.not_true]

end
end
end

/-- Settles O11: a forwarded stroke before the board's own STROKE, then by the operands of the STROKE and by whether its
iteration has an Eref. -/
theorem strokeBegin : Obligations.Stroke_begin := by
  refine ⟨?forwarded, ?waits, ?empty, ?skipped, ?begins⟩
  case forwarded =>
    intro s d b f ecc x r hq hs ha
    exact exec_stroke_forwarded hq hs ha
  case waits =>
    intro s d b f ecc x r hq h
    exact exec_stroke_forwardedWaits hq h
  case empty =>
    intro s d b f ecc e hq hh ht hd h
    exact exec_stroke_empty hq hh ht hd h
  case skipped =>
    intro s d b f e hq hh ht hd hnb hrow hrod hit hred hown hs he hoff
    exact exec_stroke_skipped hq hh ht hd hnb hrow hrod hit hred hown hs he hoff
  case begins =>
    intro s d b f e er hq hh ht hd hnb hrow hrod hit hred hown hs he
    exact exec_stroke_begins hq hh ht hd hnb hrow hrod hit hred hown hs he

end Sys2Proof.Machine
end

section
/-! PROOFS. The end of a stroke, the confidence re-stroke, the row ramp, PSEL and a part of the exact lane. -/

namespace Sys2Proof.Machine

section
variable {s : State} {d : Die} {b : Brd} {f : Sys2Proof.Frm}

/-! The stroke in hand. -/

/-- What the end of a started stroke does: its codes counted, recorded, trimmed, added and judged, and the next part taken
up where the part is over (R56-R61). -/
theorem exec_strokeEnd_codes {x : Stroke} (hx : (s.frame (frameKey d b f)).stroke = some x) (hst : x.started = true)
    (hl : x.lane = false) :
    exec (.strokeEnd d b f false) s =
      let fk := frameKey d b f
      let cs := s.strokeCodes fk x
      let u := ((s.take 264).countPerformed fk (cs.map (·.2))).recordCodes fk x cs
      let p := u.judge_ fk (x.addCodes (u.trimCodes fk x cs))
      .next (if p.2 then p.1.nextPart partFuel fk else p.1) := by
  show execStrokeEnd d b f false s = _
  simp only [execStrokeEnd, hx, hst, hl, Bool.not_true, Bool.false_eq_true, or_self, if_false]

/-- A converter fault sends the stroke to the exact lane (R69, R70). -/
theorem exec_strokeEnd_fault {x : Stroke} (hx : (s.frame (frameKey d b f)).stroke = some x) (hst : x.started = true)
    (hl : x.lane = false) :
    exec (.strokeEnd d b f true) s =
      let fk := frameKey d b f
      let u := s.frameFault fk 4
      .next (State.nextPart partFuel ((u.setFrame fk { u.frame fk with diagnose := true }).toLane fk) fk) := by
  show execStrokeEnd d b f true s = _
  simp only [execStrokeEnd, hx, hst, hl, Bool.not_true, Bool.false_eq_true, or_self, if_false, if_true]

theorem exec_strokeEnd_notStarted {conv : Bool} {x : Stroke} (hx : (s.frame (frameKey d b f)).stroke = some x)
    (h : x.started = false ∨ x.lane = true) : exec (.strokeEnd d b f conv) s = .next s := by
  show execStrokeEnd d b f conv s = _
  have hidle : (!x.started) = true ∨ x.lane = true := by simpa using h
  simp only [execStrokeEnd, hx, hidle, if_true]

theorem exec_strokeEnd_none {conv : Bool} (hx : (s.frame (frameKey d b f)).stroke = none) :
    exec (.strokeEnd d b f conv) s = .next s := by
  show execStrokeEnd d b f conv s = _
  simp only [execStrokeEnd, hx]

/-- A re-stroke is counted and draws its charge again (R47, R58). -/
theorem exec_confidenceRestroke_pending {x : Stroke} (hx : (s.frame (frameKey d b f)).stroke = some x)
    (hp : x.pending = true) :
    exec (.confidenceRestroke d b f) s =
      let fk := frameKey d b f
      let u := (s.setStroke fk (some { x with pending := false })).bump (fkBase fk + 0x8C) 1
      let p := u.draw d prioJob (strokeCharge (u.fInteg fk) (x.parts.getD x.part (0, 0)).2 (shapeRods x.shape)) (.stroke fk)
      .next (if p.2 then p.1.startPart fk else p.1) := by
  show execConfidenceRestroke d b f s = _
  simp only [execConfidenceRestroke, hx, hp, Bool.not_true, Bool.false_eq_true, if_false]

theorem exec_confidenceRestroke_notPending {x : Stroke} (hx : (s.frame (frameKey d b f)).stroke = some x)
    (hp : x.pending = false) : exec (.confidenceRestroke d b f) s = .next s := by
  show execConfidenceRestroke d b f s = _
  simp only [execConfidenceRestroke, hx, hp, Bool.not_false, if_true]

theorem exec_confidenceRestroke_none (hx : (s.frame (frameKey d b f)).stroke = none) :
    exec (.confidenceRestroke d b f) s = .next s := by
  show execConfidenceRestroke d b f s = _
  simp only [execConfidenceRestroke, hx]

/-! The slew limiter (R38). -/

/-- A drive level one slew step nearer to zero: the step of FRM_SLEW in the units of the row's span. -/
def State.ramped (s : State) (fk : Nat) (e : Nat × Int) : Nat × Int :=
  let n : Int := (fld (s.frmLive fk 0x18) 0 8 : Nat) * (if bit (s.frmLive fk 0x14) (e.1 / 64) then 16 else 8)
  (e.1, if e.2 < 0 then min 0 (e.2 + n) else max 0 (e.2 - n))

theorem exec_rowRamp_idle (hx : (s.frame (frameKey d b f)).stroke = none) (hq : (s.frame (frameKey d b f)).queue = [])
    (hs : s.strokeQueued (frameKey d b f) = false) :
    exec (.rowRamp d b f) s = .next (s.setFrame (frameKey d b f)
      { s.frame (frameKey d b f) with
        levels := ((s.frame (frameKey d b f)).levels.map (s.ramped (frameKey d b f))).filter
          fun e => decide (e.2 ≠ 0) }) := by
  show execRowRamp d b f s = _
  simp only [execRowRamp, hx, hq, hs, Option.isSome_none, Bool.false_eq_true, ne_eq, not_true, or_self, if_false]
  rfl

theorem exec_rowRamp_busy (h : (s.frame (frameKey d b f)).stroke.isSome = true ∨ (s.frame (frameKey d b f)).queue ≠ [] ∨
    s.strokeQueued (frameKey d b f) = true) : exec (.rowRamp d b f) s = .next s := by
  show execRowRamp d b f s = _
  simp only [execRowRamp, h, if_true]

/-! PSEL (R238). -/

section
variable {e : SbEntry} (hh : s.headOf (boardKey d b) (.frame f) = some e)
include hh

/-- Where the frame's oldest instruction is no PSEL, or a stroke is in hand, PSEL does nothing. -/
theorem exec_psel_waits (h : topc e.word ≠ 2 ∨ (s.frame (frameKey d b f)).stroke.isSome = true) :
    exec (.psel d b f) s = .next s := by
  show execPsel d b f s = _
  simp only [execPsel, hh, h, if_true]

variable (ht : topc e.word = 2) (hx : (s.frame (frameKey d b f)).stroke = none)
include ht hx

/-- On a frame out of service PSEL selects nothing. -/
theorem exec_psel_outOfService (hst : (s.frame (frameKey d b f)).st = .programming ∨
    (s.frame (frameKey d b f)).st = .repair ∨ (s.frame (frameKey d b f)).st = .spare ∨
    (s.frame (frameKey d b f)).st = .retired) :
    exec (.psel d b f) s = .next (s.finishEntry (boardKey d b) e) := by
  show execPsel d b f s = _
  simp only [execPsel, hh, ht, hx, hst, ne_eq, not_true, Option.isSome_none, Bool.false_eq_true, or_self, if_false, if_true]

variable (hst : ¬((s.frame (frameKey d b f)).st = .programming ∨ (s.frame (frameKey d b f)).st = .repair ∨
  (s.frame (frameKey d b f)).st = .spare ∨ (s.frame (frameKey d b f)).st = .retired))
include hst

theorem exec_psel_selected (hv : (s.frame (frameKey d b f)).planeValid = true)
    (hp : (s.frame (frameKey d b f)).plane = tf e.word 0 22 3) :
    exec (.psel d b f) s = .next (s.finishEntry (boardKey d b) e) := by
  show execPsel d b f s = _
  simp only [execPsel, hh, ht, hx, hst, hv, hp, ne_eq, not_true, Option.isSome_none, Bool.false_eq_true, or_self,
    and_self, if_false, if_true]

theorem exec_psel_selects (h : (s.frame (frameKey d b f)).planeValid = false ∨
    (s.frame (frameKey d b f)).plane ≠ tf e.word 0 22 3) :
    exec (.psel d b f) s =
      let fk := frameKey d b f
      let p := s.selectPlane fk (tf e.word 0 22 3)
      let u := p.1.frameFault fk 3
      .next ((if p.2 then u.setFrame fk { u.frame fk with diagnose := true } else p.1).finishEntry (boardKey d b) e) := by
  show execPsel d b f s = _
  have hnew : ¬((s.frame (frameKey d b f)).planeValid = true ∧ (s.frame (frameKey d b f)).plane = tf e.word 0 22 3) := by
    rintro ⟨hv, hp⟩
    rcases h with h | h
    · rw [hv] at h; cases h
    · exact h hp
  simp only [execPsel, hh, ht, hx, hst, hnew, ne_eq, not_true, Option.isSome_none, Bool.false_eq_true, or_self,
    if_false]

end

theorem exec_psel_none (hh : s.headOf (boardKey d b) (.frame f) = none) : exec (.psel d b f) s = .next s := by
  show execPsel d b f s = _
  simp only [execPsel, hh]

end

/-! The exact lane (R233, R234). -/

section
variable {s : State} {d : Die} {b : Brd} {k : Nat} {x : Stroke} (hh : s.laneHead (boardKey d b) = some (k, x))
include hh

/-- Without an image the job of a lane stroke fails (R232). -/
theorem exec_exactLanePart_noImage (hi : s.imageOf k x.plane = none) :
    exec (.exactLanePart d b) s = .next (((s.setStroke k none).boundary k).jobFault x.ctx.job 0x0504) := by
  show execExactLanePart d b s = _
  simp only [execExactLanePart, hh, hi]

variable {g : PlaneImg} (hi : s.imageOf k x.plane = some g)
include hi

/-- A part whose tokens were granted after a wait is evaluated. -/
theorem exec_exactLanePart_granted (hst : x.started = true) :
    exec (.exactLanePart d b) s = .next (s.lanePart (boardKey d b) k x g) := by
  show execExactLanePart d b s = _
  simp only [execExactLanePart, hh, hi, hst, if_true]

theorem exec_exactLanePart_waits (hst : x.started = false)
    (hw : ((s.die d).draws.any fun w => decide (w.work = .exact (boardKey d b))) = true) :
    exec (.exactLanePart d b) s = .next s := by
  show execExactLanePart d b s = _
  simp only [execExactLanePart, hh, hi, hst, hw, Bool.false_eq_true, if_false, if_true]

/-- A part draws its tokens, and is evaluated where they are granted at once (R438). -/
theorem exec_exactLanePart_draws (hst : x.started = false)
    (hw : ((s.die d).draws.any fun w => decide (w.work = .exact (boardKey d b))) = false) {u : State} {ok : Bool}
    (hu : s.draw d prioJob (cdiv x.partUnits 40) (.exact (boardKey d b)) = (u, ok)) :
    exec (.exactLanePart d b) s = .next (if ok then u.lanePart (boardKey d b) k x g else u) := by
  show execExactLanePart d b s = _
  simp only [execExactLanePart, hh, hi, hst, hw, hu, Bool.false_eq_true, if_false]
  cases ok <;> rfl

end

theorem exec_exactLanePart_none {s : State} {d : Die} {b : Brd} (hh : s.laneHead (boardKey d b) = none) :
    exec (.exactLanePart d b) s = .next s := by
  show execExactLanePart d b s = _
  simp only [execExactLanePart, hh]

/-- Settles O12: each command by what it finds in hand, and by the conditions under which it waits. -/
theorem strokeEnd : Obligations.Stroke_end := by
  refine ⟨?codes, ?fault, ?notStarted, ?noStroke, ?pending, ?notPending, ?nothingPending, ?ramp, ?noRamp, ?outOfService,
    ?selected, ?selects, ?pselWaits, ?noPsel, ?noImage, ?granted, ?laneWaits, ?draws, ?noLane⟩
  case codes =>
    intro s d b f x hx hst hl
    exact exec_strokeEnd_codes hx hst hl
  case fault =>
    intro s d b f x hx hst hl
    exact exec_strokeEnd_fault hx hst hl
  case notStarted =>
    intro s d b f conv x hx h
    exact exec_strokeEnd_notStarted hx h
  case noStroke =>
    intro s d b f conv hx
    exact exec_strokeEnd_none hx
  case pending =>
    intro s d b f x hx hp
    exact exec_confidenceRestroke_pending hx hp
  case notPending =>
    intro s d b f x hx hp
    exact exec_confidenceRestroke_notPending hx hp
  case nothingPending =>
    intro s d b f hx
    exact exec_confidenceRestroke_none hx
  case ramp =>
    intro s d b f hx hq hs
    exact exec_rowRamp_idle hx hq hs
  case noRamp =>
    intro s d b f h
    exact exec_rowRamp_busy h
  case outOfService =>
    intro s d b f e hh ht hx hst
    exact exec_psel_outOfService hh ht hx hst
  case selected =>
    intro s d b f e hh ht hx h1 h2 h3 h4 hv hp
    exact exec_psel_selected hh ht hx (by simp [h1, h2, h3, h4]) hv hp
  case selects =>
    intro s d b f e hh ht hx h1 h2 h3 h4 h
    exact exec_psel_selects hh ht hx (by simp [h1, h2, h3, h4]) h
  case pselWaits =>
    intro s d b f e hh h
    exact exec_psel_waits hh h
  case noPsel =>
    intro s d b f hh
    exact exec_psel_none hh
  case noImage =>
    intro s d b k x hh hi
    exact exec_exactLanePart_noImage hh hi
  case granted =>
    intro s d b k x g hh hi hst
    exact exec_exactLanePart_granted hh hi hst
  case laneWaits =>
    intro s d b k x g hh hi hst hw
    exact exec_exactLanePart_waits hh hi hst hw
  case draws =>
    intro s d b k x g u ok hh hi hst hw hu
    exact exec_exactLanePart_draws hh hi hst hw hu
  case noLane =>
    intro s d b hh
    exact exec_exactLanePart_none hh

end Sys2Proof.Machine
end

section
/-! PROOFS. The drive path of a 4-bit input vector. -/

namespace Sys2Proof.Machine

/-- Where no octave is lost the level of a 4-bit code is that of sixteen times it as an 8-bit code (R35). -/
theorem level_a4 (bip : Bool) {k : Nat} (c : Int) (hk : k ≤ 3) : level true bip k c = level false bip k (16 * c) := by
  simp only [level, Nat.not_lt.2 hk, Bool.false_eq_true, if_true, if_false, Int.mul_comm]

/-- A 4-bit pattern in two's complement (R9). -/
theorem signed_four (n : Nat) : signed 4 n = if n % 16 < 8 then ((n % 16 : Nat) : Int) else (n % 16 : Nat) - 16 := rfl

section
variable {x : DriveIn} {i : Nat} (ha : x.a4 = true) (hi : i < x.nrow)
include ha hi

theorem DriveIn.code_a4u (hs : (if x.turn ≠ 0 then x.sgn else x.bip i) = false) :
    x.code i = (x.codes.getD i 0 % 16 : Nat) := by
  simp only [DriveIn.code, Nat.not_le.2 hi, ha, hs, Bool.false_eq_true, if_true, if_false]
  rfl

theorem DriveIn.code_a4s (hs : (if x.turn ≠ 0 then x.sgn else x.bip i) = true) :
    x.code i = signed 4 (x.codes.getD i 0) := by
  simp only [DriveIn.code, Nat.not_le.2 hi, ha, hs, if_true, if_false]

end

/-- Settles O56: the level by the equation of `level`, the code by the sign that the row's span or the stride set gives. -/
theorem fourBitInputCodes : Obligations.Four_bit_input_codes := by
  intro x i k bip ha hi hk
  refine ⟨level_a4 bip _ hk, fun hs => ?_, fun hs => ?_⟩
  · rw [DriveIn.code_a4u ha hi hs]
    omega
  · rw [DriveIn.code_a4s ha hi hs, signed_four]
    split <;> omega

end Sys2Proof.Machine
end

section
/-! PROOFS. A command changes the parts of the state named for it, and no other. -/

namespace Sys2Proof.Machine

/-- Every command keeps the queue and every part that `Instr.changes` does not list for it: the lemma of its meaning asks
for the parts that the meaning writes, and each of them is listed. -/
theorem exec_keeps (i : Instr) (s : State) : KeepsO (· ∈ Instr.changes i) s (exec i s) := by
  cases i <;> dsimp only [exec]
  -- command messages (R368)
  case' devInfo => apply execDevInfo_k
  case' devState => apply execDevState_k
  case' devPower => apply execDevPower_k
  case' devReset => apply execDevReset_k
  case' devPort => apply execDevPort_k
  case' devEvents => apply execDevEvents_k
  case' scoreLoad => apply execScoreLoad_k
  case' scoreAbort => apply execScoreAbort_k
  case' scoreRetire => apply execScoreRetire_k
  case' scoreInfo => apply execScoreInfo_k
  case' scoreList => apply execScoreList_k
  case' beadOpen => apply execBeadOpen_k
  case' beadClose => apply execBeadClose_k
  case' beadPlane => apply execBeadPlane_k
  case' beadWear => apply execBeadWear_k
  case' calStatus => apply execCalStatus_k
  case' calRecount => apply execCalRecount_k
  case' calRecal => apply execCalRecal_k
  case' calFactory => apply execCalFactory_k
  case' calMeasure => apply execCalMeasure_k
  case' ringCfg => apply execRingCfg_k
  case' ringAttach => apply execRingAttach_k
  case' ringDetach => apply execRingDetach_k
  case' ringPause => apply execRingPause_k
  case' ringResume => apply execRingResume_k
  case' ringHreset => apply execRingHreset_k
  case' ringStat => apply execRingStat_k
  case' ringDelete => apply execRingDelete_k
  case' jobHandle => apply execJobHandle_k
  case' jobFree => apply execJobFree_k
  case' jobCancel => apply execJobCancel_k
  case' jobFetch => apply execJobFetch_k
  case' jobPagesFree => apply execJobPagesFree_k
  case' jobCkpt => apply execJobCkpt_k
  case' jobRestore => apply execJobRestore_k
  case' syncStat => apply execSyncStat_k
  case' syncCfg => apply execSyncCfg_k
  case' syncNow => apply execSyncNow_k
  case' metRead => apply execMetRead_k
  case' metSeq => apply execMetSeq_k
  case' metWin => apply execMetWin_k
  case' metSelfcal => apply execMetSelfcal_k
  case' metDump => apply execMetDump_k
  case' thmRead => apply execThmRead_k
  case' thmPolicy => apply execThmPolicy_k
  case' thmRetire => apply execThmRetire_k
  case' pwrRead => apply execPwrRead_k
  case' pwrPolicy => apply execPwrPolicy_k
  case' ldgRead => apply execLdgRead_k
  case' ldgWrite => apply execLdgWrite_k
  case' ldgCounter => apply execLdgCounter_k
  case' ldgUnlock => apply execLdgUnlock_k
  case' ldgPasswd => apply execLdgPasswd_k
  case' ldgAudit => apply execLdgAudit_k
  case' secChallenge => apply execSecChallenge_k
  case' secAuth => apply execSecAuth_k
  case' secDrop => apply execSecDrop_k
  case' secCak => apply execSecCak_k
  case' secIkey => apply execSecIkey_k
  case' secAttest => apply execSecAttest_k
  case' secFw => apply execSecFw_k
  case' secDebug => apply execSecDebug_k
  case' logRead => apply execLogRead_k
  case' logTelem => apply execLogTelem_k
  case' logJournal => apply execLogJournal_k
  case' logExport => apply execLogExport_k
  case' logReplay => apply execLogReplay_k
  case' svcMapRead => apply execSvcMapRead_k
  case' svcMapEdit => apply execSvcMapEdit_k
  case' svcRepair => apply execSvcRepair_k
  case' svcSwap => apply execSvcSwap_k
  case' svcLimits => apply execSvcLimits_k
  -- the host link (R318-R365)
  case' sprinmosCommand => apply execSprinmosCommand_k
  case' commandResponse => apply execCommandResponse_k
  case' ringPush => apply execRingPush_k
  case' dataMessage => apply execDataMessage_k
  case' hostAck => apply execHostAck_k
  case' hostNak => apply execHostNak_k
  case' retransmitTimeout => apply execRetransmitTimeout_k
  case' sessionIdleTimeout => apply execSessionIdleTimeout_k
  case' throttleExpiry => apply execThrottleExpiry_k
  case' ethernetFrameRx => apply execEthernetFrameRx_k
  case' portLinkChange => apply execPortLinkChange_k
  case' mkaRekey => apply execMkaRekey_k
  case' timePortFallback => apply execTimePortFallback_k
  case' smbusBlockWrite => apply execSmbusBlockWrite_k
  case' smbusBlockRead => apply execSmbusBlockRead_k
  case' smbusReadByte => apply execSmbusReadByte_k
  case' sidebandFailover => apply execSidebandFailover_k
  -- mailboxes (R351-R355)
  case' mbxTxdWrite => apply execMbxTxdWrite_k
  case' mbxDbRing => apply execMbxDbRing_k
  case' mbxDbFlush => apply execMbxDbFlush_k
  case' mbxRxdRead => apply execMbxRxdRead_k
  case' mbxAckWrite => apply execMbxAckWrite_k
  case' mbxAckinRead => apply execMbxAckinRead_k
  case' mbxLockRead => apply execMbxLockRead_k
  case' mbxLockRelease => apply execMbxLockRelease_k
  case' mbxIrqClear => apply execMbxIrqClear_k
  case' mbxWakeDelivery => apply execMbxWakeDelivery_k
  case' mb4Timeout => apply execMb4Timeout_k
  -- frames and their programming (R66-R113)
  case' frmCommit => apply execFrmCommit_k
  case' commitApply => apply execCommitApply_k
  case' frmCtlIdle => apply execFrmCtlIdle_k
  case' frmCtlRepair => apply execFrmCtlRepair_k
  case' frmCtlSpare => apply execFrmCtlSpare_k
  case' frmCtlRetire => apply execFrmCtlRetire_k
  case' frmCtlClearFault => apply execFrmCtlClearFault_k
  case' calRegisterWrite => apply execCalRegisterWrite_k
  case' frmPrgStart => apply execFrmPrgStart_k
  case' frmPrgAbort => apply execFrmPrgAbort_k
  case' frmPrgFeed => apply execFrmPrgFeed_k
  case' prgRow => apply execPrgRow_k
  case' prgPlaneClose => apply execPrgPlaneClose_k
  case' prgThermalResume => apply execPrgThermalResume_k
  case' prgGrant => apply execPrgGrant_k
  -- registers of a board, and any register (R210-R226, R314)
  case' seqCtlRun => apply execSeqCtlRun_k
  case' seqCtlHalt => apply execSeqCtlHalt_k
  case' seqCtlClear => apply execSeqCtlClear_k
  case' tlySlotLoRead => apply execTlySlotLoRead_k
  case' drnActWrite => apply execDrnActWrite_k
  case' counterReadClear => apply execCounterReadClear_k
  case' registerWrite => apply execRegisterWrite_k
  -- steps and tile instructions (R210-R241)
  case' stepStart => apply execStepStart_k
  case' seqBeginStep => apply execSeqBeginStep_k
  case' instructionIssue => apply execInstructionIssue_k
  case' stroke => apply execStroke_k
  case' tokenGrant => apply execTokenGrant_k
  case' strokeEnd => apply execStrokeEnd_k
  case' confidenceRestroke => apply execConfidenceRestroke_k
  case' rowRamp => apply execRowRamp_k
  case' exactLanePart => apply execExactLanePart_k
  case' psel => apply execPsel_k
  case' tclr => apply execTclr_k
  case' trd => apply execTrd_k
  case' drain => apply execDrain_k
  case' vmm => apply execVmm_k
  case' vop => apply execVop_k
  case' csend => apply execCsend_k
  case' crecv => apply execCrecv_k
  case' move => apply execMove_k
  case' waitrk => apply execWaitrk_k
  case' waitrkRelease => apply execWaitrkRelease_k
  case' step => apply execStep_k
  case' capt => apply execCapt_k
  case' loop => apply execLoop_k
  case' endProg => apply execEndProg_k
  case' jobFailureCancel => apply execJobFailureCancel_k
  case' watchdogExpiry => apply execWatchdogExpiry_k
  case' scoreRefetch => apply execScoreRefetch_k
  -- packets (R268-R296)
  case' carryPacket => apply execCarryPacket_k
  case' carryRetry => apply execCarryRetry_k
  case' scarryPacket => apply execScarryPacket_k
  case' sfwdPacket => apply execSfwdPacket_k
  case' actPacket => apply execActPacket_k
  case' memRdPacket => apply execMemRdPacket_k
  case' memWrPacket => apply execMemWrPacket_k
  case' memRspPacket => apply execMemRspPacket_k
  case' amaxPacket => apply execAmaxPacket_k
  case' switchPacket => apply execSwitchPacket_k
  case' regPacket => apply execRegPacket_k
  case' ackPacket => apply execAckPacket_k
  case' reservedPacket => apply execReservedPacket_k
  case' poisonPacket => apply execPoisonPacket_k
  -- links and routes (R271-R281)
  case' linkFrameRx => apply execLinkFrameRx_k
  case' linkIdleFrame => apply execLinkIdleFrame_k
  case' linkRetrain => apply execLinkRetrain_k
  case' linkRetrainDone => apply execLinkRetrainDone_k
  case' linkSilenceTimeout => apply execLinkSilenceTimeout_k
  case' linkDown => apply execLinkDown_k
  case' routeFenceComplete => apply execRouteFenceComplete_k
  case' beamCtlRetrain => apply execBeamCtlRetrain_k
  case' beamCtlDown => apply execBeamCtlDown_k
  case' laneRoutingSwitch => apply execLaneRoutingSwitch_k
  -- board switches (R285-R288)
  case' overlappedBoardSwitch => apply execOverlappedBoardSwitch_k
  case' fencedBoardSwitch => apply execFencedBoardSwitch_k
  case' switchRecordRemoval => apply execSwitchRecordRemoval_k
  case' historyCopy => apply execHistoryCopy_k
  -- memory (R293-R313)
  case' slateScrub => apply execSlateScrub_k
  case' dramPatrolScrub => apply execDramPatrolScrub_k
  case' dramMr4Poll => apply execDramMr4Poll_k
  case' dramRefresh => apply execDramRefresh_k
  case' dramChannelFail => apply execDramChannelFail_k
  case' mirrorResyncDone => apply execMirrorResyncDone_k
  -- jobs (R337-R400)
  case' ringAdmission => apply execRingAdmission_k
  case' jobLaunch => apply execJobLaunch_k
  case' stepStartIssue => apply execStepStartIssue_k
  case' calForcedTimeout => apply execCalForcedTimeout_k
  case' intermediateCompletion => apply execIntermediateCompletion_k
  case' finalCompletion => apply execFinalCompletion_k
  case' replayInject => apply execReplayInject_k
  -- calibration and metrology (R119-R148, R403-R429)
  case' recountVisit => apply execRecountVisit_k
  case' refreshMigration => apply execRefreshMigration_k
  case' measurementVisit => apply execMeasurementVisit_k
  case' calPublication => apply execCalPublication_k
  case' metConversionEnd => apply execMetConversionEnd_k
  case' metEntryDelayEnd => apply execMetEntryDelayEnd_k
  case' metTrigger => apply execMetTrigger_k
  case' metExternalEvent => apply execMetExternalEvent_k
  case' metUrgentRequest => apply execMetUrgentRequest_k
  case' metCmdSelfcal => apply execMetCmdSelfcal_k
  case' metSelfcalDone => apply execMetSelfcalDone_k
  case' metCmdFlush => apply execMetCmdFlush_k
  case' metQRead => apply execMetQRead_k
  case' metCtlWrite => apply execMetCtlWrite_k
  case' metConverterWake => apply execMetConverterWake_k
  case' metProbeWrite => apply execMetProbeWrite_k
  case' metIsrcWrite => apply execMetIsrcWrite_k
  case' metWinStatClear => apply execMetWinStatClear_k
  -- heat and power (R431-R451)
  case' thermalSample => apply execThermalSample_k
  case' throttleStepFall => apply execThrottleStepFall_k
  case' sampleIntervalRise => apply execSampleIntervalRise_k
  case' thermalTrip => apply execThermalTrip_k
  case' autoRestart => apply execAutoRestart_k
  case' tokenTick => apply execTokenTick_k
  case' tokenBalanceCheck => apply execTokenBalanceCheck_k
  case' vinOvercurrent => apply execVinOvercurrent_k
  case' brownOut => apply execBrownOut_k
  case' brownOut1ms => apply execBrownOut1ms_k
  case' brownOut100ms => apply execBrownOut100ms_k
  case' supplyLoss => apply execSupplyLoss_k
  case' vsbHigh => apply execVsbHigh_k
  case' pwrFailNAssert => apply execPwrFailNAssert_k
  case' pwrFailNDeassert => apply execPwrFailNDeassert_k
  case' resetNLow => apply execResetNLow_k
  case' wakeEdge => apply execWakeEdge_k
  case' serviceEnChange => apply execServiceEnChange_k
  case' refclkLoss => apply execRefclkLoss_k
  case' idleToDrowsy => apply execIdleToDrowsy_k
  case' idleToDormant => apply execIdleToDormant_k
  case' drowsyEntry => apply execDrowsyEntry_k
  case' dormantEntry => apply execDormantEntry_k
  case' wakeFromDormant => apply execWakeFromDormant_k
  case' wakeFromDrowsy => apply execWakeFromDrowsy_k
  case' overdueRecountWake => apply execOverdueRecountWake_k
  -- the ledger and continuity (R455-R492)
  case' ledgerPageWrite => apply execLedgerPageWrite_k
  case' ledgerCounterIncrement => apply execLedgerCounterIncrement_k
  case' ledgerPageResolve => apply execLedgerPageResolve_k
  case' ledgerCounterResolve => apply execLedgerCounterResolve_k
  case' ledgerMarginPass => apply execLedgerMarginPass_k
  case' ledgerCopyLost => apply execLedgerCopyLost_k
  case' ledgerCopyReturn => apply execLedgerCopyReturn_k
  case' ledgerReady => apply execLedgerReady_k
  case' heartbeatSend => apply execHeartbeatSend_k
  case' heartbeatMiss => apply execHeartbeatMiss_k
  case' heldPacketResend => apply execHeldPacketResend_k
  case' hubRestart => apply execHubRestart_k
  case' frameRepair => apply execFrameRepair_k
  case' boardRepair => apply execBoardRepair_k
  case' dieLoss => apply execDieLoss_k
  -- bring-up and the time source (R383-R386, R518-R529)
  case' coldStart => apply execColdStart_k
  case' secureBoot => apply execSecureBoot_k
  case' dramZeroDone => apply execDramZeroDone_k
  case' resetHandshake => apply execResetHandshake_k
  case' reckoningSet => apply execReckoningSet_k
  case' syncInEdge => apply execSyncInEdge_k
  case' syncInLoss => apply execSyncInLoss_k
  case' rkCntLoRead => apply execRkCntLoRead_k
  case' arrayWake => apply execArrayWake_k
  case' trimPass => apply execTrimPass_k
  case' planeGainPass => apply execPlaneGainPass_k
  case' mapAndScores => apply execMapAndScores_k
  case' ready => apply execReady_k
  case' securityTapAuth => apply execSecurityTapAuth_k
  case' smbusAlertResponse => apply execSmbusAlertResponse_k
  case' syncOutEdge => apply execSyncOutEdge_k
  case' brownOutEnd => apply execBrownOutEnd_k
  case' staleSensor => apply execStaleSensor_k
  case' portConfigApply => apply execPortConfigApply_k
  case' provisioning => apply execProvisioning_k
  -- nothing is asked of the state before the command, and each part asked for is listed
  any_goals exact Keeps.refl s
  all_goals exact List.mem_of_elem_eq_true rfl

section
variable {i : Instr} {s t : State} (h : exec i s = .next t)
include h

theorem exec_same {p : Part} (hp : p ∉ Instr.changes i) : State.same p s t :=
  (((exec_keeps i s).out t h).frame p).resolve_left hp

theorem exec_pending : t.pending = s.pending := ((exec_keeps i s).out t h).pending

end

/-- Settles O52, from what each meaning may change; a byte of memory is read from memory alone. -/
theorem commandsChangeOnlyTheirParts : Obligations.Commands_change_only_their_parts := by
  refine ⟨?parts, ?queue, ?bytes⟩
  case parts =>
    intro i s t p h hp
    exact exec_same h hp
  case queue =>
    intro i s t h
    exact exec_pending h
  case bytes =>
    intro i s t a h hp
    have hmem : t.mem = s.mem := exec_same h hp
    rw [State.byte, State.byte, hmem]

end Sys2Proof.Machine
end

section
/-! PROOFS. FRM_PRG_CTL and FRM_PRG_FEED, the programming grant, and the end of a thermal pause. -/

namespace Sys2Proof.Machine

/-! The start of a plane (R88, R105). -/

/-- The engine of a plane that begins: its first row, with the stuck list and the check groups of its header. -/
def State.begun (s : State) (fk plane fmt : Nat) (load : Bool) : Prg :=
  { plane := plane, fmt := fmt, load := load, at_ := s.now, stuck := (s.header fk plane).stuck,
    chkOff := (s.header fk plane).chkOff }

/-- A frame that held the same images as another no longer does, once those of the other change (R139). -/
def State.clearTwins (s : State) (fk : Nat) : State :=
  s.frames.foldl (fun s e => if e.2.twin = some fk then s.setFrame e.1 { s.frame e.1 with twin := none } else s) s

/-- A frame made ready for a plane: the header marked and a cycle counted, its twins released, a visit on it ended. -/
def State.setUp (s : State) (fk plane : Nat) : State :=
  ((s.setHeader fk plane { s.header fk plane with fmt := 3, cycles := (s.header fk plane).cycles + 1 }).clearTwins
    fk).dropVisit fk

theorem State.setUp_keeps (s : State) (fk plane : Nat) :
    Keeps (· ∈ [Part.regs, .frames, .dies]) s (s.setUp fk plane) := by
  have hf : Part.frames ∈ [Part.regs, .frames, .dies] := by decide
  refine State.dropVisit_k _ _ (Keeps.foldl (fun t e k => ?_) (State.setHeader_k _ _ _ _ (.refl s) hf)) (by decide) hf
    (by decide)
  exact .ite (State.setFrame_k _ _ k hf) k

theorem State.setUp_now (s : State) (fk plane : Nat) : (s.setUp fk plane).now = s.now :=
  ((s.setUp_keeps fk plane).frame .now).resolve_left (by decide)

/-- The state in which a frame programs a plane. -/
def State.programming (s : State) (fk plane fmt : Nat) (load : Bool) : State :=
  (s.setUp fk plane).setFrame fk { (s.setUp fk plane).frame fk with
    st := .programming, twin := none, prg := some (s.begun fk plane fmt load) }

@[simp] theorem State.programming_frame (s : State) (fk plane fmt : Nat) (load : Bool) :
    (s.programming fk plane fmt load).frame fk = { (s.setUp fk plane).frame fk with
      st := .programming, twin := none, prg := some (s.begun fk plane fmt load) } := State.frame_setFrame _ _ _

section
variable {s : State} {fk plane fmt : Nat} {load : Bool}

theorem State.startPlane_notReady {refresh : Bool} (h : s.pstate ≠ 2) :
    s.startPlane fk plane fmt load refresh = (s, 2) := by
  refine if_pos (.inl ?_)
  simp [State.mayProgram, h]

/-- A start outside Ready shows result 2 and does no more. -/
theorem State.startResult_notReady {refresh : Bool} (h : s.pstate ≠ 2) :
    s.startResult fk plane fmt load refresh = s.setReg (prgStat fk) (put (s.reg (prgStat fk)) 21 3 2) := by
  rw [State.startResult, State.startPlane_notReady h]
  rfl

variable (hs : s.pstate = 2) (he : s.pw.entering = none) (hst : (s.frame fk).st = .idle ∨ (s.frame fk).st = .spare)
  (hsv : s.inService fk = false) (hfmt : fmt ≠ 3) (hd : fld (s.reg (fkBase fk + 0x10C)) 0 8 ≠ 0)
  (hu : fld (s.reg (fkBase fk + 0x10C)) 8 8 ≠ 0) (hw : fld (s.reg (fkBase fk + 0x10C)) 16 8 ≠ 0)
  (hc : (s.header fk plane).cycles < 10000)
include hs he hst hsv hfmt hd hu hw hc

/-- A plane below its limit starts where R105 lets it. -/
theorem State.startPlane_starts : s.startPlane fk plane fmt load false =
    ((s.programming fk plane fmt load).setRegN (prgStat fk) (1 + (s.header fk plane).stuck.length * 2 ^ 17), 0) := by
  have may : s.mayProgram = true := by
    simp only [State.mayProgram, hs, he, beq_self_eq_true, Option.isNone_none, Bool.and_self]
  unfold State.startPlane
  extract_lets x win h
  rw [if_neg, if_neg]
  · rw [State.programming, State.begun, ← State.setUp_now s fk plane]
    rfl
  · exact fun k => Nat.not_le.2 hc k.1
  · simp only [may, Bool.not_true, Bool.false_eq_true, false_or]
    rintro (⟨hi, hp⟩ | k | k | k | k | k)
    · exact hst.elim hi hp
    · exact Bool.false_ne_true (hsv.symm.trans k)
    · exact hfmt k
    · exact hd k
    · exact hu k
    · exact hw k

theorem State.startResult_starts : s.startResult fk plane fmt load false =
    (s.programming fk plane fmt load).setRegN (prgStat fk) (1 + (s.header fk plane).stuck.length * 2 ^ 17) := by
  rw [State.startResult, State.startPlane_starts hs he hst hsv hfmt hd hu hw hc]
  rfl

end

/-! The programming grant (R102, R103). -/

/-- The frames that a grant on a die is weighed against: those of the die while it has none admitted, else those of
every die that may admit one more. -/
def State.rivals (s : State) (d : Nat) : List (Nat × Prg) :=
  if s.grantsOn d = 0 then s.engines.filter fun e => keyDie (fkBoard e.1) == d
  else s.engines.filter fun e => decide (s.grantsOn (keyDie (fkBoard e.1)) < 64)

/-- An engine that waits ahead of another: repair and migration before loading, each in order of arrival. -/
def Prg.waitsAhead (q p : Prg) : Bool :=
  !q.granted && (p.load && !q.load || (p.load == q.load && decide (q.at_ < p.at_)))

/-! An abort (R107). -/

theorem State.stopPrg_keeps (s : State) (fk result : Nat) :
    Keeps (· ∈ [Part.regs, .frames, .dies]) s (s.stopPrg fk result) := by
  refine State.stopPrg_k s fk result (.refl s) ?_ ?_ ?_ <;> decide

/-- The repair that programs a frame is known by the frame's placement (R477). -/
theorem State.repairOf_congr {s t : State} (fk : Nat) (hp : (t.frame fk).placed = (s.frame fk).placed)
    (hw : t.wk = s.wk) (hv : t.sv = s.sv) : t.repairOf fk = s.repairOf fk := by
  have hscore : t.score = s.score := by
    funext k
    rw [State.score, State.score, hw]
  rw [State.repairOf, State.repairOf, hp, hscore, hv]

theorem State.repairFailed_none {s : State} {fk : Nat} (h : s.repairOf fk = none) : s.repairFailed fk = s := by
  rw [State.repairFailed, h]

/-! The commands. -/

section
variable {s : State} {d : Die} {b : Brd} {f : Sys2Proof.Frm}

theorem exec_frmPrgStart_busy (h : (s.frame (frameKey d b f)).prg.isSome = true) :
    exec (.frmPrgStart d b f) s = .next s := if_pos h

/-- A start on a free engine takes plane and format from FRM_PRG_CFG (R105). -/
theorem exec_frmPrgStart_free (h : (s.frame (frameKey d b f)).prg = none) :
    exec (.frmPrgStart d b f) s = .next (s.startResult (frameKey d b f)
      (fld (s.reg (fkBase (frameKey d b f) + 0x104)) 0 3) (fld (s.reg (fkBase (frameKey d b f) + 0x104)) 3 2)
      true false) := by
  refine if_neg ?_
  rw [h]
  exact Bool.false_ne_true

theorem exec_frmPrgFeed_some {p : Prg} (h : (s.frame (frameKey d b f)).prg = some p) (w : Word) :
    exec (.frmPrgFeed d b f w) s = .next (s.setFrame (frameKey d b f) { s.frame (frameKey d b f) with
      prg := some { p with full0 := p.full0 || bit w 0, full1 := p.full1 || bit w 1 } }) := by
  show execFrmPrgFeed d b f w s = _
  simp only [execFrmPrgFeed, h]

theorem exec_prgGrant_waiting {p : Prg} (h : (s.frame (frameKey d b f)).prg = some p) :
    exec (.prgGrant d b f) s = if s.pstate ≠ 2 ∨ p.granted ∨ 64 ≤ s.grantsOn d ∨
        ((s.rivals d).any fun e => e.2.waitsAhead p) ∨ (s.grantsOn d ≠ 0 ∧ !s.prgRoom) then .next s
      else .next (s.setFrame (frameKey d b f)
        { s.frame (frameKey d b f) with prg := some { p with granted := true } }) := by
  show execPrgGrant d b f s = _
  simp only [execPrgGrant, h]
  rfl

/-- A frame with none ahead of it is admitted while its die has fewer than 64, where the pool has room or the die has
none (R102, R103). -/
theorem exec_prgGrant_admits {p : Prg} (hs : s.pstate = 2) (h : (s.frame (frameKey d b f)).prg = some p)
    (hg : p.granted = false) (hn : s.grantsOn d < 64) (hr : s.grantsOn d = 0 ∨ s.prgRoom = true)
    (hb : ((s.rivals d).any fun e => e.2.waitsAhead p) = false) :
    exec (.prgGrant d b f) s = .next (s.setFrame (frameKey d b f)
      { s.frame (frameKey d b f) with prg := some { p with granted := true } }) := by
  rw [exec_prgGrant_waiting h, if_neg]
  simp only [hs, hg, hb, Nat.not_le.2 hn, ne_eq, not_true, Bool.false_eq_true, false_or, not_and]
  intro hne
  simp only [hr.resolve_left hne, Bool.not_true, Bool.false_eq_true, not_false_eq_true]

theorem exec_prgGrant_full {p : Prg} (h : (s.frame (frameKey d b f)).prg = some p) (hn : 64 ≤ s.grantsOn d) :
    exec (.prgGrant d b f) s = .next s := by
  rw [exec_prgGrant_waiting h, if_pos (.inr (.inr (.inl hn)))]

/-- An abort on a frame of no load and no repair: result 4, and the frame is SPARE (R107). -/
theorem exec_frmPrgAbort_alone (h : (s.frame (frameKey d b f)).prg.isSome = true)
    (hl : s.loadingSlot (frameKey d b f) = none) (hr : s.repairOf (frameKey d b f) = none) :
    exec (.frmPrgAbort d b f) s = .next ((s.stopPrg (frameKey d b f) 4).setFrame (frameKey d b f)
      { (s.stopPrg (frameKey d b f) 4).frame (frameKey d b f) with st := .spare }) := by
  have hnone : ¬(s.frame (frameKey d b f)).prg.isNone = true := by
    rw [← Option.not_isSome, h]
    exact Bool.false_ne_true
  show execFrmPrgAbort d b f s = _
  unfold execFrmPrgAbort
  dsimp only
  rw [if_neg hnone, hl]
  refine congrArg Host.Outcome.next (State.repairFailed_none ?_)
  have k := s.stopPrg_keeps (frameKey d b f) 4
  rw [State.repairOf_congr (s := s), hr]
  · rw [State.frame_setFrame, State.stopPrg_frame]
  · rw [State.setFrame_wk]
    exact (k.frame .wk).resolve_left (by decide)
  · rw [State.setFrame_sv]
    exact (k.frame .sv).resolve_left (by decide)

end

/-- Settles O5: each command by whether the frame programs, and the grant by the frames it is weighed against. -/
theorem programmingStartFeedAbort : Obligations.Programming_start_feed_abort := by
  refine ⟨?feed, ?busy, ?starts, ?notReady, ?grantOnly, ?grant, ?full, ?abort, ?resumes, ?paused⟩
  case feed =>
    intro s d b f w p h
    exact exec_frmPrgFeed_some h w
  case busy =>
    intro s d b f h
    exact exec_frmPrgStart_busy h
  case starts =>
    intro s d b f h hs he hst hsv hfmt hd hu hw hc
    have run := (exec_frmPrgStart_free h).trans
      (congrArg Host.Outcome.next (State.startResult_starts (load := true) hs he hst hsv hfmt hd hu hw hc))
    refine ⟨_, run, ?_, ?_, ?_, ?_, ?_⟩
    · rw [State.frame_of_frames (State.setRegN_frames _ _ _), State.programming_frame]
    · rw [State.frame_of_frames (State.setRegN_frames _ _ _), State.programming_frame]
      rfl
    · exact exec_same run (p := .beads) (by simp [Instr.changes])
    · exact exec_same run (p := .mem) (by simp [Instr.changes])
    · exact exec_same run (p := .boards) (by simp [Instr.changes])
  case notReady =>
    intro s d b f h hs
    rw [exec_frmPrgStart_free h, State.startResult_notReady hs]
  case grantOnly =>
    intro s d b f p hs h hg hn hb
    refine exec_prgGrant_admits hs h hg (by omega) (.inl hn) ?_
    rw [State.rivals, if_pos hn]
    exact hb
  case grant =>
    intro s d b f p hs h hg hne hn hr hb
    refine exec_prgGrant_admits hs h hg hn (.inr hr) ?_
    rw [State.rivals, if_neg hne]
    exact hb
  case full =>
    intro s d b f p h hn
    exact exec_prgGrant_full h hn
  case abort =>
    intro s d b f h hl hr
    exact exec_frmPrgAbort_alone h hl hr
  case resumes =>
    intro s d h
    exact if_neg (by simp [h])
  case paused =>
    intro s d h
    exact if_pos (by simp [h])

end Sys2Proof.Machine
end

section
/-! PROOFS. One row programmed and verified: its iterations, its tokens, its beads and the engine after it. -/

namespace Sys2Proof.Machine

/-! Iterations of a row (R89, R92). -/

/-- A pass takes one iteration of those it may take, or ends. -/
theorem passGo_iters_le (cfg : Word) (stuck : List Nat) (t win : List Int) (n base : Nat)
    (last : List (Option (Bool × Nat))) (g : List Int) (it : Nat) :
    (passGo cfg stuck t win n base last g it).2.1 ≤ it + n := by
  induction n generalizing base last g it with
  | zero => exact Nat.le_refl it
  | succ n ih =>
    rw [passGo]
    dsimp only
    split
    · exact Nat.le_add_right _ _
    · exact (ih _ _ _ _).trans (by omega)

theorem rowPass_iters_le {alpha tj16 : Int} {win cfg : Word} {fmt row : Nat} {st : List (Nat × Nat × Nat)}
    {lv : List Nat} {g : List Int} {base : Nat} {out : List (Nat × Nat × Nat) × Nat × Nat × List Int}
    (h : rowPass alpha tj16 win cfg fmt row st lv g base = out) : out.2.1 ≤ 64 := by
  unfold rowPass at h
  extract_lets stuck t ws at h
  have hle := passGo_iters_le cfg stuck t ws 64 base [] g 0
  generalize passGo cfg stuck t ws 64 base [] g 0 = r at h hle
  rw [← h]
  exact hle.trans (Nat.zero_add 64).le

/-- A row takes two passes at most. -/
theorem programRow_total_le (alpha tj16 : Int) (win cfg : Word) (fmt row : Nat) (first : List Nat × List Int)
    (derive : List (Nat × Nat × Nat) → List Int) (st0 : List (Nat × Nat × Nat)) (fresh : Nat) :
    (programRow alpha tj16 win cfg fmt row first derive st0 fresh).total ≤ 128 := by
  unfold programRow
  extract_lets g0 st
  split
  rename_i st1 it1 base g hpass
  have h1 : it1 ≤ 64 := rowPass_iters_le hpass
  extract_lets new
  split
  · exact h1.trans (by decide)
  · split
    rename_i hpass2
    exact Nat.add_le_add h1 (rowPass_iters_le hpass2)

/-- The tokens of a row are at most those of the longest one (R106). -/
theorem State.rowTokens_le (s : State) (fk : Nat) (p : Prg) (x : RowSrc) :
    136 + 27 * (s.rowOut fk p x).total ≤ 3592 := by
  have h : (s.rowOut fk p x).total ≤ 128 := programRow_total_le _ _ _ _ _ _ _ _ _ _
  omega

/-! Tokens (R26, R438). -/

/-- A draw of half a pool at most, with none before it and its tokens there, is served at once. -/
theorem State.draw_at_once {s : State} {d prio need : Nat} (w : Work) (ha : s.drawAhead d prio = false)
    (hn : need ≤ s.openTo d prio) (hh : need ≤ halfDepth) : s.draw d prio need w = (s.consume d need, true) := by
  refine if_pos ?_
  simp only [State.canDraw, ha, hn, hh, Bool.not_false, decide_true, Bool.and_self]

@[simp] theorem State.drawAhead_fresh (s : State) (n d prio : Nat) :
    ({ s with fresh := n } : State).drawAhead d prio = s.drawAhead d prio := rfl

@[simp] theorem State.openTo_fresh (s : State) (n d prio : Nat) :
    ({ s with fresh := n } : State).openTo d prio = s.openTo d prio := rfl

/-! The end of a row (R87-R101). -/

theorem State.bead_of_beads {s t : State} (h : t.beads = s.beads) (k : Nat) : t.bead k = s.bead k := by
  rw [State.bead, State.bead, h]

@[simp] theorem State.consume_beads (s : State) (d n : Nat) : (s.consume d n).beads = s.beads := by
  simp only [State.consume, State.setRegN, State.setDie_beads, State.setReg_beads]

/-- Columns 0-527 of a row set to the levels they hold. -/
def State.writeRow (s : State) (fk p row : Nat) (lv : Nat → Nat) : State :=
  (List.range 528).foldl (fun s c => s.setBead (beadKey fk p row c) (lv c)) s

/-- Beads that no listed column names keep their level. -/
theorem State.bead_writeCols_out (s : State) (key lv : Nat → Nat) (cols : List Nat) {k : Nat}
    (h : ∀ c ∈ cols, k ≠ key c) : (cols.foldl (fun s c => s.setBead (key c) (lv c)) s).bead k = s.bead k := by
  induction cols generalizing s with
  | nil => rfl
  | cons c cols ih =>
    exact (ih _ fun c hc => h c (List.mem_cons_of_mem _ hc)).trans
      (State.bead_setBead_ne _ _ _ _ (h c List.mem_cons_self))

theorem State.bead_writeRow_out (s : State) (fk p row : Nat) (lv : Nat → Nat) {k : Nat}
    (h : ∀ col < 528, k ≠ beadKey fk p row col) : (s.writeRow fk p row lv).bead k = s.bead k :=
  s.bead_writeCols_out (beadKey fk p row) lv _ fun c hc => h c (List.mem_range.1 hc)

/-- The level a column holds after its row: that of a stuck bead, else its target (R92). -/
def RowOut.held (ro : RowOut) (row c : Nat) : Nat := (stuckAt ro.stuck row c).getD (ro.levels.getD c 0)

/-- A row that leaves at most 8 stuck beads changes the beads of its columns alone. -/
theorem State.endRow_beads (s : State) (fk : Nat) (p : Prg) (x : RowSrc) {ro : RowOut} (h : ¬8 < ro.stuck.length) :
    ∃ u : State, u.beads = s.beads ∧
      (s.endRow fk p x ro).beads = (u.writeRow fk p.plane p.row (ro.held p.row)).beads := by
  refine ⟨(s.bump (fkBase fk + 0xA0) ro.marked).setRegN (prgStat fk)
    (1 + p.row * 2 + ro.iters * 2 ^ 10 + min 9 ro.stuck.length * 2 ^ 17), ?_, ?_⟩
  · rw [State.setRegN_beads, State.bump_beads]
  · rw [State.endRow, if_neg h]
    simp only [State.setFrame_beads, State.bump_beads, State.setSide_beads]
    rfl

/-- What a row that leaves at most 8 stuck beads leaves: the engine at the next row with this row's buffer empty, and no
other bead changed. -/
structure State.RowEnded (s t : State) (fk : Nat) (p : Prg) : Prop where
  engine : ∃ q, (t.frame fk).prg = some q ∧ q.plane = p.plane ∧ q.row = p.row + 1 ∧
    q.full0 = (p.full0 && p.row % 2 == 1) ∧ q.full1 = (p.full1 && p.row % 2 == 0)
  bead : ∀ k, (∀ col < 528, k ≠ beadKey fk p.plane p.row col) → t.bead k = s.bead k

theorem State.endRow_rowEnded (s : State) (fk : Nat) (p : Prg) (x : RowSrc) {ro : RowOut} (h : ¬8 < ro.stuck.length) :
    State.RowEnded s (s.endRow fk p x ro) fk p := by
  refine ⟨?_, fun k hk => ?_⟩
  · rw [State.endRow, if_neg h]
    exact ⟨_, congrArg Frame.prg (State.frame_setFrame _ _ _), rfl, rfl, rfl, rfl⟩
  · obtain ⟨u, hu, ht⟩ := s.endRow_beads fk p x h
    rw [State.bead_of_beads ht, u.bead_writeRow_out _ _ _ _ hk, State.bead_of_beads hu]

/-- A row ends at the next row, or at the stuck limit of its plane (R101). -/
theorem State.endRow_cases (s : State) (fk : Nat) (p : Prg) (x : RowSrc) (ro : RowOut) :
    (∃ u, s.endRow fk p x ro = State.stuckLimit u fk) ∨ State.RowEnded s (s.endRow fk p x ro) fk p := by
  by_cases h : 8 < ro.stuck.length
  · exact .inl ⟨_, if_pos h⟩
  · exact .inr (s.endRow_rowEnded fk p x h)

/-! PRG_ROW (R88, R106). -/

/-- A full target buffer is the source of a row that neither an image nor a replaced frame gives. -/
theorem State.rowSrc_buffer {s : State} {fk : Nat} {p : Prg} (hi : s.imageOf fk p.plane = none)
    (hl : s.levelSource fk = none) (hf : (if p.row % 2 = 0 then p.full0 else p.full1) = true) :
    ∃ x, s.rowSrc fk p = some x := by
  simp only [State.rowSrc, hi, hl, hf, Bool.not_true, Bool.false_eq_true, if_false]
  exact ⟨_, rfl⟩

/-- The state in which a row ends: its readings and its tokens are taken. -/
def State.rowPaid (s : State) (d fk : Nat) (p : Prg) (x : RowSrc) : State :=
  ({ s with fresh := (s.rowOut fk p x).fresh } : State).consume d (136 + 27 * (s.rowOut fk p x).total)

@[simp] theorem State.rowPaid_beads (s : State) (d fk : Nat) (p : Prg) (x : RowSrc) :
    (s.rowPaid d fk p x).beads = s.beads := by
  rw [State.rowPaid, State.consume_beads]

section
variable {s : State} {d : Die} {b : Brd} {f : Sys2Proof.Frm} {p : Prg} (hp : s.pstate = 2)
  (hf : (s.frame (frameKey d b f)).prg = some p) (hg : p.granted = true) (hpa : p.paused = false) (hr : p.row < 512)
  (hw : p.waits = false)
include hp hf hg hpa hr hw

/-- On a die at T2 or above a row does not begin, and programming pauses (R106). -/
theorem exec_prgRow_pauses (ht : s.dieBelow d s.t2 = false) :
    exec (.prgRow d b f) s = .next (s.setFrame (frameKey d b f)
      { s.frame (frameKey d b f) with prg := some { p with paused := true } }) := by
  show execPrgRow d b f s = _
  simp [execPrgRow, hf, hp, hg, hpa, hw, hr, ht]

/-- A row with its targets and the tokens of the longest row ends at once (R88, R106). -/
theorem exec_prgRow_ends {x : RowSrc} (ho : p.out = none) (ht : s.dieBelow d s.t2 = true)
    (hx : s.rowSrc (frameKey d b f) p = some x) (ha : s.drawAhead d p.prio = false) (hpd : p.paid = false)
    (hn : 3592 ≤ s.openTo d p.prio) :
    exec (.prgRow d b f) s = .next ((s.rowPaid d (frameKey d b f) p x).endRow (frameKey d b f) p x
      (s.rowOut (frameKey d b f) p x)) := by
  have need := s.rowTokens_le (frameKey d b f) p x
  have draw : ({ s with fresh := (s.rowOut (frameKey d b f) p x).fresh } : State).draw d p.prio
      (136 + 27 * (s.rowOut (frameKey d b f) p x).total) (.program (frameKey d b f)) =
        (s.rowPaid d (frameKey d b f) p x, true) :=
    State.draw_at_once _ ((State.drawAhead_fresh _ _ _ _).trans ha)
      (need.trans (hn.trans_eq (State.openTo_fresh _ _ _ _).symm)) (need.trans (by norm_num [halfDepth]))
  show execPrgRow d b f s = _
  simp only [execPrgRow, hf, hp, hg, hpa, hw, Nat.not_le.2 hr, ht, hx, ho, hpd, ne_eq, not_true, Bool.not_true,
    Bool.not_false, Bool.false_eq_true, false_and, and_false, or_self, if_false, Option.getD_none, Option.isSome_none,
    draw]

end

/-- Settles O6: a row is paid for at once, since two passes of 64 iterations bound its tokens, and ends at the stuck
limit or at the next row. -/
theorem programmingRow : Obligations.Programming_row := by
  refine ⟨?ends, ?buffer, ?pauses⟩
  case ends =>
    intro s d b f p x hp hf hg hpa hr hw ho ht hx ha hpd hn
    exact exec_prgRow_ends hp hf hg hpa hr hw ho ht hx ha hpd hn
  case buffer =>
    intro s d b f p hp hf hg hpa hr hw ho ht hi hl hfull ha hpd hn
    obtain ⟨x, hx⟩ := State.rowSrc_buffer hi hl hfull
    have run := exec_prgRow_ends hp hf hg hpa hr hw ho ht hx ha hpd hn
    refine ⟨_, run, ?_⟩
    have paid := s.rowPaid_beads d (frameKey d b f) p x
    rcases State.endRow_cases (s.rowPaid d (frameKey d b f) p x) (frameKey d b f) p x _ with
      hstuck | ⟨hengine, hbead⟩
    · exact .inl hstuck
    · have hmem := exec_same run (p := .mem) (by simp [Instr.changes])
      exact .inr ⟨hengine, hmem, fun k hk => (hbead k hk).trans (State.bead_of_beads paid k)⟩
  case pauses =>
    intro s d b f p hp hf hg hpa hr hw ht
    exact exec_prgRow_pauses hp hf hg hpa hr hw ht

end Sys2Proof.Machine
end

section
/-! PROOFS. The bead commands (R86, R110, R369). -/

namespace Sys2Proof.Machine

/-- Settles O32, by the cases of State.command: what each command's own part answers, or the code it refuses with. -/
theorem beadCommands : Obligations.Bead_commands := by
  refine ⟨?opens, ?opensEmpty, ?tooLong, ?closes, ?inUse, ?noHandle, ?plane, ?noFrame, ?wear, ?noDie⟩
  case opens =>
    intro s r k ha hsize hn hk
    refine congrArg Host.Outcome.next (State.command_ok (Instr.admitted_checks rfl ha) rfl ?_)
    simp only [hsize, Nat.not_lt.2 hn, hk, if_false]
  case opensEmpty =>
    intro s r ha hsize
    refine congrArg Host.Outcome.next (State.command_ok (Instr.admitted_checks rfl ha) rfl ?_)
    simp only [hsize, if_true]
  case tooLong =>
    intro s r ha hsize hn
    refine congrArg Host.Outcome.next (State.command_refuse (Instr.admitted_checks rfl ha) ?_)
    exact (if_neg hsize).trans (if_pos hn)
  case closes =>
    intro s r h ha hh hfmt hfirst hbusy hobj
    refine congrArg Host.Outcome.next (State.command_ok (Instr.admitted_checks rfl ha) rfl ?_)
    simp only [hh, hfmt, hfirst, hbusy, hobj, ne_eq, not_true, Bool.false_eq_true, or_self, if_false]
  case inUse =>
    intro s r h ha hh hfmt hfirst hbusy
    refine congrArg Host.Outcome.next (State.command_refuse (Instr.admitted_checks rfl ha) ?_)
    simp only [hh, hfmt, hfirst, hbusy, ne_eq, not_true, not_false_eq_true, or_self, true_or, if_false, if_true]
  case noHandle =>
    intro s r ha hh
    refine congrArg Host.Outcome.next (State.command_refuse (Instr.admitted_checks rfl ha) ?_)
    simp only [hh]
  case plane =>
    intro s r k ha hk hp
    refine congrArg Host.Outcome.next (State.command_ok (Instr.admitted_checks rfl ha) rfl ?_)
    simp only [hk, Nat.not_le.2 hp, if_false]
  case noFrame =>
    intro s r ha hk
    refine congrArg Host.Outcome.next (State.command_refuse (Instr.admitted_checks rfl ha) ?_)
    simp only [hk]
  case wear =>
    intro s r ha hd hdis
    refine congrArg Host.Outcome.next (State.command_ok (Instr.admitted_checks rfl ha) rfl ?_)
    simp only [Nat.not_le.2 hd, hdis, Bool.false_eq_true, or_self, if_false]
  case noDie =>
    intro s r ha hgone
    refine congrArg Host.Outcome.next (State.command_refuse (Instr.admitted_checks rfl ha) ?_)
    simp only [hgone, if_true]

end Sys2Proof.Machine
end

section
/-! PROOFS. The ring engine: admission, launch, step starts, completions and replay. -/

namespace Sys2Proof.Machine

/-! Ring admission (R337, R338). -/

/-- The state in which a hub's turn is at a ring, with so many descriptors taken in its turn. -/
def State.atTurn (s : State) (h : Hub) (g used : Nat) : State :=
  { s with wk.turn := s.wk.turn.set h g, wk.deficit := mput 0 s.wk.deficit h used }

section
variable {s : State} {h : Hub}

theorem exec_ringAdmission_none (ht : s.turnRing h = none) : exec (.ringAdmission h) s = .next s := by
  show execRingAdmission h s = _
  simp only [execRingAdmission, ht, ite_self]

/-- In Ready with power the oldest descriptor of the ring at turn is admitted, or completed with its first failed
check. -/
theorem exec_ringAdmission_takes {g used jn : Nat} {x : Job} (hp : s.pstate = 2) (hf : s.pw.failN = false)
    (ht : s.turnRing h = some (g, used)) (ha : (s.atTurn h g used).admissible g = some jn)
    (hx : (s.atTurn h g used).job jn = some x) :
    exec (.ringAdmission h) s = .next
      (if (s.atTurn h g used).admitCode x = 0 then (s.atTurn h g used).admitJob jn x
        else (s.atTurn h g used).complete jn ((s.atTurn h g used).admitCode x)) := by
  rw [State.atTurn] at ha hx
  show execRingAdmission h s = _
  simp only [execRingAdmission, hp, hf, ht, ha, hx, ne_eq, not_true, Bool.false_eq_true, or_self, if_false]
  rfl

end

/-! Step starts (R132, R210, R260, R385). -/

section
variable {s : State} {j : Nat} {x : Job} (hx : s.job j = some x)
include hx

/-- A job whose turn and launch time have come stages its input, resets its context and issues its first step. -/
theorem exec_jobLaunch_starts (hst : x.st = .admitted) (hm : s.mayIssue x = true) (ht : s.ringTurn j x = true)
    (hi : s.historiesIdle j x = true) (hl : x.flags / 2 % 2 = 0 ∨ x.launch ≤ s.ck.rk) :
    exec (.jobLaunch j) s =
      let v := (s.stage x).resetCtx ((s.stage x).ringScore x.ring) ((s.stage x).ring x.ring).ctx true
      .next (v.issueStep j { x with st := .running, started := true, rkStart := v.ck.rk, launchRk := v.ck.rk }) := by
  have due : ¬(x.flags / 2 % 2 = 1 ∧ s.ck.rk < x.launch) := by omega
  show execJobLaunch j s = _
  simp only [execJobLaunch, hx, hst, hm, ht, hi, due, ne_eq, not_true, Bool.not_true, Bool.false_eq_true, or_self,
    if_false]

theorem exec_jobLaunch_waits (h : x.st ≠ .admitted ∨ s.mayIssue x = false ∨ s.ringTurn j x = false ∨
    s.historiesIdle j x = false ∨ (x.flags / 2 % 2 = 1 ∧ s.ck.rk < x.launch)) :
    exec (.jobLaunch j) s = .next s := by
  show execJobLaunch j s = _
  simp only [execJobLaunch, hx, Bool.not_eq_true', h, if_true]

theorem exec_stepStartIssue_issues (hst : x.st = .running) (hn : x.next < x.nsteps) (hf : x.failedAt = false)
    (hm : s.mayIssue x = true) : exec (.stepStartIssue j) s = .next (s.issueStep j x) := by
  show execStepStartIssue j s = _
  simp only [execStepStartIssue, hx, hst, Nat.not_le.2 hn, hf, hm, ne_eq, not_true, Bool.not_true, Bool.false_eq_true,
    or_self, if_false]

theorem exec_stepStartIssue_waits (h : x.st ≠ .running ∨ x.nsteps ≤ x.next ∨ x.failedAt = true ∨
    s.mayIssue x = false) : exec (.stepStartIssue j) s = .next s := by
  show execStepStartIssue j s = _
  simp only [execStepStartIssue, hx, Bool.not_eq_true', h, if_true]

/-- An epoch that a running job has ignored for 2 s is forced on it (R132). -/
theorem exec_calForcedTimeout_forces (hst : x.st = .running) (hn : x.next < x.nsteps) (hf : x.force = false)
    (he : (s.score (s.ringScore x.ring)).epoch ≠ x.epoch) (ht : x.lastCal + 2000000000 ≤ s.now) :
    exec (.calForcedTimeout j) s = .next (s.setJob j (some { x with force := true, calForced := true })) := by
  show execCalForcedTimeout j s = _
  simp only [execCalForcedTimeout, hx, hst, Nat.not_le.2 hn, hf, he, Nat.not_lt.2 ht, ne_eq, not_true,
    Bool.false_eq_true, or_self, if_false]

theorem exec_calForcedTimeout_waits (h : x.force = true ∨ (s.score (s.ringScore x.ring)).epoch = x.epoch ∨
    s.now < x.lastCal + 2000000000) : exec (.calForcedTimeout j) s = .next s := by
  show execCalForcedTimeout j s = _
  simp only [execCalForcedTimeout, hx, h, or_true, if_true]

/-! Completions (R340, R343). -/

/-- A job whose steps have all ended completes with its result, or fails where the result cannot be read (R305). -/
theorem exec_finalCompletion_ends (hst : x.st = .running) (hf : x.failedAt = false) (hn : x.nsteps ≤ x.next)
    (ho : x.outDue = []) (he : (List.range x.nsteps).all (s.stepEnded x) = true) :
    exec (.finalCompletion j) s = .next
      (((s.sendResult x (sentSteps (s.score (s.ringScore x.ring)).file.man x) x.nsteps).map
        fun o => o.1.complete j 0 o.2).getD (s.failJob j 0x0503)) := by
  show execFinalCompletion j s = _
  simp only [execFinalCompletion, hx, hst, hf, Nat.not_lt.2 hn, ho, he, ne_eq, not_true, Bool.not_true,
    Bool.false_eq_true, or_self, if_false]
  cases s.sendResult x (sentSteps (s.score (s.ringScore x.ring)).file.man x) x.nsteps <;> rfl

theorem exec_finalCompletion_waits (h : x.st ≠ .running ∨ x.failedAt = true ∨ x.next < x.nsteps ∨ x.outDue ≠ []) :
    exec (.finalCompletion j) s = .next s := by
  have wait : x.st ≠ .running ∨ x.failedAt = true ∨ x.next < x.nsteps ∨ x.outDue ≠ [] ∨
      (!(List.range x.nsteps).all (s.stepEnded x)) = true := h.imp_right (Or.imp_right (Or.imp_right .inl))
  show execFinalCompletion j s = _
  simp only [execFinalCompletion, hx, wait, if_true]

/-- A job whose step at an output point has ended sends what it has since the last one. -/
theorem exec_intermediateCompletion_sends {e : Nat} {q : List Nat} {v : State}
    {ds : List (List Byte × Nat × List Byte)} (ho : x.outDue = e :: q) (hst : x.st = .running)
    (hf : x.failedAt = false) (he : s.stepEnded x (e / 2 ^ 32) = true)
    (hr : s.sendResult x (sentSteps (s.score (s.ringScore x.ring)).file.man x) (e / 2 ^ 32 + 1) = some (v, ds)) :
    exec (.intermediateCompletion j) s = .next (v.formCompl j { x with outDue := q } 0
      (if x.counts.strokes = 0 then 0 else e % 2 ^ 32) false ds) := by
  show execIntermediateCompletion j s = _
  simp only [execIntermediateCompletion, hx, ho, hst, hf, he, hr, ne_eq, not_true, Bool.not_true, Bool.false_eq_true,
    or_self, if_false]

theorem exec_intermediateCompletion_none (ho : x.outDue = []) : exec (.intermediateCompletion j) s = .next s := by
  show execIntermediateCompletion j s = _
  simp only [execIntermediateCompletion, hx, ho]

end

/-! Replay (R397, R398). -/

section
variable {s : State} {g : Fin 4096}

theorem exec_replayInject_idle (h : (s.ring g).replay = none) : exec (.replayInject g) s = .next s := by
  show execReplayInject g s = _
  simp only [execReplayInject, h]

theorem exec_replayInject_ends (h : (s.ring g).replay = some []) :
    exec (.replayInject g) s = .next (s.settleReplay g) := by
  show execReplayInject g s = _
  simp only [execReplayInject, h]

variable {n : Nat} {q : List Nat} (hr : (s.ring g).replay = some (n :: q))
include hr

/-- A record that the journal no longer holds is passed over. -/
theorem exec_replayInject_lost (hv : (s.sv.journal.recs.find? fun v => v.1 == n) = none) :
    exec (.replayInject g) s = .next (s.setRing g { s.ring g with replay := some q }) := by
  show execReplayInject g s = _
  simp only [execReplayInject, hr, hv]

variable {v : Nat × List Byte} (hv : (s.sv.journal.recs.find? fun v => v.1 == n) = some v)
include hv

theorem exec_replayInject_waits (h : s.pstate ≠ 2 ∨
    s.ck.rk < (s.ring g).replayBase + (leAt v.2 24 8 - (s.ring g).replayA0) ∨ s.ringDepth g ≤ s.held g) :
    exec (.replayInject g) s = .next s := by
  show execReplayInject g s = _
  simp only [execReplayInject, hr, hv, h, if_true]

variable (hp : s.pstate = 2) (ht : (s.ring g).replayBase + (leAt v.2 24 8 - (s.ring g).replayA0) ≤ s.ck.rk)
  (hd : s.held g < s.ringDepth g)
include hp ht hd

/-- A record at its time waits for two handles. -/
theorem exec_replayInject_noHandles (hk : s.freeHandles (ringHub g) 2 = none) :
    exec (.replayInject g) s = .next s := by
  show execReplayInject g s = _
  simp only [execReplayInject, hr, hv, hp, Nat.not_lt.2 ht, Nat.not_le.2 hd, hk, ne_eq, not_true, or_self, if_false]

/-- A record at its time is accepted under new handles, and its job is marked as replayed. -/
theorem exec_replayInject_injects {k : Nat} (hk : s.freeHandles (ringHub g) 2 = some k) :
    exec (.replayInject g) s =
      let u := s.replayHandles g n v.2 k
      let w := u.setRing g { u.ring g with replay := some q, jseq := leAt v.2 96 8 }
      .next ((w.acceptDesc 0 (s.replayDesc g v.2 k)).modJob w.wk.nextJob fun j => { j with replayed := true }) := by
  show execReplayInject g s = _
  simp only [execReplayInject, hr, hv, hp, Nat.not_lt.2 ht, Nat.not_le.2 hd, hk, ne_eq, not_true, or_self, if_false]

end

/-- Settles O44: admission by the first failed check, each command of a job by the job's state and its wait, and replay
by the records left to inject. -/
theorem jobEngine : Obligations.Job_engine := by
  refine ⟨?admits, ?refuses, ?noTurn, ?launches, ?launchWaits, ?issues, ?issueWaits, ?forces, ?forceWaits, ?completes,
    ?unreadable, ?finalWaits, ?sends, ?noOutput, ?noReplay, ?replayEnds, ?injects, ?noHandles, ?replayWaits, ?lost⟩
  case admits =>
    intro s h g used jn x hp hf ht ha hx hc
    exact (exec_ringAdmission_takes hp hf ht ha hx).trans (congrArg Host.Outcome.next (if_pos hc))
  case refuses =>
    intro s h g used jn x hp hf ht ha hx hc
    exact (exec_ringAdmission_takes hp hf ht ha hx).trans (congrArg Host.Outcome.next (if_neg hc))
  case noTurn =>
    intro s h ht
    exact exec_ringAdmission_none ht
  case launches =>
    intro s j x hx hst hm ht hi hl
    exact exec_jobLaunch_starts hx hst hm ht hi hl
  case launchWaits =>
    intro s j x hx h
    exact exec_jobLaunch_waits hx h
  case issues =>
    intro s j x hx hst hn hf hm
    exact exec_stepStartIssue_issues hx hst hn hf hm
  case issueWaits =>
    intro s j x hx h
    exact exec_stepStartIssue_waits hx h
  case forces =>
    intro s j x hx hst hn hf he ht
    exact exec_calForcedTimeout_forces hx hst hn hf he ht
  case forceWaits =>
    intro s j x hx h
    exact exec_calForcedTimeout_waits hx h
  case completes =>
    intro s j x v ds hx hst hf hn ho he hr
    rw [exec_finalCompletion_ends hx hst hf hn ho he, hr]
    rfl
  case unreadable =>
    intro s j x hx hst hf hn ho he hr
    rw [exec_finalCompletion_ends hx hst hf hn ho he, hr]
    rfl
  case finalWaits =>
    intro s j x hx h
    exact exec_finalCompletion_waits hx h
  case sends =>
    intro s j x e q v ds hx ho hst hf he hr
    exact exec_intermediateCompletion_sends hx ho hst hf he hr
  case noOutput =>
    intro s j x hx ho
    exact exec_intermediateCompletion_none hx ho
  case noReplay =>
    intro s g h
    exact exec_replayInject_idle h
  case replayEnds =>
    intro s g h
    exact exec_replayInject_ends h
  case injects =>
    intro s g n q v k hr hv hp ht hd hk
    exact exec_replayInject_injects hr hv hp ht hd hk
  case noHandles =>
    intro s g n q v hr hv hp ht hd hk
    exact exec_replayInject_noHandles hr hv hp ht hd hk
  case replayWaits =>
    intro s g n q v hr hv h
    exact exec_replayInject_waits hr hv h
  case lost =>
    intro s g n q hr hv
    exact exec_replayInject_lost hr hv

end Sys2Proof.Machine
end

section
/-! PROOFS. The job commands (R176, R311, R339, R369, R370, R376, R390, R391). -/

namespace Sys2Proof.Machine

/-! What a command carried out does: a part that completes at once is answered, and so is a refusal. -/

section
variable {s : State} {r : Req}

/-- JOB_HANDLE of a format a job may have takes a free handle, where the exponent part is empty or the format has
exponents (R176, R339). -/
theorem exec_jobHandle_takes {k : Nat} (ha : Instr.admitted (.jobHandle r) s)
    (hf : argw r 1 = 0xFF ∨ dataFormat (argw r 1) = true)
    (he : argw r 3 = 0 ∨ ∃ f, Fmt.ofCode (argw r 1) = some f ∧ f.hasExp = true) (hg : argw r 4 ≤ 3)
    (hk : s.freeHandles (srcHub r.src) 1 = some k) :
    exec (.jobHandle r) s = .next ((s.setHandle k (some
      { fmt := argw r 1, codeLen := argw r 2, expLen := argw r 3, group := argw r 4 })).answer r 0 [word k]) := by
  refine congrArg Host.Outcome.next (State.command_ok (Instr.admitted_checks rfl ha) rfl ?_)
  have hformat : ¬(argw r 1 ≠ 0xFF ∧ (!dataFormat (argw r 1)) = true) := by
    rcases hf with h | h <;> simp [h]
  rcases he with h | ⟨f, hc, h⟩
  · simp only [hformat, Nat.not_lt.2 hg, h, hk, ne_eq, not_true, and_false, or_self, if_false]
  · simp only [hformat, Nat.not_lt.2 hg, hc, h, hk, Bool.not_true, Bool.false_eq_true, false_and, or_self, if_false]

/-- JOB_FETCH of bytes within a part of a handle sends them as DATA to its session, and its reply follows (R370). -/
theorem exec_jobFetch_sends {h : Handle} {b : Hub} {n : Fin 16} {part size : Nat} {m : SMap Byte}
    (ha : Instr.admitted (.jobFetch r) s) (hh : s.handle (argw r 1) = some h) (hf : h.fmt ≠ 0xFE)
    (hp : argw r 2 = part) (hpart : part ≤ 1) (hsize : (if part = 0 then h.codeLen else h.expLen) = size)
    (hm : (if part = 0 then h.code else h.exp) = m) (hn : argw r 3 + argw r 4 ≤ size) (hs : r.src = .session b n) :
    exec (.jobFetch r) s = .next ((State.sendData
      (((List.range (argw r 4)).map fun i => mget 0 m (argw r 3 + i)).length + 1) s (sessKey b n)
      (partHeader (argw r 1) h.fmt part h.group size) (s.dataCap (sessKey b n)) (argw r 3)
      ((List.range (argw r 4)).map fun i => mget 0 m (argw r 3 + i))).answer r 0 []) := by
  refine congrArg Host.Outcome.next (State.command_ok (Instr.admitted_checks rfl ha) rfl ?_)
  simp only [hh, hf, hp, hsize, hm, hs, Nat.not_lt.2 hpart, Nat.not_lt.2 hn, or_self, if_false]

end

/-- Settles O34, by the cases of State.command: what each command's own part answers, or the code it refuses with. -/
theorem jobCommands : Obligations.Job_commands := by
  refine ⟨?plain, ?withExponents, ?badFormat, ?frees, ?inUse, ?noHandle, ?cancels, ?noTag, ?codes, ?exponents,
    ?freesMap, ?noMap, ?saves, ?restores, ?badDigest⟩
  case plain =>
    intro s r k ha hf hg he hk
    exact exec_jobHandle_takes ha hf (.inl he) hg hk
  case withExponents =>
    intro s r k f ha hf hc he hg hk
    exact exec_jobHandle_takes ha (.inr hf) (.inr ⟨f, hc, he⟩) hg hk
  case badFormat =>
    intro s r ha hobj hf
    refine congrArg Host.Outcome.next (State.command_refuse (Instr.admitted_checks rfl ha) ?_)
    simp only [hobj, hf, ne_eq, not_false_eq_true, Bool.not_false, and_self, if_true]
  case frees =>
    intro s r h ha hh hf hb ho
    refine congrArg Host.Outcome.next (State.command_ok (Instr.admitted_checks rfl ha) rfl ?_)
    simp only [hh, hf, hb, ho, ne_eq, not_true, Bool.false_eq_true, or_self, if_false]
  case inUse =>
    intro s r h ha hh hf hb
    refine congrArg Host.Outcome.next (State.command_refuse (Instr.admitted_checks rfl ha) ?_)
    simp only [hh, hf, hb, ne_eq, not_false_eq_true, true_or, if_false, if_true]
  case noHandle =>
    intro s r ha hh
    refine congrArg Host.Outcome.next (State.command_refuse (Instr.admitted_checks rfl ha) ?_)
    simp only [hh]
  case cancels =>
    intro s r ha hring hjobs
    refine congrArg Host.Outcome.next (State.command_ok (Instr.admitted_checks rfl ha) rfl ?_)
    exact (if_neg (not_not.2 hring)).trans (if_neg hjobs)
  case noTag =>
    intro s r ha hring hjobs
    refine congrArg Host.Outcome.next (State.command_refuse (Instr.admitted_checks rfl ha) ?_)
    exact (if_neg (not_not.2 hring)).trans (if_pos hjobs)
  case codes =>
    intro s r h b n ha hh hf hp hn hs
    exact exec_jobFetch_sends ha hh hf hp (by decide) rfl rfl hn hs
  case exponents =>
    intro s r h b n ha hh hf hp hn hs
    exact exec_jobFetch_sends ha hh hf hp (by decide) rfl rfl hn hs
  case freesMap =>
    intro s r ha hm hb
    refine congrArg Host.Outcome.next (State.command_ok (Instr.admitted_checks rfl ha) rfl ?_)
    have hheld : (mget none s.wk.maps (argw r 1)).isNone = false := by
      rw [← Option.not_isSome, hm, Bool.not_true]
    simp only [hheld, hb, Bool.false_eq_true, if_false]
  case noMap =>
    intro s r ha hm
    refine congrArg Host.Outcome.next (State.command_refuse (Instr.admitted_checks rfl ha) ?_)
    simp only [hm, Option.isNone_none, if_true]
  case saves =>
    intro s r h ha hring hh hf hrun hck hlen
    refine congrArg Host.Outcome.next (State.command_ok (Instr.admitted_checks rfl ha) rfl ?_)
    simp only [hring, hh, hf, hrun, hck, Nat.not_lt.2 hlen, ne_eq, not_true, Bool.false_eq_true, if_false]
  case restores =>
    intro s r bs ha hring hobj hheld hvalid hpaused hst hid hdigest
    refine congrArg Host.Outcome.next (State.command_ok (Instr.admitted_checks rfl ha) rfl ?_)
    have hmatch : ¬((!(s.ring (argw r 1)).paused) = true ∨ (s.score (s.ringScore (argw r 1))).st ≠ 4 ∨
        (s.score (s.ringScore (argw r 1))).id ≠ leAt (bs.take (leAt bs 16 8)) 8 8 ∨
        (s.score (s.ringScore (argw r 1))).digest.take 32 ≠ slice (bs.take (leAt bs 16 8)) 32 32) := by
      simp [hpaused, hst, hid, hdigest]
    simp only [hring, hobj, ne_eq, not_true, if_false]
    exact (if_neg (not_not.2 hheld)).trans ((if_neg (by simp [hvalid])).trans (if_neg hmatch))
  case badDigest =>
    intro s r bs ha hring hobj hheld hvalid
    refine congrArg Host.Outcome.next (State.command_refuse (Instr.admitted_checks rfl ha) ?_)
    simp only [hring, hobj, hheld, hvalid, ne_eq, not_true, Bool.not_false, if_false, if_true]

end Sys2Proof.Machine
end

section
/-! PROOFS. The ring commands (R194, R333, R334, R344, R368, R371, R377, R397). -/

namespace Sys2Proof.Machine

/-! What an acknowledgement and an audit entry leave of the rings. -/

/-- The register of a ring is in neither the mailbox nor the ledger block of its hub (R316). -/
theorem calm_ringReg {k : Nat} (hk : k < 4096) : calm (ringReg k) = true := by
  have block : ringReg k / 65536 % 65536 = 3 := by
    simp only [ringReg, hubBase]
    omega
  simp [calm, block]

namespace State.Beside
variable {s t : State} (h : s.Beside t)
include h

theorem score (slot : Nat) : t.score slot = s.score slot := by simp only [State.score, h.wk]

theorem ring (k : Nat) : t.ring k = s.ring k := by simp only [State.ring, h.wk]

theorem held (k : Nat) : t.held k = s.held k := by simp only [State.held, h.ring]

theorem runningOf (k : Nat) : t.runningOf k = s.runningOf k := by
  simp only [State.runningOf, State.jstate, State.job, h.ring, h.wk]

theorem ringW {k : Nat} (hk : k < 4096) : t.ringW k = s.ringW k := h.regs _ (calm_ringReg hk)

theorem ringDepth {k : Nat} (hk : k < 4096) : t.ringDepth k = s.ringDepth k := by
  simp only [State.ringDepth, h.ringW hk]

theorem ringSess {k : Nat} (hk : k < 4096) : t.ringSess k = s.ringSess k := by
  simp only [State.ringSess, h.ringW hk]

theorem ringList : t.ringList = s.ringList :=
  List.filter_congr fun k hm => by rw [h.ringDepth (List.mem_range.1 hm)]

/-- The depths that the rings hold together (R333). -/
theorem depths : t.ringList.map t.ringDepth = s.ringList.map s.ringDepth := by
  rw [h.ringList]
  exact List.map_congr_left fun k hk => h.ringDepth (List.mem_range.1 (List.mem_filter.1 hk).1)

theorem ringCode (k : Nat) : t.ringCode k = s.ringCode k := by
  unfold State.ringCode
  split
  · rfl
  · rw [h.ringDepth (Nat.not_le.1 ‹_›)]

end State.Beside

/-- A number that names a ring is below 4096 (R333). -/
theorem State.ringCode_zero_lt {s : State} {k : Nat} (h : s.ringCode k = 0) : k < 4096 := by
  refine Nat.not_le.1 fun hk => ?_
  rw [State.ringCode, if_pos hk] at h
  exact absurd h (by decide)

/-! Commands of a number that names no ring, and the two whose audit entry is written. -/

/-- A command whose own part begins with the check of its ring number refuses with that check's code. -/
theorem State.command_noRing {s : State} {r : Req} {c : Cmd} {i : Instr} {body : State → Res} {rest : Res}
    (e : commandOf i = some (r, c)) (ha : Instr.admitted i s) (hc : s.ringCode (argw r 1) ≠ 0)
    (hb : body s = if s.ringCode (argw r 1) ≠ 0 then .refuse (s.ringCode (argw r 1)) else rest) :
    s.command c r body = s.answer r (s.ringCode (argw r 1)) [] :=
  State.command_refuse (Instr.admitted_checks e ha) (hb.trans (if_pos hc))

section
variable {s : State} {r : Req}

/-- RING_CFG with its arguments in range, of a score that is loaded, and of a new ring that is neither attached nor in
use, takes the history context that is free (R194, R333). -/
theorem exec_ringCfg_configures {c : Nat} (ha : Instr.admitted (.ringCfg r) s) (hl : s.takesEntry)
    (hk : argw r 1 < 4096)
    (hargs : ¬(argw r 2 < 1 ∨ 1024 < argw r 2 ∨ argw r 3 < 1 ∨ 16 < argw r 3 ∨ 64 ≤ argw r 4))
    (hst : (s.score (argw r 4)).st = 4) (hfree : ¬((s.ringSess (argw r 1)).isSome = true ∨ s.held (argw r 1) ≠ 0))
    (hnew : s.ringDepth (argw r 1) = 0) (hsum : nsum (s.ringList.map s.ringDepth) + argw r 2 ≤ 65536)
    (hc : (s.score (argw r 4)).freeCtx = some c) (hplain : argw r 5 = 0) :
    exec (.ringCfg r) s =
      let u := Instr.entered (.ringCfg r) s
      let v := ((u.setScore (argw r 4) { u.score (argw r 4) with ctxs := (u.score (argw r 4)).ctxs ++ [c] }).setRing
        (argw r 1) { ctx := c }).setRegN (ringReg (argw r 1))
          (argw r 2 + (argw r 3 - 1) * 2 ^ 11 + argw r 4 * 2 ^ 22)
      .next ((v.resetCtx (argw r 4) c false).finish r 0 []) := by
  have k := Instr.entered_beside (.ringCfg r) s
  refine congrArg Host.Outcome.next
    (State.command_c_ok (i := .ringCfg r) (Instr.admitted_checks rfl ha) rfl rfl hl ?_ ?_)
  all_goals
    simp only [k.score, k.ringSess hk, k.held, k.ringDepth hk, k.depths, Nat.not_le.2 hk, hargs, hst, hfree, hnew,
      Nat.not_lt.2 hsum, hc, hplain, OfNat.ofNat_ne_zero, Nat.reduceBEq, b2n, Bool.false_eq_true, Nat.zero_mul,
      Nat.add_zero, ne_eq, not_true, if_false, if_true]
  exact nofun

/-- RING_DELETE of a ring that is neither attached nor in use removes it once its audit entry is made (R368, R371). -/
theorem exec_ringDelete_removes (ha : Instr.admitted (.ringDelete r) s) (hl : s.takesEntry)
    (hk : s.ringCode (argw r 1) = 0) (hfree : ¬((s.ringSess (argw r 1)).isSome = true ∨ s.held (argw r 1) ≠ 0)) :
    exec (.ringDelete r) s =
      .next (((Instr.entered (.ringDelete r) s).deleteRing (argw r 1)).finish r 0 []) := by
  have k := Instr.entered_beside (.ringDelete r) s
  refine congrArg Host.Outcome.next
    (State.command_c_ok (i := .ringDelete r) (Instr.admitted_checks rfl ha) rfl rfl hl ?_ ?_)
  all_goals
    simp only [k.ringCode, k.ringSess (State.ringCode_zero_lt hk), k.held, hk, hfree, ne_eq, not_true, if_false]
  exact nofun

end

/-- Settles O33, by the cases of State.command: what each command's own part answers, the code it refuses with, or that
its reply comes later. -/
theorem ringCommands : Obligations.Ring_commands := by
  refine ⟨?configures, ?emptySlot, ?ringInUse, ?attaches, ?attached, ?attachCode, ?detachCode, ?pauseCode, ?resumeCode,
    ?hresetCode, ?statCode, ?cancelCode, ?ckptCode, ?restoreCode, ?detaches, ?notMine, ?pauses, ?pausesLater, ?resumes,
    ?replaying, ?resets, ?resetsLater, ?stat, ?deletes, ?inUse⟩
  case configures =>
    intro s r c ha hl hk _ hd hd' hw hw' hslot hst hsess hheld hnew hsum hc hplain
    exact exec_ringCfg_configures ha hl hk (by omega) hst (by simp [hsess, hheld]) hnew hsum hc hplain
  case emptySlot =>
    intro s r ha hk _ hd hd' hw hw' hslot hst
    have hargs : ¬(argw r 2 < 1 ∨ 1024 < argw r 2 ∨ argw r 3 < 1 ∨ 16 < argw r 3 ∨ 64 ≤ argw r 4) := by omega
    refine congrArg Host.Outcome.next (State.command_refuse (Instr.admitted_checks rfl ha) ?_)
    simp only [Nat.not_le.2 hk, hargs, hst, if_false, if_true]
  case ringInUse =>
    intro s r ha hk _ hd hd' hw hw' hslot hst huse
    have hargs : ¬(argw r 2 < 1 ∨ 1024 < argw r 2 ∨ argw r 3 < 1 ∨ 16 < argw r 3 ∨ 64 ≤ argw r 4) := by omega
    refine congrArg Host.Outcome.next (State.command_refuse (Instr.admitted_checks rfl ha) ?_)
    simp only [Nat.not_le.2 hk, hargs, hst, OfNat.ofNat_ne_zero, ne_eq, not_true, if_false]
    exact if_pos huse
  case attaches =>
    intro s r h n ha hk hsess hsrc
    refine congrArg Host.Outcome.next (State.command_ok (Instr.admitted_checks rfl ha) rfl ?_)
    simp only [hk, hsess, hsrc, ne_eq, not_true, Option.isSome_none, Bool.false_eq_true, if_false]
  case attached =>
    intro s r ha hk hsess
    refine congrArg Host.Outcome.next (State.command_refuse (Instr.admitted_checks rfl ha) ?_)
    simp only [hk, hsess, ne_eq, not_true, if_false, if_true]
  case attachCode | detachCode | pauseCode | resumeCode | hresetCode | statCode | cancelCode | ckptCode | restoreCode =>
    intro s r ha hk
    exact congrArg Host.Outcome.next (State.command_noRing rfl ha hk rfl)
  case detaches =>
    intro s r h n ha hk hsrc hsess
    refine congrArg Host.Outcome.next (State.command_ok (Instr.admitted_checks rfl ha) rfl ?_)
    simp only [hk, hsrc, hsess, ne_eq, not_true, beq_self_eq_true, Bool.not_true, Bool.false_eq_true, if_false]
  case notMine =>
    intro s r h n ha hk hsrc hsess
    refine congrArg Host.Outcome.next (State.command_refuse (Instr.admitted_checks rfl ha) ?_)
    simp only [hk, hsrc, beq_eq_false_iff_ne.2 hsess, ne_eq, not_true, Bool.not_false, if_false, if_true]
  case pauses =>
    intro s r ha hk hrun
    refine congrArg Host.Outcome.next (State.command_ok (Instr.admitted_checks rfl ha) rfl ?_)
    simp only [hk, hrun, ne_eq, not_true, if_false, if_true]
  case pausesLater =>
    intro s r ha hk hrun
    have k := State.Beside.ackPending s r
    refine congrArg Host.Outcome.next (State.command_pend (Instr.admitted_checks rfl ha) rfl rfl
      ((if_neg (not_not.2 hk)).trans (if_neg hrun)) ?_)
    simp only [k.ringCode, k.runningOf, hk, hrun, ne_eq, not_true, if_false]
  case resumes =>
    intro s r ha hk hreplay
    refine congrArg Host.Outcome.next (State.command_ok (Instr.admitted_checks rfl ha) rfl ?_)
    simp only [hk, hreplay, ne_eq, not_true, Option.isSome_none, Bool.false_eq_true, if_false]
  case replaying =>
    intro s r ha hk hreplay
    refine congrArg Host.Outcome.next (State.command_refuse (Instr.admitted_checks rfl ha) ?_)
    simp only [hk, hreplay, ne_eq, not_true, if_false, if_true]
  case resets =>
    intro s r ha hk hrun
    refine congrArg Host.Outcome.next (State.command_ok (Instr.admitted_checks rfl ha) rfl ?_)
    simp only [hk, hrun, ne_eq, not_true, if_false]
  case resetsLater =>
    intro s r ha hk hrun
    have k := State.Beside.ackPending s r
    refine congrArg Host.Outcome.next (State.command_pend (Instr.admitted_checks rfl ha) rfl rfl
      ((if_neg (not_not.2 hk)).trans (if_pos hrun)) ?_)
    simp only [k.ringCode, k.runningOf, hk, hrun, ne_eq, not_true, not_false_eq_true, if_false, if_true]
  case stat =>
    intro s r ha hk
    refine congrArg Host.Outcome.next (State.command_ok (Instr.admitted_checks rfl ha) rfl ?_)
    exact if_neg (not_not.2 hk)
  case deletes =>
    intro s r ha hl hk hsess hheld
    exact exec_ringDelete_removes ha hl hk (by simp [hsess, hheld])
  case inUse =>
    intro s r ha hk huse
    refine congrArg Host.Outcome.next (State.command_refuse (Instr.admitted_checks rfl ha) ?_)
    exact (if_neg (not_not.2 hk)).trans (if_pos huse)

end Sys2Proof.Machine
end

section
/-! PROOFS. Carries, forwarded strokes, activations, maxima, records and acknowledgements that arrive. -/

namespace Sys2Proof.Machine

/-- A packet of one destination reaches that board alone (R274). -/
theorem State.reached_one (s : State) {p : Pkt} (h : p.mc = false ∨ p.member.isSome = true) :
    s.reached p = [pktDst p] := by
  have hone : (p.mc && p.member.isNone) = false := by
    rcases h with h | h
    · rw [h, Bool.false_and]
    · rw [Option.isNone_eq_false_iff.2 h, Bool.and_false]
  rw [State.reached, hone, if_neg Bool.false_ne_true]

/-- A frame's queue with the stroke of a packet at its end (R283). -/
def State.queueForwarded (s : State) (fk : Nat) (p : Pkt) : State :=
  s.setFrame fk { s.frame fk with queue := (s.frame fk).queue ++ [s.forwarded fk p] }

/-- What an ACT does at one board: it is stored where it passes the epoch test and counted where it fails it (R286). -/
def State.actAt (p : Pkt) (s : State) (k : Nat) : State :=
  if s.epochAt k p then s.actStore k p else s.bump (bkBase k + 0x4608C) 1

/-- The state after an ACK: the packet that it answers is off the list of those that wait for one (R270). -/
def State.acked (s : State) (p : Pkt) : State :=
  { s with fb.acks := s.fb.acks.eraseP fun x => pktSrc x == pktDst p && pktDst x == pktSrc p && x.job == p.job &&
      x.step == p.step && x.addr == p.addr && x.type == p.ordinal }

/-- The maximum that an AMAX brings, not a number where the mark of its value is clear (R199). -/
def maxOf (p : Pkt) : FV :=
  if leAt p.payload 2 1 % 2 = 0 then .nan false else .fin false (leAt p.payload 8 8) (signed 16 (leAt p.payload 16 2))

/-- The stream step that an AMAX speaks of, with its maximum in place of an earlier one of the same source (R199). -/
def State.withMax (s : State) (p : Pkt) : StreamStep :=
  let key := s.strKey (pktDst p) (leAt p.payload 0 1) { step := p.step }
  let y : StreamStep :=
    ((s.board (pktDst p)).strm.find? (isStep (leAt p.payload 0 1) (leAt p.payload 1 1) p.job key)).getD
      { n := leAt p.payload 0 1, ctx := leAt p.payload 1 1, job := p.job, step := key }
  { y with got := y.got.filter (fun g => g.1 != pktSrc p) ++ [(pktSrc p, maxOf p)] }

/-- A maximum joined to its stream step, which settles where it was the last one awaited (R199). -/
def State.joinMax (s : State) (p : Pkt) : State :=
  (s.putStrm (pktDst p) (s.withMax p)).settleStrm (pktDst p) (s.withMax p)

section
variable {s : State} {p : Pkt} (o : s.outOfTurn p = false) (h : s.unroutable p = false) (hb : badPkt p = false)
include o h hb

theorem exec_carryPacket_sound :
    exec (.carryPacket p) s = .next ((s.arrive p).takeCarry (pktDst p) { p with skind := false }) := by
  show execCarryPacket p s = _
  simp only [execCarryPacket, State.accept_sound o h hb]

theorem exec_scarryPacket_sound :
    exec (.scarryPacket p) s = .next ((s.arrive p).takeCarry (pktDst p) { p with skind := true }) := by
  show execScarryPacket p s = _
  simp only [execScarryPacket, State.accept_sound o h hb]

/-- A forwarded stroke joins the queue of a frame that exists and is not held in reset (R68, R283). -/
theorem exec_sfwdPacket_sound :
    exec (.sfwdPacket p) s =
      let fk := 34 * pktDst p + leAt p.payload 0 1 % 64
      if 34 ≤ leAt p.payload 0 1 % 64 ∨ !(s.arrive p).awakeFrame fk then .next (s.arrive p)
      else .next ((s.arrive p).queueForwarded fk p) := by
  show execSfwdPacket p s = _
  simp only [execSfwdPacket, State.accept_sound o h hb]
  rfl

/-- An ACT is tested at every board it reaches, and acknowledged (R270, R286). -/
theorem exec_actPacket_sound :
    exec (.actPacket p) s =
      .next ((((s.arrive p).reached p).foldl (State.actAt p) (s.arrive p)).ackPacket p) := by
  show execActPacket p s = _
  simp only [execActPacket, State.accept_sound o h hb]
  rfl

/-- An ACT of one destination is tested there alone. -/
theorem exec_actPacket_one (hone : p.mc = false ∨ p.member.isSome = true) :
    exec (.actPacket p) s = .next (((s.arrive p).actAt p (pktDst p)).ackPacket p) := by
  rw [exec_actPacket_sound o h hb, State.reached_one _ hone, List.foldl_cons, List.foldl_nil]

/-- An AMAX joins its maximum to its stream step (R199). -/
theorem exec_amaxPacket_sound :
    exec (.amaxPacket p) s = .next ((s.arrive p).joinMax p) := by
  show execAmaxPacket p s = _
  simp only [execAmaxPacket, State.accept_sound o h hb]
  rfl

/-- A switch record for a hub takes the place of the hub's record of the same source, and is acknowledged (R286). -/
theorem exec_switchPacket_hub (hd : 32 ≤ p.dstNode) :
    exec (.switchPacket p) s = .next
      ({ s.arrive p with fb.recs := ((s.arrive p).fb.recs.filter fun (r : Nat × Nat × Nat × Nat × Bool) =>
          !(r.1 == p.dstNode - 32 && r.2.1 == leAt p.payload 0 2 % 8192)) ++
        [(p.dstNode - 32, leAt p.payload 0 2 % 8192, leAt p.payload 2 2, leAt p.payload 8 6,
          leAt p.payload 4 1 % 2 == 1)] }.ackPacket p) := by
  show execSwitchPacket p s = _
  simp only [execSwitchPacket, State.accept_sound o h hb, Nat.not_lt.2 hd, if_false]

/-- A switch record for a board is acknowledged once it has a place there (R286). -/
theorem exec_switchPacket_board {u : State} (hd : p.dstNode < 32)
    (hu : (s.arrive p).putRec (pktDst p) (leAt p.payload 0 2 % 8192) (leAt p.payload 2 2) (leAt p.payload 8 6)
      (leAt p.payload 4 1 % 2 == 1) = some u) :
    exec (.switchPacket p) s = .next (u.ackPacket p) := by
  show execSwitchPacket p s = _
  simp only [execSwitchPacket, State.accept_sound o h hb, hd, hu, if_true]

/-- A board whose places are all taken answers a switch record with nothing. -/
theorem exec_switchPacket_noRoom (hd : p.dstNode < 32)
    (hu : (s.arrive p).putRec (pktDst p) (leAt p.payload 0 2 % 8192) (leAt p.payload 2 2) (leAt p.payload 8 6)
      (leAt p.payload 4 1 % 2 == 1) = none) :
    exec (.switchPacket p) s = .next (s.arrive p) := by
  show execSwitchPacket p s = _
  simp only [execSwitchPacket, State.accept_sound o h hb, hd, hu, if_true]

/-- The packet that an ACK answers waits no longer; the ACK of a switch record counts towards its switch (R270, R287). -/
theorem exec_ackPacket_sound :
    exec (.ackPacket p) s =
      .next (if p.ordinal = 9 then ((s.arrive p).acked p).ackSwitch p.addr else (s.arrive p).acked p) := by
  show execAckPacket p s = _
  simp only [execAckPacket, State.accept_sound o h hb]
  rfl

end

/-- The oldest held carry goes to the tally side once an entry is free (R284). -/
theorem exec_carryRetry_takes {s : State} {d : Die} {b : Brd} {p : Pkt} {r : List Pkt}
    (hheld : (s.board (boardKey d b)).heldC = p :: r) (hfree : (s.board (boardKey d b)).keys.length < 8192) :
    exec (.carryRetry d b) s = .next ((s.setBoard (boardKey d b)
      { s.board (boardKey d b) with heldC := r }).takeCarry (boardKey d b) p) := by
  show execCarryRetry d b s = _
  simp only [execCarryRetry, hheld, Nat.not_le.2 hfree, if_false]

/-- Settles O16: a sound packet in its turn is accepted (State.accept_sound), and its own meaning follows, by the checks
it passes or fails at its destination. -/
theorem packetsThatCarryWork : Obligations.Packets_that_carry_work := by
  refine ⟨?carry, ?strokeCarry, ?heldCarry, ?forwards, ?inReset, ?noFrame, ?actPasses, ?actReaches, ?actFails, ?maximum,
    ?hubRecord, ?boardRecord, ?noRoom, ?acks, ?acksSwitch⟩
  case carry =>
    intro s p o h hb
    exact exec_carryPacket_sound o h hb
  case strokeCarry =>
    intro s p o h hb
    exact exec_scarryPacket_sound o h hb
  case heldCarry =>
    intro s d b p r hheld hfree
    exact exec_carryRetry_takes hheld hfree
  case forwards =>
    intro s p o h hb hf hawake
    refine (exec_sfwdPacket_sound o h hb).trans (if_neg ?_)
    simp [hf, hawake]
  case inReset =>
    intro s p o h hb hasleep
    refine (exec_sfwdPacket_sound o h hb).trans (if_pos (.inr ?_))
    rw [hasleep, Bool.not_false]
  case noFrame =>
    intro s p o h hb hf
    exact (exec_sfwdPacket_sound o h hb).trans (if_pos (.inl hf))
  case actPasses =>
    intro s p o h hb hone hepoch
    rw [exec_actPacket_one o h hb hone, State.actAt, if_pos hepoch]
  case actReaches =>
    intro s p o h hb
    exact exec_actPacket_sound o h hb
  case actFails =>
    intro s p o h hb hone hepoch
    rw [exec_actPacket_one o h hb hone, State.actAt, if_neg (Bool.eq_false_iff.1 hepoch)]
  case maximum =>
    intro s p o h hb
    exact exec_amaxPacket_sound o h hb
  case hubRecord =>
    intro s p o h hb hd
    exact exec_switchPacket_hub o h hb hd
  case boardRecord =>
    intro s p u o h hb hd hu
    exact exec_switchPacket_board o h hb hd hu
  case noRoom =>
    intro s p o h hb hd hu
    exact exec_switchPacket_noRoom o h hb hd hu
  case acks =>
    intro s p o h hb ho
    rw [exec_ackPacket_sound o h hb, if_neg ho]
    rfl
  case acksSwitch =>
    intro s p o h hb ho
    rw [exec_ackPacket_sound o h hb, if_pos ho, State.acked, ho]

end Sys2Proof.Machine
end

section
/-! PROOFS. The issue of an instruction, SEQ_CTL, step starts and the begin of a step. -/

namespace Sys2Proof.Machine

/-! Issue (R211, R212, R220, R240, R241). -/

/-- The scoreboard entry of the instruction at a board's pc. -/
def State.issueEntry (s : State) (bk : Nat) (c : StepCtx) : SbEntry :=
  let x := s.board bk
  let w := s.instr bk x.pc
  let pt := mget 0 x.captStroke (captKey c (tf w 0 16 6))
  { id := x.nextId, pc := x.pc, word := w, ctx := c, unit := unitOf w,
    seq0 := if topc w = 1 then x.q else x.base, capt := if topc w == 1 && pt != 0 then some (pt - 1) else none }

/-- A board that has issued the instruction at its pc. -/
def State.issuedBoard (s : State) (bk : Nat) (c : StepCtx) : Board :=
  let x := s.board bk
  let w := s.instr bk x.pc
  let k := captKey c (tf w 0 16 6)
  { x with
    sb := x.sb ++ [s.issueEntry bk c], nextId := x.nextId + 1, pc := x.pc + 1, statPc := x.pc,
    q := (x.q + strokesOf w) % 2 ^ 48,
    captStroke := if topc w == 1 && mget 0 x.captStroke k != 0 then mput 0 x.captStroke k 0 else x.captStroke }

/-- The state after an issue, the instruction counted. -/
def State.issued (s : State) (bk : Nat) (c : StepCtx) : State :=
  (s.setBoard bk (s.issuedBoard bk c)).bump (bkBase bk + 0x40080) 1

theorem State.board_bump (s : State) (a n k : Nat) : (s.bump a n).board k = s.board k := rfl

theorem State.board_issued (s : State) (bk : Nat) (c : StepCtx) : (s.issued bk c).board bk = s.issuedBoard bk c := by
  rw [State.issued, State.board_bump, State.board_setBoard]

theorem State.board_issued_ne (s : State) {bk k : Nat} (c : StepCtx) (h : k ≠ bk) :
    (s.issued bk c).board k = s.board k := by
  rw [State.issued, State.board_bump, State.board_setBoard_ne s bk k _ h]

theorem State.reg_issued_ne (s : State) {bk a : Nat} (c : StepCtx) (h : a ≠ bkBase bk + 0x40080) :
    (s.issued bk c).reg a = s.reg a := by
  rw [State.issued, State.reg_bump_ne _ _ _ _ h]
  rfl

theorem State.mem_issued (s : State) (bk : Nat) (c : StepCtx) : (s.issued bk c).mem = s.mem := by
  rw [State.issued, State.bump_mem, State.setBoard_mem]

theorem State.frames_issued (s : State) (bk : Nat) (c : StepCtx) : (s.issued bk c).frames = s.frames := by
  rw [State.issued, State.bump_frames, State.setBoard_frames]

section
variable {s : State} {d : Die} {b : Brd} {c : StepCtx} (hc : (s.board (boardKey d b)).cur = some c)
  (hf : (s.board (boardKey d b)).failed = false) (hz : s.frozen = false) (hd : s.dead c = false)
  (hq : ((s.board (boardKey d b)).sb.any fun e => decide (e.unit = .seq)) = false)
include hc hf hz hd hq

/-- A running step whose board holds no instruction of the sequencer meets the checks of its next one in turn. -/
theorem exec_instructionIssue_running :
    exec (.instructionIssue d b) s =
      let bk := boardKey d b
      let x := s.board bk
      let w := s.instr bk x.pc
      if x.ninstr ≤ x.pc ∨ 1024 ≤ x.pc ∨ s.illegal bk x.pc w then .next (s.boardFault bk 1 x.pc c.job)
      else if s.outside bk (s.ranges bk w c.capture) then .next (s.boardFault bk 2 x.pc c.job)
      else if s.blocked bk w c then .next (s.bump (bkBase bk + 0x40084) 1)
      else .next (s.issued bk c) := by
  show execInstructionIssue d b s = _
  simp only [execInstructionIssue, State.issued, State.issuedBoard, State.issueEntry, hc, hf, hz, hd, hq,
    Bool.false_eq_true, or_self, if_false]

theorem exec_instructionIssue_illegal
    (h : (s.board (boardKey d b)).ninstr ≤ (s.board (boardKey d b)).pc ∨ 1024 ≤ (s.board (boardKey d b)).pc ∨
      s.illegal (boardKey d b) (s.board (boardKey d b)).pc (s.instr (boardKey d b) (s.board (boardKey d b)).pc) =
        true) :
    exec (.instructionIssue d b) s =
      .next (s.boardFault (boardKey d b) 1 (s.board (boardKey d b)).pc c.job) := by
  rw [exec_instructionIssue_running hc hf hz hd hq]
  exact if_pos h

variable (hn : (s.board (boardKey d b)).pc < (s.board (boardKey d b)).ninstr) (hm : (s.board (boardKey d b)).pc < 1024)
  (hl : s.illegal (boardKey d b) (s.board (boardKey d b)).pc (s.instr (boardKey d b) (s.board (boardKey d b)).pc) =
    false)
include hn hm hl

/-- A legal instruction meets the checks of its bounds and of the earlier ones. -/
theorem exec_instructionIssue_legal :
    exec (.instructionIssue d b) s =
      let bk := boardKey d b
      let x := s.board bk
      let w := s.instr bk x.pc
      if s.outside bk (s.ranges bk w c.capture) then .next (s.boardFault bk 2 x.pc c.job)
      else if s.blocked bk w c then .next (s.bump (bkBase bk + 0x40084) 1)
      else .next (s.issued bk c) := by
  rw [exec_instructionIssue_running hc hf hz hd hq]
  refine if_neg ?_
  rintro (h | h | h)
  · exact Nat.not_le.2 hn h
  · exact Nat.not_le.2 hm h
  · exact Bool.false_ne_true (hl.symm.trans h)

end

/-- Settles O8: a running step meets the checks of its next instruction in turn, and one that passes them all is issued;
what the issue leaves unchanged is what the rules of the board and of the counter leave. -/
theorem instructionIssue : Obligations.Instruction_issue := by
  refine ⟨?issues, ?illegal, ?outside, ?stalls⟩
  case issues =>
    intro s d b c hc hf hz hd hq hn hm hl ho hb
    refine ⟨s.issued (boardKey d b) c, ?_, ?_⟩
    · rw [exec_instructionIssue_legal hc hf hz hd hq hn hm hl]
      simp only [ho, hb, Bool.false_eq_true, if_false]
    · rw [State.board_issued]
      exact ⟨⟨s.issueEntry (boardKey d b) c, rfl, rfl, rfl, rfl, rfl⟩, rfl, rfl, s.mem_issued _ c,
        s.frames_issued _ c, fun k hk => s.board_issued_ne c hk, fun a ha => s.reg_issued_ne c ha⟩
  case illegal =>
    intro s d b c hc hf hz hd hq h
    exact exec_instructionIssue_illegal hc hf hz hd hq h
  case outside =>
    intro s d b c hc hf hz hd hq hn hm hl ho
    rw [exec_instructionIssue_legal hc hf hz hd hq hn hm hl]
    exact if_pos ho
  case stalls =>
    intro s d b c hc hf hz hd hq hn hm hl ho hb
    rw [exec_instructionIssue_legal hc hf hz hd hq hn hm hl]
    simp only [ho, hb, Bool.false_eq_true, if_false, if_true]

/-! Control and step starts (R210, R486). -/

/-- The STEP packet under way to a board for a step of a job. -/
def State.startPacket (s : State) (bk : Nat) (c : StepCtx) : Option Pkt :=
  s.fb.net.find? fun p => p.type == 7 && pktDst p == bk && p.job == c.job && p.step == c.step

/-- A step start at a board: discarded where the board holds the step or its job is dead, else queued (R242, R486). -/
def State.queueStep (s : State) (bk : Nat) (c : StepCtx) : State :=
  if (s.board bk).holds c.job c.step ∨ s.dead c then s
  else s.setBoard bk { s.board bk with steps := (s.board bk).steps ++ [c] }

theorem State.queueStep_new {s : State} {bk : Nat} {c : StepCtx} (hh : (s.board bk).holds c.job c.step = false)
    (hd : s.dead c = false) :
    s.queueStep bk c = s.setBoard bk { s.board bk with steps := (s.board bk).steps ++ [c] } := by
  refine if_neg ?_
  rw [hh, hd]
  exact fun h => h.elim nofun nofun

section
variable {s : State} {d : Die} {b : Brd}

theorem exec_seqCtlRun_running (h : (s.board (boardKey d b)).halted = false) :
    exec (.seqCtlRun d b) s =
      .next (s.setBoard (boardKey d b) { s.board (boardKey d b) with halted := false, up := true }) := by
  show execSeqCtlRun d b s = _
  simp only [execSeqCtlRun, h, Bool.false_eq_true, if_false]

/-- Run at a halted sequencer puts the shadowed registers of the board in force (R207). -/
theorem exec_seqCtlRun_halted (h : (s.board (boardKey d b)).halted = true) :
    exec (.seqCtlRun d b) s = .next ((s.commitBoard (boardKey d b)).setBoard (boardKey d b)
      { (s.commitBoard (boardKey d b)).board (boardKey d b) with halted := false, up := true }) := by
  show execSeqCtlRun d b s = _
  simp only [execSeqCtlRun, h, if_true]

theorem exec_stepStart_given {c : StepCtx} (hp : s.startPacket (boardKey d b) c = none) :
    exec (.stepStart d b c) s = .next (s.queueStep (boardKey d b) c) := by
  show execStepStart d b c s = _
  rw [State.startPacket] at hp
  simp only [execStepStart, hp]
  rfl

/-- The context of a STEP packet under way takes the place of the one given. -/
theorem exec_stepStart_packet {c : StepCtx} {p : Pkt} (hp : s.startPacket (boardKey d b) c = some p) :
    exec (.stepStart d b c) s = .next ((s.arrive p).queueStep (boardKey d b) (ctxOfPkt p)) := by
  show execStepStart d b c s = _
  rw [State.startPacket] at hp
  simp only [execStepStart, hp]
  rfl

theorem exec_seqBeginStep_begins {c : StepCtx} {r : List StepCtx} (hs : (s.board (boardKey d b)).steps = c :: r)
    (hh : (s.board (boardKey d b)).halted = false) (hf : (s.board (boardKey d b)).failed = false)
    (hc : (s.board (boardKey d b)).cur = none) (hz : s.frozen = false) (hw : s.copyWait (boardKey d b) = false)
    (hp : s.pastSwitch (boardKey d b) = false) (hd : s.dead c = false) :
    exec (.seqBeginStep d b) s = .next (s.setBoard (boardKey d b)
      { s.board (boardKey d b) with
        steps := r, cur := some c, pc := fld (s.breg (boardKey d b) 0x40010) 0 10, loops := [],
        base := (s.board (boardKey d b)).q,
        bases := mput 0 (s.board (boardKey d b)).bases (stepKey c) (s.board (boardKey d b)).q,
        lastDone := (s.board (boardKey d b)).lastDone ++ [(c.job, c.step, s.now)] }) := by
  show execSeqBeginStep d b s = _
  simp only [execSeqBeginStep, hs, hh, hf, hc, hz, hw, hp, hd, Option.isSome_none, Bool.false_eq_true,
    or_self, if_false]

theorem exec_seqBeginStep_waits (h : (s.board (boardKey d b)).steps = [] ∨ (s.board (boardKey d b)).halted = true ∨
    (s.board (boardKey d b)).failed = true ∨ (s.board (boardKey d b)).cur.isSome = true ∨ s.frozen = true) :
    exec (.seqBeginStep d b) s = .next s := by
  show execSeqBeginStep d b s = _
  cases hs : (s.board (boardKey d b)).steps with
  | nil => simp only [execSeqBeginStep, hs]
  | cons c r =>
    have hwait : (s.board (boardKey d b)).halted = true ∨ (s.board (boardKey d b)).failed = true ∨
        (s.board (boardKey d b)).cur.isSome = true ∨ s.frozen = true := h.resolve_left (by simp [hs])
    simp only [execSeqBeginStep, hs]
    refine if_pos ?_
    tauto

end

/-- Settles O7: the writes of SEQ_CTL by the sequencer's hold, a step start by the packet that carries it, the begin of
a step by what the board waits for. -/
theorem sequencerControl : Obligations.Sequencer_control := by
  refine ⟨?run, ?runHeld, fun _ _ _ => rfl, fun _ _ _ => rfl, ?queued, ?discarded, ?carried, ?begins, ?waits⟩
  case run =>
    intro s d b h
    exact exec_seqCtlRun_running h
  case runHeld =>
    intro s d b h
    exact exec_seqCtlRun_halted h
  case queued =>
    intro s d b c hp hh hd
    rw [exec_stepStart_given hp, State.queueStep_new hh hd]
  case discarded =>
    intro s d b c hp h
    rw [exec_stepStart_given hp, State.queueStep, if_pos h]
  case carried =>
    intro s d b c p hp hh hd
    rw [exec_stepStart_packet hp, State.queueStep_new hh hd]
  case begins =>
    intro s d b c r hs hh hf hc hz hw hp hd
    exact exec_seqBeginStep_begins hs hh hf hc hz hw hp hd
  case waits =>
    intro s d b h
    exact exec_seqBeginStep_waits h

end Sys2Proof.Machine
end

section
/-! PROOFS. The sequencer's own instructions: WAITRK, LOOP, END, STEP and CAPT. -/

namespace Sys2Proof.Machine

/-! WAITRK and END (R239). -/

section
variable {s : State} {d : Die} {b : Brd} {e : SbEntry}

theorem exec_waitrk (he : s.seqHead (boardKey d b) 0x0B = some e) :
    exec (.waitrk d b) s = .next (if waitTarget e ≤ s.rkAt d then s.finishEntry (boardKey d b) e
      else s.setBoard (boardKey d b) { s.board (boardKey d b) with waitRk := some (waitTarget e) }) := by
  show execWaitrk d b s = _
  simp only [execWaitrk, he]
  split <;> rfl

theorem exec_waitrkRelease {n : Nat} (he : s.seqHead (boardKey d b) 0x0B = some e)
    (hn : (s.board (boardKey d b)).waitRk = some n) :
    exec (.waitrkRelease d b) s = .next (if n ≤ s.rkAt d
      then (s.setBoard (boardKey d b) { s.board (boardKey d b) with waitRk := none }).finishEntry (boardKey d b) e
      else s) := by
  show execWaitrkRelease d b s = _
  simp only [execWaitrkRelease, he, hn]
  split <;> rfl

theorem exec_endProg (he : s.seqHead (boardKey d b) 0x0F = some e) :
    exec (.endProg d b) s = .next ((s.setBoard (boardKey d b)
      { s.board (boardKey d b) with
        cur := none, endPend := (s.board (boardKey d b)).endPend ++ [e.ctx] }).finishEntry (boardKey d b) e) := by
  show execEndProg d b s = _
  simp only [execEndProg, he]

end

/-! LOOP (R239). -/

/-- A board after a LOOP: a jump of the innermost loop, its end, or a loop entered inside the others. -/
def Board.looped (x : Board) (e : SbEntry) : Board :=
  let target := tf e.word 0 16 10
  let count := tf e.word 1 0 16
  match x.loops with
  | (pc, n) :: r =>
    if pc = e.pc then (if n = 0 then { x with loops := r } else { x with loops := (pc, n - 1) :: r, pc := target })
    else if count = 0 then x else { x with loops := (e.pc, count - 1) :: x.loops, pc := target }
  | [] => if count = 0 then x else { x with loops := [(e.pc, count - 1)], pc := target }

theorem exec_loop {s : State} {d : Die} {b : Brd} {e : SbEntry} (he : s.seqHead (boardKey d b) 0x0E = some e) :
    exec (.loop d b) s =
      .next ((s.setBoard (boardKey d b) ((s.board (boardKey d b)).looped e)).finishEntry (boardKey d b) e) := by
  show execLoop d b s = _
  simp only [execLoop, he]
  rfl

section
variable {x : Board} {e : SbEntry}

/-- A LOOP with jumps left takes one. -/
theorem Board.looped_again {n : Nat} {r : List (Nat × Nat)} (hl : x.loops = (e.pc, n + 1) :: r) :
    x.looped e = { x with loops := (e.pc, n) :: r, pc := tf e.word 0 16 10 } := by
  simp only [Board.looped, hl, Nat.succ_ne_zero, if_true, if_false, Nat.add_sub_cancel]

/-- A LOOP with none left falls through. -/
theorem Board.looped_ends {r : List (Nat × Nat)} (hl : x.loops = (e.pc, 0) :: r) :
    x.looped e = { x with loops := r } := by
  simp only [Board.looped, hl, if_true]

variable (hl : ∀ n r, x.loops ≠ (e.pc, n) :: r)
include hl

/-- A LOOP that is not the innermost one counts by a counter of its own. -/
theorem Board.looped_enters (hc : tf e.word 1 0 16 ≠ 0) :
    x.looped e = { x with loops := (e.pc, tf e.word 1 0 16 - 1) :: x.loops, pc := tf e.word 0 16 10 } := by
  rcases h : x.loops with _ | ⟨⟨k, n⟩, r⟩
  · simp only [Board.looped, h, hc, if_false]
  · have hk : k ≠ e.pc := fun hk => hl n r (hk ▸ h)
    simp only [Board.looped, h, hk, hc, if_false]

/-- Of no further time it falls through. -/
theorem Board.looped_skips (hc : tf e.word 1 0 16 = 0) : x.looped e = x := by
  rcases h : x.loops with _ | ⟨⟨k, n⟩, r⟩
  · simp only [Board.looped, h, hc, if_true]
  · have hk : k ≠ e.pc := fun hk => hl n r (hk ▸ h)
    simp only [Board.looped, h, hk, hc, if_true, if_false]

end

theorem Board.loops_nil_ne {x : Board} {pc : Nat} (hl : x.loops = []) (m : Nat) (t : List (Nat × Nat)) :
    x.loops ≠ (pc, m) :: t := by
  rw [hl]; exact nofun

theorem Board.loops_cons_ne {x : Board} {pc k n : Nat} {r : List (Nat × Nat)} (hl : x.loops = (k, n) :: r)
    (hk : k ≠ pc) (m : Nat) (t : List (Nat × Nat)) : x.loops ≠ (pc, m) :: t := by
  rw [hl]
  exact fun h => hk (Prod.mk.inj (List.cons.inj h).1).1

/-! STEP (R239, R435). -/

/-- Writes of a step that leave its board: sent and not acknowledged, or still to come from an instruction before the
STEP. -/
def State.writesOut (s : State) (bk : Nat) (e : SbEntry) : Bool :=
  s.fb.acks.any (fun p => pktSrc p == bk && p.job == e.ctx.job && p.step == e.ctx.step) ||
  (s.board bk).sb.any fun y => (y.ctx.job == e.ctx.job && y.ctx.step == e.ctx.step) && decide (y.id < e.id) &&
    ((topc y.word == 5 && tf y.word 0 23 1 == 1) || topc y.word == 0x0A)

/-- The stages that follow the one a board runs. -/
def State.nextStages (s : State) (bk slot : Nat) : List Nat := (s.score slot).file.man.succ.getD (s.board bk).stage []

section
variable {s : State} {d : Die} {b : Brd} {e : SbEntry} (he : s.seqHead (boardKey d b) 0x0C = some e)
include he

theorem exec_step_noScore (hs : (s.board (boardKey d b)).score = none) :
    exec (.step d b) s = .next (s.finishEntry (boardKey d b) e) := by
  show execStep d b s = _
  simp only [execStep, he, hs]

/-- STEP waits for the step's writes, is put off on the way to Dormant, waits for a switch, or sends the starts. -/
theorem exec_step_score {n : Nat} (hs : (s.board (boardKey d b)).score = some n) :
    exec (.step d b) s =
      let bk := boardKey d b
      let pkt := fun s : State => s.pktOf bk e.ctx e.seq0 7 3
      if s.writesOut bk e then .next s
      else if s.pw.entering = some 4 then
        .next ({ s with
          fb.later := s.fb.later ++ (s.nextStages bk n).map fun g => (n, g, pkt s, e.ctx) }.finishEntry bk e)
      else if (s.nextStages bk n).any (s.stageHeld n) then .next s
      else .next (((s.nextStages bk n).foldl (fun s t => s.sendStep n t (pkt s) e.ctx) s).finishEntry bk e) := by
  show execStep d b s = _
  simp only [execStep, he, hs, State.writesOut, State.nextStages]
  rfl

end

/-! CAPT (R239, R396, R399, R400). -/

/-- The next recorded values of a capture point in a replay. -/
def State.replayRecord (s : State) (bk : Nat) (e : SbEntry) : Option (Nat × List Byte) :=
  (s.captured (5 + tf e.word 0 16 2) e.ctx (tf e.word 1 0 16) (s.board bk).lb)[mget 0 (s.board bk).captStroke
    (captKey e.ctx (64 + tf e.word 1 0 16))]?

section
variable {s : State} {d : Die} {b : Brd} {e : SbEntry} (he : s.seqHead (boardKey d b) 0x0D = some e)
include he

/-- A stroke is marked for recording or replay. -/
theorem exec_capt_stroke (hk : tf e.word 0 16 2 = 0) (hc : s.captures e.ctx = true ∨ e.ctx.capture = 2) :
    exec (.capt d b) s = .next ((s.setBoard (boardKey d b) { s.board (boardKey d b) with
      captStroke := mput 0 (s.board (boardKey d b)).captStroke (captKey e.ctx (tf e.word 0 18 6))
        (tf e.word 1 0 16 + 1) }).finishEntry (boardKey d b) e) := by
  show execCapt d b s = _
  simp only [execCapt, he, hk, hc, ne_eq, not_true, false_and, if_false, if_true]

/-- Where nothing is captured or replayed CAPT completes. -/
theorem exec_capt_off (hc : s.captures e.ctx = false) (hm : e.ctx.capture ≠ 2) :
    exec (.capt d b) s = .next (s.finishEntry (boardKey d b) e) := by
  show execCapt d b s = _
  simp only [execCapt, he, hc, hm, Bool.false_eq_true, or_self, if_false, ite_self]

theorem exec_capt_empty (hk : tf e.word 0 16 2 ≠ 0) (hn : tf e.word 3 0 14 = 0) :
    exec (.capt d b) s = .next (s.finishEntry (boardKey d b) e) := by
  show execCapt d b s = _
  simp only [execCapt, he, hk, hn, ne_eq, not_false_eq_true, and_self, if_true]

variable (hn : tf e.word 3 0 14 ≠ 0)
include hn

/-- Slots or bytes are recorded in the journal of the job's ring. -/
theorem exec_capt_records (hk : tf e.word 0 16 2 ≠ 0) (hc : s.captures e.ctx = true) :
    exec (.capt d b) s =
      let bk := boardKey d b
      let ring := s.jobRing e.ctx.job
      let t := tf e.word 2 0 11
      let a := 8 * tf e.word 2 0 14
      let n := tf e.word 3 0 14
      let pay := if tf e.word 0 16 2 = 1 then leBytes 2 t ++ leBytes 2 n ++ tallyBytes (s.board bk) t n
        else leBytes 4 a ++ leBytes 4 n ++ s.load (bkBase bk + a) n
      .next ((s.jrec (5 + tf e.word 0 16 2) ring.1 ring.2 e.ctx.step (tf e.word 1 0 16) (s.board bk).lb
        pay).finishEntry bk e) := by
  show execCapt d b s = _
  simp only [execCapt, he, hk, hn, hc, ne_eq, and_false, if_false, if_true]

variable (hc : s.captures e.ctx = false) (hm : e.ctx.capture = 2)
include hc hm

theorem exec_capt_noRecord (hk : tf e.word 0 16 2 ≠ 0) (hr : s.replayRecord (boardKey d b) e = none) :
    exec (.capt d b) s = .next (s.jobFault e.ctx.job 0x0405) := by
  show execCapt d b s = _
  rw [State.replayRecord] at hr
  simp only [execCapt, he, hk, hn, hc, hm, hr, ne_eq, and_false, Bool.false_eq_true, if_false, if_true]

variable {z : Nat} {v : List Byte} (hr : s.replayRecord (boardKey d b) e = some (z, v))
include hr

/-- Recorded slots are put back, where the record is of their range. -/
theorem exec_capt_slots (h1 : tf e.word 0 16 2 = 1) :
    exec (.capt d b) s =
      let bk := boardKey d b
      let u := s.captUsed bk e.ctx (tf e.word 1 0 16)
      if leAt (v.drop 32) 0 2 ≠ tf e.word 2 0 11 ∨ leAt (v.drop 32) 2 2 ≠ tf e.word 3 0 14 then
        .next (u.jobFault e.ctx.job 0x0104)
      else .next ((u.setBoard bk ((u.board bk).fromTally (tf e.word 2 0 11) (v.drop 36))).finishEntry bk e) := by
  show execCapt d b s = _
  rw [State.replayRecord] at hr
  simp only [h1] at hr
  simp only [execCapt, he, h1, hn, hc, hm, hr, ne_eq, one_ne_zero, and_false, Bool.false_eq_true, if_false, if_true,
    List.drop_drop]

/-- Recorded bytes are put back, where the record is of their range. -/
theorem exec_capt_bytes (h2 : 2 ≤ tf e.word 0 16 2) :
    exec (.capt d b) s =
      let bk := boardKey d b
      let u := s.captUsed bk e.ctx (tf e.word 1 0 16)
      let a := 8 * tf e.word 2 0 14
      if leAt (v.drop 32) 0 4 ≠ a ∨ leAt (v.drop 32) 4 4 ≠ tf e.word 3 0 14 then
        .next (u.jobFault e.ctx.job 0x0104)
      else .next ((u.store (bkBase bk + a) (slice (v.drop 32) 8 (tf e.word 3 0 14))).finishEntry bk e) := by
  show execCapt d b s = _
  have hk : tf e.word 0 16 2 ≠ 0 := by omega
  have h1 : tf e.word 0 16 2 ≠ 1 := by omega
  rw [State.replayRecord] at hr
  simp only [execCapt, he, hk, h1, hn, hc, hm, hr, ne_eq, and_false, Bool.false_eq_true, if_false, if_true]

end

/-- Settles O9: each instruction by its own equation, and by the condition of its case. -/
theorem sequencerInstructions : Obligations.Sequencer_instructions := by
  refine ⟨?passed, ?target, ?reached, ?notReached, ?firstLoop, ?again, ?falls, ?noTimes, ?inner, ?innerNone, ?ends,
    ?noScore, ?unsent, ?sends, ?later, ?held, ?stroke, ?off, ?empty, ?slots, ?bytes, ?noRecord, ?slotsDiffer,
    ?slotsBack, ?bytesDiffer, ?bytesBack⟩
  case passed =>
    intro s d b e he h
    rw [exec_waitrk he, if_pos h]
  case target =>
    intro s d b e he h
    rw [exec_waitrk he, if_neg (Nat.not_le.2 h)]
  case reached =>
    intro s d b e n he hn h
    rw [exec_waitrkRelease he hn, if_pos h]
  case notReached =>
    intro s d b e n he hn h
    rw [exec_waitrkRelease he hn, if_neg (Nat.not_le.2 h)]
  case firstLoop =>
    intro s d b e he hl hc
    rw [exec_loop he, Board.looped_enters (Board.loops_nil_ne hl) hc, hl]
  case again =>
    intro s d b e n r he hl
    rw [exec_loop he, Board.looped_again hl]
  case falls =>
    intro s d b e r he hl
    rw [exec_loop he, Board.looped_ends hl]
  case noTimes =>
    intro s d b e he hl hc
    rw [exec_loop he, Board.looped_skips (Board.loops_nil_ne hl) hc]
  case inner =>
    intro s d b e k n r he hl hk hc
    rw [exec_loop he, Board.looped_enters (Board.loops_cons_ne hl hk) hc]
  case innerNone =>
    intro s d b e k n r he hl hk hc
    rw [exec_loop he, Board.looped_skips (Board.loops_cons_ne hl hk) hc]
  case ends =>
    intro s d b e he
    exact exec_endProg he
  case noScore =>
    intro s d b e he hs
    exact exec_step_noScore he hs
  case unsent =>
    intro s d b e n he hs h
    rw [exec_step_score he hs]
    exact if_pos (Bool.or_eq_true_iff.2 h)
  case sends =>
    intro s d b e n he hs ha hb hp hh
    have hw : s.writesOut (boardKey d b) e = false := (Bool.or_eq_false_iff).2 ⟨ha, hb⟩
    rw [exec_step_score he hs]
    simp only [hw, hp, State.nextStages, hh, Bool.false_eq_true, if_false]
  case later =>
    intro s d b e n he hs ha hb hp
    have hw : s.writesOut (boardKey d b) e = false := (Bool.or_eq_false_iff).2 ⟨ha, hb⟩
    rw [exec_step_score he hs]
    simp only [hw, hp, State.nextStages, Bool.false_eq_true, if_false, if_true]
  case held =>
    intro s d b e n he hs hp hh
    rw [exec_step_score he hs]
    simp only [hp, State.nextStages, hh, if_false, if_true, ite_self]
  case stroke =>
    intro s d b e he hk hc
    exact exec_capt_stroke he hk hc
  case off =>
    intro s d b e he hc hm
    exact exec_capt_off he hc hm
  case empty =>
    intro s d b e he hk hn
    exact exec_capt_empty he hk hn
  case slots =>
    intro s d b e he hn h1 hc
    rw [exec_capt_records he hn (by omega) hc]
    simp only [h1, if_true]
  case bytes =>
    intro s d b e he hn h2 hc
    rw [exec_capt_records he hn (by omega) hc]
    simp only [show tf e.word 0 16 2 ≠ 1 by omega, if_false]
  case noRecord =>
    intro s d b e he hn hc hm hk hr
    exact exec_capt_noRecord he hn hc hm hk hr
  case slotsDiffer =>
    intro s d b e z v he hn hc hm h1 hr h
    rw [exec_capt_slots he hn hc hm hr h1]
    exact if_pos h
  case slotsBack =>
    intro s d b e z v he hn hc hm h1 hr h
    rw [exec_capt_slots he hn hc hm hr h1]
    exact if_neg fun k => k.elim (absurd h.1) (absurd h.2)
  case bytesDiffer =>
    intro s d b e z v he hn hc hm h2 hr h
    rw [exec_capt_bytes he hn hc hm hr h2]
    exact if_pos h
  case bytesBack =>
    intro s d b e z v he hn hc hm h2 hr h
    rw [exec_capt_bytes he hn hc hm hr h2]
    exact if_neg fun k => k.elim (absurd h.1) (absurd h.2)

end Sys2Proof.Machine
end

section
/-! PROOFS. The watchdog of a board, the refetch of an instruction and the failure of a job. -/

namespace Sys2Proof.Machine

/-! The watchdog (R241). -/

section
variable {s : State} {bk j n at_ : Nat}

theorem State.stepLate_noLimit (l : Nat × Nat × Nat) (h : fld (s.reg (bkBase bk + 0x40014)) 0 16 = 0) :
    s.stepLate bk l = none :=
  if_pos (.inl h)

variable {e : SbEntry} (he : ((s.board bk).sb.find? fun e => e.ctx.job == j && e.ctx.step == n) = some e)
include he

/-- A step past the limit is late at its oldest unfinished instruction. -/
theorem State.stepLate_entry (hl : fld (s.reg (bkBase bk + 0x40014)) 0 16 ≠ 0)
    (hn : at_ + fld (s.reg (bkBase bk + 0x40014)) 0 16 * 10000 ≤ s.now) (hw : topc e.word ≠ 0x0B)
    (ht : s.tokenWait bk e = false) : s.stepLate bk (j, n, at_) = some (e.pc, j) := by
  simp only [State.stepLate, he, hl, Nat.not_lt.2 hn, hw, ht, Bool.false_eq_true, or_self, if_false]

/-- While that instruction is a WAITRK or waits for tokens the step is not late. -/
theorem State.stepLate_excused (h : topc e.word = 0x0B ∨ s.tokenWait bk e = true) :
    s.stepLate bk (j, n, at_) = none := by
  simp only [State.stepLate, he, h, if_true, ite_self]

end

section
variable {s : State} {d : Die} {b : Brd}

theorem exec_watchdogExpiry_late {pc j : Nat}
    (h : (s.board (boardKey d b)).lastDone.findSome? (s.stepLate (boardKey d b)) = some (pc, j)) :
    exec (.watchdogExpiry d b) s = .next (s.boardFault (boardKey d b) 7 pc j) := by
  show execWatchdogExpiry d b s = _
  simp only [execWatchdogExpiry, h]

theorem exec_watchdogExpiry_inTime
    (h : ∀ l ∈ (s.board (boardKey d b)).lastDone, s.stepLate (boardKey d b) l = none) :
    exec (.watchdogExpiry d b) s = .next s := by
  show execWatchdogExpiry d b s = _
  simp only [execWatchdogExpiry, List.findSome?_eq_none_iff.2 h]

/-! The refetch (R243). -/

theorem exec_scoreRefetch_noScore (hs : (s.board (boardKey d b)).score = none) :
    exec (.scoreRefetch d b) s = .next (s.bump (bkBase (boardKey d b) + 0x40088) 1) := by
  show execScoreRefetch d b s = _
  simp only [execScoreRefetch, hs]

/-- The score's copy of the instruction at the pc is stored again; the count leaves the scores as they are. -/
theorem exec_scoreRefetch_fetches {n w : Nat} {i : BoardImg} (hs : (s.board (boardKey d b)).score = some n)
    (hi : ((s.score n).file.boards.find? fun i => i.lb == (s.board (boardKey d b)).lb) = some i)
    (hw : i.prog[(s.board (boardKey d b)).pc]? = some w) :
    exec (.scoreRefetch d b) s = .next ((s.bump (bkBase (boardKey d b) + 0x40088) 1).store
      (bkBase (boardKey d b) + 0x20000 + 16 * (s.board (boardKey d b)).pc) (leBytes 16 w)) := by
  have hscore (k : Nat) : (s.bump (bkBase (boardKey d b) + 0x40088) 1).score k = s.score k := by
    rw [State.score, State.score, State.bump_wk]
  show execScoreRefetch d b s = _
  simp only [execScoreRefetch, hs, hscore, hi, hw]

end

/-! The failure of a job (R242, R400). -/

section
variable {s : State} {j : Nat} {x : Job} (hx : s.job j = some x)
include hx

/-- A failed job is cancelled, and a replay stops at it. -/
theorem exec_jobFailureCancel_failed (hf : x.failedAt = true) (hst : x.st ≠ .completed) :
    exec (.jobFailureCancel j) s = .next ((if x.replayed then
        s.setRing x.ring { s.ring x.ring with replay := (s.ring x.ring).replay.map fun _ => [] }
      else s).failJob j x.status) := by
  show execJobFailureCancel j s = _
  simp only [execJobFailureCancel, hx, hf, hst, Bool.not_true, Bool.false_eq_true, or_self, if_false]

theorem exec_jobFailureCancel_other (h : x.failedAt = false ∨ x.st = .completed) :
    exec (.jobFailureCancel j) s = .next s := by
  have hkept : (!x.failedAt) = true ∨ x.st = .completed := h.imp_left (by simp)
  show execJobFailureCancel j s = _
  simp only [execJobFailureCancel, hx, hkept, if_true]

end

/-- Settles O10: the watchdog by whether a step is late, the refetch by the score's copy, the cancel by the job's
mark. -/
theorem boardFaultsAndFailures : Obligations.Board_faults_and_failures := by
  refine ⟨?lateEntry, ?excused, ?late, ?noLimit, ?fetches, ?noScore, ?cancels, ?stopsReplay, ?other⟩
  case lateEntry =>
    intro s d b e j n at_ hd hl hn he hw ht
    refine exec_watchdogExpiry_late ?_
    rw [hd, List.findSome?_cons, State.stepLate_entry he hl hn hw ht]
  case excused =>
    intro s d b e j n at_ hd he h
    refine exec_watchdogExpiry_inTime fun l hl => ?_
    rw [hd, List.mem_singleton] at hl
    rw [hl, State.stepLate_excused he h]
  case late =>
    intro s d b pc j h
    exact exec_watchdogExpiry_late h
  case noLimit =>
    intro s d b h
    exact exec_watchdogExpiry_inTime fun l _ => State.stepLate_noLimit l h
  case fetches =>
    intro s d b n i w hs hi hw
    exact exec_scoreRefetch_fetches hs hi hw
  case noScore =>
    intro s d b hs
    exact exec_scoreRefetch_noScore hs
  case cancels =>
    intro s j x hx hf hst hr
    rw [exec_jobFailureCancel_failed hx hf hst, hr, if_neg Bool.false_ne_true]
  case stopsReplay =>
    intro s j x hx hf hst hr
    rw [exec_jobFailureCancel_failed hx hf hst, if_pos hr]
  case other =>
    intro s j x hx h
    exact exec_jobFailureCancel_other hx h

end Sys2Proof.Machine
end

section
/-! PROOFS. DRAIN, VMM, VOP and MOVE. -/

namespace Sys2Proof.Machine

theorem State.eccFault_clean (s : State) (bk : Nat) (e : SbEntry) : s.eccFault bk e false = none := by
  simp only [State.eccFault, Bool.false_and, Bool.false_eq_true, if_false]

/-! DRAIN (R222-R224). -/

/-- The stream of a DRAIN has a record update to come, which holds back a program that converts or captures (R198). -/
def State.drainHeld (s : State) (bk : Nat) (e : SbEntry) : Bool :=
  (bit (s.breg bk (0x41000 + 16 * tf e.word 0 16 3)) 6 || bit (s.breg bk (0x41000 + 16 * tf e.word 0 16 3)) 7) &&
    s.strBusy bk (tf e.word 0 19 4) e.ctx

section
variable {s : State} {d : Die} {b : Brd} {e : SbEntry} (he : s.unitHead (boardKey d b) .drain 0x05 = some e)
include he

theorem exec_drain_empty {ecc : Bool} (h : tnb e.word = 0 ∨ tf e.word 1 11 12 = 0) :
    exec (.drain d b ecc) s = .next (s.finishEntry (boardKey d b) e) := by
  show execDrain d b ecc s = _
  simp only [execDrain, he, h, if_true]

variable (hb : tnb e.word ≠ 0) (hn : tf e.word 1 11 12 ≠ 0)
include hb hn

theorem exec_drain_waits {ecc : Bool} (hw : s.drainHeld (boardKey d b) e = true) :
    exec (.drain d b ecc) s = .next s := by
  show execDrain d b ecc s = _
  rw [State.drainHeld] at hw
  simp only [execDrain, he, hb, hn, hw, or_self, if_false, if_true]

variable (hw : s.drainHeld (boardKey d b) e = false)
include hw

theorem exec_drain_ecc {u : State} (hu : s.eccFault (boardKey d b) e true = some u) :
    exec (.drain d b true) s = .next u := by
  show execDrain d b true s = _
  rw [State.drainHeld] at hw
  simp only [execDrain, he, hb, hn, hw, hu, or_self, Bool.false_eq_true, Option.isSome_some, Option.getD_some, if_false,
    if_true]

/-- With its words clean it runs, unless a residual in T40 is none (R162). -/
theorem exec_drain_clean :
    exec (.drain d b false) s = .next (if s.drainBad (boardKey d b) e.word then
        s.boardFault (boardKey d b) 3 e.pc e.ctx.job
      else ((List.range (tnb e.word)).foldl (fun s i => s.drainIter (boardKey d b) e i) s).finishEntry
        (boardKey d b) e) := by
  show execDrain d b false s = _
  rw [State.drainHeld] at hw
  simp only [execDrain, he, hb, hn, hw, State.eccFault_clean, or_self, Bool.false_eq_true, Option.isSome_none, if_false]
  split <;> rfl

end

/-! VMM (R229, R231). -/

/-- The tokens of a VMM. -/
def vmmNeed (w : Nat) : Nat :=
  vecTokens ((vmmTile (tf w 0 16 2)).1 * (vmmTile (tf w 0 16 2)).2 * tf w 1 0 13)
    (max (fmtWidth ((Fmt.ofCode (tf w 0 18 5)).getD .fp32)) (fmtWidth ((Fmt.ofCode (tf w 0 23 5)).getD .fp32)))

/-- A VMM whose tokens are paid: its faults, or its blocks computed and stored. -/
def State.vmmPaid (s : State) (bk : Nat) (e : SbEntry) : State :=
  let fb := (Fmt.ofCode (tf e.word 0 23 5)).getD .fp32
  let n := (vmmTile (tf e.word 0 16 2)).2
  if s.vmmNoT40 bk e.word then s.boardFault bk 3 e.pc e.ctx.job
  else if s.vmmPoison bk e.word fb (tf e.word 1 0 13) n then s.jobFault e.ctx.job 0x0503
  else
    match s.vmmB bk e.word fb (tf e.word 1 0 13) n with
    | none => s.jobFault e.ctx.job 0x0306
    | some v => (s.vmmRun bk e v.1 v.2).finishEntry bk e

section
variable {s : State} {d : Die} {b : Brd} {e : SbEntry} (he : s.unitHead (boardKey d b) .vector 0x06 = some e)
include he

theorem exec_vmm_empty {ecc : Bool} (h : tf e.word 1 0 13 = 0 ∨ tnb e.word = 0) :
    exec (.vmm d b ecc) s = .next (s.finishEntry (boardKey d b) e) := by
  show execVmm d b ecc s = _
  simp only [execVmm, he, h, if_true]

variable (hk : tf e.word 1 0 13 ≠ 0) (hb : tnb e.word ≠ 0)
include hk hb

theorem exec_vmm_waits {ecc : Bool} (hw : s.strBusy (boardKey d b) (tf e.word 1 13 4) e.ctx = true) :
    exec (.vmm d b ecc) s = .next s := by
  show execVmm d b ecc s = _
  simp only [execVmm, he, hk, hb, hw, or_self, if_false, if_true]

variable (hw : s.strBusy (boardKey d b) (tf e.word 1 13 4) e.ctx = false)
include hw

theorem exec_vmm_ecc {u : State} (hu : s.eccFault (boardKey d b) e true = some u) :
    exec (.vmm d b true) s = .next u := by
  show execVmm d b true s = _
  simp only [execVmm, he, hk, hb, hw, hu, or_self, Bool.false_eq_true, Option.isSome_some, Option.getD_some, if_false,
    if_true]

/-- It waits for its tokens, and runs where it has them. -/
theorem exec_vmm_pays {u : State} {paid : Bool} (hp : s.vecPay (boardKey d b) e (vmmNeed e.word) = (u, paid)) :
    exec (.vmm d b false) s = .next (if paid then u.vmmPaid (boardKey d b) e else u) := by
  show execVmm d b false s = _
  rw [vmmNeed] at hp
  simp only [execVmm, he, hk, hb, hw, hp, State.eccFault_clean, or_self, Bool.false_eq_true, Option.isSome_none,
    if_false]
  cases paid with
  | false => rfl
  | true =>
    simp only [State.vmmPaid, if_true]
    split
    · rfl
    · split
      · rfl
      · split <;> simp only [*]

end

/-! VOP (R230, R231). -/

/-- The tokens of a VOP. -/
def vopNeed (w : Nat) : Nat :=
  vecTokens (vopUnits (tf w 0 21 8) * tf w 1 0 16 * tnb w) (fmtWidth ((Fmt.ofCode (tf w 0 16 5)).getD .fp32))

section
variable {s : State} {d : Die} {b : Brd} {e : SbEntry} (he : s.unitHead (boardKey d b) .vector 0x07 = some e)
include he

theorem exec_vop_empty {ecc : Bool} (h : tf e.word 1 0 16 = 0 ∨ tnb e.word = 0) :
    exec (.vop d b ecc) s = .next (s.finishEntry (boardKey d b) e) := by
  show execVop d b ecc s = _
  simp only [execVop, he, h, if_true]

variable (hn : tf e.word 1 0 16 ≠ 0) (hb : tnb e.word ≠ 0)
include hn hb

theorem exec_vop_waits {ecc : Bool}
    (hw : tf e.word 0 21 8 ≠ 0x0B ∧ s.strBusy (boardKey d b) (tf e.word 1 16 4) e.ctx = true) :
    exec (.vop d b ecc) s = .next s := by
  show execVop d b ecc s = _
  simp only [execVop, he, hn, hb, or_self, if_false]
  exact if_pos hw

variable (hw : ¬(tf e.word 0 21 8 ≠ 0x0B ∧ s.strBusy (boardKey d b) (tf e.word 1 16 4) e.ctx = true))
include hw

theorem exec_vop_ecc {u : State} (hu : s.eccFault (boardKey d b) e true = some u) :
    exec (.vop d b true) s = .next u := by
  show execVop d b true s = _
  simp only [execVop, he, hn, hb, hu, or_self, Option.isSome_some, Option.getD_some, if_false, if_true]
  exact if_neg hw

/-- It waits for its tokens, and runs where it has them, unless an operand in T40 is none (R162). -/
theorem exec_vop_pays {u : State} {paid : Bool} (hp : s.vecPay (boardKey d b) e (vopNeed e.word) = (u, paid)) :
    exec (.vop d b false) s = .next (if paid then
        (if u.vopNoT40 (boardKey d b) e.word then u.boardFault (boardKey d b) 3 e.pc e.ctx.job
          else (u.vopRun (boardKey d b) e).finishEntry (boardKey d b) e)
      else u) := by
  show execVop d b false s = _
  rw [vopNeed] at hp
  simp only [execVop, he, hn, hb, hp, State.eccFault_clean, or_self, Bool.false_eq_true, Option.isSome_none, if_false]
  rw [if_neg hw]
  cases paid with
  | false => rfl
  | true => simp only [if_true]; split <;> rfl

end

/-! MOVE (R237, R264, R286, R291, R553). -/

/-- A MOVE's bytes, and their offset in its buffer. -/
def moveLen (w : Nat) : Nat := 8 * tf w 1 14 14
def moveOff (w : Nat) : Nat := tf w 3 0 32

/-- The bytes of a MOVE lie in its buffer and, where the buffer is cached, in the pool. -/
def moveInside (w : Nat) (f : Buf) (a : Nat × Nat) : Prop :=
  moveOff w + moveLen w ≤ f.size ∧ (f.cached = false ∨ a.2 + moveOff w + moveLen w ≤ 0x1800000)

section
variable {s : State} {d : Die} {b : Brd} {e : SbEntry} {n : Nat}
  (he : s.unitHead (boardKey d b) .lane 0x0A = some e) (hs : (s.board (boardKey d b)).score = some n)
include he hs

theorem exec_move_noBuffer {ecc : Bool} (hf : (s.score n).file.man.bufs[tf e.word 2 0 16]? = none) :
    exec (.move d b ecc) s = .next (s.jobFault e.ctx.job 0x0306) := by
  show execMove d b ecc s = _
  simp only [execMove, he, hs, hf]

variable {f : Buf} {a : Nat × Nat} (hf : (s.score n).file.man.bufs[tf e.word 2 0 16]? = some f)
  (ha : (s.score n).bufAt[tf e.word 2 0 16]? = some a)
include hf ha

theorem exec_move_empty {ecc : Bool} (hn : moveLen e.word = 0) :
    exec (.move d b ecc) s = .next (s.finishEntry (boardKey d b) e) := by
  show execMove d b ecc s = _
  rw [moveLen] at hn
  simp only [execMove, he, hs, hf, ha, hn, if_true]

variable (hn : moveLen e.word ≠ 0)
include hn

theorem exec_move_ecc {u : State} (hu : s.eccFault (boardKey d b) e true = some u) :
    exec (.move d b true) s = .next u := by
  show execMove d b true s = _
  rw [moveLen] at hn
  simp only [execMove, he, hs, hf, ha, hn, hu, Option.isSome_some, Option.getD_some, if_false, if_true]

theorem exec_move_outside (h : ¬moveInside e.word f a) :
    exec (.move d b false) s = .next (s.jobFault e.ctx.job 0x0306) := by
  have hout : f.size < tf e.word 3 0 32 + 8 * tf e.word 1 14 14 ∨
      (f.cached = true ∧ 0x1800000 < a.2 + tf e.word 3 0 32 + 8 * tf e.word 1 14 14) := by
    rw [moveInside, moveOff, moveLen, not_and_or, not_or] at h
    simpa using h
  show execMove d b false s = _
  rw [moveLen] at hn
  simp only [execMove, he, hs, hf, ha, hn, hout, State.eccFault_clean, Option.isSome_none, Bool.false_eq_true, if_false,
    if_true]

variable (hin : moveInside e.word f a)
include hin

/-- Inside its buffer a MOVE reads into the slate, or writes from it where the epoch test passes. -/
theorem exec_move_inside :
    exec (.move d b false) s =
      let bk := boardKey d b
      let len := moveLen e.word
      let at_ := a.1 + moveOff e.word
      let slate := bkBase bk + 8 * tf e.word 1 0 14
      let count := fun s : State =>
        s.bump (bkBase bk + 0x46080) (cdiv len 2048 + if tf e.word 0 16 1 = 0 then 0 else cdiv len 32)
      if tf e.word 0 16 1 = 0 then
        (if s.memBad at_ len then .next (s.poisoned { dstNode := d, dstBoard := b, job := e.ctx.job })
        else .next ((count (s.store slate (s.load at_ len))).finishEntry bk e))
      else if s.epochOk { (s.pktOf bk e.ctx e.seq0 5 2) with dstNode := 32 + f.hub } then
        .next ((count (s.memWrite at_ (s.load slate len))).finishEntry bk e)
      else .next ({ count s with fb.disc := s.fb.disc.set f.hub (s.fb.disc.getD f.hub 0 + 1) }.finishEntry bk e) := by
  have hin' : ¬(f.size < tf e.word 3 0 32 + 8 * tf e.word 1 14 14 ∨
      (f.cached = true ∧ 0x1800000 < a.2 + tf e.word 3 0 32 + 8 * tf e.word 1 14 14)) := by
    obtain ⟨hsize, hpool⟩ := hin
    rw [moveOff, moveLen] at hsize hpool
    rintro (h | ⟨hc, h⟩)
    · omega
    · rcases hpool with hp | hp
      · exact Bool.false_ne_true (hp.symm.trans hc)
      · omega
  show execMove d b false s = _
  rw [moveLen] at hn
  simp only [execMove, he, hs, hf, ha, hn, hin', State.eccFault_clean, Option.isSome_none, Bool.false_eq_true, if_false]
  rfl

end

/-- Settles O15: each instruction by the checks in their order, the vector unit's also by its tokens. -/
theorem drainAndVector : Obligations.Drain_and_vector := by
  refine ⟨?drains, ?drainNoT40, ?drainEcc, ?drainWaits, ?drainEmpty, ?vmmRuns, ?vmmNoT40, ?vmmPoison, ?vmmOutside,
    ?vmmUnpaid, ?vmmEcc, ?vmmWaits, ?vmmEmpty, ?vopRuns, ?vopNoT40, ?vopUnpaid, ?vopEcc, ?vopWaits, ?vopEmpty,
    ?moveReads, ?moveWrites, ?movePoison, ?moveEpoch, ?movePool, ?moveSize, ?moveEmpty, ?moveNoBuffer, ?moveEcc⟩
  case drains =>
    intro s d b e he hb hn hw ht
    rw [exec_drain_clean he hb hn hw, ht, if_neg Bool.false_ne_true]
  case drainNoT40 =>
    intro s d b e he hb hn hw ht
    rw [exec_drain_clean he hb hn hw, if_pos ht]
  case drainEcc =>
    intro s d b e u he hb hn hw hu
    exact exec_drain_ecc he hb hn hw hu
  case drainWaits =>
    intro s d b ecc e he hb hn hw
    exact exec_drain_waits he hb hn hw
  case drainEmpty =>
    intro s d b ecc e he h
    exact exec_drain_empty he h
  case vmmRuns =>
    intro s d b e u bv ev he hk hb hw hp ht hq hv
    rw [exec_vmm_pays he hk hb hw hp]
    simp only [State.vmmPaid, ht, hq, hv, Bool.false_eq_true, if_true, if_false]
  case vmmNoT40 =>
    intro s d b e u he hk hb hw hp ht
    rw [exec_vmm_pays he hk hb hw hp]
    simp only [State.vmmPaid, ht, if_true]
  case vmmPoison =>
    intro s d b e u he hk hb hw hp ht hq
    rw [exec_vmm_pays he hk hb hw hp]
    simp only [State.vmmPaid, ht, hq, Bool.false_eq_true, if_true, if_false]
  case vmmOutside =>
    intro s d b e u he hk hb hw hp ht hq hv
    rw [exec_vmm_pays he hk hb hw hp]
    simp only [State.vmmPaid, ht, hq, hv, Bool.false_eq_true, if_true, if_false]
  case vmmUnpaid =>
    intro s d b e u he hk hb hw hp
    rw [exec_vmm_pays he hk hb hw hp, if_neg Bool.false_ne_true]
  case vmmEcc =>
    intro s d b e u he hk hb hw hu
    exact exec_vmm_ecc he hk hb hw hu
  case vmmWaits =>
    intro s d b ecc e he hk hb hw
    exact exec_vmm_waits he hk hb hw
  case vmmEmpty =>
    intro s d b ecc e he h
    exact exec_vmm_empty he h
  case vopRuns =>
    intro s d b e u he hn hb hw hp ht
    rw [exec_vop_pays he hn hb hw hp, if_pos rfl, ht, if_neg Bool.false_ne_true]
  case vopNoT40 =>
    intro s d b e u he hn hb hw hp ht
    rw [exec_vop_pays he hn hb hw hp, if_pos rfl, if_pos ht]
  case vopUnpaid =>
    intro s d b e u he hn hb hw hp
    rw [exec_vop_pays he hn hb hw hp, if_neg Bool.false_ne_true]
  case vopEcc =>
    intro s d b e u he hn hb hw hu
    exact exec_vop_ecc he hn hb hw hu
  case vopWaits =>
    intro s d b ecc e he hn hb hw
    exact exec_vop_waits he hn hb hw
  case vopEmpty =>
    intro s d b ecc e he h
    exact exec_vop_empty he h
  case moveReads =>
    intro s d b e n f a he hs hf ha hn hsize hpool hr hq
    rw [exec_move_inside he hs hf ha hn ⟨hsize, hpool⟩]
    simp only [moveLen, moveOff, hr, hq, Bool.false_eq_true, if_true, if_false, Nat.add_zero]
  case moveWrites =>
    intro s d b e n f a he hs hf ha hn hsize hpool hr ho
    rw [exec_move_inside he hs hf ha hn ⟨hsize, hpool⟩]
    simp only [moveLen, moveOff, hr, ho, one_ne_zero, if_true, if_false]
  case movePoison =>
    intro s d b e n f a he hs hf ha hn hsize hpool hr hq
    rw [exec_move_inside he hs hf ha hn ⟨hsize, hpool⟩]
    simp only [moveLen, moveOff, hr, hq, if_true]
  case moveEpoch =>
    intro s d b e n f a he hs hf ha hn hsize hpool hr ho
    rw [exec_move_inside he hs hf ha hn ⟨hsize, hpool⟩]
    simp only [moveLen, moveOff, hr, ho, one_ne_zero, Bool.false_eq_true, if_false]
  case movePool =>
    intro s d b e n f a he hs hf ha hn hc hpool
    refine exec_move_outside he hs hf ha hn fun hin => ?_
    rcases hin.2 with h | h
    · exact Bool.false_ne_true (h.symm.trans hc)
    · exact Nat.not_le.2 hpool h
  case moveSize =>
    intro s d b e n f a he hs hf ha hn hsize
    exact exec_move_outside he hs hf ha hn fun hin => Nat.not_le.2 hsize hin.1
  case moveEmpty =>
    intro s d b ecc e n f a he hs hf ha hn
    exact exec_move_empty he hs hf ha hn
  case moveNoBuffer =>
    intro s d b ecc e n he hs hf
    exact exec_move_noBuffer he hs hf
  case moveEcc =>
    intro s d b e n f a u he hs hf ha hn hu
    exact exec_move_ecc he hs hf ha hn hu

end Sys2Proof.Machine
end

section
/-! PROOFS. Overlapped and fenced board switches, the history copy and the removal of records. -/

namespace Sys2Proof.Machine

/-! The preparation and the begin of a switch (R287, R288). -/

/-- The switch that begins for a prepared board: beyond every step on its way, under the next epoch (R287). -/
def State.nextSwitch (s : State) (slot lb old new : Nat) : Switch :=
  let per := progStrokes ((s.score slot).progOf lb)
  let n := s.stepsToCome slot old
  let ahead := (s.board old).steps.length + (s.stepsToward old).length + n
  { slot := slot, lb := lb, old := old, new := new, at_ := s.now, skip := n, en := (s.serveEpoch old + 1) % 2 ^ 16,
    s := (s.nextBase old per + per * ahead) % 2 ^ 48 }

section
variable {s : State} {slot : Fin 64} {lb : Nat} {d : Die} {b : Brd} {k : Nat} (hb : (s.score slot).boardOf lb = some k)
include hb

/-- A score that is not LOADED, a switch in progress or a failed board begins no overlapped switch. -/
theorem exec_overlappedBoardSwitch_none
    (h : (s.score slot).st ≠ 4 ∨ (s.switchOf slot lb).isSome = true ∨ (s.board k).failed = true) :
    exec (.overlappedBoardSwitch slot lb d b) s = .next s := by
  show execOverlappedBoardSwitch slot lb d b s = _
  simp only [execOverlappedBoardSwitch, hb, h, if_true]

variable (hst : (s.score slot).st = 4) (hw : s.switchOf slot lb = none)
include hst hw

section
variable (hm : s.moveOf k = none) (hfree : s.freeBoard (boardKey d b) = true)
  (hdie : keyDie (boardKey d b) = keyDie k) (hsound : s.soundBoard (s.score slot) k (boardKey d b) = true)
  (hidle : s.switching k = false)
include hm hfree hdie hsound hidle

theorem exec_overlappedBoardSwitch_prepares (hf : (s.board k).failed = false) :
    exec (.overlappedBoardSwitch slot lb d b) s = .next (s.prepareBoard k (boardKey d b)) := by
  show execOverlappedBoardSwitch slot lb d b s = _
  simp only [execOverlappedBoardSwitch, hb, hst, hw, hf, hm, hfree, hdie, hsound, hidle, ne_eq, not_true,
    Option.isSome_none, Bool.false_eq_true, or_self, Bool.not_false, and_self, if_false, if_true]

theorem exec_fencedBoardSwitch_prepares :
    exec (.fencedBoardSwitch slot lb d b false) s = .next (s.prepareBoard k (boardKey d b)) := by
  show execFencedBoardSwitch slot lb d b false s = _
  simp only [execFencedBoardSwitch, hb, hst, hw, hm, hfree, hdie, hsound, hidle, ne_eq, not_true, Bool.false_eq_true,
    Bool.not_false, and_self, if_false, if_true]

end

variable {r : Repair} (hm : s.moveOf k = some r)
include hm

/-- A board not prepared, a program of no stroke or records without a place hold the switch back. -/
theorem exec_overlappedBoardSwitch_prepared (hf : (s.board k).failed = false) :
    exec (.overlappedBoardSwitch slot lb d b) s =
      let w := s.nextSwitch slot lb k (boardKey d b)
      if r.target ≠ boardKey d b ∨ r.todo ≠ [] ∨ progStrokes ((s.score slot).progOf lb) = 0 ∨
        !s.recordRoom (s.receivers slot lb).1 lb then .next s
      else .next ({ s with fb.switches := s.fb.switches ++ [w] }.sendSwitch w) := by
  show execOverlappedBoardSwitch slot lb d b s = _
  simp only [execOverlappedBoardSwitch, hb, hst, hw, hf, hm, ne_eq, not_true, Option.isSome_none, Bool.false_eq_true,
    or_self, if_false]
  rfl

/-- A fenced switch begins at the old board's own sequence, its epoch kept. -/
theorem exec_fencedBoardSwitch_begins (ht : r.target = boardKey d b) (hd : r.todo = []) :
    exec (.fencedBoardSwitch slot lb d b false) s =
      let w : Switch := { slot := slot, lb := lb, old := k, new := boardKey d b, overlapped := false, at_ := s.now,
                          s := (s.board k).q, en := s.serveEpoch k }
      .next { s with fb.switches := s.fb.switches ++ [w] } := by
  show execFencedBoardSwitch slot lb d b false s = _
  simp only [execFencedBoardSwitch, hb, hst, hw, hm, ht, hd, ne_eq, not_true, Bool.false_eq_true, or_self, if_false]

end

/-! A switch in progress. -/

/-- The state after a fenced switch: the state copied, the board replaced, the old epoch served from where the old board
stood, and the switch gone (R288). -/
def State.endFenced (s : State) (slot lb : Nat) (w : Switch) : State :=
  let u := (((s.copyState slot lb w.old w.new).replaceBoard slot lb w.old w.new).serve
    { w with s := (s.board w.old).q, en := s.serveEpoch w.old }).endMove w.old
  { u with fb.switches := u.fb.switches.filter (· != w) }

/-- The state without the records of a switch and without the switch (R286). -/
def State.removeRecords (s : State) (slot lb : Nat) (w : Switch) : State :=
  let u := (s.receivers slot lb).1.foldl (fun s k => s.dropRecAt k lb) s
  { u with fb.recs := u.fb.recs.filter (fun r => r.2.1 != lb), fb.switches := u.fb.switches.filter (· != w) }

/-- Something of a switch's old placement is left: a packet under way, a carry that waits for a key, or a route behind a
fence. -/
def State.oldLeft (s : State) (lb : Nat) (w : Switch) : Bool :=
  s.inFabric.any (fun p => pktSrc p == w.old && p.lsrc == lb) ||
  s.boards.any (fun e => e.2.heldC.any fun p => pktSrc p == w.old && p.lsrc == lb) || !s.fb.fences.isEmpty

section
variable {s : State} {slot : Fin 64} {lb : Nat} {w : Switch} (hw : s.switchOf slot lb = some w)
include hw

section
variable {d : Die} {b : Brd} {failed : Bool}

theorem exec_fencedBoardSwitch_other (h : w.overlapped = true ∨ w.new ≠ boardKey d b ∨ w.copied = true) :
    exec (.fencedBoardSwitch slot lb d b failed) s = .next s := by
  show execFencedBoardSwitch slot lb d b failed s = _
  simp only [execFencedBoardSwitch, hw, h, if_true]

variable (ho : w.overlapped = false) (hn : w.new = boardKey d b) (hc : w.copied = false)
include ho hn hc

/-- A switch off a board that drains ends once the board is drained. -/
theorem exec_fencedBoardSwitch_drains (hd : w.drop = false) :
    exec (.fencedBoardSwitch slot lb d b failed) s =
      .next (if s.drained w.old then s.endFenced slot lb w else s) := by
  show execFencedBoardSwitch slot lb d b failed s = _
  have hgoes : ¬(w.overlapped = true ∨ w.new ≠ boardKey d b ∨ w.copied = true) := by simp [ho, hn, hc]
  have hkept : ¬w.drop = true := by simp [hd]
  simp only [execFencedBoardSwitch, hw]
  rw [if_neg hgoes, if_neg hkept]
  cases s.drained w.old <;> rfl

/-- The records of a failed board's switch are sent once every one has a place. -/
theorem exec_fencedBoardSwitch_sends (hd : w.drop = true) (hs : w.sent = false)
    (hr : s.recordRoom (s.receivers slot lb).1 lb = true) :
    exec (.fencedBoardSwitch slot lb d b failed) s = .next (s.sendSwitch w) := by
  show execFencedBoardSwitch slot lb d b failed s = _
  simp only [execFencedBoardSwitch, hw, ho, hn, hc, hd, hs, hr, ne_eq, not_true, Bool.false_eq_true, or_self,
    Bool.not_false, and_self, if_false, if_true]

end

/-- Once every record is acknowledged and the old board has ended its last step below S the state is copied. -/
theorem exec_historyCopy_copies (ho : w.overlapped = true) (hc : w.copied = false) (ha : w.acks = 0)
    (hs : w.sent = true) (hk : w.skip = 0) (hq : s.quiet w.old = true) (hp : atOrAfter (s.board w.old).q w.s = true) :
    exec (.historyCopy slot lb) s = .next ((((s.copyState slot lb w.old w.new).putSwitch w
      { w with copied := true }).replaceBoard slot lb w.old w.new).endMove w.old) := by
  show execHistoryCopy slot lb s = _
  simp only [execHistoryCopy, hw, ho, hc, ha, hs, hk, hq, hp, Nat.lt_irrefl, Bool.not_true, Bool.false_eq_true, or_self,
    if_false]

/-- The records of an ended switch go when nothing of the old placement is left, and for a failed board not before
1 ms. -/
theorem exec_switchRecordRemoval_switch :
    exec (.switchRecordRemoval slot lb) s =
      .next (if !w.copied ∨ s.oldLeft lb w ∨ (w.drop ∧ s.now < w.at_ + 1000000) then s
        else s.removeRecords slot lb w) := by
  show execSwitchRecordRemoval slot lb s = _
  simp only [execSwitchRecordRemoval, hw]
  exact (apply_ite Host.Outcome.next _ _ _).symm

end

/-- Settles O22: a switch that begins by the preparation of its board, one in progress by what it waits for. -/
theorem boardSwitches : Obligations.Board_switches := by
  refine ⟨?prepares, ?begins, ?none, ?notPrepared, ?fencedPrepares, ?fencedBegins, ?ends, ?drains, ?sends, ?other,
    ?copies, ?removes, ?keeps⟩
  case prepares =>
    intro s slot lb d b k hb hst hw hf hm hfree hdie hsound hidle
    exact exec_overlappedBoardSwitch_prepares hb hst hw hm hfree hdie hsound hidle hf
  case begins =>
    intro s slot lb d b k r hb hst hw hf hm ht hd hper hr
    rw [exec_overlappedBoardSwitch_prepared hb hst hw hm hf]
    refine if_neg ?_
    simp [ht, hd, hper, hr]
  case none =>
    intro s slot lb d b k hb h
    exact exec_overlappedBoardSwitch_none hb h
  case notPrepared =>
    intro s slot lb d b k r hb hst hw hf hm h
    rw [exec_overlappedBoardSwitch_prepared hb hst hw hm hf]
    refine if_pos (h.imp_right (Or.imp_right fun hr => .inr ?_))
    rw [hr, Bool.not_false]
  case fencedPrepares =>
    intro s slot lb d b k hb hst hw hm hfree hdie hsound hidle
    exact exec_fencedBoardSwitch_prepares hb hst hw hm hfree hdie hsound hidle
  case fencedBegins =>
    intro s slot lb d b k r hb hst hw hm ht hd
    exact exec_fencedBoardSwitch_begins hb hst hw hm ht hd
  case ends =>
    intro s slot lb d b failed w hw ho hn hc hd hq
    rw [exec_fencedBoardSwitch_drains hw ho hn hc hd, if_pos hq]
    rfl
  case drains =>
    intro s slot lb d b failed w hw ho hn hc hd hq
    rw [exec_fencedBoardSwitch_drains hw ho hn hc hd, hq, if_neg Bool.false_ne_true]
  case sends =>
    intro s slot lb d b failed w hw ho hn hc hd hs hr
    exact exec_fencedBoardSwitch_sends hw ho hn hc hd hs hr
  case other =>
    intro s slot lb d b failed w hw h
    exact exec_fencedBoardSwitch_other hw h
  case copies =>
    intro s slot lb w hw ho hc ha hs hk hq hp
    exact exec_historyCopy_copies hw ho hc ha hs hk hq hp
  case removes =>
    intro s slot lb w hw hc hp hh hf h
    have hleft : s.oldLeft lb w = false := by
      rw [State.oldLeft, hp, hh, hf]
      rfl
    rw [exec_switchRecordRemoval_switch hw, if_neg]
    · rfl
    · rw [hc, hleft]
      rintro (h' | h' | ⟨hd, ht⟩)
      · cases h'
      · cases h'
      · exact h.elim (fun h => Bool.false_ne_true (h.symm.trans hd)) (Nat.not_le.2 ht)
  case keeps =>
    intro s slot lb w hw h
    rw [exec_switchRecordRemoval_switch hw, if_pos]
    rcases h with h | h | h | h | h
    · exact .inl (by rw [h, Bool.not_false])
    · exact .inr (.inl (by simp only [State.oldLeft, h, Bool.true_or]))
    · exact .inr (.inl (by simp only [State.oldLeft, h, Bool.or_true, Bool.true_or]))
    · exact .inr (.inl (by simp [State.oldLeft, h]))
    · exact .inr (.inr h)

end Sys2Proof.Machine
end

section
/-! PROOFS. Repair of a board and the loss of a die. -/

namespace Sys2Proof.Machine

/-- The replacement of a board fails: its score is left degraded, and the shortage reported (R481). -/
def State.leaveDegraded (s : State) (slot bk : Nat) : State :=
  (s.setScore slot { s.score slot with degraded := true }).event 6 (leBytes 4 (34 * bk))

/-- A failed board and its score, before its work is replaced: the jobs in flight fail (R481). -/
def State.failWork (s : State) (slot bk : Nat) : State := (s.failBoard bk).failScore slot 0x0507 false

/-- The switches of a logical board that are not yet copied given up. -/
def State.giveUpSwitches (s : State) (slot lb : Nat) : State :=
  { s with fb.switches := s.fb.switches.filter fun v => !(v.slot == slot && v.lb == lb && !v.copied) }

/-- Every image that the score needs on a board is resident. -/
def State.imagesResident (s : State) (slot bk : Nat) : Bool :=
  (s.score slot).resident && (homes (s.score slot)).all fun h =>
    h.1 / 34 != bk || s.residentOf ((s.score slot).frameAt bk (h.1 % 34))

section
variable {s : State} {d : Die} {b : Brd}

theorem exec_boardRepair_off (hon : (s.die d).on = false) : exec (.boardRepair d b) s = .next s := by
  show execBoardRepair d b s = _
  simp only [execBoardRepair, hon, Bool.not_false, if_true]

variable (hon : (s.die d).on = true)
include hon

/-- A healthy board asked to move moves what it runs. -/
theorem exec_boardRepair_moves (hm : (s.board (boardKey d b)).move = true)
    (hf : (s.board (boardKey d b)).failed = false) :
    exec (.boardRepair d b) s = .next (if (s.board (boardKey d b)).score.isSome then
      (s.setBoard (boardKey d b) { s.board (boardKey d b) with move := false }).moveBoard (boardKey d b) else s) := by
  show execBoardRepair d b s = _
  simp only [execBoardRepair, hon, hm, hf, Bool.not_true, Bool.not_false, Bool.false_eq_true, and_self, if_false,
    if_true]
  split <;> rfl

/-- A board that no self-check found at fault raises UNIT first, and then fails. -/
theorem exec_boardRepair_unit (hm : (s.board (boardKey d b)).move = false)
    (hf : (s.board (boardKey d b)).failed = false) (hs : (s.board (boardKey d b)).score = none) :
    exec (.boardRepair d b) s =
      .next ((s.boardFault (boardKey d b) 6 (s.board (boardKey d b)).pc 0).failBoard (boardKey d b)) := by
  show execBoardRepair d b s = _
  simp only [execBoardRepair, hon, hm, hf, hs, Bool.not_true, Bool.false_eq_true, false_and, and_false, if_false]

variable (hf : (s.board (boardKey d b)).failed = true)
include hf

theorem exec_boardRepair_idle (hs : (s.board (boardKey d b)).score = none)
    (hmap : s.disabled (mapBoard (boardKey d b)) = false) :
    exec (.boardRepair d b) s = .next (s.failBoard (boardKey d b)) := by
  show execBoardRepair d b s = _
  simp only [execBoardRepair, hon, hf, hs, hmap, Bool.not_true, Bool.false_eq_true, and_false, false_and, if_false,
    if_true]

variable {n : Nat} (hs : (s.board (boardKey d b)).score = some n)
include hs

/-- More than eight boards of the die have failed within 1 s (R482). -/
theorem exec_boardRepair_losesDie (h : 8 < ((s.failWork n (boardKey d b)).die d).boardFails.length) :
    exec (.boardRepair d b) s = .next ((s.failWork n (boardKey d b)).loseDie d) := by
  show execBoardRepair d b s = _
  rw [State.failWork] at h
  simp only [execBoardRepair, hon, hf, hs, h, Bool.not_true, Bool.false_eq_true, and_false, if_false, if_true]
  rfl

variable (hd : ((s.failWork n (boardKey d b)).die d).boardFails.length ≤ 8)
include hd

theorem exec_boardRepair_noReserve
    (hr : ((s.failWork n (boardKey d b)).giveUpSwitches n (s.board (boardKey d b)).lb).reserveBoard (boardKey d b) =
      none) :
    exec (.boardRepair d b) s = .next
      (((s.failWork n (boardKey d b)).giveUpSwitches n (s.board (boardKey d b)).lb).leaveDegraded n (boardKey d b)) := by
  show execBoardRepair d b s = _
  have hfew := Nat.not_lt.2 hd
  rw [State.failWork] at hfew
  rw [State.giveUpSwitches, State.failWork] at hr
  simp only [execBoardRepair, hon, hf, hs, hfew, hr, Bool.not_true, Bool.false_eq_true, and_false, if_false, if_true]
  rfl

/-- A reserve board takes over the work where the images are resident. -/
theorem exec_boardRepair_reserve {k : Nat} {w : State}
    (hw : w = (s.failWork n (boardKey d b)).giveUpSwitches n (s.board (boardKey d b)).lb)
    (hr : w.reserveBoard (boardKey d b) = some k) :
    exec (.boardRepair d b) s = .next (if w.imagesResident n (boardKey d b) then
      w.takeOverBoard n (s.board (boardKey d b)).lb (boardKey d b) k else w.leaveDegraded n (boardKey d b)) := by
  show execBoardRepair d b s = _
  have hfew := Nat.not_lt.2 hd
  rw [State.failWork] at hfew
  rw [State.giveUpSwitches, State.failWork] at hw
  subst hw
  simp only [execBoardRepair, hon, hf, hs, hfew, hr, Bool.not_true, Bool.false_eq_true, and_false, if_false, if_true]
  exact (apply_ite Host.Outcome.next _ _ _).symm

end

theorem State.loseDie_lost {s : State} {d : Nat} (h : (s.die d).lost = true) : s.loseDie d = s := if_pos h

theorem exec_dieLoss (d : Die) (s : State) : exec (.dieLoss d) s = .next (s.loseDie d) := rfl

/-- Settles O23: a repair by what the board runs and by the die's failures, a loss by whether the die is lost
already. -/
theorem boardRepairAndDieLoss : Obligations.Board_repair_and_die_loss := by
  refine ⟨?moves, ?idle, ?unit, ?off, ?takesOver, ?notResident, ?nothingToMove, ?noReserve, ?losesDie, ?lostAlready,
    ?lost⟩
  case moves =>
    intro s d b hon hm hf hs
    rw [exec_boardRepair_moves hon hm hf, if_pos hs]
  case idle =>
    intro s d b hon hf hs hmap
    exact exec_boardRepair_idle hon hf hs hmap
  case unit =>
    intro s d b hon hm hf hs
    exact exec_boardRepair_unit hon hm hf hs
  case off =>
    intro s d b hon
    exact exec_boardRepair_off hon
  case takesOver =>
    rintro s d b n _ w k hon hf hs rfl hd hw hr hres hall
    rw [exec_boardRepair_reserve hon hf hs hd hw hr, if_pos]
    rw [State.imagesResident, hres, hall, Bool.and_self]
  case notResident =>
    rintro s d b n _ w k hon hf hs rfl hd hw hr hres
    rw [exec_boardRepair_reserve hon hf hs hd hw hr, State.imagesResident, hres, if_neg Bool.false_ne_true]
    rfl
  case nothingToMove =>
    intro s d b hon hm hf hs
    rw [exec_boardRepair_moves hon hm hf, hs, if_neg (by simp)]
  case noReserve =>
    rintro s d b n _ _ hon hf hs rfl hd rfl hr
    exact exec_boardRepair_noReserve hon hf hs hd hr
  case losesDie =>
    rintro s d b n _ hon hf hs rfl h
    exact exec_boardRepair_losesDie hon hf hs h
  case lostAlready =>
    intro s d h
    rw [exec_dieLoss, State.loseDie_lost h]
  case lost =>
    intro s d
    exact exec_dieLoss d s

end Sys2Proof.Machine
end

section
/-! PROOFS. The score commands (R254, R371, R373, R374). -/

namespace Sys2Proof.Machine

/-! What an acknowledgement and an audit entry leave of the slots, the objects and the rings' scores. -/

namespace State.Beside
variable {s t : State} (h : s.Beside t)
include h

theorem segments (k : Nat) : t.segments k = s.segments k := by
  rw [h.same]
  rfl

theorem imageSlot (id : Nat) (digest : List Byte) : t.imageSlot id digest = s.imageSlot id digest := by
  simp only [State.imageSlot, h.score]

theorem loadSlot (id : Nat) (digest : List Byte) : t.loadSlot id digest = s.loadSlot id digest := by
  simp only [State.loadSlot, h.score]

theorem ringScore {k : Nat} (hk : k < 4096) : t.ringScore k = s.ringScore k := by
  simp only [State.ringScore, h.ringW hk]

/-- Whether a ring names a slot (R371). -/
theorem slotNamed (slot : Nat) :
    (t.ringList.any fun g => t.ringScore g == slot) = s.ringList.any fun g => s.ringScore g == slot := by
  rw [h.ringList, Bool.eq_iff_iff, List.any_eq_true, List.any_eq_true]
  refine exists_congr fun k => and_congr_right fun hk => ?_
  rw [h.ringScore (List.mem_range.1 (List.mem_filter.1 hk).1)]

end State.Beside

/-! SCORE_LOAD of a file that has a slot: the checks of the file, then those of the resources, then the load. -/

/-- The slot of a load that fails is EMPTY, without a record where its score was KEPT (R254, R374). -/
def State.emptySlot (s : State) (slot : Nat) (kept : Bool) : State :=
  let t := (s.releaseScore slot).event 8 (leBytes 1 slot ++ leBytes 1 0)
  if kept then t.saveRecord slot else t

/-- A file in its slot as the load begins: a KEPT score keeps its boards and redirections (R373, R374). -/
def loadingScore (r : Req) (f : ScoreFile) (bs : List Byte) (old : Score) (kept : Bool) : Score :=
  { st := 1, id := leAt bs 8 8, digest := slice bs 160 64, flags := leAt bs 6 2, file := f,
    resident := (leAt bs 6 2).testBit 1, req := some r, kept := kept,
    place := if kept then old.place else [], redir := if kept then old.redir else [] }

/-- A placed score opens its frames: it is LOADED and answered where no plane is left to program, else its planes begin and
the answer comes later (R254, R373). -/
def State.beginLoad (s : State) (r : Req) (slot : Nat) (kept : Bool) : State :=
  let t := ((s.openFrames slot kept).setScore slot { s.score slot with todo := s.loadTodo slot kept }).event 8
    (leBytes 1 slot ++ leBytes 1 2)
  if s.loadTodo slot kept = [] then
    ((t.finishLoad slot).setScore slot { (t.finishLoad slot).score slot with req := none }).finish r 0
      ((t.finishLoad slot).loadWords slot)
  else (t.loadOn slot).addPend { req := r, op := 0x0200, key := slot }

/-- What SCORE_LOAD does with a file in its slot: the first check that fails empties the slot and gives the code (R254). -/
def State.loadFile (s : State) (r : Req) (f : ScoreFile) (sig : Bool) (bs : List Byte) (slot : Nat) : State :=
  let kept := (s.score slot).st == 3
  match s.fileCheck bs f sig with
  | some (c, d) =>
    let t := (s.emptySlot slot kept).take 1
    (if c = 0x0605 then t.bump (hubBase (srcByte r.src / 16 % 2) + 0xA004C) 1 else t).finish r c [word d]
  | none =>
    match (s.setScore slot (loadingScore r f bs (s.score slot) kept)).claim slot kept with
    | .error c => (s.emptySlot slot kept).finish r c [word 0]
    | .ok t => t.beginLoad r slot kept

section
variable {s : State} {r : Req} {f : ScoreFile} {sig : Bool} {bs : List Byte} {slot : Nat}

theorem State.loadFile_bad {code d : Nat} (hcode : code ≠ 0x0605) (hf : s.fileCheck bs f sig = some (code, d))
    (hst : (s.score slot).st ≠ 3) :
    s.loadFile r f sig bs slot = (((s.releaseScore slot).event 8
      (leBytes 1 slot ++ leBytes 1 0)).take 1).finish r code [word d] := by
  simp only [State.loadFile, hf, hcode, State.emptySlot, beq_false_of_ne hst, Bool.false_eq_true, if_false]

theorem State.loadFile_begins {t : State} (hf : s.fileCheck bs f sig = none)
    (hc : (s.setScore slot (loadingScore r f bs (s.score slot) ((s.score slot).st == 3))).claim slot
      ((s.score slot).st == 3) = .ok t) :
    s.loadFile r f sig bs slot = t.beginLoad r slot ((s.score slot).st == 3) := by
  simp only [State.loadFile, hf, hc]

/-- SCORE_LOAD of a file in whole segments, of no image to bring back, that has a slot. -/
theorem exec_scoreLoad_takes (ha : Instr.admitted (.scoreLoad r f sig) s) (hl : s.takesEntry)
    (hseg : s.segments (argw r 1) = .ok bs) (himage : s.imageSlot (leAt bs 8 8) (slice bs 160 64) = none)
    (hslot : s.loadSlot (leAt bs 8 8) (slice bs 160 64) = some slot) :
    exec (.scoreLoad r f sig) s = .next ((Instr.entered (.scoreLoad r f sig) s).loadFile r f sig bs slot) := by
  have k := Instr.entered_beside (.scoreLoad r f sig) s
  refine congrArg Host.Outcome.next
    ((State.command_c (i := .scoreLoad r f sig) (Instr.admitted_checks rfl ha) rfl rfl ?_ hl).trans ?_)
  · intro code d
    simp only [hseg, himage, hslot]
    split
    · exact nofun
    · split
      · exact nofun
      · split <;> exact nofun
  · simp only [k.segments, k.imageSlot, k.loadSlot, hseg, himage, hslot]
    generalize Instr.entered (.scoreLoad r f sig) s = u
    rw [State.loadFile]
    cases u.fileCheck bs f sig with
    | some e => rfl
    | none =>
      dsimp only
      rw [loadingScore]
      cases (u.setScore slot _).claim slot _ with
      | error c => rfl
      | ok t =>
        dsimp only
        rw [State.beginLoad]
        by_cases htodo : t.loadTodo slot ((u.score slot).st == 3) = []
        · rw [if_pos htodo, if_pos htodo]
        · rw [if_neg htodo, if_neg htodo]

/-- SCORE_LOAD of a LOADED score that lost an image brings it back, once its digest and its signature hold (R306, R489). -/
theorem exec_scoreLoad_image (ha : Instr.admitted (.scoreLoad r f true) s) (hl : s.takesEntry)
    (hseg : s.segments (argw r 1) = .ok bs) (himage : s.imageSlot (leAt bs 8 8) (slice bs 160 64) = some slot)
    (hdigest : scoreDigest bs = slice bs 160 64) :
    exec (.scoreLoad r f true) s =
      let u := Instr.entered (.scoreLoad r f true) s
      .next ((u.setScore slot { u.score slot with imgLost := [] }).finish r 0 (u.loadWords slot)) := by
  have k := Instr.entered_beside (.scoreLoad r f true) s
  refine congrArg Host.Outcome.next
    (State.command_c_ok (i := .scoreLoad r f true) (Instr.admitted_checks rfl ha) rfl rfl hl ?_ ?_)
  all_goals
    simp only [k.segments, k.imageSlot, hseg, himage, hdigest, ne_eq, not_true, Bool.not_true, Bool.false_eq_true,
      if_false]
  exact nofun

/-- SCORE_ABORT of a load in progress releases its slot, and the load is answered as stopped (R107, R373). -/
theorem exec_scoreAbort_releases {q : Req} (ha : Instr.admitted (.scoreAbort r) s) (hl : s.takesEntry)
    (hn : argw r 1 < 64) (hst : (s.score (argw r 1)).st = 1 ∨ (s.score (argw r 1)).st = 2)
    (hq : (s.score (argw r 1)).req = some q) :
    exec (.scoreAbort r) s = .next ((((((Instr.entered (.scoreAbort r) s).releaseScore (argw r 1)).event 8
      (leBytes 1 (argw r 1) ++ leBytes 1 0)).unpend q 0x0200).finish q 0x0505 []).finish r 0 []) := by
  have k := Instr.entered_beside (.scoreAbort r) s
  have hheld : (s.score (argw r 1)).st ≠ 0 := by omega
  have hloading : ¬((s.score (argw r 1)).st ≠ 1 ∧ (s.score (argw r 1)).st ≠ 2) := by omega
  refine congrArg Host.Outcome.next
    (State.command_c_ok (i := .scoreAbort r) (Instr.admitted_checks rfl ha) rfl rfl hl ?_ ?_)
  all_goals simp only [k.score, Nat.not_le.2 hn, hheld, hloading, hq, if_false]
  exact nofun

/-- SCORE_RETIRE of a LOADED or KEPT score that no ring names releases its slot and takes its record out (R373, R374). -/
theorem exec_scoreRetire_releases (ha : Instr.admitted (.scoreRetire r) s) (hl : s.takesEntry) (hn : argw r 1 < 64)
    (hst : (s.score (argw r 1)).st = 3 ∨ (s.score (argw r 1)).st = 4)
    (hring : (s.ringList.any fun g => s.ringScore g == argw r 1) = false) :
    exec (.scoreRetire r) s = .next ((((((Instr.entered (.scoreRetire r) s).setScoreSt (argw r 1) 5).releaseScore
      (argw r 1)).saveRecord (argw r 1)).event 8 (leBytes 1 (argw r 1) ++ leBytes 1 0)).finish r 0 []) := by
  have k := Instr.entered_beside (.scoreRetire r) s
  have hheld : (s.score (argw r 1)).st ≠ 0 := by omega
  have hloaded : ¬((s.score (argw r 1)).st ≠ 3 ∧ (s.score (argw r 1)).st ≠ 4) := by omega
  refine congrArg Host.Outcome.next
    (State.command_c_ok (i := .scoreRetire r) (Instr.admitted_checks rfl ha) rfl rfl hl ?_ ?_)
  all_goals simp only [k.score, k.slotNamed, Nat.not_le.2 hn, hheld, hloaded, hring, Bool.false_eq_true, if_false]
  exact nofun

end

/-- Settles O27, by the cases of State.command: what each command's own part answers, or the code it refuses with; a load
that has its slot by the first of its checks that fails. -/
theorem scoreCommands : Obligations.Score_commands := by
  refine ⟨?info, ?noSlot, ?list, ?noFile, ?slotsTaken, ?image, ?badFile, ?loads, ?abortEmpty, ?abortLoaded, ?aborts,
    ?retireEmpty, ?ringNames, ?retires⟩
  case info =>
    intro s r ha hn
    refine congrArg Host.Outcome.next (State.command_ok (Instr.admitted_checks rfl ha) rfl ?_)
    exact if_neg (Nat.not_le.2 hn)
  case noSlot =>
    intro s r ha hn
    refine congrArg Host.Outcome.next (State.command_refuse (Instr.admitted_checks rfl ha) ?_)
    exact if_pos hn
  case list =>
    intro s r ha
    exact congrArg Host.Outcome.next (State.command_ok (Instr.admitted_checks rfl ha) rfl rfl)
  case noFile =>
    intro s r f sig code ha hseg
    refine congrArg Host.Outcome.next (State.command_refuse (Instr.admitted_checks rfl ha) ?_)
    simp only [hseg]
  case slotsTaken =>
    intro s r f sig bs ha hseg himage hslot
    refine congrArg Host.Outcome.next (State.command_refuse (Instr.admitted_checks rfl ha) ?_)
    simp only [hseg, himage, hslot]
  case image =>
    rintro s r f _ bs n ha hl hseg himage hdigest rfl
    exact exec_scoreLoad_image ha hl hseg himage hdigest
  case badFile =>
    intro s r f sig bs n code d ha hl hseg himage hslot hcode hf hst
    rw [exec_scoreLoad_takes ha hl hseg himage hslot, State.loadFile_bad hcode hf hst]
  case loads =>
    rintro s r f sig bs n _ v ha hl hseg himage hslot hf rfl hc
    rw [exec_scoreLoad_takes ha hl hseg himage hslot, State.loadFile_begins hf hc]
    rfl
  case abortEmpty =>
    intro s r ha hn hst
    refine congrArg Host.Outcome.next (State.command_refuse (Instr.admitted_checks rfl ha) ?_)
    simp only [Nat.not_le.2 hn, hst, if_false, if_true]
  case abortLoaded =>
    intro s r ha hn hst
    refine congrArg Host.Outcome.next (State.command_refuse (Instr.admitted_checks rfl ha) ?_)
    simp only [Nat.not_le.2 hn, hst, OfNat.ofNat_ne_zero, OfNat.ofNat_ne_one, Nat.reduceEqDiff, ne_eq, not_false_eq_true,
      and_self, if_false, if_true]
  case aborts =>
    intro s r q ha hl hn hst hq
    exact exec_scoreAbort_releases ha hl hn hst hq
  case retireEmpty =>
    intro s r ha hn hst
    refine congrArg Host.Outcome.next (State.command_refuse (Instr.admitted_checks rfl ha) ?_)
    simp only [Nat.not_le.2 hn, hst, if_false, if_true]
  case ringNames =>
    intro s r ha hn hst hring
    refine congrArg Host.Outcome.next (State.command_refuse (Instr.admitted_checks rfl ha) ?_)
    simp only [Nat.not_le.2 hn, hst, hring, OfNat.ofNat_ne_zero, ne_eq, not_true, and_false, if_false, if_true]
  case retires =>
    intro s r ha hl hn hst hring
    exact exec_scoreRetire_releases ha hl hn hst hring

end Sys2Proof.Machine
end

section
/-! PROOFS. Memory packets, packets that are not used, and the routing order of a die. -/

namespace Sys2Proof.Machine

/-! Packets that may not be used (R268, R290). -/

/-- The commands by which a packet reaches its destination and has there the meaning of its type (R270). -/
inductive BringsPacket (p : Pkt) : Instr → Prop
  | carry : BringsPacket p (.carryPacket p)
  | strokeCarry : BringsPacket p (.scarryPacket p)
  | forward : BringsPacket p (.sfwdPacket p)
  | act : BringsPacket p (.actPacket p)
  | read (a n : Nat) : BringsPacket p (.memRdPacket p a n)
  | write (a : Nat) : BringsPacket p (.memWrPacket p a)
  | response : BringsPacket p (.memRspPacket p)
  | maximum : BringsPacket p (.amaxPacket p)
  | switch : BringsPacket p (.switchPacket p)
  | ack : BringsPacket p (.ackPacket p)
  | reserved : BringsPacket p (.reservedPacket p)

/-- A packet that is not accepted has no effect beyond what its arrival had. -/
theorem exec_brings_refused {s u : State} {p : Pkt} {i : Instr} (hi : BringsPacket p i)
    (ha : s.accept p = (u, false)) : exec i s = .next u := by
  cases hi <;>
    simp only [exec, execCarryPacket, execScarryPacket, execSfwdPacket, execActPacket, execMemRdPacket,
      execMemWrPacket, execMemRspPacket, execAmaxPacket, execSwitchPacket, execAckPacket, execReservedPacket, ha]

theorem exec_brings_stray {s : State} {p : Pkt} {i : Instr} (hi : BringsPacket p i) (o : s.outOfTurn p = false)
    (h : s.unroutable p = true) : exec i s = .next ((s.arrive p).strayed p) :=
  exec_brings_refused hi (State.accept_stray o h)

theorem exec_brings_bad {s : State} {p : Pkt} {i : Instr} (hi : BringsPacket p i) (o : s.outOfTurn p = false)
    (h : s.unroutable p = false) (hb : badPkt p = true) : exec i s = .next ((s.arrive p).poisoned p) :=
  exec_brings_refused hi (State.accept_bad o h hb)

/-! Memory packets (R286, R296, R305, R314). -/

/-- The packet that goes back to the source of a read (R305). -/
def readReply (p : Pkt) : Pkt :=
  { p with type := 6, vc := 2, mc := false, member := none, srcNode := p.dstNode, srcBoard := p.dstBoard,
           dstNode := p.srcNode, dstBoard := p.srcBoard, lsrc := 0, epoch := 0 }

/-- The i-th packet of the answer to a read of n bytes at m: at most 2,048 of them, marked where memory holds them
uncorrectable (R296, R305). -/
def State.sendReadPart (p : Pkt) (m n : Nat) (s : State) (i : Nat) : State :=
  s.sendPkt { readReply p with
    addr := p.addr + 256 * i, poison := s.memBad (m + 2048 * i) (min 2048 (n - 2048 * i)),
    payload := s.load (m + 2048 * i) (min 2048 (n - 2048 * i)) }

/-- An access to no memory counted at the board it came from (R314). -/
def State.countNoMem (s : State) (p : Pkt) : State :=
  if p.srcNode < 32 then s.bump (bkBase (pktSrc p) + 0x46088) 1 else s

/-- A write that fails the epoch test counted at its hub (R286). -/
def State.countDiscard (s : State) (p : Pkt) : State :=
  { s with fb.disc := s.fb.disc.set (p.dstNode - 32) (s.fb.disc.getD (p.dstNode - 32) 0 + 1) }

/-- The answer to a read of at most 2,048 bytes is one packet. -/
theorem State.sendReadParts_one (s : State) (p : Pkt) (m : Nat) {n : Nat} (hn : n ≠ 0) (hs : n ≤ 2048) :
    (List.range (cdiv n 2048)).foldl (State.sendReadPart p m n) s =
      s.sendPkt { readReply p with addr := p.addr, poison := s.memBad m n, payload := s.load m n } := by
  have hone : cdiv n 2048 = 1 := by
    unfold cdiv
    omega
  simp only [hone, List.range_one, List.foldl_cons, List.foldl_nil, State.sendReadPart, Nat.mul_zero, Nat.add_zero,
    Nat.sub_zero, Nat.min_eq_right hs]

section
variable {s : State} {p : Pkt} (o : s.outOfTurn p = false) (h : s.unroutable p = false) (hb : badPkt p = false)
include o h hb

/-- A read of no bytes is no operation (R11). -/
theorem exec_memRdPacket_nothing (a : Nat) : exec (.memRdPacket p a 0) s = .next (s.arrive p) := by
  show execMemRdPacket p a 0 s = _
  simp only [execMemRdPacket, State.accept_sound o h hb, if_true]

/-- A read of no memory is counted and answered poisoned (R314). -/
theorem exec_memRdPacket_noMem {a n : Nat} (hn : n ≠ 0) (hm : isMem a = false ∨ isMem (a + n - 1) = false) :
    exec (.memRdPacket p a n) s = .next (((s.arrive p).countNoMem p).sendPkt
      { readReply p with poison := true, payload := List.replicate 32 0 }) := by
  show execMemRdPacket p a n s = _
  simp only [execMemRdPacket, State.accept_sound o h hb, hn, if_false, Bool.not_eq_true', if_pos hm]
  rfl

/-- A read of memory finds its bytes, in packets of at most 2,048, or fails its job (R296, R298, R317). -/
theorem exec_memRdPacket_mem {a n : Nat} (hn : n ≠ 0) (ha : isMem a = true) (he : isMem (a + n - 1) = true) :
    exec (.memRdPacket p a n) s = .next (((s.arrive p).memTarget p a n).elim ((s.arrive p).jobFault p.job 0x0306)
      fun m => (List.range (cdiv n 2048)).foldl (State.sendReadPart p m n) (s.arrive p)) := by
  show execMemRdPacket p a n s = _
  simp only [execMemRdPacket, State.accept_sound o h hb, hn, ha, he, Bool.not_true, Bool.false_eq_true, or_self,
    if_false]
  cases (s.arrive p).memTarget p a n <;> rfl

/-- A write to no memory is counted where it came from (R314). -/
theorem exec_memWrPacket_noMem {a : Nat} (hm : isMem a = false ∨ isMem (a + p.payload.length - 1) = false) :
    exec (.memWrPacket p a) s = .next ((s.arrive p).countNoMem p) := by
  show execMemWrPacket p a s = _
  simp only [execMemWrPacket, State.accept_sound o h hb, Bool.not_eq_true', if_pos hm]
  rfl

/-- A write to memory that fails the epoch test is discarded, counted and acknowledged (R286). -/
theorem exec_memWrPacket_stale {a : Nat} (ha : isMem a = true) (he : isMem (a + p.payload.length - 1) = true)
    (hep : (s.arrive p).epochOk p = false) :
    exec (.memWrPacket p a) s = .next (((s.arrive p).countDiscard p).ackPacket p) := by
  show execMemWrPacket p a s = _
  simp only [execMemWrPacket, State.accept_sound o h hb, ha, he, hep, Bool.not_true, Bool.not_false,
    Bool.false_eq_true, or_self, if_false, if_true]
  rfl

/-- A write to memory that passes the epoch test is stored and acknowledged, or fails its job (R286, R296, R317). -/
theorem exec_memWrPacket_mem {a : Nat} (ha : isMem a = true) (he : isMem (a + p.payload.length - 1) = true)
    (hep : (s.arrive p).epochOk p = true) :
    exec (.memWrPacket p a) s = .next (((s.arrive p).memTarget p a p.payload.length).elim
      ((s.arrive p).jobFault p.job 0x0306) fun m => ((s.arrive p).memWrite m p.payload).ackPacket p) := by
  show execMemWrPacket p a s = _
  simp only [execMemWrPacket, State.accept_sound o h hb, ha, he, hep, Bool.not_true, Bool.false_eq_true,
    or_self, if_false]
  cases (s.arrive p).memTarget p a p.payload.length <;> rfl

/-- A response is stored on the slate its request named, or read by Porell (R305). -/
theorem exec_memRspPacket_sound :
    exec (.memRspPacket p) s = .next (if p.dstNode < 32 then (s.arrive p).actStore (pktDst p) p
      else { s.arrive p with rdata := word (leAt p.payload 0 4) }) := by
  show execMemRspPacket p s = _
  simp only [execMemRspPacket, State.accept_sound o h hb]
  exact (apply_ite _ _ _ _).symm

/-- A packet of a reserved type is counted at the board it was sent to (R270). -/
theorem exec_reservedPacket_sound (ht : 12 ≤ p.type) (hd : p.dstNode < 32) :
    exec (.reservedPacket p) s = .next ((s.arrive p).bump (bkBase (pktDst p) + 0x46088) 1) := by
  show execReservedPacket p s = _
  simp only [execReservedPacket, State.accept_sound o h hb, ht, hd, and_self, if_true]

end

/-! Poison and lanes (R271, R290). -/

/-- The lane of a die by which a poisoned packet came. -/
def poisonLane (p : Pkt) (lane : Fin 4) : Nat := 4 * p.member.getD p.dstBoard + lane

/-- The poisoned packets of the last second at a die, this one of a lane with them. -/
def State.poisonSeen (s : State) (p : Pkt) (lane : Fin 4) : List Nat :=
  (s.die p.dstNode).poison.filter (fun e => decide (s.now < e / 1024 + 1000000000)) ++
    [s.now * 1024 + poisonLane p lane]

/-- A poisoned packet noted at its die; the third of a lane within 1 s disables the lane, once (R290). -/
def State.notePoison (s : State) (p : Pkt) (lane : Fin 4) : State :=
  let v := s.setDie p.dstNode { s.die p.dstNode with poison := s.poisonSeen p lane }
  if 3 ≤ ((s.poisonSeen p lane).filter fun e => e % 1024 == poisonLane p lane).length ∧
      v.disabled (mapLane (pktDst p) lane) = false then v.loseLane (pktDst p) lane
  else v

theorem exec_poisonPacket_hub (s : State) {p : Pkt} (lane : Fin 4) (hd : 32 ≤ p.dstNode) :
    exec (.poisonPacket p lane) s = .next ((s.arrive p).poisoned p) := by
  show execPoisonPacket p lane s = _
  simp only [execPoisonPacket, hd, true_or, if_true]

theorem exec_poisonPacket_board (s : State) {p : Pkt} (lane : Fin 4) (hd : p.dstNode < 32)
    (hb : p.member.getD p.dstBoard < 192) :
    exec (.poisonPacket p lane) s = .next (((s.arrive p).poisoned p).notePoison p lane) := by
  show execPoisonPacket p lane s = _
  simp only [execPoisonPacket, Nat.not_le.2 hd, Nat.not_le.2 hb, or_self, if_false, Bool.not_eq_true']
  rfl

/-- A die changes its routing order once no packet holds a lane of it (R271). -/
theorem exec_laneRoutingSwitch (s : State) (d : Die) :
    exec (.laneRoutingSwitch d) s =
      .next (if (s.aboard.any fun p => (s.lanesOf p).any fun l => l / 768 == d.val) = true then s
        else (s.setDie d { s.die d with yfirst := (s.die d).yWant }).flow) :=
  (apply_ite _ _ _ _).symm

/-- Settles O17: a packet in its turn is accepted and has the meaning of its type (State.accept_sound), or has none of
its own (exec_brings_stray, exec_brings_bad). -/
theorem packetsToMemoryAndStrays : Obligations.Packets_to_memory_and_strays := by
  refine ⟨?readNothing, ?reads, ?readsOne, ?readFails, ?readNoMem, ?hubReadNoMem, ?writes, ?writeFails, ?writeNoMem,
    ?writeStale, ?response, ?hubResponse, ?poisonAtHub, ?poisonAtBoard, ?reserved,
    fun s p => exec_brings_stray .carry, fun s p => exec_brings_bad .carry,
    fun s p => exec_brings_stray .strokeCarry, fun s p => exec_brings_bad .strokeCarry,
    fun s p => exec_brings_stray .forward, fun s p => exec_brings_bad .forward,
    fun s p => exec_brings_stray .act, fun s p => exec_brings_bad .act,
    fun s p a n => exec_brings_stray (.read a n), fun s p a n => exec_brings_bad (.read a n),
    fun s p a => exec_brings_stray (.write a), fun s p a => exec_brings_bad (.write a),
    fun s p => exec_brings_stray .response, fun s p => exec_brings_bad .response,
    fun s p => exec_brings_stray .maximum, fun s p => exec_brings_bad .maximum,
    fun s p => exec_brings_stray .switch, fun s p => exec_brings_bad .switch,
    fun s p => exec_brings_stray .ack, fun s p => exec_brings_bad .ack,
    fun s p => exec_brings_stray .reserved, fun s p => exec_brings_bad .reserved, ?lanesIdle, ?lanesBusy⟩
  case readNothing =>
    rintro s p a n o h hb rfl
    exact exec_memRdPacket_nothing o h hb a
  case reads =>
    intro s p a n k o h hb hn ha he hk
    rw [exec_memRdPacket_mem o h hb hn ha he, hk]
    rfl
  case readsOne =>
    intro s p a n k o h hb ha he hk hn hs
    rw [exec_memRdPacket_mem o h hb hn ha he, hk, Option.elim_some, State.sendReadParts_one _ p k hn hs]
    rfl
  case readFails =>
    intro s p a n o h hb ha he hn hk
    rw [exec_memRdPacket_mem o h hb hn ha he, hk, Option.elim_none]
  case readNoMem =>
    intro s p a n o h hb hn hm hd
    rw [exec_memRdPacket_noMem o h hb hn hm, State.countNoMem, if_pos hd]
    rfl
  case hubReadNoMem =>
    intro s p a n o h hb hn hm hd
    rw [exec_memRdPacket_noMem o h hb hn hm, State.countNoMem, if_neg (Nat.not_lt.2 hd)]
    rfl
  case writes =>
    intro s p a k o h hb ha he hep hk
    rw [exec_memWrPacket_mem o h hb ha he hep, hk, Option.elim_some]
  case writeFails =>
    intro s p a o h hb ha he hep hk
    rw [exec_memWrPacket_mem o h hb ha he hep, hk, Option.elim_none]
  case writeNoMem =>
    intro s p a o h hb hm hd
    rw [exec_memWrPacket_noMem o h hb hm, State.countNoMem, if_pos hd]
  case writeStale =>
    intro s p a o h hb ha he hep
    exact exec_memWrPacket_stale o h hb ha he hep
  case response =>
    intro s p o h hb hd
    rw [exec_memRspPacket_sound o h hb, if_pos hd]
  case hubResponse =>
    intro s p o h hb hd
    rw [exec_memRspPacket_sound o h hb, if_neg (Nat.not_lt.2 hd)]
  case poisonAtHub =>
    intro s p lane hd
    exact exec_poisonPacket_hub s lane hd
  case poisonAtBoard =>
    intro s p lane hd hb
    exact ⟨_, exec_poisonPacket_board s lane hd hb, rfl⟩
  case reserved =>
    intro s p o h hb ht hd
    exact exec_reservedPacket_sound o h hb ht hd
  case lanesIdle =>
    intro s d hidle
    rw [exec_laneRoutingSwitch, if_neg (Bool.eq_false_iff.1 hidle)]
  case lanesBusy =>
    intro s d hbusy
    rw [exec_laneRoutingSwitch, if_pos hbusy]

end Sys2Proof.Machine
end

section
/-! PROOFS. The frames of a link, its idle frames and its silence. -/

namespace Sys2Proof.Machine

/-- A good frame noted, and its acknowledgement or NAK taken (R280). -/
def State.heard (s : State) (k : Nat) (fr : LinkFrame) : State :=
  let u := (s.setLink k { s.link k with lastRx := s.now }).linkAcked k fr.ack
  if fr.nak then u.linkNaked k fr.ack else u

/-- A frame whose through-hub sequence its link end has passed (R486). -/
def Link.passed (x : Link) (fr : LinkFrame) : Bool :=
  match fr.through with | some t => decide (t < x.thRx) | none => false

/-- The through-hub sequence that a link end awaits after a frame (R486). -/
def Link.throughAfter (x : Link) (fr : LinkFrame) : Nat :=
  match fr.through with | some t => max x.thRx (t + 1) | none => x.thRx

/-- A link end that has taken a frame in sequence; the flits of one that has been passed are not released (R280,
R486). -/
def Link.advance (x : Link) (fr : LinkFrame) : Link :=
  { x with rxSeq := (x.rxSeq + 1) % 4096, thRx := x.throughAfter fr,
           relN := if x.passed fr then x.relN else (x.relN + fr.flits.length) % 2 ^ 32 }

/-- A link end of this state advanced by a frame. -/
def State.advanceLink (s : State) (k : Nat) (fr : LinkFrame) : State := s.setLink k ((s.link k).advance fr)

/-- What a good frame does at a link end that awaited sequence n (R280). -/
def State.frameTaken (s : State) (k n : Nat) (fr : LinkFrame) : State :=
  if fr.idle then s.linkCredits k fr.credits
  else if fr.seq = n then ((s.linkCredits k fr.credits).advanceLink k fr).emit (.linkAck k ((n + 1) % 4096))
  else if frameBefore fr.seq n then s.emit (.linkAck k n)
  else s.emit (.linkNak k n)

section
variable {s : State} {l : LinkEnd} {fr : LinkFrame}

theorem exec_linkFrameRx_down (hl : s.linkState (endKey l) < 2) : exec (.linkFrameRx l fr) s = .next s := by
  show execLinkFrameRx l fr s = _
  exact if_pos hl

/-- A frame with a bad CRC is counted and answered by a NAK (R280). -/
theorem exec_linkFrameRx_badCrc (hl : 2 ≤ s.linkState (endKey l)) (hc : fr.crcOk = false) :
    exec (.linkFrameRx l fr) s = .next ((s.bump (linkBase (endKey l) + 0x10) 1).emit
      (.linkNak (endKey l) (s.link (endKey l)).rxSeq)) := by
  show execLinkFrameRx l fr s = _
  simp only [execLinkFrameRx, Nat.not_lt.2 hl, hc, Bool.not_false, if_false, if_true]

/-- A good frame is heard and taken, and held packets follow (R280). -/
theorem exec_linkFrameRx_good (hl : 2 ≤ s.linkState (endKey l)) (hc : fr.crcOk = true) :
    exec (.linkFrameRx l fr) s =
      .next (((s.heard (endKey l) fr).frameTaken (endKey l) (s.link (endKey l)).rxSeq fr).release (endKey l)) := by
  show execLinkFrameRx l fr s = _
  simp only [execLinkFrameRx, Nat.not_lt.2 hl, hc, Bool.not_true, Bool.false_eq_true, if_false]
  rfl

end

/-- A frame that went through no hub advances the sequence alone (R280). -/
theorem Link.advance_direct (x : Link) {fr : LinkFrame} (h : fr.through = none) :
    x.advance fr = { x with rxSeq := (x.rxSeq + 1) % 4096, relN := (x.relN + fr.flits.length) % 2 ^ 32 } := by
  simp only [Link.advance, Link.throughAfter, Link.passed, h, Bool.false_eq_true, if_false]

/-- A frame that went through a hub advances the through-hub sequence too, and is released unless that has been
passed (R486). -/
theorem Link.advance_through (x : Link) {fr : LinkFrame} {n : Nat} (h : fr.through = some n) :
    x.advance fr = { x with
      rxSeq := (x.rxSeq + 1) % 4096, thRx := max x.thRx (n + 1),
      relN := if n < x.thRx then x.relN else (x.relN + fr.flits.length) % 2 ^ 32 } := by
  simp only [Link.advance, Link.throughAfter, Link.passed, h, decide_eq_true_eq]

/-- A link that is up sends an idle frame once it has sent nothing for 1 us (R280). -/
theorem exec_linkIdleFrame (s : State) (l : LinkEnd) :
    exec (.linkIdleFrame l) s =
      .next (if s.linkState (endKey l) < 2 ∨ s.now < (s.link (endKey l)).lastTx + 1000 then s
        else (s.setLink (endKey l) { s.link (endKey l) with lastTx := s.now }).emit (.idle (endKey l))) :=
  (apply_ite _ _ _ _).symm

/-- A link that is up goes down once it has heard nothing for 16 us (R280). -/
theorem exec_linkSilenceTimeout (s : State) (l : LinkEnd) :
    exec (.linkSilenceTimeout l) s =
      .next (if s.linkState (endKey l) < 2 ∨ s.now < (s.link (endKey l)).lastRx + 16000 then s
        else s.declareDown (endKey l)) :=
  (apply_ite _ _ _ _).symm

/-- Settles O18: a good frame is heard (State.heard) and then taken by its place in the sequence (State.frameTaken). -/
theorem linkFrames : Obligations.Link_frames := by
  refine ⟨?badCrc, ?idleFrame, ?inSequence, ?throughHub, ?earlier, ?beyond, ?down, ?idles, ?busy, ?silent, ?heard⟩
  case badCrc =>
    intro s l fr hl hc
    exact exec_linkFrameRx_badCrc hl hc
  case idleFrame =>
    intro s l fr hl hc hi
    rw [exec_linkFrameRx_good hl hc, State.frameTaken, if_pos hi]
    rfl
  case inSequence =>
    intro s l fr hl hc hi hq ht
    rw [exec_linkFrameRx_good hl hc, State.frameTaken, if_neg (Bool.eq_false_iff.1 hi), if_pos hq, State.advanceLink,
      Link.advance_direct _ ht]
    rfl
  case throughHub =>
    intro s l fr n hl hc hi hq ht
    rw [exec_linkFrameRx_good hl hc, State.frameTaken, if_neg (Bool.eq_false_iff.1 hi), if_pos hq, State.advanceLink,
      Link.advance_through _ ht]
    rfl
  case earlier =>
    intro s l fr hl hc hi hq hbefore
    rw [exec_linkFrameRx_good hl hc, State.frameTaken, if_neg (Bool.eq_false_iff.1 hi), if_neg hq, if_pos hbefore]
    rfl
  case beyond =>
    intro s l fr hl hc hi hq hbefore
    rw [exec_linkFrameRx_good hl hc, State.frameTaken, if_neg (Bool.eq_false_iff.1 hi), if_neg hq,
      if_neg (Bool.eq_false_iff.1 hbefore)]
    rfl
  case down =>
    intro s l fr hl
    exact exec_linkFrameRx_down hl
  case idles =>
    intro s l hl hnow
    rw [exec_linkIdleFrame, if_neg (not_or.2 ⟨Nat.not_lt.2 hl, Nat.not_lt.2 hnow⟩)]
  case busy =>
    intro s l hnow
    rw [exec_linkIdleFrame, if_pos (.inr hnow)]
  case silent =>
    intro s l hl hnow
    rw [exec_linkSilenceTimeout, if_neg (not_or.2 ⟨Nat.not_lt.2 hl, Nat.not_lt.2 hnow⟩)]
  case heard =>
    intro s l hnow
    rw [exec_linkSilenceTimeout, if_pos (.inr hnow)]

end Sys2Proof.Machine
end

section
/-! PROOFS. The retrain of a link, a link that goes down, its route fence, and the copies sent again at a takeover. -/

namespace Sys2Proof.Machine

/-- The unacknowledged frames of a link gone down, in order behind those that already wait for the new route (R281). -/
def State.keepFrames (s : State) (k : Nat) : State :=
  s.putLink k { s.link k with downAt := none, reinject := (s.link k).reinject ++ (s.link k).retry, retry := [] }

/-- A fence at a link, once (R275). -/
def State.fence (s : State) (k : Nat) : State :=
  { s with fb.fences := if s.fb.fences.contains k then s.fb.fences else s.fb.fences ++ [k] }

/-- A retrain that ends brings its link up, or the link goes down, with its disagreement marked where the counts of its
ends differ (R277, R280). -/
theorem exec_linkRetrainDone {s : State} {l : LinkEnd} (ht : s.linkState (endKey l) = 1) (ok agree : Bool) :
    exec (.linkRetrainDone l ok agree) s =
      .next (if !ok then s.declareDown (endKey l) else if !agree then s.creditFault (endKey l)
        else (s.linkUp (endKey l)).release (endKey l)) := by
  show execLinkRetrainDone l ok agree s = _
  simp only [execLinkRetrainDone, ht, ne_eq, not_true, if_false]
  cases ok <;> cases agree <;> rfl

/-- A link gone down keeps its frames for the new route behind a fence (R275, R281). -/
theorem exec_linkDown (s : State) (l : LinkEnd) :
    exec (.linkDown l) s =
      .next (if (s.link (endKey l)).downAt.isNone then s else (s.keepFrames (endKey l)).fence (endKey l)) :=
  (apply_ite _ _ _ _).symm

/-- A fence ends once no frame of its link waits (R275, R281). -/
theorem exec_routeFenceComplete (s : State) (l : LinkEnd) :
    exec (.routeFenceComplete l) s =
      .next (if s.fb.fences.contains (endKey l) = false ∨ (s.link (endKey l)).retry ≠ [] then s
        else (((s.unfence (endKey l)).passFrames (endKey l)).rerouteHeld (endKey l)).flow) := by
  show execRouteFenceComplete l s = _
  simp only [execRouteFenceComplete, Bool.not_eq_true']
  exact (apply_ite _ _ _ _).symm

/-- A packet kept for a hub, addressed to the other one where it was for that hub (R486). -/
def rehubbed (h : Hub) (p : Pkt) : Pkt :=
  let q := if p.dstNode = 32 + h.val then { p with dstNode := 33 - h } else p
  { q with hcrc := pktCrc { q with hcrc := 0 } }

/-- A kept copy of a packet sent again in place of the packet that was lost (R486). -/
def State.resendCopy (h : Hub) (s : State) (c : Nat × Pkt) : State :=
  ({ s with fb.net := s.fb.net.erase c.2 } : State).launch (rehubbed h c.2)

/-- The copies of one port board for a hub counted at the other hub and sent again, in order (R486). -/
def State.resendPort (h : Hub) (s : State) (n : Nat) : State :=
  (s.link (portEnd n h)).copies.foldl (State.resendCopy h)
    ((s.setLink (portEnd n h) { s.link (portEnd n h) with copies := [] }).bump (hubBase (1 - h.val) + 0xB0048)
      (s.link (portEnd n h)).copies.length)

/-- After a takeover the eight port boards send the copies they kept for a fenced hub (R486). -/
theorem exec_heldPacketResend (s : State) (h : Hub) :
    exec (.heldPacketResend h) s =
      .next (if s.sv.fenced.getD h false = false then s else (List.range 8).foldl (State.resendPort h) s) := by
  show execHeldPacketResend h s = _
  simp only [execHeldPacketResend, Bool.not_eq_true']
  exact (apply_ite _ _ _ _).symm

/-- Settles O19: each operation has one check (the end of a retrain, a link gone down, the end of a fence, the resend),
and the clauses are its outcomes. -/
theorem linkTrainingAndRoutes : Obligations.Link_training_and_routes := by
  refine ⟨?retrain, ?ownRetrain, ?ownDown, ?up, ?failed, ?disagree, ?down, ?notDown, ?fenceEnds, ?fenceStays,
    ?notFenced, ?resend⟩
  case retrain | ownRetrain | ownDown =>
    exact fun _ _ => rfl
  case up =>
    intro s l ht
    exact exec_linkRetrainDone ht true true
  case failed =>
    intro s l agree ht
    exact exec_linkRetrainDone ht false agree
  case disagree =>
    intro s l ht
    exact exec_linkRetrainDone ht true false
  case down =>
    intro s l hd
    rw [exec_linkDown, if_neg (Bool.eq_false_iff.1 (Option.isNone_eq_false_iff.2 hd))]
    rfl
  case notDown =>
    intro s l hd
    rw [exec_linkDown, if_pos (Option.isNone_iff_eq_none.2 hd)]
  case fenceEnds =>
    intro s l hf hr
    rw [exec_routeFenceComplete, if_neg (not_or.2 ⟨ne_false_of_eq_true hf, not_not.2 hr⟩)]
  case fenceStays =>
    intro s l h
    rw [exec_routeFenceComplete, if_pos h]
  case notFenced =>
    intro s h hf
    rw [exec_heldPacketResend, if_pos hf]
  case resend =>
    intro s h hf
    rw [exec_heldPacketResend, if_neg (ne_false_of_eq_true hf)]
    rfl

end Sys2Proof.Machine
end

section
/-! PROOFS. A step keeps the maps in canonical form. -/

namespace Sys2Proof.Machine

/-- A nanosecond keeps the maps canonical, and so does every command; the queue, which the step shortens, has no part in
the form. -/
theorem step_wf {s t : State} (hwf : s.wf = true) (h : step s = .next t) : t.wf = true := by
  cases hq : s.pending with
  | nil =>
    rw [step_of_empty hq] at h
    cases h
    exact s.tick_keeps.wf hwf
  | cons c rest =>
    rw [step_of_cons hq] at h
    have popped : State.wf { s with pending := rest } = true := hwf
    exact ((exec_keeps c _).out t h).wf popped

/-- Settles O50, from what time (State.tick_keeps) and each command (exec_keeps) keep. -/
theorem stepsKeepTheCanonicalForm : Obligations.Steps_keep_the_canonical_form := fun _ _ => step_wf

end Sys2Proof.Machine
end

section
/-! PROOFS. The slate and DRAM scrubs, refresh, the failure of a channel and the mirrors of rings. -/

namespace Sys2Proof.Machine

/-- What the scrub of a powered die makes of a slate word (R293). -/
def State.slateScrubbed (s : State) (d : Die) (b : Brd) (wi : Fin 16384) : EccErr → State
  | .clean => s
  | .corrected => s.countCorrected (boardKey d b)
  | .uncorrectable => (s.zeroRange (boardBase d b + 8 * wi.val) 8).log 0x109 [d, b, wi]

theorem exec_slateScrub (s : State) (d : Die) (b : Brd) (wi : Fin 16384) (e : EccErr) :
    exec (.slateScrub d b wi e) s = .next (if (s.die d).on = true then s.slateScrubbed d b wi e else s) := by
  show execSlateScrub d b wi e s = _
  cases hon : (s.die d).on <;> simp only [execSlateScrub, hon] <;> cases e <;> rfl

/-- Of a slate word that cannot be corrected, the scrub zeroes the eight bytes and no other. -/
theorem State.byte_slateScrubbed_uncorrectable (s : State) (d : Die) (b : Brd) (wi : Fin 16384) (a : Nat) :
    (s.slateScrubbed d b wi .uncorrectable).byte a =
      if boardBase d b + 8 * wi.val ≤ a ∧ a < boardBase d b + 8 * wi.val + 8 then 0 else s.byte a :=
  State.byte_zeroRange s _ 8 a

/-- What the patrol scrub makes of a block of DRAM (R305). -/
def State.dramScrubbed (s : State) (k : Nat) : EccErr → State
  | .clean => s
  | .corrected => s.countCorrected (8192 + chanOf (256 * k))
  | .uncorrectable => s.uncorrectable k

theorem exec_dramPatrolScrub {s : State} {h : Hub} {blk : Nat} (hblk : blk < 0xF800000)
    (hch : (s.chan (chanOf (256 * (h.val * 0x10000000 + blk)))).failed = false) (e : EccErr) :
    exec (.dramPatrolScrub h blk e) s = .next (s.dramScrubbed (h.val * 0x10000000 + blk) e) := by
  have serves : ¬ (0xF800000 ≤ blk ∨ (s.chan (chanOf (256 * (h.val * 0x10000000 + blk)))).failed = true) :=
    not_or.2 ⟨Nat.not_le.2 hblk, Bool.eq_false_iff.1 hch⟩
  show execDramPatrolScrub h blk e s = _
  simp only [execDramPatrolScrub, serves, if_false]
  cases e <;> rfl

/-- A ring that runs on one copy is mirrored again once the other hub serves, with every channel of both (R313). -/
theorem exec_mirrorResyncDone {s : State} {g : Fin 4096} {n : Nat} (hn : (s.ring g).lone = some n) :
    exec (.mirrorResyncDone g) s =
      .next (if s.sv.alive.getD (1 - n) false = true ∧ s.chanFailed (1 - n) = false ∧ s.chanFailed n = false then
        (s.ranUnmirrored g).setRing g { s.ring g with lone := none } else s) := by
  show execMirrorResyncDone g s = _
  simp only [execMirrorResyncDone, hn, Bool.not_eq_true']
  exact (apply_ite _ _ _ _).symm

/-- Settles O20: each scrub by what it finds (State.slateScrubbed, State.dramScrubbed), a ring by whether both its hubs
serve; refresh, the rate field and the events of a channel have one meaning each. -/
theorem memoryMaintenance : Obligations.Memory_maintenance := by
  refine ⟨?slateCorrected, ?slateLost, ?slateBytes, ?slateSame, ?dramCorrected, ?dramLost,
    fun _ _ _ _ => rfl, fun _ _ _ => rfl, fun _ _ _ _ => rfl, ?mirrored, ?lone⟩
  case slateCorrected | slateLost =>
    intro s d b wi hon
    rw [exec_slateScrub, if_pos hon]
    rfl
  case slateBytes =>
    intro s d b wi hon
    refine ⟨s.slateScrubbed d b wi .uncorrectable, ?_, s.byte_slateScrubbed_uncorrectable d b wi⟩
    rw [exec_slateScrub, if_pos hon]
  case slateSame =>
    rintro s d b wi e (hoff | rfl) <;> rw [exec_slateScrub]
    · rw [if_neg (Bool.eq_false_iff.1 hoff)]
    · exact congrArg _ (ite_self s)
  case dramCorrected | dramLost =>
    intro s h blk hblk hch
    exact exec_dramPatrolScrub hblk hch _
  case mirrored =>
    intro s g n hn halive hother hown
    rw [exec_mirrorResyncDone hn, if_pos ⟨halive, hother, hown⟩]
  case lone =>
    intro s g n hn h
    rw [exec_mirrorResyncDone hn, if_neg]
    rintro ⟨halive, hother, hown⟩
    simp only [halive, hother, hown, Bool.true_eq_false, Bool.false_eq_true, or_self] at h

end Sys2Proof.Machine
end

section
/-! PROOFS. The steps of bring-up (R518-R529). -/

namespace Sys2Proof.Machine

/-! The cold start (R518, R520, R529). -/

/-- A module that a cold start takes up: booting, with its supplies, the time and the reference as found. -/
def State.coldStarted (s : State) (vin vsb : Nat) (refclk : Bool) : State :=
  ({ s with pw.vin := vin, pw.vsb := vsb, pw.bootT0 := s.now, ck.refIn := refclk } : State).setPstate 1

/-- A cold start begins the hubs, or halts under PWR_FAIL_N. -/
theorem exec_coldStart {s : State} {vin vsb : Nat} (hfrom : s.pstate = 0 ∨ (s.pstate = 1 ∧ s.phase = 0))
    (hvin : 10800 ≤ vin ∧ vin ≤ 13200) (hvsb : 3135 ≤ vsb ∧ vsb ≤ 3465) (hlg : s.lg.ready = true) (refclk : Bool) :
    exec (.coldStart vin vsb refclk) s =
      .next (if s.pw.failN = true then
          State.bootPhase { s.coldStarted vin vsb refclk with pw.halted := true } 10
        else (((s.coldStarted vin vsb refclk).bootPhase 1).metStart 32).metStart 33) := by
  have begins : (s.pstate == 0 || (s.pstate == 1 && s.phase == 0)) = true := by simpa using hfrom
  show execColdStart vin vsb refclk s = _
  simp only [execColdStart, begins, Nat.not_lt.2 hvin.1, Nat.not_lt.2 hvin.2, Nat.not_lt.2 hvsb.1,
    Nat.not_lt.2 hvsb.2, hlg, Bool.not_true, Bool.false_eq_true, or_self, if_false]
  exact (apply_ite _ _ _ _).symm

/-- A cold start waits for both supplies and for the ledger. -/
theorem exec_coldStart_waits {s : State} {vin vsb : Nat} {refclk : Bool}
    (h : vin < 10800 ∨ 13200 < vin ∨ vsb < 3135 ∨ 3465 < vsb ∨ s.lg.ready = false) :
    exec (.coldStart vin vsb refclk) s = .next s := by
  refine if_pos (.inr ?_)
  rwa [Bool.not_eq_true']

/-! The boot of a hub (R307, R491, R507, R545). -/

/-- The verdict on the signature of a slot of a hub. -/
def slotVerdict (sig0 sig1 : Bool) (n : Nat) : Bool := if n = 0 then sig0 else sig1

/-- A hub boots the image chosen for it, or stays in its boot ROM (R507). -/
def State.bootOrStay (s : State) (h : Hub) : Option Nat → State
  | some slot => s.bootReads.bootFrom h slot
  | none => { s with sv.alive := s.sv.alive.set h false }

section
variable {s : State} {h : Hub} {sig0 sig1 : Bool}

/-- A hub that is out for an update boots the new image (R491). -/
theorem exec_secureBoot_update (hu : s.sv.update = some h.val) (hp : s.pstate ≠ 0) :
    exec (.secureBoot h sig0 sig1) s = .next (s.updateBoot h (slotVerdict sig0 sig1)) :=
  if_pos ⟨hu, hp⟩

/-- Every other hub is decided once, while the hubs of the module boot and are warm (R507, R545). -/
theorem exec_secureBoot (hu : s.sv.update ≠ some h.val) :
    exec (.secureBoot h sig0 sig1) s =
      .next (if s.phase = 1 ∧ s.hubsWarm = false then s
        else if s.pstate ≠ 1 ∨ (s.phase ≠ 1 ∧ s.phase ≠ 2) ∨ s.pw.booted.getD h false = true ∨
          s.sv.alive.getD h false = false then s
        else (s.bootOrStay h (s.bootChoice h (slotVerdict sig0 sig1))).hubsDecided) := by
  show execSecureBoot h sig0 sig1 s = _
  simp only [execSecureBoot, hu, false_and, if_false, Bool.not_eq_true']
  rw [apply_ite Host.Outcome.next, apply_ite Host.Outcome.next]
  rfl

/-- The hub's turn to boot: the choice of its image decides. -/
theorem exec_secureBoot_decides (hu : s.sv.update ≠ some h.val) (hp : s.pstate = 1)
    (hph : s.phase = 2 ∨ (s.phase = 1 ∧ s.hubsWarm = true)) (hb : s.pw.booted.getD h false = false)
    (ha : s.sv.alive.getD h false = true) :
    exec (.secureBoot h sig0 sig1) s =
      .next (s.bootOrStay h (s.bootChoice h (slotVerdict sig0 sig1))).hubsDecided := by
  rw [exec_secureBoot hu, if_neg, if_neg]
  · simp only [hp, hb, ha]
    grind
  · rintro ⟨hone, hcold⟩
    rcases hph with htwo | ⟨-, hwarm⟩
    · omega
    · exact Bool.eq_false_iff.1 hcold hwarm

end

/-- A hub whose DRAM is zeroed; the array rails ramp once no hub waits (R307, R520). -/
theorem exec_dramZeroDone {s : State} {h : Hub} (hp : s.pstate = 1) (hph : 3 ≤ s.phase) (hn : s.phase ≠ 11)
    (hb : s.pw.booted.getD h false = true) (hr : s.ms.ready.getD h false = false) :
    exec (.dramZeroDone h) s =
      .next (if (s.zeroDram h).dramWaits = true ∨ (s.zeroDram h).phase ≠ 3 then s.zeroDram h
        else (s.zeroDram h).bootPhase 4) := by
  show execDramZeroDone h s = _
  simp only [execDramZeroDone, hp, hn, Nat.not_lt.2 hph, hb, hr, ne_eq, not_true, Bool.not_true, Bool.false_eq_true,
    or_self, if_false]

/-! The reset handshake of a die (R384, R522). -/

/-- The handshake of a die begun: the counter runs, and the boot stands at the handshakes. -/
def State.counterRuns (s : State) : State := s.startCounter.bootPhase 5

theorem State.counterRuns_die (s : State) (d : Nat) : s.counterRuns.die d = s.die d := by
  have h : Keeps (· ≠ .dies) s s.counterRuns :=
    State.bootPhase_k _ _ (State.startCounter_k s (Keeps.refl s) nofun nofun nofun) nofun
  have hd : s.counterRuns.dies = s.dies := (h.frame .dies).resolve_left (by simp)
  rw [State.die, State.die, hd]

/-- A handshake that fails is counted, and the third loses the die (R522). -/
def State.handshakeFails (s : State) (d : Die) : State :=
  let t := s.setDie d { s.die d with skews := (s.die d).skews + 1 }
  if 2 ≤ (s.die d).skews then t.loseDie d else t

/-- A die joins, its copy at a distance of either sign from the hub's counter (R384). -/
def State.handshakeJoins (s : State) (d : Die) (skew : Nat) : State :=
  let t := (s.take 1).setDie d { s.die d with on := true, sync := true }
  { t with ck.copy := mput 0 t.ck.copy d (if Config.freeBit s.fresh = true then (skew : Int) else -(skew : Int)) }

theorem exec_resetHandshake (s : State) (d : Die) (skew : Nat) :
    exec (.resetHandshake d skew) s =
      .next (if s.pstate ≠ 1 ∨ (s.phase ≠ 4 ∧ s.phase ≠ 5) ∨ s.dieIn d = false ∨ (s.die d).sync = true then s
        else if 2 < skew then s.counterRuns.handshakeFails d else s.counterRuns.handshakeJoins d skew) := by
  show execResetHandshake d skew s = _
  simp -zeta only [execResetHandshake, Bool.not_eq_true']
  split
  · rfl
  · split <;> rfl

/-- The handshake of a die whose turn it is, by the distance of its copy. -/
theorem exec_resetHandshake_shakes {s : State} {d : Die} (hp : s.pstate = 1) (hph : s.phase = 4 ∨ s.phase = 5)
    (hin : s.dieIn d = true) (hs : (s.die d).sync = false) (skew : Nat) :
    exec (.resetHandshake d skew) s =
      .next (if 2 < skew then s.counterRuns.handshakeFails d else s.counterRuns.handshakeJoins d skew) := by
  rw [exec_resetHandshake, if_neg]
  grind

/-! The wake of a die, its trims and its gains (R523-R525). -/

/-- The boards of a die hold zeros, and its stack's links, where it carries them, are raised (R289, R523). -/
def State.arrayZeroed (s : State) (d : Die) : State :=
  let t := s.zeroRange (boardBase d 0) 0x10000000
  if d % 4 = 0 then (stackEnds (d.val / 4)).foldl (fun s k => s.raiseLink k (if k < 18 then k / 9 else 0)) t else t

/-- A die awake, its programming settings loaded and its metrology started (R144, R428, R523). -/
def State.dieWoken (s : State) (d : Die) : State :=
  (((s.setDie d { s.die d with awake := true }).loadPrgSettings d).metStart d).bootPhase 6

/-- The first die of a stack, by its number. -/
theorem die_mod_four (d : Die) : d % 4 = 0 ↔ d.val % 4 = 0 := Fin.ext_iff

theorem exec_arrayWake {s : State} {d : Die} (hp : s.pstate = 1) (hph : s.phase = 5 ∨ s.phase = 6)
    (hin : s.dieIn d = true) (hs : (s.die d).sync = true) (ha : (s.die d).awake = false)
    (hall : s.diesAll DieRec.sync = true) : exec (.arrayWake d) s = .next ((s.arrayZeroed d).dieWoken d) := by
  refine if_neg ?_
  grind

/-- The frames of a die in the modes of their records, and its source read for them (R524). -/
def State.sourceRead (s : State) (d : Die) : State × List (Nat × Int) :=
  ((s.dieFrames d).foldl State.modeFromRecord s).readSources (s.dieFrames d)

/-- The trims of a die, its frames one at a time, each at the source's value of its range (R121, R524). -/
def State.dieTrimmed (s : State) (d : Die) : State :=
  let u := s.sourceRead d
  let v := (s.dieFrames d).foldl (fun (s : State) (k : Nat) =>
    (s.setSource k false 2 true).trimsOn k (((u.2.find? fun e => e.1 == s.fRange k).map (·.2)).getD 0)) u.1
  v.setDie d { v.die d with trimmed := true, trimEnd := v.now }

theorem exec_trimPass (s : State) (d : Die) :
    exec (.trimPass d) s =
      .next (if s.pstate ≠ 1 ∨ s.dieIn d = false ∨ (s.die d).awake = false ∨ (s.die d).trimmed = true ∨
          (s.met d).selfcal.isSome = true ∨ (s.met d).calValid = false then s
        else s.dieTrimmed d) := by
  show execTrimPass d s = _
  simp only [execTrimPass, Bool.not_eq_true']
  rw [State.dieTrimmed, State.sourceRead, apply_ite Host.Outcome.next]

/-- The plane gains of the frames of a die that hold an image, with the boot's note where the die had not settled in
time (R122, R525). -/
def State.dieGained (s : State) (d : Die) : State :=
  let u := if s.settled d then s else s.bootBit 11
  let v := (u.dieFrames d).foldl (fun (s : State) (fk : Nat) =>
    if s.holdsImage fk then (List.range 8).foldl (fun s p => s.measureGain fk p) s else s) u
  State.bootPhase { v.setDie d { v.die d with gained := true } with pw.gainT0 := some (v.pw.gainT0.getD v.now) } 7

theorem exec_planeGainPass (s : State) (d : Die) :
    exec (.planeGainPass d) s =
      .next (if s.pstate ≠ 1 ∨ s.dieIn d = false ∨ (s.die d).trimmed = false ∨ (s.die d).gained = true ∨
          (s.settled d = false ∧ ¬ (s.die d).trimEnd + 3500000000 ≤ s.now) then s
        else s.dieGained d) := by
  show execPlaneGainPass d s = _
  simp only [execPlaneGainPass, Bool.not_eq_true', decide_eq_false_iff_not]
  rw [State.dieGained, apply_ite Host.Outcome.next]

/-! The map, the scores and Ready (R527, R528). -/

/-- The boot once the map is applied and the scores are restored, with the time since the first gain pass kept for
SVC_BOOT_TIME (R527). -/
def State.scoresDone (s : State) : State :=
  let ms := match s.pw.gainT0 with | some t => (s.now - t) / 1000000 | none => 0
  State.bootPhase { s with pw.gainT0 := some (hold 0xFFFF ms) } 8

theorem exec_mapAndScores (s : State) :
    exec .mapAndScores s =
      .next (if s.pstate ≠ 1 ∨ s.phase < 4 ∨ 7 < s.phase ∨ s.diesAll DieRec.gained = false then s
        else s.applyMap.restoreScores.scoresDone) := by
  show execMapAndScores s = _
  simp only [execMapAndScores, Bool.not_eq_true']
  rw [apply_ite Host.Outcome.next]
  -- what the restored state holds plays no part
  generalize s.applyMap.restoreScores = u
  rfl

/-- The module as it becomes Ready: SVC_BOOT_TIME where it is not yet written, the EVENTs, and the replies (R528). -/
def State.madeReady (s : State) : State :=
  let ms := hold 0xFFFF ((s.now - s.pw.bootT0) / 1000000)
  let u := if s.regN (hubBase 0 + 0xB000C) = 0 then s.setBoth 0xB000C (word (ms + s.pw.gainT0.getD 0 * 2 ^ 16)) else s
  let v := (State.bootPhase { u with pw.gainT0 := none, pw.idleSince := none } 9).enter 2
  ((List.range 32).foldl State.tellLost v).powerReached 2

theorem exec_ready (s : State) :
    exec .ready s =
      .next (if s.pstate ≠ 1 ∨ s.phase ≠ 8 ∨ s.lg.marginAt = none ∨ s.dramWaits = true ∨
          (s.runs 0 = false ∧ s.runs 1 = false) then s
        else s.madeReady) := by
  have hubs : (!(List.range 2).any s.runs) = true ↔ s.runs 0 = false ∧ s.runs 1 = false := by
    simp [List.range_succ]
  show execReady s = _
  simp only [execReady, hubs, Option.isNone_iff_eq_none]
  exact (apply_ite _ _ _ _).symm

/-- Settles O42: each step of bring-up has one guard, and the clauses are the outcomes of its meaning. -/
theorem bringUp : Obligations.Bring_up := by
  refine ⟨?cold, ?coldHalted, ?coldWaits, ?boots, ?staysOut, ?coldHub, ?updates, ?decided, ?zeroed, ?railsRamp,
    ?joins, ?skewed, ?lost, ?noHandshake, ?wakes, ?wakesLinks, ?trims, ?noTrims, ?gains, ?noGains, ?maps, ?noMap,
    ?ready, ?notReady⟩
  case cold =>
    intro s vin vsb refclk hfrom v0 v1 b0 b1 hlg hf
    rw [exec_coldStart hfrom ⟨v0, v1⟩ ⟨b0, b1⟩ hlg, if_neg (Bool.eq_false_iff.1 hf)]
    rfl
  case coldHalted =>
    intro s vin vsb refclk hfrom v0 v1 b0 b1 hlg hf
    rw [exec_coldStart hfrom ⟨v0, v1⟩ ⟨b0, b1⟩ hlg, if_pos hf]
    rfl
  case coldWaits =>
    exact fun _ _ _ _ h => exec_coldStart_waits h
  case boots =>
    intro s h sig0 sig1 slot hu hp hph hb ha hc
    rw [exec_secureBoot_decides hu hp hph hb ha, show s.bootChoice h (slotVerdict sig0 sig1) = some slot from hc]
    rfl
  case staysOut =>
    intro s h sig0 sig1 hu hp hph hb ha hc
    rw [exec_secureBoot_decides hu hp hph hb ha, show s.bootChoice h (slotVerdict sig0 sig1) = none from hc]
    rfl
  case coldHub =>
    intro s h sig0 sig1 hu hph hw
    rw [exec_secureBoot hu, if_pos ⟨hph, hw⟩]
  case updates =>
    exact fun _ _ _ _ hu hp => exec_secureBoot_update hu hp
  case decided =>
    intro s h sig0 sig1 hu hd
    rw [exec_secureBoot hu, if_pos (c := s.pstate ≠ 1 ∨ _) (hd.imp_right .inr), ite_self]
  case zeroed =>
    intro s h hp hph hn hb hr hw
    rw [exec_dramZeroDone hp hph hn hb hr, if_pos hw]
  case railsRamp =>
    intro s h hp hph hn hb hr hw h3
    rw [exec_dramZeroDone hp hph hn hb hr, if_neg (not_or.2 ⟨Bool.eq_false_iff.1 hw, not_not.2 h3⟩)]
  case joins =>
    intro s d skew hp hph hin hs hk
    rw [exec_resetHandshake_shakes hp hph hin hs, if_neg (Nat.not_lt.2 hk)]
    rfl
  case skewed =>
    intro s d skew hp hph hin hs hk hx
    rw [exec_resetHandshake_shakes hp hph hin hs, if_pos hk, State.handshakeFails, s.counterRuns_die,
      if_neg (Nat.not_le.2 hx), ← s.counterRuns_die]
    rfl
  case lost =>
    intro s d skew hp hph hin hs hk hx
    rw [exec_resetHandshake_shakes hp hph hin hs, if_pos hk, State.handshakeFails, s.counterRuns_die, if_pos hx,
      ← s.counterRuns_die]
    rfl
  case noHandshake =>
    intro s d skew h
    rw [exec_resetHandshake, if_pos h]
  case wakes =>
    intro s d hp hph hin hs ha hall hd
    rw [exec_arrayWake hp hph hin hs ha hall, State.arrayZeroed, if_neg (mt (die_mod_four d).1 hd)]
    rfl
  case wakesLinks =>
    intro s d hp hph hin hs ha hall hd
    rw [exec_arrayWake hp hph hin hs ha hall, State.arrayZeroed, if_pos ((die_mod_four d).2 hd)]
    rfl
  case trims =>
    intro s d hp hin ha ht hc hv
    rw [exec_trimPass, if_neg (by grind)]
    rfl
  case noTrims =>
    intro s d h
    rw [exec_trimPass, if_pos (h.imp_right fun h => .inr (h.imp_right .inl))]
  case gains =>
    intro s d hp hin ht hg hr
    rw [exec_planeGainPass, if_neg (by grind)]
    rfl
  case noGains =>
    intro s d h
    rw [exec_planeGainPass, if_pos (h.imp_right fun h => .inr (h.imp_right .inl))]
  case maps =>
    intro s hp h4 h7 hall
    rw [exec_mapAndScores, if_neg (by grind)]
    generalize s.applyMap.restoreScores = u
    rfl
  case noMap =>
    intro s h
    rw [exec_mapAndScores, if_pos h]
  case ready =>
    intro s hp hph hm hd hr
    have hm : s.lg.marginAt ≠ none := Option.isSome_iff_ne_none.1 hm
    rw [exec_ready, if_neg (by grind)]
    rfl
  case notReady =>
    intro s h
    rw [exec_ready, if_pos h]

end Sys2Proof.Machine
end

section
/-! PROOFS. The queue of commands, runs of several of them, and the state after reset. -/

namespace Sys2Proof.Machine

/-! Steps on a queue (R361). -/

theorem step_front {s t : State} {i : Instr} {r : List Instr} (hp : s.pending = i :: r)
    (run : exec i { s with pending := r } = .next t) : step s = .next t ∧ t.pending = r :=
  ⟨(step_of_cons hp).trans run, exec_pending run⟩

/-- A step on a queue removes its front command. -/
theorem step_pending {s t : State} (hs : s.pending ≠ []) (h : step s = .next t) : t.pending = s.pending.drop 1 := by
  obtain ⟨i, r, hp⟩ := List.exists_cons_of_ne_nil hs
  rw [hp]
  exact exec_pending ((step_of_cons hp).symm.trans h)

theorem State.runN_step {n : Nat} {s t : State} (h : s.runN (n + 1) = some t) :
    ∃ u, step s = .next u ∧ u.runN n = some t := by
  obtain ⟨u, hu⟩ := step_completes s
  exact ⟨u, hu, (State.runN_succ n hu).symm.trans h⟩

theorem State.runN_pending {n : Nat} {s t : State} (hn : n ≤ s.pending.length) (h : s.runN n = some t) :
    t.pending = s.pending.drop n := by
  induction n generalizing s with
  | zero =>
    cases h
    rfl
  | succ n ih =>
    obtain ⟨u, hu, hr⟩ := State.runN_step h
    have hq := step_pending (List.ne_nil_of_length_pos (by omega)) hu
    rw [ih (by rw [hq, List.length_drop]; omega) hr, hq, List.drop_drop, Nat.add_comm]

theorem State.runN_add (m n : Nat) (s : State) : s.runN (m + n) = (s.runN m).bind (State.runN n) := by
  induction m generalizing s with
  | zero => rw [Nat.zero_add]; rfl
  | succ m ih =>
    obtain ⟨u, hu⟩ := step_completes s
    rw [Nat.add_right_comm, State.runN_succ _ hu, State.runN_succ _ hu, ih]

theorem Instr.unlisted {i : Instr} {p : Part} (h : (Instr.changes i).elem p = false) : p ∉ Instr.changes i :=
  fun hp => Bool.false_ne_true (h.symm.trans (List.elem_eq_true_of_mem hp))

/-- A run of queued commands that do not change a part leaves it as it is. -/
theorem State.runN_same {n : Nat} {s t : State} {p : Part} (hn : n ≤ s.pending.length)
    (hp : ∀ i ∈ s.pending.take n, p ∉ Instr.changes i) (h : s.runN n = some t) : State.same p s t := by
  induction n generalizing s with
  | zero =>
    cases h
    cases p <;> rfl
  | succ n ih =>
    obtain ⟨u, hu, hr⟩ := State.runN_step h
    obtain ⟨i, r, hq⟩ := List.exists_cons_of_length_pos (l := s.pending) (by omega)
    have run := (step_of_cons hq).symm.trans hu
    have hr' : u.pending = r := exec_pending run
    rw [hq] at hn hp
    have dequeued : State.same p s { s with pending := r } := by cases p <;> rfl
    refine State.same_trans (State.same_trans dequeued (exec_same run (hp i (by simp)))) (ih ?_ ?_ hr)
    · rw [hr']
      exact Nat.le_of_succ_le_succ hn
    · exact fun j hj => hp j (List.mem_cons_of_mem i (hr' ▸ hj))

/-- Settles O46: the definition of a step on a queue. -/
theorem frontCommandIsExecuted : Obligations.Front_command_is_executed := fun _ _ _ => step_of_cons rfl

/-- Settles O48: a command keeps the queue, and n steps by induction on n. -/
theorem queueIsFirstInFirstOut : Obligations.Queue_is_first_in_first_out :=
  ⟨fun _ _ _ h => exec_pending h, fun _ _ _ hn h => State.runN_pending hn h⟩

/-- Settles O51: the maps are empty at reset. -/
theorem resetIsCanonical : Obligations.Reset_is_canonical := ⟨rfl, rfl, rfl⟩

/-! A command message that fails a check (R363, R366). -/

/-- A command before the end of secure boot is not answered, whether or not it passes the checks (R363). -/
theorem State.command_unanswered {s : State} {c : Cmd} {r : Req} {body : State → Res} (h : s.answers = false) :
    s.command c r body = s := by
  simp only [State.command, h, Bool.not_false, if_true]

/-- An answer other than OK to a session queues a reply. -/
theorem State.answer_queues (s : State) {r : Req} {h : Hub} {n : Fin 16} {code : Nat} (hr : r.src = .session h n)
    (hc : code ≠ 0) : s.answer r code [] ≠ s := by
  obtain ⟨l, hl, -⟩ := s.porellAck_replies h 0 code
  intro he
  have hlen := congrArg (fun t : State => t.hl.replies.length) he
  simp only [State.answer, hr, hc, if_false, State.toEngine, hl, List.length_append, List.length_singleton] at hlen
  omega

/-- Refutes O53: in Boot, with no hub booted, a DEV_INFO of a session with one word too many fails check 2 of R366, and
the command is left unanswered (R363). -/
theorem not_commandsThatFailACheckHaveNoEffect : ¬ Obligations.Commands_that_fail_a_check_have_no_effect := by
  intro h
  let s := State.reset.setPstate 1
  let r : Req := { src := .session 0 1, nargs := 1 }
  have unbooted : s.answers = false := by decide +kernel
  have check : s.cmdCheck ⟨0x0100, 1, true, false, false, false, 0, false, false⟩ r = 0x0102 := by decide +kernel
  have answered := h (.devInfo r) r _ s rfl (by rw [check]; decide)
  have silent : exec (.devInfo r) s = .next s := congrArg Host.Outcome.next (State.command_unanswered unbooted)
  rw [silent, check] at answered
  exact State.answer_queues s rfl (by decide) (Host.Outcome.next.inj answered).symm

end Sys2Proof.Machine
end

section
/-! PROOFS. The mailboxes: words, doorbells, reads, acknowledgements and locks (R351-R355). -/

namespace Sys2Proof.Machine

/-- The low half of a word. -/
theorem fld_low (w : Word) : fld w 0 16 = w.toNat % 2 ^ 16 := by
  simp only [fld, nfld, Nat.pow_zero, Nat.div_one]

/-! The two ends of a mailbox and its registers. -/

theorem mbKey_ne (h n : Nat) {e o : Nat} (ho : o = 1 - e) : mbKey h n o ≠ mbKey h n e := by
  unfold mbKey
  omega

@[simp] theorem State.mbxEnd_setReg (s : State) (a k : Nat) (w : Word) : (s.setReg a w).mbxEnd k = s.mbxEnd k := by
  simp only [State.mbxEnd, State.setReg_hl]
@[simp] theorem State.mbxEnd_bump (s : State) (a n k : Nat) : (s.bump a n).mbxEnd k = s.mbxEnd k := by
  simp only [State.mbxEnd, State.bump_hl]

@[simp] theorem State.mbxEnd_mbPost (s : State) (h n e code : Nat) :
    (s.mbPost h n e code).mbxEnd (mbKey h n e) = { s.mbxEnd (mbKey h n e) with code := code, valid := true } := by
  simp only [State.mbPost, State.mbxEnd_setReg, State.mbxEnd_setMbx]

theorem State.mbxEnd_mbPost_ne (s : State) {h n e k : Nat} (code : Nat) (hk : k ≠ mbKey h n e) :
    (s.mbPost h n e code).mbxEnd k = s.mbxEnd k := by
  simp only [State.mbPost, State.mbxEnd_setReg, State.mbxEnd_setMbx_ne _ _ _ _ hk]

/-- A delivered message is unread at the receiver, and outstanding at the sender. -/
theorem State.mbxEnd_mbDeliver (s : State) {h n e o : Nat} (ho : o = 1 - e) (ws : List Word) :
    ((s.mbDeliver h n e ws).mbxEnd (mbKey h n o)).recv = some ws ∧
      ((s.mbDeliver h n e ws).mbxEnd (mbKey h n e)).busy = true := by
  subst ho
  simp only [State.mbDeliver, State.mbxEnd_bump, State.mbxEnd_setReg, State.mbxEnd_setMbx,
    State.mbxEnd_setMbx_ne _ _ _ _ (mbKey_ne h n rfl).symm, and_self]

/-! The accesses. -/

section
variable {s : State} {h : Hub} {n : Fin 8} {e : Fin 2} {p : Party} {w : Word}

theorem exec_mbxTxdWrite_appends (hown : mbOwn n e p = true) (hmay : s.mbMay h n e p = true)
    (hb : (s.mbxEnd (mbKey h n e)).busy = false) (hl : (s.mbxEnd (mbKey h n e)).send.length < 8) :
    exec (.mbxTxdWrite h n e p w) s = .next (s.setMbx (mbKey h n e)
      { s.mbxEnd (mbKey h n e) with send := (s.mbxEnd (mbKey h n e)).send ++ [w] }) := by
  show execMbxTxdWrite h n e p w s = _
  simp only [execMbxTxdWrite, hown, hmay, hb, Nat.not_le.2 hl, Bool.not_true, Bool.false_eq_true, if_false]

theorem exec_mbxDbRing_delivers (hown : mbOwn n e p = true) (hmay : s.mbMay h n e p = true)
    (hb : (s.mbxEnd (mbKey h n e)).busy = false) (ho : (s.mbxEnd (mbKey h n e)).ovf = false)
    (hs : (s.mbxEnd (mbKey h n e)).send ≠ []) (hd : s.domain h n (1 - e.val) = .up) :
    exec (.mbxDbRing h n e p) s = .next (s.mbDeliver h n e (s.mbxEnd (mbKey h n e)).send) := by
  show execMbxDbRing h n e p s = _
  simp only [execMbxDbRing, hown, hmay, hb, ho, hs, hd, Bool.not_true, Bool.false_eq_true, if_false]

theorem exec_mbxRxdRead_oldest {ws : List Word} (hr : (s.mbxEnd (mbKey h n e)).recv = some (w :: ws)) :
    exec (.mbxRxdRead h n e) s = .next
      { s.setMbx (mbKey h n e) { s.mbxEnd (mbKey h n e) with recv := some ws } with rdata := w } := by
  show execMbxRxdRead h n e s = _
  simp only [execMbxRxdRead, hr]

theorem exec_mbxAckWrite : exec (.mbxAckWrite h n e w) s = .next (s.mbAck h n e (fld w 0 16)) := rfl

theorem exec_mbxAckinRead :
    exec (.mbxAckinRead h n e) s = .next
      { s.setMbx (mbKey h n e) { s.mbxEnd (mbKey h n e) with code := 0, valid := false } with
        rdata := word ((s.mbxEnd (mbKey h n e)).code + b2n (s.mbxEnd (mbKey h n e)).valid * 65536) } := rfl

end

/-- An acknowledgement of a received message frees both ends and posts its code at the sender (R353). -/
theorem State.mbAck_received (s : State) {h n e o : Nat} (code : Nat) (ho : o = 1 - e)
    (hr : (s.mbxEnd (mbKey h n e)).recv.isSome = true) :
    (s.mbAck h n e code).mbxEnd (mbKey h n e) = { s.mbxEnd (mbKey h n e) with recv := none } ∧
      (s.mbAck h n e code).mbxEnd (mbKey h n o) =
        { s.mbxEnd (mbKey h n o) with busy := false, code := code, valid := true } := by
  obtain ⟨ws, hw⟩ := Option.isSome_iff_exists.1 hr
  subst ho
  have far := mbKey_ne h n (rfl : 1 - e = 1 - e)
  simp only [State.mbAck, hw, State.mbxEnd_mbPost, State.mbxEnd_mbPost_ne _ _ far.symm, State.mbxEnd_setMbx,
    State.mbxEnd_setMbx_ne _ _ _ _ far, State.mbxEnd_setMbx_ne _ _ _ _ far.symm, and_self]

/-- Settles O1: each access by the checks in their order, the doorbell also by the domain of the receiver. -/
theorem mailboxWords : Obligations.Mailbox_words := by
  refine ⟨?appends, ?ninth, ?noLock, ?foreign, ?foreignRing, ?foreignFlush, ?outstanding, ?delivers, ?wakes, ?unpowered,
    ?overflowed, ?flushes⟩
  case appends =>
    exact fun _ _ _ _ _ _ hown hmay hb hl => exec_mbxTxdWrite_appends hown hmay hb hl
  case ninth =>
    intro s h n e p w hown hmay hb hl
    show execMbxTxdWrite h n e p w s = _
    simp only [execMbxTxdWrite, hown, hmay, hb, hl, Bool.not_true, Bool.false_eq_true, if_false, if_true]
  case noLock =>
    intro s h n e p w hown hmay
    show execMbxTxdWrite h n e p w s = _
    simp only [execMbxTxdWrite, hown, hmay, Bool.not_true, Bool.not_false, Bool.false_eq_true, if_false, if_true]
  case foreign =>
    intro s h n e p w hown
    show execMbxTxdWrite h n e p w s = _
    simp only [execMbxTxdWrite, hown, Bool.not_false, if_true]
  case foreignRing =>
    intro s h n e p hown
    show execMbxDbRing h n e p s = _
    simp only [execMbxDbRing, hown, Bool.not_false, if_true]
  case foreignFlush =>
    intro s h n e p hown
    show execMbxDbFlush h n e p s = _
    simp only [execMbxDbFlush, hown, Bool.not_false, if_true]
  case outstanding =>
    intro s h n e p w hown hmay hb
    show execMbxTxdWrite h n e p w s = _
    simp only [execMbxTxdWrite, hown, hmay, hb, Bool.not_true, Bool.false_eq_true, if_false, if_true]
  case delivers =>
    exact fun _ _ _ _ _ hown hmay hb ho hs hd => exec_mbxDbRing_delivers hown hmay hb ho hs hd
  case wakes =>
    intro s h n e p hown hmay hb ho hs hd
    show execMbxDbRing h n e p s = _
    simp only [execMbxDbRing, hown, hmay, hb, ho, hs, hd, Bool.not_true, Bool.false_eq_true, if_false]
  case unpowered =>
    intro s h n e p hown hmay hb ho hs hd
    show execMbxDbRing h n e p s = _
    simp only [execMbxDbRing, hown, hmay, hb, ho, hs, hd, Bool.not_true, Bool.false_eq_true, if_false]
  case overflowed =>
    intro s h n e p hown hmay hb ho
    show execMbxDbRing h n e p s = _
    simp only [execMbxDbRing, hown, hmay, hb, ho, Bool.not_true, Bool.false_eq_true, if_false, if_true]
  case flushes =>
    intro s h n e p hown hmay hb
    show execMbxDbFlush h n e p s = _
    simp only [execMbxDbFlush, hown, hmay, hb, Bool.not_true, Bool.false_eq_true, if_false]

/-- Settles O2: each access by what the end holds, and the two timed rows by their conditions. -/
theorem mailboxReceive : Obligations.Mailbox_receive := by
  refine ⟨?oldest, ?noneLeft, ?acks, ?ackin, ?takesLock, ?foreignLock, ?owned, ?releases, ?keepsLock, ?irq, ?delivers,
    ?timesOut⟩
  case oldest =>
    exact fun _ _ _ _ _ _ hr => exec_mbxRxdRead_oldest hr
  case noneLeft =>
    intro s h n e hr
    show execMbxRxdRead h n e s = _
    rcases hr with hr | hr <;> simp only [execMbxRxdRead, hr]
  case acks =>
    intro s h n e w hr
    obtain ⟨hown, hpeer⟩ := s.mbAck_received (fld w 0 16) rfl hr
    have run := exec_mbxAckWrite (s := s) (h := h) (n := n) (e := e) (w := w)
    refine ⟨_, run, ?_, ?_, ?_, ?_, exec_same run (p := .mem) (Instr.unlisted rfl),
      exec_same run (p := .frames) (Instr.unlisted rfl), exec_same run (p := .boards) (Instr.unlisted rfl)⟩
    · rw [hown]
    all_goals rw [hpeer]
  case ackin =>
    exact fun _ _ _ _ => exec_mbxAckinRead
  case takesLock =>
    intro s h n e p hown ho
    show execMbxLockRead h n e p s = _
    simp only [execMbxLockRead, hown, ho, Bool.not_true, Bool.false_eq_true, if_false, if_true]
  case foreignLock =>
    intro s h n e p hown
    show execMbxLockRead h n e p s = _
    simp only [execMbxLockRead, hown, Bool.not_false, if_true]
  case owned =>
    intro s h n e p hown h0 hp
    show execMbxLockRead h n e p s = _
    simp only [execMbxLockRead, hown, h0, hp, Bool.not_true, Bool.false_eq_true, or_self, if_false]
  case releases =>
    intro s h n e p hown ho
    exact congrArg Host.Outcome.next (if_pos ⟨hown, ho⟩)
  case keepsLock =>
    intro s h n e p hno
    refine congrArg Host.Outcome.next (if_neg fun hc => ?_)
    rcases hno with hown | ho
    · exact Bool.false_ne_true (hown.symm.trans hc.1)
    · exact ho hc.2
  case irq =>
    exact fun _ _ _ _ _ => rfl
  case delivers =>
    intro s h n e hw hd
    exact congrArg Host.Outcome.next (if_pos ⟨hw, hd⟩)
  case timesOut =>
    intro s h e hb ht
    have far := mbKey_ne h 4 (rfl : 1 - e.val = 1 - e.val)
    refine ⟨_, if_pos ⟨hb, ht⟩, ?_⟩
    simp only [State.mbxEnd_mbPost, State.mbxEnd_mbPost_ne _ _ far, State.mbxEnd_setMbx,
      State.mbxEnd_setMbx_ne _ _ _ _ far.symm, and_self]

/-- Settles O58: the read by the oldest unread word, the acknowledgement by what it leaves at both ends. -/
theorem mailboxAcknowledgement : Obligations.Mailbox_acknowledgement := by
  refine ⟨?oldest, ?acks⟩
  case oldest =>
    intro s h n e w ws hr
    refine ⟨_, exec_mbxRxdRead_oldest hr, rfl, ?_⟩
    exact congrArg MbxEnd.recv (State.mbxEnd_setMbx _ _ _)
  case acks =>
    intro s h n e o a ws ho hr
    obtain ⟨hown, hpeer⟩ := s.mbAck_received (fld a 0 16) ho (Option.isSome_of_eq_some hr)
    refine ⟨_, _, exec_mbxAckWrite, ?_, ?_, ?_, ?_, exec_mbxAckinRead, ?_⟩
    · rw [hown]
    · rw [hpeer]
    · rw [hpeer]
      exact fld_low a
    · rw [hpeer]
    · rw [hpeer]
      simp only [fld_low, b2n, if_true, Nat.one_mul, Nat.reducePow]

/-! A message sent, read and acknowledged by queued commands (R352, R353). -/

theorem State.mbxEnd_queue (s : State) (q : List Instr) (k : Nat) : ({ s with pending := q }).mbxEnd k = s.mbxEnd k :=
  rfl

theorem State.domain_congr {s t : State} (hr : t.regs = s.regs) (hp : t.pw = s.pw) (hv : t.sv = s.sv) (h n e : Nat) :
    t.domain h n e = s.domain h n e := by
  have hst : t.pstate = s.pstate := by simp only [State.pstate, State.regN, State.reg, hr]
  unfold State.domain
  rw [hst, hp, hv]

section
variable {s : State} {h : Hub} {n : Fin 8} {e o : Fin 2} {r : List Instr}

/-- The first word of a message: it alone waits, and the party and the domains stand as before. -/
theorem State.mbxEnd_firstWord {p : Party} {w : Word} (hmay : s.mbMay h n e p = true)
    (hs : (s.mbxEnd (mbKey h n e)).send = []) :
    let t := s.setMbx (mbKey h n e) { s.mbxEnd (mbKey h n e) with send := (s.mbxEnd (mbKey h n e)).send ++ [w] }
    t.mbxEnd (mbKey h n e) = { s.mbxEnd (mbKey h n e) with send := [w] } ∧ t.mbMay h n e p = true ∧
      ∀ o, t.domain h n o = s.domain h n o := by
  refine ⟨?_, ?_, fun o => State.domain_congr rfl rfl rfl h n o⟩
  · rw [State.mbxEnd_setMbx, hs]
    rfl
  · simp only [State.mbMay, State.mbxEnd_setMbx] at hmay ⊢
    exact hmay

theorem State.runN_send {p : Party} {w : Word} (ho : o.val = 1 - e.val) (hown : mbOwn n e p = true)
    (hmay : s.mbMay h n e p = true) (hd : s.domain h n o = .up) (hb : (s.mbxEnd (mbKey h n e)).busy = false)
    (hv : (s.mbxEnd (mbKey h n e)).ovf = false) (hs : (s.mbxEnd (mbKey h n e)).send = [])
    (hq : s.pending = .mbxTxdWrite h n e p w :: .mbxDbRing h n e p :: r) :
    ∃ t, s.runN 2 = some t ∧ t.pending = r ∧ (t.mbxEnd (mbKey h n o)).recv = some [w] := by
  obtain ⟨hstep, hp⟩ := step_front hq (exec_mbxTxdWrite_appends hown hmay hb (hs.symm ▸ Nat.zero_lt_succ 7))
  obtain ⟨hend, hmay', hdom⟩ := State.mbxEnd_firstWord (s := { s with pending := .mbxDbRing h n e p :: r })
    (w := w) hmay hs
  generalize State.setMbx _ _ _ = t at hstep hp hend hmay' hdom
  have ring := exec_mbxDbRing_delivers (s := { t with pending := r }) hown hmay'
    ((congrArg MbxEnd.busy hend).trans hb) ((congrArg MbxEnd.ovf hend).trans hv)
    (fun hnil => List.cons_ne_nil w [] ((congrArg MbxEnd.send hend).symm.trans hnil))
    (ho ▸ (hdom o).trans hd)
  obtain ⟨hstep', hp'⟩ := step_front hp ring
  refine ⟨_, (State.runN_succ 1 hstep).trans (State.runN_succ 0 hstep'), hp', ?_⟩
  rw [(State.mbxEnd_mbDeliver _ ho _).1, State.mbxEnd_queue, hend]

theorem State.runN_receive {w : Word} {ws : List Word} (hr : (s.mbxEnd (mbKey h n e)).recv = some (w :: ws))
    (hq : s.pending = .mbxRxdRead h n e :: r) :
    ∃ t, s.runN 1 = some t ∧ t.pending = r ∧ t.rdata = w ∧ (t.mbxEnd (mbKey h n e)).recv = some ws := by
  obtain ⟨hstep, hp⟩ := step_front hq (exec_mbxRxdRead_oldest hr)
  refine ⟨_, State.runN_succ 0 hstep, hp, rfl, ?_⟩
  exact congrArg MbxEnd.recv (State.mbxEnd_setMbx _ _ _)

theorem State.runN_acknowledge {a : Word} (ho : o.val = 1 - e.val) (hr : (s.mbxEnd (mbKey h n e)).recv.isSome = true)
    (hq : s.pending = .mbxAckWrite h n e a :: .mbxAckinRead h n o :: r) :
    ∃ t, s.runN 2 = some t ∧ t.rdata = word (a.toNat % 2 ^ 16 + 2 ^ 16) := by
  obtain ⟨hstep, hp⟩ := step_front hq exec_mbxAckWrite
  have hpeer := (State.mbAck_received { s with pending := .mbxAckinRead h n o :: r } (fld a 0 16) ho hr).2
  generalize State.mbAck _ _ _ _ _ = t at hstep hp hpeer
  obtain ⟨hstep', -⟩ := step_front hp exec_mbxAckinRead
  refine ⟨_, (State.runN_succ 1 hstep).trans (State.runN_succ 0 hstep'), ?_⟩
  simp only [State.mbxEnd_queue]
  rw [hpeer]
  simp only [fld_low, b2n, if_true, Nat.one_mul, Nat.reducePow]

end

/-- Settles O55: the sending, the read and the acknowledgement in turn; none of the five commands changes memory, the
frames or the boards. -/
theorem mailboxRoundTrip : Obligations.Mailbox_round_trip := by
  intro s h n e o p w a q ho hown hmay hd hb hv hs hq
  obtain ⟨t₂, run₂, q₂, recv₂⟩ := State.runN_send ho hown hmay hd hb hv hs hq
  obtain ⟨t₃, run₃, q₃, data₃, recv₃⟩ := State.runN_receive recv₂ q₂
  obtain ⟨t₅, run₅, data₅⟩ := State.runN_acknowledge (by omega) (Option.isSome_of_eq_some recv₃) q₃
  have first : s.runN 3 = some t₃ := by rw [s.runN_add 2 1, run₂]; exact run₃
  have whole : s.runN 5 = some t₅ := by rw [s.runN_add 3 2, first]; exact run₅
  have enough : 5 ≤ s.pending.length := by simp [hq]
  refine ⟨t₃, t₅, first, data₃, whole, data₅, ?_, State.runN_same (p := .mem) enough ?_ whole,
    State.runN_same (p := .frames) enough ?_ whole, State.runN_same (p := .boards) enough ?_ whole⟩
  · rw [State.runN_pending enough whole, hq]
    rfl
  all_goals
    simp only [hq, List.cons_append, List.take_succ_cons, List.take_zero, List.forall_mem_cons]
    exact ⟨Instr.unlisted rfl, Instr.unlisted rfl, Instr.unlisted rfl, Instr.unlisted rfl, Instr.unlisted rfl, nofun⟩

end Sys2Proof.Machine
end

section
/-! PROOFS. The reckoning counter: its setting, its edges, its read and the SYNC commands (R383, R386). -/

namespace Sys2Proof.Machine

section
variable {s : State}

/-- The preferred source is locked: SYNC_IN, or a port that 802.1AS keeps in step (R386). -/
theorem exec_reckoningSet_sets {t : Nat} (hp : s.pstate = 1) (hon : s.ck.on = true) (hset : s.ck.set = false)
    (hsrc : fld (s.reg (rkReg 8)) 0 2 = 3 ∨
      (fld (s.reg (rkReg 8)) 0 2 ≠ 0 ∧ (s.port (fld (s.reg (rkReg 8)) 0 2 - 1)).synced = true)) :
    exec (.reckoningSet t) s = .next (({ s with ck.rk := t % 2 ^ 64, ck.set := true, ck.frac := 0 } : State).setRk 0xC
      (word (fld (s.reg (rkReg 8)) 0 2 + 4 + 8))) := by
  have locked : (fld (s.reg (rkReg 8)) 0 2 == 3 || (fld (s.reg (rkReg 8)) 0 2 != 0 &&
      (s.port (fld (s.reg (rkReg 8)) 0 2 - 1)).synced)) = true := by
    rcases hsrc with h | ⟨h, hsync⟩
    · simp [h]
    · simp [h, hsync]
  show execReckoningSet t s = _
  simp only [execReckoningSet, hp, hon, hset, locked, ne_eq, not_true, Bool.not_true, Bool.false_eq_true, or_self,
    if_false]

theorem exec_reckoningSet_keeps {t : Nat} (h : s.pstate ≠ 1 ∨ s.ck.on = false ∨ s.ck.set = true) :
    exec (.reckoningSet t) s = .next s := by
  refine if_pos ?_
  rcases h with h | h | h <;> simp [h]

/-- An edge that the counter follows is timed, and corrects the rate or counts a slip. -/
theorem exec_syncInEdge_follows (hp : s.pstate ≠ 0) (hsrc : s.rkSrc = 3) (hon : s.ck.on = true) :
    let u : State := { s with ck.syncInAt := s.now }
    exec .syncInEdge s = .next (if 2 ^ 22 < u.syncError.natAbs then u.bump (rkReg 0x40) 1
      else u.discipline (-(rneDiv u.syncError 16))) := by
  have follows : ¬(s.rkSrc ≠ 3 ∨ (!s.ck.on) = true) := by simp only [hsrc, hon, ne_eq, not_true, Bool.not_true,
    Bool.false_eq_true, or_self, not_false_eq_true]
  intro u
  rw [apply_ite Host.Outcome.next]
  exact (if_neg hp).trans (if_neg follows)

end

/-- Settles O29: the set, the edges and the loss by their conditions, and the commands by the cases of State.command. -/
theorem reckoningCounter : Obligations.Reckoning_counter := by
  refine ⟨?sets, ?setOnce, ?corrects, ?slips, ?otherSource, ?off, ?loss, ?noLoss, ?read, ?out, ?noOut, ?stat, ?now,
    ?cfg, ?cfgRange⟩
  case sets =>
    exact fun _ _ hp hon hset hsrc => exec_reckoningSet_sets hp hon hset hsrc
  case setOnce =>
    exact fun _ _ h => exec_reckoningSet_keeps h
  case corrects =>
    intro s hp hsrc hon he
    rw [exec_syncInEdge_follows hp hsrc hon, if_neg (Nat.not_lt.2 he)]
  case slips =>
    intro s hp hsrc hon he
    rw [exec_syncInEdge_follows hp hsrc hon, if_pos he]
  case otherSource =>
    intro s hp hsrc
    have hsrc' : ({ s with ck.syncInAt := s.now } : State).rkSrc ≠ 3 := hsrc
    exact (if_neg hp).trans (if_pos (.inl hsrc'))
  case off =>
    exact fun s hp => if_pos hp
  case loss =>
    intro s hsrc ht
    show execSyncInLoss s = _
    simp only [execSyncInLoss, hsrc, Nat.not_lt.2 ht, ne_eq, not_true, or_self, if_false, Bool.not_eq_true']
  case noLoss =>
    exact fun s h => if_pos h
  case read =>
    exact fun _ _ => rfl
  case out =>
    intro s hon hb ht
    show execSyncOutEdge s = _
    simp only [execSyncOutEdge, hon, hb, Nat.not_le.2 ht, Bool.not_true, Bool.false_eq_true, or_self, if_false]
  case noOut =>
    intro s h
    refine if_pos ?_
    simpa only [Bool.not_eq_true'] using h
  case stat =>
    exact fun _ _ ha => congrArg Host.Outcome.next (State.command_ok (Instr.admitted_checks rfl ha) rfl rfl)
  case now =>
    exact fun _ _ ha => congrArg Host.Outcome.next (State.command_ok (Instr.admitted_checks rfl ha) rfl rfl)
  case cfg =>
    intro s r ha hl hg hsrc _
    refine congrArg Host.Outcome.next
      (State.command_c_ok (i := .syncCfg r) (Instr.admitted_checks rfl ha) rfl rfl hl ?_ ?_)
    · simp only [hg, Nat.not_le.2 hsrc, Bool.false_eq_true, if_false]
      exact nofun
    · simp only [Instr.entered_gated, hg, Nat.not_le.2 hsrc, Bool.false_eq_true, if_false]
  case cfgRange =>
    intro s r ha hg hsrc
    refine congrArg Host.Outcome.next (State.command_refuse (Instr.admitted_checks rfl ha) ?_)
    simp only [hg, hsrc, Bool.false_eq_true, if_false, if_true]

end Sys2Proof.Machine
end

section
/-! PROOFS. Heartbeats, the takeover of a failed hub and its restart (R484, R489, R490, R492). -/

namespace Sys2Proof.Machine

section
variable {s : State} {h : Hub}

/-- A path counted as missed (R484). -/
def State.pathMissed (s : State) (h : Hub) (path : Fin 3) : State :=
  ({ s with sv.missed := s.sv.missed ++ [4 * h.val + path.val] } : State).bump (svcReg h 0x40) 1

/-- A hub that watches its peer counts a path silent for 300 µs, and takes over at the third. -/
theorem exec_heartbeatMiss_counts {path : Fin 3}
    (hw : (s.runs h || (s.pstate != 0 && s.sv.update == some h.val)) = true)
    (ht : mget 0 s.sv.beat (4 * h.val + path.val) + 300000 ≤ s.now)
    (hn : s.sv.missed.contains (4 * h.val + path.val) = false) :
    exec (.heartbeatMiss h path) s = .next
      (if ((List.range 3).all fun p => (s.sv.missed ++ [4 * h.val + path.val]).contains (4 * h.val + p)) = true then
        (s.pathMissed h path).takeover (1 - h.val) true else s.pathMissed h path) := by
  refine if_neg ?_
  simp only [hw, hn, Nat.not_lt.2 ht, Bool.not_true, Bool.false_eq_true, or_self, not_false_eq_true]

theorem exec_heartbeatMiss_waits {path : Fin 3} (hw : (s.runs h = false ∧ s.sv.update ≠ some h.val) ∨
      s.now < mget 0 s.sv.beat (4 * h.val + path.val) + 300000 ∨
      s.sv.missed.contains (4 * h.val + path.val) = true) :
    exec (.heartbeatMiss h path) s = .next s := by
  refine if_pos ?_
  rcases hw with ⟨hr, hu⟩ | ht | hm
  · left
    simp [hr, hu]
  · exact .inr (.inl ht)
  · exact .inr (.inr hm)

end

/-- Settles O43: a heartbeat by whether its hub runs, a silent path by the paths missed with it, a restart by the image
that the hub's slots hold. -/
theorem hubContinuity : Obligations.Hub_continuity := by
  refine ⟨?sends, ?silent, ?updating, ?misses, ?takes, ?waits, ?noImage, ?restarts, ?stays⟩
  case sends =>
    intro s h hr
    refine if_neg ?_
    simp only [hr, Bool.not_true, Bool.false_eq_true, not_false_eq_true]
  case silent =>
    intro s h hr
    refine if_pos ?_
    simp only [hr, Bool.not_false]
  case updating =>
    intro s h path hp hu ht hn hall
    rw [exec_heartbeatMiss_counts (by simp [hp, hu]) ht hn, if_pos hall]
    rfl
  case misses =>
    intro s h path hr ht hn hall
    rw [exec_heartbeatMiss_counts (by simp [hr]) ht hn, if_neg (Bool.eq_false_iff.1 hall)]
    rfl
  case takes =>
    intro s h path hr ht hn hall
    rw [exec_heartbeatMiss_counts (by simp [hr]) ht hn, if_pos hall]
    rfl
  case waits =>
    exact fun _ _ _ hw => exec_heartbeatMiss_waits hw
  case noImage =>
    intro s h sig t0 hf hr ht hd hc
    refine (if_neg ?_).trans ?_
    · simp only [hf, hr, ht, hd, decide_true, Bool.not_true, Bool.false_eq_true, or_self, not_false_eq_true]
    · simp only [hc]
  case restarts =>
    intro s h sig t0 slot hf hr ht hd hc
    refine (if_neg ?_).trans ?_
    · simp only [hf, hr, ht, hd, decide_true, Bool.not_true, Bool.false_eq_true, or_self, not_false_eq_true]
    · simp only [hc]
  case stays =>
    intro s h sig hs
    refine if_pos ?_
    rcases hs with hf | hr | ht
    · simp only [hf, Bool.not_false, true_or]
    · simp only [hr, true_or, or_true]
    · simp only [ht, Bool.not_false, or_true]

end Sys2Proof.Machine
end

section
/-! PROOFS. Energy tokens: ticks, grants and the balance check (R437-R439). -/

namespace Sys2Proof.Machine

section
variable {s : State} {d : Die} {w : Draw}

/-- The state with the next part of a draw taken from its pool (R438). -/
def State.partTaken (s : State) (d : Die) (w : Draw) : State :=
  if w.prio = 0 then s.consumeFirst d (min (w.need - w.got) halfDepth)
  else s.consume d (min (w.need - w.got) halfDepth)

/-- The first draw, ready and within what its pool opens to it, takes its next part. -/
theorem exec_tokenGrant_grants (hw : firstDraw (s.die d).draws = some w) (hr : w.ready = true)
    (ho : min (w.need - w.got) halfDepth ≤ s.openTo d w.prio) :
    exec (.tokenGrant d) s = .next
      (if w.need ≤ w.got + min (w.need - w.got) halfDepth then
        ((s.partTaken d w).setDie d { (s.partTaken d w).die d with
          draws := ((s.partTaken d w).die d).draws.erase w }).startWork w
      else (s.partTaken d w).setDie d { (s.partTaken d w).die d with
        draws := ((s.partTaken d w).die d).draws.map fun (v : Draw) =>
          if v = w then { w with got := w.got + min (w.need - w.got) halfDepth, ready := false } else v }) := by
  rw [apply_ite Host.Outcome.next]
  show execTokenGrant d s = _
  simp only [execTokenGrant, hw, hr, Nat.not_lt.2 ho, Bool.not_true, Bool.false_eq_true, or_self, if_false]
  rfl

theorem exec_tokenGrant_waits (hw : firstDraw (s.die d).draws = some w)
    (h : w.ready = false ∨ s.openTo d w.prio < min (w.need - w.got) halfDepth) :
    exec (.tokenGrant d) s = .next s := by
  show execTokenGrant d s = _
  simp only [execTokenGrant, hw, Bool.not_eq_true', h, if_true]

end

/-- The check of one die's totals (R439). -/
def State.checkDie (s : State) (d : Nat) : State :=
  if s.diePowered d = true ∧ (s.die d).issued ≠ ((s.die d).consumed + (s.die d).returned + s.pool d) % 2 ^ 64 then
    s.event 6 (leBytes 4 d)
  else s

theorem exec_tokenBalanceCheck (s : State) :
    exec .tokenBalanceCheck s = .next ((List.range 32).foldl State.checkDie s) := by
  refine congrArg Host.Outcome.next (congrArg (fun f => (List.range 32).foldl f s) (funext₂ fun t d => ?_))
  unfold State.checkDie
  by_cases hon : t.diePowered d = true <;>
    by_cases hsum : (t.die d).issued = ((t.die d).consumed + (t.die d).returned + t.pool d) % 2 ^ 64 <;>
      simp [hon, hsum]

theorem State.checkDie_balanced {s : State} {l : List Nat}
    (h : ∀ d ∈ l, s.diePowered d = true →
      (s.die d).issued = ((s.die d).consumed + (s.die d).returned + s.pool d) % 2 ^ 64) :
    l.foldl State.checkDie s = s := by
  induction l with
  | nil => rfl
  | cons d l ih =>
    have hd : s.checkDie d = s := if_neg fun hc => hc.2 (h d List.mem_cons_self hc.1)
    rw [List.foldl_cons, hd]
    exact ih fun k hk => h k (List.mem_cons_of_mem d hk)

/-- Settles O13: a tick by the power state, a grant by what the first draw still needs, the check by a fold over the
dies. -/
theorem tokenPools : Obligations.Token_pools := by
  refine ⟨?noTick, ?ticks, ?lastPart, ?part, ?waits, ?noDraw, ?checks, ?balanced⟩
  case noTick =>
    exact fun _ h1 h2 h3 => if_pos ⟨h1, h2, h3⟩
  case ticks =>
    exact fun s hp => if_neg (by omega)
  case lastPart =>
    intro s d w hw hr ho hn
    rw [exec_tokenGrant_grants hw hr ho, if_pos hn]
    rfl
  case part =>
    intro s d w hw hr ho hn
    rw [exec_tokenGrant_grants hw hr ho, if_neg (Nat.not_le.2 hn)]
    rfl
  case waits =>
    exact fun _ _ _ hw h => exec_tokenGrant_waits hw h
  case noDraw =>
    intro s d hd
    show execTokenGrant d s = _
    simp only [execTokenGrant, hd, firstDraw, List.foldl_nil]
  case checks =>
    exact exec_tokenBalanceCheck
  case balanced =>
    intro s h
    rw [exec_tokenBalanceCheck, State.checkDie_balanced fun d hd => h d (List.mem_range.1 hd)]

end Sys2Proof.Machine
end

section
/-! PROOFS. What the ledger does of itself: writes, counters, first reads, margin passes and copies (R457-R470). -/

namespace Sys2Proof.Machine

/-- Settles O36: each row by its guard, the first read of a page also by whether a slot is committed. -/
theorem ledgerUpkeep : Obligations.Ledger_upkeep := by
  refine ⟨?writes, ?noWrite, ?increments, ?noIncrement, ?settles, ?clears, ?settled, ?cells, ?cellsDone, ?margin,
    ?noMargin, ?lost, ?notLost, ?returns, ?notReturned, ?ready, ?notReady⟩
  case writes =>
    intro s p bs q hr hp hq
    show execLedgerPageWrite s = _
    simp only [execLedgerPageWrite, hr, hp, State.flushLedger, hq, Bool.not_true, Bool.false_eq_true, or_self, if_false]
  case noWrite =>
    intro s h
    show execLedgerPageWrite s = _
    rcases h with hr | hp | hq
    · simp only [execLedgerPageWrite, hr, Bool.not_false, true_or, if_true]
    · simp only [execLedgerPageWrite, hp, or_true, if_true]
    · simp only [execLedgerPageWrite, State.flushLedger, hq, ite_self]
  case increments =>
    intro s k hr hp hk hc
    show execLedgerCounterIncrement k s = _
    simp only [execLedgerCounterIncrement, hr, hp, hk, Nat.not_le.2 hc, Bool.not_true, Bool.false_eq_true, or_self,
      if_false]
  case noIncrement =>
    intro s k h
    refine if_pos ?_
    simpa only [Bool.not_eq_true'] using h
  case settles =>
    intro s pg c i hr hn hc
    show execLedgerPageResolve pg s = _
    simp only [execLedgerPageResolve, hr, hn, hc, Bool.not_true, Bool.false_eq_true, or_self, if_false]
  case clears =>
    intro s pg hr hn hc
    show execLedgerPageResolve pg s = _
    simp only [execLedgerPageResolve, hr, hn, hc, Bool.not_true, Bool.false_eq_true, or_self, if_false]
  case settled =>
    intro s pg h
    refine if_pos ?_
    simpa only [Bool.not_eq_true'] using h
  case cells =>
    intro s k hr hn
    refine if_neg ?_
    simp only [hr, hn, Bool.not_true, Bool.false_eq_true, or_self, not_false_eq_true]
  case cellsDone =>
    intro s k h
    refine if_pos ?_
    simpa only [Bool.not_eq_true'] using h
  case margin =>
    intro s slots cells hr hd h
    refine if_neg ?_
    simp only [hr, hd, Bool.not_true, Bool.false_eq_true, false_or]
    exact fun hc => h.elim (· hc.1) hc.2
  case noMargin =>
    intro s slots cells h
    refine if_pos ?_
    rcases h with hr | hd
    · simp only [hr, Bool.not_false, true_or]
    · simp only [hd, Bool.not_false, true_or, or_true]
  case lost =>
    intro s h hs ho
    refine if_neg ?_
    simp only [hs, ho, Bool.not_true, Bool.false_eq_true, or_self, not_false_eq_true]
  case notLost =>
    intro s h hs
    refine if_pos ?_
    simpa only [Bool.not_eq_true'] using hs
  case returns =>
    intro s h hs ho
    refine if_neg ?_
    simp only [hs, ho, Bool.not_true, Bool.false_eq_true, or_self, not_false_eq_true]
  case notReturned =>
    intro s h hs
    refine if_pos ?_
    simpa only [Bool.not_eq_true'] using hs
  case ready =>
    intro s hr hlo hhi
    refine if_neg ?_
    simp only [hr, Nat.not_lt.2 hlo, Nat.not_lt.2 hhi, Bool.false_eq_true, or_self, not_false_eq_true]
  case notReady =>
    exact fun _ h => if_pos h

end Sys2Proof.Machine
end

section
/-! PROOFS. The ledger commands (R455, R463, R465, R468, R469). -/

namespace Sys2Proof.Machine

/-! Guards written with a negated Bool. -/

theorem not_bang {b : Bool} (h : b = true) : ¬(!b) = true := by rw [h]; exact Bool.false_ne_true

theorem bang {b : Bool} (h : b = false) : (!b) = true := by rw [h]; rfl

/-! Writes that meet the pre-write checks (R457). -/

theorem State.takesEntry_congr {s t : State} (hr : t.regs = s.regs) (hp : t.pw = s.pw)
    (hs : t.lg.inServ = s.lg.inServ) (hl : s.takesEntry) : t.takesEntry := by
  have hreg (a : Nat) : t.reg a = s.reg a := by rw [State.reg, State.reg, hr]
  obtain ⟨hw, hc⟩ := hl
  refine ⟨(State.prewrite_congr (hreg _) (hreg _) hp).trans hw, ?_⟩
  rwa [State.copies, hs]

theorem State.ledgerWrite_takes {s : State} (page : Nat) (bs : List Byte) (hl : s.takesEntry) :
    s.ledgerWrite page bs = (s.commitPage page bs, true) := s.ledgerWrite_ok page bs hl.1 hl.2

theorem State.sealWrite_takes {s : State} (page : Nat) (plain : List Byte) (hl : s.takesEntry) :
    s.sealWrite page plain = ((s.sealWrite page plain).1, true) := by
  simp only [State.sealWrite, State.ledgerWrite_takes _ _ hl]

theorem State.Beside.sealWrite (s : State) (page : Nat) (plain : List Byte) : s.Beside (s.sealWrite page plain).1 :=
  State.Beside.ledgerWrite s page _

theorem State.ctrInc_takes {s : State} (k : Nat) (hl : s.takesEntry) : s.ctrInc k = ((s.ctrInc k).1, true) :=
  Prod.ext rfl (s.ctrInc_ok k hl.1 hl.2)

theorem State.ledgerPages_takes {s : State} (page n : Nat) (bs : List Byte) (hl : s.takesEntry) :
    s.ledgerPages page n bs = ((s.ledgerPages page n bs).1, true) :=
  Prod.ext rfl (s.ledgerPages_ok page n bs hl.1 hl.2)

/-- What an operation leaves beside the ledger still meets the pre-write checks. -/
theorem State.Beside.takesEntry {s t : State} (h : s.Beside t) (hl : s.takesEntry) : t.takesEntry := by
  refine ⟨h.checks.prewrite.trans hl.1, ?_⟩
  rw [h.checks.copies]
  exact hl.2

/-! Commands with an effect of their own before State.command. -/

/-- An admitted command is due at this presentation. -/
theorem Instr.admitted_due {i : Instr} {r : Req} {c : Cmd} {s : State} (e : commandOf i = some (r, c))
    (ha : Instr.admitted i s) : s.due c r = true := by
  obtain ⟨answers, check, now, -, -⟩ := Instr.admitted_checks e ha
  have waits := Bool.eq_false_iff.2 fun h => now (.inr h)
  have ready : (c.ready && (s.pstate == 3 || s.pstate == 4)) = false := Bool.eq_false_iff.2 fun h => now (.inl (by simpa using h))
  simp only [State.due, answers, check, ready, waits, Bool.not_false, Bool.and_true, beq_self_eq_true]

/-- An admitted command is none of those pending. -/
theorem Instr.admitted_new {i : Instr} {r : Req} {c : Cmd} {s : State} (e : commandOf i = some (r, c))
    (ha : Instr.admitted i s) : ∀ p ∈ s.hl.pend, ¬(p.req = r ∧ p.op = c.op) := by
  obtain ⟨-, -, -, -, new⟩ := Instr.admitted_checks e ha
  exact new

/-- A command that no earlier presentation left pending is turned down by its acknowledgement. -/
theorem State.turnDown_new {s t : State} {c : Cmd} {r : Req} (code : Nat) (hp : t.hl.pend = s.hl.pend)
    (h : ∀ p ∈ s.hl.pend, ¬(p.req = r ∧ p.op = c.op)) : t.turnDown c r code = t.answer r code [] := by
  refine if_neg (Bool.eq_false_iff.1 (List.any_eq_false.2 fun p hp' => ?_))
  simp only [decide_eq_true_eq]
  exact fun hc => h p (hp ▸ hp') ⟨hc.1, hc.2.1⟩

section
variable {s : State} {r : Req}

/-- The body of LDG_WRITE in the regions that software may write (R455). -/
theorem exec_ldgWrite_writes {bs : List Byte} (ha : Instr.admitted (.ldgWrite r) s) (hl : s.takesEntry)
    (hreg : argw r 1 = 7 ∨ (argw r 1 = 5 ∧ 64 ≤ argw r 2))
    (hin : (regionPages (argw r 1)).1 + argw r 2 < (regionPages (argw r 1)).2)
    (hg : s.gated r.src (argw r 1) 1 = false) (ho : s.object (argw r 3) = .ok bs) (hlen : bs.length = 256) :
    exec (.ldgWrite r) s = .next (((Instr.entered (.ldgWrite r) s).commitPage
      ((regionPages (argw r 1)).1 + argw r 2) bs).finish r 0 []) := by
  have range : ¬(8 ≤ argw r 1 ∨ (regionPages (argw r 1)).2 ≤ (regionPages (argw r 1)).1 + argw r 2) := by omega
  have open1 : ¬(argw r 1 ≠ 5 ∧ argw r 1 ≠ 7) := by omega
  have open2 : ¬(argw r 1 = 5 ∧ argw r 2 < 64) := by omega
  refine congrArg Host.Outcome.next
    (State.command_c_ok (i := .ldgWrite r) (Instr.admitted_checks rfl ha) rfl rfl hl ?_ ?_)
  · simp only [range, open1, open2, hg, ho, hlen, State.ledgerWrite_takes _ _ hl, ne_eq, not_true, Bool.false_eq_true,
      if_false]
    exact nofun
  · simp only [range, open1, open2, Instr.entered_gated, Instr.entered_object, hg, ho, hlen,
      State.ledgerWrite_takes _ _ (Instr.entered_takesEntry _ hl), ne_eq, not_true, Bool.false_eq_true, if_false]

/-- An increment of a counter of the installer (R463, R465). -/
theorem exec_ldgCounter_increments (ha : Instr.admitted (.ldgCounter r) s) (hl : s.takesEntry) (hlo : 32 ≤ argw r 1)
    (hhi : argw r 1 < 64) (hinc : argw r 2 = 1) (hp : s.pstate ≠ 0) (hc : s.counter (argw r 1) < 2 ^ 48 - 1)
    (hcu : (Instr.entered (.ldgCounter r) s).counter (argw r 1) < 2 ^ 48 - 1) :
    exec (.ldgCounter r) s =
      let u := Instr.entered (.ldgCounter r) s
      .next ((u.ctrInc (argw r 1)).1.finish r 0 (words64 ((u.ctrInc (argw r 1)).1.counter (argw r 1)))) := by
  have range : ¬(64 ≤ argw r 1 ∨ 1 < argw r 2 ∨ ((argw r 2 == 1) = true ∧ argw r 1 < 32)) := by omega
  have inc : (argw r 2 == 1) = true := beq_iff_eq.2 hinc
  have read : ¬(!(argw r 2 == 1)) = true := by rw [inc]; exact Bool.false_ne_true
  have body (t : State) (hpt : t.pstate = s.pstate) (hct : t.counter (argw r 1) < 2 ^ 48 - 1) (hlt : t.takesEntry) :
      (if 64 ≤ argw r 1 ∨ 1 < argw r 2 ∨ ((argw r 2 == 1) = true ∧ argw r 1 < 32) then Res.refuse 0x0104
        else if !(argw r 2 == 1) then .ok (words64 (t.counter (argw r 1))) t
        else if t.pstate = 0 then .refuse 0x0402
        else if 2 ^ 48 - 1 ≤ t.counter (argw r 1) then .refuse 0x0104
        else match t.ctrInc (argw r 1) with
          | (t, true) => .ok (words64 (t.counter (argw r 1))) t
          | (_, false) => .refuse 0x040B) =
        .ok (words64 ((t.ctrInc (argw r 1)).1.counter (argw r 1))) (t.ctrInc (argw r 1)).1 := by
    rw [if_neg range, if_neg read, if_neg (hpt ▸ hp), if_neg (Nat.not_le.2 hct), State.ctrInc_takes _ hlt]
  refine congrArg Host.Outcome.next
    (State.command_c_ok (i := .ldgCounter r) (Instr.admitted_checks rfl ha) rfl inc hl ?_ ?_)
  · exact fun code d hx => Res.noConfusion (hx.symm.trans (body s rfl hc hl))
  · exact body _ (Instr.entered_pstate _ _) hcu (Instr.entered_takesEntry _ hl)

/-- One more failed password of a region on its count (R468). -/
def State.passwFailed (s : State) (g : Nat) : State :=
  { s with lg.passFail := mput 0 s.lg.passFail g (mget 0 s.lg.passFail g + 1) }

theorem State.passwFailed_pend (s : State) (g a n : Nat) :
    (((s.passwFailed g).savePassw g).1.bump a n).hl.pend = s.hl.pend := by
  rw [State.bump_hl]
  exact (State.Beside.sealWrite (s.passwFailed g) _ _).pend

/-- A wrong password is counted, and the command turned down, while fewer than ten failures stand (R468). -/
theorem exec_ldgUnlock_wrong (ha : Instr.admitted (.ldgUnlock r) s) (hreg : passwRegion (argw r 1) = true)
    (hrw : argw r 2 ≤ 1) (hkey : mget 0 s.lg.passFail (argw r 1) < 9)
    (hset : mget [] s.lg.passw (2 * argw r 1 + argw r 2) ≠ [])
    (hne : mget [] s.lg.passw (2 * argw r 1 + argw r 2) ≠ sha3 (wordsToBytes ((r.args.drop 2).take 4))) :
    exec (.ldgUnlock r) s = .next ((((s.passwFailed (argw r 1)).savePassw (argw r 1)).1.bump
      (hubBase (srcByte r.src / 16 % 2) + 0x90050) 1).answer r 0x0204 []) := by
  have few : mget 0 s.lg.passFail (argw r 1) < 10 := by omega
  have notTenth : mget 0 s.lg.passFail (argw r 1) + 1 ≠ 10 := by omega
  have wrong : (mget [] s.lg.passw (2 * argw r 1 + argw r 2) == [] || mget [] s.lg.passw (2 * argw r 1 + argw r 2) ==
      sha3 (wordsToBytes ((r.args.drop 2).take 4))) = false := by
    simp only [beq_false_of_ne hset, beq_false_of_ne hne, Bool.or_self]
  refine (if_pos ⟨Instr.admitted_due rfl ha, hreg, hrw, few, by rw [wrong]; rfl⟩).trans (congrArg Host.Outcome.next ?_)
  refine (congrArg (fun t : State => t.turnDown _ r 0x0204) (if_neg notTenth)).trans ?_
  exact State.turnDown_new 0x0204 (State.passwFailed_pend s _ _ _) (Instr.admitted_new rfl ha)

/-- What LDG_PASSWD sets of a region (R468). -/
def State.passwSet (s : State) (g rw : Nat) (d : List Byte) : State :=
  { s with lg.passw := mput [] s.lg.passw (2 * g + rw) d, lg.passFail := mput 0 s.lg.passFail g 0 }

theorem State.savePassw_takes {s : State} (g : Nat) (hl : s.takesEntry) : s.savePassw g = ((s.savePassw g).1, true) :=
  State.sealWrite_takes _ _ hl

theorem State.passwSet_takesEntry {s : State} (g rw : Nat) (d : List Byte) (hl : s.takesEntry) :
    (s.passwSet g rw d).takesEntry := State.takesEntry_congr rfl rfl rfl hl

/-- LDG_PASSWD with the pre-write checks met. -/
theorem exec_ldgPasswd_sets (ha : Instr.admitted (.ldgPasswd r) s) (hl : s.takesEntry)
    (hreg : passwRegion (argw r 1) = true) (hrw : argw r 2 ≤ 1) :
    exec (.ldgPasswd r) s = .next ((((Instr.entered (.ldgPasswd r) s).passwSet (argw r 1) (argw r 2)
      (if (wordsToBytes ((r.args.drop 2).take 4)).all (· == 0) then []
        else sha3 (wordsToBytes ((r.args.drop 2).take 4)))).savePassw (argw r 1)).1.finish r 0 []) := by
  have named : ¬((!passwRegion (argw r 1)) = true ∨ 1 < argw r 2) := by
    rw [hreg]
    exact not_or.2 ⟨Bool.false_ne_true, Nat.not_lt.2 hrw⟩
  have body (t : State) (d : List Byte) (hlt : t.takesEntry) :
      (if (!passwRegion (argw r 1)) = true ∨ 1 < argw r 2 then Res.refuse 0x0104
        else match (t.passwSet (argw r 1) (argw r 2) d).savePassw (argw r 1) with
          | (t, true) => .ok [] t
          | (_, false) => .refuse 0x040B) =
        .ok [] ((t.passwSet (argw r 1) (argw r 2) d).savePassw (argw r 1)).1 := by
    rw [if_neg named, State.savePassw_takes _ (State.passwSet_takesEntry _ _ _ hlt)]
  refine congrArg Host.Outcome.next
    (State.command_c_ok (i := .ldgPasswd r) (Instr.admitted_checks rfl ha) rfl rfl hl ?_ ?_)
  · exact fun code e hx => Res.noConfusion (hx.symm.trans (body s _ hl))
  · exact body _ _ (Instr.entered_takesEntry _ hl)

/-- The right password opens the region to the session that gives it (R468). -/
theorem exec_ldgUnlock_opens {h : Hub} {n : Fin 16} (ha : Instr.admitted (.ldgUnlock r) s)
    (hreg : passwRegion (argw r 1) = true) (hrw : argw r 2 ≤ 1) (hkey : mget 0 s.lg.passFail (argw r 1) = 0)
    (hright : mget [] s.lg.passw (2 * argw r 1 + argw r 2) = [] ∨
      mget [] s.lg.passw (2 * argw r 1 + argw r 2) = sha3 (wordsToBytes ((r.args.drop 2).take 4)))
    (hsrc : r.src = .session h n) :
    exec (.ldgUnlock r) s = .next ((s.setSess (sessKey h n) { s.sess (sessKey h n) with
      regions := (s.sess (sessKey h n)).regions ++ [(argw r 1, argw r 2)] }).answer r 0 []) := by
  have right : (mget [] s.lg.passw (2 * argw r 1 + argw r 2) == [] || mget [] s.lg.passw (2 * argw r 1 + argw r 2) ==
      sha3 (wordsToBytes ((r.args.drop 2).take 4))) = true := by
    simpa only [Bool.or_eq_true, beq_iff_eq] using hright
  have named : ¬((!passwRegion (argw r 1)) = true ∨ 1 < argw r 2) := by
    rw [hreg]
    exact not_or.2 ⟨Bool.false_ne_true, Nat.not_lt.2 hrw⟩
  have few : ¬10 ≤ mget 0 s.lg.passFail (argw r 1) := by omega
  refine (if_neg ?_).trans (congrArg Host.Outcome.next (State.command_ok (Instr.admitted_checks rfl ha) rfl ?_))
  · simp only [right, Bool.not_true, Bool.false_eq_true, and_false, not_false_eq_true]
  · rw [if_neg named, if_neg few, hsrc]
    dsimp only
    rw [if_pos hkey]

/-- LDG_UNLOCK that fails a check of its own is refused, and counts no failure. -/
theorem exec_ldgUnlock_refused {code : Nat} (ha : Instr.admitted (.ldgUnlock r) s)
    (h : passwRegion (argw r 1) = false ∧ code = 0x104 ∨
      passwRegion (argw r 1) = true ∧ argw r 2 ≤ 1 ∧ 10 ≤ mget 0 s.lg.passFail (argw r 1) ∧ code = 0x205) :
    exec (.ldgUnlock r) s = .next (s.answer r code []) := by
  refine (if_neg ?_).trans (congrArg Host.Outcome.next (State.command_refuse (Instr.admitted_checks rfl ha) ?_))
  · rintro ⟨-, hreg, -, few, -⟩
    rcases h with ⟨h, -⟩ | ⟨-, -, h, -⟩
    · exact Bool.false_ne_true (h.symm.trans hreg)
    · exact absurd few (Nat.not_lt.2 h)
  · rcases h with ⟨h, rfl⟩ | ⟨h, hrw, hten, rfl⟩
    · refine if_pos (.inl ?_)
      rw [h]
      rfl
    · refine (if_neg ?_).trans (if_pos hten)
      rw [h]
      exact not_or.2 ⟨Bool.false_ne_true, Nat.not_lt.2 hrw⟩

end

/-- Settles O35: the reads by the checks their rows pass or fail, the writes by the lemmas above. -/
theorem ledgerCommands : Obligations.Ledger_commands := by
  refine ⟨?read, ?secrets, fun s r bs ha hl hreg hin hg ho hlen => exec_ldgWrite_writes ha hl hreg hin hg ho hlen,
    ?closed, ?counter, fun s r ha hl hlo hhi hinc hp hc hcu => exec_ldgCounter_increments ha hl hlo hhi hinc hp hc hcu,
    ?reserved, fun s r h n ha hreg hrw hkey hright hsrc => exec_ldgUnlock_opens ha hreg hrw hkey hright hsrc,
    fun s r ha hreg hrw hkey hset hne => exec_ldgUnlock_wrong ha hreg hrw hkey hset hne,
    fun s r ha hreg hrw hten => exec_ldgUnlock_refused ha (.inr ⟨hreg, hrw, hten, rfl⟩),
    fun s r ha hreg => exec_ldgUnlock_refused ha (.inl ⟨hreg, rfl⟩),
    fun s r ha hl hreg hrw => exec_ldgPasswd_sets ha hl hreg hrw, ?audit, ?unheld⟩
  case read =>
    intro s r ha hreg hn hin hc hk
    refine congrArg Host.Outcome.next (State.command_ok (Instr.admitted_checks rfl ha) rfl ?_)
    simp only [Nat.not_le.2 hreg, Nat.not_lt.2 hin, or_self, hc, hn, hk, ne_eq, not_true, if_false]
  case secrets =>
    intro s r ha hreg hn hin h6
    refine congrArg Host.Outcome.next (State.command_refuse (Instr.admitted_checks rfl ha) ?_)
    have secret : s.readCode r.src (argw r 1) = 0x201 := if_pos h6
    refine (if_neg (not_or.2 ⟨Nat.not_le.2 hreg, Nat.not_lt.2 hin⟩)).trans ?_
    rw [secret]
    rfl
  case closed =>
    intro s r ha hreg hin h5 h7
    refine congrArg Host.Outcome.next (State.command_refuse (Instr.admitted_checks rfl ha) ?_)
    exact (if_neg (not_or.2 ⟨Nat.not_le.2 hreg, Nat.not_le.2 hin⟩)).trans (if_pos ⟨h5, h7⟩)
  case counter =>
    intro s r ha hk h0
    have read : (argw r 2 == 1) = false := by rw [h0]; rfl
    refine congrArg Host.Outcome.next (State.command_ok (Instr.admitted_checks rfl ha) read ?_)
    have range : ¬(64 ≤ argw r 1 ∨ 1 < argw r 2 ∨ (argw r 2 == 1) = true ∧ argw r 1 < 32) := by
      simp only [read, Nat.not_le.2 hk, Bool.false_eq_true, false_and, or_false, false_or]
      omega
    refine (if_neg range).trans (if_pos ?_)
    rw [read]
    rfl
  case reserved =>
    intro s r ha hk h1
    refine congrArg Host.Outcome.next (State.command_refuse (Instr.admitted_checks rfl ha) ?_)
    exact if_pos (.inr (.inr ⟨beq_iff_eq.2 h1, hk⟩))
  case audit =>
    intro s r ha hg hin hheld hk
    refine congrArg Host.Outcome.next (State.command_ok (Instr.admitted_checks rfl ha) rfl ?_)
    simp only [hg, Nat.not_lt.2 hin, Nat.not_lt.2 hheld, or_self, hk, ne_eq, not_true, Bool.false_eq_true, if_false]
  case unheld =>
    intro s r ha hg h
    refine congrArg Host.Outcome.next (State.command_refuse (Instr.admitted_checks rfl ha) ?_)
    rw [hg]
    exact (if_neg Bool.false_ne_true).trans (if_pos (.inl h))

end Sys2Proof.Machine
end

section
/-! PROOFS. The security commands, the maker's access port and provisioning (R500-R515). -/

namespace Sys2Proof.Machine

/-! SEC_STAT and the audit entries of the module's own changes. -/

theorem bit_putBit_same (w : Word) {n : Nat} (b : Bool) (hn : n < 32) : bit (putBit w n b) n = b := by
  have hb : (BitVec.ofNat 32 (2 ^ n)).getLsbD n = true := by
    rw [BitVec.getLsbD_ofNat, Nat.testBit_two_pow_self, decide_eq_true hn, Bool.and_true]
  cases b with
  | false => simp only [bit, putBit, Bool.false_eq_true, if_false, BitVec.getLsbD_and, BitVec.getLsbD_not, hb,
      Bool.not_true, Bool.and_false]
  | true => simp only [bit, putBit, if_true, BitVec.getLsbD_or, hb, Bool.or_true]

theorem State.secBit_reg (s : State) (n : Nat) (b : Bool) :
    (s.secBit n b).reg (secReg 0 0) = putBit (s.reg (secReg 0 0)) n b := by
  rw [State.secBit, State.reg_setReg_ne _ _ _ _ (by decide), State.reg_setReg]

theorem State.bit_secBit_same (s : State) {n : Nat} (b : Bool) (hn : n < 32) :
    bit ((s.secBit n b).reg (secReg 0 0)) n = b := by
  rw [State.secBit_reg, bit_putBit_same _ _ hn]

theorem State.bit_secBit_ne (s : State) {n j : Nat} (b : Bool) (h : j ≠ n) :
    bit ((s.secBit n b).reg (secReg 0 0)) j = bit (s.reg (secReg 0 0)) j := by
  rw [State.secBit_reg]
  exact getLsbD_putBit_ne _ _ h

theorem State.Beside.auditModule (s : State) (code : Nat) (args : List Word) : s.Beside (s.auditModule code args) :=
  (State.Beside.flushAll s).trans (State.Beside.audit _ _ _ _ _)

theorem State.sess_auditModule (s : State) (code k : Nat) (args : List Word) :
    (s.auditModule code args).sess k = s.sess k := by
  rw [State.sess, (State.Beside.auditModule s code args).sess, State.sess]

theorem State.Beside.secReg {s t : State} (h : s.Beside t) : t.reg (secReg 0 0) = s.reg (secReg 0 0) :=
  h.regs _ (by decide)

/-! SERVICE_EN deasserted (R504, R515). -/

/-- A maker session returned to the operator role, with its audit entry (R504). -/
def State.endMaker (s : State) (k : Nat) : State :=
  if (s.sess k).role = 3 then (s.setSess k { s.sess k with role := 1 }).auditModule 0x0B02 else s

theorem State.sess_endMaker (s : State) (k : Nat) :
    (s.endMaker k).sess k = if (s.sess k).role = 3 then { s.sess k with role := 1 } else s.sess k := by
  by_cases h : (s.sess k).role = 3
  · rw [State.endMaker, if_pos h, if_pos h, State.sess_auditModule, State.sess_setSess]
  · rw [State.endMaker, if_neg h, if_neg h]

theorem State.sess_endMaker_ne (s : State) {j k : Nat} (h : j ≠ k) : (s.endMaker k).sess j = s.sess j := by
  rw [State.endMaker]
  split
  · rw [State.sess_auditModule, State.sess_setSess_ne _ _ _ _ h]
  · rfl

theorem State.endMaker_pw (s : State) (k : Nat) : (s.endMaker k).pw = s.pw := by
  rw [State.endMaker]
  split
  · rw [(State.Beside.auditModule _ _ _).pw, State.setSess_pw]
  · rfl

theorem State.endMakers_pw (l : List Nat) (s : State) : (l.foldl State.endMaker s).pw = s.pw := by
  induction l generalizing s with
  | nil => rfl
  | cons k l ih => rw [List.foldl_cons, ih, State.endMaker_pw]

/-- A session that is not a maker's stays as it is. -/
theorem State.endMakers_sess (l : List Nat) {s : State} {j : Nat} (h : (s.sess j).role ≠ 3) :
    (l.foldl State.endMaker s).sess j = s.sess j := by
  induction l generalizing s with
  | nil => rfl
  | cons k l ih =>
    have same : (s.endMaker k).sess j = s.sess j := by
      by_cases hk : j = k
      · subst hk
        rw [State.sess_endMaker, if_neg h]
      · exact State.sess_endMaker_ne s hk
    rw [List.foldl_cons, ih (by rwa [same]), same]

/-- A maker's session among those gone through ends as an operator's. -/
theorem State.endMakers_role {l : List Nat} {s : State} {j : Nat} (hj : j ∈ l) (h : (s.sess j).role = 3) :
    ((l.foldl State.endMaker s).sess j).role = 1 := by
  induction l generalizing s with
  | nil => exact absurd hj List.not_mem_nil
  | cons k l ih =>
    rw [List.foldl_cons]
    by_cases hk : j = k
    · subst hk
      have ended : ((s.endMaker j).sess j).role = 1 := by rw [State.sess_endMaker, if_pos h]
      rw [State.endMakers_sess l (by omega), ended]
    · exact ih ((List.mem_cons.1 hj).resolve_left hk) (by rwa [State.sess_endMaker_ne s hk])

/-- Debug locked where it was unlocked, with its audit entry (R515). -/
def State.lockDebug (s : State) : State :=
  if bit (s.reg (secReg 0 0)) 5 then (s.setDebug false).auditModule 0x0B07 [0] else s

theorem State.lockDebug_locked (s : State) : bit (s.lockDebug.reg (secReg 0 0)) 5 = false := by
  rw [State.lockDebug]
  split
  · rw [(State.Beside.auditModule _ _ _).secReg]
    exact State.bit_secBit_same s false (by decide)
  · rename_i h
    exact Bool.eq_false_iff.2 h

theorem State.lockDebug_pw (s : State) : s.lockDebug.pw = s.pw := by
  rw [State.lockDebug]
  split
  · rw [(State.Beside.auditModule _ _ _).pw]
    rfl
  · rfl

theorem State.lockDebug_sess (s : State) (k : Nat) : s.lockDebug.sess k = s.sess k := by
  rw [State.lockDebug]
  split
  · rw [State.sess_auditModule]
    rfl
  · rfl

theorem exec_serviceEnChange_off (s : State) : exec (.serviceEnChange false) s =
    .next (((List.range 32).foldl State.endMaker (({ s with pw.serviceEn := false } : State).secBit 4 false)).lockDebug) :=
  rfl

/-! Provisioning (R500). -/

/-- The parts that a write of the ledger and of SEC_STAT changes. -/
def Part.ledgered (p : Part) : Prop := p = .regs ∨ p = .lg

theorem State.sealWrite_ledgered (s : State) (page : Nat) (plain : List Byte) :
    Keeps Part.ledgered s (s.sealWrite page plain).1 :=
  State.ledgerWrite_k _ _ _ (.refl s) (.inl rfl) (.inr rfl)

theorem State.ledgerPages_ledgered (s : State) (page n : Nat) (bs : List Byte) :
    Keeps Part.ledgered s (s.ledgerPages page n bs).1 := State.ledgerPages_k _ _ _ _ (.refl s) (.inl rfl) (.inr rfl)

theorem State.secBit_ledgered (s : State) (n : Nat) (b : Bool) : Keeps Part.ledgered s (s.secBit n b) :=
  State.secBit_k _ _ _ (.refl s) (.inl rfl)

theorem Part.ledgered_keeps {s t : State} (h : Keeps Part.ledgered s t) :
    t.fresh = s.fresh ∧ t.mem = s.mem ∧ t.frames = s.frames :=
  ⟨(h.frame .fresh).resolve_left (by simp [Part.ledgered]), (h.frame .mem).resolve_left (by simp [Part.ledgered]),
    (h.frame .frames).resolve_left (by simp [Part.ledgered])⟩

/-- A port's key put into the ledger by the maker (R500, R514). -/
def State.stationCak (s : State) (h : Nat) (c : Option (List Byte)) : State :=
  match c with
  | some p => ({ (s.sealWrite (880 + h) p).1 with lg.caks := mput [] s.lg.caks h p } : State).secBit (2 + h) true
  | none => s

theorem State.stationCak_ledgered (s : State) (h : Nat) (c : Option (List Byte)) :
    Keeps Part.ledgered s (s.stationCak h c) := by
  cases c with
  | none => exact .refl s
  | some p => exact State.secBit_k _ _ _ (.upd (s.sealWrite_ledgered _ _) (h_lg := .inl (.inr rfl))) (.inl rfl)

theorem State.stationCak_bit1 (s : State) (h : Nat) (c : Option (List Byte)) :
    bit ((s.stationCak h c).reg (secReg 0 0)) 1 = bit (s.reg (secReg 0 0)) 1 := by
  cases c with
  | none => rfl
  | some p =>
    rw [State.stationCak, State.bit_secBit_ne _ _ (by omega)]
    exact congrArg (bit · 1) (State.Beside.sealWrite s (880 + h) p).secReg

/-! The commands. -/

@[simp] theorem Instr.entered_segments (i : Instr) (s : State) (k : Nat) :
    (Instr.entered i s).segments k = s.segments k := (Instr.entered_beside i s).segments k

@[simp] theorem Instr.entered_running (i : Instr) (s : State) (h : Nat) :
    (Instr.entered i s).running h = s.running h := by
  simp only [State.running, State.fwImg, Instr.entered_sv]

/-- An object that cannot be had is refused with a code. -/
theorem State.object_error_ne_zero {s : State} {k fmt e : Nat} (h : s.object k fmt = .error e) : e ≠ 0 := by
  unfold State.object at h
  split at h
  · cases h
    decide
  · split at h
    · cases h
      decide
    · split at h
      · cases h
        decide
      · cases h

/-- The conditions of an admission read neither a session's challenge nor its failures. -/
theorem Instr.admitted_setSess {i : Instr} {s : State} {k : Nat} {x : Sess} (hr : x.role = (s.sess k).role)
    (ha : Instr.admitted i s) : Instr.admitted i (s.setSess k x) := by
  have role (y : Src) : (s.setSess k x).role y = s.role y := by
    cases y with
    | sideband => rfl
    | session h n =>
      by_cases hk : sessKey h n = k
      · simp only [State.role, hk, State.sess_setSess, hr]
      · simp only [State.role, State.sess_setSess_ne _ _ _ _ hk]
  cases e : commandOf i with
  | none => simp only [Instr.admitted, e]
  | some p =>
    obtain ⟨r, c⟩ := p
    have := (Instr.admitted_iff s e).1 ha
    refine (Instr.admitted_iff _ e).2 ?_
    rw [role]
    exact this

/-- A refusal of a session's command queues one more reply of its tag and code. -/
theorem State.answer_counts (s : State) {r : Req} {h : Hub} {n : Fin 16} {code : Nat} (hr : r.src = .session h n)
    (hc : code ≠ 0) :
    (s.hl.replies.filter fun x => x.code == code && x.tag == r.tag).length <
      ((s.answer r code []).hl.replies.filter fun x => x.code == code && x.tag == r.tag).length := by
  obtain ⟨l, hl, -⟩ := s.porellAck_replies h 0 code
  simp only [State.answer, hr, hc, if_false, State.toEngine, hl, List.filter_append, List.length_append,
    List.filter_cons, beq_self_eq_true, Bool.and_self, if_true, List.filter_nil, List.length_singleton]
  omega

section
variable {s : State} {r : Req} {h : Hub} {n : Fin 16}

/-- A challenge asked for while the session's challenges are blocked (R503). -/
theorem exec_secChallenge_blocked (ha : Instr.admitted (.secChallenge r) s) (hr : r.src = .session h n)
    (hlo : 1 ≤ argw r 1) (hhi : argw r 1 ≤ 2) (hb : s.now < (s.sess (sessKey h n)).chalBlock) :
    exec (.secChallenge r) s = .next ((s.answer r 0x0604 []).bump (secReg h 0x48) 1) := by
  have role : ¬(argw r 1 < 1 ∨ 2 < argw r 1) := by omega
  have due := Instr.admitted_due rfl ha
  have refused := State.command_refuse (body := fun t => if argw r 1 < 1 ∨ 2 < argw r 1 then .refuse 0x0104
    else if decide (s.now < (s.sess (sessKey h n)).chalBlock) then .refuse 0x0604
    else .ok ((List.range 4).map fun i => word (Config.nonce t.fresh % 2 ^ 128 / 2 ^ (32 * i))) ((t.take 1).setSess
      (sessKey h n) { t.sess (sessKey h n) with chal := some (argw r 1, Config.nonce t.fresh % 2 ^ 128, t.now) }))
    (Instr.admitted_checks rfl ha) ((if_neg role).trans (if_pos (decide_eq_true hb)))
  show execSecChallenge r s = _
  simp only [execSecChallenge, hr]
  rw [if_pos ⟨decide_eq_true hb, due⟩]
  exact congrArg (fun t : State => Host.Outcome.next (t.bump (secReg h 0x48) 1)) refused

/-- A challenge granted (R501). -/
theorem exec_secChallenge_granted (ha : Instr.admitted (.secChallenge r) s) (hr : r.src = .session h n)
    (hlo : 1 ≤ argw r 1) (hhi : argw r 1 ≤ 2) (hb : (s.sess (sessKey h n)).chalBlock ≤ s.now) :
    exec (.secChallenge r) s = .next (((s.take 1).setSess (sessKey h n)
      { s.sess (sessKey h n) with chal := some (argw r 1, Config.nonce s.fresh % 2 ^ 128, s.now) }).answer r 0
      ((List.range 4).map fun i => word (Config.nonce s.fresh % 2 ^ 128 / 2 ^ (32 * i)))) := by
  have role : ¬(argw r 1 < 1 ∨ 2 < argw r 1) := by omega
  have open1 : ¬decide (s.now < (s.sess (sessKey h n)).chalBlock) = true := by
    rw [decide_eq_true_eq]
    exact Nat.not_lt.2 hb
  show execSecChallenge r s = _
  simp only [execSecChallenge, hr]
  rw [if_neg fun hc => open1 hc.1]
  refine congrArg Host.Outcome.next (State.command_ok (Instr.admitted_checks rfl ha) rfl ?_)
  exact (if_neg role).trans (if_neg open1)

/-- A SEC_AUTH that fails a check of R502. -/
theorem exec_secAuth_fails {sig : Bool} {bs : List Byte} (ha : Instr.admitted (.secAuth r sig) s)
    (hr : r.src = .session h n) (hlo : 1 ≤ argw r 1) (hhi : argw r 1 ≤ 2) (ho : s.object (argw r 2) = .ok bs)
    (hlen : bs.length = 4627) (hc : s.authCode (sessKey h n) (argw r 1) sig ≠ 0) :
    exec (.secAuth r sig) s = .next ((s.authFail h n).answer r (s.authCode (sessKey h n) (argw r 1) sig) []) := by
  have role : ¬(argw r 1 < 1 ∨ 2 < argw r 1) := by omega
  have due := Instr.admitted_due rfl ha
  show execSecAuth r sig s = _
  simp only [execSecAuth, hr, due, role, ho, hlen, hc, ne_eq, not_true, not_false_eq_true, Bool.not_true,
    Bool.false_eq_true, if_false, if_true]
  have pend : (s.authFail h n).hl.pend = s.hl.pend := by rw [State.authFail, State.bump_hl]; rfl
  exact congrArg Host.Outcome.next (State.turnDown_new _ pend (Instr.admitted_new rfl ha))

/-- A SEC_AUTH that passes the checks of R502. -/
theorem exec_secAuth_passes {sig : Bool} {bs : List Byte} (ha : Instr.admitted (.secAuth r sig) s) (hl : s.takesEntry)
    (hr : r.src = .session h n) (hlo : 1 ≤ argw r 1) (hhi : argw r 1 ≤ 2) (ho : s.object (argw r 2) = .ok bs)
    (hlen : bs.length = 4627) (hc : s.authCode (sessKey h n) (argw r 1) sig = 0) :
    let u := Instr.entered (.secAuth r sig) s
    exec (.secAuth r sig) s = .next (((u.setSess (sessKey h n)
      { u.sess (sessKey h n) with role := argw r 1 + 1, chal := none }).bump (secReg h 0x40) 1).finish r 0 []) := by
  have role : ¬(argw r 1 < 1 ∨ 2 < argw r 1) := by omega
  have due := Instr.admitted_due rfl ha
  show execSecAuth r sig s = _
  simp only [execSecAuth, hr, due, role, ho, hlen, hc, ne_eq, not_true, Bool.not_true, Bool.false_eq_true, if_false]
  exact congrArg Host.Outcome.next
    (State.command_c_ok (i := .secAuth r sig) (Instr.admitted_checks rfl ha) rfl rfl hl nofun rfl)

/-- A SEC_AUTH whose object cannot be had consumes the challenge all the same (R502). -/
theorem exec_secAuth_noObject {sig : Bool} {e : Nat} (ha : Instr.admitted (.secAuth r sig) s)
    (hr : r.src = .session h n) (hlo : 1 ≤ argw r 1) (hhi : argw r 1 ≤ 2) (ho : s.object (argw r 2) = .error e) :
    exec (.secAuth r sig) s = .next ((s.setSess (sessKey h n) { s.sess (sessKey h n) with chal := none }).answer
      r e []) := by
  have role : ¬(argw r 1 < 1 ∨ 2 < argw r 1) := by omega
  have due := Instr.admitted_due rfl ha
  have consumed : Instr.admitted (.secAuth r sig)
      (s.setSess (sessKey h n) { s.sess (sessKey h n) with chal := none }) := Instr.admitted_setSess rfl ha
  show execSecAuth r sig s = _
  simp only [execSecAuth, hr, due, role, ho, State.object_error_ne_zero ho, ne_eq, not_false_eq_true, Bool.not_true,
    Bool.false_eq_true, if_false, if_true]
  exact congrArg Host.Outcome.next (State.command_refuse (Instr.admitted_checks rfl consumed) rfl)

/-- A key opened for a port's SEC_CAK is sealed into the ledger (R511, R514). -/
theorem exec_secCak_seals {o p : List Byte} (ha : Instr.admitted (.secCak r (some p)) s) (hl : s.takesEntry)
    (hp : argw r 1 < 2) (ho : s.object (argw r 2) = .ok o) (hk : cakPlain (argw r 1) o p = true) :
    exec (.secCak r (some p)) s = .next
      (let v := ((Instr.entered (.secCak r (some p)) s).sealWrite (880 + argw r 1) p).1
      (({ v with lg.caks := mput [] v.lg.caks (argw r 1) p } : State).secBit (2 + argw r 1) true).finish r 0 []) := by
  have named : ¬2 ≤ argw r 1 := Nat.not_le.2 hp
  refine congrArg Host.Outcome.next ((if_neg fun h => nomatch h.1).trans
    (State.command_c_ok (i := .secCak r (some p)) (Instr.admitted_checks rfl ha) rfl rfl hl ?_ ?_))
  · simp only [named, ho, hk, Bool.not_true, Bool.false_eq_true, if_false]
    rw [State.sealWrite_takes _ _ hl]
    exact nofun
  · simp only [named, Instr.entered_object, ho, hk, Bool.not_true, Bool.false_eq_true, if_false]
    rw [State.sealWrite_takes _ _ (Instr.entered_takesEntry _ hl)]

/-- A SEC_CAK object that does not open is refused and counted (R514). -/
theorem exec_secCak_unopened {o : List Byte} (ha : Instr.admitted (.secCak r none) s) (hp : argw r 1 < 2)
    (ho : s.object (argw r 2) = .ok o) :
    exec (.secCak r none) s = .next ((s.answer r 0x0605 []).bump (secReg (srcByte r.src / 16 % 2) 0x4C) 1) := by
  obtain ⟨-, -, -, -, sb, -⟩ := (Instr.admitted_iff (i := .secCak r none) s rfl).1 ha
  obtain ⟨h, n, hr⟩ : ∃ h n, r.src = .session h n := by
    cases e : r.src with
    | session h n => exact ⟨h, n, rfl⟩
    | sideband => exact absurd (sb e) (by decide)
  have refused := State.command_refuse (body := fun t => if 2 ≤ argw r 1 then .refuse 0x010A
      else match t.object (argw r 2) with
        | .error e => .refuse e
        | .ok _ => .refuse 0x0605) (code := 0x0605) (Instr.admitted_checks (i := .secCak r none) rfl ha)
    (by simp only [Nat.not_le.2 hp, ho, if_false])
  have counted := State.answer_counts s hr (code := 0x0605) (by decide)
  rw [← refused] at counted ⊢
  exact congrArg Host.Outcome.next (if_pos ⟨rfl, counted⟩)

/-- The key of the session that a command came from; past every session for the sideband. -/
def srcSessKey (x : Src) : Nat :=
  match x with
  | .session h n => sessKey h n
  | .sideband => 32

/-- The installer key replaced (R505). -/
theorem exec_secIkey_replaces {o : List Byte} (ha : Instr.admitted (.secIkey r true) s) (hl : s.takesEntry)
    (ho : s.object (argw r 1) = .ok o) (hlen : o.length = 2592 + 4627) (hg : s.gated r.src 5 1 = false) :
    exec (.secIkey r true) s = .next
      (let v := ((Instr.entered (.secIkey r true) s).ledgerPages 762 11 (padTo 0 2816 (o.take 2592))).1
      (((v.ctrInc 1).1.secBit 1 true).dropInstallers (srcSessKey r.src)).finish r 0 []) := by
  refine congrArg Host.Outcome.next
    (State.command_c_ok (i := .secIkey r true) (Instr.admitted_checks rfl ha) rfl rfl hl ?_ ?_)
  · simp only [ho, hlen, hg, ne_eq, not_true, Bool.not_true, Bool.false_eq_true, if_false]
    rw [State.ledgerPages_takes _ _ _ hl]
    exact nofun
  · simp only [Instr.entered_object, Instr.entered_gated, ho, hlen, hg, ne_eq, not_true, Bool.not_true,
      Bool.false_eq_true, if_false]
    rw [State.ledgerPages_takes _ _ _ (Instr.entered_takesEntry _ hl)]
    rfl

/-- A verified release is written to the slots that do not run, and hub A goes out for it (R491, R508). -/
theorem exec_secFw_begins {sig : Bool} {b : List Byte} (ha : Instr.admitted (.secFw r sig) s) (hl : s.takesEntry)
    (hb : s.segments (argw r 1) = .ok b) (hf : s.fwCode (fwOf b) sig = 0)
    (hpred : (fwOf b).pred.contains ((s.running 0).major, (s.running 0).minor) = true) (hv : s.sv.alive = [true, true])
    (hu : (Instr.entered (.secFw r sig) s).fwCode (fwOf b) sig = 0) :
    exec (.secFw r sig) s = .next ((((List.range 2).foldl (fun (v : State) (h : Nat) =>
      { v with sv.fw := mput {} v.sv.fw (2 * h + (1 - v.sv.cur.getD h 0)) (fwOf b) }) (Instr.entered (.secFw r
      sig) s)).hubOut 0).addPend { req := r, op := 0x0B06, key := 0 }) := by
  have both : (s.sv.alive.getD 0 false && s.sv.alive.getD 1 false) = true := by rw [hv]; rfl
  refine congrArg Host.Outcome.next
    ((State.command_c (i := .secFw r sig) (Instr.admitted_checks rfl ha) rfl rfl ?_ hl).trans ?_)
  · simp only [hb, hf, hpred, both, ne_eq, not_true, Bool.not_true, Bool.false_eq_true, if_false]
    exact nofun
  · simp only [Instr.entered_segments, hb, hu, Instr.entered_running, hpred, Instr.entered_sv, both, ne_eq, not_true,
      Bool.not_true, Bool.false_eq_true, if_false]

end

/-- SERVICE_EN and the unlocked debug port let provisioning go on (R500). -/
theorem State.provisions {s : State} (hs : s.pw.serviceEn = true) (hd : bit (s.reg (secReg 0 0)) 5 = true) :
    ¬((!s.pw.serviceEn) = true ∨ (!bit (s.reg (secReg 0 0)) 5) = true) := by
  simp only [hs, hd, Bool.not_true, Bool.false_eq_true, or_self, not_false_eq_true]

/-- The identity made: the last of its writes sets bit 0 of SEC_STAT and draws two free values (R500). -/
theorem exec_provisioning_identity {s : State} (hs : s.pw.serviceEn = true) (hd : bit (s.reg (secReg 0 0)) 5 = true)
    (hi : bit (s.reg (secReg 0 0)) 0 = false) :
    ∃ t u, Keeps Part.ledgered s t ∧ u = (t.take 2).secBit 0 true ∧
      exec (.provisioning .identity) s = .next { u with rdata := 0 } := by
  refine ⟨_, _, ?_, rfl, (if_neg (State.provisions hs hd)).trans (if_neg (Bool.eq_false_iff.1 hi))⟩
  exact ((State.ledgerPages_ledgered _ _ _ _).trans (State.sealWrite_ledgered _ _ _)).trans
    (State.sealWrite_ledgered _ _ _)

/-- The installer's keys: the key's pages, bit 1 of SEC_STAT and the two ports' keys (R500). -/
theorem exec_provisioning_station {s : State} {x : List Byte} {a b : Option (List Byte)}
    (hs : s.pw.serviceEn = true) (hd : bit (s.reg (secReg 0 0)) 5 = true) (hi : bit (s.reg (secReg 0 0)) 0 = true) :
    exec (.provisioning (.station x a b)) s = .next { ((((s.ledgerPages 762 11 (padTo 0 2816 x)).1.secBit 1 true).stationCak
      0 a).stationCak 1 b) with rdata := 0 } := by
  refine (if_neg (State.provisions hs hd)).trans (if_neg ?_)
  rw [hi]
  exact Bool.false_ne_true

/-- Settles O37: the commands by their admission and their own checks, SERVICE_EN by what ends a maker's session, and
provisioning by the parts that a ledger write leaves alone. -/
theorem securityCommands : Obligations.Security_commands := by
  refine ⟨fun s r h n ha hr hlo hhi hb => exec_secChallenge_granted ha hr hlo hhi hb,
    fun s r h n ha hr hlo hhi hb => exec_secChallenge_blocked ha hr hlo hhi hb,
    fun s r sig h n bs ha hl hr hlo hhi ho hlen hc => exec_secAuth_passes ha hl hr hlo hhi ho hlen hc,
    fun s r sig h n bs ha hr hlo hhi ho hlen hc => exec_secAuth_fails ha hr hlo hhi ho hlen hc,
    fun s r sig h n e ha hr hlo hhi ho => exec_secAuth_noObject ha hr hlo hhi ho, ?drop,
    fun s r opened o p ha hl hp ho e hk => ?seals, fun s r opened o ha hp ho e => ?unopened,
    fun s r sig o ha hl ho hlen hg e => ?ikey, ?attest,
    fun s r sig b ha hl hb hf hpred hv hu => exec_secFw_begins ha hl hb hf hpred hv hu, ?debug, ?debugRange, ?tap,
    ?tapFails, fun s => rfl, ?serviceOff, ?locked, ?identityOnce, ?identity, ?certificate, ?certificateOnce,
    ?stationFirst, ?station⟩
  case seals =>
    subst e
    exact exec_secCak_seals ha hl hp ho hk
  case unopened =>
    subst e
    exact exec_secCak_unopened ha hp ho
  case ikey =>
    subst e
    exact exec_secIkey_replaces ha hl ho hlen hg
  case drop =>
    intro s r h n ha hl hr
    refine congrArg Host.Outcome.next
      (State.command_c_ok (i := .secDrop r) (Instr.admitted_checks rfl ha) rfl rfl hl ?_ ?_)
    · simp only [hr]
      exact nofun
    · simp only [hr]
  case attest =>
    intro s r h ha hh hf hlen
    refine congrArg Host.Outcome.next (State.command_ok (Instr.admitted_checks rfl ha) rfl ?_)
    simp only [hh, hf, Nat.not_lt.2 hlen, ne_eq, not_true, if_false]
  case debug =>
    intro s r ha hl hw
    refine congrArg Host.Outcome.next
      (State.command_c_ok (i := .secDebug r) (Instr.admitted_checks rfl ha) rfl rfl hl ?_ ?_)
    · simp only [Nat.not_lt.2 hw, if_false]
      exact nofun
    · simp only [Nat.not_lt.2 hw, if_false]
  case debugRange =>
    intro s r ha hw
    exact congrArg Host.Outcome.next (State.command_refuse (Instr.admitted_checks rfl ha) (if_pos hw))
  case tap =>
    intro s sig hsig hs
    exact if_pos ⟨hsig, hs⟩
  case tapFails =>
    intro s sig h
    refine if_neg fun hc => ?_
    rcases h with h | h
    · exact Bool.false_ne_true (h.symm.trans hc.1)
    · exact Bool.false_ne_true (h.symm.trans hc.2)
  case serviceOff =>
    intro s
    refine ⟨_, exec_serviceEnChange_off s, ?_, fun k hk h3 => ?_, fun k h3 => ?_, State.lockDebug_locked _⟩
    · rw [State.lockDebug_pw, State.endMakers_pw]
      rfl
    · rw [State.lockDebug_sess]
      exact State.endMakers_role (List.mem_range.2 hk) h3
    · rw [State.lockDebug_sess]
      exact State.endMakers_sess _ h3
  case locked =>
    intro s step h
    refine if_pos ?_
    simpa only [Bool.not_eq_true'] using h
  case identityOnce =>
    intro s hs hd hi
    show execProvisioning .identity s = _
    simp only [execProvisioning, hs, hd, hi, Bool.not_true, Bool.false_eq_true, or_self, if_false, if_true]
  case identity =>
    intro s hs hd hi
    obtain ⟨t, u, kept, hu, he⟩ := exec_provisioning_identity hs hd hi
    obtain ⟨hfresh, hmem, hframes⟩ := Part.ledgered_keeps (kept)
    obtain ⟨hfresh', hmem', hframes'⟩ := Part.ledgered_keeps (State.secBit_ledgered (t.take 2) 0 true)
    subst hu
    exact ⟨_, he, State.bit_secBit_same _ true (by decide), rfl, hfresh'.trans (congrArg (· + 2) hfresh),
      hmem'.trans hmem, hframes'.trans hframes⟩
  case certificate =>
    intro s x hs hd hi hp
    show execProvisioning (.certificate x) s = _
    simp only [execProvisioning, hs, hd, hi, Bool.not_true, Bool.false_eq_true, or_self, false_or, if_false]
    exact if_neg (Bool.eq_false_iff.1 hp)
  case certificateOnce =>
    intro s x hs hd h
    show execProvisioning (.certificate x) s = _
    simp only [execProvisioning, hs, hd, Bool.not_true, Bool.false_eq_true, or_self, if_false]
    refine if_pos ?_
    simpa only [Bool.not_eq_true'] using h
  case stationFirst =>
    intro s x a b hs hd hi
    show execProvisioning (.station x a b) s = _
    simp only [execProvisioning, hs, hd, hi, Bool.not_true, Bool.not_false, Bool.false_eq_true, or_self, if_false,
      if_true]
  case station =>
    intro s x a b hs hd hi
    refine ⟨_, exec_provisioning_station hs hd hi, ?_, rfl, ?_⟩
    · refine (State.stationCak_bit1 _ 1 b).trans ((State.stationCak_bit1 _ 0 a).trans ?_)
      exact State.bit_secBit_same _ true (by decide)
    · exact (Part.ledgered_keeps ((((s.ledgerPages_ledgered 762 11 (padTo 0 2816 x)).trans
        (State.secBit_ledgered _ 1 true)).trans (State.stationCak_ledgered _ 0 a)).trans
        (State.stationCak_ledgered _ 1 b))).2

/-! Failed authentications (R503). -/

theorem State.sess_bump (s : State) (a n k : Nat) : (s.bump a n).sess k = s.sess k := by rfl

theorem State.sess_answer (s : State) (r : Req) (code k : Nat) (ws : List Word) :
    (s.answer r code ws).sess k = s.sess k := by
  rw [State.sess, (State.Beside.answer s r code ws).sess, State.sess]

/-- The failures of a session that are less than 60 s old (R503). -/
def State.recentFails (s : State) (k : Nat) : List Nat :=
  (s.sess k).fails.filter fun x => decide (s.now < x + 60000000000)

theorem State.sess_authFail (s : State) (h n : Nat) : (s.authFail h n).sess (sessKey h n) =
    { s.sess (sessKey h n) with
      chal := none
      fails := s.recentFails (sessKey h n) ++ [s.now]
      chalBlock := if 3 ≤ (s.recentFails (sessKey h n) ++ [s.now]).length then s.now + 60000000000
        else (s.sess (sessKey h n)).chalBlock } := by
  rw [State.authFail, State.sess_bump, State.sess_setSess]
  rfl

theorem State.sess_authFail_ne (s : State) {h n j : Nat} (hj : j ≠ sessKey h n) :
    (s.authFail h n).sess j = s.sess j := by
  rw [State.authFail, State.sess_bump, State.sess_setSess_ne _ _ _ _ hj]

/-- Settles O60: the third failure is the one with two recent ones before it. -/
theorem threeFailedAuthenticationsBlockChallenges : Obligations.Three_failed_authentications_block_challenges := by
  refine ⟨?fails, fun s r h n hr ha hlo hhi hb => exec_secChallenge_blocked ha hr hlo hhi hb, ?granted⟩
  case fails =>
    intro s r sig h n bs hr ha hlo hhi ho hlen hc
    have third : 3 ≤ (s.recentFails (sessKey h n) ++ [s.now]).length ↔ 2 ≤ (s.recentFails (sessKey h n)).length := by
      rw [List.length_append, List.length_singleton]
      omega
    refine ⟨_, exec_secAuth_fails ha hr hlo hhi ho hlen hc, ?_, ?_, fun j hj => ?_⟩
    · rw [State.sess_answer, State.sess_authFail]
      rfl
    · rw [State.sess_answer, State.sess_authFail]
      exact if_congr third rfl rfl
    · rw [State.sess_answer, State.sess_authFail_ne s hj]
  case granted =>
    intro s r h n hr ha hlo hhi hb
    refine ⟨_, exec_secChallenge_granted ha hr hlo hhi hb, ?_, fun j hj => ?_⟩
    · rw [State.sess_answer, State.sess_setSess]
    · rw [State.sess_answer, State.sess_setSess_ne _ _ _ _ hj]
      rfl

end Sys2Proof.Machine
end

section
/-! PROOFS. The Ethernet ports and the SMBus sideband (R318-R324, R364, R365). -/

namespace Sys2Proof.Machine

/-! Received frames. -/

/-- A running hub takes a frame within its port's limit (R318). -/
def State.takesFrame (s : State) (f : EthFrame) : Prop :=
  (s.sv.alive.getD f.port false && s.pw.booted.getD f.port false) = true ∧ s.pstate ≠ 0 ∧
    f.len ≤ s.frameLimit f.port f.vid.isSome

section
variable {s : State} {f : EthFrame}

/-- A frame taken is filtered by its check sequence, its VLAN and its protection, in this order (R318, R320, R321). -/
theorem exec_ethernetFrameRx (h : s.takesFrame f) : exec (.ethernetFrameRx f) s =
    if !f.fcsOk then .next (s.bump (spm f.port 0x64) 1)
    else if !s.vlanOk f.port f.vid then .next (s.bump (spm f.port 0x60) 1)
    else match f.sec with
      | none => .next (if ethExempt f then s.ethKind f else s.bump (spm f.port 0x5C) 1)
      | some (pn, ok) =>
        if !ok || !(s.port f.port).secured then .next (s.bump (spm f.port 0x64) 1)
        else .next ((s.setPort f.port { s.port f.port with pn := max (s.port f.port).pn pn }).ethKind f) := by
  obtain ⟨hup, hp, hlen⟩ := h
  refine (if_neg ?_).trans (if_neg (Nat.not_lt.2 hlen))
  simp only [hup, hp, Bool.not_true, Bool.false_eq_true, or_self, not_false_eq_true]

theorem exec_ethernetFrameRx_filtered (h : s.takesFrame f) (hf : f.fcsOk = true) (hv : s.vlanOk f.port f.vid = true) :
    exec (.ethernetFrameRx f) s = match f.sec with
      | none => .next (if ethExempt f then s.ethKind f else s.bump (spm f.port 0x5C) 1)
      | some (pn, ok) =>
        if !ok || !(s.port f.port).secured then .next (s.bump (spm f.port 0x64) 1)
        else .next ((s.setPort f.port { s.port f.port with pn := max (s.port f.port).pn pn }).ethKind f) := by
  exact (exec_ethernetFrameRx h).trans ((if_neg (not_bang hf)).trans (if_neg (not_bang hv)))

end

/-! Links and the time port. -/

/-- A running hub takes a change of its port's link (R319). -/
theorem State.linkTaken {s : State} {h : Nat} (hup : (s.sv.alive.getD h false && s.pw.booted.getD h false) = true)
    (hp : s.pstate ≠ 0) :
    ¬((!(s.sv.alive.getD h false && s.pw.booted.getD h false)) = true ∨ s.pstate = 0) := by
  simp only [hup, hp, Bool.not_true, Bool.false_eq_true, or_self, not_false_eq_true]

/-- A link negotiated shows the faster of the partner's speed and the configured one (R319). -/
theorem exec_portLinkChange_negotiated {s : State} {h : Hub} {speed : Fin 3}
    (hup : (s.sv.alive.getD h false && s.pw.booted.getD h false) = true) (hp : s.pstate ≠ 0)
    (ha : bit (s.reg (spm h 0)) 2 = true) :
    exec (.portLinkChange h true speed) s = .next ((s.take 1).setReg (spm h 0xC) (putBit (put (s.reg (spm h 0xC)) 0 4
      (2 + 4 * max speed.val (fld (s.reg (spm h 0)) 0 2))) 6 (Config.freeBit s.fresh))) := by
  refine (if_neg (State.linkTaken hup hp)).trans ?_
  simp only [ha, if_true]

/-! The sideband. -/

section
variable {s : State} {adr : Fin 128} {pec : Bool} {bs : List Byte}

/-- A Block Write while no message is awaited delivers its message to MB1 (R364). -/
theorem exec_smbusBlockWrite_delivers (hm : s.smbMine adr pec = true) (hw : s.hl.sbAwait = false) (hp : s.pstate ≠ 0) :
    exec (.smbusBlockWrite adr pec bs) s =
      let t := ({ s with hl.sbAwait := true, hl.sbRefused := false } : State).mbDeliver s.hl.sbHub 1 0 (bytesToWords bs)
      .next (if t.answers ∧ unknownOp (bytesToWords bs) then
        { t.mbAck s.hl.sbHub 1 1 0x0101 with hl.sbAwait := false, hl.sbRefused := true } else t) := by
  exact (if_neg (not_bang hm)).trans ((if_neg (Bool.eq_false_iff.1 hw)).trans (if_neg hp))

/-- A message delivered leaves whether commands are answered. -/
theorem State.answers_mbDeliver (s : State) {h n e : Nat} (ws : List Word) (hn : n < 8) (he : e < 2) :
    (s.mbDeliver h n e ws).answers = s.answers := by
  have k := State.Beside.mbDeliver s h n e ws hn he
  rw [State.answers, k.pstate, k.pw, State.answers]

end

/-- Settles O41: a frame by the filters it meets in turn, the other commands by their guards. -/
theorem portsAndSideband : Obligations.Ports_and_sideband := by
  refine ⟨?down, ?long, ?fcs, ?vlan, ?unprotected, ?exempt, ?unproved, ?proved, ?dropped, ?forced, ?negotiated, ?rekey,
    ?unsecured, ?fallback, ?otherSource, ?config, ?noConfig, ?notMine, ?awaited, ?delivered, ?unknown, ?off, ?read,
    ?readOther, ?status, ?statusOther, fun s => rfl, ?alert, ?noAlert⟩
  case down =>
    intro s f h
    refine if_pos ?_
    simpa only [Bool.not_eq_true'] using h
  case long =>
    intro s f hup hp hlen
    exact (if_neg (State.linkTaken hup hp)).trans (if_pos hlen)
  case fcs =>
    intro s f hup hp hlen hf
    rw [exec_ethernetFrameRx ⟨hup, hp, hlen⟩, hf]
    rfl
  case vlan =>
    intro s f hup hp hlen hf hv
    rw [exec_ethernetFrameRx ⟨hup, hp, hlen⟩, hf, hv]
    rfl
  case unprotected =>
    intro s f hup hp hlen hf hv hs he
    rw [exec_ethernetFrameRx_filtered ⟨hup, hp, hlen⟩ hf hv, hs, he]
    rfl
  case exempt =>
    intro s f hup hp hlen hf hv hs he
    rw [exec_ethernetFrameRx_filtered ⟨hup, hp, hlen⟩ hf hv, hs, he]
    rfl
  case unproved =>
    intro s f pn ok hup hp hlen hf hv hs h
    rw [exec_ethernetFrameRx_filtered ⟨hup, hp, hlen⟩ hf hv, hs]
    refine if_pos ?_
    simpa only [Bool.or_eq_true, Bool.not_eq_true'] using h
  case proved =>
    intro s f pn hup hp hlen hf hv hs h
    rw [exec_ethernetFrameRx_filtered ⟨hup, hp, hlen⟩ hf hv, hs]
    exact if_neg (not_bang h)
  case dropped =>
    intro s h speed hup hp
    exact (if_neg (State.linkTaken hup hp)).trans rfl
  case forced =>
    intro s h speed hup hp hf
    refine (if_neg (State.linkTaken hup hp)).trans ?_
    simp only [hf, Bool.false_eq_true, if_false, if_true]
  case negotiated =>
    intro s h speed hup hp ha
    refine ⟨_, exec_portLinkChange_negotiated hup hp ha, ?_, rfl, rfl, fun a hne => ?_⟩
    · have cfg : fld (s.reg (spm h 0)) 0 2 < 4 := Nat.mod_lt _ (by decide)
      have small : 2 + 4 * max speed.val (fld (s.reg (spm h 0)) 0 2) < 2 ^ 4 := by omega
      rw [State.reg_setReg, fld_putBit_out _ _ (.inr (by decide)), fld_put_same _ (by decide), Nat.mod_eq_of_lt small]
    · exact State.reg_setReg_ne _ _ _ _ hne
  case rekey =>
    intro s h hs hd
    exact if_pos ⟨hs, hd⟩
  case unsecured =>
    intro s h hs
    exact if_neg fun hc => Bool.false_ne_true (hs.symm.trans hc.1)
  case fallback =>
    intro s hsrc hs hd
    refine (if_pos hsrc).trans (congrArg Host.Outcome.next (if_pos ⟨?_, hd⟩))
    rw [hs]
    rfl
  case otherSource =>
    intro s h1 h2
    exact if_neg (not_or.2 ⟨h1, h2⟩)
  case config =>
    intro s h c e i due hc hd hn
    show execPortConfigApply h s = _
    simp only [execPortConfigApply, hc]
    exact if_neg (not_or.2 ⟨hd, Nat.not_lt.2 hn⟩)
  case noConfig =>
    intro s h hc
    show execPortConfigApply h s = _
    simp only [execPortConfigApply, hc]
  case notMine =>
    intro s adr pec bs hm
    exact if_pos (bang hm)
  case awaited =>
    intro s adr pec bs hm hw
    exact (if_neg (not_bang hm)).trans (if_pos hw)
  case delivered =>
    intro s adr pec bs hm hw hp hu
    exact (exec_smbusBlockWrite_delivers hm hw hp).trans
      (congrArg Host.Outcome.next (if_neg fun hc => Bool.false_ne_true (hu.symm.trans hc.2)))
  case unknown =>
    intro s adr pec bs hm hw hp ha hu
    have answered : (({ s with hl.sbAwait := true, hl.sbRefused := false } : State).mbDeliver s.hl.sbHub 1 0
        (bytesToWords bs)).answers = true := (State.answers_mbDeliver _ _ (by decide) (by decide)).trans ha
    exact (exec_smbusBlockWrite_delivers hm hw hp).trans (congrArg Host.Outcome.next (if_pos ⟨answered, hu⟩))
  case off =>
    intro s adr pec bs hm hw hp ho
    exact (if_neg (not_bang hm)).trans ((if_neg (Bool.eq_false_iff.1 hw)).trans ((if_pos hp).trans (if_pos ho)))
  case read =>
    intro s adr pec hm
    exact if_neg (not_bang hm)
  case readOther =>
    intro s adr pec hm
    exact if_pos (bang hm)
  case status =>
    intro s adr pec hm
    exact if_neg (not_bang hm)
  case statusOther =>
    intro s adr pec hm
    exact if_pos (bang hm)
  case alert =>
    intro s ha
    exact congrArg Host.Outcome.next (if_pos ha)
  case noAlert =>
    intro s ha
    exact congrArg Host.Outcome.next (if_neg (Bool.eq_false_iff.1 ha))

end Sys2Proof.Machine
end

section
/-! PROOFS. The log, telemetry, journal and replay commands (R393-R398) and the service commands (R475-R490). -/

namespace Sys2Proof.Machine

/-- A C command that nothing refuses and whose reply comes later. -/
theorem State.command_c_pend {s : State} {c : Cmd} {r : Req} {body : State → Res} {i : Instr} {k k' : Nat} {t t' : State}
    (h : s.answers = true ∧ s.cmdCheck c r = 0 ∧ ¬((c.ready ∧ (s.pstate = 3 ∨ s.pstate = 4)) ∨ s.waits c r) ∧
      ((c.p || c.c) = true → s.pendFull r.src = false) ∧ ∀ p ∈ s.hl.pend, ¬(p.req = r ∧ p.op = c.op))
    (e : commandOf i = some (r, c)) (hc : c.c = true) (hl : s.takesEntry) (hs : body s = .pend k t)
    (hu : body (Instr.entered i s) = .pend k' t') :
    s.command c r body = t'.addPend { req := r, op := c.op, key := k' } := by
  rw [State.command_c h e hc (fun code d hx => Res.noConfusion (hs.symm.trans hx)) hl, hu]

/-! LOG. -/

/-- The checks of a replay read what an acknowledgement and an audit entry leave alone (R397). -/
theorem State.Beside.replayCode {s t : State} (h : s.Beside t) {k : Nat} (hk : k < 4096) (first n : Nat) :
    t.replayCode k first n = s.replayCode k first n := by
  simp only [State.replayCode, h.sv, h.score, h.ringScore hk, h.ring, h.held]

section
variable {s : State} {r : Req}

/-- LOG_JOURNAL within the journal's bounds (R393). -/
theorem exec_logJournal_sets (ha : Instr.admitted (.logJournal r) s) (hl : s.takesEntry) (hlo : 1 ≤ argw r 1)
    (hhi : argw r 1 ≤ 4096) (hd : ((List.range 2).any fun h =>
      decide (dramCap < s.dramUsed h - s.sv.journal.size * 2 ^ 19 + argw r 1 * 2 ^ 19)) = false) :
    let u := Instr.entered (.logJournal r) s
    exec (.logJournal r) s = .next (let on := argw r 2 % 2 == 1
      let j := { u.sv.journal with size := argw r 1, on := on, captures := argw r 2 / 2 == 1 }
      let k := if on && !u.sv.journal.on then { j with cals := [] } else j
      let v := { u with sv.journal := (k.fit k.recs.length 0).fit k.recs.length 1 }
      (if on then { v with wk.rings := v.wk.rings.map fun e => (e.1, { e.2 with stateAt := 0 }) } else v).finish r 0
        []) := by
  have range : ¬(argw r 1 < 1 ∨ 4096 < argw r 1) := by omega
  have room : ¬((List.range 2).any fun h =>
      decide (dramCap < s.dramUsed h - s.sv.journal.size * 2 ^ 19 + argw r 1 * 2 ^ 19)) = true := Bool.eq_false_iff.1 hd
  have roomU : ¬((List.range 2).any fun h => decide (dramCap < (Instr.entered (.logJournal r) s).dramUsed h -
      (Instr.entered (.logJournal r) s).sv.journal.size * 2 ^ 19 + argw r 1 * 2 ^ 19)) = true := by
    simpa only [Instr.entered_dramUsed, Instr.entered_sv] using room
  refine congrArg Host.Outcome.next
    (State.command_c_ok (i := .logJournal r) (Instr.admitted_checks rfl ha) rfl rfl hl ?_ ?_)
  · rw [if_neg range, if_neg room]
    exact nofun
  · rw [if_neg range, if_neg roomU]

end

/-- Settles O25: each command by its admission and the checks its row passes or fails, LOG_JOURNAL and LOG_REPLAY by what
their audit entry leaves alone. -/
theorem logAndJournalCommands : Obligations.Log_and_journal_commands := by
  refine ⟨?read, ?readPast, ?telem, ?telemRange,
    fun s r ha hl hlo hhi _ hd => exec_logJournal_sets ha hl hlo hhi hd, ?records, ?noRecord,
    ?replay, ?replayNone⟩
  case read =>
    intro s r ha hs hlen
    refine congrArg Host.Outcome.next (State.command_ok (Instr.admitted_checks rfl ha) rfl ?_)
    exact (if_neg (not_not.2 hs)).trans (if_neg (Nat.not_lt.2 hlen))
  case readPast =>
    intro s r ha hs hlen
    refine congrArg Host.Outcome.next (State.command_refuse (Instr.admitted_checks rfl ha) ?_)
    exact (if_neg (not_not.2 hs)).trans (if_pos hlen)
  case telem =>
    intro s r ha hw hs
    refine congrArg Host.Outcome.next (State.command_ok (Instr.admitted_checks rfl ha) rfl ?_)
    exact (if_neg (Nat.not_lt.2 hw)).trans (if_neg (not_not.2 hs))
  case telemRange =>
    intro s r ha hw
    exact congrArg Host.Outcome.next (State.command_refuse (Instr.admitted_checks rfl ha) (if_pos hw))
  case records =>
    intro s r x xs h ha hx hh hf
    refine congrArg Host.Outcome.next (State.command_ok (Instr.admitted_checks rfl ha) rfl ?_)
    simp only [hx, hh, hf, reduceCtorEq, ne_eq, not_true, if_false]
  case noRecord =>
    intro s r ha hx
    exact congrArg Host.Outcome.next (State.command_refuse (Instr.admitted_checks rfl ha) (if_pos hx))
  case replay =>
    intro s r ha hl hk hn hd hc
    have hu := Instr.entered_beside (.logReplay r) s
    have hdu := (hu.ringDepth hk).trans_ne hd
    have hcu := (hu.replayCode hk (argw r 2) (argw r 3)).trans hc
    refine congrArg Host.Outcome.next
      ((State.command_c_pend (i := .logReplay r) (Instr.admitted_checks rfl ha) rfl rfl hl
        ((if_neg (Nat.not_le.2 hk)).trans ((if_neg hd).trans ((if_neg hn).trans (if_neg (not_not.2 hc)))))
        ((if_neg (Nat.not_le.2 hk)).trans ((if_neg hdu).trans ((if_neg hn).trans (if_neg (not_not.2 hcu)))))).trans ?_)
    generalize Instr.entered (.logReplay r) s = u
    rfl
  case replayNone =>
    intro s r ha hl hk hn hd
    have hu := Instr.entered_beside (.logReplay r) s
    refine congrArg Host.Outcome.next
      (State.command_c_ok (i := .logReplay r) (Instr.admitted_checks rfl ha) rfl rfl hl ?_ ?_)
    · simp only [Nat.not_le.2 hk, hn, hd, if_false, if_true]
      exact nofun
    · simp only [Nat.not_le.2 hk, hn, hu.ringDepth hk, hd, if_false, if_true]

/-! SVC. -/

@[simp] theorem Instr.entered_frameAddr (i : Instr) (s : State) (w : Nat) :
    (Instr.entered i s).frameAddr? w = s.frameAddr? w := by
  have map : (Instr.entered i s).disabled = s.disabled := funext fun _ => by
    rw [State.disabled, Instr.entered_sv, State.disabled]
  unfold State.frameAddr?
  rw [map]

section
variable {s : State} {r : Req}

/-- A well-formed map goes into region 2 with its edit count, counter 3 (R465, R475). -/
theorem exec_svcMapEdit_writes {bs : List Byte} (ha : Instr.admitted (.svcMapEdit r) s) (hl : s.takesEntry)
    (hg : s.gated r.src 2 1 = false) (ho : s.object (argw r 1) = .ok bs) (hlen : bs.length = 32768)
    (hm : leAt bs 0 4 = 0x4D444C59) (hv : leAt bs 4 4 = 1) :
    let u := Instr.entered (.svcMapEdit r) s
    exec (.svcMapEdit r) s = .next (((u.ctrInc 3).1.ledgerPages 440 128
      (patch bs 8 (leBytes 8 ((u.ctrInc 3).1.counter 3)))).1.finish r 0 []) := by
  have counted {t : State} (ht : t.takesEntry) : (t.ctrInc 3).1.takesEntry := (State.Beside.ctrInc t 3).takesEntry ht
  have form : ¬(leAt bs 0 4 ≠ 0x4D444C59 ∨ leAt bs 4 4 ≠ 1) := not_or.2 ⟨not_not.2 hm, not_not.2 hv⟩
  have hlu := Instr.entered_takesEntry (.svcMapEdit r) hl
  refine congrArg Host.Outcome.next
    (State.command_c_ok (i := .svcMapEdit r) (Instr.admitted_checks rfl ha) rfl rfl hl ?_ ?_)
  · simp only [hg, ho, Bool.false_eq_true, if_false]
    rw [if_neg (not_not.2 hlen), if_neg form, State.ctrInc_takes _ hl]
    dsimp only
    rw [State.ledgerPages_takes _ _ _ (counted hl)]
    exact nofun
  · simp only [Instr.entered_gated, Instr.entered_object, hg, ho, Bool.false_eq_true, if_false]
    rw [if_neg (not_not.2 hlen), if_neg form, State.ctrInc_takes _ hlu]
    dsimp only
    rw [State.ledgerPages_takes _ _ _ (counted hlu)]

/-- SVC_REPAIR of a frame that serves, or of its board where it serves (R477, R481). -/
theorem exec_svcRepair_marks {k : Nat} (ha : Instr.admitted (.svcRepair r) s) (hl : s.takesEntry)
    (hk : s.frameAddr? (argw r 1) = some k) (h : argw r 2 = 0 ∧ (s.frame k).placed.isSome = true ∨
      argw r 2 = 1 ∧ (s.board (fkBoard k)).score.isSome = true) :
    let u := Instr.entered (.svcRepair r) s
    exec (.svcRepair r) s = .next ((if argw r 2 = 0 then u.setFrame k { u.frame k with migrate := true }
      else u.setBoard (fkBoard k) { u.board (fkBoard k) with move := true }).finish r 0 []) := by
  have hframe : (Instr.entered (.svcRepair r) s).frame k = s.frame k := by simp only [State.frame, Instr.entered_frames]
  have hboard : (Instr.entered (.svcRepair r) s).board (fkBoard k) = s.board (fkBoard k) := by
    simp only [State.board, Instr.entered_boards]
  refine congrArg Host.Outcome.next
    (State.command_c_ok (i := .svcRepair r) (Instr.admitted_checks rfl ha) rfl rfl hl ?_ ?_)
  · rcases h with ⟨h0, hs⟩ | ⟨h1, hs⟩
    · simp only [h0, hk, Option.isSome_iff_ne_none.1 hs, Nat.not_lt_zero, if_true, if_false]
      exact nofun
    · simp only [h1, hk, Option.isSome_iff_ne_none.1 hs, Nat.lt_irrefl, Nat.one_ne_zero, if_false]
      exact nofun
  · rcases h with ⟨h0, hs⟩ | ⟨h1, hs⟩
    · simp only [h0, Instr.entered_frameAddr, hk, hframe, Option.isSome_iff_ne_none.1 hs, Nat.not_lt_zero, if_true,
        if_false]
    · simp only [h1, Instr.entered_frameAddr, hk, hboard, Option.isSome_iff_ne_none.1 hs, Nat.lt_irrefl,
        Nat.one_ne_zero, if_false]

end

/-- Settles O26: what the audit entry of each command leaves alone is what its own checks read. -/
theorem serviceCommands : Obligations.Service_commands := by
  refine ⟨?mapRead, ?mapReadGated, ?mapLength,
    fun s r bs ha hl hg ho hlen hm hv => exec_svcMapEdit_writes ha hl hg ho hlen hm hv, ?frame, ?board, ?noFrame,
    ?swap, ?swapBack, ?power, ?temperature, ?limitRange⟩
  case mapRead =>
    intro s r ha hg hs
    refine congrArg Host.Outcome.next (State.command_ok (Instr.admitted_checks rfl ha) rfl ?_)
    exact (if_neg (Bool.eq_false_iff.1 hg)).trans (if_neg (not_not.2 hs))
  case mapReadGated =>
    intro s r ha hg
    exact congrArg Host.Outcome.next (State.command_refuse (Instr.admitted_checks rfl ha) (if_pos hg))
  case mapLength =>
    intro s r bs ha hg ho hlen
    refine congrArg Host.Outcome.next (State.command_refuse (Instr.admitted_checks rfl ha) ?_)
    refine (if_neg (Bool.eq_false_iff.1 hg)).trans ?_
    rw [ho]
    exact if_pos hlen
  case frame =>
    intro s r k ha hl h0 hk hs
    refine (exec_svcRepair_marks ha hl hk (.inl ⟨h0, hs⟩)).trans ?_
    rw [if_pos h0]
  case board =>
    intro s r k ha hl h1 hk hs
    refine (exec_svcRepair_marks ha hl hk (.inr ⟨h1, hs⟩)).trans ?_
    rw [if_neg (by omega)]
  case noFrame =>
    intro s r ha hw hk
    refine congrArg Host.Outcome.next (State.command_refuse (Instr.admitted_checks rfl ha) ?_)
    refine (if_neg (Nat.not_lt.2 hw)).trans ?_
    rw [hk]
  case swap =>
    intro s r ha hl hw hv hs
    refine congrArg Host.Outcome.next
      (State.command_c_ok (i := .svcSwap r) (Instr.admitted_checks rfl ha) rfl rfl hl ?_ ?_)
    · simp only [hw, hv, hs]
      exact nofun
    · simp only [Instr.entered_sv, hw, hv, hs]
      rfl
  case swapBack =>
    intro s r ha hl hw hv hs
    refine congrArg Host.Outcome.next
      (State.command_c_ok (i := .svcSwap r) (Instr.admitted_checks rfl ha) rfl rfl hl ?_ ?_)
    · simp only [hw, hv, hs]
      exact nofun
    · simp only [Instr.entered_sv, hw, hv, hs]
      rfl
  case power =>
    intro s r ha hl hk hlo hhi
    have range : ¬3 < argw r 1 ∧ ¬(argw r 1 = 3 ∧ (argw r 2 < 80 ∨ 240 < argw r 2)) ∧
      ¬(argw r 1 < 3 ∧ 115 ≤ argw r 2) := by omega
    obtain ⟨h1, h2, h3⟩ := range
    refine congrArg Host.Outcome.next
      (State.command_c_ok (i := .svcLimits r) (Instr.admitted_checks rfl ha) rfl rfl hl ?_ ?_)
    · simp only [if_neg h1, if_neg h2, if_neg h3]
      exact nofun
    · simp only [if_neg h1, if_neg h2, if_neg h3]
      rw [if_pos hk, hk]
  case temperature =>
    intro s r ha hl hk hv
    have range : ¬3 < argw r 1 ∧ ¬(argw r 1 = 3 ∧ (argw r 2 < 80 ∨ 240 < argw r 2)) ∧
      ¬(argw r 1 < 3 ∧ 115 ≤ argw r 2) := by omega
    obtain ⟨h1, h2, h3⟩ := range
    refine congrArg Host.Outcome.next
      (State.command_c_ok (i := .svcLimits r) (Instr.admitted_checks rfl ha) rfl rfl hl ?_ ?_)
    · simp only [if_neg h1, if_neg h2, if_neg h3]
      exact nofun
    · simp only [if_neg h1, if_neg h2, if_neg h3]
      rw [if_neg (Nat.ne_of_lt hk)]
  case limitRange =>
    intro s r ha hk
    exact congrArg Host.Outcome.next (State.command_refuse (Instr.admitted_checks rfl ha) (if_pos hk))

end Sys2Proof.Machine
end

section
/-! PROOFS. The metrology units: conversions (R406-R423), self-calibration, registers and commands (R412-R427). -/

namespace Sys2Proof.Machine

/-! Conversions. -/

section
variable {s : State} {u : Unit34} {n : Fin 4}

/-- An entry's delay that is over, in a unit that runs its sequence without an urgent request on the converter (R412). -/
theorem exec_metEntryDelayEnd {t : Nat} (hph : (s.conv u n).ph = .delay t) (hi : s.metIdle u = false) (ht : t ≤ s.now)
    (hu : (s.conv u n).urg = none) : exec (.metEntryDelayEnd u n) s = .next
      (if !(seqEntry (s.conv u n).pass).trig then s.beginConv u n (seqEntry (s.conv u n).pass).ch 4000 false
      else if s.trigSrc u = 0 ∨ (s.met u).spent ∨ s.trigTarget u ≤ s.ck.rk + 4000 then
        s.beginConv u n (seqEntry (s.conv u n).pass).ch 4000 true
      else (s.setConv u n { s.conv u n with ph := .armed }).restConv u n) := by
  show execMetEntryDelayEnd u n s = _
  simp only [execMetEntryDelayEnd, hph, hi, Nat.not_lt.2 ht, hu, Option.isSome_none, Bool.false_eq_true, or_self,
    if_false, apply_ite Host.Outcome.next]

/-- An urgent conversion that has run its time (R421). -/
theorem exec_metConversionEnd_urgent {raw : Fin 16777216} {ovr : Option Bool} {ch f ws start : Nat} (hp : s.pstate ≠ 0)
    (hi : s.metIdle u = false) (hu : (s.conv u n).urg = some (ch, f, ws, start))
    (ht : start + convTime f ≤ s.ck.rk) :
    let t := (s.result u n ch ws true false (s.correct u n ch (signed 24 raw)) ovr start).setConv u n
      { s.conv u n with urg := none }
    ((s.conv u n).ph = .stopped → exec (.metConversionEnd u n raw ovr) s = .next (t.restConv u n)) ∧
    ∀ x, (s.conv u n).ph = .converting x → exec (.metConversionEnd u n raw ovr) s =
      .next (t.beginConv u n (seqEntry (s.conv u n).pass).ch 4000 (s.conv u n).late) := by
  refine ⟨fun hph => ?_, fun x hph => ?_⟩
  all_goals
    show execMetConversionEnd u n raw ovr s = _
    simp only [execMetConversionEnd, hp, hi, hu, Nat.not_lt.2 ht, hph, Bool.false_eq_true, if_false]

/-- A conversion of an entry that has run its time (R412, R413). -/
theorem exec_metConversionEnd_entry {raw : Fin 16777216} {ovr : Option Bool} {start : Nat} (hp : s.pstate ≠ 0)
    (hi : s.metIdle u = false) (hu : (s.conv u n).urg = none) (hph : (s.conv u n).ph = .converting start)
    (ht : start + convTime (seqEntry (s.conv u n).pass).filter ≤ s.ck.rk) :
    exec (.metConversionEnd u n raw ovr) s =
      let e := seqEntry (s.conv u n).pass
      let t := s.result u n e.ch e.wset false (s.conv u n).late (s.correct u n e.ch (signed 24 raw)) ovr start
      let c := { s.conv u n with done := (s.conv u n).done + 1, late := false }
      .next (if c.stopping then t.setConv u n { c with
          ph := .stopped, stopping := false, powered := false, entry := (c.entry + 1) % 32, done := 0 }
        else if c.done < e.rep then (t.setConv u n c).beginConv u n e.ch 0 false
        else (t.setConv u n c).toEntry u n (c.entry + 1)) := by
  show execMetConversionEnd u n raw ovr s = _
  simp only [execMetConversionEnd, hp, hi, hu, hph, Nat.not_lt.2 ht, Bool.false_eq_true, if_false,
    apply_ite Host.Outcome.next]

/-- An urgent request to a channel and filter of a unit that is on is refused while one is in hand, else taken (R421, R422). -/
theorem exec_metUrgentRequest {w : Word} (hon : (s.met u).on = true) (hc : chanOk u (fld w 0 6) = true)
    (hf : filterOk (fld w 6 4) = true) :
    ((s.conv u n).urg.isSome = true ∨ (s.met u).selfcal.isSome = true →
      exec (.metUrgentRequest u n w) s = .next (s.bump (metBase u + 0x90) 1)) ∧
    ((s.conv u n).urg = none → (s.met u).selfcal = none → fld w 0 6 ≠ 32 →
      exec (.metUrgentRequest u n w) s = .next
        (let v := s.setConv u n { s.conv u n with
          urg := some (fld w 0 6, fld w 6 4, fld w 10 3, s.ck.rk + 4000 + if (s.conv u n).powered then 0 else 20000)
          powered := true }
        (v.setReg (metBase u + 0xA4 + 8 * n) (putBit (v.reg (metBase u + 0xA4 + 8 * n)) 25 false)).bump
          (metBase u + 0x8C) 1)) := by
  have valid : ¬((!(s.met u).on) = true ∨ (!chanOk u (fld w 0 6)) = true ∨ (!filterOk (fld w 6 4)) = true) := by
    simp only [hon, hc, hf, Bool.not_true, Bool.false_eq_true, or_self, not_false_eq_true]
  refine ⟨fun h => (if_neg valid).trans (if_pos h), fun hu hs h32 => (if_neg valid).trans ((if_neg ?_).trans ?_)⟩
  · simp only [hu, hs, Option.isSome_none, Bool.false_eq_true, or_self, not_false_eq_true]
  · dsimp only
    rw [if_neg h32]

end

/-- Settles O30: each conversion by the phase that its converter is in. -/
theorem metrologyConversions : Obligations.Metrology_conversions := by
  refine ⟨?converts, ?arms, ?late, ?fires, ?noTrigger, fun s fire => rfl,
    fun s u n w hon hc hf hu hs h32 => (exec_metUrgentRequest hon hc hf).2 hu hs h32,
    fun s u n w hon hc hf h => (exec_metUrgentRequest hon hc hf).1 h, ?invalid,
    fun s u n raw ovr ch f ws start hp hi hu ht hph => (exec_metConversionEnd_urgent hp hi hu ht).1 hph,
    fun s u n raw ovr ch f ws start x hp hi hu ht hph => (exec_metConversionEnd_urgent hp hi hu ht).2 x hph,
    ?repeats, ?next, ?stops, ?wakes, ?sleeps⟩
  case converts =>
    intro s u n t hph hi ht hu he
    rw [exec_metEntryDelayEnd hph hi ht hu, he]
    rfl
  case arms =>
    intro s u n t hph hi ht hu he h0 hs hr
    have waits : ¬(s.trigSrc u = 0 ∨ (s.met u).spent = true ∨ s.trigTarget u ≤ s.ck.rk + 4000) := by
      simp only [h0, hs, Nat.not_le.2 hr, Bool.false_eq_true, or_self, not_false_eq_true]
    rw [exec_metEntryDelayEnd hph hi ht hu, he, if_neg waits]
    rfl
  case late =>
    intro s u n t hph hi ht hu he h
    rw [exec_metEntryDelayEnd hph hi ht hu, he, if_pos h]
    rfl
  case fires =>
    intro s u hon h0 hs ht
    refine if_neg ?_
    simp only [hon, h0, hs, Nat.not_lt.2 ht, Bool.not_true, Bool.false_eq_true, or_self, not_false_eq_true]
  case noTrigger =>
    intro s u h
    refine if_pos ?_
    simpa only [Bool.not_eq_true'] using h
  case invalid =>
    intro s u n w h
    refine if_pos ?_
    simpa only [Bool.not_eq_true'] using h
  case repeats =>
    intro s u n raw ovr start hp hi hu hph ht hs hd
    refine (exec_metConversionEnd_entry hp hi hu hph ht).trans (congrArg Host.Outcome.next ?_)
    exact (if_neg (Bool.eq_false_iff.1 hs)).trans (if_pos hd)
  case next =>
    intro s u n raw ovr start hp hi hu hph ht hs hd
    refine (exec_metConversionEnd_entry hp hi hu hph ht).trans (congrArg Host.Outcome.next ?_)
    exact (if_neg (Bool.eq_false_iff.1 hs)).trans (if_neg (Nat.not_lt.2 hd))
  case stops =>
    intro s u n raw ovr start hp hi hu hph ht hs
    exact (exec_metConversionEnd_entry hp hi hu hph ht).trans (congrArg Host.Outcome.next (if_pos hs))
  case wakes =>
    intro s u n t hph hon ht
    show execMetConverterWake u n s = _
    simp only [execMetConverterWake, hph]
    rw [if_pos ⟨hon, ht⟩]
  case sleeps =>
    intro s u n t hph h
    show execMetConverterWake u n s = _
    simp only [execMetConverterWake, hph]
    rw [if_neg]
    rintro ⟨hon, ht⟩
    rcases h with h | h
    · exact Bool.false_ne_true (h.symm.trans hon)
    · exact absurd ht (Nat.not_le.2 h)

/-! Self-calibration (R424, R425). -/

/-- The unit has ended its self-calibration and its factors are valid. -/
def State.calibrated (s : State) (u : Nat) : Prop := (s.met u).calValid = true ∧ (s.met u).selfcal = none

section
variable {s : State} {u : Nat}

theorem State.calibrated_mets {t : State} (hm : t.mets = s.mets) (h : s.calibrated u) : t.calibrated u := by
  rw [State.calibrated, State.met, hm]
  exact h

theorem State.calibrated_setReg (h : s.calibrated u) (a : Nat) (w : Word) : (s.setReg a w).calibrated u :=
  State.calibrated_mets (State.setReg_mets _ _ _) h

theorem State.calibrated_setConv (h : s.calibrated u) (n : Nat) (c : Conv) : (s.setConv u n c).calibrated u := by
  rw [State.calibrated, State.setConv, State.met_setMet]
  exact h

theorem State.calibrated_toEntry (h : s.calibrated u) (n k : Nat) : (s.toEntry u n k).calibrated u := by
  unfold State.toEntry
  split
  · exact State.calibrated_setConv h _ _
  · exact State.calibrated_setConv h _ _

theorem State.calibrated_resumeEntry (h : s.calibrated u) (n : Nat) : (s.resumeEntry u n).calibrated u := by
  have resumed := State.calibrated_toEntry h n (s.conv u n).entry
  unfold State.resumeEntry
  dsimp only
  split
  · split
    · exact State.calibrated_setConv resumed _ _
    · exact resumed
  · exact resumed

theorem State.calibrated_moveEntries (h : s.calibrated u) (n : Nat) : (s.moveEntries u n).calibrated u := by
  unfold State.moveEntries
  dsimp only
  split
  · exact h
  · have moved (m : Nat) (l : List (Nat × Nat)) : (l.foldl (fun (s : State) (p : Nat × Nat) =>
        (s.setReg (seqReg u m p.2) (put (s.reg (seqReg u n p.1)) 14 9 0)).setReg (seqReg u n p.1) 0) s).calibrated u :=
      List.foldlRecOn (motive := fun t : State => t.calibrated u) l _ h fun t ht p _ =>
        State.calibrated_setReg (State.calibrated_setReg ht _ _) _ _
    split
    · exact State.calibrated_toEntry (moved _ _) _ _
    · exact moved _ _

end

/-- The commands of a list answered, their pending entries removed. -/
def State.answerAll (s : State) (l : List Pend) : State :=
  l.foldl (fun s p => (s.unpend p.req p.op).finish p.req 0 []) s

theorem State.answerAll_mets (l : List Pend) (s : State) : (s.answerAll l).mets = s.mets := by
  induction l generalizing s with
  | nil => rfl
  | cons p l ih => exact (ih _).trans (State.Beside.reply _ _ _ _).mets

/-- What is still pending was so before, and is none of the commands answered. -/
theorem State.answerAll_pend {l : List Pend} {s : State} {q : Pend} (hq : q ∈ (s.answerAll l).hl.pend) :
    q ∈ s.hl.pend ∧ ∀ p ∈ l, ¬(q.req = p.req ∧ q.op = p.op) := by
  induction l generalizing s with
  | nil => exact ⟨hq, fun p hp => absurd hp List.not_mem_nil⟩
  | cons p l ih =>
    obtain ⟨hs, hl⟩ := ih hq
    have kept : q ∈ (s.unpend p.req p.op).hl.pend := (State.Beside.reply _ _ _ _).pend ▸ hs
    obtain ⟨hmem, hne⟩ := List.mem_filter.1 kept
    refine ⟨hmem, fun p' hp' => ?_⟩
    rcases List.mem_cons.1 hp' with rfl | hp'
    · simpa only [Bool.not_eq_true', decide_eq_false_iff_not] using hne
    · exact hl p' hp'

/-- The factors of a converter of a unit, or its failure (R424, R425). -/
def State.calConv (s : State) (u : Nat) (meas : List (Int × Int)) (n : Nat) : State :=
  let (g, v) := meas.getD n (0, 0)
  match calFactors g v (s.bandgap u n) with
  | none => s.setConv u n { s.conv u n with ph := .failed }
  | some (o, f) =>
    let s := (s.setRegN (metBase u + 0x20 + 16 * n) (pattern 24 o)).setRegN (metBase u + 0x24 + 16 * n) (pattern 24 f)
    if bit (s.reg (metBase u)) n then s.resumeEntry u n else s.setConv u n { s.conv u n with ph := .stopped }

theorem State.calibrated_calConv {s : State} {u : Nat} (h : s.calibrated u) (meas : List (Int × Int)) (n : Nat) :
    (s.calConv u meas n).calibrated u := by
  unfold State.calConv
  dsimp only
  split
  · exact State.calibrated_setConv h _ _
  · rename_i o f _
    have factors : ((s.setRegN (metBase u + 0x20 + 16 * n) (pattern 24 o)).setRegN (metBase u + 0x24 + 16 * n)
        (pattern 24 f)).calibrated u := State.calibrated_setReg (State.calibrated_setReg h _ _) _ _
    split
    · exact State.calibrated_resumeEntry factors _
    · exact State.calibrated_setConv factors _ _

/-- A unit as its self-calibration has ended, before the commands that asked for it are answered. -/
def State.selfcalDone (s : State) (u : Nat) (meas : List (Int × Int)) : State :=
  let t := (List.range 4).foldl (fun s n => s.calConv u meas n)
    ((s.setMet u { s.met u with selfcal := none, calValid := true }).freshSensors u)
  (List.range 4).foldl (fun s n => if (s.conv u n).ph = .failed then s.moveEntries u n else s) t

theorem State.calibrated_selfcalDone (s : State) (u : Nat) (meas : List (Int × Int)) :
    (s.selfcalDone u meas).calibrated u := by
  have begun : (s.setMet u { s.met u with selfcal := none, calValid := true }).calibrated u := by
    rw [State.calibrated, State.met_setMet]
    exact ⟨rfl, rfl⟩
  have fresh : ((s.setMet u { s.met u with selfcal := none, calValid := true }).freshSensors u).calibrated u :=
    List.foldlRecOn (motive := fun t : State => t.calibrated u) _ _ begun fun t ht k _ =>
      State.calibrated_mets (State.setSensor_mets _ _ _) ht
  refine List.foldlRecOn (motive := fun t : State => t.calibrated u) _ _ ?_ fun t ht n _ => ?_
  · exact List.foldlRecOn (motive := fun t : State => t.calibrated u) _ _ fresh
      fun t ht n _ => State.calibrated_calConv ht meas n
  · split
    · exact State.calibrated_moveEntries ht n
    · exact ht

theorem exec_metSelfcalDone {s : State} {u : Unit34} {meas : List (Int × Int)} {t : Nat}
    (hs : (s.met u).selfcal = some t) (ht : t + 42000000 ≤ s.now) : exec (.metSelfcalDone u meas) s =
      .next ((s.selfcalDone u meas).answerAll
        ((s.selfcalDone u meas).hl.pend.filter fun p => p.op == 0x0803 && p.key == u.val)) := by
  show execMetSelfcalDone u meas s = _
  simp only [execMetSelfcalDone, hs, Nat.not_lt.2 ht, if_false]
  rfl

/-! MET_CTL (R412). -/

/-- What a write of MET_CTL does to one converter of a unit that is on. -/
def State.ctlConv (w old : Word) (u : Nat) (s : State) (n : Nat) : State :=
  let c := s.conv u n
  if bit w n && !bit old n then
    (match c.ph with
     | .stopped | .off => (s.setConv u n { c with stopping := false }).toEntry u n c.entry
     | .failed => s
     | _ => s.setConv u n { c with stopping := false })
  else if !bit w n && bit old n then
    (match c.ph with
     | .converting _ => s.setConv u n { c with stopping := true }
     | .failed => s
     | _ => s.setConv u n { c with ph := .stopped, powered := c.urg.isSome })
  else s

theorem exec_metCtlWrite_on {s : State} {u : Unit34} {w : Word} (hon : (s.met u).on = true) :
    exec (.metCtlWrite u w) s = .next ((List.range 4).foldl (State.ctlConv w (s.reg (metBase u)) u)
      (s.setReg (metBase u) (w &&& 0xF))) := by
  refine if_neg ?_
  rw [Bool.not_eq_true', Bool.not_eq_false]
  exact hon

theorem State.toEntry_regs (s : State) (u n k : Nat) : (s.toEntry u n k).regs = s.regs := by
  unfold State.toEntry
  split <;> rfl

/-- A write of MET_CTL sets converters of its unit, or moves them to an entry. -/
theorem State.ctlConv_cases (w old : Word) (u : Nat) (s : State) (n : Nat) : s.ctlConv w old u n = s ∨
    (s.conv u n).ph ≠ .failed ∧ ∃ c, s.ctlConv w old u n = s.setConv u n c ∨
      s.ctlConv w old u n = (s.setConv u n c).toEntry u n (s.conv u n).entry := by
  unfold State.ctlConv
  dsimp only
  split
  · split
    · rename_i hph
      exact .inr ⟨fun hf => (nomatch hph.symm.trans hf), _, .inr rfl⟩
    · rename_i hph
      exact .inr ⟨fun hf => (nomatch hph.symm.trans hf), _, .inr rfl⟩
    · exact .inl rfl
    · rename_i hf
      exact .inr ⟨hf, _, .inl rfl⟩
  · split
    · split
      · rename_i hph
        exact .inr ⟨fun hf => (nomatch hph.symm.trans hf), _, .inl rfl⟩
      · exact .inl rfl
      · rename_i hf
        exact .inr ⟨hf, _, .inl rfl⟩
    · exact .inl rfl

theorem State.ctlConv_regs (w old : Word) (u : Nat) (s : State) (n : Nat) : (s.ctlConv w old u n).regs = s.regs := by
  rcases s.ctlConv_cases w old u n with h | ⟨-, c, h | h⟩
  · rw [h]
  · rw [h]
    rfl
  · rw [h, State.toEntry_regs]
    rfl

theorem State.conv_setConv_ne (s : State) (u : Nat) {n k : Nat} (c : Conv) (h : k ≠ n) :
    (s.setConv u n c).conv u k = s.conv u k := by
  simp only [State.conv, State.setConv, State.met_setMet, List.getD_eq_getElem?_getD, List.getElem?_set_ne h.symm]

theorem State.conv_toEntry_ne (s : State) (u : Nat) {n k : Nat} (e : Nat) (h : k ≠ n) :
    (s.toEntry u n e).conv u k = s.conv u k := by
  unfold State.toEntry
  split
  · exact State.conv_setConv_ne s u _ h
  · exact State.conv_setConv_ne s u _ h

/-- A failed converter stays so (R425). -/
theorem State.ctlConv_failed (w old : Word) {u : Nat} {s : State} (n : Nat) {k : Nat} (hf : (s.conv u k).ph = .failed) :
    ((s.ctlConv w old u n).conv u k).ph = .failed := by
  rcases s.ctlConv_cases w old u n with h | ⟨hne, c, h | h⟩
  · rwa [h]
  all_goals
    have hk : k ≠ n := fun e => hne (e ▸ hf)
  · rwa [h, State.conv_setConv_ne s u c hk]
  · rwa [h, State.conv_toEntry_ne _ u _ hk, State.conv_setConv_ne s u c hk]

/-! The registers and the METRO commands. -/

theorem State.Beside.noUnit {s t : State} (h : s.Beside t) (u : Nat) : t.noUnit u = s.noUnit u := by
  simp only [State.noUnit, State.disabled, h.sv]

/-- An installer's entry as R406 and R414 allow it. -/
def seqOk (r : Req) : Prop :=
  argw r 2 < 4 ∧ 16 ≤ argw r 3 ∧ argw r 3 < 32 ∧ chanOk (argw r 1) (fld (word (argw r 4)) 0 6) = true ∧
    filterOk (fld (word (argw r 4)) 23 4) = true ∧ fld (word (argw r 4)) 28 3 ≤ 4 ∧
    (argw r 2 = 3 ∨ entryTime (word (argw r 4)) ≤ 50000)

theorem seqOk.passes {r : Req} (h : seqOk r) :
    ¬(4 ≤ argw r 2 ∨ argw r 3 < 16 ∨ 32 ≤ argw r 3 ∨ (!chanOk (argw r 1) (fld (word (argw r 4)) 0 6)) = true ∨
      (!filterOk (fld (word (argw r 4)) 23 4)) = true ∨ 4 < fld (word (argw r 4)) 28 3 ∨
      (argw r 2 < 3 ∧ 50000 < entryTime (word (argw r 4)))) := by
  obtain ⟨hn, hlo, hhi, hc, hf, hw, ht⟩ := h
  rw [hc, hf]
  simp only [Bool.not_true, Bool.false_eq_true, false_or]
  omega

/-- Settles O31: self-calibration by what its steps keep of the unit, MET_CTL by what it does to one converter, the commands by
their admission and their own checks. -/
theorem metrologyRegisters : Obligations.Metrology_registers := by
  refine ⟨fun s u => rfl, ?selfcalEarly, ?selfcalDone, fun s u => rfl, ?qEmpty, ?qRead, ?ctlOff, ?ctlOn, ?probe,
    ?probeHub, ?source, ?sourceIgnored, fun s u w => rfl, ?read, ?readUnit, ?seq, ?seqFirst, ?win, ?selfcal, ?selfcalHot,
    ?dump⟩
  case selfcalEarly =>
    intro s u meas t hs ht
    show execMetSelfcalDone u meas s = _
    simp only [execMetSelfcalDone, hs, ht, if_true]
  case selfcalDone =>
    intro s u meas t hs ht
    have he := exec_metSelfcalDone (meas := meas) hs ht
    obtain ⟨hv, hc⟩ := State.calibrated_mets (State.answerAll_mets _ _) (s.calibrated_selfcalDone u meas)
    refine ⟨_, he, hv, hc, exec_same he (p := .mem) (Instr.unlisted rfl), exec_same he (p := .frames) (Instr.unlisted rfl),
      ?_⟩
    rintro p hp ⟨hop, hkey⟩
    obtain ⟨hs', hl⟩ := State.answerAll_pend hp
    refine hl p (List.mem_filter.2 ⟨hs', ?_⟩) ⟨rfl, rfl⟩
    rw [hop, hkey, beq_self_eq_true, beq_self_eq_true, Bool.and_self]
  case qEmpty =>
    intro s u hq
    show execMetQRead u s = _
    simp only [execMetQRead, hq]
  case qRead =>
    intro s u w q hq
    show execMetQRead u s = _
    simp only [execMetQRead, hq]
  case ctlOff =>
    intro s u w hon
    refine if_pos ?_
    rw [Bool.not_eq_true']
    exact hon
  case ctlOn =>
    intro s u w hon
    have he := exec_metCtlWrite_on (w := w) hon
    refine ⟨_, he, ?_, exec_same he (p := .mem) (Instr.unlisted rfl), exec_same he (p := .frames) (Instr.unlisted rfl),
      exec_same he (p := .boards) (Instr.unlisted rfl), fun n hf => ?_⟩
    · have regs := List.foldlRecOn (motive := fun t : State => t.regs = (s.setReg (metBase u) (w &&& 0xF)).regs)
        (List.range 4) (State.ctlConv w (s.reg (metBase u)) u) rfl
        fun t ht n _ => (State.ctlConv_regs _ _ _ _ _).trans ht
      rw [State.reg, regs]
      exact State.reg_setReg s _ _
    · exact List.foldlRecOn (motive := fun t : State => (t.conv u n).ph = .failed)
        (List.range 4) (State.ctlConv w (s.reg (metBase u)) u) hf fun t ht k _ => State.ctlConv_failed _ _ k ht
  case probe =>
    intro s u w hu
    exact congrArg (fun x => Host.Outcome.next (s.setReg (metBase u + 0x78) x)) (if_pos hu)
  case probeHub =>
    intro s u w hu
    exact congrArg (fun x => Host.Outcome.next (s.setReg (metBase u + 0x78) x)) (if_neg (Nat.not_lt.2 hu))
  case source =>
    intro s u w hu hb hi hf
    refine if_neg ?_
    simp only [Nat.not_le.2 hu, hb, Nat.not_lt.2 hi, hf, Bool.false_eq_true, or_self, not_false_eq_true]
  case sourceIgnored =>
    intro s u w h
    exact if_pos h
  case read =>
    intro s r ha hu hk
    refine congrArg Host.Outcome.next (State.command_ok (Instr.admitted_checks rfl ha) rfl ?_)
    exact (if_neg (Bool.eq_false_iff.1 hu)).trans (if_neg (Nat.not_le.2 hk))
  case readUnit =>
    intro s r ha hu
    exact congrArg Host.Outcome.next (State.command_refuse (Instr.admitted_checks rfl ha) (if_pos hu))
  case seq =>
    intro s r ha hl hu hn hlo hhi _ hc hf hw ht
    have ok := seqOk.passes ⟨hn, hlo, hhi, hc, hf, hw, ht⟩
    have hu' := ((Instr.entered_beside (.metSeq r) s).noUnit (argw r 1)).trans hu
    refine congrArg Host.Outcome.next
      (State.command_c_ok (i := .metSeq r) (Instr.admitted_checks rfl ha) rfl rfl hl (fun code d hx => ?_) ?_)
    · rw [if_neg (Bool.eq_false_iff.1 hu), if_neg ok] at hx
      cases hx
    · exact (if_neg (Bool.eq_false_iff.1 hu')).trans (if_neg ok)
  case seqFirst =>
    intro s r ha hu _ hk
    refine congrArg Host.Outcome.next (State.command_refuse (Instr.admitted_checks rfl ha) ?_)
    exact (if_neg (Bool.eq_false_iff.1 hu)).trans (if_pos (.inr (.inl hk)))
  case win =>
    intro s r ha hl hu hlo hhi hc
    have hu' := ((Instr.entered_beside (.metWin r) s).noUnit (argw r 1)).trans hu
    have ok : ¬(argw r 2 < 8 ∨ 16 ≤ argw r 2 ∨ (!chanOk (argw r 1) (argw r 3)) = true) := by
      rw [hc]
      simp only [Bool.not_true, Bool.false_eq_true, or_false]
      omega
    refine congrArg Host.Outcome.next
      (State.command_c_ok (i := .metWin r) (Instr.admitted_checks rfl ha) rfl rfl hl (fun code d hx => ?_) ?_)
    · rw [if_neg (Bool.eq_false_iff.1 hu), if_neg ok] at hx
      cases hx
    · exact (if_neg (Bool.eq_false_iff.1 hu')).trans (if_neg ok)
  case selfcal =>
    intro s r ha hu hh hon hh' hon'
    have hu' := ((State.Beside.ackPending s r).noUnit (argw r 1)).trans hu
    have runs (t : State) (hh : t.hotUnit (argw r 1) = false) (hon : (t.met (argw r 1)).on = true) :
        ¬(t.hotUnit (argw r 1) = true ∨ (!(t.met (argw r 1)).on) = true) := by
      simp only [hh, hon, Bool.not_true, Bool.false_eq_true, or_self, not_false_eq_true]
    exact congrArg Host.Outcome.next (State.command_pend (Instr.admitted_checks rfl ha) rfl rfl
      ((if_neg (Bool.eq_false_iff.1 hu)).trans (if_neg (runs s hh hon)))
      ((if_neg (Bool.eq_false_iff.1 hu')).trans (if_neg (runs _ hh' hon'))))
  case selfcalHot =>
    intro s r ha hu h
    refine congrArg Host.Outcome.next (State.command_refuse (Instr.admitted_checks rfl ha) ?_)
    refine (if_neg (Bool.eq_false_iff.1 hu)).trans (if_pos ?_)
    simpa only [Bool.not_eq_true'] using h
  case dump =>
    intro s r ha hu hlo hhi hs
    refine congrArg Host.Outcome.next (State.command_ok (Instr.admitted_checks rfl ha) rfl ?_)
    exact (if_neg (Bool.eq_false_iff.1 hu)).trans ((if_neg (by omega)).trans (if_neg (not_not.2 hs)))

end Sys2Proof.Machine
end

section
/-! PROOFS. Thermal control (R441-R449) and its commands, and the power states (R430-R451, R519, R540, R543). -/

namespace Sys2Proof.Machine

/-! Sensors, trips and restart. -/

section
variable {s : State} {u : Unit34} {k : Fin 24}

/-- A trip of a sensor whose comparator is enabled: recorded in Stopping, else a stop (R448). -/
theorem exec_thermalTrip (hp : s.pstate ≠ 0) (hk : k.val < sensorsOf u) (hr : s.sensorRetired u k = false)
    (ho : (s.sensor (24 * u.val + k.val)).openShort = false) : exec (.thermalTrip u k) s =
      let t := if s.pstate = 5 then (((s.setBoth 0x70004 (putBit (s.reg (hubBase 0 + 0x70004)) 3 true)).auditModule 0xE002
          [word u.val]).ctrInc 5).1
        else s.stopNow false 3 0xE002
      .next (if 32 ≤ u.val then t.takeover (u.val - 32) true else t) := by
  refine if_neg ?_
  simp only [hp, Nat.not_le.2 hk, hr, ho, Bool.false_eq_true, or_self, not_false_eq_true]

end

/-- Stopping is left by itself after ten cool seconds with few stops, or by DEV_POWER (R449). -/
def State.mayRestart (s : State) : Bool :=
  (match s.th.coolSince with | some t => decide (t + 10000000000 ≤ s.now) | none => false) &&
    decide ((s.th.stops.filter fun t => decide (s.now < t + 3600000000000)).length < 3) &&
    bit (s.reg (hubBase 0 + 0x70004)) 4

theorem exec_autoRestart {s : State} (hp : s.pstate = 5) (hf : s.pw.failN = false)
    (h : s.mayRestart = true ∨ s.pw.wakePend = true) : exec .autoRestart s =
      let t := s.setBoth 0x70004 (putBit (s.reg (hubBase 0 + 0x70004)) 2 false)
      if s.th.stopSaved then
        .next (if s.pw.wakePend then t else { t with pw.wakePend := true, pw.wakeAt := s.now, pw.target := 2 })
      else .next ((({ t with pw.wakePend := false } : State).setPstate 1).bootPhase 4) := by
  have restarts : ¬(s.pstate ≠ 5 ∨ ((!s.mayRestart) = true ∧ (!s.pw.wakePend) = true) ∨ s.pw.failN = true) := by
    rw [Bool.not_eq_true', Bool.not_eq_true']
    rintro (h5 | ⟨hm, hw⟩ | hn)
    · exact h5 hp
    · rcases h with h | h
      · exact Bool.false_ne_true (hm.symm.trans h)
      · exact Bool.false_ne_true (hw.symm.trans h)
    · exact Bool.false_ne_true (hf.symm.trans hn)
  exact (if_neg restarts).trans rfl

section
variable {s : State} {r : Req}

/-- THM_POLICY with rising thresholds within the maker's limits (R445). -/
theorem exec_thmPolicy_sets (ha : Instr.admitted (.thmPolicy r) s) (hl : s.takesEntry)
    (hg : s.gated r.src 5 1 = false) (h0 : argw r 2 ≤ s.th.maker.getD 0 114) (h1 : argw r 3 ≤ s.th.maker.getD 1 114)
    (h2 : argw r 4 ≤ s.th.maker.getD 2 114) (h01 : argw r 2 < argw r 3) (h12 : argw r 3 < argw r 4)
    (h3 : argw r 4 < 115) :
    let u := Instr.entered (.thmPolicy r) s
    exec (.thmPolicy r) s = .next
      (let w := u.setBoth 0x70000 (word (argw r 2 + argw r 3 * 256 + argw r 4 * 65536))
      let v := w.setBoth 0x70004 (putBit (w.reg (hubBase 0 + 0x70004)) 4 (argw r 1 == 1))
      let x := { v with th.units := v.th.units.map fun (e : Nat × ThUnit) =>
        (e.1, { e.2 with below := [none, none, none], slower := [none, none] }) }
      ((x.liveUnits.foldl State.judgeUnit x).savePolicy).finish r 0 []) := by
  have within : (List.range 3).any (fun k => decide (s.th.maker.getD k 114 < argw r (k + 2))) = false := by
    simp only [List.range_succ, List.range_zero, List.nil_append, List.cons_append, List.any_cons, List.any_nil,
      Bool.or_false, Bool.or_eq_false_iff, decide_eq_false_iff_not, Nat.not_lt]
    exact ⟨h0, h1, h2⟩
  have rising : decide (argw r 2 < argw r 3 ∧ argw r 3 < argw r 4 ∧ argw r 4 < 115) = true :=
    decide_eq_true ⟨h01, h12, h3⟩
  have ok : ¬((List.range 3).any (fun k => decide (s.th.maker.getD k 114 < argw r (k + 2))) = true ∨
      (!decide (argw r 2 < argw r 3 ∧ argw r 3 < argw r 4 ∧ argw r 4 < 115)) = true) := by
    rw [within, rising]
    exact not_or.2 ⟨Bool.false_ne_true, Bool.false_ne_true⟩
  refine congrArg Host.Outcome.next
    (State.command_c_ok (i := .thmPolicy r) (Instr.admitted_checks rfl ha) rfl rfl hl (fun code d hx => ?_) ?_)
  · rw [hg, if_neg Bool.false_ne_true, if_neg ok] at hx
    cases hx
  · rw [Instr.entered_gated, hg, if_neg Bool.false_ne_true, Instr.entered_th, if_neg ok]

end

/-- Settles O38: the rows of sensors, steps and trips by their guards, the commands by their admission and the limits they
keep. -/
theorem thermalControl : Obligations.Thermal_control := by
  refine ⟨?sample, ?noSample, ?stale, ?notStale, ?falls, ?lowest, ?rises, ?staysSlow, ?trip, ?tripStopping, ?tripHub,
    ?noTrip, ?restart, ?restartSaved, ?noRestart, ?thmRead,
    fun s r ha hl hg _ h0 h1 h2 h01 h12 h3 => exec_thmPolicy_sets ha hl hg h0 h1 h2 h01 h12 h3, ?policyRange, ?retire,
    ?retireUnit, ?pwrRead, ?pwrPolicy, ?pwrRange⟩
  case sample =>
    intro s u k hon hk hp
    refine if_neg ?_
    simp only [hon, Nat.not_le.2 hk, hp, Bool.not_true, Bool.false_eq_true, or_self, not_false_eq_true]
  case noSample =>
    intro s u k h
    refine if_pos ?_
    simpa only [Bool.not_eq_true'] using h
  case stale =>
    intro s u k hi hk hp hb ht
    refine if_neg ?_
    simp only [hi, Nat.not_le.2 hk, hp, Nat.not_le.2 ht, hb, Bool.false_eq_true, or_self, not_false_eq_true]
  case notStale =>
    intro s u k h
    exact if_pos (.inr (.inr (.inr h)))
  case falls =>
    intro s u n t hn hb ht
    show execThrottleStepFall u s = _
    simp only [execThrottleStepFall, hn, Nat.add_sub_cancel, hb, Nat.not_lt.2 ht, if_false]
  case lowest =>
    intro s u h0
    show execThrottleStepFall u s = _
    simp only [execThrottleStepFall, h0]
  case rises =>
    intro s u t hs ht hi
    show execSampleIntervalRise u s = _
    simp only [execSampleIntervalRise, hs, ht, decide_true, if_true]
    exact if_neg fun h => hi (Nat.le_zero.1 h)
  case staysSlow =>
    intro s u hs hi
    show execSampleIntervalRise u s = _
    simp only [execSampleIntervalRise, hs]
    exact if_pos hi
  case trip =>
    intro s u k hk hr ho hp h5 hu
    refine (exec_thermalTrip hp hk hr ho).trans ?_
    dsimp only
    rw [if_neg h5, if_neg (Nat.not_le.2 hu)]
  case tripStopping =>
    intro s u k hk hr ho h5 hu
    refine (exec_thermalTrip (by rw [h5]; decide) hk hr ho).trans ?_
    dsimp only
    rw [if_pos h5, if_neg (Nat.not_le.2 hu)]
  case tripHub =>
    intro s u k hk hr ho hp h5 hu
    refine (exec_thermalTrip hp hk hr ho).trans ?_
    dsimp only
    rw [if_neg h5, if_pos hu]
  case noTrip =>
    intro s u k h
    exact if_pos h
  case restart =>
    intro s t hp hf hc ht hs hb hv
    have few : s.mayRestart = true := by
      simp only [State.mayRestart, hc, ht, hs, hb, List.filter_nil, List.length_nil, Nat.zero_lt_succ, decide_true,
        Bool.and_self]
    refine (exec_autoRestart hp hf (.inl few)).trans ?_
    dsimp only
    exact if_neg (Bool.eq_false_iff.1 hv)
  case restartSaved =>
    intro s hp hf hw hv
    refine (exec_autoRestart hp hf (.inr hw)).trans ?_
    dsimp only
    rw [if_pos hv, if_pos hw]
  case noRestart =>
    intro s h
    exact if_pos (h.imp id .inr)
  case thmRead =>
    intro s r ha
    exact congrArg Host.Outcome.next (State.command_ok (Instr.admitted_checks rfl ha) rfl rfl)
  case policyRange =>
    intro s r ha hg _ h
    refine congrArg Host.Outcome.next (State.command_refuse (Instr.admitted_checks rfl ha) ?_)
    have falling : decide (argw r 2 < argw r 3 ∧ argw r 3 < argw r 4 ∧ argw r 4 < 115) = false :=
      decide_eq_false (by omega)
    refine (if_neg (Bool.eq_false_iff.1 hg)).trans (if_pos (.inr ?_))
    exact congrArg Bool.not falling
  case retire =>
    intro s r ha hl hu hk
    have hu' := ((Instr.entered_beside (.thmRetire r) s).noUnit (argw r 1)).trans hu
    refine congrArg Host.Outcome.next
      (State.command_c_ok (i := .thmRetire r) (Instr.admitted_checks rfl ha) rfl rfl hl (fun code d hx => ?_) ?_)
    · rw [if_neg (Bool.eq_false_iff.1 hu), if_neg (Nat.not_le.2 hk)] at hx
      cases hx
    · exact (if_neg (Bool.eq_false_iff.1 hu')).trans (if_neg (Nat.not_le.2 hk))
  case retireUnit =>
    intro s r ha hu
    exact congrArg Host.Outcome.next (State.command_refuse (Instr.admitted_checks rfl ha) (if_pos hu))
  case pwrRead =>
    intro s r ha
    exact congrArg Host.Outcome.next (State.command_ok (Instr.admitted_checks rfl ha) rfl rfl)
  case pwrPolicy =>
    intro s r ha hl hg hlo hhi
    have range : ¬(argw r 3 < 80 ∨ s.th.maker.getD 3 240 < argw r 3) := not_or.2 ⟨Nat.not_lt.2 hlo, Nat.not_lt.2 hhi⟩
    refine congrArg Host.Outcome.next
      (State.command_c_ok (i := .pwrPolicy r) (Instr.admitted_checks rfl ha) rfl rfl hl (fun code d hx => ?_) ?_)
    · rw [hg, if_neg Bool.false_ne_true, if_neg range] at hx
      cases hx
    · rw [Instr.entered_gated, hg, if_neg Bool.false_ne_true, Instr.entered_th, if_neg range]
  case pwrRange =>
    intro s r ha hg hc
    refine congrArg Host.Outcome.next (State.command_refuse (Instr.admitted_checks rfl ha) ?_)
    exact (if_neg (Bool.eq_false_iff.1 hg)).trans (if_pos (.inl hc))

/-! Power states. -/

/-- An entry to Drowsy waits for the boards, the frames and the engines (R109, R435). -/
theorem exec_drowsyEntry (s : State) : exec .drowsyEntry s =
    if s.pw.entering ≠ some 3 ∨ s.pstate ≠ 2 ∨ (((s.boards.any fun e => e.2.sb != []) ||
      (s.frames.any fun e => e.2.stroke.isSome || e.2.queue != []) || !s.engines.isEmpty) = true) then .next s
    else .next (((s.endEntry.linksFrom 2 3).enter 3).powerReached 3) := rfl

/-- An entry to Dormant waits for every step started, for the broadcasts in flight and for the engines (R109, R435). -/
theorem exec_dormantEntry (s : State) : exec .dormantEntry s =
    if s.pw.entering ≠ some 4 ∨ (s.pstate ≠ 2 ∧ s.pstate ≠ 3) ∨ (((s.boards.any fun e => e.2.steps != [] ||
      e.2.cur.isSome || e.2.sb != [] || e.2.endPend != []) || (s.inFabric.any fun p => p.type == 7) ||
      !s.engines.isEmpty) = true) then .next s
    else .next ((((s.endEntry.saveArrays false).arraysOff false).enter 4).powerReached 4) := rfl

/-- Settles O39: each event by the guard of its row. -/
theorem powerStates : Obligations.Power_states := by
  refine ⟨?fails, ?failsAgain, ?ends, ?endsHalted, ?endsOutOfRange, ?endsAgain, fun s above => rfl, ?brown, ?notBrown,
    ?brown1, ?noBrown1, ?brown100, ?noBrown100, ?brownEnd, ?brownEndHalted, ?noBrownEnd, ?lost, ?inRange, ?high,
    ?normal, ?between, ?resetLong, ?resetMid, ?resetShort, fun s => rfl, ?refclk, ?noRefclk, ?drowsy, ?notDrowsy,
    ?dormant, ?notDormant, ?drowsyIn, ?drowsyWaits, ?dormantIn, ?dormantWaits, ?wake, ?noWake, ?wakeDrowsy,
    ?noWakeDrowsy, ?noFrames, ?overdue⟩
  case fails =>
    intro s hf
    exact if_neg (Bool.eq_false_iff.1 hf)
  case failsAgain =>
    intro s hf
    exact if_pos hf
  case ends =>
    intro s hf hh
    refine (if_neg (not_bang hf)).trans (congrArg Host.Outcome.next (if_neg fun hc => ?_))
    exact Bool.false_ne_true (hh.symm.trans hc.1)
  case endsHalted =>
    intro s hf hh hlo hhi
    exact (if_neg (not_bang hf)).trans (congrArg Host.Outcome.next (if_pos ⟨hh, hlo, hhi⟩))
  case endsOutOfRange =>
    intro s hf hh hv
    refine (if_neg (not_bang hf)).trans (congrArg Host.Outcome.next (if_neg fun hc => ?_))
    obtain ⟨-, hlo, hhi⟩ := hc
    exact hv.elim (Nat.not_lt.2 hlo) (Nat.not_lt.2 hhi)
  case endsAgain =>
    intro s hf
    exact if_pos (bang hf)
  case brown =>
    intro s mv hlo hhi hp
    exact if_neg (not_or.2 ⟨Nat.not_lt.2 hlo, not_or.2 ⟨Nat.not_le.2 hhi, hp⟩⟩)
  case notBrown =>
    intro s mv h
    exact if_pos h
  case brown1 =>
    intro s t hb ht hh
    show execBrownOut1ms s = _
    simp only [execBrownOut1ms, hb]
    exact if_neg (not_or.2 ⟨Nat.not_lt.2 ht, Bool.eq_false_iff.1 hh⟩)
  case noBrown1 =>
    intro s hb
    show execBrownOut1ms s = _
    simp only [execBrownOut1ms, hb]
  case brown100 =>
    intro s t hb ht hd
    show execBrownOut100ms s = _
    simp only [execBrownOut100ms, hb]
    exact if_neg (not_or.2 ⟨Nat.not_lt.2 ht, Bool.eq_false_iff.1 hd⟩)
  case noBrown100 =>
    intro s hb
    show execBrownOut100ms s = _
    simp only [execBrownOut100ms, hb]
  case brownEnd =>
    intro s hb hh
    refine (if_neg ?_).trans (congrArg Host.Outcome.next (if_neg fun hc => Bool.false_ne_true (hh.symm.trans hc.1)))
    rw [Option.isNone_iff_eq_none]
    exact Option.isSome_iff_ne_none.1 hb
  case brownEndHalted =>
    intro s hb hh hf
    refine (if_neg ?_).trans (congrArg Host.Outcome.next (if_pos ⟨hh, congrArg Bool.not hf⟩))
    rw [Option.isNone_iff_eq_none]
    exact Option.isSome_iff_ne_none.1 hb
  case noBrownEnd =>
    intro s hb
    exact if_pos (Option.isNone_iff_eq_none.2 hb)
  case lost =>
    intro s vin vsb h
    exact if_neg (by omega)
  case inRange =>
    intro s vin vsb hlo hhi hs
    exact if_pos ⟨hlo, hhi, hs⟩
  case high =>
    intro s mv h
    exact congrArg Host.Outcome.next (if_pos h)
  case normal =>
    intro s mv hlo hhi
    exact congrArg Host.Outcome.next ((if_neg (by omega)).trans (if_pos ⟨hlo, hhi⟩))
  case between =>
    intro s mv h hhi
    exact congrArg Host.Outcome.next ((if_neg (Nat.not_lt.2 hhi)).trans (if_neg (by omega)))
  case resetLong =>
    intro s ns hn hp
    have full : ¬(1000 ≤ ns ∧ ns < 10000) := by omega
    show execResetNLow ns s = _
    simp only [execResetNLow, hn, full, hp, if_true, if_false, Bool.not_true, Bool.false_eq_true, or_self]
  case resetMid =>
    intro s ns hlo hhi hp
    have take : (s.take 1).pstate ≠ 0 := hp
    show execResetNLow ns s = _
    simp only [execResetNLow, Nat.not_le.2 hhi, Nat.not_lt.2 hlo, hlo, hhi, and_self, if_true, if_false, take, false_or]
    cases Config.freeBit s.fresh <;> rfl
  case resetShort =>
    intro s ns h
    have full : ¬(1000 ≤ ns ∧ ns < 10000) := by omega
    show execResetNLow ns s = _
    simp only [execResetNLow, full, if_false]
    rcases h with h | ⟨-, hp⟩
    · simp only [h, show ¬10000 ≤ ns by omega, if_true, if_false, Bool.not_false, or_true]
    · exact if_pos (.inl hp)
  case refclk =>
    intro s h
    exact if_neg (not_bang h)
  case noRefclk =>
    intro s h
    exact if_pos (bang h)
  case drowsy =>
    intro s hp he hi
    exact if_pos ⟨hp, Option.isNone_iff_eq_none.2 he, hi⟩
  case notDrowsy =>
    intro s h
    refine if_neg ?_
    rintro ⟨hp, he, hi⟩
    rcases h with h | h | h
    · exact h hp
    · exact Option.isSome_iff_ne_none.1 h (Option.isNone_iff_eq_none.1 he)
    · exact Bool.false_ne_true (h.symm.trans hi)
  case dormant =>
    intro s hp he hi
    exact if_pos ⟨hp, Option.isNone_iff_eq_none.2 he, hi⟩
  case notDormant =>
    intro s h
    refine if_neg ?_
    rintro ⟨hp, he, hi⟩
    rcases h with ⟨h2, h3⟩ | h | h
    · exact hp.elim h2 h3
    · exact Option.isSome_iff_ne_none.1 h (Option.isNone_iff_eq_none.1 he)
    · exact Bool.false_ne_true (h.symm.trans hi)
  case drowsyIn =>
    intro s he hp hb hf hn
    rw [exec_drowsyEntry, hb, hf, hn, he, hp]
    rfl
  case drowsyWaits =>
    intro s h
    rw [exec_drowsyEntry]
    refine if_pos ?_
    rw [Bool.or_eq_true, Bool.or_eq_true, Bool.not_eq_true', or_assoc]
    exact h
  case dormantIn =>
    intro s he hp hb hf hn
    rw [exec_dormantEntry, hb, hf, hn]
    refine if_neg ?_
    rintro (h | ⟨h2, h3⟩ | h)
    · exact h he
    · exact hp.elim h2 h3
    · exact absurd h (by decide)
  case dormantWaits =>
    intro s h
    rw [exec_dormantEntry]
    refine if_pos ?_
    rw [Bool.or_eq_true _ (!_), Bool.or_eq_true, Bool.not_eq_true', or_assoc]
    exact h
  case wake =>
    intro s hp hw ht hf hb
    have asleep : (s.pstate == 4 || (s.pstate == 5 && s.th.stopSaved)) = true := by
      simpa only [Bool.or_eq_true, Bool.and_eq_true, beq_iff_eq] using hp
    have clear : (!s.pw.brownDorm || (s.pw.brownAt.isNone && decide (s.pw.okAt + 1000000000 ≤ s.now))) = true := by
      simpa only [Bool.or_eq_true, Bool.and_eq_true, Bool.not_eq_true', Option.isNone_iff_eq_none, decide_eq_true_eq]
        using hb
    refine if_neg ?_
    simp only [asleep, clear, hw, Nat.not_lt.2 ht, hf, Bool.not_true, Bool.false_eq_true, or_self, not_false_eq_true]
  case noWake =>
    intro s h
    refine if_pos (.inr ?_)
    rw [Bool.not_eq_true']
    rcases h with h | h | h
    · exact .inl h
    · exact .inr (.inl h)
    · exact .inr (.inr (.inl h))
  case wakeDrowsy =>
    intro s hp hw ht
    refine if_neg ?_
    simp only [hp, hw, Nat.not_lt.2 ht, ne_eq, not_true, Bool.not_true, Bool.false_eq_true, or_self, not_false_eq_true]
  case noWakeDrowsy =>
    intro s h
    refine if_pos ?_
    simpa only [Bool.not_eq_true'] using h
  case noFrames =>
    intro s hf
    show execOverdueRecountWake s = _
    rw [execOverdueRecountWake, hf]
    rfl
  case overdue =>
    intro s k y p hm hst hp hfmt hdue
    refine congrArg Host.Outcome.next (if_pos (List.any_eq_true.2 ⟨(k, y), hm, Bool.and_eq_true_iff.2 ⟨?_, ?_⟩⟩))
    · simpa only [Bool.or_eq_true, beq_iff_eq, or_assoc] using hst
    · exact List.any_eq_true.2 ⟨p, List.mem_range.2 hp, Bool.and_eq_true_iff.2 ⟨bne_iff_ne.2 hfmt, decide_eq_true hdue⟩⟩

end Sys2Proof.Machine
end
